-- ==== Sys2Proof/Word.lean ====
section
/-! DEFINITION. The word types: a byte, a 64-bit register value, a run of bytes, and a table by number. -/

namespace Sys2Proof

/-- One byte. -/
abbrev Byte := BitVec 8

/-- The contents of a register of up to 64 bits. -/
abbrev W64 := BitVec 64

/-- Bytes in ascending address order (R4). -/
abbrev Bytes := List Byte

/-- A table of like things by number: pairs in rising order of the number.
What a number that is not listed stands for is said by the accessor of each table. -/
abbrev Tab (α : Type) := List (Nat × α)

end Sys2Proof
end

