-- ==== Sys2Proof/Syntax.lean ====
section
/-! DEFINITION. The commands of the PK1200: the operations and events of the specification's table, with what the
outside world supplies to each.  A command carries what reaches the device from outside: a port number, the bytes of
a write, the answer of a host, a peer or a regulator. -/

namespace Sys2Proof

/-- What an agent outside the device answers to an access: the bytes read (none for a write), or an error status. -/
inductive FarAnswer where
  | data (bytes : Bytes)
  | err (status : Nat)
  deriving DecidableEq, Repr

/-- The answers of peers, hosts and CXL caches to the accesses of one command, by the unified line they stand for. -/
abbrev Far := List (Nat × FarAnswer)

/-- An agent's answer to a snoop (R347, R352). -/
inductive SnoopAnswer where
  /-- no dirty data; the copy stays (SNP_SHARE) or goes (SNP_INV) -/
  | clean
  /-- the agent had already dropped the line -/
  | dropped
  /-- dirty data -/
  | dirty (bytes : Bytes)
  /-- writeback in flight, without data -/
  | writeback
  /-- the agent has failed -/
  | failed
  deriving DecidableEq, Repr

/-- Who issues a register access: a host through BAR0 or BAR2 of a port, the compositor, a floe agent, or the scalar
engine of a core through its alias (R22, R28, R118). -/
inductive Issuer where
  | host (port : Nat)
  | bar2 (port : Nat)
  | compositor
  | agent (floe : Nat)
  | core (core : Nat)
  deriving DecidableEq, Repr

/-- The straps as sampled at the rising edge of RESET_N (R534). -/
structure Straps where
  slotId : Nat
  bootMode : Nat
  deriving DecidableEq, Repr

/-- What the peer sends in PARAM (R372, R519). -/
structure ParamInfo where
  node : Nat
  epoch : Nat
  version : Nat
  partner : Nat
  credits : List Nat
  txLat : Nat
  rxLat : Nat
  deriving DecidableEq, Repr

/-- A cell arriving at a switch port (R375): its frame, its place in the frame, and whether its check holds. -/
structure Cell where
  frame : Nat
  output : Nat
  cls : Nat
  index : Nat
  count : Nat
  ok : Bool
  bytes : Bytes
  src : Nat
  dst : Nat
  ctx : Nat
  deriving DecidableEq, Repr

/-- A node entry of the domain map (R474). -/
structure NodeEntry where
  state : Nat
  manager : Bool
  twinValid : Bool
  twin : Nat
  stateEpoch : Nat
  keyId : Nat
  /-- one peer node for each Golven link -/
  peers : List Nat
  /-- the link is up -/
  ups : List Bool
  deriving DecidableEq, Repr

/-- A member entry of a forme (R488). -/
structure Member where
  node : Nat
  roles : Nat
  attached : Bool
  ports : Nat
  poolPage : Nat
  poolPages : Nat
  deriving DecidableEq, Repr

/-- A forme record (R474). -/
structure FormeRec where
  id : Nat
  state : Nat
  epoch : Nat
  members : List Member
  deriving DecidableEq, Repr

/-- The domain map (R474). -/
structure DomainMap where
  epoch : Nat
  domain : Nat
  partner : Nat
  managerCount : Nat
  managers : List Nat
  nodes : List (Nat × NodeEntry)
  formes : List FormeRec
  deriving DecidableEq, Repr

/-- A proposal of a map change (R479): its epoch and the map as changed. -/
structure Proposal where
  epoch : Nat
  map : DomainMap
  deriving DecidableEq, Repr

/-- The payload of a handoff frame (R494). -/
structure HandoffMsg where
  seqId : Nat
  epoch : Nat
  donor : Nat
  recipient : Nat
  state : Nat
  reason : Nat
  shape : Nat
  deriving DecidableEq, Repr

/-- The end of boot step 5 (R503): the floes that are ON, the capacity of each stack and bulk channel in service in
GiB (0 for one that failed training), and the channels with an energy-backed module (R110). -/
structure Training where
  floes : List Bool
  stackCaps : List Nat
  bulks : List Nat
  backed : List Bool
  deriving DecidableEq, Repr

/-- A low-power change of a CXL link as the host directs (R365). -/
inductive LowPower where
  | l1
  | l0p (width : Nat)
  | full
  deriving DecidableEq, Repr

/-- What a CXL link trained to (R361): `flit` tells 256B flit mode, `slow` and `narrow` that the host's end takes no more than
32 GT/s and x8. -/
structure LinkForm where
  flit : Bool
  slow : Bool
  narrow : Bool
  deriving DecidableEq, Repr

/-- An integer atomic or exact-add (R317): operation code, width in bytes, operand and, for CAS, the new value; the
cell bytes for EXACT_ADD. -/
structure Atomic where
  op : Nat
  off : Nat
  size : Nat
  a : Nat
  b : Nat
  deriving DecidableEq, Repr

/-- The commands: one constructor for each row of the specification's table of operations and events. -/
inductive Instr where
  /-- `POST` (R33) -/
  | post (port : Nat) (mb : Nat)
  /-- `REQ_DATA_WRITE` (R34) -/
  | reqDataWrite (port : Nat) (mb : Nat) (off : Nat) (bytes : List Byte)
  /-- `RSP_HDR_READ` (R35) -/
  | rspHdrRead (port : Nat) (mb : Nat) (off : Nat) (size : Nat)
  /-- `REQUEST_TAKE` (R36) -/
  | requestTake (mb : Nat)
  /-- `REPLY_WRITE` (R35) -/
  | replyWrite (mb : Nat)
  /-- `SERVICE_TIMEOUT` (R38) -/
  | serviceTimeout (mb : Nat)
  /-- `SET_ASIDE_SERVE` (R45) -/
  | setAsideServe (mb : Nat)
  /-- `DOORBELL_CLEAR` (R59) -/
  | doorbellClear (port : Nat) (mb : Nat) (bits : BitVec 32)
  /-- `DB_MASK_WRITE` (R37) -/
  | dbMaskWrite (port : Nat) (mb : Nat) (bits : BitVec 32)
  /-- `IDENTIFY` (R47) -/
  | identify (mb : Nat)
  /-- `STATUS` (R47) -/
  | status (mb : Nat)
  /-- `EVENT_READ` (R59) -/
  | eventRead (mb : Nat)
  /-- `ERROR_READ` (R446) -/
  | errorRead (mb : Nat)
  /-- `MAILBOX_BIND` (R41) -/
  | mailboxBind (mb : Nat)
  /-- `FIELD_READ` (R54) -/
  | fieldRead (mb : Nat)
  /-- `FIELD_WRITE` (R56) -/
  | fieldWrite (mb : Nat)
  /-- `FLOE_POWER_OFF` (R18) -/
  | floePowerOff (mb : Nat)
  /-- `FLOE_POWER_ON` (R19) -/
  | floePowerOn (mb : Nat)
  /-- `FLOE_DRAIN_DONE` (R19) -/
  | floeDrainDone (f : Nat)
  /-- `FLOE_DRAIN_TIMEOUT` (R20) -/
  | floeDrainTimeout (f : Nat)
  /-- `FLOE_WAKE_DONE` (R19) -/
  | floeWakeDone (f : Nat)
  /-- `OBJ_CREATE` (R51) -/
  | objCreate (mb : Nat)
  /-- `OBJ_MODIFY` (R52) -/
  | objModify (mb : Nat)
  /-- `OBJ_QUERY` (R53) -/
  | objQuery (mb : Nat)
  /-- `OBJ_DESTROY` (R51) -/
  | objDestroy (mb : Nat)
  /-- `DECODER_BIND` (R75) -/
  | decoderBind (mb : Nat)
  /-- `REGION_PUBLISH` (R80) -/
  | regionPublish (mb : Nat)
  /-- `REGION_BIND` (R82) -/
  | regionBind (mb : Nat)
  /-- `REGION_RELEASE` (R83) -/
  | regionRelease (mb : Nat)
  /-- `VERSION_RETIRE` (R84) -/
  | versionRetire (region : Nat) (ver : Nat)
  /-- `RANGE_RETIRE` (R68) -/
  | rangeRetire (ctx : Nat)
  /-- `CONTEXT_RESET` (R468) -/
  | contextReset (mb : Nat)
  /-- `RESET_DRAIN_EXPIRE` (R468) -/
  | resetDrainExpire (ctx : Nat)
  /-- `RESET_PURGE` (R468) -/
  | resetPurge (ctx : Nat)
  /-- `RECLAIM` (R357) -/
  | reclaim (mb : Nat)
  /-- `ORPHAN_LOG_READ` (R356) -/
  | orphanLogRead (mb : Nat)
  /-- `FORME_CHANGE` (R489) -/
  | formeChange (mb : Nat)
  /-- `MAP_READ` (R475) -/
  | mapRead (mb : Nat)
  /-- `SEQ_HANDOFF_GIVE` (R492) -/
  | seqHandoffGive (mb : Nat)
  /-- `SEQ_HANDOFF_ARM` (R492) -/
  | seqHandoffArm (mb : Nat)
  /-- `SEQ_HANDOFF_RESOLVE` (R495) -/
  | seqHandoffResolve (mb : Nat)
  /-- `GIVE_REPLY_TIMEOUT` (R492) -/
  | giveReplyTimeout (sslot : Nat)
  /-- `IMAGE_PUSH` (R507) -/
  | imagePush (mb : Nat)
  /-- `CONFIG_PUSH` (R512) -/
  | configPush (mb : Nat)
  /-- `FLASH_WRITE_DONE` (R508) -/
  | flashWriteDone
  /-- `REGISTER_WRITE` (R8) -/
  | registerWrite (iss : Issuer) (off : Nat) (size : Nat) (val : Nat)
  /-- `CXL_MEM_READ` (R76) -/
  | cxlMemRead (port : Nat) (hpa : Nat) (far : Far)
  /-- `CXL_MEM_WRITE` (R76) -/
  | cxlMemWrite (port : Nat) (hpa : Nat) (bytes : List Byte) (mask : BitVec 64) (far : Far)
  /-- `TOUCH_FAULT_DMA_DONE` (R100) -/
  | touchFaultDmaDone (page : Nat) (ans : FarAnswer)
  /-- `PACKED_DECODE_DONE` (R97) -/
  | packedDecodeDone (page : Nat) (blk : Nat)
  /-- `PLC_EPOCH_SWEEP` (R93) -/
  | plcEpochSweep (f : Nat)
  /-- `MOVE_START` (R103) -/
  | moveStart (f : Nat)
  /-- `MOVE_COPY_DONE` (R103) -/
  | moveCopyDone (page : Nat)
  /-- `MOVE_RELEASE` (R103) -/
  | moveRelease (page : Nat)
  /-- `MOVE_COPY_TIMEOUT` (R105) -/
  | moveCopyTimeout (page : Nat)
  /-- `DEADLINE_EXPIRE` (R101) -/
  | deadlineExpire (tag : Nat) (units : List Nat)
  /-- `MIGRATE` (R106) -/
  | migrate (tag : Nat) (far : Far)
  /-- `PREFETCH` (R107) -/
  | prefetch (tag : Nat) (far : Far)
  /-- `CACHE_FLUSH` (R108) -/
  | cacheFlush (f : Nat)
  /-- `CACHE_FLUSH_DONE` (R108) -/
  | cacheFlushDone (f : Nat)
  /-- `TNOP` (R171) -/
  | tnop (c : Nat) (st : Nat)
  /-- `MZERO` (R172) -/
  | mzero (c : Nat)
  /-- `MLOAD` (R172) -/
  | mload (c : Nat)
  /-- `MMUL` (R173) -/
  | mmul (c : Nat)
  /-- `MSTORE` (R172) -/
  | mstore (c : Nat)
  /-- `VLD` (R174) -/
  | vld (c : Nat)
  /-- `VST` (R174) -/
  | vst (c : Nat)
  /-- `VOP` (R174) -/
  | vop (c : Nat)
  /-- `VRED` (R174) -/
  | vred (c : Nat)
  /-- `VFN` (R174) -/
  | vfn (c : Nat)
  /-- `VQNT` (R174) -/
  | vqnt (c : Nat)
  /-- `XLD` (R175) -/
  | xld (c : Nat) (st : Nat) (far : Far)
  /-- `XST` (R175) -/
  | xst (c : Nat) (st : Nat) (far : Far)
  /-- `XSTI` (R175) -/
  | xsti (c : Nat) (st : Nat) (far : Far)
  /-- `XADD` (R175) -/
  | xadd (c : Nat) (st : Nat) (far : Far)
  /-- `DCHAIN` (R393) -/
  | dchain (c : Nat) (ch : Nat)
  /-- `SWAIT` (R177) -/
  | swait (c : Nat)
  /-- `SSIGNAL` (R177) -/
  | ssignal (c : Nat)
  /-- `SPULSE` (R177) -/
  | spulse (c : Nat)
  /-- `SDRAIN` (R177) -/
  | sdrain (c : Nat)
  /-- `SEND` (R178) -/
  | send (c : Nat)
  /-- `ISSUE_STALL_RELEASE` (R165) -/
  | issueStallRelease (c : Nat)
  /-- `TOKEN_WAIT_RELEASE` (R123) -/
  | tokenWaitRelease (c : Nat) (st : Nat)
  /-- `INSTRUCTION_COMPLETE` (R131) -/
  | instructionComplete (c : Nat) (st : Nat)
  /-- `EVENT_PULSE` (R125) -/
  | eventPulse (c : Nat) (eline : Nat) (cnt : Nat)
  /-- `SCALAR_LOAD` (R119) -/
  | scalarLoad (c : Nat) (addr : Nat) (size : Nat) (rd : Nat) (uns : Bool) (far : Far)
  /-- `SCALAR_STORE` (R119) -/
  | scalarStore (c : Nat) (addr : Nat) (size : Nat) (val : Nat) (far : Far)
  /-- `SCALAR_AMO` (R120): `op` is the code of R317 -/
  | scalarAmo (c : Nat) (op : Nat) (addr : Nat) (size : Nat) (val : Nat) (rd : Nat) (far : Far)
  /-- `SCALAR_LR_SC` (R120) -/
  | scalarLrSc (c : Nat) (sc : Bool) (addr : Nat) (size : Nat) (val : Nat) (rd : Nat)
  /-- `SCALAR_TRAP` (R114) -/
  | scalarTrap (c : Nat) (cause : Nat)
  /-- `CORE_STOP` (R128) -/
  | coreStop (c : Nat)
  /-- `CLEAR_FAULT` (R128) -/
  | clearFault (c : Nat)
  /-- `CORE_WATCHDOG` (R128) -/
  | coreWatchdog (c : Nat)
  /-- `CORE_STOP_DONE` (R128) -/
  | coreStopDone (c : Nat)
  /-- `RUN` (R184) -/
  | run (tag : Nat)
  /-- `CORE_ASSIGN` (R185) -/
  | coreAssign (tag : Nat)
  /-- `KERNEL_LOAD_DONE` (R182) -/
  | kernelLoadDone (c : Nat) (far : Far)
  /-- `PREFETCHER_ENABLE` (R127) -/
  | prefetcherEnable (c : Nat) (pf : Nat) (on : Bool)
  /-- `PREFETCH_LINE_ISSUE` (R127) -/
  | prefetchLineIssue (c : Nat) (pf : Nat)
  /-- `CMD_TAIL_WRITE` (R195) -/
  | cmdTailWrite (port : Nat) (ctx : Nat) (g : Nat) (val : Nat)
  /-- `PROOF_HEAD_WRITE` (R195) -/
  | proofHeadWrite (port : Nat) (ctx : Nat) (g : Nat) (val : Nat)
  /-- `GALLEY_START` (R199) -/
  | galleyStart (port : Nat) (ctx : Nat) (g : Nat)
  /-- `GALLEY_STOP` (R199) -/
  | galleyStop (port : Nat) (ctx : Nat) (g : Nat)
  /-- `GALLEY_STOP_ABORT` (R200) -/
  | galleyStopAbort (port : Nat) (ctx : Nat) (g : Nat)
  /-- `CLEAR_HALT` (R216) -/
  | clearHalt (port : Nat) (ctx : Nat) (g : Nat)
  /-- `DROPPED_READ` (R197) -/
  | droppedRead (port : Nat) (ctx : Nat) (g : Nat)
  /-- `TAIL_SHADOW_POLL` (R196) -/
  | tailShadowPoll (ctx : Nat) (g : Nat) (far : Far)
  /-- `COMMAND_FETCH` (R201) -/
  | commandFetch (f : Nat) (far : Far)
  /-- `AFTER_PREV_START` (R205) -/
  | afterPrevStart (tag : Nat)
  /-- `PROOF_WRITE` (R214) -/
  | proofWrite (ctx : Nat) (g : Nat)
  /-- `PROOF_WRITE_ACK` (R214) -/
  | proofWriteAck (ctx : Nat) (g : Nat)
  /-- `COAL_TIMER_EXPIRE` (R217) -/
  | coalTimerExpire (ctx : Nat) (g : Nat)
  /-- `FENCE` (R209) -/
  | fence (tag : Nat)
  /-- `FENCE_COMPLETE` (R209) -/
  | fenceComplete (tag : Nat)
  /-- `IMPRESS` (R210) -/
  | impress (tag : Nat)
  /-- `NOP` (R211) -/
  | nop (tag : Nat)
  /-- `ATTEND` (R241) -/
  | attend (tag : Nat) (far : Far)
  /-- `ATTEND_MERGE` (R245) -/
  | attendMerge (tag : Nat) (far : Far)
  /-- `GATHER` (R262) -/
  | gather (tag : Nat) (far : Far)
  /-- `SCATTER_GRAD` (R266) -/
  | scatterGrad (tag : Nat) (far : Far)
  /-- `ROW_REPLACE` (R269) -/
  | rowReplace (tag : Nat) (far : Far)
  /-- `ROW_CHANGE_RESUME` (R256) -/
  | rowChangeResume (tag : Nat) (far : Far)
  /-- `GENERATION_COMMIT` (R270) -/
  | generationCommit (tag : Nat)
  /-- `SEARCH` (R286) -/
  | search (tag : Nat) (far : Far)
  /-- `INDEX_INSERT` (R292) -/
  | indexInsert (tag : Nat) (far : Far)
  /-- `INDEX_DELETE` (R293) -/
  | indexDelete (tag : Nat) (far : Far)
  /-- `ENCODE` (R308) -/
  | encode (tag : Nat) (far : Far)
  /-- `DECODE` (R309) -/
  | decode (tag : Nat) (far : Far)
  /-- `CODEC_BLOCK_DONE` (R310) -/
  | codecBlockDone (tag : Nat) (k : Nat)
  /-- `FILL` (R331) -/
  | fill (tag : Nat) (far : Far)
  /-- `COPY` (R332) -/
  | copy (tag : Nat) (far : Far)
  /-- `COMPARE` (R333) -/
  | compare (tag : Nat) (far : Far)
  /-- `REDUCE` (R334) -/
  | reduce (tag : Nat) (far : Far)
  /-- `READ` (R319) -/
  | read (utag : Nat)
  /-- `WRITE` (R319) -/
  | write (utag : Nat)
  /-- `ADD` (R318) -/
  | add (utag : Nat)
  /-- `AND` (R318) -/
  | and (utag : Nat)
  /-- `OR` (R318) -/
  | or (utag : Nat)
  /-- `XOR` (R318) -/
  | xor (utag : Nat)
  /-- `MIN` (R318) -/
  | min (utag : Nat)
  /-- `MAX` (R318) -/
  | max (utag : Nat)
  /-- `UMIN` (R318) -/
  | umin (utag : Nat)
  /-- `UMAX` (R318) -/
  | umax (utag : Nat)
  /-- `SWAP` (R318) -/
  | swap (utag : Nat)
  /-- `CAS` (R318) -/
  | cas (utag : Nat)
  /-- `EXACT_ADD` (R318) -/
  | exactAdd (utag : Nat)
  /-- `FILL_RUN` (R330) -/
  | fillRun (utag : Nat)
  /-- `COPY_RUN` (R332) -/
  | copyRun (utag : Nat)
  /-- `COMPARE_RUN` (R333) -/
  | compareRun (utag : Nat)
  /-- `REDUCE_PART` (R334) -/
  | reducePart (utag : Nat)
  /-- `FABRIC_ACK` (R321) -/
  | fabricAck (utag : Nat)
  /-- `FABRIC_TIMEOUT` (R323) -/
  | fabricTimeout (utag : Nat)
  /-- `FINAL_WRITE_RELEASE` (R322) -/
  | finalWriteRelease (utag : Nat)
  /-- `READ_COMBINE_EXPIRE` (R325) -/
  | readCombineExpire (ga : Nat)
  /-- `ATOMIC_HOLD_EXPIRE` (R326) -/
  | atomicHoldExpire (ga : Nat)
  /-- `DEDUP_ENTRY_EXPIRE` (R455) -/
  | dedupEntryExpire (utag : Nat)
  /-- `DEDUP_REFUSAL_END` (R456) -/
  | dedupRefusalEnd
  /-- `RD_SHARED` (R347) -/
  | rdShared (agent : Nat) (line : Nat)
  /-- `RD_OWN` (R347) -/
  | rdOwn (agent : Nat) (line : Nat)
  /-- `UPGRADE` (R347) -/
  | upgrade (agent : Nat) (line : Nat)
  /-- `WB` (R347) -/
  | wb (agent : Nat) (line : Nat) (bytes : List Byte) (keep : Bool) (poison : Bool)
  /-- `EVICT` (R347) -/
  | evict (agent : Nat) (line : Nat)
  /-- `NC_RD` (R350) -/
  | ncRd (line : Nat)
  /-- `NC_WR` (R350) -/
  | ncWr (line : Nat) (bytes : List Byte) (mask : BitVec 64)
  /-- `NC_ATOMIC` (R350) -/
  | ncAtomic (line : Nat) (aop : Atomic)
  /-- `SNP_SHARE` (R347) -/
  | snpShare (agent : Nat) (line : Nat)
  /-- `SNP_INV` (R347) -/
  | snpInv (agent : Nat) (line : Nat)
  /-- `SNOOP_RESPONSE` (R348) -/
  | snoopResponse (agent : Nat) (line : Nat) (snp : SnoopAnswer)
  /-- `DIR_REQ_DEQUEUE` (R347) -/
  | dirReqDequeue (line : Nat)
  /-- `SNOOP_TIMEOUT` (R352) -/
  | snoopTimeout (agent : Nat) (line : Nat)
  /-- `COHERENCE_WALK_DONE` (R353) -/
  | coherenceWalkDone (f : Nat)
  /-- `DIR_FLUSH` (R358) -/
  | dirFlush (f : Nat)
  /-- `DIR_FLUSH_DONE` (R358) -/
  | dirFlushDone (f : Nat)
  /-- `DIR_PROBE` (R358) -/
  | dirProbe (f : Nat) (addr : Nat)
  /-- `PORT_ENABLE` (R368) -/
  | portEnable (port : Nat) (on : Bool)
  /-- `CXL_LINK_DOWN` (R353) -/
  | cxlLinkDown (port : Nat)
  /-- `CXL_LINK_UP` (R365): `form` is what the link trained to (R361) -/
  | cxlLinkUp (port : Nat) (form : LinkForm)
  /-- `PERST_N_ASSERT` (R535) -/
  | perstNAssert (port : Nat)
  /-- `PERST_N_DEASSERT` (R535) -/
  | perstNDeassert (port : Nat)
  /-- `GPF_PHASE1` (R366) -/
  | gpfPhase1 (port : Nat)
  /-- `GPF_PHASE2` (R366) -/
  | gpfPhase2 (port : Nat)
  /-- `CXLIO_COMPLETION` (R367) -/
  | cxlioCompletion (port : Nat) (io : Nat) (ans : FarAnswer)
  /-- `CPL_TIMEOUT` (R367) -/
  | cplTimeout (port : Nat) (io : Nat)
  /-- `IDENTIFY_MEMORY_DEVICE` (R361) -/
  | identifyMemoryDevice (port : Nat)
  /-- `GET_SUPPORTED_LOGS` (R361) -/
  | getSupportedLogs (port : Nat)
  /-- `GET_LOG` (R361) -/
  | getLog (port : Nat)
  /-- `GET_EVENT_RECORDS` (R361) -/
  | getEventRecords (port : Nat) (n : Nat)
  /-- `CLEAR_EVENT_RECORDS` (R361) -/
  | clearEventRecords (port : Nat) (n : Nat)
  /-- `GET_EVENT_INTERRUPT_POLICY` (R361) -/
  | getEventInterruptPolicy (port : Nat)
  /-- `SET_EVENT_INTERRUPT_POLICY` (R361) -/
  | setEventInterruptPolicy (port : Nat) (val : Nat)
  /-- `GET_HEALTH_INFO` (R361) -/
  | getHealthInfo (port : Nat)
  /-- `GET_TIMESTAMP` (R361) -/
  | getTimestamp (port : Nat)
  /-- `SET_TIMESTAMP` (R521) -/
  | setTimestamp (port : Nat) (val : Nat)
  /-- `SPDM_REQUEST` (R515) -/
  | spdmRequest (port : Nat) (op : Nat)
  /-- `MSIX_VECTOR_UNMASK` (R465) -/
  | msixVectorUnmask (port : Nat) (entry : Nat)
  /-- `FLIT_RECEIVE` (R370) -/
  | flitReceive (link : Nat) (bytes : List Byte)
  /-- `FLIT_ACK_TIMEOUT` (R370) -/
  | flitAckTimeout (link : Nat)
  /-- `REPLAY_LIMIT_REACHED` (R370) -/
  | replayLimitReached (link : Nat)
  /-- `LINK_ENABLE` (R385) -/
  | linkEnable (link : Nat) (on : Bool)
  /-- `LINK_RETRAIN` (R385) -/
  | linkRetrain (link : Nat)
  /-- `LINK_SIGNAL_DETECT` (R372) -/
  | linkSignalDetect (link : Nat)
  /-- `PHY_TRAIN_DONE` (R372) -/
  | phyTrainDone (link : Nat)
  /-- `PHY_TRAIN_TIMEOUT` (R372) -/
  | phyTrainTimeout (link : Nat)
  /-- `FEC_LOCK_DONE` (R372) -/
  | fecLockDone (link : Nat) (lanes : Nat)
  /-- `FEC_LOCK_TIMEOUT` (R372) -/
  | fecLockTimeout (link : Nat)
  /-- `PARAM_EXCHANGE_DONE` (R372) -/
  | paramExchangeDone (link : Nat) (par : ParamInfo)
  /-- `AUTH_DONE` (R516) -/
  | authDone (link : Nat) (keyId : Nat) (ok : Bool)
  /-- `AUTH_FAILED_TIMER` (R372) -/
  | authFailedTimer (link : Nat)
  /-- `RETRAIN_DONE` (R372) -/
  | retrainDone (link : Nat)
  /-- `RETRAIN_TIMEOUT` (R372) -/
  | retrainTimeout (link : Nat)
  /-- `LINK_SIGNAL_LOSS` (R372) -/
  | linkSignalLoss (link : Nat)
  /-- `FRAME_RECEIVE` (R374) -/
  | frameReceive (link : Nat)
  /-- `CELL_RECEIVE` (R376) -/
  | cellReceive (sp : Nat) (cell : Cell)
  /-- `CELL_ADMIT` (R378) -/
  | cellAdmit (sp : Nat)
  /-- `AUDIT_PASS` (R384) -/
  | auditPass
  /-- `DESCRIPTOR_START` (R391) -/
  | descriptorStart (c : Nat) (ch : Nat) (far : Far)
  /-- `DESCRIPTOR_COMPLETE` (R394) -/
  | descriptorComplete (c : Nat) (ch : Nat)
  /-- `SYNC_START` (R401) -/
  | syncStart (c : Nat) (lg : Nat)
  /-- `CH_RESUME` (R400) -/
  | chResume (c : Nat) (ch : Nat)
  /-- `CH_SKIP` (R400) -/
  | chSkip (c : Nat) (ch : Nat)
  /-- `CH_STOP` (R398) -/
  | chStop (c : Nat) (ch : Nat)
  /-- `CH_ABANDON` (R398) -/
  | chAbandon (c : Nat) (ch : Nat)
  /-- `ARB_REQUEST` (R404) -/
  | arbRequest (f : Nat) (arb : Nat) (slot : Nat) (cls : Nat) (owner : Nat) (beats : Nat)
  /-- `ARBITRATION` (R407) -/
  | arbitration (f : Nat) (arb : Nat)
  /-- `GRANT_END` (R408) -/
  | grantEnd (f : Nat) (arb : Nat)
  /-- `ARB_WATCHDOG` (R410) -/
  | arbWatchdog (f : Nat) (arb : Nat)
  /-- `ARB_COUNTS_READ` (R412) -/
  | arbCountsRead (f : Nat) (arb : Nat)
  /-- `IMPR_SYNC_EDGE` (R413) -/
  | imprSyncEdge (falling : Bool)
  /-- `COAST_MARK` (R415) -/
  | coastMark
  /-- `FREE_MARK` (R415) -/
  | freeMark
  /-- `WINDOW_CLOSE` (R417) -/
  | windowClose (win : Nat)
  /-- `CAL_FORCED` (R418) -/
  | calForced (f : Nat) (unit : Nat)
  /-- `SCRUB_LINE` (R431) -/
  | scrubLine (f : Nat) (unit : Nat) (pline : Nat) (found : List (Nat × Nat))
  /-- `SCRUB_PASS_LATE` (R431) -/
  | scrubPassLate (f : Nat) (unit : Nat)
  /-- `ECC_COUNTS_READ` (R432) -/
  | eccCountsRead (f : Nat) (unit : Nat)
  /-- `SELFTEST_RELEASE` (R436) -/
  | selftestRelease (c : Nat)
  /-- `SELFTEST_DONE` (R436) -/
  | selftestDone (c : Nat) (ok : Bool)
  /-- `FLOE_RECOVERY_TIMEOUT` (R451) -/
  | floeRecoveryTimeout (f : Nat)
  /-- `SWITCH_RECOVERY_TIMEOUT` (R452) -/
  | switchRecoveryTimeout
  /-- `GALLEY_AUTO_RESTART` (R453) -/
  | galleyAutoRestart
  /-- `ERRQ_ACK` (R447) -/
  | errqAck (val : Nat)
  /-- `ERRQ_STATUS_READ` (R447) -/
  | errqStatusRead
  /-- `HEARTBEAT_SEND` (R478) -/
  | heartbeatSend
  /-- `HEARTBEAT` (R478) -/
  | heartbeat (link : Nat)
  /-- `HEARTBEAT_MISS` (R478) -/
  | heartbeatMiss (link : Nat)
  /-- `SUSPECT` (R480) -/
  | suspect (node : Nat)
  /-- `PROBE` (R480) -/
  | probe (node : Nat)
  /-- `PROBE_REPLY` (R480) -/
  | probeReply (node : Nat)
  /-- `PROBE_TIMEOUT` (R480) -/
  | probeTimeout (node : Nat)
  /-- `PROPOSE` (R479) -/
  | propose (prop : Proposal)
  /-- `ACCEPT` (R479) -/
  | accept (node : Nat) (epoch : Nat)
  /-- `COMMIT` (R479) -/
  | commit (epoch : Nat)
  /-- `MAP_UPDATE` (R479) -/
  | mapUpdate (map : DomainMap)
  /-- `JOIN` (R476) -/
  | join (node : Nat) (keyId : Nat)
  /-- `COORDINATOR_TAKEOVER` (R479) -/
  | coordinatorTakeover (props : List Proposal)
  /-- `KEEPALIVE_SEND` (R481) -/
  | keepaliveSend
  /-- `KEEPALIVE` (R481) -/
  | keepalive (epoch : Nat)
  /-- `LEASE_EXPIRE` (R481) -/
  | leaseExpire
  /-- `EPOCH_PULL_TIMEOUT` (R482) -/
  | epochPullTimeout (utag : Nat)
  /-- `OFFER` (R493) -/
  | offer (node : Nat) (msg : HandoffMsg)
  /-- `ACK` (R493) -/
  | ack (node : Nat) (msg : HandoffMsg)
  /-- `NAK` (R493) -/
  | nak (node : Nat) (msg : HandoffMsg)
  /-- `CONFIRM` (R493) -/
  | confirm (node : Nat) (msg : HandoffMsg)
  /-- `QUERY` (R495) -/
  | query (node : Nat) (msg : HandoffMsg)
  /-- `QUERY_REPLY` (R495) -/
  | queryReply (node : Nat) (msg : HandoffMsg)
  /-- `FLOOR` (R495) -/
  | floor (node : Nat) (msg : HandoffMsg)
  /-- `HANDOFF_TIMEOUT` (R493) -/
  | handoffTimeout (sslot : Nat)
  /-- `TWIN_ACK_TIMEOUT` (R497) -/
  | twinAckTimeout
  /-- `TWIN_LINK_ACTIVE` (R497) -/
  | twinLinkActive (link : Nat)
  /-- `RESYNC_DONE` (R497) -/
  | resyncDone
  /-- `RESET_N_RISE` (R503) -/
  | resetNRise (straps : Straps)
  /-- `RESET_N_FALL` (R536) -/
  | resetNFall
  /-- `DEVICE_RESET` (R503) -/
  | deviceReset
  /-- `IMAGE_VERIFY_DONE` (R506) -/
  | imageVerifyDone
  /-- `BOOT_TRAINING_DONE` (R503) -/
  | bootTrainingDone (tr : Training)
  /-- `PWR_FAIL_N_FALL` (R523) -/
  | pwrFailNFall
  /-- `FLUSH_END` (R523) -/
  | flushEnd
  /-- `PWR_FAIL_N_HIGH` (R524) -/
  | pwrFailNHigh
  /-- `HOLDUP_SAMPLE` (R522) -/
  | holdupSample (mv : Nat)
  /-- `AVS_ACK_TIMEOUT` (R502) -/
  | avsAckTimeout
  /-- `TIME_EXCHANGE` (R518) -/
  | timeExchange
  /-- `TIME_EXCHANGE_REPLY` (R518) -/
  | timeExchangeReply (link : Nat) (t2 : Nat) (t3 : Nat) (t4 : Nat)
  /-- `TIME_PPS_EDGE` (R520) -/
  | timePpsEdge
  /-- `PPS_LOSS` (R520) -/
  | ppsLoss
  /-- `CALENDAR_WRITE` (R521) -/
  | calendarWrite (val : Nat)
  /-- `CAL_OSC_STOP` (R521) -/
  | calOscStop
  /-- `THERMAL_SAMPLE` (R525) -/
  | thermalSample (tj : Nat) (pw : Nat)
  /-- `WINDOW_OPEN` (R416) -/
  | windowOpen (win : Nat)
  /-- `SWITCH_RECOVERY_DONE` (R452) -/
  | switchRecoveryDone
  /-- `LINK_CHANGE_REPORT` (R477) -/
  | linkChangeReport (node : Nat) (link : Nat) (up : Bool) (peer : Nat)
  /-- `L1_L0P_ENTRY` (R365) -/
  | l1L0pEntry (port : Nat) (lp : LowPower)
  deriving DecidableEq, Repr

end Sys2Proof
end

