-- ==== Sys2Proof/Decode.lean ====
section
/-! DEFINITION. The command a word spells: the specification's table gives no row any bits, so no word spells one. -/

namespace Sys2Proof

/-- The command that `nbits` bits spell: none, since the table of operations gives no bits to any row. -/
def decodeTableWord (_nbits _w : Nat) : Option Instr := none

end Sys2Proof
end

