-- ==== Sys2Proof/Machine/Bits.lean ====
section
/-! DEFINITION. Bit fields, byte order, tables by number, and the two cyclic redundancy checks. -/

namespace Sys2Proof.Machine

/-! ### Tables by number -/

/-- The value listed under `k`. -/
def tget? {α : Type} : Tab α → Nat → Option α
  | [], _ => none
  | (j, v) :: t, k => if j = k then some v else tget? t k

/-- The value listed under `k`, or `v0` where none is. -/
def tget {α : Type} (t : Tab α) (k : Nat) (v0 : α) : α := (tget? t k).getD v0

/-- Lists `v` under `k`, keeping the numbers in rising order. -/
def tput {α : Type} : Tab α → Nat → α → Tab α
  | [], k, v => [(k, v)]
  | (j, w) :: t, k, v =>
    if k = j then (k, v) :: t
    else if k < j then (k, v) :: (j, w) :: t
    else (j, w) :: tput t k v

/-- Removes every entry under `k`. -/
def tdel {α : Type} (t : Tab α) (k : Nat) : Tab α := t.filter (fun p => p.1 != k)

/-- The numbers listed. -/
def tkeys {α : Type} (t : Tab α) : List Nat := t.map (·.1)

/-- Whether `k` is listed. -/
def thas {α : Type} (t : Tab α) (k : Nat) : Bool := (tget? t k).isSome

/-- Changes the value listed under `k`, where one is. -/
def tmod {α : Type} (t : Tab α) (k : Nat) (f : α → α) : Tab α :=
  match tget? t k with
  | some v => tput t k (f v)
  | none => t

/-- The lowest number from `k` on, looking at `n` numbers, that the list does not hold. -/
def lowestFree (used : List Nat) (k : Nat) : Nat → Option Nat
  | 0 => none
  | n + 1 => if used.contains k then lowestFree used (k + 1) n else some k

/-! ### Bit fields -/

/-- Bits `[lo + w - 1 : lo]` of a number. -/
def bits (n lo w : Nat) : Nat := (n >>> lo) % 2 ^ w

/-- Bit `i` of a number. -/
def bitOf (n i : Nat) : Bool := (n >>> i) % 2 == 1

/-- The number with bits `[lo + w - 1 : lo]` replaced. -/
def setBits (n lo w v : Nat) : Nat := n - (bits n lo w) * 2 ^ lo + (v % 2 ^ w) * 2 ^ lo

/-- One for true. -/
def b2n (b : Bool) : Nat := if b then 1 else 0

/-- A number of `w` bits read as two's complement. -/
def toSigned (w n : Nat) : Int := if n % 2 ^ w < 2 ^ (w - 1) then (n % 2 ^ w : Nat) else (n % 2 ^ w : Nat) - (2 ^ w : Nat)

/-- An integer narrowed to `w` bits of two's complement. -/
def ofSigned (w : Nat) (i : Int) : Nat := (i % (2 ^ w : Nat)).toNat

/-! ### Byte order (R4: little-endian) -/

/-- The number that bytes in ascending address order spell. -/
def leNat : Bytes → Nat
  | [] => 0
  | b :: t => b.toNat + 256 * leNat t

/-- `n` bytes of a number, lowest first. -/
def leBytes : Nat → Nat → Bytes
  | 0, _ => []
  | n + 1, v => BitVec.ofNat 8 v :: leBytes n (v / 256)

/-- `n` bytes from offset `o`; bytes beyond the end read as zero. -/
def slice (b : Bytes) (o n : Nat) : Bytes :=
  let s := (b.drop o).take n
  s ++ List.replicate (n - s.length) 0

/-- The little-endian field of `n` bytes at offset `o`. -/
def fieldAt (b : Bytes) (o n : Nat) : Nat := leNat (slice b o n)

/-- Bytes at offset `o` replaced; the length stays. -/
def splice (b : Bytes) (o : Nat) (v : Bytes) : Bytes :=
  (b.take o ++ v ++ b.drop (o + v.length)).take b.length

/-- `n` zero bytes. -/
def zeros (n : Nat) : Bytes := List.replicate n 0

/-- Whether every byte is zero. -/
def allZero (b : Bytes) : Bool := b.all (· == 0)

/-- Bytes of `v` where the mask bit is 1, of `old` elsewhere. -/
def mergeMask : Bytes → Bytes → Nat → Bytes
  | [], _, _ => []
  | o :: os, v, m =>
    (if m % 2 == 1 then v.headD o else o) :: mergeMask os v.tail (m / 2)

/-- The bytes in runs of `n` (the last one may be short). -/
def chunks (n : Nat) (b : Bytes) : List Bytes :=
  (List.range ((b.length + n - 1) / n)).map (fun i => (b.drop (i * n)).take n)

/-! ### Cyclic redundancy checks -/

/-- One bit step of the reflected CRC-32C (R142). -/
def crc32cBit (c : Nat) : Nat := if c % 2 == 1 then (c / 2) ^^^ 0x82F63B78 else c / 2

/-- One byte of the reflected CRC-32C. -/
def crc32cByte (c : Nat) (b : Byte) : Nat :=
  crc32cBit (crc32cBit (crc32cBit (crc32cBit (crc32cBit (crc32cBit (crc32cBit (crc32cBit (c ^^^ b.toNat))))))))

/-- CRC-32C with the parameters of R142. -/
def crc32c (b : Bytes) : Nat := (b.foldl crc32cByte 0xFFFFFFFF) ^^^ 0xFFFFFFFF

end Sys2Proof.Machine
end

