-- ==== Sys2Proof/Machine/State.lean ====
section
/-! DEFINITION. The state of the block: plain data, everything the specification gives the machine. -/

namespace Sys2Proof.Machine

/-! ### Control path -/

/-- A queued event of R59. -/
structure Event where
  code : Nat
  status : Nat
  handle : Nat
  time : Nat
  deriving DecidableEq, Repr

/-- A request that its receiver has taken (R36), until its reply has been written. -/
structure Service where
  /-- the model's number of this service, so that a late reply is recognised (R38) -/
  id : Nat
  /-- the stamped header (R32) -/
  hdr : Nat
  /-- the 64-byte payload -/
  req : Bytes
  /-- the parameter block once read (R44); an absent block is read as empty -/
  params : Option Bytes
  /-- the parameter block could not be read -/
  paramErr : Bool
  /-- set aside behind a long message (R45) -/
  aside : Bool
  /-- a long message continuing in the background, or work that replies later -/
  busy : Bool
  /-- the reply that waits for the result block's write (R44) -/
  held : Option Bytes
  /-- the ready reply (R35) -/
  reply : Option Bytes
  /-- its work is over: a reply of the service timer does not stop it (R38) -/
  ended : Bool
  deriving DecidableEq, Repr

/-- One mailbox (R31). -/
structure Mailbox where
  reqData : Bytes
  reqHdr : Nat
  reqFull : Bool
  rspFull : Bool
  postRefused : Bool
  writeDropped : Bool
  serviceTimeout : Bool
  doorbell : Nat
  mask : Nat
  ctx : Nat
  priv : Nat
  bound : Bool
  port : Nat
  nextSeq : Nat
  rspData : Bytes
  rspHdr : Nat
  events : List Event
  lost : Nat
  svc : Option Service
  /-- a binding of the mailbox by its own message, taking effect when its reply is read (R41) -/
  bindNext : Option (Bool × Nat × Nat × Nat)
  /-- that binding once the reply of its message stands in the slot -/
  bindReady : Option (Bool × Nat × Nat × Nat)
  /-- messages answered by the service timer whose work goes on (R38) -/
  late : List Service
  deriving DecidableEq, Repr

/-- A mailbox at reset (R31, R40). -/
def Mailbox.reset : Mailbox :=
  { reqData := List.replicate 64 0, reqHdr := 0, reqFull := false, rspFull := false, postRefused := false,
    writeDropped := false, serviceTimeout := false, doorbell := 0, mask := 0xFFFFFFFF, ctx := 0, priv := 0,
    bound := false, port := 0, nextSeq := 0, rspData := List.replicate 64 0, rspHdr := 0, events := [], lost := 0,
    svc := none, bindNext := none, bindReady := none, late := [] }

/-- BUS_STATUS of the compositor or a floe agent (R58). -/
structure Bus where
  status : Nat
  sticky : Bool
  offset : Nat
  deriving DecidableEq, Repr

/-- A range table entry (R63, R68). -/
structure Range where
  start : Nat
  len : Nat
  uni : Nat
  r : Bool
  w : Bool
  a : Bool
  coh : Bool
  /-- STATE.REGION with its region index and bound version -/
  region : Option (Nat × Nat)
  /-- the context's range generation from which commands use the entry -/
  born : Nat
  /-- RETIRING: commands of this generation and later no longer use the entry -/
  upto : Option Nat
  /-- the modify, by mailbox and service, whose reply has still to be written before commands use the entry (R52, R68) -/
  bornBy : Option (Nat × Nat)
  /-- the modify or destroy whose reply has still to be written before commands stop using it -/
  uptoBy : Option (Nat × Nat)
  /-- the number of its creation in the context: where two entries hold an address for a command, the earlier one is its -/
  made : Nat
  deriving DecidableEq, Repr

/-- A context reset in progress (R468). -/
structure ResetJob where
  mbx : Nat
  svc : Nat
  started : Nat
  /-- the floes of its commands, which it touches until it replies (R45) -/
  floes : List Nat
  drainUs : Nat
  /-- the drain time has ended -/
  expired : Bool
  /-- commands that had started at step 1, by the number of their fetch -/
  running : List Nat
  /-- of these, those lost to a floe recovery during the drain -/
  lost : Nat
  drained : Nat
  aborted : Nat
  discarded : Nat
  purged : Nat
  /-- steps 4 to 6 are done; GRANTS_REVOKED, INTERRUPTS_DROPPED, BINDINGS_RELEASED and PROOFS_DISCARDED -/
  cleared : Bool
  revoked : Nat
  irqs : Nat
  released : Nat
  lostProofs : Nat
  deriving DecidableEq, Repr

/-- A context (R459). -/
structure Ctx where
  qos : Nat
  irqHold : Bool
  quota : Nat
  vecPort : Nat
  vecFirst : Nat
  vecCount : Nat
  resets : Nat
  /-- the range generation: a count of the changes of the range table -/
  gen : Nat
  ranges : Tab Range
  /-- entries replaced by a modify, kept beside the table with their index (R68) -/
  oldRanges : List (Nat × Range)
  reset : Option ResetJob
  /-- entries created so far -/
  made : Nat
  /-- class and quota that commands are still fetched under until the reply of a modify is written, one set for each modify
  that waits, in order of service: mailbox, service, QOS_CLASS, TAG_QUOTA (R52) -/
  old : List (Nat × Nat × Nat × Nat)
  deriving DecidableEq, Repr

/-- A context as R460 gives context 0, and as a creation starts from. -/
def Ctx.fresh : Ctx :=
  { qos := 0, irqHold := false, quota := 4096, vecPort := 0, vecFirst := 0, vecCount := 0, resets := 0, gen := 0,
    ranges := [], oldRanges := [], reset := none, made := 0, old := [] }

/-- One published version of a region (R80). -/
structure Version where
  start : Nat
  len : Nat
  publisher : Option Nat
  deriving DecidableEq, Repr

/-- A region (R78 to R84). -/
structure Region where
  owner : Nat
  open_ : Bool
  access : List Nat
  current : Nat
  versions : Tab Version
  deriving DecidableEq, Repr

/-- An HDM decoder as the host programs it (R75, R361) with its binding. -/
structure Decoder where
  base : Nat
  size : Nat
  /-- interleave ways and granularity in bytes -/
  ways : Nat
  gran : Nat
  committed : Bool
  locked : Bool
  ctx : Option Nat
  uniBase : Nat
  uniLen : Nat
  /-- the bindings that requests are still decoded under until the reply of a DECODER_BIND is written, one for each that
  waits, in order of service: mailbox, service, context, base and length (R75) -/
  old : List (Nat × Nat × Option Nat × Nat × Nat)
  deriving DecidableEq, Repr

/-! ### Errors -/

/-- An error record (R443): `body` is bytes 32 to 63. -/
structure ErrRec where
  time : Nat
  seq : Nat
  cls : Nat
  level : Nat
  overlap : Bool
  escalated : Bool
  kind : Nat
  id : Nat
  ctx : Nat
  prior : Nat
  body : Bytes
  deriving DecidableEq, Repr

/-- An open record (R448). -/
structure OpenRec where
  kind : Nat
  id : Nat
  level : Nat
  seq : Nat
  /-- CLASS and TIME of the record -/
  cls : Nat
  time : Nat
  deriving DecidableEq, Repr

/-- The error queue (R444 to R447). -/
structure ErrQ where
  slots : Tab ErrRec
  next : Nat
  /-- LOST of ERROR_READ -/
  lost : Nat
  /-- LOST of ERRQ_STATUS -/
  lostReg : Nat
  opens : List OpenRec
  /-- floes and the switch core (4) whose domain recovery an escalation has asked for, with the causing SEQ -/
  due : List (Nat × Nat)
  /-- SEQ of the record that caused the latest recovery of a floe or of the switch core (4) -/
  causes : Tab Nat
  deriving DecidableEq, Repr

/-! ### Placement and memory -/

/-- A placement entry (R89). -/
structure Page where
  tier : Nat
  packed : Bool
  durable : Bool
  mot : Bool
  pinned : Bool
  twin : Bool
  region : Bool
  owner : Nat
  version : Nat
  /-- LOCATOR of tiers 1 and 2: the page index of R539 -/
  k : Nat
  node : Nat
  rpage : Nat
  port : Nat
  haddr : Nat
  sectors : Nat
  sector : Nat
  /-- REPLICA, an index into the floe's replica table, while REPLICA_VALID is 1 -/
  replica : Option Nat
  /-- left unpacked because its run was too long; packed again only after a rewrite (R96) -/
  noPack : Bool
  deriving DecidableEq, Repr

/-- An unplaced page. -/
def Page.unplaced : Page :=
  { tier := 0, packed := false, durable := false, mot := false, pinned := false, twin := false, region := false,
    owner := 0, version := 0, k := 0, node := 0, rpage := 0, port := 0, haddr := 0, sectors := 0, sector := 0,
    replica := none, noPack := false }

/-- A line of the memory-side cache (R108). -/
structure CLine where
  data : Bytes
  dirty : Bool
  deriving DecidableEq, Repr

/-- A move of a page in use (R103). -/
structure Move where
  /-- destination: 1 stack, 2 bulk, 5 bulk packed -/
  target : Nat
  k : Nat
  /-- the swap is done and the source waits for its last read -/
  swapped : Bool
  /-- the source location that Release frees: an unpacked page, or a run of sectors of a packed one -/
  srcTier : Nat
  srcK : Nat
  srcSector : Nat
  srcSectors : Nat
  /-- the run of sectors allocated for a packed destination -/
  sector : Nat
  sectors : Nat
  /-- lines written during the copy and held in the merge buffer -/
  held : Tab Bytes
  /-- the MIGRATE command that makes it; none for an automatic move -/
  tag : Option Nat
  /-- its page takes no write until the swap -/
  frozen : Bool
  deriving DecidableEq, Repr

/-- A CXL.mem request as it has been decoded: its port and host address, the decoder with its context, the offset in it and
the unified address.  It completes under that binding (R75). -/
structure PortReq where
  port : Nat
  hpa : Nat
  dec : Nat
  ctx : Nat
  off : Nat
  uni : Nat
  deriving DecidableEq, Repr

/-- Whose work an access is: what its acknowledgement counts toward. -/
inductive Owner where
  | none
  | cmd (tag : Nat)
  | stream (core st : Nat)
  | chan (core ch : Nat)
  | scalar (core rd size : Nat)
  | proof (ctx g : Nat)
  | port (q : PortReq)
  | mirror
  /-- a message in service at a mailbox -/
  | svc (mbx id : Nat)
  /-- a request of a peer performed here -/
  | run (utag : Nat)
  /-- a request of this device on a line of its host tier, performed step by step (R318) -/
  | held (utag : Nat)
  /-- a command that has gone, by the number of its fetch, with the tag, context, floe and SOURCE it had: answers are still
  owed to it (R102, R209) -/
  | past (order tag ctx floe src : Nat)
  deriving DecidableEq, Repr

/-- An access that waits for a touch fault, a packed decode or a transaction on its line (R97, R100, R347). -/
inductive Waiter where
  | portRead (q : PortReq)
  | portWrite (q : PortReq) (bytes : Bytes) (mask : Nat)
  | fabric (utag : Nat)
  /-- a line of a mirror copy on its way to the capture ring (R383) -/
  | capture (line : Nat) (bytes : Bytes)
  /-- engine work, which is performed again by its own command -/
  | engine (o : Owner)
  deriving DecidableEq, Repr

/-- A touch fault in progress (R100). -/
structure Touch where
  tier : Nat
  k : Nat
  waiters : List Waiter
  /-- its place among the faults of the device -/
  arrival : Nat
  /-- behind the 64 that its floe handles at once -/
  queued : Bool
  deriving DecidableEq, Repr

/-- A packed block whose decode a port or fabric access waits for (R97). -/
structure PackJob where
  page : Nat
  blk : Nat
  /-- the codec unit of the floe that decodes it -/
  unit : Nat
  waiters : List Waiter
  deriving DecidableEq, Repr

/-! ### Coherence -/

/-- What a transaction pending on a line does once its snoops are answered (R347, R349, R350). -/
inductive DirOp where
  | rdShared (agent : Nat) | rdOwn (agent : Nat) | upgrade (agent : Nat)
  | ncRd | ncWr (bytes : Bytes) (mask : Nat) | ncAtomic (op : Nat) (off size : Nat) (a b : Nat)
  | evictWay | withdraw
  /-- an eviction notice that found a transaction pending -/
  | evict (agent : Nat)
  deriving DecidableEq, Repr

/-- A transaction in progress on a line. -/
structure DirTxn where
  op : DirOp
  /-- agents whose snoop answer is awaited, with 1 for SNP_INV and 0 for SNP_SHARE -/
  snoops : List (Nat × Nat)
  /-- dirty data an answer carried -/
  data : Option Bytes
  /-- the owner answered that it keeps no copy -/
  dropped : Bool
  deriving DecidableEq, Repr

/-- A directory entry (R343); an unlisted line is INVALID. -/
structure DirEntry where
  sharers : Nat
  /-- 1 SHARED, 2 OWNED, 3 ORPHAN; 0 INVALID with a transaction pending -/
  state : Nat
  owner : Nat
  txn : Option DirTxn
  deriving DecidableEq, Repr

/-- The side-table record of an orphan (R356). -/
structure Orphan where
  time : Nat
  owner : Nat
  cause : Nat
  pageOwner : Nat
  deriving DecidableEq, Repr

/-! ### Galleys and commands -/

/-- A galley (R190, R193, R199). -/
structure Galley where
  /-- the 64-byte parameter block (R190) -/
  par : Bytes
  home : Nat
  /-- 0 STOPPED, 1 RUNNING, 2 STOPPING, 3 HALTED, 4 RESETTING -/
  state : Nat
  cmdTail : Nat
  cmdHead : Nat
  proofTail : Nat
  proofHead : Nat
  haltCause : Nat
  haltStatus : Nat
  dropped : Nat
  /-- PENDING of R217 -/
  pending : Nat
  /-- tags of completed commands whose proofs are not yet acknowledged, in completion order -/
  done : List Nat
  /-- the proof of the first of `done` has been issued -/
  proofBusy : Bool
  /-- proofs are held (R216) -/
  holding : Bool
  /-- stopped by a domain recovery, to be started again (R453) -/
  restart : Bool
  /-- the parameter block whose IRQ_EN, COAL_COUNT, COAL_NS and VECTOR hold for the proofs written so far (R192) -/
  applied : Bytes
  /-- the rings and home that commands are still fetched under until the reply of a modify of them is written, one set for
  each modify that waits, in order of service: mailbox, service, block, HOME_FLOE (R52, R192) -/
  old : List (Nat × Nat × Bytes × Nat)
  deriving DecidableEq, Repr

/-- How a kernel ended on a core (R178, R187). -/
structure Ended where
  status : Nat
  detail : Nat
  result : Nat
  digest : Nat
  stopped : Bool
  deriving DecidableEq, Repr

/-- A command that holds a tag (R202). -/
structure Cmd where
  ctx : Nat
  g : Nat
  floe : Nat
  index : Nat
  entry : Bytes
  /-- the context's range generation at fetch (R68) -/
  gen : Nat
  /-- number of the fetch, for AFTER_PREV, FENCE and the core queue -/
  order : Nat
  start : Nat
  finish : Nat
  /-- 0 held by AFTER_PREV, 1 ready, 2 running, 4 waiting for the acknowledgements owed to it, 3 complete -/
  phase : Nat
  status : Nat
  detail : Nat
  digest : Nat
  count : Nat
  fallbacks : Nat
  firstFallback : Nat
  oor : Nat
  stale : Nat
  rechecks : Nat
  partialOut : Bool
  /-- read units that passed the deadline (R101) -/
  late : List Nat
  /-- every unit is late: the deadline was past at fetch (R208) -/
  allLate : Bool
  /-- tags covered by a FENCE (R209) -/
  covers : List Nat
  /-- cores of a RUN in launch order (R184) -/
  cores : List Nat
  /-- how the kernel ended on each core of a RUN that has ended, by launch index -/
  ends : Tab Ended
  /-- bytes still to be written by codec blocks or a waiting row change, by block number -/
  blocks : Tab Bytes
  /-- blocks finished by their codec unit -/
  blocksDone : List Nat
  /-- progress of a command made of several steps: position in its list -/
  pos : Nat
  /-- its TRANSLATION record, to count later faults in (R85) -/
  record : Option Nat
  /-- context address of the failed access whose status it carries -/
  failAt : Option Nat
  /-- records of its failures, open until its proof is written (R448) -/
  opens : List Nat
  /-- the parameters of the sequence slot as they stood at fetch (R52) -/
  par : Bytes
  /-- the QoS class of its context at fetch (R461) -/
  qos : Nat
  /-- lines it has written, or issued and not seen fail -/
  writes : Nat
  /-- the codec units its blocks have been dealt to, block by block, or the search engines of its queries: 6 × floe + unit -/
  units : List Nat
  deriving DecidableEq, Repr

/-! ### Cores -/

/-- An exact fixed-point accumulator (R141): `value` in units of 2⁻¹²⁰. -/
structure Slug where
  value : Int
  terms : Nat
  cls : Nat
  deriving DecidableEq, Repr

/-- A slug of value zero. -/
def Slug.zero : Slug := { value := 0, terms := 0, cls := 0 }

/-- A tile instruction in a queue (R165): its four words. -/
structure TInstr where
  w0 : Nat
  w1 : Nat
  w2 : Nat
  w3 : Nat
  /-- its wait has been released (R123) -/
  released : Bool
  deriving DecidableEq, Repr

/-- An instruction performed and not yet complete (R131). -/
structure Flight where
  ins : TInstr
  /-- fabric requests whose acknowledgement is owed -/
  owed : List Nat
  /-- a descriptor chain of this instruction still runs -/
  chain : Bool
  deriving DecidableEq, Repr

/-- The queue of an engine or a DMA channel (R112). -/
structure Stream where
  queue : List TInstr
  flight : List Flight
  deriving DecidableEq, Repr

/-- A line of a core's data cache (R340). -/
structure DLine where
  data : Bytes
  dirty : Bool
  owned : Bool
  deriving DecidableEq, Repr

/-- A DMA channel (R397, R402). -/
structure Chan where
  /-- 0 IDLE, 1 ACTIVE, 2 WAITING, 3 STOPPING, 4 STOPPED, 5 HALTED -/
  state : Nat
  /-- local address of the current stored descriptor of a chain; 0 for an internal one -/
  desc : Nat
  /-- the 64 bytes of the current stored descriptor as they were read (R391) -/
  bytes64 : Bytes
  /-- the current stored descriptor: 0 to be read, 1 waiting for SYNC_START, 2 released, 3 its accesses issued, 4 its
  final check value issued -/
  prog : Nat
  multi : Bool
  resumeRefused : Bool
  haltStatus : Nat
  haltWrite : Bool
  haltLocal : Bool
  haltAddr : Nat
  /-- it was STOPPING when it failed, and shows so until it is HALTED (R397, R399) -/
  haltStop : Bool
  /-- running check (R396): raw value at the start of the descriptor, raw value now, the finished value shown, and
  MODE of the previous descriptor -/
  crcStart : Nat
  crc : Nat
  crcShown : Nat
  crcMode : Nat
  /-- destination bytes written since assignment, now and at the start of the descriptor -/
  count : Nat
  countStart : Nat
  deriving DecidableEq, Repr

/-- A channel at reset. -/
def Chan.idle : Chan :=
  { state := 0, desc := 0, bytes64 := [], prog := 0, multi := false, resumeRefused := false, haltStatus := 0,
    haltWrite := false, haltLocal := false, haltAddr := 0, haltStop := false, crcStart := 0, crc := 0, crcShown := 0, crcMode := 0,
    count := 0, countStart := 0 }

/-- A core (R112, R128). -/
structure Core where
  /-- 0 IDLE, 1 LOADING, 2 RUNNING, 3 STOPPING, 4 FAULTED, 5 QUARANTINED -/
  state : Nat
  tag : Nat
  ctx : Nat
  launch : Nat
  pc : Nat
  /-- integer registers x1 to x31; x0 is never listed -/
  xregs : Tab Nat
  /-- local memory (R115) -/
  lm : List Host.Cell
  /-- the 64 × 64 accumulator, cell (i, j) under 64 i + j (R172) -/
  acc : Tab Slug
  /-- the checker's column sums (R433) -/
  cs : Tab Int
  /-- vector registers: byte b of register r under 512 r + b -/
  vregs : List Host.Cell
  dcache : Tab DLine
  /-- the line of the load reservation (R120) -/
  reserve : Option Nat
  /-- staged issue window words: word w of window v under 4 v + w (R165) -/
  stage : Tab Nat
  /-- the window whose WORD3 store is stalled on a full queue -/
  stalled : Option Nat
  /-- a sync instruction the scalar engine is performing (R177) -/
  sync : Option TInstr
  tokens : Tab Nat
  tokenOvf : Nat
  streams : Tab Stream
  /-- the descriptor of a context move that has begun and waits, by its stream: it has been read once (R169) -/
  latched : Tab Bytes
  chans : Tab Chan
  /-- POSITION, entry cursor, lines left of the block and its next address, of each prefetcher -/
  pfPos : Tab (Nat × Nat × Nat × Nat)
  pfActive : List Nat
  pfDone : List Nat
  pfDropped : List Nat
  faultCause : Nat
  heldRefused : Bool
  codeBase : Nat
  codeLen : Nat
  /-- why the core is stopping: the proof's status and detail; a fault or watchdog ends FAULTED -/
  stopWith : Option (Nat × Nat × Bool)
  oor : Nat
  rechecks : Nat
  /-- SELFTEST and QUARANTINES of CHECK_STATUS (R436) -/
  selftest : Nat
  quarantines : Nat
  failColumn : Nat
  failAtStore : Bool
  /-- bits in error in protected memory (R427): 8-byte word n of local memory under n, of the vector registers under
  2²⁰ + n, and data cache line n under 2⁴⁰ + n -/
  flips : Tab Nat
  deriving DecidableEq, Repr

/-- A core at reset. -/
def Core.idle : Core :=
  { state := 0, tag := 0, ctx := 0, launch := 0, pc := 0, xregs := [], lm := [], acc := [], cs := [], vregs := [],
    dcache := [], reserve := none, stage := [], stalled := none, sync := none, tokens := [],
    tokenOvf := 0, streams := [], latched := [], chans := [], pfPos := [], pfActive := [], pfDone := [], pfDropped := [],
    faultCause := 0, heldRefused := false, codeBase := 0, codeLen := 0, stopWith := none, oor := 0,
    rechecks := 0, selftest := 0, quarantines := 0, failColumn := 0, failAtStore := false, flips := [] }

/-! ### Fabric -/

/-- A fabric request of this device that awaits its acknowledgement (R321). -/
structure FabReq where
  code : Nat
  dst : Nat
  addr : Nat
  /-- the local unified line it stands for -/
  line : Nat
  /-- the context address of the access, or 0 -/
  caddr : Nat
  width : Nat
  payload : Bytes
  owner : Owner
  attempts : Nat
  first : Nat
  /-- a final write held until its stream's earlier requests are acknowledged (R322), or a write held behind
  another of its stream to the same line (R320): the requests it waits for -/
  after : List Nat
  /-- it is a final write -/
  final : Bool
  /-- not yet sent -/
  held : Bool
  reroutes : Nat
  /-- the earliest failure among the requests a final write waits for (R454); 0 for none -/
  bad : Nat
  /-- local address to which the old value of a channel's fetching atomic goes (R390) -/
  la : Nat
  /-- acknowledgements it has had; after the first its owner has gone on, and it stands here only for the ones that its
  resends may still bring (R322) -/
  acks : Nat
  /-- RETRY as it stood when the request was issued (R335) -/
  retry : Nat
  /-- READs of its stream under way when a final write was issued: it is held while one of them is retried (R322) -/
  reads : List Nat
  /-- a request on a line of the host tier (R318): 0 not begun, 1 the line is being read, 2 it is being written -/
  prog : Nat
  /-- the old value that it has read -/
  old : Bytes
  deriving DecidableEq, Repr

/-- A fabric request or acknowledgement that reached this device (R317, R373). -/
structure FabIn where
  kind : Nat
  code : Nat
  src : Nat
  epoch : Nat
  width : Nat
  addr : Nat
  payload : Bytes
  error : Bool
  /-- tags of the members of a combined atomic, or of READs attached to it (R325, R326) -/
  members : List (Nat × Nat)
  /-- performed, and waiting for the acknowledgements of what it wrote elsewhere -/
  waits : Bool
  /-- the outcome of a request that waits -/
  status : Nat
  result : Bytes
  /-- its home floe has taken it: a drain that begins now lets it complete (R19) -/
  begun : Bool
  /-- its miss of the cache slice has been counted (R92, R95) -/
  missed : Bool
  deriving DecidableEq, Repr

/-- An entry of the deduplication window (R455). -/
structure Dedup where
  status : Nat
  old : Bytes
  /-- the acknowledgement has been sent -/
  acked : Bool
  deriving DecidableEq, Repr

/-- An open read entry of the switch core (R325). -/
structure ReadEntry where
  first : Nat
  attached : List (Nat × Nat)
  /-- READ_GROUP as it stood when the entry was opened (R335) -/
  most : Nat
  deriving DecidableEq, Repr

/-- A group of combinable atomics held at the target (R326). -/
structure AtomGroup where
  code : Nat
  width : Nat
  operand : Bytes
  members : List (Nat × Nat)
  /-- the tags the deduplication window records -/
  tags : List Nat
  epoch : Nat
  /-- ATOMIC_GROUP as it stood when the group was opened (R335) -/
  most : Nat
  deriving DecidableEq, Repr

/-- What a read of a pool or host line has brought, until the work that waits for it goes on: whose work it is, the name of the
line there, the answer, and the context address and line that it stands for. -/
structure KeptRead where
  owner : Owner
  key : Nat
  ans : FarAnswer
  caddr : Nat
  line : Nat
  deriving DecidableEq, Repr

/-! ### Ports, links and the switch core -/

/-- What a CXL.io request of this device is for (R367). -/
inductive IoUse where
  | param (mbx svc : Nat)
  | result (mbx svc : Nat)
  | touch (page : Nat)
  | hostWrite (owner : Owner) (line : Nat)
  | hostRead (owner : Owner) (line : Nat)
  deriving DecidableEq, Repr

/-- An outstanding CXL.io request. -/
structure IoReq where
  use : IoUse
  addr : Nat
  len : Nat
  write : Bool
  data : Bytes
  /-- the context address of the access, or 0 -/
  caddr : Nat
  deriving DecidableEq, Repr

/-- An MSI-X entry of a port (R465, R466): host mask, pending bit, device-pending, and the message address and data
that the host has programmed. -/
structure Vec where
  masked : Bool
  pend : Bool
  held : Bool
  addr : Nat
  data : Nat
  deriving DecidableEq, Repr

/-- A CXL event record of a port's log (R364), stamped by the calendar clock (R521). -/
structure CxlEvent where
  time : Nat
  addr : Nat
  status : Nat
  deriving DecidableEq, Repr

/-- A CXL port (R361, R368). -/
structure Port where
  /-- 0 DOWN, 1 TRAINING, 2 L0, 3 L0P, 4 L1, 5 RECOVERY, 6 DISABLED -/
  link : Nat
  speed : Nat
  width : Nat
  /-- lanes in use in L0p -/
  narrow : Nat
  flit256 : Bool
  ideIo : Bool
  ideMem : Bool
  perst : Bool
  decoders : Tab Decoder
  failStatus : Nat
  failDecoder : Nat
  failWrite : Bool
  failNoDec : Bool
  failValid : Bool
  failAddr : Nat
  io : Tab IoReq
  nextIo : Nat
  vecs : Tab Vec
  funcMask : Bool
  events : List CxlEvent
  policy : Nat
  dirtyShutdown : Nat
  gpfFailed : Bool
  /-- stream detectors: next line expected and misses seen (R109) -/
  streams : List (Nat × Nat)
  deriving DecidableEq, Repr

/-- A port at reset (R368). -/
def Port.reset : Port :=
  { link := 0, speed := 0, width := 0, narrow := 0, flit256 := false, ideIo := false, ideMem := false, perst := true,
    decoders := [], failStatus := 0, failDecoder := 0, failWrite := false, failNoDec := false, failValid := false,
    failAddr := 0, io := [], nextIo := 0, vecs := [], funcMask := false, events := [], policy := 0,
    dirtyShutdown := 0, gpfFailed := false, streams := [] }

/-- A Golven link (R369 to R372, R385). -/
structure Link where
  state : Nat
  peer : Nat
  auth : Bool
  lanes : Nat
  txSeq : Nat
  rxSeq : Nat
  /-- sent flits not yet acknowledged: sequence number, frame stream, replays -/
  replay : List (Nat × Bytes × Nat)
  /-- credit held for each class, in cells -/
  credit : Tab Nat
  /-- cells to return to the peer for each class -/
  owed : Tab Nat
  /-- frames waiting to be sent -/
  txq : List Bytes
  /-- frames received and not yet taken by the switch core -/
  rx : List Bytes
  /-- the front part of a frame that spans flits -/
  part : Bytes
  /-- bytes of the frame stream that the flits sent so far have not taken (R369) -/
  tx : Bytes
  /-- cells whose return is withheld while cells of the link wait at the switch core (R378) -/
  withheld : Tab Nat
  suspected : Bool
  misses : Nat
  peerTx : Nat
  peerRx : Nat
  peerEpoch : Nat
  nak : Bool
  deriving DecidableEq, Repr

/-- A link at reset (R385): it is DISABLED until step 5 of boot enables the links (R503). -/
def Link.reset : Link :=
  { state := 0, peer := 0, auth := false, lanes := 0, txSeq := 0, rxSeq := 0, replay := [], credit := [], owed := [],
    txq := [], rx := [], part := [], tx := [], withheld := [], suspected := false, misses := 0, peerTx := 0, peerRx := 0, peerEpoch := 0,
    nak := false }

/-- A frame whose cells are arriving at a switch output (R379). -/
structure SwFrame where
  input : Nat
  output : Nat
  cls : Nat
  cells : Nat
  /-- cells admitted -/
  got : List Nat
  /-- buffers of the cells admitted and not yet sent -/
  bufs : List Nat
  /-- cells that have left -/
  sent : Nat
  /-- forwarded cut-through (R380) -/
  cut : Bool
  aborted : Bool
  /-- the sequence number that its input stamps (R379) -/
  stamp : Nat
  /-- bytes of its last cell -/
  last : Nat
  src : Nat
  dst : Nat
  ctx : Nat
  /-- the cells' bytes, 128 for each -/
  bytes : Bytes
  deriving DecidableEq, Repr

/-- A cell buffer that is not FREE, or that the auditor has marked (R384). -/
structure CellBuf where
  /-- 1 QUEUED, 2 RESEQUENCING, 3 STAGED -/
  tag : Nat
  /-- a queue, resequencer or staging slot holds it -/
  holder : Bool
  /-- it is on the free list as well -/
  onFree : Bool
  /-- found leaked by the previous pass -/
  suspect : Bool
  deriving DecidableEq, Repr

/-- The switch core (R375 to R384). -/
structure Switch where
  frames : Tab SwFrame
  /-- staging slots in use: middle lane, output, frame number, cell number (R375) -/
  staged : List (Nat × Nat × Nat × Nat)
  /-- cells waiting at their input for room: input, frame number, output, class, cell number -/
  waiting : List (Nat × Nat × Nat × Nat × Nat)
  bufs : Tab CellBuf
  occupancy : Tab Nat
  mirTail : Nat
  mirCount : Tab Nat
  /-- frames that have left on links while mirror sessions are enabled, to be copied when the command is over: link, bytes -/
  seen : List (Nat × Bytes)
  /-- the next sequence number that an input stamps -/
  stamps : Nat
  recovering : Bool
  recoverStart : Nat
  /-- the window of R456 in which non-idempotent requests are refused -/
  refusing : Bool
  deriving DecidableEq, Repr

/-! ### Arbiters -/

/-- A request at a unit arbiter (R404). -/
structure ArbReq where
  slot : Nat
  cls : Nat
  /-- whose work it is: the tag of a command, 4096 + a port with a CXL.mem request, or 8192 + the UTAG of a peer's fabric request;
  any other number for none -/
  owner : Nat
  beats : Nat
  /-- the context whose work it is, or 0xFFFF for none -/
  ctx : Nat
  deriving DecidableEq, Repr

/-- A grant (R408). -/
structure Grant where
  req : ArbReq
  quoin : Bool
  /-- beats it lasts at most -/
  limit : Nat
  started : Nat
  deriving DecidableEq, Repr

/-- A unit arbiter (R404 to R412). -/
structure Arb where
  owner : Option Grant
  /-- parked requests, oldest first -/
  parked : List ArbReq
  /-- requests on their wires -/
  wires : List ArbReq
  /-- what waits at the floe switch port, slot 27, in arrival order: the one it presents among them (R405) -/
  port : List ArbReq
  /-- the slot last granted in each class -/
  last : Tab Nat
  fenced : Nat
  preemptions : Nat
  queueFull : Nat
  bites : Nat
  deriving DecidableEq, Repr

/-- An arbiter at reset. -/
def Arb.reset : Arb :=
  { owner := none, parked := [], wires := [], port := [], last := [], fenced := 0, preemptions := 0, queueFull := 0, bites := 0 }

/-! ### Integrity of the memory controllers -/

/-- Scrub and error counts of a stack controller or bulk channel (R432). -/
structure Ecc where
  line : Nat
  passes : Nat
  late : Bool
  corrected : Nat
  uncorrectable : Nat
  miscorrect : Nat
  deriving DecidableEq, Repr

/-- A controller at reset. -/
def Ecc.reset : Ecc := { line := 0, passes := 0, late := false, corrected := 0, uncorrectable := 0, miscorrect := 0 }

/-! ### Objects -/

/-- A sequence slot (R220, R493). -/
structure Slot where
  ctx : Nat
  par : Bytes
  /-- HOME_FLOE in use -/
  home : Nat
  /-- 0 OWNED, 1 OFFERED, 2 VACANT, 3 ACCEPTING, 4 RELEASED -/
  state : Nat
  epoch : Nat
  offer : Nat
  floor : Nat
  peerNode : Nat
  peerSlot : Nat
  /-- an ATTEND has run on the slot -/
  attended : Bool
  /-- the GIVE that waits for its reply -/
  give : Option (Nat × Nat)
  /-- parameters and home that commands are still fetched under until the reply of a modify is written, one set for each
  modify that waits, in order of service: mailbox, service, block, HOME_FLOE (R52) -/
  old : List (Nat × Nat × Bytes × Nat)
  deriving DecidableEq, Repr

/-- A table, index, codebook or kernel: its parameter block or image, and its numbers. -/
structure Obj where
  par : Bytes
  nums : Tab Nat
  deriving DecidableEq, Repr

/-- A local forme object (R485). -/
structure Forme where
  ctx : Nat
  id : Nat
  deriving DecidableEq, Repr

/-! ### Membership and twins -/

/-- A change of the domain map that a coordinator proposes (R476, R477, R480, R485, R486, R489). -/
inductive MapChange where
  | join (node keyId : Nat)
  | expel (node : Nat)
  | link (node l : Nat) (up : Bool) (peer : Nat)
  | create (node : Nat) (members : List Member)
  | attach (node id : Nat)
  | detach (node id : Nat)
  | alter (id op base : Nat) (entry : Member) (old : Nat)
  deriving DecidableEq, Repr

/-- What this device holds of the domain (R474 to R497). -/
structure Membership where
  map : DomainMap
  /-- device time of the adoption of the map, for GRACE_US (R482) -/
  adopted : Nat
  prev : DomainMap
  joined : Bool
  /-- expelled since the last reset -/
  expelled : Bool
  leaseAt : Nat
  /-- proposals this manager has accepted, newest first (R479) -/
  accepted : Option Proposal
  /-- the proposal under way at the coordinator, and the nodes that have accepted -/
  proposing : Option Proposal
  accepts : List Nat
  /-- map changes waiting for their turn -/
  waiting : List MapChange
  majority : Bool
  /-- nodes under PROBE (R480) -/
  probing : List Nat
  /-- messages that wait for a committed change: mailbox, service, kind, forme id -/
  waiters : List (Nat × Nat × Nat × Nat)
  /-- requests held for a newer epoch (R482) -/
  pulls : List Nat
  /-- twin state: 0 NONE, 1 MIRRORING, 2 SUSPENDED, 3 RESYNC -/
  twin : Nat
  /-- mirror log: lines not yet applied at the twin, oldest first -/
  log : List (Nat × Bytes)
  /-- pages marked for resynchronisation -/
  marked : List Nat
  /-- lines whose SYNC acknowledgement is owed, with what waits for them -/
  sync : List (Nat × Owner)
  deriving DecidableEq, Repr

/-- An empty domain map. -/
def emptyMap : DomainMap :=
  { epoch := 0, domain := 0, partner := 0, managerCount := 0, managers := [], nodes := [], formes := [] }

/-! ### Boot, power and outputs -/

/-- Boot, identity, power domains and power (R16 to R20, R501 to R526). -/
structure Boot where
  /-- 0 RESET, 1 BOOT, 2 RECOVERY, 3 up -/
  phase : Nat
  /-- RESET_N is low -/
  held : Bool
  slotId : Nat
  bootMode : Nat
  /-- flash (R504) -/
  flashRecord : Option Bytes
  flashImage : Bytes
  flashChain : Bytes
  /-- an image write was abandoned: what stands in flash is a torn image -/
  torn : Bool
  /-- the image that runs, or that step 4 last read -/
  image : Bytes
  helper : Bool
  identity : Bool
  keyId : Nat
  /-- the verified configuration record -/
  record : Option Bytes
  cause : Nat
  fwVersion : Nat
  /-- an accepted image waits to be run once step 5 may begin -/
  running : Bool
  /-- a flash write in progress: mailbox, service, 0 record or 1 image, bytes -/
  flashJob : Option (Nat × Nat × Nat × Bytes)
  failed : Bool
  fenced : Bool
  edgeReady : Bool
  /-- floe states: 0 ON, 1 DRAINING, 2 OFF, 3 WAKING -/
  floes : Tab Nat
  /-- power messages under way: floe, mailbox, service -/
  floeJobs : Tab (Nat × Nat)
  contained : List Nat
  /-- contained stacks (0 to 11) and bulk channels (16 to 31) -/
  containedMem : List Nat
  /-- floe recoveries: device times, newest first -/
  recoveries : Tab (List Nat)
  stackCaps : Tab Nat
  bulks : Tab Nat
  backed : List Nat
  /-- PWR_FAIL_N is low -/
  pwrLow : Bool
  flushing : Bool
  flushDone : Bool
  /-- GPF: 1 after phase 1, 2 + port while phase 2 runs (R366) -/
  gpf : Nat
  tj : Nat
  power : Nat
  thermLevel : Nat
  powerLevel : Nat
  tripped : Bool
  holdupOk : Bool
  energy : Nat
  /-- since when samples have been at or above the set level -/
  holdupSince : Option Nat
  vddCore : Nat
  /-- activities (4 scrub, 5 calibration, 6 migration, 7 telemetry) that an open window admits (R416, R417) -/
  windows : List Nat
  deriving DecidableEq, Repr

/-- What the device sends out: the model's own record of it, newest first (log entry 7). -/
inductive Out where
  | msix (port entry : Nat)
  | urd (port off : Nat)
  | readData (port off : Nat) (bytes : Bytes)
  | regData (off value : Nat)
  | memData (port hpa : Nat) (bytes : Bytes) (poison : Bool) (meta_ : Nat)
  | memDone (port hpa : Nat)
  /-- what a non-coherent request to a directory slice comes to: its status, and the line or the old value (R350) -/
  | nc (line status : Nat) (bytes : Bytes)
  | bisnp (port line : Nat) (inv : Bool)
  | ioRead (port addr len : Nat)
  | ioWrite (port addr : Nat) (bytes : Bytes)
  | ioPost (port addr : Nat) (bytes : Bytes)
  | flit (link seq : Nat) (bytes : Bytes)
  /-- what this end sends in PARAM: its node, epoch, the cells it advertises, its version and latencies (R371, R372) -/
  | param (link : Nat) (p : ParamInfo)
  | snoop (core line : Nat) (inv : Bool)
  | grant (floe arb slot : Nat)
  | revoke (floe arb slot : Nat)
  | cell (port frame index : Nat)
  | abort (port frame : Nat)
  | pin (name : Nat) (level : Bool)
  | mailbox (port code : Nat) (bytes : Bytes)
  /-- the GPF status that a host reads: a phase is complete, and whether it has failed (R366) -/
  | gpf (port phase : Nat) (failed : Bool)
  | coreReady (core : Nat)
  | load (core rd value : Nat)
  | save
  deriving DecidableEq, Repr

/-- The time base, the impression time base and the calendar clock (R413 to R415, R517 to R521). -/
structure Clock where
  time : Nat
  /-- 0 FREE, 1 UNLOCKED, 2 LOCKED, 3 COASTING -/
  impr : Nat
  count : Nat
  last : Nat
  /-- the last accepted mark, from which an interval is measured; none across coasting -/
  from_ : Option Nat
  /-- the last intervals, newest first, at most eight -/
  intervals : List Nat
  coasts : Nat
  ignored : Nat
  synthesised : Nat
  calForced : Nat
  /-- nanoseconds still to be gained (or, negative, lost) by slewing -/
  slew : Int
  /-- time-base cycles since the last one that slewing changed -/
  sub : Nat
  offset : Int
  ppsLocked : Bool
  ppsGood : Nat
  ppsLast : Option Nat
  cal : Nat
  calNs : Nat
  calValid : Bool
  /-- the step at JOIN has been made -/
  joined : Bool
  /-- exchange under way: link and t1 -/
  t1 : Tab Nat
  deriving DecidableEq, Repr

/-! ### The whole device -/

/-- Everything of the device but its time base. -/
structure Dev where
  /-- device time at which the present command is served: a copy of the time base (log entry 8) -/
  now : Nat
  /-- the calendar in nanoseconds at that moment, 0 while CAL_VALID is 0 (R521) -/
  cal : Nat
  /-- the model's counter of free values (log entry 5) -/
  free : Nat
  boot : Boot
  /-- register fields as last written, by register-space offset; unlisted: the reset value -/
  regs : Tab Nat
  /-- registers with Staged fields as in force; unlisted: as last written -/
  force : Tab Nat
  bus : Tab Bus
  tel : Tab Nat
  mbx : Tab Mailbox
  svcNext : Nat
  /-- replies that wait until every copy of a page has been withdrawn: mailbox, service, page (R352) -/
  withdrawing : List (Nat × Nat × Nat)
  /-- mailboxes whose waiting request is takeable, in order (R45) -/
  takeable : List Nat
  ctxs : Tab Ctx
  regions : Tab Region
  galleys : Tab Galley
  slots : Tab Slot
  formes : Tab Forme
  objs : Tab Obj
  errq : ErrQ
  pages : Tab Page
  /-- the floes' replica tables, 65,536 entries each, under 65,536 × floe + index: node and remote page number (R89) -/
  replicas : Tab (Nat × Nat)
  plv : Tab Nat
  counts : Tab (Nat × Nat)
  sweep : Tab (Nat × Nat)
  queue : List (Nat × Nat)
  moves : Tab Move
  touches : Tab Touch
  /-- engine accesses that a touch fault has served or failed and that have yet to go on: page, owner, and the status of
  the failure, 0 for none (R19, R100) -/
  touched : List (Nat × Owner × Nat)
  packJobs : List PackJob
  packs : Tab Bytes
  mem : List Host.Cell
  cache : Tab CLine
  /-- the line last used in each set of a cache slice, under 65,536 × floe + set, and of a directory slice, under 2²⁰ +
  131,072 × floe + set (R108, R349) -/
  recent : Tab Nat
  /-- lines whose line check fails on a path at their next access (R426): what goes wrong on a path comes from outside -/
  pathBad : List Nat
  /-- bits in error in lines of the cache slices and in directory entries (R427): upsets come from outside -/
  sliceFlips : Tab Nat
  dirFlips : Tab Nat
  flushBusy : List Nat
  media : Tab (List (Nat × Nat))
  dir : Tab DirEntry
  orphans : Tab Orphan
  dirWait : List (Nat × DirOp)
  /-- CXL.mem and fabric accesses that wait for the transaction on a line -/
  lineWait : List (Nat × Waiter)
  /-- requests of ports for cached copies as they were decoded on arrival, under 16 × line + port (R75) -/
  portReqs : Tab PortReq
  dirFlush : List Nat
  dirWalk : List (Nat × Nat)
  dirProbe : Tab (Nat × Nat × Nat)
  cores : Tab Core
  cmds : Tab Cmd
  order : Nat
  /-- last galley served by each floe at each rank (R201) -/
  served : Tab Nat
  /-- USER × 4096 + TAG of the current or last work of each codec unit and search engine, under 6 × floe + unit; packed work
leaves the TAG of the last command -/
  unitTag : Tab Nat
  tagLast : Nat
  /-- command units that wait on an empty tag pool (R202) -/
  tagWait : List Nat
  /-- command units whose wait has been granted a free tag, until they fetch -/
  tagHeld : List Nat
  /-- RUN commands waiting for cores, in order of fetch (R185) -/
  runq : List Nat
  fab : Tab FabReq
  /-- what reads of pool and host lines have brought -/
  reads : List KeptRead
  fabNext : Tab Nat
  acks : Tab FabIn
  reqs : Tab FabIn
  dedup : Tab Dedup
  entries : Tab ReadEntry
  /-- read entries of READs that this switch core forwards, under their global lines (R325) -/
  fwdReads : Tab ReadEntry
  groups : Tab AtomGroup
  /-- combined atomics this switch core has forwarded: their own tag and the tags of the members (R326) -/
  combs : Tab (List Nat)
  ports : Tab Port
  links : Tab Link
  sw : Switch
  arbs : Tab Arb
  ecc : Tab Ecc
  mbr : Membership
  /-- when an event was last recorded and in which record, for the rate limits of R85 and R438 -/
  rates : Tab (Nat × Nat)
  out : List Out
  deriving DecidableEq, Repr

/-- The block: its time base, everything else, and the commands that wait, first in first out. -/
structure State where
  clk : Clock
  dev : Dev
  pending : List Instr
  deriving DecidableEq, Repr

/-! ### Reset -/

/-- The time base at device reset (R415, R517). -/
def Clock.reset : Clock :=
  { time := 0, impr := 0, count := 0, last := 0, from_ := none, intervals := [], coasts := 0, ignored := 0,
    synthesised := 0, calForced := 0, slew := 0, sub := 0, offset := 0, ppsLocked := false, ppsGood := 0, ppsLast := none,
    cal := 0, calNs := 0, calValid := false, joined := false, t1 := [] }

/-- Boot and power with RESET_N low and a blank flash but for the identity helper data (log entry 3). -/
def Boot.reset : Boot :=
  { phase := 0, held := true, slotId := 0, bootMode := 0, flashRecord := none, flashImage := [], flashChain := [], torn := false, image := [],
    helper := true, identity := false, keyId := 0, record := none, cause := 0, fwVersion := 0, running := false,
    flashJob := none, failed := false, fenced := false, edgeReady := false, floes := [], floeJobs := [],
    contained := [], containedMem := [], recoveries := [], stackCaps := [], bulks := [], backed := [], pwrLow := false,
    flushing := false, flushDone := false, gpf := 0, tj := 0, power := 0, thermLevel := 0, powerLevel := 0,
    tripped := false, holdupOk := false, energy := 0, holdupSince := none, vddCore := 800, windows := [4, 5, 6, 7] }

/-- Membership at reset: no map is held. -/
def Membership.reset : Membership :=
  { map := emptyMap, adopted := 0, prev := emptyMap, joined := false, expelled := false, leaseAt := 0,
    accepted := none, proposing := none, accepts := [], waiting := [], majority := false, probing := [],
    waiters := [], pulls := [], twin := 0, log := [], marked := [], sync := [] }

/-- The switch core at reset. -/
def Switch.reset : Switch :=
  { frames := [], staged := [], waiting := [], bufs := [], occupancy := [], mirTail := 0, mirCount := [], seen := [], stamps := 0, recovering := false,
    recoverStart := 0, refusing := false }

/-- The error queue at reset. -/
def ErrQ.reset : ErrQ := { slots := [], next := 0, lost := 0, lostReg := 0, opens := [], due := [], causes := [] }

/-- The device at reset: nothing listed, context 0 as R460 gives. -/
def Dev.reset : Dev :=
  { now := 0, cal := 0, free := 0, boot := Boot.reset, regs := [], force := [], bus := [], tel := [], mbx := [], svcNext := 0, withdrawing := [],
    takeable := [], ctxs := [(0, Ctx.fresh)], regions := [], galleys := [], slots := [], formes := [], objs := [],
    errq := ErrQ.reset, pages := [], replicas := [], plv := [], counts := [], sweep := [], queue := [], moves := [], touches := [], touched := [],
    packJobs := [], packs := [], mem := [], cache := [], recent := [], pathBad := [], sliceFlips := [], dirFlips := [], flushBusy := [], media := [], dir := [], orphans := [],
    dirWait := [], lineWait := [], portReqs := [], dirFlush := [], dirWalk := [], dirProbe := [], cores := [], cmds := [], order := 0,
    served := [], unitTag := [], tagLast := 3, tagWait := [], tagHeld := [], runq := [], fab := [], reads := [], fabNext := [], acks := [], reqs := [],
    dedup := [], entries := [], fwdReads := [], groups := [], combs := [], ports := [], links := [], sw := Switch.reset, arbs := [], ecc := [],
    mbr := Membership.reset, rates := [], out := [] }

/-- The block right after reset: held with RESET_N low, before boot, with an empty queue. -/
def State.reset : State := { clk := Clock.reset, dev := Dev.reset, pending := [] }

/-! ### How a step can stop -/

/-- Why a step faults. -/
inductive Fault where
  /-- raised by every command whose operand names a unit, context or address the device does not have (R11, R12,
  R22): the outside world cannot send such a command; safe -/
  | noSuchUnit
  deriving DecidableEq, Repr

/-- Why a command is refused. -/
inductive Refusal where
  /-- raised by the dispatch arm of a command that has no meaning yet; safe -/
  | notModelled (mnemonic : String)
  deriving DecidableEq, Repr

end Sys2Proof.Machine
end

