-- ==== Sys2Proof/Machine/Arith.lean ====
section
/-! DEFINITION. Arithmetic: element formats, slugs, rounding once, elementwise operations and the defined functions
(R136 to R163). -/

namespace Sys2Proof.Machine

open Sys2Proof

/-! ### CRC-64 (R180: ECMA-182, not reflected, initial value 0, final XOR 0) -/

/-- One bit step of the CRC-64. -/
def crc64Bit (c : Nat) : Nat :=
  if c / 2 ^ 63 % 2 = 1 then (2 * c % 2 ^ 64) ^^^ 0x42F0E1EBA9EA3693 else 2 * c % 2 ^ 64

/-- One byte of the CRC-64. -/
def crc64Byte (c : Nat) (b : Byte) : Nat :=
  crc64Bit (crc64Bit (crc64Bit (crc64Bit (crc64Bit (crc64Bit (crc64Bit (crc64Bit (c ^^^ (b.toNat * 2 ^ 56)))))))))

/-- The CRC-64 of bytes, continued from a value. -/
def crc64From (c : Nat) (b : Bytes) : Nat := b.foldl crc64Byte c

/-- The CRC-64 of bytes. -/
def crc64 (b : Bytes) : Nat := crc64From 0 b

/-! ### Formats (R136, R170) -/

/-- An element's value: a signed finite number `m × 2^e`, an infinity, or a NaN. -/
inductive Num where
  | fin (neg : Bool) (m : Nat) (e : Int)
  | inf (neg : Bool)
  | nan
  deriving DecidableEq, Repr

/-- Width in bits of a format code. -/
def fmtW (f : Nat) : Nat :=
  match f with
  | 0 => 8 | 1 => 8 | 2 => 6 | 3 => 6 | 4 => 4 | 5 => 8 | 6 => 4 | 7 => 16 | 8 => 16 | 9 => 32 | 10 => 32 | _ => 256

/-- Bytes of a packing unit (R170). -/
def fmtUnit (f : Nat) : Nat :=
  match f with
  | 2 => 3 | 3 => 3 | 7 => 2 | 8 => 2 | 9 => 4 | 10 => 4 | 11 => 32 | _ => 1

/-- Exponent bits, fraction bits, bias of a floating-point format. -/
def fmtFloat (f : Nat) : Nat × Nat × Nat :=
  match f with
  | 0 => (4, 3, 7) | 1 => (5, 2, 15) | 2 => (2, 3, 1) | 3 => (3, 2, 3) | 4 => (2, 1, 1) | 7 => (8, 7, 127)
  | 8 => (5, 10, 15) | _ => (8, 23, 127)

/-- The format is an integer format. -/
def fmtInt (f : Nat) : Bool := f == 5 || f == 6 || f == 10

/-- Formats with infinities (R152). -/
def fmtHasInf (f : Nat) : Bool := f == 1 || f == 7 || f == 8 || f == 9

/-- Encoding of the largest finite magnitude (R138). -/
def fmtMax (f : Nat) : Nat :=
  match f with
  | 0 => 0x7E | 1 => 0x7B | 2 => 0x1F | 3 => 0x1F | 4 => 0x7 | 7 => 0x7F7F | 8 => 0x7BFF | _ => 0x7F7FFFFF

/-- The canonical NaN (R153); +0 where the format has none. -/
def fmtNan (f : Nat) : Nat :=
  match f with
  | 0 => 0x7F | 1 => 0x7E | 7 => 0x7FC0 | 8 => 0x7E00 | 9 => 0x7FC00000 | _ => 0

/-- The formats E4M3 to INT4 that take block scales (R140). -/
def fmtNarrow (f : Nat) : Bool := decide (f ≤ 6)

/-- The value of an encoding (R136, R137). -/
def decodeNum (f v : Nat) : Num :=
  if fmtInt f then
    let i := toSigned (fmtW f) v
    .fin (decide (i < 0)) i.natAbs 0
  else
    let (eb, mb, bias) := fmtFloat f
    let s := bitOf v (eb + mb)
    let e := bits v mb eb
    let m := bits v 0 mb
    let top := e == 2 ^ eb - 1
    if top && fmtHasInf f then (if m = 0 then .inf s else .nan)
    else if f = 0 && top && m == 7 then .nan
    else if e = 0 then .fin s m (1 - (bias : Int) - mb)
    else .fin s (2 ^ mb + m) ((e : Int) - bias - mb)

/-! ### Rounding (R151 to R156); the second component counts departures -/

/-- `a × 2^(-s)` rounded to the nearest integer, ties to even. -/
def roundShift (a s : Nat) : Nat :=
  let q := a >>> s
  let r := a - q <<< s
  if s = 0 then a
  else if 2 * r > 2 ^ s ∨ (2 * r = 2 ^ s ∧ q % 2 = 1) then q + 1 else q

/-- `a × 2^e` rounded to an integer, ties to even. -/
def roundInt (a : Nat) (e : Int) : Nat := if 0 ≤ e then a <<< e.toNat else roundShift a (-e).toNat

/-- The encoding of a non-zero magnitude `a × 2^e` in a floating-point format, before overflow. -/
def roundMag (f a : Nat) (e : Int) : Nat :=
  let (_, mb, bias) := fmtFloat f
  let lo : Int := 1 - bias - mb
  let q := max ((a.log2 : Int) + e - mb) lo
  let r := roundInt a (e - q)
  (q - lo).toNat <<< mb + r

/-- The sign bit of a format. -/
def signBit (f : Nat) (neg : Bool) : Nat := if neg then 2 ^ (fmtW f - 1) else 0

/-- An integer result narrowed by R154. -/
def satInt (f : Nat) (i : Int) : Nat × Nat :=
  let w := fmtW f
  let hi : Int := 2 ^ (w - 1) - 1
  let lo : Int := -(2 ^ (w - 1))
  if i > hi then (ofSigned w hi, 1) else if i < lo then (ofSigned w lo, 1) else (ofSigned w i, 0)

/-- A finite value written in a format: rounded once, with overflow by R152 and R154.  An overflow to infinity counts
once, as an overflow and not also as an infinity made from finite inputs (R156; DESIGN CHOICE, log entry 54). -/
def writeFin (f : Nat) (sat : Bool) (neg : Bool) (a : Nat) (e : Int) : Nat × Nat :=
  if fmtInt f then
    let r : Int := roundInt a e
    satInt f (if neg then -r else r)
  else if a = 0 then (signBit f neg, 0)
  else
    let b := roundMag f a e
    if b > fmtMax f then
      if fmtHasInf f && !sat then (signBit f neg + (fmtMax f + 1), 1) else (signBit f neg + fmtMax f, 1)
    else (signBit f neg + b, 0)

/-- A value written in a format (R151 to R154). -/
def writeNum (f : Nat) (sat : Bool) : Num → Nat × Nat
  | .fin n a e => writeFin f sat n a e
  | .nan => if fmtInt f then (0, 1) else if fmtNan f = 0 then (0, 1) else (fmtNan f, 0)
  | .inf n =>
    if fmtInt f then
      let w := fmtW f
      (if n then 2 ^ (w - 1) else 2 ^ (w - 1) - 1, 1)
    else if fmtHasInf f then (signBit f n + (fmtMax f + 1), 0)
    else (signBit f n + fmtMax f, 1)

/-- `rnd(N, E)` of an integer (R151). -/
def rnd (f : Nat) (sat : Bool) (n e : Int) : Nat × Nat := writeFin f sat (decide (n < 0)) n.natAbs e

/-! ### Elements in bytes (R139) -/

/-- Element `i` of packed bytes. -/
def elemAt (f : Nat) (b : Bytes) (i : Nat) : Nat :=
  let w := fmtW f
  bits (leNat (slice b (i * w / 8) ((i * w % 8 + w + 7) / 8))) (i * w % 8) w

/-- Number of whole elements in bytes. -/
def elemCount (f : Nat) (b : Bytes) : Nat := b.length * 8 / fmtW f

/-- Elements packed into bytes; a short last unit is filled with zeros. -/
def packElems (f : Nat) (l : List Nat) : Bytes :=
  let w := fmtW f
  let per := if w = 4 then 2 else if w = 6 then 4 else 1
  ((List.range ((l.length + per - 1) / per)).flatMap (fun i =>
    leBytes (per * w / 8) ((List.range per).foldl (fun n j => n + (l.getD (per * i + j) 0 % 2 ^ w) <<< (j * w)) 0))).take
    ((l.length * w + 7) / 8)

/-- A block scale applied to a value; 0xFF makes it a NaN (R140). -/
def scaleNum (s : Nat) : Num → Num
  | .fin n m e => if s = 255 then .nan else .fin n m (e + s - 127)
  | x => if s = 255 then .nan else x

/-! ### Slugs (R141 to R150) -/

/-- VALUE kept modulo 2¹⁹², as a signed integer. -/
def wrap192 (v : Int) : Int := toSigned 192 (ofSigned 192 v)

/-- CLASS of a sum (R144): 0 finite, 1 +∞, 2 −∞, 3 NaN. -/
def classAdd (a b : Nat) : Nat :=
  if a = 0 then b else if b = 0 then a else if a = b then a else 3

/-- The sum of two slugs (R144). -/
def slugAdd (a b : Slug) : Slug :=
  { value := wrap192 (a.value + b.value), terms := min 0x1FFFFFFF (a.terms + b.terms), cls := classAdd a.cls b.cls }

/-- A term entering a slug (R145, R148), with its departure count. -/
def termOf : Num → Slug × Nat
  | .nan => (⟨0, 1, 3⟩, 0)
  | .inf n => (⟨0, 1, if n then 2 else 1⟩, 0)
  | .fin n m e =>
    if m = 0 then (⟨0, 1, 0⟩, 0)
    else
      let s : Int := if n then -1 else 1
      if (m.log2 : Int) + e ≥ 47 then (⟨s * (2 ^ 167 - 1), 1, 0⟩, 1)
      else if e + 120 ≥ 0 then (⟨s * (m <<< (e + 120).toNat : Nat), 1, 0⟩, 0)
      else
        let k := (-(e + 120)).toNat
        if m % 2 ^ k = 0 then (⟨s * (m >>> k : Nat), 1, 0⟩, 0) else (⟨0, 1, 0⟩, 1)

/-- The exact product of two values (R148). -/
def mulNum : Num → Num → Num
  | .nan, _ => .nan
  | _, .nan => .nan
  | .inf a, .inf b => .inf (a != b)
  | .inf a, .fin b m _ => if m = 0 then .nan else .inf (a != b)
  | .fin a m _, .inf b => if m = 0 then .nan else .inf (a != b)
  | .fin a m e, .fin b k g => .fin (a != b) (m * k) (e + g)

/-- A slug converted once (R151, R153, R155); TERMS above 2²⁴ is counted (R150). -/
def slugTo (f : Nat) (sat : Bool) (s : Slug) : Nat × Nat :=
  let r :=
    if s.cls = 3 then writeNum f sat .nan
    else if s.cls = 1 then writeNum f sat (.inf false)
    else if s.cls = 2 then writeNum f sat (.inf true)
    else if s.value = 0 then (0, 0)
    else rnd f sat s.value (-120)
  (r.1, r.2 + if s.terms > 2 ^ 24 then 1 else 0)

/-- The 32-byte cell of a slug (R142). -/
def cellOf (s : Slug) : Bytes :=
  let b := leBytes 24 (ofSigned 192 s.value) ++ leBytes 4 (s.terms + s.cls * 2 ^ 29)
  b ++ leBytes 4 (crc32c b)

/-- A cell read as a slug (R143). -/
def slugOf (b : Bytes) : Option Slug :=
  if allZero b || fieldAt b 28 4 == crc32c (slice b 0 28) then
    let m := fieldAt b 24 4
    some ⟨toSigned 192 (fieldAt b 0 24), m % 2 ^ 29, bits m 29 2⟩
  else none

/-! ### Elementwise operations (R157) -/

/-- The exact sum of two values, with IEEE 754's sign of zero under roundTiesToEven. -/
def addNum : Num → Num → Num
  | .nan, _ => .nan
  | _, .nan => .nan
  | .inf a, .inf b => if a = b then .inf a else .nan
  | .inf a, _ => .inf a
  | _, .inf b => .inf b
  | .fin a m e, .fin b k g =>
    let x := min e g
    let v : Int := (if a then -1 else 1) * ((m <<< (e - x).toNat : Nat) : Int) +
      (if b then -1 else 1) * ((k <<< (g - x).toNat : Nat) : Int)
    if v = 0 then .fin (a && b) 0 0 else .fin (decide (v < 0)) v.natAbs x

/-- The value negated. -/
def negNum : Num → Num
  | .fin n m e => .fin (!n) m e
  | .inf n => .inf (!n)
  | .nan => .nan

/-- Comparison of two values that are not NaN: −1, 0 or 1; −0 equals +0. -/
def cmpNum (a b : Num) : Int :=
  match addNum a (negNum b) with
  | .fin n m _ => if m = 0 then 0 else if n then -1 else 1
  | .inf n => if n then -1 else 1
  | .nan => 0

/-- The value's sign bit. -/
def numNeg : Num → Bool
  | .fin n _ _ => n
  | .inf n => n
  | .nan => false

/-- The value is finite. -/
def numFinite : Num → Bool
  | .fin _ _ _ => true
  | _ => false

/-- Minimum or maximum: the operand that is not NaN; −0 below +0. -/
def minmaxNum (mx : Bool) (a b : Num) : Num :=
  if a = .nan then b else if b = .nan then a
  else
    let c := cmpNum a b
    let less := decide (c < 0) || (c == 0 && numNeg a && !numNeg b)
    if less = mx then b else a

/-- One elementwise operation of VOP (R174): 0 ADD, 1 SUB, 2 MUL, 3 FMA, 4 MIN, 5 MAX, 6 CMPEQ, 7 CMPLT, 9 MOV. -/
def elemOp (op f : Nat) (sat : Bool) (x y z : Nat) : Nat × Nat :=
  let a := decodeNum f x
  let b := decodeNum f y
  let c := decodeNum f z
  if op = 9 then (if a = .nan then writeNum f sat .nan else (x, 0))
  else if op = 6 then
    (if a ≠ .nan ∧ b ≠ .nan ∧ cmpNum a b = 0 ∧ (numFinite a = numFinite b) then 2 ^ fmtW f - 1 else 0, 0)
  else if op = 7 then (if a ≠ .nan ∧ b ≠ .nan ∧ cmpNum a b < 0 then 2 ^ fmtW f - 1 else 0, 0)
  else
    let r :=
      if op = 0 then addNum a b
      else if op = 1 then addNum a (negNum b)
      else if op = 2 then mulNum a b
      else if op = 3 then addNum (mulNum a b) c
      else minmaxNum (op == 5) a b
    writeNum f sat r

/-- Conversion from one format to another (R151 to R154). -/
def convert (sf df : Nat) (sat : Bool) (x : Nat) : Nat × Nat := writeNum df sat (decodeNum sf x)

/-! ### MX quantisation (R158) -/

/-- emax of a narrow format. -/
def fmtEmax (f : Nat) : Int :=
  match f with
  | 0 => 8 | 1 => 15 | 2 => 2 | 3 => 4 | 4 => 2 | 5 => 6 | _ => 2

/-- The larger of two magnitudes given as (m, e), zero magnitudes losing. -/
def largerMag (a b : Nat × Int) : Nat × Int :=
  if a.1 = 0 then b else if b.1 = 0 then a
  else
    let x := min a.2 b.2
    if a.1 <<< (a.2 - x).toNat < b.1 <<< (b.2 - x).toNat then b else a

/-- One block of 32 values: the elements, the scale and the departures counted. -/
def mxBlock (f : Nat) (l : List Num) : List Nat × Nat × Nat :=
  let bad := (l.filter (fun x => !numFinite x)).length
  if bad > 0 then (l.map (fun _ => 0), 255, bad)
  else
    let amax := l.foldl (fun (b : Nat × Int) x =>
      match x with
      | .fin _ m e => largerMag b (m, e)
      | _ => b) (0, 0)
    if amax.1 = 0 then (l.map (fun x => if fmtInt f then 0 else signBit f (numNeg x)), 127, 0)
    else
      let es := max (-127) (min 127 ((amax.1.log2 : Int) + amax.2 - fmtEmax f))
      (l.map (fun x =>
        match x with
        | .fin n m e => (writeFin f true n m (e - es)).1
        | _ => 0), (es + 127).toNat, 0)

/-! ### Defined functions (R159 to R163) -/

/-- recip_seed of R159. -/
def recipSeed : List Nat := [248, 234, 221, 210, 200, 191, 182, 174, 167, 161, 155, 149, 144, 139, 134, 130]

/-- rsqrt_seed of R159. -/
def rsqrtSeed : List Nat := [248, 235, 223, 214, 205, 197, 190, 184, 176, 166, 158, 151, 145, 139, 134, 130]

/-- ln2 of R159. -/
def ln2K : Int := 0x2C5C85FDF473DE6B
/-- log2e of R159. -/
def log2eK : Int := 0x5C551D94AE0BF85E
/-- exp_c of R159. -/
def expC : List Int :=
  [0x4000000000000000, 0x4000000000000000, 0x2000000000000000, 0x0AAAAAAAAAAAAAAA, 0x02AAAAAAAAAAAAAA,
   0x0088888888888888, 0x0016C16C16C16C16, 0x0003403403403403]
/-- log_c of R159, for n = 9, 7, 5, 3, 1. -/
def logC : List Int :=
  [0x071C71C71C71C71C, 0x0924924924924924, 0x0CCCCCCCCCCCCCCC, 0x1555555555555555, 0x4000000000000000]

/-- One step of the reciprocal's recurrence (R160). -/
def recipStep (mant y : Int) : Int := (y * (2 ^ 33 - mant * y / 2 ^ 23)) / 2 ^ 32

/-- reciprocal (R160) of `sgn × mant × 2^(e − 23)`. -/
def recipFn (f : Nat) (sat neg : Bool) (mant : Nat) (e : Int) : Nat × Nat :=
  let y0 : Int := (recipSeed.getD ((mant >>> 19) % 16) 0 <<< 24 : Nat)
  let y := recipStep mant (recipStep mant (recipStep mant y0))
  rnd f sat (if neg then -y else y) (-32 - e)

/-- One step of the rsqrt's recurrence (R161). -/
def rsqrtStep (m2 y : Int) : Int := (y * (3 * 2 ^ 32 - (m2 * (y * y / 2 ^ 32)) / 2 ^ 23)) / 2 ^ 33

/-- rsqrt (R161) of a positive number. -/
def rsqrtFn (f : Nat) (sat : Bool) (mant : Nat) (e : Int) : Nat × Nat :=
  let odd := decide (e % 2 = 1)
  let m2 : Nat := if odd then 2 * mant else mant
  let e2 := if odd then e - 1 else e
  let y0 : Int := (rsqrtSeed.getD (8 * b2n odd + (mant >>> 20) % 8) 0 <<< 24 : Nat)
  let y := rsqrtStep m2 (rsqrtStep m2 (rsqrtStep m2 y0))
  rnd f sat y (-32 - e2 / 2)

/-- The exponent and significand that exp forms for `±m × 2^e` below 128 in magnitude (R162): the value is
`p × 2^(k − 62)`. -/
def expCore (neg : Bool) (m : Nat) (e : Int) : Int × Int :=
  let x : Int := if 0 ≤ e + 62 then (m <<< (e + 62).toNat : Nat) else (m >>> (-(e + 62)).toNat : Nat)
  let xi := if neg then -x else x
  let k := (xi * log2eK + 2 ^ 123) / 2 ^ 124
  let r := xi - k * ln2K
  (k, [6, 5, 4, 3, 2, 1, 0].foldl (fun p n => expC.getD n 0 + (p * r) / 2 ^ 62) (expC.getD 7 0))

/-- exp (R162) of `±m × 2^e` below 128 in magnitude. -/
def expFn (f : Nat) (sat neg : Bool) (m : Nat) (e : Int) : Nat × Nat :=
  let r := expCore neg m e
  rnd f sat r.2 (r.1 - 62)

/-- log (R163) of a positive number. -/
def logFn (f : Nat) (sat : Bool) (mant : Nat) (e : Int) : Nat × Nat :=
  let hi := decide (mant ≥ 0xB504F4)
  let g : Int := if hi then e + 1 else e
  let d : Int := if hi then 2 ^ 24 else 2 ^ 23
  let s := (((mant : Int) - d) * 2 ^ 62) / ((mant : Int) + d)
  let z := (s * s) / 2 ^ 62
  let p := logC.foldl (fun p c => c + (p * z) / 2 ^ 62) 0x05D1745D1745D174
  rnd f sat (g * ln2K + (s * p) / 2 ^ 61) (-62)

/-- A defined function of a value (R159): 0 exp, 1 log, 2 reciprocal, 3 rsqrt.  An infinity made from a finite input counts
for itself; a format that could not hold it would count its writing as a finite value too (R156; DESIGN CHOICE, log entry
54). -/
def definedFn (fn f : Nat) (sat : Bool) (x : Num) : Nat × Nat :=
  match x with
  | .nan => writeNum f sat .nan
  | .inf n =>
    if fn = 2 then writeNum f sat (.fin n 0 0)
    else if n then (if fn = 0 then writeNum f sat (.fin false 0 0) else writeNum f sat .nan)
    else if fn = 3 then writeNum f sat (.fin false 0 0)
    else writeNum f sat (.inf false)
  | .fin n m e =>
    if m = 0 then
      if fn = 0 then writeNum f sat (.fin false 1 0)
      else
        let r := writeNum f sat (.inf (if fn = 1 then true else n))
        (r.1, r.2 + 1)
    else
      let l := m.log2
      let mant := if l ≤ 23 then m <<< (23 - l) else m >>> (l - 23)
      let ex := e + l
      if fn = 2 then recipFn f sat n mant ex
      else if fn = 0 then
        if ex ≥ 7 then (if n then writeNum f sat (.fin false 0 0) else writeFin f sat false 1 200)
        else expFn f sat n m e
      else if n then
        let r := writeNum f sat .nan
        (r.1, r.2 + 1)
      else if fn = 3 then rsqrtFn f sat mant ex
      else logFn f sat mant ex

/-- A sum of values as a slug, with its departures (R149). -/
def sumNums (l : List Num) : Slug × Nat :=
  l.foldl (fun (a : Slug × Nat) x => let t := termOf x; (slugAdd a.1 t.1, a.2 + t.2)) (Slug.zero, 0)

end Sys2Proof.Machine
end

