-- ==== Sys2Proof/Machine/Codec.lean ====
section
/-! DEFINITION. The lossless vector-quantisation codec: the block format, the encoder and the decoder with its checks
(R299 to R306). -/

namespace Sys2Proof.Machine

open Sys2Proof

/-- The entries of a codebook; the zero codebook has one entry of zeros (R300). -/
abbrev Codebook := List Bytes

/-- The built-in zero codebook. -/
def zeroBook : Codebook := [zeros 16]

/-- Index width W of a codebook of `n` entries: ⌈log₂ n⌉. -/
def indexWidth (n : Nat) : Nat := if n ≤ 1 then 0 else (n - 1).log2 + 1

/-- The bytes of a list of bits, bit n being bit n mod 8 of byte n / 8, padded with zeros (R302). -/
def bitsToBytes (l : List Bool) : Bytes :=
  (List.range ((l.length + 7) / 8)).map (fun i =>
    BitVec.ofNat 8 ((List.range 8).foldl (fun n j => n + b2n (l.getD (8 * i + j) false) * 2 ^ j) 0))

/-- The bits of bytes. -/
def bytesToBits (b : Bytes) : List Bool := b.flatMap (fun x => (List.range 8).map (fun j => bitOf x.toNat j))

/-- A field of `w` bits, least significant first. -/
def fieldBits (w v : Nat) : List Bool := (List.range w).map (fun j => bitOf v j)

/-- Rice(x, k) (R302). -/
def riceBits (x k : Nat) : List Bool := List.replicate (x >>> k) true ++ [false] ++ fieldBits k x

/-- The XOR of two vectors. -/
def xorBytes (a b : Bytes) : Bytes := List.zipWith (fun x y => x ^^^ y) a b

/-- The tokens of a residual from a run of `z` zero bytes already seen (R303). -/
def residualBits (k : Nat) : Bytes → Nat → List Bool
  | [], z => if z = 0 then [] else riceBits z k
  | b :: t, z =>
    if b = 0 then residualBits k t (z + 1)
    else riceBits z k ++ fieldBits 8 b.toNat ++ residualBits k t 0

/-- The bits of one vector under one entry. -/
def vectorBits (k w idx : Nat) (v e : Bytes) : List Bool :=
  true :: fieldBits w idx ++ residualBits k (xorBytes v e) 0

/-- The index whose coding takes the fewest bits, the lower index on a tie (R304). -/
def bestIndex (cb : Codebook) (k w : Nat) (v : Bytes) : Nat :=
  ((cb.foldl (fun (s : Nat × Nat × Nat) e =>
    let n := (vectorBits k w s.1 v e).length
    if s.1 = 0 ∨ n < s.2.2 then (s.1 + 1, s.1, n) else (s.1 + 1, s.2.1, s.2.2)) (0, 0, 0))).2.1

/-- The stream of a run of vectors under one Rice parameter. -/
def streamBits (cb : Codebook) (k : Nat) (vs : List Bytes) : List Bool :=
  let w := indexWidth cb.length
  vs.flatMap (fun v => let i := bestIndex cb k w v; vectorBits k w i v (cb.getD i (zeros 16))) ++ [false]

/-- The best stream over the eight Rice parameters, with its parameter (R304). -/
def bestStream (cb : Codebook) (vs : List Bytes) : Nat × List Bool :=
  [1, 2, 3, 4, 5, 6, 7].foldl (fun b k =>
    let s := streamBits cb k vs
    if s.length < b.2.length then (k, s) else b) (0, streamBits cb 0 vs)

/-- CB_CRC of a codebook (R299). -/
def bookCrc (cb : Codebook) : Nat := crc32c cb.flatten

/-- A block header (R301). -/
def blockHeader (rawLen encLen handle flags params rawCrc cbCrc : Nat) : Bytes :=
  leBytes 2 rawLen ++ leBytes 2 encLen ++ leBytes 2 handle ++ leBytes 1 flags ++ leBytes 1 params ++
    leBytes 4 rawCrc ++ leBytes 4 cbCrc

/-- An encoded block of raw bytes, and whether it was written RAW (R304).  RAW_LEN 4,096 is written as 0. -/
def encodeBlock (cb : Codebook) (handle : Nat) (force : Bool) (raw : Bytes) : Bytes × Bool :=
  let rl := if raw.length = 4096 then 0 else raw.length
  let best := bestStream cb (chunks 16 raw)
  let body := bitsToBytes best.2
  if force || decide (body.length ≥ raw.length) then
    (blockHeader rl (16 + raw.length) 0 1 0 (crc32c raw) 0 ++ raw, true)
  else
    (blockHeader rl (16 + body.length) handle 0 best.1 (crc32c raw) (if handle = 0 then 0 else bookCrc cb) ++ body, false)

/-- Outcome of decoding a block: what is written, the raw length it declares, and a failure as (status, detail). -/
structure Decoded where
  out : Bytes
  rawLen : Nat
  fail : Option (Nat × Nat)
  deriving DecidableEq, Repr

/-- Reads Rice(x, k); none when the stream ends. -/
def readRice (k : Nat) : List Bool → Nat → Option (Nat × List Bool)
  | [], _ => none
  | true :: t, q => readRice k t (q + 1)
  | false :: t, q =>
    if t.length < k then none
    else some (q * 2 ^ k + (List.range k).foldl (fun n j => n + b2n (t.getD j false) * 2 ^ j) 0, t.drop k)

/-- Reads a field of `w` bits; none when the stream ends. -/
def readField (w : Nat) (l : List Bool) : Option (Nat × List Bool) :=
  if l.length < w then none
  else some ((List.range w).foldl (fun n j => n + b2n (l.getD j false) * 2 ^ j) 0, l.drop w)

/-- Reads the residual of one vector (R303, R305 step 4): at most 17 tokens. -/
def readResidual (k : Nat) : Nat → List Bool → Bytes → Except (Nat × Nat) (Bytes × List Bool)
  | 0, l, acc => .ok (acc, l)
  | n + 1, l, acc =>
    if acc.length = 16 then .ok (acc, l)
    else
      match readRice k l 0 with
      | none => .error (0x24, 5)
      | some (z, l) =>
        if acc.length + z > 16 then .error (0x24, 2)
        else if acc.length + z = 16 then .ok (acc ++ zeros z, l)
        else
          match readField 8 l with
          | none => .error (0x24, 5)
          | some (v, l) =>
            if v = 0 then .error (0x24, 7)
            else readResidual k n l (acc ++ zeros z ++ [BitVec.ofNat 8 v])

/-- Decodes vectors until the end bit: `n` bounds the vectors left, `out` is what was produced. -/
def readVectors (cb : Codebook) (k : Nat) : Nat → List Bool → Bytes → Bytes × Except (Nat × Nat) (List Bool)
  | _, [], out => (out, .error (0x24, 5))
  | _, false :: l, out => (out, .ok l)
  | 0, true :: _, out => (out, .error (0x22, 1))
  | n + 1, true :: l, out =>
    match readField (indexWidth cb.length) l with
    | none => (out, .error (0x24, 5))
    | some (i, l) =>
      if i ≥ cb.length then (out, .error (0x24, 1))
      else
        match readResidual k 17 l [] with
        | .error e => (out, .error e)
        | .ok (r, l) => readVectors cb k n l (out ++ xorBytes r (cb.getD i (zeros 16)))

/-- Decodes one block by the checks of R305, with the output of R306.  `book` gives the codebook a handle names in the
decoding context; `room` is what is left of the destination; `gapOk` is the check of the block's gap (R309). -/
def decodeBlock (book : Nat → Option Codebook) (room : Nat) (gapOk : Bool) (srcLeft : Nat) (b : Bytes) : Decoded :=
  let rl := fieldAt b 0 2
  let raw := if rl = 0 then 4096 else rl
  let el := fieldAt b 2 2
  let h := fieldAt b 4 2
  let fl := fieldAt b 6 1
  let pr := fieldAt b 7 1
  let isRaw := fl % 2 == 1
  let cbCrc := fieldAt b 12 4
  let body := slice b 16 (el - 16)
  if fl ≥ 2 ∨ pr ≥ 8 ∨ raw % 16 ≠ 0 ∨ raw > 32768 ∨ el < 17 ∨ el > 32784 ∨ (h ≠ 0 ∧ h / 4096 ≠ 8) ∨
      (isRaw = true ∧ (h ≠ 0 ∨ pr ≠ 0 ∨ cbCrc ≠ 0)) then ⟨[], raw, some (0x24, 3)⟩
  else if el > srcLeft then ⟨[], raw, some (0x24, 5)⟩
  else
    match (if h = 0 then some zeroBook else book h) with
    | none => ⟨[], raw, some (0x24, 4)⟩
    | some cb =>
      if isRaw = false ∧ cbCrc ≠ (if h = 0 then 0 else bookCrc cb) then ⟨[], raw, some (0x24, 4)⟩
      else if raw > room then ⟨[], raw, some (0x22, 2)⟩
      else if isRaw then
        if el - 16 > raw then ⟨body.take raw, raw, some (0x22, 1)⟩
        else if el - 16 < raw then ⟨body, raw, some (0x23, 1)⟩
        else if !gapOk then ⟨body, raw, some (0x24, 6)⟩
        else if crc32c body ≠ fieldAt b 8 4 then ⟨body, raw, some (0x25, 0)⟩
        else ⟨body, raw, none⟩
      else
        match readVectors cb (pr % 8) (raw / 16) (bytesToBits body) [] with
        | (out, .error e) => ⟨out, raw, some e⟩
        | (out, .ok rest) =>
          if rest.any id ∨ rest.length ≥ 8 ∨ gapOk = false then ⟨out, raw, some (0x24, 6)⟩
          else if out.length < raw then ⟨out, raw, some (0x23, 1)⟩
          else if crc32c out ≠ fieldAt b 8 4 then ⟨out, raw, some (0x25, 0)⟩
          else ⟨out, raw, none⟩

/-- The gap after a block of `n` bytes: up to the next 16-byte boundary (R308). -/
def gapLen (n : Nat) : Nat := (16 - n % 16) % 16

/-- The packed run of a page's 65,536 bytes (R96, R312): the directory, then 16 blocks at 16-byte boundaries. -/
def packRun (page : Bytes) : Bytes :=
  let blocks := (chunks 4096 page).map (fun c => (encodeBlock zeroBook 0 false c).1)
  let s := blocks.foldl (fun (s : Bytes × Bytes × Nat) b =>
    let g := gapLen b.length
    (s.1 ++ leBytes 2 s.2.2 ++ leBytes 2 b.length, s.2.1 ++ b ++ zeros g, s.2.2 + b.length + g)) ([], [], 64)
  s.1 ++ s.2.1

/-- Decodes block `k` of a packed run (R97, R312). -/
def unpackBlock (run : Bytes) (k : Nat) : Decoded :=
  let off := fieldAt run (4 * k) 2
  let len := fieldAt run (4 * k + 2) 2
  let b := slice run off len
  if fieldAt b 0 2 ≠ 0 ∨ fieldAt b 4 2 ≠ 0 ∨ fieldAt b 2 2 ≠ len then ⟨[], 4096, some (0x24, 3)⟩
  else decodeBlock (fun _ => none) 4096 true len b

/-- A codebook from its parameter block (R299). -/
def bookOf (par : Bytes) : Codebook := chunks 16 (par.drop 16)

end Sys2Proof.Machine
end

