-- ==== Sys2Proof/Config.lean ====
section
/-! DEFINITION. What the specification leaves free: constants with no body, so that no proof can see their value. -/

namespace Sys2Proof

/-- A fresh free value: the model's counter `Dev.free` picks it out.  Used for every choice of the hardware
that the specification does not fix (log entry 5). -/
opaque Config.free : Nat → Nat

/-- The 64-byte contents of an identity value the specification does not state, such as a digest
(log entry 6): the argument names what is measured. -/
opaque Config.digest : Nat → Bytes → Bytes

/-- Whether a signature over the bytes verifies under the given key bytes (log entry 6). -/
opaque Config.signatureOk : Bytes → Bytes → Bytes → Bool

/-- CODE of each kind of management frame, whose numbers the specification does not give (log entry 24). -/
opaque Config.mgmtCode : Nat → Nat

end Sys2Proof
end

