-- ==== Sys2Proof/Machine/Regs.lean ====
section
/-! DEFINITION. The register space (R28): where each register lies, its fields, access codes, effect classes and reset
values (R6 to R9), and the values last written and in force. -/

namespace Sys2Proof.Machine

/-- Access codes (R6). -/
inductive Acc where
  | ro | rw | wo | w1c | rc
  deriving DecidableEq, Repr

/-- Effect classes (R8); the one Staged boundary of a register field is the impression. -/
inductive Eff where
  | none | live | held | staged
  deriving DecidableEq, Repr

/-- A register field. -/
structure Fld where
  lsb : Nat
  w : Nat
  acc : Acc
  eff : Eff
  rst : Nat
  deriving DecidableEq, Repr

/-- A register: its offset in the register space, its size in bytes and its fields. -/
structure Reg where
  base : Nat
  size : Nat
  flds : List Fld
  deriving DecidableEq, Repr

/-- A read-only field. -/
def ro (lsb w : Nat) : Fld := ⟨lsb, w, .ro, .none, 0⟩
/-- A Live read-write field. -/
def rw (lsb w rst : Nat) : Fld := ⟨lsb, w, .rw, .live, rst⟩
/-- A Held read-write field. -/
def rwHeld (lsb w rst : Nat) : Fld := ⟨lsb, w, .rw, .held, rst⟩
/-- A read-write field Staged at the impression. -/
def rwStaged (lsb w rst : Nat) : Fld := ⟨lsb, w, .rw, .staged, rst⟩
/-- A write-only field. -/
def wo (lsb w : Nat) : Fld := ⟨lsb, w, .wo, .live, 0⟩
/-- A write-one-to-clear field. -/
def w1c (lsb w : Nat) : Fld := ⟨lsb, w, .w1c, .live, 0⟩
/-- A field that its read clears. -/
def rc (lsb w : Nat) : Fld := ⟨lsb, w, .rc, .none, 0⟩

/-- The registers of a list at a block base, as (offset, size, fields). -/
def regIn (base rel : Nat) (l : List (Nat × Nat × List Fld)) : Option Reg :=
  match l.find? (fun r => decide (r.1 ≤ rel) && decide (rel < r.1 + r.2.1)) with
  | some r => some ⟨base + r.1, r.2.1, r.2.2⟩
  | none => none

/-! ### Blocks of a floe -/

/-- Placement counter unit and migration engine (R94). -/
def plcRegs : List (Nat × Nat × List Fld) :=
  [(0x000, 4, [rw 0 1 0, rw 1 1 0, rwStaged 8 3 1]), (0x008, 4, [rwHeld 0 24 0x2710]),
   (0x010, 4, [rw 0 16 0x40, rw 16 16 4]), (0x014, 4, [rw 0 16 1, rw 16 7 0x60]),
   (0x018, 4, [rw 0 16 8, rw 16 16 2]), (0x020, 4, [ro 0 32]), (0x024, 4, [ro 0 18])]

/-- Cache slice (R109). -/
def cacheRegs : List (Nat × Nat × List Fld) :=
  [(0x000, 4, [rw 0 1 1, rw 8 8 8]), (0x008, 4, [wo 0 1, ro 1 1])]

/-- Directory slice (R358). -/
def dirRegs : List (Nat × Nat × List Fld) :=
  [(0x000, 4, [wo 0 1, ro 1 1, rw 16 16 0x64]), (0x008, 8, [ro 0 64]), (0x010, 4, [ro 0 32]),
   (0x018, 8, [rw 0 44 0, ro 63 1]), (0x020, 8, [ro 0 64]), (0x028, 8, [ro 0 64])]

/-- Memory controller integrity registers (R432). -/
def eccRegs : List (Nat × Nat × List Fld) :=
  [(0x200, 4, [rw 0 1 1]), (0x208, 4, [rw 0 1 1, rw 8 8 0x18]), (0x210, 8, [ro 0 48, w1c 48 1]),
   (0x218, 8, [rc 0 32, rc 32 16, rc 48 16])]

/-- A unit arbiter (R412). -/
def arbRegs : List (Nat × Nat × List Fld) :=
  [(0x000, 4, [rw 0 9 0x100, rwStaged 16 7 0x20, rwStaged 24 8 0]), (0x008, 4, [rw 0 8 0xFF]),
   (0x010, 4, [rw 0 24 0x4E20]), (0x018, 4, [w1c 0 32]), (0x020, 4, [ro 0 21]),
   (0x028, 8, [rc 0 24, rc 24 24, rc 48 16])]

/-- CLASS_CFG (R412). -/
def classRegs : List (Nat × Nat × List Fld) := [(0, 4, [rwStaged 0 3 0, rwStaged 4 3 7, rwStaged 8 3 4])]

/-- A codec unit or search engine (R295, R314). -/
def unitRegs : List (Nat × Nat × List Fld) := [(0x000, 4, [rwHeld 0 1 0]), (0x008, 4, [ro 0 28])]

/-- Core control (R128, R436). -/
def coreRegs : List (Nat × Nat × List Fld) :=
  [(0x0000, 4, [wo 0 1, wo 1 1]), (0x0008, 8, [ro 0 3, w1c 3 1, ro 4 4, ro 8 8, ro 20 12, ro 32 9]),
   (0x0010, 4, [rwHeld 0 32 0x006ACFC0]), (0x0018, 4, [ro 0 32]), (0x0020, 4, [ro 0 27]),
   (0x0030, 4, [wo 0 1, rwHeld 1 1 0]), (0x0038, 4, [ro 0 11])]

/-- DMA channel `h` of core `c` of its floe (R402). -/
def chanRegs (c h : Nat) : List (Nat × Nat × List Fld) :=
  [(0x00, 4, [wo 0 4]), (0x08, 4, [rwHeld 0 8 (16 * c + h), rw 8 1 1, rwHeld 9 4 0]),
   (0x10, 4, [ro 0 4, w1c 4 1, ro 8 10, ro 21 5]), (0x18, 8, [ro 0 48]), (0x20, 4, [ro 0 23]),
   (0x28, 8, [ro 0 64]), (0x30, 8, [ro 0 64])]

/-- A stream prefetcher (R127). -/
def prefRegs : List (Nat × Nat × List Fld) :=
  [(0x00, 4, [rw 0 1 0, rwHeld 1 2 0, rw 8 8 0x20]), (0x08, 8, [rwHeld 0 48 0]), (0x10, 4, [rwHeld 0 32 0x40]),
   (0x18, 4, [rwHeld 0 32 0]), (0x20, 8, [rwHeld 0 48 0]), (0x28, 4, [rwHeld 0 24 0]), (0x30, 4, [ro 0 32]),
   (0x38, 4, [ro 0 1, w1c 1 1, w1c 2 1]), (0x40, 4, [rw 0 32 0])]

/-- Sync and event interface of a core (R123 to R125). -/
def syncReg (base rel : Nat) : Option Reg :=
  if rel < 0x080 then some ⟨base + rel / 4 * 4, 4, [rwHeld 0 16 0]⟩
  else if rel < 0x084 then some ⟨base + 0x080, 4, [w1c 0 32]⟩
  else if 0x100 ≤ rel ∧ rel < 0x180 then some ⟨base + rel / 4 * 4, 4, [rw 0 8 0, rw 8 5 0, rw 15 1 0]⟩
  else if 0x200 ≤ rel ∧ rel < 0x204 then some ⟨base + 0x200, 4, [wo 0 8, wo 8 4]⟩
  else none

/-- A core's register block (R28). -/
def coreReg (base c rel : Nat) : Option Reg :=
  if rel < 0x1000 then regIn base rel coreRegs
  else if rel < 0x2000 then
    let h := (rel - 0x1000) / 0x100
    regIn (base + 0x1000 + h * 0x100) ((rel - 0x1000) % 0x100) (chanRegs c h)
  else if rel < 0x3000 then
    regIn (base + rel / 0x100 * 0x100) (rel % 0x100) prefRegs
  else if rel < 0x4000 then syncReg (base + 0x3000) (rel - 0x3000)
  else none

/-- The register of a floe that holds floe offset `rel`.  DESIGN CHOICE (log entry 59): R28 gives the merge buffer, command
unit, agent and power, and event line blocks no registers, so every offset of them is a reserved one. -/
def floeReg (base rel : Nat) : Option Reg :=
  if rel < 0x100000 then coreReg (base + rel / 0x10000 * 0x10000) (rel / 0x10000) (rel % 0x10000)
  else if rel < 0x10C000 then regIn (base + rel / 0x4000 * 0x4000) (rel % 0x4000) eccRegs
  else if 0x110000 ≤ rel ∧ rel < 0x118000 then regIn (base + rel / 0x2000 * 0x2000) (rel % 0x2000) eccRegs
  else if 0x120000 ≤ rel ∧ rel < 0x123C00 then regIn (base + rel / 0x200 * 0x200) (rel % 0x200) arbRegs
  else if 0x123C00 ≤ rel ∧ rel < 0x123C04 then regIn (base + 0x123C00) (rel - 0x123C00) classRegs
  else if 0x130000 ≤ rel ∧ rel < 0x140000 then regIn (base + 0x130000) (rel - 0x130000) cacheRegs
  else if 0x140000 ≤ rel ∧ rel < 0x150000 then regIn (base + 0x140000) (rel - 0x140000) dirRegs
  else if 0x150000 ≤ rel ∧ rel < 0x160000 then regIn (base + 0x150000) (rel - 0x150000) plcRegs
  else if 0x160000 ≤ rel ∧ rel < 0x166000 then regIn (base + rel / 0x1000 * 0x1000) (rel % 0x1000) unitRegs
  else none

/-! ### Blocks of the edge and the always-on domain -/

/-- A CXL port (R368). -/
def portRegs : List (Nat × Nat × List Fld) :=
  [(0x000, 4, [rw 0 1 1, rwHeld 1 1 0, rwHeld 2 1 0, rw 3 1 1, rw 4 1 1]), (0x008, 4, [ro 0 14]),
   (0x010, 4, [rw 0 24 0x2710]), (0x018, 4, [ro 0 14, w1c 31 1]), (0x020, 8, [ro 0 52])]

/-- A Golven link (R385). -/
def linkRegs : List (Nat × Nat × List Fld) :=
  [(0x000, 4, [rw 0 1 1, rwHeld 1 1 0, wo 2 1]), (0x008, 4, [ro 0 32]), (0x010, 4, [rw 0 8 8]),
   (0x018, 4, [rw 0 16 0]), (0x020, 8, [ro 0 64])]

/-- The capture ring (R386). -/
def ringRegs : List (Nat × Nat × List Fld) :=
  [(0x00, 8, [rwHeld 0 44 0]), (0x08, 4, [rwHeld 0 5 4]), (0x10, 4, [ro 0 32]), (0x18, 4, [rw 0 32 0])]

/-- A mirror session (R386). -/
def mirRegs : List (Nat × Nat × List Fld) :=
  [(0x00, 4, [rw 0 1 0, rw 1 5 0, rw 6 2 0, rw 8 8 0x7F, rw 16 4 0, rw 20 1 0]),
   (0x08, 4, [rw 0 10 0, rw 10 1 0, rw 11 1 0, rw 16 9 0, rw 25 1 0])]

/-- Membership and twin registers (R498). -/
def mbrRegs : List (Nat × Nat × List Fld) :=
  [(0x000, 4, [rw 0 16 0x7D0, rw 16 4 4]), (0x008, 4, [rw 0 16 0x9C4, rw 16 16 0x7D0]), (0x010, 4, [ro 0 32]),
   (0x020, 4, [rwHeld 0 8 0, rw 16 16 0x1F4]), (0x028, 4, [ro 0 29])]

/-- A mirror window (R498). -/
def mirWinRegs : List (Nat × Nat × List Fld) :=
  [(0x00, 4, [rwHeld 0 28 0]), (0x04, 4, [rwHeld 0 28 0]), (0x08, 4, [rw 0 2 0])]

/-- The fabric unit (R335). -/
def fabRegs : List (Nat × Nat × List Fld) :=
  [(0x000, 4, [rw 0 1 1, rw 1 1 1]), (0x008, 4, [rw 0 9 0x40, rw 16 9 0x100]), (0x010, 4, [rw 0 4 8, rw 8 5 0x10]),
   (0x018, 4, [rw 0 24 0x64, rw 24 4 3]), (0x020, 4, [ro 0 32])]

/-- The switch core block (R386). -/
def swReg (base rel : Nat) : Option Reg :=
  if rel < 0x10 then regIn base rel [(0x0, 4, [rw 0 1 1, rw 8 24 0x3E8]), (0x8, 4, [ro 0 18])]
  else if 0x100 ≤ rel ∧ rel < 0x164 then some ⟨base + rel / 4 * 4, 4, [rw 0 8 0x3E]⟩
  else if 0x200 ≤ rel ∧ rel < 0x520 then
    some ⟨base + rel / 4 * 4, 4, [rw 0 16 (if (rel / 4) % 8 = 7 then 0 else 0x40), rw 16 16 0x2000]⟩
  else if 0x2000 ≤ rel ∧ rel < 0x2100 then regIn (base + rel / 0x40 * 0x40) (rel % 0x40) mirRegs
  else if 0x2100 ≤ rel ∧ rel < 0x2120 then regIn (base + 0x2100) (rel - 0x2100) ringRegs
  else if 0x10000 ≤ rel ∧ rel < 0x11000 then
    some ⟨base + rel / 4 * 4, 4, [rw 0 3 0, rw 3 1 0, rw 4 3 0, rw 7 1 0, rw 8 4 0]⟩
  else if 0xE0000 ≤ rel ∧ rel < 0xE0100 then regIn (base + 0xE0000) (rel - 0xE0000) mbrRegs
  else if 0xE0100 ≤ rel ∧ rel < 0xE0200 then regIn (base + rel / 0x10 * 0x10) (rel % 0x10) mirWinRegs
  else if 0xF0000 ≤ rel ∧ rel < 0xF0100 then regIn (base + 0xF0000) (rel - 0xF0000) fabRegs
  else none

/-- The impression block (R419). -/
def imprReg (base rel : Nat) : Option Reg :=
  if rel < 0x100 then
    regIn base rel
      [(0x000, 4, [rw 0 2 2, rw 2 1 0]), (0x008, 4, [rw 0 16 0x32, rw 16 16 0xC350]),
       (0x010, 4, [rw 0 16 0x3E8, rw 16 8 4]), (0x018, 4, [rw 0 24 0x186A0]), (0x020, 4, [ro 0 12]),
       (0x028, 4, [ro 0 32]), (0x030, 8, [ro 0 64]), (0x038, 8, [ro 0 64]), (0x040, 8, [ro 0 48])]
  else if rel < 0x180 then
    let w := (rel - 0x100) / 0x10
    let one := if w = 0 then 1 else 0
    regIn (base + rel / 0x10 * 0x10) (rel % 0x10)
      [(0x0, 4, [rwStaged 0 1 one, rwStaged 1 1 0, rwStaged 4 4 (15 * one)]), (0x4, 4, [rwStaged 0 32 0]),
       (0x8, 4, [rwStaged 0 32 (1024 * one)])]
  else none

/-- The time unit (R521). -/
def timeRegs : List (Nat × Nat × List Fld) :=
  [(0x000, 4, [rw 0 1 0]), (0x008, 4, [ro 0 32]), (0x010, 8, [rw 0 64 0])]

/-- Power and thermal (R526). -/
def pwrRegs : List (Nat × Nat × List Fld) :=
  [(0x000, 4, [wo 0 1]), (0x008, 4, [rw 0 8 0x5F]), (0x010, 4, [rw 0 16 0x190]), (0x018, 8, [ro 0 64])]

/-- The error queue (R447). -/
def errReg (base rel : Nat) : Option Reg :=
  if rel < 0x100 then
    regIn base rel
      [(0x000, 4, [ro 0 9, rc 16 16]), (0x008, 8, [ro 0 64]), (0x010, 4, [wo 0 32]), (0x018, 4, [rw 0 1 1, rw 4 4 2]),
       (0x020, 4, [ro 0 18])]
  else if 0x8000 ≤ rel ∧ rel < 0xC000 then some ⟨base + rel / 8 * 8, 8, [ro 0 64]⟩
  else none

/-- BUS_STATUS of the compositor and the floe agents (R58). -/
def busReg (base rel : Nat) : Option Reg :=
  if 0x800 ≤ rel ∧ rel < 0x850 ∧ rel % 0x10 < 8 then
    some ⟨base + rel / 0x10 * 0x10, 8, [ro 0 8, w1c 8 1, ro 32 32]⟩
  else none

/-- The register that holds an offset of the register space (R28); none for a reserved offset. -/
def regAt (off : Nat) : Option Reg :=
  if off < 0x04000000 then floeReg (off / 0x01000000 * 0x01000000) (off % 0x01000000)
  else if off < 0x04500000 then
    let n := (off - 0x04000000) / 0x40000
    let base := 0x04000000 + n * 0x40000
    if n < 12 then regIn base (off - base) portRegs
    else if n < 20 then regIn base (off - base) linkRegs else none
  else if 0x04800000 ≤ off ∧ off < 0x04900000 then swReg 0x04800000 (off - 0x04800000)
  else if 0x04A00000 ≤ off ∧ off < 0x04A04000 then regIn 0x04A00000 (off - 0x04A00000) timeRegs
  else if 0x04A04000 ≤ off ∧ off < 0x04A10000 then imprReg 0x04A04000 (off - 0x04A04000)
  else if 0x04B00000 ≤ off ∧ off < 0x04B10000 then regIn 0x04B00000 (off - 0x04B00000) pwrRegs
  else if 0x04C00000 ≤ off ∧ off < 0x04C10000 then errReg 0x04C00000 (off - 0x04C00000)
  else if 0x04D00000 ≤ off ∧ off < 0x04D10000 then busReg 0x04D00000 (off - 0x04D00000)
  else if 0x04E00000 ≤ off ∧ off < 0x04E00004 then some ⟨0x04E00000, 4, [ro 0 5]⟩
  else none

/-- The value of a register's fields at reset. -/
def Reg.reset (r : Reg) : Nat := r.flds.foldl (fun n f => n + f.rst * 2 ^ f.lsb) 0

/-- The reset value of the register at an offset. -/
def regReset (off : Nat) : Nat :=
  match regAt off with
  | some r => r.reset
  | none => 0

/-- The read-write bits of the register at `base` as last written (R9). -/
def rv (d : Dev) (base : Nat) : Nat := tget d.regs base (regReset base)

/-- The same bits as in force: a Staged field takes effect at the impression (R9). -/
def re (d : Dev) (base : Nat) : Nat := (tget? d.force base).getD (rv d base)

/-- A field of a register as last written. -/
def rf (d : Dev) (base lsb w : Nat) : Nat := bits (rv d base) lsb w

/-- A field of a register as in force. -/
def ef (d : Dev) (base lsb w : Nat) : Nat := bits (re d base) lsb w

/-! ### Bases used by the units -/

/-- The register base of floe `f`. -/
def floeBase (f : Nat) : Nat := f * 0x01000000
/-- The register base of global core `c`. -/
def coreBase (c : Nat) : Nat := floeBase (c / 16) + (c % 16) * 0x10000
/-- The register base of DMA channel `h` of core `c`. -/
def chanBase (c h : Nat) : Nat := coreBase c + 0x1000 + h * 0x100
/-- The register base of prefetcher `p` of core `c`. -/
def prefBase (c p : Nat) : Nat := coreBase c + 0x2000 + p * 0x100
/-- The register base of arbiter `a` of floe `f`. -/
def arbBase (f a : Nat) : Nat := floeBase f + 0x120000 + a * 0x200
/-- The register base of memory controller `u` of floe `f`: stacks 0 to 2, then bulk channels. -/
def eccBase (f u : Nat) : Nat :=
  if u < 3 then floeBase f + 0x100000 + u * 0x4000 else floeBase f + 0x110000 + (u - 3) * 0x2000
/-- The register base of CXL port `n`. -/
def portBase (n : Nat) : Nat := 0x04000000 + n * 0x40000
/-- The register base of Golven link `n`. -/
def linkBase (n : Nat) : Nat := 0x04000000 + (n + 12) * 0x40000

end Sys2Proof.Machine
end

