-- ==== Sys2Proof/Machine/Ops.lean ====
section
/-! DEFINITION. Shared operations of the device: how a command is served, telemetry, interrupts, events and error
records. -/

namespace Sys2Proof.Machine

open Sys2Proof

/-! ### Free values and outputs -/

/-- A fresh free value (log entry 5). -/
def freeVal (d : Dev) : Nat := Config.free d.free

/-- The device after a free value has been used. -/
def useFree (d : Dev) : Dev := { d with free := d.free + 1 }

/-- Records what the device sends out (log entry 7). -/
def emit (d : Dev) (o : Out) : Dev := { d with out := o :: d.out }

/-! ### Telemetry (R25) -/

/-- Adds to the device counter at an offset of the device telemetry window. -/
def telD (d : Dev) (off n : Nat) : Dev :=
  { d with tel := tput d.tel (0x400000 + off) ((tget d.tel (0x400000 + off) 0 + n) % 2 ^ 64) }

/-- Adds to the counter at an offset of a floe's telemetry window. -/
def telF (d : Dev) (f off n : Nat) : Dev :=
  let k := 0x500000 + f * 0x100000 + off
  { d with tel := tput d.tel k ((tget d.tel k 0 + n) % 2 ^ 64) }

/-! ### Device and floe states -/

/-- A floe's state: 0 ON, 1 DRAINING, 2 OFF, 3 WAKING (R19); OFF until boot powers it. -/
def floeState (d : Dev) (f : Nat) : Nat := tget d.boot.floes f 2

/-- The floe is ON. -/
def floeOn (d : Dev) (f : Nat) : Bool := floeState d f == 0

/-- A floe's engines work: it is ON, or DRAINING, where what is in flight completes (R19). -/
def floeRuns (d : Dev) (f : Nat) : Bool := decide (floeState d f ≤ 1)

/-- The number of floes that are ON, as bits. -/
def floeOnBits (d : Dev) : Nat :=
  b2n (floeOn d 0) + 2 * b2n (floeOn d 1) + 4 * b2n (floeOn d 2) + 8 * b2n (floeOn d 3)

/-- A floe, stack or bulk channel is contained (R27). -/
def anyContained (d : Dev) : Bool := !d.boot.contained.isEmpty || !d.boot.containedMem.isEmpty

/-- DEVICE_STATUS.STATE (R26, R27). -/
def devState (d : Dev) : Nat :=
  if d.boot.phase = 0 then 0
  else if d.boot.failed then 15
  else if d.boot.phase = 1 then 1
  else if d.boot.phase = 2 then 2
  else if d.boot.fenced then 5
  else if anyContained d then 4
  else 3

/-- Stack-tier capacity in service, in GiB: that of the stacks found at boot, where neither they nor their floe are contained
(R26, R442). -/
def stackGiB (d : Dev) : Nat :=
  ((d.boot.stackCaps.filter (fun s => !d.boot.containedMem.contains s.1 && !d.boot.contained.contains (s.1 / 3))).map (·.2)).foldl (· + ·) 0

/-- Bulk-tier capacity in service, in GiB (R26). -/
def bulkGiB (d : Dev) : Nat :=
  ((d.boot.bulks.filter (fun s => !d.boot.containedMem.contains (16 + s.1) && !d.boot.contained.contains (s.1 / 4))).map (·.2)).foldl (· + ·) 0

/-- A context exists (R459). -/
def ctxExists (d : Dev) (c : Nat) : Bool := thas d.ctxs c

/-- The context, or a fresh one where none exists. -/
def ctxOf (d : Dev) (c : Nat) : Ctx := tget d.ctxs c Ctx.fresh

/-- A mailbox. -/
def mbOf (d : Dev) (m : Nat) : Mailbox := tget d.mbx m Mailbox.reset

/-- The device with a mailbox changed. -/
def setMb (d : Dev) (m : Nat) (x : Mailbox) : Dev := { d with mbx := tput d.mbx m x }

/-- A port. -/
def portOf (d : Dev) (p : Nat) : Port := tget d.ports p Port.reset

/-- The device with a port changed. -/
def setPort (d : Dev) (p : Nat) (x : Port) : Dev := { d with ports := tput d.ports p x }

/-- A link. -/
def linkOf (d : Dev) (l : Nat) : Link := tget d.links l Link.reset

/-- The device with a link changed. -/
def setLink (d : Dev) (l : Nat) (x : Link) : Dev := { d with links := tput d.links l x }

/-- A core. -/
def coreOf (d : Dev) (c : Nat) : Core := tget d.cores c Core.idle

/-- The device with a core changed. -/
def setCore (d : Dev) (c : Nat) (x : Core) : Dev := { d with cores := tput d.cores c x }

/-! ### Interrupts (R37, R465) -/

/-- An MSI-X entry of a port; at reset it is masked, as PCIe defines, and not pending (log entry 3). -/
def vecOf (p : Port) (e : Nat) : Vec := tget p.vecs e ⟨true, false, false, 0, 0⟩

/-- The port's link carries messages: L0, or L0p and L1 which first return to L0 (R365). -/
def linkUp (p : Port) : Bool := p.link == 2 || p.link == 3 || p.link == 4

/-- The port back at L0 and full width before it sends (R365). -/
def wake (p : Port) : Port := if p.link = 3 ∨ p.link = 4 then { p with link := 2 } else p

/-- A port in L0p or L1 returns to L0 before it sends (R365). -/
def wakePort (d : Dev) (port : Nat) : Dev :=
  let p := portOf d port
  if p.link = 3 ∨ p.link = 4 then setPort d port { p with link := 2 } else d

/-- A response to a CXL.mem request leaves the port while its link is up. -/
def respond (d : Dev) (port : Nat) (o : Out) : Dev := if linkUp (portOf d port) then emit (wakePort d port) o else d

/-- Applies the function mask, the vector mask and the link state to a raised entry (R465 steps 2 and 3). -/
def sendVec (d : Dev) (port e : Nat) : Dev :=
  let p := portOf d port
  let v := vecOf p e
  if v.masked || p.funcMask || !linkUp p then
    setPort d port { p with vecs := tput p.vecs e { v with pend := true } }
  else
    telD (emit (setPort d port { wake p with vecs := tput p.vecs e { v with pend := false } }) (.msix port e)) 0x3A18 1

/-- Raises an entry of a context's run: the device hold comes first (R465 step 1). -/
def raiseCtx (d : Dev) (c port e : Nat) : Dev :=
  if (ctxOf d c).irqHold then
    let p := portOf d port
    telD (setPort d port { p with vecs := tput p.vecs e { vecOf p e with held := true } }) 0x3A20 1
  else sendVec d port e

/-- Raises a mailbox's interrupt: entry `m` of its bound port; none while unbound (R37). -/
def raiseMb (d : Dev) (m : Nat) : Dev :=
  let x := mbOf d m
  if x.bound then sendVec d x.port m else d

/-- Sets a DOORBELL bit; a change from 0 to 1 of an unmasked bit raises the interrupt (R37). -/
def ring (d : Dev) (m bit : Nat) : Dev :=
  let x := mbOf d m
  if bitOf x.doorbell bit then d
  else
    let d := setMb d m { x with doorbell := x.doorbell + 2 ^ bit }
    if bitOf x.mask bit then d else raiseMb d m

/-! ### Events (R59) -/

/-- Puts an event into one mailbox's queue, or drops and counts it. -/
def queueEvent (d : Dev) (m : Nat) (e : Event) : Dev :=
  let x := mbOf d m
  if x.events.length < 32 then ring (setMb d m { x with events := x.events ++ [e] }) m 1
  else setMb d m { x with lost := min 255 (x.lost + 1) }

/-- The sixteen mailboxes. -/
def allMb : List Nat := List.range 16

/-- Queues an event that concerns contexts: every bound mailbox of one of them, and every mailbox of privilege 3.  R59 gives the STATUS
byte no value for any event: every event of the model carries 0 there (DESIGN CHOICE, log entry 67). -/
def eventCtx (d : Dev) (code status handle : Nat) (cs : List Nat) : Dev :=
  allMb.foldl (fun d m =>
    let x := mbOf d m
    if (x.bound && cs.contains x.ctx) || x.priv = 3 then queueEvent d m ⟨code, status, handle, d.now⟩ else d) d

/-- Queues a device-wide event on every bound mailbox, with STATUS 0 as `eventCtx` (DESIGN CHOICE, log entry 67). -/
def eventDev (d : Dev) (code status handle : Nat) : Dev :=
  allMb.foldl (fun d m => if (mbOf d m).bound then queueEvent d m ⟨code, status, handle, d.now⟩ else d) d

/-! ### Replies (R32, R42) -/

/-- The 64 bytes of a reply: MSG and TOKEN of the request, a status and detail, and the body. -/
def solpen (req : Bytes) (status detail : Nat) (body : Bytes) : Bytes :=
  slice req 0 2 ++ [1, 0] ++ leBytes 1 status ++ leBytes 1 detail ++ slice req 6 2 ++ slice body 0 56

/-- A service of a mailbox by its number: the one in service, or one that goes on after the service timer's reply has
been written (R38). -/
def svcOf (d : Dev) (m id : Nat) : Option Service :=
  let x := mbOf d m
  (x.svc.toList ++ x.late).find? (fun s => s.id = id)

/-- Changes a service of a mailbox. -/
def modSvc (d : Dev) (m id : Nat) (f : Service → Service) : Dev :=
  let x := mbOf d m
  let g (s : Service) : Service := if s.id = id then f s else s
  setMb d m { x with svc := x.svc.map g, late := x.late.map g }

/-- The end of a service whose reply the timer has written already: its own reply is discarded (R38). -/
def dropLate (d : Dev) (m id : Nat) : Dev :=
  let x := mbOf d m
  if x.late.any (fun s => s.id = id) then setMb d m { x with late := x.late.filter (fun s => s.id ≠ id) } else d

/-- Makes a reply ready for a service that has none; a reply after the service timer's is discarded (R35, R38). -/
def readyReply (d : Dev) (m id : Nat) (b : Bytes) : Dev :=
  let x := mbOf d m
  match x.svc with
  | some s =>
    if s.id = id then
      setMb d m { x with svc := some { s with
        busy := true, ended := true, reply := match s.reply with | some r => some r | none => some b } }
    else dropLate d m id
  | none => dropLate d m id

/-- Makes the reply of a service ready, formed from its request; none where no such service is left. -/
def replyTo (d : Dev) (m id : Nat) (f : Service → Bytes) : Dev :=
  match svcOf d m id with
  | some s => readyReply d m id (f s)
  | none => d

/-- Every request taken and not replied to is answered with INTERNAL: the device has become FAILED. -/
def failServices (d : Dev) : Dev :=
  allMb.foldl (fun d m =>
    match (mbOf d m).svc with
    | some s => readyReply d m s.id (solpen s.req 0xFF 0 [])
    | none => d) d

/-! ### Error records (R441 to R449) -/

/-- Age of a record: how many SEQ have been given since, counting modulo 2³² (R446). -/
def seqAge (q : ErrQ) (s : Nat) : Nat := (q.next + 2 ^ 32 - s) % 2 ^ 32

/-- SEQ `a` is older than SEQ `b`, compared modulo 2³² (R446). -/
def seqOlder (a b : Nat) : Bool := decide (0 < (b + 2 ^ 32 - a) % 2 ^ 32) && decide ((b + 2 ^ 32 - a) % 2 ^ 32 < 2 ^ 31)

/-- The slot whose record is oldest among those chosen. -/
def oldestSlot (q : ErrQ) (p : ErrRec → Bool) : Option Nat :=
  (q.slots.foldl (fun (b : Option (Nat × Nat)) s =>
    if p s.2 then
      match b with
      | none => some (s.1, seqAge q s.2.seq)
      | some (k, a) => if a < seqAge q s.2.seq then some (s.1, seqAge q s.2.seq) else some (k, a)
    else b) none).map (·.1)

/-- The most recent open record of a unit (R449). -/
def openOf (q : ErrQ) (kind id : Nat) : Option OpenRec :=
  q.opens.foldl (fun b o => if o.kind = kind ∧ o.id = id then some o else b) none

/-- CXL ports, Golven links and mailboxes never rise above level 2 (R442). -/
def levelCap (kind : Nat) : Nat := if kind = 6 ∨ kind = 7 ∨ kind = 13 then 2 else 4

/-- The floe that holds a unit, for kinds inside a floe; 4 for the switch core; 5 for none (R442, R443).  A galley lies in no
domain: it is its context's (DEDUCED, log entry 22). -/
def unitDomain (kind id : Nat) : Nat :=
  if kind = 1 ∨ kind = 14 ∨ kind = 16 then id
  else if kind = 2 then id / 16
  else if kind = 3 then id / 256
  else if kind = 4 then id / 3
  else if kind = 5 then id / 4
  else if kind = 8 then 4
  else if kind = 9 then id / 32
  else if kind = 11 then id / 4
  else if kind = 12 then id / 2
  else 5

/-- The 32 class-specific bytes of classes 3 to 13 (R443). -/
def errBody (addr status detail tag arg0 arg1 : Nat) : Bytes :=
  leBytes 8 addr ++ leBytes 1 status ++ leBytes 1 detail ++ leBytes 2 tag ++ leBytes 4 arg0 ++ leBytes 8 arg1 ++ zeros 8

/-- Puts a formed record into the queue by R445 and R447. -/
def enqueueErr (q : ErrQ) (r : ErrRec) : ErrQ × Bool :=
  match lowestFree (tkeys q.slots) 0 256 with
  | some k => ({ q with slots := tput q.slots k r }, true)
  | none =>
    let lost := { q with lost := min 65535 (q.lost + 1), lostReg := min 65535 (q.lostReg + 1) }
    if r.level < 2 then (lost, false)
    else
      match oldestSlot q (fun e => e.level < 2) with
      | some k => ({ lost with slots := tput q.slots k r }, true)
      | none => (lost, false)

/-- Counts a further event in the SUPPRESSED field of a record still held (R85, R438, R449). -/
def suppress (d : Dev) (seq : Nat) : Dev :=
  { d with errq := { d.errq with slots := d.errq.slots.map (fun s =>
      if s.2.seq = seq then
        (s.1, { s.2 with body := splice s.2.body 28 (leBytes 4 (min 0xFFFFFFFF (fieldAt s.2.body 28 4 + 1))) })
      else s) } }

/-- The open record of a unit into which a further event of the same class and time goes: events of one unit in one cycle
are one event (R449). -/
def sameEvent (d : Dev) (cls level kind id : Nat) : Option OpenRec :=
  if level = 0 then none
  else d.errq.opens.find? (fun o => decide (o.kind = kind ∧ o.id = id ∧ o.cls = cls ∧ o.time = d.now ∧ level ≤ o.level))

/-- The open record that a new event of a unit overlaps: the most recent one of an earlier time. -/
def overlapped (d : Dev) (level kind id : Nat) : Option OpenRec :=
  if level = 0 then none else openOf { d.errq with opens := d.errq.opens.filter (fun o => o.time ≠ d.now) } kind id

/-- Forms an error record of a unit and acts on its level: R443 to R449.  `instant`: the failure is reported in the
cycle in which it is detected, so the record is never open (R448). -/
def formErr (d : Dev) (cls level kind id ctx : Nat) (body : Bytes) (instant : Bool) : Dev :=
  let q := d.errq
  let o := overlapped d level kind id
  let lv := match o with
    | some p => min (levelCap kind) (max level p.level + 1)
    | none => level
  let prior := match o with
    | some p => p.seq
    | none => 0xFFFFFFFF
  let r : ErrRec :=
    ⟨d.now, q.next, cls, lv, o.isSome, decide (level < lv), kind, id, ctx, prior, body⟩
  let q1 := { q with next := (q.next + 1) % 2 ^ 32 }
  let (q2, held) := enqueueErr q1 r
  let q3 := if lv = 0 ∨ (instant ∧ lv < 2) then q2 else { q2 with opens := q2.opens ++ [⟨kind, id, lv, r.seq, cls, d.now⟩] }
  let dom := unitDomain kind id
  let q4 := if lv = 3 ∧ dom < 5 ∧ (q3.due.all (fun x => x.1 != dom)) = true then { q3 with due := q3.due ++ [(dom, r.seq)] } else q3
  let d := { d with errq := q4 }
  let d := if lv = 4 then { d with boot := { d.boot with failed := true } } else d
  let d := if level < lv then telD d 0x3918 1 else d
  let d := if (lowestFree (tkeys q.slots) 0 256).isNone then telD d 0x3910 1 else d
  if held then
    allMb.foldl (fun d m =>
      let x := mbOf d m
      if x.priv = 3 ∨ ((x.priv = 1 ∨ x.priv = 2) ∧ x.ctx = ctx) then ring d m 2 else d) d
  else d

/-- An event of a unit, with the SEQ of the record that tells of it: a new one, or that of the same event (R449). -/
def logRec (d : Dev) (cls level kind id ctx : Nat) (body : Bytes) (instant : Bool) : Dev × Nat :=
  match sameEvent d cls level kind id with
  | some o => (suppress d o.seq, o.seq)
  | none => (formErr d cls level kind id ctx body instant, d.errq.next)

/-- An event of a unit is recorded. -/
def logErr (d : Dev) (cls level kind id ctx : Nat) (body : Bytes) (instant : Bool := false) : Dev :=
  (logRec d cls level kind id ctx body instant).1

/-- Closes the open records of a unit up to a level (R448). -/
def closeErr (d : Dev) (kind id upTo : Nat) : Dev :=
  { d with errq := { d.errq with
      opens := d.errq.opens.filter (fun o => !(decide (o.kind = kind ∧ o.id = id ∧ o.level ≤ upTo))) } }

/-- The 64 bytes of a record (R443). -/
def errBytes (r : ErrRec) : Bytes :=
  let lv := r.level + 8 * b2n r.overlap + 16 * b2n r.escalated
  let a := leBytes 8 r.time ++ leBytes 4 r.seq ++ leBytes 1 r.cls ++ leBytes 1 lv ++ leBytes 1 r.kind ++ [0] ++
    leBytes 2 r.id ++ leBytes 2 r.ctx ++ leBytes 4 r.prior ++ zeros 4
  a ++ leBytes 4 (crc32c (a ++ r.body)) ++ r.body

/-- A CONTROL record of a refused register access, naming the processor that made it (R30). -/
def controlErr (d : Dev) (kind id off : Nat) : Dev :=
  logErr d 11 1 kind id 0xFFFF (errBody off 0x43 4 0xFFFF 0 0) true

end Sys2Proof.Machine
end

