-- ==== Sys2Proof/Machine/Fabric.lean ====
section
/-! DEFINITION. Fabric frames, routing, the sending side of the Golven links, and the issue of fabric requests
(R317, R320 to R324, R369 to R373, R382). -/

namespace Sys2Proof.Machine

open Sys2Proof

/-! ### Frames (R373) -/

/-- The fields of a frame. -/
structure Frame where
  cls : Nat
  combined : Bool
  error : Bool
  version : Nat
  code : Nat
  hops : Nat
  src : Nat
  dst : Nat
  epoch : Nat
  width : Nat
  utag : Nat
  addr : Nat
  payload : Bytes
  deriving DecidableEq, Repr

/-- The header and payload with a given HOPS. -/
def frameBody (f : Frame) (hops : Nat) : Bytes :=
  leBytes 1 (f.cls % 4 + 4 * b2n f.combined + 8 * b2n f.error + 16 * f.version) ++ leBytes 1 f.code ++ leBytes 1 hops ++
  leBytes 1 f.payload.length ++ leBytes 2 f.src ++ leBytes 2 f.dst ++ leBytes 4 f.epoch ++ leBytes 1 f.width ++ zeros 3 ++
  leBytes 8 f.utag ++ leBytes 8 f.addr ++ f.payload

/-- The bytes of a frame: header, payload and trailer with FCRC, computed with HOPS taken as 0. -/
def frameBytes (f : Frame) : Bytes := frameBody f f.hops ++ leBytes 4 (crc32c (frameBody f 0)) ++ zeros 4

/-- The fields of a frame's bytes.  Reserved bits beside SRC_NODE are not part of it. -/
def parseFrame (b : Bytes) : Frame :=
  let k := fieldAt b 0 1
  { cls := k % 4, combined := bitOf k 2, error := bitOf k 3, version := k / 16, code := fieldAt b 1 1,
    hops := fieldAt b 2 1 % 16, src := fieldAt b 4 2 % 1024, dst := fieldAt b 6 2, epoch := fieldAt b 8 4,
    width := fieldAt b 12 1, utag := fieldAt b 16 8, addr := fieldAt b 24 8, payload := slice b 32 (fieldAt b 3 1) }

/-- FCRC holds for the header and payload as they came, with HOPS taken as 0 (R373, R374). -/
def frameCrcOk (b : Bytes) : Bool :=
  decide (40 ≤ b.length) && decide (b.length = 40 + fieldAt b 3 1) &&
    fieldAt b (b.length - 8) 4 == crc32c (splice (b.take (b.length - 8)) 2 (leBytes 1 (fieldAt b 2 1 / 16 * 16)))

/-- PAYLOAD_LEN that a request code takes; any for a reserved code (R317, R373).  That of the run codes follows the layout of
log entry 25. -/
def payloadLen (code : Nat) (combined : Bool) (n : Nat) : Bool :=
  if code = 0 then n == 0
  else if code = 1 then n == 72
  else if combined then
    let o := if code = 18 then 32 else 8
    decide (o + 8 ≤ n) && decide (n ≤ o + 64) && n % 8 == 0
  else if 8 ≤ code ∧ code ≤ 16 then n == 8
  else if code = 17 then n == 16
  else if code = 18 then n == 32
  else if code = 0x18 then n == 16
  else if code = 0x19 then n == 16
  else if code = 0x1A then decide (16 ≤ n)
  else if code = 0x1B then decide (32 ≤ n)
  else true

/-- A frame is malformed (R374): a reserved bit set, an unknown VERSION, a wrong PAYLOAD_LEN or a DST_NODE above
1,023. -/
def frameMalformed (b : Bytes) : Bool :=
  let f := parseFrame b
  decide (f.version ≠ 1) || decide (fieldAt b 2 1 / 16 ≠ 0) || decide (fieldAt b 4 2 ≥ 1024) || decide (f.dst ≥ 1024) ||
    decide (f.width / 4 ≠ 0) || decide (fieldAt b 13 3 ≠ 0) || decide (f.addr ≥ 2 ^ 44) || decide (f.payload.length % 8 ≠ 0) ||
    decide (f.payload.length > 216) || decide (fieldAt b (b.length - 4) 4 ≠ 0) ||
    (f.error && f.cls != 2) || (decide (f.cls < 2) && !payloadLen f.code f.combined f.payload.length)

/-! ### This device in the domain -/

/-- This device's node number, from the verified record (R476, R509). -/
def selfNode (d : Dev) : Nat :=
  match d.boot.record with
  | some r => fieldAt r 36 2
  | none => 0

/-- The epoch of the map held. -/
def epochOf (d : Dev) : Nat := d.mbr.map.epoch

/-- A node entry of a map; ABSENT where none is listed. -/
def nodeOf (m : DomainMap) (n : Nat) : NodeEntry := tget m.nodes n ⟨0, false, false, 0, 0, 0, [], []⟩

/-- The link is a twin link (R498). -/
def twinLink (d : Dev) (l : Nat) : Bool := bitOf (rf d 0x048E0020 0 8) l

/-! ### Sending on a link (R369 to R371) -/

/-- Cells of a frame: 128 bytes each. -/
def cellsOf (n : Nat) : Nat := (n + 127) / 128

/-- The bytes of a flit (R369): SEQ, ACK with NAK, the credits returned, the frame stream and FLIT_CHECK. -/
def flitBytes (k : Link) (seq : Nat) (stream : Bytes) : Bytes :=
  let b := leBytes 2 seq ++ leBytes 2 ((k.rxSeq + 4095) % 4096 + 4096 * b2n k.nak) ++
    (List.range 4).flatMap (fun c => leBytes 1 (min 255 (tget k.owed c 0))) ++ slice stream 0 496
  b ++ leBytes 8 (crc64 b)

/-- Sends one flit: it carries the acknowledgement and the credits that are due. -/
def sendFlit (d : Dev) (l seq : Nat) (stream : Bytes) : Dev :=
  let k := linkOf d l
  let k' := { k with owed := k.owed.map (fun c => (c.1, c.2 - min 255 c.2)), nak := false }
  emit (setLink d l k') (.flit l seq (flitBytes k seq stream))

/-- Takes waiting frames into the frame stream of a flit, end to end, until it is full: each on an 8-byte boundary, while its
class has credit for all of its cells (R369, R371).  A frame waits only behind those of its own class. -/
def packFrames (k : Link) : Link :=
  let s := k.txq.foldl (fun (s : Link × List Nat × List Bytes) f =>
    let c := (parseFrame f).cls
    let need := cellsOf f.length
    if s.1.tx.length ≥ 496 ∨ s.2.1.contains c then (s.1, s.2.1, s.2.2 ++ [f])
    else if need ≤ tget s.1.credit c 0 then
      ({ s.1 with tx := s.1.tx ++ f ++ zeros ((8 - f.length % 8) % 8), credit := tput s.1.credit c (tget s.1.credit c 0 - need) },
        s.2.1, s.2.2)
    else (s.1, s.2.1 ++ [c], s.2.2 ++ [f])) (k, [], [])
  { s.1 with txq := s.2.2 }

/-- Sends the frames that wait at a link while it is ACTIVE and has room in the replay buffer: what does not fit into one flit
goes on in the next (R369). -/
def pumpLink : Nat → Dev → Nat → Dev
  | 0, d, _ => d
  | n + 1, d, l =>
    let k := linkOf d l
    if k.state = 6 ∧ k.replay.length < 1024 then
      let k := packFrames k
      if k.tx.isEmpty then d
      else
        let stream := k.tx.take 496
        let k' := { k with tx := k.tx.drop 496, replay := k.replay ++ [(k.txSeq, stream, 0)], txSeq := (k.txSeq + 1) % 4096 }
        pumpLink n (sendFlit (setLink d l k') l k.txSeq stream) l
    else d

/-- Sends what a link can send: as many flits as its waiting frames may take. -/
def pumpAll (d : Dev) (l : Nat) : Dev := pumpLink ((linkOf d l).txq.length + 2) d l

/-- A mirror session of the analysis port is enabled (R383). -/
def mirrorsOn (d : Dev) : Bool := (List.range 4).any (fun n => bitOf (rv d (0x04802000 + n * 0x40)) 0)

/-- Queues a frame at a link and sends what can be sent.  Its cells leave the switch core here (R388), where a mirror session
may copy them (R383). -/
def linkSend (d : Dev) (l : Nat) (f : Bytes) : Dev :=
  let k := linkOf d l
  let d := telD (setLink d l { k with txq := k.txq ++ [f] }) (0x3000 + (12 + l) * 0x40 + 0x28) (cellsOf f.length)
  let d := if mirrorsOn d then { d with sw := { d.sw with seen := d.sw.seen ++ [(l, f)] } } else d
  pumpAll d l

/-! ### Routing (R382) -/

/-- A link carries frames. -/
def linkActive (d : Dev) (l : Nat) : Bool := (linkOf d l).state == 6

/-- The link to which ROUTE sends a node's frames: PRIMARY, else ALT; none when neither is usable. -/
def routeLink (d : Dev) (node : Nat) : Option Nat :=
  let r := rv d (0x04810000 + 4 * node)
  if bitOf r 3 && linkActive d (bits r 0 3) then some (bits r 0 3)
  else if bitOf r 7 && linkActive d (bits r 4 3) then some (bits r 4 3)
  else none

/-- A frame with HOPS replaced. -/
def setHops (b : Bytes) (h : Nat) : Bytes := splice b 2 (leBytes 1 h)

/-! ### Combining on the way (R326) -/

/-- COMBINE_MAX.READ_GROUP as it acts. -/
def readGroup (d : Dev) : Nat := max 1 (min 16 (rf d 0x048F0010 8 5))

/-- COMBINE_MAX.ATOMIC_GROUP as it acts. -/
def atomicGroup (d : Dev) : Nat := max 1 (min 8 (rf d 0x048F0010 0 4))

/-- Bytes of the operand of an atomic's payload; a combined one carries its members' tags after it (R373). -/
def operandLen (code : Nat) : Nat := if code = 0x12 then 32 else if code = 0x11 then 16 else 8

/-- An operation that may be combined: a non-fetching ADD to UMAX, or EXACT_ADD (R326). -/
def combinable (code width : Nat) : Bool := code == 0x12 || (decide (8 ≤ code) && decide (code ≤ 0x0F) && !bitOf width 1)

/-- An integer atomic on a value of `size` bytes (R318): the new value, for codes 8 to 17 of R317. -/
def atomicNew (code size old a b : Nat) : Nat :=
  let w := 8 * size
  let o := old % 2 ^ w
  let x := a % 2 ^ w
  if code = 0x08 then (o + x) % 2 ^ w
  else if code = 0x09 then o &&& x
  else if code = 0x0A then o ||| x
  else if code = 0x0B then o ^^^ x
  else if code = 0x0C then (if toSigned w x < toSigned w o then x else o)
  else if code = 0x0D then (if toSigned w x > toSigned w o then x else o)
  else if code = 0x0E then min o x
  else if code = 0x0F then max o x
  else if code = 0x10 then x
  else if o = x then b % 2 ^ w else o

/-- The combined operand of two atomics of one operation (R326). -/
def combineOperand (code width : Nat) (a b : Bytes) : Option Bytes :=
  if code = 0x12 then
    match slugOf (slice a 0 32), slugOf (slice b 0 32) with
    | some x, some y => some (cellOf (slugAdd x y))
    | _, _ => none
  else some (leBytes 8 (atomicNew code (if bitOf width 0 then 8 else 4) (fieldAt a 0 8) (fieldAt b 0 8) 0))

/-- The next unique tag of a floe (R373). -/
def newUtag (d : Dev) (floe : Nat) : Dev × Nat :=
  let n := tget d.fabNext floe 0
  ({ d with fabNext := tput d.fabNext floe ((n + 1) % 2 ^ 52) }, selfNode d + floe * 2 ^ 10 + n * 2 ^ 12)

/-- The member tags of an atomic that waits in an output queue or passes: those of a combined request of this device, or
its own (R326). -/
def memberTags (d : Dev) (f : Frame) : List Nat := (tget? d.combs f.utag).getD [f.utag]

/-- Joins an atomic on its way through this switch core to one that still waits in the output queue of its link: none
where no such group takes it (R326).  One that has been sent again joins no group: the first sending may be among the members
(R327). -/
def combineQueued (d : Dev) (l : Nat) (f : Frame) : Option Dev :=
  let fits (b : Bytes) : Bool :=
    let g := parseFrame b
    g.cls == 0 && g.code == f.code && g.width == f.width && g.addr == f.addr && g.dst == f.dst && g.epoch == f.epoch &&
      (!g.combined || thas d.combs g.utag) && decide ((memberTags d g).length < atomicGroup d) &&
      !(memberTags d g).contains f.utag
  if f.cls ≠ 0 ∨ f.combined ∨ !combinable f.code f.width ∨ rf d 0x048F0000 1 1 = 0 then none
  else
    match (linkOf d l).txq.find? fits with
    | none => none
    | some b =>
      let g := parseFrame b
      match combineOperand f.code f.width (slice g.payload 0 (operandLen f.code)) f.payload with
      | none => none
      | some o =>
        let tags := memberTags d g ++ [f.utag]
        let (d, u) := newUtag { d with combs := tdel d.combs g.utag } 0
        let nb := frameBytes { g with combined := true, hops := 1, src := selfNode d, utag := u,
                                      payload := o ++ tags.flatMap (leBytes 8) }
        let k := linkOf d l
        let d := setLink d l { k with txq := k.txq.map (fun x => if x = b then nb else x) }
        some (telD { d with combs := tput d.combs u tags } 0x2020 1)

/-- Sends a frame toward its node, or discards it where it cannot be forwarded.  Frames to the twin leave on a twin
link and are not routed by ROUTE (R496). -/
def forward (d : Dev) (b : Bytes) : Dev × Bool :=
  let f := parseFrame b
  match routeLink d f.dst with
  | some l => if f.hops + 1 ≤ 8 then (linkSend d l (setHops b (f.hops + 1)), true) else (d, false)
  | none => (d, false)

/-- Sends a management frame of this device. -/
def sendMgmt (d : Dev) (dst code : Nat) (payload : Bytes) : Dev :=
  (forward d (frameBytes ⟨3, false, false, 1, Config.mgmtCode code, 0, selfNode d, dst, epochOf d, 0, 0, 0, payload⟩)).1

/-- Sends a management frame on one link. -/
def sendMgmtLink (d : Dev) (l dst code : Nat) (payload : Bytes) : Dev :=
  linkSend d l (frameBytes ⟨3, false, false, 1, Config.mgmtCode code, 1, selfNode d, dst, epochOf d, 0, 0, 0, payload⟩)

/-- A request or acknowledgement as it reaches this device. -/
def FabIn.new (kind code src epoch width addr : Nat) (payload : Bytes) (error : Bool) : FabIn :=
  { kind := kind, code := code, src := src, epoch := epoch, width := width, addr := addr, payload := payload, error := error,
    members := [], waits := false, status := 0, result := [], begun := false, missed := false }

/-- Takes an acknowledgement for a request of this device into the acknowledgements that wait at the sending floe. -/
def localAck (d : Dev) (utag : Nat) (error : Bool) (status src : Nat) (payload : Bytes) : Dev :=
  { d with acks := tput d.acks utag (FabIn.new 2 status src (epochOf d) 0 0 payload error) }

/-- Sends an acknowledgement to the node that sent a request: to this device's own sending floe where the request was
its own. -/
def ackTo (d : Dev) (node utag : Nat) (status : Nat) (payload : Bytes) : Dev :=
  let err := decide (status ≠ 0)
  let d := if err then telD d 0x2038 1 else d
  if node = selfNode d then localAck d utag err status node payload
  else (forward d (frameBytes ⟨2, false, err, 1, status, 0, selfNode d, node, epochOf d, 0, utag, 0, payload⟩)).1

/-! ### Issuing requests (R320 to R324) -/

/-- A request still awaits its acknowledgement: after the first one it stands in the table only for the answers of its
resends (R322). -/
def FabReq.owed (r : FabReq) : Bool := r.acks == 0

/-- The request's class: RUN for run codes. -/
def reqClass (code : Nat) : Nat := if code ≥ 0x18 then 1 else 0

/-- A code whose second performance the deduplication window suppresses (R455). -/
def dedupCode (code : Nat) : Bool := decide (code ≥ 8)

/-- The global line of a request: its node and the line there. -/
def globalLine (node addr : Nat) : Nat := node * 2 ^ 38 + addr / 64

/-- A READ on its way through this switch core to another node (R325): it joins an open read entry of its line, or it is to be
forwarded and opens one.  Whether the page at the target is a region's, as R325 asks of a READ that is combined on its path, no
field of the frame tells: it is a free value (log entry 5). -/
def joinRead (d : Dev) (utag src node addr : Nat) : Dev × Bool :=
  let k := globalLine node addr
  if rf d 0x048F0000 0 1 = 0 then (d, false)
  else
    match tget? d.fwdReads k with
    | some e =>
      if e.first = utag ∨ e.attached.length + 1 ≥ e.most ∨ freeVal d % 2 = 0 then (useFree d, false)
      else (telD { useFree d with fwdReads := tput d.fwdReads k { e with attached := e.attached ++ [(utag, src)] } } 0x2018 1, true)
    | none =>
      if min 256 (rf d 0x048F0008 16 9) = 0 ∨ d.entries.length + d.fwdReads.length ≥ 1024 then (d, false)
      else ({ d with fwdReads := tput d.fwdReads k ⟨utag, [], readGroup d⟩ }, false)

/-- A WRITE or atomic that passes this switch core closes the read entry of its line (R325). -/
def closeFwd (d : Dev) (node addr : Nat) : Dev := { d with fwdReads := tdel d.fwdReads (globalLine node addr) }

/-- The response to a READ that this switch core has forwarded passes it: every attached READ has a copy of it, and the entry
closes (R325). -/
def copyResponse (d : Dev) (utag : Nat) (error : Bool) (status src : Nat) (payload : Bytes) : Dev :=
  match d.fwdReads.find? (fun e => e.2.first = utag) with
  | none => d
  | some (k, e) =>
    e.attached.foldl (fun d m =>
      if m.2 = selfNode d then localAck d m.1 error status src payload
      else (forward d (frameBytes ⟨2, false, error, 1, status, 0, src, m.2, epochOf d, 0, m.1, 0, payload⟩)).1)
      { d with fwdReads := tdel d.fwdReads k }

/-- Sends a request of this device or of a peer toward its node, joined to one that goes there already where R325 or R326 let
it: answers whether it is on its way.  `again` says that it has been sent before. -/
def sendOn (d : Dev) (b : Bytes) (again : Bool) : Dev × Bool :=
  let f := parseFrame b
  match routeLink d f.dst with
  | none => (d, false)
  | some l =>
    if f.hops + 1 > 8 then (d, false)
    else if f.cls = 0 ∧ f.code = 0 then
      let r := if again then (d, false) else joinRead d f.utag f.src f.dst f.addr
      if r.2 then (r.1, true) else forward r.1 b
    else
      let d := if f.cls = 0 then closeFwd d f.dst f.addr else d
      match (if again then none else combineQueued d l f) with
      | some d => (d, true)
      | none => forward d b

/-- Sends the frame of an outstanding request.  A FENCED device sends none: the request completes with FORME_BROKEN (R324). -/
def sendReq (d : Dev) (utag : Nat) (r : FabReq) : Dev :=
  let b := frameBytes ⟨reqClass r.code, false, false, 1, r.code, 0, selfNode d, r.dst, epochOf d, r.width, utag, r.addr,
    r.payload⟩
  if d.boot.fenced ∧ r.owner ≠ .mirror then localAck d utag true 0x31 (selfNode d) []
  else if r.owner = .mirror ∧ (List.range 8).any (fun l => twinLink d l && linkActive d l) then
    match (List.range 8).find? (fun l => twinLink d l && linkActive d l) with
    | some l => linkSend d l (setHops b 1)
    | none => d
  else if r.owner = .mirror then localAck d utag true 0x36 (selfNode d) []
  else
    let s := sendOn d b (decide (1 < r.attempts))
    if s.2 then s.1 else localAck s.1 utag true 0x36 (selfNode d) []

/-- The status with which a request ends at once: FORME_BROKEN while FENCED and for a page with an EXPELLED node,
NODE_UNREACHABLE before JOIN or without a route (R324, R476, R491). -/
def fabRefused (d : Dev) (node : Nat) : Option Nat :=
  if d.boot.fenced then some 0x31
  else if !d.mbr.joined then some 0x36
  else if (nodeOf d.mbr.map node).state = 2 then some 0x31
  else if (routeLink d node).isNone then some 0x36
  else none

/-- Counts a request in the device telemetry (R337): a run is neither a read, a write nor an atomic. -/
def countFab (d : Dev) (code : Nat) : Dev :=
  if code ≥ 0x18 then d else telD d (if code = 0 then 0x2000 else if code = 1 then 0x2008 else 0x2010) 1

/-- Two owners are one stream (R130): writes to one line are held behind one another (R320). -/
def sameStream (a b : Owner) : Bool :=
  match a, b with
  | .scalar c _ _, .scalar e _ _ => c == e
  | x, y => x == y

/-- An owner is work of a core. -/
def Owner.ofCore (o : Owner) (c : Nat) : Bool :=
  match o with
  | .scalar k _ _ => k == c
  | .stream k _ => k == c
  | .chan k _ => k == c
  | _ => false

/-- The name under which a final write waits for a CXL.io request of a port. -/
def ioTag (port key : Nat) : Nat := 2 ^ 64 + port * 2 ^ 32 + key

/-- The writes of an owner to the host tier, and the lines it has sent to the twin, that are still to be acknowledged. -/
def ioOwed (d : Dev) (o : Owner) : List Nat :=
  (d.mbr.sync.filter (fun s => sameStream s.2 o)).map (·.1) ++
  d.ports.flatMap (fun p => (p.2.io.filter (fun r =>
    match r.2.use with
    | .hostWrite x _ => sameStream x o
    | _ => false)).map (fun r => ioTag p.1 r.1))

/-- All 16,384 outstanding requests of the device are in use (chapter 13, limits). -/
def fabFull (d : Dev) : Bool := decide (d.fab.countP (fun r => !r.2.held) ≥ 16384)

/-- READs of a stream that are under way, or still to be answered after a resend. -/
def readsOf (d : Dev) (o : Owner) : List Nat := tkeys (d.fab.filter (fun r => sameStream r.2.owner o && r.2.code == 0))

/-- One of some READs is being retried: it has been sent again, and not all its acknowledgements are in (R322). -/
def retried (d : Dev) (us : List Nat) : Bool := us.any (fun u => (tget? d.fab u).any (fun r => decide (1 < r.attempts)))

/-- What a write or atomic of a stream waits for: its earlier ones to the same line (R320), or for a final write all of its
earlier ones (R322). -/
def waitsFor (d : Dev) (o : Owner) (line : Nat) (final : Bool) : List Nat :=
  (d.fab.filter (fun r => sameStream r.2.owner o && r.2.code != 0 && (final || r.2.line == line))).map (·.1) ++
    (if final then ioOwed d o else [])

/-- A request that has not been sent. -/
def FabReq.new (code dst addr line caddr width : Nat) (payload : Bytes) (o : Owner) (now : Nat) (after : List Nat)
    (final held : Bool) (retry : Nat) (reads : List Nat) : FabReq :=
  { code := code, dst := dst, addr := addr, line := line, caddr := caddr, width := width, payload := payload, owner := o,
    attempts := 1, first := now, after := after, final := final, held := held, reroutes := 0, bad := 0, la := 0, acks := 0,
    retry := retry, reads := reads, prog := 0, old := [] }

/-- FAB_TIMEOUT.RETRY. -/
def fabRetry (d : Dev) : Nat := rf d 0x048F0018 24 4

/-- Issues a request.  It is held behind earlier writes and atomics of its stream to the same line, so that a load sees
its own stream's store (R130, R320), a final write behind every earlier one of its stream (R322), and any while the
device's outstanding requests are all in use. -/
def issueReq (d : Dev) (o : Owner) (code dst addr line width : Nat) (payload : Bytes) (final : Bool) : Dev × Nat :=
  let (d, u) := newUtag d (line / 1024 % 4)
  let after := waitsFor d o line final
  let reads := if final then readsOf d o else []
  let held := !after.isEmpty || retried d reads || fabFull d
  let r := FabReq.new code dst addr line 0 width payload o d.now after final held (fabRetry d) reads
  let d := countFab { d with fab := tput d.fab u r } code
  (if held then d else sendReq d u r, u)

/-- Whether a write to a line of this device has to wait: one flagged final for the earlier accesses of its stream (R134),
any other for a write of its stream to the line that itself waits (R133). -/
def mustHold (d : Dev) (o : Owner) (line : Nat) (final : Bool) : Bool :=
  d.fab.any (fun r => sameStream r.2.owner o && r.2.code != 0 && (final || (r.2.held && r.2.line == line))) ||
  (final && (!(ioOwed d o).isEmpty || retried d (readsOf d o)))

/-- Issues a request for an access at a context address. -/
def issueAt (d : Dev) (caddr : Nat) (o : Owner) (code dst addr line width : Nat) (payload : Bytes) (final : Bool) : Dev :=
  let r := issueReq d o code dst addr line width payload final
  { r.1 with fab := tmod r.1.fab r.2 (fun q => { q with caddr := caddr }) }

/-- Holds a write or atomic on a page of this device or its host tier behind the earlier accesses of its stream (R133,
R134): it stands among the requests as one to this node, and is performed when it is released. -/
def holdLocal (d : Dev) (caddr : Nat) (o : Owner) (code addr width : Nat) (payload : Bytes) (final : Bool) : Dev × Nat :=
  let (d, u) := newUtag d (addr / 65536 % 4)
  let r := FabReq.new code (selfNode d) addr (addr / 64) caddr width payload o d.now (waitsFor d o (addr / 64) final) final true
    (fabRetry d) (if final then readsOf d o else [])
  ({ d with fab := tput d.fab u r }, u)

/-- The requests of one instruction flagged final wait together for what came before it, not for one another (R134, R166):
only those to one line stay in order. -/
def holdTogether (fab : Tab FabReq) (mine : List Nat) : Tab FabReq :=
  mine.foldl (fun f u => tmod f u (fun r =>
    { r with after := r.after.filter (fun v => !mine.contains v || ((tget? f v).any (fun q => q.line == r.line))) })) fab

/-- The payload of a WRITE: the byte mask, then the line (R373). -/
def writePayload (mask : Nat) (bytes : Bytes) : Bytes := leBytes 8 mask ++ slice bytes 0 64

end Sys2Proof.Machine
end

