-- ==== Sys2Proof/Machine/Mem.lean ====
section
/-! DEFINITION. Byte memories: lists of (address, byte) pairs in one canonical form, addresses strictly rising and no
byte of zero listed.  An unlisted address reads as zero (log entry 4). -/

namespace Sys2Proof.Machine

open Sys2Proof

/-- The byte at an address. -/
def memGet : List Host.Cell → Nat → Byte
  | [], _ => 0
  | (b, v) :: t, a => if a < b then 0 else if a = b then v else memGet t a

/-- `n` bytes from an address, out of cells that all lie at it or above. -/
def memFrom : Nat → List Host.Cell → Nat → Bytes
  | 0, _, _ => []
  | n + 1, [], a => 0 :: memFrom n [] (a + 1)
  | n + 1, (b, v) :: t, a => if b = a then v :: memFrom n t (a + 1) else 0 :: memFrom n ((b, v) :: t) (a + 1)

/-- `n` bytes from an address. -/
def memRead (m : List Host.Cell) (a n : Nat) : Bytes := memFrom n (m.dropWhile (fun c => decide (c.1 < a))) a

/-- The cells of a run of bytes: those that are not zero. -/
def memCells : Nat → Bytes → List Host.Cell
  | _, [] => []
  | a, b :: t => if b = 0 then memCells (a + 1) t else (a, b) :: memCells (a + 1) t

/-- The memory with bytes written from an address. -/
def memWrite (m : List Host.Cell) (a : Nat) (b : Bytes) : List Host.Cell :=
  let e := a + b.length
  m.filter (fun c => decide (c.1 < a)) ++ memCells a b ++ m.filter (fun c => decide (e ≤ c.1))

/-- The memory with `n` bytes from an address made zero. -/
def memClear (m : List Host.Cell) (a n : Nat) : List Host.Cell :=
  m.filter (fun c => decide (c.1 < a) || decide (a + n ≤ c.1))

/-- Every address listed is above `a`, rising, and every byte listed is not zero. -/
def cellsAbove : Nat → List Host.Cell → Bool
  | _, [] => true
  | a, (b, v) :: t => decide (a ≤ b) && v != 0 && cellsAbove (b + 1) t

/-- The canonical form of a memory. -/
def Memory.wf (m : List Host.Cell) : Bool := cellsAbove 0 m

end Sys2Proof.Machine
end

