-- ==== Sys2Proof/Machine/Store.lean ====
section
/-! DEFINITION. The memory behind a unified address: placement entries, the codes of the media, packed pages, the
cache slice, orphans, mirroring, and the read and write of one line at its home floe (R87 to R111, R420 to R430,
R496). -/

namespace Sys2Proof.Machine

open Sys2Proof

/-! ### Who makes an access -/

/-- The requester of an access, as error records name it (R85, R438): its SOURCE and UNIT, the command tag or 0xFFFF,
its context, whether a failure is reported in the cycle of its detection, and what its writes count toward. -/
structure Who where
  src : Nat
  unit : Nat
  tag : Nat
  ctx : Nat
  instant : Bool
  owner : Owner
  deriving DecidableEq, Repr

/-- A unit of the device itself, with no command and no context. -/
def Who.unitOnly (src unit : Nat) : Who := ⟨src, unit, 0xFFFF, 0xFFFF, true, .none⟩

/-- Notes that a record of a command stays open until its proof is written (R448). -/
def holdOpen (d : Dev) (w : Who) (seq : Nat) : Dev :=
  if w.instant then d else { d with cmds := tmod d.cmds w.tag (fun c => { c with opens := c.opens ++ [seq] }) }

/-! ### INTEGRITY records (R438) -/

/-- The class-specific bytes of an INTEGRITY record. -/
def intBody (addr unit sub syms kind status detail : Nat) (w : Who) : Bytes :=
  leBytes 8 addr ++ leBytes 1 unit ++ leBytes 1 sub ++ leBytes 2 syms ++ leBytes 1 kind ++ leBytes 1 status ++
    leBytes 1 detail ++ leBytes 1 w.src ++ leBytes 2 w.tag ++ leBytes 2 w.ctx ++ leBytes 8 (syms / 2 ^ 16) ++ zeros 4

/-- Whether an event under a rate key happened within a window before now; the record it folds into. -/
def rateHit (d : Dev) (key window : Nat) : Option Nat :=
  match tget? d.rates key with
  | some (t, s) => if d.now < t + window then some s else none
  | none => none

/-- A corrected event of a unit: at most one record a second while CE_RECORD is 1. -/
def intCorrected (d : Dev) (w : Who) (record : Bool) (ukind uid addr unit sub syms kind : Nat) : Dev :=
  let key := 2 ^ 60 + ukind * 65536 + uid
  if !record then d
  else
    match rateHit d key 1000000000 with
    | some s => suppress d s
    | none =>
      let r := logRec d 2 0 ukind uid w.ctx (intBody addr unit sub syms kind 0 0 w) true
      { r.1 with rates := tput r.1.rates key (r.1.now, r.2) }

/-- The kinds of R438 that report UNCORRECTABLE: media, path and SRAM. -/
def kindLost (kind : Nat) : Bool := kind == 2 || kind == 3 || kind == 5

/-- A failed event: repeats of an uncorrectable one for the same line of a unit within a second fold into the record. -/
def intFailed (d : Dev) (w : Who) (level ukind uid addr unit sub syms kind status detail : Nat) : Dev :=
  let key := 2 ^ 61 + ((kind * 32 + ukind) * 256 + unit) * 2 ^ 38 + addr / 64
  match (if kindLost kind then rateHit d key 1000000000 else none) with
  | some s => suppress d s
  | none =>
    let r := logRec d 2 level ukind uid w.ctx (intBody addr unit sub syms kind status detail w) w.instant
    let d := holdOpen r.1 w r.2
    { d with rates := tput d.rates key (d.now, r.2) }

/-! ### Placement entries (R88 to R91, R539) -/

/-- The home floe of a page. -/
def homeFloe (page : Nat) : Nat := page % 4

/-- The placement page of a unified line. -/
def pageOfLine (line : Nat) : Nat := line / 1024

/-- A placement entry. -/
def pageOf (d : Dev) (page : Nat) : Page := tget d.pages page Page.unplaced

/-- Changes a placement entry: its version and the floe's PLACEMENT_VERSION advance (R89, R91). -/
def setPage (d : Dev) (page : Nat) (p : Page) : Dev :=
  let f := homeFloe page
  { d with
    pages := tput d.pages page { p with version := ((pageOf d page).version + 1) % 65536 },
    plv := tput d.plv f ((tget d.plv f 0 + 1) % 2 ^ 32) }

/-- A page stays unpacked because its run was too long (R96): no field of its entry changes. -/
def leaveUnpacked (d : Dev) (page : Nat) : Dev :=
  { d with pages := tmod d.pages page (fun p => { p with noPack := true }) }

/-- The base of the placement counter unit's registers. -/
def plcBase (f : Nat) : Nat := floeBase f + 0x150000

/-- Pages of 64 KiB in a GiB. -/
def pagesPerGiB : Nat := 16384

/-- Pages in service of residue `r` of a tier of a floe (R539): stacks by k mod 3, bulk channels by k mod 4. -/
def tierCap (d : Dev) (f tier r : Nat) : Nat :=
  if tier = 1 then (if d.boot.containedMem.contains (3 * f + r) then 0 else tget d.boot.stackCaps (3 * f + r) 0 * pagesPerGiB)
  else if d.boot.containedMem.contains (16 + 4 * f + r) then 0 else tget d.boot.bulks (4 * f + r) 0 * pagesPerGiB

/-- Stacks or bulk channels of a floe. -/
def tierWays (tier : Nat) : Nat := if tier = 1 then 3 else 4

/-- Runs of sectors of a floe in use, each as its first sector and its length: packed pages, and the source or
destination of a move under way (R96, R103). -/
def packRuns (d : Dev) (f : Nat) : List (Nat × Nat) :=
  (d.pages.filter (fun p => homeFloe p.1 = f && p.2.tier = 2 && p.2.packed)).map (fun p => (p.2.sector, p.2.sectors)) ++
  (d.moves.filter (fun m => homeFloe m.1 = f && !m.2.swapped && decide (0 < m.2.sectors))).map (fun m => (m.2.sector, m.2.sectors)) ++
  (d.moves.filter (fun m => homeFloe m.1 = f && m.2.swapped && decide (0 < m.2.srcSectors))).map
    (fun m => (m.2.srcSector, m.2.srcSectors))

/-- Bulk pages of a floe taken for packing (R96). -/
def packArea (d : Dev) (f : Nat) : List Nat := ((packRuns d f).map (fun r => r.1 / 128)).eraseDups

/-- Page indices of a tier of a floe in use: by pages, by moves and touch faults under way, and for packing. -/
def tierUsed (d : Dev) (f tier : Nat) : List Nat :=
  (d.pages.filter (fun p => homeFloe p.1 = f && p.2.tier = tier && !p.2.packed)).map (fun p => p.2.k) ++
  (d.moves.filter (fun m => homeFloe m.1 = f && !m.2.swapped && (m.2.target = tier))).map (fun m => m.2.k) ++
  (d.moves.filter (fun m => homeFloe m.1 = f && m.2.swapped && (m.2.srcTier = tier))).map (fun m => m.2.srcK) ++
  (d.touches.filter (fun t => homeFloe t.1 = f && (t.2.tier = tier))).map (fun t => t.2.k) ++
  (if tier = 2 then packArea d f else [])

/-- Free pages of a tier of a floe. -/
def tierFree (d : Dev) (f tier : Nat) : Nat :=
  ((List.range (tierWays tier)).map (tierCap d f tier)).foldl (· + ·) 0 - (tierUsed d f tier).length

/-- A free page index of one residue, starting from a given place and wrapping. -/
def pickIn (used : List Nat) (ways cap r start : Nat) : Nat → Option Nat
  | 0 => none
  | n + 1 =>
    let k := (start % cap) * ways + r
    if used.contains k then pickIn used ways cap r (start + 1) n else some k

/-- A free page index of a tier of a floe: which one is a free value (R539: the choice is not otherwise defined).
A durable page is restricted to some channels. -/
def pickPage (d : Dev) (f tier : Nat) (ok : Nat → Bool) : Option Nat :=
  let v := freeVal d
  let w := tierWays tier
  let used := tierUsed d f tier
  (List.range w).foldl (fun a i =>
    match a with
    | some k => some k
    | none =>
      let r := (v + i) % w
      let cap := tierCap d f tier r
      if cap = 0 || !ok r then none else pickIn used w cap r (v / w) (min cap (used.length + 1))) none

/-- Stack free space is below a number of GiB. -/
def stackBelow (d : Dev) (f gib : Nat) : Bool := decide (tierFree d f 1 < gib * pagesPerGiB)

/-- The tier and place a first write or a touch fault takes (R90): the stack tier, or bulk where stack free space is
below STACK_RESERVE_GIB. -/
def pickFirst (d : Dev) (f : Nat) : Option (Nat × Nat) :=
  let st := if stackBelow d f (rf d (plcBase f + 0x18) 16 16) then none else (pickPage d f 1 (fun _ => true)).map (1, ·)
  match st with
  | some x => some x
  | none =>
    match pickPage d f 2 (fun _ => true) with
    | some k => some (2, k)
    | none => (pickPage d f 1 (fun _ => true)).map (1, ·)

/-- The mirror window, with MODE not 0, that names a page (R496). -/
def mirrorMode (d : Dev) (page : Nat) : Nat :=
  ((List.range 16).map (fun w =>
    let b := 0x048E0100 + w * 0x10
    let m := rf d (b + 8) 0 2
    if m ≠ 0 ∧ rf d b 0 28 ≤ page ∧ page < rf d b 0 28 + rf d (b + 4) 0 28 then (if m = 3 then 1 else m) else 0)).foldl
      (fun a m => if a = 0 then m else a) 0

/-- Forgets the media errors of a place: every line of it is written anew, or it is free. -/
def dropMedia (d : Dev) (f tier k : Nat) : Dev :=
  { d with media := d.media.filter (fun m => m.1 / 1024 ≠ (f * 2 + (tier - 1)) * 2 ^ 24 + k) }

/-- Forgets the media errors of a run of `n` sectors from `s` on, which is written anew. -/
def dropRun (d : Dev) (f s n : Nat) : Dev :=
  let k := (f * 2 + 1) * 2 ^ 24 + s / 128
  { d with media := d.media.filter (fun m =>
      !(m.1 / 1024 == k && decide (s % 128 * 4 ≤ m.1 % 1024) && decide (m.1 % 1024 < (s % 128 + n) * 4))) }

/-- Places a page for its first engine write (R90): zeros, owned by the context. -/
def placePage (d : Dev) (page ctx : Nat) : Option Dev :=
  match pickFirst d (homeFloe page) with
  | none => none
  | some (t, k) =>
    let d := useFree (dropMedia { d with mem := memClear d.mem (page * 65536) 65536 } (homeFloe page) t k)
    some (setPage d page { Page.unplaced with tier := t, k := k, owner := ctx, twin := mirrorMode d page ≠ 0 })

/-- Makes a page unplaced: its lines leave the cache slice, its bytes and counters are dropped, and a move that has not
swapped ends. -/
def unplacePage (d : Dev) (page : Nat) : Dev :=
  let d := setPage d page Page.unplaced
  { d with mem := memClear d.mem (page * 65536) 65536, cache := d.cache.filter (fun c => pageOfLine c.1 ≠ page),
           packs := tdel d.packs page, counts := tdel d.counts page,
           moves := d.moves.filter (fun m => m.1 ≠ page || m.2.swapped) }

/-- A write to a page that was left unpacked: it may be packed again (R96). -/
def rewritten (d : Dev) (page : Nat) : Dev :=
  if (pageOf d page).noPack then { d with pages := tmod d.pages page (fun p => { p with noPack := false }) } else d

/-! ### Access counters (R92) -/

/-- The current epoch of a floe. -/
def curEpoch (d : Dev) (f : Nat) : Nat := d.now / 1000 / (max 1 (rf d (plcBase f + 8) 0 24)) % 65536

/-- A page's count brought to the current epoch. -/
def countNow (d : Dev) (page : Nat) : Nat :=
  let c := tget d.counts page (0, curEpoch d (homeFloe page))
  let e := (curEpoch d (homeFloe page) + 65536 - c.2) % 65536
  if e ≥ 16 then 0 else c.1 >>> e

/-- The counter unit stores a count it has used, brought to the current epoch, with that epoch. -/
def countUsed (d : Dev) (page : Nat) : Dev :=
  { d with counts := tmod d.counts page (fun _ => (countNow d page, curEpoch d (homeFloe page))) }

/-- One access that misses the cache slice, in the count of its page (R92). -/
def countMiss (d : Dev) (page : Nat) : Dev :=
  { d with counts := tput d.counts page (min 65535 (countNow d page + 1), curEpoch d (homeFloe page)) }

/-- One 64-byte read or write of a page: a hit of the slice, or a miss, which its page counts too (R92, R95). -/
def countAccess (d : Dev) (line : Nat) : Dev :=
  let page := pageOfLine line
  if thas d.cache line then telF d (homeFloe page) 0x1038 1 else countMiss (telF d (homeFloe page) 0x1040 1) page

/-! ### Media errors and the codes (R420 to R424) -/

/-- Where the errors of a line are kept: a stack line, or a bulk pair. -/
def mediaKey (f tier k n : Nat) : Nat := ((f * 2 + (tier - 1)) * 2 ^ 24 + k) * 1024 + (if tier = 1 then n else n / 2)

/-- The controller of a page's tier in its floe: 0 to 2 stacks, 3 to 6 bulk channels. -/
def eccUnit (tier k : Nat) : Nat := if tier = 1 then k % 3 else 3 + k % 4

/-- A controller's counts. -/
def eccOf (d : Dev) (f u : Nat) : Ecc := tget d.ecc (f * 7 + u) Ecc.reset

/-- Changes a controller's counts. -/
def setEcc (d : Dev) (f u : Nat) (e : Ecc) : Dev := { d with ecc := tput d.ecc (f * 7 + u) e }

/-- Whether any symbol of a list differs in position from the first one (two devices, R423). -/
def twoDevices (l : List (Nat × Nat)) : Bool :=
  match l with
  | [] => false
  | x :: t => t.any (fun y => y.1 % 20 ≠ x.1 % 20)

/-- The symbol map of R438. -/
def symbolMap (tier : Nat) (l : List (Nat × Nat)) : Nat :=
  (List.range 38).foldl (fun n i =>
    n + if l.any (fun s => if tier = 1 then s.1 = i else s.1 % 20 = i) then 2 ^ i else 0) 0

/-- The device of a coefficient of a bulk codeword, as 10s + v (R422). -/
def bulkDevice (n : Nat) : Nat := if n < 4 then (if n < 2 then 8 + n else 16 + n) else (n - 4) / 8 * 10 + (n - 4) % 8

/-- What a decode of a line or pair finds: 0 clean, 1 corrected, or 2 + the DETAIL of R428. -/
def eccOutcome (d : Dev) (tier : Nat) (l : List (Nat × Nat)) : Nat :=
  if l.isEmpty then 0
  else if tier = 1 then
    let w := (l.filter (fun s => s.1 < 38)).length
    let crc := l.any (fun s => s.1 ≥ 38)
    if w ≤ 2 then (if crc && decide (0 < w) then 4 else 1)
    else if w ≤ 4 then 3
    else 3 + freeVal d % 2
  else if twoDevices l then 5 else 1

/-- Decodes the code of a line (R421, R423): corrects and records, or answers the DETAIL of UNCORRECTABLE. -/
def eccRead (d : Dev) (w : Who) (f tier k n addr : Nat) : Dev × Option Nat :=
  let key := mediaKey f tier k n
  let l := tget d.media key []
  let o := eccOutcome d tier l
  if o = 0 then (d, none)
  else
    let u := eccUnit tier k
    let e := eccOf d f u
    let gid := if tier = 1 then 3 * f + k % 3 else 4 * f + k % 4
    let ukind := if tier = 1 then 4 else 5
    let sub := if tier = 1 then n % 64 else bulkDevice ((l.headD (0, 0)).1 % 20)
    if o = 1 then
      let d := setEcc { d with media := tdel d.media key } f u { e with corrected := min 0xFFFFFFFF (e.corrected + 1) }
      let d := telF d f (if tier = 1 then 0x1700 else 0x1710) 1
      (intCorrected d w (rf d (eccBase f u + 0x200) 0 1 = 1) ukind gid addr gid sub (symbolMap tier l) 1, none)
    else
      let d := useFree d
      let d := setEcc d f u { e with uncorrectable := min 65535 (e.uncorrectable + 1),
                                     miscorrect := min 65535 (e.miscorrect + if tier = 1 ∧ o = 4 then 1 else 0) }
      let d := telF d f (if tier = 1 then 0x1708 else 0x1718) 1
      (intFailed d w 1 ukind gid addr gid (if tier = 1 then n % 64 else 0) (symbolMap tier l) 2 0x20 (o - 2), some (o - 2))

/-! ### Orphans (R353 to R356, R430) -/

/-- A directory entry; INVALID where none is listed. -/
def dirOf (d : Dev) (line : Nat) : DirEntry := tget d.dir line ⟨0, 0, 0xFF, none⟩

/-- Stores a directory entry; an INVALID one without a transaction leaves the table. -/
def setDir (d : Dev) (line : Nat) (e : DirEntry) : Dev :=
  { d with dir := if e.state = 0 ∧ e.txn = none then tdel d.dir line else tput d.dir line e }

/-- The line is in the orphan state. -/
def isOrphan (d : Dev) (line : Nat) : Bool := (dirOf d line).state == 3

/-- A core's data cache forgets a line, with its reservation. -/
def forgetLine (line : Nat) (d : Dev) (c : Nat) : Dev :=
  let x := coreOf d c
  setCore d c { x with dcache := tdel x.dcache line, flips := tdel x.flips (2 ^ 40 + line),
                       reserve := if x.reserve = some line then none else x.reserve }

/-- No copy stays beside an orphan (R344): the cores forget theirs, and a port other than the former owner is told to. -/
def orphanCopies (d : Dev) (line owner : Nat) : Dev :=
  let d := (tkeys (d.cores.filter (fun c => thas c.2.dcache line))).foldl (forgetLine line) d
  ((List.range 12).filter (fun p => bitOf (dirOf d line).sharers (64 + p) && 64 + p != owner && linkUp (portOf d p))).foldl
    (fun d p => emit (setPort d p (wake (portOf d p))) (.bisnp p line true)) d

/-- Makes a line an orphan: its entry, its side-table record, the count and event 0x0005 (R355, R356). -/
def makeOrphan (d : Dev) (line owner cause : Nat) : Dev :=
  let p := pageOf d (pageOfLine line)
  let d := orphanCopies d line owner
  let d := setDir d line { dirOf d line with sharers := 0, state := 3, owner := owner }
  let d := { d with orphans := tput d.orphans line ⟨d.now, owner, cause, p.owner⟩ }
  let d := telF d (homeFloe (pageOfLine line)) 0x1628 1
  if p.region then eventDev d 5 0 0 else eventCtx d 5 0 0 [p.owner]

/-- Ends the orphan state of a line at INVALID. -/
def endOrphan (d : Dev) (line : Nat) : Dev :=
  setDir { d with orphans := tdel d.orphans line } line ⟨0, 0, 0xFF, (dirOf d line).txn⟩

/-! ### Packed pages (R96 to R98) -/

/-- Sectors used in a bulk page of the packing area. -/
def sectorsUsed (d : Dev) (f area : Nat) : List Nat :=
  ((packRuns d f).filter (fun r => r.1 / 128 = area)).flatMap (fun r => (List.range r.2).map (fun i => r.1 % 128 + i))

/-- A run of `n` free sectors: a free value picks among the places of the area that have room, or a free bulk page is
taken for packing. -/
def pickSectors (d : Dev) (f n : Nat) : Option Nat :=
  let cand := (packArea d f).flatMap (fun a =>
    let u := sectorsUsed d f a
    ((List.range (129 - n)).filter (fun s => (List.range n).all (fun i => !u.contains (s + i)))).map (fun s => a * 128 + s))
  match cand with
  | [] => (pickPage d f 2 (fun _ => true)).map (· * 128)
  | c :: _ => some (cand.getD (freeVal d % cand.length) c)

/-- The longest run that is stored packed (R94). -/
def packLimit (d : Dev) (f : Nat) : Nat := max 1 (rf d (plcBase f + 0x14) 16 7)

/-- A codec failure is recorded against the unit that decoded the block (R97, R311). -/
def codecFail (d : Dev) (w : Who) (f unit addr : Nat) (e : Nat × Nat) : Dev :=
  intFailed d w 1 11 (4 * f + unit) addr f 0 0 8 e.1 e.2

/-- Counts one block in the telemetry of the floe whose unit codes it (R316): a failed block counts as neither encoded nor
decoded (DEDUCED, log entry 38). -/
def countBlock (d : Dev) (f enc raw bad bytesIn bytesOut : Nat) : Dev :=
  let d := telF (telF d f (if enc = 1 then 0x1500 else 0x1510) (1 - bad)) f 0x1508 raw
  telF (telF (telF d f 0x1518 bad) f 0x1520 bytesIn) f 0x1528 bytesOut

/-- A codec unit of a floe works for a packed page: USER 1, and TAG as the last command left it (R314). -/
def markPacked (d : Dev) (f unit : Nat) : Dev :=
  { d with unitTag := tput d.unitTag (6 * f + unit) (4096 + tget d.unitTag (6 * f + unit) 0 % 4096) }

/-- The ENCODE or DECODE command that has a block in a codec unit, or the SEARCH in an engine, of a floe (R314). -/
def unitWork (d : Dev) (f u : Nat) : Option Nat :=
  (d.cmds.find? (fun c => c.2.phase == 2 &&
    (if u < 4 then
      (fieldAt c.2.entry 0 1 == 0x18 || fieldAt c.2.entry 0 1 == 0x19) && (List.range c.2.blocks.length).any (fun k =>
        c.2.units[k]? == some (6 * f + u) && !c.2.blocksDone.contains k)
    else fieldAt c.2.entry 0 1 == 0x10 && c.2.units.getLast? == some (6 * f + u)))).map (·.1)

/-- BUSY of a codec unit or search engine: it works for a command, or decodes a packed block. -/
def unitBusy (d : Dev) (f u : Nat) : Bool :=
  (unitWork d f u).isSome || (decide (u < 4) && d.packJobs.any (fun j => homeFloe j.page = f && j.unit = u))

/-- The codec unit of a floe that takes a packed block: a free value picks among those that are free, or among all, since
which is free first is a matter of time (R97). -/
def packUnit (d : Dev) (f : Nat) : Nat :=
  let idle := (List.range 4).filter (fun u => !unitBusy d f u)
  if idle.isEmpty then freeVal d % 4 else idle.getD (freeVal d % idle.length) 0

/-- The first line of the media that holds byte `o` of a packed run: bulk page index and line. -/
def packLine (p : Page) (o : Nat) : Nat × Nat := (p.sector / 128, p.sector % 128 * 8 + o / 64)

/-- Decodes block `kb` of a packed page in a unit: the media first, then the codec. -/
def readBlockBy (d : Dev) (w : Who) (page kb unit : Nat) : Dev × Except (Nat × Nat) Bytes :=
  let p := pageOf d page
  let f := homeFloe page
  let run := tget d.packs page []
  let off := fieldAt run (4 * kb) 2
  let len := fieldAt run (4 * kb + 2) 2
  let r := (List.range ((off % 64 + len + 63) / 64)).foldl (fun (s : Dev × Option Nat) i =>
    match s.2 with
    | some _ => s
    | none =>
      let (k, n) := packLine p (off + 64 * i)
      eccRead s.1 w f 2 k n (page * 65536 + kb * 4096)) (eccRead d w f 2 (packLine p 0).1 (packLine p 0).2 (page * 65536))
  match r.2 with
  | some det => (r.1, .error (0x20, det))
  | none =>
    let b := unpackBlock run kb
    let d := countBlock (markPacked r.1 f unit) f 0 0 (b2n b.fail.isSome) len b.out.length
    match b.fail with
    | some e => (codecFail d w f unit (page * 65536 + kb * 4096) e, .error e)
    | none => (d, .ok b.out)

/-- Decodes a block of a packed page in whichever unit is free (R97). -/
def readBlock (d : Dev) (w : Who) (page kb : Nat) : Dev × Except (Nat × Nat) Bytes :=
  readBlockBy (useFree d) w page kb (packUnit d (homeFloe page))

/-- Reads all sixteen blocks of a packed page. -/
def readBlocks (d : Dev) (w : Who) (page : Nat) : Dev × Except (Nat × Nat) Bytes :=
  (List.range 16).foldl (fun (s : Dev × Except (Nat × Nat) Bytes) kb =>
    match s.2 with
    | .error e => (s.1, .error e)
    | .ok b =>
      let r := readBlock s.1 w page kb
      (r.1, r.2.map (b ++ ·))) (d, .ok [])

/-- Unpacks a page into an unpacked page of the bulk tier (R97). -/
def unpackPage (d : Dev) (w : Who) (page : Nat) : Dev × Option (Nat × Nat) :=
  let f := homeFloe page
  match pickPage d f 2 (fun _ => true) with
  | none => (d, some (0x40, 0))
  | some k =>
    let r := readBlocks (useFree d) w page
    match r.2 with
    | .error e => (r.1, some e)
    | .ok b =>
      let d := { r.1 with mem := memWrite (memClear r.1.mem (page * 65536) 65536) (page * 65536) b,
                          packs := tdel r.1.packs page }
      (telF (setPage d page { pageOf d page with packed := false, k := k, sector := 0, sectors := 0, noPack := false }) f
        0x1018 1, none)

/-! ### Lines of the tiers -/

/-- Reads a line of an unpacked stack or bulk page from its tier. -/
def tierRead (d : Dev) (w : Who) (line : Nat) : Dev × Except (Nat × Nat) Bytes :=
  let p := pageOf d (pageOfLine line)
  let r := eccRead d w (homeFloe (pageOfLine line)) p.tier p.k (line % 1024) (line * 64)
  match r.2 with
  | some det => (r.1, .error (0x20, det))
  | none => (r.1, .ok (memRead r.1.mem (line * 64) 64))

/-- The other line of a bulk pair. -/
def partnerOf (line : Nat) : Nat := if line % 2 = 0 then line + 1 else line - 1

/-- A single-line write to the bulk tier reads its pair first: an uncorrectable partner is stored as zeros and becomes
an orphan with cause 8 (R424). -/
def pairWrite (d : Dev) (w : Who) (line : Nat) : Dev :=
  let page := pageOfLine line
  let p := pageOf d page
  let f := homeFloe page
  let key := mediaKey f 2 p.k (line % 1024)
  let l := tget d.media key []
  if l.isEmpty then d
  else if twoDevices l then
    let u := eccUnit 2 p.k
    let e := eccOf d f u
    let partner := partnerOf line
    let d := { setEcc d f u { e with miscorrect := min 65535 (e.miscorrect + 1) } with
                media := tdel d.media key, mem := memClear d.mem (partner * 64) 64 }
    makeOrphan d partner 0xFF 8
  else (eccRead d w f 2 p.k (line % 1024) (line * 64)).1

/-- Writes a whole line to its tier, unpacking a packed page first (R97). -/
def tierWrite (d : Dev) (w : Who) (line : Nat) (b : Bytes) : Dev × Option (Nat × Nat) :=
  let page := pageOfLine line
  let r := if (pageOf d page).packed then unpackPage d w page else (d, none)
  match r.2 with
  | some e => (r.1, some e)
  | none =>
    let d := r.1
    let p := pageOf d page
    let d := if p.tier = 2 then pairWrite d w line
             else { d with media := tdel d.media (mediaKey (homeFloe page) 1 p.k (line % 1024)) }
    let d := { d with mem := memWrite d.mem (line * 64) b,
                      moves := tmod d.moves page (fun m => if m.swapped then m else { m with held := tput m.held line b }) }
    (d, none)

/-! ### The cache slice (R108) -/

/-- The set of a line: the bits of its address below the tag but for the floe's (DESIGN CHOICE, log entry 20). -/
def cacheSet (line : Nat) : Nat := line % 1024 + line / 4096 % 64 * 1024

/-- A line of the slice has been used: it is the most recent of its set. -/
def useLine (d : Dev) (line : Nat) : Dev :=
  { d with recent := tput d.recent (homeFloe (pageOfLine line) * 65536 + cacheSet line) line }

/-- Lines of the slice in the set of a line. -/
def setLines (d : Dev) (line : Nat) : List Nat :=
  tkeys (d.cache.filter (fun c => cacheSet c.1 = cacheSet line && homeFloe (pageOfLine c.1) = homeFloe (pageOfLine line)))

/-- What the SRAM code of a slice finds in a line it holds (R427). -/
inductive SliceCode where
  | fine
  /-- a clean line is dropped, and is read again from its tier -/
  | dropped
  /-- a dirty line is lost: the access fails, and the line is an orphan (R430) -/
  | lost
  deriving DecidableEq, Repr

/-- Decodes the code of a line of the slice: an error of one bit, or in a clean line, is counted as corrected (DEDUCED, log
entry 62). -/
def sliceCode (d : Dev) (w : Who) (line : Nat) (dirty : Bool) : Dev × SliceCode :=
  let n := tget d.sliceFlips line 0
  if n = 0 then (d, .fine)
  else
    let f := homeFloe (pageOfLine line)
    let d := { d with sliceFlips := tdel d.sliceFlips line }
    if n = 1 then (intCorrected (telF d f 0x1728 1) w true 1 f 0 f 0 0 4, .fine)
    else if !dirty then (intCorrected (telF { d with cache := tdel d.cache line } f 0x1728 1) w true 1 f 0 f 0 0 4, .dropped)
    else (makeOrphan (intFailed (telF { d with cache := tdel d.cache line } f 0x1730 1) w 1 1 f 0 f 0 0 5 0x20 4) line 0xFF 7, .lost)

/-- Before a dirty line is written back to an uncorrectable pair whose other line the slice holds dirty as well, both go in one
write, which ends the error (R424, R429; DEDUCED, log entry 22): the other line is written here. -/
def pairBack (d : Dev) (line : Nat) : Dev :=
  let page := pageOfLine line
  let p := pageOf d page
  let q := partnerOf line
  let key := mediaKey (homeFloe page) 2 p.k (line % 1024)
  match tget? d.cache q with
  | some c =>
    if p.tier = 2 ∧ !p.packed ∧ twoDevices (tget d.media key []) ∧ c.dirty ∧ tget d.sliceFlips q 0 < 2 then
      let d := { d with media := tdel d.media key, cache := tput d.cache q { c with dirty := false } }
      (tierWrite d (Who.unitOnly 9 (homeFloe page)) q c.data).1
    else d
  | none => d

/-- Writes a dirty line back to its tier; it stays in the slice, clean. -/
def writeBack (d : Dev) (line : Nat) : Dev × Option (Nat × Nat) :=
  match tget? d.cache line with
  | some c =>
    if c.dirty then
      let k := sliceCode d (Who.unitOnly 9 (homeFloe (pageOfLine line))) line true
      if k.2 = .lost then (k.1, some (0x20, 4))
      else
        let r := tierWrite (pairBack k.1 line) (Who.unitOnly 9 (homeFloe (pageOfLine line))) line c.data
        match r.2 with
        | none => ({ r.1 with cache := tput r.1.cache line { c with dirty := false } }, none)
        | some e => (r.1, some e)
    else (d, none)
  | none => (d, none)

/-- The lines of a full set that pseudo-LRU may replace: any but the most recent one.  Which of them is a free value, since
the rule names no one approximation (log entry 5). -/
def victims (d : Dev) (line : Nat) : List Nat :=
  let mru := tget d.recent (homeFloe (pageOfLine line) * 65536 + cacheSet line) (2 ^ 64)
  (setLines d line).filter (· ≠ mru)

/-- A line takes a way of its set: what it holds now is without error. -/
def putLine (d : Dev) (line : Nat) (b : Bytes) (dirty : Bool) : Dev :=
  useLine { d with cache := tput d.cache line ⟨b, dirty⟩, sliceFlips := tdel d.sliceFlips line } line

/-- Puts a line into the slice, evicting a victim where its sixteen ways are full. -/
def cacheAlloc (d : Dev) (line : Nat) (b : Bytes) (dirty : Bool) : Dev :=
  if thas d.cache line ∨ (setLines d line).length < 16 then putLine d line b dirty
  else
    let ways := victims d line
    let v := ways.getD (freeVal d % ways.length) line
    let r := writeBack (useFree d) v
    match r.2 with
    | none => putLine { r.1 with cache := tdel r.1.cache v, sliceFlips := tdel r.1.sliceFlips v } line b dirty
    | some _ => if !thas r.1.cache v then putLine r.1 line b dirty else if dirty then (tierWrite r.1 (Who.unitOnly 9 (homeFloe (pageOfLine line))) line b).1 else r.1

/-- Puts the 64 lines of a decoded block into the slice (R97). -/
def allocBlock (d : Dev) (page kb : Nat) (b : Bytes) : Dev :=
  (List.range 64).foldl (fun d i =>
    let line := page * 1024 + kb * 64 + i
    if thas d.cache line then d else cacheAlloc d line (slice b (64 * i) 64) false) d

/-- How a read of a line is counted (R92, R95): as an access of its page, as a prefetch, which adds nothing to the page's count,
or not at all, since it was counted when it began to wait. -/
inductive Counted where
  | access
  | prefetch
  | before
  deriving DecidableEq, Repr

/-- Reads a line that the slice does not hold. -/
def sliceMiss (d : Dev) (w : Who) (line : Nat) (how : Counted) (alloc : Bool) : Dev × Except (Nat × Nat) Bytes :=
  let page := pageOfLine line
  let d := match how with
    | .access => countMiss (telF d (homeFloe page) 0x1040 1) page
    | .prefetch => telF d (homeFloe page) 0x1040 1
    | .before => d
  if (pageOf d page).packed then
    let r := readBlock d w page (line % 1024 / 64)
    match r.2 with
    | .error e => (r.1, .error e)
    | .ok b => (allocBlock r.1 page (line % 1024 / 64) b, .ok (slice b (line % 64 * 64) 64))
  else
    let r := tierRead d w line
    match r.2 with
    | .error e => (r.1, .error e)
    | .ok b => (if alloc then cacheAlloc r.1 line b false else r.1, .ok b)

/-- Reads a line of a stack or bulk page through the slice, which takes it where `alloc` says so. -/
def slicedRead (d : Dev) (w : Who) (line : Nat) (how : Counted) (alloc : Bool) : Dev × Except (Nat × Nat) Bytes :=
  match tget? d.cache line with
  | some c =>
    let k := sliceCode d w line c.dirty
    match k.2 with
    | .fine => (useLine (if how = .before then k.1 else telF k.1 (homeFloe (pageOfLine line)) 0x1038 1) line, .ok c.data)
    | .dropped => sliceMiss k.1 w line how alloc
    | .lost => (k.1, .error (0x20, 4))
  | none => sliceMiss d w line how alloc

/-! ### Mirroring (R496) -/

/-- Sends the oldest line of the mirror log to the twin when none is under way. -/
def pumpLog (d : Dev) : Dev :=
  let busy := d.fab.any (fun r => r.2.owner = .mirror && r.2.owed && !(d.mbr.sync.any (fun s => s.1 = r.1)))
  match d.mbr.log with
  | [] => d
  | (line, b) :: _ =>
    if busy ∨ d.mbr.twin ≠ 1 then d
    else (issueReq d .mirror 1 (nodeOf d.mbr.map (selfNode d)).twin (line * 64) line 0 (writePayload (2 ^ 64 - 1) b) false).1

/-- After a write to a page with TWIN set: the resulting line goes to the twin. -/
def mirrorLine (d : Dev) (o : Owner) (line : Nat) (b : Bytes) : Dev :=
  let page := pageOfLine line
  let m := mirrorMode d page
  if !(pageOf d page).twin || m == 0 then d
  else if d.mbr.twin = 1 then
    if m = 1 ∨ d.mbr.log.length ≥ 1048576 then
      let r := issueReq d .mirror 1 (nodeOf d.mbr.map (selfNode d)).twin (line * 64) line 0 (writePayload (2 ^ 64 - 1) b) false
      { r.1 with mbr := { r.1.mbr with sync := r.1.mbr.sync ++ [(r.2, o)] } }
    else pumpLog { d with mbr := { d.mbr with log := d.mbr.log ++ [(line, b)] } }
  else { d with mbr := { d.mbr with marked := if d.mbr.marked.contains page then d.mbr.marked else d.mbr.marked ++ [page] } }

/-! ### The home floe's service of a line -/

/-- A durable write may commit: HOLDUP_OK (R111), and no flush of R523 runs. -/
def holdupOk (d : Dev) : Bool := d.boot.holdupOk && !d.boot.flushing

/-- What was taken before a flush began goes on as if none ran: durable writes already admitted commit (R523). -/
def asAdmitted (d : Dev) (f : Dev → Dev) : Dev :=
  if d.boot.flushing then
    let r := f { d with boot := { d.boot with flushing := false } }
    { r with boot := { r.boot with flushing := true } }
  else f d

/-- A new write to a durable page while a flush runs: it fails with HOLDUP_LOW before it waits for anything (R523). -/
def flushBars (d : Dev) (page : Nat) : Bool := d.boot.flushing && (pageOf d page).durable

/-- The line check of an access fails on its path (R426): the access ends with UNCORRECTABLE, detail 5, and a line that
the slice holds dirty is lost to it, an orphan with cause 7 (R430). -/
def pathCheck (d : Dev) (w : Who) (line : Nat) : Dev × Option (Nat × Nat) :=
  if d.pathBad.contains line then
    let f := homeFloe (pageOfLine line)
    let d := intFailed (telF { d with pathBad := d.pathBad.erase line } f 0x1720 1) w 1 1 f (line * 64) f 0 0 3 0x20 5
    let d := if (tget? d.cache line).any (·.dirty) then makeOrphan { d with cache := tdel d.cache line } line 0xFF 7 else d
    (d, some (0x20, 5))
  else (d, none)

/-- Reads a line of a placed stack or bulk page at its home floe, past any coherence of the line.  A floe that drains still
serves what it had taken before (R19). -/
def homeReadBy (d : Dev) (w : Who) (line : Nat) (how : Counted) : Dev × Except (Nat × Nat) Bytes :=
  if !floeRuns d (homeFloe (pageOfLine line)) then (d, .error (0x42, 0))
  else if isOrphan d line then (d, .error (0x33, 0))
  else
    let c := pathCheck d w line
    match c.2 with
    | some e => (c.1, .error e)
    | none => slicedRead c.1 w line how true

/-- The same for an access that is counted now. -/
def homeRead (d : Dev) (w : Who) (line : Nat) : Dev × Except (Nat × Nat) Bytes := homeReadBy d w line .access

/-- A durable write fails while phase 2 of a GPF runs: the port reports the phase as failed and counts a dirty shutdown,
once (R366). -/
def gpfMark (d : Dev) : Dev :=
  let p := portOf d (d.boot.gpf - 2)
  if d.boot.gpf ≥ 2 ∧ !p.gpfFailed then setPort d (d.boot.gpf - 2) { p with gpfFailed := true, dirtyShutdown := p.dirtyShutdown + 1 }
  else d

/-- The outcome of a write to a line: a durable one that fails is noted for GPF (R366). -/
def noteDurable (page : Nat) (r : Dev × Option (Nat × Nat)) : Dev × Option (Nat × Nat) :=
  if r.2.isSome && (pageOf r.1 page).durable then (gpfMark r.1, r.2) else r

/-- Writes a whole line that has been merged: written through for a durable page, else dirty in the slice. -/
def homeStore (d : Dev) (w : Who) (line : Nat) (b : Bytes) : Dev × Option (Nat × Nat) :=
  let p := pageOf d (pageOfLine line)
  let d := rewritten d (pageOfLine line)
  if p.durable then
    if !holdupOk d then (d, some (0x44, 0))
    else
      let r := tierWrite d w line b
      match r.2 with
      | some e => (r.1, some e)
      | none => (mirrorLine (cacheAlloc r.1 line b false) w.owner line b, none)
  else (mirrorLine (cacheAlloc d line b true) w.owner line b, none)

/-- The first write to a packed page unpacks it (R97). -/
def openPage (d : Dev) (w : Who) (page : Nat) : Dev × Option (Nat × Nat) :=
  if (pageOf d page).packed then unpackPage d w page else (d, none)

/-- Writes a dirty line that an agent gives up: a write of the whole line, which is counted as any (R92, R95). -/
def storeBack (d : Dev) (w : Who) (line : Nat) (b : Bytes) : Dev × Option (Nat × Nat) :=
  let u := openPage d w (pageOfLine line)
  noteDurable (pageOfLine line) (match u.2 with
    | some e => (u.1, some e)
    | none => homeStore (countAccess u.1 line) w line b)

/-- Merges the masked bytes of a line into it and writes it: a full line needs no fill, a partial one merges into the line read
(R108, R429). -/
def mergeStore (d : Dev) (w : Who) (line : Nat) (b : Bytes) (mask : Nat) : Dev × Option (Nat × Nat) :=
  if mask % 2 ^ 64 = 2 ^ 64 - 1 then homeStore (countAccess d line) w line (slice b 0 64)
  else
    let r := slicedRead d w line .access true
    match r.2 with
    | .error e => (r.1, some e)
    | .ok old => homeStore r.1 w line (mergeMask old (slice b 0 64) mask)

/-- Writes the masked bytes of a line at its home floe. -/
def homeWrite (d : Dev) (w : Who) (line : Nat) (b : Bytes) (mask : Nat) : Dev × Option (Nat × Nat) :=
  let page := pageOfLine line
  noteDurable page (
    if !floeRuns d (homeFloe page) then (d, some (0x42, 0))
    else if isOrphan d line then (d, some (0x33, 0))
    else
      let c := pathCheck d w line
      let u := if c.2.isSome then c else openPage c.1 w page
      match u.2 with
      | some e => (u.1, some e)
      | none => mergeStore u.1 w line b mask)

/-- An atomic performed whole on a line at its home floe: answers the old value, or the status of a failure. -/
def homeAtomic (d : Dev) (w : Who) (line code off size : Nat) (a b : Nat) : Dev × Except (Nat × Nat) Nat :=
  let r := homeRead d w line
  match r.2 with
  | .error e => (r.1, .error e)
  | .ok l =>
    let old := fieldAt l off size
    let s := homeWrite r.1 w line (splice l off (leBytes size (atomicNew code size old a b))) (2 ^ 64 - 1)
    match s.2 with
    | some e => (s.1, .error e)
    | none => (s.1, .ok old)

/-- An exact-add into a cell of a line (R318): the slug sum with a fresh CHECK, or SLUG_CRC. -/
def homeExactAdd (d : Dev) (w : Who) (line off : Nat) (s : Slug) : Dev × Option (Nat × Nat) :=
  let r := homeRead d w line
  match r.2 with
  | .error e => (r.1, some e)
  | .ok l =>
    match slugOf (slice l off 32) with
    | none => (intFailed r.1 w 1 (if w.src = 4 then 14 else 1) (homeFloe (pageOfLine line)) (line * 64) (homeFloe (pageOfLine line)) 0 0 7 0x26 0, some (0x26, 0))
    | some t => homeWrite r.1 w line (splice l off (cellOf (slugAdd t s))) (2 ^ 64 - 1)

end Sys2Proof.Machine
end

