-- ==== Sys2Proof/Machine/Stop.lean ====
section
/-! DEFINITION. What a failed access does to the agent that made it: a core stops, a port answers and records the failed
CXL.mem access (R128, R176, R188, R364, R388). -/

namespace Sys2Proof.Machine

open Sys2Proof

/-! ### Commands by tag -/

/-- A field of a command's entry. -/
def Cmd.f (c : Cmd) (o n : Nat) : Nat := fieldAt c.entry o n

/-- OPCODE of the entry. -/
def Cmd.opcode (c : Cmd) : Nat := c.f 0 1

/-- The command that holds a tag. -/
def cmdOf (d : Dev) (tag : Nat) : Option Cmd := tget? d.cmds tag

/-- Whose work a command's accesses are: SOURCE 4 command unit, 5 codec, 6 search; UNIT is the floe. -/
def Cmd.who (c : Cmd) (tag src : Nat) : Who := ⟨src, c.floe, tag, c.ctx, false, .cmd tag⟩

/-- The unit that makes the accesses of a command, as SOURCE of R85 names it: codec, search engine or command unit. -/
def Cmd.src (c : Cmd) : Nat :=
  if c.opcode = 0x18 ∨ c.opcode = 0x19 then 5 else if 0x10 ≤ c.opcode ∧ c.opcode ≤ 0x12 then 6 else 4

/-! ### A core stops (R128, R176, R188) -/

/-- Changes a core. -/
def modCore (d : Dev) (c : Nat) (f : Core → Core) : Dev := setCore d c (f (coreOf d c))

/-- The queue of a stream: 0 matrix, 1 vector, 2 + h DMA channel h. -/
def streamOf (x : Core) (st : Nat) : Stream := tget x.streams st ⟨[], []⟩

/-- Changes a stream. -/
def modStream (x : Core) (st : Nat) (f : Stream → Stream) : Core :=
  { x with streams := tput x.streams st (f (streamOf x st)) }

/-- DMA channel `h` of a core. -/
def chanOf (x : Core) (h : Nat) : Chan := tget x.chans h Chan.idle

/-- Changes a channel. -/
def modChan (x : Core) (h : Nat) (f : Chan → Chan) : Core := { x with chans := tput x.chans h (f (chanOf x h)) }

/-- A descriptor or internal instruction of a channel has begun. -/
def chanBegun (x : Core) (h : Nat) : Bool :=
  thas x.latched (h + 2) ||
    (match (streamOf x (h + 2)).flight with
     | [] => false
     | f :: _ => !f.chain || decide (2 ≤ (chanOf x h).prog))

/-- A core that stops acts on each channel as STOP and then ABANDON: one that has begun nothing is IDLE, one that has finishes
its descriptor (R128, R398).  A halted channel keeps its latch. -/
def stopChans (x : Core) : Core :=
  (List.range 16).foldl (fun x h =>
    let k := chanOf x h
    if k.state = 0 ∨ k.state ≥ 5 then x
    else if (k.state = 1 ∨ k.state = 3) ∧ chanBegun x h then modChan x h (fun k => { k with state := 3 })
    else modStream (modChan x h (fun k => { k with state := 0, prog := 0, desc := 0, bytes64 := [] })) (h + 2) (fun _ => ⟨[], []⟩)) x

/-- The KERNEL record of a core that stops for a fault, with the latch of the channel whose failure stops it (R188, R399,
R443). -/
def kernelRecord (d : Dev) (c status detail : Nat) (ch : Option Nat) : Dev :=
  let x := coreOf d c
  let (a, h) := match ch with
    | some h => ((chanOf x h).haltAddr, h * 256 + 4096)
    | none => (0, 0)
  let body := errBody a status detail x.tag (x.faultCause + h + x.launch * 65536) x.pc
  let r := logRec d 3 1 2 c x.ctx body false
  holdOpen r.1 ⟨0, c, x.tag, x.ctx, false, .none⟩ r.2

/-- A core that runs the firmware kernel of a built-in command: its program is not given, so nothing follows it there; the
core is held, and software sees it RUNNING (R185, log entry 15). -/
def firmwareCore (d : Dev) (c : Nat) : Bool :=
  (coreOf d c).state == 1 && (cmdOf d (coreOf d c).tag).any (fun m => m.opcode != 0x28)

/-- A kernel runs on a core: a loaded one, or a firmware kernel. -/
def kernelRuns (d : Dev) (c : Nat) : Bool := (coreOf d c).state == 2 || firmwareCore d c

/-- STOP written to a core: RUNNING enters STOPPING, and its proof carries ABORTED_STOP. -/
def coreStop (d : Dev) (c status : Nat) : Dev :=
  if kernelRuns d c then
    modCore d c (fun x => stopChans { x with state := 3, stopWith := some (status, 0, false), sync := none, stalled := none })
  else d

/-- A core stops for a fault, a refused access, the watchdog or a compute check: its FAULT_CAUSE, the record, and STOP
for the other cores of the launch (R176, R188, R435). -/
def coreFault (d : Dev) (c cause status detail : Nat) (ch : Option Nat := none) : Dev :=
  let x := coreOf d c
  if x.state = 2 ∨ x.state = 1 then
    let d := setCore d c (stopChans { x with state := 3, faultCause := cause, stopWith := some (status, detail, true), sync := none,
                                             stalled := none })
    let d := if status = 0x21 then d else kernelRecord d c status detail ch
    match cmdOf d x.tag with
    | some m => m.cores.foldl (fun d o => if o = c then d else coreStop d o 0x51) d
    | none => d
  else d

/-- A kernel fault with a cause of R128. -/
def kernelFault (d : Dev) (c cause : Nat) : Dev := coreFault d c cause 0x17 0

/-- A refused context access of a core: cause ACCESS, the access's own status in the proof (R176). -/
def accessFault (d : Dev) (c : Nat) (e : Nat × Nat) : Dev := coreFault d c 0x0A e.1 e.2

/-! ### Failed CXL.mem accesses (R364) -/

/-- Advances a counter of a switch port (R388). -/
def telPort (d : Dev) (p off : Nat) : Dev := telD d (0x3000 + p * 0x40 + off) 1

/-- The event interrupt of the event log, under the host's policy (PRESUMED layout, log entry 23): the failure log's
byte gives the mode in bits [1:0] and the message number in [7:4]. -/
def eventInterrupt (d : Dev) (port : Nat) : Dev :=
  let f := bits (portOf d port).policy 16 8
  if f % 4 = 1 then sendVec d port (f / 16) else d

/-- Records a failed CXL.mem access at the port: MEM_FAIL, the counter, the event log and its interrupt. -/
def memFail (d : Dev) (port status dec hpa : Nat) (write noDec : Bool) : Dev :=
  let p := portOf d port
  let d := setPort d port
    (if p.failValid then p
     else { p with failStatus := status, failDecoder := dec, failWrite := write, failNoDec := noDec, failValid := true,
                   failAddr := hpa })
  let d := telPort d port 0x10
  let p := portOf d port
  let d := setPort d port { p with events := p.events ++ [⟨d.cal, hpa, status⟩] }
  eventInterrupt d port

/-- The failed response: poisoned zeros for a read, completion for a write. -/
def memFailed (d : Dev) (port status dec hpa : Nat) (write noDec : Bool) : Dev :=
  let d := memFail d port status dec hpa write noDec
  respond d port (if write then .memDone port hpa else .memData port hpa (zeros 64) true 0)

/-- A FAULTED core returns to IDLE: its recovery completes (R188, R450). -/
def clearFault (d : Dev) (c : Nat) : Dev :=
  if (coreOf d c).state = 4 then modCore (closeErr d 2 c 2) c (fun x => { x with state := 0 }) else d

/-! ### Requests of a port on lines it tracks -/

/-- The binding that a request is decoded under: the one before a DECODER_BIND whose reply is still to be written (R75). -/
def Decoder.binding (x : Decoder) : Option Nat × Nat × Nat :=
  match x.old.head? with
  | some o => o.2.2
  | none => (x.ctx, x.uniBase, x.uniLen)

/-- The host address of an offset of a decoder: interleave put back, at the first of its ways (DESIGN CHOICE, log entry 52). -/
def Decoder.hpaOf (x : Decoder) (off : Nat) : Nat :=
  let g := max 1 x.gran
  x.base + off / g * (g * max 1 x.ways) + off % g

/-- A request of a port for a line that a host names by its cached copy, as one that its decoders have decoded (R76): the
committed decoder whose binding covers the line. -/
def decodeLine (d : Dev) (port line : Nat) : Option PortReq :=
  let u := line * 64
  ((portOf d port).decoders.find? (fun x =>
    let (c, base, len) := x.2.binding
    x.2.committed && c.isSome && decide (base ≤ u) && decide (u < base + len) && decide (u - base < x.2.size / max 1 x.2.ways))).map
    (fun x =>
      let off := u - x.2.binding.2.1
      ⟨port, x.2.hpaOf off, x.1, x.2.binding.1.getD 0, off, u⟩)

/-- The request of a port for a cached copy of a line: it completes under the binding it was decoded under (R75). -/
def portReqAt (d : Dev) (port line : Nat) : Option PortReq :=
  match tget? d.portReqs (16 * line + port) with
  | some q => some q
  | none => decodeLine d port line

/-- A port's request for a cached copy of a line has been answered. -/
def portReqDone (d : Dev) (port line : Nat) : Dev := { d with portReqs := tdel d.portReqs (16 * line + port) }

/-- The same, or a request that hits no decoder: its unified address stands for the host address that no decoder gives (DESIGN
CHOICE, log entry 52). -/
def portReqOr (d : Dev) (port line : Nat) : PortReq := (portReqAt d port line).getD ⟨port, line * 64, 0, 0xFFFF, line * 64, 0⟩

/-- Dirty data that an agent gives up is written to memory (R347), and whether it has been.  A write that fails leaves memory
unchanged and is the failed access of that agent (R111): a core stops, a port records it. -/
def dirtyBack (d : Dev) (agent line : Nat) (b : Bytes) : Dev × Bool :=
  let r := storeBack d (Who.unitOnly 9 (homeFloe (pageOfLine line))) line b
  match r.2 with
  | none => (r.1, true)
  | some e =>
    if agent < 64 then (accessFault r.1 agent e, false)
    else
      let q := portReqOr r.1 (agent - 64) line
      (memFail r.1 (agent - 64) e.1 q.dec q.hpa true (portReqAt r.1 (agent - 64) line).isNone, false)

/-- The same where nothing hangs on the outcome. -/
def dirtyToMemory (d : Dev) (agent line : Nat) (b : Bytes) : Dev := (dirtyBack d agent line b).1

end Sys2Proof.Machine
end

