-- ==== Sys2Proof/Machine/Access.lean ====
section
/-! DEFINITION. Engine accesses: translation through a context's ranges, the rights check, and reads, writes and
atomics line by line wherever the page lies (R60 to R72, R85, R99, R317 to R322, R350). -/

namespace Sys2Proof.Machine

open Sys2Proof

/-! ### Ranges (R63 to R70) -/

/-- An entry is in force for work of a range generation: from its birth until it is RETIRING, both of which count only
once the reply of the message that brought them has been written (R52, R68). -/
def Range.liveAt (r : Range) (gen : Nat) : Bool :=
  r.bornBy.isNone && decide (r.born ≤ gen) &&
    (r.uptoBy.isSome || (match r.upto with | some u => decide (gen < u) | none => true))

/-- An entry is valid and not RETIRING. -/
def Range.valid (r : Range) : Bool := r.upto.isNone

/-- Every entry of a context, the replaced ones included. -/
def Ctx.allRanges (c : Ctx) : List (Nat × Range) := c.ranges ++ c.oldRanges

/-- The range that holds a context address for work of a generation (R60, R64): an entry that is RETIRING serves the
commands it was kept for (R68). -/
def findRange (d : Dev) (ctx gen addr : Nat) : Option (Nat × Range) :=
  if addr ≥ 2 ^ 48 then none
  else
    let l := (ctxOf d ctx).allRanges.filter (fun r =>
      r.2.liveAt gen && decide (r.2.start ≤ addr) && decide (addr < r.2.start + r.2.len))
    l.foldl (fun (b : Option (Nat × Range)) r =>
      match b with
      | some q => if r.2.made < q.2.made then some r else b
      | none => some r) none

/-- A range maps part of a placement page. -/
def Range.onPage (r : Range) (page : Nat) : Bool := decide (r.uni / 65536 ≤ page) && decide (page * 65536 < r.uni + r.len)

/-- A range is valid, or a command in flight was fetched under it (R68). -/
def rangeHeld (d : Dev) (c : Nat) (r : Range) : Bool :=
  r.valid || d.cmds.any (fun k => k.2.ctx == c && k.2.phase != 3 && r.liveAt k.2.gen)

/-- The valid range of a context's table that holds a context address: what a message sees (R45, R65). -/
def tableRange (d : Dev) (ctx addr : Nat) : Option (Nat × Range) :=
  if addr ≥ 2 ^ 48 then none
  else (ctxOf d ctx).ranges.find? (fun r => r.2.valid && decide (r.2.start ≤ addr) && decide (addr < r.2.start + r.2.len))

/-- A page is coherent: a range of any context that is valid, or under which a command in flight was fetched, maps it with COHERENT 1
(R338).  An entry that waits only for its copies to be withdrawn lets no new one be made (R352). -/
def pageCoherent (d : Dev) (page : Nat) : Bool :=
  d.ctxs.any (fun c => c.2.allRanges.any (fun r => r.2.coh && r.2.onPage page && rangeHeld d c.1 r.2))

/-! ### TRANSLATION records (R85) -/

/-- The statuses that a TRANSLATION record tells of (R85). -/
def transStatus (s : Nat) : Bool := s == 0x10 || s == 0x11 || s == 0x12 || s == 0x14

/-- The class-specific bytes of a TRANSLATION record. -/
def transBody (addr uni ctx status access src unit tag range owner : Nat) : Bytes :=
  leBytes 8 addr ++ leBytes 8 uni ++ leBytes 2 ctx ++ leBytes 1 status ++ leBytes 1 access ++ leBytes 1 src ++
    leBytes 1 unit ++ leBytes 2 tag ++ leBytes 2 range ++ leBytes 2 owner ++ leBytes 4 0

/-- Records a refused access: the first of a command makes a record, the later ones are counted in it. -/
def transFail (d : Dev) (w : Who) (addr uni status access range owner : Nat) : Dev :=
  match (tget? d.cmds w.tag).bind (·.record) with
  | some s => suppress d s
  | none =>
    let (k, i) := if w.src ≤ 3 then (2, w.unit) else if w.src = 7 then (6, w.unit) else (14, w.unit)
    let r := logRec d 1 1 k i w.ctx (transBody addr uni w.ctx status access w.src w.unit w.tag range owner) w.instant
    let d := holdOpen r.1 w r.2
    { d with cmds := tmod d.cmds w.tag (fun c => { c with record := some r.2 }) }

/-! ### The working context of an engine access -/

/-- Why the work of a command cannot go on now. -/
inductive Blocked where
  /-- a touch fault of the page (R100) -/
  | touch (page : Nat) (o : Owner)
  /-- snoops of the line: SNP_INV or SNP_SHARE (R350) -/
  | snoop (line : Nat) (inv : Bool)
  /-- a line that has to be read elsewhere first, by an owner at a context address: its node and address there, or its
  place in the host tier (R99, R317) -/
  | read (o : Owner) (caddr line : Nat) (node : Option Nat) (addr : Nat)
  /-- copies of a page's lines to be withdrawn first (R339) -/
  | copies (page : Nat)
  /-- a transaction pending on the line (R347), every fabric request in use (R336), or a store to the line still to be
  acknowledged (R130) -/
  | wait
  deriving DecidableEq, Repr

/-- The device while one piece of engine work is performed: who makes it, under which context and range generation,
the far answers, and how it stands. -/
structure W where
  d : Dev
  far : Far
  ctx : Nat
  gen : Nat
  who : Who
  /-- first failure: status and detail -/
  err : Option (Nat × Nat)
  /-- context address of the failing line -/
  errAddr : Nat
  errWrite : Bool
  blocked : Option Blocked
  /-- lines written or issued -/
  wrote : Nat
  deriving DecidableEq, Repr

/-- The start of a piece of work. -/
def W.start (d : Dev) (far : Far) (ctx gen : Nat) (who : Who) : W :=
  { d := d, far := far, ctx := ctx, gen := gen, who := who, err := none, errAddr := 0, errWrite := false,
    blocked := none, wrote := 0 }

/-- The work goes on. -/
def W.ok (w : W) : Bool := w.err.isNone && w.blocked.isNone

/-- Ends the work with a status. -/
def W.fail (w : W) (status detail : Nat) : W :=
  if w.ok then { w with err := some (status, detail) } else w

/-- Ends the work at a line. -/
def W.failAt (w : W) (addr : Nat) (write : Bool) (e : Nat × Nat) : W :=
  if w.ok then { w with err := some e, errAddr := addr, errWrite := write } else w

/-- Ends the work with a refused access, recorded (R85). -/
def W.refuse (w : W) (addr uni status access range owner : Nat) : W :=
  { w.failAt addr (access != 0) (status, 0) with
    d := transFail w.d w.who addr uni status access range owner }

/-- The work stops and is tried again later. -/
def W.block (w : W) (b : Blocked) : W := if w.ok then { w with blocked := some b } else w

/-! ### One line -/

/-- Translates a context address and checks the right: 0 read, 1 write, 2 atomic (R69). -/
def W.xlate (w : W) (addr access : Nat) : W × Option Nat :=
  match findRange w.d w.ctx w.gen addr with
  | none => (w.refuse addr 0 0x10 access 0xFFFF 0, none)
  | some (i, r) =>
    let u := r.uni + (addr - r.start)
    if (if access = 0 then r.r else if access = 1 then r.w else r.a) then (w, some u)
    else (w.refuse addr u 0x11 access i 0, none)

/-- The index of the range that holds an address, for a record. -/
def W.rangeIdx (w : W) (addr : Nat) : Nat :=
  match findRange w.d w.ctx w.gen addr with
  | some (i, _) => i
  | none => 0xFFFF

/-- The first of `n` cells of a run of bytes that fails its check (R143). -/
def badCell (b : Bytes) (n : Nat) : Nat := ((List.range n).find? (fun i => (slugOf (slice b (32 * i) 32)).isNone)).getD 0

/-- A cell read as a slug fails its check: SLUG_CRC, with its INTEGRITY record at the unified line (R143, R438). -/
def W.slugFail (w : W) (addr : Nat) : W :=
  match findRange w.d w.ctx w.gen addr with
  | none => w.fail 0x26 0
  | some (_, r) =>
    let line := (r.uni + (addr - r.start)) / 64
    let f := if w.who.src = 4 then w.who.unit else homeFloe (pageOfLine line)
    { w.fail 0x26 0 with d := intFailed w.d w.who 1 (if w.who.src = 4 then 14 else 1) f (line * 64) f 0 0 7 0x26 0 }

/-! ### Lines that lie elsewhere (R99, R317, R367) -/

/-- The name under which the answer to a READ is kept: its global address. -/
def poolKey (dst addr : Nat) : Nat := dst * 2 ^ 44 + addr

/-- The name under which the answer to a CXL.io read of a line is kept. -/
def hostKey (line : Nat) : Nat := 2 ^ 60 + line

/-- The answer to a read of a far line, with the device after it has been taken: the one that comes with the command, or
one that an acknowledgement or completion has brought to the owner. -/
def takeFar (d : Dev) (far : Far) (o : Owner) (line key : Nat) : Option (Dev × FarAnswer) :=
  match far.find? (fun a => a.1 = line) with
  | some a => some (d, a.2)
  | none =>
    match d.reads.find? (fun r => r.owner = o ∧ r.key = key) with
    | some r => some ({ d with reads := d.reads.erase r }, r.ans)
    | none => none

/-- Keeps the answer to a read until the work of its owner goes on. -/
def keepRead (d : Dev) (r : KeptRead) : Dev := { d with reads := d.reads ++ [r] }

/-- A read that a command no longer wants: its data is discarded, and its failure is recorded without changing the command's status
(R85, R102).  Where the command has gone the record stands alone. -/
def discardRead (d : Dev) (r : KeptRead) : Dev :=
  match r.ans with
  | .data _ => d
  | .err e =>
    let s := if r.key ≥ 2 ^ 60 then 0x14 else e
    if !transStatus s then d
    else
      match r.owner with
      | .cmd t =>
        match cmdOf d t with
        | some c => transFail d (c.who t c.src) r.caddr (r.line * 64) s 0 (((findRange d c.ctx c.gen r.caddr).map (·.1)).getD 0xFFFF) 0
        | none => d
      | .past _ t ctx f src => (logRec d 1 1 14 f ctx (transBody r.caddr (r.line * 64) ctx s 0 src f t 0xFFFF 0) true).1
      | _ => d

/-- An owner is a command, or one that has gone. -/
def Owner.ofCmd (o : Owner) : Bool :=
  match o with
  | .cmd _ => true
  | .past _ _ _ _ _ => true
  | _ => false

/-- The use of a CXL.io request once its owner has ended: the answer to a read goes nowhere.  That of a command is still looked at
(R102). -/
def IoUse.orphaned (u : IoUse) (gone : Owner → Bool) : IoUse :=
  match u with
  | .hostRead o l => if gone o && !o.ofCmd then .hostRead .none l else u
  | _ => u

/-- Forgets the answers kept for owners that have ended; those still under way will be dropped. -/
def dropReads (d : Dev) (gone : Owner → Bool) : Dev :=
  let e := (d.reads.filter (fun r => gone r.owner)).foldl discardRead d
  { e with
    reads := d.reads.filter (fun r => !gone r.owner),
    touched := e.touched.filter (fun t => !gone t.2.1),
    fab := e.fab.map (fun r => (r.1, if r.2.code = 0 ∧ gone r.2.owner ∧ !r.2.owner.ofCmd then { r.2 with owner := .none } else r.2)),
    ports := e.ports.map (fun p => (p.1, { p.2 with
      io := p.2.io.map (fun r => (r.1, { r.2 with use := r.2.use.orphaned gone })) })) }

/-- A write of an owner to a line of another device, or of the host tier, is still to be acknowledged: its own load of the
line waits for it (R130). -/
def ownStore (d : Dev) (o : Owner) (line : Nat) : Bool :=
  d.fab.any (fun r => sameStream r.2.owner o && r.2.line = line && r.2.code != 0) ||
  d.ports.any (fun p => p.2.io.any (fun r => match r.2.use with
    | .hostWrite x l => sameStream x o && l == line
    | _ => false))

/-- A request of this device that reads a line of its host tier and writes it is under way: no other access to the line falls
between (R318). -/
def hostBusy (d : Dev) (line : Nat) : Bool :=
  d.fab.any (fun r => r.2.dst == selfNode d && r.2.line == line && decide (8 ≤ r.2.code))

/-- What a read of a far line comes to: an answer, a refusal with its status, or a wait. -/
inductive FarRead where
  | data (b : Bytes)
  | err (status : Nat)
  | ask
  | hold
  deriving DecidableEq, Repr

/-- A read of the line at an address of a node: the READ is counted when it is issued (R337). -/
def readPool (d : Dev) (far : Far) (o : Owner) (line node addr : Nat) : Dev × FarRead :=
  match fabRefused d node with
  | some s => (d, .err s)
  | none =>
    if ownStore d o line then (d, .hold)
    else
      match takeFar d far o line (poolKey node addr) with
      | some (e, .data b) => (if far.any (fun a => a.1 = line) then countFab e 0 else e, .data (slice b 0 64))
      | some (e, .err s) => (if far.any (fun a => a.1 = line) then countFab e 0 else e, .err s)
      | none => (d, .ask)

/-- Host address of a line of a host-tier page. -/
def hostAddr (p : Page) (line : Nat) : Nat := p.haddr + line % 1024 * 64

/-- A read of a line of the host tier; a completion error fails as PAGE_ABSENT (DEDUCED, log entry 21).  An answer that comes
with the command is one to a request that the port sends, where it has room for one more (R367). -/
def readHost (d : Dev) (far : Far) (o : Owner) (line : Nat) : Dev × FarRead :=
  let p := pageOf d (pageOfLine line)
  let now := far.any (fun a => a.1 = line)
  if !linkUp (portOf d p.port) then (d, .err 0x14)
  else if ownStore d o line || hostBusy d line then (d, .hold)
  else
    match takeFar d (if (portOf d p.port).io.length < 256 then far else []) o line (hostKey line) with
    | some (e, a) =>
      let e := if now then emit (setPort e p.port (wake (portOf e p.port))) (.ioRead p.port (hostAddr p line) 64) else e
      match a with
      | .data b => (e, .data (slice b 0 64))
      | .err _ => (e, .err 0x14)
    | none => (d, .ask)

/-- Whether copies of a line stand in the way of a non-coherent access (R350): reading only against an owner. -/
def ncBlocked (d : Dev) (line : Nat) (inv : Bool) : Option Blocked :=
  match tget? d.dir line with
  | none => none
  | some e =>
    if e.state = 3 then none
    else if e.txn.isSome then some .wait
    else if inv ∧ (e.state = 1 ∨ e.state = 2) then some (.snoop line true)
    else if !inv ∧ e.state = 2 then some (.snoop line false)
    else none

/-- The agents a snoop goes to. -/
def sharersOf (e : DirEntry) : List Nat := (List.range 76).filter (fun i => bitOf e.sharers i)

/-- The key of a data cache line among a core's upsets. -/
def dcKey (line : Nat) : Nat := 2 ^ 40 + line

/-- A data cache line holds more errors than its code corrects (R427). -/
def dcBad (d : Dev) (c line : Nat) : Bool := decide (2 ≤ tget (coreOf d c).flips (dcKey line) 0)

/-- A slice begins to walk for a failed agent, and the COHERENCE record is written (R353). -/
def beginWalk (d : Dev) (agent cause : Nat) : Dev :=
  let n := (d.dir.filter (fun e => e.2.state = 2 && e.2.owner = agent)).length
  let (k, i) := if agent < 64 then (2, agent) else (6, agent - 64)
  let d := logErr d 7 2 k i 0xFFFF (errBody 0 0 0 0xFFFF (agent + cause * 256) n)
  { d with dirWalk := d.dirWalk ++ (List.range 4).map (fun f => (f, agent + 128 * cause)) }

/-- A data cache drops a line without writing it back. -/
def dcForget (d : Dev) (c line : Nat) : Dev :=
  modCore d c (fun x => { x with dcache := tdel x.dcache line, flips := tdel x.flips (dcKey line),
                                 reserve := if x.reserve = some line then none else x.reserve })

/-- A dirty data cache line is lost to its SRAM: the core is failed for coherence with cause 5 (R353, R427). -/
def dcLost (d : Dev) (c line : Nat) : Dev :=
  let d := telF (dcForget d c line) (c / 16) 0x1730 1
  beginWalk (intFailed d (Who.unitOnly 0 c) 1 2 c 0 c 0 0 5 0x20 4) c 5

/-- An upset of a data cache line has been corrected, by its code or by fetching the line again. -/
def dcFixed (d : Dev) (c line : Nat) : Dev :=
  let d := telF (modCore d c (fun x => { x with flips := tdel x.flips (dcKey line) })) (c / 16) 0x1728 1
  intCorrected d (Who.unitOnly 0 c) true 2 c 0 c 0 0 4

/-- A core's answer to a snoop: its data cache gives up the line, or its ownership (R348); what a dirty line held. -/
def snoopCore (d : Dev) (c line : Nat) (inv : Bool) : Dev × Option Bytes × Bool :=
  let x := coreOf d c
  match tget? x.dcache line with
  | none => (d, none, true)
  | some l =>
    let dc := if inv then tdel x.dcache line else tput x.dcache line { l with dirty := false, owned := false }
    let rs := if inv ∧ x.reserve = some line then none else x.reserve
    (setCore d c { x with dcache := dc, reserve := rs, flips := if inv then tdel x.flips (dcKey line) else x.flips }, if l.dirty then some l.data else none, false)

/-- The bit of an agent. -/
def agentBit (a : Nat) : Nat := 2 ^ a

/-- Sharers with a bit set or cleared. -/
def addSharer (s a : Nat) : Nat := if bitOf s a then s else s + agentBit a
/-- Sharers without an agent. -/
def delSharer (s a : Nat) : Nat := if bitOf s a then s - agentBit a else s

/-- Sets the state of an entry, keeping its transaction. -/
def putState (d : Dev) (line state sharers owner : Nat) : Dev :=
  setDir d line { dirOf d line with state := state, sharers := sharers, owner := owner }

/-- A tracked line loses an agent: its bit is cleared, and the entry is INVALID when none remain. -/
def dropAgent (d : Dev) (line a : Nat) : Dev :=
  let e := dirOf d line
  if e.state = 1 then
    let s := delSharer e.sharers a
    putState d line (if s = 0 then 0 else 1) s 0xFF
  else if e.state = 2 ∧ e.owner = a then putState d line 0 0 0xFF
  else d

/-- What the snoops of a transaction have brought at once: the device, the snoops still to be answered, whether the owner
keeps no copy, and dirty data. -/
structure Snooped where
  d : Dev
  wait : List (Nat × Nat)
  dropped : Bool
  data : Option Bytes
  deriving DecidableEq, Repr

/-- A snoop answered as failed: a line that the agent owned becomes an orphan, its bit elsewhere is cleared (R353). -/
def snoopFailed (d : Dev) (agent line cause : Nat) : Dev :=
  if (dirOf d line).state = 2 ∧ (dirOf d line).owner = agent then makeOrphan d line agent cause else dropAgent d line agent

/-- One snoop: an agent whose walk goes on is answered for as failed (R353), a core answers at once, a port later by
BIRsp.  A port outside 256B flit mode holds no copy (R363). -/
def sendSnoop (line : Nat) (s : Snooped) (a : Nat × Nat) : Snooped :=
  let f := homeFloe (pageOfLine line)
  let d := telF s.d f 0x1608 1
  match d.dirWalk.find? (fun w => w.1 = f ∧ w.2 % 128 = a.1) with
  | some w => { s with d := snoopFailed d a.1 line (w.2 / 128) }
  | none =>
    if a.1 < 64 then
      if dcBad d a.1 line && (tget? (coreOf d a.1).dcache line).any (·.dirty) then
        { s with d := snoopFailed (dcLost d a.1 line) a.1 line 5 }
      else
      let r := snoopCore d a.1 line (a.2 = 1)
      match r.2.1 with
      | some b => { s with d := dirtyToMemory (telF r.1 f 0x1620 1) a.1 line b, dropped := s.dropped || r.2.2, data := some b }
      | none => { s with d := r.1, dropped := s.dropped || r.2.2 }
    else if !(portOf d (a.1 - 64)).flit256 then { s with d := d, dropped := true }
    else { s with d := emit (wakePort d (a.1 - 64)) (.bisnp (a.1 - 64) line (a.2 = 1)), wait := s.wait ++ [a] }

/-- Sends the snoops of a transaction. -/
def sendSnoops (d : Dev) (line : Nat) (who : List (Nat × Nat)) : Snooped := who.foldl (sendSnoop line) ⟨d, [], false, none⟩

/-- Entries of a floe's slice with a transaction in progress. -/
def dirPending (d : Dev) (f : Nat) : Nat :=
  (d.dir.filter (fun e => homeFloe (pageOfLine e.1) = f && e.2.txn.isSome)).length

/-- A slice with all 512 entries pending starts no transaction that would have to wait for a port (R358). -/
def dirFull (d : Dev) (line : Nat) (who : List (Nat × Nat)) : Bool :=
  who.any (fun a => decide (64 ≤ a.1)) && decide (512 ≤ dirPending d (homeFloe (pageOfLine line)))

/-- A transaction of the slice itself that must wait stands in the line wait queue, once. -/
def queueDir (d : Dev) (line : Nat) (op : DirOp) : Dev :=
  if d.dirWait.contains (line, op) then d else { d with dirWait := d.dirWait ++ [(line, op)] }

/-- Withdraws the copies that block a non-coherent access: done at once where cores hold them, else pending on the
ports' answers. -/
def startSnoop (d : Dev) (line : Nat) (inv : Bool) : Dev :=
  let e := dirOf d line
  let who := if inv then (sharersOf e).map (fun a => (a, 1)) else [(e.owner, 0)]
  if dirFull d line who then queueDir d line (if inv then .withdraw else .ncRd)
  else
  let s := sendSnoops d line who
  let e' := dirOf s.d line
  if e'.state = 3 then s.d
  else if !s.wait.isEmpty then setDir s.d line { e' with txn := some ⟨if inv then .withdraw else .ncRd, s.wait, s.data, s.dropped⟩ }
  else if inv || s.dropped then setDir s.d line { e' with sharers := 0, state := 0, owner := 0xFF, txn := none }
  else setDir s.d line { e' with state := 1, owner := 0xFF, txn := none }

/-- The slice's SRAM code at a lookup (R343, R427): an error of more than one bit is an event of its floe, at level 3 (R352,
R441), and the lookup fails. -/
def dirCode (d : Dev) (line : Nat) : Dev × Bool :=
  let f := homeFloe (pageOfLine line)
  let n := tget d.dirFlips line 0
  if n = 0 then (d, false)
  else if n = 1 then
    (intCorrected (telF { d with dirFlips := tdel d.dirFlips line } f 0x1728 1) (Who.unitOnly 9 f) true 1 f 0 f 0 0 4, false)
  else (intFailed (telF d f 0x1730 1) (Who.unitOnly 9 f) 3 1 f 0 f 0 0 5 0x20 4, true)

/-- Copies that only cores hold are withdrawn at once; what is left in the way of a non-coherent access.  Where the lookup of the
entry fails, the access waits for the recovery of the floe that follows (R352). -/
def ncReady (d : Dev) (line : Nat) (inv : Bool) : Dev × Option Blocked :=
  let k := dirCode d line
  let d := k.1
  if k.2 then (d, some .wait)
  else
  match ncBlocked d line inv with
  | some (.snoop l i) =>
    let e := dirOf d l
    if (if i then (sharersOf e).all (fun a => a < 64) else decide (e.owner < 64)) then (startSnoop d l i, none)
    else (d, some (.snoop l i))
  | x => (d, x)

/-- The unified address of a context address, for a record. -/
def W.uniOf (w : W) (addr : Nat) : Nat :=
  match findRange w.d w.ctx w.gen addr with
  | some (_, r) => r.uni + (addr - r.start)
  | none => 0

/-- The access fails with PAGE_ABSENT, recorded (R85): 0 read, 1 write, 2 atomic. -/
def W.absent (w : W) (addr access : Nat) : W := w.refuse addr (w.uniOf addr) 0x14 access (w.rangeIdx addr) 0

/-- An engine access reaches a page whose home floe is ON, or one that drains where a touch fault it waited for has served it
(R19, R20). -/
def W.reach (w : W) (page : Nat) : Bool :=
  floeOn w.d (homeFloe page) || (floeRuns w.d (homeFloe page) && w.d.touched.contains (page, w.who.owner, 0))

/-- Why a touch fault cannot be raised: no page is free (R90), or the link to the host is down (R367). -/
def touchRefused (d : Dev) (page : Nat) : Option Nat :=
  if (pickFirst d (homeFloe page)).isNone then some 0x40
  else if !linkUp (portOf d (pageOf d page).port) then some 0x14
  else none

/-- An access of this kind fails with a status, recorded where it is one of R85: 0 read, 1 write, 2 atomic. -/
def W.failFar (w : W) (addr access status : Nat) : W :=
  if transStatus status then w.refuse addr (w.uniOf addr) status access (w.rangeIdx addr) 0
  else w.failAt addr (access != 0) (status, 0)

/-- A touch of a page with MOT set: the work waits for the touch fault, or fails where it cannot be raised or has failed
(R90, R100). -/
def W.touch (w : W) (addr page access : Nat) : W :=
  if !w.reach page then w.failAt addr (access != 0) (0x42, 0)
  else
    match w.d.touched.find? (fun t => t.1 = page ∧ t.2.1 = w.who.owner ∧ t.2.2 ≠ 0) with
    | some t => { w with d := { w.d with touched := w.d.touched.erase t } }.failFar addr access t.2.2
    | none =>
      match (if thas w.d.touches page then none else touchRefused w.d page) with
      | some s => w.failFar addr access s
      | none => w.block (.touch page w.who.owner)

/-- Reads a line at an address of a node for an engine access. -/
def W.poolRead (w : W) (addr line node raddr : Nat) : W × Bytes :=
  let r := readPool w.d w.far w.who.owner line node raddr
  match r.2 with
  | .data b => ({ w with d := r.1 }, b)
  | .err s => ({ w with d := r.1 }.failFar addr 0 s, zeros 64)
  | .ask => (if fabFull w.d then w.block .wait else w.block (.read w.who.owner addr line (some node) raddr), zeros 64)
  | .hold => (w.block .wait, zeros 64)

/-- Reads a line of the host tier for an engine access. -/
def W.hostRead (w : W) (addr line access : Nat) : W × Bytes :=
  let r := readHost w.d w.far w.who.owner line
  match r.2 with
  | .data b => ({ w with d := r.1 }, b)
  | .err _ => ({ w with d := r.1 }.absent addr access, zeros 64)
  | .ask => (w.block (.read w.who.owner addr line none 0), zeros 64)
  | .hold => (w.block .wait, zeros 64)

/-- Address of a line of a pool-tier page at the node that holds it. -/
def poolAddr (p : Page) (line : Nat) : Nat := p.rpage * 65536 + line % 1024 * 64

/-- Reads the line at a unified line address for an engine access at a context address; no engine reaches a page whose
home floe is not ON (R20). -/
def W.lineRead (w : W) (addr line access : Nat) : W × Bytes :=
  let page := pageOfLine line
  let p := pageOf w.d page
  if !w.reach page then (w.failAt addr false (0x42, 0), zeros 64)
  else if p.tier = 0 then (w.absent addr access, zeros 64)
  else if p.tier = 3 then w.poolRead addr line p.node (poolAddr p line)
  else if p.tier = 4 then
    if p.mot then (w.touch addr page access, zeros 64) else w.hostRead addr line access
  else
    let n := ncReady w.d line false
    match n.2 with
    | some b => (w.block b, zeros 64)
    | none =>
      let r := homeRead n.1 w.who line
      match r.2 with
      | .ok b => ({ w with d := r.1 }, b)
      | .error e => ({ w with d := r.1 }.failAt addr false e, zeros 64)

/-- A CXL.io request leaves the port. -/
def ioSend (d : Dev) (port : Nat) (r : IoReq) : Dev := emit d (if r.write then .ioWrite port r.addr r.data else .ioRead port r.addr r.len)

/-- The next CXL.io request of a port: 256 are outstanding at once, further ones wait in issue order (R367). -/
def ioIssue (d : Dev) (port : Nat) (r : IoReq) : Dev :=
  let p := wake (portOf d port)
  let d := setPort d port { p with io := tput p.io p.nextIo r, nextIo := p.nextIo + 1 }
  if p.io.length < 256 then ioSend d port r else d

/-- A CXL.io request of a port is over: the first one that waited may leave. -/
def ioEnd (d : Dev) (port key : Nat) : Dev :=
  let p := portOf d port
  let d := setPort d port { p with io := tdel p.io key }
  match p.io[256]? with
  | some r => if linkUp p then ioSend (wakePort d port) port r.2 else d
  | none => d

/-- Work that has issued nothing stalls while the device's outstanding requests are all in use; work that has begun goes on
with requests that wait for a place (chapter 13, limits). -/
def W.stalls (w : W) : Bool := w.wrote == 0 && fabFull w.d

/-- The copy of a page to a pool or host page is being written from one: the page takes no write until the swap (R103 step 3;
DESIGN CHOICE, log entry 58). -/
def frozen (d : Dev) (page : Nat) : Bool :=
  (tget? d.moves page).any (fun m => m.frozen && decide ((pageOf d page).tier ≥ 3))

/-- What an atomic on a line of the host tier waits for beside its own stream: those on the line before it, and writes to it that
are on their way. -/
def lineBefore (d : Dev) (line : Nat) : List Nat :=
  (d.fab.filter (fun r => r.2.dst == selfNode d && r.2.line == line && decide (8 ≤ r.2.code))).map (·.1) ++
  d.ports.flatMap (fun p => (p.2.io.filter (fun r =>
    match r.2.use with
    | .hostWrite _ l => l == line
    | _ => false)).map (fun r => ioTag p.1 r.1))

/-- An atomic on a line of the host tier begins once nothing stands before it: the line is read from the host (R99, R318). -/
def startHost (d : Dev) (u : Nat) : Dev :=
  match tget? d.fab u with
  | none => d
  | some r =>
    if r.prog = 0 ∧ r.after.isEmpty ∧ !retried d r.reads then
      let p := pageOf d (pageOfLine r.line)
      ioIssue { d with fab := tput d.fab u { r with prog := 1 } } p.port
        ⟨.hostRead (.held u) r.line, hostAddr p r.line, 64, false, [], r.caddr⟩
    else d

/-- An atomic on a line of the host tier, as a request of this device: its line is read, changed and written with no other
access to it between (R318), and it is acknowledged when the host has it. -/
def hostAtomic (d : Dev) (caddr : Nat) (o : Owner) (code addr width : Nat) (payload : Bytes) (final : Bool) : Dev :=
  let before := lineBefore d (addr / 64)
  let r := holdLocal (countFab (rewritten d (addr / 65536)) code) caddr o code addr width payload final
  startHost { r.1 with fab := tmod r.1.fab r.2 (fun q => { q with after := q.after ++ before }) } r.2

/-- Writes masked bytes of a line of the host tier for an owner. -/
def hostWrite (d : Dev) (caddr : Nat) (o : Owner) (line : Nat) (b : Bytes) (mask : Nat) : Dev :=
  let p := pageOf d (pageOfLine line)
  ioIssue (rewritten d (pageOfLine line)) p.port ⟨.hostWrite o line, hostAddr p line, 64, true, writePayload mask b, caddr⟩

/-- Holds a line write for an engine access; one to the host tier also behind what is under way on its line. -/
def W.holdWrite (w : W) (d : Dev) (addr line : Nat) (b : Bytes) (mask : Nat) (final : Bool) : W :=
  let before := if (pageOf d (pageOfLine line)).tier = 4 then lineBefore d line else []
  let r := holdLocal d addr w.who.owner 1 (line * 64) 0 (writePayload mask b) final
  { w with d := { r.1 with fab := tmod r.1.fab r.2 (fun q => { q with after := q.after ++ before }) }, wrote := w.wrote + 1 }

/-- Writes masked bytes of the line at a unified line address; a final write waits for its stream (R322). -/
def W.lineWrite (w : W) (addr line : Nat) (b : Bytes) (mask : Nat) (final : Bool) : W :=
  let page := pageOfLine line
  let p := pageOf w.d page
  let o := w.who.owner
  if !w.reach page then w.failAt addr true (0x42, 0)
  else if frozen w.d page then w.block .wait
  else if p.tier = 3 then
    match fabRefused w.d p.node with
    | some s => w.failAt addr true (s, 0)
    | none =>
      if w.stalls then w.block .wait
      else { w with d := issueAt (rewritten w.d page) addr o 1 p.node (poolAddr p line) line 0 (writePayload mask b) final,
                    wrote := w.wrote + 1 }
  else if p.tier = 4 then
    if p.mot then w.touch addr page 1
    else if !linkUp (portOf w.d p.port) then w.absent addr 1
    else if mustHold w.d o line final || hostBusy w.d line then w.holdWrite w.d addr line b mask final
    else { w with d := hostWrite w.d addr o line b mask, wrote := w.wrote + 1 }
  else
    match (if p.tier = 0 then placePage w.d page w.ctx else some w.d) with
    | none => w.failAt addr true (0x40, 0)
    | some d =>
      let n := ncReady d line true
      match n.2 with
      | some x => w.block x
      | none =>
        if mustHold n.1 o line final then w.holdWrite n.1 addr line b mask final
        else
          let r := homeWrite n.1 w.who line b mask
          match r.2 with
          | none => { w with d := r.1, wrote := w.wrote + 1 }
          | some e => { w with d := r.1 }.failAt addr true e

/-! ### Runs of bytes -/

/-- The byte mask of `n` bytes from offset `o` of a line. -/
def runMask (o n : Nat) : Nat := (2 ^ n - 1) * 2 ^ o

/-- A run of context addresses cut at line boundaries: address, offset in the line, length. -/
def lineRuns (addr n : Nat) : List (Nat × Nat × Nat) :=
  if n = 0 then []
  else (List.range ((addr % 64 + n + 63) / 64)).map (fun i =>
    let a := if i = 0 then addr else addr / 64 * 64 + 64 * i
    (a, a % 64, min (64 - a % 64) (addr + n - a)))

/-- Reads bytes from context addresses, each line translated and checked once (R69, R71, R72). -/
def W.read (w : W) (addr n : Nat) : W × Bytes :=
  (lineRuns addr n).foldl (fun (s : W × Bytes) r =>
    if s.1.ok then
      let x := s.1.xlate r.1 0
      match x.2 with
      | none => (x.1, s.2 ++ zeros r.2.2)
      | some u =>
        let y := x.1.lineRead r.1 (u / 64) 0
        (y.1, s.2 ++ slice y.2 r.2.1 r.2.2)
    else (s.1, s.2 ++ zeros r.2.2)) (w, [])

/-- Writes bytes to context addresses. -/
def W.writeF (w : W) (addr : Nat) (b : Bytes) (final : Bool) : W :=
  ((lineRuns addr b.length).foldl (fun (s : W × Bytes) r =>
    let rest := s.2.drop r.2.2
    if s.1.ok then
      let x := s.1.xlate r.1 1
      match x.2 with
      | none => (x.1, rest)
      | some u => (x.1.lineWrite r.1 (u / 64) (zeros r.2.1 ++ s.2.take r.2.2) (runMask r.2.1 r.2.2) final, rest)
    else (s.1, rest)) (w, b)).1

/-- Writes bytes, not flagged final. -/
def W.write (w : W) (addr : Nat) (b : Bytes) : W := w.writeF addr b false

/-- Where an atomic of an engine access finds its line: a refusal or a wait, or its place. -/
inductive AtomSite where
  | stop (w : W)
  /-- a line of this device's stack or bulk tier, its copies withdrawn -/
  | here (w : W) (uni : Nat)
  /-- a request to the node of a pool page, or one of this device on its host tier, with the unified address -/
  | pool (w : W) (p : Page) (uni : Nat)
  | host (w : W) (uni : Nat)

/-- Translates and checks an atomic at a context address (R69, R90, R99, R103, R350). -/
def W.atomicSite (w : W) (addr : Nat) : AtomSite :=
  let x := w.xlate addr 2
  match x.2 with
  | none => .stop x.1
  | some u =>
    let w := x.1
    let line := u / 64
    let page := pageOfLine line
    let p := pageOf w.d page
    if !w.reach page then .stop (w.failAt addr true (0x42, 0))
    else if p.tier = 0 then .stop (w.absent addr 2)
    else if frozen w.d page then .stop (w.block .wait)
    else if p.tier = 3 then
      match fabRefused w.d p.node with
      | some s => .stop (w.failAt addr true (s, 0))
      | none => if w.stalls then .stop (w.block .wait) else .pool w p u
    else if p.tier = 4 then
      if p.mot then .stop (w.touch addr page 2)
      else if !linkUp (portOf w.d p.port) then .stop (w.absent addr 2)
      else .host w u
    else
      let n := ncReady w.d line true
      match n.2 with
      | some z => .stop (w.block z)
      | none => .here { w with d := n.1 } u

/-- The request of an atomic that goes elsewhere or that is held: it counts as written, and what it brings comes with its
acknowledgement. -/
def W.sent (w : W) (d : Dev) : W := { w with d := d, wrote := w.wrote + 1 }

/-- An integer atomic within one line: the old value where it is performed at once; else a request is issued and the value
comes with its acknowledgement (R317). -/
def W.atomic (w : W) (addr code size width : Nat) (a b : Nat) (final : Bool) : W × Nat :=
  let pl := if code = 0x11 then leBytes 8 a ++ leBytes 8 b else leBytes 8 a
  let o := w.who.owner
  if !w.ok then (w, 0)
  else
    match w.atomicSite addr with
    | .stop w => (w, 0)
    | .pool w p u => (w.sent (issueAt (rewritten w.d (u / 65536)) addr o code p.node (p.rpage * 65536 + u % 65536) (u / 64) width pl final), 0)
    | .host w u => (w.sent (hostAtomic w.d addr o code u width pl final), 0)
    | .here w u =>
      if mustHold w.d o (u / 64) final then (w.sent (holdLocal w.d addr o code u width pl final).1, 0)
      else
        let r := homeAtomic w.d w.who (u / 64) code (u % 64) size a b
        match r.2 with
        | .ok old => (w.sent r.1, old)
        | .error e => ({ w with d := r.1 }.failAt addr true e, 0)

/-- An exact-add of a slug into the cell at a 32-byte aligned context address (R175, R318). -/
def W.exactAdd (w : W) (addr : Nat) (s : Slug) (final : Bool) : W :=
  let o := w.who.owner
  if !w.ok then w
  else
    match w.atomicSite addr with
    | .stop w => w
    | .pool w p u => w.sent (issueAt (rewritten w.d (u / 65536)) addr o 0x12 p.node (p.rpage * 65536 + u % 65536) (u / 64) 0 (cellOf s) final)
    | .host w u => w.sent (hostAtomic w.d addr o 0x12 u 0 (cellOf s) final)
    | .here w u =>
      if mustHold w.d o (u / 64) final then w.sent (holdLocal w.d addr o 0x12 u 0 (cellOf s) final).1
      else
        let r := homeExactAdd w.d w.who (u / 64) (u % 64) s
        match r.2 with
        | none => w.sent r.1
        | some e => { w with d := r.1 }.failAt addr true e

/-! ### Touch faults and snoops that block work -/

/-- Touch faults that a floe is handling. -/
def touching (d : Dev) (f : Nat) : Nat := (d.touches.filter (fun t => homeFloe t.1 = f && !t.2.queued)).length

/-- Begins a touch fault: a page is allocated by R90 and the host is read in one DMA. -/
def beginTouch (d : Dev) (page : Nat) (t : Touch) : Except Nat Dev :=
  match touchRefused d page, pickFirst d (homeFloe page) with
  | some s, _ => .error s
  | none, none => .error 0x40
  | none, some (tier, k) =>
    let p := pageOf d page
    let d := useFree { d with touches := tput d.touches page { t with tier := tier, k := k, queued := false } }
    .ok (telF (ioIssue d p.port ⟨.touch page, p.haddr, 65536, false, [], 0⟩) (homeFloe page) 0x1020 1)

/-- Raises the touch fault of a page (R100).  A floe handles 64 at once, and further ones queue in arrival order.
Without a free page, or where the host cannot be reached, the touch fails with its status (R90, R367). -/
def startTouch (d : Dev) (page : Nat) (ws : List Waiter) : Except Nat Dev :=
  match tget? d.touches page with
  | some t =>
    let ws := ws.filter (fun w => !t.waiters.contains w)
    .ok { d with touches := tput d.touches page { t with waiters := t.waiters ++ ws } }
  | none =>
    let n := d.touches.foldl (fun n t => max n (t.2.arrival + 1)) 0
    if touching d (homeFloe page) ≥ 64 then
      .ok { d with touches := tput d.touches page ⟨0, 0, ws, n, true⟩ }
    else beginTouch d page ⟨0, 0, ws, n, true⟩

/-- Sends the read of a far line that an owner's work waits for, unless it is under way: a READ to a node, or a CXL.io
read of the host tier. -/
def startRead (d : Dev) (o : Owner) (caddr line : Nat) (node : Option Nat) (addr : Nat) : Dev :=
  match node with
  | some n =>
    if d.fab.any (fun r => r.2.owner = o ∧ r.2.code = 0 ∧ r.2.owed ∧ r.2.dst = n ∧ r.2.addr = addr) ∨ fabFull d then d
    else issueAt d caddr o 0 n addr line 0 [] false
  | none =>
    let p := pageOf d (pageOfLine line)
    if (portOf d p.port).io.any (fun r => r.2.use = .hostRead o line) then d
    else ioIssue d p.port ⟨.hostRead o line, hostAddr p line, 64, false, [], caddr⟩

/-- A touch fault that engine work raises; one that cannot be raised fails when the work is performed again. -/
def engineTouch (d : Dev) (page : Nat) (o : Owner) : Dev :=
  match startTouch d page [.engine o] with
  | .ok d => d
  | .error _ => d

/-- Withdraws every tracked copy of a page (R338, R352): behind the transaction that is pending on its line. -/
def withdrawCopies (d : Dev) (page : Nat) : Dev :=
  (d.dir.filter (fun e => pageOfLine e.1 = page && (e.2.state = 1 || e.2.state = 2))).foldl
    (fun d e => if e.2.txn.isSome then queueDir d e.1 .withdraw else startSnoop d e.1 true) d

/-- Copies of a page are still to be withdrawn: a transaction is pending on one of its lines, or waits for it. -/
def withdrawing (d : Dev) (page : Nat) : Bool :=
  d.dir.any (fun e => pageOfLine e.1 = page && e.2.txn.isSome) ||
  d.dirWait.any (fun w => pageOfLine w.1 = page && w.2 == .withdraw)

/-- Acts on what blocked a piece of work, from the state before it: the work is performed again later. -/
def unblock (d : Dev) (b : Blocked) : Dev :=
  match b with
  | .touch p o => engineTouch d p o
  | .snoop l i => startSnoop d l i
  | .read o c l n a => startRead d o c l n a
  | .copies p => withdrawCopies d p
  | .wait => d

end Sys2Proof.Machine
end

