-- ==== Sys2Proof/Machine/Generation.lean ====
section
/-! DEFINITION. What a command's entry says, and the numbers and generations of the tables: what a snapshot GATHER pins
and what its end lets retire (R203, R249 to R256). -/

namespace Sys2Proof.Machine

open Sys2Proof

/-! ### Commands and the objects they name -/

/-- Changes a command. -/
def modCmd (d : Dev) (tag : Nat) (f : Cmd → Cmd) : Dev := { d with cmds := tmod d.cmds tag f }

/-- The number of a context-scoped object in the table. -/
def objKey (ctx handle : Nat) : Nat := ctx * 65536 + handle

/-- A context-scoped object. -/
def objOf (d : Dev) (ctx handle : Nat) : Option Obj := tget? d.objs (objKey ctx handle)

/-! ### Tables (R249, R250, R253) -/

/-- The shape a table's parameter block gives. -/
structure TabShape where
  store : Nat
  work : Nat
  rows : Nat
  slots : Nat
  hot : Nat
  cols : Nat
  codeBits : Nat
  forme : Nat
  deriving DecidableEq, Repr

/-- The fields of a table's parameter block. -/
def tabOf (b : Bytes) : TabShape :=
  { store := fieldAt b 0 8, work := fieldAt b 8 8, rows := fieldAt b 16 4, slots := fieldAt b 20 4, hot := fieldAt b 24 4,
    cols := fieldAt b 30 2, codeBits := fieldAt b 34 1, forme := fieldAt b 36 2 }

/-- Bytes of codes. -/
def TabShape.cb (t : TabShape) : Nat := if t.codeBits = 4 then t.cols / 2 else t.cols
/-- SLOT_BYTES. -/
def TabShape.slotBytes (t : TabShape) : Nat := (t.cb + 8 + 7) / 8 * 8
/-- Where a row's map entry lies. -/
def TabShape.entryAt (t : TabShape) (r : Nat) : Nat := t.work + 16 * r
/-- Where the ordinary (0) and hot (1) free stacks and the change log (2) start. -/
def TabShape.part (t : TabShape) (i : Nat) : Nat := t.work + 16 * t.rows + 4 * (t.slots - t.rows) * i

/-- A number of a table: 0 CURRENT_GEN, 1 ROW_MAP_VERSION, 2 and 3 slots handed out of the ordinary and the hot pool, 4 and
5 depths of their free stacks, 6 and 7 front and end of the change log, 8 SHADOWS, 9 OLDEST_RETAINED; 16 + r where row r is
being moved: its destination slot + 1. -/
def tabNum (d : Dev) (key i : Nat) : Nat :=
  match tget? d.objs key with
  | some o => tget o.nums i 0
  | none => 0

/-- Changes a number of a table. -/
def setTabNum (d : Dev) (key i v : Nat) : Dev := { d with objs := tmod d.objs key (fun o => { o with nums := tput o.nums i v }) }

/-- The destination of a row that is being moved (R258). -/
def rowMove (d : Dev) (key r : Nat) : Option Nat :=
  match tabNum d key (16 + r) with
  | 0 => none
  | n + 1 => some n

/-- A row's move is over. -/
def endRowMove (d : Dev) (key r : Nat) : Dev := { d with objs := tmod d.objs key (fun o => { o with nums := tdel o.nums (16 + r) }) }

/-- The table a command names: its number and shape. -/
def cmdTable (d : Dev) (c : Cmd) : Nat × TabShape :=
  (objKey c.ctx (c.f 32 2), tabOf (((objOf d c.ctx (c.f 32 2)).map (·.par)).getD (zeros 64)))

/-! ### Memory of a table, by W -/

/-- A row map entry: SLOT resolved, GEN, SHADOW, FLAGS.MOVING. -/
structure RowEntry where
  slot : Nat
  gen : Nat
  shadow : Nat
  moving : Bool
  deriving DecidableEq, Repr

/-- Reads a row map entry. -/
def readEntry (w : W) (t : TabShape) (r : Nat) : W × RowEntry :=
  let x := w.read (t.entryAt r) 16
  let s := fieldAt x.2 0 4
  (x.1, ⟨if s = 0 then r else s - 1, fieldAt x.2 4 4, fieldAt x.2 8 4, bitOf (fieldAt x.2 12 1) 0⟩)

/-- Writes a row map entry in one aligned write; ROW_MAP_VERSION advances. -/
def writeEntry (w : W) (key : Nat) (t : TabShape) (r : Nat) (e : RowEntry) : W :=
  let w := w.write (t.entryAt r) (leBytes 4 (e.slot + 1) ++ leBytes 4 e.gen ++ leBytes 4 e.shadow ++ leBytes 4 (b2n e.moving))
  if w.ok then { w with d := setTabNum w.d key 1 ((tabNum w.d key 1 + 1) % 2 ^ 32) } else w

/-- Slots of a pool: ordinary is ROWS to HOT_FIRST − 1. -/
def TabShape.poolFirst (t : TabShape) (hot : Bool) : Nat := if hot then t.hot else t.rows
/-- The end of a pool. -/
def TabShape.poolEnd (t : TabShape) (hot : Bool) : Nat := if hot then t.slots else t.hot

/-- Free slots of a pool. -/
def poolFree (d : Dev) (key : Nat) (t : TabShape) (hot : Bool) : Nat :=
  t.poolEnd hot - t.poolFirst hot - tabNum d key (2 + b2n hot) + tabNum d key (4 + b2n hot)

/-- Takes a slot from a pool: in ascending order until each has been used once, then from the free stack. -/
def takeSlot (w : W) (key : Nat) (t : TabShape) (hot : Bool) : W × Option Nat :=
  let n := tabNum w.d key (2 + b2n hot)
  if t.poolFirst hot + n < t.poolEnd hot then
    ({ w with d := setTabNum w.d key (2 + b2n hot) (n + 1) }, some (t.poolFirst hot + n))
  else
    let k := tabNum w.d key (4 + b2n hot)
    if k = 0 then (w, none)
    else
      let x := w.read (t.part (b2n hot) + 4 * (k - 1)) 4
      if x.1.ok then ({ x.1 with d := setTabNum x.1.d key (4 + b2n hot) (k - 1) }, some (leNat x.2)) else (x.1, none)

/-- A freed slot joins the stack of the pool its number falls in. -/
def freeSlot (w : W) (key : Nat) (t : TabShape) (s : Nat) : W :=
  let hot := decide (t.hot ≤ s)
  let k := tabNum w.d key (4 + b2n hot)
  let w := w.write (t.part (b2n hot) + 4 * k) (leBytes 4 s)
  if w.ok then { w with d := setTabNum w.d key (4 + b2n hot) (k + 1) } else w

/-- A slot taken for a copy or a change that failed is freed again (R105); the failure stands. -/
def giveBack (w : W) (key : Nat) (t : TabShape) (s : Nat) : W :=
  if w.err.isSome then { freeSlot { w with err := none } key t s with err := w.err, errAddr := w.errAddr, errWrite := w.errWrite } else w

/-- Appends a row to the change log, which is used as a ring. -/
def logRow (w : W) (key : Nat) (t : TabShape) (r : Nat) : W :=
  let n := tabNum w.d key 7
  let w := w.write (t.part 2 + 4 * (n % (t.slots - t.rows))) (leBytes 4 r)
  if w.ok then { w with d := setTabNum (setTabNum w.d key 7 (n + 1)) key 8 (tabNum w.d key 8 + 1) } else w

/-! ### Generations (R254, R256) -/

/-- Generations that commands in flight have pinned, but for one command; `pos` of a snapshot GATHER is its generation. -/
def pinned (d : Dev) (key but : Nat) : List Nat :=
  (d.cmds.filter (fun c => c.2.opcode = 8 && objKey c.2.ctx (c.2.f 32 2) = key && bitOf (c.2.f 34 1) 1 && c.2.phase != 3 && c.1 != but)).map
    (fun c => c.2.pos)

/-- A generation is retained: it is the current one, or an older one that a command has pinned. -/
def retained (d : Dev) (key g : Nat) : Bool :=
  g == tabNum d key 0 || (decide (g < tabNum d key 0) && (pinned d key 4096).contains g)

/-- The oldest generation that is retained. -/
def oldestKept (d : Dev) (key but : Nat) : Nat := (pinned d key but).foldl min (tabNum d key 0)

/-- A row's shadow is still to be kept: a snapshot of a retained generation before `gen` reads it (R255; DEDUCED, log
entry 30). -/
def shadowKept (d : Dev) (key gen : Nat) : Bool := decide (oldestKept d key 4096 < gen)

/-- A generation that is older than the current one and that no command pins any longer has retired: event 0x0008. -/
def retireEvent (d : Dev) (key handle ctx but g : Nat) : Dev :=
  if g < tabNum d key 0 ∧ !(pinned d key but).contains g then eventCtx d 8 0 handle [ctx] else d

/-- Takes entries from the front of the change log while their rows were last changed by generation `g + 1`. -/
def popLog (key : Nat) (t : TabShape) (g : Nat) : Nat → W → W
  | 0, w => w
  | n + 1, w =>
    let k := tabNum w.d key 6
    if k ≥ tabNum w.d key 7 || !w.ok then w
    else
      let x := w.read (t.part 2 + 4 * (k % (t.slots - t.rows))) 4
      let r := leNat x.2
      let e := readEntry x.1 t r
      if e.2.gen > g + 1 then e.1
      else
        let w := if e.2.shadow = 0 then e.1 else freeSlot (writeEntry e.1 key t r { e.2 with shadow := 0 }) key t (e.2.shadow - 1)
        if w.ok then popLog key t g n { w with d := setTabNum (setTabNum w.d key 6 (k + 1)) key 8 (tabNum w.d key 8 - 1) } else w

/-- Frees the shadows that no retained generation reads, generation by generation from the oldest (R256). -/
def freeShadows (key but : Nat) (t : TabShape) : Nat → W → W
  | 0, w => w
  | n + 1, w =>
    let g := tabNum w.d key 9
    if g ≥ oldestKept w.d key but || !w.ok then w
    else
      freeShadows key but t n
        (popLog key t g (tabNum w.d key 7 - tabNum w.d key 6) { w with d := setTabNum w.d key 9 (g + 1) })

/-- Frees what retired generations leave of a table. -/
def retireAll (key but : Nat) (t : TabShape) (w : W) : W := freeShadows key but t (tabNum w.d key 0 - tabNum w.d key 9) w

/-- A command that completes pins its generation no longer (R254).  Where the work area cannot be reached now, its
shadows are freed with those of the next generation that retires, or before the next change of one of their rows (log entry
30). -/
def unpinGen (d : Dev) (c : Cmd) (tag : Nat) : Dev :=
  if c.opcode = 8 ∧ bitOf (c.f 34 1) 1 ∧ c.pos < 2 ^ 40 ∧ (objOf d c.ctx (c.f 32 2)).isSome then
    let (key, t) := cmdTable d c
    let d := retireEvent d key (c.f 32 2) c.ctx tag c.pos
    let w := retireAll key tag t (W.start d [] c.ctx c.gen (c.who tag 4))
    if w.ok then w.d else d
  else d

end Sys2Proof.Machine
end

