-- ==== Sys2Proof/Machine/Cmd.lean ====
section
/-! DEFINITION. Commands and galleys: the life of a galley command from its tag
to its proof, halts and galley interrupts (R193 to R217). -/

namespace Sys2Proof.Machine

open Sys2Proof

/-! ### Galleys -/

/-- The number of a galley in the table. -/
def gkey (ctx g : Nat) : Nat := ctx * 8 + g

/-- A galley that does not exist reads as one with an empty parameter block. -/
def Galley.none : Galley :=
  { par := zeros 64, home := 0, state := 0, cmdTail := 0, cmdHead := 0, proofTail := 0, proofHead := 0, haltCause := 0,
    haltStatus := 0, dropped := 0, pending := 0, done := [], proofBusy := false, holding := false, restart := false, applied := zeros 64,
    old := [] }

/-- A galley. -/
def galleyOf (d : Dev) (ctx g : Nat) : Galley := tget d.galleys (gkey ctx g) Galley.none

/-- Changes a galley that exists. -/
def modGalley (d : Dev) (ctx g : Nat) (f : Galley → Galley) : Dev := { d with galleys := tmod d.galleys (gkey ctx g) f }

/-- The block whose rings, HOME_FLOE and IMPRESS_ALLOWED are in force: a modify counts from its reply on (R52, R192). -/
def Galley.ringPar (x : Galley) : Bytes :=
  match x.old.head? with
  | some o => o.2.2.1
  | none => x.par
/-- The home floe whose command unit fetches from it. -/
def Galley.fetchHome (x : Galley) : Nat :=
  match x.old.head? with
  | some o => o.2.2.2
  | none => x.home
/-- The sizes of its rings. -/
def Galley.cmdSlots (x : Galley) : Nat := 2 ^ fieldAt x.ringPar 24 1
/-- Slots of the proof ring. -/
def Galley.proofSlots (x : Galley) : Nat := 2 ^ fieldAt x.ringPar 25 1
/-- IRQ_EN of a parameter block. -/
def irqEnOf (par : Bytes) : Bool := fieldAt par 27 1 % 2 == 1

/-- IRQ_EN in force: a modify counts from the next proof written (R192). -/
def Galley.irqEn (x : Galley) : Bool := irqEnOf x.applied

/-- VECTOR of the next interrupt: that of the last modify at once, while it has one (R192, the table after R219; log
entry 49). -/
def Galley.vector (x : Galley) : Nat := fieldAt (if irqEnOf x.par then x.par else x.applied) 28 2

/-- The difference of two 32-bit counts. -/
def cdiff (a b : Nat) : Nat := (a + 2 ^ 32 - b) % 2 ^ 32

/-- The commands of a galley holding a tag. -/
def flightTags (d : Dev) (ctx g : Nat) : List Nat := tkeys (d.cmds.filter (fun c => c.2.ctx = ctx && c.2.g = g))

/-- IN_FLIGHT of a galley. -/
def inFlight (d : Dev) (ctx g : Nat) : Nat := (flightTags d ctx g).length

/-- Tags a context holds. -/
def ctxTags (d : Dev) (ctx : Nat) : Nat := (d.cmds.filter (fun c => c.2.ctx = ctx)).length

/-- Raises a galley's interrupt: PENDING returns to 0 and its VECTOR is raised (R217, R464). -/
def raiseGalley (d : Dev) (ctx g : Nat) : Dev :=
  let x := galleyOf d ctx g
  let d := modGalley d ctx g (fun x => { x with pending := 0 })
  if x.irqEn then
    let v := x.vector
    raiseCtx (telF d x.home 0x1128 1) ctx (bits v 11 4) (bits v 0 11)
  else d

/-- A galley error (R199, R216): the cause and status, a GALLEY record and the interrupt.  While RESETTING the state
stays and no interrupt is raised. -/
def haltGalley (d : Dev) (ctx g cause status addr : Nat) : Dev :=
  let x := galleyOf d ctx g
  let d := modGalley d ctx g (fun x =>
    { x with state := if x.state = 4 then 4 else 3, haltCause := cause, haltStatus := status })
  let body := errBody addr status 0 0xFFFF cause (x.cmdHead + x.proofTail * 2 ^ 32)
  let d := logErr d 4 2 10 (8 * ctx + g) ctx body
  if x.state = 4 then d else raiseGalley (telF d x.home 0x1120 1) ctx g

/-- A draining galley stops once nothing of it is in flight (R199). -/
def settleGalley (d : Dev) (ctx g : Nat) : Dev :=
  modGalley d ctx g (fun x => if x.state = 2 ∧ inFlight d ctx g = 0 ∧ x.done = [] then { x with state := 0 } else x)

/-- Judges a tail value (R195). -/
def judgeTail (d : Dev) (ctx g t : Nat) : Dev :=
  let x := galleyOf d ctx g
  let used := cdiff x.cmdTail x.cmdHead
  if cdiff t x.cmdTail ≤ x.cmdSlots - used then modGalley d ctx g (fun x => { x with cmdTail := t % 2 ^ 32 })
  else
    let d := modGalley d ctx g (fun x => { x with dropped := min 0xFFFFFFFF (x.dropped + 1) })
    if cdiff t x.cmdHead < used then d
    else if x.state = 1 then haltGalley d ctx g 1 0 0 else d

/-- Judges a proof head (R195). -/
def judgeHead (d : Dev) (ctx g h : Nat) : Dev :=
  let x := galleyOf d ctx g
  if cdiff h x.proofHead ≤ cdiff x.proofTail x.proofHead then modGalley d ctx g (fun x => { x with proofHead := h % 2 ^ 32 })
  else modGalley d ctx g (fun x => { x with dropped := min 0xFFFFFFFF (x.dropped + 1) })

/-! ### Commands -/

/-- Whether writes and atomics of an owner still await an acknowledgement: fabric requests, host-tier writes, the twin. -/
def owes (d : Dev) (o : Owner) : Bool :=
  d.fab.any (fun r => sameStream r.2.owner o && r.2.owed && r.2.code != 0) ||
  d.mbr.sync.any (fun s => sameStream s.2 o) ||
  d.ports.any (fun p => p.2.io.any (fun r =>
    match r.2.use with
    | .hostWrite x _ => sameStream x o
    | _ => false))

/-- A status that is not a failure (R71, R101): OK, OK_PARTIAL or OK_FALLBACK. -/
def okStatus (s : Nat) : Bool := decide (s ≤ 2)

/-- Puts a completed command among those whose proofs wait: behind all but the ones of the same moment with a later
entry (R214). -/
def insertDone (cmds : Tab Cmd) (now index tag : Nat) : List Nat → List Nat
  | [] => [tag]
  | t :: rest =>
    if (tget? cmds t).any (fun c => c.finish = now && decide (0 < cdiff c.index index) && decide (cdiff c.index index < 2 ^ 31))
    then tag :: t :: rest
    else t :: insertDone cmds now index tag rest

/-- The cores that a built-in command holds are IDLE again (R185). -/
def freeCores (d : Dev) (tag : Nat) (c : Cmd) : Dev :=
  if c.opcode = 0x28 then d
  else c.cores.foldl (fun d k =>
    if (coreOf d k).tag = tag ∧ ((coreOf d k).state = 1 ∨ (coreOf d k).state = 3) then
      modCore d k (fun x => { x with state := 0, stopWith := none })
    else d) d

/-- A command is complete: its proof takes its place among the galley's proofs, and what it pinned is let go. -/
def complete (d : Dev) (tag : Nat) : Dev :=
  match cmdOf d tag with
  | none => d
  | some c =>
    let d := freeCores (unpinGen (modCmd d tag (fun c => { c with phase := 3, finish := d.now })) c tag) tag c
    modGalley d c.ctx c.g (fun x =>
      match x.done, x.proofBusy with
      | b :: t, true => { x with done := b :: insertDone d.cmds d.now c.index tag t }
      | l, _ => { x with done := insertDone d.cmds d.now c.index tag l })

/-! ### What the runs of a pool operation have come to (R330 to R333) -/

/-- Keeps 8 bytes about a run of lines from a context address on: 0 the lines compared and those that differ, 1 the lowest
differing byte offset within it, 2 the CRC-64 of its bytes. -/
def notePiece (t : Tab Bytes) (caddr n which : Nat) (b : Bytes) : Tab Bytes := tput t (4 * (caddr / 64) + which) (leBytes 4 n ++ slice b 0 8)

/-- What is kept of one kind, in ascending address order: address, lines and value. -/
def pieces (t : Tab Bytes) (which : Nat) : List (Nat × Nat × Nat) :=
  (t.filter (fun p => p.1 % 4 = which)).map (fun p => (p.1 / 4 * 64, fieldAt p.2 0 4, fieldAt p.2 4 8))

/-- The CRC-64 of all the runs' bytes, one after another. -/
def pieceDigest (t : Tab Bytes) : Nat :=
  (pieces t 2).foldl (fun c p => crc64From c (zeros (64 * p.2.1)) ^^^ p.2.2) 0

/-- A run that succeeded has brought its 8 bytes. -/
def noteRun (c : Cmd) (r : FabReq) (payload : Bytes) : Cmd :=
  if r.code = 0x19 ∨ r.code = 0x1A then
    let which := if r.code = 0x19 then 2 else bits (fieldAt r.payload 12 1) 1 2
    { c with blocks := notePiece c.blocks r.caddr (fieldAt r.payload 8 4) which payload }
  else c

/-- The digest of a COPY, once every run has been acknowledged. -/
def Cmd.copied (c : Cmd) : Cmd := if c.opcode = 0x21 ∧ okStatus c.status then { c with digest := pieceDigest c.blocks } else c

/-- Completes a command once nothing is owed to it (R206). -/
def tryComplete (d : Dev) (tag : Nat) : Dev :=
  match cmdOf d tag with
  | none => d
  | some c =>
    if c.phase = 4 ∧ !owes d (.cmd tag) then
      complete (modCmd d tag (fun c =>
        { c.copied with partialOut := c.partialOut || (!okStatus c.status && decide (0 < c.writes)) })) tag
    else d

/-- A command whose work has ended: under a failure status DIGEST is 0, but for RUN (R187, R213). -/
def Cmd.ended (c : Cmd) : Cmd := if okStatus c.status ∨ c.opcode = 0x28 then c else { c with digest := 0 }

/-- Ends a command's work with the fields of its proof; it completes when its acknowledgements are in.  Its fallbacks
are counted in its floe (R95, log entry 50), and what its reads may still bring is dropped. -/
def endCmd (d : Dev) (tag : Nat) (f : Cmd → Cmd) : Dev :=
  let d := modCmd { d with runq := d.runq.filter (· ≠ tag) } tag (fun c => (f { c with phase := 4 }).ended)
  let d := match cmdOf d tag with
    | some c => if c.fallbacks = 0 then d else telF d c.floe 0x1030 c.fallbacks
    | none => d
  tryComplete (dropReads d (fun o => o == .cmd tag)) tag

/-- Ends a command with a status and nothing else. -/
def failCmd (d : Dev) (tag status detail : Nat) : Dev := endCmd d tag (fun c => { c with status := status, detail := detail })

/-- Aborts a command that has not started, without effects (R200, R468). -/
def abortCmd (d : Dev) (tag status : Nat) : Dev :=
  failCmd d tag status 0

/-- A codec command whose blocks are being written. -/
def Cmd.coding (c : Cmd) : Bool := c.phase == 2 && (c.opcode == 0x18 || c.opcode == 0x19)

/-- The command has been fetched and has not started on any engine or unit; one held by AFTER_PREV that has failed the checks of
its entry or been aborted will not. -/
def Cmd.waiting (c : Cmd) : Bool := (c.phase == 0 && okStatus c.status) || c.phase == 1

/-- Runs the work of a ready command of one of the given opcodes and ends it: blocked work has started, and is tried
again later with nothing of it performed but the units it has been dealt to. -/
def runCmd (d : Dev) (far : Far) (tag src : Nat) (ops : List Nat) (body : Cmd → W → W × (Cmd → Cmd)) : Dev :=
  match cmdOf d tag with
  | none => d
  | some c =>
    if (c.phase = 1 ∨ c.phase = 2) ∧ ops.contains c.opcode ∧ floeOn d c.floe then
      let r := body c (W.start d far c.ctx c.gen (c.who tag src))
      let w := r.1
      match w.blocked with
      | some b => unblock (modCmd d tag (fun c => { c with phase := 2, units := (r.2 c).units })) b
      | none =>
        endCmd w.d tag (fun c =>
          let c := r.2 c
          match w.err with
          | some e => { c with status := e.1, detail := e.2, writes := c.writes + w.wrote }
          | none => { c with writes := c.writes + w.wrote })
    else d

/-! ### Fetching: the galleys that can fetch, and waits for a tag (R201, R202, R219) -/

/-- MAX_INFLIGHT as it acts. -/
def Galley.maxInFlight (x : Galley) : Nat := if fieldAt x.par 34 2 = 0 then 4096 else fieldAt x.par 34 2

/-- A FENCE with HOLD of the galley is in flight: one that failed the checks of its entry has no effect (R204). -/
def fenceHolds (d : Dev) (ctx g : Nat) : Bool :=
  d.cmds.any (fun c => c.2.ctx = ctx && c.2.g = g && c.2.opcode = 0x38 && bitOf (c.2.f 32 1) 0 && okStatus c.2.status)

/-- The conditions of R201 but for the proof slot and the tag; no galley fetches during a flush (R523). -/
def mayFetch (d : Dev) (f ctx g : Nat) (x : Galley) : Bool :=
  !d.boot.flushing && x.fetchHome == f && x.state == 1 && x.cmdTail != x.cmdHead && decide (inFlight d ctx g < x.maxInFlight) && !fenceHolds d ctx g

/-- A proof slot is left for one more command. -/
def proofRoom (d : Dev) (ctx g : Nat) (x : Galley) : Bool :=
  decide (inFlight d ctx g + cdiff x.proofTail x.proofHead < x.proofSlots)

/-- TAG_QUOTA that fetching goes by: a modify counts from its reply on (R52, R461). -/
def Ctx.fetchQuota (x : Ctx) : Nat :=
  match x.old.head? with
  | some o => o.2.2.2
  | none => x.quota

/-- The context holds fewer tags than TAG_QUOTA. -/
def quotaRoom (d : Dev) (ctx : Nat) : Bool := decide (ctxTags d ctx < (ctxOf d ctx).fetchQuota)

/-- The galleys of a floe that can fetch, by number. -/
def fetchable (d : Dev) (f : Nat) : List Nat :=
  tkeys (d.galleys.filter (fun p => mayFetch d f (p.1 / 8) (p.1 % 8) p.2 && proofRoom d (p.1 / 8) (p.1 % 8) p.2 && quotaRoom d (p.1 / 8)))

/-- Tags that no command holds and no command unit has been granted. -/
def freeTags (d : Dev) : Nat := 4096 - d.cmds.length - d.tagHeld.length

/-- A command unit waits on an empty tag pool. -/
def waitTag (d : Dev) (f : Nat) : Dev :=
  if d.tagWait.contains f then d
  else { d with tagWait := d.tagWait ++ [f], rates := tput d.rates (4 * 2 ^ 60 + f) (d.now, 0) }

/-- The end of a command unit's wait for a tag: its time is counted (R219). -/
def endWait (d : Dev) (f : Nat) : Dev :=
  let t := (tget d.rates (4 * 2 ^ 60 + f) (d.now, 0)).1
  telF { d with tagWait := d.tagWait.filter (· ≠ f) } f 0x1110 (d.now - t)

/-- The waiting command unit that the round robin serves next: ascending floe order, starting after the one last
granted. -/
def nextWait (d : Dev) : Option Nat :=
  ((List.range 4).map (fun i => (d.tagLast + 1 + i) % 4)).find? (fun f => d.tagWait.contains f)

/-- Free tags go to the command units that wait. -/
def grantTags : Nat → Dev → Dev
  | 0, d => d
  | n + 1, d =>
    match nextWait d with
    | some f =>
      if freeTags d = 0 then d
      else grantTags n { endWait d f with tagHeld := d.tagHeld ++ [f], tagLast := f }
    | none => d

/-- What any command may change for the waits: a unit with no galley left that can fetch waits no longer and gives back
what it was granted, and tags that are free are granted. -/
def settleTags (d : Dev) : Dev :=
  if d.tagWait.isEmpty && d.tagHeld.isEmpty then d
  else
    let idle (f : Nat) : Bool := !floeOn d f || (fetchable d f).isEmpty
    let d1 := (d.tagWait.filter idle).foldl endWait d
    grantTags 4 { d1 with tagHeld := d1.tagHeld.filter (fun f => !idle f) }

/-- Forgets for which entry of a galley a stall has been counted (R219, R473): its next entry is another one. -/
def dropStalls (d : Dev) (ctx g : Nat) : Dev :=
  { d with rates := tdel (tdel d.rates (5 * 2 ^ 60 + gkey ctx g)) (6 * 2 ^ 60 + gkey ctx g) }

/-- What the command unit had read or counted for a galley's next entry no longer counts: its rings or its state are new. -/
def freshGalley (d : Dev) (ctx g : Nat) : Dev := dropStalls (dropReads d (· == .proof ctx g)) ctx g

/-! ### Proofs (R212 to R214) -/

/-- The 64 bytes of a proof written as count `n` of a ring of `slots`. -/
def proofBytes (c : Cmd) (tag n slots : Nat) : Bytes :=
  let sat := decide (c.count > 0xFFFFFFFF) || decide (c.fallbacks > 0xFFFFFFFF) || decide (c.oor > 0xFFFFFFFF) ||
    decide (c.stale > 0xFFFF) || decide (c.rechecks > 0xFF)
  let b := leBytes 2 tag ++ leBytes 1 c.status ++ leBytes 1 c.opcode ++ leBytes 1 (c.g + 128 * ((n / slots + 1) % 2)) ++
    leBytes 1 c.detail ++ leBytes 2 c.ctx ++ leBytes 4 c.index ++ slice c.entry 4 4 ++ leBytes 8 c.start ++
    leBytes 8 c.finish ++ leBytes 8 c.digest ++ leBytes 4 (min c.count 0xFFFFFFFF) ++ leBytes 4 (min c.fallbacks 0xFFFFFFFF) ++
    leBytes 4 (if c.fallbacks = 0 then 0xFFFFFFFF else c.firstFallback) ++ leBytes 4 (min c.oor 0xFFFFFFFF) ++
    leBytes 2 (min c.stale 0xFFFF) ++ leBytes 1 (min c.rechecks 0xFF) ++ leBytes 1 (b2n sat + 2 * b2n c.partialOut)
  b ++ leBytes 4 (crc32c b)

/-- The outcome of a proof write: written, to be tried again, or a halt with its cause, status and address. -/
inductive ProofTry where
  | written
  | later
  | halt (cause status addr : Nat)
  deriving DecidableEq, Repr

/-- Writes the oldest completed proof of a galley (R214 to R216). -/
def writeProof (d : Dev) (ctx g : Nat) : Dev × ProofTry :=
  let x := galleyOf d ctx g
  match x.done with
  | [] => (d, .later)
  | tag :: _ =>
    match cmdOf d tag with
    | none => (d, .later)
    | some c =>
      let addr := fieldAt x.ringPar 8 8 + 64 * (x.proofTail % x.proofSlots)
      let w0 := W.start d [] ctx (ctxOf d ctx).gen ⟨4, x.home, tag, ctx, false, .proof ctx g⟩
      let t := w0.xlate addr 1
      match t.2 with
      | none => (t.1.d, .halt 3 ((t.1.err.getD (0, 0)).1) addr)
      | some u =>
        let p := pageOf d (u / 65536)
        if p.tier = 3 ∨ p.tier = 4 then (d, .halt 4 0 addr)
        else
          let w := t.1.lineWrite addr (u / 64) (proofBytes c tag x.proofTail x.proofSlots) (2 ^ 64 - 1) false
          match w.blocked, w.err with
          | some b, _ => (unblock d b, .later)
          | none, some e => (w.d, .halt 3 e.1 addr)
          | none, none => (w.d, .written)

/-- One attempt at the next proof write of a galley: at most one is in flight, and none while proofs are held. -/
def issueProof (d : Dev) (ctx g : Nat) : Dev :=
  let x := galleyOf d ctx g
  if x.proofBusy || x.holding || x.done.isEmpty then d
  else
    let r := writeProof d ctx g
    match r.2 with
    | .written => modGalley r.1 ctx g (fun x => { x with proofBusy := true })
    | .later => r.1
    | .halt c s a => haltGalley (modGalley r.1 ctx g (fun x => { x with holding := true })) ctx g c s a

/-- Closes the records of a command's failures (R448). -/
def closeSeqs (d : Dev) (l : List Nat) : Dev :=
  { d with errq := { d.errq with opens := d.errq.opens.filter (fun o => !(l.contains o.seq && decide (o.level ≤ 1))) } }

/-- The owner that acknowledgements still owed to a command of a tag have once it is gone. -/
def Owner.gone (o : Owner) (tag : Nat) (c : Cmd) : Owner := if o = .cmd tag then .past c.order tag c.ctx c.floe c.src else o

/-- What is still owed to a command that goes is owed to its fetch, not to its tag, which another may take (R209). -/
def passAcks (d : Dev) (tag : Nat) (c : Cmd) : Dev :=
  { d with
    fab := d.fab.map (fun r => (r.1, { r.2 with owner := r.2.owner.gone tag c })),
    ports := d.ports.map (fun p => (p.1, { p.2 with io := p.2.io.map (fun r => (r.1, { r.2 with use := match r.2.use with
      | .hostWrite o l => .hostWrite (o.gone tag c) l
      | .hostRead o l => .hostRead (o.gone tag c) l
      | u => u })) })) }

/-- Acknowledgements are still owed to a command that has gone. -/
def pastOwed (d : Dev) (order : Nat) : Bool :=
  let is (o : Owner) : Bool := match o with
    | .past n _ _ _ _ => n == order
    | _ => false
  d.fab.any (fun r => is r.2.owner && r.2.code != 0) ||
  d.ports.any (fun p => p.2.io.any (fun r =>
    match r.2.use with
    | .hostWrite o _ => is o
    | _ => false))

/-- Returns a tag to the pool: the command is gone, its cores that faulted are cleared (R188). -/
def releaseTag (d : Dev) (tag : Nat) : Dev :=
  match cmdOf d tag with
  | none => d
  | some c =>
    passAcks (closeSeqs { (tkeys (d.cores.filter (fun x => x.2.state = 4 && x.2.tag = tag))).foldl clearFault d with
      cmds := tdel d.cmds tag } c.opens) tag c

/-- The acknowledgement of the proof write in flight (R214, R217): PROOF_TAIL advances, the tag returns, the interrupt
conditions are judged. -/
def ackProof (d : Dev) (ctx g : Nat) : Dev :=
  let x := galleyOf d ctx g
  match x.done with
  | [] => d
  | tag :: rest =>
    if !x.proofBusy then d
    else
      let now := (cmdOf d tag).any (fun c => bitOf (c.f 1 1) 0)
      let d := releaseTag d tag
      let d := modGalley d ctx g (fun x =>
        { x with done := rest, proofBusy := false, proofTail := (x.proofTail + 1) % 2 ^ 32, applied := x.par })
      let d := telF d x.home 0x1108 1
      let d := modGalley d ctx g (fun x => if x.irqEn then { x with pending := x.pending + 1 } else x)
      let y := galleyOf d ctx g
      let d := if y.irqEn ∧ (now ∨ y.pending ≥ max 1 (fieldAt y.applied 32 2)) then raiseGalley d ctx g else d
      settleGalley d ctx g

end Sys2Proof.Machine
end

