-- ==== Sys2Proof/Machine/Mirror.lean ====
section
/-! DEFINITION. The mirror sessions of the switch core and the capture ring of the analysis port (R378, R383). -/

namespace Sys2Proof.Machine

open Sys2Proof

/-! ### Mirror copies (R383) -/

/-- Free cells of the shared pool: those beyond what every output holds or has reserved (R378). -/
def sharedCells (d : Dev) : Nat :=
  131072 - (List.range 200).foldl (fun n k =>
    n + max (rf d (0x04800200 + 4 * k) 0 16) (tget d.sw.occupancy k 0)) 0

/-- A frame as the mirror sessions see it. -/
structure Seen where
  port : Nat
  /-- 0 in, 1 out -/
  dir : Nat
  cls : Nat
  src : Nat
  dst : Nat
  /-- its context; none for Golven traffic -/
  ctx : Option Nat
  aborted : Bool
  bytes : Bytes
  deriving DecidableEq, Repr

/-- A session selects a frame. -/
def selects (d : Dev) (n : Nat) (f : Seen) : Bool :=
  let a := rv d (0x04802000 + n * 0x40)
  let b := rv d (0x04802008 + n * 0x40)
  bitOf a 0 && bits a 1 5 == f.port && (decide (bits a 6 2 ≥ 2) || bits a 6 2 == f.dir) && decide (f.cls < 7) &&
    bitOf (bits a 8 8) f.cls &&
    (!bitOf b 10 || (if bitOf b 11 then f.src else f.dst) == bits b 0 10) &&
    (!bitOf b 25 || f.ctx == some (bits b 16 9))

/-- The 512-byte record of a copy. -/
def mirrorRecord (d : Dev) (n count : Nat) (f : Seen) : Bytes :=
  let first := bitOf (rv d (0x04802000 + n * 0x40)) 20
  let b := if first then f.bytes.take 128 else f.bytes
  leBytes 8 d.now ++ leBytes 1 f.port ++ leBytes 1 f.dir ++ leBytes 1 f.cls ++ leBytes 1 n ++ leBytes 2 f.bytes.length ++
    leBytes 2 (b2n (decide (b.length < f.bytes.length)) + 2 * b2n f.aborted) ++ leBytes 4 count ++ zeros 44 ++
    slice b 0 256 ++ zeros 192

/-- Writes a line of a mirror copy into the capture ring (R383). -/
def captureLine (d : Dev) (line : Nat) (b : Bytes) : Dev :=
  let n := ncReady d line true
  match n.2 with
  | some x => unblock { n.1 with lineWait := n.1.lineWait ++ [(line, .capture line b)] } x
  | none => (homeWrite n.1 (Who.unitOnly 9 (homeFloe (pageOfLine line))) line b (2 ^ 64 - 1)).1

/-- Writes one copy into the capture ring, or drops and counts it. -/
def writeCopy (d : Dev) (n count : Nat) (f : Seen) : Dev :=
  let base := bits (rv d 0x04802100) 0 44
  let log := max 4 (min 20 (rf d 0x04802108 0 5))
  let tail := d.sw.mirTail
  let addr := base + 512 * (tail % 2 ^ log)
  let p := pageOf d (addr / 65536)
  let full := decide ((tail + 2 ^ 32 - rf d 0x04802118 0 32) % 2 ^ 32 ≥ 2 ^ log)
  if full || !(p.tier == 1 || p.tier == 2) || decide (sharedCells d < cellsOf f.bytes.length) then telD d 0x3818 1
  else
    let d := telD { d with sw := { d.sw with mirTail := (tail + 1) % 2 ^ 32 } } 0x3810 1
    let r := mirrorRecord d n count f
    (List.range 8).foldl (fun d i => captureLine d (addr / 64 + i) (slice r (64 * i) 64)) d

/-- Copies a frame for every session that selects it and whose sample falls on it. -/
def mirrorCopies (d : Dev) (f : Seen) : Dev :=
  (List.range 4).foldl (fun d n =>
    if selects d n f then
      let count := (tget d.sw.mirCount n 0 + 1) % 2 ^ 32
      let d := { d with sw := { d.sw with mirCount := tput d.sw.mirCount n count } }
      if count % 2 ^ (rf d (0x04802000 + n * 0x40) 16 4) = 0 then writeCopy d n count f else d
    else d) d

/-- A frame of a link as the mirror sessions see it: 0 as it comes in, 1 as it leaves. -/
def linkSeen (l dir : Nat) (b : Bytes) : Seen :=
  let f := parseFrame b
  ⟨12 + l, dir, if f.cls = 0 then 1 else if f.cls = 1 then 5 else if f.cls = 3 then 6 else if f.payload.isEmpty then 3 else 4,
    f.src, f.dst, none, false, b⟩

/-- Frames that have left on links while a command was served are copied when it is over. -/
def mirrorSent (d : Dev) : Dev :=
  if d.sw.seen.isEmpty then d
  else d.sw.seen.foldl (fun d x => mirrorCopies d (linkSeen x.1 1 x.2)) { d with sw := { d.sw with seen := [] } }

end Sys2Proof.Machine
end

