-- ==== Sys2Proof/WellFormed.lean ====
section
/-! DEFINITION. Which commands can reach the device: those whose operands name units the device has (R11, R12, R22). -/

namespace Sys2Proof

/-- The issuer of a register access exists. -/
def Issuer.wellFormed : Issuer → Bool
  | .host p => p < 12
  | .bar2 p => p < 12
  | .compositor => true
  | .agent f => f < 4
  | .core c => c < 64

/-- The straps fit their pins: SLOT_ID[5:0] and BOOT_MODE[1:0] (R26). -/
def Straps.wellFormed (s : Straps) : Bool := s.slotId < 64 && s.bootMode < 4

/-- Every operand of the command names a unit, context, slot or address that exists. -/
@[inline] def Instr.wellFormed : Instr → Bool
  | .post port mb => decide (port < 12) && decide (mb < 16)
  | .reqDataWrite port mb _ _ => decide (port < 12) && decide (mb < 16)
  | .rspHdrRead port mb _ _ => decide (port < 12) && decide (mb < 16)
  | .requestTake mb => decide (mb < 16)
  | .replyWrite mb => decide (mb < 16)
  | .serviceTimeout mb => decide (mb < 16)
  | .setAsideServe mb => decide (mb < 16)
  | .doorbellClear port mb _ => decide (port < 12) && decide (mb < 16)
  | .dbMaskWrite port mb _ => decide (port < 12) && decide (mb < 16)
  | .identify mb => decide (mb < 16)
  | .status mb => decide (mb < 16)
  | .eventRead mb => decide (mb < 16)
  | .errorRead mb => decide (mb < 16)
  | .mailboxBind mb => decide (mb < 16)
  | .fieldRead mb => decide (mb < 16)
  | .fieldWrite mb => decide (mb < 16)
  | .floePowerOff mb => decide (mb < 16)
  | .floePowerOn mb => decide (mb < 16)
  | .floeDrainDone f => decide (f < 4)
  | .floeDrainTimeout f => decide (f < 4)
  | .floeWakeDone f => decide (f < 4)
  | .objCreate mb => decide (mb < 16)
  | .objModify mb => decide (mb < 16)
  | .objQuery mb => decide (mb < 16)
  | .objDestroy mb => decide (mb < 16)
  | .decoderBind mb => decide (mb < 16)
  | .regionPublish mb => decide (mb < 16)
  | .regionBind mb => decide (mb < 16)
  | .regionRelease mb => decide (mb < 16)
  | .versionRetire region _ => decide (region < 4096)
  | .rangeRetire ctx => decide (ctx < 512)
  | .contextReset mb => decide (mb < 16)
  | .resetDrainExpire ctx => decide (ctx < 512)
  | .resetPurge ctx => decide (ctx < 512)
  | .reclaim mb => decide (mb < 16)
  | .orphanLogRead mb => decide (mb < 16)
  | .formeChange mb => decide (mb < 16)
  | .mapRead mb => decide (mb < 16)
  | .seqHandoffGive mb => decide (mb < 16)
  | .seqHandoffArm mb => decide (mb < 16)
  | .seqHandoffResolve mb => decide (mb < 16)
  | .giveReplyTimeout sslot => decide (sslot < 4096)
  | .imagePush mb => decide (mb < 16)
  | .configPush mb => decide (mb < 16)
  | .flashWriteDone => true
  | .registerWrite iss _ _ _ => iss.wellFormed
  | .cxlMemRead port hpa _ => decide (port < 12) && decide (hpa < 2 ^ 52)
  | .cxlMemWrite port hpa _ _ _ => decide (port < 12) && decide (hpa < 2 ^ 52)
  | .touchFaultDmaDone page _ => decide (page < 2 ^ 28)
  | .packedDecodeDone page blk => decide (page < 2 ^ 28) && decide (blk < 16)
  | .plcEpochSweep f => decide (f < 4)
  | .moveStart f => decide (f < 4)
  | .moveCopyDone page => decide (page < 2 ^ 28)
  | .moveRelease page => decide (page < 2 ^ 28)
  | .moveCopyTimeout page => decide (page < 2 ^ 28)
  | .deadlineExpire tag _ => decide (tag < 4096)
  | .migrate tag _ => decide (tag < 4096)
  | .prefetch tag _ => decide (tag < 4096)
  | .cacheFlush f => decide (f < 4)
  | .cacheFlushDone f => decide (f < 4)
  | .tnop c st => decide (c < 64) && decide (st < 18)
  | .mzero c => decide (c < 64)
  | .mload c => decide (c < 64)
  | .mmul c => decide (c < 64)
  | .mstore c => decide (c < 64)
  | .vld c => decide (c < 64)
  | .vst c => decide (c < 64)
  | .vop c => decide (c < 64)
  | .vred c => decide (c < 64)
  | .vfn c => decide (c < 64)
  | .vqnt c => decide (c < 64)
  | .xld c st _ => decide (c < 64) && decide (st < 18)
  | .xst c st _ => decide (c < 64) && decide (st < 18)
  | .xsti c st _ => decide (c < 64) && decide (st < 18)
  | .xadd c st _ => decide (c < 64) && decide (st < 18)
  | .dchain c ch => decide (c < 64) && decide (ch < 16)
  | .swait c => decide (c < 64)
  | .ssignal c => decide (c < 64)
  | .spulse c => decide (c < 64)
  | .sdrain c => decide (c < 64)
  | .send c => decide (c < 64)
  | .issueStallRelease c => decide (c < 64)
  | .tokenWaitRelease c st => decide (c < 64) && decide (st < 18)
  | .instructionComplete c st => decide (c < 64) && decide (st < 18)
  | .eventPulse c eline cnt => decide (c < 64) && decide (eline < 256) && decide (cnt < 16)
  | .scalarLoad c _ size rd _ _ => decide (c < 64) && decide (rd < 32) && [1, 2, 4, 8].contains size
  | .scalarStore c _ size _ _ => decide (c < 64) && [1, 2, 4, 8].contains size
  | .scalarAmo c op _ size _ rd _ =>
    decide (c < 64) && decide (rd < 32) && [4, 8].contains size && decide (8 ≤ op) && decide (op ≤ 16)
  | .scalarLrSc c _ _ size _ rd => decide (c < 64) && decide (rd < 32) && [4, 8].contains size
  | .scalarTrap c _ => decide (c < 64)
  | .coreStop c => decide (c < 64)
  | .clearFault c => decide (c < 64)
  | .coreWatchdog c => decide (c < 64)
  | .coreStopDone c => decide (c < 64)
  | .run tag => decide (tag < 4096)
  | .coreAssign tag => decide (tag < 4096)
  | .kernelLoadDone c _ => decide (c < 64)
  | .prefetcherEnable c pf _ => decide (c < 64) && decide (pf < 16)
  | .prefetchLineIssue c pf => decide (c < 64) && decide (pf < 16)
  | .cmdTailWrite port ctx g _ => decide (port < 12) && decide (ctx < 512) && decide (g < 8)
  | .proofHeadWrite port ctx g _ => decide (port < 12) && decide (ctx < 512) && decide (g < 8)
  | .galleyStart port ctx g => decide (port < 12) && decide (ctx < 512) && decide (g < 8)
  | .galleyStop port ctx g => decide (port < 12) && decide (ctx < 512) && decide (g < 8)
  | .galleyStopAbort port ctx g => decide (port < 12) && decide (ctx < 512) && decide (g < 8)
  | .clearHalt port ctx g => decide (port < 12) && decide (ctx < 512) && decide (g < 8)
  | .droppedRead port ctx g => decide (port < 12) && decide (ctx < 512) && decide (g < 8)
  | .tailShadowPoll ctx g _ => decide (ctx < 512) && decide (g < 8)
  | .commandFetch f _ => decide (f < 4)
  | .afterPrevStart tag => decide (tag < 4096)
  | .proofWrite ctx g => decide (ctx < 512) && decide (g < 8)
  | .proofWriteAck ctx g => decide (ctx < 512) && decide (g < 8)
  | .coalTimerExpire ctx g => decide (ctx < 512) && decide (g < 8)
  | .fence tag => decide (tag < 4096)
  | .fenceComplete tag => decide (tag < 4096)
  | .impress tag => decide (tag < 4096)
  | .nop tag => decide (tag < 4096)
  | .attend tag _ => decide (tag < 4096)
  | .attendMerge tag _ => decide (tag < 4096)
  | .gather tag _ => decide (tag < 4096)
  | .scatterGrad tag _ => decide (tag < 4096)
  | .rowReplace tag _ => decide (tag < 4096)
  | .rowChangeResume tag _ => decide (tag < 4096)
  | .generationCommit tag => decide (tag < 4096)
  | .search tag _ => decide (tag < 4096)
  | .indexInsert tag _ => decide (tag < 4096)
  | .indexDelete tag _ => decide (tag < 4096)
  | .encode tag _ => decide (tag < 4096)
  | .decode tag _ => decide (tag < 4096)
  | .codecBlockDone tag _ => decide (tag < 4096)
  | .fill tag _ => decide (tag < 4096)
  | .copy tag _ => decide (tag < 4096)
  | .compare tag _ => decide (tag < 4096)
  | .reduce tag _ => decide (tag < 4096)
  | .read utag => decide (utag < 2 ^ 64)
  | .write utag => decide (utag < 2 ^ 64)
  | .add utag => decide (utag < 2 ^ 64)
  | .and utag => decide (utag < 2 ^ 64)
  | .or utag => decide (utag < 2 ^ 64)
  | .xor utag => decide (utag < 2 ^ 64)
  | .min utag => decide (utag < 2 ^ 64)
  | .max utag => decide (utag < 2 ^ 64)
  | .umin utag => decide (utag < 2 ^ 64)
  | .umax utag => decide (utag < 2 ^ 64)
  | .swap utag => decide (utag < 2 ^ 64)
  | .cas utag => decide (utag < 2 ^ 64)
  | .exactAdd utag => decide (utag < 2 ^ 64)
  | .fillRun utag => decide (utag < 2 ^ 64)
  | .copyRun utag => decide (utag < 2 ^ 64)
  | .compareRun utag => decide (utag < 2 ^ 64)
  | .reducePart utag => decide (utag < 2 ^ 64)
  | .fabricAck utag => decide (utag < 2 ^ 64)
  | .fabricTimeout utag => decide (utag < 2 ^ 64)
  | .finalWriteRelease utag => decide (utag < 2 ^ 64)
  | .readCombineExpire _ => true
  | .atomicHoldExpire _ => true
  | .dedupEntryExpire utag => decide (utag < 2 ^ 64)
  | .dedupRefusalEnd => true
  | .rdShared agent line => decide (agent < 76) && decide (line < 2 ^ 38)
  | .rdOwn agent line => decide (agent < 76) && decide (line < 2 ^ 38)
  | .upgrade agent line => decide (agent < 76) && decide (line < 2 ^ 38)
  | .wb agent line _ _ _ => decide (agent < 76) && decide (line < 2 ^ 38)
  | .evict agent line => decide (agent < 76) && decide (line < 2 ^ 38)
  | .ncRd line => decide (line < 2 ^ 38)
  | .ncWr line _ _ => decide (line < 2 ^ 38)
  | .ncAtomic line _ => decide (line < 2 ^ 38)
  | .snpShare agent line => decide (agent < 76) && decide (line < 2 ^ 38)
  | .snpInv agent line => decide (agent < 76) && decide (line < 2 ^ 38)
  | .snoopResponse agent line _ => decide (agent < 76) && decide (line < 2 ^ 38)
  | .dirReqDequeue line => decide (line < 2 ^ 38)
  | .snoopTimeout agent line => decide (agent < 76) && decide (line < 2 ^ 38)
  | .coherenceWalkDone f => decide (f < 4)
  | .dirFlush f => decide (f < 4)
  | .dirFlushDone f => decide (f < 4)
  | .dirProbe f _ => decide (f < 4)
  | .portEnable port _ => decide (port < 12)
  | .cxlLinkDown port => decide (port < 12)
  | .cxlLinkUp port _ => decide (port < 12)
  | .perstNAssert port => decide (port < 12)
  | .perstNDeassert port => decide (port < 12)
  | .gpfPhase1 port => decide (port < 12)
  | .gpfPhase2 port => decide (port < 12)
  | .cxlioCompletion port _ _ => decide (port < 12)
  | .cplTimeout port _ => decide (port < 12)
  | .identifyMemoryDevice port => decide (port < 12)
  | .getSupportedLogs port => decide (port < 12)
  | .getLog port => decide (port < 12)
  | .getEventRecords port _ => decide (port < 12)
  | .clearEventRecords port _ => decide (port < 12)
  | .getEventInterruptPolicy port => decide (port < 12)
  | .setEventInterruptPolicy port _ => decide (port < 12)
  | .getHealthInfo port => decide (port < 12)
  | .getTimestamp port => decide (port < 12)
  | .setTimestamp port _ => decide (port < 12)
  | .spdmRequest port _ => decide (port < 12)
  | .msixVectorUnmask port entry => decide (port < 12) && decide (entry < 2048)
  | .flitReceive link _ => decide (link < 8)
  | .flitAckTimeout link => decide (link < 8)
  | .replayLimitReached link => decide (link < 8)
  | .linkEnable link _ => decide (link < 8)
  | .linkRetrain link => decide (link < 8)
  | .linkSignalDetect link => decide (link < 8)
  | .phyTrainDone link => decide (link < 8)
  | .phyTrainTimeout link => decide (link < 8)
  | .fecLockDone link lanes => decide (link < 8) && decide (lanes < 256)
  | .fecLockTimeout link => decide (link < 8)
  | .paramExchangeDone link _ => decide (link < 8)
  | .authDone link _ _ => decide (link < 8)
  | .authFailedTimer link => decide (link < 8)
  | .retrainDone link => decide (link < 8)
  | .retrainTimeout link => decide (link < 8)
  | .linkSignalLoss link => decide (link < 8)
  | .frameReceive link => decide (link < 8)
  | .cellReceive sp cell => decide (sp < 25) && decide (cell.output < 25) && decide (cell.cls < 8) && decide (cell.index < cell.count)
  | .cellAdmit sp => decide (sp < 25)
  | .auditPass => true
  | .descriptorStart c ch _ => decide (c < 64) && decide (ch < 16)
  | .descriptorComplete c ch => decide (c < 64) && decide (ch < 16)
  | .syncStart c lg => decide (c < 64) && decide (lg < 16)
  | .chResume c ch => decide (c < 64) && decide (ch < 16)
  | .chSkip c ch => decide (c < 64) && decide (ch < 16)
  | .chStop c ch => decide (c < 64) && decide (ch < 16)
  | .chAbandon c ch => decide (c < 64) && decide (ch < 16)
  | .arbRequest f arb slot cls _ _ => decide (f < 4) && decide (arb < 30) && decide (slot < 32) && decide (cls < 8)
  | .arbitration f arb => decide (f < 4) && decide (arb < 30)
  | .grantEnd f arb => decide (f < 4) && decide (arb < 30)
  | .arbWatchdog f arb => decide (f < 4) && decide (arb < 30)
  | .arbCountsRead f arb => decide (f < 4) && decide (arb < 30)
  | .imprSyncEdge _ => true
  | .coastMark => true
  | .freeMark => true
  | .windowClose win => decide (win < 8)
  | .calForced f unit => decide (f < 4) && decide (unit < 7)
  | .scrubLine f unit _ _ => decide (f < 4) && decide (unit < 7)
  | .scrubPassLate f unit => decide (f < 4) && decide (unit < 7)
  | .eccCountsRead f unit => decide (f < 4) && decide (unit < 7)
  | .selftestRelease c => decide (c < 64)
  | .selftestDone c _ => decide (c < 64)
  | .floeRecoveryTimeout f => decide (f < 4)
  | .switchRecoveryTimeout => true
  | .galleyAutoRestart => true
  | .errqAck _ => true
  | .errqStatusRead => true
  | .heartbeatSend => true
  | .heartbeat link => decide (link < 8)
  | .heartbeatMiss link => decide (link < 8)
  | .suspect node => decide (node < 1024)
  | .probe node => decide (node < 1024)
  | .probeReply node => decide (node < 1024)
  | .probeTimeout node => decide (node < 1024)
  | .propose _ => true
  | .accept node _ => decide (node < 1024)
  | .commit _ => true
  | .mapUpdate _ => true
  | .join node _ => decide (node < 1024)
  | .coordinatorTakeover _ => true
  | .keepaliveSend => true
  | .keepalive _ => true
  | .leaseExpire => true
  | .epochPullTimeout utag => decide (utag < 2 ^ 64)
  | .offer node _ => decide (node < 1024)
  | .ack node _ => decide (node < 1024)
  | .nak node _ => decide (node < 1024)
  | .confirm node _ => decide (node < 1024)
  | .query node _ => decide (node < 1024)
  | .queryReply node _ => decide (node < 1024)
  | .floor node _ => decide (node < 1024)
  | .handoffTimeout sslot => decide (sslot < 4096)
  | .twinAckTimeout => true
  | .twinLinkActive link => decide (link < 8)
  | .resyncDone => true
  | .resetNRise straps => straps.wellFormed
  | .resetNFall => true
  | .deviceReset => true
  | .imageVerifyDone => true
  | .bootTrainingDone _ => true
  | .pwrFailNFall => true
  | .flushEnd => true
  | .pwrFailNHigh => true
  | .holdupSample _ => true
  | .avsAckTimeout => true
  | .timeExchange => true
  | .timeExchangeReply link _ _ _ => decide (link < 8)
  | .timePpsEdge => true
  | .ppsLoss => true
  | .calendarWrite _ => true
  | .calOscStop => true
  | .thermalSample _ _ => true
  | .windowOpen win => decide (win < 8)
  | .switchRecoveryDone => true
  | .linkChangeReport node link _ peer => decide (node < 1024) && decide (link < 8) && decide (peer < 1024)
  | .l1L0pEntry port _ => decide (port < 12)

end Sys2Proof
end

