-- ==== Sys2Proof/Machine/Recover.lean ====
section
/-! DEFINITION. Recovery of floes and of the switch core, the escalations that start them, and how a command of the
block is served (R17 to R20, R27, R442 to R456). -/

namespace Sys2Proof.Machine

open Sys2Proof

/-- A record that reports the course of a recovery: it is never open and never escalates (log entry 22). -/
def logPlain (d : Dev) (cls level kind id : Nat) (body : Bytes) : Dev :=
  let q := d.errq
  let r : ErrRec := ⟨d.now, q.next, cls, level, false, false, kind, id, 0xFFFF, 0xFFFFFFFF, body⟩
  let (q2, held) := enqueueErr { q with next := (q.next + 1) % 2 ^ 32 } r
  let d := { d with errq := q2 }
  let d := if (lowestFree (tkeys q.slots) 0 256).isNone then telD d 0x3910 1 else d
  if held then
    allMb.foldl (fun d m => if (mbOf d m).priv = 3 then ring d m 2 else d) d
  else d

/-- Changes a floe's state and reports event 0x0001 (R19, R59). -/
def setFloe (d : Dev) (f st : Nat) : Dev :=
  if floeState d f = st then d
  else eventDev { d with boot := { d.boot with floes := tput d.boot.floes f st } } 1 0 f

/-- Whether a command has work in a floe. -/
def Cmd.inFloe (c : Cmd) (f : Nat) : Bool := c.floe == f || c.cores.any (fun x => x / 16 == f) || c.units.any (fun u => u / 6 == f)

/-- A core after its floe's domain has been reset: IDLE, or still QUARANTINED with its counts (R451). -/
def Core.afterReset (x : Core) : Core :=
  { Core.idle with state := if x.state = 5 then 5 else 0, quarantines := x.quarantines }

/-- The agent of a request that allocates an entry. -/
def opAgent (op : DirOp) : Option Nat :=
  match op with
  | .rdShared a => some a
  | .rdOwn a => some a
  | .upgrade a => some a
  | _ => none

/-- A request of an agent that is no more: what its snoops take from others is still withdrawn, and it gets no copy. -/
def DirOp.orphaned (op : DirOp) : DirOp :=
  match op with
  | .rdShared _ => .ncRd
  | .rdOwn _ => .withdraw
  | .upgrade _ => .withdraw
  | op => op

/-- The cores of a floe lose their requests for copies with it, and no access that it served or failed for them goes on. -/
def loseDirReqs (d : Dev) (f : Nat) : Dev :=
  let here (op : DirOp) : Bool := (opAgent op).any (fun a => decide (a < 64) && a / 16 == f)
  { d with
    dirWait := d.dirWait.filter (fun w => !here w.2),
    dir := d.dir.map (fun e => (e.1, { e.2 with txn := e.2.txn.map (fun t => if here t.op then { t with op := t.op.orphaned } else t) })),
    touched := d.touched.filter (fun t =>
      match t.2.1 with
      | .stream c _ => c / 16 != f
      | .chan c _ => c / 16 != f
      | .scalar c _ _ => c / 16 != f
      | _ => true) }

/-- What a floe's domain loses when it is reset or switched off (R17): cache slice, directory slice, cores, arbiters,
register contents, sweeps and moves.  Orphan records and lines that ports own are kept (log entry 22). -/
def floeLost (d : Dev) (f : Nat) : Dev :=
  let d := loseDirReqs d f
  { d with
    cache := d.cache.filter (fun c => homeFloe (pageOfLine c.1) ≠ f),
    cores := d.cores.map (fun c => if c.1 / 16 = f then (c.1, c.2.afterReset) else c),
    arbs := d.arbs.filter (fun a => a.1 / 30 ≠ f),
    ecc := d.ecc.filter (fun e => e.1 / 7 ≠ f),
    regs := d.regs.filter (fun r => r.1 / 0x01000000 ≠ f),
    force := d.force.filter (fun r => r.1 / 0x01000000 ≠ f),
    tel := d.tel.filter (fun t => !(decide (0x500000 + f * 0x100000 ≤ t.1) && decide (t.1 < 0x600000 + f * 0x100000))),
    sweep := tdel d.sweep f, queue := d.queue.filter (fun q => homeFloe q.1 ≠ f),
    moves := d.moves.filter (fun m => homeFloe m.1 ≠ f),
    unitTag := d.unitTag.filter (fun u => u.1 / 6 ≠ f),
    recent := d.recent.filter (fun r => homeFloe (pageOfLine r.2) ≠ f),
    sliceFlips := d.sliceFlips.filter (fun l => homeFloe (pageOfLine l.1) ≠ f),
    dirFlips := d.dirFlips.filter (fun l => homeFloe (pageOfLine l.1) ≠ f),
    pathBad := d.pathBad.filter (fun l => homeFloe (pageOfLine l) ≠ f),
    flushBusy := d.flushBusy.filter (· ≠ f), dirFlush := d.dirFlush.filter (· ≠ f),
    plv := tdel d.plv f, dirProbe := tdel d.dirProbe f }

/-- The directory slice of a floe cannot be read (R427, R451). -/
def dirUnreadable (d : Dev) (f : Nat) : Bool := d.dirFlips.any (fun l => homeFloe (pageOfLine l.1) = f && decide (2 ≤ l.2))

/-- Every line of every coherent page homed in a floe becomes an orphan with cause 9 (R451). -/
def orphanAll (d : Dev) (f : Nat) : Dev :=
  (d.pages.filter (fun p => homeFloe p.1 = f && pageCoherent d p.1)).foldl (fun d p =>
    (List.range 1024).foldl (fun d n => if isOrphan d (p.1 * 1024 + n) then d else makeOrphan d (p.1 * 1024 + n) 0xFF 9) d) d

/-- Step 4 of R451: dirty lines are written back or become orphans with cause 9; so does every line a core of the floe
owns. -/
def saveFloe (d : Dev) (f : Nat) : Dev :=
  let d := (tkeys (d.cache.filter (fun c => homeFloe (pageOfLine c.1) = f && c.2.dirty))).foldl (fun d l =>
    if 2 ≤ tget d.sliceFlips l 0 then makeOrphan d l 0xFF 9
    else
      let r := writeBack d l
      match r.2 with
      | none => r.1
      | some _ => makeOrphan r.1 l 0xFF 9) d
  let d := if dirUnreadable d f then orphanAll d f else d
  let owned := d.dir.filter (fun e => e.2.state = 2 && decide (e.2.owner < 64) && e.2.owner / 16 = f)
  let d := owned.foldl (fun d e => makeOrphan d e.1 e.2.owner 9) d
  let mask := (List.range 16).foldl (fun n i => n + 2 ^ (16 * f + i)) 0
  { d with dir := (d.dir.map (fun e =>
      if e.2.state = 1 then
        let s := e.2.sharers - (e.2.sharers &&& mask)
        (e.1, { e.2 with sharers := s, state := if s = 0 then 0 else 1 })
      else e)).filter (fun e => e.2.state ≠ 0 || e.2.txn.isSome) }

/-- Recoveries of a floe within the last hour (R447). -/
def recentRecoveries (d : Dev) (f : Nat) : Nat :=
  ((tget d.boot.recoveries f []).filter (fun t => decide (d.now < t + 3600000000000))).length

/-- A command lost to a recovery counts neither as drained nor as aborted by a reset of its context (R468). -/
def noteLost (d : Dev) (tag : Nat) : Dev :=
  match cmdOf d tag with
  | none => d
  | some c =>
    { d with ctxs := tmod d.ctxs c.ctx (fun x => { x with reset := x.reset.map (fun j =>
        if !j.running.contains c.order then j
        else if j.expired then { j with aborted := j.aborted - 1 }
        else { j with lost := j.lost + 1 }) }) }

/-- A command that had work in a floe under recovery ends with INTERNAL, DETAIL 1 (R451 step 2): those of one galley end at
one moment, so their proofs come in the order of their entries (R214). -/
def loseCmd (d : Dev) (tag : Nat) : Dev :=
  let d := modCmd (noteLost d tag) tag (fun c =>
    { c with status := 0xFF, detail := 1, partialOut := true, digest := 0, count := 0 })
  complete (dropReads { d with runq := d.runq.filter (· ≠ tag) } (fun o => o == .cmd tag)) tag

/-- The start of a domain recovery of a floe (R451 steps 1 to 5). -/
def startFloeRecovery (d : Dev) (f seq : Nat) : Dev :=
  let n := recentRecoveries d f
  let d := telD d 0x3920 1
  let d := logPlain { d with errq := { d.errq with causes := tput d.errq.causes f seq } } 13 3 1 f
    (errBody 0 0 0 0xFFFF (1 + 3 * 2 + (n + 1) * 256) seq)
  let d := (tkeys (d.cmds.filter (fun c => c.2.phase ≠ 3 && c.2.inFloe f))).foldl loseCmd d
  let d := { d with galleys := d.galleys.map (fun g =>
    if g.2.home = f ∧ g.2.state = 1 then (g.1, { g.2 with state := 2, restart := true }) else g) }
  let d := floeLost (saveFloe d f) f
  let d := { d with boot := { d.boot with
    contained := if d.boot.contained.contains f then d.boot.contained else d.boot.contained ++ [f],
    recoveries := tput d.boot.recoveries f (d.now :: tget d.boot.recoveries f []) } }
  (tkeys d.galleys).foldl (fun d k => settleGalley d (k / 8) (k % 8))
    (setFloe d f (if n ≥ rf d 0x04C00018 4 4 then 2 else 3))

/-- The open records a recovered floe closes (R448). -/
def closeDomain (d : Dev) (dom : Nat) : Dev :=
  { d with errq := { d.errq with opens := d.errq.opens.filter (fun o => unitDomain o.kind o.id ≠ dom) } }

/-- The end of a domain recovery of a floe: ON again, records closed (R451 step 6). -/
def endFloeRecovery (d : Dev) (f : Nat) : Dev :=
  let d := closeDomain { d with boot := { d.boot with contained := d.boot.contained.filter (· ≠ f) } } f
  let n := recentRecoveries d f
  setFloe (logPlain d 13 3 1 f (errBody 0 0 0 0xFFFF (3 * 2 + n * 256) (tget d.errq.causes f 0))) f 0

/-- A CXL.mem request that waits fails: R452 names no status, and INTERNAL is recorded (DEDUCED, log entry 22). -/
def failPortWaiter (d : Dev) (w : Waiter) : Dev :=
  match w with
  | .portRead q => memFailed d q.port 0xFF q.dec q.hpa false false
  | .portWrite q _ _ => (noteDurable (q.uni / 65536) (memFailed d q.port 0xFF q.dec q.hpa true false, some (0xFF, 0))).1
  | _ => d

/-- A request of a port for a cached copy that waits at a directory slice fails in the same way. -/
def failPortReq (d : Dev) (w : Nat × DirOp) : Dev :=
  match opAgent w.2 with
  | some a =>
    if a < 64 then d
    else
      let q := portReqOr d (a - 64) w.1
      memFailed { d with dirWait := d.dirWait.erase w } (a - 64) 0xFF q.dec q.hpa false false
  | none => d

/-- An access that waits is a port's. -/
def Waiter.isPort (w : Waiter) : Bool :=
  match w with
  | .portRead _ => true
  | .portWrite _ _ _ => true
  | _ => false

/-- The port request that a write sent to another device or to a host stands for. -/
def Owner.portWrite (o : Owner) : Option PortReq :=
  match o with
  | .port q => some q
  | _ => Option.none

/-- The CXL.mem requests in flight fail (R452): those that wait, and writes sent on whose answers are awaited. -/
def failPorts (d : Dev) : Dev :=
  let ws := d.lineWait.map (·.2) ++ d.touches.flatMap (·.2.waiters) ++ d.packJobs.flatMap (·.waiters)
  let qs := d.fab.filterMap (fun r => if r.2.code ≠ 0 ∧ r.2.owed then r.2.owner.portWrite else none) ++
    d.ports.flatMap (fun p => p.2.io.filterMap (fun r => match r.2.use with | .hostWrite o _ => o.portWrite | _ => none))
  let d := qs.foldl (fun d q => memFailed d q.port 0xFF q.dec q.hpa true false) (ws.foldl failPortWaiter d)
  let d := d.dirWait.foldl failPortReq d
  let d := dropReads d (fun o => o.portWrite.isSome)
  { d with
    lineWait := d.lineWait.filter (fun w => !w.2.isPort),
    touches := d.touches.map (fun t => (t.1, { t.2 with waiters := t.2.waiters.filter (fun w => !w.isPort) })),
    packJobs := d.packJobs.map (fun j => { j with waiters := j.waiters.filter (fun w => !w.isPort) }),
    fab := d.fab.map (fun r => (r.1, if r.2.owner.portWrite.isSome then { r.2 with owner := .none } else r.2)),
    ports := d.ports.map (fun p => (p.1, { p.2 with io := p.2.io.map (fun r => (r.1, match r.2.use with
      | .hostWrite o l => if o.portWrite.isSome then { r.2 with use := .hostWrite .none l } else r.2
      | _ => r.2)) })) }

/-- What a recovery of the switch core discards at a link: frames that wait to be sent or taken.  The flits go on, and the cells of
what came in are returned to the peer (R370, R371, R452). -/
def Link.discard (k : Link) : Link :=
  let cells := k.rx.map (fun b => ((parseFrame b).cls, cellsOf b.length)) ++ k.withheld
  { k with txq := [], rx := [], withheld := [], owed := cells.foldl (fun o c => tput o c.1 (tget o c.1 0 + c.2)) k.owed }

/-- The start of a domain recovery of the switch core (R452, R456): frames and read entries are discarded, CXL.mem requests
in flight fail, and the deduplication window is emptied and refuses for 10 ms. -/
def startSwitchRecovery (d : Dev) (seq : Nat) : Dev :=
  let d := telD d 0x3920 1
  let d := failPorts (logPlain { d with errq := { d.errq with causes := tput d.errq.causes 4 seq } } 13 3 8 0
    (errBody 0 0 0 0xFFFF (1 + 3 * 2 + 256) seq))
  { d with
    sw := { d.sw with frames := [], staged := [], waiting := [], recovering := true, recoverStart := d.now, refusing := true },
    links := d.links.map (fun l => (l.1, l.2.discard)),
    entries := [], fwdReads := [], groups := [], dedup := [], reqs := [], acks := [] }

/-- Device-level containment closes the Golven links, and requests in service are answered with INTERNAL (R452, the
table after R38). -/
def failLinks (old d : Dev) : Dev :=
  if d.boot.failed && !old.boot.failed then
    failServices { d with links := (List.range 8).map (fun l => (l, { linkOf d l with state := 0 })) }
  else d

/-- Runs the domain recoveries that escalations have asked for: each of the five domains waits at most once, and a floe
under recovery is not asked again. -/
def runDue : Nat → Dev → Dev
  | 0, d => { d with errq := { d.errq with due := [] } }
  | n + 1, d =>
    match d.errq.due with
    | [] => d
    | (dom, seq) :: rest =>
      let d := { d with errq := { d.errq with due := rest } }
      runDue n (if dom = 4 then startSwitchRecovery d seq
                else if d.boot.contained.contains dom then d else startFloeRecovery d dom seq)

/-- What follows any command: frames that have left are copied (R383), recoveries start, free tags are granted, and a change of DEVICE_STATUS.STATE is reported (R27, R31, R59), but for
the one that a device reset makes. -/
def settle (old new : Dev) : Dev :=
  let d := settleTags (failLinks old (runDue 16 (mirrorSent new)))
  let fresh := d.boot.phase = 1 ∧ !d.boot.running ∧ !d.boot.flushing
  if devState d = devState old ∨ devState d = 0 ∨ devState old = 0 ∨ fresh then d
  else allMb.foldl (fun d m => ring d m 3) (eventDev d 2 0 0)

/-- The device as a command finds it: it sees the present device time and calendar (log entry 8). -/
def latch (s : State) : Dev :=
  { s.dev with now := s.clk.time, cal := if s.clk.calValid then s.clk.cal * 1000000000 + s.clk.calNs else 0 }

/-- The result of a command that changes the device but not its time base: the device sees the present device time
(log entry 8).  While RESET_N holds the device in reset, nothing happens (R503). -/
@[inline] def onDev (i : Instr) (s : State) (f : Dev → Dev) : Host.Outcome State Fault Refusal :=
  if i.wellFormed then
    if s.dev.boot.held then .next s
    else
      let d := latch s
      .next { s with dev := settle d (f d) }
  else .fault .noSuchUnit

/-- The result of a command that also acts on the time base. -/
@[inline] def onState (i : Instr) (s : State) (f : Clock → Dev → Clock × Dev) : Host.Outcome State Fault Refusal :=
  if i.wellFormed then
    if s.dev.boot.held then .next s
    else
      let d := latch s
      let r := f s.clk d
      .next { s with clk := r.1, dev := settle d r.2 }
  else .fault .noSuchUnit

/-- The result of a command that acts in reset too: the pins RESET_N, PERST_N and PWR_FAIL_N, and the calendar's
oscillator. -/
@[inline] def onPin (i : Instr) (s : State) (f : Clock → Dev → Clock × Dev) : Host.Outcome State Fault Refusal :=
  if i.wellFormed then
    let d := latch s
    let r := f s.clk d
    .next { s with clk := r.1, dev := settle d r.2 }
  else .fault .noSuchUnit

end Sys2Proof.Machine
end

