-- ==== Sys2Proof/Machine/Time.lean ====
section
/-! DEFINITION. The time base, the impression time base and the calendar clock (R413 to R419, R517 to R521). -/

namespace Sys2Proof.Machine

open Sys2Proof

/-! ### The passing of time -/

/-- Cycles of the time base between two that a slew of 200 ppm changes (R518). -/
def slewEvery : Nat := 5000

/-- One cycle of the time base: device time advances by one, or by two or none in the cycle that slewing changes. -/
def Clock.tick (c : Clock) : Clock :=
  let c := if c.calValid then
      (if c.calNs + 1 < 1000000000 then { c with calNs := c.calNs + 1 } else { c with cal := (c.cal + 1) % 2 ^ 64, calNs := 0 })
    else c
  if c.slew = 0 then { c with time := (c.time + 1) % 2 ^ 64, sub := 0 }
  else if c.sub + 1 < slewEvery then { c with time := (c.time + 1) % 2 ^ 64, sub := c.sub + 1 }
  else if c.slew > 0 then { c with time := (c.time + 2) % 2 ^ 64, sub := 0, slew := c.slew - 1 }
  else { c with sub := 0, slew := c.slew + 1 }

/-- What happens while no command waits: one cycle of the time base (DESIGN CHOICE, log entry 1), unless the device is
held in reset. -/
def tick (s : State) : State := if s.dev.boot.held then s else { s with clk := s.clk.tick }

/-! ### Impressions (R413 to R415) -/

/-- The register base of the impression block. -/
def imprBase : Nat := 0x04A04000

/-- IMPR_CTRL.SOURCE. -/
def imprSource (d : Dev) : Nat := rf d imprBase 0 2

/-- The measured period P in nanoseconds (R414). -/
def period (c : Clock) (d : Dev) : Nat :=
  if c.intervals.isEmpty then max 1 (rf d (imprBase + 0x10) 0 16) * 1000 else c.intervals.foldl (· + ·) 0 / c.intervals.length

/-- The phase (R414). -/
def phase (c : Clock) (d : Dev) : Nat := min 1023 (1024 * (c.time - c.last) / max 1 (period c d))

/-- A window is open (R416). -/
def windowIsOpen (c : Clock) (d : Dev) (w : Nat) : Bool :=
  let b := imprBase + 0x100 + w * 0x10
  let start := re d (b + 4)
  let len := re d (b + 8)
  ef d b 0 1 == 1 &&
    (if ef d b 1 1 = 1 then decide (start ≤ c.time - c.last) && decide (c.time - c.last < start + len)
     else decide ((phase c d + 1024 - start % 1024) % 1024 < min 1024 len))

/-- The activities an open window admits. -/
def windowActs (d : Dev) (w : Nat) : List Nat := [4, 5, 6, 7].filter (fun a => bitOf (re d (imprBase + 0x100 + w * 0x10)) a)

/-- The activities that some open window admits. -/
def openActs (c : Clock) (d : Dev) : List Nat :=
  [4, 5, 6, 7].filter (fun a => (List.range 8).any (fun w => windowIsOpen c d w && (windowActs d w).contains a))

/-- An activity may start work: 4 scrub, 5 calibration, 6 migration, 7 telemetry (R416). -/
def admits (d : Dev) (act : Nat) : Bool := d.boot.windows.contains act

/-- What a mark does besides its own count: IMPR_LAST, the count, the Staged fields, and the windows evaluated against
it (R9, R413, R416). -/
def markAt (c : Clock) (d : Dev) (at_ : Nat) : Clock × Dev :=
  let c := { c with last := at_, count := (c.count + 1) % 2 ^ 64 }
  let d := { d with force := [] }
  (c, { d with boot := { d.boot with windows := openActs c d } })

/-- A mark arrives from the pin or from IMPRESS (R413, R414): ignored when too early, else accepted. -/
def arriveMark (c : Clock) (d : Dev) : Clock × Dev :=
  if c.count ≠ 0 ∧ c.time < c.last + 1000 * rf d (imprBase + 8) 0 16 then
    ({ c with ignored := min 65535 (c.ignored + 1) }, d)
  else
    let iv := match c.from_ with
      | some f => if c.time - f ≤ 1000 * rf d (imprBase + 8) 16 16 then ((c.time - f) :: c.intervals).take 8 else c.intervals
      | none => c.intervals
    let c := { c with intervals := iv, from_ := some c.time, coasts := 0, impr := if iv.length = 8 then 2 else 1 }
    markAt c d c.time

/-- `IMPR_SYNC_EDGE` (R413): an edge that the pin's filter has accepted, where SOURCE and FALLING allow it. -/
def execImprSyncEdge (falling : Bool) (s : State) : Host.Outcome State Fault Refusal :=
  onState (.imprSyncEdge falling) s (fun c d =>
    if (imprSource d = 0 ∨ imprSource d = 2) ∧ (rf d imprBase 2 1 = 1) = falling then arriveMark c d else (c, d))

/-- `COAST_MARK` (R415): in UNLOCKED or LOCKED the first missing mark is synthesised, in COASTING the next; after
COAST_LIMIT of them the time base is FREE.  The mark lies P after the last one (DEDUCED, log entry 27). -/
def execCoastMark (s : State) : Host.Outcome State Fault Refusal :=
  onState .coastMark s (fun c d =>
    if c.impr = 0 then (c, d)
    else
      let n := c.coasts + 1
      let st := if n ≥ max 1 (rf d (imprBase + 0x10) 16 8) then 0 else 3
      let at_ := c.last + period c d
      markAt { c with impr := st, coasts := n, from_ := none, synthesised := min 65535 (c.synthesised + 1) } d at_)

/-- `FREE_MARK` (R415). -/
def execFreeMark (s : State) : Host.Outcome State Fault Refusal :=
  onState .freeMark s (fun c d =>
    if c.impr = 0 then markAt { c with from_ := none, synthesised := min 65535 (c.synthesised + 1) } d c.time else (c, d))

/-- `WINDOW_CLOSE` (R417): an activity for which no window is open any longer starts no further work. -/
def execWindowClose (win : Nat) (s : State) : Host.Outcome State Fault Refusal :=
  onState (.windowClose win) s (fun c d =>
    if windowIsOpen c d win then (c, d)
    else (c, { d with boot := { d.boot with windows := d.boot.windows.filter (fun a => (openActs c d).contains a) } }))

/-- `CAL_FORCED` (R418): a calibration that no window has admitted for CAL_MAX_US runs outside the windows. -/
def execCalForced (f unit : Nat) (s : State) : Host.Outcome State Fault Refusal :=
  onState (.calForced f unit) s (fun c d =>
    if admits d 5 || !floeOn d f then (c, d) else ({ c with calForced := min 65535 (c.calForced + 1) }, d))

/-! ### Time transfer (R518, R519) -/

/-- A number of 16 bits read as signed. -/
def signed16 (n : Nat) : Int := toSigned 16 n

/-- A link's fixed latencies in sixteenths of a nanosecond at the lanes in use, 0 with none; the specification gives no number, so
they are free (log entry 28). -/
def linkLat (l lanes : Nat) : Nat × Nat :=
  let k := 2 ^ 64 + 4 * l + (if lanes = 0xFF then 2 else 0)
  if lanes = 0 then (0, 0) else (Config.free k % 65536, Config.free (k + 1) % 65536)

/-- The asymmetry of a link in sixteenths of a nanosecond (R519). -/
def asymmetry (d : Dev) (l : Nat) : Int :=
  let k := linkOf d l
  ((linkLat l k.lanes).1 + k.peerRx : Nat) - ((k.peerTx + (linkLat l k.lanes).2 : Nat) : Int) + signed16 (rf d (linkBase l + 0x18) 0 16)

/-- The links whose peer is a node; twin links reach another domain (R500). -/
def linksTo (d : Dev) (n : Nat) : List Nat :=
  (List.range 8).filter (fun l => (linkOf d l).peer = n && !twinLink d l && ((linkOf d l).auth || (linkOf d l).suspected))

/-- Every link to a neighbour is suspected (R478). -/
def suspectsNode (d : Dev) (n : Nat) : Bool :=
  !(linksTo d n).isEmpty && (linksTo d n).all (fun l => (linkOf d l).suspected)

/-- The coordinator (R479): the lowest-numbered manager that is a MEMBER and that this device does not suspect.  While
no manager is a MEMBER, the lowest-numbered manager of the record acts (DESIGN CHOICE, log entry 32). -/
def coordinator (d : Dev) : Option Nat :=
  let ms := d.mbr.map.managers.filter (fun n => n != 0xFFFF)
  let act := ms.filter (fun n => (nodeOf d.mbr.map n).state == 1)
  ((if act.isEmpty then ms else act).filter (fun n => !suspectsNode d n)).foldl (fun b n =>
    match b with
    | some m => some (min m n)
    | none => some n) none

/-- The link toward the time reference (R518): the first link of the route to the coordinator; none on the reference.
Which other members' TIME_PPS is locked is not known to a device (DESIGN CHOICE, log entry 29). -/
def timeLink (c : Clock) (d : Dev) : Option Nat :=
  if c.ppsLocked then none
  else
    match coordinator d with
    | some n => if n = selfNode d then none else routeLink d n
    | none => none

/-- `TIME_EXCHANGE` (R518): a request goes out on every ACTIVE link that is not a twin link. -/
def execTimeExchange (s : State) : Host.Outcome State Fault Refusal :=
  onState .timeExchange s (fun c d =>
    let ls := (List.range 8).filter (fun l => linkActive d l && !twinLink d l)
    ({ c with t1 := ls.foldl (fun t l => tput t l c.time) c.t1 },
      ls.foldl (fun d l => sendMgmtLink d l (linkOf d l).peer 20 (leBytes 8 c.time)) d))

/-- `TIME_EXCHANGE_REPLY` (R518): the offset; at JOIN the one step, afterwards slewing toward the reference. -/
def execTimeExchangeReply (link t2 t3 t4 : Nat) (s : State) : Host.Outcome State Fault Refusal :=
  onState (.timeExchangeReply link t2 t3 t4) s (fun c d =>
    match tget? c.t1 link with
    | none => (c, d)
    | some t1 =>
      let o : Int := (((t2 : Int) - t1 - ((t4 : Int) - t3)) * 16 - asymmetry d link) / 32
      let c := { c with t1 := tdel c.t1 link }
      if timeLink c d ≠ some link then (c, d)
      else if d.mbr.joined && !c.joined then ({ c with offset := o, joined := true, time := ((c.time : Int) + o).toNat % 2 ^ 64, slew := 0 }, d)
      else ({ c with offset := o, slew := if d.mbr.joined then o else 0 }, d))

/-! ### TIME_PPS (R520) -/

/-- `TIME_PPS_EDGE` (R520). -/
def execTimePpsEdge (s : State) : Host.Outcome State Fault Refusal :=
  onState .timePpsEdge s (fun c d =>
    if rf d 0x04A00000 0 1 = 0 then (c, d)
    else
      let r := c.time % 1000000000
      let e : Int := if r < 500000000 then r else (r : Int) - 1000000000
      let near := decide (e.natAbs ≤ 20)
      let good := if near then min 3 (c.ppsGood + 1) else 0
      let lk := if e.natAbs > 1000 then false else c.ppsLocked || good == 3
      ({ c with ppsGood := good, ppsLocked := lk, ppsLast := some c.time, slew := -e }, d))

/-- `PPS_LOSS` (R520): no edge for 1.5 s. -/
def execPpsLoss (s : State) : Host.Outcome State Fault Refusal :=
  onState .ppsLoss s (fun c d => ({ c with ppsLocked := false, ppsGood := 0 }, d))

/-! ### The calendar clock (R521) -/

/-- Sets the calendar clock. -/
def setCalendar (c : Clock) (sec ns : Nat) : Clock := { c with cal := sec % 2 ^ 64, calNs := ns, calValid := true }

/-- `CALENDAR_WRITE` (R521). -/
def execCalendarWrite (val : Nat) (s : State) : Host.Outcome State Fault Refusal :=
  onState (.calendarWrite val) s (fun c d => (setCalendar c val 0, d))

/-- `CAL_OSC_STOP` (R521). -/
def execCalOscStop (s : State) : Host.Outcome State Fault Refusal :=
  onPin .calOscStop s (fun c d => ({ c with calValid := false }, d))

end Sys2Proof.Machine
end

