-- ==== Sys2Proof/Machine/Port.lean ====
section
/-! DEFINITION. CXL.mem requests: HDM decoding, the check at memory, failed accesses and the port stream prefetchers
(R75, R76, R109, R361 to R366). -/

namespace Sys2Proof.Machine

open Sys2Proof

/-! ### Decoding (R75, R76, R361) -/

/-- The decoder that a host physical address hits, with the device offset after interleave has been removed. -/
def decodeHpa (p : Port) (hpa : Nat) : Option (Nat × Decoder × Nat) :=
  match p.decoders.find? (fun x => x.2.committed && decide (x.2.base ≤ hpa) && decide (hpa < x.2.base + x.2.size)) with
  | some (i, x) =>
    let o := hpa - x.base
    let g := max 1 x.gran
    some (i, x, o / (g * max 1 x.ways) * g + o % g)
  | none => none

/-- The version of a region that holds a page. -/
def versionOfPage (d : Dev) (region page : Nat) : Option Nat :=
  match tget? d.regions region with
  | none => none
  | some r => (r.versions.find? (fun v => decide (v.2.start / 65536 ≤ page) && decide (page * 65536 < v.2.start + v.2.len))).map (·.1)

/-- The context holds a binding to a version of a region (R82). -/
def holdsBinding (d : Dev) (ctx region ver : Nat) : Bool :=
  (ctxOf d ctx).ranges.any (fun r => r.2.valid && r.2.region == some (region, ver))

/-- The check of R76 at the home floe: none when served, else the status and the OWNER to record. -/
def pageCheck (d : Dev) (ctx page : Nat) (write : Bool) : Option (Nat × Nat) :=
  let p := pageOf d page
  if p.tier = 0 then some (0x14, 0)
  else if p.region then
    let r := p.owner % 4096
    match versionOfPage d r page with
    | some v => if !write && holdsBinding d ctx r v then none else some (0x12, p.owner)
    | none => some (0x12, p.owner)
  else if p.owner = ctx then none
  else some (0x12, p.owner)

/-! ### Refused requests (R85, R364) -/

/-- The TRANSLATION record of a refused request: the first of a decoder in each millisecond (R85).  A request that hits no
decoder has no decoder offset and no context: ADDRESS holds the host address, CONTEXT 0xFFFF, and its millisecond is that
of decoder 0 (DESIGN CHOICE, log entry 51). -/
def portTrans (d : Dev) (q : PortReq) (status owner : Nat) (write : Bool) : Dev :=
  let key := 3 * 2 ^ 60 + q.port * 16 + q.dec
  match rateHit d key 1000000 with
  | some s => suppress d s
  | none =>
    let r := logRec d 1 1 6 q.port q.ctx (transBody q.off q.uni q.ctx status (b2n write) 7 q.port q.dec 0xFFFF owner) true
    { r.1 with rates := tput r.1.rates key (r.1.now, r.2) }

/-- A CXL.mem request fails: a refusal of R76 is recorded, and the port answers. -/
def portFail (d : Dev) (q : PortReq) (status owner : Nat) (write : Bool) (noDec : Bool := false) : Dev :=
  memFailed (if transStatus status then portTrans d q status owner write else d) q.port status q.dec q.hpa write noDec

/-! ### Stream prefetch (R109) -/

/-- Prefetches one line of a stack or bulk page into the slice: it never faults, and an orphan line is dropped.  A line of
a packed page brings its whole block (R97). -/
def prefetchLine (d : Dev) (w : Who) (line : Nat) : Dev :=
  let page := pageOfLine line
  let f := homeFloe page
  let p := pageOf d page
  if !floeOn d f || !(p.tier == 1 || p.tier == 2) || thas d.cache line || rf d (floeBase f + 0x130000) 0 1 == 0 || isOrphan d line then d
  else if p.packed then
    let r := readBlock d w page (line % 1024 / 64)
    match r.2 with
    | .ok b => allocBlock r.1 page (line % 1024 / 64) b
    | .error _ => r.1
  else
    let r := tierRead d w line
    match r.2 with
    | .ok b => cacheAlloc r.1 line b false
    | .error _ => r.1

/-- A stream detector once it has started: the fourth state of its count of misses. -/
def streamStarted : Nat := 3

/-- An access of a line as the stream detectors see it: three misses to ascending consecutive lines in a 4 KiB span start
a stream, which then runs ahead of the accesses up to the end of the placement page.  A new miss that finds all sixteen detectors in
use takes the one that was used longest ago (DESIGN CHOICE, log entry 69). -/
def detect (d : Dev) (port line : Nat) (miss : Bool) : Dev :=
  let p := portOf d port
  let depth := min 64 (rf d (floeBase (homeFloe (pageOfLine line)) + 0x130000) 8 8)
  let inSpan := (line + 1) / 64 = line / 64
  match p.streams.find? (fun s => s.1 = line) with
  | some (_, n) =>
    let rest := p.streams.filter (fun s => s.1 ≠ line)
    let n' := if n ≥ streamStarted then n else if miss then n + 1 else 0
    let keep := if n' ≥ streamStarted then decide (pageOfLine (line + 1) = pageOfLine line) else decide (0 < n' ∧ inSpan)
    let d := setPort d port { p with streams := if keep then rest ++ [(line + 1, n')] else rest }
    if n' ≥ streamStarted then
      ((List.range depth).filter (fun i => pageOfLine (line + 1 + i) = pageOfLine line)).foldl
        (fun d i => prefetchLine d (Who.unitOnly 7 port) (line + 1 + i)) d
    else d
  | none =>
    if miss ∧ inSpan then
      setPort d port { p with streams := (if p.streams.length ≥ 16 then p.streams.drop 1 else p.streams) ++ [(line + 1, 1)] }
    else d

/-! ### Packed blocks (R97) -/

/-- A packed block that a read of a line would have to wait for. -/
def packedWait (d : Dev) (line : Nat) : Bool :=
  let p := pageOf d (pageOfLine line)
  floeOn d (homeFloe (pageOfLine line)) && p.packed && !thas d.cache line && !isOrphan d line

/-- Joins a waiter to the decode of a packed block: a miss of the slice is counted for it (R92, R95), and the unit that takes the
block works for a packed page from now on (R314). -/
def waitPacked (d : Dev) (line : Nat) (w : Waiter) : Dev :=
  let page := pageOfLine line
  let f := homeFloe page
  let k := line % 1024 / 64
  let d := countAccess d line
  if d.packJobs.any (fun j => j.page = page && j.blk = k) then
    { d with packJobs := d.packJobs.map (fun j =>
        if j.page = page ∧ j.blk = k then { j with waiters := j.waiters ++ [w] } else j) }
  else { markPacked (useFree d) f (packUnit d f) with packJobs := d.packJobs ++ [⟨page, k, packUnit d f, [w]⟩] }

/-! ### Serving a request -/

/-- An access that has to wait for its line stands in the line's queue. -/
def waitLine (d : Dev) (line : Nat) (w : Waiter) : Dev := { d with lineWait := d.lineWait ++ [(line, w)] }

/-- What a read of a far line comes to for a port: answered, failed, or asked for. -/
def portFar (d : Dev) (q : PortReq) (r : Dev × FarRead) (node : Option Nat) (addr : Nat) : Dev :=
  let line := q.uni / 64
  match r.2 with
  | .data b => respond r.1 q.port (.memData q.port q.hpa b false 0)
  | .err s => portFail r.1 q s 0 false
  | .ask => startRead (waitLine d line (.portRead q)) (.port q) 0 line node addr
  | .hold => waitLine d line (.portRead q)

/-- Serves a CXL.mem request that has been decoded and that its home floe has taken (R76, R350, R364): at once, after the event it
waits for, or as a failed access.  `how` says whether its line has been counted. -/
def portAt (d : Dev) (far : Far) (q : PortReq) (wr : Option (Bytes × Nat)) (how : Counted := .access) : Dev :=
  let write := wr.isSome
  let line := q.uni / 64
  let page := pageOfLine line
  let p := pageOf d page
  let who : Who := ⟨7, q.port, 0xFFFF, q.ctx, true, .port q⟩
  let waiter : Waiter := match wr with
    | some (b, m) => .portWrite q b m
    | none => .portRead q
  if !floeRuns d (homeFloe page) then portFail (if write && p.durable then gpfMark d else d) q 0x42 0 write
  else
    match pageCheck d q.ctx page write with
    | some (s, o) => portFail d q s o write
    | none =>
      if write && flushBars d page then portFail (gpfMark d) q 0x44 0 true
      else if p.mot then
        match startTouch d page [waiter] with
        | .ok d => d
        | .error s => portFail d q s 0 write
      else if write && frozen d page then waitLine d line waiter
      else if p.tier = 3 then
        match wr with
        | none => portFar d q (readPool d far (.port q) line p.node (poolAddr p line)) (some p.node) (poolAddr p line)
        | some (b, m) =>
          match fabRefused d p.node with
          | some s => portFail d q s 0 true
          | none =>
            if fabFull d then waitLine d line waiter
            else (issueReq (rewritten d page) (.port q) 1 p.node (poolAddr p line) line 0 (writePayload m b) false).1
      else if p.tier = 4 then
        match wr with
        | none => portFar d q (readHost d far (.port q) line) none 0
        | some (b, m) =>
          if !linkUp (portOf d p.port) then portFail d q 0x14 0 true
          else if hostBusy d line then waitLine d line waiter
          else hostWrite d 0 (.port q) line b m
      else
        let n := ncReady d line write
        match n.2 with
        | some bl => unblock (waitLine d line waiter) bl
        | none =>
          let d := n.1
          let miss := how == .before || !thas d.cache line
          match wr with
          | none =>
            if packedWait d line then waitPacked d line waiter
            else
              let r := homeReadBy d who line how
              match r.2 with
              | .ok b => detect (respond r.1 q.port (.memData q.port q.hpa b false 0)) q.port line miss
              | .error e => portFail r.1 q e.1 0 false
          | some (b, m) =>
            let r := homeWrite d who line b m
            match r.2 with
            | none =>
              let e := detect r.1 q.port line miss
              if r.1.mbr.sync.length > d.mbr.sync.length then e else respond e q.port (.memDone q.port q.hpa)
            | some e => portFail r.1 q e.1 0 true

/-- Serves a CXL.mem request: decoding by R76. -/
def portServe (d : Dev) (far : Far) (port hpa : Nat) (wr : Option (Bytes × Nat)) : Dev :=
  let write := wr.isSome
  if d.boot.failed ∨ d.sw.recovering then memFailed d port 0xFF 0 hpa write false
  else
    match decodeHpa (portOf d port) hpa with
    | none => portFail d ⟨port, hpa, 0, 0xFFFF, hpa, 0⟩ 0x10 0 write true
    | some (dec, x, off) =>
      let (c, base, len) := x.binding
      match c with
      | none => portFail d ⟨port, hpa, dec, 0xFFFF, off, 0⟩ 0x12 0 write
      | some ctx =>
        if off ≥ len then portFail d ⟨port, hpa, dec, ctx, off, 0⟩ 0x10 0 write
        else
          let q : PortReq := ⟨port, hpa, dec, ctx, off, base + off⟩
          if !floeOn d (homeFloe (pageOfLine (q.uni / 64))) then portFail d q 0x42 0 write else portAt d far q wr

/-- A waiting access is a read, or a write, of a port. -/
def Waiter.ofPort (w : Waiter) (port : Nat) (write : Bool) : Bool :=
  match w with
  | .portRead q => !write && q.port == port
  | .portWrite q _ _ => write && q.port == port
  | _ => false

/-- A request of a port for a cached copy. -/
def DirOp.ofPort (op : DirOp) (port : Nat) : Bool :=
  match op with
  | .rdShared a => a == 64 + port
  | .rdOwn a => a == 64 + port
  | .upgrade a => a == 64 + port
  | _ => false

/-- Requests of a port that are under way and are still to be answered, reads or writes: those for cached copies are reads. -/
def portLoad (d : Dev) (port : Nat) (write : Bool) : Nat :=
  (if write then
    d.mbr.sync.countP (fun s => match s.2 with | .port q => q.port == port | _ => false)
   else d.dirWait.countP (fun w => w.2.ofPort port) + d.dir.countP (fun e => e.2.txn.any (fun t => t.op.ofPort port))) +
  d.lineWait.countP (fun w => w.2.ofPort port write) +
  (d.touches.map (fun t => t.2.waiters.countP (fun w => w.ofPort port write))).sum +
  (d.packJobs.map (fun j => j.waiters.countP (fun w => w.ofPort port write))).sum +
  (if write then
    d.fab.countP (fun r => r.2.code != 0 && r.2.owed && (match r.2.owner with | .port q => q.port == port | _ => false)) +
    (d.ports.map (fun p => p.2.io.countP (fun r => match r.2.use with | .hostWrite (.port q) _ => q.port == port | _ => false))).sum
   else 0)

/-- A request arrives at a port whose link is up: it returns to L0 first (R365).  One beyond the 512 reads or 256
writes that the port's credits allow is discarded, and the link enters RECOVERY (R362). -/
def portTakes (d : Dev) (port : Nat) (write : Bool) (go : Dev → Dev) : Dev :=
  if !linkUp (portOf d port) then d
  else if portLoad d port write ≥ (if write then 256 else 512) then setPort d port { portOf d port with link := 5 }
  else go (setPort d port (wake (portOf d port)))

/-- A CXL.mem request arrives at a port. -/
def portRequest (d : Dev) (far : Far) (port hpa : Nat) (wr : Option (Bytes × Nat)) : Dev :=
  portTakes d port wr.isSome (fun d => portServe (telPort d port (if wr.isSome then 0x08 else 0x00)) far port (hpa / 64 * 64) wr)

/-- `CXL_MEM_READ` (R76). -/
def execCxlMemRead (port hpa : Nat) (far : Far) (s : State) : Host.Outcome State Fault Refusal :=
  onDev (.cxlMemRead port hpa far) s (fun d => portRequest d far port hpa none)

/-- `CXL_MEM_WRITE` (R76). -/
def execCxlMemWrite (port hpa : Nat) (bytes : List Byte) (mask : BitVec 64) (far : Far) (s : State) :
    Host.Outcome State Fault Refusal :=
  onDev (.cxlMemWrite port hpa bytes mask far) s (fun d => portRequest d far port hpa (some (slice bytes 0 64, mask.toNat)))

end Sys2Proof.Machine
end

