-- ==== Sys2Proof/Machine/CoreOps.lean ====
section
/-! DEFINITION. The parts of a core that other units act on: local memory, tokens, event lines and its
streams (R112 to R131, R176, R188, R189). -/

namespace Sys2Proof.Machine

open Sys2Proof

/-! ### Local memory (R115, R121) -/

/-- Bytes of local memory. -/
def lmSize : Nat := 0x800000

/-- A run of local addresses lies within local memory. -/
def lmOk (a n : Nat) : Bool := decide (a + n ≤ lmSize)

/-- A run overlaps the code region of a running kernel. -/
def inCode (x : Core) (a n : Nat) : Bool :=
  decide (0 < n) && decide (0 < x.codeLen) && decide (a < x.codeBase + x.codeLen) && decide (x.codeBase < a + n)

/-- The fault cause of a write to local memory; 0 when it is allowed. -/
def lmWriteCause (x : Core) (a n : Nat) : Nat := if !lmOk a n then 9 else if inCode x a n then 5 else 0

/-- The address space of a core's protected memories: local memory, then the vector registers (R427). -/
def vregSpan (off n : Nat) : Nat × Nat := (2 ^ 23 + off, n)

/-- Upsets in the words that spans of a core's memories cover. -/
def flipsIn (x : Core) (spans : List (Nat × Nat)) : List (Nat × Nat) :=
  x.flips.filter (fun f => spans.any (fun s => decide (0 < s.2) && decide (s.1 < 8 * f.1 + 8) && decide (8 * f.1 < s.1 + s.2)))

/-- Words that bytes written at an address cover whole hold no error any more. -/
def flipsWritten (l : Tab Nat) (a n : Nat) : Tab Nat := l.filter (fun f => !(decide (a ≤ 8 * f.1) && decide (8 * f.1 + 8 ≤ a + n)))

/-- Reads local memory. -/
def lmRead (x : Core) (a n : Nat) : Bytes := memRead x.lm a n

/-- Writes local memory. -/
def lmWrite (x : Core) (a : Nat) (b : Bytes) : Core :=
  { x with lm := memWrite x.lm a b, flips := flipsWritten x.flips a b.length }

/-! ### Tokens and event lines (R123 to R125, R189) -/

/-- The count of a token: the register field that software sees (R128). -/
def tokenOf (x : Core) (t : Nat) : Nat := tget x.tokens t 0

/-- Signals a token: past 0xFFFF it stays there, its overflow bit is set and the kernel faults (R124). -/
def signalToken (d : Dev) (c t n : Nat) : Dev :=
  let x := coreOf d c
  let v := tokenOf x t + n
  if v ≤ 0xFFFF then setCore d c { x with tokens := tput x.tokens t v }
  else
    let d := setCore d c { x with tokens := tput x.tokens t 0xFFFF,
                                  tokenOvf := if bitOf x.tokenOvf t then x.tokenOvf else x.tokenOvf + 2 ^ t }
    kernelFault d c 7

/-- The cores of a core's launch that lie in its floe. -/
def launchCores (d : Dev) (c : Nat) : List Nat :=
  match cmdOf d (coreOf d c).tag with
  | some m => m.cores.filter (fun o => o / 16 = c / 16)
  | none => [c]

/-- A line that the launch of a core owns: lines 16c to 16c + 15 of each of its cores (R189). -/
def ownsLine (d : Dev) (c line : Nat) : Bool := (launchCores d c).any (fun o => o % 16 == line / 16)

/-- Subscription `k` of a core. -/
def subReg (d : Dev) (c k : Nat) : Nat := rv d (coreBase c + 0x3100 + 4 * k)

/-- Pulses an event line of a floe: each subscription of a core adds the count to its token, in whatever state the core is; a
line that the core's launch does not own gives no counts (R125, R189). -/
def pulseLine (d : Dev) (f line n : Nat) : Dev :=
  (List.range 16).foldl (fun d i =>
    let c := 16 * f + i
    if ownsLine d c line then
      (List.range 32).foldl (fun d k =>
        let r := subReg d c k
        if bitOf r 15 && bits r 0 8 == line then signalToken d c (bits r 8 5) n else d) d
    else d) d

/-! ### Streams (R112, R165) -/

/-- Places in the queue of a stream (R112). -/
def streamCap (st : Nat) : Nat := if st = 0 then 32 else if st = 1 then 64 else 16

/-- Instructions in the queue of a stream: one that has begun and waits has left it. -/
def queued (x : Core) (st : Nat) : Nat := (streamOf x st).queue.length - b2n (thas x.latched st)

/-- Whose writes a stream's are. -/
def streamOwner (c st : Nat) : Owner := if st < 2 then .stream c st else .chan c (st - 2)

/-- Whose accesses those of a core's unit are: SOURCE 0 scalar, 1 matrix, 2 vector, 3 DMA. -/
def coreWho (d : Dev) (c src : Nat) (o : Owner) : Who := ⟨src, c, (coreOf d c).tag, (coreOf d c).ctx, false, o⟩

/-- An upset of one bit in a word of a core's memory, corrected in place (R427). -/
def wordFixed (d : Dev) (c src n : Nat) : Dev :=
  let d := telF (modCore d c (fun x => { x with flips := tdel x.flips n })) (c / 16) 0x1728 1
  intCorrected d (coreWho d c src .none) true 2 c (if n < 2 ^ 20 then 8 * n else 0) c 0 0 4

/-- An upset that the code cannot correct: the core stops with cause SRAM, and its proof carries UNCORRECTABLE, detail 4
(R427). -/
def wordLost (d : Dev) (c src n : Nat) : Dev :=
  let d := intFailed (telF d (c / 16) 0x1730 1) (coreWho d c src .none) 1 2 c (if n < 2 ^ 20 then 8 * n else 0) c 0 0 5 0x20 4
  coreFault d c 0x0B 0x20 4

/-- A unit of a core reads spans of its memories: their codes are decoded, and whether one fails. -/
def sramRead (d : Dev) (c src : Nat) (spans : List (Nat × Nat)) : Dev × Bool :=
  (flipsIn (coreOf d c) spans).foldl (fun s f =>
    if s.2 then s else if f.2 ≤ 1 then (wordFixed s.1 c src f.1, false) else (wordLost s.1 c src f.1, true)) (d, false)

/-- The range generation a core's kernel runs under: that of its command. -/
def coreGen (d : Dev) (c : Nat) : Nat :=
  match cmdOf d (coreOf d c).tag with
  | some m => m.gen
  | none => (ctxOf d (coreOf d c).ctx).gen

/-- Work of a core's unit on context addresses. -/
def coreWork (d : Dev) (far : Far) (c src : Nat) (o : Owner) : W :=
  W.start d far (coreOf d c).ctx (coreGen d c) (coreWho d c src o)

/-- Writes of a core's kernel are output of its command (R213). -/
def noteWrites (d : Dev) (c n : Nat) : Dev :=
  if n = 0 then d else modCmd d (coreOf d c).tag (fun m => { m with writes := m.writes + n })

/-- The statuses of a refused access that stop a core (R176, R354, R399). -/
def stopsCore (s : Nat) : Bool :=
  s == 0x10 || s == 0x11 || s == 0x14 || s == 0x42 || s == 0x20 || s == 0x26 || s == 0x33

/-- Latches the first failure of a channel's descriptor (R399): the channel is HALTED; a status of R176 or ORPHAN also
stops the core. -/
def haltChan (d : Dev) (c h status detail addr : Nat) (write isLocal : Bool) : Dev :=
  let x := coreOf d c
  let ch := chanOf x h
  let ch' := if ch.state = 5 then { ch with multi := true }
             else { ch with state := 5, haltStatus := status, haltWrite := write, haltLocal := isLocal,
                            haltAddr := addr / 64 * 64, haltStop := decide (ch.state = 3), multi := false }
  let d := setCore d c { x with chans := tput x.chans h ch' }
  if stopsCore status then coreFault d c 0x0A status detail (some h) else d

end Sys2Proof.Machine
end

