-- ==== Sys2Proof/Machine/Directory.lean ====
section
/-! DEFINITION. The directory slices and the data caches they track (R338 to R354, R358). -/

namespace Sys2Proof.Machine

open Sys2Proof

/-! ### Entries -/

/-- The set of a line in its slice (R343). -/
def dirSet (line : Nat) : Nat := bits line 12 7 * 1024 + bits line 0 10

/-- The lines that hold a way of the set of a line. -/
def dirWays (d : Dev) (line : Nat) : List (Nat × DirEntry) :=
  d.dir.filter (fun e => dirSet e.1 = dirSet line && homeFloe (pageOfLine e.1) = homeFloe (pageOfLine line))

/-! ### Data caches of the cores (R340 to R342) -/

/-- A core's data cache drops a line: written back if dirty, with its eviction notice.  A dirty line that its SRAM has
lost, or that a quarantined core cannot write back, fails the core for coherence, causes 5 and 4 (R353). -/
def dcDrop (d : Dev) (c line : Nat) : Dev :=
  match tget? (coreOf d c).dcache line with
  | none => d
  | some l =>
    if !l.dirty then dropAgent (dcForget d c line) line c
    else if dcBad d c line then dcLost d c line
    else
      let d := dcForget d c line
      if (coreOf d c).stopWith.any (fun x => x.1 = 0x21) then
        let r := storeBack d (Who.unitOnly 9 (homeFloe (pageOfLine line))) line l.data
        if r.2.isSome then beginWalk r.1 c 4 else dropAgent r.1 line c
      else dropAgent (dirtyToMemory d c line l.data) line c

/-- Puts a line into a core's data cache: 256 sets of 4 ways, the victim a free value. -/
def dcFill (d : Dev) (c line : Nat) (b : Bytes) (owned : Bool) : Dev :=
  let x := coreOf d c
  let ways := tkeys (x.dcache.filter (fun l => l.1 % 256 = line % 256 && l.1 ≠ line))
  let d := if ways.length ≥ 4 then dcDrop (useFree d) c (ways.getD (freeVal d % 4) line) else d
  modCore d c (fun x => { x with dcache := tput x.dcache line ⟨b, false, owned⟩ })

/-- Writes back and invalidates a core's whole data cache (R342). -/
def dcClear (d : Dev) (c : Nat) : Dev := (tkeys (coreOf d c).dcache).foldl (fun d l => dcDrop d c l) d

/-! ### Requests -/

/-- A directory request of an agent fails: a core stops, a port answers the failed access, recorded where it is a refusal
of R76 (R85, R342, R354, R364). -/
def dirFail (d : Dev) (agent line status owner : Nat) : Dev :=
  if agent < 64 then accessFault d agent (status, 0)
  else
    portFail (portReqDone d (agent - 64) line) (portReqOr d (agent - 64) line) status owner false (portReqAt d (agent - 64) line).isNone

/-- Whether a cached copy may be granted: a coherent page, and a port in 256B flit mode (R341, R363). -/
def mayCache (d : Dev) (agent line : Nat) : Bool :=
  pageCoherent d (pageOfLine line) && (decide (agent < 64) || (portOf d (agent - 64)).flit256)

/-- Line data to a requester: into a core's data cache, or to a port with its meta state (3 shared, 2 any, 0 none). -/
def dirData (d : Dev) (agent line : Nat) (b : Bytes) (owned cached : Bool) : Dev :=
  if agent < 64 then (if cached then dcFill d agent line b owned else d)
  else respond (portReqDone d (agent - 64) line) (agent - 64)
    (.memData (agent - 64) (portReqOr d (agent - 64) line).hpa b false (if !cached then 0 else if owned then 2 else 3))

/-- The agents to snoop for an operation on an entry, with 1 for SNP_INV (R347, R350). -/
def snoopsFor (e : DirEntry) (op : DirOp) : List (Nat × Nat) :=
  let inv (except : Nat) := ((sharersOf e).filter (· ≠ except)).map (fun a => (a, 1))
  match op with
  | .rdShared a => if e.state = 2 ∧ e.owner ≠ a then [(e.owner, 0)] else []
  | .rdOwn a => inv a
  | .upgrade a => inv a
  | .ncRd => if e.state = 2 then [(e.owner, 0)] else []
  | .evictWay => inv 76
  | .withdraw => inv 76
  | .evict _ => []
  | .ncWr _ _ => inv 76
  | .ncAtomic _ _ _ _ _ => inv 76

/-- The line data for a request: the owner's where its answer was dirty, else memory's (R347).  A failed read fails the
request and leaves the entry as it was. -/
def dirRead (d : Dev) (agent line : Nat) (dirty : Option Bytes) : Dev × Option Bytes :=
  let p := pageOf d (pageOfLine line)
  match dirty with
  | some b => (d, some b)
  | none =>
    if p.tier = 1 ∨ p.tier = 2 then
      let r := homeRead d (Who.unitOnly 4 (homeFloe (pageOfLine line))) line
      match r.2 with
      | .ok b => (r.1, some b)
      | .error e => (dirFail r.1 agent line e.1 0, none)
    else (dirFail d agent line 0x14 0, none)

/-- The line has been used in its set of the directory slice. -/
def useDir (d : Dev) (line : Nat) : Dev :=
  { d with recent := tput d.recent (2 ^ 20 + homeFloe (pageOfLine line) * 131072 + dirSet line) line }

/-- What a non-coherent request comes to is returned to its agent (R350). -/
def ncAnswer (d : Dev) (line : Nat) (r : Except (Nat × Nat) Bytes) : Dev :=
  match r with
  | .ok b => emit d (.nc line 0 b)
  | .error e => emit d (.nc line e.1 [])

/-- The entry of a line whose requester gets no copy, its snoops answered: the copies that `s` names stay tracked, and are
withdrawn where the page is coherent no longer (R352). -/
def keepSharers (d : Dev) (line s : Nat) : Dev :=
  let d := putState d line (if s = 0 then 0 else 1) s 0xFF
  if s = 0 ∨ pageCoherent d (pageOfLine line) then d else startSnoop d line true

/-- The last step of an operation, its snoops answered: data, and the next state of R347 and R350.  `kept` says that
the former owner kept a shared copy; `dirty` is what an answer brought.  A request whose line cannot be read leaves the copies
that its snoops have left (R341). -/
def finishDir (d : Dev) (line : Nat) (op : DirOp) (kept : Option Nat) (dirty : Option Bytes) : Dev :=
  let w := Who.unitOnly 4 (homeFloe (pageOfLine line))
  let e := dirOf d line
  match op with
  | .rdShared a =>
    let r := dirRead d a line dirty
    let s := match kept with
      | some o => agentBit o
      | none => if e.state = 1 then e.sharers else 0
    match r.2 with
    | none => keepSharers r.1 line s
    | some b =>
      if mayCache d a line then dirData (useDir (putState r.1 line 1 (addSharer s a) 0xFF) line) a line b false true
      else dirData (keepSharers r.1 line s) a line b false false
  | .rdOwn a =>
    let r := dirRead d a line dirty
    let s := if bitOf e.sharers a then agentBit a else 0
    match r.2 with
    | none => keepSharers r.1 line s
    | some b =>
      if mayCache d a line then dirData (useDir (putState r.1 line 2 (agentBit a) a) line) a line b true true
      else dirData (keepSharers r.1 line s) a line b false false
  | .upgrade a =>
    let d := if mayCache d a line then useDir (putState d line 2 (agentBit a) a) line
             else startSnoop (putState d line 1 (agentBit a) 0xFF) line true
    if a < 64 then
      if mayCache d a line then modCore d a (fun x => { x with dcache := tmod x.dcache line (fun l => { l with owned := true }) }) else d
    else respond (portReqDone d (a - 64) line) (a - 64) (.memDone (a - 64) (portReqOr d (a - 64) line).hpa)
  | .ncRd =>
    let d := if e.state = 2 then keepSharers d line (match kept with | some o => agentBit o | none => 0) else d
    match dirty with
    | some b => ncAnswer d line (.ok b)
    | none =>
      let r := homeRead d w line
      ncAnswer r.1 line r.2
  | .ncWr b m =>
    let r := homeWrite (putState d line 0 0 0xFF) w line b m
    ncAnswer r.1 line (match r.2 with | none => .ok [] | some e => .error e)
  | .ncAtomic op off size a b =>
    let r := homeAtomic (putState d line 0 0 0xFF) w line op off size a b
    ncAnswer r.1 line (r.2.map (leBytes size))
  | .evictWay => putState d line 0 0 0xFF
  | .withdraw => putState d line 0 0 0xFF
  | .evict a => dropAgent d line a

/-- A request of a non-coherent agent: it is answered with what it comes to. -/
def DirOp.nc (op : DirOp) : Bool :=
  match op with
  | .ncRd => true
  | .ncWr _ _ => true
  | .ncAtomic _ _ _ _ _ => true
  | _ => false

/-- A request of a non-coherent agent that writes. -/
def DirOp.writes (op : DirOp) : Bool :=
  match op with
  | .ncWr _ _ => true
  | .ncAtomic _ _ _ _ _ => true
  | _ => false

/-- A request fails with a status. -/
def failDir (d : Dev) (line : Nat) (op : DirOp) (status : Nat) : Dev :=
  match opAgent op with
  | some a => dirFail d a line status 0
  | none => if op.nc then ncAnswer d line (.error (status, 0)) else d

/-- A request for a line that has become an orphan fails (R354). -/
def failOrphan (d : Dev) (line : Nat) (op : DirOp) : Dev := failDir d line op 0x33

/-- Starts an operation on a line without a transaction: snoops the copies in its way and finishes at once where only
cores hold them. -/
def startDir (d : Dev) (line : Nat) (op : DirOp) : Dev :=
  let e := dirOf d line
  let s := sendSnoops d line (snoopsFor e op)
  if (dirOf s.d line).state = 3 then failOrphan s.d line op
  else if s.wait.isEmpty then
    let kept := match op with
      | .rdShared a => if e.state = 2 ∧ e.owner ≠ a ∧ !s.dropped then some e.owner else none
      | .ncRd => if e.state = 2 ∧ !s.dropped then some e.owner else none
      | _ => none
    finishDir s.d line op kept s.data
  else setDir s.d line { dirOf s.d line with txn := some ⟨op, s.wait, s.data, s.dropped⟩ }

/-- Puts a request into the line wait queue of its slice.  The ones behind the first 1,024 are those that the slice no longer
takes: they wait at the crossbar, in the same order (R347). -/
def waitDir (d : Dev) (line : Nat) (op : DirOp) : Dev := { d with dirWait := d.dirWait ++ [(line, op)] }

/-- The requests that stand in the line wait queue of a slice, or behind it. -/
def dirQueue (d : Dev) (f : Nat) : Nat := d.dirWait.countP (fun w => homeFloe (pageOfLine w.1) == f)

/-- The way evicted for a new entry (R349): neither PENDING nor ORPHAN, SHARED before OWNED, and within a state any but
the most recent, as a free value picks (log entry 5). -/
def dirVictim (d : Dev) (line : Nat) (ways : List (Nat × DirEntry)) : Option Nat :=
  let ok := ways.filter (fun e => e.2.txn.isNone && (e.2.state = 1 || e.2.state = 2))
  let sh := ok.filter (fun e => e.2.state = 1)
  let all := tkeys (if sh.isEmpty then ok else sh)
  let old := all.filter (· ≠ tget d.recent (2 ^ 20 + homeFloe (pageOfLine line) * 131072 + dirSet line) (2 ^ 64))
  let l := if old.isEmpty then all else old
  match l with
  | [] => none
  | x :: _ => some (l.getD (freeVal d % l.length) x)

/-- A request that caches, served without caching because its set is full of orphans (R349). -/
def uncached (d : Dev) (agent line : Nat) : Dev :=
  let d := telF d (homeFloe (pageOfLine line)) 0x1618 1
  let r := dirRead d agent line none
  match r.2 with
  | none => r.1
  | some b => dirData r.1 agent line b false false

/-- What stands against a port's request for a cached copy: no decoder covers the line, or the page is not its context's
(R76). -/
def portBars (d : Dev) (port line : Nat) (own : Bool) : Option (Nat × Nat) :=
  match portReqAt d port line with
  | none => some (0x10, 0)
  | some q => pageCheck d q.ctx (pageOfLine line) own

/-- The end of a transaction leaves its way free. -/
def DirOp.frees (op : DirOp) : Bool :=
  match op with
  | .evictWay => true
  | .withdraw => true
  | .evict _ => true
  | .ncWr _ _ => true
  | .ncAtomic _ _ _ _ _ => true
  | _ => false

/-- Serves a request of an agent on a line without a transaction, allocating its entry (R347, R349). -/
def dirAllocate (d : Dev) (line a : Nat) (op : DirOp) : Dev :=
  let f := homeFloe (pageOfLine line)
  if (dirOf d line).state ≠ 0 then startDir d line op
  else
    let ways := dirWays d line
    if ways.length < 16 then startDir d line op
    else
      match dirVictim d line ways with
      | some v =>
        let d := startDir (telF (useFree d) f 0x1610 1) v .evictWay
        if (dirWays d line).length < 16 then startDir d line op else waitDir d line op
      | none =>
        if ways.any (fun x => x.2.state = 3) && !ways.any (fun x => x.2.txn.any (fun t => t.op.frees)) then uncached d a line
        else waitDir d line op

/-- Serves a request at the directory slice (R347 to R350, R352): an UPGRADE of an agent that is no longer a sharer is one for
RD_OWN when it comes to be served.  A port that may not cache the line is served as for a
plain read (R341, R363). -/
def dirServe (d : Dev) (line : Nat) (asked : DirOp) : Dev :=
  let f := homeFloe (pageOfLine line)
  let e := dirOf d line
  let op := match asked with
    | .upgrade a => if e.txn.isSome ∨ (e.state = 1 ∧ bitOf e.sharers a) then asked else .rdOwn a
    | o => o
  match opAgent op with
  | none =>
    let p := pageOf d (pageOfLine line)
    if !floeRuns d f then failDir d line op 0x42
    else if e.state = 3 then failDir d line op 0x33
    else if op.nc && !(p.tier == 1 || p.tier == 2) then failDir d line op 0x14
    else if op.writes && flushBars d (pageOfLine line) then failDir (gpfMark d) line op 0x44
    else if e.txn.isSome ∨ dirPending d f ≥ 512 then waitDir d line op
    else startDir d line op
  | some a =>
    if !floeOn d f then dirFail d a line 0x42 0
    else if e.state = 3 then dirFail d a line 0x33 0
    else if a ≥ 64 ∧ !mayCache d a line ∧ e.txn.isNone then
      match portReqAt d (a - 64) line with
      | some q => portAt (portReqDone d (a - 64) line) [] q none
      | none => dirFail d a line 0x10 0
    else
      match (if a ≥ 64 then portBars d (a - 64) line (match op with | .rdShared _ => false | _ => true) else none) with
      | some (s, o) => dirFail d a line s o
      | none =>
        if e.txn.isSome ∨ dirPending d f ≥ 512 then waitDir d line op
        else if (pageOf d (pageOfLine line)).tier = 0 then dirFail d a line 0x14 0
        else dirAllocate d line a op

/-- A request arrives at the directory slice and is counted (R359). -/
def dirRequest (d : Dev) (line : Nat) (op : DirOp) : Dev :=
  let f := homeFloe (pageOfLine line)
  if !floeOn d f then failDir d line op 0x42
  else
    let r := dirCode (telF d f 0x1600 1) line
    if r.2 then
      match opAgent op with
      | some a => if a < 64 then accessFault r.1 a (0x20, 4) else dirFail r.1 a line 0x20 0
      | none => failDir r.1 line op 0x20
    else
      let d := match opAgent op with
        | some a =>
          if a < 64 then r.1
          else
            match decodeLine r.1 (a - 64) line with
            | some q => { r.1 with portReqs := tput r.1.portReqs (16 * line + (a - 64)) q }
            | none => r.1
        | none => r.1
      -- behind those that wait for the line, or that the slice cannot take (R347)
      if d.dirWait.any (fun w => w.1 = line) ∨ dirQueue d f ≥ 1024 then waitDir d line op else dirServe d line op

/-- A request for a cached copy: one of a port is one of its CXL.mem requests (R362). -/
def copyRequest (d : Dev) (agent line : Nat) (op : DirOp) : Dev :=
  if agent < 64 then dirRequest d line op else portTakes d (agent - 64) false (fun d => dirRequest d line op)

/-! ### Answers and failures (R348, R352, R353) -/

/-- Completes a transaction whose snoops have all been answered. -/
def endTxn (d : Dev) (line : Nat) (t : DirTxn) : Dev :=
  let e := dirOf d line
  let d := setDir d line { e with txn := none }
  if e.state = 3 then failOrphan d line t.op
  else
    let go (d : Dev) : Dev := finishDir d line t.op (if e.state = 2 ∧ !t.dropped then some e.owner else none) t.data
    if t.op.writes then asAdmitted d go else go d

/-- Dirty data that an answer carries. -/
def dirtyOf (ans : SnoopAnswer) : Option Bytes :=
  match ans with
  | .dirty b => some (slice b 0 64)
  | _ => none

/-- One answer of a transaction: dirty data goes to memory; a failed owner leaves an orphan. -/
def answerSnoop (d : Dev) (agent line : Nat) (ans : SnoopAnswer) (cause : Nat) : Dev :=
  match (dirOf d line).txn with
  | none => d
  | some t =>
    if t.snoops.any (fun s => s.1 = agent) then
      match ans with
      | .writeback => d
      | _ =>
        let d := match ans with
          | .dirty b => telF (dirtyToMemory d agent line (slice b 0 64)) (homeFloe (pageOfLine line)) 0x1620 1
          | .failed => snoopFailed d agent line cause
          | _ => d
        let t := { t with snoops := t.snoops.filter (fun s => s.1 ≠ agent), dropped := t.dropped || ans == .dropped,
                          data := match dirtyOf ans with | some b => some b | none => t.data }
        let d := setDir d line { dirOf d line with txn := some t }
        if t.snoops.isEmpty then endTxn d line t else d
    else d

/-- An agent is failed for coherence: every slice begins its walk, snoops awaited from it are answered as failed, and a
COHERENCE record is written (R353). -/
def failAgent (d : Dev) (agent cause : Nat) : Dev :=
  let d := beginWalk d agent cause
  (tkeys (d.dir.filter (fun e => e.2.txn.isSome))).foldl (fun d l => answerSnoop d agent l .failed cause) d

/-- The end of a slice's walk for its first failed agent (R353): lines it owns become orphans, its bit is cleared
elsewhere. -/
def endWalk (d : Dev) (f : Nat) : Dev :=
  match d.dirWalk.find? (fun w => w.1 = f) with
  | none => d
  | some w =>
    let agent := w.2 % 128
    let cause := w.2 / 128
    let d := (d.dir.filter (fun e => homeFloe (pageOfLine e.1) = f)).foldl (fun d e =>
      if e.2.state = 2 ∧ e.2.owner = agent then makeOrphan d e.1 agent cause
      else if e.2.state = 1 then dropAgent d e.1 agent else d) d
    let d := { d with dirWalk := d.dirWalk.erase w }
    if d.dirWalk.any (fun x => x.2 = w.2) then d
    else
      let (k, i) := if agent < 64 then (2, agent) else (6, agent - 64)
      { d with errq := { d.errq with opens := d.errq.opens.filter (fun o => !(o.kind = k && o.id = i && o.level = 2)) } }

/-- A writeback that crosses a snoop answers it (R352): the owner has kept no copy, or a shared one, which an SNP_INV takes. -/
def wbCrossing (d : Dev) (agent line : Nat) (b : Bytes) (keep : Bool) : Dev :=
  match (dirOf d line).txn with
  | none => d
  | some t =>
    let inv := t.snoops.any (fun s => s.1 = agent ∧ s.2 = 1)
    let d := if agent < 64 ∧ inv then forgetLine line d agent else d
    answerSnoop (setDir d line { dirOf d line with txn := some { t with dropped := t.dropped || !keep || inv } }) agent line (.dirty b) 0

/-- A writeback from an agent (R347, R352, R354): the owner's data goes to memory; a poisoned one leaves an orphan; the
former owner's ends an orphan once it is written; one that crosses a snoop answers it. -/
def writebackOp (d : Dev) (agent line : Nat) (b : Bytes) (keep poison : Bool) : Dev :=
  let e := dirOf d line
  if !floeRuns d (homeFloe (pageOfLine line)) then d
  else if e.state = 3 then
    if e.owner = agent ∧ !poison then
      let r := dirtyBack d agent line (slice b 0 64)
      if r.2 then endOrphan r.1 line else r.1
    else d
  else if e.state = 2 ∧ e.owner = agent then
    if agent < 64 && dcBad d agent line then snoopFailed (dcLost d agent line) agent line 5
    else
    let d := if agent < 64 then (
      if keep then
        modCore d agent (fun x => { x with dcache := tmod x.dcache line (fun l => { l with dirty := false, owned := false }) })
      else dcForget d agent line) else d
    if poison then
      let d := makeOrphan d line agent 6
      match e.txn with
      | some t => endTxn d line { t with snoops := [] }
      | none => d
    else
      match e.txn with
      | some _ => wbCrossing d agent line b keep
      | none =>
        let d := dirtyToMemory d agent line (slice b 0 64)
        if keep then keepSharers d line (agentBit agent) else putState d line 0 0 0xFF
  else d

/-- What a core writes back is its own line; a port's bytes come with its message. -/
def wbBytes (d : Dev) (agent line : Nat) (b : Bytes) : Bytes :=
  if agent < 64 then ((tget? (coreOf d agent).dcache line).map (·.data)).getD b else b

/-- An eviction notice (R347): behind a transaction on the line it waits as any request does.  A core sends it for a clean
line only; it writes a dirty one back. -/
def evictOp (d : Dev) (agent line : Nat) : Dev :=
  if !floeRuns d (homeFloe (pageOfLine line)) || (decide (agent < 64) && (tget? (coreOf d agent).dcache line).any (·.dirty)) then d
  else
    let d := if agent < 64 then dcForget d agent line else d
    if (dirOf d line).txn.isSome then waitDir d line (.evict agent) else dropAgent d line agent

/-- A writeback or an eviction notice reaches the slice: its lookup first (R352), and a port has its completion (R346). -/
def noticeOp (d : Dev) (agent line : Nat) (go : Dev → Dev) : Dev :=
  let take (d : Dev) : Dev :=
    let k := dirCode d line
    if k.2 then k.1 else go k.1
  if agent < 64 then take d
  else
    let q := portReqOr d (agent - 64) line
    portTakes d (agent - 64) true (fun d => respond (take d) (agent - 64) (.memDone (agent - 64) q.hpa))

/-! ### The commands -/

/-- `RD_SHARED` (R347). -/
def execRdShared (agent line : Nat) (s : State) : Host.Outcome State Fault Refusal :=
  onDev (.rdShared agent line) s (fun d => copyRequest d agent line (.rdShared agent))

/-- `RD_OWN` (R347). -/
def execRdOwn (agent line : Nat) (s : State) : Host.Outcome State Fault Refusal :=
  onDev (.rdOwn agent line) s (fun d => copyRequest d agent line (.rdOwn agent))

/-- `UPGRADE` (R347): from an agent that is no longer a sharer it is served as RD_OWN. -/
def execUpgrade (agent line : Nat) (s : State) : Host.Outcome State Fault Refusal :=
  onDev (.upgrade agent line) s (fun d => copyRequest d agent line (.upgrade agent))

/-- `WB` (R347). -/
def execWb (agent line : Nat) (bytes : List Byte) (keep poison : Bool) (s : State) : Host.Outcome State Fault Refusal :=
  onDev (.wb agent line bytes keep poison) s (fun d =>
    noticeOp d agent line (fun d => writebackOp d agent line (wbBytes d agent line bytes) keep poison))

/-- `EVICT` (R347). -/
def execEvict (agent line : Nat) (s : State) : Host.Outcome State Fault Refusal :=
  onDev (.evict agent line) s (fun d => noticeOp d agent line (fun d => evictOp d agent line))

/-- `NC_RD` (R350). -/
def execNcRd (line : Nat) (s : State) : Host.Outcome State Fault Refusal :=
  onDev (.ncRd line) s (fun d => dirRequest d line .ncRd)

/-- `NC_WR` (R350). -/
def execNcWr (line : Nat) (bytes : List Byte) (mask : BitVec 64) (s : State) : Host.Outcome State Fault Refusal :=
  onDev (.ncWr line bytes mask) s (fun d => dirRequest d line (.ncWr (slice bytes 0 64) mask.toNat))

/-- `NC_ATOMIC` (R350). -/
def execNcAtomic (line : Nat) (aop : Atomic) (s : State) : Host.Outcome State Fault Refusal :=
  onDev (.ncAtomic line aop) s (fun d => dirRequest d line (.ncAtomic aop.op aop.off aop.size aop.a aop.b))

/-- One snoop of one agent, where the entry names it (R347). -/
def snoopOne (d : Dev) (agent line : Nat) (inv : Bool) : Dev :=
  let e := dirOf d line
  if e.txn.isSome || !floeOn d (homeFloe (pageOfLine line)) then d
  else if inv ∧ (e.state = 1 ∨ e.state = 2) ∧ bitOf e.sharers agent then
    let s := sendSnoops d line [(agent, 1)]
    if (dirOf s.d line).state = 3 then s.d
    else if s.wait.isEmpty then dropAgent s.d line agent
    else setDir s.d line { dirOf s.d line with txn := some ⟨.evict agent, s.wait, none, false⟩ }
  else if !inv ∧ e.state = 2 ∧ e.owner = agent then startSnoop d line false
  else d

/-- `SNP_SHARE` (R347). -/
def execSnpShare (agent line : Nat) (s : State) : Host.Outcome State Fault Refusal :=
  onDev (.snpShare agent line) s (fun d => snoopOne d agent line false)

/-- `SNP_INV` (R347). -/
def execSnpInv (agent line : Nat) (s : State) : Host.Outcome State Fault Refusal :=
  onDev (.snpInv agent line) s (fun d => snoopOne d agent line true)

/-- `SNOOP_RESPONSE` (R348). -/
def execSnoopResponse (agent line : Nat) (snp : SnoopAnswer) (s : State) : Host.Outcome State Fault Refusal :=
  onDev (.snoopResponse agent line snp) s (fun d => answerSnoop d agent line snp 3)

/-- `SNOOP_TIMEOUT` (R352): an agent whose answer is still awaited is failed with cause 3. -/
def execSnoopTimeout (agent line : Nat) (s : State) : Host.Outcome State Fault Refusal :=
  onDev (.snoopTimeout agent line) s (fun d =>
    if (dirOf d line).txn.any (fun t => t.snoops.any (fun x => x.1 = agent)) then failAgent d agent 3 else d)

/-- `COHERENCE_WALK_DONE` (R353). -/
def execCoherenceWalkDone (f : Nat) (s : State) : Host.Outcome State Fault Refusal :=
  onDev (.coherenceWalkDone f) s (fun d => endWalk d f)

/-- Starts a flush of a slice (R358): every SHARED and OWNED entry is evicted as R349 does, one with a transaction pending after
it. -/
def startDirFlush (d : Dev) (f : Nat) : Dev :=
  let d := { d with dirFlush := if d.dirFlush.contains f then d.dirFlush else d.dirFlush ++ [f] }
  (d.dir.filter (fun e => homeFloe (pageOfLine e.1) = f && (e.2.state = 1 || e.2.state = 2))).foldl (fun d e =>
    let d := telF d f 0x1610 1
    if e.2.txn.isSome || dirFull d e.1 (snoopsFor e.2 .evictWay) then queueDir d e.1 .evictWay else startDir d e.1 .evictWay) d

/-- `DIR_FLUSH` (R358). -/
def execDirFlush (f : Nat) (s : State) : Host.Outcome State Fault Refusal :=
  onDev (.dirFlush f) s (fun d => if floeOn d f then startDirFlush d f else d)

/-- `DIR_FLUSH_DONE` (R358): FLUSH_BUSY clears once no eviction of the slice is pending. -/
def execDirFlushDone (f : Nat) (s : State) : Host.Outcome State Fault Refusal :=
  onDev (.dirFlushDone f) s (fun d =>
    if d.dir.any (fun e => homeFloe (pageOfLine e.1) = f && (match e.2.txn with | some t => t.op == .evictWay | none => false)) ||
        d.dirWait.any (fun w => homeFloe (pageOfLine w.1) = f && w.2 == .evictWay)
    then d else { d with dirFlush := d.dirFlush.filter (· ≠ f) })

/-- The 128 bits of an entry (R343); CHECK is a free value, since its code is not given. -/
def dirBits (d : Dev) (line : Nat) (e : DirEntry) : Nat :=
  e.sharers + e.state * 2 ^ 80 + b2n e.txn.isSome * 2 ^ 82 + e.owner * 2 ^ 88 + (line / 2 ^ 19) * 2 ^ 96 +
    (freeVal d % 256) * 2 ^ 120

/-- Looks up a line for DIR_PROBE (R358). -/
def probeDir (d : Dev) (f addr : Nat) : Dev :=
  let line := addr % 2 ^ 44 / 64
  let r := if homeFloe (pageOfLine line) = f then tget? d.dir line else none
  let v := match r with
    | some e => dirBits d line e
    | none => 0
  let d := useFree d
  { d with dirProbe := tput d.dirProbe f (v % 2 ^ 64, v / 2 ^ 64, b2n r.isSome),
           regs := tput d.regs (floeBase f + 0x140018) (addr % 2 ^ 44) }

/-- `DIR_PROBE` (R358). -/
def execDirProbe (f addr : Nat) (s : State) : Host.Outcome State Fault Refusal :=
  onDev (.dirProbe f addr) s (fun d => if floeOn d f then probeDir d f addr else d)

end Sys2Proof.Machine
end

