-- ==== Sys2Proof/Machine/Target.lean ====
section
/-! DEFINITION. The serving of fabric requests at this device: epochs, lent ranges, the deduplication window, combining,
and each operation at the home floe (R317 to R327, R330 to R334, R455, R456, R481 to R483, R490). -/

namespace Sys2Proof.Machine

open Sys2Proof

/-! ### Whether a request is served (R481 to R483, R490) -/

/-- What the target decides on a request. -/
inductive Admit where
  | yes
  | no (status : Nat)
  /-- its epoch is newer than the target's -/
  | pull
  deriving DecidableEq, Repr

/-- The member entry of a node in a forme. -/
def memberOf (r : FormeRec) (node : Nat) : Option Member := r.members.find? (fun m => m.node = node)

/-- The formes of a map to which this device lends a page. -/
def lentTo (d : Dev) (m : DomainMap) (page : Nat) : List FormeRec :=
  m.formes.filter (fun r => (memberOf r (selfNode d)).any (fun x =>
    decide (x.poolPage ≤ page) && decide (page < x.poolPage + x.poolPages)))

/-- The checks of epoch, expulsion and lent ranges. -/
def admitReq (d : Dev) (r : FabIn) : Admit :=
  let et := epochOf d
  if (nodeOf d.mbr.map r.src).state = 2 then .no 0x31
  else if r.epoch > et then .pull
  else
    let grace := r.epoch + 1 = et ∧ d.now < d.mbr.adopted + 1000 * rf d 0x048E0000 0 16
    if r.epoch ≠ et ∧ ¬ grace then .no 0x32
    else
      let l := lentTo d (if r.epoch = et then d.mbr.map else d.mbr.prev) (r.addr / 65536)
      if l.any (fun f => f.state = 2) then .no 0x31
      else if l.all (fun f => (memberOf f r.src).isSome) then .yes
      else .no 0x32

/-! ### Acknowledgements -/

/-- Sends an acknowledgement for a request to the node of a tag; one that came over a twin link goes back on it. -/
def ackFor (d : Dev) (r : FabIn) (tag node status : Nat) (payload : Bytes) : Dev :=
  let d := if status = 0x32 then telD d 0x3B18 1 else d
  if r.kind ≥ 4 then
    let d := if status = 0 then d else telD d 0x2038 1
    if linkActive d (r.kind - 4) then
      linkSend d (r.kind - 4)
        (frameBytes ⟨2, false, decide (status ≠ 0), 1, status, 1, selfNode d, node, epochOf d, 0, tag, 0, payload⟩)
    else d
  else ackTo d node tag status payload

/-- The tags that the deduplication window records for a request: its own, or those of its members (R326). -/
def recordTags (r : FabIn) (utag : Nat) : List Nat :=
  let t := if combinable r.code r.width then (chunks 8 (r.payload.drop (operandLen r.code))).map leNat else []
  if t.isEmpty then [utag] else t

/-- Records the outcome of a request in the deduplication window (R455). -/
def recordDedup (d : Dev) (r : FabIn) (utag status : Nat) (old : Bytes) (acked : Bool) : Dev :=
  if dedupCode r.code then
    { d with dedup := (recordTags r utag).foldl (fun t u => tput t u ⟨status, old, acked⟩) d.dedup }
  else d

/-- Acknowledges a request and every READ attached to it or atomic combined into it (R325, R326). -/
def ackAll (d : Dev) (utag : Nat) (r : FabIn) (status : Nat) (payload : Bytes) : Dev :=
  (if r.members.isEmpty then [(utag, r.src)] else r.members).foldl (fun d m => ackFor d r m.1 m.2 status payload) d

/-- Answers a request: the outcome is recorded, every attached or combined request gets its acknowledgement, and its
read entry closes (R325, R326). -/
def answer (d : Dev) (utag : Nat) (r : FabIn) (status : Nat) (payload : Bytes) : Dev :=
  let d := { d with reqs := tdel d.reqs utag, entries := d.entries.filter (fun e => e.2.first ≠ utag) }
  let d := recordDedup d r utag status (slice payload 0 8) true
  ackAll d utag r status payload

/-! ### The operations at the home floe (R318, R319) -/

/-- Whose access a fabric request is; its failure is reported at once (R448). -/
def fabWho (utag : Nat) : Who :=
  ⟨10, 0, 0xFFFF, 0xFFFF, true, .run utag⟩

/-- What serving a request came to: an outcome, or a wait after which it is served again. -/
inductive Served where
  | done (status : Nat) (payload : Bytes)
  | later (b : Blocked) (line : Nat)
  deriving DecidableEq, Repr

/-- Where a request finds its line: in the stack or bulk tier of this device, behind another node or a port, or not to be
had now. -/
inductive Found where
  | here
  | pool (p : Page)
  | host (p : Page)
  | no (x : Served)
  deriving DecidableEq, Repr

/-- The place of a line for a request: a page of this device not before the copies in its way are withdrawn, a page of
its pool or host tier where that lies (R87, R99).  A floe that drains serves on what it has taken before (R19). -/
def servePage (d : Dev) (utag page line : Nat) (write : Bool) : Dev × Found :=
  let p := pageOf d page
  let f := homeFloe page
  if !(floeOn d f || (floeRuns d f && (tget? d.reqs utag).any (·.begun))) then (d, .no (.done 0x42 []))
  else if p.tier = 0 then (d, .no (.done 0x14 []))
  else if write && flushBars d page then (gpfMark d, .no (.done 0x44 []))
  else if write && frozen d page then (d, .no (.later .wait line))
  else if p.tier = 3 then (d, .pool p)
  else if p.tier = 4 then (d, if p.mot then .no (.later (.touch page .none) line) else .host p)
  else
    let n := ncReady d line write
    match n.2 with
    | some b => (d, .no (.later b line))
    | none => (n.1, .here)

/-- A read of a far line for a request. -/
def readFar (utag line : Nat) (r : Dev × FarRead) (node : Option Nat) (addr : Nat) : Dev × Except Served Bytes :=
  match r.2 with
  | .data b => (r.1, .ok b)
  | .err s => (r.1, .error (.done s []))
  | .ask => (r.1, .error (.later (.read (.run utag) 0 line node addr) line))
  | .hold => (r.1, .error (.later .wait line))

/-- READ of a line. -/
def readLine (d : Dev) (utag line : Nat) : Dev × Except Served Bytes :=
  let s := servePage d utag (pageOfLine line) line false
  match s.2 with
  | .no x => (s.1, .error x)
  | .pool p => readFar utag line (readPool s.1 [] (.run utag) line p.node (poolAddr p line)) (some p.node) (poolAddr p line)
  | .host _ => readFar utag line (readHost s.1 [] (.run utag) line) none 0
  | .here =>
    let r := homeReadBy s.1 (fabWho utag) line (if (tget? d.reqs utag).any (·.missed) then .before else .access)
    match r.2 with
    | .ok b => (r.1, .ok b)
    | .error e => (r.1, .error (.done e.1 []))

/-- Passes a write or atomic on to the node that holds its page: what this request comes to waits for that one's
acknowledgement. -/
def passOn (d : Dev) (utag code node addr line width : Nat) (payload : Bytes) : Dev × Option Served :=
  match fabRefused d node with
  | some s => (d, some (.done s []))
  | none =>
    if fabFull d then (d, some (.later .wait line))
    else ((issueReq (rewritten d (pageOfLine line)) (.run utag) code node addr line width payload false).1, none)

/-- Writes masked bytes of a line of the host tier for a request. -/
def passHost (d : Dev) (utag line : Nat) (p : Page) (b : Bytes) (mask : Nat) : Dev × Option Served :=
  if !linkUp (portOf d p.port) then (d, some (.done 0x14 []))
  else if hostBusy d line then (d, some (.later .wait line))
  else (hostWrite d 0 (.run utag) line b mask, none)

/-- Performs an atomic on a line of the host tier for a request, which waits for its outcome (R318). -/
def passAtomic (d : Dev) (utag code addr width : Nat) (p : Page) (payload : Bytes) : Dev × Option Served :=
  if !linkUp (portOf d p.port) then (d, some (.done 0x14 [])) else (hostAtomic d 0 (.run utag) code addr width payload false, none)

/-- WRITE of masked bytes of a line. -/
def writeLine (d : Dev) (utag line : Nat) (b : Bytes) (mask : Nat) : Dev × Option Served :=
  let s := servePage d utag (pageOfLine line) line true
  match s.2 with
  | .no x => (s.1, some x)
  | .pool p => passOn s.1 utag 1 p.node (poolAddr p line) line 0 (writePayload mask b)
  | .host p => passHost s.1 utag line p b mask
  | .here =>
    let r := homeWrite s.1 (fabWho utag) line b mask
    (r.1, r.2.map (fun e => .done e.1 []))

/-- An integer atomic; the old value only when fetching. -/
def serveAtomic (d : Dev) (utag : Nat) (r : FabIn) : Dev × Served :=
  let line := r.addr / 64
  let size := if bitOf r.width 0 then 8 else 4
  let off := r.addr % 64
  let old (v : Nat) : Served := .done 0 (if bitOf r.width 1 then leBytes 8 v else [])
  if r.addr % size ≠ 0 then (d, .done 0x18 [])
  else
    let s := servePage d utag (pageOfLine line) line true
    match s.2 with
    | .no x => (s.1, x)
    | .pool p =>
      let q := passOn s.1 utag r.code p.node (poolAddr p line + off) line r.width (slice r.payload 0 (operandLen r.code))
      (q.1, q.2.getD (.done 0 []))
    | .host p =>
      let q := passAtomic s.1 utag r.code r.addr r.width p (slice r.payload 0 (operandLen r.code))
      (q.1, q.2.getD (.done 0 []))
    | .here =>
      let q := homeAtomic s.1 (fabWho utag) line r.code off size (fieldAt r.payload 0 8) (fieldAt r.payload 8 8)
      match q.2 with
      | .ok v => (q.1, old v)
      | .error e => (q.1, .done e.1 [])

/-- A cell that fails its check in a request: SLUG_CRC, with the INTEGRITY record of its home floe (R143, R438). -/
def cellBad (d : Dev) (utag line : Nat) : Dev :=
  let f := homeFloe (pageOfLine line)
  intFailed d (fabWho utag) 1 1 f (line * 64) f 0 0 7 0x26 0

/-- An exact-add of one cell at an address. -/
def addCell (d : Dev) (utag addr : Nat) (cell : Bytes) : Dev × Option Served :=
  let line := addr / 64
  if addr % 32 ≠ 0 then (d, some (.done 0x18 []))
  else
    match slugOf cell with
    | none => (cellBad d utag line, some (.done 0x26 []))
    | some s =>
      let p := servePage d utag (pageOfLine line) line true
      match p.2 with
      | .no x => (p.1, some x)
      | .pool g => passOn p.1 utag 0x12 g.node (poolAddr g line + addr % 64) line 0 (slice cell 0 32)
      | .host g => passAtomic p.1 utag 0x12 addr 0 g (slice cell 0 32)
      | .here =>
        let r := homeExactAdd p.1 (fabWho utag) line (addr % 64) s
        (r.1, r.2.map (fun e => .done e.1 []))

/-! ### Runs (R330 to R334; the layout of their payloads is a DESIGN CHOICE, log entry 25) -/

/-- Goes through a run until a line fails or waits: the lines done and what ended it. -/
def runLines (d : Dev) (n : Nat) (f : Dev → Nat → Dev × Option Served) : Dev × Nat × Option Served :=
  (List.range n).foldl (fun (s : Dev × Nat × Option Served) i =>
    match s.2.2 with
    | some _ => s
    | none =>
      let r := f s.1 i
      match r.2 with
      | some x => (r.1, s.2.1, some x)
      | none => (r.1, s.2.1 + 1, none)) (d, 0, none)

/-- The outcome of a run: its status, and the 8 bytes that its acknowledgement carries (R317, R455): the lines done where it fails. -/
def runDone (s : Dev × Nat × Option Served) (ok : Bytes) : Dev × Served :=
  match s.2.2 with
  | none => (s.1, .done 0 ok)
  | some (.done e _) => (s.1, .done e (leBytes 4 s.2.1 ++ zeros 4))
  | some x => (s.1, x)

/-- FILL_RUN: an 8-byte pattern and a number of lines. -/
def serveFill (d : Dev) (utag : Nat) (r : FabIn) : Dev × Served :=
  let b := (List.replicate 8 (slice r.payload 0 8)).flatten
  let n := fieldAt r.payload 8 4
  runDone (runLines d n (fun d i => writeLine d utag (r.addr / 64 + i) b (2 ^ 64 - 1))) (leBytes 4 n ++ zeros 4)

/-- What lines have come to: their number, those that differ from what they were compared with, the lowest differing byte
offset, and the CRC-64 of their bytes. -/
structure Compared where
  lines : Nat
  diff : Nat
  first : Nat
  digest : Nat
  deriving DecidableEq, Repr

/-- No line yet. -/
def Compared.start : Compared := ⟨0, 0, 2 ^ 64 - 1, 0⟩

/-- One line more, with what it is compared with. -/
def Compared.add (s : Compared) (a b : Bytes) : Compared :=
  let j := (List.zip a b).findIdx? (fun p => p.1 != p.2)
  { lines := s.lines + 1, diff := s.diff + b2n j.isSome, digest := crc64From s.digest a,
    first := match j with | some o => min s.first (64 * s.lines + o) | none => s.first }

/-- Goes through the lines of a run that is read: `f` gives a line and what it is compared with. -/
def readLines (d : Dev) (n : Nat) (f : Dev → Nat → Dev × Except Served (Bytes × Bytes)) : Dev × Compared × Option Served :=
  (List.range n).foldl (fun (s : Dev × Compared × Option Served) i =>
    match s.2.2 with
    | some _ => s
    | none =>
      let r := f s.1 i
      match r.2 with
      | .error x => (r.1, s.2.1, some x)
      | .ok b => (r.1, s.2.1.add b.1 b.2, none)) (d, Compared.start, none)

/-- The name of a line of another node that a run reaches: no placement entry of this device leads there. -/
def nodeLine (node addr : Nat) : Nat := 2 ^ 48 + globalLine node addr

/-- COPY_RUN: the global address of the destination and a number of lines.  Lines for another node are written there,
and the run is acknowledged after them; a run that succeeds brings the CRC-64 of its lines. -/
def serveCopy (d : Dev) (utag : Nat) (r : FabIn) : Dev × Served :=
  let dst := fieldAt r.payload 0 8
  let s := readLines d (fieldAt r.payload 8 4) (fun d i =>
    let x := readLine d utag (r.addr / 64 + i)
    match x.2 with
    | .error e => (x.1, .error e)
    | .ok b =>
      let a := dst % 2 ^ 44 + 64 * i
      let w :=
        if dst / 2 ^ 44 = selfNode d then writeLine x.1 utag (a / 64) b (2 ^ 64 - 1)
        else
          match fabRefused x.1 (dst / 2 ^ 44) with
          | some s => (x.1, some (.done s []))
          | none => ((issueReq x.1 (.run utag) 1 (dst / 2 ^ 44) a (nodeLine (dst / 2 ^ 44) a) 0 (writePayload (2 ^ 64 - 1) b) false).1, none)
      match w.2 with
      | some e => (w.1, .error e)
      | none => (w.1, .ok (b, b)))
  runDone (s.1, s.2.1.lines, s.2.2) (leBytes 8 s.2.1.digest)

/-- A line at a global address, for a request: one of this device, or one that another node is asked for. -/
def readGlobal (d : Dev) (utag node addr : Nat) : Dev × Except Served Bytes :=
  if node = selfNode d then readLine d utag (addr / 64)
  else readFar utag (nodeLine node addr) (readPool d [] (.run utag) (nodeLine node addr) node addr) (some node) addr

/-- COMPARE_RUN: a pattern, or the global address of B, whose lines travel here (R333); a number of lines; then bit 0 for a
pattern, and in bits [2:1] which 8 bytes are asked for: the lines compared and those that differ, the lowest differing byte
offset, or the CRC-64 of A's lines. -/
def serveCompare (d : Dev) (utag : Nat) (r : FabIn) : Dev × Served :=
  let fl := fieldAt r.payload 12 1
  let at_ := fieldAt r.payload 0 8
  let s := readLines d (fieldAt r.payload 8 4) (fun d i =>
    let x := readLine d utag (r.addr / 64 + i)
    match x.2 with
    | .error e => (x.1, .error e)
    | .ok a =>
      if bitOf fl 0 then (x.1, .ok (a, (List.replicate 8 (slice r.payload 0 8)).flatten))
      else if bits fl 1 2 = 2 then (x.1, .ok (a, a))
      else
        let y := readGlobal x.1 utag (at_ / 2 ^ 44) (at_ % 2 ^ 44 + 64 * i)
        (y.1, y.2.map (fun b => (a, b))))
  let c := s.2.1
  runDone (s.1, c.lines, s.2.2)
    (if bits fl 1 2 = 0 then leBytes 4 c.lines ++ leBytes 4 c.diff else if bits fl 1 2 = 1 then leBytes 8 c.first else leBytes 8 c.digest)

/-- REDUCE_PART: cells that are exact-added from ADDR on. -/
def servePart (d : Dev) (utag : Nat) (r : FabIn) : Dev × Served :=
  let cells := chunks 32 r.payload
  runDone (runLines d cells.length (fun d i => addCell d utag (r.addr + 32 * i) (slice r.payload (32 * i) 32)))
    (leBytes 4 cells.length ++ zeros 4)

/-! ### Serving -/

/-- Performs a request at the home floe. -/
def performReq (d : Dev) (utag : Nat) (r : FabIn) : Dev × Served :=
  let line := r.addr / 64
  if r.code = 0 then
    let x := readLine d utag line
    match x.2 with
    | .ok b => (x.1, .done 0 b)
    | .error e => (x.1, e)
  else if r.code = 1 then
    let x := writeLine d utag line (r.payload.drop 8) (fieldAt r.payload 0 8)
    (x.1, x.2.getD (.done 0 []))
  else if 8 ≤ r.code ∧ r.code ≤ 0x11 then serveAtomic d utag r
  else if r.code = 0x12 then
    let x := addCell d utag r.addr (slice r.payload 0 32)
    (x.1, x.2.getD (.done 0 []))
  else if r.code = 0x18 then serveFill d utag r
  else if r.code = 0x19 then serveCopy d utag r
  else if r.code = 0x1A then serveCompare d utag r
  else if r.code = 0x1B then servePart d utag r
  else (d, .done 0x18 [])

/-- Serves a request that has reached its home floe.  It waits in `reqs` for a newer map, a touch fault, a packed block,
copies in its way, or the acknowledgements of what it has written elsewhere. -/
def serveReq (d : Dev) (utag : Nat) : Dev :=
  match tget? d.reqs utag with
  | none => d
  | some r =>
    if r.waits then d
    else
      let known := if dedupCode r.code then (recordTags r utag).filterMap (tget? d.dedup) else []
      match known with
      | e :: _ =>
        let d := { telD d 0x3900 1 with reqs := tdel d.reqs utag }
        let old := if bitOf r.width 1 || decide (r.code ≥ 0x18) then e.old else []
        if known.length ≠ (recordTags r utag).length ∨ known.any (fun k => k.status ≠ e.status) then ackAll d utag r 0xFF []
        else if known.all (·.acked) then ackAll d utag r e.status old
        else d
      | [] =>
        if dedupCode r.code ∧ d.sw.refusing then ackAll { d with reqs := tdel d.reqs utag } utag r 0xFF []
        else if dedupCode r.code ∧ d.dedup.length ≥ 4096 then
          let d := logErr (telD { d with reqs := tdel d.reqs utag } 0x3908 1) 6 1 8 0 0xFFFF
            (errBody (selfNode d * 2 ^ 44 + r.addr) 0x40 0 0xFFFF r.code utag) true
          ackAll d utag r 0x40 []
        else
          match admitReq d r with
          | .no s => answer d utag r s []
          | .pull =>
            if d.mbr.pulls.contains utag then d
            else sendMgmt { d with mbr := { d.mbr with pulls := d.mbr.pulls ++ [utag] } } r.src 11 (leBytes 4 r.epoch ++ zeros 4)
          | .yes =>
            let taken (d : Dev) : Dev := { d with reqs := tmod d.reqs utag (fun q => { q with begun := true }) }
            if r.code = 0 ∧ floeOn d (homeFloe (r.addr / 65536)) ∧ packedWait d (r.addr / 64) then
              taken (waitPacked d (r.addr / 64) (.fabric utag))
            else
              let s := performReq d utag r
              match s.2 with
              | .later (.touch p _) _ =>
                match startTouch d p [.fabric utag] with
                | .ok d => taken d
                | .error s => answer d utag r s []
              | .later b l => taken (unblock (waitLine d l (.fabric utag)) b)
              | .done st pl =>
                if owes s.1 (.run utag) then
                  recordDedup { s.1 with reqs := tput s.1.reqs utag { r with waits := true, status := st, result := pl } }
                    r utag st (slice pl 0 8) false
                else answer s.1 utag r st pl

/-- A request whose writes elsewhere have all been acknowledged is answered, under the first failure among them. -/
def finishRun (d : Dev) (utag : Nat) : Dev :=
  match tget? d.reqs utag with
  | none => d
  | some r => if r.waits && !owes d (.run utag) then answer d utag r r.status r.result else d

/-- The old value that an atomic passed on has brought, for the one who asked for it. -/
def noteOld (d : Dev) (utag old : Nat) : Dev := { d with reqs := tmod d.reqs utag (fun r => { r with result := leBytes 8 old }) }

/-- Notes a failed write of a run. -/
def failRun (d : Dev) (utag status : Nat) : Dev :=
  { d with reqs := tmod d.reqs utag (fun r => if r.status = 0 then { r with status := status } else r) }

/-- Serves the request of a tag where it is of a given code. -/
def serveCode (d : Dev) (utag code : Nat) : Dev :=
  match tget? d.reqs utag with
  | some r => if r.code = code then serveReq d utag else d
  | none => d

/-! ### Arrival at this device's switch core: combining (R325, R326) -/

/-- The key of a group: its address, operation and width. -/
def groupKey (r : FabIn) : Nat := (r.addr * 256 + r.code) * 4 + r.width % 4

/-- Releases a group to its home floe: it becomes one request under its first member's tag. -/
def releaseGroup (d : Dev) (key : Nat) : Dev :=
  match tget? d.groups key with
  | none => d
  | some g =>
    let first := g.members.headD (0, 0)
    let d := { d with groups := tdel d.groups key }
    let r : FabIn := { kind := 0, code := g.code, src := first.2, epoch := g.epoch, width := g.width, addr := key / 1024,
                       payload := g.operand ++ g.tags.flatMap (leBytes 8), error := false, members := g.members,
                       waits := false, status := 0, result := [], begun := false, missed := false }
    { d with reqs := tput d.reqs first.1 r }

/-- A code that R317 does not list. -/
def reservedCode (code : Nat) : Bool := !(decide (code < 2) || (decide (8 ≤ code) && decide (code ≤ 0x12)) || (decide (0x18 ≤ code) && decide (code ≤ 0x1B)))

/-- A request sent again while the first one is still here: each of the two will have its acknowledgement (R321). -/
def resent (r : FabIn) (first utag src : Nat) : FabIn :=
  { r with members := (if r.members.isEmpty then [(first, r.src)] else r.members) ++ [(utag, src)] }

/-- A request for this device reaches its switch core: it closes and opens read entries, joins a read or a group, or
goes to its home floe.  A reserved code is answered at once (R317). -/
def arriveReq (d : Dev) (utag : Nat) (r : FabIn) : Dev :=
  let line := r.addr / 64
  if reservedCode r.code then ackAll d utag r 0x18 []
  else
  match d.reqs.find? (fun q => q.1 = utag ∨ (decide (8 ≤ r.code) && (recordTags q.2 q.1).contains utag)) with
  | some q => { d with reqs := tput d.reqs q.1 (resent q.2 q.1 utag r.src) }
  | none =>
  let plain (d : Dev) := { d with reqs := tput d.reqs utag r }
  if r.code = 0 then
    match tget? d.entries line with
    | some e =>
      let ok := rf d 0x048F0000 0 1 = 1 ∧ e.attached.length + 1 < e.most ∧ admitReq d r = .yes ∧ e.first ≠ utag
      match tget? d.reqs e.first with
      | some q =>
        if ok ∧ admitReq d q = .yes then
          let ms := (if q.members.isEmpty then [(e.first, q.src)] else q.members) ++ [(utag, r.src)]
          telD { d with reqs := tput d.reqs e.first { q with members := ms },
                        entries := tput d.entries line { e with attached := e.attached ++ [(utag, r.src)] } } 0x2018 1
        else plain d
      | none => plain d
    | none =>
      let d := plain d
      if rf d 0x048F0000 0 1 = 1 ∧ rf d 0x048F0008 16 9 ≠ 0 ∧ d.entries.length + d.fwdReads.length < 1024 then
        { d with entries := tput d.entries line ⟨utag, [], readGroup d⟩ }
      else d
  else
    let d := if r.code < 0x18 then { d with entries := tdel d.entries line } else d
    let fresh := ((recordTags r utag).all (fun t => !thas d.dedup t)) && !d.sw.refusing
    if combinable r.code r.width && rf d 0x048F0000 1 1 == 1 && rf d 0x048F0008 0 9 != 0 && fresh && decide (admitReq d r = .yes) then
      let key := groupKey r
      let tags := recordTags r utag
      match tget? d.groups key with
      | none =>
        let g : AtomGroup := ⟨r.code, r.width, slice r.payload 0 (operandLen r.code), [(utag, r.src)], tags, r.epoch, atomicGroup d⟩
        let d := { d with groups := tput d.groups key g }
        if tags.length ≥ atomicGroup d then releaseGroup d key else d
      | some g =>
        if tags.all (g.tags.contains ·) then
          { d with groups := tput d.groups key { g with members := g.members ++ [(utag, r.src)] } }
        else if tags.any (g.tags.contains ·) ∨ g.tags.length + tags.length > g.most then plain d
        else
          match combineOperand r.code r.width g.operand r.payload with
          | none => plain d
          | some o =>
            let d := telD { d with groups := tput d.groups key { g with operand := o, members := g.members ++ [(utag, r.src)],
                                                                        tags := g.tags ++ tags } } 0x2020 1
            if g.tags.length + tags.length ≥ g.most then releaseGroup d key else d
    else plain d

/-! ### The commands -/

/-- `READ` (R319). -/
def execRead (utag : Nat) (s : State) : Host.Outcome State Fault Refusal :=
  onDev (.read utag) s (fun d => serveCode d utag 0x00)

/-- `WRITE` (R319). -/
def execWrite (utag : Nat) (s : State) : Host.Outcome State Fault Refusal :=
  onDev (.write utag) s (fun d => serveCode d utag 0x01)

/-- `ADD` (R318). -/
def execAdd (utag : Nat) (s : State) : Host.Outcome State Fault Refusal :=
  onDev (.add utag) s (fun d => serveCode d utag 0x08)

/-- `AND` (R318). -/
def execAnd (utag : Nat) (s : State) : Host.Outcome State Fault Refusal :=
  onDev (.and utag) s (fun d => serveCode d utag 0x09)

/-- `OR` (R318). -/
def execOr (utag : Nat) (s : State) : Host.Outcome State Fault Refusal :=
  onDev (.or utag) s (fun d => serveCode d utag 0x0A)

/-- `XOR` (R318). -/
def execXor (utag : Nat) (s : State) : Host.Outcome State Fault Refusal :=
  onDev (.xor utag) s (fun d => serveCode d utag 0x0B)

/-- `MIN` (R318). -/
def execMin (utag : Nat) (s : State) : Host.Outcome State Fault Refusal :=
  onDev (.min utag) s (fun d => serveCode d utag 0x0C)

/-- `MAX` (R318). -/
def execMax (utag : Nat) (s : State) : Host.Outcome State Fault Refusal :=
  onDev (.max utag) s (fun d => serveCode d utag 0x0D)

/-- `UMIN` (R318). -/
def execUmin (utag : Nat) (s : State) : Host.Outcome State Fault Refusal :=
  onDev (.umin utag) s (fun d => serveCode d utag 0x0E)

/-- `UMAX` (R318). -/
def execUmax (utag : Nat) (s : State) : Host.Outcome State Fault Refusal :=
  onDev (.umax utag) s (fun d => serveCode d utag 0x0F)

/-- `SWAP` (R318). -/
def execSwap (utag : Nat) (s : State) : Host.Outcome State Fault Refusal :=
  onDev (.swap utag) s (fun d => serveCode d utag 0x10)

/-- `CAS` (R318). -/
def execCas (utag : Nat) (s : State) : Host.Outcome State Fault Refusal :=
  onDev (.cas utag) s (fun d => serveCode d utag 0x11)

/-- `EXACT_ADD` (R318). -/
def execExactAdd (utag : Nat) (s : State) : Host.Outcome State Fault Refusal :=
  onDev (.exactAdd utag) s (fun d => serveCode d utag 0x12)

/-- `FILL_RUN` (R330). -/
def execFillRun (utag : Nat) (s : State) : Host.Outcome State Fault Refusal :=
  onDev (.fillRun utag) s (fun d => serveCode d utag 0x18)

/-- `COPY_RUN` (R332). -/
def execCopyRun (utag : Nat) (s : State) : Host.Outcome State Fault Refusal :=
  onDev (.copyRun utag) s (fun d => serveCode d utag 0x19)

/-- `COMPARE_RUN` (R333). -/
def execCompareRun (utag : Nat) (s : State) : Host.Outcome State Fault Refusal :=
  onDev (.compareRun utag) s (fun d => serveCode d utag 0x1A)

/-- `REDUCE_PART` (R334). -/
def execReducePart (utag : Nat) (s : State) : Host.Outcome State Fault Refusal :=
  onDev (.reducePart utag) s (fun d => serveCode d utag 0x1B)

/-- `READ_COMBINE_EXPIRE` (R325): the entries of a line, at this device and on the way to another, take no further READ. -/
def execReadCombineExpire (ga : Nat) (s : State) : Host.Outcome State Fault Refusal :=
  onDev (.readCombineExpire ga) s (fun d =>
    { d with entries := tdel d.entries (ga / 64), fwdReads := tdel d.fwdReads (ga / 64) })

/-- `ATOMIC_HOLD_EXPIRE` (R326): the groups that hold atomics to an address go to their home floe. -/
def execAtomicHoldExpire (ga : Nat) (s : State) : Host.Outcome State Fault Refusal :=
  onDev (.atomicHoldExpire ga) s (fun d =>
    (tkeys (d.groups.filter (fun g => g.1 / 1024 = ga))).foldl releaseGroup d)

/-- `DEDUP_ENTRY_EXPIRE` (R455): an entry is held for 10 ms after its acknowledgement was sent. -/
def execDedupEntryExpire (utag : Nat) (s : State) : Host.Outcome State Fault Refusal :=
  onDev (.dedupEntryExpire utag) s (fun d =>
    match tget? d.dedup utag with
    | some e => if e.acked then { d with dedup := tdel d.dedup utag } else d
    | none => d)

/-- `DEDUP_REFUSAL_END` (R456). -/
def execDedupRefusalEnd (s : State) : Host.Outcome State Fault Refusal :=
  onDev .dedupRefusalEnd s (fun d => { d with sw := { d.sw with refusing := false } })

end Sys2Proof.Machine
end

