-- ==== Sys2Proof/Machine/Wait.lean ====
section
/-! DEFINITION. What ends a wait: fabric acknowledgements and their timers at the sender, held writes, touch faults,
packed decodes and the line wait queue (R97, R100, R320 to R323, R347, R454, R456, R484, R496). -/

namespace Sys2Proof.Machine

open Sys2Proof

/-! ### Owners -/

/-- Something owed to an owner has come: what was waiting for the last of it goes on. -/
def settleOwner (d : Dev) (o : Owner) : Dev :=
  match o with
  | .cmd t => tryComplete d t
  | .run u => finishRun d u
  | _ => d

/-- Bytes of a refused line that the RESULT_COUNT of ENCODE and DECODE does not count (R311). -/
def maskCount (m : Nat) : Nat := (List.range 64).countP (fun i => bitOf m i)

/-- An access of a command failed after it was issued: the proof carries the status of the failed access with the
lowest address, and what was not written or compared is taken from the count: lines of FILL, COPY and COMPARE (R330), bytes of
ENCODE and DECODE (R311). -/
def failLater (c : Cmd) (r : FabReq) (status : Nat) (payload : Bytes) : Cmd :=
  let run := 0x18 ≤ r.code ∧ r.code ≤ 0x1A
  let done := if run then fieldAt payload 0 4 else 0
  let lost := (if run then fieldAt r.payload 8 4 else 1) - done
  let caddr := r.caddr + 64 * done
  let c := { c with writes := if c.opcode = 0x22 then c.writes else c.writes - lost, count :=
    if c.opcode = 0x20 ∨ c.opcode = 0x21 ∨ (r.code = 0x1A ∧ bits (fieldAt r.payload 12 1) 1 2 = 0) then c.count - lost
    else if c.opcode = 0x18 ∨ c.opcode = 0x19 then c.count - maskCount (fieldAt r.payload 0 8)
    else c.count }
  if okStatus c.status ∨ c.failAt.any (fun a => decide (caddr < a)) then
    { c with status := status, detail := 0, digest := 0, failAt := some caddr }
  else c

/-- A 4-byte or 8-byte value as an integer register of a core holds it. -/
def extendReg (size v : Nat) : Nat := if size = 4 then ofSigned 64 (toSigned 32 v) else v % 2 ^ 64

/-- Writes an integer register of a core; x0 stays zero. -/
def setX (d : Dev) (c rd v : Nat) : Dev :=
  let d := if rd = 0 then d else modCore d c (fun x => { x with xregs := tput x.xregs rd (v % 2 ^ 64) })
  emit d (.load c rd (v % 2 ^ 64))

/-- The core that an owner names. -/
def Owner.core (o : Owner) : Option Nat :=
  match o with
  | .stream c _ => some c
  | .chan c _ => some c
  | .scalar c _ _ => some c
  | _ => Option.none

/-- Whose accesses those of an owner are, as records name them (R85, R438): a command's, or a core's. -/
def ownerWho (d : Dev) (o : Owner) : Option Who :=
  match o with
  | .cmd t => (cmdOf d t).map (fun c => c.who t c.src)
  | .stream c st => some (coreWho d c (1 + st) o)
  | .chan c _ => some (coreWho d c 3 o)
  | .scalar c _ _ => some (coreWho d c 0 o)
  | _ => none

/-- The range generation of an owner's work. -/
def ownerGen (d : Dev) (o : Owner) : Nat :=
  match o with
  | .cmd t => ((cmdOf d t).map (·.gen)).getD 0
  | _ => (o.core.map (coreGen d)).getD 0

/-- ACCESS of a request, as R85 numbers it. -/
def FabReq.access (r : FabReq) : Nat := if r.code = 0 ∨ r.code = 0x1A then 0 else if 8 ≤ r.code ∧ r.code ≤ 0x12 then 2 else 1

/-- A write or atomic that was refused after it had been issued is a refused access of its command (R85). -/
def refusedAck (d : Dev) (r : FabReq) (status : Nat) : Dev :=
  match ownerWho d r.owner with
  | some w =>
    if transStatus status then
      transFail d w r.caddr (r.line * 64) status r.access (((findRange d w.ctx (ownerGen d r.owner) r.caddr).map (·.1)).getD 0xFFFF) 0
    else d
  | none => d

/-- The outcome of an owner's request: a failure ends the work as R71, R176, R364 and R399 give. -/
def ackOwner (dev : Dev) (r : FabReq) (status : Nat) (payload : Bytes) : Dev :=
  let d := refusedAck dev r status
  match r.owner with
  | .cmd t =>
    let d1 := modCmd d t (fun c => if status = 0 then noteRun c r payload else failLater c r status payload)
    -- no block above the refused line is written (R310)
    if status ≠ 0 ∧ (cmdOf d t).any Cmd.coding then endCmd d1 t id else tryComplete d1 t
  | .stream c _ => if status = 0 then d else accessFault d c (status, 0)
  | .chan c h =>
    if status ≠ 0 then haltChan d c h status 0 r.caddr true false
    else if 8 ≤ r.code ∧ r.code ≤ 0x11 ∧ bitOf r.width 1 then
      modCore d c (fun x => lmWrite x r.la (slice payload 0 (if bitOf r.width 0 then 8 else 4)))
    else d
  | .scalar c rd size =>
    if status ≠ 0 then accessFault d c (status, 0)
    else if r.code ≥ 8 ∧ bitOf r.width 1 then setX d c rd (extendReg size (fieldAt payload 0 8))
    else d
  | .port q => if status = 0 then respond d q.port (.memDone q.port q.hpa) else portFail d q status 0 true
  | .run u =>
    finishRun (if status ≠ 0 then failRun d u status
               else if 8 ≤ r.code ∧ r.code ≤ 0x11 ∧ bitOf r.width 1 then noteOld d u (fieldAt payload 0 8) else d) u
  | _ => d

/-! ### Reads that have been answered (R99, R317) -/

/-- The work of an owner that may still want the answer to a read goes on. -/
def wantsRead (d : Dev) (o : Owner) : Bool :=
  match o with
  | .cmd t => (cmdOf d t).any (fun c => decide (c.phase < 3))
  | .stream c _ => decide ((coreOf d c).state = 2 ∨ (coreOf d c).state = 3)
  | .chan c _ => decide ((coreOf d c).state = 2 ∨ (coreOf d c).state = 3)
  | .scalar c _ _ => decide ((coreOf d c).state = 2 ∨ (coreOf d c).state = 3)
  | .proof ctx g => thas d.galleys (gkey ctx g)
  | .svc m id => (svcOf d m id).isSome
  | _ => false

/-- Serves again an access that has waited. -/
def servedAgain (d : Dev) (line : Nat) (w : Waiter) (serve : Dev → Dev) : Dev :=
  match d.lineWait.find? (fun x => x.1 = line ∧ x.2 = w) with
  | some x => serve { d with lineWait := d.lineWait.erase x }
  | none => d

/-- The answer to a read of a far line: kept for engine work, which is performed again; an access of a port or a peer
goes on at once.  One that nothing waits for any longer is discarded (R102). -/
def readDone (d : Dev) (r : KeptRead) : Dev :=
  match r.owner with
  | .port q => servedAgain d r.line (.portRead q) (fun d => portAt (keepRead d r) [] q none)
  | .run u => servedAgain d r.line (.fabric u) (fun d => serveReq (keepRead d r) u)
  | o => if wantsRead d o then keepRead d r else discardRead d r

/-- An acknowledgement as the answer to a read. -/
def ackAnswer (status : Nat) (payload : Bytes) : FarAnswer := if status = 0 then .data (slice payload 0 64) else .err status

/-! ### Mirroring (R496) -/

/-- Marks a page for resynchronisation (R497). -/
def markPage (d : Dev) (page : Nat) : Dev :=
  { d with mbr := { d.mbr with marked := if d.mbr.marked.contains page then d.mbr.marked else d.mbr.marked ++ [page] } }

/-- The access that waited for a mirrored line completes. -/
def mirrorDone (d : Dev) (o : Owner) : Dev :=
  match o with
  | .port q => respond d q.port (.memDone q.port q.hpa)
  | o => settleOwner d o

/-- The twin has acknowledged a mirrored line; an error leaves its page marked. -/
def mirrorAck (d : Dev) (u line status : Nat) : Dev :=
  let d := telD (if status = 0 then d else markPage d (pageOfLine line)) 0x3B38 1
  match d.mbr.sync.find? (fun s => s.1 = u) with
  | some (_, o) => mirrorDone { d with mbr := { d.mbr with sync := d.mbr.sync.filter (fun s => s.1 ≠ u) } } o
  | none =>
    match d.mbr.log with
    | (l, _) :: rest => if l = line then pumpLog { d with mbr := { d.mbr with log := rest } } else d
    | [] => d

/-! ### The end of a request -/

/-- Sends a request that was held. -/
def sendHeld (d : Dev) (u : Nat) : Dev :=
  match tget? d.fab u with
  | some r =>
    let r := { r with held := false, first := d.now }
    sendReq { d with fab := tput d.fab u r } u r
  | none => d

/-- A request on a line of the host tier that waited only for what stood before it on the line, and may begin. -/
def hostReady (d : Dev) (r : FabReq) : Bool :=
  let p := pageOf d (pageOfLine r.line)
  r.held && !r.final && decide (8 ≤ r.code) && r.dst == selfNode d && r.after.isEmpty && r.prog == 0 && p.tier == 4 && !p.mot &&
    linkUp (portOf d p.port) && !frozen d (pageOfLine r.line)

/-- A request has its last acknowledgement: what was held behind it may go; a final write remembers a failure (R320,
R322, R454). -/
def releaseBehind (d : Dev) (u status : Nat) : Dev :=
  let fab := d.fab.map (fun q =>
    if q.2.after.contains u then
      (q.1, { q.2 with after := q.2.after.filter (· ≠ u), bad := if status ≠ 0 ∧ q.2.bad = 0 then status else q.2.bad })
    else q)
  let go := (tkeys (fab.filter (fun q => q.2.held && !q.2.final && q.2.after.isEmpty && q.2.dst != selfNode d)))
  let d := (go.take (16384 - fab.countP (fun q => !q.2.held))).foldl sendHeld { d with fab := fab }
  (tkeys (d.fab.filter (fun q => hostReady d q.2))).foldl startHost d

/-- What reads by commands have brought of a line, or may still bring, is older than a write that is acknowledged now: they
read again, so that a page that is copied away holds every write (R103). -/
def staleReads (d : Dev) (o : Owner → Bool) (key : Nat) (dst addr : Nat) : Dev :=
  { d with
    reads := d.reads.filter (fun r => !(o r.owner && r.key == key)),
    fab := d.fab.map (fun r => (r.1, if r.2.code = 0 ∧ r.2.dst = dst ∧ r.2.addr / 64 = addr / 64 ∧ o r.2.owner then { r.2 with owner := .none } else r.2)) }

/-- An owner is a command. -/
def Owner.isCmd : Owner → Bool
  | .cmd _ => true
  | _ => false

/-- What a request was for goes on under its outcome. -/
def outcome (d : Dev) (u : Nat) (r : FabReq) (status : Nat) (payload : Bytes) : Dev :=
  if r.owner = .mirror then mirrorAck d u r.line status
  else if r.code = 0 then readDone d ⟨r.owner, poolKey r.dst r.addr, ackAnswer status payload, r.caddr, r.line⟩
  else ackOwner (staleReads d Owner.isCmd (poolKey r.dst (r.addr / 64 * 64)) r.dst r.addr) r status payload

/-- Ends a request with a status.  A final write does not fail for a line that the twin has not taken. -/
def endReq (d : Dev) (u : Nat) (r : FabReq) (status : Nat) (payload : Bytes) : Dev :=
  releaseBehind (outcome { d with fab := tdel d.fab u } u r status payload) u (if r.owner = .mirror then 0 else status)

/-- A request has its first acknowledgement.  Where it has been sent again, it stands for the answers still to come, and what is
held behind it stays held (R322, R323). -/
def firstAck (d : Dev) (u : Nat) (r : FabReq) (status : Nat) (payload : Bytes) : Dev :=
  if r.attempts ≤ 1 then endReq d u r status payload
  else outcome { d with fab := tput d.fab u { r with acks := 1, bad := status } } u r status payload

/-- A further acknowledgement: after the last one, what was held behind the request may go. -/
def laterAck (d : Dev) (u : Nat) (r : FabReq) : Dev :=
  if r.acks + 1 < r.attempts then { d with fab := tput d.fab u { r with acks := r.acks + 1 } }
  else releaseBehind { d with fab := tdel d.fab u } u r.bad

/-- A request takes a new tag: everything that waits for it follows (R484). -/
def renameTag (d : Dev) (old new : Nat) : Dev :=
  let rn (l : List Nat) := l.map (fun u => if u = old then new else u)
  { d with
    fab := d.fab.map (fun q => (q.1, { q.2 with after := rn q.2.after, reads := rn q.2.reads })),
    cores := d.cores.map (fun c => (c.1, { c.2 with
      streams := c.2.streams.map (fun s => (s.1, { s.2 with flight := s.2.flight.map (fun f => { f with owed := rn f.owed }) })) })) }

/-- Whose access a request is, where it is performed at this device. -/
def reqWho (d : Dev) (r : FabReq) : Who :=
  match r.owner with
  | .run u => fabWho u
  | o => (ownerWho d o).getD ⟨4, homeFloe (pageOfLine r.line), 0xFFFF, 0xFFFF, true, o⟩

/-- A cell that fails its check in a request of this device: SLUG_CRC, with its INTEGRITY record (R143, R438). -/
def reqCellBad (d : Dev) (r : FabReq) : Dev :=
  let f := homeFloe (pageOfLine r.line)
  intFailed d (reqWho d r) 1 1 f (r.line * 64) f 0 0 7 0x26 0

/-- Performs a write or atomic at its home floe: one that was held, or whose page has come to this device. -/
def performHere (d : Dev) (r : FabReq) : Dev × Nat × Bytes :=
  let w := reqWho d r
  let off := r.addr % 64
  if r.code = 1 then
    let x := homeWrite d w r.line (r.payload.drop 8) (fieldAt r.payload 0 8)
    (x.1, (x.2.map (·.1)).getD 0, [])
  else if r.code = 0x12 then
    match slugOf (slice r.payload 0 32) with
    | some s =>
      let x := homeExactAdd d w r.line off s
      (x.1, (x.2.map (·.1)).getD 0, [])
    | none => (reqCellBad d r, 0x26, [])
  else
    let x := homeAtomic d w r.line r.code off (if bitOf r.width 0 then 8 else 4) (fieldAt r.payload 0 8) (fieldAt r.payload 8 8)
    match x.2 with
    | .ok old => (x.1, 0, leBytes 8 old)
    | .error e => (x.1, e.1, [])

/-! ### Atomics on lines of the host tier (R99, R318) -/

/-- What an atomic makes of a line: the old value and the new line, or a cell that fails its check. -/
def hostNew (r : FabReq) (b : Bytes) : Option (Bytes × Bytes) :=
  let off := r.addr % 64
  if r.code = 0x12 then
    match slugOf (slice r.payload 0 32), slugOf (slice b off 32) with
    | some s, some t => some ([], splice b off (cellOf (slugAdd t s)))
    | _, _ => none
  else
    let size := if bitOf r.width 0 then 8 else 4
    let old := fieldAt b off size
    some (leBytes 8 old, splice b off (leBytes size (atomicNew r.code size old (fieldAt r.payload 0 8) (fieldAt r.payload 8 8))))

/-- The line of a host-tier atomic has been read: it is written as the operation makes it. -/
def hostRead (d : Dev) (u : Nat) (a : FarAnswer) : Dev :=
  match tget? d.fab u with
  | none => d
  | some r =>
    if r.prog ≠ 1 then d
    else
      match a with
      | .err _ => endReq d u r 0x14 []
      | .data b =>
        match hostNew r (slice b 0 64) with
        | none => endReq (reqCellBad d r) u r 0x26 []
        | some (old, new) =>
          hostWrite { d with fab := tput d.fab u { r with prog := 2, old := old } } r.caddr (.held u) r.line new (2 ^ 64 - 1)

/-- The write of a request on a line of the host tier is complete. -/
def hostWrote (d : Dev) (u status : Nat) : Dev :=
  match tget? d.fab u with
  | none => d
  | some r => if r.prog = 2 then endReq d u r status (if status = 0 then r.old else []) else d

/-! ### Requests performed at this device (R99, R134, R484) -/

/-- The placement page of a request that is to be performed at this device is not in service there: a touch fault is raised for it,
and fails it where it cannot be raised. -/
def touchHeld (d : Dev) (u : Nat) (r : FabReq) : Dev :=
  match startTouch d (pageOfLine r.line) [.engine (.held u)] with
  | .ok d => d
  | .error s => endReq d u r s []

/-- Performs a write or atomic that was held, where its page lies now: in the stack or bulk tier, nowhere yet, or in the host tier
of this device. -/
def performFinal (d : Dev) (u : Nat) (r : FabReq) : Dev :=
  let page := pageOfLine r.line
  let p := pageOf d page
  if frozen d page then d
  else if p.tier = 4 then
    if p.mot then touchHeld d u r
    else if !linkUp (portOf d p.port) then endReq d u r 0x14 []
    else if 8 ≤ r.code then startHost d u
    else
      hostWrite { d with fab := tput d.fab u { r with prog := 2 } } r.caddr (.held u) r.line (r.payload.drop 8) (fieldAt r.payload 0 8)
  else if p.tier = 0 ∧ r.code ≠ 1 then endReq d u r 0x14 []
  else
    match (if p.tier = 0 then placePage d page (((ownerWho d r.owner).map (·.ctx)).getD 0) else some d) with
    | none => endReq d u r 0x40 []
    | some d =>
      let n := ncReady d r.line true
      match n.2 with
      | some b => unblock n.1 b
      | none =>
        let x := performHere n.1 r
        endReq x.1 u r x.2.1 x.2.2

/-- A request goes where no placement entry leads: a run, a line that a MIGRATE copies to its destination, or one that a COPY_RUN
sends on. -/
def FabReq.aimed (d : Dev) (r : FabReq) : Bool :=
  decide (r.code ≥ 0x18) || decide (r.line ≥ 2 ^ 48) ||
    (r.code == 1 && (match r.owner with | .cmd t => (cmdOf d t).any (fun c => c.opcode == 0x30) | _ => false))

/-- A read whose page has come to this device is performed again by the work that wants it. -/
def readAgain (d : Dev) (u : Nat) (r : FabReq) : Dev :=
  let d := { d with fab := tdel d.fab u }
  match r.owner with
  | .port q => servedAgain d r.line (.portRead q) (fun d => portAt d [] q none)
  | .run v => servedAgain d r.line (.fabric v) (fun d => serveReq d v)
  | _ => d

/-- Re-resolves and reissues a request that was answered with REROUTE (R484): the placement entry is read again, and
the request takes a new tag (DEDUCED, log entry 26).  One whose page lies at this device now is performed here. -/
def reissue (d : Dev) (u : Nat) (r : FabReq) : Dev :=
  let p := pageOf d (pageOfLine r.line)
  let aimed := r.aimed d
  if p.tier = 3 ∨ aimed then
    let dst := if aimed then r.dst else p.node
    match fabRefused d dst with
    | some s => endReq d u r s []
    | none =>
      let (d, n) := newUtag d (r.line / 1024 % 4)
      let r := { r with dst := dst, addr := if aimed then r.addr else poolAddr p r.line + r.addr % 64,
                        attempts := 1, first := d.now, reroutes := r.reroutes + 1 }
      sendReq { renameTag d u n with fab := tput (tdel (renameTag d u n).fab u) n r } n r
  else if r.code = 0 then readAgain d u r
  else
    let r := { r with dst := selfNode d, addr := r.line * 64 + r.addr % 64, held := true, attempts := 1 }
    performFinal { d with fab := tput d.fab u r } u r

/-- The acknowledgement of a request of this device, or of a combined request it forwarded (R321, R326, R484). -/
def takeAck (d : Dev) (u : Nat) : Dev :=
  match tget? d.acks u with
  | none => d
  | some a =>
    let status := if a.error then a.code else 0
    let d := copyResponse { d with acks := tdel d.acks u } u a.error a.code a.src a.payload
    match tget? d.combs u with
    | some ms => ms.foldl (fun d m => ackTo d (m % 1024) m status a.payload) { d with combs := tdel d.combs u }
    | none =>
      match tget? d.fab u with
      | none => d
      | some r =>
        let d := if status = 0x32 then telD d 0x3B20 1 else d
        if !r.owed then laterAck d u r
        else if status = 0x32 ∧ r.owner ≠ .mirror ∧ r.reroutes < rf d 0x048E0000 16 4 then reissue d u r
        else firstAck d u r status a.payload

/-- The tag of the command whose work an access is, for a record (R443). -/
def ownerTag (d : Dev) (o : Owner) : Nat :=
  match o with
  | .cmd t => t
  | _ => (o.core.map (fun c => (coreOf d c).tag)).getD 0xFFFF

/-- The context whose work an access is, for a record (R443). -/
def ownerCtx (d : Dev) (o : Owner) : Nat :=
  match o with
  | .cmd t => ((cmdOf d t).map (·.ctx)).getD 0xFFFF
  | .proof c _ => c
  | _ => (o.core.map (fun c => (coreOf d c).ctx)).getD 0xFFFF

/-- The sender's timer of a request ends (R323, R456): it is sent again, or completes with FABRIC_TIMEOUT.  One that has been
answered waits for the answers of its resends as long as one can still come: the last is sent within 4 ms, and a retrain holds it
for 5 ms (DEDUCED, log entry 63). -/
def fabTimer (d : Dev) (u : Nat) : Dev :=
  match tget? d.fab u with
  | none => d
  | some r =>
    if r.held then d
    else if !r.owed then
      if d.now ≤ r.first + 9000000 then d else releaseBehind { d with fab := tdel d.fab u } u r.bad
    else if r.attempts ≤ r.retry ∧ d.now ≤ r.first + 4000000 then
      let r := { r with attempts := r.attempts + 1 }
      sendReq (telD { d with fab := tput d.fab u r } 0x2028 1) u r
    else
      let d := telD d 0x2030 1
      let d := logErr d 6 1 1 (u / 1024 % 4) (ownerCtx d r.owner)
        (errBody (r.dst * 2 ^ 44 + r.addr) 0x37 0 (ownerTag d r.owner) (r.code + min 15 r.attempts * 256 + (routeLink d r.dst).getD 0 * 4096) u) true
      endReq d u r 0x37 []

/-- A write that was held until its earlier requests all have their last acknowledgement is sent or performed; a final one
is discarded where one of them failed (R134, R322, R454). -/
def releaseFinal (d : Dev) (u : Nat) : Dev :=
  match tget? d.fab u with
  | none => d
  | some r =>
    if r.held && (r.final || r.dst == selfNode d) && r.after.isEmpty && r.prog == 0 && !retried d r.reads then
      if r.final ∧ r.bad ≠ 0 then endReq d u r r.bad []
      else if r.dst = selfNode d ∧ (pageOf d (pageOfLine r.line)).tier ≠ 3 then performFinal d u r
      else if fabFull d then d
      else if r.dst = selfNode d then reissue d u { r with held := false }
      else sendHeld d u
    else d

/-! ### Accesses that wait -/

/-- Serves again an access that has waited. -/
def runWaiter (d : Dev) (w : Waiter) : Dev :=
  match w with
  | .portRead q => portAt d [] q none
  | .portWrite q b m => portAt d [] q (some (b, m))
  | .fabric u => serveReq d u
  | .capture l b => captureLine d l b
  | .engine (.held u) => releaseFinal d u
  | .engine _ => d

/-- The same once its packed block has been decoded: its miss of the slice has been counted (R92, R95). -/
def runDecoded (d : Dev) (w : Waiter) : Dev :=
  match w with
  | .portRead q => portAt d [] q none .before
  | .fabric u => serveReq { d with reqs := tmod d.reqs u (fun r => { r with missed := true }) } u
  | w => runWaiter d w

/-- Fails an access that has waited. -/
def failWaiter (d : Dev) (page status : Nat) (w : Waiter) : Dev :=
  match w with
  | .portRead q => portFail d q status 0 false
  | .portWrite q _ _ => portFail d q status 0 true
  | .fabric u =>
    match tget? d.reqs u with
    | some r => answer d u r status []
    | none => d
  | .capture _ _ => d
  | .engine (.held u) =>
    match tget? d.fab u with
    | some r => endReq d u r status []
    | none => d
  | .engine o => if wantsRead d o then { d with touched := d.touched ++ [(page, o, status)] } else d

/-- A touch fault has been served: an access of an engine goes on though the floe has begun to drain meanwhile (R19). -/
def touchServed (d : Dev) (page : Nat) (w : Waiter) : Dev :=
  match w with
  | .engine (.held u) => releaseFinal d u
  | .engine o =>
    if wantsRead d o ∧ !floeOn d (homeFloe page) then { d with touched := d.touched ++ [(page, o, 0)] } else d
  | w => runWaiter d w

/-- Fails every access that waits for a touch fault. -/
def failTouch (d : Dev) (page status : Nat) (t : Touch) : Dev :=
  t.waiters.foldl (fun d w => failWaiter d page status w) { d with touches := tdel d.touches page }

/-- The oldest queued touch fault of a floe. -/
def oldestTouch (d : Dev) (f : Nat) : Option (Nat × Touch) :=
  (d.touches.filter (fun t => homeFloe t.1 = f && t.2.queued)).foldl (fun (b : Option (Nat × Touch)) t =>
    match b with
    | some x => if t.2.arrival < x.2.arrival then some t else b
    | none => some t) none

/-- Queued touch faults of a floe begin in arrival order, as far as it handles them at once; one without a free page fails
(R90, R100). -/
def nextTouch (f : Nat) : Nat → Dev → Dev
  | 0, d => d
  | n + 1, d =>
    if touching d f ≥ 64 then d
    else
      match oldestTouch d f with
      | none => d
      | some (page, t) =>
        match beginTouch d page t with
        | .ok d => nextTouch f n d
        | .error s => nextTouch f n (failTouch d page s t)

/-- The DMA of a touch fault is over at its port. -/
def endTouchDma (d : Dev) (page : Nat) : Dev :=
  d.ports.foldl (fun d x => (x.2.io.filter (fun r => r.2.use = .touch page)).foldl (fun d r => ioEnd d x.1 r.1) d) d

/-- The end of the DMA of a touch fault (R100): the entry takes its new tier where it is still as it was, and the accesses
that wait are served. -/
def touchDone (d : Dev) (page : Nat) (ans : FarAnswer) : Dev :=
  match tget? d.touches page with
  | none => d
  | some t =>
    if t.queued then d
    else
      let p := pageOf d page
      let d := endTouchDma d page
      let f := homeFloe page
      let more (d : Dev) : Dev := nextTouch f d.touches.length d
      match ans with
      | .data b =>
        let d := { d with touches := tdel d.touches page }
        let d := if p.tier = 4 ∧ p.mot ∧ floeRuns d f then
            let d := dropMedia d f t.tier t.k
            setPage { d with mem := memWrite (memClear d.mem (page * 65536) 65536) (page * 65536) (slice b 0 65536) } page
              { p with tier := t.tier, k := t.k, mot := false, port := 0, haddr := 0 }
          else d
        more (t.waiters.foldl (fun d w => touchServed d page w) d)
      | .err _ => more (failTouch d page 0x14 t)

/-- The end of the decode of a packed block (R97): its lines are in the cache slice, or the accesses that wait fail. -/
def decodeDone (d : Dev) (page blk : Nat) : Dev :=
  match d.packJobs.find? (fun j => j.page = page && j.blk = blk) with
  | none => d
  | some j =>
    let d := { d with packJobs := d.packJobs.filter (fun j => !(j.page = page && j.blk = blk)) }
    if !(pageOf d page).packed || !floeRuns d (homeFloe page) then j.waiters.foldl runDecoded d
    else
      let r := readBlockBy d (Who.unitOnly 9 (homeFloe page)) page blk j.unit
      match r.2 with
      | .ok b => j.waiters.foldl runDecoded (allocBlock r.1 page blk b)
      | .error e => j.waiters.foldl (fun d w => failWaiter d page e.1 w) r.1

/-- The first request that waits for a line is taken once no transaction is pending on it (R347). -/
def dequeueLine (d : Dev) (line : Nat) : Dev :=
  if (dirOf d line).txn.isSome then d
  else
    match d.dirWait.find? (fun w => w.1 = line) with
    | some w =>
      let go (d : Dev) : Dev := dirServe { d with dirWait := d.dirWait.erase w } line w.2
      if w.2.writes then asAdmitted d go else go d
    | none =>
      match d.lineWait.find? (fun w => w.1 = line) with
      | some w => asAdmitted d (fun d => runWaiter { d with lineWait := d.lineWait.erase w } w.2)
      | none => d

/-! ### The commands -/

/-- `FABRIC_ACK` (R321). -/
def execFabricAck (utag : Nat) (s : State) : Host.Outcome State Fault Refusal :=
  onDev (.fabricAck utag) s (fun d => takeAck d utag)

/-- `FABRIC_TIMEOUT` (R323). -/
def execFabricTimeout (utag : Nat) (s : State) : Host.Outcome State Fault Refusal :=
  onDev (.fabricTimeout utag) s (fun d => fabTimer d utag)

/-- `FINAL_WRITE_RELEASE` (R322). -/
def execFinalWriteRelease (utag : Nat) (s : State) : Host.Outcome State Fault Refusal :=
  onDev (.finalWriteRelease utag) s (fun d => releaseFinal d utag)

/-- `TOUCH_FAULT_DMA_DONE` (R100). -/
def execTouchFaultDmaDone (page : Nat) (ans : FarAnswer) (s : State) : Host.Outcome State Fault Refusal :=
  onDev (.touchFaultDmaDone page ans) s (fun d => touchDone d page ans)

/-- `PACKED_DECODE_DONE` (R97). -/
def execPackedDecodeDone (page blk : Nat) (s : State) : Host.Outcome State Fault Refusal :=
  onDev (.packedDecodeDone page blk) s (fun d => decodeDone d page blk)

/-- `DIR_REQ_DEQUEUE` (R347). -/
def execDirReqDequeue (line : Nat) (s : State) : Host.Outcome State Fault Refusal :=
  onDev (.dirReqDequeue line) s (fun d => dequeueLine d line)

/-- `EPOCH_PULL_TIMEOUT` (R482): a request still held for a newer map is answered with REROUTE. -/
def execEpochPullTimeout (utag : Nat) (s : State) : Host.Outcome State Fault Refusal :=
  onDev (.epochPullTimeout utag) s (fun d =>
    if d.mbr.pulls.contains utag then
      let d := { d with mbr := { d.mbr with pulls := d.mbr.pulls.filter (· ≠ utag) } }
      match tget? d.reqs utag with
      | some r => answer d utag r 0x32 []
      | none => d
    else d)

end Sys2Proof.Machine
end

