-- ==== Sys2Proof/Machine/Tier.lean ====
section
/-! DEFINITION. Moving pages between tiers: sweeps, moves, MIGRATE, PREFETCH, and the flush of the cache slice
(R93, R96, R103 to R108, R110, R339, R355). -/

namespace Sys2Proof.Machine

open Sys2Proof

/-! ### Moving the bytes of a page -/

/-- Reads a page of the stack or bulk tier from its place. -/
def readSource (d : Dev) (w : Who) (page : Nat) : Dev × Except (Nat × Nat) Bytes :=
  let p := pageOf d page
  if p.packed then readBlocks d w page
  else
    let f := homeFloe page
    let bad := (List.range 1024).filter (fun n => thas d.media (mediaKey f p.tier p.k n))
    let r := bad.foldl (fun (s : Dev × Option Nat) n =>
      match s.2 with
      | some _ => s
      | none => eccRead s.1 w f p.tier p.k n (page * 65536 + n * 64)) (d, none)
    match r.2 with
    | some e => (r.1, .error (0x20, e))
    | none => (r.1, .ok (memRead r.1.mem (page * 65536) 65536))

/-- The place of an unpacked local page is free: its media errors are forgotten. -/
def dropPlace (d : Dev) (page : Nat) : Dev :=
  let p := pageOf d page
  if p.tier = 1 ∨ (p.tier = 2 ∧ !p.packed) then dropMedia d (homeFloe page) p.tier p.k else d

/-- Puts the bytes of a page into an unpacked page of a tier. -/
def placeAt (d : Dev) (page tier k : Nat) (b : Bytes) : Dev :=
  let p := pageOf d page
  let d := dropMedia d (homeFloe page) tier k
  let d := { d with mem := memWrite (memClear d.mem (page * 65536) 65536) (page * 65536) b, packs := tdel d.packs page }
  let d := if p.packed then telF d (homeFloe page) 0x1018 1 else d
  setPage d page { p with tier := tier, k := k, packed := false, sector := 0, sectors := 0, node := 0, rpage := 0, port := 0,
                          haddr := 0, mot := false }

/-- Sectors of a run of bytes. -/
def runSectors (n : Nat) : Nat := (n + 511) / 512

/-- The most sectors a run may have: what a packed destination takes until its run is known (R96, R103). -/
def packMost (d : Dev) (f : Nat) : Nat := min 127 (packLimit d f)

/-- The run of a page is short enough to be packed, and the page was not left unpacked before (R96). -/
def packFits (d : Dev) (page : Nat) (b : Bytes) : Bool :=
  !(pageOf d page).noPack && decide (runSectors (packRun b).length ≤ packMost d (homeFloe page))

/-- A block of a run was written RAW. -/
def rawBlock (run : Bytes) (k : Nat) : Nat := b2n (bitOf (fieldAt run (fieldAt run (4 * k) 2 + 6) 1) 0)

/-- Counts the encoding of the sixteen blocks of a run, which the floe's four units share (R314, R316). -/
def countRun (d : Dev) (f : Nat) (run : Bytes) : Dev :=
  (List.range 16).foldl (fun d k => countBlock (markPacked d f (k % 4)) f 1 (rawBlock run k) 0 4096 (fieldAt run (4 * k + 2) 2)) d

/-- Stores the bytes of a page packed in a run of sectors from `s` on. -/
def packAt (d : Dev) (page s : Nat) (b : Bytes) : Dev :=
  let f := homeFloe page
  let run := packRun b
  let d := dropRun d f s (runSectors run.length)
  let d := countRun { d with packs := tput d.packs page run, mem := memClear d.mem (page * 65536) 65536 } f run
  telF (setPage d page { pageOf d page with
    tier := 2, packed := true, k := 0, sector := s, sectors := runSectors run.length, node := 0, rpage := 0, port := 0, haddr := 0,
    mot := false }) f 0x1010 1

/-- A channel of a floe with an energy-backed module holds bulk page `k` (R110). -/
def backedAt (d : Dev) (f k : Nat) : Bool := d.boot.backed.contains (4 * f + k % 4)

/-! ### Sweeps (R93) -/

/-- AUTO_ENABLE: sweeps and automatic migration (R94). -/
def autoOn (d : Dev) (f : Nat) : Bool := rf d (plcBase f) 0 1 == 1

/-- The counter thresholds suspend the sweeps of a floe. -/
def suspended (d : Dev) (f : Nat) : Bool := decide (rf d (plcBase f + 0x10) 0 16 ≤ rf d (plcBase f + 0x10) 16 16)

/-- What a sweep does with a page: the target of its move. -/
def sweepTarget (d : Dev) (page : Nat) : Option Nat :=
  let p := pageOf d page
  let f := homeFloe page
  let n := countNow d page
  let pack := rf d (plcBase f) 1 1 == 1 && decide (n ≤ rf d (plcBase f + 0x14) 0 16)
  if p.pinned || p.durable || p.mot then none
  else if p.tier = 2 ∧ n ≥ rf d (plcBase f + 0x10) 0 16 ∧ tierFree d f 1 > rf d (plcBase f + 0x18) 16 16 * pagesPerGiB then some 1
  else if p.tier = 1 ∧ n ≤ rf d (plcBase f + 0x10) 16 16 ∧ stackBelow d f (rf d (plcBase f + 0x18) 0 16) then
    some (if pack && !p.noPack then 5 else 2)
  else if p.tier = 2 ∧ !p.packed ∧ pack ∧ !p.noPack then some 5
  else none

/-- A candidate enters its floe's migration queue, or is dropped where that is full or the page is moving already. -/
def queueMove (d : Dev) (page target : Nat) : Dev :=
  if thas d.moves page ∨ d.queue.any (fun q => q.1 = page) ∨ (d.queue.filter (fun q => homeFloe q.1 = homeFloe page)).length ≥ 1024 then d
  else { d with queue := d.queue ++ [(page, target)] }

/-- Runs the sweep of a floe, where a window admits it and AUTO_ENABLE is 1: each page is evaluated once, and its count is
stored as it was used (R92). -/
def runSweep (d : Dev) (f : Nat) : Dev :=
  if !thas d.sweep f || !admits d 6 || !floeOn d f || !autoOn d f then d
  else
    let d := { d with sweep := tdel d.sweep f }
    (tkeys (d.pages.filter (fun p => homeFloe p.1 = f && (p.2.tier = 1 || p.2.tier = 2)))).foldl (fun d page =>
      let d := countUsed d page
      match (if suspended d f then none else sweepTarget d page) with
      | none => d
      | some t => queueMove d page t) d

/-- `PLC_EPOCH_SWEEP` (R93). -/
def execPlcEpochSweep (f : Nat) (s : State) : Host.Outcome State Fault Refusal :=
  onDev (.plcEpochSweep f) s (fun d =>
    if !autoOn d f ∨ !floeOn d f then d else runSweep { d with sweep := tput d.sweep f (curEpoch d f, 0) } f)

/-! ### Moves (R103, R105) -/

/-- Moves of a floe in progress. -/
def movesOf (d : Dev) (f : Nat) : Nat := (d.moves.filter (fun m => homeFloe m.1 = f)).length

/-- A move that has just been pinned, by a MIGRATE or automatically. -/
def Move.pin (target k sector sectors : Nat) (tag : Option Nat) : Move :=
  { target := target, k := k, swapped := false, srcTier := 0, srcK := 0, srcSector := 0, srcSectors := 0, sector := sector,
    sectors := sectors, held := [], tag := tag, frozen := false }

/-- A move whose entry has been swapped: the place of its source, until it is released. -/
def Move.swap (m : Move) (p : Page) : Move :=
  { m with swapped := true, srcTier := if p.packed then 0 else p.tier, srcK := p.k, srcSector := if p.packed then p.sector else 0,
           srcSectors := if p.packed then p.sectors else 0, sector := 0, sectors := 0, held := [] }

/-- The oldest queued move of a floe starts in a migration window: its destination is allocated and the page pinned.  A
candidate that cannot be moved any longer, or that finds no room, is dropped. -/
def startMove (d : Dev) (f : Nat) : Dev :=
  if !admits d 6 || !floeOn d f || !autoOn d f || decide (movesOf d f ≥ 16) then d
  else
    match d.queue.find? (fun q => homeFloe q.1 = f) with
    | none => d
    | some (page, t) =>
      let p := pageOf d page
      let d := { d with queue := d.queue.erase (page, t) }
      if thas d.moves page ∨ !(p.tier = 1 ∨ p.tier = 2) ∨ p.pinned ∨ p.durable ∨ p.mot then d
      else if t = 5 then
        match pickSectors d f (packMost d f) with
        | some s => useFree { d with moves := tput d.moves page (Move.pin 5 0 s (packMost d f) none) }
        | none => d
      else
        match pickPage d f t (fun _ => true) with
        | some k => useFree { d with moves := tput d.moves page (Move.pin t k 0 0 none) }
        | none => d

/-- `MOVE_START` (R103). -/
def execMoveStart (f : Nat) (s : State) : Host.Outcome State Fault Refusal :=
  onDev (.moveStart f) s (fun d => startMove d f)

/-- Abandons a move: the destination is free, the source stays. -/
def abandonMove (d : Dev) (page : Nat) : Dev :=
  telF { d with moves := tdel d.moves page } (homeFloe page) 0x1028 1

/-- The swap of a move whose destination is packed: a page whose run is too long stays unpacked (R96), in the bulk tier, and
where that has no page left for it nothing is done. -/
def swapPacked (d : Dev) (page : Nat) (m : Move) (b : Bytes) : Dev :=
  let p := pageOf d page
  let f := homeFloe page
  if packFits d page b then
    let d := { packAt d page m.sector b with moves := tput d.moves page (m.swap p) }
    if p.tier = 1 then telF d f 0x1008 1 else d
  else if p.tier = 2 then { leaveUnpacked d page with moves := tdel d.moves page }
  else
    match pickPage d f 2 (fun _ => true) with
    | some k => telF { leaveUnpacked (placeAt (useFree d) page 2 k b) page with moves := tput d.moves page (m.swap p) } f 0x1008 1
    | none => { d with moves := tdel d.moves page }

/-- The end of a copy: the entry is swapped to the destination (R103 steps 2 to 4).  A floe that drains finishes the moves it has
begun (R19, R105). -/
def swapMove (d : Dev) (page : Nat) : Dev :=
  match tget? d.moves page with
  | none => d
  | some m =>
    let f := homeFloe page
    if m.swapped ∨ m.tag.isSome ∨ !floeRuns d f then d
    else
      let r := readSource d (Who.unitOnly 9 f) page
      match r.2 with
      | .error _ => abandonMove r.1 page
      | .ok b =>
        if m.target = 5 then swapPacked r.1 page m b
        else
          telF { placeAt r.1 page m.target m.k b with moves := tput r.1.moves page (m.swap (pageOf r.1 page)) } f
            (if m.target = 1 then 0x1000 else 0x1008) 1

/-- `MOVE_COPY_DONE` (R103). -/
def execMoveCopyDone (page : Nat) (s : State) : Host.Outcome State Fault Refusal :=
  onDev (.moveCopyDone page) s (fun d => swapMove d page)

/-- `MOVE_RELEASE` (R103): the source is freed. -/
def execMoveRelease (page : Nat) (s : State) : Host.Outcome State Fault Refusal :=
  onDev (.moveRelease page) s (fun d =>
    match tget? d.moves page with
    | some m =>
      if m.swapped then
        let d := { d with moves := tdel d.moves page }
        if m.srcTier = 0 then d else dropMedia d (homeFloe page) m.srcTier m.srcK
      else d
    | none => d)

/-- `MOVE_COPY_TIMEOUT` (R105). -/
def execMoveCopyTimeout (page : Nat) (s : State) : Host.Outcome State Fault Refusal :=
  onDev (.moveCopyTimeout page) s (fun d =>
    match tget? d.moves page with
    | some m => if m.swapped || m.tag.isSome then d else abandonMove d page
    | none => d)

/-! ### The cache slice (R108) -/

/-- Writes back every dirty line of a page, and drops its lines from the slice where it leaves the local tiers. -/
def flushPage (d : Dev) (page : Nat) (drop : Bool) : Dev × Option (Nat × Nat) :=
  let r := (tkeys (d.cache.filter (fun c => pageOfLine c.1 = page && c.2.dirty))).foldl
    (fun (s : Dev × Option (Nat × Nat)) l =>
      match s.2 with
      | some _ => s
      | none => writeBack s.1 l) (d, none)
  if drop && r.2.isNone then ({ r.1 with cache := r.1.cache.filter (fun c => pageOfLine c.1 ≠ page) }, none) else r

/-- `CACHE_FLUSH` (R108). -/
def execCacheFlush (f : Nat) (s : State) : Host.Outcome State Fault Refusal :=
  onDev (.cacheFlush f) s (fun d =>
    if !floeOn d f || d.flushBusy.contains f then d else { d with flushBusy := d.flushBusy ++ [f] })

/-- Writes back every dirty line of a floe's slice. -/
def flushSlice (d : Dev) (f : Nat) : Dev :=
  (tkeys (d.cache.filter (fun c => homeFloe (pageOfLine c.1) = f && c.2.dirty))).foldl (fun d l => (writeBack d l).1) d

/-- `CACHE_FLUSH_DONE` (R108). -/
def execCacheFlushDone (f : Nat) (s : State) : Host.Outcome State Fault Refusal :=
  onDev (.cacheFlushDone f) s (fun d =>
    if d.flushBusy.contains f then { flushSlice d f with flushBusy := d.flushBusy.filter (· ≠ f) } else d)

/-! ### MIGRATE (R106, R110, R339, R355) -/

/-- Lets a piece of work use a plain operation on the device that may fail with a status. -/
def W.lift (w : W) (addr : Nat) (r : Dev × Option (Nat × Nat)) : W :=
  match r.2 with
  | none => { w with d := r.1 }
  | some e => { w with d := r.1 }.failAt addr true e

/-- The placement page that the 64 KiB run at a context address translates to whole (R106). -/
def W.wholePage (w : W) (ca : Nat) : W × Option Nat :=
  let x := w.xlate ca 1
  match x.2 with
  | none => (x.1, none)
  | some u =>
    let whole := u % 65536 = 0 ∧ (List.range 1024).all (fun i =>
      match findRange w.d w.ctx w.gen (ca + 64 * i) with
      | some (_, r) => r.uni + (ca + 64 * i - r.start) = u + 64 * i
      | none => false)
    if !whole then (x.1.refuse ca u 0x10 1 0xFFFF 0, none)
    else
      match (List.range 1024).find? (fun i =>
          match findRange w.d w.ctx w.gen (ca + 64 * i) with
          | some (_, r) => !r.w
          | none => true) with
      | some i => (x.1.refuse (ca + 64 * i) (u + 64 * i) 0x11 1 (x.1.rangeIdx (ca + 64 * i)) 0, none)
      | none => (x.1, some (u / 65536))

/-- Whether pool page `rpage` of a node is lent to a forme of the context: a status with its detail where not. -/
def lentBy (d : Dev) (ctx node rpage : Nat) : Option (Nat × Nat) :=
  let recs := (d.formes.filter (fun f => f.2.ctx = ctx)).filterMap (fun f => d.mbr.map.formes.find? (fun r => r.id = f.2.id))
  let hit := recs.filter (fun r => (memberOf r node).any (fun m =>
    bitOf m.roles 1 && decide (m.poolPage ≤ rpage) && decide (rpage < m.poolPage + m.poolPages)))
  match hit with
  | [] => some (0x11, 0)
  | r :: _ =>
    if d.boot.fenced ∨ r.state = 2 then some (0x31, 0) else if r.state = 0 then some (0x31, 1) else none

/-- A write to a line of a page that lies elsewhere is still to be acknowledged, whoever made it. -/
def farWrites (d : Dev) (page : Nat) : Bool :=
  d.fab.any (fun r => r.2.code != 0 && r.2.owed && pageOfLine r.2.line == page) ||
  d.ports.any (fun p => p.2.io.any (fun r => match r.2.use with
    | .hostWrite _ l => pageOfLine l == page
    | _ => false))

/-- The bytes of a page from wherever it lies. -/
def W.pageBytes (w : W) (ca page : Nat) : W × Bytes :=
  let p := pageOf w.d page
  if p.tier = 0 then (w, zeros 65536)
  else if p.tier = 1 ∨ p.tier = 2 then
    let w := w.lift ca (flushPage w.d page false)
    if !w.ok then (w, [])
    else
      let r := readSource w.d w.who page
      match r.2 with
      | .ok b => ({ w with d := r.1 }, b)
      | .error e => ({ w with d := telF r.1 (homeFloe page) 0x1028 1 }.failAt ca false e, [])
  else if farWrites w.d page then (w.block .wait, [])
  else
    (List.range 1024).foldl (fun (s : W × Bytes) i =>
      if s.1.ok then
        let line := page * 1024 + i
        let r := if p.tier = 3 then s.1.poolRead (ca + 64 * i) line p.node (poolAddr p line) else s.1.hostRead (ca + 64 * i) line 0
        (if r.1.err.any (fun e => e.1 = 0x20) then { r.1 with d := telF r.1.d (homeFloe page) 0x1028 1 } else r.1, s.2 ++ r.2)
      else s) (w, [])

/-- Changes the flags of a page that a MIGRATE names; MOT is one of a host page only. -/
def migrateFlags (d : Dev) (page flags target : Nat) : Dev :=
  let p := pageOf d page
  let q := { p with pinned := if bitOf flags 2 then true else if bitOf flags 3 then false else p.pinned,
                    durable := if target = 2 then bitOf flags 4 else p.durable,
                    mot := decide (target = 4) && bitOf flags 1 }
  if q = p then d else setPage d page q

/-- A page that is placed for the first time takes the issuing context as its owner. -/
def adopt (d : Dev) (page ctx : Nat) : Dev :=
  let p := pageOf d page
  if p.tier = 0 then
    { d with pages := tput d.pages page { p with owner := ctx, twin := decide (mirrorMode d page ≠ 0) } }
  else d

/-- The destination of a local move, allocated before anything is read (R105): the first page index or sector that is
found. -/
def localRoom (d : Dev) (f target : Nat) (durable : Bool) : Option Nat :=
  if target = 5 then pickSectors d f (packMost d f)
  else pickPage d f (if target = 1 then 1 else 2) (fun k => !durable || backedAt d f k)

/-- The bytes of a page that a MIGRATE takes to a local tier, at the room found for it. -/
def W.placeLocal (w : W) (ca page target room : Nat) (b : Bytes) : W :=
  let f := homeFloe page
  let p := pageOf w.d page
  let d := adopt (useFree w.d) page w.ctx
  if target ≠ 5 then { w with d := placeAt (dropPlace d page) page (if target = 1 then 1 else 2) room b }
  else if packFits d page b then { w with d := packAt (dropPlace d page) page room b }
  else if p.tier = 2 then { w with d := leaveUnpacked d page }
  else
    match pickPage d f 2 (fun _ => true) with
    | some k => { w with d := leaveUnpacked (placeAt (dropPlace (useFree d) page) page 2 k b) page }
    | none => w.failAt ca true (0x40, 0)

/-- What handling one page of a MIGRATE has come to: it is done, its copy to a pool or host page has been issued, or its move has
been pinned and the copy begins. -/
inductive PageStep where
  | done
  | copied
  | pinned
  deriving DecidableEq, Repr

/-- The move of a page that a command makes. -/
def ownMove (d : Dev) (page tag : Nat) : Option Move := (tget? d.moves page).filter (fun m => m.tag == some tag)

/-- Pins the move of a page that lies in the pool or the host tier, or goes there: its destination is taken and no second move of
the page begins (R103). -/
def W.pinMove (w : W) (page : Nat) (m : Move) : W × PageStep :=
  if movesOf w.d (homeFloe page) ≥ 16 then (w.block .wait, .done)
  else ({ w with d := useFree { w.d with moves := tput w.d.moves page m } }, .pinned)

/-- Local targets: stack, bulk and bulk packed.  PROMOTIONS and DEMOTIONS count the automatic moves, not these (DESIGN CHOICE,
log entry 53).  A page of the pool or host tier is pinned first, since its copy takes time.  No move starts outside the windows of
migration (R416, R417). -/
def W.toLocal (w : W) (ca page target : Nat) (durable : Bool) : W × PageStep :=
  let f := homeFloe page
  let p := pageOf w.d page
  let same := p.tier = (if target = 1 then 1 else 2) ∧ (target = 1 ∨ p.packed = decide (target = 5)) ∧
    (!durable ∨ backedAt w.d f p.k)
  if same ∨ (target = 5 ∧ p.tier = 2 ∧ p.noPack) then (w, .done)
  else
    match ownMove w.d page w.who.tag with
    | some m =>
      let r := w.pageBytes ca page
      (if r.1.ok then { r.1 with d := { r.1.d with moves := tdel r.1.d.moves page } }.placeLocal ca page target
                        (if target = 5 then m.sector else m.k) r.2
       else r.1, .done)
    | none =>
      match localRoom w.d f target durable with
      | none => (w.failAt ca true (0x40, 0), .done)
      | some room =>
        if p.tier ≠ 0 ∧ !admits w.d 6 then (w.block .wait, .done)
        else if p.tier = 3 ∨ p.tier = 4 then
          w.pinMove page (if target = 5 then Move.pin 5 0 room (packMost w.d f) (some w.who.tag)
                          else Move.pin (if target = 1 then 1 else 2) room 0 0 (some w.who.tag))
        else
          let r := w.pageBytes ca page
          (if r.1.ok then r.1.placeLocal ca page target room r.2 else r.1, .done)

/-- A line of the page is in the orphan state. -/
def hasOrphan (d : Dev) (page : Nat) : Bool := d.orphans.any (fun o => pageOfLine o.1 = page)

/-- Target 0: the page is released once its copies are withdrawn, and no line of it has become an orphan by that (R355). -/
def W.releasePage (w : W) (ca page : Nat) : W :=
  if hasOrphan w.d page then w.failAt ca true (0x33, 0)
  else
    let d := withdrawCopies w.d page
    if withdrawing d page then w.block (.copies page)
    else if hasOrphan d page then { w with d := d }.failAt ca true (0x33, 0)
    else { w with d := unplacePage (dropPlace d page) page }

/-- The entry of a page once it lies in the pool (3) or the host tier (4) at the destination of a MIGRATE. -/
def farEntry (p : Page) (c : Cmd) (k : Nat) : Page :=
  let target := c.f 44 1
  let dest := c.f 48 8
  { p with tier := target, packed := false, sector := 0, sectors := 0, k := 0,
           node := if target = 3 then dest / 2 ^ 44 else 0, rpage := if target = 3 then dest % 2 ^ 44 / 65536 + k else 0,
           port := if target = 4 then c.f 56 1 else 0, haddr := if target = 4 then dest + k * 65536 else 0 }

/-- The page lies at its destination in the pool or the host tier: what this device held of it is free. -/
def goneFar (d : Dev) (page : Nat) (c : Cmd) (k : Nat) : Dev :=
  let d := dropPlace (adopt d page c.ctx) page
  let d := setPage { d with moves := tdel d.moves page, cache := d.cache.filter (fun l => pageOfLine l.1 ≠ page),
                            packs := tdel d.packs page, mem := memClear d.mem (page * 65536) 65536 } page
    (farEntry (pageOf d page) c k)
  migrateFlags d page (c.f 45 1) (c.f 44 1)

/-- Issues the copy of a page to its destination: one from a pool or host page takes no write from now on (log entry 58). -/
def W.sendPage (w : W) (c : Cmd) (ca page k : Nat) (b : Bytes) : W × PageStep :=
  let dest := c.f 48 8
  let freeze (d : Dev) : Dev := { d with moves := tmod d.moves page (fun m => { m with frozen := true }) }
  if c.f 44 1 = 4 then
    if !linkUp (portOf w.d (c.f 56 1)) then (w.failFar ca 1 0x14, .done)
    else
      let d := ioIssue w.d (c.f 56 1) ⟨.hostWrite w.who.owner (page * 1024), dest + k * 65536, 65536, true, b, ca⟩
      ({ w with d := freeze d }, .copied)
  else
    let node := dest / 2 ^ 44
    match fabRefused w.d node with
    | some s => (w.failAt ca true (s, 0), .done)
    | none =>
      if w.d.fab.length + 1024 > 16384 then (w.block .wait, .done)
      else
        let d := (List.range 1024).foldl (fun d i =>
          issueAt d (ca + 64 * i) w.who.owner 1 node ((dest % 2 ^ 44 / 65536 + k) * 65536 + 64 * i) (page * 1024 + i) 0
            (writePayload (2 ^ 64 - 1) (slice b (64 * i) 64)) false) w.d
        ({ w with d := freeze d }, .copied)

/-- Targets 3 and 4: the pool and the host tier (R106, R110, R339, R355). -/
def W.toFar (w : W) (c : Cmd) (ca page k : Nat) : W × PageStep :=
  let target := c.f 44 1
  let flags := c.f 45 1
  let dest := c.f 48 8
  let p := pageOf w.d page
  if pageCoherent w.d page then (w.failAt ca true (0x40, 0), .done)
  else if hasOrphan w.d page then (w.failAt ca true (0x33, 0), .done)
  else if p.tier = target then ({ w with d := migrateFlags w.d page flags target }, .done)
  else
    match (if target = 3 then lentBy w.d w.ctx (dest / 2 ^ 44) (dest % 2 ^ 44 / 65536 + k) else none) with
    | some e => (if e.1 = 0x11 then w.failFar ca 1 0x11 else w.failAt ca true e, .done)
    | none =>
      if bitOf flags 0 then ({ w with d := goneFar w.d page c k }, .done)
      else
        match ownMove w.d page w.who.tag with
        | none =>
          if p.tier ≠ 0 ∧ !admits w.d 6 then (w.block .wait, .done)
          else w.pinMove page (Move.pin target 0 0 0 (some w.who.tag))
        | some _ =>
          let r := w.pageBytes ca page
          if r.1.ok then r.1.sendPage c ca page k r.2 else (r.1, .done)

/-- Handles one page of a MIGRATE.  A durable page is not released by target 0, as by any other than 2 (R110; DESIGN CHOICE, log
entry 53).  A move that has been pinned goes on while the floe drains (R19, R105). -/
def W.migratePage (w : W) (c : Cmd) (k : Nat) : W × PageStep :=
  let ca := c.f 32 8 + k * 65536
  let target := c.f 44 1
  let t := w.wholePage ca
  match t.2 with
  | none => (t.1, .done)
  | some page =>
    let w := t.1
    let p := pageOf w.d page
    let f := homeFloe page
    let mine := (ownMove w.d page w.who.tag).isSome
    if !(floeOn w.d f || (mine && floeRuns w.d f)) then (w.failAt ca true (0x42, 0), .done)
    else if p.tier = 0 ∧ target = 0 then (w, .done)
    else if p.tier ≠ 0 ∧ (p.region ∨ p.owner ≠ w.ctx) then (w.refuse ca (page * 65536) 0x11 1 (w.rangeIdx ca) 0, .done)
    else if (thas w.d.moves page ∧ !mine) ∨ thas w.d.touches page then (w.block .wait, .done)
    else if p.durable ∧ target ≠ 2 then (w.failAt ca true (0x40, 0), .done)
    else if target = 0 then (w.releasePage ca page, .done)
    else if target = 3 ∨ target = 4 then w.toFar c ca page k
    else
      let durable := target = 2 ∧ bitOf (c.f 45 1) 4
      let r := w.toLocal ca page target durable
      if !r.1.ok ∨ r.2 ≠ .done then r
      else
        let w := if durable then r.1.lift ca (flushPage r.1.d page false) else r.1
        (if w.ok then { w with d := migrateFlags w.d page (c.f 45 1) target } else w, .done)

/-- The copy of a page to a pool or host page has been acknowledged: lines written meanwhile are sent after it, and
then the entry is swapped (R103).  A page that has become coherent, or has lost a line, meanwhile stays where it is (R339, R355). -/
def W.migrateSwap (w : W) (c : Cmd) (k : Nat) : W × PageStep :=
  let ca := c.f 32 8 + k * 65536
  let t := w.wholePage ca
  match t.2 with
  | none => (t.1, .done)
  | some page =>
    let w := t.1.lift ca (flushPage t.1.d page false)
    if !w.ok then (w, .done)
    else if pageCoherent w.d page then (w.failAt ca true (0x40, 0), .done)
    else if hasOrphan w.d page then (w.failAt ca true (0x33, 0), .done)
    else
      let target := c.f 44 1
      let dest := c.f 48 8
      let held := match tget? w.d.moves page with
        | some m => m.held
        | none => []
      if held.isEmpty then ({ w with d := goneFar w.d page c k }, .done)
      else
        let d := { w.d with moves := tmod w.d.moves page (fun m => { m with held := [] }) }
        let d := held.foldl (fun d l =>
          if target = 3 then
            issueAt d (ca + l.1 % 1024 * 64) w.who.owner 1 (dest / 2 ^ 44) ((dest % 2 ^ 44 / 65536 + k) * 65536 + l.1 % 1024 * 64) l.1 0
              (writePayload (2 ^ 64 - 1) l.2) false
          else ioIssue d (c.f 56 1) ⟨.hostWrite w.who.owner l.1, dest + k * 65536 + l.1 % 1024 * 64, 64, true,
            writePayload (2 ^ 64 - 1) l.2, ca + l.1 % 1024 * 64⟩) d
        ({ w with d := d }, .copied)

/-- Releases the page that a command has pinned, with its destination. -/
def unpinMove (d : Dev) (tag : Nat) : Dev := { d with moves := d.moves.filter (fun m => m.2.tag ≠ some tag) }

/-- The pages of a MIGRATE in order, until one waits, fails, or all are done. -/
def migrateLoop : Nat → Dev → Far → Nat → Cmd → Dev
  | 0, d, _, tag, _ => endCmd d tag id
  | n + 1, d, far, tag, c =>
    let k := c.pos / 2
    if k ≥ c.f 40 4 then endCmd d tag (fun x => { x with count := c.f 40 4 })
    else
      let w0 := W.start d far c.ctx c.gen (c.who tag 4)
      let r := if c.pos % 2 = 1 then w0.migrateSwap c k else w0.migratePage c k
      match r.1.blocked, r.1.err with
      | some b, _ => unblock (modCmd d tag (fun x => { x with pos := c.pos, phase := 2, count := k })) b
      | none, some e => endCmd (unpinMove r.1.d tag) tag (fun x => { x with count := k, status := e.1, detail := e.2 })
      | none, none =>
        match r.2 with
        | .copied => modCmd r.1.d tag (fun x => { x with pos := 2 * k + 1, phase := 2, count := k })
        | .pinned => migrateLoop n r.1.d far tag c
        | .done =>
          if !okStatus c.status then endCmd r.1.d tag (fun x => { x with count := k + 1 })
          else migrateLoop n r.1.d far tag { c with pos := 2 * (k + 1) }

/-- A command has a move under way: one that a context reset stops completes it first (R105). -/
def movePinned (d : Dev) (tag : Nat) : Bool := d.moves.any (fun m => m.2.tag == some tag)

/-- Performs a MIGRATE as far as it goes: while the copy of a page to a pool or host page is not acknowledged it waits.  One
that a context reset has stopped completes the move of its page first (R105). -/
def migrateCmd (d : Dev) (far : Far) (tag : Nat) : Dev :=
  match cmdOf d tag with
  | none => d
  | some c =>
    if (c.phase = 1 ∨ c.phase = 2) ∧ c.opcode = 0x30 ∧ floeOn d c.floe ∧ !owes d (.cmd tag) then
      if okStatus c.status ∨ (movePinned d tag ∧ c.failAt.isNone) then
        match findRange d c.ctx c.gen (c.f 32 8) with
        | some (_, r) =>
          if c.pos = 0 ∧ (r.uni + (c.f 32 8 - r.start)) % 65536 ≠ 0 then
            let w := (W.start d far c.ctx c.gen (c.who tag 4)).refuse (c.f 32 8) 0 0x10 1 0xFFFF 0
            endCmd w.d tag (fun x => { x with status := 0x10 })
          else migrateLoop (2 * c.f 40 4 + 1) d far tag c
        | none => migrateLoop (2 * c.f 40 4 + 1) d far tag c
      else endCmd (unpinMove d tag) tag id
    else d

/-- `MIGRATE` (R106). -/
def execMigrate (tag : Nat) (far : Far) (s : State) : Host.Outcome State Fault Refusal :=
  onDev (.migrate tag far) s (fun d => migrateCmd d far tag)

/-! ### PREFETCH (R107) -/

/-- Lines of the slice among those of the 4 KiB block that holds a line. -/
def blockCached (d : Dev) (line : Nat) : Nat := ((List.range 64).filter (fun i => thas d.cache (line / 64 * 64 + i))).length

/-- Prefetches one line: how many lines have been allocated for it, which is a whole block of a packed page. -/
def W.prefetchAt (w : W) (addr flags : Nat) : W × Nat :=
  let x := w.xlate addr 0
  match x.2 with
  | none => (x.1, 0)
  | some u =>
    let w := x.1
    let line := u / 64
    let page := pageOfLine line
    let p := pageOf w.d page
    if !floeOn w.d (homeFloe page) then (w.failAt addr false (0x42, 0), 0)
    else if p.mot && bitOf flags 0 then (w.touch addr page 0, 0)
    else if !(p.tier = 1 ∨ p.tier = 2) then (w, 0)
    else if isOrphan w.d line then (w.failAt addr false (0x33, 0), 0)
    else
      let d := if bitOf flags 1 then
          { w.d with counts := tput w.d.counts page (rf w.d (plcBase (homeFloe page) + 0x10) 0 16, curEpoch w.d (homeFloe page)) }
        else w.d
      if thas d.cache line then ({ w with d := d }, 0)
      else
        let n := ncReady d line false
        match n.2 with
        | some b => (w.block b, 0)
        | none =>
          let r := slicedRead n.1 w.who line .prefetch true
          match r.2 with
          | .ok _ => ({ w with d := r.1 }, if p.packed then max 1 (blockCached r.1 line - blockCached n.1 line) else 1)
          | .error e => ({ w with d := r.1 }.failAt addr false e, 0)

/-- `PREFETCH` (R107). -/
def execPrefetch (tag : Nat) (far : Far) (s : State) : Host.Outcome State Fault Refusal :=
  onDev (.prefetch tag far) s (fun d =>
    runCmd d far tag 4 [0x31] (fun c w =>
      let r := (lineRuns (c.f 32 8) (c.f 40 8)).foldl (fun (s : W × Nat) l =>
        if s.1.ok then
          let x := s.1.prefetchAt l.1 (c.f 48 1)
          (x.1, s.2 + x.2)
        else s) (w, 0)
      (r.1, fun c => { c with count := r.2 })))

end Sys2Proof.Machine
end

