-- ==== Sys2Proof/Machine/Galley.lean ====
section
/-! DEFINITION. Galleys: the doorbell page, the tail shadow, proofs and their interrupts, AFTER_PREV, FENCE, IMPRESS and
NOP (R193 to R200, R205, R209 to R217). -/

namespace Sys2Proof.Machine

open Sys2Proof

/-! ### The doorbell page (R195 to R200) -/

/-- A galley exists. -/
def galleyExists (d : Dev) (ctx g : Nat) : Bool := thas d.galleys (gkey ctx g)

/-- Counts a value or access that a galley drops. -/
def dropCount (d : Dev) (ctx g : Nat) : Dev := modGalley d ctx g (fun x => { x with dropped := min 0xFFFFFFFF (x.dropped + 1) })

/-- The port may use the doorbell page of a galley (R198). -/
def doorbellOk (d : Dev) (port ctx g : Nat) : Bool :=
  let a := fieldAt (galleyOf d ctx g).par 30 2
  a == 0 || bitOf a port

/-- A write to the registers of a galley: none where no galley is, dropped and counted where the port may not. -/
def doorbell (d : Dev) (port ctx g : Nat) (f : Dev → Dev) : Dev :=
  if !galleyExists d ctx g then d
  else if doorbellOk d port ctx g then f d
  else dropCount d ctx g

/-- `CMD_TAIL_WRITE` (R195). -/
def execCmdTailWrite (port ctx g val : Nat) (s : State) : Host.Outcome State Fault Refusal :=
  onDev (.cmdTailWrite port ctx g val) s (fun d =>
    doorbell d port ctx g (fun d =>
      if (galleyOf d ctx g).state = 4 then dropCount d ctx g else judgeTail d ctx g (val % 2 ^ 32)))

/-- `PROOF_HEAD_WRITE` (R195). -/
def execProofHeadWrite (port ctx g val : Nat) (s : State) : Host.Outcome State Fault Refusal :=
  onDev (.proofHeadWrite port ctx g val) s (fun d =>
    doorbell d port ctx g (fun d =>
      if (galleyOf d ctx g).state = 4 then dropCount d ctx g else judgeHead d ctx g (val % 2 ^ 32)))

/-- START: STOPPED to RUNNING. -/
def startGalley (d : Dev) (ctx g : Nat) : Dev :=
  if (galleyOf d ctx g).state = 0 then modGalley (freshGalley d ctx g) ctx g (fun x => { x with state := 1, restart := false }) else d

/-- `GALLEY_START` (R199). -/
def execGalleyStart (port ctx g : Nat) (s : State) : Host.Outcome State Fault Refusal :=
  onDev (.galleyStart port ctx g) s (fun d => doorbell d port ctx g (fun d => startGalley d ctx g))

/-- STOP: RUNNING to STOPPING, and STOPPED when nothing is in flight. -/
def stopGalley (d : Dev) (ctx g : Nat) : Dev :=
  settleGalley (modGalley d ctx g (fun x => if x.state = 1 then { x with state := 2 } else x)) ctx g

/-- `GALLEY_STOP` (R199). -/
def execGalleyStop (port ctx g : Nat) (s : State) : Host.Outcome State Fault Refusal :=
  onDev (.galleyStop port ctx g) s (fun d => doorbell d port ctx g (fun d => stopGalley d ctx g))

/-- A command of the same galley fetched before this one still holds its tag. -/
def hasEarlier (d : Dev) (c : Cmd) : Bool :=
  d.cmds.any (fun o => o.2.ctx = c.ctx && o.2.g = c.g && decide (o.2.order < c.order))

/-- A command of the same galley fetched before this one is not complete. -/
def earlierWorks (d : Dev) (c : Cmd) : Bool :=
  d.cmds.any (fun o => o.2.ctx = c.ctx && o.2.g = c.g && decide (o.2.order < c.order) && o.2.phase != 3)

/-- A command held by AFTER_PREV starts.  One that has failed the checks of its entry, or has been aborted, ends once the proofs of
all before it stand in the galley's order: its own follows them (R205). -/
def startHeld (d : Dev) (tag : Nat) : Dev :=
  match cmdOf d tag with
  | some c =>
    if c.phase ≠ 0 then d
    else if okStatus c.status then (if hasEarlier d c then d else modCmd d tag (fun c => { c with phase := 1 }))
    else if earlierWorks d c then d
    else endCmd d tag id
  | none => d

/-- Ends a command that has been fetched and not started; the proof of one held by AFTER_PREV stays held (R205). -/
def abortHeld (d : Dev) (tag status : Nat) : Dev :=
  match cmdOf d tag with
  | some c =>
    if !c.waiting then d
    else if c.phase = 0 then startHeld (modCmd d tag (fun c => { c with status := status, detail := 0 })) tag
    else abortCmd d tag status
  | none => d

/-- Ends every command of a galley that has been fetched and not started (R200, R468). -/
def abortWaiting (d : Dev) (ctx g status : Nat) : Dev :=
  (flightTags d ctx g).foldl (fun d t => abortHeld d t status) d

/-- CLEAR_HALT: HALTED to STOPPING; the held proofs are written again, in order (R216).  HALT_CAUSE and HALT_STATUS keep their values,
here and at START, until the next halt (DESIGN CHOICE, log entry 71). -/
def clearHalt (d : Dev) (ctx g : Nat) : Dev :=
  if (galleyOf d ctx g).state = 3 then
    let d := closeErr (modGalley d ctx g (fun x => { x with state := 2, holding := false })) 10 (8 * ctx + g) 4
    settleGalley (issueProof d ctx g) ctx g
  else d

/-- `CLEAR_HALT` (R216). -/
def execClearHalt (port ctx g : Nat) (s : State) : Host.Outcome State Fault Refusal :=
  onDev (.clearHalt port ctx g) s (fun d => doorbell d port ctx g (fun d => clearHalt d ctx g))

/-! ### The tail shadow (R196) -/

/-- Whose reads a command unit's are when no command holds a tag. -/
def unitWho (d : Dev) (ctx g : Nat) : Who := ⟨4, (galleyOf d ctx g).home, 0xFFFF, ctx, true, .proof ctx g⟩

/-- One poll of a galley's tail word. -/
def pollShadow (d : Dev) (far : Far) (ctx g : Nat) : Dev :=
  let x := galleyOf d ctx g
  if !galleyExists d ctx g || x.state != 1 || !bitOf (fieldAt x.par 27 1) 1 || !floeOn d x.home then d
  else
    let a := fieldAt x.par 16 8
    let r := (W.start d far ctx (ctxOf d ctx).gen (unitWho d ctx g)).read a 8
    match r.1.blocked, r.1.err with
    | some b, _ => unblock d b
    | none, some e => haltGalley r.1.d ctx g 5 e.1 a
    | none, none => judgeTail r.1.d ctx g (fieldAt r.2 0 4)

/-- `TAIL_SHADOW_POLL` (R196). -/
def execTailShadowPoll (ctx g : Nat) (far : Far) (s : State) : Host.Outcome State Fault Refusal :=
  onDev (.tailShadowPoll ctx g far) s (fun d => pollShadow d far ctx g)

/-! ### AFTER_PREV, FENCE and NOP (R205, R209, R211) -/

/-- `AFTER_PREV_START` (R205). -/
def execAfterPrevStart (tag : Nat) (s : State) : Host.Outcome State Fault Refusal :=
  onDev (.afterPrevStart tag) s (fun d => startHeld d tag)

/-- The commands a FENCE covers, each as its tag with the number of its fetch. -/
def coveredBy (d : Dev) (c : Cmd) : List Nat :=
  (d.cmds.filter (fun o => o.2.ctx = c.ctx && o.2.g = c.g && decide (o.2.order < c.order))).map (fun o => o.1 + 4096 * o.2.order)

/-- `FENCE` (R209): the command marks what it covers; it was counted when it was fetched. -/
def execFence (tag : Nat) (s : State) : Host.Outcome State Fault Refusal :=
  onDev (.fence tag) s (fun d =>
    match cmdOf d tag with
    | some c => if c.phase = 1 ∧ c.opcode = 0x38 then modCmd d tag (fun c => { c with phase := 2 }) else d
    | none => d)

/-- Nothing is owed any longer to a covered command, and its proof has been written. -/
def coveredDone (d : Dev) (k : Nat) : Bool :=
  (match cmdOf d (k % 4096) with
   | some c => c.order != k / 4096
   | none => true) && !pastOwed d (k / 4096)

/-- `FENCE_COMPLETE` (R209). -/
def execFenceComplete (tag : Nat) (s : State) : Host.Outcome State Fault Refusal :=
  onDev (.fenceComplete tag) s (fun d =>
    match cmdOf d tag with
    | some c => if c.phase = 2 ∧ c.opcode = 0x38 ∧ c.covers.all (coveredDone d) then endCmd d tag id else d
    | none => d)

/-- `NOP` (R211). -/
def execNop (tag : Nat) (s : State) : Host.Outcome State Fault Refusal :=
  onDev (.nop tag) s (fun d =>
    match cmdOf d tag with
    | some c => if c.phase = 1 ∧ c.opcode = 0x3A ∧ floeOn d c.floe then endCmd d tag id else d
    | none => d)

/-! ### IMPRESS (R210) -/

/-- Performs an IMPRESS command. -/
def impressCmd (k : Clock) (d : Dev) (tag : Nat) : Clock × Dev :=
  match cmdOf d tag with
  | none => (k, d)
  | some c =>
    if c.phase = 1 ∧ c.opcode = 0x39 ∧ floeOn d c.floe then
      if !bitOf (fieldAt (galleyOf d c.ctx c.g).ringPar 27 1) 2 then (k, failCmd d tag 0x11 0)
      else if imprSource d = 0 ∨ imprSource d = 3 then
        (k, endCmd d tag (fun c => { c with detail := 1, start := d.now }))
      else
        let r := arriveMark k d
        (r.1, endCmd r.2 tag (fun c => { c with start := d.now, count := r.1.count % 2 ^ 32 }))
    else (k, d)

/-- `IMPRESS` (R210). -/
def execImpress (tag : Nat) (s : State) : Host.Outcome State Fault Refusal :=
  onState (.impress tag) s (fun k d => impressCmd k d tag)

/-! ### Proofs (R214 to R217) -/

/-- `PROOF_WRITE` (R214). -/
def execProofWrite (ctx g : Nat) (s : State) : Host.Outcome State Fault Refusal :=
  onDev (.proofWrite ctx g) s (fun d => issueProof d ctx g)

/-- `PROOF_WRITE_ACK` (R214): once the write, and its mirror where the page has one, are in place. -/
def execProofWriteAck (ctx g : Nat) (s : State) : Host.Outcome State Fault Refusal :=
  onDev (.proofWriteAck ctx g) s (fun d => if owes d (.proof ctx g) then d else ackProof d ctx g)

/-- `COAL_TIMER_EXPIRE` (R217): COAL_NS and IRQ_EN are those of the proofs that wait (R192). -/
def execCoalTimerExpire (ctx g : Nat) (s : State) : Host.Outcome State Fault Refusal :=
  onDev (.coalTimerExpire ctx g) s (fun d =>
    let x := galleyOf d ctx g
    if x.irqEn && decide (0 < x.pending) && fieldAt x.applied 36 4 != 0 then raiseGalley d ctx g else d)

end Sys2Proof.Machine
end

