-- ==== Sys2Proof/Machine/Tile.lean ====
section
/-! DEFINITION. Tile instructions: descriptors, the matrix and vector engines with the checker lanes, and context moves
(R123, R165 to R176, R433 to R435). -/

namespace Sys2Proof.Machine

open Sys2Proof

/-! ### Tile descriptors (R168, R169) -/

/-- A tile. -/
structure Tile where
  base : Nat
  rows : Nat
  rowBytes : Nat
  stride : Nat
  fmt : Nat
  scaled : Bool
  sbase : Nat
  sstride : Nat
  deriving DecidableEq, Repr

/-- Elements of a row. -/
def Tile.cols (t : Tile) : Nat := t.rowBytes * 8 / fmtW t.fmt

/-- Local address of a row. -/
def Tile.row (t : Tile) (r : Nat) : Nat := t.base + r * t.stride

/-- The fields of a descriptor's 32 bytes; reserved bits are ignored (R5). -/
def tileOf (b : Bytes) : Tile :=
  { base := fieldAt b 0 4 % 2 ^ 23, rows := fieldAt b 4 2, rowBytes := fieldAt b 6 2, stride := fieldAt b 8 4,
    fmt := fieldAt b 12 1 % 16, scaled := fieldAt b 13 1 % 2 == 1, sbase := fieldAt b 16 4 % 2 ^ 23, sstride := fieldAt b 20 4 }

/-- The descriptor keeps R168. -/
def tileForm (b : Bytes) (written : Bool) : Bool :=
  let t := tileOf b
  t.base % 64 == 0 && decide (0 < t.rows) && decide (0 < t.rowBytes) && decide (t.fmt ≤ 11) &&
    t.rowBytes % fmtUnit t.fmt == 0 && t.stride % 64 == 0 &&
    (decide (t.rowBytes ≤ t.stride) || (t.stride == 0 && !written)) && (!t.scaled || t.cols % 32 == 0)

/-- Reads the descriptor an instruction names, with the fault cause of R169; `ok` says which tiles the operand position
allows. -/
def readTile (x : Core) (w : Nat) (written : Bool) (ok : Tile → Bool) : Except Nat Tile :=
  let a := bits w 0 23
  if a % 32 ≠ 0 then .error 1
  else
    let b := lmRead x a 32
    let t := tileOf b
    if !tileForm b written || !ok t then .error 1
    else if !lmOk (t.row (t.rows - 1)) t.rowBytes ||
        (t.scaled && !lmOk (t.sbase + (t.rows - 1) * t.sstride) (t.cols / 32)) then .error 9
    else if written && (List.range t.rows).any (fun r => inCode x (t.row r) t.rowBytes) then .error 5
    else .ok t

/-- The bytes of a row. -/
def Tile.bytes (t : Tile) (x : Core) (r : Nat) : Bytes := lmRead x (t.row r) t.rowBytes

/-- The values of a row, scaled (R140). -/
def Tile.vals (t : Tile) (x : Core) (r : Nat) : List Num :=
  let b := t.bytes x r
  (List.range t.cols).map (fun k =>
    let v := decodeNum t.fmt (elemAt t.fmt b k)
    if t.scaled then scaleNum (memGet x.lm (t.sbase + r * t.sstride + k / 32)).toNat v else v)

/-! ### How an instruction ends -/

/-- The outcome of an instruction of an engine that reaches only local memory. -/
inductive TileEnd where
  | done (x : Core)
  /-- a kernel fault with its cause -/
  | fault (cause : Nat)
  /-- a cell that fails its check, at a local address (R176) -/
  | cell (addr : Nat)
  /-- a checker column does not match (R435) -/
  | check (x : Core) (column : Nat) (atStore : Bool)
  deriving DecidableEq, Repr

/-- The state of a channel whose next instruction stands at the head of its queue (R397). -/
def nextChanState (q : List TInstr) : Nat :=
  match q with
  | [] => 0
  | i :: _ => if bits i.w0 32 16 = 0 ∨ i.released then 1 else 2

/-- The instruction that may start at the head of a stream of a running core: its wait is over, and its channel neither
stops nor is still busy with an earlier one. -/
def readyHead (d : Dev) (c st : Nat) : Option TInstr :=
  let x := coreOf d c
  let s := streamOf x st
  -- one that has begun goes on while the core or its channel stops (R128, R398)
  let begun := thas x.latched st
  if (x.state = 2 ∨ (begun ∧ x.state = 3)) ∧ floeRuns d (c / 16) ∧
      (st < 2 ∨ (((chanOf x (st - 2)).state = 1 ∨ (begun ∧ (chanOf x (st - 2)).state = 3)) ∧ s.flight = [])) then
    match s.queue with
    | [] => none
    | i :: _ => if bits i.w0 32 16 = 0 ∨ i.released then some i else none
  else none

/-- Takes the head of a stream's queue into the instructions under way. -/
def startHead (d : Dev) (c st : Nat) (i : TInstr) (owed : List Nat) (chain : Bool) : Dev :=
  modCore d c (fun x => modStream { x with latched := tdel x.latched st } st (fun s =>
    { s with queue := s.queue.drop 1, flight := s.flight ++ [⟨i, owed, chain⟩] }))

/-- Stops a core whose checker found a mismatch (R435). -/
def checkFail (d : Dev) (c : Nat) (x : Core) (column : Nat) (atStore : Bool) : Dev :=
  let d := setCore d c { x with failColumn := column, failAtStore := atStore }
  let d := telF d (c / 16) 0x1738 1
  let d := coreFault d c x.faultCause 0x21 0
  intFailed d (coreWho d c 1 .none) 2 2 c 0 c 0 column 6 0x21 0

/-- A local cell that fails its check: the access fault of R176, with its record. -/
def cellFault (d : Dev) (c src addr : Nat) : Dev :=
  let d := intFailed d (coreWho d c src .none) 1 1 (c / 16) addr (c / 16) 0 0 7 0x26 0
  accessFault d c (0x26, 0)

/-- What reading a tile reads: its descriptor, and with `data` its rows and scales. -/
def tileSpans (x : Core) (w : Nat) (data : Bool) : List (Nat × Nat) :=
  let a := bits w 0 23
  let b := lmRead x a 32
  let t := tileOf b
  (a, 32) ::
    (if data && tileForm b false then
      (List.range t.rows).flatMap (fun r =>
        (t.row r, t.rowBytes) :: (if t.scaled then [(t.sbase + r * t.sstride, t.cols / 32)] else []))
    else [])

/-- The spans of a core's memories that an instruction of the matrix or vector engine reads. -/
def engineSpans (x : Core) (op : Nat) (i : TInstr) : List (Nat × Nat) :=
  let regs (o : Nat) := vregSpan (512 * bits i.w1 o 6) (512 * bits i.w1 32 7)
  if op = 1 then []
  else if op = 2 ∨ op = 0x10 then tileSpans x i.w1 true
  else if op = 3 then tileSpans x i.w1 true ++ tileSpans x i.w2 true
  else if op = 4 then tileSpans x i.w1 false
  else if op = 0x11 then
    let t := tileOf (lmRead x (bits i.w1 0 23) 32)
    tileSpans x i.w1 false ++ [vregSpan (512 * bits i.w2 0 6) (t.rows * t.rowBytes)]
  else regs 8 :: (if op = 0x12 ∧ bits i.w0 8 8 < 8 then regs 16 :: (if bits i.w0 8 8 = 3 then [regs 24] else []) else [])

/-- Performs the instruction at the head of a matrix or vector queue. -/
def engineRow (d : Dev) (c st op : Nat) (body : Core → TInstr → TileEnd) : Dev :=
  match readyHead d c st with
  | none => d
  | some i =>
    if bits i.w0 0 8 ≠ op then d
    else
      let m := sramRead d c (1 + st) (engineSpans (coreOf d c) op i)
      if m.2 then m.1
      else
        let d := m.1
        match body (coreOf d c) i with
        | .done x => startHead (setCore d c x) c st i [] false
        | .fault k => kernelFault d c k
        | .cell a => cellFault d c (1 + st) a
        | .check x j s => checkFail d c x j s

/-- `TNOP` (R171): in the sync window it is performed as the sync instructions are. -/
def execTnop (c st : Nat) (s : State) : Host.Outcome State Fault Refusal :=
  onDev (.tnop c st) s (fun d =>
    match readyHead d c st with
    | none => d
    | some i => if bits i.w0 0 8 = 0 then startHead d c st i [] false else d)

/-! ### The matrix engine (R172, R173, R433, R434) -/

/-- MOD of an instruction. -/
def TInstr.mod (i : TInstr) : Nat := bits i.w0 8 8
/-- SAT of an instruction. -/
def TInstr.sat (i : TInstr) : Bool := bitOf i.w0 28

/-- A cell of the accumulator. -/
def accAt (x : Core) (i j : Nat) : Slug := tget x.acc (64 * i + j) Slug.zero

/-- The sum of a column of the accumulator, modulo 2¹⁹². -/
def colSum (x : Core) (j : Nat) : Int := wrap192 ((List.range 64).foldl (fun n i => n + (accAt x i j).value) 0)

/-- The lowest column whose sum differs from the checker's. -/
def checkCols (x : Core) : Option Nat := (List.range 64).find? (fun j => colSum x j != wrap192 (tget x.cs j 0))

/-- `MZERO` (R172, R433). -/
def mzero (x : Core) : Core := { x with acc := [], cs := [] }

/-- `MZERO` (R172). -/
def execMzero (c : Nat) (s : State) : Host.Outcome State Fault Refusal :=
  onDev (.mzero c) s (fun d => engineRow d c 0 1 (fun x _ => .done (mzero x)))

/-- Sets the cells that a SLUG tile covers; none where a cell fails R143, with the first such address. -/
def loadCells (x : Core) (t : Tile) : Core × Option Nat :=
  (List.range t.rows).foldl (fun (s : Core × Option Nat) i =>
    (List.range t.cols).foldl (fun (s : Core × Option Nat) j =>
      match s.2 with
      | some _ => s
      | none =>
        let a := t.row i + 32 * j
        match slugOf (lmRead s.1 a 32) with
        | some v => ({ s.1 with acc := tput s.1.acc (64 * i + j) v }, none)
        | none => (s.1, some a)) s) (x, none)

/-- The checker's columns read back from the array. -/
def reloadCs (x : Core) : Core := { x with cs := (List.range 64).map (fun j => (j, colSum x j)) }

/-- MLOAD.  DESIGN CHOICE (log entry 57): R172 does not say whether its tile may be SCALED; one that is is refused as
ILLEGAL. -/
def mload (x : Core) (i : TInstr) : TileEnd :=
  match readTile x i.w1 false (fun t => t.fmt = 11 && decide (t.rows ≤ 64) && decide (t.cols ≤ 64) && !t.scaled) with
  | .error k => .fault k
  | .ok t =>
    let r := loadCells x t
    match r.2 with
    | some a => .cell a
    | none => .done (reloadCs r.1)

/-- `MLOAD` (R172). -/
def execMload (c : Nat) (s : State) : Host.Outcome State Fault Refusal :=
  onDev (.mload c) s (fun d => engineRow d c 0 2 mload)

/-- The operand pairs of R147, with SCALED only on narrow tiles (R173). -/
def mmulPair (a b : Tile) : Bool :=
  (fmtNarrow a.fmt && fmtNarrow b.fmt) || (a.fmt == 7 && b.fmt == 7 && !a.scaled && !b.scaled) ||
    (a.fmt == 8 && b.fmt == 8 && !a.scaled && !b.scaled)

/-- The sum of the products of two rows, the departures of its terms, and whether any term was saturated, flushed or not
finite (R145, R148, R434). -/
def dotTerms (a b : List Num) : Slug × Nat × Bool :=
  (List.zip a b).foldl (fun (s : Slug × Nat × Bool) p =>
    let t := termOf (mulNum p.1 p.2)
    (slugAdd s.1 t.1, s.2.1 + t.2, s.2.2 || decide (0 < t.2) || t.1.cls != 0)) (Slug.zero, 0, false)

/-- MMUL: the products enter the accumulator, and the checker adds what it predicts, rechecking where a term did not
enter unaltered. -/
def mmul (recheckAll : Bool) (x : Core) (i : TInstr) : TileEnd :=
  match readTile x i.w1 false (fun t => decide (t.rows ≤ 64)) with
  | .error k => .fault k
  | .ok a =>
    match readTile x i.w2 false (fun t => decide (t.rows ≤ 64)) with
    | .error k => .fault k
    | .ok b =>
      if a.cols ≠ b.cols ∨ !mmulPair a b then .fault 1
      else
        let bv := (List.range b.rows).map (fun j => b.vals x j)
        let r := (List.range a.rows).foldl (fun (s : Core × Nat × Bool) i =>
          let av := a.vals x i
          (List.range b.rows).foldl (fun (s : Core × Nat × Bool) j =>
            let p := dotTerms av (bv.getD j [])
            ({ s.1 with acc := tput s.1.acc (64 * i + j) (slugAdd (accAt s.1 i j) p.1),
                        cs := tput s.1.cs j (wrap192 (tget s.1.cs j 0 + p.1.value)) },
              s.2.1 + p.2.1, s.2.2 || p.2.2)) s) (x, 0, false)
        let y := { r.1 with oor := r.1.oor + r.2.1, rechecks := r.1.rechecks + b2n (r.2.2 || recheckAll) }
        match checkCols y with
        | some j => .check y j false
        | none => .done y

/-- Performs an MMUL and counts a rechecked one (R439). -/
def mmulRow (d : Dev) (c : Nat) : Dev :=
  let r := engineRow d c 0 3 (mmul (rf d (coreBase c + 0x30) 1 1 = 1))
  if (coreOf r c).rechecks > (coreOf d c).rechecks then telF r (c / 16) 0x1740 1 else r

/-- `MMUL` (R173). -/
def execMmul (c : Nat) (s : State) : Host.Outcome State Fault Refusal := onDev (.mmul c) s (fun d => mmulRow d c)

/-- The destinations MSTORE allows. -/
def mstoreFmt (f : Nat) : Bool := f == 9 || f == 7 || f == 8 || f == 0 || f == 1 || f == 10 || f == 5 || f == 11

/-- The bytes of a row of cells in a destination format, with the departures. -/
def storeRow (x : Core) (t : Tile) (sat : Bool) (i : Nat) : Bytes × Nat :=
  if t.fmt = 11 then ((List.range t.cols).flatMap (fun j => cellOf (accAt x i j)), 0)
  else
    let l := (List.range t.cols).map (fun j => slugTo t.fmt sat (accAt x i j))
    (packElems t.fmt (l.map (·.1)), l.foldl (fun n p => n + p.2) 0)

/-- MSTORE. -/
def mstore (x : Core) (i : TInstr) : TileEnd :=
  match readTile x i.w1 true (fun t => mstoreFmt t.fmt && !t.scaled && decide (t.rows ≤ 64) && decide (t.cols ≤ 64)) with
  | .error k => .fault k
  | .ok t =>
    match checkCols x with
    | some j => .check x j true
    | none =>
      let y := (List.range t.rows).foldl (fun (y : Core) r =>
        let b := storeRow x t i.sat r
        { lmWrite y (t.row r) b.1 with oor := y.oor + b.2 }) x
      .done (if bitOf i.mod 0 then mzero y else y)

/-- `MSTORE` (R172). -/
def execMstore (c : Nat) (s : State) : Host.Outcome State Fault Refusal :=
  onDev (.mstore c) s (fun d => engineRow d c 0 4 mstore)

/-! ### The vector engine (R174) -/

/-- Bytes of registers from `r` on. -/
def vread (x : Core) (r n : Nat) : Bytes := memRead x.vregs (512 * r) n

/-- Writes bytes into registers from `r` on. -/
def vwrite (x : Core) (r : Nat) (b : Bytes) : Core :=
  { x with vregs := memWrite x.vregs (512 * r) b, flips := flipsWritten x.flips (2 ^ 23 + 512 * r) b.length }

/-- Registers that hold `n` bytes. -/
def vregsOf (n : Nat) : Nat := (n + 511) / 512

/-- Bytes filled with zeros to whole registers. -/
def vpad (b : Bytes) : Bytes := b ++ zeros (512 * vregsOf b.length - b.length)

/-- VLD. -/
def vld (x : Core) (i : TInstr) : TileEnd :=
  match readTile x i.w1 false (fun _ => true) with
  | .error k => .fault k
  | .ok t =>
    let vd := bits i.w2 0 6
    if vd + vregsOf (t.rows * t.rowBytes) > 64 then .fault 1
    else .done (vwrite x vd (vpad ((List.range t.rows).flatMap (fun r => t.bytes x r))))

/-- `VLD` (R174). -/
def execVld (c : Nat) (s : State) : Host.Outcome State Fault Refusal := onDev (.vld c) s (fun d => engineRow d c 1 0x10 vld)

/-- VST. -/
def vst (x : Core) (i : TInstr) : TileEnd :=
  match readTile x i.w1 true (fun _ => true) with
  | .error k => .fault k
  | .ok t =>
    let vs := bits i.w2 0 6
    if vs + vregsOf (t.rows * t.rowBytes) > 64 then .fault 1
    else .done ((List.range t.rows).foldl (fun y r => lmWrite y (t.row r) (memRead x.vregs (512 * vs + r * t.rowBytes) t.rowBytes)) x)

/-- `VST` (R174). -/
def execVst (c : Nat) (s : State) : Host.Outcome State Fault Refusal := onDev (.vst c) s (fun d => engineRow d c 1 0x11 vst)

/-- Fields of the register word. -/
structure RegWord where
  vd : Nat
  va : Nat
  vb : Nat
  vc : Nat
  count : Nat
  sfmt : Nat
  dfmt : Nat
  deriving DecidableEq, Repr

/-- The register word of an instruction. -/
def regWord (i : TInstr) : RegWord :=
  ⟨bits i.w1 0 6, bits i.w1 8 6, bits i.w1 16 6, bits i.w1 24 6, bits i.w1 32 7, bits i.w1 40 4, bits i.w1 44 4⟩

/-- A run of registers stays within the 64. -/
def runOk (r n : Nat) : Bool := decide (r + n ≤ 64)

/-- COUNT is 1 to 64 and its run from VA is within the registers. -/
def countOk (w : RegWord) : Bool := decide (1 ≤ w.count) && decide (w.count ≤ 64) && runOk w.va w.count

/-- The elements of the source registers. -/
def srcElems (x : Core) (r n f : Nat) : List Nat :=
  let b := vread x r (512 * n)
  (List.range (elemCount f b)).map (elemAt f b)

/-- Writes converted results, packed, with their departures.  What they do not fill of the last register is left as it was (DESIGN
CHOICE, log entry 70). -/
def putResults (x : Core) (vd f : Nat) (l : List (Nat × Nat)) : Core :=
  let y := vwrite x vd (packElems f (l.map (·.1)))
  { y with oor := y.oor + l.foldl (fun n p => n + p.2) 0 }

/-- Registers a conversion writes (R174). -/
def destRegs (w : RegWord) : Nat := (w.count * fmtW w.dfmt + fmtW w.sfmt - 1) / fmtW w.sfmt

/-- Formats of FP32, BF16 and FP16. -/
def wideFloat (f : Nat) : Bool := f == 9 || f == 7 || f == 8

/-- VOP. -/
def vop (x : Core) (i : TInstr) : TileEnd :=
  let w := regWord i
  let m := i.mod
  if m > 9 ∨ !countOk w then .fault 1
  else if m = 8 then
    if w.sfmt > 10 ∨ w.dfmt > 10 ∨ !runOk w.vd (destRegs w) then .fault 1
    else .done (putResults x w.vd w.dfmt ((srcElems x w.va w.count w.sfmt).map (convert w.sfmt w.dfmt i.sat)))
  else if !(wideFloat w.sfmt || w.sfmt == 5 || w.sfmt == 10) || w.dfmt ≠ w.sfmt || !runOk w.vd w.count ||
      (m ≠ 9 && !runOk w.vb w.count) || (m = 3 && !runOk w.vc w.count) then .fault 1
  else
    let a := srcElems x w.va w.count w.sfmt
    let b := if m = 9 then a else srcElems x w.vb w.count w.sfmt
    let c := if m = 3 then srcElems x w.vc w.count w.sfmt else a
    .done (putResults x w.vd w.sfmt ((List.zip a (List.zip b c)).map (fun p => elemOp m w.sfmt i.sat p.1 p.2.1 p.2.2)))

/-- `VOP` (R174). -/
def execVop (c : Nat) (s : State) : Host.Outcome State Fault Refusal := onDev (.vop c) s (fun d => engineRow d c 1 0x12 vop)

/-- The lanes of the source registers: for each lane position, its elements across the registers.  Elements of FP6 do not fill a
register: each register holds 682 lanes and its last two bytes none here, while `srcElems` runs them on across registers (DESIGN
CHOICE, log entry 70). -/
def laneElems (x : Core) (w : RegWord) : List (List Nat) :=
  let per := 4096 / fmtW w.sfmt
  (List.range per).map (fun l => (List.range w.count).map (fun r => elemAt w.sfmt (vread x (w.va + r) 512) l))

/-- The maximum of elements, in their own format (R157). -/
def maxElems (f : Nat) (sat : Bool) (l : List Nat) : Nat × Nat :=
  match l with
  | [] => (0, 0)
  | a :: t => writeNum f sat (t.foldl (fun m e => minmaxNum true m (decodeNum f e)) (decodeNum f a))

/-- VRED.  SLUG as a source, or as the destination of a result that is rounded, is no format of it: cause 1 (DESIGN CHOICE, log entry
70). -/
def vred (x : Core) (i : TInstr) : TileEnd :=
  let w := regWord i
  let m := i.mod
  if !countOk w ∨ w.sfmt > 10 ∨ (bitOf m 2 ∧ m % 4 < 2 ∧ w.dfmt > 10) then .fault 1
  else
    let groups := if m % 2 = 1 then laneElems x w else [srcElems x w.va w.count w.sfmt]
    if m % 4 ≥ 2 then
      let l := groups.map (maxElems w.sfmt i.sat)
      let b := vpad (packElems w.sfmt (l.map (·.1)))
      if !runOk w.vd (vregsOf b.length) then .fault 1
      else
        let y := vwrite x w.vd b
        .done { y with oor := y.oor + l.foldl (fun n p => n + p.2) 0 }
    else
      let sums := groups.map (fun g => sumNums (g.map (decodeNum w.sfmt)))
      let out := if bitOf m 2 then sums.map (fun s => slugTo w.dfmt i.sat s.1) else []
      let b := vpad (if bitOf m 2 then packElems w.dfmt (out.map (·.1)) else sums.flatMap (fun s => cellOf s.1))
      if !runOk w.vd (vregsOf b.length) then .fault 1
      else
        let y := vwrite x w.vd b
        .done { y with oor := y.oor + sums.foldl (fun n s => n + s.2) 0 + out.foldl (fun n p => n + p.2) 0 }

/-- `VRED` (R174). -/
def execVred (c : Nat) (s : State) : Host.Outcome State Fault Refusal := onDev (.vred c) s (fun d => engineRow d c 1 0x13 vred)

/-- VFN. -/
def vfn (x : Core) (i : TInstr) : TileEnd :=
  let w := regWord i
  if !countOk w ∨ !wideFloat w.sfmt ∨ !wideFloat w.dfmt ∨ !runOk w.vd (destRegs w) then .fault 1
  else .done (putResults x w.vd w.dfmt
    ((srcElems x w.va w.count w.sfmt).map (fun e => definedFn (i.mod % 4) w.dfmt i.sat (decodeNum w.sfmt e))))

/-- `VFN` (R174). -/
def execVfn (c : Nat) (s : State) : Host.Outcome State Fault Refusal := onDev (.vfn c) s (fun d => engineRow d c 1 0x14 vfn)

/-- VQNT. -/
def vqnt (x : Core) (i : TInstr) : TileEnd :=
  let w := regWord i
  if !countOk w ∨ !wideFloat w.sfmt ∨ !fmtNarrow w.dfmt ∨ !runOk w.vd (destRegs w) then .fault 1
  else
    let e := (srcElems x w.va w.count w.sfmt).map (decodeNum w.sfmt)
    let blocks := (List.range (e.length / 32)).map (fun k => mxBlock w.dfmt ((e.drop (32 * k)).take 32))
    let y := vwrite x w.vd (packElems w.dfmt (blocks.flatMap (·.1)))
    let y := vwrite y w.vc (blocks.map (fun b => BitVec.ofNat 8 b.2.1))
    .done { y with oor := y.oor + blocks.foldl (fun n b => n + b.2.2) 0 }

/-- `VQNT` (R174). -/
def execVqnt (c : Nat) (s : State) : Host.Outcome State Fault Refusal :=
  onDev (.vqnt c) s (fun d => engineRow d c 1 0x15 vqnt)

/-! ### Context moves (R175, R176, R392) -/

/-- Fabric requests outstanding that were not before. -/
def newOwed (old new : Dev) : List Nat := (tkeys new.fab).filter (fun u => !thas old.fab u)

/-- Adds to the destination bytes of a stream's channel. -/
def countBytes (d : Dev) (c st n : Nat) : Dev :=
  if st < 2 then d else modCore d c (fun x => modChan x (st - 2) (fun h => { h with count := (h.count + n) % 2 ^ 64 }))

/-- Reads context bytes into local memory, a line at a time: what was read before a failure stands (R71). -/
def W.intoLm (w : W) (c st addr n la : Nat) : W :=
  (lineRuns addr n).foldl (fun w r =>
    if w.ok then
      let x := w.read r.1 r.2.2
      if x.1.ok then
        { x.1 with d := countBytes (modCore x.1.d c (fun k => lmWrite k (la + (r.1 - addr)) x.2)) c st r.2.2 }
      else x.1
    else w) w

/-- Writes local bytes to context addresses, a line at a time. -/
def W.fromLm (w : W) (c st addr n la : Nat) (final : Bool) : W :=
  (lineRuns addr n).foldl (fun w r =>
    if w.ok then
      let x := w.writeF r.1 (lmRead (coreOf w.d c) (la + (r.1 - addr)) r.2.2) final
      if x.ok then { x with d := countBytes x.d c st r.2.2 } else x
    else w) w

/-- The tile of a context move: its descriptor is read once, and one that has begun uses what it read (R169, R392). -/
def moveTile (x : Core) (st : Nat) (i : TInstr) (written : Bool) (ok : Tile → Bool) : Except Nat Tile :=
  match tget? x.latched st with
  | some b => .ok (tileOf b)
  | none => readTile x i.w1 written ok

/-- The spans of local memory that a context move reads. -/
def moveSpans (x : Core) (st op : Nat) (i : TInstr) : List (Nat × Nat) :=
  if op = 0x22 then []
  else
    match tget? x.latched st with
    | some b => if op = 0x20 then [] else (List.range (tileOf b).rows).map (fun r => ((tileOf b).row r, (tileOf b).rowBytes))
    | none => tileSpans x i.w1 (op ≠ 0x20)

/-- A move has begun and waits: it keeps the descriptor that it has read. -/
def latchMove (d : Dev) (c st : Nat) (i : TInstr) : Dev :=
  modCore d c (fun x =>
    if thas x.latched st then x else { x with latched := tput x.latched st (lmRead x (bits i.w1 0 23) 32) })

/-- A halted move keeps it too: RESUME performs it again as it was read (R391, R392, R400). -/
def keepLatch (old : Dev) (c st : Nat) (i : TInstr) (d : Dev) : Dev :=
  let b := tget (coreOf old c).latched st (lmRead (coreOf old c) (bits i.w1 0 23) 32)
  modCore d c (fun x => { x with latched := tput x.latched st b })

/-- Performs a context move from the head of a stream.  One flagged FINAL is held as a whole while its stream is owed
anything: its lines wait among the requests, and the queue goes on (R134, R166).  A refused line stops it (R176); on a
DMA channel it is an internal descriptor, and the channel halts (R392, R399).  DESIGN CHOICE (log entry 57): in the matrix and vector
windows a refusal with a status outside R176's list stops the core with that status too. -/
def moveRow (d : Dev) (far : Far) (c st op : Nat) (writes : Bool) (check : Core → TInstr → Option Nat)
    (body : Bool → TInstr → W → W) : Dev :=
  match readyHead d c st with
  | none => d
  | some i =>
    let o := streamOwner c st
    let final := writes && bitOf i.w0 27 && mustHold d o 0 true
    let src := if st = 0 then 1 else if st = 1 then 2 else 3
    if bits i.w0 0 8 ≠ op then d
    else
      let m := sramRead d c src (moveSpans (coreOf d c) st op i)
      let d := m.1
      if m.2 then d
      else
      match check (coreOf d c) i with
      | some k => kernelFault d c k
      | none =>
        let w := body final i (coreWork d far c src o)
        match w.blocked with
        | some b => unblock (latchMove d c st i) b
        | none =>
          let own := newOwed d w.d
          let e := noteWrites (if final then { w.d with fab := holdTogether w.d.fab own } else w.d) c w.wrote
          match w.err with
          | none => startHead e c st i own false
          | some x =>
            if st < 2 then accessFault (startHead e c st i own false) c x
            else haltChan (keepLatch d c st i (startHead e c st i own false)) c (st - 2) x.1 x.2 w.errAddr w.errWrite
              (op = 0x23 ∧ x.1 = 0x26 ∧ !w.errWrite)

/-- The check of a move's descriptor; `unit` is the alignment of address and stride. -/
def moveCheck (st : Nat) (written : Bool) (ok : Tile → Bool) (unit : Nat) (x : Core) (i : TInstr) : Option Nat :=
  match moveTile x st i written ok with
  | .error k => some k
  | .ok _ => if bits i.w2 0 48 % unit ≠ 0 ∨ bits i.w3 0 32 % unit ≠ 0 then some 1 else none

/-- The tile of a move that has been checked. -/
def tileAt (d : Dev) (c st : Nat) (i : TInstr) : Tile :=
  tileOf (tget (coreOf d c).latched st (lmRead (coreOf d c) (bits i.w1 0 23) 32))

/-- XLD: the context bytes of each row into the tile. -/
def xldBody (c st : Nat) (_ : Bool) (i : TInstr) (w : W) : W :=
  let t := tileAt w.d c st i
  (List.range t.rows).foldl (fun w r =>
    w.intoLm c st (bits i.w2 0 48 + r * bits i.w3 0 32) t.rowBytes (t.row r)) w

/-- `XLD` (R175). -/
def execXld (c st : Nat) (far : Far) (s : State) : Host.Outcome State Fault Refusal :=
  onDev (.xld c st far) s (fun d => moveRow d far c st 0x20 false (moveCheck st true (fun _ => true) 1) (xldBody c st))

/-- XST: the tile to the context bytes. -/
def xstBody (c st : Nat) (final : Bool) (i : TInstr) (w : W) : W :=
  let t := tileAt w.d c st i
  (List.range t.rows).foldl (fun w r =>
    w.fromLm c st (bits i.w2 0 48 + r * bits i.w3 0 32) t.rowBytes (t.row r) final) w

/-- `XST` (R175). -/
def execXst (c st : Nat) (far : Far) (s : State) : Host.Outcome State Fault Refusal :=
  onDev (.xst c st far) s (fun d => moveRow d far c st 0x21 true (moveCheck st false (fun _ => true) 1) (xstBody c st))

/-- Bytes that XSTI writes. -/
def xstiSize (i : TInstr) : Nat := 2 ^ (i.mod % 4)

/-- `XSTI` (R175). -/
def execXsti (c st : Nat) (far : Far) (s : State) : Host.Outcome State Fault Refusal :=
  onDev (.xsti c st far) s (fun d =>
    moveRow d far c st 0x22 true (fun _ i => if bits i.w2 0 48 % xstiSize i ≠ 0 then some 1 else none)
      (fun final i w =>
        let w := w.writeF (bits i.w2 0 48) (leBytes (xstiSize i) i.w3) final
        if w.ok then { w with d := countBytes w.d c st (xstiSize i) } else w))

/-- XADD: each cell of the tile into the cell at the context address.  A local cell that fails R143 stops it. -/
def xaddBody (c st : Nat) (final : Bool) (i : TInstr) (w : W) : W :=
  let t := tileAt w.d c st i
  let x := coreOf w.d c
  (List.range t.rows).foldl (fun w r =>
    (List.range t.cols).foldl (fun w j =>
      if w.ok then
        let a := t.row r + 32 * j
        match slugOf (lmRead x a 32) with
        | some s =>
          let w := w.exactAdd (bits i.w2 0 48 + r * bits i.w3 0 32 + 32 * j) s final
          if w.ok then { w with d := countBytes w.d c st 32 } else w
        | none =>
          { w with d := intFailed w.d w.who 1 1 (c / 16) a (c / 16) 0 0 7 0x26 0 }.failAt a false (0x26, 0)
      else w) w) w

/-- `XADD` (R175). -/
def execXadd (c st : Nat) (far : Far) (s : State) : Host.Outcome State Fault Refusal :=
  onDev (.xadd c st far) s (fun d =>
    moveRow d far c st 0x23 true (moveCheck st false (fun t => t.fmt == 11) 32) (xaddBody c st))

end Sys2Proof.Machine
end

