-- ==== Sys2Proof/Machine/Kernel.lean ====
section
/-! DEFINITION. Kernels: issue windows, tokens, the completion of instructions, sync instructions, core states, RUN, and
the stream prefetchers (R114, R123 to R128, R131, R165, R166, R177 to R189, R436). -/

namespace Sys2Proof.Machine

open Sys2Proof

/-! ### Objects (R49, R50) -/

/-- The DETAIL of HANDLE_FAULT for a handle that must name an object of a type in a context (R43, R50). -/
def handleFault (d : Dev) (ctx handle type : Nat) : Option Nat :=
  if handle / 4096 ≠ type then some 3
  else if (objOf d ctx handle).isSome then none else some 1

/-! ### What a core owes (R131) -/

/-- A request of a core for a cached copy awaits the directory's answer (R342). -/
def coreDirPending (d : Dev) (c : Nat) : Bool :=
  d.dirWait.any (fun w => opAgent w.2 == some c) || d.dir.any (fun e => e.2.txn.any (fun t => opAgent t.op == some c))

/-- Accesses of any engine of a core still await an acknowledgement, or its directory request an answer. -/
def coreOwes (d : Dev) (c : Nat) : Bool :=
  owes d (.scalar c 0 0) || (List.range 18).any (fun st => owes d (streamOwner c st)) || coreDirPending d c

/-- Every queue of a core is empty, every issued instruction is complete, and no channel is halted (R177, R399). -/
def drained (x : Core) : Bool :=
  x.streams.all (fun s => s.2.queue.isEmpty && s.2.flight.isEmpty) && x.chans.all (fun h => h.2.state != 5)

/-- One more instruction retired (R129).  How often its engine was refused at a bank on the way is timing: the counter of
R117 advances by a free value (log entry 60). -/
def retire (d : Dev) (c : Nat) : Dev :=
  useFree (telF (telF d (c / 16) (0x2008 + c % 16 * 0x40) 1) (c / 16) (0x2000 + c % 16 * 0x40) (freeVal d))

/-! ### Issuing (R165, R166, R171) -/

/-- Windows: 0 matrix, 1 vector, 2 + h DMA channel h, 18 sync. -/
def windowTakes (win op : Nat) : Bool :=
  if op = 0 then true
  else if 1 ≤ op ∧ op ≤ 4 then win == 0
  else if 0x10 ≤ op ∧ op ≤ 0x15 then win == 1
  else if 0x20 ≤ op ∧ op ≤ 0x23 then win != 18
  else if op = 0x28 then decide (2 ≤ win) && win != 18
  else if 0x30 ≤ op ∧ op ≤ 0x34 then win == 18
  else false

/-- The instruction staged in a window. -/
def staged (x : Core) (win : Nat) : TInstr :=
  ⟨tget x.stage (4 * win) 0, tget x.stage (4 * win + 1) 0, tget x.stage (4 * win + 2) 0, tget x.stage (4 * win + 3) 0, false⟩

/-- Puts the staged instruction into the queue of its window; a full queue stalls the scalar engine. -/
def enqueue (d : Dev) (c win : Nat) : Dev :=
  modCore d c (fun x =>
    let i := staged x win
    if win = 18 then { x with sync := some i, stalled := none }
    else
      if queued x win ≥ streamCap win then { x with stalled := some win }
      else
        let y := modStream { x with stalled := none } win (fun s => { s with queue := s.queue ++ [i] })
        if 2 ≤ win ∧ (chanOf x (win - 2)).state = 0 then
          modChan y (win - 2) (fun h => { h with state := nextChanState [i] })
        else y)

/-- A store to WORD3 commits the instruction: a reserved or foreign opcode or a reserved header bit is a kernel fault. -/
def commitWindow (d : Dev) (c win : Nat) : Dev :=
  let i := staged (coreOf d c) win
  if !windowTakes win (bits i.w0 0 8) || bits i.w0 29 3 != 0 || bits i.w0 48 16 != 0 then kernelFault d c 1
  else enqueue d c win

/-- `ISSUE_STALL_RELEASE` (R165): a place has freed in the full queue. -/
def execIssueStallRelease (c : Nat) (s : State) : Host.Outcome State Fault Refusal :=
  onDev (.issueStallRelease c) s (fun d =>
    let x := coreOf d c
    match x.stalled with
    | some win => if x.state = 2 ∧ queued x win < streamCap win then enqueue d c win else d
    | none => d)

/-! ### Tokens (R123) -/

/-- A stream before `st` in the order of R123 waits at its head for a count that token `t` holds. -/
def waitsFirst (x : Core) (st t : Nat) : Bool :=
  (List.range st).any (fun k =>
    match (streamOf x k).queue with
    | [] => false
    | i :: _ =>
      let n := bits i.w0 32 16
      !i.released && n != 0 && bits i.w0 22 5 == t && decide (n ≤ tokenOf x t) && (k < 2 || (chanOf x (k - 2)).state == 2))

/-- A wait of a stream, 18 for the scalar engine, that the token can meet: the count is taken from it.  The streams before
it that wait on the token come first (R123). -/
def takeToken (x : Core) (st : Nat) (i : TInstr) : Option Core :=
  let t := bits i.w0 22 5
  let n := bits i.w0 32 16
  if n = 0 then some x
  else if n ≤ tokenOf x t ∧ !waitsFirst x st t then some { x with tokens := tput x.tokens t (tokenOf x t - n) }
  else none

/-- Releases the wait of the instruction at the head of a stream. -/
def releaseWait (d : Dev) (c st : Nat) : Dev :=
  let x := coreOf d c
  match (streamOf x st).queue with
  | [] => d
  | i :: rest =>
    if x.state ≠ 2 ∨ i.released ∨ bits i.w0 32 16 = 0 ∨ (2 ≤ st ∧ (chanOf x (st - 2)).state ≠ 2) then d
    else
      match takeToken x st i with
      | none => d
      | some y =>
        let y := modStream y st (fun s => { s with queue := { i with released := true } :: rest })
        setCore d c (if 2 ≤ st then modChan y (st - 2) (fun h => { h with state := 1 }) else y)

/-- `TOKEN_WAIT_RELEASE` (R123). -/
def execTokenWaitRelease (c st : Nat) (s : State) : Host.Outcome State Fault Refusal :=
  onDev (.tokenWaitRelease c st) s (fun d => releaseWait d c st)

/-! ### Completion (R131, R393) -/

/-- The pulse of a channel on its event line. -/
def pulseChan (d : Dev) (c h n : Nat) : Dev := pulseLine d (c / 16) (rf d (chanBase c h + 8) 0 8) n

/-- The oldest instruction of a stream has everything it is owed. -/
def flightDone (d : Dev) (c st : Nat) (f : Flight) : Bool :=
  !f.chain && f.owed.all (fun u => !(tget? d.fab u).any (·.owed)) &&
    (let o := streamOwner c st
     !(d.mbr.sync.any (fun s => sameStream s.2 o) || d.ports.any (fun p => p.2.io.any (fun r =>
        match r.2.use with
        | .hostWrite x _ => sameStream x o
        | _ => false))))

/-- The channel after an instruction of its queue has ended. -/
def chanNext (x : Core) (h : Nat) (internal : Bool) : Core :=
  modChan x h (fun k =>
    { k with state := if k.state = 3 then 4 else nextChanState (streamOf x (h + 2)).queue,
             crcMode := if internal then 0 else k.crcMode, prog := 0, desc := 0, bytes64 := [] })

/-- Completes the oldest instruction of a stream: its signal, and the pulse of its channel. -/
def completeOne (d : Dev) (c st : Nat) : Dev :=
  let x := coreOf d c
  match (streamOf x st).flight with
  | [] => d
  | f :: rest =>
    if !(x.state = 2 ∨ x.state = 3) ∨ !flightDone d c st f ∨ (2 ≤ st ∧ (chanOf x (st - 2)).state ≥ 4) then d
    else
      let y := modStream x st (fun s => { s with flight := rest })
      let op := bits f.ins.w0 0 8
      let y := if 2 ≤ st then chanNext y (st - 2) (decide (0x20 ≤ op) && decide (op ≤ 0x23)) else y
      let d := retire (setCore d c y) c
      let d := if bitOf f.ins.w0 21 then signalToken d c (bits f.ins.w0 16 5) 1 else d
      if 2 ≤ st ∧ rf d (chanBase c (st - 2) + 8) 8 1 = 1 then pulseChan d c (st - 2) 1 else d

/-- `INSTRUCTION_COMPLETE` (R131). -/
def execInstructionComplete (c st : Nat) (s : State) : Host.Outcome State Fault Refusal :=
  onDev (.instructionComplete c st) s (fun d => completeOne d c st)

/-! ### Sync instructions (R177, R178) -/

/-- The end of a kernel on its core (R187, R342): the data cache is written back, and the command notes the end. -/
def endKernel (d : Dev) (c state : Nat) (e : Ended) : Dev :=
  let d := dropReads (dcClear d c) (fun o => o.ofCore c)
  let x := coreOf d c
  let d := setCore d c { x with state := state, sync := none, stalled := none, stopWith := none, streams := [], latched := [],
                                chans := x.chans.map (fun h => (h.1, { h.2 with state := 0, prog := 0 })) }
  modCmd d x.tag (fun m =>
    { m with ends := tput m.ends x.launch e, oor := m.oor + x.oor, rechecks := m.rechecks + x.rechecks })

/-- The fields of the proof of a RUN whose cores have all ended (R187). -/
def runProof (m : Cmd) : Cmd :=
  let m := match m.ends.find? (fun e => e.2.stopped) with
    | some e => { m with status := e.2.status, detail := e.2.detail }
    | none => { m with status := if m.ends.any (fun e => e.2.status = 1) then 1 else 0 }
  { m with count := m.ends.foldl (fun n e => n + if e.2.stopped then 0 else e.2.result) 0,
           digest := crc64 (m.ends.flatMap (fun e => leBytes 8 (if e.2.stopped then 0 else e.2.digest))) }

/-- Ends a RUN once every core of its launch has ended; a built-in command whose firmware kernel has stopped ends with the
status that the launch's would have. -/
def finishLaunch (d : Dev) (tag : Nat) : Dev :=
  match cmdOf d tag with
  | some m =>
    if m.phase ≠ 2 ∨ m.ends.length ≠ m.cores.length then d
    else if m.opcode = 0x28 then endCmd d tag runProof
    else failCmd d tag (runProof m).status (runProof m).detail
  | none => d

/-- Performs the instruction of the sync window when its opcode is one of those given: it waits first, and signals
last, once every earlier context write of the scalar engine is acknowledged. -/
def syncRow (d : Dev) (c : Nat) (ops : List Nat) (ready : Dev → TInstr → Bool) (act : Dev → TInstr → Dev) : Dev :=
  let x := coreOf d c
  match x.sync with
  | none => d
  | some i =>
    if x.state ≠ 2 ∨ !ops.contains (bits i.w0 0 8) then d
    else
      match (if i.released then some x else takeToken x 18 i) with
      | none => d
      | some y =>
        let d := setCore d c { y with sync := some { i with released := true } }
        let sig := bitOf i.w0 21 || bits i.w0 0 8 == 0x31
        if !ready d i || (sig && owes d (.scalar c 0 0)) then d
        else
          let d := act (retire (modCore d c (fun x => { x with sync := none })) c) i
          if sig ∧ (coreOf d c).state = 2 then signalToken d c (bits i.w0 16 5) 1 else d

/-- `SWAIT` (R177): so is TNOP in the sync window. -/
def execSwait (c : Nat) (s : State) : Host.Outcome State Fault Refusal :=
  onDev (.swait c) s (fun d => syncRow d c [0x30, 0] (fun _ _ => true) (fun d _ => d))

/-- `SSIGNAL` (R177). -/
def execSsignal (c : Nat) (s : State) : Host.Outcome State Fault Refusal :=
  onDev (.ssignal c) s (fun d => syncRow d c [0x31] (fun _ _ => true) (fun d _ => d))

/-- A pulse by a core: a line that the launch does not own is a kernel fault (R189). -/
def corePulse (d : Dev) (c line n : Nat) : Dev :=
  if ownsLine d c line then pulseLine d (c / 16) line (if n = 0 then 1 else n) else kernelFault d c 1

/-- `SPULSE` (R177). -/
def execSpulse (c : Nat) (s : State) : Host.Outcome State Fault Refusal :=
  onDev (.spulse c) s (fun d =>
    syncRow d c [0x32] (fun _ _ => true) (fun d i => corePulse d c (bits i.w1 0 8) (bits i.w1 8 4)))

/-- `SDRAIN` (R177). -/
def execSdrain (c : Nat) (s : State) : Host.Outcome State Fault Refusal :=
  onDev (.sdrain c) s (fun d => syncRow d c [0x33] (fun d _ => drained (coreOf d c)) (fun d _ => d))

/-- SEND: the kernel ends with its result, or faults where STATUS is neither OK nor OK_PARTIAL. -/
def sendAct (c : Nat) (d : Dev) (i : TInstr) : Dev :=
  let st := bits i.w1 32 8
  if st > 1 then kernelFault d c 1
  else
    -- the write-back of its data cache may fail, and then the core stops instead (R111, R342)
    let e := dcClear d c
    if (coreOf e c).state ≠ 2 then e
    else finishLaunch (endKernel e c 0 ⟨st, 0, bits i.w1 0 32, i.w2, false⟩) (coreOf d c).tag

/-- `SEND` (R178). -/
def execSend (c : Nat) (s : State) : Host.Outcome State Fault Refusal :=
  onDev (.send c) s (fun d =>
    syncRow d c [0x34] (fun d _ => drained (coreOf d c) && !coreOwes d c) (sendAct c))

/-- `EVENT_PULSE` (R125). -/
def execEventPulse (c eline cnt : Nat) (s : State) : Host.Outcome State Fault Refusal :=
  onDev (.eventPulse c eline cnt) s (fun d => if (coreOf d c).state = 2 then corePulse d c eline cnt else d)

/-! ### Core states (R114, R128, R188) -/

/-- `SCALAR_TRAP` (R114): a kernel fault with the cause of R128. -/
def execScalarTrap (c cause : Nat) (s : State) : Host.Outcome State Fault Refusal :=
  onDev (.scalarTrap c cause) s (fun d => if kernelRuns d c then kernelFault d c cause else d)

/-- `CORE_STOP` (R128). -/
def execCoreStop (c : Nat) (s : State) : Host.Outcome State Fault Refusal :=
  onDev (.coreStop c) s (fun d => coreStop d c 0x51)

/-- `CLEAR_FAULT` (R128). -/
def execClearFault (c : Nat) (s : State) : Host.Outcome State Fault Refusal :=
  onDev (.clearFault c) s (fun d => clearFault d c)

/-- `CORE_WATCHDOG` (R128). -/
def execCoreWatchdog (c : Nat) (s : State) : Host.Outcome State Fault Refusal :=
  onDev (.coreWatchdog c) s (fun d =>
    if kernelRuns d c ∧ rf d (coreBase c + 0x10) 0 32 ≠ 0 then kernelFault d c 8 else d)

/-- An engine of a core is still to complete what it has started; a halted or stopped channel is at its boundary. -/
def coreStarted (d : Dev) (c : Nat) : Bool :=
  let x := coreOf d c
  !(streamOf x 0).flight.isEmpty || !(streamOf x 1).flight.isEmpty || thas x.latched 0 || thas x.latched 1 ||
    (List.range 16).any (fun h => decide ((chanOf x h).state < 4) && chanBegun x h)

/-- The end of STOPPING: the started instructions are complete, and the rest is discarded. -/
def stopDone (d : Dev) (c : Nat) : Dev :=
  let x := coreOf d c
  if x.state ≠ 3 ∨ coreOwes d c ∨ coreStarted d c then d
  else
    let (st, det, faulted) := x.stopWith.getD (0x51, 0, false)
    finishLaunch (endKernel d c (if st = 0x21 then 5 else if faulted then 4 else 0) ⟨st, det, 0, 0, true⟩) x.tag

/-- `CORE_STOP_DONE` (R128). -/
def execCoreStopDone (c : Nat) (s : State) : Host.Outcome State Fault Refusal :=
  onDev (.coreStopDone c) s (fun d => stopDone d c)

/-! ### RUN (R182 to R186) -/

/-- The floes of a mask, ascending. -/
def maskFloes (m : Nat) : List Nat := (List.range 4).filter (fun f => bitOf m f)

/-- CORES_PER_FLOE of a RUN. -/
def Cmd.perFloe (c : Cmd) : Nat := c.f 35 1

/-- The floes a RUN names. -/
def Cmd.runFloes (c : Cmd) : List Nat := maskFloes (c.f 34 1 % 16)

/-- Cores of a floe that are not QUARANTINED. -/
def soundCores (d : Dev) (f : Nat) : Nat := ((List.range 16).filter (fun i => (coreOf d (16 * f + i)).state ≠ 5)).length

/-- The checks of a RUN (R184, R436): none when it may wait for its cores.  DESIGN CHOICE (log entry 56): R184 names no
status for CORES_PER_FLOE above 16, which is ENTRY_INVALID here, and no order of the checks, which is this one. -/
def checkRun (d : Dev) (c : Cmd) : Option (Nat × Nat) :=
  match handleFault d c.ctx (c.f 32 2) 0xA with
  | some k => some (0x16, k)
  | none =>
    let img := ((objOf d c.ctx (c.f 32 2)).map (·.par)).getD []
    let n := c.perFloe * c.runFloes.length
    if c.perFloe > 16 then some (0x18, 0)
    else if n < fieldAt img 36 2 ∨ n > fieldAt img 38 2 ∨ c.f 36 4 > fieldAt img 40 4 then some (0x40, 0)
    else if c.runFloes.any (fun f => !floeOn d f) then some (0x42, 0)
    else if c.runFloes.any (fun f => decide (soundCores d f < c.perFloe)) then some (0x40, 0)
    else none

/-- Puts a RUN into the order of the queue: time of fetch, then tag (R185). -/
def insertRun (cmds : Tab Cmd) (start tag : Nat) : List Nat → List Nat
  | [] => [tag]
  | t :: rest =>
    let s := ((tget? cmds t).map (·.start)).getD 0
    if start < s ∨ (start = s ∧ tag < t) then tag :: t :: rest else t :: insertRun cmds start tag rest

/-- A RUN takes its place among the requests for cores. -/
def queueRun (d : Dev) (tag : Nat) : Dev :=
  match cmdOf d tag with
  | none => d
  | some c =>
    if c.phase = 1 ∧ c.opcode = 0x28 ∧ !d.runq.contains tag then
      match checkRun d c with
      | some (st, det) => failCmd d tag st det
      | none => { d with runq := insertRun d.cmds c.start tag d.runq }
    else d

/-- `RUN` (R184). -/
def execRun (tag : Nat) (s : State) : Host.Outcome State Fault Refusal := onDev (.run tag) s (fun d => queueRun d tag)

/-- RUNs that wait for cores of a floe leave the queue when the floe leaves ON (R189). -/
def dropRuns (d : Dev) (f : Nat) : Dev :=
  d.runq.foldl (fun d t =>
    match cmdOf d t with
    | some c => if c.opcode = 0x28 ∧ c.runFloes.contains f then failCmd d t 0x42 0 else d
    | none => d) d

/-- The shape a slot's parameter block gives (R220). -/
structure Shape where
  seqId : Nat
  table : Nat
  summary : Nat
  stride : Nat
  scale : Nat
  layers : Nat
  heads : Nat
  kvHeads : Nat
  dim : Nat
  blog : Nat
  kv : Nat
  q : Nat
  out : Nat
  kvScaled : Bool
  qScaled : Bool
  summ : Bool
  deriving DecidableEq, Repr

/-- The fields of a slot's parameter block. -/
def shapeOf (b : Bytes) : Shape :=
  let f := fieldAt b 42 1
  { seqId := fieldAt b 0 8, table := fieldAt b 8 8, summary := fieldAt b 16 8, stride := fieldAt b 24 4, scale := fieldAt b 28 4,
    layers := fieldAt b 32 2, heads := fieldAt b 34 1, kvHeads := fieldAt b 35 1, dim := fieldAt b 36 2, blog := fieldAt b 38 1,
    kv := fieldAt b 39 1, q := fieldAt b 40 1, out := fieldAt b 41 1, kvScaled := bitOf f 0, qScaled := bitOf f 1,
    summ := bitOf f 2 }

/-- TOTAL_BLOCKS of a length. -/
def totalBlocks (len blog : Nat) : Nat := (len + 2 ^ blog - 1) / 2 ^ blog

/-- BLOCK_BYTES (R225). -/
def Shape.blockBytes (x : Shape) : Nat :=
  2 * x.kvHeads * 2 ^ x.blog * x.dim * fmtW x.kv / 8 + (if x.kvScaled then 2 * x.kvHeads * 2 ^ x.blog * x.dim / 32 else 0)

/-- CORES_PER_FLOE of an ATTEND: that of its sequence slot (R225, R242). -/
def Cmd.slotCores (c : Cmd) : Nat := fieldAt c.par 44 1

/-- The floes whose cores a request needs, and how many in each: those of a RUN's mask; every ON floe for an ATTEND, with at
most its cores that are not QUARANTINED (R184, R242, R436). -/
def Cmd.needs (d : Dev) (c : Cmd) : List (Nat × Nat) :=
  if c.opcode = 0x28 then c.runFloes.map (fun f => (f, c.perFloe))
  else ((List.range 4).filter (fun f => floeOn d f)).map (fun f => (f, min c.slotCores (soundCores d f)))

/-- The lowest-numbered IDLE cores of a floe. -/
def idleCores (d : Dev) (f n : Nat) : List Nat :=
  (((List.range 16).map (fun i => 16 * f + i)).filter (fun c => (coreOf d c).state = 0)).take n

/-- A request is at the head of the queue of every floe it needs, and each has enough IDLE cores (R185). -/
def canAssign (d : Dev) (tag : Nat) (c : Cmd) : Bool :=
  let before := d.runq.takeWhile (· ≠ tag)
  d.runq.contains tag &&
    (c.needs d).all (fun p => floeOn d p.1 && (idleCores d p.1 p.2).length == p.2 &&
      before.all (fun t => !((cmdOf d t).any (fun m => (m.needs d).any (fun q => q.1 == p.1)))))

/-- The CODE_BYTES of an image rounded up to 4 KiB: C of R181. -/
def codeSpan (img : Bytes) : Nat := (fieldAt img 12 4 + 4095) / 4096 * 4096

/-- Registers of a core's channels, prefetchers and sync interface at their reset values, and its watchdog as the image
gives it (R182). -/
def assignRegs (d : Dev) (c : Nat) (img : Bytes) : Dev :=
  let b := coreBase c
  let keep (l : Tab Nat) := l.filter (fun r => !(decide (b + 0x1000 ≤ r.1) && decide (r.1 < b + 0x4000)))
  let regs := keep d.regs
  { d with regs := if fieldAt img 44 4 = 0 then regs else tput regs (b + 0x10) (fieldAt img 44 4), force := keep d.force }

/-- A core is given a kernel: it enters LOADING with everything of an earlier kernel gone (R182). -/
def loadCore (d : Dev) (tag : Nat) (m : Cmd) (img : Bytes) (p : Nat × Nat) : Dev :=
  let c := p.1
  let x := coreOf d c
  setCore (assignRegs d c img) c
    { Core.idle with state := 1, tag := tag, ctx := m.ctx, launch := p.2, faultCause := x.faultCause,
                     heldRefused := x.heldRefused, codeBase := 0x1000, codeLen := codeSpan img, selftest := x.selftest,
                     quarantines := x.quarantines, failColumn := x.failColumn, failAtStore := x.failAtStore }

/-- Adds to or removes from a set of prefetchers. -/
def inSet (l : List Nat) (p : Nat) (on : Bool) : List Nat := if on then (if l.contains p then l else l ++ [p]) else l.filter (· ≠ p)

/-- A core of an ATTEND walks its contiguous run of the blocks with a prefetcher in walk-address mode (R127, R242).
DESIGN CHOICE (log entry 58): prefetcher 0, over runs as even as can be, core `p.2` of `n` in ascending order. -/
def startWalk (m : Cmd) (n : Nat) (d : Dev) (p : Nat × Nat) : Dev :=
  let x := shapeOf m.par
  let first := m.f 40 4
  let held := min (totalBlocks (m.f 36 4) x.blog) (first + m.f 44 4) - first
  let lo := p.2 * held / n
  let hi := (p.2 + 1) * held / n
  if lo = hi then d
  else
    let b := prefBase p.1 0
    let base := x.table + 8 * (m.f 34 1 * x.stride + lo)
    let regs := [(b, setBits (setBits (rv d b) 0 1 1) 1 2 1), (b + 0x08, base), (b + 0x18, hi - lo), (b + 0x28, x.blockBytes)]
    modCore { d with regs := regs.foldl (fun l r => tput l r.1 r.2) d.regs } p.1 (fun x =>
      { x with pfActive := inSet x.pfActive 0 true, pfPos := tput x.pfPos 0 (0, 0, 0, 0) })

/-- Assigns the cores of the request at the head of its queues, all at once (R185). -/
def assignRun (d : Dev) (tag : Nat) : Dev :=
  match cmdOf d tag with
  | none => d
  | some c =>
    if c.phase = 1 ∧ canAssign d tag c then
      let cs := (c.needs d).flatMap (fun p => idleCores d p.1 p.2)
      let img := if c.opcode = 0x28 then ((objOf d c.ctx (c.f 32 2)).map (·.par)).getD [] else []
      let d := modCmd { d with runq := d.runq.filter (· ≠ tag) } tag (fun m => { m with phase := 2, cores := cs, pos := d.now })
      let ps := List.zip cs (List.range cs.length)
      let d := ps.foldl (fun d p => loadCore d tag c img p) d
      if c.opcode = 0x28 then d else ps.foldl (startWalk c cs.length) d
    else d

/-- `CORE_ASSIGN` (R185). -/
def execCoreAssign (tag : Nat) (s : State) : Host.Outcome State Fault Refusal :=
  onDev (.coreAssign tag) s (fun d => assignRun d tag)

/-- The launch record of a core (R183); `pos` of a RUN is the time its cores were assigned. -/
def launchRecord (m : Cmd) (tag c launch : Nat) : Bytes :=
  leBytes 2 launch ++ leBytes 2 m.cores.length ++ leBytes 2 tag ++ leBytes 2 m.ctx ++ slice m.entry 32 2 ++
  leBytes 1 (c / 16) ++ leBytes 1 (c % 16) ++ slice m.entry 36 4 ++ slice m.entry 8 8 ++ leBytes 8 m.pos ++
  leBytes 1 (m.f 34 1 % 16) ++ slice m.entry 35 1 ++ zeros 6 ++ leBytes 8 (m.cores.foldl (fun n g => n + 2 ^ g) 0)

/-- The registers a kernel starts with (R182). -/
def startRegs (m : Cmd) (launch span : Nat) : Tab Nat :=
  [(2, 0x7FF000), (3, 0x1000 + span), (10, 0x7FF000), (11, launch), (12, m.cores.length), (13, m.f 36 4)]

/-- The end of LOADING: local memory holds the launch record, code, data and arguments, and the kernel starts.  An
argument read that is refused stops the core with the access's status. -/
def loadDone (d : Dev) (far : Far) (c : Nat) : Dev :=
  let x := coreOf d c
  match cmdOf d x.tag with
  | none => d
  | some m =>
    if x.state ≠ 1 ∨ m.opcode ≠ 0x28 then d
    else
      let img := ((objOf d m.ctx (m.f 32 2)).map (·.par)).getD []
      let r := (coreWork d far c 0 .none).read (m.f 40 8) (m.f 36 4)
      match r.1.blocked, r.1.err with
      | some b, _ => unblock d b
      | none, some e => accessFault r.1.d c e
      | none, none =>
        let span := codeSpan img
        let lm := memWrite [] 0 (launchRecord m x.tag c x.launch)
        let lm := memWrite lm 0x1000 (slice img (fieldAt img 8 4) (fieldAt img 12 4))
        let lm := memWrite lm (0x1000 + span) (slice img (fieldAt img 16 4) (fieldAt img 20 4))
        let lm := memWrite lm 0x7FF000 r.2
        modCore r.1.d c (fun x =>
          { x with state := 2, lm := lm, pc := 0x1000 + fieldAt img 24 4,
                   xregs := (startRegs m x.launch span).filter (fun p => p.2 ≠ 0) })

/-- `KERNEL_LOAD_DONE` (R182). -/
def execKernelLoadDone (c : Nat) (far : Far) (s : State) : Host.Outcome State Fault Refusal :=
  onDev (.kernelLoadDone c far) s (fun d => loadDone d far c)

/-! ### Stream prefetchers (R127) -/

/-- Writing ENABLE: 1 starts at position 0, 0 stops at once. -/
def prefEnable (d : Dev) (c p : Nat) (on : Bool) : Dev :=
  let b := prefBase c p
  let d := { d with regs := tput d.regs b (setBits (rv d b) 0 1 (b2n on)) }
  modCore d c (fun x =>
    { x with pfActive := inSet x.pfActive p on, pfPos := if on then tput x.pfPos p (0, 0, 0, 0) else x.pfPos })

/-- `PREFETCHER_ENABLE` (R127). -/
def execPrefetcherEnable (c pf : Nat) (on : Bool) (s : State) : Host.Outcome State Fault Refusal :=
  onDev (.prefetcherEnable c pf on) s (fun d => prefEnable d c pf on)

/-- What becomes of a prefetch: it brings the line, it is dropped, or it waits for a port's copy of the line. -/
inductive Prefetched where
  | line (d : Dev) (b : Bytes)
  | dropped
  | waits (d : Dev)
  deriving DecidableEq, Repr

/-- Prefetches the line of a context address into the slice of its home floe (R70, R127). -/
def corePrefetch (d : Dev) (c addr : Nat) : Prefetched :=
  match findRange d (coreOf d c).ctx (coreGen d c) addr with
  | none => .dropped
  | some (_, r) =>
    let line := (r.uni + (addr - r.start)) / 64
    let page := pageOfLine line
    let p := pageOf d page
    let f := homeFloe page
    if !r.r || !floeOn d f || !(p.tier == 1 || p.tier == 2) || rf d (floeBase f + 0x130000) 0 1 == 0 ||
        (dirOf d line).state == 3 then .dropped
    else
      let n := ncReady d line false
      match n.2 with
      | some b => .waits (unblock n.1 b)
      | none =>
        let s := slicedRead n.1 (coreWho n.1 c 0 .none) line .prefetch true
        match s.2 with
        | .ok b => .line s.1 b
        | .error _ => .dropped

/-- Counts one prefetched or dropped line (R129). -/
def countPrefetch (d : Dev) (c p : Nat) (dropped : Bool) : Dev :=
  let b := 0x2000 + c % 16 * 0x40
  if dropped then modCore (telF d (c / 16) (b + 0x18) 1) c (fun x => { x with pfDropped := inSet x.pfDropped p true })
  else telF d (c / 16) (b + 0x10) 1

/-- Ends a prefetcher's walk. -/
def prefDone (d : Dev) (c p : Nat) : Dev :=
  modCore d c (fun x => { x with pfActive := inSet x.pfActive p false, pfDone := inSet x.pfDone p true })

/-- Moves a prefetcher on, and ends it at its count. -/
def prefMove (d : Dev) (c p : Nat) (v : Nat × Nat × Nat × Nat) (ended : Bool) : Dev :=
  let d := modCore d c (fun x => { x with pfPos := tput x.pfPos p v })
  if ended then prefDone d c p else d

/-- Issues one line and moves on: a dropped one is counted as such. -/
def prefLine (d : Dev) (c p addr : Nat) (v : Nat × Nat × Nat × Nat) (ended : Bool) : Dev :=
  match corePrefetch d c addr with
  | .line d _ => prefMove (countPrefetch d c p false) c p v ended
  | .dropped => prefMove (countPrefetch d c p true) c p v ended
  | .waits d => d

/-- A line of the table that a walk reads: it counts as issued when the walk enters it. -/
def tableLine (d : Dev) (c p a : Nat) (fresh : Bool) : Prefetched :=
  match corePrefetch d c a with
  | .line d b => .line (if fresh then countPrefetch d c p false else d) b
  | x => x

/-- What follows an entry that a walk has read: its block, or the end. -/
def prefBlock (d : Dev) (c p mode pos cur e : Nat) : Dev :=
  let b := prefBase c p
  let size := rf d (b + 0x28) 0 24
  if e = 256 ^ (if mode = 1 then 8 else 4) - 1 then prefMove d c p (pos, cur, 0, 0) true
  else
    let at_ := if mode = 1 then e % 2 ^ 48 else (rf d (b + 0x20) 0 48 + e * size) % 2 ^ 48
    let lines := if size = 0 then 0 else (at_ % 64 + size + 63) / 64
    prefMove d c p (pos, cur + 1, lines, at_ / 64 * 64) (decide (lines = 0) && decide (cur + 1 ≥ rf d (b + 0x18) 0 32))

/-- The place of a prefetcher's next block line while it has issued only the first line of a table entry that lies in two. -/
def halfEntry : Nat := 2 ^ 50

/-- Issues the next line of a table entry, and reads the entry once it has them all: an entry that lies in two lines takes two
issues where its first line is new (R127).  A dropped read ends the walk. -/
def prefEntry (d : Dev) (c p mode pos cur at_ : Nat) : Dev :=
  let n := if mode = 1 then 8 else 4
  let a := rf d (prefBase c p + 8) 0 48 + n * cur
  let half := at_ == halfEntry
  let fresh := !half && (cur == 0 || a % 64 == 0)
  let next := (pos + 1) % 2 ^ 32
  match tableLine d c p a fresh with
  | .dropped => prefDone (countPrefetch d c p true) c p
  | .waits d => d
  | .line e l =>
    if a % 64 + n ≤ 64 then prefBlock e c p mode (if fresh then next else pos) cur (fieldAt l (a % 64) n)
    else if fresh then prefMove e c p (next, cur, 0, halfEntry) false
    else
      match tableLine e c p (a / 64 * 64 + 64) true with
      | .dropped => prefDone (countPrefetch e c p true) c p
      | .waits g => g
      | .line g m => prefBlock g c p mode next cur (fieldAt (l ++ m) (a % 64) n)

/-- The position of a prefetcher has reached CONSUMED + DEPTH (R127). -/
def prefBound (d : Dev) (c p : Nat) : Bool :=
  decide ((tget (coreOf d c).pfPos p (0, 0, 0, 0)).1 ≥ rf d (prefBase c p + 0x40) 0 32 + min 128 (rf d (prefBase c p) 8 8))

/-- A firmware kernel advances CONSUMED to what has been issued. -/
def consumeAll (d : Dev) (c p : Nat) : Dev :=
  if firmwareCore d c ∧ prefBound d c p then
    { d with regs := tput d.regs (prefBase c p + 0x40) (tget (coreOf d c).pfPos p (0, 0, 0, 0)).1 }
  else d

/-- One issue of a prefetcher, while its position is below CONSUMED + DEPTH.  DESIGN CHOICE (log entry 58): a dropped line
of a linear run or a block advances the position, a dropped line of the table does not, and PREFETCH_LINES counts no
dropped line.  The firmware kernel of a built-in command, whose program is not given, has used every line issued when its
prefetcher comes to the bound: it advances CONSUMED then (DESIGN CHOICE, log entry 58). -/
def prefIssue (d : Dev) (c p : Nat) : Dev :=
  let d := consumeAll d c p
  let x := coreOf d c
  let b := prefBase c p
  let (pos, cur, left, at_) := tget x.pfPos p (0, 0, 0, 0)
  let mode := rf d b 1 2
  let count := rf d (b + 0x18) 0 32
  if !kernelRuns d c ∨ !x.pfActive.contains p ∨ prefBound d c p then d
  else if mode = 1 ∨ mode = 2 then
    if 0 < left then
      prefLine d c p at_ ((pos + 1) % 2 ^ 32, cur, left - 1, at_ + 64) (decide (left = 1) && decide (cur ≥ count))
    else if cur ≥ count then prefDone d c p
    else prefEntry d c p mode pos cur at_
  else if pos ≥ count then prefDone d c p
  else
    let a := ((rf d (b + 8) 0 48 : Int) + toSigned 32 (rf d (b + 0x10) 0 32) * pos) % (2 ^ 48 : Nat)
    prefLine d c p a.toNat (pos + 1, cur, left, at_) (pos + 1 ≥ count)

/-- `PREFETCH_LINE_ISSUE` (R127). -/
def execPrefetchLineIssue (c pf : Nat) (s : State) : Host.Outcome State Fault Refusal :=
  onDev (.prefetchLineIssue c pf) s (fun d => prefIssue d c pf)

end Sys2Proof.Machine
end

