-- ==== Sys2Proof/Machine/CodecCmd.lean ====
section
/-! DEFINITION. Streams of codec blocks, and the commands ENCODE and DECODE (R307 to R311, R313, R316). -/

namespace Sys2Proof.Machine

open Sys2Proof

/-! ### Streams of blocks (R308, R309) -/

/-- The codebook a handle names in a context. -/
def bookFor (d : Dev) (ctx h : Nat) : Option Codebook :=
  if h / 4096 = 8 then (objOf d ctx h).map (fun o => bookOf o.par) else none

/-- What a stream of blocks has come to: the output of each block, and the failure that ends it with the source offset
of the failing block. -/
structure Coded where
  blocks : List Bytes
  /-- the unit each block has been dealt to, the failing one's last: 6 × floe + unit -/
  units : List Nat
  used : Nat
  /-- some block was written RAW -/
  raw : Bool
  fail : Option (Nat × Nat)
  failOff : Nat
  deriving DecidableEq, Repr

/-- No block yet. -/
def Coded.start : Coded := { blocks := [], units := [], used := 0, raw := false, fail := none, failOff := 0 }

/-- The enabled codec units of a floe (R314). -/
def enabledUnits (d : Dev) (f : Nat) : List Nat :=
  (List.range 4).filter (fun u => rf d (floeBase f + 0x160000 + u * 0x1000) 0 1 == 0)

/-- Every codec unit of a floe is disabled (R314). -/
def codecOff (d : Dev) (f : Nat) : Bool := (enabledUnits d f).isEmpty

/-- The enabled unit of a floe that a block is dealt to: a free value picks it (R310). -/
def dealtUnit (d : Dev) (f : Nat) : Nat := 6 * f + (enabledUnits d f).getD (freeVal d % (enabledUnits d f).length) 0

/-- Deals a block to the unit `dealtUnit` names: its USER and TAG are `mark` (R314). -/
def dealBlock (d : Dev) (f mark : Nat) : Dev := useFree { d with unitTag := tput d.unitTag (dealtUnit d f) mark }

/-- USER and TAG of a codec unit that works for a command or for inline DMA (R314). -/
def codecMark (w : Who) : Nat := (if w.src = 3 then 2 else 0) * 4096 + w.tag % 4096

/-- Encodes block `k` of a source: `rd` reads source bytes, `fl` is the floe whose units do it. -/
def encodeOne (cb : Codebook) (h : Nat) (force : Bool) (blockRaw srcLen dstLen : Nat) (rd : W → Nat → Nat → W × Bytes)
    (fl : W → Nat → Nat) (s : W × Coded) (k : Nat) : W × Coded :=
  if !s.1.ok || s.2.fail.isSome then s
  else
    let o := k * blockRaw
    let f := fl s.1 o
    if codecOff s.1.d f then (s.1, { s.2 with fail := some (0x40, 0), failOff := o })
    else
      let r := rd s.1 o (min blockRaw (srcLen - o))
      if !r.1.ok then (r.1, { s.2 with failOff := o })
      else
        let e := encodeBlock cb h force r.2
        let b := e.1 ++ zeros (gapLen e.1.length)
        let d := dealBlock r.1.d f (codecMark r.1.who)
        let c := { s.2 with units := s.2.units ++ [dealtUnit r.1.d f] }
        if s.2.used + b.length > dstLen then
          ({ r.1 with d := countBlock d f 1 0 1 r.2.length 0 }, { c with fail := some (0x22, 2), failOff := o })
        else
          ({ r.1 with d := countBlock d f 1 (b2n e.2) 0 r.2.length b.length },
            { c with blocks := c.blocks ++ [b], used := c.used + b.length, raw := c.raw || e.2 })

/-- Encodes a whole source (R308). -/
def encodeAll (w : W) (cb : Codebook) (h : Nat) (force : Bool) (blockRaw srcLen dstLen : Nat)
    (rd : W → Nat → Nat → W × Bytes) (fl : W → Nat → Nat) : W × Coded :=
  let br := if blockRaw = 0 then 4096 else blockRaw
  (List.range ((srcLen + br - 1) / br)).foldl (encodeOne cb h force br srcLen dstLen rd fl) (w, Coded.start)

/-- Decodes the blocks of a stream from an offset (R309). -/
def decodeAll (book : Nat → Option Codebook) (srcLen dstLen : Nat) (rd : W → Nat → Nat → W × Bytes) (fl : W → Nat → Nat) :
    Nat → W → Nat → Coded → W × Coded
  | 0, w, _, c => (w, c)
  | n + 1, w, o, c =>
    if o ≥ srcLen || !w.ok then (w, c)
    else
      let f := fl w o
      if codecOff w.d f then (w, { c with fail := some (0x40, 0), failOff := o })
      else
        let hd := rd w o 16
        if !hd.1.ok then (hd.1, { c with failOff := o })
        else
          let el := fieldAt hd.2 2 2
          let left := srcLen - o
          let more := if 16 < el ∧ el ≤ left then min (el + gapLen el) left - 16 else 0
          let r := rd hd.1 (o + 16) more
          if !r.1.ok then (r.1, { c with failOff := o })
          else
            let b := hd.2 ++ r.2
            let x := decodeBlock book (dstLen - c.used) (allZero (b.drop el)) left b
            let c := { c with units := c.units ++ [dealtUnit r.1.d f] }
            let w := { r.1 with d := countBlock (dealBlock r.1.d f (codecMark r.1.who)) f 0 0 (b2n x.fail.isSome) b.length x.out.length }
            match x.fail with
            | some e => (w, { c with blocks := c.blocks ++ [x.out], fail := some e, failOff := o })
            | none => decodeAll book srcLen dstLen rd fl n w (o + el + gapLen el)
                        { c with blocks := c.blocks ++ [x.out], used := c.used + x.rawLen }

/-! ### ENCODE and DECODE (R307, R310, R311) -/

/-- The home floe of the line behind a context address; the command's floe where nothing maps it. -/
def homeOfAddr (w : W) (addr : Nat) : Nat :=
  match findRange w.d w.ctx w.gen addr with
  | some (_, r) => homeFloe ((r.uni + (addr - r.start)) / 65536)
  | none => w.who.unit

/-- Two runs of context addresses overlap. -/
def overlaps (a n b m : Nat) : Bool := decide (0 < n) && decide (0 < m) && decide (a < b + m) && decide (b < a + n)

/-- The own checks of ENCODE and DECODE (R204 step 4, R307); a CODEBOOK is checked first. -/
def checkCodec (d : Dev) (c : Cmd) : Option (Nat × Nat) :=
  let enc := c.opcode = 0x18
  let h := c.f 32 2
  match (if enc ∧ h ≠ 0 then handleFault d c.ctx h 8 else none) with
  | some k => some (0x16, k)
  | none =>
    let br := c.f 36 2
    let n := c.f 56 4
    if (enc ∧ (br % 16 ≠ 0 ∨ br > 32768)) ∨
        c.f 40 8 % 16 ≠ 0 ∨ c.f 48 8 % 16 ≠ 0 ∨ n % 16 ≠ 0 ∨ n < 16 ∨ n > 2 ^ 30 ∨
        overlaps (c.f 40 8) n (c.f 48 8) (c.f 60 4) = true then some (0x18, 0)
    else none

/-- The blocks of a codec command. -/
def codecBlocks (c : Cmd) (w : W) : W × Coded :=
  let rd (w : W) (o n : Nat) := w.read (c.f 40 8 + o) n
  let fl (w : W) (o : Nat) := homeOfAddr w (c.f 40 8 + o)
  if c.opcode = 0x18 then
    let h := c.f 32 2
    let cb := if h = 0 then zeroBook else (bookFor w.d c.ctx h).getD zeroBook
    encodeAll w cb h (c.f 34 1 % 2 == 1) (c.f 36 2) (c.f 56 4) (c.f 60 4) rd fl
  else decodeAll (bookFor w.d c.ctx) (c.f 56 4) (c.f 60 4) rd fl (c.f 56 4 / 16) w 0 Coded.start

/-- A codec failure of DECODE is recorded with the failing block's source address, against the unit the block was dealt to
(R310, R311, R438). -/
def codecRecord (d : Dev) (tag : Nat) (c : Cmd) : Dev :=
  if c.opcode = 0x19 ∧ 0x22 ≤ c.status ∧ c.status ≤ 0x25 then
    let u := c.units.getLastD 0
    codecFail d (c.who tag 5) (u / 6) (u % 6) (c.covers.headD 0) (c.status, c.detail)
  else d

/-- Ends a codec command whose last block has been written: how it ends is reached now (R310); `covers` holds the failing block's
source address, the status and its DETAIL. -/
def endCodec (d : Dev) (tag : Nat) : Dev :=
  match cmdOf d tag with
  | some c =>
    if c.phase = 2 ∧ c.pos ≥ c.blocks.length then
      let c' := { c with status := c.covers.getD 1 0, detail := c.covers.getD 2 0 }
      endCmd (codecRecord d tag c') tag (fun k => { k with status := c'.status, detail := c'.detail })
    else d
  | none => d

/-- Starts a codec command: its source is read and its blocks are dealt to the codec units. -/
def startCodec (d : Dev) (far : Far) (tag op : Nat) : Dev :=
  match cmdOf d tag with
  | none => d
  | some c =>
    if c.phase = 1 ∧ c.opcode = op ∧ floeOn d c.floe then
      let r := codecBlocks c (W.start d far c.ctx c.gen (c.who tag 5))
      match r.1.blocked with
      | some b => unblock d b
      | none =>
        let e := r.1.err.getD (r.2.fail.getD (0, if op = 0x18 ∧ r.2.raw then 1 else 0))
        endCodec (modCmd r.1.d tag (fun c =>
          { c with phase := 2, blocks := (List.zip (List.range r.2.blocks.length) r.2.blocks), units := r.2.units,
                   covers := [c.f 40 8 + r.2.failOff, e.1, e.2] })) tag
    else d

/-- `ENCODE` (R308). -/
def execEncode (tag : Nat) (far : Far) (s : State) : Host.Outcome State Fault Refusal :=
  onDev (.encode tag far) s (fun d => startCodec d far tag 0x18)

/-- `DECODE` (R309). -/
def execDecode (tag : Nat) (far : Far) (s : State) : Host.Outcome State Fault Refusal :=
  onDev (.decode tag far) s (fun d => startCodec d far tag 0x19)

/-- Writes the blocks whose lower blocks are all written. -/
def writeBlocks (verify : Bool) : Nat → W → Cmd → W × Cmd
  | 0, w, c => (w, c)
  | n + 1, w, c =>
    if !w.ok || !c.blocksDone.contains c.pos then (w, c)
    else
      let b := tget c.blocks c.pos []
      let w := if verify then w else w.write (c.f 48 8 + c.count) b
      if w.ok then
        writeBlocks verify n w { c with pos := c.pos + 1, count := c.count + b.length,
                                        digest := if verify then 0 else crc64From c.digest b }
      else (w, c)

/-- The number of the arbiter of a codec unit (R29). -/
def codecArb (u : Nat) : Nat := 30 * (u / 6) + 16 + u % 6

/-- A block of a codec command has been dealt to a unit and is not finished. -/
def Cmd.hasBlock (c : Cmd) (u k : Nat) : Bool :=
  c.coding && decide (k < c.blocks.length) && !c.blocksDone.contains k && c.units.getD k 4 == u

/-- Beats of a block, one core cycle of its unit each: a vector for DECODE, ⌈ENTRIES ÷ 64⌉ for each vector of ENCODE (R315). -/
def blockBeats (d : Dev) (c : Cmd) (k : Nat) : Nat :=
  if c.opcode = 0x18 then
    let br := if c.f 36 2 = 0 then 4096 else c.f 36 2
    let cb := (bookFor d c.ctx (c.f 32 2)).getD zeroBook
    max 1 (min br (c.f 56 4 - k * br) / 16 * ((cb.length + 63) / 64))
  else max 1 ((tget c.blocks k []).length / 16)

/-- The command unit requests a codec unit at its arbiter, in the class of the command's context, for the block that has waited
longest (R310, R404): its slot, 22, has one request at a time, and what it asked for a block that is no more is dropped. -/
def presentBlock (d : Dev) (u : Nat) : Dev :=
  let x := tget d.arbs (codecArb u) Arb.reset
  let live (r : ArbReq) : Bool := r.slot != 22 || (cmdOf d r.owner).any (fun c => (List.range c.blocks.length).any (c.hasBlock u))
  let x := { x with wires := x.wires.filter live, parked := x.parked.filter live, owner := x.owner.filter (fun g => live g.req) }
  let d := { d with arbs := tput d.arbs (codecArb u) x }
  let busy := (x.wires ++ x.parked).any (fun r => r.slot = 22) || x.owner.any (fun g => g.req.slot = 22)
  if busy || bitOf x.fenced 22 then d
  else
    let ask (c : Nat × Cmd) : Option (Nat × Nat × Cmd × Nat) :=
      ((List.range c.2.blocks.length).find? (c.2.hasBlock u)).map (fun k => (c.2.order, c.1, c.2, k))
    let first := (d.cmds.filterMap ask).foldl (fun (m : Option (Nat × Nat × Cmd × Nat)) q =>
      if m.any (fun p => decide (p.1 < q.1)) then m else some q) none
    match first with
    | some (_, tag, c, k) =>
      { d with arbs := tput d.arbs (codecArb u) { x with wires := x.wires ++ [⟨22, c.qos, tag, blockBeats d c k, c.ctx⟩] } }
    | none => d

/-- A command has been granted a codec unit for the beats that its block has left. -/
def unitGranted (d : Dev) (u tag : Nat) : Bool :=
  (tget d.arbs (codecArb u) Arb.reset).owner.any (fun g => g.req.slot == 22 && g.req.owner == tag && decide (g.req.beats ≤ g.limit))

/-- The command unit drops its request of a codec unit: the grant ends (R408). -/
def dropUnit (d : Dev) (u : Nat) : Dev :=
  { d with arbs := tmod d.arbs (codecArb u) (fun x => { x with owner := none }) }

/-- A codec unit finishes a block (R310). -/
def blockDone (d : Dev) (tag k : Nat) : Dev :=
  match cmdOf d tag with
  | none => d
  | some c =>
    if c.phase = 2 ∧ (c.opcode = 0x18 ∨ c.opcode = 0x19) ∧ k < c.blocks.length ∧ !c.blocksDone.contains k ∧ floeOn d c.floe ∧
        unitGranted d (c.units.getD k 0) tag then
      let u := c.units.getD k 0
      let old := d
      let d := dropUnit d u
      let c := { c with blocksDone := c.blocksDone ++ [k] }
      let verify := c.opcode = 0x19 && c.f 34 1 % 2 == 1
      let r := writeBlocks verify c.blocks.length (W.start d [] c.ctx c.gen (c.who tag 5)) c
      match r.1.blocked with
      | some b => unblock old b
      | none =>
        let c := { r.2 with writes := r.2.writes + r.1.wrote }
        match r.1.err with
        | some e =>
          -- the bytes before the refused line stand and are counted (R71, R311)
          let n := c.count + (r.1.errAddr - (c.f 48 8 + c.count))
          endCmd (modCmd r.1.d tag (fun k => { c with opens := k.opens })) tag (fun c => { c with status := e.1, detail := e.2, count := n })
        | none => endCodec (modCmd r.1.d tag (fun k => { c with opens := k.opens })) tag
    else d

/-- `CODEC_BLOCK_DONE` (R310). -/
def execCodecBlockDone (tag k : Nat) (s : State) : Host.Outcome State Fault Refusal :=
  onDev (.codecBlockDone tag k) s (fun d => blockDone d tag k)

end Sys2Proof.Machine
end

