-- ==== Sys2Proof/Machine/Chan.lean ====
section
/-! DEFINITION. DMA channels: stored descriptors, chains, running checks, lock groups, and stop, halt and restart
(R389 to R401). -/

namespace Sys2Proof.Machine

open Sys2Proof

/-! ### Descriptors (R389 to R391) -/

/-- The fields of a stored descriptor. -/
structure Desc where
  kind : Nat
  flags : Nat
  srcLocal : Bool
  dstLocal : Bool
  atomic : Nat
  rows : Nat
  rowBytes : Nat
  srcStride : Nat
  src : Nat
  dst : Nat
  dstStride : Nat
  crcCtrl : Nat
  pulses : Nat
  book : Nat
  blockRaw : Nat
  dstLen : Nat
  start : Nat
  next : Nat
  deriving DecidableEq, Repr

/-- The fields of a descriptor's 64 bytes. -/
def descOf (b : Bytes) : Desc :=
  { kind := fieldAt b 0 1, flags := fieldAt b 1 1, srcLocal := bitOf (fieldAt b 2 1) 0, dstLocal := bitOf (fieldAt b 2 1) 1,
    atomic := fieldAt b 3 1, rows := fieldAt b 4 2, rowBytes := fieldAt b 8 4, srcStride := fieldAt b 12 4,
    src := fieldAt b 16 8, dst := fieldAt b 24 8, dstStride := fieldAt b 32 4, crcCtrl := fieldAt b 36 1,
    pulses := fieldAt b 37 1, book := fieldAt b 38 2, blockRaw := fieldAt b 40 2, dstLen := fieldAt b 44 4,
    start := fieldAt b 48 8, next := fieldAt b 56 4 }

/-- CHAIN of a descriptor. -/
def Desc.chain (x : Desc) : Bool := bitOf x.flags 0
/-- SYNC_START. -/
def Desc.sync (x : Desc) : Bool := bitOf x.flags 1
/-- MODE of the running check. -/
def Desc.mode (x : Desc) : Nat := x.crcCtrl % 4
/-- CONT. -/
def Desc.cont (x : Desc) : Bool := bitOf x.crcCtrl 2
/-- The check value is stored: its length, or 0. -/
def Desc.storeLen (x : Desc) : Nat := if bitOf x.crcCtrl 3 ∧ x.mode ≠ 0 then (if x.mode = 1 then 4 else 8) else 0
/-- FINAL and STORE: only the stored check value is flagged final (R396). -/
def Desc.finalStore (x : Desc) : Bool := bitOf x.flags 2 && decide (0 < x.storeLen)
/-- Operation code of an atomic. -/
def Desc.acode (x : Desc) : Nat := x.atomic % 32
/-- Bytes of an atomic's operand. -/
def Desc.asize (x : Desc) : Nat := if x.acode = 0x12 then 32 else if bitOf x.atomic 5 then 8 else 4
/-- Bytes of local memory that an atomic reads at its operand: the compare and the new value for CAS (R390). -/
def Desc.opBytes (x : Desc) : Nat := if x.acode = 0x11 then 8 + x.asize else x.asize
/-- FETCH: EXACT_ADD never fetches (R317). -/
def Desc.fetch (x : Desc) : Bool := bitOf x.atomic 6 && x.acode != 0x12
/-- Bytes of the destination of one row. -/
def Desc.dstBytes (x : Desc) : Nat := if x.kind = 3 ∨ x.kind = 4 then x.dstLen else x.rowBytes

/-- No reserved field is set and every value is in range (R391). -/
def descForm (b : Bytes) : Bool :=
  let x := descOf b
  decide (x.kind ≤ 4) && decide (x.flags < 8) && decide (fieldAt b 2 1 < 4) && decide (x.atomic < 128) && decide (1 ≤ x.rows) &&
    fieldAt b 6 2 == 0 && decide (1 ≤ x.rowBytes) && decide (x.rowBytes ≤ 16777216) && decide (x.crcCtrl < 16) && x.mode != 3 &&
    decide (x.pulses < 16) && fieldAt b 42 2 == 0 && decide (x.next < 2 ^ 23) && fieldAt b 60 4 == 0 &&
    (x.kind == 1 || decide (x.src < if x.srcLocal then 2 ^ 23 else 2 ^ 48)) && decide (x.dst < if x.dstLocal then 2 ^ 23 else 2 ^ 48)

/-- The constraints of R390 on a kind. -/
def descKind (x : Desc) : Bool :=
  if x.kind = 2 then
    x.srcLocal && !x.dstLocal && decide (8 ≤ x.acode) && decide (x.acode ≤ 0x12) && x.rowBytes == x.asize && x.src % 32 == 0 &&
      x.mode == 0 && x.dst % x.asize == 0 && (x.rows == 1 || x.dstStride % x.asize == 0)
  else if x.kind = 3 ∨ x.kind = 4 then
    x.rows == 1 && x.src % 16 == 0 && x.dst % 16 == 0 && x.rowBytes % 16 == 0 &&
      (x.kind == 4 || (x.blockRaw % 16 == 0 && decide (x.blockRaw ≤ 32768)))
  else true

/-- The fault cause of a descriptor on a core, with MODE of the channel's previous descriptor; 0 for none. -/
def descCause (k : Core) (prev : Nat) (b : Bytes) : Nat :=
  let x := descOf b
  if !descForm b || !descKind x || (x.cont && x.mode != prev) || (x.chain && x.next % 64 != 0) then 1
  else
    let src := if x.kind ≠ 1 ∧ x.srcLocal then lmOk (x.src + (x.rows - 1) * x.srcStride) (if x.kind = 2 then x.opBytes else x.rowBytes) else true
    let last := x.dst + (x.rows - 1) * x.dstStride
    let dst := if x.dstLocal then lmOk last (x.dstBytes + x.storeLen) else true
    let old := if x.kind = 2 ∧ x.fetch then lmOk (x.src + (x.rows - 1) * x.srcStride + 16) x.asize else true
    if !src || !dst || !old then 9
    else if (x.dstLocal && ((List.range x.rows).any (fun r => inCode k (x.dst + r * x.dstStride) x.dstBytes) ||
        inCode k (last + x.dstBytes) x.storeLen)) ||
        (x.kind == 2 && x.fetch && (List.range x.rows).any (fun r => inCode k (x.src + r * x.srcStride + 16) x.asize)) then 5
    else 0

/-! ### The running check (R396) -/

/-- The raw value a check starts from. -/
def crcInit (mode : Nat) : Nat := if mode = 1 then 0xFFFFFFFF else 0

/-- The raw value over further bytes. -/
def crcRun (mode raw : Nat) (b : Bytes) : Nat :=
  if mode = 1 then b.foldl crc32cByte raw else if mode = 2 then crc64From raw b else raw

/-- The finished value of a raw one. -/
def crcEnd (mode raw : Nat) : Nat := if mode = 1 then raw ^^^ 0xFFFFFFFF else raw

/-! ### Performing a descriptor -/

/-- Adds written destination bytes to the channel's check and count. -/
def chanWrote (d : Dev) (c h mode : Nat) (b : Bytes) : Dev :=
  modCore d c (fun x => modChan x h (fun k =>
    let raw := crcRun mode k.crc b
    { k with crc := raw, crcShown := if mode = 0 then k.crcShown else crcEnd mode raw, count := (k.count + b.length) % 2 ^ 64 }))

/-- Writes bytes to a destination in local memory or at context addresses. -/
def W.put (w : W) (c : Nat) (isLocal : Bool) (a : Nat) (b : Bytes) : W :=
  if isLocal then (if w.ok then { w with d := modCore w.d c (fun x => lmWrite x a b) } else w) else w.write a b

/-- Writes covered destination bytes, a line at a time: a line that fails adds nothing to the check and the count (R313,
R399). -/
def W.cover (w : W) (c h mode : Nat) (isLocal : Bool) (a : Nat) (b : Bytes) : W :=
  (lineRuns a b.length).foldl (fun (w : W) p =>
    if w.ok then
      let l := slice b (p.1 - a) p.2.2
      let y := w.put c isLocal p.1 l
      if y.ok then { y with d := chanWrote y.d c h mode l } else y
    else w) w

/-- Reads bytes of a source. -/
def W.take (w : W) (c : Nat) (isLocal : Bool) (a n : Nat) : W × Bytes :=
  if isLocal then (w, lmRead (coreOf w.d c) a n) else w.read a n

/-- One row of a COPY, a line of the source at a time. -/
def copyRow (x : Desc) (c h : Nat) (w : W) (r : Nat) : W :=
  let s := x.src + r * x.srcStride
  let t := x.dst + r * x.dstStride
  (lineRuns s x.rowBytes).foldl (fun w p =>
    if w.ok then
      let y := w.take c x.srcLocal p.1 p.2.2
      if y.1.ok then y.1.cover c h x.mode x.dstLocal (t + (p.1 - s)) y.2 else y.1
    else w) w

/-- One row of a FILL. -/
def fillRow (x : Desc) (c h : Nat) (w : W) (r : Nat) : W :=
  (lineRuns (x.dst + r * x.dstStride) x.rowBytes).foldl (fun w p =>
    if w.ok then
      w.cover c h x.mode x.dstLocal p.1 ((List.range p.2.2).map (fun i => BitVec.ofNat 8 (x.src >>> (8 * ((p.1 + i) % 8)))))
    else w) w

/-- One atomic of an ATOMIC descriptor: the old value goes to local memory, at once or with its acknowledgement. -/
def atomicRow (x : Desc) (c h : Nat) (w : W) (r : Nat) : W :=
  if !w.ok then w
  else
    let a := x.dst + r * x.dstStride
    let o := x.src + r * x.srcStride
    let op := lmRead (coreOf w.d c) o 32
    if x.acode = 0x12 then
      match slugOf op with
      | some s =>
        let w := w.exactAdd a s false
        if w.ok then { w with d := chanWrote w.d c h 0 op } else w
      | none => { w with d := intFailed w.d w.who 1 1 (c / 16) o (c / 16) 0 0 7 0x26 0 }.failAt o false (0x26, 0)
    else
      let y := w.atomic a x.acode x.asize (b2n (bitOf x.atomic 5) + 2 * b2n x.fetch) (fieldAt op 0 x.asize) (fieldAt op 8 x.asize) false
      if !y.1.ok then y.1
      else
        let far := newOwed w.d y.1.d
        let d := chanWrote y.1.d c h 0 (zeros x.asize)
        if !x.fetch then { y.1 with d := d }
        else if far.isEmpty then { y.1 with d := modCore d c (fun k => lmWrite k (o + 16) (leBytes x.asize y.2)) }
        else { y.1 with d := { d with fab := far.foldl (fun f u => tmod f u (fun q => { q with la := o + 16 })) d.fab } }

/-- An inline ENCODE or DECODE (R313). -/
def codeInline (x : Desc) (c h : Nat) (w : W) : W :=
  let rd (w : W) (o n : Nat) := w.take c x.srcLocal (x.src + o) n
  let fl (_ : W) (_ : Nat) := c / 16
  let bad := if x.kind = 3 ∧ x.book ≠ 0 ∧ (bookFor w.d w.ctx x.book).isNone then true else false
  if bad then w.failAt x.src false (0x16, (handleFault w.d w.ctx x.book 8).getD 1)
  else
    let r :=
      if x.kind = 3 then
        encodeAll w ((bookFor w.d w.ctx x.book).getD zeroBook) x.book false x.blockRaw x.rowBytes x.dstLen rd fl
      else decodeAll (bookFor w.d w.ctx) x.rowBytes x.dstLen rd fl (x.rowBytes / 16) w 0 Coded.start
    let e := r.1.err.orElse (fun _ => r.2.fail)
    let w := { r.1 with err := none }
    let w := (r.2.blocks.foldl (fun (s : W × Nat) b => (s.1.cover c h x.mode x.dstLocal (x.dst + s.2) b, s.2 + b.length)) (w, 0)).1
    match e with
    | some e =>
      let w := if r.1.err.isSome ∧ w.ok then { w with err := r.1.err } else w.failAt (x.src + r.2.failOff) false e
      if x.kind = 4 ∧ 0x22 ≤ e.1 ∧ e.1 ≤ 0x25 then { w with d := codecFail w.d w.who (c / 16) (r.2.units.getLastD 0 % 6) (x.src + r.2.failOff) e } else w
    | none => w

/-- Where the check value is stored: after the last destination byte. -/
def storeAt (x : Desc) (written : Nat) : Nat :=
  x.dst + (x.rows - 1) * x.dstStride + (if x.kind = 3 ∨ x.kind = 4 then written else x.rowBytes)

/-- Stores the finished check value. -/
def storeCrc (x : Desc) (c : Nat) (w : W) (at_ raw : Nat) : W :=
  if x.storeLen = 0 then w else w.put c x.dstLocal at_ (leBytes x.storeLen (crcEnd x.mode raw))

/-- The channel of a core in a device. -/
def chOf (d : Dev) (c h : Nat) : Chan := chanOf (coreOf d c) h

/-- Changes a channel of a core in a device. -/
def setCh (d : Dev) (c h : Nat) (f : Chan → Chan) : Dev := modCore d c (fun x => modChan x h f)

/-- The running check and the byte count at the start of a descriptor (R396). -/
def startCheck (x : Desc) (k : Chan) : Chan :=
  let raw := if x.mode = 0 ∨ x.cont then k.crc else crcInit x.mode
  { k with countStart := k.count, crcStart := k.crc, crc := raw, crcShown := if x.mode = 0 then k.crcShown else crcEnd x.mode raw }

/-- Performs the accesses of a descriptor that has been read and checked. -/
def descBody (x : Desc) (c h : Nat) (w : W) : W :=
  let w := { w with d := setCh w.d c h (startCheck x) }
  let rows := List.range x.rows
  let w :=
    if x.kind = 0 then rows.foldl (copyRow x c h) w
    else if x.kind = 1 then rows.foldl (fillRow x c h) w
    else if x.kind = 2 then rows.foldl (atomicRow x c h) w
    else codeInline x c h w
  if w.ok && !x.finalStore then storeCrc x c w (storeAt x ((chOf w.d c h).count - (chOf w.d c h).countStart)) (chOf w.d c h).crc else w

/-- The spans of local memory that a descriptor reads. -/
def descSpans (x : Desc) : List (Nat × Nat) :=
  if x.kind = 1 ∨ !x.srcLocal then []
  else (List.range x.rows).map (fun r => (x.src + r * x.srcStride, if x.kind = 2 then x.opBytes else x.rowBytes))

/-- Begins a descriptor whose wait, if any, is over. -/
def performDesc (d : Dev) (far : Far) (c h : Nat) : Dev :=
  let x := descOf (chOf d c h).bytes64
  let m := sramRead d c 3 (descSpans x)
  let d := m.1
  if m.2 then d
  else
  let w := descBody x c h (coreWork d far c 3 (.chan c h))
  match w.blocked with
  | some b => unblock (setCh d c h (fun k => { k with prog := 2 })) b
  | none =>
    let d := noteWrites (setCh w.d c h (fun k => { k with prog := 3 })) c w.wrote
    match w.err with
    | none => d
    | some e => haltChan d c h e.1 e.2 w.errAddr w.errWrite (x.srcLocal && !w.errWrite)

/-- The chain that a channel follows. -/
def chainOf (d : Dev) (c h : Nat) : Option Flight := ((streamOf (coreOf d c) (h + 2)).flight.head?).filter (·.chain)

/-- Reads and checks a descriptor and issues its accesses; one with SYNC_START waits first (R391, R401). -/
def startDesc (d : Dev) (far : Far) (c h : Nat) : Dev :=
  let x := coreOf d c
  let k := chanOf x h
  if !(x.state = 2 ∨ (x.state = 3 ∧ k.prog = 2)) ∨ !floeRuns d (c / 16) ∨ !(k.state = 1 ∨ (k.state = 3 ∧ k.prog = 2)) ∨
      (chainOf d c h).isNone then d
  else if k.prog = 2 then performDesc d far c h
  else if k.prog ≠ 0 then d
  else if k.desc % 64 ≠ 0 then kernelFault d c 1
  else if !lmOk k.desc 64 then kernelFault d c 9
  else
    let m := sramRead d c 3 [(k.desc, 64)]
    let d := m.1
    let b := lmRead x k.desc 64
    let cause := descCause x k.crcMode b
    if m.2 then d
    else if cause ≠ 0 then kernelFault d c cause
    else
      let d := setCh d c h (fun k => { k with bytes64 := b })
      if (descOf b).sync then setCh d c h (fun k => { k with prog := 1, state := 2 }) else performDesc d far c h

/-- `DESCRIPTOR_START` (R391). -/
def execDescriptorStart (c ch : Nat) (far : Far) (s : State) : Host.Outcome State Fault Refusal :=
  onDev (.descriptorStart c ch far) s (fun d => startDesc d far c ch)

/-- `DCHAIN` (R393). -/
def execDchain (c ch : Nat) (s : State) : Host.Outcome State Fault Refusal :=
  onDev (.dchain c ch) s (fun d =>
    match readyHead d c (ch + 2) with
    | none => d
    | some i =>
      if bits i.w0 0 8 ≠ 0x28 then d
      else if bits i.w1 0 23 % 64 ≠ 0 then kernelFault d c 1
      else setCh (startHead d c (ch + 2) i [] true) c ch (fun k => { k with desc := bits i.w1 0 23, prog := 0, bytes64 := [] }))

/-! ### Completion (R394) -/

/-- The channel after a descriptor: the next of its chain, or the end of the chain. -/
def nextDesc (d : Dev) (c h : Nat) : Dev :=
  let x := descOf (chOf d c h).bytes64
  let d := setCh d c h (fun k => { k with crcMode := x.mode, prog := 0, bytes64 := [], desc := if x.chain then x.next else 0 })
  let d := if x.pulses = 0 then d else pulseChan d c h x.pulses
  if x.chain then setCh d c h (fun k => if k.state = 3 then { k with state := 4 } else k)
  else modCore d c (fun k => modStream k (h + 2) (fun s => { s with flight := s.flight.map (fun f => { f with chain := false }) }))

/-- Completes a descriptor once nothing is owed to it; a final check value is written only then (R396). -/
def completeDesc (d : Dev) (c h : Nat) : Dev :=
  let k := chOf d c h
  let x := descOf k.bytes64
  if (chainOf d c h).isNone ∨ !(k.state = 1 ∨ k.state = 3) ∨ k.prog < 3 ∨ owes d (.chan c h) then d
  else if k.prog = 3 ∧ x.finalStore then
    let w := storeCrc x c (coreWork d [] c 3 (.chan c h)) (storeAt x (k.count - k.countStart)) k.crc
    match w.blocked with
    | some b => unblock d b
    | none =>
      match w.err with
      | none => setCh w.d c h (fun k => { k with prog := 4 })
      | some e => haltChan w.d c h e.1 e.2 w.errAddr true false
  else nextDesc d c h

/-- `DESCRIPTOR_COMPLETE` (R394). -/
def execDescriptorComplete (c ch : Nat) (s : State) : Host.Outcome State Fault Refusal :=
  onDev (.descriptorComplete c ch) s (fun d => completeDesc d c ch)

/-! ### Lock groups (R401) -/

/-- LOCK_GROUP of a channel. -/
def lockGroup (d : Dev) (c h : Nat) : Nat := rf d (chanBase c h + 8) 9 4

/-- A channel waits at a SYNC_START descriptor; with its START_TIME. -/
def syncReady (d : Dev) (p : Nat × Nat) : Option Nat :=
  let k := chOf d p.1 p.2
  if k.prog = 1 ∧ k.state = 2 then some (descOf k.bytes64).start else none

/-- The members of a lock group: channels of the launch's running cores in the floe. -/
def groupOf (d : Dev) (c lg : Nat) : List (Nat × Nat) :=
  (((launchCores d c).filter (fun o => (coreOf d o).state = 2 && (coreOf d o).tag = (coreOf d c).tag)).flatMap (fun o => (List.range 16).map (fun h => (o, h)))).filter (fun p => lockGroup d p.1 p.2 = lg)

/-- Lets channels begin their descriptors. -/
def goSync (d : Dev) (l : List (Nat × Nat)) : Dev :=
  l.foldl (fun d p => setCh d p.1 p.2 (fun k => { k with prog := 2, state := 1 })) d

/-- Starts a lock group, or the channels of a core without one whose time has come. -/
def syncGroup (d : Dev) (c lg : Nat) : Dev :=
  if lg = 0 then
    goSync d (((List.range 16).map (fun h => (c, h))).filter (fun p =>
      lockGroup d c p.2 = 0 && (syncReady d p).any (fun t => decide (t ≤ d.now))))
  else
    let g := groupOf d c lg
    if g ≠ [] ∧ g.all (fun p => (syncReady d p).any (fun t => decide (t ≤ d.now))) then goSync d g else d

/-- `SYNC_START` (R401). -/
def execSyncStart (c lg : Nat) (s : State) : Host.Outcome State Fault Refusal :=
  onDev (.syncStart c lg) s (fun d => if (coreOf d c).state = 2 then syncGroup d c lg else d)

/-! ### Stop, halt and restart (R398 to R400) -/

/-- A halted channel has the acknowledgements of everything it had issued. -/
def halted (d : Dev) (c h : Nat) : Bool := (chOf d c h).state == 5 && !owes d (.chan c h)

/-- The state of a channel as software sees it: HALTED only when its acknowledgements are in (R399). -/
def chanStateReg (d : Dev) (c h : Nat) : Nat :=
  if (chOf d c h).state = 5 ∧ !halted d c h then (if (chOf d c h).haltStop then 3 else 1) else (chOf d c h).state

/-- STOP. -/
def chanStop (d : Dev) (c h : Nat) : Dev :=
  let k := chOf d c h
  if k.state = 2 then setCh d c h (fun k => { k with state := 4 })
  else if k.state = 1 then setCh d c h (fun k => { k with state := if chanBegun (coreOf d c) h then 3 else 4 })
  else d

/-- `CH_STOP` (R398). -/
def execChStop (c ch : Nat) (s : State) : Host.Outcome State Fault Refusal := onDev (.chStop c ch) s (fun d => chanStop d c ch)

/-- The instruction a halted channel was performing is an atomic one. -/
def haltedAtomic (d : Dev) (c h : Nat) : Bool :=
  match (streamOf (coreOf d c) (h + 2)).flight with
  | [] => false
  | f :: _ => if f.chain then (descOf (chOf d c h).bytes64).kind == 2 else bits f.ins.w0 0 8 == 0x23

/-- RESUME. -/
def chanResume (d : Dev) (c h : Nat) : Dev :=
  let x := coreOf d c
  let k := chanOf x h
  let s := streamOf x (h + 2)
  if k.state = 4 then
    setCh d c h (fun k => { k with state :=
      match s.flight with
      | f :: _ => if f.chain ∧ k.prog = 1 then 2 else 1
      | [] => nextChanState s.queue })
  else if halted d c h then
    if haltedAtomic d c h then setCh d c h (fun k => { k with resumeRefused := true })
    else
      match s.flight with
      | [] => setCh d c h (fun k => { k with state := nextChanState s.queue })
      | f :: rest =>
        if f.chain then
          setCh d c h (fun k => { startCheck (descOf k.bytes64) { k with crc := k.crcStart } with
                                  state := 1, prog := 2, multi := false, countStart := k.countStart })
        else
          setCh (modCore d c (fun x => modStream x (h + 2) (fun _ => ⟨{ f.ins with released := true } :: s.queue, rest⟩))) c h
            (fun k => { k with state := 1, multi := false })
  else d

/-- `CH_RESUME` (R400). -/
def execChResume (c ch : Nat) (s : State) : Host.Outcome State Fault Refusal := onDev (.chResume c ch) s (fun d => chanResume d c ch)

/-- SKIP: the halted descriptor counts as complete. -/
def chanSkip (d : Dev) (c h : Nat) : Dev :=
  if !halted d c h then d
  else
    let d := modCore (setCh d c h (fun k => { k with state := 1, multi := false })) c (fun x => { x with latched := tdel x.latched (h + 2) })
    if (chainOf d c h).isSome then nextDesc d c h else d

/-- `CH_SKIP` (R400). -/
def execChSkip (c ch : Nat) (s : State) : Host.Outcome State Fault Refusal := onDev (.chSkip c ch) s (fun d => chanSkip d c ch)

/-- ABANDON: the queue and the chain position are discarded. -/
def chanAbandon (d : Dev) (c h : Nat) : Dev :=
  if (chOf d c h).state = 4 ∨ halted d c h then
    setCh (modCore d c (fun x => modStream { x with latched := tdel x.latched (h + 2) } (h + 2) (fun _ => ⟨[], []⟩))) c h
      (fun k => { k with state := 0, prog := 0, desc := 0, bytes64 := [], multi := false })
  else d

/-- `CH_ABANDON` (R398). -/
def execChAbandon (c ch : Nat) (s : State) : Host.Outcome State Fault Refusal :=
  onDev (.chAbandon c ch) s (fun d => chanAbandon d c ch)

end Sys2Proof.Machine
end

