-- ==== Sys2Proof/Machine/Attend.lean ====
section
/-! DEFINITION. Attention: block partials, the canonical merge tree, partial records, ATTEND and ATTEND_MERGE (R220 to
R248), and reads from a replica (R101). -/

namespace Sys2Proof.Machine

open Sys2Proof

/-! ### Reads of a late unit under REPLICA (R101) -/

/-- Where a replica of a line lies, or else the line at the twin, which mirrors at its own address: node and address
there (R89, R101, R496). -/
def replicaAt (d : Dev) (line : Nat) : Option (Nat × Nat) :=
  let page := pageOfLine line
  let p := pageOf d page
  match p.replica with
  | some i => (tget? d.replicas (65536 * homeFloe page + i)).map (fun r => (r.1, r.2 * 65536 + line % 1024 * 64))
  | none =>
    let n := nodeOf d.mbr.map (selfNode d)
    if p.twin ∧ n.twinValid then some (n.twin, line * 64) else none

/-- Reads a line from its replica: DEADLINE where the page has none. -/
def W.replicaLine (w : W) (addr line : Nat) : W × Bytes :=
  match replicaAt w.d line with
  | none => (w.failAt addr false (0x30, 0), zeros 64)
  | some (n, a) => w.poolRead addr line n a

/-- Reads bytes, from the replica where asked. -/
def W.readUnit (w : W) (replica : Bool) (addr n : Nat) : W × Bytes :=
  if !replica then w.read addr n
  else
    (lineRuns addr n).foldl (fun (s : W × Bytes) r =>
      if s.1.ok then
        let x := s.1.xlate r.1 0
        match x.2 with
        | none => (x.1, s.2 ++ zeros r.2.2)
        | some u =>
          let y := x.1.replicaLine r.1 (u / 64)
          (y.1, s.2 ++ slice y.2 r.2.1 r.2.2)
      else (s.1, s.2 ++ zeros r.2.2)) (w, [])

/-- A read unit of a command is late (R101, R208). -/
def Cmd.isLate (c : Cmd) (u : Nat) : Bool := c.allLate || c.late.contains u

/-- FALLBACK of a command: 0 WAIT, 1 REPLICA, 2 SUMMARY, 3 SKIP. -/
def Cmd.fallback (c : Cmd) : Nat := c.f 2 1 % 4

/-- The proof's counts of late units (R102): every late unit counts, WAIT included. -/
def lateProof (c : Cmd) (units : List Nat) : Cmd :=
  let l := units.filter c.isLate
  { c with fallbacks := l.length, firstFallback := l.foldl min 0xFFFFFFFF,
           status := if l ≠ [] ∧ c.fallback ≠ 0 then 2 else 0 }

/-! ### Weights and partials (R229 to R232) -/

/-- FP32 maximum of two encodings. -/
def max32 (a b : Nat) : Nat := (elemOp 5 9 false a b 0).1

/-- FP32 difference of two encodings, a weight's argument, with its departures (R156, R157, R231). -/
def sub32 (a b : Nat) : Nat × Nat := elemOp 1 9 false a b 0

/-- The integer weight of an FP32 value not above zero (R230). -/
def weight (u : Nat) : Nat :=
  match decodeNum 9 u with
  | .fin n m e =>
    if m = 0 then 2 ^ 31
    else if (m.log2 : Int) + e ≥ 7 then 0
    else
      let r := expCore n m e
      roundInt r.2.toNat (r.1 - 31)
  | _ => 0

/-- The value of a node that is not EMPTY, for one query head: the D cell, then the N cells. -/
structure Part where
  bad : Bool
  summ : Bool
  m : Nat
  cells : List Slug
  deriving DecidableEq, Repr

/-- A NONFINITE value with given TERMS. -/
def badPart (summ : Bool) (terms : List Nat) : Part := ⟨true, summ, 0x7FC00000, terms.map (fun t => ⟨0, t, 3⟩)⟩

/-- The scaled score of a query and a key: its FP32 encoding, its departures, and whether it is finite (R229, R232): only
a finite value overflows (R152). -/
def score (q k : List Num) (scale : Nat) : Nat × Nat × Bool :=
  let s := dotTerms q k
  match decodeNum 9 scale with
  | .fin _ m e =>
    let t := rnd 9 false (s.1.value * m) (e - 120)
    (t.1, s.2.1 + (if s.1.cls = 0 then t.2 else 0), s.1.cls == 0 && numFinite (decodeNum 9 t.1))
  | _ => (0x7FC00000, s.2.1, false)

/-- The sums of weights times values along the head dimension, with their departures (R231). -/
def weigh (dim : Nat) (ws : List Nat) (vs : List (List Num)) : List Slug × Nat :=
  (List.range dim).foldl (fun (s : List Slug × Nat) i =>
    let r := (List.zip ws vs).foldl (fun (a : Slug × Nat) p =>
      let t := termOf (mulNum (.fin false p.1 (-31)) (p.2.getD i (.fin false 0 0)))
      (slugAdd a.1 t.1, a.2 + t.2)) (Slug.zero, 0)
    (s.1 ++ [r.1], s.2 + r.2)) ([], 0)

/-- The partial of a block for one head (R231, R232), with its departures. -/
def blockPart (dim scale : Nat) (q : List Num) (ks vs : List (List Num)) : Part × Nat :=
  let t := ks.map (fun k => score q k scale)
  let oor := t.foldl (fun n x => n + x.2.1) 0
  if t.any (fun x => !x.2.2) then (badPart false (List.replicate (dim + 1) ks.length), oor)
  else
    let m := (t.map (·.1)).foldl max32 ((t.map (·.1)).headD 0)
    let us := t.map (fun x => sub32 x.1 m)
    let ws := us.map (fun u => weight u.1)
    let n := weigh dim ws vs
    (⟨false, false, m, ⟨(ws.foldl (· + ·) 0 : Nat) * 2 ^ 89, ks.length, 0⟩ :: n.1⟩,
      us.foldl (fun n u => n + u.2) oor + n.2)

/-- The partial of `n` tokens that all equal a summary (R246). -/
def summaryPart (dim scale n : Nat) (q k v : List Num) : Part × Nat :=
  let t := score q k scale
  if !t.2.2 then (badPart true (List.replicate (dim + 1) n), t.2.1)
  else
    let c := v.map (fun x => termOf (mulNum (.fin false n 0) x))
    (⟨false, true, t.1, ⟨(n : Int) * 2 ^ 120, n, 0⟩ :: c.map (fun x => { x.1 with terms := n })⟩,
      t.2.1 + c.foldl (fun s x => s + x.2) 0)

/-! ### The canonical merge tree (R233 to R237) -/

/-- A node's value with the counts of its record; `merges` counts the nodes merged beneath it, `oor` the departures of
those merges (R156). -/
structure Node where
  val : Option Part
  present : Nat
  absent : Nat
  merges : Nat
  oor : Nat
  deriving DecidableEq, Repr

/-- `x / 2³¹` rounded to an integer, ties to even. -/
def round31 (x : Int) : Int := if x < 0 then -(roundShift x.natAbs 31 : Nat) else (roundShift x.natAbs 31 : Nat)

/-- The merge of two values (R234), with its departures. -/
def mergePart (l r : Part) : Part × Nat :=
  let summ := l.summ || r.summ
  if l.bad || r.bad then
    (badPart summ ((List.zip l.cells r.cells).map (fun p => min 0x1FFFFFFF (p.1.terms + p.2.terms))), 0)
  else
    let m := max32 l.m r.m
    let ul := sub32 l.m m
    let ur := sub32 r.m m
    let fl := weight ul.1
    let fr := weight ur.1
    (⟨false, summ, m, (List.zip l.cells r.cells).map (fun p =>
      ⟨wrap192 (round31 (fl * p.1.value + fr * p.2.value)), min 0x1FFFFFFF (p.1.terms + p.2.terms), classAdd p.1.cls p.2.cls⟩)⟩,
      ul.2 + ur.2)

/-- A node from its children (R233). -/
def joinNode (l r : Node) : Node :=
  let n (v : Option Part) (m o : Nat) : Node :=
    ⟨v, l.present + r.present, l.absent + r.absent, l.merges + r.merges + m, l.oor + r.oor + o⟩
  match l.val, r.val with
  | some a, some b => n (some (mergePart a b).1) 1 (mergePart a b).2
  | some a, none => n (some a) 0 0
  | none, v => n v 0 0

/-- The tree's height. -/
def treeHeight (total : Nat) : Nat := if total ≤ 1 then 0 else (total - 1).log2 + 1

/-- An EMPTY node over blocks `a` to `a + n − 1`: the absent leaves below TOTAL_BLOCKS are counted. -/
def emptyNode (total a n : Nat) : Node := ⟨none, 0, min (a + n) total - min a total, 0, 0⟩

/-- The value of node (h, k), from values placed at nodes: leaves that were formed, or inputs of a merge. -/
def evalNode (total : Nat) (at_ : Nat → Nat → Option Node) (some_ : Nat → Nat → Bool) : Nat → Nat → Node
  | 0, k => (at_ 0 k).getD (emptyNode total k 1)
  | h + 1, k =>
    match at_ (h + 1) k with
    | some n => n
    | none =>
      if !some_ (k * 2 ^ (h + 1)) (2 ^ (h + 1)) then emptyNode total (k * 2 ^ (h + 1)) (2 ^ (h + 1))
      else joinNode (evalNode total at_ some_ h (2 * k)) (evalNode total at_ some_ h (2 * k + 1))

/-- The local roots of a held run from `a` to below `b` (R236), by ascending first block. -/
def localRoots (total a b : Nat) : Nat → Nat → List (Nat × Nat)
  | h, k =>
    let lo := k * 2 ^ h
    let hi := min total ((k + 1) * 2 ^ h)
    if lo ≥ hi ∨ hi ≤ a ∨ b ≤ lo then []
    else if a ≤ lo ∧ hi ≤ b then [(h, k)]
    else
      match h with
      | 0 => []
      | h + 1 => localRoots total a b h (2 * k) ++ localRoots total a b h (2 * k + 1)

/-- One output row (R235), with its departures.  A cell whose CLASS is not finite converts by its CLASS (R153), the D cell
too; a zero N times the reciprocal of a zero D is a NaN. -/
def outputRow (dim fmt : Nat) (n : Node) : Bytes × Nat :=
  match n.val with
  | none => (packElems fmt (List.replicate dim 0), 0)
  | some p =>
    if p.bad then (packElems fmt (List.replicate dim (fmtNan fmt)), 0)
    else
      let d := p.cells.headD Slug.zero
      let df := slugTo 9 false d
      let r := definedFn 2 9 false (decodeNum 9 df.1)
      let big (s : Slug) := if s.terms > 2 ^ 24 then 1 else 0
      let l := (p.cells.drop 1).map (fun s =>
        let v : Num := if s.cls = 3 then .nan else if s.cls = 1 then .inf false else if s.cls = 2 then .inf true
          else mulNum (.fin (decide (s.value < 0)) s.value.natAbs (-120)) (decodeNum 9 r.1)
        let o := writeNum fmt false v
        (if s.cls = 0 ∧ s.value = 0 ∧ numFinite (decodeNum 9 r.1) then 0 else o.1, o.2 + big s))
      (packElems fmt (l.map (·.1)), df.2 + r.2 + l.foldl (fun n x => n + x.2) 0)

/-- A partial record (R238). -/
def recordBytes (seqId layer head dim h k : Nat) (n : Node) : Bytes :=
  let fl := match n.val with
    | none => 1
    | some p => 2 * b2n p.bad + 4 * b2n p.summ
  let m := match n.val with
    | none => 0
    | some p => p.m
  let b := leBytes 8 seqId ++ leBytes 4 (k * 2 ^ h) ++ leBytes 1 h ++ leBytes 1 head ++ leBytes 1 layer ++ leBytes 1 fl ++
    leBytes 4 m ++ leBytes 4 n.present ++ leBytes 4 n.absent
  b ++ leBytes 4 (crc32c b) ++
    (match n.val with
     | none => zeros (32 * (dim + 1))
     | some p => p.cells.flatMap cellOf)

/-! ### ATTEND (R239 to R242) -/

/-- The DETAIL of HANDLE_FAULT for a slot handle of a context (R50). -/
def slotFault (d : Dev) (ctx handle : Nat) : Option Nat :=
  if handle / 4096 ≠ 5 then some 3
  else
    match tget? d.slots (handle % 4096) with
    | none => some 1
    | some s => if s.ctx = ctx then none else some 2

/-- The parameters of a sequence slot that commands are fetched under. -/
def Slot.fetchPar (x : Slot) : Bytes :=
  match x.old.head? with
  | some o => o.2.2.1
  | none => x.par

/-- The checks of ATTEND (R204, R240), under the slot's parameters as fetching goes by them (R52). -/
def checkAttend (d : Dev) (c : Cmd) : Option (Nat × Nat) :=
  match slotFault d c.ctx (c.f 32 2) with
  | some k => some (0x16, k)
  | none =>
    let s := tget? d.slots (c.f 32 2 % 4096)
    let x := shapeOf ((s.map (·.fetchPar)).getD (zeros 64))
    let len := c.f 36 4
    let total := totalBlocks len x.blog
    let first := c.f 40 4
    let held := c.f 44 4
    if c.f 34 1 ≥ x.layers ∨ len < 1 ∨ len > 2 ^ 24 ∨ held < 1 ∨ held > x.stride ∨ first + held > 262144 ∨
        c.f 48 8 % 64 ≠ 0 ∨ c.f 56 8 % 64 ≠ 0 ∨ first ≥ total ∨ (c.f 35 1 % 2 = 0 ∧ (first ≠ 0 ∨ held < total)) ∨
        (c.fallback = 2 ∧ !x.summ) then some (0x18, 0)
    else if (s.map (·.state)).getD 0 ≠ 0 then some (0x35, 0)
    else none

/-- Values of packed elements with E8M0 scales, one for each 32; no scales where none are given. -/
def scaledVals (fmt : Nat) (b sc : Bytes) (scaled : Bool) : List Num :=
  (List.range (elemCount fmt b)).map (fun i =>
    let v := decodeNum fmt (elemAt fmt b i)
    if scaled then scaleNum (sc.getD (i / 32) 0).toNat v else v)

/-- The query rows (R224). -/
def readQuery (w : W) (x : Shape) (addr : Nat) : W × List (List Num) :=
  let row := x.dim * fmtW x.q / 8
  let r := w.read addr (x.heads * row)
  let s := if x.qScaled then r.1.read (addr + x.heads * row) (x.heads * x.dim / 32) else (r.1, [])
  (s.1, (List.range x.heads).map (fun h => scaledVals x.q (slice r.2 (h * row) row) (slice s.2 (h * x.dim / 32) (x.dim / 32)) x.qScaled))

/-- The rows of `n` tokens of one part of a block, for one KV head (R225): `base` and `sbase` are where the head's
elements and scales start. -/
def readRows (w : W) (rep : Bool) (x : Shape) (base sbase n : Nat) : W × List (List Num) :=
  let row := x.dim * fmtW x.kv / 8
  let r := w.readUnit rep base (n * row)
  let s := if x.kvScaled then r.1.readUnit rep sbase (n * x.dim / 32) else (r.1, [])
  (s.1, (List.range n).map (fun t => scaledVals x.kv (slice r.2 (t * row) row) (slice s.2 (t * x.dim / 32) (x.dim / 32)) x.kvScaled))

/-- Keys and values of the tokens of a block, by KV head. -/
def readBlockKv (w : W) (rep : Bool) (x : Shape) (addr n : Nat) : W × List (List (List Num) × List (List Num)) :=
  let size := 2 ^ x.blog
  let row := x.dim * fmtW x.kv / 8
  let kvb := x.kvHeads * size * row
  (List.range x.kvHeads).foldl (fun (s : W × List (List (List Num) × List (List Num))) g =>
    let sc := g * size * x.dim / 32
    let k := readRows s.1 rep x (addr + g * size * row) (addr + 2 * kvb + sc) n
    let v := readRows k.1 rep x (addr + kvb + g * size * row) (addr + 2 * kvb + x.kvHeads * size * x.dim / 32 + sc) n
    (v.1, s.2 ++ [(k.2, v.2)])) (w, [])

/-- The query head's KV head (R224). -/
def Shape.kvOf (x : Shape) (h : Nat) : Nat := h * x.kvHeads / x.heads

/-- The partials of a block, one for each query head: the block's table entry is read normally, whatever the fallback
(R102). -/
def formBlock (w : W) (rep : Bool) (x : Shape) (layer j n : Nat) (qs : List (List Num)) : W × List Part × Nat :=
  let e := w.read (x.table + 8 * (layer * x.stride + j)) 8
  if !e.1.ok then (e.1, [], 0)
  else
    let a := leNat e.2
    if a ≥ 2 ^ 48 ∨ a % 4096 ≠ 0 then (e.1.fail 0x13 0, [], 0)
    else
      let kv := readBlockKv e.1 rep x a n
      let l := (List.zip qs (List.range x.heads)).map (fun p =>
        let s := kv.2.getD (x.kvOf p.2) ([], [])
        blockPart x.dim x.scale p.1 s.1 s.2)
      (kv.1, l.map (·.1), l.foldl (fun n p => n + p.2) 0)

/-- Bytes of a summary entry (R227). -/
def Shape.sumBytes (x : Shape) : Nat :=
  (2 * x.kvHeads * x.dim * fmtW x.kv / 8 + (if x.kvScaled then 2 * x.kvHeads * x.dim / 32 else 0) + 63) / 64 * 64

/-- The partials of a late block taken from its summary (R246). -/
def formSummary (w : W) (x : Shape) (layer j n : Nat) (qs : List (List Num)) : W × List Part × Nat :=
  let r := w.read (x.summary + x.sumBytes * (layer * x.stride + j)) x.sumBytes
  let row := x.dim * fmtW x.kv / 8
  let part (g v : Nat) : List Num :=
    scaledVals x.kv (slice r.2 ((v * x.kvHeads + g) * row) row)
      (slice r.2 (2 * x.kvHeads * row + (v * x.kvHeads + g) * (x.dim / 32)) (x.dim / 32)) x.kvScaled
  let l := (List.zip qs (List.range x.heads)).map (fun p => summaryPart x.dim x.scale n p.1 (part (x.kvOf p.2) 0) (part (x.kvOf p.2) 1))
  (r.1, l.map (·.1), l.foldl (fun n p => n + p.2) 0)

/-- What the blocks of a run have given: the partials of each present block, departures, blocks read and summaries. -/
structure Formed where
  leaves : Tab (List Part)
  oor : Nat
  read : Nat
  summ : Nat
  deriving DecidableEq, Repr

/-- One block of the held run, by its fallback where it is late (R246). -/
def attendBlock (c : Cmd) (x : Shape) (qs : List (List Num)) (s : W × Formed) (b : Nat) : W × Formed :=
  if !s.1.ok then s
  else
    let layer := c.f 34 1
    let j := b - c.f 40 4
    let n := min (2 ^ x.blog) (c.f 36 4 - b * 2 ^ x.blog)
    let late := c.isLate b
    if late ∧ c.fallback = 3 then s
    else if late ∧ c.fallback = 2 then
      let r := formSummary s.1 x layer j n qs
      (r.1, { s.2 with leaves := tput s.2.leaves b r.2.1, oor := s.2.oor + r.2.2, summ := s.2.summ + 1 })
    else
      let r := formBlock s.1 (late && c.fallback == 1) x layer j n qs
      (r.1, { s.2 with leaves := tput s.2.leaves b r.2.1, oor := s.2.oor + r.2.2, read := s.2.read + 1 })

/-- The value of a node for one query head. -/
def headNode (f : Formed) (total head h k : Nat) : Node :=
  evalNode total (fun h k => if h = 0 then ((tget? f.leaves k).bind (·[head]?)).map (fun p => ⟨some p, 1, 0, 0, 0⟩) else none)
    (fun a n => f.leaves.any (fun l => decide (a ≤ l.1) && decide (l.1 < a + n))) h k

/-- Writes rows or records one after another, and forms their digest. -/
def writeOut (w : W) (addr : Nat) (l : List Bytes) : W × Nat :=
  let b := l.flatMap id
  (w.write addr b, crc64 b)

/-- ATTEND. -/
def attendBody (c : Cmd) (w : W) : W × (Cmd → Cmd) :=
  let x := shapeOf c.par
  let total := totalBlocks (c.f 36 4) x.blog
  let first := c.f 40 4
  let last := min total (first + c.f 44 4)
  let run := (List.range (last - first)).map (first + ·)
  let f := c.floe
  let w := { w with d := telF w.d f 0x1200 1 }
  let w := { w with d := { w.d with slots := tmod w.d.slots (c.f 32 2 % 4096) (fun s => { s with attended := true }) } }
  let q := readQuery w x (c.f 48 8)
  let r := run.foldl (attendBlock c x q.2) (q.1, ⟨[], 0, 0, 0⟩)
  let nLate := (run.filter c.isLate).length
  let w := { r.1 with d := telF (telF (telF r.1.d f 0x1208 r.2.read) f 0x1210 nLate) f 0x1218 r.2.summ }
  if !w.ok then (w, fun c => { lateProof c run with oor := c.oor + r.2.oor })
  else
    let partial_ := c.f 35 1 % 2 = 1
    let roots := if partial_ then localRoots total first last (treeHeight total) 0 else [(treeHeight total, 0)]
    let nodes := roots.flatMap (fun p => (List.range x.heads).map (fun h => (p, h, headNode r.2 total h p.1 p.2)))
    let w := { w with d := telF w.d f 0x1228 (nodes.foldl (fun n p => n + p.2.2.merges) 0) }
    let rows := nodes.map (fun p =>
      if partial_ then (recordBytes x.seqId (c.f 34 1) p.2.1 x.dim p.1.1 p.1.2 p.2.2, 0) else outputRow x.dim x.out p.2.2)
    let o := writeOut w (c.f 56 8) (rows.map (·.1))
    (o.1, fun c =>
      let c := lateProof c run
      let skipped := run.any (fun b => c.isLate b && c.fallback == 3)
      { c with detail := b2n (decide (0 < r.2.summ)) + 2 * b2n skipped,
               count := if partial_ then roots.length else x.heads, digest := o.2,
               oor := c.oor + r.2.oor + nodes.foldl (fun n p => n + p.2.2.oor) 0 + rows.foldl (fun n p => n + p.2) 0 })

/-- Takes an ATTEND's place among the requests for cores, and its cores where they are free (R185, R242). -/
def takeCores (d : Dev) (tag : Nat) (c : Cmd) : Dev :=
  assignRun (if d.runq.contains tag then d else { d with runq := insertRun d.cmds c.start tag d.runq }) tag

/-- ATTEND once its cores run its firmware kernels. -/
def attendRun (d : Dev) (far : Far) (tag : Nat) : Dev :=
  match cmdOf d tag with
  | none => d
  | some c =>
    if c.opcode = 1 ∧ c.phase = 2 ∧ c.cores.all (fun k => firmwareCore d k) then runCmd d far tag 4 [0x01] attendBody else d

/-- `ATTEND` (R242). -/
def execAttend (tag : Nat) (far : Far) (s : State) : Host.Outcome State Fault Refusal :=
  onDev (.attend tag far) s (fun d =>
    match cmdOf d tag with
    | none => d
    | some c => attendRun (if c.opcode = 1 ∧ c.phase = 1 then takeCores d tag c else d) far tag)

/-! ### ATTEND_MERGE (R243 to R245) -/

/-- The own checks of ATTEND_MERGE. -/
def checkMerge (c : Cmd) : Option (Nat × Nat) :=
  let dim := c.f 44 2
  let total := c.f 56 4
  if c.f 40 2 < 1 ∨ c.f 40 2 > 4096 ∨ c.f 43 1 < 1 ∨ c.f 42 1 + c.f 43 1 > 128 ∨
      ¬ (dim = 32 ∨ dim = 64 ∨ dim = 128 ∨ dim = 256) ∨ ¬ (7 ≤ c.f 46 1 ∧ c.f 46 1 ≤ 9) ∨ c.f 48 8 % 64 ≠ 0 ∨
      total < 1 ∨ total > 262144 then some (0x18, 0)
  else none

/-- One input: its node and its records by head. -/
structure MergeIn where
  first : Nat
  level : Nat
  present : Nat
  absent : Nat
  seqId : Nat
  layer : Nat
  parts : List (Option Part)
  deriving DecidableEq, Repr

/-- A record as a value; none where a cell fails its check. -/
def recordPart (b : Bytes) (dim : Nat) : Option (Option Part) :=
  let cells := (List.range (dim + 1)).map (fun i => slugOf (slice b (32 + 32 * i) 32))
  if cells.any (·.isNone) then none
  else
    let fl := fieldAt b 15 1
    if bitOf fl 0 then some none
    else some (some ⟨bitOf fl 1, bitOf fl 2, fieldAt b 16 4, cells.map (·.getD Slug.zero)⟩)

/-- The failure of record `j` of an input, in the order of R244; `f0` is the input's first record and `g0` the first
input's. -/
def recordFault (c : Cmd) (g0 f0 b : Bytes) (j : Nat) : Option (Nat × Nat) :=
  let total := c.f 56 4
  let lv := fieldAt b 12 1
  let nf := fieldAt b 8 4
  if fieldAt b 28 4 ≠ crc32c (slice b 0 28) then some (0x19, 1)
  else if fieldAt b 0 8 ≠ fieldAt g0 0 8 ∨ fieldAt b 14 1 ≠ fieldAt g0 14 1 then some (0x19, 2)
  else if fieldAt b 13 1 ≠ c.f 42 1 + j then some (0x19, 3)
  else if lv > treeHeight total ∨ nf % 2 ^ lv ≠ 0 ∨ nf ≥ total then some (0x19, 4)
  else if nf ≠ fieldAt f0 8 4 ∨ lv ≠ fieldAt f0 12 1 ∨ slice b 20 8 ≠ slice f0 20 8 then some (0x19, 7)
  else if (recordPart b (c.f 44 2)).isNone then some (0x26, 0)
  else none

/-- Reads and checks one input. -/
def mergeInput (c : Cmd) (s : W × List MergeIn × Bytes) (addr : Nat) : W × List MergeIn × Bytes :=
  if !s.1.ok then s
  else
    let dim := c.f 44 2
    let n := c.f 43 1
    let r := s.1.read addr (n * (64 + 32 * dim))
    let recs := (List.range n).map (fun j => slice r.2 (j * (64 + 32 * dim)) (64 + 32 * dim))
    let f0 := recs.headD []
    let g0 := if s.2.1 = [] then f0 else s.2.2
    match (List.zip recs (List.range n)).findSome? (fun p => (recordFault c g0 f0 p.1 p.2).map (fun e => (e, p))) with
    | some (e, b, j) =>
      let w := if e.1 = 0x26 then r.1.slugFail (addr + j * (64 + 32 * dim) + 32 + 32 * badCell (b.drop 32) (dim + 1)) else r.1.fail e.1 e.2
      (w, s.2.1, g0)
    | none =>
      (r.1, s.2.1 ++ [⟨fieldAt f0 8 4, fieldAt f0 12 1, fieldAt f0 20 4, fieldAt f0 24 4, fieldAt f0 0 8, fieldAt f0 14 1,
        recs.map (fun b => (recordPart b dim).getD none)⟩], g0)

/-- Blocks below TOTAL_BLOCKS that an input covers. -/
def MergeIn.covers (total : Nat) (m : MergeIn) : Nat := min total (m.first + 2 ^ m.level) - m.first

/-- The lowest block below TOTAL_BLOCKS that no input covers. -/
def uncovered (l : List MergeIn) (total : Nat) : Option Nat :=
  (List.range total).find? (fun b => l.all (fun m => decide (b < m.first) || decide (m.first + 2 ^ m.level ≤ b)))

/-- Two inputs of a list cover a common block. -/
def anyCommon : List MergeIn → Bool
  | [] => false
  | m :: t => t.any (fun n => decide (m.first < n.first + 2 ^ n.level) && decide (n.first < m.first + 2 ^ m.level)) || anyCommon t

/-- ATTEND_MERGE. -/
def mergeBody (c : Cmd) (w : W) : W × (Cmd → Cmd) :=
  let total := c.f 56 4
  let dim := c.f 44 2
  let h := treeHeight total
  let w := { w with d := telF w.d c.floe 0x1220 1 }
  let e := w.read (c.f 32 8) (8 * c.f 40 2)
  let entries := (List.range (c.f 40 2)).map (fun i => fieldAt e.2 (8 * i) 8)
  if !e.1.ok then (e.1, id)
  else if entries.any (fun a => decide (a ≥ 2 ^ 48) || a % 64 != 0) then (e.1.fail 0x13 0, id)
  else
    let r := entries.foldl (mergeInput c) (e.1, [], [])
    let ins := r.2.1
    if !r.1.ok then (r.1, id)
    else if anyCommon ins then (r.1.fail 0x19 5, id)
    else
      let miss := uncovered ins total
      if bitOf (c.f 47 1) 1 ∧ miss.isSome then (r.1.fail 0x19 6, id)
      else
        let node (j : Nat) := evalNode total
          (fun h k => (ins.find? (fun m => m.level = h && m.first = k * 2 ^ h)).map (fun m => ⟨(m.parts.getD j none), m.present, m.absent, 0, 0⟩))
          (fun a n => ins.any (fun m => decide (m.first < a + n) && decide (a < m.first + 2 ^ m.level))) h 0
        let nodes := (List.range (c.f 43 1)).map node
        let w := { r.1 with d := telF r.1.d c.floe 0x1228 (nodes.foldl (fun n p => n + p.merges) 0) }
        let g := ins.headD ⟨0, 0, 0, 0, 0, 0, []⟩
        let rows := (List.zip nodes (List.range nodes.length)).map (fun p =>
          if bitOf (c.f 47 1) 0 then (recordBytes g.seqId g.layer (c.f 42 1 + p.2) dim h 0 p.1, 0) else outputRow dim (c.f 46 1) p.1)
        let o := writeOut w (c.f 48 8) (rows.map (·.1))
        let fb := ins.foldl (fun n m => n + m.absent) 0 + (total - ins.foldl (fun n m => n + m.covers total) 0)
        let summ := nodes.any (fun n => (n.val.map (·.summ)).getD false)
        (o.1, fun c =>
          { c with count := c.f 43 1, digest := o.2, fallbacks := fb, firstFallback := miss.getD 0xFFFFFFFF,
                   status := if fb ≠ 0 ∨ summ then 2 else 0, detail := b2n summ + 2 * b2n (decide (0 < fb)),
                   oor := c.oor + nodes.foldl (fun n p => n + p.oor) 0 + rows.foldl (fun n p => n + p.2) 0 })

/-- `ATTEND_MERGE` (R245). -/
def execAttendMerge (tag : Nat) (far : Far) (s : State) : Host.Outcome State Fault Refusal :=
  onDev (.attendMerge tag far) s (fun d => runCmd d far tag 4 [0x02] mergeBody)

end Sys2Proof.Machine
end

