-- ==== Sys2Proof/Machine/Table.lean ====
section
/-! DEFINITION. Embedding tables: rows, generations and shadows, GATHER, SCATTER_GRAD and ROW_REPLACE (R249 to
R274). -/

namespace Sys2Proof.Machine

open Sys2Proof

/-- The state of a forme as a command that names it sees it: FORME_BROKEN, or DETAIL 1 while it is FORMING (R485, R490). -/
def formeFault (d : Dev) (handle : Nat) : Option (Nat × Nat) :=
  if handle = 0 then none
  else
    match (tget? d.formes (handle % 4096)).bind (fun f => d.mbr.map.formes.find? (fun r => r.id = f.id)) with
    | some r => if r.state = 1 then none else if r.state = 0 then some (0x31, 1) else some (0x31, 0)
    | none => some (0x31, 0)

/-- The failure of a command of a table, as the table's forme now stands (R271): one that has changed rows before changes no
more. -/
def formeNow (d : Dev) (c : Cmd) : Option (Nat × Nat) := formeFault d (cmdTable d c).2.forme

/-- The bytes of a slot. -/
def readSlot (w : W) (rep : Bool) (t : TabShape) (s : Nat) : W × Bytes := w.readUnit rep (t.store + s * t.slotBytes) t.slotBytes

/-! ### Changes and moves of a row (R256 to R258) -/

/-- What a change or a move of a row came to. -/
inductive RowEnd where
  | done (content : Bytes)
  /-- left unchanged: its values hold a NaN or an infinity -/
  | kept
  | waits
  /-- the row is being moved, by this command or by another -/
  | moves (own : Bool)
  | fails
  deriving DecidableEq, Repr

/-- A slot for the new content of a row: that of a move of the row in progress (R258), else one of the pool of its current slot,
else an ordinary one (R256). -/
def slotFor (w : W) (key : Nat) (t : TabShape) (r cur : Nat) : W × Option Nat :=
  match rowMove w.d key r with
  | some s => (w, some s)
  | none =>
    let hot := decide (t.hot ≤ cur)
    let a := takeSlot w key t hot
    let a := if a.2 = none ∧ hot ∧ a.1.ok then takeSlot a.1 key t false else a
    (if a.2 = none ∧ a.1.ok then a.1.fail 0x40 0 else a.1, a.2)

/-- The map entry of a row that is to be changed: a shadow of a generation that has retired is freed first, where that could not
be done before (R256). -/
def changeEntry (w : W) (key : Nat) (t : TabShape) (r : Nat) : W × RowEntry :=
  let e := readEntry w t r
  if e.1.ok ∧ e.2.gen ≤ tabNum w.d key 0 ∧ e.2.shadow ≠ 0 ∧ !shadowKept w.d key e.2.gen then readEntry (retireAll key 4096 t e.1) t r
  else e

/-- Changes a row to new content formed from its current slot bytes.  A change that arrives during a move of the row makes the
move's swap as its own (R258). -/
def changeRow (w : W) (key : Nat) (t : TabShape) (r : Nat) (form : Bytes → Option (Bytes × Nat)) (reads : Bool) : W × RowEnd × Nat :=
  let e := changeEntry w key t r
  let cur := tabNum w.d key 0
  if !e.1.ok then (e.1, .fails, 0)
  else if e.2.gen ≤ cur ∧ e.2.shadow ≠ 0 ∧ shadowKept w.d key e.2.gen then (e.1, .waits, 0)
  else
    let old := if reads then readSlot e.1 false t e.2.slot else (e.1, [])
    match (if old.1.ok then form old.2 else none) with
    | none => (old.1, if old.1.ok then .kept else .fails, if old.1.ok then 1 else 0)
    | some (b, oor) =>
      let a := slotFor old.1 key t r e.2.slot
      match a.2 with
      | none => (a.1, .fails, 0)
      | some s =>
        let fresh := decide (e.2.gen ≤ cur)
        let w := a.1.write (t.store + s * t.slotBytes) b
        let w := if w.ok then writeEntry w key t r ⟨s, cur + 1, if fresh then e.2.slot + 1 else e.2.shadow, false⟩ else w
        if !w.ok then (if (rowMove w.d key r).isSome then w else giveBack w key t s, .fails, 0)
        else
          let w := { w with d := endRowMove w.d key r }
          let w := if fresh then logRow w key t r else freeSlot w key t e.2.slot
          (w, if w.ok then .done b else .fails, oor)

/-- The row whose move a command has begun. -/
def Cmd.movesRow (c : Cmd) (r : Nat) : Bool := tget? c.blocks 1 == some (leBytes 4 r)

/-- Another command in progress moves the row. -/
def otherMoves (d : Dev) (c : Cmd) (r : Nat) : Bool :=
  d.cmds.any (fun o => o.2.opcode = 0x0A && o.2.phase = 2 && o.2.order != c.order && o.2.ctx = c.ctx && o.2.f 32 2 = c.f 32 2 &&
    o.2.movesRow r)

/-- A move that fails frees its slot and leaves the row in place (R105); the failure stands. -/
def dropRowMove (w : W) (key : Nat) (t : TabShape) (r : Nat) (e : RowEntry) (s : Nat) : W :=
  if w.err.isSome then
    let u := writeEntry { w with err := none } key t r { e with moving := false }
    let u := if u.ok then freeSlot u key t s else u
    { u with d := endRowMove u.d key r, err := w.err, errAddr := w.errAddr, errWrite := w.errWrite }
  else w

/-- The end of a row's move: copy and swap (R258). -/
def swapRow (w : W) (key : Nat) (t : TabShape) (r : Nat) (e : RowEntry) (s : Nat) : W × RowEnd :=
  let b := readSlot w false t e.slot
  let w := b.1.write (t.store + s * t.slotBytes) b.2
  let w := if w.ok then writeEntry w key t r { e with slot := s, moving := false } else w
  if !w.ok then (dropRowMove w key t r e s, .fails)
  else
    let w := freeSlot { w with d := endRowMove w.d key r } key t e.slot
    (w, if w.ok then .done b.2 else .fails)

/-- Moves a row into a pool without changing its content (R258): a first performance pins it, the next one copies and swaps it,
unless a change has made the swap meanwhile.  The slot is allocated first (R103); a row already in its pool is left alone (R267);
one that another command moves is waited for, and one whose mover was stopped is taken over (DESIGN CHOICE, log entry 30).  The
answer's content is what the row's new slot holds. -/
def moveRowTo (w : W) (key : Nat) (t : TabShape) (c : Cmd) (r : Nat) (hot : Bool) : W × RowEnd :=
  let e := readEntry w t r
  if !e.1.ok then (e.1, .fails)
  else
    match rowMove e.1.d key r, c.movesRow r with
    | some s, true => swapRow e.1 key t r e.2 s
    | none, true =>
      let b := readSlot e.1 false t e.2.slot
      (b.1, if b.1.ok then .done b.2 else .fails)
    | m, false =>
      if decide (t.hot ≤ e.2.slot) = hot then (e.1, .done [])
      else if m.isSome then (e.1, .moves (!otherMoves e.1.d c r))
      else
        let a := takeSlot e.1 key t hot
        match a.2 with
        | none => (if a.1.ok then a.1.fail 0x40 0 else a.1, .fails)
        | some s =>
          let w := writeEntry a.1 key t r { e.2 with moving := true }
          if !w.ok then (giveBack w key t s, .fails)
          else ({ w with d := setTabNum w.d key (16 + r) (s + 1) }, .moves true)

/-! ### Encoding a row (R259) -/

/-- A number `m × 2^e`. -/
abbrev Dyad := Int × Int

/-- The FP32 encoding of a magnitude `a ÷ b × 2^e` rounded down or up, the exponent unbounded above. -/
def dirMag (up : Bool) (a b : Nat) (e : Int) : Nat :=
  if a = 0 then 0
  else
    let k0 : Int := (a.log2 : Int) - b.log2
    let under := if 0 ≤ k0 then decide (a < b <<< k0.toNat) else decide (a <<< (-k0).toNat < b)
    let k := if under then k0 - 1 else k0
    let q := max (k + e - 23) (-149)
    let n := if 0 ≤ e - q then a <<< (e - q).toNat else a
    let m := if 0 ≤ e - q then b else b <<< (q - e).toNat
    (q + 149).toNat <<< 23 + (if up then (n + m - 1) / m else n / m)

/-- An FP32 encoding as a number. -/
def dyad32 (v : Nat) : Option Dyad :=
  match decodeNum 9 v with
  | .fin n m e => some (if n then -(m : Int) else m, e)
  | _ => none

/-- Numbers brought to one exponent. -/
def alignDyads (l : List Dyad) : Int × List Int :=
  let e := l.foldl (fun x p => min x p.2) (l.headD (0, 0)).2
  (e, l.map (fun p => p.1 * 2 ^ (p.2 - e).toNat))

/-- A rational rounded to an integer, ties to even; the divisor is positive. -/
def roundDiv (n : Int) (m : Nat) : Int :=
  let q := n / m
  let r := n - q * m
  if 2 * r > m ∨ (2 * r = m ∧ q % 2 = 1) then q + 1 else q

/-- The code of a value `n × 2^e` above OFFSET: its quotient by SCALE, clamped.  Where every value lies below the lowest
FP32 number, SCALE is negative or −0; by a zero SCALE the rule gives no quotient, and the code is a free value of the
operand (log entry 30). -/
def rowCode (q : Nat) (s : Dyad) (n e : Int) : Nat :=
  if s.1 = 0 then Config.free n.natAbs % (q + 1)
  else
    let m := if s.1 < 0 then -n else n
    let a := s.1.natAbs
    let r := if e ≥ s.2 then roundDiv (m * 2 ^ (e - s.2).toNat) a else roundDiv m (a * 2 ^ (s.2 - e).toNat)
    (max 0 (min (q : Int) r)).toNat

/-- ENC: the codes, SCALE and OFFSET of exact values, with the departures: each clamp of OFFSET or SCALE. -/
def encRow (codeBits : Nat) (u : List Dyad) : List Nat × Nat × Nat × Nat :=
  let q := 2 ^ codeBits - 1
  let (e, v) := alignDyads u
  let lo := v.foldl min (v.headD 0)
  let hi := v.foldl max (v.headD 0)
  let om := if lo < 0 then dirMag true lo.natAbs 1 e else dirMag false lo.natAbs 1 e
  let oClamp := decide (lo < 0) && decide (om > 0x7F7FFFFF)
  let off := (if lo < 0 then 2 ^ 31 else 0) + min om 0x7F7FFFFF
  let (e2, w) := alignDyads ((dyad32 off).getD (0, 0) :: v.map (fun x => (x, e)))
  let o := w.headD 0
  let span := hi * 2 ^ (e - e2).toNat - o
  if span = 0 then (v.map (fun _ => 0), 0, off, b2n oClamp)
  else
    let sm := dirMag (decide (0 < span)) span.natAbs q e2
    let scale := (if span < 0 then 2 ^ 31 else 0) + min sm 0x7F7FFFFF
    let s := (dyad32 scale).getD (1, 0)
    ((w.drop 1).map (fun x => rowCode q s (x - o) e2), scale, off, b2n oClamp + b2n (decide (0 < span) && decide (sm > 0x7F7FFFFF)))

/-- The bytes of a slot. -/
def slotBytesOf (t : TabShape) (codes : List Nat) (scale off : Nat) : Bytes :=
  let c := if t.codeBits = 4 then packElems 6 codes else codes.map (BitVec.ofNat 8 ·)
  let b := slice c 0 t.cb ++ leBytes 4 scale ++ leBytes 4 off
  b ++ zeros (t.slotBytes - b.length)

/-- Encodes a row, where its values are finite. -/
def encSlot (t : TabShape) (u : List (Option Dyad)) : Option (Bytes × Nat) :=
  if u.any (·.isNone) then none
  else
    let r := encRow t.codeBits (u.map (·.getD (0, 0)))
    some (slotBytesOf t r.1 r.2.1 r.2.2.1, r.2.2.2)

/-- Code of a local column of a slot. -/
def codeAt (t : TabShape) (b : Bytes) (c : Nat) : Nat :=
  if t.codeBits = 4 then bits (fieldAt b (c / 2) 1) (4 * (c % 2)) 4 else fieldAt b c 1

/-- The exact value of a column: none where SCALE or OFFSET is not finite (R250). -/
def slotValue (t : TabShape) (b : Bytes) (c : Nat) : Option Dyad :=
  match dyad32 (fieldAt b t.cb 4), dyad32 (fieldAt b (t.cb + 4) 4) with
  | some s, some o =>
    let e := min s.2 o.2
    some (s.1 * 2 ^ (s.2 - e).toNat * codeAt t b c + o.1 * 2 ^ (o.2 - e).toNat, e)
  | _, _ => none

/-- A number as an operand. -/
def dyadNum (x : Option Dyad) : Num :=
  match x with
  | some (m, e) => .fin (decide (m < 0)) m.natAbs e
  | none => .nan

/-! ### GATHER (R260 to R263) -/

/-- The handle and forme checks shared by the three commands. -/
def checkTable (d : Dev) (c : Cmd) (own : TabShape → Option (Nat × Nat)) : Option (Nat × Nat) :=
  match handleFault d c.ctx (c.f 32 2) 6 with
  | some k => some (0x16, k)
  | none =>
    let t := (cmdTable d c).2
    match own t with
    | some e => some e
    | none => formeFault d t.forme

/-- The checks of GATHER (R261). -/
def checkGather (d : Dev) (c : Cmd) : Option (Nat × Nat) :=
  checkTable d c (fun t =>
    let f := c.f 35 1
    let es := if f = 9 then 4 else if f = 11 then 32 else 2
    if ¬ (f = 7 ∨ f = 8 ∨ f = 9 ∨ f = 11) ∨ c.f 40 8 % 4 ≠ 0 ∨ c.f 48 8 % es ≠ 0 ∨ c.f 56 4 % es ≠ 0 ∨
        c.f 56 4 < t.cols * es ∨ (c.f 36 4 ≠ 0 ∧ !bitOf (c.f 34 1) 1) then some (0x18, 0)
    else if c.f 36 4 ≠ 0 ∧ !retained d (objKey c.ctx (c.f 32 2)) (c.f 36 4) then some (0x18, 1)
    else none)

/-- The request block of a GATHER. -/
structure GatherReq where
  bags : Nat
  offsets : List Nat
  index : List Nat
  weight : List Nat
  deriving DecidableEq, Repr

/-- `n` little-endian words of 4 bytes. -/
def words4 (b : Bytes) (n : Nat) : List Nat := (List.range n).map (fun i => fieldAt b (4 * i) 4)

/-- The lowest position of an index that no row has. -/
def badIndex (rows : Nat) (l : List Nat) : Option Nat := l.findIdx? (fun i => decide (i ≥ rows))

/-- Reads and checks the request block: the fault's RESULT_COUNT comes with its DETAIL. -/
def readGather (w : W) (c : Cmd) (rows : Nat) : W × GatherReq × Nat :=
  let a := c.f 40 8
  let h := w.read a 16
  let bags := fieldAt h.2 0 4
  let n := fieldAt h.2 4 4
  let none_ : GatherReq := ⟨0, [], [], []⟩
  if !h.1.ok then (h.1, none_, 0)
  else if n > 16777216 then (h.1.fail 0x13 2, none_, 0)
  else if bags < 1 ∨ bags > 1048576 then (h.1.fail 0x18 0, none_, 0)
  else
    let o := h.1.read (a + 16) (4 * (bags + 1))
    let x := o.1.read (a + 16 + 4 * (bags + 1)) (4 * n)
    let g := if bitOf (c.f 34 1) 0 then x.1.read (a + 16 + 4 * (bags + 1) + 4 * n) (4 * n) else (x.1, [])
    let off := words4 o.2 (bags + 1)
    let idx := words4 x.2 n
    let q : GatherReq := ⟨bags, off, idx, if bitOf (c.f 34 1) 0 then words4 g.2 n else []⟩
    if !g.1.ok then (g.1, none_, 0)
    else if off.headD 0 ≠ 0 then (g.1.fail 0x13 2, none_, 0)
    else
      match (List.range bags).find? (fun b => decide (off.getD (b + 1) 0 < off.getD b 0)) with
      | some b => (g.1.fail 0x13 2, none_, b)
      | none =>
        if off.getD bags 0 ≠ n then (g.1.fail 0x13 2, none_, bags)
        else
          match badIndex rows idx with
          | some p => (g.1.fail 0x13 1, none_, p)
          | none => (g.1, q, 0)

/-- The column sums of one bag, from one more position. -/
def gatherPos (c : Cmd) (t : TabShape) (q : GatherReq) (s : W × List Slug × Nat) (p : Nat) : W × List Slug × Nat :=
  let late := c.isLate p
  if !s.1.ok ∨ (late ∧ c.fallback = 3) then s
  else
    let r := q.index.getD p 0
    let e := readEntry s.1 t r
    let slot := if bitOf (c.f 34 1) 1 ∧ e.2.gen > c.pos then e.2.shadow - 1 else e.2.slot
    let b := readSlot e.1 (late && c.fallback == 1) t slot
    let wt : Num := if bitOf (c.f 34 1) 0 then dyadNum (dyad32 (q.weight.getD p 0)) else .fin false 1 0
    let ts := (List.range t.cols).map (fun k => termOf (mulNum wt (dyadNum (slotValue t b.2 k))))
    (b.1, (List.zip s.2.1 ts).map (fun x => slugAdd x.1 x.2.1), s.2.2 + ts.foldl (fun n x => n + x.2) 0)

/-- GATHER. -/
def gatherBody (c : Cmd) (w : W) : W × (Cmd → Cmd) :=
  let t := (cmdTable w.d c).2
  let r := readGather { w with d := telF w.d c.floe 0x1300 1 } c t.rows
  let q := r.2.1
  if (formeNow w.d c).isSome then (w.fail ((formeNow w.d c).getD (0, 0)).1 ((formeNow w.d c).getD (0, 0)).2, id)
  else if !r.1.ok then (r.1, fun c => { c with count := r.2.2 })
  else
    let sums := (List.range q.bags).foldl (fun (s : W × List (List Slug) × Nat) b =>
      let lo := q.offsets.getD b 0
      let x := ((List.range (q.offsets.getD (b + 1) 0 - lo)).map (lo + ·)).foldl (gatherPos c t q)
        (s.1, List.replicate t.cols Slug.zero, s.2.2)
      (x.1, s.2.1 ++ [x.2.1], x.2.2)) (r.1, [], 0)
    let units := List.range q.index.length
    let w := { sums.1 with d := telF sums.1.d c.floe 0x1308 q.index.length }
    if !w.ok then (w, fun c => { lateProof c units with oor := c.oor + sums.2.2 })
    else
      let f := c.f 35 1
      let out := sums.2.1.map (fun row =>
        if f = 11 then (row.flatMap cellOf, 0)
        else
          let l := row.map (slugTo f false)
          (packElems f (l.map (·.1)), l.foldl (fun n x => n + x.2) 0))
      let w := (List.zip out (List.range q.bags)).foldl (fun w p => w.write (c.f 48 8 + p.2 * c.f 56 4) p.1.1) w
      (w, fun c =>
        let c := lateProof c units
        { c with count := q.bags, digest := crc64 (out.flatMap (·.1)),
                 oor := c.oor + sums.2.2 + out.foldl (fun n x => n + x.2) 0,
                 detail := if c.fallback = 3 ∧ 0 < c.fallbacks then 2 else 0 })

/-- `GATHER` (R262). -/
def execGather (tag : Nat) (far : Far) (s : State) : Host.Outcome State Fault Refusal :=
  onDev (.gather tag far) s (fun d => runCmd d far tag 4 [0x08] gatherBody)

/-! ### SCATTER_GRAD (R264 to R266) -/

/-- The checks of SCATTER_GRAD. -/
def checkScatter (d : Dev) (c : Cmd) : Option (Nat × Nat) :=
  checkTable d c (fun _ =>
    let f := c.f 35 1
    if ¬ (f = 7 ∨ f = 9 ∨ f = 11) ∨ (dyad32 (c.f 36 4)).isNone ∨
        (f = 11 ∧ (c.f 48 8 % 32 ≠ 0 ∨ c.f 56 4 % 32 ≠ 0)) then some (0x18, 0) else none)

/-- A COMMAND record of a command that stops part-way (R441, R443). -/
def commandErr (d : Dev) (c : Cmd) (tag handle status detail at_ : Nat) : Dev :=
  let r := logRec d 5 1 14 c.floe c.ctx (errBody 0 status detail tag handle at_) false
  holdOpen r.1 (c.who tag 4) r.2

/-- Adds the gradient row of one position to its row's sums. -/
def mergeGrad (c : Cmd) (t : TabShape) (s : W × Tab (List Slug) × Nat) (p : Nat × Nat) : W × Tab (List Slug) × Nat :=
  if !s.1.ok then s
  else
    let f := c.f 35 1
    let r := s.1.read (c.f 48 8 + p.1 * c.f 56 4) (t.cols * fmtW f / 8)
    if !r.1.ok then (r.1, s.2)
    else
      let row := tget s.2.1 p.2 (List.replicate t.cols Slug.zero)
      if f = 11 then
        let cells := (List.range t.cols).map (fun k => slugOf (slice r.2 (32 * k) 32))
        if cells.any (·.isNone) then (r.1.slugFail (c.f 48 8 + p.1 * c.f 56 4 + 32 * badCell r.2 t.cols), s.2)
        else (r.1, tput s.2.1 p.2 ((List.zip row cells).map (fun x => slugAdd x.1 (x.2.getD Slug.zero))), s.2.2)
      else
        let ts := (List.range t.cols).map (fun k => termOf (decodeNum f (elemAt f r.2 k)))
        (r.1, tput s.2.1 p.2 ((List.zip row ts).map (fun x => slugAdd x.1 x.2.1)), s.2.2 + ts.foldl (fun n x => n + x.2) 0)

/-- Updated values of a row (R266). -/
def gradRow (c : Cmd) (t : TabShape) (g : List Slug) (b : Bytes) : Option (Bytes × Nat) :=
  let step := (dyad32 (c.f 36 4)).getD (0, 0)
  encSlot t ((List.zip g (List.range t.cols)).map (fun p =>
    if p.1.cls ≠ 0 then none
    else (slotValue t b p.2).map (fun v =>
      let x : Dyad := (step.1 * p.1.value, step.2 - 120)
      let e := min v.2 x.2
      (v.1 * 2 ^ (v.2 - e).toNat + x.1 * 2 ^ (x.2 - e).toNat, e))))

/-- Where the new slot bytes of a changed row are kept until the end. -/
def newKey (r : Nat) : Nat := 2 ^ 32 + r

/-- Notes the stop of a floe at a row: the proof carries the failure of the lowest row. -/
def noteStop (c : Cmd) (r : Nat) (e : Nat × Nat) : Cmd :=
  if c.failAt.any (fun x => decide (x < r)) then c else { c with failAt := some r, status := e.1, detail := e.2 }

/-- Changes the rows of one floe in ascending order, until one waits or fails. -/
def scatterFloe (tag key : Nat) (t : TabShape) : List Nat → W × Cmd → W × Cmd
  | [], s => s
  | r :: rest, (w, c) =>
    if w.blocked.isSome then (w, c)
    else
      let g := (List.range t.cols).map (fun k => (slugOf (slice (tget c.blocks r []) (32 * k) 32)).getD Slug.zero)
      let x := changeRow w key t r (gradRow c t g) true
      let gone : Cmd := { c with blocks := tdel c.blocks r }
      match x.2.1 with
      | .done b =>
        let w := { x.1 with d := telF (telF x.1.d c.floe 0x1310 1) c.floe 0x1318 1 }
        scatterFloe tag key t rest (w, { gone with blocks := tput gone.blocks (newKey r) b, count := c.count + 1,
                                                   oor := c.oor + x.2.2 })
      | .kept => scatterFloe tag key t rest (x.1, { gone with oor := c.oor + x.2.2, pos := 1 })
      | .waits =>
        let d := if c.covers.contains r then x.1.d else telF x.1.d c.floe 0x1328 1
        ({ x.1 with d := d }, { c with covers := if c.covers.contains r then c.covers else c.covers ++ [r] })
      | .moves _ => (x.1, c)
      | .fails =>
        match x.1.err with
        | some e =>
          let d := commandErr x.1.d c tag (c.f 32 2) e.1 e.2 r
          ({ x.1 with d := d, err := none },
            noteStop { c with blocks := c.blocks.filter (fun b => !(decide (b.1 < 2 ^ 32) && b.1 % 4 == r % 4)) } r e)
        | none => (x.1, c)

/-- Rows still to be changed. -/
def rowsLeft (c : Cmd) : List Nat := (tkeys c.blocks).filter (fun r => decide (r < 2 ^ 32))

/-- Changes rows of every floe, and ends the command when none is left; `pos` is 1 once a row was left unchanged for a
value that is not finite. -/
def scatterRun (d : Dev) (tag : Nat) (c : Cmd) (w : W) : Dev :=
  let (key, t) := cmdTable w.d c
  let r := (List.range 4).foldl (fun s f => scatterFloe tag key t ((rowsLeft c).filter (fun r => r % 4 = f)) s) (w, c)
  match r.1.blocked with
  | some b => unblock d b
  | none =>
    let c := { r.2 with writes := r.2.writes + r.1.wrote, opens := ((cmdOf r.1.d tag).map (·.opens)).getD [],
                        record := ((cmdOf r.1.d tag).map (·.record)).getD none, phase := 2 }
    let d := modCmd r.1.d tag (fun _ => c)
    if rowsLeft c ≠ [] then d
    else endCmd d tag (fun c =>
      { c with digest := crc64 (c.blocks.flatMap (·.2)), detail := if okStatus c.status then c.pos else c.detail, blocks := [],
               failAt := none })

/-- SCATTER_GRAD: the gradients are merged before any row changes. -/
def scatterStart (d : Dev) (far : Far) (tag : Nat) : Dev :=
  match cmdOf d tag with
  | none => d
  | some c =>
    if c.phase = 1 ∧ c.opcode = 9 ∧ floeOn d c.floe then
      let w := W.start d far c.ctx c.gen (c.who tag 4)
      let t := (cmdTable d c).2
      let w := match formeNow d c with
        | some e => w.fail e.1 e.2
        | none => w
      let h := w.read (c.f 40 8) 16
      let n := fieldAt h.2 0 4
      let r :=
        if !h.1.ok then (h.1, ([] : Tab (List Slug)), 0, 0)
        else if n < 1 ∨ n > 16777216 then (h.1.fail 0x18 0, [], 0, 0)
        else
          let x := h.1.read (c.f 40 8 + 16) (4 * n)
          let idx := words4 x.2 n
          if !x.1.ok then (x.1, [], 0, 0)
          else
            match badIndex t.rows idx with
            | some p => (x.1.fail 0x13 1, [], 0, p)
            | none =>
              let m := (List.zip (List.range n) idx).foldl (mergeGrad c t) (x.1, [], 0)
              (m.1, m.2.1, m.2.2, 0)
      match r.1.blocked with
      | some b => unblock d b
      | none =>
        match r.1.err with
        | some e => endCmd r.1.d tag (fun c => { c with status := e.1, detail := e.2, count := r.2.2.2, oor := c.oor + r.2.2.1 })
        | none =>
          scatterRun d tag { c with blocks := r.2.1.map (fun p => (p.1, p.2.flatMap cellOf)), oor := c.oor + r.2.2.1 } r.1
    else d

/-- `SCATTER_GRAD` (R266). -/
def execScatterGrad (tag : Nat) (far : Far) (s : State) : Host.Outcome State Fault Refusal :=
  onDev (.scatterGrad tag far) s (fun d => scatterStart d far tag)

/-! ### ROW_REPLACE (R267 to R270) -/

/-- The checks of ROW_REPLACE. -/
def checkReplace (d : Dev) (c : Cmd) : Option (Nat × Nat) :=
  checkTable d c (fun _ =>
    let n := c.f 36 4
    if n > 16777216 ∨ (n = 0 ∧ !bitOf (c.f 34 1) 2) then some (0x18, 0) else none)

/-- OP of ROW_REPLACE. -/
def Cmd.rowOp (c : Cmd) : Nat := c.f 34 1 % 4
/-- COMMIT of ROW_REPLACE. -/
def Cmd.commits (c : Cmd) : Bool := bitOf (c.f 34 1) 2

/-- Applies one listed row. -/
def replaceOne (c : Cmd) (w : W) (key : Nat) (t : TabShape) (p r : Nat) : W × RowEnd × Nat :=
  if c.rowOp ≥ 2 then
    let x := moveRowTo w key t c r (c.rowOp == 2)
    (x.1, x.2, 0)
  else
    let src := w.read (c.f 48 8 + p * c.f 56 4) (if c.rowOp = 0 then t.slotBytes else 4 * t.cols)
    if !src.1.ok then (src.1, .fails, 0)
    else if c.rowOp = 0 then changeRow src.1 key t r (fun _ => some (src.2, 0)) false
    else changeRow src.1 key t r (fun _ => encSlot t ((List.range t.cols).map (fun k => dyad32 (fieldAt src.2 (4 * k) 4)))) false

/-- Applies the listed rows from `pos` on, until one waits or fails; `blocks` holds the list, under 0. -/
def replaceLoop (key : Nat) (t : TabShape) : Nat → W × Cmd → W × Cmd
  | 0, s => s
  | n + 1, (w, c) =>
    if c.pos ≥ c.f 36 4 || !w.ok then (w, c)
    else
      let r := fieldAt (tget c.blocks 0 []) (4 * c.pos) 4
      let x := replaceOne c w key t c.pos r
      match x.2.1 with
      | .done b =>
        let w := { x.1 with d := telF x.1.d c.floe (if c.rowOp ≥ 2 then 0x1320 else 0x1318) (b2n !b.isEmpty) }
        replaceLoop key t n (w, { c with pos := c.pos + 1, count := c.count + 1, oor := c.oor + x.2.2, digest := crc64From c.digest b,
                                         blocks := tdel c.blocks 1 })
      | .kept => replaceLoop key t n (x.1, { c with pos := c.pos + 1, count := c.count + 1, oor := c.oor + x.2.2, detail := 1 })
      | .waits =>
        let d := if c.covers = [c.pos] then x.1.d else telF x.1.d c.floe 0x1328 1
        ({ x.1 with d := d }, { c with covers := [c.pos] })
      | .moves own => (x.1, if own then { c with blocks := tput c.blocks 1 (leBytes 4 r) } else c)
      | .fails => (x.1, c)

/-- Goes on with the rows of a ROW_REPLACE: it ends at a failure or its last row, or waits to commit. -/
def replaceRun (d : Dev) (tag : Nat) (c : Cmd) (w : W) : Dev :=
  let (key, t) := cmdTable w.d c
  let r := replaceLoop key t (c.f 36 4 - c.pos) (w, c)
  match r.1.blocked with
  | some b => unblock d b
  | none =>
    let c := { r.2 with writes := r.2.writes + r.1.wrote, opens := ((cmdOf r.1.d tag).map (·.opens)).getD [],
                        record := ((cmdOf r.1.d tag).map (·.record)).getD none, phase := 2 }
    let d := modCmd r.1.d tag (fun _ => c)
    match r.1.err with
    | some e => endCmd (commandErr d c tag (c.f 32 2) e.1 e.2 c.pos) tag (fun c => { c with status := e.1, detail := e.2 })
    | none => if c.pos ≥ c.f 36 4 ∧ !c.commits then endCmd d tag id else d

/-- ROW_REPLACE: every index, then GEN, is checked before any row is touched (R268). -/
def replaceStart (d : Dev) (far : Far) (tag : Nat) : Dev :=
  match cmdOf d tag with
  | none => d
  | some c =>
    if c.phase = 1 ∧ c.opcode = 0x0A ∧ floeOn d c.floe then
      let (key, t) := cmdTable d c
      let w := W.start d far c.ctx c.gen (c.who tag 4)
      let w := match formeNow d c with
        | some e => w.fail e.1 e.2
        | none => w
      let x := w.read (c.f 40 8) (4 * c.f 36 4)
      let cur := tabNum d key 0
      match x.1.blocked, x.1.err with
      | some b, _ => unblock d b
      | none, some e => failCmd x.1.d tag e.1 e.2
      | none, none =>
        match badIndex t.rows (words4 x.2 (c.f 36 4)) with
        | some p => endCmd x.1.d tag (fun c => { c with status := 0x13, detail := 1, count := p })
        | none =>
          if c.rowOp ≥ 2 ∧ !c.commits ∧ c.f 60 4 ≠ 0 then failCmd x.1.d tag 0x18 0
          else if c.commits ∧ cur = 0xFFFFFFFF then failCmd x.1.d tag 0x18 0
          else if (c.rowOp < 2 ∨ c.commits) ∧ c.f 60 4 ≠ cur + 1 then
            endCmd x.1.d tag (fun c => { c with status := 0x34, count := cur })
          else replaceRun d tag { c with blocks := [(0, x.2)], pos := 0 } x.1
    else d

/-- `ROW_REPLACE` (R269). -/
def execRowReplace (tag : Nat) (far : Far) (s : State) : Host.Outcome State Fault Refusal :=
  onDev (.rowReplace tag far) s (fun d => replaceStart d far tag)

/-- `ROW_CHANGE_RESUME` (R256): a waiting change goes on. -/
def execRowChangeResume (tag : Nat) (far : Far) (s : State) : Host.Outcome State Fault Refusal :=
  onDev (.rowChangeResume tag far) s (fun d =>
    match cmdOf d tag with
    | none => d
    | some c =>
      if c.phase = 2 ∧ floeOn d c.floe then
        let (key, t) := cmdTable d c
        let w0 := W.start d far c.ctx c.gen (c.who tag 4)
        let w1 := retireAll key 4096 t w0
        let w := if w1.ok then w1 else w0
        if (c.opcode = 9 ∨ c.opcode = 0x0A) ∧ (formeNow d c).isSome then
          failCmd d tag ((formeNow d c).getD (0, 0)).1 ((formeNow d c).getD (0, 0)).2
        else if c.opcode = 9 then scatterRun d tag c w
        else if c.opcode = 0x0A ∧ c.pos < c.f 36 4 then replaceRun d tag c w
        else d
      else d)

/-- A command of the table fetched earlier is still to complete (R270). -/
def earlierChanges (d : Dev) (c : Cmd) : Bool :=
  d.cmds.any (fun o => (o.2.opcode = 9 || o.2.opcode = 0x0A) && o.2.ctx = c.ctx && o.2.f 32 2 = c.f 32 2 &&
    decide (o.2.order < c.order) && o.2.phase != 3)

/-- COMMIT: CURRENT_GEN becomes GEN, and what is older and not pinned retires. -/
def commitGen (d : Dev) (tag : Nat) : Dev :=
  match cmdOf d tag with
  | none => d
  | some c =>
    if c.phase = 2 ∧ c.opcode = 0x0A ∧ c.commits ∧ c.pos ≥ c.f 36 4 ∧ !earlierChanges d c then
      let (key, t) := cmdTable d c
      if (formeNow d c).isSome then failCmd d tag ((formeNow d c).getD (0, 0)).1 ((formeNow d c).getD (0, 0)).2
      else if c.f 60 4 ≠ tabNum d key 0 + 1 then endCmd d tag (fun c => { c with status := 0x34, count := tabNum d key 0 })
      else
        let d' := retireEvent (setTabNum d key 0 (c.f 60 4)) key (c.f 32 2) c.ctx 4096 (c.f 60 4 - 1)
        let w := retireAll key 4096 t (W.start d' [] c.ctx c.gen (c.who tag 4))
        match w.blocked, w.err with
        | some b, _ => unblock d b
        | none, some e => endCmd w.d tag (fun c => { c with status := e.1, detail := e.2 })
        | none, none => endCmd w.d tag id
    else d

/-- `GENERATION_COMMIT` (R270). -/
def execGenerationCommit (tag : Nat) (s : State) : Host.Outcome State Fault Refusal :=
  onDev (.generationCommit tag) s (fun d => commitGen d tag)

end Sys2Proof.Machine
end

