-- ==== Sys2Proof/Machine/Search.lean ====
section
/-! DEFINITION. Vector search: the index object, hashing and scoring, SEARCH, INDEX_INSERT and INDEX_DELETE (R275 to
R298). -/

namespace Sys2Proof.Machine

open Sys2Proof

/-! ### The index object (R275 to R280) -/

/-- The shape an index's parameter block gives. -/
structure IdxShape where
  vec : Nat
  meta_ : Nat
  nbr : Nat
  proj : Nat
  work : Nat
  vectors : Nat
  segments : Nat
  idBase : Nat
  dim : Nat
  tables : Nat
  hbits : Nat
  fmt : Nat
  metric : Nat
  degree : Nat
  segLog : Nat
  deriving DecidableEq, Repr

/-- The fields of an index's parameter block. -/
def idxOf (b : Bytes) : IdxShape :=
  { vec := fieldAt b 0 8, meta_ := fieldAt b 8 8, nbr := fieldAt b 16 8, proj := fieldAt b 24 8, work := fieldAt b 32 8,
    vectors := fieldAt b 40 4, segments := fieldAt b 44 4, idBase := fieldAt b 48 4, dim := fieldAt b 52 2,
    tables := fieldAt b 54 1, hbits := fieldAt b 55 1, fmt := fieldAt b 56 1, metric := fieldAt b 57 1,
    degree := fieldAt b 58 1, segLog := fieldAt b 59 1 }

/-- A length rounded up to a multiple. -/
def roundUp (n m : Nat) : Nat := (n + m - 1) / m * m

/-- Bytes of the elements of a vector. -/
def IdxShape.vecBytes (x : IdxShape) : Nat := x.dim * fmtW x.fmt / 8
/-- VS, the vector stride. -/
def IdxShape.vs (x : IdxShape) : Nat := roundUp x.vecBytes 64
/-- DIR_BYTES. -/
def IdxShape.dirBytes (x : IdxShape) : Nat := roundUp (16 * x.tables * 2 ^ x.hbits) 65536
/-- Where the directory entry of a bucket lies. -/
def IdxShape.bucketAt (x : IdxShape) (t h : Nat) : Nat := x.work + 16 * (t * 2 ^ x.hbits + h)
/-- Where a segment lies. -/
def IdxShape.segAt (x : IdxShape) (s : Nat) : Nat := x.work + x.dirBytes + s * 2 ^ x.segLog
/-- E, the members of a segment. -/
def IdxShape.segCap (x : IdxShape) : Nat := max 1 (2 ^ x.segLog / 4 - 1)
/-- RS, the record stride of INDEX_INSERT. -/
def IdxShape.rs (x : IdxShape) : Nat := roundUp (8 + x.vs + 4 * x.degree) 64

/-- The index a command names: its number and shape. -/
def cmdIndex (d : Dev) (c : Cmd) : Nat × IdxShape :=
  (objKey c.ctx (c.f 32 2), idxOf (((objOf d c.ctx (c.f 32 2)).map (·.par)).getD (zeros 64)))

/-- Numbers of an index: 0 SEG_USED, 1 LIVE, 2 TOMBSTONED, 3 INDEX_VERSION. -/
def bumpIdx (d : Dev) (key i : Nat) (by_ : Int) : Dev := setTabNum d key i (ofSigned 32 ((tabNum d key i : Int) + by_))

/-- A meta entry: STATE and ATTR (R278). -/
def readMeta (w : W) (x : IdxShape) (i : Nat) : W × Nat × Nat :=
  let r := w.read (x.meta_ + 8 * i) 8
  (r.1, fieldAt r.2 0 1 % 4, fieldAt r.2 4 4)

/-- Writes a meta entry. -/
def writeMeta (w : W) (x : IdxShape) (i st attr : Nat) (final : Bool) : W :=
  w.writeF (x.meta_ + 8 * i) (leBytes 4 st ++ leBytes 4 attr) final

/-- A directory entry: FIRST_SEG, LAST_SEG and COUNT (R280).  It is the descriptor of a bucket probe, read normally whatever
the fallback (R102). -/
def readBucket (w : W) (x : IdxShape) (t h : Nat) : W × Nat × Nat × Nat :=
  let r := w.read (x.bucketAt t h) 16
  (r.1, fieldAt r.2 0 4, fieldAt r.2 4 4, fieldAt r.2 8 4)

/-- The members of a chain of segments, `n` still to come. -/
def chainMembers (rep : Bool) (x : IdxShape) : Nat → W → Nat → Nat → List Nat → W × List Nat
  | 0, w, _, _, l => (w, l)
  | k + 1, w, seg, n, l =>
    if seg = 0 || n = 0 || !w.ok then (w, l)
    else
      let m := min n x.segCap
      let r := w.readUnit rep (x.segAt (seg - 1)) (2 ^ x.segLog)
      chainMembers rep x k r.1 (fieldAt r.2 (2 ^ x.segLog - 4) 4) (n - m) (l ++ words4 r.2 m)

/-- The members of a bucket in their order. -/
def bucketMembers (w : W) (rep : Bool) (x : IdxShape) (t h : Nat) : W × List Nat :=
  let b := readBucket w x t h
  chainMembers rep x (b.2.2.2 / x.segCap + 1) b.1 b.2.1 b.2.2.2 []

/-! ### Hashing and scoring (R282 to R284) -/

/-- The values of packed elements. -/
def plainVals (fmt dim : Nat) (b : Bytes) : List Num := (List.range dim).map (fun i => decodeNum fmt (elemAt fmt b i))

/-- The exact sum of the products of two vectors, with its departures. -/
def dotNums (a b : List Num) : Slug × Nat := sumNums (List.zipWith mulNum a b)

/-- The bit and the margin of one projection, with its departures. -/
def projBit (q p : List Num) : Bool × Nat × Nat :=
  let s := dotNums q p
  (s.1.cls = 0 && decide (s.1.value > 0), if s.1.cls = 0 then s.1.value.natAbs else 0, s.2)

/-- Puts a bit position into the flip order: by ascending margin, ties to the lower position. -/
def insertFlip (m : Nat × Nat) : List (Nat × Nat) → List (Nat × Nat)
  | [] => [m]
  | x :: t => if m.2 < x.2 then m :: x :: t else x :: insertFlip m t

/-- The hash and the flip order of one table for a vector, with the departures of its projections. -/
def tableHash (w : W) (x : IdxShape) (q : List Num) (t : Nat) : W × (Nat × List Nat) × Nat :=
  let r := (List.range x.hbits).foldl (fun (s : W × Nat × List (Nat × Nat) × Nat) b =>
    let p := s.1.read (x.proj + (t * x.hbits + b) * x.vs) x.vecBytes
    let y := projBit q (plainVals x.fmt x.dim p.2)
    (p.1, s.2.1 + (if y.1 then 2 ^ b else 0), insertFlip (b, y.2.1) s.2.2.1, s.2.2.2 + y.2.2)) (w, 0, [], 0)
  (r.1, (r.2.1, r.2.2.1.map (·.1)), r.2.2.2)

/-- The hashes and flip orders of every table, with the departures of the projections (R156, R282). -/
def allHashes (w : W) (x : IdxShape) (q : List Num) : W × List (Nat × List Nat) × Nat :=
  (List.range x.tables).foldl (fun (s : W × List (Nat × List Nat) × Nat) t =>
    let r := tableHash s.1 x q t
    (r.1, s.2.1 ++ [r.2.1], s.2.2 + r.2.2)) (w, [], 0)

/-- The exact score of a vector, with its departures (R283). -/
def vecScore (metric : Nat) (q v : List Num) : Slug × Nat :=
  if metric = 0 then dotNums q v
  else sumNums ((List.zip q v).flatMap (fun p =>
    [negNum (mulNum p.1 p.1), mulNum (.fin false 2 0) (mulNum p.1 p.2), negNum (mulNum p.2 p.2)]))

/-! ### SEARCH (R285 to R290) -/

/-- The request block of SEARCH. -/
structure SearchReq where
  queries : Nat
  k : Nat
  short : Nat
  refine_ : Nat
  widen : Nat
  fmt : Nat
  mode : Nat
  mask : Nat
  match_ : Nat
  limit : Nat
  deriving DecidableEq, Repr

/-- The fields of a request block. -/
def searchReqOf (b : Bytes) : SearchReq :=
  { queries := fieldAt b 0 4, k := fieldAt b 4 2, short := fieldAt b 6 2, refine_ := fieldAt b 8 1, widen := fieldAt b 9 1,
    fmt := fieldAt b 10 1, mode := fieldAt b 11 1, mask := fieldAt b 12 4, match_ := fieldAt b 16 4, limit := fieldAt b 20 4 }

/-- The request block keeps its ranges, and its formats form a pair of R147. -/
def SearchReq.ok (r : SearchReq) (x : IdxShape) (b : Bytes) : Bool :=
  decide (1 ≤ r.queries) && decide (r.queries ≤ 65536) && decide (1 ≤ r.k) && decide (r.k ≤ 4096) && decide (r.k ≤ r.short) &&
    decide (r.short ≤ 4096) && decide (r.refine_ ≤ (if x.degree = 0 then 0 else 64)) && decide (r.widen ≤ x.hbits) &&
    decide (r.mode ≤ 2) && decide (1 ≤ r.limit) && decide (r.limit ≤ 1048576) && decide (fieldAt b 24 8 = 0) &&
    ((fmtNarrow r.fmt && fmtNarrow x.fmt) || (r.fmt == 7 && x.fmt == 7))

/-- Reads the fields of a SEARCH's request block for the checks of its entry. -/
def readRequest (d : Dev) (far : Far) (c : Cmd) : W × Bytes :=
  (W.start d far c.ctx c.gen (unitWho d c.ctx c.g)).read (c.f 40 8) 32

/-- The checks of SEARCH (R204, R285): of its entry, and of the request block; one whose read fails is judged when the command
reads it (log entry 55). -/
def checkSearch (d : Dev) (far : Far) (c : Cmd) : Option (Nat × Nat) :=
  match handleFault d c.ctx (c.f 32 2) 7 with
  | some k => some (0x16, k)
  | none =>
    let h := readRequest d far c
    if c.f 34 6 ≠ 0 ∨ c.f 40 8 % 32 ≠ 0 ∨ c.f 48 8 % 64 ≠ 0 ∨ c.f 56 8 ≠ 0 then some (0x18, 0)
    else if h.1.ok ∧ !(searchReqOf h.2).ok (cmdIndex d c).2 h.2 then some (0x18, 0)
    else none

/-- QS, the stride of the queries. -/
def SearchReq.qs (r : SearchReq) (x : IdxShape) : Nat := roundUp (x.dim * fmtW r.fmt / 8) 32

/-- OS, the stride of the output blocks. -/
def SearchReq.os (r : SearchReq) : Nat := roundUp (16 + 8 * r.k) 64

/-- FILTER_MODE applied to an attribute word. -/
def SearchReq.passes (r : SearchReq) (attr : Nat) : Bool :=
  if r.mode = 0 then true else if r.mode = 1 then (attr &&& r.mask) == r.match_ else (attr &&& r.mask) != 0

/-- A ranked candidate: identifier, VALUE of its score, attribute word. -/
structure Cand where
  id : Nat
  score : Int
  attr : Nat
  deriving DecidableEq, Repr

/-- Where one query stands. -/
structure Query where
  /-- every candidate -/
  cand : List Nat
  /-- those with a finite score, in the order of R284 -/
  ranked : List Cand
  expanded : List Nat
  stale : Nat
  rounds : Nat
  limit : Bool
  skipped : Bool
  /-- bucket members that were not LIVE -/
  dead : Nat
  oor : Nat
  /-- read units of the probes made -/
  units : List Nat
  deriving DecidableEq, Repr

/-- A query before its first round. -/
def Query.start : Query :=
  { cand := [], ranked := [], expanded := [], stale := 0, rounds := 0, limit := false, skipped := false, dead := 0, oor := 0,
    units := [] }

/-- Puts a candidate among the ranked ones: highest score first, ties to the lower identifier (R284). -/
def insertCand (m : Cand) : List Cand → List Cand
  | [] => [m]
  | x :: t =>
    if m.score > x.score ∨ (m.score = x.score ∧ m.id < x.id) then m :: x :: t else x :: insertCand m t

/-- Adds a LIVE identifier to the candidates and scores it, unless it is one already or CAND_LIMIT refuses it. -/
def addCand (x : IdxShape) (r : SearchReq) (qv : List Num) (s : W × Query) (id attr : Nat) : W × Query :=
  if s.2.cand.contains id then s
  else if s.2.cand.length ≥ r.limit then (s.1, { s.2 with limit := true })
  else
    let b := s.1.read (x.vec + id * x.vs) x.vecBytes
    let sc := vecScore x.metric qv (plainVals x.fmt x.dim b.2)
    (b.1, { s.2 with
      cand := s.2.cand ++ [id], oor := s.2.oor + sc.2,
      ranked := if sc.1.cls = 0 then insertCand ⟨id, sc.1.value, attr⟩ s.2.ranked else s.2.ranked })

/-- One bucket probe (R289). -/
def probeTable (c : Cmd) (x : IdxShape) (r : SearchReq) (j rnd : Nat) (qv : List Num) (hs : List (Nat × List Nat))
    (s : W × Query) (t : Nat) : W × Query :=
  if !s.1.ok then s
  else
    let u := (j * (r.widen + 1) + rnd) * x.tables + t
    let late := c.isLate u
    let q := { s.2 with units := s.2.units ++ [u] }
    if late && c.fallback == 3 then (s.1, { q with skipped := true })
    else
      let hf := hs.getD t (0, [])
      let h := if rnd = 0 then hf.1 else hf.1 ^^^ 2 ^ (hf.2.getD (rnd - 1) 0)
      let m := bucketMembers s.1 (late && c.fallback == 1) x t h
      m.2.foldl (fun (s : W × Query) id =>
        if !s.1.ok then s
        else
          let e := readMeta s.1 x id
          if e.2.1 = 1 then addCand x r qv (e.1, s.2) id e.2.2 else (e.1, { s.2 with dead := s.2.dead + 1 })) (m.1, q)

/-- The hop through the neighbours of one shortlist entry. -/
def hopFrom (x : IdxShape) (r : SearchReq) (qv : List Num) (s : W × Query) (y : Nat) : W × Query :=
  if !s.1.ok || s.2.expanded.contains y then s
  else
    let b := s.1.read (x.nbr + 4 * x.degree * y) (4 * x.degree)
    (words4 b.2 x.degree).foldl (fun (s : W × Query) n =>
      if !s.1.ok || n == 0xFFFFFFFF then s
      else if n ≥ x.vectors then (s.1.fail 0x13 4, s.2)
      else
        let e := readMeta s.1 x n
        if e.2.1 = 2 then (e.1, { s.2 with stale := s.2.stale + 1 })
        else if e.2.1 = 1 then addCand x r qv (e.1, s.2) n e.2.2
        else (e.1, s.2)) (b.1, { s.2 with expanded := s.2.expanded ++ [y] })

/-- The survivors of the filter. -/
def Query.surv (q : Query) (r : SearchReq) : List Cand := (q.ranked.take r.short).filter (fun y => r.passes y.attr)

/-- The rounds of one query from round `rnd` on (R286). -/
def searchRounds (c : Cmd) (x : IdxShape) (r : SearchReq) (j : Nat) (qv : List Num) (hs : List (Nat × List Nat)) :
    Nat → W × Query → Nat → W × Query
  | 0, s, _ => s
  | n + 1, s, rnd =>
    if !s.1.ok then s
    else
      let s := (List.range x.tables).foldl (probeTable c x r j rnd qv hs) s
      let s := ((s.2.ranked.take r.short).take r.refine_).foldl (fun s y => hopFrom x r qv s y.id) s
      let s := (s.1, { s.2 with rounds := rnd })
      if (s.2.surv r).length ≥ r.k then s else searchRounds c x r j qv hs n s (rnd + 1)

/-- The output block of a query, the 16 + 8K bytes that are written (R287). -/
def outBlock (x : IdxShape) (r : SearchReq) (j : Nat) (q : Query) : Bytes :=
  let l := (q.surv r).take r.k
  let flags := b2n (decide (l.length < r.k)) + 2 * b2n q.limit + 4 * b2n q.skipped
  leBytes 4 (j + 1) ++ leBytes 2 l.length ++ leBytes 4 q.cand.length ++ leBytes 2 (min 0xFFFF q.stale) ++ leBytes 1 q.rounds ++
    leBytes 1 flags ++ zeros 2 ++
    l.flatMap (fun y => leBytes 4 ((x.idBase + y.id) % 2 ^ 32) ++ leBytes 4 (slugTo 9 false ⟨y.score, 1, 0⟩).1) ++
    (List.replicate (r.k - l.length) (leBytes 4 0xFFFFFFFF ++ zeros 4)).flatten

/-- What the queries of a SEARCH have come to. -/
structure Searched where
  count : Nat
  stale : Nat
  oor : Nat
  short : Bool
  widened : Bool
  limit : Bool
  units : List Nat
  /-- the engine of each query dealt -/
  engines : List Nat
  digest : Nat
  deriving DecidableEq, Repr

/-- The engines that serve: those of ON floes that are not disabled, as 6 × floe + unit. -/
def enginesOn (d : Dev) : List Nat :=
  (List.range 4).flatMap (fun f =>
    if floeOn d f then ([4, 5].filter (fun u => rf d (floeBase f + 0x160000 + u * 0x1000) 0 1 == 0)).map (fun u => 6 * f + u) else [])

/-- The engine of query `j`: the engines take the queries in round robin from one of them on (R290). -/
def engineOf (en : List Nat) (first j : Nat) : Nat := en.getD ((en.idxOf first + j) % max 1 en.length) 4

/-- The engine that the first query of a command goes to: a free value picks it, once. -/
def firstEngine (d : Dev) (c : Cmd) : Nat :=
  c.units.headD ((enginesOn d).getD (freeVal d % max 1 (enginesOn d).length) 4)

/-- One query: hashing, rounds and its output block, whose first line is written last (R287). -/
def oneQuery (tag first : Nat) (c : Cmd) (x : IdxShape) (r : SearchReq) (req : Bytes) (s : W × Searched) (j : Nat) : W × Searched :=
  if !s.1.ok then s
  else
    let u := engineOf (enginesOn s.1.d) first j
    let d := telF s.1.d c.floe 0x1400 1
    let w := { s.1 with d := { d with unitTag := tput d.unitTag u tag } }
    let s := (s.1, { s.2 with engines := s.2.engines ++ [u] })
    let qv := plainVals r.fmt x.dim (slice req (j * r.qs x) (r.qs x))
    let h := allHashes w x qv
    let t := searchRounds c x r j qv h.2.1 (r.widen + 1) (h.1, { Query.start with oor := h.2.2 }) 0
    let q := t.2
    let n := ((q.surv r).take r.k).length
    let d := telF (telF (telF (telF (telF t.1.d c.floe 0x1408 q.cand.length) c.floe 0x1410 q.dead) c.floe 0x1418 q.stale)
      c.floe 0x1420 q.rounds) c.floe 0x1428 (b2n (decide (n < r.k)))
    let w := { t.1 with d := d }
    if !w.ok then (w, { s.2 with units := s.2.units ++ q.units, stale := s.2.stale + q.stale, oor := s.2.oor + q.oor })
    else
      let b := outBlock x r j q
      let a := c.f 48 8 + j * r.os
      let w := (w.write (a + 64) (b.drop 64)).writeF a (b.take 64) true
      (w, { count := s.2.count + n, stale := s.2.stale + q.stale, oor := s.2.oor + q.oor, short := s.2.short || decide (n < r.k),
            widened := s.2.widened || decide (0 < q.rounds), limit := s.2.limit || q.limit, units := s.2.units ++ q.units,
            engines := s.2.engines, digest := crc64From s.2.digest b })

/-- SEARCH. -/
def searchBody (tag : Nat) (c : Cmd) (w : W) : W × (Cmd → Cmd) :=
  let x := (cmdIndex w.d c).2
  if (enginesOn w.d).isEmpty then (w.fail 0x40 0, id)
  else
    let h := w.read (c.f 40 8) 32
    let r := searchReqOf h.2
    if !h.1.ok then (h.1, id)
    else if !r.ok x h.2 then (h.1.fail 0x18 0, id)
    else
      let b := h.1.read (c.f 40 8 + 32) (r.queries * r.qs x)
      let w := { b.1 with d := useFree b.1.d }
      let s := (List.range r.queries).foldl (oneQuery tag (firstEngine b.1.d c) c x r b.2) (w, ⟨0, 0, 0, false, false, false, [], [], 0⟩)
      let o := s.2
      (s.1, fun c =>
        let c := lateProof c o.units
        { c with status := if o.short then 1 else c.status, count := o.count, stale := o.stale, oor := c.oor + o.oor,
                 digest := o.digest, units := o.engines, detail := b2n o.widened + 2 * b2n o.limit + 4 * b2n (decide (c.status = 2)) })

/-- `SEARCH` (R286). -/
def execSearch (tag : Nat) (far : Far) (s : State) : Host.Outcome State Fault Refusal :=
  onDev (.search tag far) s (fun d => runCmd d far tag 6 [0x10] (searchBody tag))

/-! ### INDEX_INSERT (R291, R292) -/

/-- The checks of the entry of INDEX_INSERT. -/
def checkInsert (d : Dev) (c : Cmd) : Option (Nat × Nat) :=
  match handleFault d c.ctx (c.f 32 2) 7 with
  | some k => some (0x16, k)
  | none =>
    if c.f 36 4 < 1 ∨ c.f 36 4 > 65536 ∨ c.f 40 8 % 64 ≠ 0 then some (0x18, 0) else none

/-- The check of every record before any is applied. -/
def checkRecords (x : IdxShape) (c : Cmd) (w : W) : W :=
  (List.range (c.f 36 4)).foldl (fun w p =>
    if !w.ok then w
    else
      let a := c.f 40 8 + p * x.rs
      let i := w.read a 4
      let n := i.1.read (a + 8 + x.vs) (4 * x.degree)
      if leNat i.2 ≥ x.vectors then n.1.fail 0x13 1
      else if (words4 n.2 x.degree).any (fun e => decide (e ≥ x.vectors) && e != 0xFFFFFFFF) then n.1.fail 0x13 4
      else n.1) w

/-- Appends an identifier to the bucket of its hash in one table (R292 step 4): a fresh segment is used once the directory entry names
it. -/
def appendMember (key : Nat) (x : IdxShape) (id : Nat) (w : W) (t h : Nat) : W :=
  if !w.ok then w
  else
    let b := readBucket w x t h
    let n := b.2.2.2
    let k := n % x.segCap
    if k ≠ 0 then
      (b.1.write (x.segAt (b.2.2.1 - 1) + 4 * k) (leBytes 4 id)).write (x.bucketAt t h)
        (leBytes 4 b.2.1 ++ leBytes 4 b.2.2.1 ++ leBytes 4 (n + 1) ++ zeros 4)
    else
      let s := tabNum b.1.d key 0
      let w := if n = 0 then b.1 else b.1.write (x.segAt (b.2.2.1 - 1) + 2 ^ x.segLog - 4) (leBytes 4 (s + 1))
      let w := (w.write (x.segAt s) (leBytes 4 id)).write (x.bucketAt t h)
        (leBytes 4 (if n = 0 then s + 1 else b.2.1) ++ leBytes 4 (s + 1) ++ leBytes 4 (n + 1) ++ zeros 4)
      if w.ok then { w with d := setTabNum w.d key 0 (s + 1) } else w

/-- The identifier that an INDEX_INSERT or INDEX_DELETE in progress has written and whose acknowledgements it awaits. -/
def Cmd.awaitsId (c : Cmd) (d : Dev) (op key : Nat) : Option Nat :=
  if c.opcode = op ∧ c.phase = 2 ∧ (cmdIndex d c).1 = key then c.covers.head? else none

/-- Another command of the index awaits the acknowledgement of what it wrote at an identifier's meta entry: an atomic write there
takes its place behind it (R292, R293). -/
def idAwaited (d : Dev) (op key order id : Nat) : Bool := d.cmds.any (fun c => c.2.order != order && c.2.awaitsId d op key == some id)

/-- How far a record came: its entry was not claimed, its claim was withdrawn, or its claim stands and is to be undone. -/
inductive Claim where
  | none
  | withdrawn
  | stands
  deriving DecidableEq, Repr

/-- Applies one record, beside `held` segments that other inserts have reserved; the count is the departures of its
projections. -/
def applyRecord (key held order : Nat) (x : IdxShape) (w : W) (rec : Bytes) : W × Claim × Nat :=
  let id := fieldAt rec 0 4
  let attr := fieldAt rec 4 4
  let m := readMeta w x id
  if !m.1.ok then (m.1, .none, 0)
  else if m.2.1 ≠ 0 ∨ idAwaited w.d 0x11 key order id then (m.1.fail 0x13 3, .none, 0)
  else
    let w := writeMeta m.1 x id 3 attr false
    if !w.ok then (w, .none, 0)
    else if x.segments < tabNum w.d key 0 + held + x.tables then ((writeMeta w x id 0 attr false).fail 0x40 0, .withdrawn, 0)
    else
      let w := (w.write (x.vec + id * x.vs) (slice rec 8 x.vs)).write (x.nbr + 4 * x.degree * id) (slice rec (8 + x.vs) (4 * x.degree))
      let h := allHashes w x (plainVals x.fmt x.dim (slice rec 8 x.vs))
      let w := (List.zip (List.range x.tables) h.2.1).foldl (fun w p => appendMember key x id w p.1 p.2.1) h.1
      (writeMeta w x id 1 attr true, .stands, h.2.2)

/-- Segments that the records of other commands hold and have not used (R292): `covers` of an INDEX_INSERT is its
unfinished record's identifier and that number. -/
def heldSegs (d : Dev) (key tag : Nat) : Nat :=
  d.cmds.foldl (fun n c => if c.2.opcode = 0x11 ∧ (cmdIndex d c.2).1 = key ∧ c.1 ≠ tag then n + c.2.covers.getD 1 0 else n) 0

/-- What a command keeps besides the fields its own work changes. -/
def keepRecords (d : Dev) (tag : Nat) (c : Cmd) : Cmd :=
  { c with opens := ((cmdOf d tag).map (·.opens)).getD [], record := ((cmdOf d tag).map (·.record)).getD none, phase := 2 }

/-- Undoes the claim of the failed record of a command and ends it: the failure is recorded with its identifier.  A
restoring write that cannot be made now is made later. -/
def undoRecord (d : Dev) (tag : Nat) (x : IdxShape) : Dev :=
  match cmdOf d tag with
  | none => d
  | some c =>
    let w := writeMeta (W.start d [] c.ctx c.gen (c.who tag 6)) x (c.covers.headD 0) 0 0 false
    match w.blocked with
    | some b => unblock d b
    | none =>
      endCmd (commandErr w.d c tag (c.f 32 2) c.status c.detail (c.covers.headD 0)) tag (fun c => { c with covers := [c.covers.headD 0] })

/-- Records from `pos / 2` on: an odd `pos` says that the record's writes still await their acknowledgements, or that it
failed and is to be undone. -/
def insertLoop (key tag : Nat) (x : IdxShape) (far : Far) : Nat → Dev → Cmd → Dev
  | 0, d, _ => endCmd d tag id
  | n + 1, d, c =>
    let p := c.pos / 2
    if p ≥ c.f 36 4 then endCmd (modCmd d tag (fun _ => c)) tag id
    else
      let w := W.start d far c.ctx c.gen (c.who tag 6)
      let rc := w.read (c.f 40 8 + p * x.rs) x.rs
      let id_ := fieldAt rc.2 0 4
      let r := if !rc.1.ok then (rc.1, .none, 0) else applyRecord key (heldSegs d key tag) c.order x rc.1 rc.2
      let spare := x.tables - (tabNum r.1.d key 0 - tabNum d key 0)
      let c' := { keepRecords r.1.d tag c with writes := c.writes + r.1.wrote, oor := c.oor + r.2.2 }
      match r.1.blocked, r.1.err with
      | some b, _ => unblock (modCmd d tag (fun _ => keepRecords d tag c)) b
      | none, some e =>
        let c' := { c' with status := e.1, detail := e.2 }
        match r.2.1 with
        | .stands => undoRecord (modCmd r.1.d tag (fun _ => { c' with pos := 2 * p + 1, covers := [id_, spare] })) tag x
        | cl =>
          let c' := { c' with covers := if cl = .withdrawn then [id_] else [] }
          endCmd (commandErr (modCmd r.1.d tag (fun _ => c')) c' tag (c.f 32 2) e.1 e.2 id_) tag id
      | none, none =>
        if owes r.1.d (.cmd tag) then modCmd r.1.d tag (fun _ => { c' with pos := 2 * p + 1, covers := [id_, spare] })
        else
          let d := telF (bumpIdx (bumpIdx r.1.d key 1 1) key 3 1) c.floe 0x1430 1
          let c := { c' with pos := 2 * (p + 1), count := c.count + 1, covers := [] }
          insertLoop key tag x far n (modCmd d tag (fun _ => c)) c

/-- An INDEX_INSERT hashes on a search engine, which a free value picks: TAG shows it (R295). -/
def noteEngine (d : Dev) (tag : Nat) : Dev :=
  useFree { d with unitTag := tput d.unitTag ((enginesOn d).getD (freeVal d % max 1 (enginesOn d).length) 4) tag }

/-- Performs an INDEX_INSERT as far as it goes. -/
def insertCmd (d : Dev) (far : Far) (tag : Nat) : Dev :=
  match cmdOf d tag with
  | none => d
  | some c =>
    if (c.phase = 1 ∨ c.phase = 2) ∧ c.opcode = 0x11 ∧ floeOn d c.floe ∧ !owes d (.cmd tag) then
      let (key, x) := cmdIndex d c
      if c.phase = 1 then
        let w := if (enginesOn d).isEmpty then (W.start d far c.ctx c.gen (c.who tag 6)).fail 0x40 0
                 else checkRecords x c (W.start d far c.ctx c.gen (c.who tag 6))
        match w.blocked, w.err with
        | some b, _ => unblock d b
        | none, some e => failCmd w.d tag e.1 e.2
        | none, none => insertLoop key tag x far (c.f 36 4 + 1) (modCmd (noteEngine w.d tag) tag (fun c => { c with phase := 2 })) { c with phase := 2 }
      else if c.pos % 2 = 0 then insertLoop key tag x far (c.f 36 4 + 1) d c
      else if okStatus c.status then
        let d := telF (bumpIdx (bumpIdx d key 1 1) key 3 1) c.floe 0x1430 1
        let n := { c with pos := c.pos + 1, count := c.count + 1, covers := [] }
        let d := modCmd d tag (fun _ => n)
        match c.covers[2]? with
        | some st => failCmd d tag st 0
        | none => insertLoop key tag x far (c.f 36 4 + 1) d n
      else undoRecord d tag x
    else d

/-- `INDEX_INSERT` (R292). -/
def execIndexInsert (tag : Nat) (far : Far) (s : State) : Host.Outcome State Fault Refusal :=
  onDev (.indexInsert tag far) s (fun d => insertCmd d far tag)

/-! ### INDEX_DELETE (R293) -/

/-- The checks of the entry of INDEX_DELETE. -/
def checkDelete (d : Dev) (c : Cmd) : Option (Nat × Nat) :=
  match handleFault d c.ctx (c.f 32 2) 7 with
  | some k => some (0x16, k)
  | none =>
    if c.f 36 4 < 1 ∨ c.f 36 4 > 16777216 ∨ c.f 40 8 % 4 ≠ 0 then some (0x18, 0) else none

/-- An INDEX_INSERT in flight has claimed an identifier: it awaits acknowledgements of the record, or failed and has not
returned its tag yet. -/
def claimedBy (d : Dev) (key id : Nat) : Bool :=
  d.cmds.any (fun c => c.2.opcode = 0x11 && (cmdIndex d c.2).1 = key && c.2.covers.head? = some id)

/-- The identifier that `covers` names, with the STATE it had, counts as applied. -/
def deleteApplied (key : Nat) (d : Dev) (c : Cmd) : Dev × Cmd :=
  let st := c.covers.getD 1 0
  let d := if st = 1 then bumpIdx (bumpIdx d key 1 (-1)) key 2 1 else if st = 3 then bumpIdx d key 2 1 else d
  (telF (bumpIdx d key 3 1) c.floe 0x1438 1, { c with pos := c.pos + 1, count := c.count + 1, covers := [] })

/-- Identifiers from `pos` on, until one waits for its acknowledgement, is blocked or fails. -/
def deleteLoop (tag key : Nat) (x : IdxShape) (ids : List Nat) : Nat → W × Cmd → W × Cmd
  | 0, s => s
  | n + 1, (w, c) =>
    if c.pos ≥ ids.length || !w.ok then (w, c)
    else
      let i := ids.getD c.pos 0
      let m := readMeta w x i
      if !m.1.ok then (m.1, c)
      else if idAwaited m.1.d 0x12 key c.order i then (m.1.block .wait, c)
      else if m.2.1 = 0 ∨ (m.2.1 = 3 ∧ claimedBy m.1.d key i) then (m.1.fail 0x13 5, c)
      else
        let w := if m.2.1 = 2 then m.1 else writeMeta m.1 x i 2 m.2.2 false
        let c' := { c with covers := [i, m.2.1] }
        if !w.ok then (w, c)
        else if owes w.d (.cmd tag) then (w, c')
        else
          let r := deleteApplied key w.d c'
          deleteLoop tag key x ids n ({ w with d := r.1 }, r.2)

/-- Goes on with an INDEX_DELETE whose identifiers have been checked; `blocks` holds them, under 0. -/
def deleteRun (d : Dev) (tag : Nat) (c : Cmd) (w : W) : Dev :=
  let (key, x) := cmdIndex d c
  let ids := words4 (tget c.blocks 0 []) (c.f 36 4)
  let r := deleteLoop tag key x ids ids.length (w, c)
  let k := { keepRecords r.1.d tag r.2 with writes := c.writes + r.1.wrote }
  let e := modCmd r.1.d tag (fun _ => k)
  match r.1.blocked, r.1.err with
  | some b, _ => unblock (modCmd d tag (fun _ => keepRecords d tag c)) b
  | none, some f => failCmd e tag f.1 f.2
  | none, none => if k.covers = [] then endCmd e tag id else e

/-- Performs an INDEX_DELETE as far as it goes: every identifier is checked before any is applied, and each counts once its write has
been acknowledged. -/
def deleteCmd (d : Dev) (far : Far) (tag : Nat) : Dev :=
  match cmdOf d tag with
  | none => d
  | some c =>
    if (c.phase = 1 ∨ c.phase = 2) ∧ c.opcode = 0x12 ∧ floeOn d c.floe ∧ !owes d (.cmd tag) then
      let (key, x) := cmdIndex d c
      let w := W.start d far c.ctx c.gen (c.who tag 6)
      if c.blocks = [] then
        let b := w.read (c.f 40 8) (4 * c.f 36 4)
        match b.1.blocked, b.1.err with
        | some z, _ => unblock d z
        | none, some e => failCmd b.1.d tag e.1 e.2
        | none, none =>
          if (words4 b.2 (c.f 36 4)).any (fun i => decide (i ≥ x.vectors)) then failCmd b.1.d tag 0x13 1
          else deleteRun b.1.d tag { c with blocks := [(0, b.2)] } b.1
      else if !okStatus c.status then endCmd d tag id
      else if c.covers = [] then deleteRun d tag c w
      else
        let r := deleteApplied key d c
        let d := modCmd r.1 tag (fun _ => r.2)
        match c.covers[2]? with
        | some st => failCmd d tag st 0
        | none => deleteRun d tag r.2 { w with d := d }
    else d

/-- `INDEX_DELETE` (R293). -/
def execIndexDelete (tag : Nat) (far : Far) (s : State) : Host.Outcome State Fault Refusal :=
  onDev (.indexDelete tag far) s (fun d => deleteCmd d far tag)

end Sys2Proof.Machine
end

