-- ==== Sys2Proof/Machine/Pool.lean ====
section
/-! DEFINITION. The pool operations FILL, COPY, COMPARE and REDUCE (R330 to R334). -/

namespace Sys2Proof.Machine

open Sys2Proof

/-! ### Runs (R317, R330) -/

/-- A run of lines of one pool page that is being gathered: context address, unified line, where the lines lie, and where what goes
with them lies, each as node and address there; and their number. -/
structure Run where
  caddr : Nat
  line : Nat
  node : Nat
  addr : Nat
  other : Nat × Nat
  n : Nat
  deriving DecidableEq, Repr

/-- Issues a run to the node that holds its page. -/
def W.issueRun (w : W) (code : Nat) (r : Run) (payload : Bytes) (final : Bool) : W :=
  if !w.ok then w
  else
    match fabRefused w.d r.node with
    | some s => w.failAt r.caddr (code != 0x1A) (s, 0)
    | none =>
      if w.stalls then w.block .wait
      else { w with d := issueAt w.d r.caddr w.who.owner code r.node r.addr r.line 0 payload final,
                    wrote := if code = 0x1A then w.wrote else w.wrote + r.n }

/-- The payload of a FILL_RUN, COPY_RUN or COMPARE_RUN: 8 bytes, the number of lines, and flags. -/
def runPayload (what : Bytes) (n flags : Nat) : Bytes := what ++ leBytes 4 n ++ leBytes 4 flags

/-- A global address (R62). -/
def globalAddr (p : Nat × Nat) : Nat := p.1 * 2 ^ 44 + p.2

/-- Whether a line goes on with a run. -/
def Run.takes (r : Run) (node addr : Nat) (other : Nat × Nat) : Bool :=
  node == r.node && addr == r.addr + 64 * r.n && addr / 65536 == r.addr / 65536 &&
    other == (r.other.1, r.other.2 + 64 * r.n) && other.2 / 65536 == r.other.2 / 65536

/-- Where the line at a context address lies: its unified address, and node and address there where that is another device. -/
inductive LinePlace where
  | none
  | here (uni : Nat)
  | there (uni node addr : Nat)
  deriving DecidableEq, Repr

/-- Finds the line at a context address, or its replica. -/
def W.placeOf (w : W) (rep : Bool) (a access : Nat) : W × LinePlace :=
  let x := w.xlate a access
  match x.2 with
  | Option.none => (x.1, .none)
  | some u =>
    let p := pageOf x.1.d (u / 65536)
    if rep then
      match replicaAt x.1.d (u / 64) with
      | Option.none => (x.1.failAt a false (0x30, 0), .none)
      | some (n, b) => (x.1, .there u n b)
    else if !x.1.reach (u / 65536) then (x.1.failAt a (access = 1) (0x42, 0), .none)
    else if p.tier = 3 then (x.1, .there u p.node (poolAddr p (u / 64)))
    else (x.1, .here u)

/-- Where a place stands among all devices. -/
def LinePlace.global (p : LinePlace) (d : Dev) : Nat × Nat :=
  match p with
  | .there _ n a => (n, a)
  | .here u => (selfNode d, u)
  | .none => (0, 0)

/-- The page of a run of context addresses in which line `i` lies, counted from its first one. -/
def pageUnit (a i : Nat) : Nat := (a + 64 * i) / 65536 - a / 65536

/-- The read units of a run of lines. -/
def pageUnits (a n : Nat) : List Nat := List.range (pageUnit a (n - 1) + 1)

/-- What a pool operation gathers: a run still to be issued, the lines done here that follow one another with the address of
the first, what is known of the pieces before, and the lines that count. -/
structure Gather where
  run : Option Run
  here : Option (Nat × Compared)
  blocks : Tab Bytes
  count : Nat
  deriving DecidableEq, Repr

/-- Nothing yet. -/
def Gather.start : Gather := ⟨none, none, [], 0⟩

/-- The lines done here end: they are a piece as a run is. -/
def Gather.close (g : Gather) : Gather :=
  match g.here with
  | none => g
  | some (a, c) =>
    let t := notePiece g.blocks a c.lines 0 (leBytes 4 c.lines ++ leBytes 4 c.diff)
    let t := notePiece t a c.lines 1 (leBytes 8 c.first)
    { g with here := none, blocks := notePiece t a c.lines 2 (leBytes 8 c.digest) }

/-- One line more done here. -/
def Gather.line (g : Gather) (addr : Nat) (a b : Bytes) : Gather :=
  let h := g.here.getD (addr, Compared.start)
  { g with here := some (h.1, h.2.add a b), count := g.count + 1 }

/-- Issues what has been gathered, and counts its lines where it has been (R330). -/
def flushRun (issue : W → Run → W) (s : W × Gather) : W × Gather :=
  match s.2.run with
  | none => s
  | some r =>
    let w := issue s.1 r
    (w, { s.2 with run := none, count := if w.ok then s.2.count + r.n else s.2.count })

/-- Puts a line of another device to the run that is gathered, or begins a new one. -/
def gatherLine (issue : W → Run → W) (s : W × Gather) (a u node addr : Nat) (other : Nat × Nat) : W × Gather :=
  let s := (s.1, s.2.close)
  match s.2.run with
  | some r =>
    if r.takes node addr other then (s.1, { s.2 with run := some { r with n := r.n + 1 } })
    else
      let s := flushRun issue s
      (s.1, if s.1.ok then { s.2 with run := some ⟨a, u / 64, node, addr, other, 1⟩ } else s.2)
  | none => (s.1, { s.2 with run := some ⟨a, u / 64, node, addr, other, 1⟩ })

/-- A run ends with its page: what has been gathered is issued before a line of the next page is looked at. -/
def pageFlush (issue : W → Run → W) (addrs : List Nat) (s : W × Gather) : W × Gather :=
  if addrs.any (fun a => a % 65536 = 0) then flushRun issue s else s

/-! ### FILL (R331) -/

/-- The checks of FILL. -/
def checkFill (c : Cmd) : Option (Nat × Nat) :=
  if c.f 32 8 % 64 ≠ 0 ∨ c.f 40 4 < 1 ∨ c.f 40 4 > 2 ^ 30 then some (0x18, 0) else none

/-- Issues a FILL_RUN. -/
def fillRun (c : Cmd) (final : Bool) (w : W) (r : Run) : W :=
  { w with d := rewritten w.d (r.line / 1024) }.issueRun 0x18 r (runPayload (slice c.entry 48 8) r.n 0) final

/-- One line of a FILL. -/
def fillLine (c : Cmd) (s : W × Gather) (i : Nat) : W × Gather :=
  let a := c.f 32 8 + 64 * i
  let s := pageFlush (fillRun c false) [a] s
  if !s.1.ok then s
  else
    let final := bitOf (c.f 44 1) 0 && i + 1 == c.f 40 4
    let x := s.1.placeOf false a 1
    match x.2 with
    | .none => (x.1, s.2)
    | .there u n b =>
      if final then
        let s := flushRun (fillRun c false) (x.1, s.2)
        flushRun (fillRun c true) (s.1, { s.2 with run := some ⟨a, u / 64, n, b, (n, b), 1⟩ })
      else gatherLine (fillRun c false) (x.1, s.2) a u n b (n, b)
    | .here u =>
      let s := flushRun (fillRun c false) (x.1, s.2)
      let w := if s.1.ok then s.1.lineWrite a (u / 64) (List.replicate 8 (slice c.entry 48 8)).flatten (2 ^ 64 - 1) final else s.1
      (w, { s.2 with count := s.2.count + b2n w.ok })

/-- FILL. -/
def fillBody (c : Cmd) (w : W) : W × (Cmd → Cmd) :=
  let s := flushRun (fillRun c false) ((List.range (c.f 40 4)).foldl (fillLine c) (w, Gather.start))
  (s.1, fun x => { x with count := s.2.count, digest := crc64 (List.replicate (8 * s.2.count) (slice c.entry 48 8)).flatten })

/-- `FILL` (R331). -/
def execFill (tag : Nat) (far : Far) (s : State) : Host.Outcome State Fault Refusal :=
  onDev (.fill tag far) s (fun d => runCmd d far tag 4 [0x20] fillBody)

/-! ### COPY (R332) -/

/-- The checks of COPY. -/
def checkCopy (c : Cmd) : Option (Nat × Nat) :=
  let n := c.f 48 4
  if c.f 32 8 % 64 ≠ 0 ∨ c.f 40 8 % 64 ≠ 0 ∨ n < 1 ∨ n > 2 ^ 30 ∨
      overlaps (c.f 32 8) (64 * n) (c.f 40 8) (64 * n) then some (0x18, 0) else none

/-- Issues a COPY_RUN to the node of its source: where its lines go is a global address.  `caddr` of a run is its destination's. -/
def copyRun (final : Bool) (w : W) (r : Run) : W := w.issueRun 0x19 r (runPayload (leBytes 8 (globalAddr r.other)) r.n 0) final

/-- Reads the line at a place: this device's line, or another's where none of its runs takes it. -/
def W.lineAt (w : W) (a : Nat) (p : LinePlace) : W × Bytes :=
  match p with
  | .none => (w, zeros 64)
  | .here u => w.lineRead a (u / 64) 0
  | .there u n b => w.poolRead a (u / 64) n b

/-- A page of this device that lines from elsewhere are to be written to is placed as by a first write (R90). -/
def W.placed (w : W) (a : Nat) (p : LinePlace) : W :=
  match p with
  | .here u =>
    if (pageOf w.d (u / 65536)).tier = 0 then
      match placePage w.d (u / 65536) w.ctx with
      | some d => { w with d := d }
      | none => w.failAt a true (0x40, 0)
    else w
  | _ => w

/-- One line of a COPY: lines of another device go by COPY_RUN from where they lie, the others are read here and written. -/
def copyLine (c : Cmd) (s : W × Gather) (i : Nat) : W × Gather :=
  let late := c.isLate (pageUnit (c.f 32 8) i)
  let b := c.f 32 8 + 64 * i
  let a := c.f 40 8 + 64 * i
  let s := pageFlush (copyRun false) [a, b] s
  if !s.1.ok then s
  else if late ∧ c.fallback = 3 then (s.1, s.2.close)
  else
    let final := bitOf (c.f 52 1) 0 && i + 1 == c.f 48 4
    let x := s.1.placeOf (late && c.fallback == 1) b 0
    if !x.1.ok then (x.1, s.2)
    else
      let y := x.1.placeOf false a 1
      match x.2 with
      | .there u n k =>
        let w := if y.1.ok then y.1.placed a y.2 else y.1
        if !w.ok then (w, s.2)
        else
          let dst := y.2.global w.d
          let w := match y.2 with
            | .there v _ _ => { w with d := rewritten w.d (v / 65536) }
            | _ => w
          if final then
            let s := flushRun (copyRun false) (w, s.2.close)
            flushRun (copyRun true) (s.1, { s.2 with run := some ⟨a, u / 64, n, k, dst, 1⟩ })
          else gatherLine (copyRun false) (w, s.2) a u n k dst
      | p =>
        let s := flushRun (copyRun false) (y.1, s.2)
        let r := if s.1.ok then s.1.lineAt b p else (s.1, zeros 64)
        let w := match y.2 with
          | .here v => if r.1.ok then r.1.lineWrite a (v / 64) r.2 (2 ^ 64 - 1) final else r.1
          | .there v _ _ => if r.1.ok then r.1.lineWrite a (v / 64) r.2 (2 ^ 64 - 1) final else r.1
          | .none => r.1
        (w, if w.ok then s.2.line a r.2 r.2 else s.2)

/-- COPY: its DIGEST is that of the pieces, once every run has been acknowledged. -/
def copyBody (c : Cmd) (w : W) : W × (Cmd → Cmd) :=
  let s := flushRun (copyRun false) ((List.range (c.f 48 4)).foldl (copyLine c) (w, Gather.start))
  (s.1, fun x => { lateProof x (pageUnits (c.f 32 8) (c.f 48 4)) with count := s.2.count, blocks := s.2.close.blocks })

/-- `COPY` (R332). -/
def execCopy (tag : Nat) (far : Far) (s : State) : Host.Outcome State Fault Refusal :=
  onDev (.copy tag far) s (fun d => runCmd d far tag 4 [0x21] copyBody)

/-! ### COMPARE (R333) -/

/-- PATTERN of COMPARE. -/
def Cmd.pattern (c : Cmd) : Bool := bitOf (c.f 52 1) 0

/-- The checks of COMPARE. -/
def checkCompare (c : Cmd) : Option (Nat × Nat) :=
  let n := c.f 48 4
  if c.f 32 8 % 64 ≠ 0 ∨ (!c.pattern ∧ c.f 40 8 % 64 ≠ 0) ∨ n < 1 ∨ n > 2 ^ 30 ∨ c.f 56 8 % 16 ≠ 0 then
    some (0x18, 0) else none

/-- Issues the COMPARE_RUNs of a run: the 8 bytes of an acknowledgement bring one thing each (log entry 25). -/
def compareRun (c : Cmd) (w : W) (r : Run) : W :=
  let what := if c.pattern then slice c.entry 40 8 else leBytes 8 (globalAddr r.other)
  [0, 1, 2].foldl (fun w k => w.issueRun 0x1A r (runPayload what r.n (b2n c.pattern + 2 * k)) false) w

/-- One line of a COMPARE: at A's node, which B's line travels to. -/
def compareLine (c : Cmd) (s : W × Gather) (i : Nat) : W × Gather :=
  let late := c.isLate (pageUnit (c.f 32 8) i)
  let a := c.f 32 8 + 64 * i
  let b := c.f 40 8 + 64 * i
  let s := pageFlush (compareRun c) (a :: (if c.pattern then [] else [b])) s
  if !s.1.ok then s
  else if late ∧ c.fallback = 3 then (s.1, s.2.close)
  else
    let x := s.1.placeOf (late && c.fallback == 1) a 0
    if !x.1.ok then (x.1, s.2)
    else
      let y := if c.pattern then (x.1, .none) else x.1.placeOf false b 0
      if !y.1.ok then (y.1, s.2)
      else
        match x.2 with
        | .there u n k =>
          let other := if c.pattern then (n, k) else y.2.global y.1.d
          gatherLine (compareRun c) (y.1, s.2) a u n k other
        | p =>
          let s := flushRun (compareRun c) (y.1, s.2)
          let r := if s.1.ok then s.1.lineAt a p else (s.1, zeros 64)
          let q := if c.pattern then (r.1, (List.replicate 8 (slice c.entry 40 8)).flatten) else if r.1.ok then r.1.lineAt b y.2 else (r.1, zeros 64)
          (q.1, if q.1.ok then s.2.line a r.2 q.2 else s.2)

/-- What the pieces of a COMPARE have come to. -/
def comparedAll (c : Cmd) : Compared :=
  let p := pieces c.blocks 0
  { lines := p.foldl (fun n q => n + q.2.2 % 2 ^ 32) 0, diff := p.foldl (fun n q => n + q.2.2 / 2 ^ 32) 0,
    first := (pieces c.blocks 1).foldl (fun m q => if q.2.2 = 2 ^ 64 - 1 then m else min m (q.1 - c.f 32 8 + q.2.2)) (2 ^ 64 - 1),
    digest := pieceDigest c.blocks }

/-- The fallbacks of a COMPARE's proof, beside the failure that it may have met. -/
def compareProof (c : Cmd) : Cmd :=
  let l := lateProof c (pageUnits (c.f 32 8) (c.f 48 4))
  if okStatus c.status then l else { l with status := c.status }

/-- The end of a COMPARE whose lines have all been compared: its result block is written. -/
def compareEnd (d : Dev) (far : Far) (tag : Nat) : Dev :=
  match cmdOf d tag with
  | none => d
  | some c =>
    if !okStatus c.status then endCmd d tag compareProof
    else
      let r := comparedAll c
      let w := W.start d far c.ctx c.gen (c.who tag 4)
      let w := if c.f 56 8 = 0 then w else w.write (c.f 56 8) (leBytes 8 r.first ++ leBytes 4 r.diff ++ leBytes 4 r.lines)
      match w.blocked, w.err with
      | some b, _ => unblock d b
      | none, some e => endCmd w.d tag (fun c => { compareProof c with status := e.1, detail := e.2, count := r.lines, writes := w.wrote })
      | none, none => endCmd w.d tag (fun c =>
          { compareProof c with count := r.diff, digest := r.digest, detail := b2n (decide (0 < r.diff)), writes := w.wrote })

/-- Performs a COMPARE as far as it goes: `pos` is 1 once its runs have all been issued. -/
def compareCmd (d : Dev) (far : Far) (tag : Nat) : Dev :=
  match cmdOf d tag with
  | none => d
  | some c =>
    if c.opcode ≠ 0x22 ∨ !(c.phase = 1 ∨ c.phase = 2) ∨ !floeOn d c.floe then d
    else if c.pos = 1 then (if owes d (.cmd tag) then d else compareEnd d far tag)
    else
      let s := flushRun (compareRun c) ((List.range (c.f 48 4)).foldl (compareLine c) (W.start d far c.ctx c.gen (c.who tag 4), Gather.start))
      let w := s.1
      let note (c : Cmd) : Cmd := { c with phase := 2, pos := 1, count := s.2.count, blocks := s.2.close.blocks }
      match w.blocked, w.err with
      | some b, _ => unblock (modCmd d tag (fun c => { c with phase := 2 })) b
      | none, some e => endCmd w.d tag (fun c => { compareProof (note c) with status := e.1, detail := e.2, phase := 4 })
      | none, none =>
        let d := modCmd w.d tag note
        if owes d (.cmd tag) then d else compareEnd d far tag

/-- `COMPARE` (R333). -/
def execCompare (tag : Nat) (far : Far) (s : State) : Host.Outcome State Fault Refusal :=
  onDev (.compare tag far) s (fun d => compareCmd d far tag)

/-! ### REDUCE (R334) -/

/-- Elements of a packing unit. -/
def unitElems (f : Nat) : Nat := max 1 (fmtUnit f * 8 / max 1 (fmtW f))

/-- The alignment of an element. -/
def elemAlign (f : Nat) : Nat := max 1 (fmtW f / 8)

/-- The checks of REDUCE. -/
def checkReduce (c : Cmd) : Option (Nat × Nat) :=
  let fi := c.f 54 1
  let fo := c.f 55 1
  let op := c.f 56 1 % 4
  let acc := bitOf (c.f 56 1) 2
  if fi > 11 ∨ fo > 11 ∨ op = 3 ∨ c.f 48 4 < 1 ∨ c.f 48 4 > 1048576 ∨ c.f 52 2 < 1 ∨ c.f 52 2 > 4096 ∨
      c.f 48 4 % unitElems fi ≠ 0 ∨ c.f 48 4 % unitElems fo ≠ 0 ∨ c.f 40 8 % elemAlign fo ≠ 0 ∨
      (op ≠ 0 ∧ (fi ≠ fo ∨ fi = 11)) ∨ (acc ∧ (op ≠ 0 ∨ fo ≠ 11)) then some (0x18, 0) else none

/-- The elements of one source as slugs, with their departures; none where a cell fails its check. -/
def sourceSlugs (f n : Nat) (b : Bytes) : Option (List Slug × Nat) :=
  if f = 11 then
    let l := (List.range n).map (fun e => slugOf (slice b (32 * e) 32))
    if l.any (·.isNone) then none else some (l.map (·.getD Slug.zero), 0)
  else
    let t := (List.range n).map (fun e => termOf (decodeNum f (elemAt f b e)))
    some (t.map (·.1), t.foldl (fun k x => k + x.2) 0)

/-- What the sources have given: the sums of SUM, the elements of MAX and MIN, the sources used, and the departures. -/
structure Reduced where
  sums : List Slug
  best : List Num
  used : Nat
  oor : Nat
  deriving DecidableEq, Repr

/-- One source. -/
def reduceSource (c : Cmd) (list : Bytes) (s : W × Reduced) (i : Nat) : W × Reduced :=
  let fi := c.f 54 1
  let n := c.f 48 4
  let late := c.isLate i
  let e := fieldAt list (8 * i) 8
  if !s.1.ok ∨ (late ∧ c.fallback = 3) then s
  else if e ≥ 2 ^ 48 ∨ e % elemAlign fi ≠ 0 then (s.1.fail 0x18 0, s.2)
  else
    let b := s.1.readUnit (late && c.fallback == 1) e (n * fmtW fi / 8)
    if !b.1.ok then (b.1, s.2)
    else if c.f 56 1 % 4 = 0 then
      match sourceSlugs fi n b.2 with
      | none => (b.1.slugFail (e + 32 * badCell b.2 n), s.2)
      | some t => (b.1, { s.2 with sums := List.zipWith slugAdd s.2.sums t.1, used := s.2.used + 1, oor := s.2.oor + t.2 })
    else
      let v := plainVals fi n b.2
      let mx := c.f 56 1 % 4 == 1
      (b.1, { s.2 with best := if s.2.used = 0 then v else List.zipWith (minmaxNum mx) s.2.best v, used := s.2.used + 1 })

/-- The output elements of a REDUCE that stores them, with their departures.  MAX or MIN of no source is a free value, for
the specification states none (log entry 5). -/
def reduceOut (d : Dev) (c : Cmd) (r : Reduced) : List Nat × Nat :=
  let fo := c.f 55 1
  let sat := bitOf (c.f 56 1) 3
  if c.f 56 1 % 4 ≠ 0 ∧ r.used = 0 then ((List.range (c.f 48 4)).map (fun e => Config.free (d.free + e) % 2 ^ fmtW fo), 0)
  else
    let l := if c.f 56 1 % 4 = 0 then r.sums.map (slugTo fo sat) else r.best.map (writeNum fo sat)
    (l.map (·.1), l.foldl (fun n x => n + x.2) 0)

/-- REDUCE. -/
def reduceBody (c : Cmd) (w : W) : W × (Cmd → Cmd) :=
  let n := c.f 48 4
  let list := w.read (c.f 32 8) (8 * c.f 52 2)
  let units := List.range (c.f 52 2)
  if !list.1.ok then (list.1, id)
  else
    let s := units.foldl (reduceSource c list.2) (list.1, ⟨List.replicate n Slug.zero, [], 0, 0⟩)
    let r := s.2
    if !s.1.ok then (s.1, fun x => { lateProof x units with oor := x.oor + r.oor })
    else if c.f 55 1 = 11 then
      let cells := r.sums.map cellOf
      let w :=
        if bitOf (c.f 56 1) 2 then (List.zip (List.range n) r.sums).foldl (fun w p => w.exactAdd (c.f 40 8 + 32 * p.1) p.2 false) s.1
        else s.1.write (c.f 40 8) cells.flatten
      (w, fun x => { lateProof x units with count := if w.ok then n else 0, digest := crc64 cells.flatten, oor := x.oor + r.oor })
    else
      let o := reduceOut s.1.d c r
      let b := packElems (c.f 55 1) o.1
      let w := s.1.write (c.f 40 8) b
      let w := { w with d := { w.d with free := w.d.free + n } }
      (w, fun x => { lateProof x units with count := if w.ok then n else 0, digest := crc64 b, oor := x.oor + r.oor + o.2 })

/-- `REDUCE` (R334). -/
def execReduce (tag : Nat) (far : Far) (s : State) : Host.Outcome State Fault Refusal :=
  onDev (.reduce tag far) s (fun d => runCmd d far tag 4 [0x23] reduceBody)

end Sys2Proof.Machine
end

