-- ==== Sys2Proof/Machine/Fetch.lean ====
section
/-! DEFINITION. Fetching commands: which galley a command unit serves, the tag, the checks of an entry, and deadlines (R101,
R186, R201 to R209, R463). -/

namespace Sys2Proof.Machine

open Sys2Proof

/-! ### Which galley is served (R201, R202, R463) -/

/-- QOS_CLASS that fetching goes by. -/
def Ctx.fetchQos (x : Ctx) : Nat :=
  match x.old.head? with
  | some o => o.2.2.1
  | none => x.qos

/-- Counts a fetch that a condition holds back, once for each entry. -/
def countStall (d : Dev) (key head : Nat) (count : Dev → Dev) : Dev :=
  match tget? d.rates key with
  | some (h, 1) => if h = head then d else count { d with rates := tput d.rates key (head, 1) }
  | _ => count { d with rates := tput d.rates key (head, 1) }

/-- Counts the fetches of a floe that the proof slots and the quotas hold back (R219, R473). -/
def countStalls (d : Dev) (f : Nat) : Dev :=
  d.galleys.foldl (fun e p =>
    let (ctx, g, x) := (p.1 / 8, p.1 % 8, p.2)
    if !mayFetch d f ctx g x then e
    else
      let e := if proofRoom d ctx g x then e else countStall e (5 * 2 ^ 60 + p.1) x.cmdHead (fun e => telF e f 0x1118 1)
      if quotaRoom d ctx then e else countStall e (6 * 2 ^ 60 + p.1) x.cmdHead (fun e => telD e 0x3A28 1)) d

/-- The galley served: the highest QoS class, and within it the next in ascending order after the one last served. -/
def pickGalley (d : Dev) (f : Nat) : Option Nat :=
  let l := fetchable d f
  let top := l.foldl (fun n k => max n (ctxOf d (k / 8)).fetchQos) 0
  let l := l.filter (fun k => (ctxOf d (k / 8)).fetchQos = top)
  match tget? d.served (8 * f + top) with
  | none => l.head?
  | some last => match l.find? (fun k => decide (last < k)) with
    | some k => some k
    | none => l.head?

/-- A free tag: which one is a free value. -/
def pickTag (d : Dev) : Nat :=
  let v := freeVal d
  match lowestFree (tkeys d.cmds) (v % 4096) 4096 with
  | some t => if t < 4096 then t else (lowestFree (tkeys d.cmds) 0 4096).getD 0
  | none => 0

/-! ### The checks of an entry (R203, R204, R207) -/

/-- The opcodes and the fallbacks each accepts. -/
def fallbacksOf (op : Nat) : List Nat :=
  if op = 0x01 then [0, 1, 2, 3]
  else if op = 0x08 ∨ op = 0x10 ∨ op = 0x21 ∨ op = 0x22 ∨ op = 0x23 ∨ op = 0x28 then [0, 1, 3]
  else if op = 0x02 ∨ op = 0x09 ∨ op = 0x0A ∨ op = 0x11 ∨ op = 0x12 ∨ op = 0x18 ∨ op = 0x19 ∨ op = 0x20 ∨ op = 0x30 ∨ op = 0x31 ∨
      op = 0x38 ∨ op = 0x39 ∨ op = 0x3A then [0]
  else []

/-- The checks of MIGRATE (R106). -/
def checkMigrate (c : Cmd) : Option (Nat × Nat) :=
  let target := c.f 44 1
  let fl := c.f 45 1
  if c.f 40 4 < 1 ∨ c.f 40 4 > 65536 ∨ target > 5 ∨ fl > 31 ∨ c.f 46 2 ≠ 0 ∨ c.f 57 7 ≠ 0 ∨
      (bitOf fl 0 ∧ ¬ (target = 3 ∨ target = 4)) ∨ (bitOf fl 1 ∧ target ≠ 4) ∨ (bitOf fl 4 ∧ target ≠ 2) ∨ (bitOf fl 2 ∧ bitOf fl 3) ∨
      (¬ (target = 3 ∨ target = 4) ∧ c.f 48 8 ≠ 0) ∨ c.f 48 8 % 65536 ≠ 0 ∨ (target ≠ 4 ∧ c.f 56 1 ≠ 0) ∨ c.f 56 1 > 11 then
    some (0x18, 0)
  else none

/-- Steps 3 and 4 of R204 for an opcode. -/
def checkOpcode (d : Dev) (far : Far) (c : Cmd) : Option (Nat × Nat) :=
  let op := c.opcode
  if op = 0x01 then checkAttend d c
  else if op = 0x02 then checkMerge c
  else if op = 0x08 then checkGather d c
  else if op = 0x09 then checkScatter d c
  else if op = 0x0A then checkReplace d c
  else if op = 0x10 then checkSearch d far c
  else if op = 0x11 then checkInsert d c
  else if op = 0x12 then checkDelete d c
  else if op = 0x18 ∨ op = 0x19 then checkCodec d c
  else if op = 0x20 then checkFill c
  else if op = 0x21 then checkCopy c
  else if op = 0x22 then checkCompare c
  else if op = 0x23 then checkReduce c
  else if op = 0x28 then checkRun d c
  else if op = 0x30 then checkMigrate c
  else none

/-- The checks of an entry: the first failure's status and DETAIL. -/
def checkEntry (d : Dev) (far : Far) (c : Cmd) : Option (Nat × Nat) :=
  let checked := bitOf (c.f 1 1) 2
  if checked ∧ c.f 28 4 ≠ crc32c (slice c.entry 0 28 ++ slice c.entry 32 32) then some (0x27, 0)
  else if fallbacksOf c.opcode = [] ∨ c.f 1 1 > 7 ∨ c.f 2 1 > 3 ∨ c.f 3 1 ≠ 0 ∨ !allZero (slice c.entry 16 12) ∨
      (!checked ∧ c.f 28 4 ≠ 0) ∨ !(fallbacksOf c.opcode).contains (c.f 2 1 % 4) then some (0x18, 0)
  else checkOpcode d far c

/-! ### The fetch -/

/-- A command as its entry has been read. -/
def newCmd (d : Dev) (ctx g : Nat) (x : Galley) (entry : Bytes) : Cmd :=
  { ctx := ctx, g := g, floe := x.fetchHome, index := x.cmdHead, entry := entry, gen := (ctxOf d ctx).gen, order := d.order,
    start := d.now, finish := 0, phase := 1, status := 0, detail := 0, digest := 0, count := 0, fallbacks := 0,
    firstFallback := 0xFFFFFFFF, oor := 0, stale := 0, rechecks := 0, partialOut := false, late := [], allLate := false,
    covers := [], cores := [], ends := [], blocks := [], blocksDone := [], pos := 0, record := none, failAt := none,
    opens := [], par := [], qos := (ctxOf d ctx).fetchQos, writes := 0, units := [] }

/-- What an opcode takes at its fetch: the parameters of a slot (R52), the generation a snapshot pins (R261), what a
FENCE covers (R209). -/
def atFetch (d : Dev) (c : Cmd) : Cmd :=
  if c.opcode = 0x01 then { c with par := ((tget? d.slots (c.f 32 2 % 4096)).map (·.fetchPar)).getD [] }
  else if c.opcode = 0x08 then { c with pos := if c.f 36 4 = 0 then tabNum d (objKey c.ctx (c.f 32 2)) 0 else c.f 36 4 }
  else if c.opcode = 0x38 then
    let l := coveredBy d c
    { c with covers := l, count := l.length }
  else c

/-- A RUN whose deadline passes before it has its cores leaves the queue under any fallback but WAIT (R186). -/
def lateRun (d : Dev) (tag : Nat) : Dev :=
  match cmdOf d tag with
  | some c =>
    if c.opcode = 0x28 ∧ c.fallback ≠ 0 ∧ c.cores = [] ∧ okStatus c.status then
      if c.phase = 0 then modCmd d tag (fun c => { c with status := 0x30 })
      else if c.phase = 1 then failCmd d tag 0x30 0
      else d
    else d
  | none => d

/-- Takes a tag for an entry that has been read, checks it, and starts the command or ends it. -/
def acceptEntry (d : Dev) (far : Far) (ctx g : Nat) (x : Galley) (entry : Bytes) : Dev :=
  let tag := pickTag d
  let d := useFree d
  let c := newCmd d ctx g x entry
  let dl := c.f 8 8
  let c := { c with allLate := decide (dl ≠ 0 ∧ dl < d.now) }
  let e := checkEntry d far c
  let c := if e = none then atFetch d c else { c with pos := 2 ^ 40 }
  let held := bitOf (c.f 1 1) 1 && hasEarlier d c
  let d := modGalley { d with order := d.order + 1 } ctx g (fun x => { x with cmdHead := (x.cmdHead + 1) % 2 ^ 32 })
  let d := telF { d with served := tput d.served (8 * x.fetchHome + (ctxOf d ctx).fetchQos) (gkey ctx g) } x.fetchHome 0x1100 1
  match e with
  | none =>
    let d := { d with cmds := tput d.cmds tag { c with phase := if held then 0 else 1 } }
    if c.allLate then lateRun d tag else d
  | some (st, det) =>
    let c := { c with status := st, detail := det }
    if held then { d with cmds := tput d.cmds tag { c with phase := 0 } }
    else endCmd { d with cmds := tput d.cmds tag c } tag id

/-- What the check of a SEARCH waits for: its request block lies elsewhere or is copied (R204, R285). -/
def requestWaits (d : Dev) (far : Far) (c : Cmd) : Option Blocked :=
  if c.opcode = 0x10 ∧ checkEntry d far c = none then (readRequest d far c).1.blocked else none

/-- One fetch of a floe's command unit. -/
def fetchOne (d : Dev) (far : Far) (f : Nat) : Dev :=
  if !floeOn d f || devState d == 15 then d
  else
    let d := countStalls d f
    match pickGalley d f with
    | none => d
    | some k =>
      if freeTags d = 0 ∧ !d.tagHeld.contains f then waitTag d f
      else
        let ctx := k / 8
        let g := k % 8
        let x := galleyOf d ctx g
        let a := fieldAt x.ringPar 0 8 + 64 * (x.cmdHead % x.cmdSlots)
        let r := (W.start d far ctx (ctxOf d ctx).gen (unitWho d ctx g)).read a 64
        match r.1.blocked, r.1.err with
        | some b, _ => unblock d b
        | none, some e => haltGalley r.1.d ctx g 2 e.1 a
        | none, none =>
          match requestWaits r.1.d far (newCmd r.1.d ctx g x r.2) with
          | some b => unblock d b
          | none =>
            let e := acceptEntry (dropStalls { r.1.d with tagHeld := r.1.d.tagHeld.filter (· ≠ f) } ctx g) far ctx g x r.2
            if fieldAt r.2 0 1 = 0x10 then dropReads e (· == .proof ctx g) else e

/-- `COMMAND_FETCH` (R201). -/
def execCommandFetch (f : Nat) (far : Far) (s : State) : Host.Outcome State Fault Refusal :=
  onDev (.commandFetch f far) s (fun d => fetchOne d far f)

/-! ### Deadlines (R101, R186) -/

/-- A command's deadline passes: the units named are late, every unit of a command that has issued none, and a RUN may
leave the queue. -/
def deadline (d : Dev) (tag : Nat) (units : List Nat) : Dev :=
  match cmdOf d tag with
  | some c =>
    if c.f 8 8 = 0 ∨ c.phase = 3 then d
    else lateRun (modCmd d tag (fun c =>
      { c with late := c.late ++ units.filter (fun u => !c.late.contains u), allLate := c.allLate || c.waiting })) tag
  | none => d

/-- `DEADLINE_EXPIRE` (R101). -/
def execDeadlineExpire (tag : Nat) (units : List Nat) (s : State) : Host.Outcome State Fault Refusal :=
  onDev (.deadlineExpire tag units) s (fun d => deadline d tag units)

end Sys2Proof.Machine
end

