-- ==== Sys2Proof/Machine/Mail.lean ====
section
/-! DEFINITION. Mailboxes and the service of Solpen messages: posting, taking, replying, the service timer, set-aside
messages, result blocks, and the messages IDENTIFY, STATUS, EVENT_READ, ERROR_READ and MAILBOX_BIND (R31 to R48, R59,
R446). -/

namespace Sys2Proof.Machine

open Sys2Proof

/-! ### Headers and replies (R32, R42, R43) -/

/-- The stamped header of a request (R32). -/
def stamp (port ctx priv seq : Nat) : Nat := port + ctx * 16 + priv * 2 ^ 13 + seq * 2 ^ 16

/-- PORT of a stamped header. -/
def hPort (h : Nat) : Nat := bits h 0 4
/-- CONTEXT of a stamped header. -/
def hCtx (h : Nat) : Nat := bits h 4 9
/-- PRIV of a stamped header. -/
def hPriv (h : Nat) : Nat := bits h 13 2

/-- MSG of a request. -/
def msgOf (req : Bytes) : Nat := fieldAt req 0 2

/-- A field of a request at an offset. -/
def Service.f (s : Service) (o n : Nat) : Nat := fieldAt s.req o n

/-- The codes of the catalogue (R47). -/
def msgCodes : List Nat :=
  [0x0001, 0x0002, 0x0003, 0x0004, 0x0010, 0x0011, 0x0012, 0x0013, 0x0100, 0x0101, 0x0102, 0x0103, 0x0104, 0x0200, 0x0201,
   0x0202, 0x0300, 0x0301, 0x0302, 0x0400, 0x0401, 0x0402, 0x0F01, 0x0F02]

/-- The messages a floe agent serves (R48). -/
def agentCodes : List Nat := [0x0001, 0x0002, 0x0003, 0x0011, 0x0012]

/-- The long messages (R45). -/
def longCodes : List Nat := [0x0013, 0x0300, 0x0301, 0x0400, 0x0402, 0x0F01, 0x0F02]

/-- The first failure of the header, the receiver and the device state: a DETAIL of MESSAGE_INVALID (R42, R43, R48, R452).  No rule gives
these checks an order among themselves, nor says which failure a STATUS or DETAIL of a request that is not zero is: they are taken
in the order below, and that failure is the one of a reserved field, detail 3 (DESIGN CHOICE, log entry 67). -/
def headerFault (d : Dev) (m : Nat) (req : Bytes) : Option Nat :=
  let c := msgOf req
  if !msgCodes.contains c then some 1
  else if fieldAt req 2 1 ≠ 1 then some 2
  else if fieldAt req 3 3 ≠ 0 then some 3
  else if m ≥ 12 ∧ !agentCodes.contains c then some 5
  else if devState d = 2 ∧ !([0x0001, 0x0002, 0x0F01].contains c) then some 6
  else if devState d = 15 ∧ !([0x0001, 0x0002, 0x0004].contains c) then some 6
  else none

/-- The parameter block that a message names (R44): its address and length. -/
def paramBlock (req : Bytes) : Option (Nat × Nat) :=
  let c := msgOf req
  let n := fieldAt req 24 4
  let obj := (c = 0x0100 ∨ c = 0x0101) ∧ [3, 4, 5, 6, 7, 8, 10].contains (fieldAt req 8 1)
  if (obj ∨ c = 0x0F01 ∨ c = 0x0F02) ∧ n ≠ 0 ∧ n ≤ 2 ^ 24 then some (fieldAt req 16 8, n) else none

/-- The receiver of a mailbox is the agent of a floe that is not ON (R31). -/
def agentOff (d : Dev) (m : Nat) : Bool := decide (12 ≤ m) && !floeOn d (m - 12)

/-! ### Long messages and what they touch (R45) -/

/-- The issuing context of an object message, from its stamp and its request (R50, R53). -/
def issuerOf (hdr : Nat) (req : Bytes) : Nat :=
  if bitOf (fieldAt req 12 2) 15 then fieldAt req 12 2 % 512 else hCtx hdr

/-- The issuing context of an object message (R50, R53). -/
def issuingCtx (s : Service) : Nat := issuerOf s.hdr s.req

/-- What an object message touches: a forme or a sequence slot that it changes or destroys, and the context in which it
creates, changes or destroys.  A query changes nothing, and what a message to a context object or a galley of a RESETTING
context comes to is stated (R192, R460, R461), so that those do not wait (DEDUCED, log entry 45). -/
def objTouches (hdr : Nat) (req : Bytes) : List Nat :=
  let t := fieldAt req 8 1
  let h := fieldAt req 10 2
  let named := if fieldAt req 0 2 = 0x0100 then [] else
    if t = 4 then [3 * 65536 + h] else if t = 5 then [4 * 65536 + h % 4096] else []
  if t = 1 ∨ (t = 3 ∧ fieldAt req 0 2 ≠ 0x0100) then named else (2 * 65536 + issuerOf hdr req) :: named

/-- The floe that the parameter block of a galley or a sequence slot names as its home. -/
def Service.homeKey (s : Service) : List Nat :=
  let b := s.params.getD []
  let t := fieldAt s.req 8 1
  let home := if t = 3 then fieldAt b 26 1 else fieldAt b 43 1
  if (t = 3 ∨ t = 5) ∧ s.params.isSome ∧ home ≤ 3 then [65536 + home] else []

/-- The floes that a CONTEXT_RESET touches: those of the commands in flight as it begins, until it replies. -/
def resetFloes (d : Dev) (c : Nat) : List Nat :=
  match (ctxOf d c).reset with
  | some j => j.floes
  | none => (List.range 4).filter (fun f => d.cmds.any (fun k => k.2.ctx = c && k.2.inFloe f))

/-- What a message touches: floes, contexts, formes, slots and the flash, as numbers of their own ranges. -/
def touchKeys (d : Dev) (s : Service) : List Nat :=
  let hdr := s.hdr
  let req := s.req
  let c := msgOf req
  if c = 0x0013 then [65536 + fieldAt req 8 1]
  else if c = 0x0011 ∨ c = 0x0012 then
    (if fieldAt req 8 4 < 0x04000000 then [65536 + fieldAt req 8 4 / 0x01000000] else [])
  else if c = 0x0100 ∨ c = 0x0101 then s.homeKey ++ objTouches hdr req
  else if c = 0x0103 then objTouches hdr req
  else if c = 0x0010 then (if fieldAt req 9 1 = 0xFF then [] else [2 * 65536 + fieldAt req 10 2])
  else if c = 0x0104 then (if fieldAt req 10 2 < 512 then [2 * 65536 + fieldAt req 10 2] else [])
  else if c = 0x0200 ∨ c = 0x0201 ∨ c = 0x0202 then [2 * 65536 + hCtx hdr]
  else if c = 0x0300 then
    (2 * 65536 + fieldAt req 8 2) :: (resetFloes d (fieldAt req 8 2)).map (65536 + ·)
  else if c = 0x0301 then
    (if bitOf (fieldAt req 21 1) 0 then [0, 1, 2, 3]
     else ((List.range 4).filter (fun i => i ≤ fieldAt req 16 4 / 1024)).map (fun i => (fieldAt req 8 8 / 65536 + i) % 4)).map (65536 + ·)
  else if c = 0x0400 then [3 * 65536 + fieldAt req 8 2]
  else if c = 0x0402 then [4 * 65536 + fieldAt req 8 2 % 4096]
  else if c = 0x0F02 ∨ (c = 0x0F01 ∧ bitOf (fieldAt req 28 1) 0) then [5 * 65536]
  else []

/-- The services of a mailbox: those that go on after the timer's reply, then the one in service. -/
def Mailbox.services (x : Mailbox) : List Service := x.late ++ x.svc.toList

/-- A request is being served at the compositor: taken, not set aside, with its work not over, and not a long message that
goes on in the background. -/
def foreground (d : Dev) : Bool :=
  (List.range 12).any (fun m => (mbOf d m).services.any (fun s =>
    !s.aside && !s.ended && !(s.busy && longCodes.contains (msgOf s.req))))

/-- A long message goes on in the background: it has begun and has not replied. -/
def Service.inBackground (s : Service) : Bool :=
  longCodes.contains (msgOf s.req) && s.busy && !s.aside && !s.ended && s.held.isNone

/-- What a request touches is in use by a long message that has not replied, or by a message set aside before it. -/
def mustWait (d : Dev) (s : Service) : Bool :=
  let mine := touchKeys d s
  (List.range 12).any (fun m => (mbOf d m).services.any (fun t =>
    t.id != s.id && (t.inBackground || (t.aside && decide (t.id < s.id))) && (touchKeys d t).any mine.contains))

/-- The set-aside messages that can be served now, by the numbers of their services. -/
def asideReady (d : Dev) : List Nat :=
  (List.range 12).flatMap (fun m =>
    ((mbOf d m).services.filter (fun s => s.aside && !mustWait d s)).map (·.id))

/-- The one of them that is served next: set-aside messages keep their order among themselves. -/
def asideNext (d : Dev) : Option Nat :=
  (asideReady d).foldl (fun b n => match b with
    | some k => some (min k n)
    | none => some n) none

/-! ### Posting (R33, R34) -/

/-- A port may use a mailbox: it is unbound or bound to the port. -/
def mailUse (d : Dev) (port m : Nat) : Bool := !(mbOf d m).bound || (mbOf d m).port == port

/-- Puts a reply into the slot: RSP_HDR, RSP_FULL, RSP_READY (R35). -/
def putReply (d : Dev) (m hdr : Nat) (b : Bytes) : Dev :=
  let x := mbOf d m
  ring (setMb d m { x with rspData := slice b 0 64, rspHdr := setBits (hdr % 2 ^ 32) 15 1 1, rspFull := true }) m 0

/-- A post (R33, R34): accepted, refused, or answered at once for an agent whose floe is not ON.  While an earlier request of such an
agent's mailbox is still in service the post is accepted and waits behind it, whatever RSP_FULL holds: replies keep the order of
R36 (DESIGN CHOICE, log entry 67). -/
def postRequest (d : Dev) (port m : Nat) : Dev :=
  if devState d = 0 ∨ !mailUse d port m then d
  else
    let x := mbOf d m
    if x.reqFull then setMb d m { x with postRefused := true }
    else
      let h := stamp port x.ctx x.priv x.nextSeq
      let y := { x with reqHdr := h, nextSeq := (x.nextSeq + 1) % 65536 }
      if agentOff d m && devState d != 1 && x.svc.isNone then
        if x.rspFull then setMb d m { x with postRefused := true }
        else putReply (setMb d m y) m h (solpen x.reqData 0x42 0 [])
      else
        let d := setMb d m { y with reqFull := true }
        if m < 12 ∧ x.svc.isNone then { d with takeable := d.takeable ++ [m] } else d

/-- `POST` (R33). -/
def execPost (port mb : Nat) (s : State) : Host.Outcome State Fault Refusal :=
  onDev (.post port mb) s (fun d => postRequest d port mb)

/-- Writes bytes of REQ_DATA: 4 or 8 of them, aligned (R23). -/
def writeReqData (d : Dev) (port m off : Nat) (b : Bytes) : Dev :=
  if devState d = 0 ∨ !mailUse d port m ∨ !(b.length = 4 ∨ b.length = 8) ∨ off % b.length ≠ 0 ∨ off + b.length > 64 then d
  else
    let x := mbOf d m
    if x.reqFull then setMb d m { x with writeDropped := true } else setMb d m { x with reqData := splice x.reqData off b }

/-- `REQ_DATA_WRITE` (R34). -/
def execReqDataWrite (port mb off : Nat) (bytes : List Byte) (s : State) : Host.Outcome State Fault Refusal :=
  onDev (.reqDataWrite port mb off bytes) s (fun d => writeReqData d port mb off bytes)

/-- A read of RSP_HDR that covers its low word clears RSP_FULL; a binding of the mailbox by the message replied to takes
effect (R35, R41). -/
def readRspHdr (d : Dev) (port m off size : Nat) : Dev :=
  let x := mbOf d m
  if devState d = 0 ∨ !mailUse d port m ∨ off ≠ 0xC0 ∨ !(size = 4 ∨ size = 8) ∨ !x.rspFull then d
  else
    match x.bindReady with
    | some (b, p, c, v) =>
      setMb d m { x with rspFull := false, bindReady := none, bound := b, port := p, ctx := c, priv := v }
    | none => setMb d m { x with rspFull := false }

/-! ### Reading a mailbox (R22, R31) -/

/-- BINDING of a mailbox (R31). -/
def bindingOf (x : Mailbox) : Nat := x.ctx + x.priv * 2 ^ 9 + b2n x.bound * 2 ^ 11 + x.port * 2 ^ 12

/-- MB_STATUS as a port reads it (R31): DOMAIN_OFF while the receiver is the agent of a floe that is not ON. -/
def mbStatus (d : Dev) (port m : Nat) : Nat :=
  let x := mbOf d m
  b2n x.reqFull + 2 * b2n x.rspFull + 4 * b2n x.postRefused + 8 * b2n x.writeDropped + 16 * b2n x.serviceTimeout +
    32 * b2n (agentOff d m) + 64 * b2n (!mailUse d port m)

/-- The 4 bytes of a mailbox's layout at an aligned offset, as a port reads them (R31): REQ_DATA, RSP_DATA and RSP_HDR
read as zero at a port other than the one bound. -/
def mailRead (d : Dev) (port m q : Nat) : Nat :=
  let x := mbOf d m
  if q < 0x40 then (if mailUse d port m then fieldAt x.reqData q 4 else 0)
  else if q = 0x40 then x.reqHdr % 2 ^ 32
  else if q = 0x4C then mbStatus d port m
  else if q = 0x50 then x.doorbell
  else if q = 0x54 then x.mask
  else if q = 0x58 then bindingOf x
  else if q = 0x5C then x.nextSeq
  else if 0x80 ≤ q ∧ q < 0xC0 then (if mailUse d port m then fieldAt x.rspData (q - 0x80) 4 else 0)
  else if q = 0xC0 then (if mailUse d port m then x.rspHdr % 2 ^ 32 else 0)
  else 0

/-! ### Taking and replying (R35, R36, R38, R45) -/

/-- The receiver may take the request of a mailbox: in its turn, and not before the reply to the previous one has been
written. -/
def mayTake (d : Dev) (m : Nat) : Bool :=
  let x := mbOf d m
  x.reqFull && x.svc.isNone && devState d != 0 && devState d != 1 &&
    (decide (12 ≤ m) || (d.takeable.head? == some m && !foreground d && (asideReady d).isEmpty))

/-- The receiver takes a request: REQ_FULL clears, a header that fails is answered, the parameter block is read, and a
message that must wait is set aside. -/
def takeRequest (d : Dev) (m : Nat) : Dev :=
  if !mayTake d m then d
  else
    let x := mbOf d m
    let id := d.svcNext
    let s : Service := ⟨id, x.reqHdr, x.reqData, none, false, false, false, none, none, false⟩
    let d := setMb { d with svcNext := id + 1, takeable := d.takeable.erase m } m { x with reqFull := false, svc := some s }
    if agentOff d m then readyReply d m id (solpen s.req 0x42 0 [])
    else
      match headerFault d m s.req with
      | some det => readyReply d m id (solpen s.req 0x43 det [])
      | none =>
        let aside := decide (m < 12) && mustWait d s
        let p := hPort s.hdr
        match paramBlock s.req with
        | some (a, n) =>
          if linkUp (portOf d p) then
            ioIssue (setMb d m { mbOf d m with svc := some { s with aside := aside } }) p ⟨.param m id, a, n, false, [], 0⟩
          else setMb d m { mbOf d m with svc := some { s with aside := aside, paramErr := true } }
        | none => setMb d m { mbOf d m with svc := some { s with aside := aside } }

/-- `REQUEST_TAKE` (R36). -/
def execRequestTake (mb : Nat) (s : State) : Host.Outcome State Fault Refusal :=
  onDev (.requestTake mb) s (fun d => takeRequest d mb)

/-- A reply that waits for copies of pages to be withdrawn becomes ready once none is left (R352). -/
def readyWithdrawn (d : Dev) (m : Nat) : Dev :=
  let mine := d.withdrawing.filter (fun w => w.1 = m)
  if mine.isEmpty || mine.any (fun w => withdrawing d w.2.2) then d
  else
    let d := { d with withdrawing := d.withdrawing.filter (fun w => w.1 ≠ m) }
    mine.foldl (fun d w => replyTo d m w.2.1 (fun s => s.held.getD [])) d

/-! ### When a modify or destroy applies (R52, R68, R338) -/

/-- Changes a context that exists. -/
def modCtx (d : Dev) (n : Nat) (f : Ctx → Ctx) : Dev := { d with ctxs := tmod d.ctxs n f }

/-- The pages with tracked lines that COHERENT entries of a context map, and that are coherent no longer. -/
def lapsed (d : Dev) (c : Nat) : List Nat :=
  ((d.dir.map (fun e => pageOfLine e.1)).eraseDups).filter (fun p =>
    (ctxOf d c).allRanges.any (fun r => r.2.coh && r.2.onPage p) && !pageCoherent d p)

/-- Withdraws the copies of the pages of a context's entries that have stopped being coherent (R338, R352). -/
def endCoherence (d : Dev) (c : Nat) : Dev := (lapsed d c).foldl withdrawCopies d

/-- Removes the RETIRING entries of a context that no command in flight was fetched under (R68); the retirement of one waits until
the copies it ends coherence for have been withdrawn (R352). -/
def retireRanges (d : Dev) (c : Nat) : Dev :=
  let d := endCoherence d c
  let left := (lapsed d c).filter (withdrawing d)
  let kept (r : Range) : Bool :=
    r.valid || r.uptoBy.isSome || rangeHeld d c r || (r.coh && left.any r.onPage)
  modCtx d c (fun x => { x with ranges := x.ranges.filter (fun r => kept r.2), oldRanges := x.oldRanges.filter (fun r => kept r.2) })

/-- Changes of ranges made by a service apply to commands fetched from now on: one range generation for all of them in a
context.  What an entry replaces is RETIRING from then on, whichever message replaced it. -/
def commitRanges (m id : Nat) (x : Ctx) : Ctx :=
  let by_ (o : Option (Nat × Nat)) : Bool := o == some (m, id)
  let g := x.gen + 1
  let born (r : Range) : Range := if by_ r.bornBy then { r with born := g, bornBy := none } else r
  let ended (r : Range) : Range := { r with upto := some g, uptoBy := none }
  let new := (x.ranges.filter (fun r => by_ r.2.bornBy)).map (·.1)
  { x with
    gen := g
    ranges := x.ranges.map (fun r => (r.1, if by_ r.2.uptoBy then ended r.2 else born r.2))
    oldRanges := x.oldRanges.map (fun r =>
      (r.1, if by_ r.2.uptoBy || (new.contains r.1 && r.2.uptoBy.isSome) then ended r.2 else born r.2)) }

/-- A context has a change of ranges that waits for the reply of a service. -/
def rangesWait (m id : Nat) (x : Ctx) : Bool :=
  x.allRanges.any (fun r => r.2.bornBy == some (m, id) || r.2.uptoBy == some (m, id))

/-- Values kept until replies are written, once the reply of a service has been: those that it and the modifies served before it
have replaced are in force no longer. -/
def dropOld {α : Type} (m id : Nat) (l : List (Nat × Nat × α)) : List (Nat × Nat × α) :=
  if l.any (fun o => o.1 == m && o.2.1 == id) then (l.dropWhile (fun o => !(o.1 == m && o.2.1 == id))).drop 1 else l

/-- What a service changed applies to commands fetched, and requests decoded, from now on: its reply has been written
(R52, R75). -/
def commitMods (d : Dev) (m id : Nat) : Dev :=
  let mine := tkeys (d.ctxs.filter (fun c => rangesWait m id c.2))
  let d := { d with
    ctxs := d.ctxs.map (fun c => (c.1, { c.2 with old := dropOld m id c.2.old })),
    slots := d.slots.map (fun s => (s.1, { s.2 with old := dropOld m id s.2.old })),
    galleys := d.galleys.map (fun g => (g.1, { g.2 with old := dropOld m id g.2.old })),
    ports := d.ports.map (fun p => (p.1, { p.2 with decoders := p.2.decoders.map (fun x => (x.1, { x.2 with old := dropOld m id x.2.old })) })) }
  mine.foldl (fun d c => retireRanges (modCtx d c (commitRanges m id)) c) d

/-! ### Writing replies (R35, R38) -/

/-- Writes a ready reply once RSP_FULL is 0 (R35); a request that waited in REQ_DATA becomes takeable (R45).  A message
that the service timer has answered goes on (R38). -/
def writeReply (d : Dev) (m : Nat) : Dev :=
  let d := readyWithdrawn d m
  let x := mbOf d m
  match x.svc with
  | some s =>
    match s.reply with
    | some b =>
      if x.rspFull then d
      else
        let y := { x with svc := none, late := if s.ended then x.late else x.late ++ [{ s with reply := none }],
                          bindReady := x.bindNext, bindNext := none }
        let d := closeErr (putReply (setMb (commitMods d m s.id) m y) m s.hdr b) 13 m 1
        if x.reqFull ∧ m < 12 then { d with takeable := d.takeable ++ [m] } else d
    | none => d
  | none => d

/-- `REPLY_WRITE` (R35). -/
def execReplyWrite (mb : Nat) (s : State) : Host.Outcome State Fault Refusal :=
  onDev (.replyWrite mb) s (fun d => writeReply d mb)

/-- The service timer's limit passes without a ready reply (R38): the INTERNAL reply is ready, the work goes on. -/
def serviceLimit (d : Dev) (m : Nat) : Dev :=
  let x := mbOf d m
  match x.svc with
  | some s =>
    if s.reply.isSome then d
    else
      let d := setMb d m { x with serviceTimeout := true, svc := some { s with reply := some (solpen s.req 0xFF 0 []) } }
      logErr d 11 1 13 m (hCtx s.hdr) (errBody (0x10000 + m * 0x100) 0xFF 0 0xFFFF (hPort s.hdr + msgOf s.req % 256 * 256) s.hdr)
  | none => d

/-- `SERVICE_TIMEOUT` (R38). -/
def execServiceTimeout (mb : Nat) (s : State) : Host.Outcome State Fault Refusal :=
  onDev (.serviceTimeout mb) s (fun d => serviceLimit d mb)

/-- `SET_ASIDE_SERVE` (R45): the first of the set-aside messages that can be served now, where it is this mailbox's. -/
def execSetAsideServe (mb : Nat) (s : State) : Host.Outcome State Fault Refusal :=
  onDev (.setAsideServe mb) s (fun d =>
    match asideNext d with
    | some n =>
      if (svcOf d mb n).isSome && !foreground d then modSvc d mb n (fun s => { s with aside := false }) else d
    | none => d)

/-! ### Doorbells (R37, R59) -/

/-- Clears DOORBELL bits; EVENT is set again while the event queue holds an event. -/
def clearDoorbell (d : Dev) (m v : Nat) : Dev :=
  let x := mbOf d m
  let d := setMb d m { x with doorbell := x.doorbell - (x.doorbell &&& v) }
  if bitOf v 1 && !x.events.isEmpty then ring d m 1 else d

/-- `DOORBELL_CLEAR` (R59). -/
def execDoorbellClear (port mb : Nat) (bits : BitVec 32) (s : State) : Host.Outcome State Fault Refusal :=
  onDev (.doorbellClear port mb bits) s (fun d =>
    if devState d = 0 ∨ !mailUse d port mb then d else clearDoorbell d mb bits.toNat)

/-- Writes DB_MASK: clearing the mask bit of a DOORBELL bit that is 1 raises the interrupt. -/
def writeMask (d : Dev) (m v : Nat) : Dev :=
  let x := mbOf d m
  let d := setMb d m { x with mask := v }
  if (List.range 32).any (fun i => bitOf x.mask i && !bitOf v i && bitOf x.doorbell i) then raiseMb d m else d

/-- `DB_MASK_WRITE` (R37). -/
def execDbMaskWrite (port mb : Nat) (bits : BitVec 32) (s : State) : Host.Outcome State Fault Refusal :=
  onDev (.dbMaskWrite port mb bits) s (fun d =>
    if devState d = 0 ∨ !mailUse d port mb then d else writeMask d mb bits.toNat)

/-! ### Serving a message -/

/-- What serving a message came to: a status, a detail, the reply body and the bytes of a result block. -/
structure Answer where
  status : Nat
  detail : Nat
  body : Bytes
  /-- address and bytes of the result block -/
  result : Option (Nat × Bytes)
  deriving DecidableEq, Repr

/-- A refusal. -/
def refuse (status detail : Nat) : Answer := ⟨status, detail, [], none⟩
/-- OK with a body. -/
def okBody (b : Bytes) : Answer := ⟨0, 0, b, none⟩

/-- Replies to a service; a result block is written first, and the reply waits for that write (R44). -/
def answerMsg (d : Dev) (m : Nat) (s : Service) (a : Answer) : Dev :=
  let b := solpen s.req a.status a.detail a.body
  match a.result with
  | some (addr, bytes) =>
    if bytes.isEmpty then readyReply d m s.id b
    else if !linkUp (portOf d (hPort s.hdr)) then readyReply d m s.id (solpen s.req 0x15 2 a.body)
    else
      let d := modSvc d m s.id (fun t => { t with busy := true, held := some b })
      ioIssue d (hPort s.hdr) ⟨.result m s.id, addr, bytes.length, true, bytes, 0⟩
  | none => readyReply d m s.id b

/-- Marks a long message as under way in the background. -/
def goesOn (d : Dev) (m id : Nat) : Dev := modSvc d m id (fun t => { t with busy := true })

/-- The message of a mailbox that is served next where it is of the given kind: not set aside, not begun, and with its
parameter block. -/
def inService (d : Dev) (m : Nat) (kind : Bytes → Bool) : Option Service :=
  if agentOff d m then none
  else
    (mbOf d m).services.find? (fun s =>
      !s.busy && !s.aside && kind s.req && !((paramBlock s.req).isSome && s.params.isNone && !s.paramErr))

/-- Serves the message of a mailbox that is of the given kind.  One whose parameter block names a floe that a long message
touches is set aside once the block has been read (R45). -/
def serveMsg (d : Dev) (m : Nat) (kind : Bytes → Bool) (body : Dev → Service → Dev) : Dev :=
  match inService d m kind with
  | some s => if m < 12 ∧ s.homeKey ≠ [] ∧ mustWait d s then modSvc d m s.id (fun s => { s with aside := true }) else body d s
  | none => d

/-- Serves a message that replies at once. -/
def replyMsg (d : Dev) (m code : Nat) (body : Dev → Service → Dev × Answer) : Dev :=
  serveMsg d m (fun r => msgOf r == code) (fun d s =>
    let r := body d s
    answerMsg r.1 m s r.2)

/-- A request's body is zero from an offset on. -/
def Service.zeroFrom (s : Service) (o : Nat) : Bool := allZero (slice s.req o (64 - o))

/-- The first failed check of a list of conditions with their status and detail. -/
def firstFault : List (Bool × Nat × Nat) → Option (Nat × Nat)
  | [] => none
  | (b, s, det) :: t => if b then some (s, det) else firstFault t

/-! ### IDENTIFY, STATUS, EVENT_READ (R47, R59) -/

/-- ID_PART: part 0x1200, stepping B0 (R26). -/
def idPart : Nat := 0x00011200

/-- SERIAL, from the verified record (R26). -/
def serialOf (d : Dev) : Nat :=
  match d.boot.record with
  | some r => fieldAt r 8 8
  | none => 0

/-- ID_NODE (R26): the node number and NODE_VALID once the device is in a domain map. -/
def idNode (d : Dev) : Nat := if d.mbr.joined then selfNode d + 2 ^ 31 else 0

/-- The throttle level in force: the higher of the two (R525). -/
def throttleLevel (d : Dev) : Nat := max d.boot.thermLevel d.boot.powerLevel

/-- DEVICE_STATUS (R26). -/
def deviceStatus (d : Dev) : Nat :=
  devState d + floeOnBits d * 2 ^ 4 + b2n d.boot.edgeReady * 2 ^ 8 + b2n (!d.errq.slots.isEmpty) * 2 ^ 9 +
    b2n (throttleLevel d ≠ 0) * 2 ^ 10 + b2n d.boot.holdupOk * 2 ^ 11 + b2n (anyContained d) * 2 ^ 12

/-- `IDENTIFY` (R47). -/
def execIdentify (mb : Nat) (s : State) : Host.Outcome State Fault Refusal :=
  onDev (.identify mb) s (fun d => replyMsg d mb 0x0001 (fun d s =>
    if !s.zeroFrom 8 then (d, refuse 0x43 3)
    else (d, okBody (leBytes 4 idPart ++ leBytes 4 d.boot.fwVersion ++ leBytes 8 (serialOf d) ++ leBytes 4 (idNode d) ++
      leBytes 4 (epochOf d) ++ [1]))))

/-- `STATUS` (R47). -/
def execStatus (mb : Nat) (s : State) : Host.Outcome State Fault Refusal :=
  onDev (.status mb) s (fun d => replyMsg d mb 0x0002 (fun d s =>
    if !s.zeroFrom 8 then (d, refuse 0x43 3)
    else (d, okBody (leBytes 4 (deviceStatus d) ++ (List.range 4).flatMap (fun f => leBytes 1 (floeState d f))))))

/-- The 16 bytes of an event (R59). -/
def eventBytes (e : Event) : Bytes :=
  leBytes 2 e.code ++ leBytes 1 e.status ++ [0] ++ leBytes 2 e.handle ++ zeros 2 ++ leBytes 8 e.time

/-- `EVENT_READ` (R59). -/
def execEventRead (mb : Nat) (s : State) : Host.Outcome State Fault Refusal :=
  onDev (.eventRead mb) s (fun d => replyMsg d mb 0x0003 (fun d s =>
    if !s.zeroFrom 8 then (d, refuse 0x43 3)
    else
      let x := mbOf d mb
      let es := x.events.take 3
      (setMb d mb { x with events := x.events.drop 3, lost := 0 },
        okBody (leBytes 1 es.length ++ leBytes 1 x.lost ++ zeros 6 ++ es.flatMap eventBytes))))

/-! ### ERROR_READ (R446) -/

/-- Removes every held record older than a SEQ; LOST of ERROR_READ returns to zero (R446, R447). -/
def ackErrors (d : Dev) (upto : Nat) : Dev :=
  { d with errq := { d.errq with slots := d.errq.slots.filter (fun e => !seqOlder e.2.seq upto), lost := 0 } }

/-- SEQ of the oldest held record, or the next SEQ. -/
def oldestSeq (q : ErrQ) : Nat :=
  q.slots.foldl (fun b e => if seqAge q e.2.seq > seqAge q b then e.2.seq else b) q.next

/-- Records in SEQ order, oldest first. -/
def insertBySeq (q : ErrQ) (r : ErrRec) : List ErrRec → List ErrRec
  | [] => [r]
  | x :: t => if seqAge q r.seq > seqAge q x.seq then r :: x :: t else x :: insertBySeq q r t

/-- The records a stamp may see, in SEQ order (R444). -/
def visibleErrors (d : Dev) (priv ctx : Nat) : List ErrRec :=
  (d.errq.slots.filter (fun e => priv = 3 || e.2.ctx = ctx)).foldl (fun l e => insertBySeq d.errq e.2 l) []

/-- Serves ERROR_READ. -/
def readErrors (d : Dev) (s : Service) : Dev × Answer :=
  let flags := s.f 12 1
  let len := s.f 24 4
  match firstFault
      [(decide (flags ≥ 2) || decide (s.f 13 3 ≠ 0) || !s.zeroFrom 32, 0x43, 3), (decide (len % 64 ≠ 0), 0x43, 4),
       (decide (hPriv s.hdr = 0) || (decide (flags = 1) && decide (hPriv s.hdr < 3)), 0x11, 0)] with
  | some e => (d, refuse e.1 e.2)
  | none =>
    let lost := d.errq.lost
    let d := if flags = 1 then ackErrors d (s.f 28 4) else d
    let old := oldestSeq d.errq
    let start := if seqOlder (s.f 8 4) old then old else s.f 8 4
    let rs := ((visibleErrors d (hPriv s.hdr) (hCtx s.hdr)).filter (fun r => !seqOlder r.seq start)).take (len / 64)
    let nc := match rs.getLast? with
      | some r => (r.seq + 1) % 2 ^ 32
      | none => start
    (d, { okBody (leBytes 4 rs.length ++ leBytes 4 nc ++ leBytes 4 old ++ leBytes 4 d.errq.next ++ leBytes 2 lost) with
          result := some (s.f 16 8, rs.flatMap errBytes) })

/-- `ERROR_READ` (R446). -/
def execErrorRead (mb : Nat) (s : State) : Host.Outcome State Fault Refusal :=
  onDev (.errorRead mb) s (fun d => replyMsg d mb 0x0004 readErrors)

/-! ### MAILBOX_BIND (R41) -/

/-- Some other mailbox is, or is about to be, bound with privilege 3. -/
def otherOwner (d : Dev) (m : Nat) : Bool :=
  allMb.any (fun k => k != m &&
    match (mbOf d k).bindNext.or (mbOf d k).bindReady with
    | some (b, _, _, v) => b && v == 3
    | none => (mbOf d k).bound && (mbOf d k).priv == 3)

/-- Serves MAILBOX_BIND at a mailbox. -/
def bindMail (d : Dev) (own : Nat) (s : Service) : Dev × Answer :=
  let m := s.f 8 1
  let port := s.f 9 1
  let un := port = 0xFF
  let ctx := s.f 10 2
  let priv := s.f 12 1
  let x := mbOf d m
  let next : Bool × Nat × Nat × Nat := if un then (false, 0, 0, 0) else (true, port, ctx, priv)
  match firstFault
      [(!s.zeroFrom 13, 0x43, 3),
       (decide (m > 15) || (!decide un && (decide (port > 11) || decide (ctx > 511) || decide (priv > 3))), 0x43, 4),
       (decide (hPriv s.hdr < 3), 0x11, 0),
       (!decide un && !ctxExists d ctx, 0x16, 1),
       (decide (m ≠ own) && (x.reqFull || x.rspFull || x.svc.isSome), 0x40, 2),
       (!otherOwner d m && !(next.1 && next.2.2.2 == 3), 0x40, 3)] with
  | some e => (d, refuse e.1 e.2)
  | none =>
    let y := if m = own then { x with bindNext := some next }
             else { x with bound := next.1, port := next.2.1, ctx := next.2.2.1, priv := next.2.2.2 }
    (setMb d m y, okBody (leBytes 4 (bindingOf x)))

/-- `MAILBOX_BIND` (R41). -/
def execMailboxBind (mb : Nat) (s : State) : Host.Outcome State Fault Refusal :=
  onDev (.mailboxBind mb) s (fun d => replyMsg d mb 0x0010 (fun d s => bindMail d mb s))

/-! ### The error queue's registers (R447) -/

/-- `ERRQ_ACK` (R447). -/
def execErrqAck (val : Nat) (s : State) : Host.Outcome State Fault Refusal :=
  onDev (.errqAck val) s (fun d => ackErrors d (val % 2 ^ 32))

/-- ERRQ_STATUS (R447): the records held, and LOST. -/
def errqStatus (d : Dev) : Nat := d.errq.slots.length + d.errq.lostReg * 2 ^ 16

/-- `ERRQ_STATUS_READ` (R447): the read returns the register and clears its LOST. -/
def execErrqStatusRead (s : State) : Host.Outcome State Fault Refusal :=
  onDev .errqStatusRead s (fun d =>
    emit { d with errq := { d.errq with lostReg := 0 } } (.regData 0x04C00000 (errqStatus d)))

end Sys2Proof.Machine
end

