-- ==== Sys2Proof/Machine/Arbiter.lean ====
section
/-! DEFINITION. Unit arbiters (R404 to R412). -/

namespace Sys2Proof.Machine

open Sys2Proof

/-- An arbiter of a floe. -/
def arbOf (d : Dev) (f a : Nat) : Arb := tget d.arbs (30 * f + a) Arb.reset

/-- The device with an arbiter changed. -/
def setArb (d : Dev) (f a : Nat) (x : Arb) : Dev := { d with arbs := tput d.arbs (30 * f + a) x }

/-- The CXL.mem request that an access that waits is. -/
def Waiter.portReq (w : Waiter) : Option PortReq :=
  match w with
  | .portRead q => some q
  | .portWrite q _ _ => some q
  | _ => none

/-- The CXL.mem requests of a port that wait for lines of a floe, the oldest first. -/
def portWaiters (d : Dev) (f port : Nat) : List (PortReq × Waiter) :=
  (d.lineWait.map (·.2) ++ d.packJobs.flatMap (·.waiters)).filterMap (fun w =>
    (w.portReq.filter (fun q => q.port == port && homeFloe (pageOfLine (q.uni / 64)) == f)).map (fun q => (q, w)))

/-- The CXL.mem request that an owner of slot 27 names. -/
def portOwner (d : Dev) (f owner : Nat) : Option (PortReq × Waiter) :=
  if 4096 ≤ owner ∧ owner < 4108 then (portWaiters d f (owner - 4096)).head? else none

/-- The class of a slot's request (R405): fixed by configuration for the floe's own units and for peers' fabric requests, else the
QoS class of the command's context, or of the one that a CXL.mem request's decoder is bound to, else the one it carries. -/
def arbClass (d : Dev) (f slot cls owner : Nat) : Nat :=
  if slot = 23 then ef d (plcBase f) 8 3
  else if slot = 24 then ef d (floeBase f + 0x123C00) 0 3
  else if slot = 25 then ef d (floeBase f + 0x123C00) 4 3
  else if slot = 26 then 0
  else if slot = 29 then 7
  else if slot = 27 ∧ 8192 ≤ owner then ef d (floeBase f + 0x123C00) 8 3
  else if slot = 27 ∧ 4096 ≤ owner then
    match portOwner d f owner with
    | some q => (ctxOf d q.1.ctx).qos
    | none => cls
  else
    match cmdOf d owner with
    | some c => c.qos
    | none => cls

/-- The context whose work a request is, or 0xFFFF for none. -/
def arbCtx (d : Dev) (f owner : Nat) : Nat :=
  match cmdOf d owner with
  | some c => c.ctx
  | none => ((portOwner d f owner).map (fun q => q.1.ctx)).getD 0xFFFF

/-- Rank of a request: telemetry lies below class 0 (R411). -/
def ArbReq.rank (r : ArbReq) : Nat := if r.slot = 26 then 0 else r.cls + 1

/-- Places from the slot after the last one granted in its class, counting upward with wrap (R407).  Before the first
grant of a class the count starts at slot 0 (DESIGN CHOICE, log entry 31). -/
def Arb.distance (x : Arb) (r : ArbReq) : Nat := (r.slot + 31 - tget x.last r.rank 31) % 32

/-- The request that wins among a list: the highest rank, then the nearest slot. -/
def Arb.best (x : Arb) : List ArbReq → Option ArbReq
  | [] => none
  | r :: t =>
    match x.best t with
    | none => some r
    | some s => if s.rank > r.rank ∨ (s.rank = r.rank ∧ x.distance s < x.distance r) then some s else some r

/-- The request of the highest class among those that wait, the first of them. -/
def highest : List ArbReq → Option ArbReq
  | [] => none
  | r :: t =>
    match highest t with
    | none => some r
    | some s => if s.cls > r.cls then some s else some r

/-- The floe switch port presents its highest-class waiting request, within a class the first to arrive (R405): where another has
come to be that, the one it presented waits with the rest again, from the arbiter's queue too (DESIGN CHOICE, log entry 31).  While
its slot is fenced or owns the unit it presents none. -/
def Arb.present (x : Arb) : Arb :=
  if bitOf x.fenced 27 || x.owner.any (fun g => g.req.slot == 27) then x
  else
    match highest x.port with
    | none => x
    | some r =>
      if (x.wires ++ x.parked).contains r then x
      else { x with wires := x.wires.filter (fun q => q.slot ≠ 27) ++ [r], parked := x.parked.filter (fun q => q.slot ≠ 27) }

/-- A request that still has beats takes part in the next arbitration. -/
def Arb.again (x : Arb) (r : ArbReq) : Arb :=
  if r.slot = 27 then { x with port := r :: x.port }.present else { x with wires := x.wires ++ [r] }.present

/-- `ARB_REQUEST` (R404): a slot presents one request at a time, and what else comes to the floe switch port waits there; a fenced
slot is ignored (R410). -/
def execArbRequest (f arb slot cls owner beats : Nat) (s : State) : Host.Outcome State Fault Refusal :=
  onDev (.arbRequest f arb slot cls owner beats) s (fun d =>
    let x := arbOf d f arb
    let busy := (x.wires ++ x.parked).any (fun r => r.slot = slot) || x.owner.any (fun g => g.req.slot = slot)
    if slot = 27 then
      if floeRuns d f then setArb d f arb (Arb.present { x with port := x.port ++ [⟨slot, arbClass d f slot cls owner, owner, beats, arbCtx d f owner⟩] }) else d
    else if !floeRuns d f || busy || bitOf x.fenced slot || decide (slot ≥ 30) then d
    else setArb d f arb { x with wires := x.wires ++ [⟨slot, arbClass d f slot cls owner, owner, beats, arbCtx d f owner⟩] })

/-- Grants the unit to a request: a quoin lock for calibration and the classes of QUOIN_CLASSES, else a grant of
BURST_LIMIT beats (R408). -/
def grantArb (d : Dev) (f a : Nat) (r : ArbReq) : Dev :=
  let x := arbOf d f a
  let b := arbBase f a
  let quoin := decide (r.slot = 25) || (decide (r.slot ≠ 26) && bitOf (ef d b 24 8) r.cls)
  let limit := if quoin then max 1 (min 64 (ef d b 16 7)) else max 1 (min 256 (rf d b 0 9))
  emit (setArb d f a { x with owner := some ⟨r, quoin, limit, d.now⟩, last := tput x.last r.rank r.slot,
                              wires := x.wires.filter (fun q => q.slot ≠ r.slot),
                              parked := x.parked.filter (fun q => q.slot ≠ r.slot), port := x.port.erase r }) (.grant f a r.slot)

/-- Parks the requests that have lost: one that finds the queue full stays on its wires and is counted (R407). -/
def parkLosers (d : Dev) (f a : Nat) : Dev :=
  let x := arbOf d f a
  setArb d f a (x.wires.foldl (fun (x : Arb) r =>
    if x.parked.length < 16 then { x with parked := x.parked ++ [r], wires := x.wires.filter (fun q => q.slot ≠ r.slot) }
    else { x with queueFull := min 0xFFFFFF (x.queueFull + 1) }) x)

/-- Whether a request preempts the holder of a grant (R409, R411). -/
def preempts (d : Dev) (f a : Nat) (g : Grant) (r : ArbReq) : Bool :=
  !g.quoin && decide (r.rank > g.req.rank) &&
    (bitOf (rf d (arbBase f a + 8) 0 8) g.req.cls || g.req.slot == 24 || g.req.slot == 26)

/-- An arbiter that grants again after it was stopped has passed the boundary of its Staged fields (R57, R412). -/
def restartArb (d : Dev) (f a : Nat) : Dev :=
  let x := arbOf d f a
  if x.owner.isNone && x.parked.isEmpty then { d with force := tdel d.force (arbBase f a) } else d

/-- One arbitration (R407): the best request takes an idle unit, or one whose owner it preempts. -/
def arbitrate (d : Dev) (f a : Nat) : Dev :=
  let x := arbOf d f a
  match x.best (x.parked ++ x.wires) with
  | none => d
  | some r =>
    match x.owner with
    | none => parkLosers (grantArb (restartArb d f a) f a r) f a
    | some g =>
      if preempts d f a g r then
        let parked := x.parked.filter (fun q => q.slot ≠ r.slot)
        let x := { x with owner := none, preemptions := min 0xFFFFFF (x.preemptions + 1) }
        let x := if g.req.slot = 27 then { x with port := g.req :: x.port } else x
        let x := if parked.length < 16 then { x with parked := g.req :: x.parked } else { x with wires := g.req :: x.wires }
        let last := x.last
        let d := grantArb (emit (setArb d f a x) (.revoke f a g.req.slot)) f a r
        parkLosers (setArb d f a { arbOf d f a with last := tput last r.rank r.slot }.present) f a
      else parkLosers d f a

/-- `ARBITRATION` (R407). -/
def execArbitration (f arb : Nat) (s : State) : Host.Outcome State Fault Refusal :=
  onDev (.arbitration f arb) s (fun d =>
    if !floeRuns d f then d
    else arbitrate (if 16 ≤ arb ∧ arb ≤ 19 then presentBlock d (6 * f + (arb - 16)) else d) f arb)

/-- The end of a grant or lock (R408): an owner with beats left takes part in the next arbitration. -/
def endGrant (d : Dev) (f a : Nat) : Dev :=
  let x := arbOf d f a
  match x.owner with
  | none => d
  | some g =>
    let rest := g.req.beats - g.limit
    let x := { x with owner := none }
    setArb d f a (if rest = 0 then x.present else x.again { g.req with beats := rest })

/-- `GRANT_END` (R408). -/
def execGrantEnd (f arb : Nat) (s : State) : Host.Outcome State Fault Refusal :=
  onDev (.grantEnd f arb) s (fun d => endGrant d f arb)

/-- A CXL.mem request that waits does so no longer. -/
def unwait (d : Dev) (w : Waiter) : Dev :=
  if d.lineWait.any (fun l => l.2 == w) then { d with lineWait := d.lineWait.eraseP (fun l => l.2 == w) }
  else { d with packJobs := d.packJobs.map (fun j => { j with waiters := j.waiters.erase w }) }

/-- The transfer of a CXL.mem access or of a peer's request fails with ARBITER_TIMEOUT (R410). -/
def failPeer (d : Dev) (f owner : Nat) : Dev :=
  match portOwner d f owner with
  | some q => failWaiter (unwait d q.2) 0 0x45 q.2
  | none =>
    match (if 8192 ≤ owner then tget? d.reqs (owner - 8192) else none) with
    | some r => answer d (owner - 8192) r 0x45 []
    | none => d

/-- A transfer fails with ARBITER_TIMEOUT (R410): a core's kernel stops, any other command ends, and so does an access from
elsewhere. -/
def failTransfer (d : Dev) (f slot owner : Nat) : Dev :=
  if slot = 27 ∧ 4096 ≤ owner then failPeer d f owner
  else
  match cmdOf d owner with
  | none => d
  | some c =>
    if slot < 16 ∧ (coreOf d (16 * f + slot)).state = 2 ∧ (coreOf d (16 * f + slot)).tag = owner then
      accessFault d (16 * f + slot) (0x45, 0)
    else if c.phase = 1 ∨ c.phase = 2 then failCmd d owner 0x45 0
    else if c.phase = 4 ∧ okStatus c.status then modCmd d owner (fun c => { c with status := 0x45, detail := 0, digest := 0 })
    else d

/-- The watchdog bites (R410): the grant is revoked, the transfer fails, the slot is fenced and a record is written. -/
def biteArb (d : Dev) (f a : Nat) : Dev :=
  let x := arbOf d f a
  let ns := rf d (arbBase f a + 0x10) 0 24
  match x.owner with
  | none => d
  | some g =>
    if ns = 0 then d
    else
      let r := g.req
      let d := setArb d f a { x with owner := none, bites := min 65535 (x.bites + 1),
                                     fenced := if bitOf x.fenced r.slot then x.fenced else x.fenced + 2 ^ r.slot }
      let d := failTransfer (emit d (.revoke f a r.slot)) f r.slot r.owner
      logErr d 8 2 9 (32 * f + a) r.ctx
        (errBody 0 0x45 0 (if r.owner < 4096 then r.owner else 0xFFFF) (r.slot + r.cls * 256 + b2n g.quoin * 2048) (d.now - ns))

/-- `ARB_WATCHDOG` (R410). -/
def execArbWatchdog (f arb : Nat) (s : State) : Host.Outcome State Fault Refusal :=
  onDev (.arbWatchdog f arb) s (fun d => if floeRuns d f then biteArb d f arb else d)

/-- ARB_COUNTS (R412). -/
def arbCounts (x : Arb) : Nat := x.preemptions + x.queueFull * 2 ^ 24 + x.bites * 2 ^ 48

/-- A read of ARB_COUNTS clears it. -/
def clearArbCounts (d : Dev) (f a : Nat) : Dev :=
  setArb d f a { arbOf d f a with preemptions := 0, queueFull := 0, bites := 0 }

/-- `ARB_COUNTS_READ` (R412): the read returns the register and clears it. -/
def execArbCountsRead (f arb : Nat) (s : State) : Host.Outcome State Fault Refusal :=
  onDev (.arbCountsRead f arb) s (fun d =>
    if floeOn d f then
      emit (clearArbCounts d f arb) (.regData (arbBase f arb + 0x28) (arbCounts (arbOf d f arb)))
    else d)

/-- Clears bits of ARB_FENCED: with the last one the arbiter has recovered (R410, R450). -/
def unfence (d : Dev) (f a v : Nat) : Dev :=
  let x := arbOf d f a
  let n := x.fenced - (x.fenced &&& v)
  let d := setArb d f a { x with fenced := n }.present
  if n = 0 then closeErr d 9 (32 * f + a) 2 else d

end Sys2Proof.Machine
end

