-- ==== Sys2Proof/Machine/Scrub.lean ====
section
/-! DEFINITION. The patrol scrub, the counts of the memory controllers, the self-test of a core, and the ends of domain
recoveries (R431, R432, R436, R451 to R453). -/

namespace Sys2Proof.Machine

open Sys2Proof

/-- The location that line `n` of a controller's scrub stands for: its tier, page index and line (R539). -/
def scrubPlace (u pline : Nat) : Nat × Nat × Nat :=
  if u < 3 then (1, pline / 1024 * 3 + u, pline % 1024) else (2, pline / 512 * 4 + (u - 3), pline % 512 * 2)

/-- The page that lies at a page index of a tier, with the unified address of a line there. -/
def pageAt (d : Dev) (f tier k n : Nat) : Option Nat :=
  match d.pages.find? (fun p => homeFloe p.1 = f && p.2.tier = tier && !p.2.packed && p.2.k = k) with
  | some p => some (p.1 * 65536 + n * 64)
  | none =>
    (d.pages.find? (fun p => homeFloe p.1 = f && decide (tier = 2) && p.2.tier = 2 && p.2.packed &&
      decide (p.2.sector ≤ k * 128 + n / 8) && decide (k * 128 + n / 8 < p.2.sector + p.2.sectors))).map (·.1 * 65536)

/-- Line locations of a controller: lines of a stack, pairs of a bulk channel. -/
def scrubLines (d : Dev) (f u : Nat) : Nat :=
  if u < 3 then tget d.boot.stackCaps (3 * f + u) 0 * 2 ^ 24 else tget d.boot.bulks (4 * f + (u - 3)) 0 * 2 ^ 23

/-- Counts a location of the pass; the last one ends it. -/
def scrubCount (d : Dev) (f u : Nat) : Dev :=
  let d := telF d f 0x1748 1
  let e := eccOf d f u
  if e.line + 1 ≥ scrubLines d f u then setEcc d f u { e with line := 0, passes := (e.passes + 1) % 65536 }
  else setEcc d f u { e with line := e.line + 1 }

/-- The scrub reads and checks one line location, where it finds the symbols in error that the command gives (R431). -/
def scrubOne (d : Dev) (f u pline : Nat) (found : List (Nat × Nat)) : Dev :=
  let (tier, k, n) := scrubPlace u pline
  let key := mediaKey f tier k n
  let l := tget d.media key []
  let l := l ++ found.filter (fun s => l.all (fun t => t.1 ≠ s.1))
  let d := if l.isEmpty then d else { d with media := tput d.media key l }
  let who := Who.unitOnly 8 f
  let d := match pageAt d f tier k n with
    | some a => (eccRead d who f tier k n a).1
    | none =>
      if eccOutcome d tier l ≥ 2 then
        let e := eccOf d f u
        let gid := if tier = 1 then 3 * f + u else 4 * f + (u - 3)
        let d := setEcc { d with media := tdel d.media key } f u { e with corrected := min 0xFFFFFFFF (e.corrected + 1) }
        let d := telF d f (if tier = 1 then 0x1700 else 0x1710) 1
        intCorrected (useFree d) who (rf d (eccBase f u + 0x200) 0 1 = 1) (if tier = 1 then 4 else 5) gid 0 gid 0 (symbolMap tier l) 1
      else (eccRead d who f tier k n 0).1
  scrubCount d f u

/-- `SCRUB_LINE` (R431): while a window admits scrub and the controller is scrubbed. -/
def execScrubLine (f unit pline : Nat) (found : List (Nat × Nat)) (s : State) : Host.Outcome State Fault Refusal :=
  onDev (.scrubLine f unit pline found) s (fun d =>
    if floeOn d f && admits d 4 && rf d (eccBase f unit + 0x208) 0 1 == 1 && decide (pline < scrubLines d f unit)
    then scrubOne d f unit pline found else d)

/-- `SCRUB_PASS_LATE` (R431). -/
def execScrubPassLate (f unit : Nat) (s : State) : Host.Outcome State Fault Refusal :=
  onDev (.scrubPassLate f unit) s (fun d => if floeOn d f then setEcc d f unit { eccOf d f unit with late := true } else d)

/-- ECC_COUNTS (R432). -/
def eccCounts (e : Ecc) : Nat := e.corrected + e.uncorrectable * 2 ^ 32 + e.miscorrect * 2 ^ 48

/-- A read of ECC_COUNTS clears it. -/
def clearEccCounts (d : Dev) (f u : Nat) : Dev :=
  setEcc d f u { eccOf d f u with corrected := 0, uncorrectable := 0, miscorrect := 0 }

/-- `ECC_COUNTS_READ` (R432): the read returns the register and clears it. -/
def execEccCountsRead (f unit : Nat) (s : State) : Host.Outcome State Fault Refusal :=
  onDev (.eccCountsRead f unit) s (fun d =>
    if floeOn d f then
      emit (clearEccCounts d f unit) (.regData (eccBase f unit + 0x218) (eccCounts (eccOf d f unit)))
    else d)

/-! ### The self-test of a core (R436) -/

/-- RELEASE: the self-test of a QUARANTINED core starts, until it has been quarantined three times. -/
def releaseCore (d : Dev) (c : Nat) : Dev :=
  let x := coreOf d c
  if x.state = 5 ∧ x.quarantines < 3 ∧ x.selftest ≠ 1 then setCore d c { x with selftest := 1 } else d

/-- `SELFTEST_RELEASE` (R436). -/
def execSelftestRelease (c : Nat) (s : State) : Host.Outcome State Fault Refusal :=
  onDev (.selftestRelease c) s (fun d => if floeOn d (c / 16) then releaseCore d c else d)

/-- `SELFTEST_DONE` (R436). -/
def execSelftestDone (c : Nat) (ok : Bool) (s : State) : Host.Outcome State Fault Refusal :=
  onDev (.selftestDone c ok) s (fun d =>
    let x := coreOf d c
    if x.state = 5 ∧ x.selftest = 1 then
      if ok then closeErr (setCore d c { x with state := 0, selftest := 2, quarantines := min 3 (x.quarantines + 1) }) 2 c 2
      else setCore d c { x with selftest := 3 }
    else d)

/-! ### Domain recoveries (R451 to R453) -/

/-- `SWITCH_RECOVERY_TIMEOUT` (R452): a recovery past 2 ms becomes level 4. -/
def execSwitchRecoveryTimeout (s : State) : Host.Outcome State Fault Refusal :=
  onDev .switchRecoveryTimeout s (fun d =>
    if d.sw.recovering then logErr d 13 4 8 0 0xFFFF (errBody 0 0 0 0xFFFF (1 + 4 * 2 + 256) (tget d.errq.causes 4 0)) else d)

/-- `SWITCH_RECOVERY_DONE` (R452): the free list is rebuilt, forwarding resumes and the open records close. -/
def execSwitchRecoveryDone (s : State) : Host.Outcome State Fault Refusal :=
  onDev .switchRecoveryDone s (fun d =>
    if d.sw.recovering then
      let d := { d with sw := { d.sw with recovering := false, bufs := [], occupancy := [], frames := [], staged := [], waiting := [] } }
      logPlain (closeDomain d 4) 13 3 8 0 (errBody 0 0 0 0xFFFF (3 * 2 + 256) (tget d.errq.causes 4 0))
    else d)

/-- Whether galley key `a` starts before `b`: descending class, then context, then galley (R453). -/
def restartBefore (d : Dev) (a b : Nat) : Bool :=
  let q (k : Nat) := (ctxOf d (k / 8)).qos
  decide (q a > q b) || (q a == q b && decide (a < b))

/-- The next galley to restart: of a floe that is ON again. -/
def nextRestart (d : Dev) : Option Nat :=
  (tkeys (d.galleys.filter (fun g => g.2.restart && floeOn d g.2.home))).foldl (fun b k =>
    match b with
    | some j => if restartBefore d k j then some k else some j
    | none => some k) none

/-- `GALLEY_AUTO_RESTART` (R453): the next galley starts once every proof held for it has been written; with
AUTO_RESTART 0 the stopped galleys stay STOPPED. -/
def execGalleyAutoRestart (s : State) : Host.Outcome State Fault Refusal :=
  onDev .galleyAutoRestart s (fun d =>
    if rf d 0x04C00018 0 1 = 0 then { d with galleys := d.galleys.map (fun g => (g.1, { g.2 with restart := false })) }
    else
      match nextRestart d with
      | none => d
      | some k =>
        let x := galleyOf d (k / 8) (k % 8)
        if x.state = 0 ∧ x.done = [] then startGalley d (k / 8) (k % 8)
        else if x.state = 0 ∨ x.state = 2 then d
        else modGalley d (k / 8) (k % 8) (fun x => { x with restart := false }))

end Sys2Proof.Machine
end

