-- ==== Sys2Proof/Machine/Domain.lean ====
section
/-! DEFINITION. The domain map: its bytes, its changes, how a coordinator commits them, what a device does when it adopts
a map, heartbeats, leases and expulsion, and FORME_CHANGE and MAP_READ (R474 to R491). -/

namespace Sys2Proof.Machine

open Sys2Proof

/-! ### The map's bytes (R474, R475, R488) -/

/-- A member entry. -/
def memberBytes (m : Member) : Bytes :=
  leBytes 2 m.node ++ leBytes 1 m.roles ++ leBytes 1 (128 * b2n m.attached) ++ leBytes 2 m.ports ++ zeros 2 ++
    leBytes 4 m.poolPage ++ leBytes 4 m.poolPages

/-- A member entry as software gives it, not attached. -/
def parseMember (b : Bytes) : Member :=
  ⟨fieldAt b 0 2, fieldAt b 2 1, false, fieldAt b 4 2, fieldAt b 8 4, fieldAt b 12 4⟩

/-- The first failed check of a member entry: a DETAIL of MESSAGE_INVALID. -/
def memberFault (b : Bytes) : Option Nat :=
  if fieldAt b 2 1 / 8 ≠ 0 ∨ fieldAt b 3 1 ≠ 0 ∨ fieldAt b 4 2 / 4096 ≠ 0 ∨ fieldAt b 6 2 ≠ 0 then some 3
  else if fieldAt b 0 2 ≥ 1024 ∨ (!bitOf (fieldAt b 2 1) 1 ∧ fieldAt b 12 4 ≠ 0) then some 4
  else none

/-- A forme record with its members. -/
def formeBytes (r : FormeRec) : Bytes :=
  leBytes 2 r.id ++ leBytes 1 r.state ++ [0] ++ leBytes 4 r.epoch ++ leBytes 2 r.members.length ++ zeros 6 ++
    r.members.flatMap memberBytes

/-- A node entry. -/
def nodeBytes (e : NodeEntry) : Bytes :=
  leBytes 1 e.state ++ leBytes 1 (b2n e.manager + 2 * b2n e.twinValid) ++ leBytes 2 e.twin ++ leBytes 4 e.stateEpoch ++
    leBytes 8 e.keyId ++
    (List.range 8).flatMap (fun l => leBytes 2 (e.peers.getD l 0 % 1024 + 32768 * b2n (e.ups.getD l false)))

/-- The whole map. -/
def mapBytes (m : DomainMap) : Bytes :=
  let h := leBytes 4 m.epoch ++ leBytes 4 m.domain ++ leBytes 4 m.partner ++ leBytes 2 m.formes.length ++
    leBytes 1 m.managerCount ++ [0] ++ (List.range 7).flatMap (fun i => leBytes 2 (m.managers.getD i 0xFFFF)) ++ zeros 2 ++
    leBytes 4 (m.formes.foldl (fun n r => n + r.members.length) 0) ++ zeros 24
  h ++ leBytes 4 (crc32c h) ++ (List.range 1024).flatMap (fun n => nodeBytes (nodeOf m n)) ++ m.formes.flatMap formeBytes

/-- The map that a device starts from: its domain and manager set, from the verified record (R476). -/
def mapOfRecord (r : Bytes) : DomainMap :=
  { epoch := 0, domain := fieldAt r 28 4, partner := fieldAt r 32 4, managerCount := fieldAt r 39 1,
    managers := (List.range 7).map (fun i => fieldAt r (40 + 2 * i) 2), nodes := [], formes := [] }

/-! ### Changes of the map -/

/-- The managers' node numbers. -/
def managersOf (m : DomainMap) : List Nat := m.managers.filter (· ≠ 0xFFFF)

/-- A record's state from its members (R485, R490). -/
def formeState (m : DomainMap) (l : List Member) : Nat :=
  if l.any (fun x => (nodeOf m x.node).state == 2) then 2 else if l.all (·.attached) then 1 else 0

/-- Changes one forme record of a map; one without an attached member leaves the map (R486). -/
def modForme (m : DomainMap) (id : Nat) (f : FormeRec → FormeRec) : DomainMap :=
  { m with formes := (m.formes.map (fun r => if r.id = id then
      let q := f r
      { q with state := formeState m q.members } else r)).filter (fun r => r.id ≠ id || r.members.any (·.attached)) }

/-- Member entries in all. -/
def memberCount (m : DomainMap) : Nat := m.formes.foldl (fun n r => n + r.members.length) 0

/-- The map after a change, at the next epoch; none where the change cannot be made. -/
def applyChange (m : DomainMap) (c : MapChange) : Option DomainMap :=
  let e := m.epoch + 1
  let m' := { m with epoch := e }
  match c with
  | .join n key =>
    let x := nodeOf m n
    if x.state = 1 ∧ x.keyId ≠ key then none
    else
      let x := { x with state := 1, keyId := key, manager := (managersOf m).contains n,
                        stateEpoch := if x.state = 1 then x.stateEpoch else e }
      some { m' with nodes := tput m.nodes n x }
  | .expel n =>
    let x := nodeOf m n
    if x.state ≠ 1 then none
    else
      let m' := { m' with nodes := tput m.nodes n { x with state := 2, stateEpoch := e } }
      some { m' with formes := m.formes.map (fun r => if r.members.any (fun y => y.node = n) then { r with state := 2 } else r) }
  | .link n l up peer =>
    let x := nodeOf m n
    if x.state ≠ 1 then none
    else
      let ps := (List.range 8).map (fun i => if i = l then peer else x.peers.getD i 0)
      let us := (List.range 8).map (fun i => if i = l then up else x.ups.getD i false)
      if ps = x.peers ∧ us = x.ups then none else some { m' with nodes := tput m.nodes n { x with peers := ps, ups := us } }
  | .create n ms =>
    match lowestFree (m.formes.map (·.id)) 1 4096 with
    | none => none
    | some id =>
      if m.formes.length ≥ 4096 ∨ memberCount m + ms.length > 65536 then none
      else
        let ms := ms.map (fun x => { x with attached := decide (x.node = n) })
        some { m' with formes := m.formes ++ [⟨id, formeState m' ms, e, ms⟩] }
  | .attach n id =>
    if m.formes.any (fun r => r.id = id && r.members.any (fun x => x.node = n)) then
      some (modForme m' id (fun r => { r with members := r.members.map (fun x => if x.node = n then { x with attached := true } else x) }))
    else none
  | .detach n id =>
    if m.formes.any (fun r => r.id = id && r.members.any (fun x => x.node = n && x.attached)) then
      some (modForme m' id (fun r => { r with members := r.members.map (fun x => if x.node = n then { x with attached := false } else x) }))
    else none
  | .alter id op base x old =>
    if m.formes.any (fun r => r.id = id && r.epoch = base) then
      some (modForme m' id (fun r =>
        let kept := if op = 0 then r.members else r.members.filter (fun y => y.node ≠ old)
        { r with epoch := e, members := if op = 1 then kept else kept ++ [x] }))
    else none

/-! ### Routes (R477) -/

/-- The nodes that links marked up reach from a node. -/
def neighbours (m : DomainMap) (n : Nat) : List Nat :=
  let e := nodeOf m n
  ((List.range 8).filter (fun l => e.ups.getD l false)).map (fun l => e.peers.getD l 0)

/-- Distances from a set of nodes: nodes found, with their distance. -/
def spread (m : DomainMap) : Nat → Nat → List Nat → Tab Nat → Tab Nat
  | 0, _, _, seen => seen
  | k + 1, dist, front, seen =>
    let next := (front.flatMap (neighbours m)).foldl (fun (s : List Nat × Tab Nat) n =>
      if thas s.2 n then s else (s.1 ++ [n], tput s.2 n dist)) ([], seen)
    if next.1.isEmpty then next.2 else spread m k (dist + 1) next.1 next.2

/-- Path lengths from this device over each of its links marked up: link, and the distance of every node beyond it, on paths
that do not come back here. -/
def pathsVia (m : DomainMap) (self : Nat) : List (Nat × Tab Nat) :=
  let e := nodeOf m self
  ((List.range 8).filter (fun l => e.ups.getD l false)).map (fun l =>
    let p := e.peers.getD l 0
    (l, spread m 7 2 [p] (tput [(p, 1)] self 0)))

/-- The link with the shortest path to a node, the lower link on a tie; one link may be left out. -/
def bestVia (ps : List (Nat × Tab Nat)) (node : Nat) (skip : Option Nat) : Option (Nat × Nat) :=
  ps.foldl (fun b p =>
    if some p.1 = skip then b
    else
      match tget? p.2 node with
      | none => b
      | some k =>
        match b with
        | some (l, j) => if k < j then some (p.1, k) else some (l, j)
        | none => some (p.1, k)) none

/-- The ROUTE entry of a node. -/
def routeEntry (ps : List (Nat × Tab Nat)) (node old : Nat) : Nat :=
  match bestVia ps node none with
  | none => setBits (setBits old 3 1 0) 7 1 0
  | some (l, k) =>
    match bestVia ps node (some l) with
    | some (a, _) => l + 8 + a * 16 + 128 + k * 256
    | none => l + 8 + setBits (bits old 4 3 * 16) 7 1 0 + k * 256

/-- Recomputes ROUTE from the map. -/
def recomputeRoutes (d : Dev) : Dev :=
  let ps := pathsVia d.mbr.map (selfNode d)
  (List.range 1024).foldl (fun d n =>
    let o := 0x04810000 + 4 * n
    let v := rv d o
    let w := if n = selfNode d then setBits (setBits v 3 1 0) 7 1 0 else routeEntry ps n v
    if v = w then d else { d with regs := tput d.regs o w }) d

/-! ### Management frames -/

/-- The links on which this device floods: ACTIVE and not twin links. -/
def floodLinks (d : Dev) : List Nat := (List.range 8).filter (fun l => linkActive d l && !twinLink d l)

/-- Sends a management frame on every such link, to the peer. -/
def flood (d : Dev) (kind : Nat) (payload : Bytes) : Dev :=
  (floodLinks d).foldl (fun d l => sendMgmtLink d l (linkOf d l).peer kind payload) d

/-- This device acts as the coordinator. -/
def isCoord (d : Dev) : Bool := d.boot.record.isSome && coordinator d == some (selfNode d)

/-- This device is a manager. -/
def isManager (d : Dev) : Bool := d.boot.record.isSome && (managersOf d.mbr.map).contains (selfNode d)

/-- Managers needed for a commit (R479). -/
def majorityOf (m : DomainMap) : Nat := m.managerCount / 2 + 1

/-- The managers that the coordinator can reach: itself, and those it does not suspect and has a route or link to. -/
def reachableManagers (d : Dev) : List Nat :=
  (managersOf d.mbr.map).filter (fun n =>
    n == selfNode d || (!suspectsNode d n && !d.mbr.probing.contains n && ((routeLink d n).isSome || (linksTo d n).any (linkActive d))))

/-- A majority of managers is reachable: counted by the coordinator, else as it last reported. -/
def hasMajority (d : Dev) : Bool :=
  if isCoord d then decide (majorityOf d.mbr.map ≤ (reachableManagers d).length)
  else d.mbr.majority && (coordinator d).isSome

/-! ### Pages, formes and handoffs of an adopted map -/

/-- The nodes EXPELLED in a map and not in the one before. -/
def newlyExpelled (old new : DomainMap) : List Nat :=
  tkeys (new.nodes.filter (fun n => n.2.state = 2 && (nodeOf old n.1).state ≠ 2))

/-- Pool pages that lie with an expelled node move to their replica where they have one (R491). -/
def rebindPages (d : Dev) (n : Nat) : Dev :=
  (d.pages.filter (fun p => p.2.tier = 3 && p.2.node = n)).foldl (fun d p =>
    match p.2.replica.bind (fun i => tget? d.replicas (65536 * homeFloe p.1 + i)) with
    | some (node, rpage) => setPage d p.1 { p.2 with node := node, rpage := rpage, replica := none }
    | none => d) d

/-- Event 0x0004 for every local forme whose record has become BROKEN (R490). -/
def breakFormes (d : Dev) (old : DomainMap) : Dev :=
  d.formes.foldl (fun d f =>
    let was := (old.formes.find? (fun r => r.id = f.2.id)).any (fun r => r.state = 2)
    let is := (d.mbr.map.formes.find? (fun r => r.id = f.2.id)).any (fun r => r.state = 2)
    if is && !was then eventCtx d 4 0 (0x4000 + f.1) [f.2.ctx] else d) d

/-- The bytes of a handoff frame (R494). -/
def handoffBytes (m : HandoffMsg) : Bytes :=
  leBytes 8 m.seqId ++ leBytes 4 m.epoch ++ leBytes 2 m.donor ++ leBytes 2 m.recipient ++ leBytes 1 m.state ++
    leBytes 1 m.reason ++ zeros 2 ++ leBytes 4 m.shape ++ zeros 8

/-- Sends a handoff frame. -/
def sendHandoff (d : Dev) (node kind : Nat) (m : HandoffMsg) : Dev := sendMgmt d node kind (handoffBytes m)

/-- A sequence slot. -/
def slotOf (d : Dev) (n : Nat) : Option Slot := tget? d.slots n

/-- SEQ_ID of a slot. -/
def Slot.seqId (s : Slot) : Nat := fieldAt s.par 0 8

/-- SHAPE_CRC of a slot (R493). -/
def Slot.shape (s : Slot) : Nat := crc32c (slice s.par 28 14)

/-- The reply body of SEQ_HANDOFF (R492). -/
def handoffReply (s : Slot) : Bytes :=
  leBytes 1 s.state ++ zeros 3 ++ leBytes 4 s.epoch ++ leBytes 4 s.floor ++ leBytes 2 s.peerNode

/-- Changes a slot; leaving OFFERED or ACCEPTING queues event 0x000A, and a GIVE that waits is answered (R492). -/
def putSlot (d : Dev) (n : Nat) (s : Slot) : Dev :=
  match slotOf d n with
  | none => d
  | some o =>
    let d := { d with slots := tput d.slots n s }
    if (o.state = 1 ∨ o.state = 3) ∧ s.state ≠ o.state then
      let d := eventCtx d 10 0 (0x5000 + n) [s.ctx]
      match s.give with
      | some (m, id) =>
        let d := { d with slots := tput d.slots n { s with give := none } }
        replyTo d m id (fun v => solpen v.req 0 0 (handoffReply { s with give := none }))
      | none => d
    else d

/-- The donor is reinstated at e + 2 and sends FLOOR (R495). -/
def reinstate (d : Dev) (n : Nat) (s : Slot) : Dev :=
  let e := (s.epoch + 2) % 2 ^ 32
  let d := putSlot d n { s with state := 0, epoch := e }
  sendHandoff d s.peerNode 19 ⟨s.seqId, e, n, s.peerSlot, 0, 0, 0⟩

/-- Handoffs with an expelled node end (R495). -/
def settleHandoffs (d : Dev) (node : Nat) : Dev :=
  (d.slots.filter (fun s => s.2.peerNode = node && (s.2.state = 1 || s.2.state = 3))).foldl (fun d s =>
    if s.2.state = 1 then reinstate d s.1 s.2
    else putSlot d s.1 { s.2 with state := 0, epoch := s.2.offer }) d

/-! ### Messages that wait for a commit -/

/-- The INLINE result of a forme object (R485). -/
def formeInline (r : FormeRec) : Bytes :=
  leBytes 2 r.id ++ leBytes 1 r.state ++ [0] ++ leBytes 4 r.epoch ++ leBytes 2 r.members.length ++
    leBytes 2 (r.members.filter (·.attached)).length

/-- The reply body of the object messages (R53). -/
def objReply (type idx written : Nat) (inl : Bytes) : Bytes :=
  leBytes 2 (type * 4096 + idx) ++ leBytes 1 type ++ [0] ++ leBytes 4 written ++ inl

/-- A waiting message ends. -/
def endWaiter (d : Dev) (m id : Nat) (a : Answer) : Dev :=
  let d := { d with mbr := { d.mbr with waiters := d.mbr.waiters.filter (fun w => !(w.1 = m && w.2.1 = id)) } }
  replyTo d m id (fun s => solpen s.req a.status a.detail a.body)

/-- The local forme object of a committed record: the lowest free handle index. -/
def newForme (d : Dev) (m id : Nat) (r : FormeRec) : Dev :=
  match svcOf d m id, lowestFree (tkeys d.formes) 0 256 with
  | some s, some k =>
    endWaiter { d with formes := tput d.formes k ⟨issuingCtx s, r.id⟩ } m id (okBody (objReply 4 k 0 (formeInline r)))
  | _, _ => endWaiter d m id (refuse 0x40 1)

/-- A FORME_CHANGE whose forme has moved on: its own change, or a conflict (R489). -/
def alterDone (d : Dev) (m id fid : Nat) : Dev :=
  match svcOf d m id, d.mbr.map.formes.find? (fun r => r.id = fid) with
  | some s, some r =>
    if r.epoch = s.f 12 4 then d
    else
      let op := s.f 10 1
      let has (n : Nat) := r.members.any (fun x => x.node = n)
      let ours := r.epoch = epochOf d ∧ (op = 1 ∨ has (s.f 16 2)) ∧ (op = 0 ∨ !has (s.f 32 2) ∨ s.f 32 2 = s.f 16 2)
      endWaiter d m id (if ours then okBody (leBytes 4 r.epoch ++ leBytes 4 (epochOf d)) else ⟨0x34, 0, leBytes 4 r.epoch, none⟩)
  | _, _ => endWaiter d m id ⟨0x34, 0, [], none⟩

/-- Ends the waiting messages whose change the new map shows. -/
def settleWaiters (d : Dev) (old : DomainMap) : Dev :=
  d.mbr.waiters.foldl (fun d w =>
    let (m, id, kind, fid) := w
    if kind = 0 then
      match d.mbr.map.formes.find? (fun r => r.epoch = epochOf d && old.formes.all (fun q => q.id ≠ r.id) &&
          r.members.any (fun x => x.node = selfNode d && x.attached)) with
      | some r => newForme d m id r
      | none => d
    else if kind = 1 then
      match d.mbr.map.formes.find? (fun r => r.id = fid && r.members.any (fun x => x.node = selfNode d && x.attached)) with
      | some r => newForme d m id r
      | none => d
    else alterDone d m id fid) d

/-- A change that cannot be made ends the message that asked for it. -/
def failChange (d : Dev) (c : MapChange) : Dev :=
  let first (kind : Nat) := d.mbr.waiters.find? (fun w => w.2.2.1 = kind)
  match c with
  | .create _ _ => match first 0 with | some (m, id, _, _) => endWaiter d m id (refuse 0x40 1) | none => d
  | .attach _ _ => match first 1 with | some (m, id, _, _) => endWaiter d m id (refuse 0x16 1) | none => d
  | .alter id _ _ _ _ =>
    match d.mbr.waiters.find? (fun w => w.2.2.1 = 3 && w.2.2.2 = id) with
    | some (m, sid, _, _) =>
      let e := match d.mbr.map.formes.find? (fun r => r.id = id) with | some r => r.epoch | none => 0
      endWaiter d m sid ⟨0x34, 0, leBytes 4 e, none⟩
    | none => d
  | _ => d

/-! ### Adoption (R477, R479, R481, R482, R490, R491) -/

/-- Sends a report of one of this device's links to the coordinator, on every link while no route leads there. -/
def sendLink (d : Dev) (l : Nat) (up : Bool) : Dev :=
  let b := leBytes 2 (selfNode d) ++ leBytes 1 l ++ leBytes 1 (b2n up) ++ leBytes 2 (linkOf d l).peer ++ zeros 2
  match coordinator d with
  | none => d
  | some n => if (routeLink d n).isSome then sendMgmt d n 12 b else (floodLinks d).foldl (fun d k => sendMgmtLink d k n 12 b) d

/-- A device that has become a MEMBER reports the links that came up before (R476, R477). -/
def reportLinks (d : Dev) : Dev :=
  if isCoord d then
    { d with mbr := { d.mbr with waiting := d.mbr.waiting ++ (floodLinks d).map (fun l => .link (selfNode d) l true (linkOf d l).peer) } }
  else (floodLinks d).foldl (fun d l => sendLink d l true) d

/-- Adopts a map of a higher epoch and forwards it on all links. -/
def adoptMap (d : Dev) (m : DomainMap) : Dev :=
  if m.epoch ≤ epochOf d then d
  else
    let old := d.mbr.map
    let own := (nodeOf m (selfNode d)).state
    let enters := own = 1 ∧ !d.mbr.joined
    let gone := newlyExpelled old m
    let d := { d with mbr := { d.mbr with map := m, prev := old, adopted := d.now, joined := own == 1, majority := true,
                                          expelled := d.mbr.expelled || own == 2,
                                          leaseAt := if d.mbr.joined then d.mbr.leaseAt else d.now } }
    let d := if own = 2 then { d with boot := { d.boot with fenced := true } } else d
    let d := recomputeRoutes (telD d 0x3B10 gone.length)
    let d := eventDev d 3 0 0
    let d := flood d 8 (leBytes 4 m.epoch)
    let d := if enters then reportLinks d else d
    let d := gone.foldl (fun d n => settleHandoffs (rebindPages d n) n) d
    let d := settleWaiters (breakFormes d old) old
    let due := d.mbr.pulls.filter (fun u => match tget? d.reqs u with | some r => decide (r.epoch ≤ m.epoch) | none => true)
    due.foldl serveReq { d with mbr := { d.mbr with pulls := d.mbr.pulls.filter (fun u => !due.contains u) } }

/-! ### Agreement (R479) -/

/-- Commits a proposal: COMMIT to the managers, and this device adopts the map. -/
def commitProposal (d : Dev) (p : Proposal) : Dev :=
  let d := ((managersOf d.mbr.map).filter (· ≠ selfNode d)).foldl (fun d n => sendMgmt d n 7 (leBytes 4 p.epoch ++ zeros 4)) d
  adoptMap { d with mbr := { d.mbr with proposing := none, accepts := [] } } p.map

/-- The coordinator takes up the next change: a proposal to every manager, committed once a majority has accepted. -/
def pumpChanges : Nat → Dev → Dev
  | 0, d => d
  | n + 1, d =>
    match d.mbr.proposing, d.mbr.waiting with
    | none, c :: rest =>
      let d := { d with mbr := { d.mbr with waiting := rest } }
      match applyChange d.mbr.map c with
      | none => pumpChanges n (failChange d c)
      | some m =>
        let p : Proposal := ⟨m.epoch, m⟩
        let d := { d with mbr := { d.mbr with proposing := some p, accepted := some p, accepts := [selfNode d] } }
        let d := ((managersOf d.mbr.map).filter (· ≠ selfNode d)).foldl (fun d k => sendMgmt d k 5 (leBytes 4 p.epoch ++ zeros 4)) d
        if majorityOf d.mbr.map ≤ 1 then pumpChanges n (commitProposal d p) else d
    | _, _ => d

/-- Asks for a change: at the coordinator it waits its turn, elsewhere it is sent to the coordinator. -/
def submit (d : Dev) (c : MapChange) : Dev :=
  if isCoord d then
    let d := { d with mbr := { d.mbr with waiting := d.mbr.waiting ++ [c] } }
    pumpChanges (d.mbr.waiting.length + 1) d
  else
    match coordinator d with
    | some n => sendMgmt d n 25 (leBytes 4 (epochOf d) ++ zeros 4)
    | none => d

/-- `PROPOSE` (R479). -/
def execPropose (prop : Proposal) (s : State) : Host.Outcome State Fault Refusal :=
  onDev (.propose prop) s (fun d =>
    let top := match d.mbr.accepted with | some p => max p.epoch (epochOf d) | none => epochOf d
    if isManager d && decide (prop.epoch > top) then
      let d := { d with mbr := { d.mbr with accepted := some prop } }
      match coordinator d with
      | some n => sendMgmt d n 6 (leBytes 4 prop.epoch ++ zeros 4)
      | none => d
    else d)

/-- `ACCEPT` (R479). -/
def execAccept (node epoch : Nat) (s : State) : Host.Outcome State Fault Refusal :=
  onDev (.accept node epoch) s (fun d =>
    match d.mbr.proposing with
    | some p =>
      if p.epoch = epoch ∧ (managersOf d.mbr.map).contains node ∧ !d.mbr.accepts.contains node then
        let d := { d with mbr := { d.mbr with accepts := d.mbr.accepts ++ [node] } }
        if d.mbr.accepts.length ≥ majorityOf d.mbr.map then
          pumpChanges (d.mbr.waiting.length + 1) (commitProposal d p)
        else d
      else d
    | none => d)

/-- `COMMIT` (R479): the proposal that this manager accepted at that epoch. -/
def execCommit (epoch : Nat) (s : State) : Host.Outcome State Fault Refusal :=
  onDev (.commit epoch) s (fun d =>
    match d.mbr.accepted with
    | some p => if p.epoch = epoch then adoptMap d p.map else d
    | none => d)

/-- `MAP_UPDATE` (R479). -/
def execMapUpdate (map : DomainMap) (s : State) : Host.Outcome State Fault Refusal :=
  onDev (.mapUpdate map) s (fun d => adoptMap d map)

/-- `COORDINATOR_TAKEOVER` (R479): the next manager in line commits the highest-epoch proposal that it and the managers
it has asked have accepted, before it proposes anything new. -/
def execCoordinatorTakeover (props : List Proposal) (s : State) : Host.Outcome State Fault Refusal :=
  onDev (.coordinatorTakeover props) s (fun d =>
    if !isManager d || !isCoord d || decide (props.length + 1 < majorityOf d.mbr.map) then d
    else
      let all := props ++ (match d.mbr.accepted with | some p => [p] | none => [])
      let best := all.foldl (fun (b : Option Proposal) p =>
        match b with
        | some q => if p.epoch > q.epoch then some p else some q
        | none => some p) none
      let d := match best with
        | some p => if p.epoch > epochOf d then commitProposal { d with mbr := { d.mbr with accepted := some p } } p else d
        | none => d
      pumpChanges (d.mbr.waiting.length + 1) d)

/-! ### Joining (R476) -/

/-- Sends JOIN to the managers, on every link that is up: the device is not joined, has a record and an identity, and
is not on the bench (R476, R503). -/
def sendJoin (d : Dev) : Dev :=
  if d.mbr.joined || d.boot.record.isNone || !d.boot.identity || d.boot.bootMode == 2 || d.mbr.expelled then d
  else
    let d := (floodLinks d).foldl (fun d l =>
      ((managersOf d.mbr.map).filter (· ≠ selfNode d)).foldl (fun d n => sendMgmtLink d l n 9 (leBytes 8 d.boot.keyId)) d) d
    if isCoord d then submit d (.join (selfNode d) d.boot.keyId) else d

/-- `JOIN` (R476): committed by the coordinator, or refused. -/
def execJoin (node keyId : Nat) (s : State) : Host.Outcome State Fault Refusal :=
  onDev (.join node keyId) s (fun d => if isCoord d && hasMajority d then submit d (.join node keyId) else d)

/-! ### Keepalives and the lease (R481) -/

/-- `KEEPALIVE_SEND` (R481). -/
def execKeepaliveSend (s : State) : Host.Outcome State Fault Refusal :=
  onDev .keepaliveSend s (fun d =>
    if isCoord d then
      let d := { d with mbr := { d.mbr with leaseAt := d.now, majority := hasMajority d } }
      flood d 10 (leBytes 4 (epochOf d) ++ zeros 4)
    else d)

/-- `KEEPALIVE` (R481): the lease is renewed; the first copy of a moment is forwarded (log entry 32). -/
def execKeepalive (epoch : Nat) (s : State) : Host.Outcome State Fault Refusal :=
  onDev (.keepalive epoch) s (fun d =>
    if d.mbr.leaseAt = d.now then d
    else flood { d with mbr := { d.mbr with leaseAt := d.now } } 10 (leBytes 4 epoch ++ zeros 4))

/-- `LEASE_EXPIRE` (R481). -/
def execLeaseExpire (s : State) : Host.Outcome State Fault Refusal :=
  onDev .leaseExpire s (fun d => if d.mbr.joined then { d with boot := { d.boot with fenced := true } } else d)

/-! ### Heartbeats and suspicion (R478, R480) -/

/-- The coordinator sends PROBE along every route it holds to a node. -/
def probeNode (d : Dev) (n : Nat) : Dev :=
  if (nodeOf d.mbr.map n).state ≠ 1 ∨ n = selfNode d then d
  else
    let r := rv d (0x04810000 + 4 * n)
    let ls := (if bitOf r 3 then [bits r 0 3] else []) ++ (if bitOf r 7 ∧ !(bitOf r 3 ∧ bits r 4 3 = bits r 0 3) then [bits r 4 3] else [])
    let d := (ls.filter (linkActive d)).foldl (fun d l => sendMgmtLink d l n 3 (zeros 8)) d
    { d with mbr := { d.mbr with probing := if d.mbr.probing.contains n then d.mbr.probing else d.mbr.probing ++ [n] } }

/-- Reports a neighbour whose every link is suspected. -/
def reportSuspect (d : Dev) (n : Nat) : Dev :=
  if isCoord d then probeNode d n
  else
    match coordinator d with
    | some k => sendMgmt d k 2 (leBytes 2 n ++ zeros 6)
    | none => d

/-- Mirroring is suspended (R497): waiting SYNC writes complete locally and their pages are marked. -/
def suspendTwin (d : Dev) : Dev :=
  if d.mbr.twin = 1 ∨ d.mbr.twin = 3 then
    let waiting := d.mbr.sync
    let lines := d.fab.filter (fun r => r.2.owner = .mirror)
    let d := lines.foldl (fun d r => markPage d (pageOfLine r.2.line)) d
    let d := { d with fab := d.fab.filter (fun r => r.2.owner ≠ .mirror), mbr := { d.mbr with twin := 2, sync := [] } }
    waiting.foldl (fun d w => mirrorDone d w.2) d
  else d

/-- Every twin link is suspected or down. -/
def twinLost (d : Dev) : Bool := (List.range 8).all (fun l => !twinLink d l || (linkOf d l).suspected || !linkActive d l)

/-- A link becomes suspected: mirroring or the neighbour may be affected (R478, R497, R500). -/
def suspectLink (d : Dev) (l : Nat) : Dev :=
  let k := linkOf d l
  let d := if k.suspected then d else telD (setLink d l { k with suspected := true }) 0x3B08 1
  if twinLink d l then (if twinLost d then suspendTwin d else d)
  else if suspectsNode d k.peer then reportSuspect d k.peer else d

/-- A change of one of this device's links is reported to the coordinator (R477). -/
def reportLink (d : Dev) (l : Nat) (up : Bool) : Dev :=
  if twinLink d l || !d.mbr.joined then d
  else if isCoord d then submit d (.link (selfNode d) l up (linkOf d l).peer)
  else sendLink d l up

/-- `LINK_CHANGE_REPORT` (R477): the coordinator proposes the change. -/
def execLinkChangeReport (node link : Nat) (up : Bool) (peer : Nat) (s : State) : Host.Outcome State Fault Refusal :=
  onDev (.linkChangeReport node link up peer) s (fun d => if isCoord d then submit d (.link node link up peer) else d)

/-- `HEARTBEAT_SEND` (R478, R500). -/
def execHeartbeatSend (s : State) : Host.Outcome State Fault Refusal :=
  onDev .heartbeatSend s (fun d =>
    ((List.range 8).filter (linkActive d)).foldl (fun d l => sendMgmtLink d l (linkOf d l).peer 1 []) d)

/-- `HEARTBEAT` (R478). -/
def execHeartbeat (link : Nat) (s : State) : Host.Outcome State Fault Refusal :=
  onDev (.heartbeat link) s (fun d =>
    if linkActive d link then setLink d link { linkOf d link with suspected := false, misses := 0 } else d)

/-- `HEARTBEAT_MISS` (R478): sixteen consecutive intervals without a heartbeat. -/
def execHeartbeatMiss (link : Nat) (s : State) : Host.Outcome State Fault Refusal :=
  onDev (.heartbeatMiss link) s (fun d =>
    if linkActive d link then
      suspectLink (telD (setLink d link { linkOf d link with misses := 16 }) 0x3B00 16) link
    else d)

/-- `SUSPECT` (R480). -/
def execSuspect (node : Nat) (s : State) : Host.Outcome State Fault Refusal :=
  onDev (.suspect node) s (fun d => if isCoord d then probeNode d node else d)

/-- `PROBE` (R480): from the coordinator at `node`. -/
def execProbe (node : Nat) (s : State) : Host.Outcome State Fault Refusal :=
  onDev (.probe node) s (fun d => sendMgmt d node 4 (zeros 8))

/-- `PROBE_REPLY` (R480). -/
def execProbeReply (node : Nat) (s : State) : Host.Outcome State Fault Refusal :=
  onDev (.probeReply node) s (fun d => { d with mbr := { d.mbr with probing := d.mbr.probing.filter (· ≠ node) } })

/-- `PROBE_TIMEOUT` (R480): the coordinator proposes to expel the node. -/
def execProbeTimeout (node : Nat) (s : State) : Host.Outcome State Fault Refusal :=
  onDev (.probeTimeout node) s (fun d =>
    if d.mbr.probing.contains node && isCoord d then
      submit { d with mbr := { d.mbr with probing := d.mbr.probing.filter (· ≠ node) } } (.expel node)
    else d)

/-! ### FORME_CHANGE and MAP_READ (R475, R489) -/

/-- Adds a message that waits for a commit. -/
def waitCommit (d : Dev) (m id kind fid : Nat) : Dev :=
  { goesOn d m id with mbr := { d.mbr with waiters := d.mbr.waiters ++ [(m, id, kind, fid)] } }

/-- The checks of FORME_CHANGE in order; none where the change is asked for. -/
def formeChangeFault (d : Dev) (s : Service) : Option Answer :=
  let h := s.f 8 2
  let op := s.f 10 1
  let entry := slice s.req 16 16
  let old := s.f 32 2
  if s.f 11 1 ≥ 2 ∨ !s.zeroFrom 34 ∨ (op ≠ 1 ∧ memberFault entry = some 3) then some (refuse 0x43 3)
  else if op > 2 ∨ (op ≠ 1 ∧ memberFault entry = some 4) then some (refuse 0x43 4)
  else if hPriv s.hdr < 2 then some (refuse 0x11 0)
  else if h / 4096 ≠ 4 then some (refuse 0x16 3)
  else
    match tget? d.formes (h % 4096) with
    | none => some (refuse 0x16 1)
    | some f =>
      if f.ctx ≠ hCtx s.hdr then some (refuse 0x16 2)
      else
        match d.mbr.map.formes.find? (fun r => r.id = f.id) with
        | none => some (refuse 0x16 1)
        | some r =>
          let mem (n : Nat) := r.members.find? (fun x => x.node = n)
          let lost := (nodeOf d.mbr.map old).state == 2
          let holds := match mem old with
            | some x => bitOf x.roles 1 && d.pages.any (fun p => p.2.tier = 3 && p.2.node = old &&
                decide (x.poolPage ≤ p.2.rpage) && decide (p.2.rpage < x.poolPage + x.poolPages))
            | none => false
          if s.f 12 4 ≠ r.epoch then some ⟨0x34, 0, leBytes 4 r.epoch, none⟩
          else if (op ≠ 0 ∧ (mem old).isNone) ∨ (op ≠ 1 ∧ (nodeOf d.mbr.map (s.f 16 2)).state ≠ 1) ∨
              (op = 0 ∧ (r.members.length ≥ 256 ∨ memberCount d.mbr.map ≥ 65536)) then some (refuse 0x43 4)
          else if op ≠ 0 ∧ s.f 11 1 = 0 ∧ (holds && !lost) then some (refuse 0x40 2)
          else if !hasMajority d then some (refuse 0x40 12)
          else none

/-- `FORME_CHANGE` (R489): the reply follows the commit. -/
def execFormeChange (mb : Nat) (s : State) : Host.Outcome State Fault Refusal :=
  onDev (.formeChange mb) s (fun d =>
    serveMsg d mb (fun r => msgOf r == 0x0400) (fun d s =>
      match formeChangeFault d s with
      | some a => answerMsg d mb s a
      | none =>
        let id := match tget? d.formes (s.f 8 2 % 4096) with | some f => f.id | none => 0
        submit (waitCommit d mb s.id 3 id) (.alter id (s.f 10 1) (s.f 12 4) (parseMember (slice s.req 16 16)) (s.f 32 2))))

/-- `MAP_READ` (R475). -/
def execMapRead (mb : Nat) (s : State) : Host.Outcome State Fault Refusal :=
  onDev (.mapRead mb) s (fun d => replyMsg d mb 0x0401 (fun d s =>
    let b := mapBytes d.mbr.map
    let body := leBytes 4 (epochOf d) ++ leBytes 4 b.length
    if !s.zeroFrom 20 then (d, refuse 0x43 3)
    else if s.f 16 4 < b.length then (d, ⟨0x15, 4, body, none⟩)
    else (d, ⟨0, 0, body, some (s.f 8 8, b)⟩)))

/-! ### Mirroring again (R497) -/

/-- Copies marked pages and unapplied log lines to the twin, while a window admits migration and requests are free. -/
def resyncCopy (d : Dev) : Dev :=
  if d.mbr.twin ≠ 3 ∨ !admits d 6 then d
  else
    let twin := (nodeOf d.mbr.map (selfNode d)).twin
    let send (d : Dev) (line : Nat) (b : Bytes) :=
      (issueReq d .mirror 1 twin (line * 64) line 0 (writePayload (2 ^ 64 - 1) b) false).1
    let log := d.mbr.log
    let d := log.foldl (fun d l => send d l.1 l.2) { d with mbr := { d.mbr with log := [] } }
    d.mbr.marked.foldl (fun d page =>
      if d.fab.length + 1024 > 16384 then d
      else
        let d := { d with mbr := { d.mbr with marked := d.mbr.marked.filter (· ≠ page) } }
        (List.range 1024).foldl (fun d i =>
          let r := homeRead d (Who.unitOnly 9 (homeFloe page)) (page * 1024 + i)
          match r.2 with
          | .ok b => send r.1 (page * 1024 + i) b
          | .error _ => r.1) d) d

/-- Some mirror window is on. -/
def mirrorOn (d : Dev) : Bool := (List.range 16).any (fun w => rf d (0x048E0108 + w * 0x10) 0 2 != 0)

/-- Mirroring enters RESYNC when a twin link is ACTIVE, else waits SUSPENDED. -/
def startResync (d : Dev) : Dev :=
  if !mirrorOn d then d
  else if (List.range 8).any (fun l => twinLink d l && linkActive d l) then resyncCopy { d with mbr := { d.mbr with twin := 3 } }
  else { d with mbr := { d.mbr with twin := 2 } }

/-- `TWIN_LINK_ACTIVE` (R497). -/
def execTwinLinkActive (link : Nat) (s : State) : Host.Outcome State Fault Refusal :=
  onDev (.twinLinkActive link) s (fun d =>
    if twinLink d link && linkActive d link && (d.mbr.twin == 2 || d.mbr.twin == 0) then startResync d else d)

/-- `TWIN_ACK_TIMEOUT` (R497). -/
def execTwinAckTimeout (s : State) : Host.Outcome State Fault Refusal :=
  onDev .twinAckTimeout s (fun d => if d.mbr.sync.isEmpty then d else suspendTwin d)

/-- `RESYNC_DONE` (R497): once every marked page and log line has been copied. -/
def execResyncDone (s : State) : Host.Outcome State Fault Refusal :=
  onDev .resyncDone s (fun d =>
    if d.mbr.twin ≠ 3 then d
    else if d.mbr.marked.isEmpty && d.mbr.log.isEmpty && !d.fab.any (fun r => r.2.owner = .mirror) then
      { d with mbr := { d.mbr with twin := 1 } }
    else resyncCopy d)

/-- The TWIN flag of the pages of a window follows its MODE; a window whose MODE leaves 0 is copied whole (R496, R497). -/
def windowMode (d : Dev) (w old : Nat) : Dev :=
  let b := 0x048E0100 + w * 0x10
  let new := rf d (b + 8) 0 2
  let pages := tkeys (d.pages.filter (fun p => rf d b 0 28 ≤ p.1 && decide (p.1 < rf d b 0 28 + rf d (b + 4) 0 28)))
  let d := pages.foldl (fun d p =>
    let q := pageOf d p
    let t := decide (q.tier ≠ 0) && decide (mirrorMode d p ≠ 0)
    if q.twin = t then d else setPage d p { q with twin := t }) d
  if old = 0 ∧ new ≠ 0 then startResync (pages.foldl markPage d)
  else if !mirrorOn d then { suspendTwin d with mbr := { (suspendTwin d).mbr with twin := 0, log := [], marked := [] } }
  else d

/-- `WINDOW_OPEN` (R416): the activities of an open window may start; a paused sweep and resynchronisation go on. -/
def execWindowOpen (win : Nat) (s : State) : Host.Outcome State Fault Refusal :=
  onState (.windowOpen win) s (fun c d =>
    if windowIsOpen c d win then
      let d := { d with boot := { d.boot with windows := (List.range 8).filter (fun a =>
        d.boot.windows.contains a || (windowActs d win).contains a) } }
      (c, resyncCopy ((List.range 4).foldl runSweep d))
    else (c, d))

end Sys2Proof.Machine
end

