-- ==== Sys2Proof/Machine/Handoff.lean ====
section
/-! DEFINITION. Handing a sequence slot to another device: the message SEQ_HANDOFF and the handoff frames (R492 to
R495). -/

namespace Sys2Proof.Machine

open Sys2Proof

/-! ### SEQ_HANDOFF (R492) -/

/-- A request is SEQ_HANDOFF with a MODE; a MODE that is none of the three is turned away by the row of GIVE. -/
def isHandoff (mode : Nat) (r : Bytes) : Bool :=
  msgOf r == 0x0402 && (fieldAt r 10 1 == mode || (mode == 0 && decide (fieldAt r 10 1 > 2)))

/-- The slot of a SEQ_HANDOFF, or the first check that fails. -/
def handoffSlot (d : Dev) (s : Service) : Except Answer (Nat × Slot) :=
  let h := s.f 8 2
  match firstFault
      [(decide (s.f 11 1 ≥ 2) || !s.zeroFrom 16, 0x43, 3),
       (decide (s.f 10 1 > 2) || (decide (s.f 10 1 = 0) && (decide (s.f 12 2 ≥ 1024) || decide (s.f 14 2 ≥ 4096))), 0x43, 4),
       (decide (hPriv s.hdr < 1) || (decide (s.f 10 1 = 2) && decide (s.f 11 1 = 1) && decide (hPriv s.hdr < 2)), 0x11, 0),
       (decide (h / 4096 ≠ 5), 0x16, 3)] with
  | some e => .error (refuse e.1 e.2)
  | none =>
    match slotOf d (h % 4096) with
    | none => .error (refuse 0x16 1)
    | some x => if x.ctx ≠ hCtx s.hdr then .error (refuse 0x16 2) else .ok (h % 4096, x)

/-- Serves SEQ_HANDOFF with a MODE; `act` answers none where the slot's state does not allow it. -/
def serveHandoff (d : Dev) (mb mode : Nat) (act : Dev → Service → Nat → Slot → Option Dev) : Dev :=
  serveMsg d mb (isHandoff mode) (fun d s =>
    match handoffSlot d s with
    | .error a => answerMsg d mb s a
    | .ok (n, x) =>
      match act d s n x with
      | some d => d
      | none => answerMsg d mb s ⟨0x41, 0, handoffReply x, none⟩)

/-- The reply of a SEQ_HANDOFF that ends at once. -/
def handoffDone (d : Dev) (mb : Nat) (s : Service) (n : Nat) : Dev :=
  match slotOf d n with
  | some x => answerMsg d mb s (okBody (handoffReply x))
  | none => d

/-- GIVE: the slot goes OFFERED and OFFER is sent; the reply waits for the resolution. -/
def giveSlot (d : Dev) (mb : Nat) (s : Service) (n : Nat) (x : Slot) : Option Dev :=
  if x.state ≠ 0 then none
  else
    let e := (x.epoch + 1) % 2 ^ 32
    let y := { x with state := 1, offer := e, peerNode := s.f 12 2, peerSlot := s.f 14 2, give := some (mb, s.id) }
    let d := telD (putSlot (goesOn d mb s.id) n y) 0x3B28 1
    some (sendHandoff d y.peerNode 13 ⟨x.seqId, e, n, y.peerSlot, 1, 0, x.shape⟩)

/-- ARM: a fresh or RELEASED slot goes VACANT. -/
def armSlot (d : Dev) (n : Nat) (x : Slot) : Option Dev :=
  if (x.state = 0 ∧ x.epoch = 0 ∧ !x.attended) ∨ x.state = 4 then
    some (putSlot d n { x with state := 2, floor := x.epoch })
  else none

/-- `SEQ_HANDOFF_GIVE` (R492). -/
def execSeqHandoffGive (mb : Nat) (s : State) : Host.Outcome State Fault Refusal :=
  onDev (.seqHandoffGive mb) s (fun d => serveHandoff d mb 0 (fun d v n x => giveSlot d mb v n x))

/-- `SEQ_HANDOFF_ARM` (R492). -/
def execSeqHandoffArm (mb : Nat) (s : State) : Host.Outcome State Fault Refusal :=
  onDev (.seqHandoffArm mb) s (fun d => serveHandoff d mb 1 (fun d v n x =>
    (armSlot d n x).map (fun d => handoffDone d mb v n)))

/-- `SEQ_HANDOFF_RESOLVE` (R492, R495): without REINSTATE it reports the slot and changes nothing (log entry 33). -/
def execSeqHandoffResolve (mb : Nat) (s : State) : Host.Outcome State Fault Refusal :=
  onDev (.seqHandoffResolve mb) s (fun d => serveHandoff d mb 2 (fun d v n x =>
    if x.state ≠ 1 then none
    else some (handoffDone (if v.f 11 1 = 1 then reinstate d n x else d) mb v n)))

/-- `GIVE_REPLY_TIMEOUT` (R492). -/
def execGiveReplyTimeout (sslot : Nat) (s : State) : Host.Outcome State Fault Refusal :=
  onDev (.giveReplyTimeout sslot) s (fun d =>
    match slotOf d sslot with
    | none => d
    | some x =>
      match x.give with
      | none => d
      | some (m, id) =>
        let y := { x with give := none }
        let d := { d with slots := tput d.slots sslot y }
        replyTo d m id (fun v => solpen v.req 0x35 0 (handoffReply y)))

/-! ### The handoff frames (R493 to R495) -/

/-- What a VACANT slot finds wrong with an OFFER: a REASON of NAK. -/
def offerFault (x : Option Slot) (m : HandoffMsg) : Option Nat :=
  match x with
  | none => some 1
  | some x =>
    if m.epoch ≤ x.floor then some 4
    else if x.state ≠ 2 then some 1
    else if x.seqId ≠ m.seqId then some 2
    else if x.shape ≠ m.shape then some 3
    else none

/-- `OFFER` (R493). -/
def execOffer (node : Nat) (msg : HandoffMsg) (s : State) : Host.Outcome State Fault Refusal :=
  onDev (.offer node msg) s (fun d =>
    match slotOf d msg.recipient, offerFault (slotOf d msg.recipient) msg with
    | some x, none =>
      let d := putSlot d msg.recipient { x with state := 3, offer := msg.epoch, peerNode := node, peerSlot := msg.donor }
      sendHandoff d node 14 ⟨msg.seqId, msg.epoch, msg.donor, msg.recipient, 3, 0, 0⟩
    | _, r => sendHandoff d node 15 ⟨msg.seqId, msg.epoch, msg.donor, msg.recipient, 0, r.getD 1, 0⟩)

/-- The donor lets the token go and sends CONFIRM. -/
def releaseSlot (d : Dev) (n : Nat) (x : Slot) : Dev :=
  sendHandoff (putSlot d n { x with state := 4 }) x.peerNode 16 ⟨x.seqId, x.offer, n, x.peerSlot, 4, 0, 0⟩

/-- The recipient holds the token at the offer epoch. -/
def ownSlot (d : Dev) (n : Nat) (x : Slot) : Dev := putSlot d n { x with state := 0, epoch := x.offer }

/-- `ACK` (R493). -/
def execAck (node : Nat) (msg : HandoffMsg) (s : State) : Host.Outcome State Fault Refusal :=
  onDev (.ack node msg) s (fun d =>
    match slotOf d msg.donor with
    | some x => if x.state = 1 ∧ msg.epoch = x.offer then releaseSlot d msg.donor x else d
    | none => d)

/-- `NAK` (R493). -/
def execNak (node : Nat) (msg : HandoffMsg) (s : State) : Host.Outcome State Fault Refusal :=
  onDev (.nak node msg) s (fun d =>
    match slotOf d msg.donor with
    | some x => if x.state = 1 then putSlot d msg.donor { x with state := 0 } else d
    | none => d)

/-- `CONFIRM` (R493). -/
def execConfirm (node : Nat) (msg : HandoffMsg) (s : State) : Host.Outcome State Fault Refusal :=
  onDev (.confirm node msg) s (fun d =>
    match slotOf d msg.recipient with
    | some x => if x.state = 3 ∧ msg.epoch = x.offer then ownSlot d msg.recipient x else d
    | none => d)

/-- The slot is this device's end of the handoff that a frame from a node names. -/
def handoffEnd (x : Slot) (node peer : Nat) (m : HandoffMsg) : Bool :=
  x.seqId == m.seqId && x.peerNode == node && x.peerSlot == peer

/-- The epoch that QUERY_REPLY carries: the token's where the slot is OWNED, else the offer's; a VACANT slot holds
nothing and gives the epoch asked for (log entry 33). -/
def queryEpoch (x : Slot) (asked : Nat) : Nat :=
  if x.state = 0 then x.epoch else if x.state = 2 then asked else x.offer

/-- `QUERY` (R495): the answer tells the slot's state; a donor still OFFERED lets go in the same step.  A slot that no
longer exists is reported as VACANT (log entry 33). -/
def execQuery (node : Nat) (msg : HandoffMsg) (s : State) : Host.Outcome State Fault Refusal :=
  onDev (.query node msg) s (fun d =>
    let reply (d : Dev) (state epoch : Nat) :=
      sendHandoff d node 18 ⟨msg.seqId, epoch, msg.donor, msg.recipient, state, 0, 0⟩
    match (slotOf d msg.donor).filter (fun x => handoffEnd x node msg.recipient msg && x.offer == msg.epoch) with
    | some x =>
      let d := reply d x.state (queryEpoch x msg.epoch)
      if x.state = 1 then putSlot d msg.donor { x with state := 4 } else d
    | none =>
      match slotOf d msg.recipient with
      | some x => if x.seqId = msg.seqId then reply d x.state (queryEpoch x msg.epoch) else reply d 2 msg.epoch
      | none => reply d 2 msg.epoch)

/-- `QUERY_REPLY` (R495). -/
def execQueryReply (node : Nat) (msg : HandoffMsg) (s : State) : Host.Outcome State Fault Refusal :=
  onDev (.queryReply node msg) s (fun d =>
    match (slotOf d msg.donor).filter (fun x => x.state == 1 && handoffEnd x node msg.recipient msg) with
    | some x =>
      if msg.epoch ≠ x.offer then d
      else if msg.state = 3 ∨ msg.state = 0 then releaseSlot d msg.donor x
      else if msg.state = 2 then reinstate d msg.donor x
      else d
    | none =>
      match (slotOf d msg.recipient).filter (fun x => x.state == 3 && handoffEnd x node msg.donor msg) with
      | some x =>
        if msg.state = 0 ∧ msg.epoch > x.offer then putSlot d msg.recipient { x with state := 2, floor := msg.epoch }
        else if (msg.state = 1 ∨ msg.state = 4) ∧ msg.epoch = x.offer then ownSlot d msg.recipient x
        else d
      | none => d)

/-- `FLOOR` (R495): the recipient records it; a floor does not fall (log entry 33). -/
def execFloor (node : Nat) (msg : HandoffMsg) (s : State) : Host.Outcome State Fault Refusal :=
  onDev (.floor node msg) s (fun d =>
    match slotOf d msg.recipient with
    | some x =>
      if x.seqId = msg.seqId then { d with slots := tput d.slots msg.recipient { x with floor := max x.floor msg.epoch } } else d
    | none => d)

/-- `HANDOFF_TIMEOUT` (R493, R495): the slot asks the peer, or acts on the map where the peer is EXPELLED. -/
def execHandoffTimeout (sslot : Nat) (s : State) : Host.Outcome State Fault Refusal :=
  onDev (.handoffTimeout sslot) s (fun d =>
    match slotOf d sslot with
    | none => d
    | some x =>
      let gone := (nodeOf d.mbr.map x.peerNode).state == 2
      if x.state = 1 then
        if gone then reinstate d sslot x
        else sendHandoff (telD d 0x3B30 1) x.peerNode 17 ⟨x.seqId, x.offer, sslot, x.peerSlot, 1, 0, 0⟩
      else if x.state = 3 then
        if gone then ownSlot d sslot x
        else sendHandoff (telD d 0x3B30 1) x.peerNode 17 ⟨x.seqId, x.offer, x.peerSlot, sslot, 3, 0, 0⟩
      else d)

end Sys2Proof.Machine
end

