-- ==== Sys2Proof/Machine/Link.lean ====
section
/-! DEFINITION. The Golven links: flits and their replay, bring-up, retraining and loss, and the frames that a switch
core receives from them (R369 to R374, R382, R385, R516). -/

namespace Sys2Proof.Machine

open Sys2Proof

/-! ### Link states (R372) -/

/-- A LINK record of a Golven link (R441, R443). -/
def linkErr (d : Dev) (l level entered count : Nat) : Dev :=
  logErr d 9 level 7 l 0xFFFF (errBody 0 0 0 0xFFFF entered count)

/-- Answers a REQ or RUN frame that is not forwarded (R374, R382). -/
def refuseFrame (d : Dev) (f : Frame) (status : Nat) : Dev :=
  if f.cls < 2 then ackTo d f.src f.utag status [] else d

/-- Routes a frame that waited at a link which has left ACTIVE once more (R382). -/
def reroute (d : Dev) (b : Bytes) : Dev :=
  let f := parseFrame b
  let s := forward d (setHops b (f.hops - 1))
  if s.2 then s.1 else refuseFrame s.1 f 0x36

/-- Empties the queue of a link that leaves ACTIVE: frames to the twin take another twin link where one is ACTIVE, the
others are routed again. -/
def drainLink (d : Dev) (l : Nat) (down : Bool) : Dev :=
  let q := (linkOf d l).txq
  if twinLink d l then
    match (List.range 8).find? (fun k => twinLink d k && linkActive d k) with
    | some k => q.foldl (fun d b => linkSend d k b) (setLink d l { linkOf d l with txq := [] })
    | none => if down then setLink d l { linkOf d l with txq := [] } else d
  else q.foldl reroute (setLink d l { linkOf d l with txq := [] })

/-- A link enters DOWN or DISABLED: it forgets its peer's proof, its flits and its credits.  Membership is notified of every entry
to DOWN, and where the link carried frames. -/
def leaveLink (d : Dev) (l state : Nat) : Dev :=
  let k := linkOf d l
  let was := k.state = 6 ∨ k.state = 7
  let d := setLink d l { k with state := state, auth := false, lanes := 0, replay := [], credit := [], owed := [], part := [],
                                tx := [], withheld := [], nak := false }
  let d := if was then suspectLink (drainLink d l true) l else d
  if was ∨ state = 1 then reportLink d l false else d

/-- A link goes DOWN by itself. -/
def downLink (d : Dev) (l : Nat) : Dev := leaveLink (linkErr d l 2 1 0) l 1

/-- A link in ACTIVE enters RETRAIN: frames are held, and the queued ones routed again. -/
def retrainLink (d : Dev) (l : Nat) : Dev :=
  let k := linkOf d l
  if k.state ≠ 6 then d
  else
    let n := match k.replay with | (_, _, n) :: _ => n | [] => 0
    let d := linkErr (telD d (0x3000 + (12 + l) * 0x40 + 0x38) 1) l 1 7 n
    drainLink (setLink d l { k with state := 7 }) l false

/-- LINK_CTRL.ENABLE takes a new value (R385).  Links are enabled from step 5 of boot on (R503). -/
def setLinkEnable (d : Dev) (l : Nat) (on : Bool) : Dev :=
  let o := linkBase l
  let d := { d with regs := tput d.regs o (setBits (rv d o) 0 1 (b2n on)) }
  let k := linkOf d l
  if on then (if k.state = 0 ∧ d.boot.edgeReady ∧ !d.boot.failed ∧ d.boot.bootMode ≠ 2 then setLink d l { k with state := 1 } else d)
  else if k.state = 0 then d
  else leaveLink d l 0

/-- `LINK_ENABLE` (R385). -/
def execLinkEnable (link : Nat) (on : Bool) (s : State) : Host.Outcome State Fault Refusal :=
  onDev (.linkEnable link on) s (fun d => setLinkEnable d link on)

/-- `LINK_RETRAIN` (R385). -/
def execLinkRetrain (link : Nat) (s : State) : Host.Outcome State Fault Refusal :=
  onDev (.linkRetrain link) s (fun d => retrainLink d link)

/-- Moves a link on from one state of bring-up. -/
def advance (d : Dev) (l from_ : Nat) (f : Link → Link) : Dev :=
  let k := linkOf d l
  if k.state = from_ then setLink d l (f k) else d

/-- `LINK_SIGNAL_DETECT` (R372). -/
def execLinkSignalDetect (link : Nat) (s : State) : Host.Outcome State Fault Refusal :=
  onDev (.linkSignalDetect link) s (fun d => advance d link 1 (fun k => { k with state := 2 }))

/-- `PHY_TRAIN_DONE` (R372). -/
def execPhyTrainDone (link : Nat) (s : State) : Host.Outcome State Fault Refusal :=
  onDev (.phyTrainDone link) s (fun d => advance d link 2 (fun k => { k with state := 3 }))

/-- `PHY_TRAIN_TIMEOUT` (R372). -/
def execPhyTrainTimeout (link : Nat) (s : State) : Host.Outcome State Fault Refusal :=
  onDev (.phyTrainTimeout link) s (fun d => if (linkOf d link).state = 2 then downLink d link else d)

/-- The lanes that a link takes into use: all eight, or lanes 0 to 3, or 4 to 7; none for fewer. -/
def lanesFor (half : Bool) (mask : Nat) : Nat :=
  if mask % 256 = 0xFF ∧ !half then 0xFF
  else if mask % 16 = 0xF then 0x0F
  else if mask / 16 % 16 = 0xF then 0xF0
  else 0

/-- The cells that the receive buffers of a link hold for each class (R371). -/
def advertised : List Nat := [1024, 256, 2048, 128]

/-- What this end sends in PARAM (R371, R372, R500). -/
def ownParams (d : Dev) (l : Nat) : ParamInfo :=
  { node := selfNode d, epoch := epochOf d, version := 1, partner := d.mbr.map.partner, credits := advertised,
    txLat := (linkLat l (linkOf d l).lanes).1, rxLat := (linkLat l (linkOf d l).lanes).2 }

/-- A link in one state enters PARAM: this end sends its parameters. -/
def enterParam (d : Dev) (l from_ : Nat) : Dev :=
  if (linkOf d l).state = from_ then emit (advance d l from_ (fun k => { k with state := 4 })) (.param l (ownParams d l)) else d

/-- Lanes have locked. -/
def setLanes (d : Dev) (l m : Nat) : Dev := advance d l 3 (fun k => { k with lanes := m })

/-- `FEC_LOCK_DONE` (R372, R385). -/
def execFecLockDone (link lanes : Nat) (s : State) : Host.Outcome State Fault Refusal :=
  onDev (.fecLockDone link lanes) s (fun d =>
    let m := lanesFor (bitOf (rv d (linkBase link)) 1) lanes
    if m = 0 then d else enterParam (setLanes d link m) link 3)

/-- `FEC_LOCK_TIMEOUT` (R372). -/
def execFecLockTimeout (link : Nat) (s : State) : Host.Outcome State Fault Refusal :=
  onDev (.fecLockTimeout link) s (fun d => if (linkOf d link).state = 3 then downLink d link else d)

/-- What the peer sent in PARAM lets the link come up: the one version there is, and on a twin link the partner domain
and the twin's node number. -/
def paramOk (d : Dev) (l : Nat) (p : ParamInfo) : Bool :=
  p.version == 1 && (!twinLink d l ||
    ((nodeOf d.mbr.map (selfNode d)).twinValid && p.partner == d.mbr.map.partner && p.node == (nodeOf d.mbr.map (selfNode d)).twin))

/-- `PARAM_EXCHANGE_DONE` (R372). -/
def execParamExchangeDone (link : Nat) (par : ParamInfo) (s : State) : Host.Outcome State Fault Refusal :=
  onDev (.paramExchangeDone link par) s (fun d =>
    if (linkOf d link).state ≠ 4 then d
    else if !paramOk d link par then downLink d link
    else advance d link 4 (fun k =>
      { k with state := 5, peer := par.node % 1024, peerTx := par.txLat % 65536, peerRx := par.rxLat % 65536, peerEpoch := par.epoch,
               credit := (List.range 4).map (fun c => (c, par.credits.getD c 0)), owed := [], txSeq := 0, rxSeq := 0,
               replay := [], part := [], tx := [], withheld := [], nak := false }))

/-- `AUTH_DONE` (R372, R516): the peer's KEY_ID must be the one the map holds, and a device without an identity stops at AUTH_FAILED
(R513). -/
def execAuthDone (link keyId : Nat) (ok : Bool) (s : State) : Host.Outcome State Fault Refusal :=
  onDev (.authDone link keyId ok) s (fun d =>
    let k := linkOf d link
    let e := nodeOf d.mbr.map k.peer
    if k.state ≠ 5 then d
    else if ok && d.boot.identity && (twinLink d link || e.state == 0 || e.keyId == keyId) then
      let d := closeErr (setLink d link { k with state := 6, auth := true, suspected := false, misses := 0 }) 7 link 4
      sendJoin (reportLink d link true)
    else linkErr (setLink d link { k with state := 8, auth := false }) link 2 8 0)

/-- `AUTH_FAILED_TIMER` (R372). -/
def execAuthFailedTimer (link : Nat) (s : State) : Host.Outcome State Fault Refusal :=
  onDev (.authFailedTimer link) s (fun d => enterParam d link 8)

/-- `RETRAIN_DONE` (R372): ACTIVE again, with its flit sequence kept. -/
def execRetrainDone (link : Nat) (s : State) : Host.Outcome State Fault Refusal :=
  onDev (.retrainDone link) s (fun d =>
    let k := linkOf d link
    if k.state ≠ 7 then d
    else
      let d := closeErr (setLink d link { k with state := 6, replay := k.replay.map (fun r => (r.1, r.2.1, 0)) }) 7 link 4
      pumpAll d link)

/-- `RETRAIN_TIMEOUT` (R372). -/
def execRetrainTimeout (link : Nat) (s : State) : Host.Outcome State Fault Refusal :=
  onDev (.retrainTimeout link) s (fun d => if (linkOf d link).state = 7 then downLink d link else d)

/-- `LINK_SIGNAL_LOSS` (R372). -/
def execLinkSignalLoss (link : Nat) (s : State) : Host.Outcome State Fault Refusal :=
  onDev (.linkSignalLoss link) s (fun d => if (linkOf d link).state = 6 then downLink d link else d)

/-! ### Flits (R369, R370) -/

/-- LINK_REPLAY.REPLAY_LIMIT as it acts. -/
def replayLimit (d : Dev) (l : Nat) : Nat := max 1 (rf d (linkBase l + 0x10) 0 8)

/-- Resends from the first unacknowledged flit; at the limit the link enters RETRAIN. -/
def replayFlits (d : Dev) (l : Nat) : Dev :=
  let k := linkOf d l
  match k.replay with
  | [] => d
  | (_, _, n) :: _ =>
    if n ≥ replayLimit d l then retrainLink d l
    else
      let d := setLink d l { k with replay := k.replay.map (fun r => (r.1, r.2.1, r.2.2 + 1)) }
      k.replay.foldl (fun d r => telD (sendFlit d l r.1 r.2.1) (0x3000 + (12 + l) * 0x40 + 0x10) 1) d

/-- Sends a flit without a frame, which carries an acknowledgement and credits (log entry 34). -/
def sendIdle (d : Dev) (l : Nat) : Dev :=
  let k := linkOf d l
  if k.state = 6 ∧ k.replay.length < 1024 then
    sendFlit (setLink d l { k with replay := k.replay ++ [(k.txSeq, [], 0)], txSeq := (k.txSeq + 1) % 4096 }) l k.txSeq []
  else d

/-- Takes an acknowledgement: flits up to it leave the replay buffer. -/
def ackFlits (k : Link) (ack : Nat) : Link :=
  match k.replay.findIdx? (fun r => r.1 = ack) with
  | some i => { k with replay := k.replay.drop (i + 1) }
  | none => k

/-- The frames of a stream of bytes, and the front part of one that has not ended: words of zeros are idle (R369). -/
def framesOf : Nat → Bytes → List Bytes × Bytes
  | 0, b => ([], b)
  | n + 1, b =>
    if b.isEmpty then ([], [])
    else if b.length < 8 then ([], b)
    else if allZero (b.take 8) then framesOf n (b.drop 8)
    else
      let len := 40 + fieldAt b 3 1
      let whole := (len + 7) / 8 * 8
      if b.length < whole then ([], b)
      else
        let r := framesOf n (b.drop whole)
        (b.take len :: r.1, r.2)

/-- A flit arrives (R370): a good one in order gives its acknowledgement, its credits and its frames; any other is
discarded and answered with NAK. -/
def takeFlit (d : Dev) (l : Nat) (b : Bytes) : Dev :=
  let k := linkOf d l
  if k.state ≠ 6 then d
  else if b.length ≠ 512 ∨ crc64 (b.take 504) ≠ fieldAt b 504 8 ∨ fieldAt b 0 2 % 4096 ≠ k.rxSeq then
    sendIdle (setLink d l { k with nak := true }) l
  else
    let ack := fieldAt b 2 2
    let k := ackFlits { k with rxSeq := (k.rxSeq + 1) % 4096, nak := false } (ack % 4096)
    let k := { k with credit := (List.range 4).map (fun c => (c, tget k.credit c 0 + fieldAt b (4 + c) 1)) }
    let fs := framesOf 128 (k.part ++ slice b 8 496)
    let d := setLink d l { k with rx := k.rx ++ fs.1, part := fs.2 }
    let d := if bitOf ack 12 then replayFlits d l else d
    let sent := (linkOf d l).txSeq
    let d := pumpAll d l
    if (linkOf d l).txSeq = sent ∧ !allZero (slice b 8 496) then sendIdle d l else d

/-- `FLIT_RECEIVE` (R370). -/
def execFlitReceive (link : Nat) (bytes : List Byte) (s : State) : Host.Outcome State Fault Refusal :=
  onDev (.flitReceive link bytes) s (fun d => takeFlit d link bytes)

/-- `FLIT_ACK_TIMEOUT` (R370). -/
def execFlitAckTimeout (link : Nat) (s : State) : Host.Outcome State Fault Refusal :=
  onDev (.flitAckTimeout link) s (fun d => if (linkOf d link).state = 6 then replayFlits d link else d)

/-- `REPLAY_LIMIT_REACHED` (R370). -/
def execReplayLimitReached (link : Nat) (s : State) : Host.Outcome State Fault Refusal :=
  onDev (.replayLimitReached link) s (fun d =>
    match (linkOf d link).replay with
    | (_, _, n) :: _ => if n ≥ replayLimit d link then retrainLink d link else d
    | [] => d)

/-! ### Frames (R374, R382) -/

/-- Sends a frame of another device on toward its node: a READ or atomic may join one that goes there already, and a response goes to
every READ that has joined the one it answers (R325, R326). -/
def passFrame (d : Dev) (b : Bytes) (f : Frame) : Dev :=
  let s := sendOn (if f.cls = 2 then copyResponse d f.utag f.error f.code f.src f.payload else d) b false
  if s.2 then s.1 else refuseFrame s.1 f 0x36

/-- A frame for this device: requests go to its switch core, acknowledgements to the sending floe; a management frame
sinks, and what it asks for comes as a command of its own. -/
def acceptFrame (d : Dev) (l : Nat) (f : Frame) : Dev :=
  let twin := twinLink d l
  let r : FabIn :=
    { kind := if twin then 4 + l else f.cls, code := f.code, src := f.src, epoch := if twin then epochOf d else f.epoch,
      width := f.width, addr := f.addr, payload := f.payload, error := f.error, members := [], waits := false, status := 0,
      result := [], begun := false, missed := false }
  if f.cls < 2 then arriveReq d f.utag r
  else if f.cls = 2 then { d with acks := tput d.acks f.utag { r with kind := 2 } }
  else d

/-- A FABRIC record of a frame that is discarded or malformed (R374, R441). -/
def frameErr (d : Dev) (l status : Nat) (f : Frame) : Dev :=
  logErr d 6 1 8 0 0xFFFF (errBody (f.dst * 2 ^ 44 + f.addr) status 0 0xFFFF (f.code + l * 4096) f.utag) true

/-- The cells of a frame that has left the receive buffers of its link go back to the peer, or are withheld while cells of the link
wait for room at an output (R371, R378). -/
def freeRx (d : Dev) (l cls n : Nat) : Dev :=
  let k := linkOf d l
  setLink d l (if d.sw.waiting.any (fun w => w.1 == 12 + l) then { k with withheld := tput k.withheld cls (tget k.withheld cls 0 + n) }
               else { k with owed := tput k.owed cls (tget k.owed cls 0 + n) })

/-- The switch core takes a frame from a link. -/
def takeFrame (d : Dev) (l : Nat) : Dev :=
  let k := linkOf d l
  match k.rx with
  | [] => d
  | b :: rest =>
    if d.sw.recovering then d
    else
      let f := parseFrame b
      let sent := k.txSeq
      let d := freeRx (setLink d l { k with rx := rest }) l f.cls (cellsOf b.length)
      let d := mirrorCopies (telD d (0x3000 + (12 + l) * 0x40 + 0x20) (cellsOf b.length)) (linkSeen l 0 b)
      let d :=
        if !frameCrcOk b then frameErr (useFree d) l (freeVal d % 256) f
        else if frameMalformed b then
          let d := frameErr (telD d (0x3000 + (12 + l) * 0x40 + 0x18) 1) l 0x18 f
          if f.cls < 2 then ackTo d f.src f.utag 0x18 [] else d
        else if f.dst = selfNode d then acceptFrame d l f
        else if twinLink d l then d
        else passFrame d b f
      if (linkOf d l).txSeq = sent then sendIdle d l else d

/-- `FRAME_RECEIVE` (R374, R382, R383). -/
def execFrameReceive (link : Nat) (s : State) : Host.Outcome State Fault Refusal :=
  onDev (.frameReceive link) s (fun d => takeFrame d link)

end Sys2Proof.Machine
end

