-- ==== Sys2Proof/Machine/Switch.lean ====
section
/-! DEFINITION. Cells inside the switch core: their check, admission at an output, resequencing, forwarding and abort, and
the leaked-buffer auditor (R375 to R381, R384). -/

namespace Sys2Proof.Machine

open Sys2Proof

/-- The key of a frame: its input port and its number there. -/
def frameKey (input frame : Nat) : Nat := input * 2 ^ 32 + frame % 2 ^ 32

/-- An output admits a cell of a class (R378): RSP and DATA from their own reservations only (R377). -/
def cellRoom (d : Dev) (output cls : Nat) : Bool :=
  let lim := rv d (0x04800200 + 32 * output + 4 * cls)
  let occ := tget d.sw.occupancy (8 * output + cls) 0
  !d.sw.recovering && (decide (occ < bits lim 0 16) ||
    (cls != 3 && cls != 4 && decide (0 < sharedCells d) && decide (occ < bits lim 16 16)))

/-- A cell takes a buffer at its output. -/
def admitCell (d : Dev) (key index : Nat) (f : SwFrame) : Dev :=
  match lowestFree (tkeys d.sw.bufs) 0 131072 with
  | none => d
  | some b =>
    let o := 8 * f.output + f.cls
    { d with sw := { d.sw with
        bufs := tput d.sw.bufs b ⟨2, true, false, false⟩,
        occupancy := tput d.sw.occupancy o (tget d.sw.occupancy o 0 + 1),
        frames := tput d.sw.frames key { f with got := f.got ++ [index], bufs := f.bufs ++ [b] } } }

/-- A middle lane whose staging slot for an output is free: which one an input reaches first depends on the cycle (R375). -/
def freeLane (d : Dev) (output : Nat) : Option Nat :=
  ((List.range 81).map (fun i => (freeVal d + i) % 81)).find? (fun m => !d.sw.staged.any (fun s => s.1 == m && s.2.1 == output))

/-- An input sends a cell into a free staging slot for its output. -/
def stageCell (d : Dev) (key index : Nat) (f : SwFrame) (lane : Nat) : Dev :=
  { d with sw := { d.sw with staged := d.sw.staged ++ [(lane, f.output, key, index)], frames := tput d.sw.frames key f } }

/-- The staging slots empty into the output buffers, which takes at most 81 cycles: before the command that filled them is
over (log entry 61). -/
def unstage (d : Dev) : Dev :=
  d.sw.staged.foldl (fun d s =>
    match tget? d.sw.frames s.2.2.1 with
    | some f => admitCell d s.2.2.1 s.2.2.2 f
    | none => d) { d with sw := { d.sw with staged := [] } }

/-- Gives back buffers of an output and class. -/
def freeCells (d : Dev) (f : SwFrame) (bs : List Nat) : Dev :=
  let o := 8 * f.output + f.cls
  { d with sw := { d.sw with bufs := d.sw.bufs.filter (fun b => !bs.contains b.1),
                             occupancy := tput d.sw.occupancy o (tget d.sw.occupancy o 0 - bs.length) } }

/-- The cells of a frame that are present in order from its first one. -/
def inOrder (f : SwFrame) : Nat := ((List.range f.cells).takeWhile (fun i => f.got.contains i)).length

/-- Frames of IO and MGMT leave in the order of their input: none before one that the input has stamped earlier (R377, R379). -/
def inTurn (d : Dev) (key : Nat) (f : SwFrame) : Bool :=
  !(f.cls == 0 || f.cls == 6) ||
    !d.sw.frames.any (fun g => g.1 != key && decide (g.2.stamp < f.stamp) && g.2.input == f.input && g.2.output == f.output && g.2.cls == f.cls &&
      !g.2.aborted)

/-- Mirror copies of a frame that leaves whole, or is aborted. -/
def copyFrame (d : Dev) (f : SwFrame) : Dev :=
  let ctx := if f.output < 12 ∨ f.input < 12 ∨ 20 ≤ f.input ∨ 20 ≤ f.output then some f.ctx else none
  let seen (port dir : Nat) : Seen := ⟨port, dir, f.cls, f.src, f.dst, ctx, f.aborted, f.bytes.take (128 * (f.cells - 1) + f.last)⟩
  let d := if 12 ≤ f.input ∧ f.input < 20 then d else mirrorCopies d (seen f.input 0)
  mirrorCopies d (seen f.output 1)

/-- The buffers of a frame as the auditor sees them (R384): QUEUED for cells that are present in order, RESEQUENCING for the others. -/
def retag (d : Dev) (f : SwFrame) : Dev :=
  let n := inOrder f - f.sent
  { d with sw := { d.sw with bufs := (f.bufs.zip (List.range f.bufs.length)).foldl (fun t b =>
      tmod t b.1 (fun x => { x with tag := if b.2 < n then 1 else 2 })) d.sw.bufs } }

/-- Sends the cells of a frame that may leave (R379, R380): as they come in order where the frame is forwarded
cut-through, else once the whole frame is present. -/
def releaseFrame (d : Dev) (key : Nat) : Dev :=
  match tget? d.sw.frames key with
  | none => d
  | some f =>
    let n := inOrder f
    if f.aborted || !inTurn d key f || (!f.cut && decide (n < f.cells)) || decide (n ≤ f.sent) then retag d f
    else
      let k := n - f.sent
      let d := freeCells d f (f.bufs.take k)
      let d := (List.range k).foldl (fun d i =>
        telD (emit d (.cell f.output (key % 2 ^ 32) (f.sent + i))) (0x3000 + f.output * 0x40 + 0x28) 1) d
      let f := { f with sent := n, bufs := f.bufs.drop k }
      if n = f.cells then copyFrame { d with sw := { d.sw with frames := tdel d.sw.frames key } } f
      else retag { d with sw := { d.sw with frames := tput d.sw.frames key f } } f

/-- Every frame that may leave does. -/
def releaseAll (d : Dev) : Dev := (tkeys d.sw.frames).foldl releaseFrame d

/-- The unit whose record reports a frame aborted at an output port. -/
def portUnit (p : Nat) : Nat × Nat := if p < 12 then (6, p) else if p < 20 then (7, p - 12) else (8, 0)

/-- A frame with a discarded cell is aborted (R376, R381).  Of a CXL.mem response the status and the host address are free values,
since no rule says where a cell holds them, and the decoder is the one that the address hits (log entry 61). -/
def abortFrame (d : Dev) (key : Nat) (f : SwFrame) : Dev :=
  let d := freeCells d f f.bufs
  let d := if f.sent > 0 then emit d (.abort f.output (key % 2 ^ 32)) else d
  let d := telD d (0x3000 + f.output * 0x40 + 0x30) 1
  let u := portUnit f.output
  let d := logErr d 9 1 u.1 u.2 0xFFFF (errBody 0 0 0 0xFFFF 0 1) true
  let d := if f.output < 12 ∧ (f.cls = 3 ∨ f.cls = 4) then
      let hpa := freeVal (useFree d) % 2 ^ 52
      let hit := decodeHpa (portOf d f.output) hpa
      memFailed (useFree (useFree d)) f.output (freeVal d % 256) ((hit.map (·.1)).getD 0) hpa (f.cls == 3) hit.isNone
    else d
  let gone := (d.sw.waiting.filter (fun w => frameKey w.1 w.2.1 = key)).map (fun w => w.2.2.2.2)
  let f := { f with aborted := true, bufs := [], got := f.got ++ gone }
  copyFrame { d with sw := { d.sw with frames := tput d.sw.frames key f,
                                       waiting := d.sw.waiting.filter (fun w => frameKey w.1 w.2.1 ≠ key) } } f

/-- A frame all of whose cells have come is forgotten once it has been aborted. -/
def dropAborted (d : Dev) (key : Nat) : Dev :=
  match tget? d.sw.frames key with
  | some f => if f.aborted ∧ f.got.length ≥ f.cells then { d with sw := { d.sw with frames := tdel d.sw.frames key } } else d
  | none => d

/-- A whole cell has arrived at an input (R375, R376, R378): it crosses a staging slot to its output, waits, or aborts its
frame.  A cell of the MIRROR
class that finds no room is lost. -/
def takeCell (d : Dev) (sp : Nat) (c : Cell) : Dev :=
  let d := telD d (0x3000 + sp * 0x40 + 0x20) 1
  let key := frameKey sp c.frame
  let f := (tget? d.sw.frames key).getD
    ⟨sp, c.output, c.cls, c.count, [], [], 0, bitOf (rf d (0x04800100 + 4 * c.output) 0 8) c.cls, false, d.sw.stamps, 128, c.src,
      c.dst, c.ctx, zeros (128 * c.count)⟩
  let d := { d with sw := { d.sw with stamps := d.sw.stamps + 1 } }
  let f := { f with bytes := splice f.bytes (128 * c.index) (slice c.bytes 0 128),
                    last := if c.index + 1 = f.cells then min 128 c.bytes.length else f.last }
  let lane := if cellRoom d f.output f.cls && !d.sw.waiting.any (fun w => w.1 = sp && w.2.2.1 = f.output && w.2.2.2.1 = f.cls)
    then freeLane d f.output else none
  if f.aborted then
    dropAborted { d with sw := { d.sw with frames := tput d.sw.frames key { f with got := f.got ++ [c.index] } } } key
  else if !c.ok then dropAborted (abortFrame d key { f with got := f.got ++ [c.index] }) key
  else
    match lane with
    | some m => releaseAll (unstage (stageCell d key c.index f m))
    | none =>
      if f.cls = 7 then dropAborted (abortFrame (telD d 0x3818 1) key { f with got := f.got ++ [c.index] }) key
      else { d with sw := { d.sw with frames := tput d.sw.frames key f,
                                      waiting := d.sw.waiting ++ [(sp, c.frame, f.output, f.cls, c.index)] } }

/-- No cell of a Golven input waits any longer: the credits withheld from its peer go back (R378). -/
def returnWithheld (d : Dev) (sp : Nat) : Dev :=
  let l := sp - 12
  let k := linkOf d l
  if sp < 12 ∨ 20 ≤ sp ∨ k.withheld.isEmpty ∨ d.sw.waiting.any (fun w => w.1 == sp) then d
  else sendIdle (setLink d l { k with withheld := [], owed := k.withheld.foldl (fun o c => tput o c.1 (tget o c.1 0 + c.2)) k.owed }) l

/-- `CELL_RECEIVE` (R376). -/
def execCellReceive (sp : Nat) (cell : Cell) (s : State) : Host.Outcome State Fault Refusal :=
  onDev (.cellReceive sp cell) s (fun d => returnWithheld (takeCell d sp cell) sp)

/-- The first cell that waits at an input and whose output now has room goes there (R375, R378). -/
def admitWaiting (d : Dev) (sp : Nat) : Dev :=
  match d.sw.waiting.find? (fun w => w.1 = sp && cellRoom d w.2.2.1 w.2.2.2.1 && (freeLane d w.2.2.1).isSome) with
  | none => d
  | some w =>
    let key := frameKey w.1 w.2.1
    let lane := (freeLane d w.2.2.1).getD 0
    let d := { d with sw := { d.sw with waiting := d.sw.waiting.erase w } }
    match tget? d.sw.frames key with
    | some f => releaseAll (unstage (stageCell d key w.2.2.2.2 f lane))
    | none => d

/-- `CELL_ADMIT` (R378). -/
def execCellAdmit (sp : Nat) (s : State) : Host.Outcome State Fault Refusal :=
  onDev (.cellAdmit sp) s (fun d => returnWithheld (admitWaiting d sp) sp)

/-- The auditor at one buffer (R384). -/
def auditBuf (d : Dev) (k : Nat) (b : CellBuf) : Dev :=
  if b.onFree && b.holder then
    logErr (telD d 0x3808 1) 10 3 8 0 0xFFFF (errBody 0 0 0 0xFFFF k 1)
  else if b.holder then { d with sw := { d.sw with bufs := tput d.sw.bufs k { b with suspect := false } } }
  else if b.suspect then
    logErr (telD { d with sw := { d.sw with bufs := tdel d.sw.bufs k } } 0x3800 1) 10 0 8 0 0xFFFF (errBody 0 0 0 0xFFFF k 1)
  else { d with sw := { d.sw with bufs := tput d.sw.bufs k { b with suspect := true } } }

/-- `AUDIT_PASS` (R384). -/
def execAuditPass (s : State) : Host.Outcome State Fault Refusal :=
  onDev .auditPass s (fun d =>
    if rf d 0x04800000 0 1 = 1 then d.sw.bufs.foldl (fun d b => auditBuf d b.1 b.2) d else d)

end Sys2Proof.Machine
end

