-- ==== Sys2Proof/Machine/Object.lean ====
section
/-! DEFINITION. The object messages: OBJ_CREATE, OBJ_MODIFY, OBJ_QUERY and OBJ_DESTROY of every type of object (R49 to
R53, R63 to R68, R78, R180, R181, R190 to R192, R220 to R222, R249 to R252, R275, R276, R299, R338, R339, R459 to R464,
R485, R486). -/

namespace Sys2Proof.Machine

open Sys2Proof

/-! ### What the four messages share (R49, R50, R53) -/

/-- OBJ_TYPE of a request. -/
def objType (s : Service) : Nat := s.f 8 1

/-- The parameters: those carried INLINE, else the parameter block. -/
def objParams (s : Service) : Bytes := if [1, 2, 9].contains (objType s) then slice s.req 40 24 else s.params.getD []

/-- The least privilege to create, modify or destroy an object of a type. -/
def minPriv (type : Nat) : Nat := if type = 1 then 3 else if type = 4 then 2 else 1

/-- The parameters of a context are in range and its reserved fields zero. -/
def ctxParamsOk (b : Bytes) : Bool :=
  let first := fieldAt b 6 2
  let count := fieldAt b 8 2
  decide (fieldAt b 0 1 < 8) && decide (fieldAt b 1 1 < 2) && decide (fieldAt b 2 2 ≤ 4096) && decide (fieldAt b 5 1 = 0) &&
    allZero (slice b 10 14) && decide (count ≤ 64) &&
    (decide (count = 0) || (decide (fieldAt b 4 1 ≤ 11) && decide (16 ≤ first) && decide (first ≤ 2047) && decide (first + count ≤ 2048)))

/-- The INLINE parameters of a range: CTX_START, RIGHTS, LENGTH and UNI_START. -/
def rangeParams (b : Bytes) : Nat × Nat × Nat × Nat :=
  let a := fieldAt b 0 8
  (a / 4096 * 4096, a % 16, fieldAt b 8 8, fieldAt b 16 8)

/-- The INLINE parameters of a range are well formed. -/
def rangeParamsOk (b : Bytes) : Bool :=
  let (_, _, n, u) := rangeParams b
  decide (fieldAt b 0 8 / 16 % 256 = 0) && decide (fieldAt b 0 8 < 2 ^ 48) && decide (n ≠ 0) && decide (n % 4096 = 0) &&
    decide (u % 4096 = 0) && decide (u + n ≤ 2 ^ 44)

/-- The INLINE parameters of a region have their reserved fields zero. -/
def regionParamsOk (b : Bytes) : Bool :=
  decide (fieldAt b 0 2 < 2) && decide (fieldAt b 2 2 = 0) && allZero (slice b 20 4) &&
    (List.range 8).all (fun i => bits (fieldAt b (4 + 2 * i) 2) 11 4 == 0)

/-- The first check of an object message that fails: `op` is 0 create, 1 modify, 2 query, 3 destroy.  The form of the body,
the INLINE parameters among it, comes before every other check (R43).  A modify of a context is judged with its fields
(R49, R461). -/
def objFault (d : Dev) (s : Service) (op : Nat) : Option (Nat × Nat) :=
  let t := objType s
  let len := s.f 24 4
  let target := bitOf (s.f 12 2) 15
  let need := if op = 2 then 1 else if op = 1 ∧ t = 1 then 1 else minPriv t
  firstFault
    [(decide (s.f 9 1 ≠ 0) || decide (s.f 14 2 ≠ 0) || decide (bits (s.f 12 2) 9 6 ≠ 0), 0x43, 3),
     (decide (t = 0) || decide (t > 10) || (decide (op = 0) && decide (s.f 10 2 ≠ 0)) ||
        (decide (op < 2) && [1, 2, 9].contains t && decide (len ≠ 0)), 0x43, 4),
     (decide (op < 2) && decide (t = 9) && !regionParamsOk (objParams s), 0x43, 3),
     (decide (op < 2) && ((decide (t = 1) && !ctxParamsOk (objParams s)) || (decide (t = 2) && !rangeParamsOk (objParams s))),
        0x43, 4),
     (decide (op < 2) && decide (len > 2 ^ 24), 0x15, 3),
     ((target && decide (hPriv s.hdr < 3)) || decide (hPriv s.hdr < need), 0x11, 0),
     (!ctxExists d (issuingCtx s), 0x16, 1),
     (decide (op = 2) && [3, 5, 6, 7].contains t && decide (s.f 28 4 ≠ 0) && decide (s.f 28 4 < 64), 0x15, 4),
     (decide (op < 2) && s.paramErr, 0x15, 1)]

/-- The owner of a device-scoped object; none where there is no such object. -/
def ownerOf (d : Dev) (type idx : Nat) : Option Nat :=
  if type = 1 then (if ctxExists d idx then some idx else none)
  else if type = 4 then (tget? d.formes idx).map (·.ctx)
  else if type = 5 then (tget? d.slots idx).map (·.ctx)
  else (tget? d.regions idx).map (·.owner)

/-- A context-scoped object exists; a RETIRING range does not (R68). -/
def scopedExists (d : Dev) (ctx type idx : Nat) : Bool :=
  if type = 2 then ((tget? (ctxOf d ctx).ranges idx).any (fun r => r.valid))
  else if type = 3 then decide (idx < 8) && thas d.galleys (gkey ctx idx)
  else thas d.objs (objKey ctx (type * 4096 + idx))

/-- What is wrong with the handle of a modify, query or destroy: a DETAIL of HANDLE_FAULT.  A region's owner check does
not stop a query (log entry 35). -/
def handleCheck (d : Dev) (s : Service) (op : Nat) : Option Nat :=
  let t := objType s
  let h := s.f 10 2
  let idx := h % 4096
  if h / 4096 ≠ t then some 3
  else if [1, 4, 5, 9].contains t then
    match ownerOf d t idx with
    | none => some 1
    | some c =>
      if (t = 1 ∧ hPriv s.hdr = 3) ∨ (t = 9 ∧ op = 2) then none
      else if c ≠ issuingCtx s then some 2
      else none
  else if scopedExists d (issuingCtx s) t idx then none
  else some 1

/-- What an object message came to: the device, and the refusal or the index with its INLINE result. -/
abbrev ObjOut := Dev × Except Answer (Nat × Bytes)

/-- A refusal that leaves the device as it was. -/
def objNo (d : Dev) (status detail : Nat) : ObjOut := (d, .error (refuse status detail))

/-- A command that still holds its tag names a handle of a context (R51): ATTEND a slot, the table, index and ENCODE
commands their object, RUN a kernel.  DECODE names none (R307). -/
def namedBy (d : Dev) (ctx handle : Nat) : Bool :=
  let ops := match handle / 4096 with
    | 5 => [0x01]
    | 6 => [0x08, 0x09, 0x0A]
    | 7 => [0x10, 0x11, 0x12]
    | 8 => [0x18]
    | 10 => [0x28]
    | _ => []
  d.cmds.any (fun c => c.2.ctx = ctx && ops.contains c.2.opcode && c.2.f 32 2 = handle)

/-- The lowest free index of a context-scoped type. -/
def freeScoped (d : Dev) (ctx type n : Nat) : Option Nat :=
  lowestFree ((tkeys d.objs).map (fun k => k - objKey ctx (type * 4096) + (if k < objKey ctx (type * 4096) then n else 0))) 0 n

/-- The ON floe that is home to the fewest of a list of homes, the lower number on a tie; 4 where no floe is ON. -/
def chooseHome (d : Dev) (homes : List Nat) : Nat :=
  ((List.range 4).foldl (fun (b : Nat × Nat) f =>
    let n := (homes.filter (· = f)).length
    if floeOn d f ∧ (b.1 = 4 ∨ n < b.2) then (f, n) else b) (4, 0)).1

/-- The status with which a run of context addresses fails a check that every line lies in a range with the rights
needed: 1 R, 2 W, 3 both. -/
def coverFault (d : Dev) (ctx need : Nat) : Nat → Nat → Nat → Option Nat
  | 0, _, _ => some 0x10
  | n + 1, a, len =>
    if len = 0 then none
    else
      match tableRange d ctx a with
      | none => some 0x10
      | some (_, r) =>
        if (bitOf need 0 && !r.r) || (bitOf need 1 && !r.w) then some 0x11
        else
          let k := r.start + r.len - a
          if len ≤ k then none else coverFault d ctx need n (a + k) (len - k)

/-- The same for a list of runs, the first failure deciding. -/
def coverFaults (d : Dev) (ctx : Nat) (l : List (Nat × Nat × Nat)) : Option Nat :=
  l.findSome? (fun x => coverFault d ctx x.2.2 4097 x.1 x.2.1)

/-! ### Contexts (R459 to R461) -/

/-- The parameters of a context as in force. -/
def ctxBytes (x : Ctx) : Bytes :=
  leBytes 1 x.qos ++ leBytes 1 (b2n x.irqHold) ++ leBytes 2 x.quota ++ leBytes 1 x.vecPort ++ [0] ++ leBytes 2 x.vecFirst ++
    leBytes 2 x.vecCount ++ zeros 14

/-- The INLINE result of a context. -/
def ctxInline (d : Dev) (n : Nat) : Bytes :=
  let x := ctxOf d n
  leBytes 1 (b2n x.reset.isSome) ++ leBytes 1 x.qos ++ leBytes 2 (ctxTags d n) ++ leBytes 4 x.resets ++ ctxBytes x

/-- The context with parameters. -/
def Ctx.with (x : Ctx) (b : Bytes) : Ctx :=
  { x with qos := fieldAt b 0 1 % 8, irqHold := bitOf (fieldAt b 1 1) 0, quota := if fieldAt b 2 2 = 0 then 4096 else fieldAt b 2 2,
           vecPort := fieldAt b 4 1, vecFirst := fieldAt b 6 2, vecCount := fieldAt b 8 2 }

/-- The vector run of some parameters overlaps that of another context on the same port. -/
def vecOverlap (d : Dev) (n : Nat) (y : Ctx) : Bool :=
  decide (0 < y.vecCount) && d.ctxs.any (fun c => c.1 != n && decide (0 < c.2.vecCount) && c.2.vecPort == y.vecPort &&
    decide (c.2.vecFirst < y.vecFirst + y.vecCount) && decide (y.vecFirst < c.2.vecFirst + c.2.vecCount))

/-- A context holds the MSI-X entry of a VECTOR (R464). -/
def holdsVector (x : Ctx) (v : Nat) : Bool :=
  decide (v < 2 ^ 15) && bits v 11 4 == x.vecPort && decide (x.vecFirst ≤ bits v 0 11) && decide (bits v 0 11 < x.vecFirst + x.vecCount)

/-- Creates a context. -/
def createCtx (d : Dev) (s : Service) : ObjOut :=
  let b := objParams s
  match lowestFree (tkeys d.ctxs) 0 512 with
  | none => objNo d 0x40 1
  | some n =>
    let y := Ctx.fresh.with b
    if vecOverlap d n y then objNo d 0x40 11
    else
      let d := { d with ctxs := tput d.ctxs n y }
      (d, .ok (n, ctxInline d n))

/-- Releases the device-pending entries of a context in ascending order (R465). -/
def releaseHeld (d : Dev) (n : Nat) : Dev :=
  let x := ctxOf d n
  (List.range x.vecCount).foldl (fun d i =>
    let e := x.vecFirst + i
    let p := portOf d x.vecPort
    if (vecOf p e).held then
      sendVec (setPort d x.vecPort { p with vecs := tput p.vecs e { vecOf p e with held := false } }) x.vecPort e
    else d) d

/-- Modifies a context (R461): fetching goes by the old class and quota until the reply is written (R52). -/
def modifyCtx (d : Dev) (mb : Nat) (s : Service) (n : Nat) : ObjOut :=
  let b := objParams s
  let x := ctxOf d n
  let y := x.with b
  let y := { y with old := if y.qos = x.qos ∧ y.quota = x.quota then x.old else x.old ++ [(mb, s.id, x.qos, x.quota)] }
  let holdOnly := decide ({ y with irqHold := x.irqHold } = x)
  if hPriv s.hdr < 3 ∧ !holdOnly then objNo d 0x11 0
  else if x.reset.isSome ∧ !holdOnly then objNo d 0x41 0
  else if (List.range 8).any (fun g => thas d.galleys (gkey n g) && (galleyOf d n g).irqEn &&
      !holdsVector y (fieldAt (galleyOf d n g).par 28 2)) ∧ !holdOnly then objNo d 0x41 0
  else if vecOverlap d n y then objNo d 0x40 11
  else
    let d := { d with ctxs := tput d.ctxs n y }
    let d := if x.irqHold ∧ !y.irqHold then releaseHeld d n else d
    (d, .ok (n, ctxInline d n))

/-- A context owns an object of another type. -/
def ownsObject (d : Dev) (n : Nat) : Bool :=
  !(ctxOf d n).allRanges.isEmpty || d.galleys.any (fun g => g.1 / 8 = n) || d.objs.any (fun o => o.1 / 65536 = n) ||
    d.slots.any (fun x => x.2.ctx = n) || d.formes.any (fun x => x.2.ctx = n) || d.regions.any (fun x => x.2.owner = n)

/-- Destroys a context (R51, R75, R355, R460): its pages return to unplaced (R90), and it is no version's publisher any
longer (R84). -/
def destroyCtx (d : Dev) (n : Nat) : ObjOut :=
  if n = 0 ∨ (ctxOf d n).reset.isSome ∨ ownsObject d n ∨ d.cmds.any (fun c => c.2.ctx = n) ∨
      d.ports.any (fun p => p.2.decoders.any (fun x => x.2.ctx = some n)) ∨
      d.orphans.any (fun o => (pageOf d (pageOfLine o.1)).owner = n && !(pageOf d (pageOfLine o.1)).region) then objNo d 0x40 2
  else
    let d := { d with ctxs := tdel d.ctxs n,
                      regions := d.regions.map (fun r => (r.1, { r.2 with versions := r.2.versions.map (fun v =>
                        (v.1, { v.2 with publisher := v.2.publisher.filter (· ≠ n) })) })) }
    ((tkeys (d.pages.filter (fun p => p.2.owner = n && !p.2.region && p.2.tier ≠ 0))).foldl unplacePage d, .ok (n, []))

/-! ### Versions of regions (R84) -/

/-- A version is retained: it is current, or a range, RETIRING ones included, binds it. -/
def retainedVersion (d : Dev) (idx ver : Nat) : Bool :=
  (tget? d.regions idx).any (fun r => r.current == ver) ||
    d.ctxs.any (fun c => c.2.allRanges.any (fun r => r.2.region == some (idx, ver)))

/-- Returns the pages of a version to its publisher, or unplaces them where it no longer exists; a page that holds an
orphan line is not unplaced and keeps its owner (R355). -/
def returnPages (d : Dev) (v : Version) : Dev :=
  let own := v.publisher.filter (ctxExists d)
  (tkeys (d.pages.filter (fun p => p.2.region && decide (v.start / 65536 ≤ p.1) && decide (p.1 * 65536 < v.start + v.len)))).foldl
    (fun d p =>
      match own with
      | some c => setPage d p { pageOf d p with region := false, owner := c, version := 0 }
      | none => if d.orphans.any (fun o => pageOfLine o.1 = p) then d else unplacePage d p) d

/-- Event 0x0007 for a region: its owner, and the publisher while it exists. -/
def versionEvent (d : Dev) (idx : Nat) (v : Version) : Dev :=
  let own := (tget? d.regions idx).map (·.owner)
  eventCtx d 7 0 (0x9000 + idx) (own.toList ++ (v.publisher.filter (ctxExists d)).toList)

/-- A version that nothing retains any longer retires. -/
def retireVersion (d : Dev) (idx ver : Nat) : Dev :=
  match tget? d.regions idx with
  | none => d
  | some r =>
    match tget? r.versions ver with
    | none => d
    | some v =>
      if retainedVersion d idx ver then d
      else
        let d := returnPages { d with regions := tput d.regions idx { r with versions := tdel r.versions ver } } v
        versionEvent d idx v

/-! ### Ranges (R63 to R68, R338, R339) -/

/-- Two runs of unified addresses share a placement page. -/
def sharePage (u n v m : Nat) : Bool :=
  decide (u / 65536 ≤ (v + m - 1) / 65536) && decide (v / 65536 ≤ (u + n - 1) / 65536)

/-- The placed pages that a run of unified addresses touches. -/
def pagesIn (d : Dev) (u n : Nat) : List (Nat × Page) :=
  d.pages.filter (fun p => p.2.tier ≠ 0 && decide (u / 65536 ≤ p.1) && decide (p.1 ≤ (u + n - 1) / 65536))

/-- COHERENT may not be as asked for a run (R66, R339); `self` is the context and index of a range being modified. -/
def cohRefused (d : Dev) (self : Option (Nat × Nat)) (u n : Nat) (coh : Bool) : Bool :=
  d.ctxs.any (fun c => c.2.allRanges.any (fun r =>
    self != some (c.1, r.1) && r.2.coh != coh && sharePage u n r.2.uni r.2.len)) ||
  (coh && (pagesIn d u n).any (fun p => p.2.region || p.2.tier == 3 || p.2.tier == 4))

/-- A run of context addresses overlaps a valid range of a context. -/
def ctxOverlap (d : Dev) (ctx a n : Nat) : Bool :=
  (ctxOf d ctx).ranges.any (fun r => r.2.valid && decide (r.2.start < a + n) && decide (a < r.2.start + r.2.len))

/-- The 32-byte entry of a range (R63). -/
def rangeBytes (r : Range) : Bytes :=
  leBytes 8 r.start ++ leBytes 8 r.len ++ leBytes 8 r.uni ++ leBytes 1 (b2n r.r + 2 * b2n r.w + 4 * b2n r.a + 8 * b2n r.coh) ++
    leBytes 1 (1 + 2 * b2n r.region.isSome) ++
    (match r.region with | some (i, v) => leBytes 2 (0x9000 + i) ++ leBytes 4 v | none => zeros 6)

/-- Creates a range.  Commands in flight see it too, unless an entry they were fetched under holds the address (DESIGN CHOICE, log
entry 64): R68 speaks of modify and destroy only. -/
def createRange (d : Dev) (s : Service) : ObjOut :=
  let c := issuingCtx s
  let b := objParams s
  let (a, rts, n, u) := rangeParams b
  let coh := bitOf rts 3
  if hPriv s.hdr < 3 ∧ (pagesIn d u n).any (fun p => p.2.region || p.2.owner != c) then objNo d 0x11 0
  else
    match lowestFree (tkeys (ctxOf d c).ranges) 0 4096 with
    | none => objNo d 0x40 1
    | some i =>
      if ctxOverlap d c a n then objNo d 0x40 6
      else if cohRefused d none u n coh then objNo d 0x40 7
      else
        let r : Range := ⟨a, n, u, bitOf rts 0, bitOf rts 1, bitOf rts 2, coh, none, 0, none, none, none, (ctxOf d c).made⟩
        (modCtx d c (fun x => { x with ranges := tput x.ranges i r, made := x.made + 1 }), .ok (i, []))

/-- Modifies a range: RIGHTS only (R67).  The new entry takes the index at once; commands use it, and the old one is
RETIRING for them, from the reply on (R52, R68). -/
def modifyRange (d : Dev) (mb : Nat) (s : Service) (i : Nat) : ObjOut :=
  let c := issuingCtx s
  let (a, rts, n, u) := rangeParams (objParams s)
  match tget? (ctxOf d c).ranges i with
  | none => objNo d 0x16 1
  | some r =>
    if r.region.isSome then objNo d 0x11 0
    else if a ≠ r.start ∨ n ≠ r.len ∨ u ≠ r.uni then objNo d 0x43 4
    else if bitOf rts 3 ≠ r.coh ∧ cohRefused d (some (c, i)) u n (bitOf rts 3) then objNo d 0x40 7
    else
      let g := (ctxOf d c).gen + 1
      let r' : Range := { r with r := bitOf rts 0, w := bitOf rts 1, a := bitOf rts 2, coh := bitOf rts 3, born := g,
                                 bornBy := some (mb, s.id) }
      let d := modCtx d c (fun x => { x with ranges := tput x.ranges i r',
                                             oldRanges := x.oldRanges ++ [(i, { r with upto := some g, uptoBy := some (mb, s.id) })] })
      (retireRanges d c, .ok (i, []))

/-- Marks a range RETIRING (R68): for commands at once, or from the reply of a message on. -/
def endRange (d : Dev) (c i : Nat) (by_ : Option (Nat × Nat)) : Dev :=
  let g := (ctxOf d c).gen + 1
  retireRanges (modCtx d c (fun x => { x with
    gen := if by_.isNone then g else x.gen
    ranges := tmod x.ranges i (fun r => { r with upto := some g, uptoBy := by_ }) })) c

/-- Destroys a range; one of a binding only through REGION_RELEASE (R83). -/
def destroyRange (d : Dev) (mb : Nat) (s : Service) (i : Nat) : ObjOut :=
  let c := issuingCtx s
  match tget? (ctxOf d c).ranges i with
  | none => objNo d 0x16 1
  | some r =>
    if r.region.isSome then objNo d 0x16 3
    else (endRange d c i (some (mb, s.id)), .ok (i, []))

/-! ### Galleys (R190 to R192) -/

/-- The INLINE result of a galley. -/
def galleyInline (d : Dev) (c g : Nat) : Bytes :=
  let x := galleyOf d c g
  leBytes 1 x.state ++ leBytes 1 x.home ++ leBytes 2 (inFlight d c g) ++ leBytes 4 x.cmdHead ++ leBytes 4 x.cmdTail ++
    leBytes 4 x.proofTail ++ leBytes 4 x.proofHead ++ leBytes 2 (g * 0x40)

/-- A galley's parameter block is well formed for a context. -/
def galleyParamsOk (x : Ctx) (b : Bytes) (len : Nat) : Bool :=
  let fl := fieldAt b 27 1
  let home := fieldAt b 26 1
  decide (len = 64) && decide (fl < 8) && decide (fieldAt b 30 2 < 4096) && allZero (slice b 44 20) &&
    decide (fieldAt b 0 8 % 64 = 0) && decide (fieldAt b 8 8 % 64 = 0) && decide (fieldAt b 16 8 % 8 = 0) &&
    decide (4 ≤ fieldAt b 24 1) && decide (fieldAt b 24 1 ≤ 16) && decide (4 ≤ fieldAt b 25 1) && decide (fieldAt b 25 1 ≤ 16) &&
    (decide (home ≤ 3) || decide (home = 0xFF)) && decide (fieldAt b 34 2 ≤ 4096) &&
    (!bitOf fl 1 || (decide (fieldAt b 16 8 ≠ 0) && decide (1000 ≤ fieldAt b 40 4) && decide (fieldAt b 40 4 ≤ 1000000))) &&
    (!bitOf fl 0 || holdsVector x (fieldAt b 28 2))

/-- The floe that a block asks for: the one it names, or the choice among the homes of the others. -/
def pickHome (d : Dev) (want : Nat) (homes : List Nat) : Nat := if want = 0xFF then chooseHome d homes else want

/-- Creates a galley. -/
def createGalley (d : Dev) (s : Service) : ObjOut :=
  let c := issuingCtx s
  let b := slice (objParams s) 0 64
  let home := pickHome d (fieldAt b 26 1) (d.galleys.map (·.2.home))
  let shadow := fieldAt b 16 8
  if !galleyParamsOk (ctxOf d c) b (s.f 24 4) then objNo d 0x43 4
  else if bitOf (fieldAt b 27 1) 2 ∧ hPriv s.hdr < 3 then objNo d 0x11 0
  else
    match coverFaults d c [(fieldAt b 0 8, 64 * 2 ^ fieldAt b 24 1, 1), (shadow, if shadow = 0 then 0 else 8, 1),
        (fieldAt b 8 8, 64 * 2 ^ fieldAt b 25 1, 2)] with
    | some st => objNo d st 0
    | none =>
      match lowestFree ((tkeys (d.galleys.filter (fun g => g.1 / 8 = c))).map (· % 8)) 0 8 with
      | none => objNo d 0x40 1
      | some g =>
        if !floeOn d home then objNo d 0x42 0
        else
          let d := { d with galleys := tput d.galleys (gkey c g) { Galley.none with par := b, home := home, applied := b } }
          (d, .ok (g, galleyInline d c g))

/-- Modifies a galley (R192).  Commands are fetched under the old rings and home until the reply is written (R52).  One that sets
IMPRESS_ALLOWED without privilege 3 is refused as a creation is (DESIGN CHOICE, log entry 65): R192 is silent. -/
def modifyGalley (d : Dev) (mb : Nat) (s : Service) (g : Nat) : ObjOut :=
  let c := issuingCtx s
  let b := slice (objParams s) 0 64
  let x := galleyOf d c g
  let home := if fieldAt b 26 1 = 0xFF then chooseHome d ((d.galleys.filter (fun k => k.1 ≠ gkey c g)).map (·.2.home)) else fieldAt b 26 1
  let ring := slice b 0 16 ≠ slice x.par 0 16 ∨ slice b 24 2 ≠ slice x.par 24 2 ∨ home ≠ x.home ∨
    bitOf (fieldAt b 27 1) 2 ≠ bitOf (fieldAt x.par 27 1) 2
  if !galleyParamsOk (ctxOf d c) b (s.f 24 4) then objNo d 0x43 4
  else if bitOf (fieldAt b 27 1) 2 ∧ !bitOf (fieldAt x.par 27 1) 2 ∧ hPriv s.hdr < 3 then objNo d 0x11 0
  else if (ctxOf d c).reset.isSome ∨ (ring ∧ x.state ≠ 0) then objNo d 0x41 0
  else if ring ∧ !floeOn d home then objNo d 0x42 0
  else
    let y := { x with par := b, home := home }
    let y := if ring then
        { y with cmdTail := 0, cmdHead := 0, proofTail := 0, proofHead := 0, old := x.old ++ [(mb, s.id, x.par, x.home)] } else y
    let d := if ring then freshGalley d c g else d
    ({ d with galleys := tput d.galleys (gkey c g) y }, .ok (g, []))

/-- Destroys a galley (R192). -/
def destroyGalley (d : Dev) (s : Service) (g : Nat) : ObjOut :=
  let c := issuingCtx s
  let x := galleyOf d c g
  if x.state = 0 ∨ (x.state = 3 ∧ inFlight d c g = 0 ∧ x.done = []) then
    let d := freshGalley d c g
    ({ d with galleys := tdel d.galleys (gkey c g) }, .ok (g, []))
  else objNo d 0x40 2

/-! ### Sequence slots (R220 to R222) -/

/-- The INLINE result of a slot: its handoff STATE and OWNER_EPOCH. -/
def slotInline (x : Slot) : Bytes := leBytes 1 x.state ++ zeros 3 ++ leBytes 4 x.epoch

/-- A slot's parameter block is well formed. -/
def slotParamsOk (b : Bytes) (len : Nat) : Bool :=
  let fl := fieldAt b 42 1
  let scale := fieldAt b 28 4
  let heads := fieldAt b 34 1
  let kv := fieldAt b 35 1
  let kf := fieldAt b 39 1
  let qf := fieldAt b 40 1
  let exp := bits scale 23 8
  decide (len = 64) && decide (fieldAt b 8 8 % 8 = 0) && decide (fieldAt b 16 8 % 64 = 0) &&
    decide (1 ≤ fieldAt b 24 4) && decide (fieldAt b 24 4 ≤ 262144) && !bitOf scale 31 && decide (exp ≠ 0) && decide (exp ≠ 255) &&
    decide (1 ≤ fieldAt b 32 2) && decide (fieldAt b 32 2 ≤ 256) && decide (1 ≤ heads) && decide (heads ≤ 128) &&
    decide (1 ≤ kv) && decide (kv ≤ heads) && decide (heads % kv = 0) && [32, 64, 128, 256].contains (fieldAt b 36 2) &&
    decide (6 ≤ fieldAt b 38 1) && decide (fieldAt b 38 1 ≤ 9) && [0, 1, 7].contains kf &&
    (if kf = 7 then decide (qf = 7) else decide (qf ≤ 6)) && decide (7 ≤ fieldAt b 41 1) && decide (fieldAt b 41 1 ≤ 9) &&
    decide (fl < 8) && (decide (fieldAt b 43 1 ≤ 3) || decide (fieldAt b 43 1 = 0xFF)) && decide (1 ≤ fieldAt b 44 1) &&
    decide (fieldAt b 44 1 ≤ 16) && allZero (slice b 45 19) &&
    !((bitOf fl 0 && decide (kf = 7)) || (bitOf fl 1 && decide (qf = 7)) || (bitOf fl 2 && decide (fieldAt b 16 8 = 0)))

/-- Creates a sequence slot. -/
def createSlot (d : Dev) (s : Service) : ObjOut :=
  let b := slice (objParams s) 0 64
  let home := pickHome d (fieldAt b 43 1) (d.slots.map (·.2.home))
  if !slotParamsOk b (s.f 24 4) then objNo d 0x43 4
  else
    match lowestFree (tkeys d.slots) 0 4096 with
    | none => objNo d 0x40 1
    | some i =>
      if !floeOn d home then objNo d 0x42 0
      else
        let x : Slot := { ctx := issuingCtx s, par := b, home := home, state := 0, epoch := 0, offer := 0, floor := 0, peerNode := 0,
                          peerSlot := 0, attended := false, give := none, old := [] }
        ({ d with slots := tput d.slots i x }, .ok (i, []))

/-- A slot block with the fields that may always change taken as zero (R222). -/
def slotFixed (b : Bytes) (home : Nat) : Bytes :=
  splice (splice (splice (splice b 8 (zeros 16)) 42 (leBytes 1 (setBits (fieldAt b 42 1) 2 1 0))) 43 (leBytes 1 home)) 45 []

/-- Modifies a sequence slot (R222): commands are fetched under the old parameters until the reply is written (R52). -/
def modifySlot (d : Dev) (mb : Nat) (s : Service) (i : Nat) : ObjOut :=
  let b := slice (objParams s) 0 64
  match tget? d.slots i with
  | none => objNo d 0x16 1
  | some x =>
    let home := if fieldAt b 43 1 = 0xFF then chooseHome d ((d.slots.filter (fun k => k.1 ≠ i)).map (·.2.home)) else fieldAt b 43 1
    if !slotParamsOk b (s.f 24 4) then objNo d 0x43 4
    else if slotFixed b home ≠ slotFixed x.par x.home ∧ namedBy d x.ctx (0x5000 + i) then objNo d 0x41 0
    else if home ≠ x.home ∧ !floeOn d home then objNo d 0x42 0
    else
      ({ d with slots := tput d.slots i { x with par := b, home := home, old := x.old ++ [(mb, s.id, x.par, x.home)] } },
        .ok (i, []))

/-! ### Embedding tables (R249, R251) -/

/-- A table's parameter block is well formed. -/
def tableParamsOk (b : Bytes) (len : Nat) : Bool :=
  let t := tabOf b
  decide (len = 64) && decide (t.store % 64 = 0) && decide (t.work % 65536 = 0) && decide (1 ≤ t.rows) && decide (t.rows ≤ 2 ^ 31) &&
    decide (t.rows + 64 ≤ t.slots) && decide (t.rows ≤ t.hot) && decide (t.hot ≤ t.slots) && decide (1 ≤ t.cols) &&
    decide (t.cols ≤ 1024) && (t.codeBits == 8 || (t.codeBits == 4 && decide (t.cols % 2 = 0))) &&
    decide (fieldAt b 28 2 + t.cols ≤ fieldAt b 32 2) && decide (fieldAt b 32 2 ≤ 16384) && decide (fieldAt b 35 1 = 0) &&
    allZero (slice b 38 26)

/-- The INLINE result of a table. -/
def tableInline (d : Dev) (key : Nat) : Bytes :=
  let t := tabOf (((tget? d.objs key).map (·.par)).getD [])
  leBytes 4 (tabNum d key 0) ++ leBytes 4 (tabNum d key 1) ++ leBytes 4 (poolFree d key t false) ++
    leBytes 4 (poolFree d key t true) ++ leBytes 4 (tabNum d key 8) ++ leBytes 4 (oldestKept d key 4096) ++ leBytes 2 t.slotBytes

/-- What is wrong with the FORME of a table (R251): a value that is no forme handle names no forme. -/
def tableForme (d : Dev) (ctx h : Nat) : Option Nat :=
  if h = 0 then none
  else if h / 4096 ≠ 4 then some 1
  else
    match tget? d.formes (h % 4096) with
    | none => some 1
    | some f => if f.ctx = ctx then none else some 2

/-- Adds an object of a context-scoped type at its lowest free index. -/
def addObj (d : Dev) (c type n : Nat) (o : Obj) (inl : Dev → Nat → Bytes) : ObjOut :=
  match freeScoped d c type n with
  | none => objNo d 0x40 1
  | some i =>
    let key := objKey c (type * 4096 + i)
    let d := { d with objs := tput d.objs key o }
    (d, .ok (i, inl d key))

/-- Creates a table. -/
def createTable (d : Dev) (s : Service) : ObjOut :=
  let c := issuingCtx s
  let b := slice (objParams s) 0 64
  let t := tabOf b
  if !tableParamsOk b (s.f 24 4) then objNo d 0x43 4
  else
    match tableForme d c t.forme with
    | some e => objNo d 0x16 e
    | none =>
      match coverFaults d c [(t.store, t.slots * t.slotBytes, 3),
          (t.work, roundUp (16 * t.rows + 12 * (t.slots - t.rows)) 65536, 3)] with
      | some st => objNo d st 0
      | none => addObj d c 6 256 ⟨b, []⟩ (fun _ _ => [])

/-! ### Search indexes (R275, R276) -/

/-- An index's parameter block is well formed. -/
def indexParamsOk (b : Bytes) (len : Nat) : Bool :=
  let x := idxOf b
  decide (len = 64) && decide (x.vec % 64 = 0) && decide (x.meta_ % 64 = 0) && decide (x.nbr % 64 = 0) && decide (x.proj % 64 = 0) &&
    decide (x.work % 65536 = 0) && decide (1 ≤ x.vectors) && decide (x.vectors ≤ 2 ^ 31) && decide (1 ≤ x.segments) &&
    decide (x.segments ≤ 2 ^ 31) && decide (32 ≤ x.dim) && decide (x.dim ≤ 1024) && decide (x.dim % 32 = 0) && decide (1 ≤ x.tables) &&
    decide (x.tables ≤ 32) && decide (8 ≤ x.hbits) && decide (x.hbits ≤ 24) && [0, 1, 5, 7].contains x.fmt && decide (x.metric ≤ 1) &&
    decide (x.degree ≤ 64) && decide (8 ≤ x.segLog) && decide (x.segLog ≤ 16) && decide (fieldAt b 60 4 ≤ x.segments) &&
    (decide (x.degree = 0) == decide (x.nbr = 0))

/-- The INLINE result of an index. -/
def indexInline (d : Dev) (key : Nat) : Bytes :=
  leBytes 4 (tabNum d key 0) ++ leBytes 4 (tabNum d key 1) ++ leBytes 4 (tabNum d key 2) ++ leBytes 4 (tabNum d key 3)

/-- The vectors LIVE and TOMBSTONED in the meta array as it stands, read for the message that makes the index. -/
def countMeta (d : Dev) (mb : Nat) (s : Service) : W × Nat × Nat :=
  let c := issuingCtx s
  let x := idxOf (slice (objParams s) 0 64)
  (List.range x.vectors).foldl (fun (a : W × Nat × Nat) i =>
    let m := readMeta a.1 x i
    (m.1, a.2.1 + b2n (m.2.1 == 1), a.2.2 + b2n (m.2.1 == 2)))
    (W.start d [] c (ctxOf d c).gen ⟨4, 0, 0xFFFF, c, true, .svc mb s.id⟩, 0, 0)

/-- The refusal of an index's parameters and runs. -/
def indexFault (d : Dev) (s : Service) : Option (Nat × Nat) :=
  let b := slice (objParams s) 0 64
  let x := idxOf b
  if !indexParamsOk b (s.f 24 4) then some (0x43, 4)
  else (coverFaults d (issuingCtx s) [(x.vec, x.vectors * x.vs, 3), (x.meta_, 8 * x.vectors, 3),
        (x.nbr, 4 * x.degree * x.vectors, 3), (x.proj, x.tables * x.hbits * x.vs, 3),
        (x.work, x.dirBytes + x.segments * 2 ^ x.segLog, 3)]).map (fun st => (st, 0))

/-- What an index created with segments in use waits for: lines of its meta array that lie elsewhere or are copied. -/
def indexWaits (d : Dev) (mb : Nat) (s : Service) : Option Blocked :=
  if objType s ≠ 7 ∨ fieldAt (objParams s) 60 4 = 0 ∨ (indexFault d s).isSome then none else (countMeta d mb s).1.blocked

/-- Creates an index.  One created with segments in use counts its vectors from the meta array; where a line of it cannot be
read the counts are free values (log entry 35). -/
def createIndex (d : Dev) (mb : Nat) (s : Service) : ObjOut :=
  let c := issuingCtx s
  let b := slice (objParams s) 0 64
  let used := fieldAt b 60 4
  match indexFault d s with
  | some e => objNo d e.1 e.2
  | none =>
    if used = 0 then addObj d c 7 64 ⟨b, [(0, used), (1, 0), (2, 0)]⟩ indexInline
    else
      let r := countMeta d mb s
      let d := dropReads r.1.d (· == .svc mb s.id)
      if r.1.ok then addObj d c 7 64 ⟨b, [(0, used), (1, r.2.1), (2, r.2.2)]⟩ indexInline
      else addObj (useFree (useFree d)) c 7 64 ⟨b, [(0, used), (1, freeVal d % 2 ^ 32), (2, freeVal (useFree d) % 2 ^ 32)]⟩ indexInline

/-! ### Codebooks (R299) -/

/-- The INLINE result of a codebook. -/
def bookInline (b : Bytes) : Bytes := slice b 0 2 ++ zeros 2 ++ leBytes 4 (bookCrc (bookOf b))

/-- Creates a codebook. -/
def createBook (d : Dev) (s : Service) : ObjOut :=
  let len := s.f 24 4
  let b := slice (objParams s) 0 len
  let n := fieldAt b 0 2
  if n < 1 ∨ n > 4096 ∨ len ≠ 16 + 16 * n ∨ !allZero (slice b 2 14) then objNo d 0x43 4
  else addObj d (issuingCtx s) 8 256 ⟨b, []⟩ (fun _ _ => bookInline b)

/-! ### Kernels (R180, R181) -/

/-- C, the code bytes rounded up to 4 KiB. -/
def codeRoom (b : Bytes) : Nat := roundUp (fieldAt b 12 4) 4096

/-- Bytes of the kernel store in use. -/
def storeUsed (d : Dev) : Nat :=
  (d.objs.filter (fun o => o.1 % 65536 / 4096 = 10)).foldl (fun n o => n + codeRoom o.2.par + fieldAt o.2.par 20 4) 0

/-- The INLINE result of a kernel. -/
def kernelInline (b : Bytes) : Bytes := leBytes 4 (codeRoom b) ++ zeros 4 ++ slice b 48 8

/-- The checks of an image, in order.  DESIGN CHOICE (log entry 56): R181 lists no status for a code or data span that is not
aligned to 16 bytes, which is refused as one outside the image is, and none for an odd ENTRY or CODE_BYTES below 4, which
are accepted. -/
def kernelFault? (b : Bytes) (len : Nat) : Option (Nat × Nat) :=
  let code := fieldAt b 12 4
  let data := fieldAt b 20 4
  let room := codeRoom b
  firstFault
    [(decide (len < 128) || decide (fieldAt b 0 4 ≠ 0x314C4E4B) || decide (fieldAt b 4 2 ≠ 1) || decide (fieldAt b 6 2 ≠ 0) ||
        !allZero (slice b 56 72) || decide (fieldAt b 8 4 % 16 ≠ 0) || decide (fieldAt b 16 4 % 16 ≠ 0) ||
        decide (fieldAt b 8 4 + code > len) || decide (fieldAt b 16 4 + data > len), 0x43, 4),
     (decide (crc64 (b.drop 128) ≠ fieldAt b 48 8), 0x43, 7),
     (decide (fieldAt b 24 4 ≥ code) || decide (code > 2 ^ 20) || decide (fieldAt b 36 2 < 1) || decide (fieldAt b 36 2 > 64) ||
        decide (fieldAt b 38 2 < fieldAt b 36 2) || decide (fieldAt b 38 2 > 64) || decide (fieldAt b 40 4 > 4096) ||
        decide (fieldAt b 28 4 < 4096 + room + data) || decide (fieldAt b 28 4 + fieldAt b 32 4 > 0x7FF000), 0x40, 9)]

/-- Creates a kernel. -/
def createKernel (d : Dev) (s : Service) : ObjOut :=
  let len := s.f 24 4
  let b := slice (objParams s) 0 len
  match kernelFault? b len with
  | some e => objNo d e.1 e.2
  | none =>
    if (freeScoped d (issuingCtx s) 10 256).isNone then objNo d 0x40 1
    else if storeUsed d + codeRoom b + fieldAt b 20 4 > 2 ^ 28 then objNo d 0x40 10
    else addObj d (issuingCtx s) 10 256 ⟨b, []⟩ (fun _ _ => kernelInline b)

/-! ### Regions (R78, R84) -/

/-- A region with its FLAGS and ACCESS. -/
def Region.with (r : Region) (b : Bytes) : Region :=
  { r with open_ := bitOf (fieldAt b 0 2) 0, access := (List.range 8).map (fun i => fieldAt b (4 + 2 * i) 2) }

/-- Creates a region. -/
def createRegion (d : Dev) (s : Service) : ObjOut :=
  let b := objParams s
  match lowestFree (tkeys d.regions) 0 4096 with
  | none => objNo d 0x40 1
  | some i =>
    let r : Region := { owner := issuingCtx s, open_ := false, access := [], current := 0, versions := [] }
    ({ d with regions := tput d.regions i (r.with b) }, .ok (i, []))

/-- Modifies a region. -/
def modifyRegion (d : Dev) (s : Service) (i : Nat) : ObjOut :=
  ({ d with regions := tmod d.regions i (fun r => r.with (objParams s)) }, .ok (i, []))

/-- Destroys a region: the pages of every retained version return (R84). -/
def destroyRegion (d : Dev) (i : Nat) : ObjOut :=
  if d.ctxs.any (fun c => c.2.allRanges.any (fun r => r.2.region.any (fun v => v.1 = i))) then objNo d 0x40 2
  else
    match tget? d.regions i with
    | none => objNo d 0x16 1
    | some r =>
      let d := r.versions.foldl (fun d v => versionEvent (returnPages d v.2) i v.2) d
      ({ d with regions := tdel d.regions i }, .ok (i, []))

/-! ### Formes (R485, R486, R488) -/

/-- A forme's parameter block: the first check that fails. -/
def formeParams (b : Bytes) (len self : Nat) : Option (Nat × Nat) :=
  let id := fieldAt b 0 2
  let n := fieldAt b 2 2
  let entry (i : Nat) := slice b (64 + 16 * i) 16
  firstFault
    [(decide (fieldAt b 4 1 ≥ 2) || !allZero (slice b 5 59) ||
        (List.range (min n 256)).any (fun i => memberFault (entry i) == some 3), 0x43, 3),
     (decide (len ≠ 64 + 16 * n) || (if id = 0 then decide (n < 1) || decide (n > 256) || decide (fieldAt b 4 1 ≠ 0)
        else decide (n ≠ 0) || decide (fieldAt b 4 1 ≠ 1)) ||
        (List.range (min n 256)).any (fun i => memberFault (entry i) == some 4) ||
        (decide (id = 0) && !(List.range (min n 256)).any (fun i => fieldAt (entry i) 0 2 == self)), 0x43, 4)]

/-- The range that a member lends consists of pages that a context owns here (R488). -/
def lentOwned (d : Dev) (ctx : Nat) (m : Member) : Bool :=
  (d.pages.filter (fun p => decide (m.poolPage ≤ p.1) && decide (p.1 < m.poolPage + m.poolPages) && p.2.tier != 0 &&
    !p.2.region && p.2.owner == ctx)).length == m.poolPages

/-- Creates a forme or attaches to one: the reply follows the commit.  None where the message goes on.  DESIGN CHOICE (log
entry 32): where this device's own entry lends pages that the attaching context does not own, R488 gives no status, and the
answer is RIGHTS_FAULT. -/
def createForme (d : Dev) (mb : Nat) (s : Service) : Dev × Option Answer :=
  let b := s.params.getD []
  let id := fieldAt b 0 2
  let n := fieldAt b 2 2
  let self := selfNode d
  match formeParams b (s.f 24 4) self with
  | some e => (d, some (refuse e.1 e.2))
  | none =>
    if d.formes.length ≥ 256 then (d, some (refuse 0x40 1))
    else if !hasMajority d then (d, some (refuse 0x40 12))
    else if id = 0 then
      let ms := (List.range n).map (fun i => parseMember (slice b (64 + 16 * i) 16))
      if ms.all (fun m => m.node ≠ self || lentOwned d (issuingCtx s) m) then
        (submit (waitCommit d mb s.id 0 0) (.create self ms), none)
      else (d, some (refuse 0x11 0))
    else
      match (d.mbr.map.formes.find? (fun r => r.id = id)).bind (fun r => r.members.find? (fun x => x.node = self)) with
      | some m =>
        if lentOwned d (issuingCtx s) m then (submit (waitCommit d mb s.id 1 id) (.attach self id), none)
        else (d, some (refuse 0x11 0))
      | none => (d, some (refuse 0x16 1))

/-- A MIGRATE under way moves pages to pool memory that a forme lends: it names the forme (R485). -/
def migratesTo (d : Dev) (f : Forme) : Bool :=
  d.cmds.any (fun c => c.2.opcode == 0x30 && c.2.f 44 1 == 3 && c.2.ctx == f.ctx &&
    d.mbr.map.formes.any (fun r => r.id == f.id && (memberOf r (c.2.f 48 8 / 2 ^ 44)).any (fun m =>
      let first := c.2.f 48 8 % 2 ^ 44 / 65536
      decide (first < m.poolPage + m.poolPages) && decide (m.poolPage < first + c.2.f 40 4))))

/-- Destroys a local forme object: this device detaches (R486). -/
def destroyForme (d : Dev) (s : Service) (i : Nat) : ObjOut :=
  match tget? d.formes i with
  | none => objNo d 0x16 1
  | some f =>
    if d.objs.any (fun o => o.1 % 65536 / 4096 = 6 && o.1 / 65536 = issuingCtx s && (tabOf o.2.par).forme = 0x4000 + i) ∨
        migratesTo d f then
      objNo d 0x40 2
    else
      let d := { d with formes := tdel d.formes i }
      (if d.formes.any (fun x => x.2.id = f.id) then d else submit d (.detach (selfNode d) f.id), .ok (i, []))

/-! ### The messages -/

/-- Answers an object message: a reply that must wait for withdrawn copies is held (R352).  Where the timer's reply has
been written already, what the message changed applies at once (R38, R52). -/
def objAnswer (d : Dev) (mb : Nat) (s : Service) (type : Nat) (o : ObjOut) : Dev :=
  let late := (mbOf d mb).late.any (fun t => t.id = s.id)
  let o : ObjOut := if late then (commitMods o.1 mb s.id, o.2) else o
  match o.2 with
  | .error a => answerMsg o.1 mb s a
  | .ok (i, inl) =>
    let body := objReply type i 0 inl
    let pages := if type = 2 ∧ msgOf s.req ≠ 0x0100 then (lapsed o.1 (issuingCtx s)).filter (withdrawing o.1) else []
    if pages.isEmpty then answerMsg o.1 mb s (okBody body)
    else
      let d := modSvc o.1 mb s.id (fun t => { t with busy := true, held := some (solpen s.req 0 0 body) })
      { d with withdrawing := d.withdrawing ++ pages.map (fun p => (mb, s.id, p)) }

/-- Creates an object of any type but a forme. -/
def createObj (d : Dev) (mb : Nat) (s : Service) : ObjOut :=
  match objType s with
  | 1 => createCtx d s
  | 2 => createRange d s
  | 3 => createGalley d s
  | 5 => createSlot d s
  | 6 => createTable d s
  | 7 => createIndex d mb s
  | 8 => createBook d s
  | 9 => createRegion d s
  | _ => createKernel d s

/-- `OBJ_CREATE` (R51). -/
def execObjCreate (mb : Nat) (s : State) : Host.Outcome State Fault Refusal :=
  onDev (.objCreate mb) s (fun d =>
    serveMsg d mb (fun r => msgOf r == 0x0100) (fun d s =>
      match objFault d s 0 with
      | some e => answerMsg d mb s (refuse e.1 e.2)
      | none =>
        if objType s = 4 then
          let r := createForme d mb s
          match r.2 with
          | some a => answerMsg r.1 mb s a
          | none => r.1
        else
          match indexWaits d mb s with
          | some b => unblock d b
          | none => objAnswer d mb s (objType s) (createObj d mb s)))

/-- Changes an object of any type; tables, indexes, codebooks, kernels and formes accept no modify. -/
def modifyObj (d : Dev) (mb : Nat) (s : Service) (i : Nat) : ObjOut :=
  match objType s with
  | 1 => modifyCtx d mb s i
  | 2 => modifyRange d mb s i
  | 3 => modifyGalley d mb s i
  | 5 => modifySlot d mb s i
  | 9 => modifyRegion d s i
  | _ => objNo d 0x43 4

/-- Serves a modify, query or destroy: the shared checks, the handle, then the type's own part. -/
def serveObj (d : Dev) (mb code op : Nat) (act : Dev → Service → Nat → Dev) : Dev :=
  serveMsg d mb (fun r => msgOf r == code) (fun d s =>
    match objFault d s op with
    | some e => answerMsg d mb s (refuse e.1 e.2)
    | none =>
      match handleCheck d s op with
      | some det => answerMsg d mb s (refuse 0x16 det)
      | none => act d s (s.f 10 2 % 4096))

/-- `OBJ_MODIFY` (R52). -/
def execObjModify (mb : Nat) (s : State) : Host.Outcome State Fault Refusal :=
  onDev (.objModify mb) s (fun d =>
    serveObj d mb 0x0101 1 (fun d s i => objAnswer d mb s (objType s) (modifyObj d mb s i)))

/-- Destroys an object of any type. -/
def destroyObj (d : Dev) (mb : Nat) (s : Service) (i : Nat) : ObjOut :=
  match objType s with
  | 1 => destroyCtx d i
  | 2 => destroyRange d mb s i
  | 3 => destroyGalley d s i
  | 4 => destroyForme d s i
  | 5 => if namedBy d (issuingCtx s) (0x5000 + i) then objNo d 0x40 2 else ({ d with slots := tdel d.slots i }, .ok (i, []))
  | 9 => destroyRegion d i
  | t =>
    if namedBy d (issuingCtx s) (t * 4096 + i) then objNo d 0x40 2
    else ({ d with objs := tdel d.objs (objKey (issuingCtx s) (t * 4096 + i)) }, .ok (i, []))

/-- `OBJ_DESTROY` (R51). -/
def execObjDestroy (mb : Nat) (s : State) : Host.Outcome State Fault Refusal :=
  onDev (.objDestroy mb) s (fun d =>
    serveObj d mb 0x0103 3 (fun d s i => objAnswer d mb s (objType s) (destroyObj d mb s i)))

/-- The INLINE result and the result block of a query. -/
def queryObj (d : Dev) (s : Service) (i : Nat) : Bytes × Bytes :=
  let c := issuingCtx s
  let key := objKey c (s.f 10 2)
  let par := ((tget? d.objs key).map (·.par)).getD []
  match objType s with
  | 1 => (ctxInline d i, [])
  | 2 => (((tget? (ctxOf d c).ranges i).map rangeBytes).getD [], [])
  | 3 => (galleyInline d c i, (galleyOf d c i).par)
  | 4 =>
    (match (tget? d.formes i).bind (fun f => d.mbr.map.formes.find? (fun r => r.id = f.id)) with
      | some r => formeInline r
      | none => [], [])
  | 5 => (((tget? d.slots i).map slotInline).getD [], ((tget? d.slots i).map (·.par)).getD [])
  | 6 => (tableInline d key, par)
  | 7 => (indexInline d key, par)
  | 8 => (bookInline par, [])
  | 9 => ([], [])
  | _ => (kernelInline par, [])

/-- `OBJ_QUERY` (R53). -/
def execObjQuery (mb : Nat) (s : State) : Host.Outcome State Fault Refusal :=
  onDev (.objQuery mb) s (fun d =>
    serveObj d mb 0x0102 2 (fun d s i =>
      let q := queryObj d s i
      let n := if s.f 28 4 = 0 then 0 else q.2.length
      let a := okBody (objReply (objType s) i n q.1)
      answerMsg d mb s (if n = 0 then a else { a with result := some (s.f 32 8, q.2) })))

end Sys2Proof.Machine
end

