-- ==== Sys2Proof/Machine/Region.lean ====
section
/-! DEFINITION. The binding of HDM decoders, and the publishing, binding and retirement of versions of regions (R68, R75,
R78 to R84). -/

namespace Sys2Proof.Machine

open Sys2Proof

/-! ### DECODER_BIND (R75) -/

/-- A decoder that the host has not programmed. -/
def Decoder.blank : Decoder :=
  { base := 0, size := 0, ways := 1, gran := 0, committed := false, locked := false, ctx := none, uniBase := 0, uniLen := 0, old := [] }

/-- A decoder of a port. -/
def decoderOf (d : Dev) (port i : Nat) : Decoder := tget (portOf d port).decoders i Decoder.blank

/-- Serves DECODER_BIND.  An unbound decoder has no base and length: both read as 0 in the next reply (DESIGN CHOICE, log entry 66). -/
def bindDecoder (mb : Nat) (d : Dev) (s : Service) : Dev × Answer :=
  let port := s.f 8 1
  let i := s.f 9 1
  let c := s.f 10 2
  let u := s.f 16 8
  let n := s.f 24 8
  let un := decide (c = 0xFFFF)
  match firstFault
      [(decide (s.f 12 4 ≠ 0) || !s.zeroFrom 32, 0x43, 3),
       (decide (port > 11) || decide (i > 15) || (!un && (decide (c > 511) || decide (u % 65536 ≠ 0) || decide (n % 65536 ≠ 0) ||
          decide (u + n > 2 ^ 44))), 0x43, 4),
       (decide (hPriv s.hdr < 3), 0x11, 0), (!un && !ctxExists d c, 0x16, 1)] with
  | some e => (d, refuse e.1 e.2)
  | none =>
    let x := decoderOf d port i
    let old := x.old ++ [(mb, s.id, x.ctx, x.uniBase, x.uniLen)]
    let y := if un then { x with ctx := none, uniBase := 0, uniLen := 0, old := old }
             else { x with ctx := some c, uniBase := u, uniLen := n, old := old }
    let p := portOf d port
    (setPort d port { p with decoders := tput p.decoders i y },
      okBody (leBytes 2 (x.ctx.getD 0xFFFF) ++ zeros 6 ++ leBytes 8 x.uniBase ++ leBytes 8 x.uniLen))

/-- `DECODER_BIND` (R75). -/
def execDecoderBind (mb : Nat) (s : State) : Host.Outcome State Fault Refusal :=
  onDev (.decoderBind mb) s (fun d => replyMsg d mb 0x0104 (bindDecoder mb))

/-! ### Rights of a context over a region (R78) -/

/-- An ACCESS entry gives a context a right: bit 9 bind, bit 10 publish. -/
def Region.grants (r : Region) (c bit : Nat) : Bool := r.access.any (fun a => bitOf a 15 && a % 512 == c && bitOf a bit)

/-- A context may publish to a region. -/
def Region.mayPublish (r : Region) (c : Nat) : Bool := c == r.owner || r.grants c 10
/-- A context may bind a version of a region. -/
def Region.mayBind (r : Region) (c : Nat) : Bool := c == r.owner || r.open_ || r.grants c 9

/-- The region that a handle names: none with the DETAIL of HANDLE_FAULT. -/
def regionAt (d : Dev) (h : Nat) : Except Nat Region :=
  if h / 4096 ≠ 9 then .error 3
  else
    match tget? d.regions (h % 4096) with
    | some r => .ok r
    | none => .error 1

/-! ### REGION_PUBLISH (R79, R80) -/

/-- Every page of a run is placed and owned by a context. -/
def ownsRun (d : Dev) (c u n : Nat) : Bool :=
  ((pagesIn d u n).filter (fun p => !p.2.region && p.2.owner == c)).length == n / 65536

/-- A valid or RETIRING range of any context maps a page of the run with W, with A or with COHERENT 1. -/
def writableRun (d : Dev) (u n : Nat) : Bool :=
  d.ctxs.any (fun c => c.2.allRanges.any (fun r => (r.2.w || r.2.a || r.2.coh) && sharePage u n r.2.uni r.2.len))

/-- Steps 1 to 6 of a publish by a context.  Version 0 of a new region, which holds no pages, is no retained version, and no event
0x0007 tells of its replacement (DESIGN CHOICE, log entry 68). -/
def publishRun (d : Dev) (c idx : Nat) (r : Region) (base u n : Nat) : Dev × Answer :=
  let cur := r.current
  let count (d : Dev) := ((tget? d.regions idx).map (fun r => r.versions.length)).getD 0
  if !r.mayPublish c then (d, refuse 0x11 0)
  else if !ownsRun d c u n then (d, refuse 0x11 0)
  else if writableRun d u n then (d, refuse 0x40 2)
  else if base ≠ cur then (d, ⟨0x34, 0, leBytes 4 cur ++ leBytes 4 (count d), none⟩)
  else if r.versions.length ≥ 16 then (d, refuse 0x40 8)
  else if cur = 0xFFFFFFFF then (d, refuse 0x43 4)
  else
    let v := cur + 1
    let d := (List.range (n / 65536)).foldl (fun d k =>
      let p := u / 65536 + k
      setPage d p { pageOf d p with region := true, owner := 0x9000 + idx }) d
    let d := { d with regions := tput d.regions idx { r with current := v, versions := tput r.versions v ⟨u, n, some c⟩ } }
    let d := retireVersion d idx cur
    (d, okBody (leBytes 4 v ++ leBytes 4 (count d)))

/-- Serves REGION_PUBLISH. -/
def publishRegion (d : Dev) (s : Service) : Dev × Answer :=
  let u := s.f 16 8
  let n := s.f 24 8
  match firstFault
      [(decide (s.f 10 2 ≠ 0) || !s.zeroFrom 32, 0x43, 3),
       (decide (u % 65536 ≠ 0) || decide (n = 0) || decide (n % 65536 ≠ 0) || decide (u + n > 2 ^ 44), 0x43, 4),
       (decide (hPriv s.hdr < 1), 0x11, 0)] with
  | some e => (d, refuse e.1 e.2)
  | none =>
    match regionAt d (s.f 8 2) with
    | .error det => (d, refuse 0x16 det)
    | .ok r => publishRun d (hCtx s.hdr) (s.f 8 2 % 4096) r (s.f 12 4) u n

/-- `REGION_PUBLISH` (R80). -/
def execRegionPublish (mb : Nat) (s : State) : Host.Outcome State Fault Refusal :=
  onDev (.regionPublish mb) s (fun d => replyMsg d mb 0x0200 publishRegion)

/-! ### REGION_BIND (R82) -/

/-- Bindings held device-wide: valid ranges of regions. -/
def bindings (d : Dev) : Nat :=
  d.ctxs.foldl (fun n c => n + (c.2.ranges.filter (fun r => r.2.valid && r.2.region.isSome)).length) 0

/-- Binds a context to a version of a region. -/
def bindVersion (d : Dev) (c idx : Nat) (r : Region) (ver a : Nat) : Dev × Answer :=
  let v := if ver = 0 then r.current else ver
  match tget? r.versions v with
  | none => (d, refuse 0x16 1)
  | some x =>
    if bindings d ≥ 16384 then (d, refuse 0x40 1)
    else
      match lowestFree (tkeys (ctxOf d c).ranges) 0 4096 with
      | none => (d, refuse 0x40 1)
      | some i =>
        if ctxOverlap d c a x.len then (d, refuse 0x40 6)
        else
          let e : Range := ⟨a, x.len, x.start, true, false, false, false, some (idx, v), 0, none, none, none, (ctxOf d c).made⟩
          (modCtx d c (fun y => { y with ranges := tput y.ranges i e, made := y.made + 1 }),
            okBody (leBytes 2 (0x2000 + i) ++ zeros 2 ++ leBytes 4 v ++ leBytes 8 x.len))

/-- Serves REGION_BIND. -/
def bindRegion (d : Dev) (s : Service) : Dev × Answer :=
  let c := hCtx s.hdr
  let a := s.f 16 8
  match firstFault
      [(decide (s.f 10 2 ≠ 0) || !s.zeroFrom 24, 0x43, 3), (decide (a % 4096 ≠ 0) || decide (a ≥ 2 ^ 48), 0x43, 4),
       (decide (hPriv s.hdr < 1), 0x11, 0), (!ctxExists d c, 0x16, 1)] with
  | some e => (d, refuse e.1 e.2)
  | none =>
    match regionAt d (s.f 8 2) with
    | .error det => (d, refuse 0x16 det)
    | .ok r => if r.mayBind c then bindVersion d c (s.f 8 2 % 4096) r (s.f 12 4) a else (d, refuse 0x11 0)

/-- `REGION_BIND` (R82). -/
def execRegionBind (mb : Nat) (s : State) : Host.Outcome State Fault Refusal :=
  onDev (.regionBind mb) s (fun d => replyMsg d mb 0x0201 bindRegion)

/-! ### REGION_RELEASE and retirement (R68, R83, R84) -/

/-- Serves REGION_RELEASE.  One that retires its version takes effect at once, as RETIRED of its reply says (R84); where commands in
flight or other bindings keep the version, it applies to commands fetched from its reply on (R68; log entry 46).  A valid range that
is no binding gives HANDLE_FAULT, detail 3, for which R83 names no answer (DESIGN CHOICE, log entry 47). -/
def releaseRegion (mb : Nat) (d : Dev) (s : Service) : Dev × Answer :=
  let c := hCtx s.hdr
  let h := s.f 8 2
  match firstFault [(!s.zeroFrom 10, 0x43, 3), (decide (hPriv s.hdr < 1), 0x11, 0), (decide (h / 4096 ≠ 2), 0x16, 3)] with
  | some e => (d, refuse e.1 e.2)
  | none =>
    match (tget? (ctxOf d c).ranges (h % 4096)).filter (fun r => r.valid) with
    | none => (d, refuse 0x16 1)
    | some r =>
      match r.region with
      | none => (d, refuse 0x16 3)
      | some (idx, v) =>
        let now := retireVersion (endRange d c (h % 4096) none) idx v
        let gone := !((tget? now.regions idx).any (fun x => thas x.versions v))
        (if gone then now else endRange d c (h % 4096) (some (mb, s.id)), okBody (leBytes 4 v ++ leBytes 1 (b2n gone)))

/-- `REGION_RELEASE` (R83). -/
def execRegionRelease (mb : Nat) (s : State) : Host.Outcome State Fault Refusal :=
  onDev (.regionRelease mb) s (fun d => replyMsg d mb 0x0202 (releaseRegion mb))

/-- `VERSION_RETIRE` (R84). -/
def execVersionRetire (region ver : Nat) (s : State) : Host.Outcome State Fault Refusal :=
  onDev (.versionRetire region ver) s (fun d => retireVersion d region ver)

/-- `RANGE_RETIRE` (R68). -/
def execRangeRetire (ctx : Nat) (s : State) : Host.Outcome State Fault Refusal :=
  onDev (.rangeRetire ctx) s (fun d => retireRanges d ctx)

end Sys2Proof.Machine
end

