-- ==== Sys2Proof/Machine/Reset.lean ====
section
/-! DEFINITION. The abort of commands not yet started, and the reset of a context (R200, R467 to R472). -/

namespace Sys2Proof.Machine

open Sys2Proof

/-! ### Commands that are given up -/

/-- Ends every command of a galley that has been fetched and not started (R200, R468).  Answers how many. -/
def abortUnstarted (d : Dev) (ctx g status : Nat) : Dev × Nat :=
  (abortWaiting d ctx g status, ((flightTags d ctx g).filter (fun t => (cmdOf d t).any Cmd.waiting)).length)

/-- STOP with ABORT: both are ignored where the galley is not RUNNING (R197, R200). -/
def stopAbort (d : Dev) (ctx g : Nat) : Dev :=
  if (galleyOf d ctx g).state = 1 then settleGalley (abortUnstarted (stopGalley d ctx g) ctx g 0x51).1 ctx g else d

/-- `GALLEY_STOP_ABORT` (R200): STOP with ABORT. -/
def execGalleyStopAbort (port ctx g : Nat) (s : State) : Host.Outcome State Fault Refusal :=
  onDev (.galleyStopAbort port ctx g) s (fun d => doorbell d port ctx g (fun d => stopAbort d ctx g))

/-- A running command stops issuing (R398, R468 step 3): its cores are stopped, pages it had pinned are
released, but for the one whose move completes (R105), and it ends with a status unless it had met a failure. -/
def stopCmd (d : Dev) (tag status : Nat) : Dev :=
  match cmdOf d tag with
  | none => d
  | some c =>
    let keep (x : Cmd) : Cmd := if okStatus x.status then { x with status := status, detail := 0, digest := 0 } else x
    if c.opcode = 0x28 ∧ c.phase = 2 then
      c.cores.foldl (fun d k =>
        modCore (coreStop d k status) k (fun x =>
          if x.state = 1 then { x with state := 3, stopWith := some (status, 0, false) } else x)) d
    else if c.phase = 4 then modCmd d tag keep
    else if c.phase = 3 then d
    else if (c.opcode = 0x11 ∨ c.opcode = 0x12) ∧ c.phase = 2 ∧ c.covers ≠ [] then
      -- a record whose writes are on their way is applied or undone first (R292, R293)
      modCmd d tag (fun c => if okStatus c.status then { c with covers := c.covers.take 2 ++ [status] } else c)
    else if c.opcode = 0x30 ∧ movePinned d tag ∧ c.failAt.isNone then modCmd d tag keep
    else endCmd (if c.opcode = 0x30 then unpinMove d tag else d) tag keep

/-! ### Arbiters (R468 steps 3 and 4, R471) -/

/-- Withdraws the requests of commands at every arbiter; answers how many were parked. -/
def purgeArbs (d : Dev) (mine : ArbReq → Bool) : Dev × Nat :=
  d.arbs.foldl (fun (s : Dev × Nat) a =>
    let n := (a.2.parked.filter (fun r => mine r)).length
    ({ s.1 with arbs := tmod s.1.arbs a.1 (fun x =>
        { x with parked := x.parked.filter (fun r => !mine r), wires := x.wires.filter (fun r => !mine r),
                 port := x.port.filter (fun r => !mine r) }.present) },
      s.2 + n)) (d, 0)

/-- Revokes the grants of commands at every arbiter; answers how many. -/
def revokeGrants (d : Dev) (mine : ArbReq → Bool) : Dev × Nat :=
  d.arbs.foldl (fun (s : Dev × Nat) a =>
    match a.2.owner with
    | some g =>
      if mine g.req then
        (emit { s.1 with arbs := tmod s.1.arbs a.1 (fun x => { x with owner := none }.present) } (.revoke (a.1 / 30) (a.1 % 30) g.req.slot),
          s.2 + 1)
      else s
    | none => s) (d, 0)

/-- A request is for a command of a context, which may have ended. -/
def ArbReq.ofCtx (r : ArbReq) (ctx : Nat) : Bool := decide (r.owner < 4096) && r.ctx == ctx

/-! ### The reset (R467, R468) -/

/-- The galleys of a context. -/
def ctxGalleys (d : Dev) (ctx : Nat) : List Nat := (List.range 8).filter (fun g => thas d.galleys (gkey ctx g))

/-- Changes the reset in progress of a context. -/
def modReset (d : Dev) (ctx : Nat) (f : ResetJob → ResetJob) : Dev :=
  modCtx d ctx (fun x => { x with reset := x.reset.map f })

/-- Step 1: galleys stop fetching, unfetched entries are discarded, and commands not started are aborted. -/
def startReset (d : Dev) (mb : Nat) (s : Service) (ctx us : Nat) : Dev :=
  let floes := resetFloes d ctx
  let gs := ctxGalleys d ctx
  let gone := gs.foldl (fun n g => n + cdiff (galleyOf d ctx g).cmdTail (galleyOf d ctx g).cmdHead) 0
  let d := gs.foldl (fun d g => modGalley d ctx g (fun x => { x with state := 4, cmdTail := x.cmdHead })) d
  let r := gs.foldl (fun (a : Dev × Nat) g =>
    let x := abortUnstarted a.1 ctx g 0x50
    (x.1, a.2 + x.2)) (d, 0)
  let d := r.1
  let running := (d.cmds.filter (fun c => c.2.ctx = ctx && (c.2.phase = 2 || (c.2.phase = 4 && c.2.status ≠ 0x50)))).map (·.2.order)
  let job : ResetJob :=
    { mbx := mb, svc := s.id, started := d.now, floes := floes, drainUs := if us = 0 then 10000 else us, expired := false, running := running,
      lost := 0, drained := 0, aborted := r.2, discarded := gone, purged := 0, cleared := false, revoked := 0, irqs := 0,
      released := 0, lostProofs := 0 }
  goesOn (modCtx d ctx (fun x => { x with reset := some job })) mb s.id

/-- Serves CONTEXT_RESET. -/
def resetMsg (d : Dev) (mb : Nat) (s : Service) : Dev :=
  let c := s.f 8 2
  match firstFault
      [(decide (s.f 10 2 ≠ 0) || !s.zeroFrom 16, 0x43, 3), (decide (c > 511) || decide (s.f 12 4 > 1000000), 0x43, 4),
       (decide (hPriv s.hdr = 0) || (decide (hPriv s.hdr < 3) && decide (c ≠ hCtx s.hdr)), 0x11, 0), (!ctxExists d c, 0x16, 1)] with
  | some e => answerMsg d mb s (refuse e.1 e.2)
  | none => startReset d mb s c (s.f 12 4)

/-- `CONTEXT_RESET` (R468). -/
def execContextReset (mb : Nat) (s : State) : Host.Outcome State Fault Refusal :=
  onDev (.contextReset mb) s (fun d => serveMsg d mb (fun r => msgOf r == 0x0300) (fun d s => resetMsg d mb s))

/-- Commands of the reset that have not completed: they had started at step 1. -/
def stillRunning (d : Dev) (ctx : Nat) (j : ResetJob) : List Nat :=
  tkeys (d.cmds.filter (fun c => c.2.ctx = ctx && j.running.contains c.2.order && c.2.phase ≠ 3))

/-- Step 3: the drain time ends. -/
def expireDrain (d : Dev) (ctx : Nat) : Dev :=
  match (ctxOf d ctx).reset with
  | none => d
  | some j =>
    if j.expired ∨ j.cleared then d
    else
      let still := stillRunning d ctx j
      let d := modReset (telD d 0x3A10 1) ctx (fun j =>
        { j with expired := true, aborted := j.aborted + still.length, drained := j.running.length - still.length - j.lost })
      let p := purgeArbs d (fun r => r.ofCtx ctx && still.contains r.owner)
      still.foldl (fun d t => stopCmd d t 0x50) (modReset p.1 ctx (fun j => { j with purged := j.purged + p.2 }))

/-- `RESET_DRAIN_EXPIRE` (R468). -/
def execResetDrainExpire (ctx : Nat) (s : State) : Host.Outcome State Fault Refusal :=
  onDev (.resetDrainExpire ctx) s (fun d => expireDrain d ctx)

/-- Nothing of the context is left but proofs held by a halt (R470). -/
def resetReady (d : Dev) (ctx : Nat) : Bool :=
  d.cmds.all (fun c => c.2.ctx != ctx || c.2.phase == 3) &&
    (ctxGalleys d ctx).all (fun g =>
      let x := galleyOf d ctx g
      x.done.isEmpty || x.holding)

/-- Step 5: interrupts that have not been sent are dropped, and the context's are held. -/
def dropIrqs (d : Dev) (ctx : Nat) : Dev × Nat :=
  let gs := ctxGalleys d ctx
  let a := (gs.filter (fun g => (galleyOf d ctx g).pending ≠ 0)).length
  let d := gs.foldl (fun d g => modGalley d ctx g (fun x => { x with pending := 0 })) d
  let x := ctxOf d ctx
  let r := (List.range x.vecCount).foldl (fun (s : Dev × Nat) i =>
    let p := portOf s.1 x.vecPort
    let v := vecOf p (x.vecFirst + i)
    if v.pend || v.held then
      (setPort s.1 x.vecPort { p with vecs := tput p.vecs (x.vecFirst + i) { v with pend := false, held := false } },
        s.2 + b2n v.pend + b2n v.held)
    else s) (d, a)
  (modCtx r.1 ctx (fun x => { x with irqHold := true }), r.2)

/-- Step 6: bindings are released and the context is no version's publisher. -/
def dropBindings (d : Dev) (ctx : Nat) : Dev × Nat :=
  let bs := (ctxOf d ctx).ranges.filterMap (fun r => if r.2.valid then r.2.region.map (fun v => (r.1, v)) else none)
  let d := { d with regions := d.regions.map (fun r => (r.1, { r.2 with versions := r.2.versions.map (fun v =>
    (v.1, { v.2 with publisher := v.2.publisher.filter (· ≠ ctx) })) })) }
  (bs.foldl (fun d b => retireVersion (endRange d ctx b.1 none) b.2.1 b.2.2) d, bs.length)

/-- Steps 4 to 6, once. -/
def clearContext (d : Dev) (ctx : Nat) : Dev :=
  let p := purgeArbs d (fun r => r.ofCtx ctx)
  let g := revokeGrants p.1 (fun r => r.ofCtx ctx)
  let i := dropIrqs g.1 ctx
  let b := dropBindings i.1 ctx
  modReset b.1 ctx (fun j =>
    { j with cleared := true, purged := j.purged + p.2, revoked := g.2, irqs := i.2, released := b.2,
             drained := if j.expired then j.drained else j.running.length - j.lost })

/-- A held proof that cannot be written is dropped with a GALLEY record, and its tag returns (R470). -/
def dropProof (d : Dev) (ctx g cause status addr : Nat) : Dev :=
  let x := galleyOf d ctx g
  match x.done with
  | [] => d
  | tag :: rest =>
    let d := logErr d 4 2 10 (8 * ctx + g) ctx (errBody addr status 0 tag cause (x.cmdHead + x.proofTail * 2 ^ 32))
    let d := modGalley (releaseTag d tag) ctx g (fun x => { x with done := rest })
    modReset d ctx (fun j => { j with lostProofs := j.lostProofs + 1 })

/-- Step 7 for one galley: its held proofs are written once more, in order; false where a write must wait. -/
def writeHeld (ctx g : Nat) : Nat → Dev → Dev × Bool
  | 0, d => (d, true)
  | n + 1, d =>
    if (galleyOf d ctx g).done.isEmpty then (d, true)
    else
      let r := writeProof d ctx g
      match r.2 with
      | .written => writeHeld ctx g n (ackProof (modGalley r.1 ctx g (fun x => { x with proofBusy := true })) ctx g)
      | .later => (r.1, false)
      | .halt c s a => writeHeld ctx g n (dropProof r.1 ctx g c s a)

/-- The body of the reply to a reset (R467). -/
def resetBody (d : Dev) (j : ResetJob) : Bytes :=
  leBytes 4 j.drained ++ leBytes 4 j.aborted ++ leBytes 4 j.discarded ++ leBytes 4 j.purged ++ leBytes 2 j.revoked ++
    leBytes 2 j.irqs ++ leBytes 2 j.released ++ leBytes 2 j.lostProofs ++ leBytes 8 (d.now - j.started)

/-- Step 7's end: galleys are STOPPED, with any halt of theirs over (DEDUCED, log entry 22), the reply is ready and event 0x0006 is queued. -/
def endReset (d : Dev) (ctx : Nat) (j : ResetJob) : Dev :=
  let d := (ctxGalleys d ctx).foldl (fun d g =>
    modGalley (closeErr d 10 (8 * ctx + g) 4) ctx g (fun x => { x with state := 0, holding := false, restart := false })) d
  let d := modCtx d ctx (fun x => { x with reset := none, resets := (x.resets + 1) % 2 ^ 32 })
  let d := telD (telD d 0x3A00 1) 0x3A08 j.aborted
  let d := replyTo d j.mbx j.svc (fun s => solpen s.req 0 0 (resetBody d j))
  eventCtx d 6 0 (0x1000 + ctx) [ctx]

/-- Commands that AFTER_PREV held and the reset has aborted take their places among the proofs (R205). -/
def endHeld (d : Dev) (ctx : Nat) : Dev :=
  (ctxGalleys d ctx).foldl (fun d g => (flightTags d ctx g).foldl startHeld d) d

/-- Steps 4 to 7, once nothing of the context is left to wait for. -/
def purgeReset (d : Dev) (ctx : Nat) : Dev :=
  match (ctxOf d ctx).reset with
  | none => d
  | some j =>
    let d := endHeld d ctx
    if !resetReady d ctx then d
    else
      let d := if j.cleared then d else clearContext d ctx
      let r := (ctxGalleys d ctx).foldl (fun (s : Dev × Bool) g =>
        if s.2 then writeHeld ctx g (galleyOf s.1 ctx g).done.length s.1 else s) (d, true)
      if !r.2 then r.1
      else
        match (ctxOf r.1 ctx).reset with
        | some j => endReset r.1 ctx j
        | none => r.1

/-- `RESET_PURGE` (R468). -/
def execResetPurge (ctx : Nat) (s : State) : Host.Outcome State Fault Refusal :=
  onDev (.resetPurge ctx) s (fun d => purgeReset d ctx)

/-! ### Orphans (R356, R357) -/

/-- The 32-byte record of an orphan. -/
def orphanBytes (line : Nat) (o : Orphan) : Bytes :=
  let b := leBytes 8 (line * 64) ++ leBytes 8 o.time ++ leBytes 1 o.owner ++ leBytes 1 o.cause ++ leBytes 2 o.pageOwner ++ zeros 8
  b ++ leBytes 4 (crc32c b)

/-- Serves ORPHAN_LOG_READ. -/
def readOrphans (d : Dev) (s : Service) : Dev × Answer :=
  let cur := s.f 8 8
  let len := s.f 24 4
  match firstFault
      [(decide (s.f 28 4 ≠ 0) || !s.zeroFrom 32, 0x43, 3), (decide (cur % 64 ≠ 0) || decide (len % 32 ≠ 0), 0x43, 4),
       (decide (hPriv s.hdr < 3), 0x11, 0)] with
  | some e => (d, refuse e.1 e.2)
  | none =>
    let all := d.orphans.filter (fun o => decide (cur ≤ o.1 * 64))
    let l := all.take (len / 32)
    let next := if all.length ≤ l.length then 2 ^ 64 - 1 else
      match l.getLast? with
      | some o => o.1 * 64 + 64
      | none => cur
    (d, { okBody (leBytes 4 l.length ++ leBytes 4 d.orphans.length ++ leBytes 8 next) with
          result := some (s.f 16 8, l.flatMap (fun o => orphanBytes o.1 o.2)) })

/-- `ORPHAN_LOG_READ` (R356). -/
def execOrphanLogRead (mb : Nat) (s : State) : Host.Outcome State Fault Refusal :=
  onDev (.orphanLogRead mb) s (fun d => replyMsg d mb 0x0302 readOrphans)

/-- Resolves one orphan line: the status of a failure, or 0. -/
def reclaimLine (d : Dev) (line action : Nat) : Dev × Nat :=
  let w := Who.unitOnly 4 (homeFloe (pageOfLine line))
  if !floeOn d (homeFloe (pageOfLine line)) then (d, 0x42)
  else if action = 0 then
    let r := slicedRead d w line .access true
    match r.2 with
    | .ok _ => (endOrphan r.1 line, 0)
    | .error e => (r.1, e.1)
  else
    let e := endOrphan d line
    let r := homeWrite e w line (zeros 64) (2 ^ 64 - 1)
    match r.2 with
    | none => (r.1, 0)
    | some x => ({ r.1 with dir := d.dir, orphans := d.orphans }, x.1)

/-- Serves RECLAIM: each orphan of the span or of the owner in ascending order. -/
def reclaimMsg (d : Dev) (s : Service) : Dev × Answer :=
  let a := s.f 8 8
  let n := s.f 16 4
  let by_ := bitOf (s.f 21 1) 0
  match firstFault
      [(decide (s.f 21 1 ≥ 2) || !s.zeroFrom 23, 0x43, 3),
       (decide (s.f 20 1 > 1) || (if by_ then decide (a ≠ 0) || decide (n ≠ 0)
          else decide (a % 64 ≠ 0) || decide (n = 0) || decide (n > 1048576) || decide (a + 64 * n > 2 ^ 44)), 0x43, 4),
       (decide (hPriv s.hdr < 3), 0x11, 0)] with
  | some e => (d, refuse e.1 e.2)
  | none =>
    let lines := tkeys (d.orphans.filter (fun o =>
      if by_ then o.2.owner = s.f 22 1 else decide (a / 64 ≤ o.1) && decide (o.1 < a / 64 + n)))
    let r := lines.foldl (fun (x : Dev × Nat × Nat × Nat) l =>
      let y := reclaimLine x.1 l (s.f 20 1)
      if y.2 = 0 then (telF y.1 (homeFloe (pageOfLine l)) 0x1630 1, x.2.1 + 1, x.2.2)
      else (y.1, x.2.1, x.2.2.1 + 1, if x.2.2.1 = 0 then y.2 else x.2.2.2)) (d, 0, 0, 0)
    (r.1, okBody (leBytes 4 r.2.1 ++ leBytes 4 (if by_ then 0 else n - lines.length) ++ leBytes 4 r.2.2.1 ++ leBytes 1 r.2.2.2))

/-- `RECLAIM` (R357). -/
def execReclaim (mb : Nat) (s : State) : Host.Outcome State Fault Refusal :=
  onDev (.reclaim mb) s (fun d => replyMsg d mb 0x0301 reclaimMsg)

end Sys2Proof.Machine
end

