-- ==== Sys2Proof/Machine/CxlPort.lean ====
section
/-! DEFINITION. The CXL ports: links, conventional reset, completions of CXL.io requests, Global Persistent Flush, the CXL
mailbox, SPDM and the host's MSI-X masks (R353, R361, R365 to R368, R465, R515, R521, R535). -/

namespace Sys2Proof.Machine

open Sys2Proof

/-! ### Completions (R44, R367) -/

/-- The parameter block of a message has been read, or could not be. -/
def paramDone (d : Dev) (m id : Nat) (ans : FarAnswer) (n : Nat) : Dev :=
  modSvc d m id (fun s =>
    match ans with
    | .data b => { s with params := some (slice b 0 n) }
    | .err _ => { s with paramErr := true })

/-- The result block has been written: the reply that waited for it is ready; where it could not be written the reply
says so (R44). -/
def resultDone (d : Dev) (m id : Nat) (ans : FarAnswer) : Dev :=
  match svcOf d m id with
  | none => d
  | some s =>
    match s.held with
    | none => d
    | some b =>
      match ans with
      | .data _ => readyReply d m id b
      | .err _ => readyReply d m id (splice b 4 [0x15, 2])

/-- What reads of commands have brought of a host-tier line, or may still bring, is older than a write of it that is
complete: they read again (R103). -/
def staleHost (d : Dev) (line : Nat) : Dev :=
  let old (u : IoUse) : IoUse :=
    match u with
    | .hostRead o l => if l = line ∧ o.isCmd then .hostRead .none l else u
    | _ => u
  { d with
    reads := d.reads.filter (fun r => !(r.owner.isCmd && r.key == hostKey line)),
    ports := d.ports.map (fun p => (p.1, { p.2 with io := p.2.io.map (fun r => (r.1, { r.2 with use := old r.2.use })) })) }

/-- A write of a host-tier line is complete: the work that it was for goes on, and so does what was held behind it. -/
def hostWriteDone (d : Dev) (tag : Nat) (o : Owner) (line caddr status : Nat) : Dev :=
  let d := staleHost d line
  let d := match o with
    | .held u => hostWrote d u status
    | o => ackOwner d (FabReq.new 1 0 0 line caddr 0 [] o d.now [] false false 0 []) status []
  releaseBehind d tag status

/-- A CXL.io request is complete: its user acts (R367).  A failed host-tier write fails as PAGE_ABSENT (log entry 21). -/
def ioComplete (d : Dev) (port key : Nat) (ans : FarAnswer) : Dev :=
  let p := portOf d port
  match tget? p.io key with
  | none => d
  | some r =>
    match r.use with
    | .touch page => touchDone d page ans
    | .param m id => paramDone (ioEnd d port key) m id ans r.len
    | .result m id => resultDone (ioEnd d port key) m id ans
    | .hostRead (.held u) _ => hostRead (ioEnd d port key) u ans
    | .hostRead o line => readDone (ioEnd d port key) ⟨o, hostKey line, ans, r.caddr, line⟩
    | .hostWrite o line => hostWriteDone (ioEnd d port key) (ioTag port key) o line r.caddr (match ans with | .data _ => 0 | .err _ => 0x14)

/-- A request has left its port: it is among the first 256 (R367). -/
def ioSent (p : Port) (key : Nat) : Bool := (p.io.take 256).any (fun r => r.1 == key)

/-- `CXLIO_COMPLETION` (R367). -/
def execCxlioCompletion (port io : Nat) (ans : FarAnswer) (s : State) : Host.Outcome State Fault Refusal :=
  onDev (.cxlioCompletion port io ans) s (fun d => if ioSent (portOf d port) io then ioComplete d port io ans else d)

/-- `CPL_TIMEOUT` (R367): the request completes with a completion error. -/
def execCplTimeout (port io : Nat) (s : State) : Host.Outcome State Fault Refusal :=
  onDev (.cplTimeout port io) s (fun d =>
    if ioSent (portOf d port) io then ioComplete (telPort d port 0x18) port io (.err 0x14) else d)

/-! ### The link (R353, R365, R368, R535) -/

/-- An access that waits for its answer is a read that came through a port. -/
def readOfPort (port : Nat) : Waiter → Bool
  | .portRead q => q.port == port
  | _ => false

/-- Work that a port would answer. -/
def Owner.ofPort (o : Owner) (port : Nat) : Bool :=
  match o with
  | .port q => q.port == port
  | _ => false

/-- The link of a port is gone: reads that waited have no one to answer, the agent is failed for coherence, and the
port's CXL.io requests complete with errors at once. -/
def dropPort (d : Dev) (port cause state : Nat) : Dev :=
  let p := portOf d port
  let d := setPort d port { p with
    link := state, speed := 0, width := 0, narrow := 0, flit256 := false, ideIo := false, ideMem := false, streams := [] }
  let d := { d with lineWait := d.lineWait.filter (fun w => !readOfPort port w.2),
                    touches := d.touches.map (fun t => (t.1, { t.2 with waiters := t.2.waiters.filter (fun w => !readOfPort port w) })),
                    packJobs := d.packJobs.map (fun j => { j with waiters := j.waiters.filter (fun w => !readOfPort port w) }) }
  let d := failAgent (dropReads d (fun o => o.ofPort port)) (64 + port) cause
  (tkeys p.io).foldl (fun d k => ioComplete d port k (.err 0x14)) d

/-- The link is neither DOWN nor DISABLED. -/
def portRunning (p : Port) : Bool := p.link != 0 && p.link != 6

/-- A write of PORT_CTRL.ENABLE: 0 takes the link to DISABLED, 1 lets it train. -/
def enablePort (d : Dev) (port : Nat) (on : Bool) : Dev :=
  let p := portOf d port
  if on then (if (p.link = 6 ∨ p.link = 0) ∧ !p.perst then setPort d port { p with link := 1 } else if p.link = 6 then setPort d port { p with link := 0 } else d)
  else if linkUp p ∨ p.link = 5 then dropPort d port 1 6
  else setPort d port { p with link := 6 }

/-- `PORT_ENABLE` (R368). -/
def execPortEnable (port : Nat) (on : Bool) (s : State) : Host.Outcome State Fault Refusal :=
  onDev (.portEnable port on) s (fun d =>
    let b := portBase port
    enablePort { d with regs := tput d.regs b (setBits (rv d b) 0 1 (b2n on)) } port on)

/-- `CXL_LINK_DOWN` (R353): the link trains again while it is enabled. -/
def execCxlLinkDown (port : Nat) (s : State) : Host.Outcome State Fault Refusal :=
  onDev (.cxlLinkDown port) s (fun d =>
    let p := portOf d port
    if linkUp p ∨ p.link = 5 then dropPort d port 1 0 else if p.link = 1 then setPort d port { p with link := 0 } else d)

/-- Sends the pending entries of a port in ascending order, as far as its masks allow (R465). -/
def sendPending (d : Dev) (port : Nat) : Dev :=
  (tkeys (portOf d port).vecs).foldl (fun d e => if (vecOf (portOf d port) e).pend then sendVec d port e else d) d

/-- The link of a port reaches L0: 64 GT/s needs 256B flit mode, and SPEED_32 and WIDTH_X8 limit what it trains to, as does the
host's end (R361). -/
def portUp (d : Dev) (port : Nat) (form : LinkForm) : Dev :=
  let p := portOf d port
  if p.perst ∨ !(p.link = 0 ∨ p.link = 1 ∨ p.link = 5) ∨ rf d (portBase port) 0 1 = 0 then d
  else
    let slow := rf d (portBase port) 1 1 = 1 ∨ !form.flit ∨ form.slow
    let d := setPort d port { p with link := 2, speed := if slow then 1 else 2, flit256 := form.flit,
                                     width := if rf d (portBase port) 2 1 = 1 ∨ form.narrow then 8 else 16 }
    sendPending (closeErr d 6 port 2) port

/-- `CXL_LINK_UP` (R365). -/
def execCxlLinkUp (port : Nat) (form : LinkForm) (s : State) : Host.Outcome State Fault Refusal :=
  onDev (.cxlLinkUp port form) s (fun d => portUp d port form)

/-- A conventional reset of a port (R535): what the host programmed is reset, what Solpen binds is kept. -/
def assertPerst (d : Dev) (port : Nat) : Dev :=
  let p := portOf d port
  if p.perst then d
  else
    let d := setPort d port { p with
      perst := true, funcMask := false, policy := 0,
      decoders := p.decoders.map (fun x => (x.1, { Decoder.blank with ctx := x.2.ctx, uniBase := x.2.uniBase, uniLen := x.2.uniLen })),
      vecs := p.vecs.map (fun v => (v.1, { v.2 with masked := true, pend := false })) }
    dropPort d port 2 (if p.link = 6 then 6 else 0)

/-- `PERST_N_ASSERT` (R535): a pin that acts in reset too. -/
def execPerstNAssert (port : Nat) (s : State) : Host.Outcome State Fault Refusal :=
  onPin (.perstNAssert port) s (fun k d =>
    (k, if d.boot.held then setPort d port { portOf d port with perst := true, link := 0 } else assertPerst d port))

/-- `PERST_N_DEASSERT` (R535): the link trains again while it is enabled. -/
def execPerstNDeassert (port : Nat) (s : State) : Host.Outcome State Fault Refusal :=
  onPin (.perstNDeassert port) s (fun k d =>
    let p := portOf d port
    (k, setPort d port { p with perst := false, link := if p.link = 0 ∧ !d.boot.held ∧ rf d (portBase port) 0 1 = 1 then 1 else p.link }))

/-- A low-power change that the host directs and the port allows (R361, R365). -/
def lowPower (d : Dev) (port : Nat) (lp : LowPower) : Dev :=
  let p := portOf d port
  match lp with
  | .l1 => if (p.link = 2 ∨ p.link = 3) ∧ rf d (portBase port) 3 1 = 1 then setPort d port { p with link := 4 } else d
  | .l0p w =>
    if (p.link = 2 ∨ p.link = 3) ∧ p.flit256 ∧ rf d (portBase port) 4 1 = 1 ∧ (w = 8 ∨ w = 4) ∧ w < p.width then
      setPort d port { p with link := 3, narrow := w }
    else d
  | .full => setPort d port (wake p)

/-- `L1_L0P_ENTRY` (R365). -/
def execL1L0pEntry (port : Nat) (lp : LowPower) (s : State) : Host.Outcome State Fault Refusal :=
  onDev (.l1L0pEntry port lp) s (fun d => lowPower d port lp)

/-! ### Global Persistent Flush (R366) -/

/-- `GPF_PHASE1` (R366): every RUNNING galley stops fetching, and with it the phase is complete. -/
def execGpfPhase1 (port : Nat) (s : State) : Host.Outcome State Fault Refusal :=
  onDev (.gpfPhase1 port) s (fun d =>
    if !linkUp (portOf d port) then d
    else
      let d := { d with boot := { d.boot with gpf := 1 } }
      let d := (tkeys d.galleys).foldl (fun d k => if (galleyOf d (k / 8) (k % 8)).state = 1 then stopGalley d (k / 8) (k % 8) else d) d
      emit (setPort d port (wake (portOf d port))) (.gpf port 1 false))

/-- Writes to durable pages that were admitted and wait for copies of their lines, in their line's queue or at its directory
slice. -/
def durableWaits (d : Dev) : Bool :=
  let durable (line : Nat) : Bool := (pageOf d (pageOfLine line)).durable
  d.dirWait.any (fun w => w.2.writes && durable w.1) ||
  d.dir.any (fun e => e.2.txn.any (fun t => t.op.writes) && durable e.1) ||
  d.lineWait.any (fun w =>
    match w.2 with
    | .portWrite q _ _ => (pageOf d (q.uni / 65536)).durable
    | .fabric _ => (pageOf d (pageOfLine w.1)).durable
    | _ => false)

/-- `GPF_PHASE2` (R366): complete at once where every admitted durable write has committed or failed, else when the
command finds it so. -/
def execGpfPhase2 (port : Nat) (s : State) : Host.Outcome State Fault Refusal :=
  onDev (.gpfPhase2 port) s (fun d =>
    if !linkUp (portOf d port) then d
    else
      let going := d.boot.gpf = 2 + port
      let p := portOf d port
      let d := if going then d else setPort d port { p with gpfFailed := false }
      if durableWaits d then { d with boot := { d.boot with gpf := 2 + port } }
      else emit (setPort { d with boot := { d.boot with gpf := 0 } } port (wake (portOf d port))) (.gpf port 2 (portOf d port).gpfFailed))

/-! ### The CXL mailbox (R361; codes and layouts PRESUMED from CXL 3.1, log entry 23) -/

/-- `n` bytes that the specification leaves open; no reserved byte is among them, since those are zero (R5). -/
def freeBytes (d : Dev) (n : Nat) : Bytes := leBytes n (freeVal d)

/-- The bits of an Event Interrupt Policy that are not reserved: mode and message number of each of five logs (R5). -/
def policyMask : Nat := 0xF3F3F3F3F3

/-- A byte whose low `w` bits the specification leaves open and whose other bits are reserved (R5). -/
def freeBits (d : Dev) (w : Nat) : Bytes := leBytes 1 (freeVal d % 2 ^ w)

/-- Answers a mailbox command of a port whose link is up. -/
def mailReply (d : Dev) (port code : Nat) (b : Bytes) : Dev :=
  let p := portOf d port
  if linkUp p then useFree (emit (setPort d port (wake p)) (.mailbox port code b)) else d

/-- Capacity of the memories in service, in units of 256 MiB. -/
def capacity (d : Dev) : Nat := 4 * (stackGiB d + bulkGiB d)

/-- The commands of R361. -/
def mailCodes : List Nat := [0x0100, 0x0101, 0x0102, 0x0103, 0x0300, 0x0301, 0x0400, 0x0401, 0x4000, 0x4200]

/-- The name of the Command Effects Log. -/
def celUuid : Bytes := [0x0D, 0xA9, 0xC0, 0xB5, 0xBF, 0x41, 0x4B, 0x78, 0x8F, 0x79, 0x96, 0xB1, 0x62, 0x3B, 0x3F, 0x17]

/-- `IDENTIFY_MEMORY_DEVICE` (R361). -/
def execIdentifyMemoryDevice (port : Nat) (s : State) : Host.Outcome State Fault Refusal :=
  onDev (.identifyMemoryDevice port) s (fun d =>
    mailReply d port 0x4000 (leBytes 16 d.boot.fwVersion ++ leBytes 8 (capacity d) ++ freeBytes d 41 ++ freeBits (useFree d) 2 ++
      freeBits (useFree (useFree d)) 2 ++ freeBytes (useFree (useFree (useFree d))) 2))

/-- `GET_SUPPORTED_LOGS` (R361): the Command Effects Log. -/
def execGetSupportedLogs (port : Nat) (s : State) : Host.Outcome State Fault Refusal :=
  onDev (.getSupportedLogs port) s (fun d =>
    mailReply d port 0x0400 (leBytes 2 1 ++ zeros 6 ++ celUuid ++ leBytes 4 (4 * mailCodes.length)))

/-- `GET_LOG` (R361): an opcode and its effects for each command; the effects are free values. -/
def execGetLog (port : Nat) (s : State) : Host.Outcome State Fault Refusal :=
  onDev (.getLog port) s (fun d =>
    mailReply d port 0x0401 ((mailCodes.zip (List.range mailCodes.length)).flatMap (fun c => leBytes 2 c.1 ++ leBytes 2 (bits (freeVal d) (16 * c.2) 12))))

/-- A General Media Event record. -/
def eventRecord (d : Dev) (n : Nat) (e : CxlEvent) : Bytes :=
  let uuid : Bytes := [0xFB, 0xCD, 0x0A, 0x77, 0xC2, 0x60, 0x41, 0x7F, 0x85, 0xA9, 0x08, 0x8B, 0x16, 0x21, 0xEB, 0xA6]
  uuid ++ leBytes 1 128 ++ leBytes 3 2 ++ leBytes 2 (n + 1) ++ zeros 2 ++ leBytes 8 e.time ++ zeros 16 ++ leBytes 8 e.addr ++
    freeBits d 3 ++ freeBytes (useFree d) 2 ++ zeros 69

/-- `GET_EVENT_RECORDS` (R361): up to `n` records, oldest first. -/
def execGetEventRecords (port n : Nat) (s : State) : Host.Outcome State Fault Refusal :=
  onDev (.getEventRecords port n) s (fun d =>
    let l := (portOf d port).events.take n
    mailReply d port 0x0100 (zeros 20 ++ leBytes 2 l.length ++ zeros 10 ++
      (l.zip (List.range l.length)).flatMap (fun e => eventRecord d e.2 e.1)))

/-- `CLEAR_EVENT_RECORDS` (R361): the oldest `n`, or all for 0. -/
def execClearEventRecords (port n : Nat) (s : State) : Host.Outcome State Fault Refusal :=
  onDev (.clearEventRecords port n) s (fun d =>
    let p := portOf d port
    if linkUp p then mailReply (setPort d port { p with events := if n = 0 then [] else p.events.drop n }) port 0x0101 [] else d)

/-- `GET_EVENT_INTERRUPT_POLICY` (R361). -/
def execGetEventInterruptPolicy (port : Nat) (s : State) : Host.Outcome State Fault Refusal :=
  onDev (.getEventInterruptPolicy port) s (fun d => mailReply d port 0x0102 (leBytes 5 (portOf d port).policy))

/-- `SET_EVENT_INTERRUPT_POLICY` (R361). -/
def execSetEventInterruptPolicy (port val : Nat) (s : State) : Host.Outcome State Fault Refusal :=
  onDev (.setEventInterruptPolicy port val) s (fun d =>
    let p := portOf d port
    if linkUp p then mailReply (setPort d port { p with policy := val &&& policyMask }) port 0x0103 [] else d)

/-- `GET_HEALTH_INFO` (R361, R366): the temperature and the Dirty Shutdown Count; the rest is left open. -/
def execGetHealthInfo (port : Nat) (s : State) : Host.Outcome State Fault Refusal :=
  onDev (.getHealthInfo port) s (fun d =>
    mailReply d port 0x4200 (freeBits d 4 ++ freeBytes (useFree d) 1 ++ freeBits (useFree (useFree d)) 6 ++
      freeBytes (useFree (useFree (useFree d))) 1 ++ leBytes 2 d.boot.tj ++ leBytes 4 (portOf d port).dirtyShutdown ++
      freeBytes (useFree (useFree (useFree (useFree d)))) 8))

/-- `GET_TIMESTAMP` (R361): nanoseconds of the calendar, 0 while it is not valid. -/
def execGetTimestamp (port : Nat) (s : State) : Host.Outcome State Fault Refusal :=
  onDev (.getTimestamp port) s (fun d => mailReply d port 0x0300 (leBytes 8 d.cal))

/-- `SET_TIMESTAMP` (R521). -/
def execSetTimestamp (port val : Nat) (s : State) : Host.Outcome State Fault Refusal :=
  onState (.setTimestamp port val) s (fun k d =>
    if linkUp (portOf d port) then (setCalendar k (val / 1000000000) (val % 1000000000), mailReply d port 0x0301 []) else (k, d))

/-! ### SPDM (R513 to R515; request codes PRESUMED from SPDM 1.3, log entry 23) -/

/-- The measurement blocks of R515. -/
def measurements (d : Dev) : Bytes :=
  let rec_ := d.boot.record.getD []
  slice (Config.digest 1 d.boot.image) 0 64 ++ slice (Config.digest 1 rec_) 0 64 ++
    leBytes 4 d.boot.fwVersion ++ slice rec_ 24 4 ++ slice rec_ 4 4 ++ leBytes 1 d.boot.bootMode ++ leBytes 1 d.boot.slotId ++
    freeBytes d 4 ++ leBytes 4 idPart

/-- Requests that need the identity's private key: CHALLENGE, GET_MEASUREMENTS and KEY_EXCHANGE. -/
def spdmKeyed (op : Nat) : Bool := [0x83, 0xE0, 0xE4].contains op

/-- Serves an SPDM request: the chain, the measurements, or an answer left open; IDE_KM starts and stops link IDE (codes
above 0xFF are the model's, log entry 23). -/
def spdm (d : Dev) (port op : Nat) : Dev :=
  let p := portOf d port
  if !linkUp p then d
  else if spdmKeyed op ∧ !d.boot.identity then mailReply d port 0x7F []
  else if op = 0x82 then mailReply d port op d.boot.flashChain
  else if op = 0xE0 then mailReply d port op (measurements d ++ freeBytes (useFree d) 96)
  else if op = 0x100 ∨ op = 0x102 then mailReply (setPort d port { p with ideIo := decide (op = 0x100) }) port op []
  else if op = 0x101 ∨ op = 0x103 then mailReply (setPort d port { p with ideMem := decide (op = 0x101) }) port op []
  else mailReply d port op (freeBytes d 64)

/-- `SPDM_REQUEST` (R515). -/
def execSpdmRequest (port op : Nat) (s : State) : Host.Outcome State Fault Refusal :=
  onDev (.spdmRequest port op) s (fun d => spdm d port op)

/-! ### MSI-X masks (R465) -/

/-- The host writes the mask of an entry; a pending entry is sent when it is unmasked. -/
def maskVec (d : Dev) (port e : Nat) (masked : Bool) : Dev :=
  let p := portOf d port
  let d := setPort d port { p with vecs := tput p.vecs e { vecOf p e with masked := masked } }
  if !masked && (vecOf p e).pend then sendVec d port e else d

/-- The host writes the function mask. -/
def maskFunction (d : Dev) (port : Nat) (masked : Bool) : Dev :=
  let d := setPort d port { portOf d port with funcMask := masked }
  if masked then d else sendPending d port

/-- `MSIX_VECTOR_UNMASK` (R465). -/
def execMsixVectorUnmask (port entry : Nat) (s : State) : Host.Outcome State Fault Refusal :=
  onDev (.msixVectorUnmask port entry) s (fun d => maskVec d port entry false)

end Sys2Proof.Machine
end

