-- ==== Sys2Proof/Machine/Boot.lean ====
section
/-! DEFINITION. Device reset, boot, the firmware image and the configuration record (R40, R503 to R513, R524, R534,
R536). -/

namespace Sys2Proof.Machine

open Sys2Proof

/-! ### The configuration record (R509, R510) -/

/-- SHA-512 of bytes (log entry 6). -/
def sha512 (b : Bytes) : Bytes := slice (Config.digest 1 b) 0 64

/-- KEY_ID of the identity that the unclonable array gives (R513). -/
def ownKeyId : Nat := fieldAt (sha512 (Config.digest 0 [])) 0 8

/-- A signature over bytes verifies with the public key of a ROM slot. -/
def romSigned (slot : Nat) (msg sig : Bytes) : Bool := Config.signatureOk (leBytes 1 slot) msg sig

/-- REVOKE of a record. -/
def revokes (r : Bytes) (slot : Nat) : Bool := bitOf (fieldAt r 56 1) slot

/-- MAGIC, OWNER_PORTS and the reserved fields of a record are as they must be. -/
def recordForm (r : Bytes) : Bool :=
  decide (r.length = 512) && decide (fieldAt r 0 4 = 0x46434B50) && decide (fieldAt r 54 2 % 4096 ≠ 0) && decide (fieldAt r 54 2 < 4096) &&
    decide (fieldAt r 56 1 < 16) && allZero (slice r 66 382)

/-- The key slot is one of those that sign records, not revoked, and the signature verifies. -/
def recordSigned (old : Option Bytes) (r : Bytes) : Bool :=
  let slot := fieldAt r 57 1
  (slot == 2 || slot == 3) && !revokes r slot && !(old.any (fun o => revokes o slot)) && romSigned slot (slice r 0 448) (slice r 448 64)

/-- The record is bound to this identity and slot. -/
def recordBound (b : Boot) (r : Bytes) : Bool :=
  b.identity && decide (fieldAt r 16 8 = b.keyId) && (decide (fieldAt r 38 1 = 0xFF) || decide (fieldAt r 38 1 = b.slotId))

/-- The record of flash where it verifies. -/
def verifiedRecord (b : Boot) : Option Bytes :=
  b.flashRecord.filter (fun r => recordForm r && recordSigned none r && recordBound b r)

/-! ### The image (R505, R506) -/

/-- The cause for which an image is rejected; 0 where it is accepted. -/
def imageCause (rec_ : Option Bytes) (b : Bytes) : Nat :=
  let len := fieldAt b 8 4
  let slot := fieldAt b 12 1
  if fieldAt b 0 4 ≠ 0x4E454C53 ∨ len < 4096 ∨ len > 2 ^ 24 ∨ len > b.length ∨ !allZero (slice b 13 51) ∨ !allZero (slice b 192 64) then 1
  else if slot > 1 ∨ rec_.any (fun r => revokes r slot) then 2
  else if !romSigned slot (slice b 0 128) (slice b 128 64) then 3
  else if sha512 (slice b 256 (len - 256)) ≠ slice b 64 64 then 4
  else if fieldAt b 4 4 < (rec_.map (fun r => fieldAt r 24 4)).getD 0 then 5
  else 0

/-! ### Device reset (R503) -/

/-- What a device reset leaves: flash, the pins, durable pages on their modules with the faults of the bulk media (log
entry 3); everything else is as at reset. -/
def clearDevice (d : Dev) : Dev :=
  let b := d.boot
  let pages := d.pages.filter (fun p => p.2.durable)
  { Dev.reset with
    now := d.now, cal := d.cal, free := d.free, out := d.out,
    boot := { Boot.reset with
      held := b.held, slotId := b.slotId, bootMode := b.bootMode, flashRecord := b.flashRecord, flashImage := b.flashImage,
      flashChain := b.flashChain, torn := b.torn, helper := b.helper, pwrLow := b.pwrLow, tripped := b.tripped },
    pages := pages, mem := d.mem.filter (fun c => thas pages (c.1 / 65536)),
    media := d.media.filter (fun m => m.1 / 2 ^ 34 % 2 = 1),
    ports := (List.range 12).map (fun p => (p, { Port.reset with perst := (portOf d p).perst })) }

/-- The calendar clock is what a device reset keeps of the clocks. -/
def clearClock (k : Clock) : Clock := { Clock.reset with cal := k.cal, calNs := k.calNs, calValid := k.calValid }

/-- A flash write is abandoned (R508, R523): a torn record counts as absent, a torn image is rejected at the next boot. -/
def abandonFlash (d : Dev) : Dev :=
  match d.boot.flashJob with
  | none => d
  | some j =>
    { d with boot := if j.2.2.1 = 0 then { d.boot with flashJob := none, flashRecord := none }
                     else { d.boot with flashJob := none, torn := true } }

/-- Steps 1 to 3 of boot: ports train, identity and record, mailbox 0's binding (R40), the membership that the record
gives, and the window of R456.  STATE goes from RESET to BOOT, so STATE_CHANGE is set in every mailbox (R31); no mailbox
is bound yet when it does, so no queue takes the event (R59). -/
def startBoot (d : Dev) : Dev :=
  let d := { d with mbx := allMb.map (fun m => (m, { Mailbox.reset with doorbell := 8 })) }
  let b := { d.boot with held := false, phase := 1, identity := d.boot.helper, keyId := if d.boot.helper then ownKeyId else 0 }
  let b := { b with record := verifiedRecord b }
  let d := { d with boot := b, sw := { d.sw with refusing := true },
                    ports := d.ports.map (fun p => (p.1, { p.2 with link := if p.2.perst then 0 else 1 })),
                    links := [] }
  match b.record with
  | none => d
  | some r =>
    let owner := ((List.range 12).find? (fun p => bitOf (fieldAt r 54 2) p)).getD 0
    { setMb d 0 { mbOf d 0 with bound := true, ctx := 0, priv := 3, port := owner } with
      mbr := { d.mbr with map := mapOfRecord r } }

/-- `RESET_N_RISE` (R503, R534): straps are latched and boot begins. -/
def execResetNRise (straps : Straps) (s : State) : Host.Outcome State Fault Refusal :=
  onPin (.resetNRise straps) s (fun k d =>
    if d.boot.held then
      let d := clearDevice d
      (clearClock k, startBoot { d with now := 0, boot := { d.boot with slotId := straps.slotId, bootMode := straps.bootMode } })
    else (k, d))

/-- `RESET_N_FALL` (R531, R536): the device is held in reset, a flush stops, and THERMTRIP_N is released. -/
def execResetNFall (s : State) : Host.Outcome State Fault Refusal :=
  onPin .resetNFall s (fun k d =>
    if d.boot.held then (k, d)
    else
      let d := if d.boot.tripped then emit d (.pin 1 true) else d
      let d := clearDevice (abandonFlash d)
      (clearClock k, { d with boot := { d.boot with held := true, tripped := false } }))

/-- A device reset without the pin: the straps latched stay. -/
def resetDevice (k : Clock) (d : Dev) : Clock × Dev := (clearClock k, startBoot { clearDevice (abandonFlash d) with now := 0 })

/-- `DEVICE_RESET` (R503): a write of PWR_CTRL.DEVICE_RESET. -/
def execDeviceReset (s : State) : Host.Outcome State Fault Refusal := onState .deviceReset s resetDevice

/-! ### Power failure, as far as boot needs it (R523, R526) -/

/-- A POWER record with its event; events 3 and 4 carry the power, the others Tj (log entry 37). -/
def powerRecord (d : Dev) (event : Nat) : Dev :=
  let v := if event = 3 ∨ event = 4 then d.boot.power else d.boot.tj
  logErr d 12 0 0 0 0xFFFF (errBody 0 0 0 0xFFFF (event + v % 65536 * 65536) 0) true

/-- Step 1 of the flush: galleys stop fetching, a flash write is abandoned, new durable writes fail while it runs. -/
def startFlush (d : Dev) : Dev :=
  powerRecord (abandonFlash { d with boot := { d.boot with flushing := true, flushDone := false } }) 7

/-! ### Steps 4 to 6 -/

/-- The device enters RECOVERY: requests taken and not replied to are answered with INTERNAL. -/
def enterRecovery (d : Dev) (cause : Nat) : Dev :=
  failServices { d with boot := { d.boot with phase := 2, cause := cause, running := false } }

/-- Step 5 begins with an accepted image, unless PWR_FAIL_N is low (R536). -/
def runImage (d : Dev) (img : Bytes) : Dev :=
  let d := { d with boot := { d.boot with phase := 1, cause := 0, image := img, fwVersion := fieldAt img 4 4 } }
  if d.boot.pwrLow then startFlush d else { d with boot := { d.boot with running := true } }

/-- The end of step 4: the flash image runs, or RECOVERY.  A torn image is rejected with cause 3 or 4. -/
def verifyImage (d : Dev) : Dev :=
  let b := d.boot
  if b.phase ≠ 1 ∨ b.running ∨ b.flushing then d
  else if b.bootMode = 1 ∨ b.bootMode = 3 then enterRecovery d 6
  else if b.torn then enterRecovery (useFree d) (3 + freeVal d % 2)
  else
    let c := imageCause b.record b.flashImage
    if c = 0 then runImage d (slice b.flashImage 0 (fieldAt b.flashImage 8 4)) else enterRecovery d c

/-- `IMAGE_VERIFY_DONE` (R506). -/
def execImageVerifyDone (s : State) : Host.Outcome State Fault Refusal := onDev .imageVerifyDone s verifyImage

/-- A link that LINK_CTRL.ENABLE does not hold goes from DISABLED to DOWN (R372). -/
def enableLink (d : Dev) (l : Nat) : Dev :=
  if rf d (linkBase l) 0 1 = 1 then setLink d l { linkOf d l with state := 1 } else d

/-- The end of step 5: links enabled, floes ON, memories in service; what failed training is contained (R27, R503).  VDD_CORE is what
the process monitors ask for, a free value in the steps and the range of R502.  Each floe that has
gone from OFF to ON is an event of the device (R59). -/
def endTraining (d : Dev) (t : Training) : Dev :=
  let b := d.boot
  if b.phase ≠ 1 ∨ !b.running then d
  else
    let fs := List.range 4
    let bad := (fs.filter (fun f => !t.floes.getD f false))
    let badS := (List.range 12).filter (fun i => t.stackCaps.getD i 0 = 0)
    let badB := ((List.range 16).filter (fun i => t.bulks.getD i 0 = 0)).map (16 + ·)
    let e := { d with boot := { b with
        phase := 3, running := false, edgeReady := true,
        floes := fs.map (fun f => (f, if t.floes.getD f false then 0 else 2)), contained := bad, containedMem := badS ++ badB,
        stackCaps := (List.range 12).map (fun i => (i, t.stackCaps.getD i 0)), bulks := (List.range 16).map (fun i => (i, t.bulks.getD i 0)),
        backed := (List.range 16).filter (fun i => t.backed.getD i false), vddCore := 650 + 5 * (freeVal d % 41) } }
    let e := useFree e
    let e := if b.bootMode = 2 then e else (List.range 8).foldl enableLink e
    (fs.filter (floeOn e)).foldl (fun d f => eventDev d 1 0 f) e

/-- `BOOT_TRAINING_DONE` (R503). -/
def execBootTrainingDone (tr : Training) (s : State) : Host.Outcome State Fault Refusal :=
  onDev (.bootTrainingDone tr) s (fun d => endTraining d tr)

/-! ### IMAGE_PUSH and CONFIG_PUSH (R507, R508, R512) -/

/-- A flash write may begin: HOLDUP_OK, or no record to measure the bank by. -/
def flashAllowed (d : Dev) : Bool := !d.boot.flushing && (d.boot.record.isNone || d.boot.holdupOk)

/-- Begins a flash write; the reply follows it. -/
def writeFlash (d : Dev) (mb : Nat) (s : Service) (kind : Nat) (b : Bytes) : Dev :=
  if flashAllowed d then goesOn { d with boot := { d.boot with flashJob := some (mb, s.id, kind, b) } } mb s.id
  else answerMsg d mb s (refuse 0x44 0)

/-- The reply body of an accepted image. -/
def imageBody (b : Bytes) : Bytes := slice b 4 8

/-- Serves IMAGE_PUSH. -/
def pushImage (d : Dev) (mb : Nat) (s : Service) : Dev :=
  let flags := s.f 28 1
  let len := s.f 24 4
  let st := devState d
  let b := slice (s.params.getD []) 0 len
  match firstFault
      [(decide (s.f 8 8 ≠ 0) || decide (flags ≥ 2) || !s.zeroFrom 29, 0x43, 3), (decide (len > 2 ^ 24), 0x15, 3),
       (decide (st ≠ 2) && decide (hPriv s.hdr < 3), 0x11, 0),
       (decide (st ≠ 2) && (!(st == 3 || st == 4) || decide (flags = 0)), 0x43, 6), (s.paramErr, 0x15, 1)] with
  | some e => answerMsg d mb s (refuse e.1 e.2)
  | none =>
    match imageCause d.boot.record b with
    | 0 =>
      let img := slice b 0 (fieldAt b 8 4)
      if flags = 1 then writeFlash d mb s 1 img else answerMsg (runImage d img) mb s (okBody (imageBody img))
    | 5 => answerMsg d mb s (refuse 0x43 9)
    | _ => answerMsg d mb s (refuse 0x43 8)

/-- `IMAGE_PUSH` (R507). -/
def execImagePush (mb : Nat) (s : State) : Host.Outcome State Fault Refusal :=
  onDev (.imagePush mb) s (fun d => serveMsg d mb (fun r => msgOf r == 0x0F01) (fun d s => pushImage d mb s))

/-- Serves CONFIG_PUSH. -/
def pushConfig (d : Dev) (mb : Nat) (s : Service) : Dev :=
  let len := s.f 24 4
  let b := slice (s.params.getD []) 0 512
  match firstFault
      [(decide (s.f 8 8 ≠ 0) || !s.zeroFrom 28, 0x43, 3), (decide (len ≠ 512), 0x43, 4),
       (d.boot.record.isSome && decide (hPriv s.hdr < 3), 0x11, 0), (s.paramErr, 0x15, 1), (!recordForm b, 0x43, 4),
       (!recordSigned d.boot.record b, 0x43, 8), (!recordBound d.boot b, 0x43, 10),
       (d.boot.record.any (fun r => fieldAt b 4 4 < fieldAt r 4 4), 0x43, 9)] with
  | some e => answerMsg d mb s (refuse e.1 e.2)
  | none => writeFlash d mb s 0 b

/-- `CONFIG_PUSH` (R512). -/
def execConfigPush (mb : Nat) (s : State) : Host.Outcome State Fault Refusal :=
  onDev (.configPush mb) s (fun d => serveMsg d mb (fun r => msgOf r == 0x0F02) (fun d s => pushConfig d mb s))

/-- The reply body of an accepted record. -/
def recordBody (r : Bytes) : Bytes := slice r 4 4 ++ slice r 24 4 ++ slice r 8 8

/-- A flash write is complete: flash holds the bytes, the message replies, event 0x0009 is queued, and in RECOVERY the
image runs. -/
def endFlash (d : Dev) : Dev :=
  match d.boot.flashJob with
  | none => d
  | some (mb, id, kind, b) =>
    let boot := { d.boot with flashJob := none }
    let d := { d with boot := if kind = 0 then { boot with flashRecord := some b } else { boot with flashImage := b, torn := false } }
    let body := if kind = 0 then recordBody b else imageBody b
    let d := replyTo d mb id (fun s => solpen s.req 0 0 body)
    let d := eventDev d 9 0 0
    if kind = 1 ∧ d.boot.phase = 2 then runImage d b else d

/-- `FLASH_WRITE_DONE` (R508). -/
def execFlashWriteDone (s : State) : Host.Outcome State Fault Refusal := onDev .flashWriteDone s endFlash

end Sys2Proof.Machine
end

