-- ==== Sys2Proof/Machine/Power.lean ====
section
/-! DEFINITION. Power domains of the floes, hold-up, power failure and throttling (R16 to R20, R451, R502, R522 to
R526). -/

namespace Sys2Proof.Machine

open Sys2Proof

/-! ### FLOE_POWER (R18 to R20) -/

/-- The reply body of FLOE_POWER. -/
def floeBody (d : Dev) (f : Nat) : Bytes := leBytes 1 f ++ leBytes 1 (floeState d f)

/-- A refusal of FLOE_POWER reports the floe's state. -/
def floeNo (d : Dev) (f detail : Nat) : Answer := ⟨0x40, detail, floeBody d f, none⟩

/-- The conditions to power a floe off: no galley, no sequence slot, no directory entry (R18, R355). -/
def mayPowerOff (d : Dev) (f : Nat) : Bool :=
  !d.galleys.any (fun g => g.2.home == f) && !d.slots.any (fun s => s.2.home == f) &&
    !d.dir.any (fun e => homeFloe (pageOfLine e.1) == f)

/-- Notes that a power message waits for a floe. -/
def waitFloe (d : Dev) (mb : Nat) (s : Service) (f : Nat) : Dev :=
  goesOn { d with boot := { d.boot with floeJobs := tput d.boot.floeJobs f (mb, s.id) } } mb s.id

/-- Replies to the power message that waits for a floe. -/
def floeReply (d : Dev) (f status detail : Nat) : Dev :=
  match tget? d.boot.floeJobs f with
  | none => d
  | some (mb, id) =>
    let d := { d with boot := { d.boot with floeJobs := tdel d.boot.floeJobs f } }
    replyTo d mb id (fun s => solpen s.req status detail (floeBody d f))

/-- Serves a FLOE_POWER of one direction: the shared checks, then its own part. -/
def serveFloe (d : Dev) (mb dir : Nat) (act : Dev → Service → Nat → Dev) : Dev :=
  serveMsg d mb (fun r => msgOf r == 0x0013 && (fieldAt r 9 1 == dir || (fieldAt r 9 1 > 1 && dir == 1))) (fun d s =>
    let f := s.f 8 1
    match firstFault
        [(!s.zeroFrom 10, 0x43, 3), (decide (f > 3) || decide (s.f 9 1 > 1), 0x43, 4), (decide (hPriv s.hdr < 3), 0x11, 0)] with
    | some e => answerMsg d mb s (refuse e.1 e.2)
    | none => act d s f)

/-- What an access served of a floe that drains may still use, once its work is over, is dropped: it counts for one drain only. -/
def forgetServed (d : Dev) (f : Nat) : Dev := { d with touched := d.touched.filter (fun t => homeFloe t.1 != f || t.2.2 != 0) }

/-- `FLOE_POWER_OFF` (R18): a floe that is waking is refused as one whose conditions are not met (log entry 37). -/
def execFloePowerOff (mb : Nat) (s : State) : Host.Outcome State Fault Refusal :=
  onDev (.floePowerOff mb) s (fun d => serveFloe d mb 0 (fun d s f =>
    if floeState d f = 2 then answerMsg d mb s (okBody (floeBody d f))
    else if floeState d f ≠ 0 ∨ !mayPowerOff d f then answerMsg d mb s (floeNo d f 4)
    else waitFloe (setFloe (forgetServed d f) f 1) mb s f))

/-- `FLOE_POWER_ON` (R19): a floe that a recovery has left out of service is refused (log entry 37). -/
def execFloePowerOn (mb : Nat) (s : State) : Host.Outcome State Fault Refusal :=
  onDev (.floePowerOn mb) s (fun d => serveFloe d mb 1 (fun d s f =>
    if floeState d f = 0 then answerMsg d mb s (okBody (floeBody d f))
    else if floeState d f = 2 ∧ d.boot.contained.contains f then answerMsg d mb s (floeNo d f 4)
    else waitFloe (if floeState d f = 2 then setFloe d f 3 else d) mb s f))

/-- What reaching OFF ends: RUN commands that wait for the floe's cores, and requests at its agent (R38). -/
def floeIsOff (d : Dev) (f : Nat) : Dev :=
  let d := dropRuns (setFloe d f 2) f
  match (mbOf d (12 + f)).svc with
  | some s => readyReply d (12 + f) s.id (solpen s.req 0x42 0 [])
  | none => d

/-- Nothing is in flight in a draining floe: commands, moves, touch faults and the accesses they have served, packed decodes, and
requests that have begun or are held. -/
def floeIdle (d : Dev) (f : Nat) : Bool :=
  let here (line : Nat) := homeFloe (pageOfLine line) == f
  !d.cmds.any (fun c => c.2.inFloe f && c.2.phase != 3) && !d.moves.any (fun m => homeFloe m.1 == f) &&
    !d.touches.any (fun t => homeFloe t.1 == f) && !d.packJobs.any (fun j => homeFloe j.page == f) &&
    !d.lineWait.any (fun w => here w.1) && !d.dirWait.any (fun w => here w.1) &&
    !d.touched.any (fun t => homeFloe t.1 == f && t.2.2 == 0 && wantsRead d t.2.1) &&
    !d.fab.any (fun r => r.2.held && r.2.dst == selfNode d && here r.2.line) &&
    !d.reqs.any (fun r => (r.2.waits || r.2.begun) && here (r.2.addr / 64))

/-- The drain is complete: dirty lines are written back and the floe is OFF. -/
def endDrain (d : Dev) (f : Nat) : Dev :=
  if floeState d f = 1 && floeIdle d f then floeReply (floeIsOff (floeLost (saveFloe d f) f) f) f 0 0 else d

/-- `FLOE_DRAIN_DONE` (R19). -/
def execFloeDrainDone (f : Nat) (s : State) : Host.Outcome State Fault Refusal :=
  onDev (.floeDrainDone f) s (fun d => endDrain d f)

/-- `FLOE_DRAIN_TIMEOUT` (R20): the floe returns to ON and the request is refused. -/
def execFloeDrainTimeout (f : Nat) (s : State) : Host.Outcome State Fault Refusal :=
  onDev (.floeDrainTimeout f) s (fun d => if floeState d f = 1 then floeReply (setFloe d f 0) f 0x40 5 else d)

/-- `FLOE_WAKE_DONE` (R19, R451): the floe is ON; a recovery of it is over. -/
def execFloeWakeDone (f : Nat) (s : State) : Host.Outcome State Fault Refusal :=
  onDev (.floeWakeDone f) s (fun d =>
    if floeState d f = 3 then
      floeReply (if d.boot.contained.contains f then endFloeRecovery d f else setFloe d f 0) f 0 0
    else d)

/-- `FLOE_RECOVERY_TIMEOUT` (R451): a floe that has not reached ON stays out of service, as if OFF. -/
def execFloeRecoveryTimeout (f : Nat) (s : State) : Host.Outcome State Fault Refusal :=
  onDev (.floeRecoveryTimeout f) s (fun d =>
    if d.boot.contained.contains f && floeState d f == 3 then floeReply (floeIsOff d f) f 0x40 4 else d)

/-! ### Power failure (R523, R524, R536) -/

/-- Step 5 of boot has begun: before it a falling edge of PWR_FAIL_N is ignored. -/
def flushCovers (b : Boot) : Bool := b.phase == 3 || b.running

/-- `PWR_FAIL_N_FALL` (R523). -/
def execPwrFailNFall (s : State) : Host.Outcome State Fault Refusal :=
  onPin .pwrFailNFall s (fun k d =>
    let e := { d with boot := { d.boot with pwrLow := true } }
    (k, if !d.boot.held ∧ flushCovers d.boot ∧ !d.boot.flushing then startFlush e else e))

/-- The end of the flush: admitted durable writes stand on their modules, which get their save request, and memories
enter self-refresh. -/
def endFlush (d : Dev) : Dev :=
  if d.boot.flushing && !d.boot.flushDone && !durableWaits d then
    powerRecord (emit { d with boot := { d.boot with flushDone := true } } .save) 8
  else d

/-- `FLUSH_END` (R523): where PWR_FAIL_N has been high for 10 ms already, the device performs a device reset (R524). -/
def execFlushEnd (s : State) : Host.Outcome State Fault Refusal :=
  onState .flushEnd s (fun k d =>
    let e := endFlush d
    if e.boot.flushing ∧ e.boot.flushDone ∧ !e.boot.pwrLow then resetDevice k e else (k, e))

/-- `PWR_FAIL_N_HIGH` (R524): high for 10 ms, the device performs a device reset after a flush. -/
def execPwrFailNHigh (s : State) : Host.Outcome State Fault Refusal :=
  onPin .pwrFailNHigh s (fun k d =>
    let e := { d with boot := { d.boot with pwrLow := false } }
    if !d.boot.held ∧ d.boot.flushing ∧ d.boot.flushDone then resetDevice k e else (k, e))

/-! ### Hold-up (R522) -/

/-- A field of the verified record, or a default. -/
def recordField (d : Dev) (o n dflt : Nat) : Nat := (d.boot.record.map (fun r => fieldAt r o n)).getD dflt

/-- The usable energy in mJ at a sense voltage in mV. -/
def holdupEnergy (d : Dev) (mv : Nat) : Nat :=
  let c := recordField d 58 2 0
  let vmin := 1000 * recordField d 60 2 0
  let v := mv * recordField d 62 2 0
  c * (v * v - vmin * vmin) / 2000000000000

/-- One sample of HOLDUP_SENSE: HOLDUP_OK clears at once and sets after 1 ms of samples 50 mJ above. -/
def sampleHoldup (d : Dev) (mv : Nat) : Dev :=
  let e := holdupEnergy d mv
  let req := rf d 0x04B00010 0 16
  let b := { d.boot with energy := e }
  if b.holdupOk then
    if e < req then powerRecord { d with boot := { b with holdupOk := false, holdupSince := none } } 5
    else { d with boot := b }
  else if e < req + 50 ∨ d.boot.record.isNone then { d with boot := { b with holdupSince := none } }
  else
    let t := b.holdupSince.getD d.now
    if d.now ≥ t + 1000000 then powerRecord { d with boot := { b with holdupOk := true, holdupSince := none } } 6
    else { d with boot := { b with holdupSince := some t } }

/-- `HOLDUP_SAMPLE` (R522). -/
def execHoldupSample (mv : Nat) (s : State) : Host.Outcome State Fault Refusal :=
  onDev (.holdupSample mv) s (fun d => sampleHoldup d mv)

/-! ### AVS and throttling (R502, R525) -/

/-- `AVS_ACK_TIMEOUT` (R502): VDD_CORE stays at the last value acknowledged, the one the regulator starts at, since the compositor asks
once; a POWER record is written. -/
def execAvsAckTimeout (s : State) : Host.Outcome State Fault Refusal :=
  onDev .avsAckTimeout s (fun d =>
    if flushCovers d.boot then powerRecord { d with boot := { d.boot with vddCore := 800 } } 10 else d)

/-- THROTTLE_C, values outside 70 to 100 acting as the nearer end. -/
def throttleC (d : Dev) : Nat := max 70 (min 100 (rf d 0x04B00008 0 8))

/-- Entry point of a thermal level in °C. -/
def levelEntry (d : Dev) (l : Nat) : Nat := if l = 1 then throttleC d else if l = 2 then throttleC d + 5 else 105

/-- The level that a temperature enters. -/
def entersLevel (d : Dev) (tj : Nat) : Nat :=
  if tj ≥ levelEntry d 3 then 3 else if tj ≥ levelEntry d 2 then 2 else if tj ≥ levelEntry d 1 then 1 else 0

/-- The level held from a level that was in force: each is left 3 °C below its entry point. -/
def leavesLevel (d : Dev) (tj : Nat) : Nat → Nat
  | 0 => 0
  | l + 1 => if tj + 3 ≤ levelEntry d (l + 1) then leavesLevel d tj l else l + 1

/-- One sample of Tj and of the power estimate. -/
def sampleThermal (d : Dev) (tj pw : Nat) : Dev :=
  let b := d.boot
  let lim := recordField d 64 2 1450
  let th := max (entersLevel d tj) (leavesLevel d tj b.thermLevel)
  let po := if pw > lim then 1 else if b.powerLevel = 1 ∧ 100 * pw ≥ 95 * lim then 1 else 0
  let d := { d with boot := { b with tj := tj, power := pw, thermLevel := th, powerLevel := po } }
  let d := if b.thermLevel = 0 ∧ th ≠ 0 then powerRecord d 1 else if b.thermLevel ≠ 0 ∧ th = 0 then powerRecord d 2 else d
  let d := if b.powerLevel = 0 ∧ po = 1 then powerRecord d 3 else if b.powerLevel = 1 ∧ po = 0 then powerRecord d 4 else d
  if tj ≥ 110 ∧ !b.tripped then
    powerRecord (emit { d with boot := { d.boot with tripped := true, failed := true } } (.pin 1 false)) 9
  else d

/-- `THERMAL_SAMPLE` (R525). -/
def execThermalSample (tj pw : Nat) (s : State) : Host.Outcome State Fault Refusal :=
  onDev (.thermalSample tj pw) s (fun d => sampleThermal d tj pw)

end Sys2Proof.Machine
end

