-- ==== Sys2Proof/Machine/RegAccess.lean ====
section
/-! DEFINITION. Reading and writing registers: the register space, BAR0 and BAR2 (R6 to R10, R22, R23, R28 to R31, R54
to R58, R118, R197). -/

namespace Sys2Proof.Machine

open Sys2Proof

/-! ### What the registers show -/

/-- ENGINE_BUSY of CORE_STATUS: the scalar engine while the core is RUNNING, an engine while it holds instructions (log
entry 38). -/
def engineBusy (x : Core) : Nat :=
  let busy (st : Nat) := !(streamOf x st).queue.isEmpty || !(streamOf x st).flight.isEmpty
  b2n (x.state = 2) + 2 * b2n (busy 0) + 4 * b2n (busy 1) + 8 * b2n ((List.range 16).any (fun h => busy (h + 2)))

/-- Fields of a DMA channel that its core's state gives (R402). -/
def chanLive (d : Dev) (c h q : Nat) : Nat :=
  let k := chOf d c h
  let x := coreOf d c
  if q = 0x10 then
    chanStateReg d c h + 8 * b2n k.multi + 16 * b2n k.resumeRefused + k.haltStatus * 2 ^ 8 + b2n k.haltWrite * 2 ^ 16 +
      b2n k.haltLocal * 2 ^ 17 + queued x (h + 2) * 2 ^ 21
  else if q = 0x18 then k.haltAddr % 2 ^ 48
  else if q = 0x20 then k.desc % 2 ^ 23
  else if q = 0x28 then k.crcShown
  else if q = 0x30 then k.count % 2 ^ 64
  else 0

/-- Fields of a core's block that its state gives (R128, R124, R127, R436). -/
def coreLive (d : Dev) (c q : Nat) : Nat :=
  let x := coreOf d c
  if q = 0x08 then
    (if firmwareCore d c then 2 else x.state) + 8 * b2n x.heldRefused + 16 * engineBusy x + x.faultCause * 2 ^ 8 + x.tag * 2 ^ 20 + x.ctx * 2 ^ 32
  else if q = 0x18 then
    queued x 0 + queued x 1 * 2 ^ 8 +
      (List.range 16).foldl (fun n h => n + b2n (decide (0 < queued x (h + 2))) * 2 ^ (16 + h)) 0
  else if q = 0x20 then x.codeBase / 4096 + x.codeLen / 4096 * 2 ^ 16
  else if q = 0x38 then x.selftest + 4 * x.quarantines + 16 * x.failColumn + 1024 * b2n x.failAtStore
  else if 0x1000 ≤ q ∧ q < 0x2000 then chanLive d c ((q - 0x1000) / 0x100) (q % 0x100)
  else if 0x2000 ≤ q ∧ q < 0x3000 then
    let p := (q - 0x2000) / 0x100
    if q % 0x100 = 0x30 then (tget x.pfPos p (0, 0, 0, 0)).1 % 2 ^ 32
    else if q % 0x100 = 0x38 then b2n (x.pfActive.contains p) + 2 * b2n (x.pfDone.contains p) + 4 * b2n (x.pfDropped.contains p)
    else 0
  else if 0x3000 ≤ q ∧ q < 0x3080 then tokenOf x ((q - 0x3000) / 4)
  else if q = 0x3080 then x.tokenOvf
  else 0

/-- CODEC_STATUS or SE_STATUS. -/
def unitLive (d : Dev) (f u : Nat) : Nat :=
  let v := tget d.unitTag (6 * f + u) 0
  b2n (unitBusy d f u) + (if u < 4 then 2 * (v / 4096) else 0) + (unitWork d f u).getD (v % 4096) * 2 ^ 16

/-- Fields of a unit arbiter (R412). -/
def arbLive (d : Dev) (f a q : Nat) : Nat :=
  let x := arbOf d f a
  if q = 0x18 then x.fenced
  else if q = 0x20 then
    (match x.owner with
      | some g => g.req.slot + 32 + g.req.cls % 8 * 2 ^ 6 + b2n g.quoin * 2 ^ 9
      | none => 0) + x.parked.length * 2 ^ 16
  else if q = 0x28 then arbCounts x
  else 0

/-- Fields of a memory controller (R432). -/
def eccLive (d : Dev) (f u q : Nat) : Nat :=
  let e := eccOf d f u
  if q = 0x210 then e.line % 2 ^ 32 + e.passes % 65536 * 2 ^ 32 + b2n e.late * 2 ^ 48
  else if q = 0x218 then eccCounts e
  else 0

/-- Fields of a directory slice (R358). -/
def dirLive (d : Dev) (f q : Nat) : Nat :=
  let mine := d.dir.filter (fun e => homeFloe (pageOfLine e.1) = f)
  let pr := tget d.dirProbe f (0, 0, 0)
  if q = 0x00 then 2 * b2n (d.dirFlush.contains f)
  else if q = 0x08 then
    (mine.filter (fun e => e.2.state ≠ 0)).length + (mine.filter (fun e => e.2.state = 3)).length * 2 ^ 32 +
      b2n (d.dirWalk.any (fun w => w.1 = f)) * 2 ^ 63
  else if q = 0x10 then
    dirPending d f + (d.dirWait.filter (fun w => homeFloe (pageOfLine w.1) = f)).length * 2 ^ 16
  else if q = 0x18 then pr.2.2 * 2 ^ 63
  else if q = 0x20 then pr.1
  else if q = 0x28 then pr.2.1
  else 0

/-- Fields of a floe's blocks. -/
def floeLive (d : Dev) (f rel : Nat) : Nat :=
  if rel < 0x100000 then coreLive d (16 * f + rel / 0x10000) (rel % 0x10000)
  else if rel < 0x10C000 then eccLive d f ((rel - 0x100000) / 0x4000) (rel % 0x4000)
  else if 0x110000 ≤ rel ∧ rel < 0x118000 then eccLive d f (3 + (rel - 0x110000) / 0x2000) (rel % 0x2000)
  else if 0x120000 ≤ rel ∧ rel < 0x123C00 then arbLive d f ((rel - 0x120000) / 0x200) (rel % 0x200)
  else if rel = 0x130008 then 2 * b2n (d.flushBusy.contains f)
  else if 0x140000 ≤ rel ∧ rel < 0x150000 then dirLive d f (rel - 0x140000)
  else if rel = 0x150020 then tget d.plv f 0 % 2 ^ 32
  else if rel = 0x150024 then
    (d.queue.filter (fun q => homeFloe q.1 = f)).length + movesOf d f * 2 ^ 11 + b2n (suspended d f) * 2 ^ 16 +
      b2n (thas d.sweep f && autoOn d f) * 2 ^ 17
  else if 0x160000 ≤ rel ∧ rel < 0x166000 ∧ rel % 0x1000 = 8 then unitLive d f ((rel - 0x160000) / 0x1000)
  else 0

/-- Fields of a CXL port (R368). -/
def portLive (d : Dev) (n q : Nat) : Nat :=
  let p := portOf d n
  if q = 0x08 then
    p.link + p.speed * 2 ^ 4 + (if p.link = 3 then p.narrow else p.width) * 2 ^ 6 + b2n p.flit256 * 2 ^ 11 +
      b2n p.ideIo * 2 ^ 12 + b2n p.ideMem * 2 ^ 13
  else if q = 0x18 then
    p.failStatus + p.failDecoder * 2 ^ 8 + b2n p.failWrite * 2 ^ 12 + b2n p.failNoDec * 2 ^ 13 + b2n p.failValid * 2 ^ 31
  else if q = 0x20 then p.failAddr % 2 ^ 52
  else 0

/-- Fields of a Golven link (R385). -/
def linkLive (d : Dev) (l q : Nat) : Nat :=
  let k := linkOf d l
  if q = 0x08 then k.state + k.peer * 2 ^ 8 + b2n k.auth * 2 ^ 18 + k.lanes * 2 ^ 24
  else if q = 0x20 then (linkLat l k.lanes).1 + (linkLat l k.lanes).2 * 2 ^ 16 + k.peerTx * 2 ^ 32 + k.peerRx * 2 ^ 48
  else 0

/-- ROLE of MBR_STATUS. -/
def mbrRole (d : Dev) : Nat := if isCoord d then 2 else if isManager d then 1 else 0

/-- Fields of the switch core, the fabric unit and the membership block (R335, R386, R498). -/
def swLive (d : Dev) (q : Nat) : Nat :=
  if q = 0x08 then 131072 - (d.sw.bufs.filter (fun b => b.2.tag ≠ 0 && !b.2.onFree)).length
  else if q = 0x2110 then d.sw.mirTail % 2 ^ 32
  else if q = 0xE0010 then
    mbrRole d + 4 * b2n d.mbr.majority + min 65535 ((d.now - d.mbr.leaseAt) / 1000) * 2 ^ 16
  else if q = 0xE0028 then d.mbr.twin + d.mbr.log.length * 2 ^ 8
  else if q = 0xF0020 then (d.fab.filter (fun r => !r.2.held && r.2.owed)).length + (d.entries.length + d.fwdReads.length) * 2 ^ 16
  else 0

/-- LOCKED of TIME_STATUS: the last measured offset is within 50 ns, or the device is itself the reference (R518). -/
def timeLocked (k : Clock) (d : Dev) : Bool :=
  d.mbr.joined && ((timeLink k d).isNone || (k.joined && decide (k.offset.natAbs ≤ 50)))

/-- A signed value saturated to 16 bits. -/
def sat16 (i : Int) : Nat := ofSigned 16 (max (-32768) (min 32767 i))

/-- Fields of the time unit and the impression block (R419, R521). -/
def timeLive (k : Clock) (d : Dev) (q : Nat) : Nat :=
  if q = 0x08 then b2n (timeLocked k d) + 2 * b2n k.ppsLocked + 4 * b2n k.calValid + sat16 k.offset * 2 ^ 16
  else if q = 0x10 then k.cal
  else if q = 0x4020 then k.impr + phase k d * 4
  else if q = 0x4028 then period k d % 2 ^ 32
  else if q = 0x4030 then k.last
  else if q = 0x4038 then k.count
  else if q = 0x4040 then k.ignored + k.synthesised * 2 ^ 16 + k.calForced * 2 ^ 32
  else 0

/-- Fields of the error queue block (R447). -/
def errLive (d : Dev) (q : Nat) : Nat :=
  if q = 0x00 then errqStatus d
  else if q = 0x08 then oldestSeq d.errq + d.errq.next * 2 ^ 32
  else if q = 0x20 then
    d.boot.contained.foldl (fun n f => n + 2 ^ f) 0 + 16 * b2n d.sw.recovering + min 1023 d.errq.opens.length * 2 ^ 8
  else if 0x8000 ≤ q then
    match tget? d.errq.slots ((q - 0x8000) / 0x40) with
    | some r => fieldAt (errBytes r) (q % 0x40) 8
    | none => 0
  else 0

/-- BUS_STATUS of a processor (R58). -/
def busLive (d : Dev) (n : Nat) : Nat :=
  let b := tget d.bus n ⟨0, false, 0⟩
  b.status + b2n b.sticky * 2 ^ 8 + b.offset * 2 ^ 32

/-- The fields of the register at `base` that the state gives: all but the stored read-write ones. -/
def regLive (k : Clock) (d : Dev) (base : Nat) : Nat :=
  if base < 0x04000000 then floeLive d (base / 0x01000000) (base % 0x01000000)
  else if base < 0x04300000 then portLive d ((base - 0x04000000) / 0x40000) (base % 0x40000)
  else if base < 0x04500000 then linkLive d ((base - 0x04300000) / 0x40000) (base % 0x40000)
  else if base < 0x04900000 then swLive d (base - 0x04800000)
  else if base < 0x04B00000 then timeLive k d (base - 0x04A00000)
  else if base = 0x04B00018 then
    d.boot.tj % 65536 + throttleLevel d * 2 ^ 16 + b2n d.boot.flushing * 2 ^ 18 + min 65535 d.boot.energy * 2 ^ 32 +
      min 65535 d.boot.power * 2 ^ 48
  else if 0x04C00000 ≤ base ∧ base < 0x04C10000 then errLive d (base - 0x04C00000)
  else if 0x04D00800 ≤ base ∧ base < 0x04D00850 then busLive d ((base - 0x04D00800) / 0x10)
  else if base = 0x04E00000 then d.boot.cause + 8 * b2n d.boot.record.isSome + 16 * b2n d.boot.identity
  else 0

/-- The bits of the Staged fields of a register. -/
def stagedMask (r : Reg) : Nat :=
  r.flds.foldl (fun n f => if f.eff = .staged then n + (2 ^ f.w - 1) * 2 ^ f.lsb else n) 0

/-- What a read of a register returns (R6, R9); with `eff`, the Staged fields as they are in force (R54). -/
def regValue (k : Clock) (d : Dev) (r : Reg) (eff : Bool) : Nat :=
  let m := stagedMask r
  let v := rv d r.base
  (if eff then v - (v &&& m) + (re d r.base &&& m) else v) + regLive k d r.base

/-! ### Accesses of 4 and 8 bytes (R30) -/

/-- The registers under an access. -/
def regsUnder (off size : Nat) : List Reg :=
  match regAt off with
  | none => []
  | some r =>
    if size = 8 then
      match regAt (off + 4) with
      | some q => if q.base = r.base then [r] else [r, q]
      | none => [r]
    else [r]

/-- A number at a register's place as seen from the access. -/
def toAccess (r : Reg) (off v : Nat) : Nat := if off ≤ r.base then v <<< (8 * (r.base - off)) else v >>> (8 * (off - r.base))

/-- A number of the access as seen from the register. -/
def toReg (r : Reg) (off v : Nat) : Nat :=
  (if off ≤ r.base then v >>> (8 * (r.base - off)) else v <<< (8 * (off - r.base))) % 2 ^ (8 * r.size)

/-- The value under an access. -/
def readAt (k : Clock) (d : Dev) (off size : Nat) (eff : Bool) : Nat :=
  (regsUnder off size).foldl (fun n r => n + toAccess r off (regValue k d r eff)) 0 % 2 ^ (8 * size)

/-- Clears the RC fields of a register that a mask touches (R6). -/
def clearRc (d : Dev) (base m : Nat) : Dev :=
  if base < 0x04000000 then
    let f := base / 0x01000000
    let rel := base % 0x01000000
    if 0x100000 ≤ rel ∧ rel < 0x118000 then
      let u := if rel < 0x110000 then (rel - 0x100000) / 0x4000 else 3 + (rel - 0x110000) / 0x2000
      let e := eccOf d f u
      setEcc d f u { e with corrected := if bits m 0 32 = 0 then e.corrected else 0,
                            uncorrectable := if bits m 32 16 = 0 then e.uncorrectable else 0,
                            miscorrect := if bits m 48 16 = 0 then e.miscorrect else 0 }
    else if 0x120000 ≤ rel ∧ rel < 0x123C00 then
      let a := (rel - 0x120000) / 0x200
      let x := arbOf d f a
      setArb d f a { x with preemptions := if bits m 0 24 = 0 then x.preemptions else 0,
                            queueFull := if bits m 24 24 = 0 then x.queueFull else 0,
                            bites := if bits m 48 16 = 0 then x.bites else 0 }
    else d
  else if base = 0x04C00000 ∧ bits m 16 16 ≠ 0 then { d with errq := { d.errq with lostReg := 0 } }
  else d

/-- What a read does besides returning its value. -/
def readEffect (d : Dev) (off size : Nat) : Dev :=
  (regsUnder off size).foldl (fun d r =>
    if r.flds.any (fun f => f.acc = .rc) then clearRc d r.base (toReg r off (2 ^ (8 * size) - 1)) else d) d

/-! ### Running units (R57) -/

/-- A core counts as running (R128). -/
def coreRunning (x : Core) : Bool := decide (1 ≤ x.state) && decide (x.state ≤ 3)

/-- A DMA channel counts as running (R397). -/
def chanRunning (d : Dev) (c h : Nat) : Bool := [1, 2, 3, 5].contains (chOf d c h).state

/-- Some mirror session is enabled (R386). -/
def sessionOn (d : Dev) : Bool := (List.range 4).any (fun s => rf d (0x04802000 + s * 0x40) 0 1 == 1)

/-- The unit of the Held fields of the register at `base` is running. -/
def regRunning (d : Dev) (base : Nat) : Bool :=
  if base < 0x04000000 then
    let f := base / 0x01000000
    let rel := base % 0x01000000
    if rel < 0x100000 then
      let c := 16 * f + rel / 0x10000
      let q := rel % 0x10000
      if 0x1000 ≤ q ∧ q < 0x2000 then chanRunning d c ((q - 0x1000) / 0x100)
      else if 0x2000 ≤ q ∧ q < 0x3000 then (coreOf d c).pfActive.contains ((q - 0x2000) / 0x100)
      else coreRunning (coreOf d c)
    else if 0x150000 ≤ rel ∧ rel < 0x160000 then rf d (plcBase f) 0 1 == 1
    else if 0x160000 ≤ rel ∧ rel < 0x166000 then unitBusy d f ((rel - 0x160000) / 0x1000)
    else false
  else if base < 0x04300000 then portRunning (portOf d ((base - 0x04000000) / 0x40000))
  else if base < 0x04500000 then decide (1 < (linkOf d ((base - 0x04300000) / 0x40000)).state)
  else if 0x04802100 ≤ base ∧ base < 0x04802120 then sessionOn d
  else if base = 0x048E0020 then mirrorOn d
  else if 0x048E0100 ≤ base ∧ base < 0x048E0200 then rf d (base / 0x10 * 0x10 + 8) 0 2 != 0
  else false

/-! ### Writing the stored fields -/

/-- What a write of a register came to. -/
structure Wrote where
  /-- the stored bits after the write -/
  val : Nat
  /-- bits of refused Held fields, and of Staged fields that wait for their boundary -/
  refused : Nat
  staged : Nat
  /-- some MIN_CELLS was refused (R386) -/
  full : Bool
  deriving DecidableEq, Repr

/-- Sum of MIN_CELLS over all outputs and classes but one. -/
def minCells (d : Dev) (but : Nat) : Nat :=
  (List.range 200).foldl (fun n k => let b := 0x04800200 + 4 * k; if b = but then n else n + rf d b 0 16) 0

/-- A field takes a written value (R8, R56): `m` and `v` are the register's mask and value. -/
def writeField (d : Dev) (r : Reg) (run : Bool) (m v : Nat) (o : Wrote) (f : Fld) : Wrote :=
  let fm := bits m f.lsb f.w
  let old := bits o.val f.lsb f.w
  let new := (old - (old &&& fm)) + (bits v f.lsb f.w &&& fm)
  let new := if 0x150008 = r.base % 0x01000000 ∧ r.base < 0x04000000 ∧ new = 0 then 1 else new
  if f.acc ≠ .rw ∨ fm = 0 then o
  else if f.eff = .held ∧ run ∧ new ≠ old then { o with refused := o.refused + (2 ^ f.w - 1) * 2 ^ f.lsb }
  else if 0x04800200 ≤ r.base ∧ r.base < 0x04800520 ∧ f.lsb = 0 ∧ new ≠ old ∧ minCells d r.base + new ≥ 131072 then
    { o with full := true }
  else
    { o with val := setBits o.val f.lsb f.w new,
             staged := if f.eff = .staged ∧ new ≠ bits (re d r.base) f.lsb f.w then o.staged + (2 ^ f.w - 1) * 2 ^ f.lsb
                       else o.staged }

/-- The number of the token whose count is the register at `base`, with its core. -/
def tokenAt (base : Nat) : Option (Nat × Nat) :=
  let q := base % 0x10000
  if base < 0x04000000 ∧ base % 0x01000000 < 0x100000 ∧ 0x3000 ≤ q ∧ q < 0x3080 then
    some (16 * (base / 0x01000000) + base % 0x01000000 / 0x10000, (q - 0x3000) / 4)
  else none

/-- A write that sets AUTO_ENABLE of a floe's placement unit: the unit starts, with its Staged field in force (R57,
R94). -/
def startsSweeps (base old new : Nat) : Bool :=
  decide (base < 0x04000000) && base % 0x01000000 == 0x150000 && !bitOf old 0 && bitOf new 0

/-- A write that clears AUTO_ENABLE of a floe's placement unit: a sweep that has not run yet does not (R94). -/
def stopsSweeps (base old new : Nat) : Bool :=
  decide (base < 0x04000000) && base % 0x01000000 == 0x150000 && bitOf old 0 && !bitOf new 0

/-- Stores the read-write fields of a register: a Staged field keeps its old value in force (R9). -/
def storeReg (d : Dev) (r : Reg) (m v : Nat) : Dev × Wrote :=
  match tokenAt r.base with
  | some (c, t) =>
    let o := r.flds.foldl (writeField d r (regRunning d r.base) m v) ⟨tokenOf (coreOf d c) t, 0, 0, false⟩
    (modCore d c (fun x => { x with tokens := tput x.tokens t o.val }), o)
  | none =>
    let old := rv d r.base
    let o := r.flds.foldl (writeField d r (regRunning d r.base) m v) ⟨old, 0, 0, false⟩
    if o.val = old ∨ r.base = 0x04A00010 then (d, o)
    else
      let d :=
        if startsSweeps r.base old o.val then { d with force := tdel d.force r.base }
        else if stopsSweeps r.base old o.val then
          { d with sweep := tdel d.sweep (r.base / 0x01000000),
                   force := if stagedMask r = 0 ∨ thas d.force r.base then d.force else tput d.force r.base old }
        else if stagedMask r = 0 ∨ thas d.force r.base then d
        else { d with force := tput d.force r.base old }
      ({ d with regs := tput d.regs r.base o.val }, o)

/-! ### What a write does besides (R6: WO and W1C) -/

/-- The highest set bit of CH_CTRL acts (R402). -/
def chanCtrl (d : Dev) (c h w : Nat) : Dev :=
  if bitOf w 3 then chanAbandon d c h
  else if bitOf w 2 then chanStop d c h
  else if bitOf w 1 then chanSkip d c h
  else if bitOf w 0 then chanResume d c h
  else d

/-- A write to a core's block: `w` are the bits written as 1, `m` the bits written; `self` where the core's own scalar
engine writes. -/
def coreAct (d : Dev) (c q m w : Nat) (self : Bool) : Dev :=
  if q = 0x00 then
    let d := if bitOf w 0 then coreStop d c 0x51 else d
    if bitOf w 1 then clearFault d c else d
  else if q = 0x08 then (if bitOf w 3 then modCore d c (fun x => { x with heldRefused := false }) else d)
  else if q = 0x30 then (if bitOf w 0 then releaseCore d c else d)
  else if 0x1000 ≤ q ∧ q < 0x2000 then
    let h := (q - 0x1000) / 0x100
    if q % 0x100 = 0x00 then chanCtrl d c h (w % 16)
    else if q % 0x100 = 0x10 ∧ bitOf w 4 then setCh d c h (fun k => { k with resumeRefused := false })
    else d
  else if 0x2000 ≤ q ∧ q < 0x3000 then
    let p := (q - 0x2000) / 0x100
    if q % 0x100 = 0x00 then (if bitOf m 0 then prefEnable d c p (bitOf w 0) else d)
    else if q % 0x100 = 0x38 then
      modCore d c (fun x => { x with pfDone := inSet x.pfDone p (x.pfDone.contains p && !bitOf w 1),
                                     pfDropped := inSet x.pfDropped p (x.pfDropped.contains p && !bitOf w 2) })
    else d
  else if q = 0x3080 then modCore d c (fun x => { x with tokenOvf := x.tokenOvf - (x.tokenOvf &&& w) })
  else if q = 0x3200 then
    let n := bits w 8 4
    if self then corePulse d c (bits w 0 8) n else pulseLine d (c / 16) (bits w 0 8) (if n = 0 then 1 else n)
  else d

/-- A write to another block of a floe. -/
def floeAct (d : Dev) (f rel m w : Nat) (self : Bool) : Dev :=
  if rel < 0x100000 then coreAct d (16 * f + rel / 0x10000) (rel % 0x10000) m w self
  else if rel < 0x118000 then
    let u := if rel < 0x110000 then (rel - 0x100000) / 0x4000 else 3 + (rel - 0x110000) / 0x2000
    if rel % 0x2000 = 0x210 ∧ bitOf w 48 then setEcc d f u { eccOf d f u with late := false } else d
  else if 0x120000 ≤ rel ∧ rel < 0x123C00 then
    (if rel % 0x200 = 0x18 ∧ w ≠ 0 then unfence d f ((rel - 0x120000) / 0x200) w else d)
  else if rel = 0x130008 then
    (if bitOf w 0 ∧ !d.flushBusy.contains f then { d with flushBusy := d.flushBusy ++ [f] } else d)
  else if rel = 0x140000 then (if bitOf w 0 then startDirFlush d f else d)
  else if rel = 0x140018 then (if bits m 0 44 = 0 then d else probeDir d f (rv d (floeBase f + 0x140018)))
  else d

/-- A write to a register outside the floes; `old` is what its read-write fields held before. -/
def edgeAct (k : Clock) (d : Dev) (base old m w : Nat) : Clock × Dev :=
  if base < 0x04300000 then
    let n := (base - 0x04000000) / 0x40000
    if base % 0x40000 = 0 then (k, if bitOf m 0 then enablePort d n (bitOf w 0) else d)
    else if base % 0x40000 = 0x18 ∧ bitOf w 31 then (k, setPort d n { portOf d n with failValid := false })
    else (k, d)
  else if base < 0x04500000 then
    let l := (base - 0x04300000) / 0x40000
    if base % 0x40000 = 0 then
      let d := if bitOf m 0 then setLinkEnable d l (bitOf w 0) else d
      (k, if bitOf w 2 then retrainLink d l else d)
    else (k, d)
  else if 0x048E0100 ≤ base ∧ base < 0x048E0200 ∧ base % 0x10 = 8 then
    (k, if rv d base = old then d else windowMode d ((base - 0x048E0100) / 0x10) (bits old 0 2))
  else if base = 0x04A00010 then (if m = 0 then (k, d) else (setCalendar k (k.cal - (k.cal &&& m) + w) 0, d))
  else if base = 0x04A04000 then (if rf d base 0 2 = 3 then { k with impr := 0 } else k, d)
  else if base = 0x04B00000 then (if bitOf w 0 then resetDevice k d else (k, d))
  else if base = 0x04C00010 then (k, if m = 0 then d else ackErrors d w)
  else if 0x04D00800 ≤ base ∧ base < 0x04D00850 ∧ bitOf w 8 then
    (k, { d with bus := tmod d.bus ((base - 0x04D00800) / 0x10) (fun b => { b with sticky := false }) })
  else (k, d)

/-- A write of a register: its stored fields, then what the written bits do. -/
def writeReg (k : Clock) (d : Dev) (r : Reg) (m v : Nat) (self : Bool) : Clock × Dev × Wrote :=
  let old := rv d r.base
  let o := storeReg d r m v
  let w := v &&& m
  if r.base < 0x04000000 then (k, floeAct o.1 (r.base / 0x01000000) (r.base % 0x01000000) m w self, o.2)
  else
    let e := edgeAct k o.1 r.base old m w
    (e.1, e.2, o.2)

/-- A write of 4 or 8 bytes under a mask; answers its refused and staged bits at their places in the access. -/
def writeAt (k : Clock) (d : Dev) (off size m v : Nat) (self : Bool) : Clock × Dev × Wrote :=
  (regsUnder off size).foldl (fun (s : Clock × Dev × Wrote) r =>
    let x := writeReg s.1 s.2.1 r (toReg r off (m % 2 ^ (8 * size))) (toReg r off (v % 2 ^ (8 * size))) self
    (x.1, x.2.1, ⟨0, s.2.2.refused + toAccess r off x.2.2.refused, s.2.2.staged + toAccess r off x.2.2.staged,
                  s.2.2.full || x.2.2.full⟩)) (k, d, ⟨0, 0, 0, false⟩)

/-! ### The compositor and the floe agents (R30, R54 to R58) -/

/-- The outcome of a processor's access in its BUS_STATUS: the compositor is 0, the agent of floe f is f + 1. -/
def noteBus (d : Dev) (n status off : Nat) : Dev :=
  let b := tget d.bus n ⟨0, false, 0⟩
  { d with bus := tput d.bus n ⟨status, b.sticky || decide (status ≠ 0), off % 2 ^ 32⟩ }

/-- A size other than 4 and 8, a misaligned or a reserved offset. -/
def badOffset (off size : Nat) : Bool := !(size == 4 || size == 8) || off % size != 0 || (regAt off).isNone

/-- The offset lies in a floe that is not ON. -/
def offInFloe (d : Dev) (off : Nat) : Bool := decide (off < 0x04000000) && !floeOn d (off / 0x01000000)

/-- Records a refused access of a processor (R30, R58). -/
def badAccess (d : Dev) (n off : Nat) : Dev :=
  noteBus (controlErr d (if n = 0 then 15 else 16) (n - 1) off) n 0x43 off

/-- A processor's write, atomic (R55); answers the status, and what was refused and staged. -/
def procWrite (k : Clock) (d : Dev) (n off size m v : Nat) : Clock × Dev × Nat × Wrote :=
  if badOffset off size then (k, badAccess d n off, 0x43, ⟨0, 0, 0, false⟩)
  else if offInFloe d off then (k, noteBus d n 0x42 off, 0x42, ⟨0, 0, 0, false⟩)
  else
    let x := writeAt k d off size m v false
    let st := if x.2.2.full then 0x40 else if x.2.2.refused ≠ 0 then 0x41 else 0
    if off = 0x04B00000 ∧ bitOf (v &&& m) 0 then (x.1, x.2.1, st, x.2.2) else (x.1, noteBus x.2.1 n st off, st, x.2.2)

/-- The offset of a direct access by a floe agent that it cannot reach: outside its own floe and the time unit (R28). -/
def agentReach (f off : Nat) : Bool :=
  off / 0x01000000 == f || (decide (0x04A00000 ≤ off) && decide (off < 0x04A10000))

/-- The checks of FIELD_READ and FIELD_WRITE in the order of R43; a refused offset of a processor is recorded. -/
def fieldFault (d : Dev) (mb : Nat) (s : Service) (write : Bool) : Dev × Option (Nat × Nat) :=
  let off := s.f 8 4
  let opt := s.f 13 1
  let n := if mb < 12 then 0 else mb - 11
  if opt ≥ 2 ∨ (write ∧ opt ≠ 0) ∨ s.f 14 2 ≠ 0 ∨ (!write ∧ (s.f 16 8 ≠ 0 ∨ s.f 24 8 ≠ 0)) ∨ !s.zeroFrom 32 then (d, some (0x43, 3))
  else if s.f 12 1 ≠ 4 ∧ s.f 12 1 ≠ 8 then (d, some (0x43, 4))
  else if badOffset off (s.f 12 1) then (if hPriv s.hdr = 3 then badAccess d n off else d, some (0x43, 4))
  else if hPriv s.hdr < 3 then (d, some (0x11, 0))
  else if 12 ≤ mb ∧ off / 0x01000000 ≠ mb - 12 then (d, some (0x43, 5))
  else if offInFloe d off then (noteBus d n 0x42 off, some (0x42, 0))
  else (d, none)

/-- Serves FIELD_READ: the value returned, and RC fields cleared. -/
def fieldReadMsg (k : Clock) (d : Dev) (mb : Nat) (s : Service) : Dev × Answer :=
  let c := fieldFault d mb s false
  match c.2 with
  | some e => (c.1, { refuse e.1 e.2 with body := slice s.req 8 4 })
  | none =>
    let off := s.f 8 4
    let size := s.f 12 1
    let v := readAt k d off size (s.f 13 1 = 1)
    (noteBus (readEffect d off size) (if mb < 12 then 0 else mb - 11) 0 off,
      okBody (leBytes 4 off ++ zeros 20 ++ leBytes 8 v))

/-- `FIELD_READ` (R54). -/
def execFieldRead (mb : Nat) (s : State) : Host.Outcome State Fault Refusal :=
  onState (.fieldRead mb) s (fun k d =>
    match inService d mb (fun r => msgOf r == 0x0011) with
    | none => (k, d)
    | some sv =>
      let r := fieldReadMsg k d mb sv
      (k, answerMsg r.1 mb sv r.2))

/-- Serves FIELD_WRITE (R54 to R56). -/
def fieldWriteMsg (k : Clock) (d : Dev) (mb : Nat) (s : Service) : Clock × Dev × Answer :=
  let c := fieldFault d mb s true
  match c.2 with
  | some e => (k, c.1, { refuse e.1 e.2 with body := slice s.req 8 4 })
  | none =>
    let off := s.f 8 4
    let size := s.f 12 1
    let x := procWrite k d (if mb < 12 then 0 else mb - 11) off size (s.f 16 8) (s.f 24 8)
    let st := x.2.2.1
    let o := x.2.2.2
    let out := if st ≠ 0 then 2 else if o.staged ≠ 0 then 1 else 0
    let body := leBytes 4 off ++ leBytes 1 out ++ zeros 3 ++ leBytes 8 o.refused ++ leBytes 8 o.staged ++
      leBytes 8 (readAt x.1 x.2.1 off size false)
    (x.1, x.2.1, ⟨st, 0, body, none⟩)

/-- `FIELD_WRITE` (R56). -/
def execFieldWrite (mb : Nat) (s : State) : Host.Outcome State Fault Refusal :=
  onState (.fieldWrite mb) s (fun k d =>
    match inService d mb (fun r => msgOf r == 0x0012) with
    | none => (k, d)
    | some sv =>
      let r := fieldWriteMsg k d mb sv
      (r.1, answerMsg r.2.1 mb sv r.2.2))

/-! ### A core's own alias (R118, R165, R166) -/

/-- The issue window at an offset of core control, with the word in it. -/
def windowAt (q : Nat) : Option (Nat × Nat) :=
  if 0x400 ≤ q ∧ q < 0x460 then
    let w := (q - 0x400) / 32
    some (if w = 2 then 18 else w, q % 32 / 8)
  else if 0x800 ≤ q ∧ q < 0xA00 then some (2 + (q - 0x800) / 32, q % 32 / 8)
  else none

/-- A store to an issue window: 8 bytes wide, and WORD3 commits. -/
def windowStore (d : Dev) (c q size v : Nat) : Dev :=
  match windowAt q with
  | none => d
  | some (win, i) =>
    if size ≠ 8 ∨ q % 8 ≠ 0 then kernelFault d c 1
    else
      let d := modCore d c (fun x => { x with stage := tput x.stage (4 * win + i) (v % 2 ^ 64) })
      if i = 3 then commitWindow d c win else d

/-- A register write by a core's scalar engine at an offset of its alias: a refused Held field sets HELD_REFUSED, and an
EVENT_LINE that the launch does not own is a kernel fault (R128, R402). -/
def coreWrite (k : Clock) (d : Dev) (c q size v : Nat) : Dev :=
  let off := coreBase c + q
  if (windowAt q).isSome then windowStore d c q size v
  else if q ≥ 0x4000 then kernelFault d c 3
  else if badOffset off size then controlErr d 2 c off
  else if (regsUnder off size).any (fun r => r.base % 0x10000 / 0x1000 = 1 && r.base % 0x100 = 8 &&
      decide (r.base = off ∨ r.base = off + 4) && !ownsLine d c (toReg r off v % 256)) then kernelFault d c 1
  else
    let x := writeAt k d off size (2 ^ (8 * size) - 1) v true
    if x.2.2.refused = 0 then x.2.1 else modCore x.2.1 c (fun y => { y with heldRefused := true })

/-- A register read by a core's scalar engine; the windows read as zero. -/
def coreRead (k : Clock) (d : Dev) (c q size : Nat) : Dev × Nat :=
  let off := coreBase c + q
  if (windowAt q).isSome then (d, 0)
  else if badOffset off size then (controlErr d 2 c off, 0)
  else (readEffect d off size, readAt k d off size false)

/-! ### Hosts: BAR0 and BAR2 -/

/-- The 4-byte words of a write, as (offset, value). -/
def hostWords (off size v : Nat) : List (Nat × Nat) :=
  if size = 8 then [(off, v % 2 ^ 32), (off + 4, v / 2 ^ 32 % 2 ^ 32)] else [(off, v % 2 ^ 32)]

/-- A word written to a mailbox register (R31). -/
def mailWord (port m : Nat) (d : Dev) (w : Nat × Nat) : Dev :=
  let q := w.1 % 0x100
  if !mailUse d port m then d
  else if q = 0x48 then (if bitOf w.2 0 then postRequest d port m else d)
  else if q = 0x4C then
    let x := mbOf d m
    setMb d m { x with postRefused := x.postRefused && !bitOf w.2 2, writeDropped := x.writeDropped && !bitOf w.2 3,
                       serviceTimeout := x.serviceTimeout && !bitOf w.2 4 }
  else if q = 0x50 then clearDoorbell d m w.2
  else if q = 0x54 then writeMask d m w.2
  else d

/-- A word written to a galley's doorbell registers (R197). -/
def bellWord (ctx g : Nat) (d : Dev) (w : Nat × Nat) : Dev :=
  let q := w.1 % 0x40
  if q = 0x00 then (if (galleyOf d ctx g).state = 4 then dropCount d ctx g else judgeTail d ctx g w.2)
  else if q = 0x04 then (if (galleyOf d ctx g).state = 4 then dropCount d ctx g else judgeHead d ctx g w.2)
  else if q = 0x10 then
    let d := if bitOf w.2 3 then clearHalt d ctx g else d
    if bitOf w.2 1 then
      (if bitOf w.2 2 then stopAbort d ctx g else stopGalley d ctx g)
    else if bitOf w.2 0 then startGalley d ctx g
    else d
  else d

/-- A host's write to BAR0 (R22, R23). -/
def bar0Write (d : Dev) (port off size v : Nat) : Dev :=
  if devState d = 0 ∨ !(size = 4 ∨ size = 8) ∨ off % size ≠ 0 then d
  else if 0x10000 ≤ off ∧ off < 0x11000 then
    let m := (off - 0x10000) / 0x100
    if off % 0x100 < 0x40 then writeReqData d port m (off % 0x100) (leBytes size v)
    else
      -- a post and a clear of POST_REFUSED in one write: a bit set meanwhile stays set (R7)
      let ws := hostWords off size v
      (if off % 0x100 = 0x48 then ws.reverse else ws).foldl (mailWord port m) d
  else if 0x100000 ≤ off ∧ off < 0x300000 ∧ off % 0x1000 < 0x200 then
    let ctx := (off - 0x100000) / 0x1000
    let g := off % 0x1000 / 0x40
    doorbell d port ctx g (fun d => (hostWords off size v).foldl (bellWord ctx g) d)
  else d

/-- Interleave ways by their code in an HDM decoder's control register (PRESUMED, log entry 36). -/
def decoderWays (code : Nat) : Nat :=
  if code = 0 then 1 else if code = 1 then 2 else if code = 2 then 4 else if code = 3 then 8 else if code = 4 then 16
  else if code = 8 then 3 else if code = 9 then 6 else if code = 10 then 12 else 0

/-- A word written to a decoder (R361): base and size in units of 256 MiB, interleave, lock and commit; a committed
decoder keeps its fields, and a locked one its commit too. -/
def decoderWord (port : Nat) (d : Dev) (w : Nat × Nat) : Dev :=
  let i := (w.1 - 0x1210) / 0x20
  let q := (w.1 - 0x1210) % 0x20
  let x := decoderOf d port i
  let put (y : Decoder) : Dev := setPort d port { portOf d port with decoders := tput (portOf d port).decoders i y }
  if q = 0x10 then
    if x.locked then d
    else if bitOf w.2 9 then
      let ways := decoderWays (bits w.2 4 4)
      if x.committed ∨ ways = 0 ∨ bits w.2 0 4 > 6 ∨ x.size = 0 then d
      else put { x with ways := ways, gran := 256 * 2 ^ bits w.2 0 4, committed := true, locked := bitOf w.2 8 }
    else put { x with committed := false }
  else if x.committed then d
  else if q = 0x00 then put { x with base := setBits x.base 0 32 (w.2 / 2 ^ 28 * 2 ^ 28) }
  else if q = 0x04 then put { x with base := setBits x.base 32 32 w.2 }
  else if q = 0x08 then put { x with size := setBits x.size 0 32 (w.2 / 2 ^ 28 * 2 ^ 28) }
  else if q = 0x0C then put { x with size := setBits x.size 32 32 w.2 }
  else d

/-- A word written to the MSI-X table (R465, R466). -/
def msixWord (port : Nat) (d : Dev) (w : Nat × Nat) : Dev :=
  let e := (w.1 - 0x20000) / 16
  let q := w.1 % 16
  let p := portOf d port
  let v := vecOf p e
  let put (y : Vec) : Dev := setPort d port { p with vecs := tput p.vecs e y }
  if q = 0 then put { v with addr := setBits v.addr 0 32 w.2 }
  else if q = 4 then put { v with addr := setBits v.addr 32 32 w.2 }
  else if q = 8 then put { v with data := w.2 }
  else maskVec d port e (bitOf w.2 0)

/-- A host's write to BAR2 of a port, and to its MSI-X message control, which stands in configuration space and is
given the offset after BAR2 (log entry 36). -/
def bar2Write (d : Dev) (port off size v : Nat) : Dev :=
  if devState d = 0 ∨ !(size = 4 ∨ size = 8) ∨ off % size ≠ 0 then d
  else
    (hostWords off size v).foldl (fun d w =>
      if 0x1210 ≤ w.1 ∧ w.1 < 0x1410 then decoderWord port d w
      else if 0x20000 ≤ w.1 ∧ w.1 < 0x28000 then msixWord port d w
      else if w.1 = 0x100000 then maskFunction d port (bitOf w.2 30)
      else d) d

/-! ### REGISTER_WRITE -/

/-- A write by an issuer: a host to BAR0 or BAR2 of a port, a processor to the register space, a core's scalar engine to
its alias. -/
def issuerWrite (k : Clock) (d : Dev) (iss : Issuer) (off size v : Nat) : Clock × Dev :=
  match iss with
  | .host p => (k, bar0Write d p off size v)
  | .bar2 p => (k, bar2Write d p off size v)
  | .compositor =>
    let x := procWrite k d 0 off size (2 ^ 64 - 1) v
    (x.1, x.2.1)
  | .agent f =>
    if !floeOn d f then (k, d)
    else if !agentReach f off then (k, badAccess d (f + 1) off)
    else
      let x := procWrite k d (f + 1) off size (2 ^ 64 - 1) v
      (x.1, x.2.1)
  | .core c => (k, if (coreOf d c).state = 2 ∧ floeRuns d (c / 16) ∧ (coreOf d c).stalled.isNone ∧ (coreOf d c).sync.isNone then coreWrite k d c off size v else d)

/-- `REGISTER_WRITE` (R8, R23, R30). -/
def execRegisterWrite (iss : Issuer) (off size val : Nat) (s : State) : Host.Outcome State Fault Refusal :=
  onState (.registerWrite iss off size val) s (fun k d => issuerWrite k d iss off size val)

end Sys2Proof.Machine
end

