-- ==== Sys2Proof/Machine/BarRead.lean ====
section
/-! DEFINITION. Host reads of BAR0: the identity and status block, mailboxes, doorbell pages and telemetry, and what a
read clears (R22, R23, R25, R26, R31, R35, R197, R198). -/

namespace Sys2Proof.Machine

open Sys2Proof

/-! ### What stands at an offset -/

/-- The 4 bytes of the identity and status block at an aligned offset, as a port reads them (R26). -/
def identityWord (d : Dev) (port a : Nat) : Nat :=
  if a = 0x00 then idPart
  else if a = 0x04 then d.boot.slotId % 64 + d.boot.bootMode % 4 * 2 ^ 8 + port * 2 ^ 16
  else if a = 0x08 then idNode d
  else if a = 0x0C then d.boot.fwVersion
  else if a = 0x10 then epochOf d
  else if a = 0x14 then deviceStatus d
  else if a = 0x18 then d.now
  else if a = 0x1C then d.now / 2 ^ 32
  else if a = 0x20 then stackGiB d % 2 ^ 16 + bulkGiB d % 2 ^ 16 * 2 ^ 16
  else if a = 0x28 then serialOf d
  else if a = 0x2C then serialOf d / 2 ^ 32
  else 0

/-- The 4 bytes of a galley's doorbell registers at an aligned offset; zero where no galley is, and at a port outside
ALLOWED_PORTS (R197, R198). -/
def bellRead (d : Dev) (port ctx g q : Nat) : Nat :=
  let x := galleyOf d ctx g
  if !galleyExists d ctx g || !doorbellOk d port ctx g then 0
  else if q = 0x00 then x.cmdTail
  else if q = 0x04 then x.proofHead
  else if q = 0x08 then x.cmdHead
  else if q = 0x0C then x.proofTail
  else if q = 0x14 then x.state + x.haltCause * 2 ^ 8 + x.haltStatus * 2 ^ 16
  else if q = 0x18 then x.dropped
  else if q = 0x1C then (flightTags d ctx g).length + x.done.length * 2 ^ 16
  else 0

/-- The 4 bytes of a telemetry counter at an aligned offset; the counters of a floe that is not ON read as zero (R25). -/
def telWord (d : Dev) (a : Nat) : Nat :=
  let v := tget d.tel (a / 8 * 8) 0 / 2 ^ (8 * (a % 8))
  if a < 0x500000 then v else if floeOn d ((a - 0x500000) / 0x100000) then v else 0

/-- The 4 bytes at an aligned offset of BAR0, as a port reads them; a reserved offset reads as zero (R22, R23). -/
def bar0Word (d : Dev) (port a : Nat) : Nat :=
  (if a < 0x10000 then identityWord d port a
   else if a < 0x11000 then mailRead d port ((a - 0x10000) / 0x100) (a % 0x100)
   else if 0x100000 ≤ a ∧ a < 0x300000 ∧ a % 0x1000 < 0x200 then
     bellRead d port ((a - 0x100000) / 0x1000) (a % 0x1000 / 0x40) (a % 0x40)
   else if 0x400000 ≤ a ∧ a < 0x900000 then telWord d a
   else 0) % 2 ^ 32

/-! ### A read -/

/-- The port takes a read of a size and alignment: an aligned one of 4 or 8 bytes, once the device is out of RESET (R23,
R31). -/
def readTaken (d : Dev) (off size : Nat) : Bool :=
  devState d != 0 && (size == 4 || size == 8) && decide (off % size = 0)

/-- The bytes a read returns. -/
def bar0Bytes (d : Dev) (port off size : Nat) : Bytes :=
  leBytes 4 (bar0Word d port off) ++ (if size = 8 then leBytes 4 (bar0Word d port (off + 4)) else [])

/-- A read of DROPPED by a port that may use the galley's registers clears it (R197, R198). -/
def clearDropped (d : Dev) (port ctx g : Nat) : Dev :=
  if doorbellOk d port ctx g then modGalley d ctx g (fun x => { x with dropped := 0 }) else d

/-- What a read that is taken changes: RSP_FULL of a mailbox whose RSP_HDR it covers, and a galley's DROPPED. -/
def bar0ReadEffect (d : Dev) (port off size : Nat) : Dev :=
  if 0x10000 ≤ off ∧ off < 0x11000 then readRspHdr d port ((off - 0x10000) / 0x100) (off % 0x100) size
  else if 0x100000 ≤ off ∧ off < 0x300000 ∧ off % 0x1000 < 0x200 ∧ off % 0x40 = 0x18 then
    clearDropped d port ((off - 0x100000) / 0x1000) (off % 0x1000 / 0x40)
  else d

/-- A host's read of BAR0: completed with the bytes that stand there, or, of any other size or alignment and in RESET,
with Unsupported Request (R22, R23). -/
def bar0Read (d : Dev) (port off size : Nat) : Dev :=
  if readTaken d off size then
    bar0ReadEffect (emit d (.readData port off (bar0Bytes d port off size))) port off size
  else emit d (.urd port off)

/-- `RSP_HDR_READ` (R35): a read of an offset of a mailbox, which clears RSP_FULL where it covers the low word of
RSP_HDR. -/
def execRspHdrRead (port mb off size : Nat) (s : State) : Host.Outcome State Fault Refusal :=
  onDev (.rspHdrRead port mb off size) s (fun d => bar0Read d port (0x10000 + mb * 0x100 + off) size)

/-- `DROPPED_READ` (R197): a read of 4 bytes returns the count and clears it; a port that may not read gets zero and
clears nothing (R198). -/
def execDroppedRead (port ctx g : Nat) (s : State) : Host.Outcome State Fault Refusal :=
  onDev (.droppedRead port ctx g) s (fun d => bar0Read d port (0x100018 + ctx * 0x1000 + g * 0x40) 4)

end Sys2Proof.Machine
end

