-- ==== Sys2Proof/Machine/Scalar.lean ====
section
/-! DEFINITION. The scalar engine's loads, stores, AMOs, LR and SC (R114, R118 to R121, R340 to R342). -/

namespace Sys2Proof.Machine

open Sys2Proof

/-! ### The address space (R118) -/

/-- What a scalar address names. -/
inductive Place where
  | lm (a : Nat)
  | alias_ (q : Nat)
  | ctx (a : Nat)
  | hole
  deriving DecidableEq, Repr

/-- The map of R118. -/
def placeOf (addr : Nat) : Place :=
  if addr < 0x800000 then .lm addr
  else if 0x1000000 ≤ addr ∧ addr < 0x1004000 then .alias_ (addr - 0x1000000)
  else if 2 ^ 48 ≤ addr ∧ addr < 2 ^ 49 then .ctx (addr - 2 ^ 48)
  else .hole

/-- The scalar engine can perform an instruction: its kernel runs, and it waits neither on a full queue nor in a sync
instruction. -/
def scalarReady (d : Dev) (c : Nat) : Bool :=
  let x := coreOf d c
  x.state == 2 && floeRuns d (c / 16) && x.sync.isNone && x.stalled.isNone

/-- An instruction that the core can perform: a misaligned address is a kernel fault (R114). -/
def scalarAt (d : Dev) (c addr size : Nat) (f : Place → Dev) : Dev :=
  if !scalarReady d c then d
  else if addr % size ≠ 0 then kernelFault d c 2
  else
    match placeOf addr with
    | .hole => kernelFault d c 3
    | p => f p

/-- A loaded value of `size` bytes as a register holds it. -/
def loadValue (size : Nat) (uns : Bool) (v : Nat) : Nat :=
  if uns then v % 2 ^ (8 * size) else ofSigned 64 (toSigned (8 * size) v)

/-! ### Context addresses -/

/-- Ends a piece of scalar work: it is repeated after what blocked it, and a refused access stops the core (R176). -/
def scalarEnd (d : Dev) (c : Nat) (w : W) (done : Dev → Dev) : Dev :=
  match w.blocked, w.err with
  | some b, _ => unblock d b
  | none, some e => accessFault (noteWrites w.d c w.wrote) c e
  | none, none => done (noteWrites w.d c w.wrote)

/-- The range that holds a context address is coherent. -/
def addrCoherent (d : Dev) (c addr : Nat) : Bool :=
  (findRange d (coreOf d c).ctx (coreGen d c) addr).any (fun r => r.2.coh)

/-- A request of a core for a line is pending at the directory. -/
def linePending (d : Dev) (c line : Nat) : Bool :=
  (dirOf d line).txn.any (fun t => opAgent t.op == some c) || d.dirWait.any (fun w => w.1 == line && opAgent w.2 == some c)

/-- The line of a core's data cache that serves an access, which wants it OWNED for a write. -/
def cachedLine (d : Dev) (c line : Nat) (own : Bool) : Option DLine :=
  match tget? (coreOf d c).dcache line with
  | some l => if !own || l.owned then some l else none
  | none => none

/-- Brings a line into a core's data cache, OWNED where a write needs it (R342, R347). -/
def fetchLine (d : Dev) (c line : Nat) (own : Bool) : Dev :=
  if (cachedLine d c line own).isSome || linePending d c line then d
  else
    dirRequest d line (match own, thas (coreOf d c).dcache line with
      | false, _ => .rdShared c
      | true, true => .upgrade c
      | true, false => .rdOwn c)

/-- The SRAM code of a data cache line (R427): an upset is corrected, a clean line fetched again, and a dirty one lost;
what became of the line. -/
def dcCode (d : Dev) (c line : Nat) : Dev × Bool :=
  match tget? (coreOf d c).dcache line with
  | none => (d, false)
  | some l =>
    let n := tget (coreOf d c).flips (dcKey line) 0
    if n = 0 then (d, false)
    else if n = 1 then (dcFixed d c line, false)
    else if l.dirty then (accessFault (dcLost d c line) c (0x33, 0), true)
    else (dropAgent (dcForget (dcFixed d c line) c line) line c, false)

/-- A scalar access to a coherent range: through the data cache, repeated while its request is pending, and performed
uncached at the home floe where the directory grants no copy (R349). -/
def cachedAccess (d : Dev) (c line : Nat) (own : Bool) (hit : Dev → DLine → Dev) (uncached : Dev → Dev) : Dev :=
  let k := dcCode d c line
  let e := if k.2 then k.1 else fetchLine k.1 c line own
  match cachedLine e c line own with
  | some l => hit e l
  | none => if (coreOf e c).state ≠ 2 ∨ linePending e c line then e else uncached e

/-- The line of a page in the stack or bulk tier that a coherent range maps, for an access of a right; a first write
places the page (R90).  None: the access is served at the home floe. -/
def coherentLine (w : W) (c addr access : Nat) (places : Bool) : W × Option Nat :=
  if !addrCoherent w.d c addr then (w, none)
  else
    let x := w.xlate addr access
    match x.2 with
    | none => (x.1, none)
    | some u =>
      let page := pageOfLine (u / 64)
      let p := pageOf x.1.d page
      if p.tier = 1 ∨ p.tier = 2 then (x.1, some (u / 64))
      else if p.tier = 0 ∧ places then
        if !floeOn x.1.d (homeFloe page) then (x.1.failAt addr true (0x42, 0), none)
        else
          match placePage x.1.d page x.1.ctx with
          | some d => ({ x.1 with d := d }, some (u / 64))
          | none => (x.1.failAt addr true (0x40, 0), none)
      else if p.tier = 0 then (x.1.refuse addr u 0x14 access (x.1.rangeIdx addr) 0, none)
      else (x.1, none)

/-- A scalar access at a context address: `hit` on a line of the data cache, `plain` at the home floe. -/
def ctxAccess (d : Dev) (far : Far) (c addr access : Nat) (own places : Bool) (o : Owner) (hit : Dev → DLine → Nat → Dev)
    (plain : W → W × (Dev → Dev)) : Dev :=
  let go (d : Dev) : Dev :=
    let r := plain (coreWork d far c 0 o)
    scalarEnd d c r.1 r.2
  let k := coherentLine (coreWork d far c 0 o) c addr access places
  match k.2 with
  | some line => cachedAccess k.1.d c line own (fun d l => hit d l line) go
  | none =>
    match k.1.err with
    | some e => accessFault k.1.d c e
    | none => go d

/-- Writes bytes into a line of a core's data cache. -/
def dcPut (d : Dev) (c line o : Nat) (b : Bytes) : Dev :=
  noteWrites (modCore d c (fun x => { x with dcache := tmod x.dcache line (fun l => { l with data := splice l.data o b, dirty := true }) })) c 1

/-- A load at a context address. -/
def ctxLoad (d : Dev) (far : Far) (c addr size rd : Nat) (uns : Bool) : Dev :=
  ctxAccess d far c addr 0 false false (.scalar c rd size)
    (fun d l _ => setX d c rd (loadValue size uns (fieldAt l.data (addr % 64) size)))
    (fun w =>
      let r := w.read addr size
      (r.1, fun d => setX d c rd (loadValue size uns (leNat r.2))))

/-- A store at a context address. -/
def ctxStore (d : Dev) (far : Far) (c addr size v : Nat) : Dev :=
  ctxAccess d far c addr 1 true true (.scalar c 0 0)
    (fun d _ line => dcPut d c line (addr % 64) (leBytes size v))
    (fun w => (w.write addr (leBytes size v), id))

/-- An AMO at a context address: in the data cache for a coherent range, else at the home floe or the remote node; the
old value of a remote one comes with its acknowledgement (R120, R317). -/
def ctxAmo (d : Dev) (far : Far) (c op addr size v rd : Nat) : Dev :=
  ctxAccess d far c addr 2 true false (.scalar c rd size)
    (fun d l line =>
      let old := fieldAt l.data (addr % 64) size
      setX (dcPut d c line (addr % 64) (leBytes size (atomicNew op size old v 0))) c rd (extendReg size old))
    (fun w =>
      let r := w.atomic addr op size (b2n (size = 8) + 2 * b2n (rd ≠ 0)) v 0 false
      (r.1, fun d => if (newOwed w.d d).isEmpty ∧ rd ≠ 0 then setX d c rd (extendReg size r.2) else d))

/-! ### The four instructions -/

/-- `SCALAR_LOAD` (R119). -/
def execScalarLoad (c addr size rd : Nat) (uns : Bool) (far : Far) (s : State) : Host.Outcome State Fault Refusal :=
  onState (.scalarLoad c addr size rd uns far) s (fun k d => (k,
    scalarAt d c addr size (fun p =>
      match p with
      | .lm a =>
        let m := sramRead d c 0 [(a, size)]
        if m.2 then m.1 else setX m.1 c rd (loadValue size uns (leNat (lmRead (coreOf d c) a size)))
      | .alias_ q =>
        let r := coreRead k d c q size
        setX r.1 c rd (loadValue size uns r.2)
      | .ctx a => ctxLoad d far c a size rd uns
      | .hole => d)))

/-- `SCALAR_STORE` (R119). -/
def execScalarStore (c addr size val : Nat) (far : Far) (s : State) : Host.Outcome State Fault Refusal :=
  onState (.scalarStore c addr size val far) s (fun k d => (k,
    scalarAt d c addr size (fun p =>
      match p with
      | .lm a =>
        if lmWriteCause (coreOf d c) a size ≠ 0 then kernelFault d c (lmWriteCause (coreOf d c) a size)
        else modCore d c (fun x => lmWrite x a (leBytes size val))
      | .alias_ q => coreWrite k d c q size val
      | .ctx a => ctxStore d far c a size val
      | .hole => d)))

/-- `SCALAR_AMO` (R120): on the alias a register read and a register write (log entry 38). -/
def execScalarAmo (c op addr size val rd : Nat) (far : Far) (s : State) : Host.Outcome State Fault Refusal :=
  onState (.scalarAmo c op addr size val rd far) s (fun k d => (k,
    scalarAt d c addr size (fun p =>
      match p with
      | .lm a =>
        let old := leNat (lmRead (coreOf d c) a size)
        let m := sramRead d c 0 [(a, size)]
        if lmWriteCause (coreOf d c) a size ≠ 0 then kernelFault d c (lmWriteCause (coreOf d c) a size)
        else if m.2 then m.1
        else setX (modCore m.1 c (fun x => lmWrite x a (leBytes size (atomicNew op size old val 0)))) c rd (extendReg size old)
      | .alias_ q =>
        let r := coreRead k d c q size
        setX (coreWrite k r.1 c q size (atomicNew op size r.2 val 0)) c rd (extendReg size r.2)
      | .ctx a => ctxAmo d far c op a size val rd
      | .hole => d)))

/-- LR: the line OWNED in the data cache, its value and a reservation; without a copy the value alone (R120, R342). -/
def loadReserved (d : Dev) (c addr size rd : Nat) : Dev :=
  ctxAccess d [] c addr 2 true false (.scalar c rd size)
    (fun d l line =>
      modCore (setX d c rd (extendReg size (fieldAt l.data (addr % 64) size))) c (fun x => { x with reserve := some line }))
    (fun w =>
      let r := w.read addr size
      (r.1, fun d => modCore (setX d c rd (extendReg size (leNat r.2))) c (fun x => { x with reserve := none })))

/-- SC without its reservation: it fails with a 1 in its register and stores nothing. -/
def scFails (d : Dev) (c rd : Nat) : Dev := setX (modCore d c (fun x => { x with reserve := none })) c rd 1

/-- SC: it stores, with a 0 in its register, while the reservation of its line holds. -/
def storeConditional (d : Dev) (c addr size v rd : Nat) : Dev :=
  let x := (coreWork d [] c 0 (.scalar c rd size)).xlate addr 2
  match x.2 with
  | none => accessFault x.1.d c (x.1.err.getD (0x10, 0))
  | some u =>
    let line := u / 64
    if (coreOf d c).reserve ≠ some line then scFails d c rd
    else
      cachedAccess d c line true
        (fun d _ =>
          if (coreOf d c).reserve = some line then
            setX (modCore (dcPut d c line (addr % 64) (leBytes size v)) c (fun x => { x with reserve := none })) c rd 0
          else scFails d c rd)
        (fun d => scFails d c rd)

/-- `SCALAR_LR_SC` (R120): only on coherent ranges. -/
def execScalarLrSc (c : Nat) (sc : Bool) (addr size val rd : Nat) (s : State) : Host.Outcome State Fault Refusal :=
  onDev (.scalarLrSc c sc addr size val rd) s (fun d =>
    scalarAt d c addr size (fun p =>
      match p with
      | .ctx a =>
        if (findRange d (coreOf d c).ctx (coreGen d c) a).isSome ∧ !addrCoherent d c a then kernelFault d c 6
        else if sc then storeConditional d c a size val rd
        else loadReserved d c a size rd
      | _ => kernelFault d c 6))

end Sys2Proof.Machine
end

