-- ==== Sys2Proof/Machine/Dispatch.lean ====
section
/-! DEFINITION. The meaning of each command: one arm per constructor. -/

namespace Sys2Proof.Machine

open Sys2Proof

/-- The effect of a command on everything but the queue. -/
def exec (i : Instr) (s : State) : Host.Outcome State Fault Refusal :=
  match i with
  | .post port mb => Sys2Proof.Machine.execPost port mb s
  | .reqDataWrite port mb off bytes => Sys2Proof.Machine.execReqDataWrite port mb off bytes s
  | .rspHdrRead port mb off size => Sys2Proof.Machine.execRspHdrRead port mb off size s
  | .requestTake mb => Sys2Proof.Machine.execRequestTake mb s
  | .replyWrite mb => Sys2Proof.Machine.execReplyWrite mb s
  | .serviceTimeout mb => Sys2Proof.Machine.execServiceTimeout mb s
  | .setAsideServe mb => Sys2Proof.Machine.execSetAsideServe mb s
  | .doorbellClear port mb bits => Sys2Proof.Machine.execDoorbellClear port mb bits s
  | .dbMaskWrite port mb bits => Sys2Proof.Machine.execDbMaskWrite port mb bits s
  | .identify mb => Sys2Proof.Machine.execIdentify mb s
  | .status mb => Sys2Proof.Machine.execStatus mb s
  | .eventRead mb => Sys2Proof.Machine.execEventRead mb s
  | .errorRead mb => Sys2Proof.Machine.execErrorRead mb s
  | .mailboxBind mb => Sys2Proof.Machine.execMailboxBind mb s
  | .fieldRead mb => Sys2Proof.Machine.execFieldRead mb s
  | .fieldWrite mb => Sys2Proof.Machine.execFieldWrite mb s
  | .floePowerOff mb => Sys2Proof.Machine.execFloePowerOff mb s
  | .floePowerOn mb => Sys2Proof.Machine.execFloePowerOn mb s
  | .floeDrainDone f => Sys2Proof.Machine.execFloeDrainDone f s
  | .floeDrainTimeout f => Sys2Proof.Machine.execFloeDrainTimeout f s
  | .floeWakeDone f => Sys2Proof.Machine.execFloeWakeDone f s
  | .objCreate mb => Sys2Proof.Machine.execObjCreate mb s
  | .objModify mb => Sys2Proof.Machine.execObjModify mb s
  | .objQuery mb => Sys2Proof.Machine.execObjQuery mb s
  | .objDestroy mb => Sys2Proof.Machine.execObjDestroy mb s
  | .decoderBind mb => Sys2Proof.Machine.execDecoderBind mb s
  | .regionPublish mb => Sys2Proof.Machine.execRegionPublish mb s
  | .regionBind mb => Sys2Proof.Machine.execRegionBind mb s
  | .regionRelease mb => Sys2Proof.Machine.execRegionRelease mb s
  | .versionRetire region ver => Sys2Proof.Machine.execVersionRetire region ver s
  | .rangeRetire ctx => Sys2Proof.Machine.execRangeRetire ctx s
  | .contextReset mb => Sys2Proof.Machine.execContextReset mb s
  | .resetDrainExpire ctx => Sys2Proof.Machine.execResetDrainExpire ctx s
  | .resetPurge ctx => Sys2Proof.Machine.execResetPurge ctx s
  | .reclaim mb => Sys2Proof.Machine.execReclaim mb s
  | .orphanLogRead mb => Sys2Proof.Machine.execOrphanLogRead mb s
  | .formeChange mb => Sys2Proof.Machine.execFormeChange mb s
  | .mapRead mb => Sys2Proof.Machine.execMapRead mb s
  | .seqHandoffGive mb => Sys2Proof.Machine.execSeqHandoffGive mb s
  | .seqHandoffArm mb => Sys2Proof.Machine.execSeqHandoffArm mb s
  | .seqHandoffResolve mb => Sys2Proof.Machine.execSeqHandoffResolve mb s
  | .giveReplyTimeout sslot => Sys2Proof.Machine.execGiveReplyTimeout sslot s
  | .imagePush mb => Sys2Proof.Machine.execImagePush mb s
  | .configPush mb => Sys2Proof.Machine.execConfigPush mb s
  | .flashWriteDone => Sys2Proof.Machine.execFlashWriteDone s
  | .registerWrite iss off size val => Sys2Proof.Machine.execRegisterWrite iss off size val s
  | .cxlMemRead port hpa far => Sys2Proof.Machine.execCxlMemRead port hpa far s
  | .cxlMemWrite port hpa bytes mask far => Sys2Proof.Machine.execCxlMemWrite port hpa bytes mask far s
  | .touchFaultDmaDone page ans => Sys2Proof.Machine.execTouchFaultDmaDone page ans s
  | .packedDecodeDone page blk => Sys2Proof.Machine.execPackedDecodeDone page blk s
  | .plcEpochSweep f => Sys2Proof.Machine.execPlcEpochSweep f s
  | .moveStart f => Sys2Proof.Machine.execMoveStart f s
  | .moveCopyDone page => Sys2Proof.Machine.execMoveCopyDone page s
  | .moveRelease page => Sys2Proof.Machine.execMoveRelease page s
  | .moveCopyTimeout page => Sys2Proof.Machine.execMoveCopyTimeout page s
  | .deadlineExpire tag units => Sys2Proof.Machine.execDeadlineExpire tag units s
  | .migrate tag far => Sys2Proof.Machine.execMigrate tag far s
  | .prefetch tag far => Sys2Proof.Machine.execPrefetch tag far s
  | .cacheFlush f => Sys2Proof.Machine.execCacheFlush f s
  | .cacheFlushDone f => Sys2Proof.Machine.execCacheFlushDone f s
  | .tnop c st => Sys2Proof.Machine.execTnop c st s
  | .mzero c => Sys2Proof.Machine.execMzero c s
  | .mload c => Sys2Proof.Machine.execMload c s
  | .mmul c => Sys2Proof.Machine.execMmul c s
  | .mstore c => Sys2Proof.Machine.execMstore c s
  | .vld c => Sys2Proof.Machine.execVld c s
  | .vst c => Sys2Proof.Machine.execVst c s
  | .vop c => Sys2Proof.Machine.execVop c s
  | .vred c => Sys2Proof.Machine.execVred c s
  | .vfn c => Sys2Proof.Machine.execVfn c s
  | .vqnt c => Sys2Proof.Machine.execVqnt c s
  | .xld c st far => Sys2Proof.Machine.execXld c st far s
  | .xst c st far => Sys2Proof.Machine.execXst c st far s
  | .xsti c st far => Sys2Proof.Machine.execXsti c st far s
  | .xadd c st far => Sys2Proof.Machine.execXadd c st far s
  | .dchain c ch => Sys2Proof.Machine.execDchain c ch s
  | .swait c => Sys2Proof.Machine.execSwait c s
  | .ssignal c => Sys2Proof.Machine.execSsignal c s
  | .spulse c => Sys2Proof.Machine.execSpulse c s
  | .sdrain c => Sys2Proof.Machine.execSdrain c s
  | .send c => Sys2Proof.Machine.execSend c s
  | .issueStallRelease c => Sys2Proof.Machine.execIssueStallRelease c s
  | .tokenWaitRelease c st => Sys2Proof.Machine.execTokenWaitRelease c st s
  | .instructionComplete c st => Sys2Proof.Machine.execInstructionComplete c st s
  | .eventPulse c eline cnt => Sys2Proof.Machine.execEventPulse c eline cnt s
  | .scalarLoad c addr size rd uns far => Sys2Proof.Machine.execScalarLoad c addr size rd uns far s
  | .scalarStore c addr size val far => Sys2Proof.Machine.execScalarStore c addr size val far s
  | .scalarAmo c op addr size val rd far => Sys2Proof.Machine.execScalarAmo c op addr size val rd far s
  | .scalarLrSc c sc addr size val rd => Sys2Proof.Machine.execScalarLrSc c sc addr size val rd s
  | .scalarTrap c cause => Sys2Proof.Machine.execScalarTrap c cause s
  | .coreStop c => Sys2Proof.Machine.execCoreStop c s
  | .clearFault c => Sys2Proof.Machine.execClearFault c s
  | .coreWatchdog c => Sys2Proof.Machine.execCoreWatchdog c s
  | .coreStopDone c => Sys2Proof.Machine.execCoreStopDone c s
  | .run tag => Sys2Proof.Machine.execRun tag s
  | .coreAssign tag => Sys2Proof.Machine.execCoreAssign tag s
  | .kernelLoadDone c far => Sys2Proof.Machine.execKernelLoadDone c far s
  | .prefetcherEnable c pf on => Sys2Proof.Machine.execPrefetcherEnable c pf on s
  | .prefetchLineIssue c pf => Sys2Proof.Machine.execPrefetchLineIssue c pf s
  | .cmdTailWrite port ctx g val => Sys2Proof.Machine.execCmdTailWrite port ctx g val s
  | .proofHeadWrite port ctx g val => Sys2Proof.Machine.execProofHeadWrite port ctx g val s
  | .galleyStart port ctx g => Sys2Proof.Machine.execGalleyStart port ctx g s
  | .galleyStop port ctx g => Sys2Proof.Machine.execGalleyStop port ctx g s
  | .galleyStopAbort port ctx g => Sys2Proof.Machine.execGalleyStopAbort port ctx g s
  | .clearHalt port ctx g => Sys2Proof.Machine.execClearHalt port ctx g s
  | .droppedRead port ctx g => Sys2Proof.Machine.execDroppedRead port ctx g s
  | .tailShadowPoll ctx g far => Sys2Proof.Machine.execTailShadowPoll ctx g far s
  | .commandFetch f far => Sys2Proof.Machine.execCommandFetch f far s
  | .afterPrevStart tag => Sys2Proof.Machine.execAfterPrevStart tag s
  | .proofWrite ctx g => Sys2Proof.Machine.execProofWrite ctx g s
  | .proofWriteAck ctx g => Sys2Proof.Machine.execProofWriteAck ctx g s
  | .coalTimerExpire ctx g => Sys2Proof.Machine.execCoalTimerExpire ctx g s
  | .fence tag => Sys2Proof.Machine.execFence tag s
  | .fenceComplete tag => Sys2Proof.Machine.execFenceComplete tag s
  | .impress tag => Sys2Proof.Machine.execImpress tag s
  | .nop tag => Sys2Proof.Machine.execNop tag s
  | .attend tag far => Sys2Proof.Machine.execAttend tag far s
  | .attendMerge tag far => Sys2Proof.Machine.execAttendMerge tag far s
  | .gather tag far => Sys2Proof.Machine.execGather tag far s
  | .scatterGrad tag far => Sys2Proof.Machine.execScatterGrad tag far s
  | .rowReplace tag far => Sys2Proof.Machine.execRowReplace tag far s
  | .rowChangeResume tag far => Sys2Proof.Machine.execRowChangeResume tag far s
  | .generationCommit tag => Sys2Proof.Machine.execGenerationCommit tag s
  | .search tag far => Sys2Proof.Machine.execSearch tag far s
  | .indexInsert tag far => Sys2Proof.Machine.execIndexInsert tag far s
  | .indexDelete tag far => Sys2Proof.Machine.execIndexDelete tag far s
  | .encode tag far => Sys2Proof.Machine.execEncode tag far s
  | .decode tag far => Sys2Proof.Machine.execDecode tag far s
  | .codecBlockDone tag k => Sys2Proof.Machine.execCodecBlockDone tag k s
  | .fill tag far => Sys2Proof.Machine.execFill tag far s
  | .copy tag far => Sys2Proof.Machine.execCopy tag far s
  | .compare tag far => Sys2Proof.Machine.execCompare tag far s
  | .reduce tag far => Sys2Proof.Machine.execReduce tag far s
  | .read utag => Sys2Proof.Machine.execRead utag s
  | .write utag => Sys2Proof.Machine.execWrite utag s
  | .add utag => Sys2Proof.Machine.execAdd utag s
  | .and utag => Sys2Proof.Machine.execAnd utag s
  | .or utag => Sys2Proof.Machine.execOr utag s
  | .xor utag => Sys2Proof.Machine.execXor utag s
  | .min utag => Sys2Proof.Machine.execMin utag s
  | .max utag => Sys2Proof.Machine.execMax utag s
  | .umin utag => Sys2Proof.Machine.execUmin utag s
  | .umax utag => Sys2Proof.Machine.execUmax utag s
  | .swap utag => Sys2Proof.Machine.execSwap utag s
  | .cas utag => Sys2Proof.Machine.execCas utag s
  | .exactAdd utag => Sys2Proof.Machine.execExactAdd utag s
  | .fillRun utag => Sys2Proof.Machine.execFillRun utag s
  | .copyRun utag => Sys2Proof.Machine.execCopyRun utag s
  | .compareRun utag => Sys2Proof.Machine.execCompareRun utag s
  | .reducePart utag => Sys2Proof.Machine.execReducePart utag s
  | .fabricAck utag => Sys2Proof.Machine.execFabricAck utag s
  | .fabricTimeout utag => Sys2Proof.Machine.execFabricTimeout utag s
  | .finalWriteRelease utag => Sys2Proof.Machine.execFinalWriteRelease utag s
  | .readCombineExpire ga => Sys2Proof.Machine.execReadCombineExpire ga s
  | .atomicHoldExpire ga => Sys2Proof.Machine.execAtomicHoldExpire ga s
  | .dedupEntryExpire utag => Sys2Proof.Machine.execDedupEntryExpire utag s
  | .dedupRefusalEnd => Sys2Proof.Machine.execDedupRefusalEnd s
  | .rdShared agent line => Sys2Proof.Machine.execRdShared agent line s
  | .rdOwn agent line => Sys2Proof.Machine.execRdOwn agent line s
  | .upgrade agent line => Sys2Proof.Machine.execUpgrade agent line s
  | .wb agent line bytes keep poison => Sys2Proof.Machine.execWb agent line bytes keep poison s
  | .evict agent line => Sys2Proof.Machine.execEvict agent line s
  | .ncRd line => Sys2Proof.Machine.execNcRd line s
  | .ncWr line bytes mask => Sys2Proof.Machine.execNcWr line bytes mask s
  | .ncAtomic line aop => Sys2Proof.Machine.execNcAtomic line aop s
  | .snpShare agent line => Sys2Proof.Machine.execSnpShare agent line s
  | .snpInv agent line => Sys2Proof.Machine.execSnpInv agent line s
  | .snoopResponse agent line snp => Sys2Proof.Machine.execSnoopResponse agent line snp s
  | .dirReqDequeue line => Sys2Proof.Machine.execDirReqDequeue line s
  | .snoopTimeout agent line => Sys2Proof.Machine.execSnoopTimeout agent line s
  | .coherenceWalkDone f => Sys2Proof.Machine.execCoherenceWalkDone f s
  | .dirFlush f => Sys2Proof.Machine.execDirFlush f s
  | .dirFlushDone f => Sys2Proof.Machine.execDirFlushDone f s
  | .dirProbe f addr => Sys2Proof.Machine.execDirProbe f addr s
  | .portEnable port on => Sys2Proof.Machine.execPortEnable port on s
  | .cxlLinkDown port => Sys2Proof.Machine.execCxlLinkDown port s
  | .cxlLinkUp port form => Sys2Proof.Machine.execCxlLinkUp port form s
  | .perstNAssert port => Sys2Proof.Machine.execPerstNAssert port s
  | .perstNDeassert port => Sys2Proof.Machine.execPerstNDeassert port s
  | .gpfPhase1 port => Sys2Proof.Machine.execGpfPhase1 port s
  | .gpfPhase2 port => Sys2Proof.Machine.execGpfPhase2 port s
  | .cxlioCompletion port io ans => Sys2Proof.Machine.execCxlioCompletion port io ans s
  | .cplTimeout port io => Sys2Proof.Machine.execCplTimeout port io s
  | .identifyMemoryDevice port => Sys2Proof.Machine.execIdentifyMemoryDevice port s
  | .getSupportedLogs port => Sys2Proof.Machine.execGetSupportedLogs port s
  | .getLog port => Sys2Proof.Machine.execGetLog port s
  | .getEventRecords port n => Sys2Proof.Machine.execGetEventRecords port n s
  | .clearEventRecords port n => Sys2Proof.Machine.execClearEventRecords port n s
  | .getEventInterruptPolicy port => Sys2Proof.Machine.execGetEventInterruptPolicy port s
  | .setEventInterruptPolicy port val => Sys2Proof.Machine.execSetEventInterruptPolicy port val s
  | .getHealthInfo port => Sys2Proof.Machine.execGetHealthInfo port s
  | .getTimestamp port => Sys2Proof.Machine.execGetTimestamp port s
  | .setTimestamp port val => Sys2Proof.Machine.execSetTimestamp port val s
  | .spdmRequest port op => Sys2Proof.Machine.execSpdmRequest port op s
  | .msixVectorUnmask port entry => Sys2Proof.Machine.execMsixVectorUnmask port entry s
  | .flitReceive link bytes => Sys2Proof.Machine.execFlitReceive link bytes s
  | .flitAckTimeout link => Sys2Proof.Machine.execFlitAckTimeout link s
  | .replayLimitReached link => Sys2Proof.Machine.execReplayLimitReached link s
  | .linkEnable link on => Sys2Proof.Machine.execLinkEnable link on s
  | .linkRetrain link => Sys2Proof.Machine.execLinkRetrain link s
  | .linkSignalDetect link => Sys2Proof.Machine.execLinkSignalDetect link s
  | .phyTrainDone link => Sys2Proof.Machine.execPhyTrainDone link s
  | .phyTrainTimeout link => Sys2Proof.Machine.execPhyTrainTimeout link s
  | .fecLockDone link lanes => Sys2Proof.Machine.execFecLockDone link lanes s
  | .fecLockTimeout link => Sys2Proof.Machine.execFecLockTimeout link s
  | .paramExchangeDone link par => Sys2Proof.Machine.execParamExchangeDone link par s
  | .authDone link keyId ok => Sys2Proof.Machine.execAuthDone link keyId ok s
  | .authFailedTimer link => Sys2Proof.Machine.execAuthFailedTimer link s
  | .retrainDone link => Sys2Proof.Machine.execRetrainDone link s
  | .retrainTimeout link => Sys2Proof.Machine.execRetrainTimeout link s
  | .linkSignalLoss link => Sys2Proof.Machine.execLinkSignalLoss link s
  | .frameReceive link => Sys2Proof.Machine.execFrameReceive link s
  | .cellReceive sp cell => Sys2Proof.Machine.execCellReceive sp cell s
  | .cellAdmit sp => Sys2Proof.Machine.execCellAdmit sp s
  | .auditPass => Sys2Proof.Machine.execAuditPass s
  | .descriptorStart c ch far => Sys2Proof.Machine.execDescriptorStart c ch far s
  | .descriptorComplete c ch => Sys2Proof.Machine.execDescriptorComplete c ch s
  | .syncStart c lg => Sys2Proof.Machine.execSyncStart c lg s
  | .chResume c ch => Sys2Proof.Machine.execChResume c ch s
  | .chSkip c ch => Sys2Proof.Machine.execChSkip c ch s
  | .chStop c ch => Sys2Proof.Machine.execChStop c ch s
  | .chAbandon c ch => Sys2Proof.Machine.execChAbandon c ch s
  | .arbRequest f arb slot cls owner beats => Sys2Proof.Machine.execArbRequest f arb slot cls owner beats s
  | .arbitration f arb => Sys2Proof.Machine.execArbitration f arb s
  | .grantEnd f arb => Sys2Proof.Machine.execGrantEnd f arb s
  | .arbWatchdog f arb => Sys2Proof.Machine.execArbWatchdog f arb s
  | .arbCountsRead f arb => Sys2Proof.Machine.execArbCountsRead f arb s
  | .imprSyncEdge falling => Sys2Proof.Machine.execImprSyncEdge falling s
  | .coastMark => Sys2Proof.Machine.execCoastMark s
  | .freeMark => Sys2Proof.Machine.execFreeMark s
  | .windowClose win => Sys2Proof.Machine.execWindowClose win s
  | .calForced f unit => Sys2Proof.Machine.execCalForced f unit s
  | .scrubLine f unit pline found => Sys2Proof.Machine.execScrubLine f unit pline found s
  | .scrubPassLate f unit => Sys2Proof.Machine.execScrubPassLate f unit s
  | .eccCountsRead f unit => Sys2Proof.Machine.execEccCountsRead f unit s
  | .selftestRelease c => Sys2Proof.Machine.execSelftestRelease c s
  | .selftestDone c ok => Sys2Proof.Machine.execSelftestDone c ok s
  | .floeRecoveryTimeout f => Sys2Proof.Machine.execFloeRecoveryTimeout f s
  | .switchRecoveryTimeout => Sys2Proof.Machine.execSwitchRecoveryTimeout s
  | .galleyAutoRestart => Sys2Proof.Machine.execGalleyAutoRestart s
  | .errqAck val => Sys2Proof.Machine.execErrqAck val s
  | .errqStatusRead => Sys2Proof.Machine.execErrqStatusRead s
  | .heartbeatSend => Sys2Proof.Machine.execHeartbeatSend s
  | .heartbeat link => Sys2Proof.Machine.execHeartbeat link s
  | .heartbeatMiss link => Sys2Proof.Machine.execHeartbeatMiss link s
  | .suspect node => Sys2Proof.Machine.execSuspect node s
  | .probe node => Sys2Proof.Machine.execProbe node s
  | .probeReply node => Sys2Proof.Machine.execProbeReply node s
  | .probeTimeout node => Sys2Proof.Machine.execProbeTimeout node s
  | .propose prop => Sys2Proof.Machine.execPropose prop s
  | .accept node epoch => Sys2Proof.Machine.execAccept node epoch s
  | .commit epoch => Sys2Proof.Machine.execCommit epoch s
  | .mapUpdate map => Sys2Proof.Machine.execMapUpdate map s
  | .join node keyId => Sys2Proof.Machine.execJoin node keyId s
  | .coordinatorTakeover props => Sys2Proof.Machine.execCoordinatorTakeover props s
  | .keepaliveSend => Sys2Proof.Machine.execKeepaliveSend s
  | .keepalive epoch => Sys2Proof.Machine.execKeepalive epoch s
  | .leaseExpire => Sys2Proof.Machine.execLeaseExpire s
  | .epochPullTimeout utag => Sys2Proof.Machine.execEpochPullTimeout utag s
  | .offer node msg => Sys2Proof.Machine.execOffer node msg s
  | .ack node msg => Sys2Proof.Machine.execAck node msg s
  | .nak node msg => Sys2Proof.Machine.execNak node msg s
  | .confirm node msg => Sys2Proof.Machine.execConfirm node msg s
  | .query node msg => Sys2Proof.Machine.execQuery node msg s
  | .queryReply node msg => Sys2Proof.Machine.execQueryReply node msg s
  | .floor node msg => Sys2Proof.Machine.execFloor node msg s
  | .handoffTimeout sslot => Sys2Proof.Machine.execHandoffTimeout sslot s
  | .twinAckTimeout => Sys2Proof.Machine.execTwinAckTimeout s
  | .twinLinkActive link => Sys2Proof.Machine.execTwinLinkActive link s
  | .resyncDone => Sys2Proof.Machine.execResyncDone s
  | .resetNRise straps => Sys2Proof.Machine.execResetNRise straps s
  | .resetNFall => Sys2Proof.Machine.execResetNFall s
  | .deviceReset => Sys2Proof.Machine.execDeviceReset s
  | .imageVerifyDone => Sys2Proof.Machine.execImageVerifyDone s
  | .bootTrainingDone tr => Sys2Proof.Machine.execBootTrainingDone tr s
  | .pwrFailNFall => Sys2Proof.Machine.execPwrFailNFall s
  | .flushEnd => Sys2Proof.Machine.execFlushEnd s
  | .pwrFailNHigh => Sys2Proof.Machine.execPwrFailNHigh s
  | .holdupSample mv => Sys2Proof.Machine.execHoldupSample mv s
  | .avsAckTimeout => Sys2Proof.Machine.execAvsAckTimeout s
  | .timeExchange => Sys2Proof.Machine.execTimeExchange s
  | .timeExchangeReply link t2 t3 t4 => Sys2Proof.Machine.execTimeExchangeReply link t2 t3 t4 s
  | .timePpsEdge => Sys2Proof.Machine.execTimePpsEdge s
  | .ppsLoss => Sys2Proof.Machine.execPpsLoss s
  | .calendarWrite val => Sys2Proof.Machine.execCalendarWrite val s
  | .calOscStop => Sys2Proof.Machine.execCalOscStop s
  | .thermalSample tj pw => Sys2Proof.Machine.execThermalSample tj pw s
  | .windowOpen win => Sys2Proof.Machine.execWindowOpen win s
  | .switchRecoveryDone => Sys2Proof.Machine.execSwitchRecoveryDone s
  | .linkChangeReport node link up peer => Sys2Proof.Machine.execLinkChangeReport node link up peer s
  | .l1L0pEntry port lp => Sys2Proof.Machine.execL1L0pEntry port lp s

end Sys2Proof.Machine
end

