-- ==== Sys2Proof/Safety.lean ====
section
/-! DEFINITION. The terms in which claims about the block are stated: when it serves commands, and which states are
legal. -/

namespace Sys2Proof.Machine

open Sys2Proof

/-- The block serves commands: RESET_N is high, no domain recovery waits to be started, no command unit waits for a tag or
holds one that it waited for, and no frame sent on a link waits to be copied for a mirror session. -/
abbrev Serving (s : State) : Prop :=
  s.dev.boot.held = false ∧ s.dev.errq.due = [] ∧ s.dev.tagWait = [] ∧ s.dev.tagHeld = [] ∧ s.dev.sw.seen = []

/-- No error record of this moment is open, so that an error now forms a record of its own (R449). -/
abbrev NoRecordNow (s : State) : Prop := s.dev.errq.opens.all (fun o => decide (o.time ≠ s.clk.time)) = true

/-- What a command leaves when it ends, its own fields apart: its fallbacks are counted, its reads in flight belong to
nobody, its place in the queue for cores is given up and the cores it holds are IDLE (R95, R185, R242). -/
def letGo (d : Dev) (tag : Nat) (c : Cmd) : Dev :=
  let d := if c.fallbacks = 0 then d else telF d c.floe 0x1030 c.fallbacks
  freeCores { dropReads d (fun o => o == .cmd tag) with runq := d.runq.filter (fun x => decide (x ≠ tag)) } tag c

/-- No upset waits in a slice's copy of a line, on the line's way to it, or in the line's directory entry (R353, R426, R427). -/
abbrev SoundLine (d : Dev) (line : Nat) : Prop :=
  tget d.sliceFlips line 0 = 0 ∧ d.pathBad.contains line = false ∧ tget d.dirFlips line 0 = 0

/-- The time base is in a legal state: one of the four impression states, at most eight intervals held and all eight in
LOCKED, a mark to measure from and no coasting in UNLOCKED and LOCKED and none in COASTING, and every count within its
width (R413 to R415, R517, R520, R521). -/
abbrev Clock.Legal (c : Clock) : Prop :=
  c.impr ≤ 3 ∧ c.intervals.length ≤ 8 ∧ (c.impr = 2 → c.intervals.length = 8) ∧
    (c.impr = 1 ∨ c.impr = 2 → c.from_.isSome = true ∧ c.coasts = 0) ∧ (c.impr = 3 → c.from_ = none) ∧
    c.time < 2 ^ 64 ∧ c.count < 2 ^ 64 ∧ c.cal < 2 ^ 64 ∧ c.calNs < 1000000000 ∧ c.ppsGood ≤ 3 ∧
    c.ignored ≤ 65535 ∧ c.synthesised ≤ 65535 ∧ c.calForced ≤ 65535

/-- The commands that act while RESET_N holds the device: edges of its pins, and the stop of the calendar's
oscillator. -/
def actsInReset : Instr → Bool
  | .resetNRise _ => true
  | .resetNFall => true
  | .perstNAssert _ => true
  | .perstNDeassert _ => true
  | .pwrFailNFall => true
  | .pwrFailNHigh => true
  | .calOscStop => true
  | _ => false

/-- The commands that may change the time base, the impression time base or the calendar clock. -/
def mayMoveClock : Instr → Bool
  | .resetNRise _ => true
  | .resetNFall => true
  | .deviceReset => true
  | .pwrFailNHigh => true
  | .fieldWrite _ => true
  | .registerWrite _ _ _ _ => true
  | .setTimestamp _ _ => true
  | .impress _ => true
  | .imprSyncEdge _ => true
  | .coastMark => true
  | .freeMark => true
  | .calForced _ _ => true
  | .timeExchange => true
  | .timeExchangeReply _ _ _ _ => true
  | .timePpsEdge => true
  | .ppsLoss => true
  | .calendarWrite _ => true
  | .calOscStop => true
  | _ => false

end Sys2Proof.Machine
end

