-- ==== Sys2Proof/Certificates/Slice0/Obligations.lean ====
section
/-! DEFINITION. What is claimed of the block.  Unless a statement says otherwise it holds in every state, those that no
run reaches included.  `Serving` says that RESET_N is high, that no domain recovery is due, which every step from
reset leaves so (StepKeepsTheTimeBaseLegal), that no command unit waits for a tag or holds one that it waited for
(the wait and its end are stated in full by the statement CommandsInOrder), and that no frame sent waits to be copied for a
mirror session.  Where a command may send frames on links a clause that frames what it changes says that no mirror session
is on (`mirrorsOn`); what such a session copies is stated by the statement FlitsAndFrames.  A next state written as a record update of the state before is the frame too:
whatever the update does not name is unchanged. -/



open Sys2Proof Sys2Proof.Machine

/-- POST at a mailbox that the port may use: with REQ_FULL 0 the request is stamped into REQ_HDR (port, context, privilege, sequence number), NEXT_SEQ advances modulo 65,536, REQ_FULL sets, and at a compositor mailbox with no request being served the request becomes takeable; with REQ_FULL 1 a post only sets POST_REFUSED and a write of REQ_DATA only sets WRITE_DROPPED, the request in the slot as it was. Nothing else of the block changes. -/
def Obligations.MailboxPost : Prop :=
    (∀ (s : State) (port mb : Nat), (.post port mb : Instr).wellFormed = true → Serving s → devState s.dev ≠ 0 → mailUse s.dev port mb = true → (mbOf s.dev mb).reqFull = false → mb < 12 →
      exec (.post port mb) s = .next { s with dev := { latch s with mbx := tput s.dev.mbx mb { mbOf s.dev mb with reqHdr := port + 16 * (mbOf s.dev mb).ctx + 2 ^ 13 * (mbOf s.dev mb).priv + 2 ^ 16 * (mbOf s.dev mb).nextSeq, nextSeq := ((mbOf s.dev mb).nextSeq + 1) % 65536, reqFull := true }, takeable := if (mbOf s.dev mb).svc.isNone then s.dev.takeable ++ [mb] else s.dev.takeable } }) ∧
    (∀ (s : State) (port mb : Nat), (.post port mb : Instr).wellFormed = true → Serving s → devState s.dev ≠ 0 → mailUse s.dev port mb = true → (mbOf s.dev mb).reqFull = false → 12 ≤ mb → agentOff s.dev mb = false →
      exec (.post port mb) s = .next { s with dev := { latch s with mbx := tput s.dev.mbx mb { mbOf s.dev mb with reqHdr := port + 16 * (mbOf s.dev mb).ctx + 2 ^ 13 * (mbOf s.dev mb).priv + 2 ^ 16 * (mbOf s.dev mb).nextSeq, nextSeq := ((mbOf s.dev mb).nextSeq + 1) % 65536, reqFull := true } } }) ∧
    (∀ (s : State) (port mb : Nat), (.post port mb : Instr).wellFormed = true → Serving s → devState s.dev ≠ 0 → mailUse s.dev port mb = true → (mbOf s.dev mb).reqFull = true →
      exec (.post port mb) s = .next { s with dev := { latch s with mbx := tput s.dev.mbx mb { mbOf s.dev mb with postRefused := true } } }) ∧
    (∀ (s : State) (port mb off : Nat) (bytes : List Byte), (.reqDataWrite port mb off bytes : Instr).wellFormed = true → Serving s → devState s.dev ≠ 0 → mailUse s.dev port mb = true → bytes.length = 4 ∨ bytes.length = 8 → off % bytes.length = 0 → off + bytes.length ≤ 64 → (mbOf s.dev mb).reqFull = true →
      exec (.reqDataWrite port mb off bytes) s = .next { s with dev := { latch s with mbx := tput s.dev.mbx mb { mbOf s.dev mb with writeDropped := true } } })

/-- Through a port that may use the mailbox: an aligned write of 4 or 8 bytes of REQ_DATA replaces those bytes while REQ_FULL is 0; a write of another size or alignment, or through another port, is dropped. A read of RSP_HDR that covers its low word while RSP_FULL is 1 returns the header and clears RSP_FULL, and a binding that the mailbox's own MAILBOX_BIND has set takes effect with it; a read of any other offset only returns what stands there, and one of a bad size or alignment completes with Unsupported Request. Writing ones to DOORBELL clears those bits, but EVENT sets again while an event waits (which may send the mailbox's MSI-X message); DB_MASK takes the value written, and unmasking a bit that is set sends that message where its entry is not masked. Through another port neither changes. Nothing else changes, but that a message wakes its link and is counted. -/
def Obligations.MailboxRegisters : Prop :=
    (∀ (s : State) (port mb off : Nat) (bytes : List Byte), (.reqDataWrite port mb off bytes : Instr).wellFormed = true → Serving s → devState s.dev ≠ 0 → mailUse s.dev port mb = true → bytes.length = 4 ∨ bytes.length = 8 → off % bytes.length = 0 → off + bytes.length ≤ 64 → (mbOf s.dev mb).reqFull = false →
      exec (.reqDataWrite port mb off bytes) s = .next { s with dev := { latch s with mbx := tput s.dev.mbx mb { mbOf s.dev mb with reqData := splice (mbOf s.dev mb).reqData off bytes } } }) ∧
    (∀ (s : State) (port mb off : Nat) (bytes : List Byte), (.reqDataWrite port mb off bytes : Instr).wellFormed = true → Serving s → devState s.dev = 0 ∨ mailUse s.dev port mb = false ∨ ¬(bytes.length = 4 ∨ bytes.length = 8) ∨ off % bytes.length ≠ 0 ∨ 64 < off + bytes.length →
      exec (.reqDataWrite port mb off bytes) s = .next { s with dev := latch s }) ∧
    (∀ (s : State) (port mb : Nat), (.rspHdrRead port mb 0xC0 4 : Instr).wellFormed = true → Serving s → devState s.dev ≠ 0 → mailUse s.dev port mb = true → (mbOf s.dev mb).rspFull = true → (mbOf s.dev mb).bindReady = none →
      exec (.rspHdrRead port mb 0xC0 4) s = .next { s with dev := { latch s with mbx := tput s.dev.mbx mb { mbOf s.dev mb with rspFull := false }, out := .readData port (0x10000 + mb * 0x100 + 0xC0) (leBytes 4 ((mbOf s.dev mb).rspHdr % 2 ^ 32)) :: s.dev.out } }) ∧
    (∀ (s : State) (port mb : Nat), (.rspHdrRead port mb 0xC0 8 : Instr).wellFormed = true → Serving s → devState s.dev ≠ 0 → mailUse s.dev port mb = true → (mbOf s.dev mb).rspFull = true → (mbOf s.dev mb).bindReady = none →
      exec (.rspHdrRead port mb 0xC0 8) s = .next { s with dev := { latch s with mbx := tput s.dev.mbx mb { mbOf s.dev mb with rspFull := false }, out := .readData port (0x10000 + mb * 0x100 + 0xC0) (leBytes 4 ((mbOf s.dev mb).rspHdr % 2 ^ 32) ++ zeros 4) :: s.dev.out } }) ∧
    (∀ (s : State) (port mb size p c v : Nat) (b : Bool), (.rspHdrRead port mb 0xC0 size : Instr).wellFormed = true → Serving s → devState s.dev ≠ 0 → mailUse s.dev port mb = true → size = 4 ∨ size = 8 → (mbOf s.dev mb).rspFull = true → (mbOf s.dev mb).bindReady = some (b, p, c, v) →
      exec (.rspHdrRead port mb 0xC0 size) s = .next { s with dev := { latch s with mbx := tput s.dev.mbx mb { mbOf s.dev mb with rspFull := false, bindReady := Option.none, bound := b, port := p, ctx := c, priv := v }, out := .readData port (0x10000 + mb * 0x100 + 0xC0) (bar0Bytes (latch s) port (0x10000 + mb * 0x100 + 0xC0) size) :: s.dev.out } }) ∧
    (∀ (s : State) (port mb off size : Nat), (.rspHdrRead port mb off size : Instr).wellFormed = true → Serving s → devState s.dev ≠ 0 → size = 4 ∨ size = 8 → off % size = 0 → off ≠ 0xC0 ∨ mailUse s.dev port mb = false ∨ (mbOf s.dev mb).rspFull = false →
      exec (.rspHdrRead port mb off size) s = .next { s with dev := { latch s with out := .readData port (0x10000 + mb * 0x100 + off) (bar0Bytes (latch s) port (0x10000 + mb * 0x100 + off) size) :: s.dev.out } }) ∧
    (∀ (s : State) (port mb off size : Nat), (.rspHdrRead port mb off size : Instr).wellFormed = true → Serving s → devState s.dev = 0 ∨ ¬(size = 4 ∨ size = 8) ∨ off % size ≠ 0 →
      exec (.rspHdrRead port mb off size) s = .next { s with dev := { latch s with out := .urd port (0x10000 + mb * 0x100 + off) :: s.dev.out } }) ∧
    (∀ (s : State) (port mb : Nat) (v : BitVec 32), (.doorbellClear port mb v : Instr).wellFormed = true → Serving s → devState s.dev ≠ 0 → mailUse s.dev port mb = true → bitOf v.toNat 1 = false ∨ (mbOf s.dev mb).events = [] →
      exec (.doorbellClear port mb v) s = .next { s with dev := { latch s with mbx := tput s.dev.mbx mb { mbOf s.dev mb with doorbell := (mbOf s.dev mb).doorbell - ((mbOf s.dev mb).doorbell &&& v.toNat) } } }) ∧
    (∀ (s : State) (port mb : Nat) (v : BitVec 32), (.doorbellClear port mb v : Instr).wellFormed = true → Serving s → devState s.dev ≠ 0 → mailUse s.dev port mb = true → bitOf v.toNat 1 = true → (mbOf s.dev mb).events.isEmpty = false → bitOf (mbOf s.dev mb).mask 1 = true →
      ∃ t, exec (.doorbellClear port mb v) s = .next t ∧ t.dev.mbx = tput s.dev.mbx mb { mbOf s.dev mb with doorbell := ((mbOf s.dev mb).doorbell - ((mbOf s.dev mb).doorbell &&& v.toNat)) + 2 } ∧ t = { s with dev := { latch s with mbx := t.dev.mbx } }) ∧
    (∀ (s : State) (port mb : Nat) (v : BitVec 32), (.dbMaskWrite port mb v : Instr).wellFormed = true → Serving s → devState s.dev = 0 ∨ mailUse s.dev port mb = false →
      exec (.dbMaskWrite port mb v) s = .next { s with dev := latch s }) ∧
    (∀ (s : State) (port mb : Nat) (v : BitVec 32), (.doorbellClear port mb v : Instr).wellFormed = true → Serving s → devState s.dev = 0 ∨ mailUse s.dev port mb = false →
      exec (.doorbellClear port mb v) s = .next { s with dev := latch s }) ∧
    (∀ (s : State) (port mb : Nat) (v : BitVec 32), (.doorbellClear port mb v : Instr).wellFormed = true → Serving s → devState s.dev ≠ 0 → mailUse s.dev port mb = true → bitOf v.toNat 1 = true → (mbOf s.dev mb).events.isEmpty = false → bitOf (mbOf s.dev mb).mask 1 = false →
      ∃ t, exec (.doorbellClear port mb v) s = .next t ∧ t.dev.mbx = tput s.dev.mbx mb { mbOf s.dev mb with doorbell := ((mbOf s.dev mb).doorbell - ((mbOf s.dev mb).doorbell &&& v.toNat)) + 2 } ∧ t = { s with dev := { latch s with mbx := t.dev.mbx, ports := t.dev.ports, tel := t.dev.tel, out := t.dev.out } }) ∧
    (∀ (s : State) (port mb : Nat) (v : BitVec 32), (.dbMaskWrite port mb v : Instr).wellFormed = true → Serving s → devState s.dev ≠ 0 → mailUse s.dev port mb = true → (List.range 32).all (fun i => !(bitOf (mbOf s.dev mb).mask i && !bitOf v.toNat i && bitOf (mbOf s.dev mb).doorbell i)) = true →
      exec (.dbMaskWrite port mb v) s = .next { s with dev := { latch s with mbx := tput s.dev.mbx mb { mbOf s.dev mb with mask := v.toNat } } }) ∧
    (∀ (s : State) (port mb i : Nat) (v : BitVec 32), (.dbMaskWrite port mb v : Instr).wellFormed = true → Serving s → devState s.dev ≠ 0 → mailUse s.dev port mb = true → i < 32 → (mbOf s.dev mb).bound = true → bitOf (mbOf s.dev mb).mask i = true → bitOf v.toNat i = false → bitOf (mbOf s.dev mb).doorbell i = true → (vecOf (portOf s.dev (mbOf s.dev mb).port) mb).masked = false → (portOf s.dev (mbOf s.dev mb).port).funcMask = false → linkUp (portOf s.dev (mbOf s.dev mb).port) = true →
      ∃ t, exec (.dbMaskWrite port mb v) s = .next t ∧ t.dev.mbx = tput s.dev.mbx mb { mbOf s.dev mb with mask := v.toNat } ∧ t.dev.out = .msix (mbOf s.dev mb).port mb :: s.dev.out ∧ t = { s with dev := { latch s with mbx := t.dev.mbx, ports := t.dev.ports, tel := t.dev.tel, out := t.dev.out } })

/-- REQUEST_TAKE moves the request whose turn it is from REQ_DATA into service and clears REQ_FULL; one that must wait for a long message is set aside, one whose header is bad is answered MESSAGE_INVALID at once, and one at the mailbox of a floe that is not ON is answered DOMAIN_OFF. SET_ASIDE_SERVE takes up the message set aside first of those whose wait is over; SERVICE_TIMEOUT makes the INTERNAL reply ready, sets SERVICE_TIMEOUT and forms one error record; REPLY_WRITE writes the ready reply to RSP_DATA, sets RSP_FULL, rings RSP_READY and frees the mailbox for its next request. -/
def Obligations.MailboxService : Prop :=
    (∀ (s : State) (mb : Nat), (.requestTake mb : Instr).wellFormed = true → Serving s → mayTake s.dev mb = true → agentOff s.dev mb = false → headerFault s.dev mb (mbOf s.dev mb).reqData = none → paramBlock (mbOf s.dev mb).reqData = none → 12 ≤ mb ∨ mustWait ({ latch s with svcNext := s.dev.svcNext + 1, takeable := s.dev.takeable.erase mb, mbx := tput s.dev.mbx mb { mbOf s.dev mb with reqFull := false, svc := some ⟨s.dev.svcNext, (mbOf s.dev mb).reqHdr, (mbOf s.dev mb).reqData, Option.none, false, false, false, Option.none, Option.none, false⟩ } }) ⟨s.dev.svcNext, (mbOf s.dev mb).reqHdr, (mbOf s.dev mb).reqData, Option.none, false, false, false, Option.none, Option.none, false⟩ = false →
      ∃ t, exec (.requestTake mb) s = .next t ∧ t.dev.mbx = ({ latch s with svcNext := s.dev.svcNext + 1, takeable := s.dev.takeable.erase mb, mbx := tput s.dev.mbx mb { mbOf s.dev mb with reqFull := false, svc := some ⟨s.dev.svcNext, (mbOf s.dev mb).reqHdr, (mbOf s.dev mb).reqData, Option.none, false, false, false, Option.none, Option.none, false⟩ } }).mbx ∧ t = { s with dev := { { latch s with svcNext := s.dev.svcNext + 1, takeable := s.dev.takeable.erase mb, mbx := tput s.dev.mbx mb { mbOf s.dev mb with reqFull := false, svc := some ⟨s.dev.svcNext, (mbOf s.dev mb).reqHdr, (mbOf s.dev mb).reqData, Option.none, false, false, false, Option.none, Option.none, false⟩ } } with mbx := t.dev.mbx } }) ∧
    (∀ (s : State) (mb : Nat), (.requestTake mb : Instr).wellFormed = true → Serving s → mayTake s.dev mb = true → mb < 12 → headerFault s.dev mb (mbOf s.dev mb).reqData = none → paramBlock (mbOf s.dev mb).reqData = none → mustWait ({ latch s with svcNext := s.dev.svcNext + 1, takeable := s.dev.takeable.erase mb, mbx := tput s.dev.mbx mb { mbOf s.dev mb with reqFull := false, svc := some ⟨s.dev.svcNext, (mbOf s.dev mb).reqHdr, (mbOf s.dev mb).reqData, Option.none, false, false, false, Option.none, Option.none, false⟩ } }) ⟨s.dev.svcNext, (mbOf s.dev mb).reqHdr, (mbOf s.dev mb).reqData, Option.none, false, false, false, Option.none, Option.none, false⟩ = true →
      ∃ t, exec (.requestTake mb) s = .next t ∧ t.dev.mbx = ({ latch s with svcNext := s.dev.svcNext + 1, takeable := s.dev.takeable.erase mb, mbx := tput s.dev.mbx mb { mbOf s.dev mb with reqFull := false, svc := some ⟨s.dev.svcNext, (mbOf s.dev mb).reqHdr, (mbOf s.dev mb).reqData, Option.none, false, true, false, Option.none, Option.none, false⟩ } }).mbx ∧ t = { s with dev := { { latch s with svcNext := s.dev.svcNext + 1, takeable := s.dev.takeable.erase mb, mbx := tput s.dev.mbx mb { mbOf s.dev mb with reqFull := false, svc := some ⟨s.dev.svcNext, (mbOf s.dev mb).reqHdr, (mbOf s.dev mb).reqData, Option.none, false, true, false, Option.none, Option.none, false⟩ } } with mbx := t.dev.mbx } }) ∧
    (∀ (s : State) (mb det : Nat), (.requestTake mb : Instr).wellFormed = true → Serving s → mayTake s.dev mb = true → agentOff s.dev mb = false → headerFault s.dev mb (mbOf s.dev mb).reqData = some det →
      ∃ t, exec (.requestTake mb) s = .next t ∧ t.dev.mbx = ({ latch s with svcNext := s.dev.svcNext + 1, takeable := s.dev.takeable.erase mb, mbx := tput s.dev.mbx mb { mbOf s.dev mb with reqFull := false, svc := some ⟨s.dev.svcNext, (mbOf s.dev mb).reqHdr, (mbOf s.dev mb).reqData, Option.none, false, false, true, Option.none, some (solpen (mbOf s.dev mb).reqData 0x43 det []), true⟩ } }).mbx ∧ t = { s with dev := { { latch s with svcNext := s.dev.svcNext + 1, takeable := s.dev.takeable.erase mb, mbx := tput s.dev.mbx mb { mbOf s.dev mb with reqFull := false, svc := some ⟨s.dev.svcNext, (mbOf s.dev mb).reqHdr, (mbOf s.dev mb).reqData, Option.none, false, false, true, Option.none, Option.none, true⟩ } } with mbx := t.dev.mbx } }) ∧
    (∀ (s : State) (mb : Nat), (.requestTake mb : Instr).wellFormed = true → Serving s → mayTake s.dev mb = true → agentOff s.dev mb = true →
      ∃ t, exec (.requestTake mb) s = .next t ∧ t.dev.mbx = ({ latch s with svcNext := s.dev.svcNext + 1, takeable := s.dev.takeable.erase mb, mbx := tput s.dev.mbx mb { mbOf s.dev mb with reqFull := false, svc := some ⟨s.dev.svcNext, (mbOf s.dev mb).reqHdr, (mbOf s.dev mb).reqData, Option.none, false, false, true, Option.none, some (solpen (mbOf s.dev mb).reqData 0x42 0 []), true⟩ } }).mbx ∧ t = { s with dev := { { latch s with svcNext := s.dev.svcNext + 1, takeable := s.dev.takeable.erase mb, mbx := tput s.dev.mbx mb { mbOf s.dev mb with reqFull := false, svc := some ⟨s.dev.svcNext, (mbOf s.dev mb).reqHdr, (mbOf s.dev mb).reqData, Option.none, false, false, true, Option.none, Option.none, true⟩ } } with mbx := t.dev.mbx } }) ∧
    (∀ (s : State) (mb : Nat) (sv : Service), (.setAsideServe mb : Instr).wellFormed = true → Serving s → (mbOf s.dev mb).svc = some sv → sv.aside = true → asideNext s.dev = some sv.id → (mbOf s.dev mb).late = [] → foreground s.dev = false →
      exec (.setAsideServe mb) s = .next { s with dev := { latch s with mbx := tput s.dev.mbx mb { mbOf s.dev mb with svc := some { sv with aside := false } } } }) ∧
    (∀ (s : State) (mb : Nat) (sv : Service), (.serviceTimeout mb : Instr).wellFormed = true → Serving s → (mbOf s.dev mb).svc = some sv → sv.reply = none → NoRecordNow s →
      ∃ t, exec (.serviceTimeout mb) s = .next t ∧ (mbOf t.dev mb).serviceTimeout = true ∧ (mbOf t.dev mb).svc = some { sv with reply := some (solpen sv.req 0xFF 0 []) } ∧ t.dev.errq.next = (s.dev.errq.next + 1) % 2 ^ 32 ∧ t = { s with dev := { latch s with mbx := t.dev.mbx, errq := t.dev.errq, tel := t.dev.tel, ports := t.dev.ports, out := t.dev.out } }) ∧
    (∀ (s : State) (mb : Nat) (sv : Service) (b : Bytes), (.replyWrite mb : Instr).wellFormed = true → Serving s → (mbOf s.dev mb).svc = some sv → sv.reply = some b → (mbOf s.dev mb).rspFull = false → s.dev.withdrawing = [] →
      ∃ t, exec (.replyWrite mb) s = .next t ∧ (mbOf t.dev mb).svc = none ∧ (mbOf t.dev mb).rspFull = true ∧ (mbOf t.dev mb).rspData = slice b 0 64 ∧ bitOf (mbOf t.dev mb).doorbell 0 = true ∧ t.clk = s.clk ∧ t.dev.mem = s.dev.mem ∧ t.dev.cmds = s.dev.cmds ∧ t.dev.pages = s.dev.pages ∧ t.dev.cores = s.dev.cores ∧ t.dev.galleys = s.dev.galleys ∧ t.dev.regs = s.dev.regs)

/-- With the message in service and its body well formed: IDENTIFY answers part 0x0001_1200, the firmware version, the serial number of the verified record, the node number and domain epoch, and message version 1; STATUS answers DEVICE_STATUS and the state of each floe; both change nothing but the reply. EVENT_READ hands over the three oldest events and clears LOST. ERROR_READ with flag ACK at privilege 3 removes the records older than ACK_UPTO and clears LOST. -/
def Obligations.InformationMessages : Prop :=
    (∀ (s : State) (mb : Nat) (sv : Service), (.identify mb : Instr).wellFormed = true → Serving s → (mbOf s.dev mb).svc = some sv → msgOf sv.req = 0x0001 → sv.busy = false → sv.aside = false → sv.reply = none → agentOff s.dev mb = false → sv.zeroFrom 8 = true →
      exec (.identify mb) s = .next { s with dev := { latch s with mbx := tput s.dev.mbx mb { mbOf s.dev mb with svc := some { sv with busy := true, ended := true, reply := some (solpen sv.req 0 0 (leBytes 4 0x00011200 ++ leBytes 4 s.dev.boot.fwVersion ++ leBytes 8 (serialOf s.dev) ++ leBytes 4 (idNode s.dev) ++ leBytes 4 (epochOf s.dev) ++ [1])) } } } }) ∧
    (∀ (s : State) (mb : Nat) (sv : Service), (.status mb : Instr).wellFormed = true → Serving s → (mbOf s.dev mb).svc = some sv → msgOf sv.req = 0x0002 → sv.busy = false → sv.aside = false → sv.reply = none → agentOff s.dev mb = false → sv.zeroFrom 8 = true →
      exec (.status mb) s = .next { s with dev := { latch s with mbx := tput s.dev.mbx mb { mbOf s.dev mb with svc := some { sv with busy := true, ended := true, reply := some (solpen sv.req 0 0 (leBytes 4 (deviceStatus s.dev) ++ (List.range 4).flatMap (fun f => leBytes 1 (floeState s.dev f)))) } } } }) ∧
    (∀ (s : State) (mb : Nat) (sv : Service), (.eventRead mb : Instr).wellFormed = true → Serving s → (mbOf s.dev mb).svc = some sv → msgOf sv.req = 0x0003 → sv.busy = false → sv.aside = false → sv.reply = none → agentOff s.dev mb = false → sv.zeroFrom 8 = true →
      ∃ t, exec (.eventRead mb) s = .next t ∧ (mbOf t.dev mb).events = (mbOf s.dev mb).events.drop 3 ∧ (mbOf t.dev mb).lost = 0 ∧ (mbOf t.dev mb).svc = some { sv with busy := true, ended := true, reply := some (solpen sv.req 0 0 (leBytes 1 ((mbOf s.dev mb).events.take 3).length ++ leBytes 1 (mbOf s.dev mb).lost ++ zeros 6 ++ ((mbOf s.dev mb).events.take 3).flatMap eventBytes)) } ∧ t.dev = { latch s with mbx := t.dev.mbx } ∧ t.clk = s.clk) ∧
    (∀ (s : State) (mb : Nat) (sv : Service), (.errorRead mb : Instr).wellFormed = true → Serving s → (mbOf s.dev mb).svc = some sv → msgOf sv.req = 0x0004 → sv.busy = false → sv.aside = false → sv.reply = none → agentOff s.dev mb = false → sv.f 12 1 = 1 → sv.f 13 3 = 0 → sv.zeroFrom 32 = true → sv.f 24 4 % 64 = 0 → hPriv sv.hdr = 3 →
      ∃ t, exec (.errorRead mb) s = .next t ∧ t.dev.errq = { s.dev.errq with slots := s.dev.errq.slots.filter (fun e => !seqOlder e.2.seq (sv.f 28 4)), lost := 0 } ∧ ((mbOf t.dev mb).svc.map (·.busy)) = some true ∧ t.clk = s.clk ∧ t.dev.mem = s.dev.mem ∧ t.dev.pages = s.dev.pages ∧ t.dev.cmds = s.dev.cmds)

/-- MAILBOX_BIND from a mailbox of privilege 3 names another mailbox that is idle, a port, an existing context and a privilege, while some other mailbox keeps privilege 3: the named mailbox takes the binding, and the reply gives the binding it had. -/
def Obligations.MailboxBinding : Prop :=
    (∀ (s : State) (mb m port ctx priv : Nat) (sv : Service), (.mailboxBind mb : Instr).wellFormed = true → Serving s → (mbOf s.dev mb).svc = some sv → msgOf sv.req = 0x0010 → sv.busy = false → sv.aside = false → sv.reply = none → agentOff s.dev mb = false → sv.zeroFrom 13 = true → sv.f 8 1 = m → sv.f 9 1 = port → sv.f 10 2 = ctx → sv.f 12 1 = priv → m ≠ mb → m < 16 → port < 12 → ctx < 512 → priv < 4 → hPriv sv.hdr = 3 → ctxExists s.dev ctx = true → (mbOf s.dev m).reqFull = false → (mbOf s.dev m).rspFull = false → (mbOf s.dev m).svc = none → otherOwner s.dev m = true →
      ∃ t, exec (.mailboxBind mb) s = .next t ∧ (mbOf t.dev m) = { mbOf s.dev m with bound := true, port := port, ctx := ctx, priv := priv } ∧ (mbOf t.dev mb) = { mbOf s.dev mb with svc := some { sv with busy := true, ended := true, reply := some (solpen sv.req 0 0 (leBytes 4 (bindingOf (mbOf s.dev m)))) } } ∧ t.dev = { latch s with mbx := t.dev.mbx } ∧ t.clk = s.clk)

/-- FLOE_POWER off of an ON floe with no galley, no sequence slot and no directory entry makes it DRAINING, and on of an OFF floe makes it WAKING; the message waits. A drained floe with nothing in flight becomes OFF and loses its cache slice; a drain that times out returns it to ON and refuses the message with RESOURCE_REFUSED, 5; a woken floe is ON and the message is answered OK; a floe whose recovery times out is OFF. -/
def Obligations.FloePower : Prop :=
    (∀ (s : State) (mb f : Nat) (sv : Service), (.floePowerOff mb : Instr).wellFormed = true → Serving s → (mbOf s.dev mb).svc = some sv → msgOf sv.req = 0x0013 → sv.f 9 1 = 0 → sv.f 8 1 = f → f < 4 → sv.zeroFrom 10 = true → hPriv sv.hdr = 3 → sv.busy = false → sv.aside = false → mb < 12 → floeState s.dev f = 0 → mayPowerOff s.dev f = true →
      ∃ t, exec (.floePowerOff mb) s = .next t ∧ floeState t.dev f = 1 ∧ tget? t.dev.boot.floeJobs f = some (mb, sv.id) ∧ (∀ g, g ≠ f → floeState t.dev g = floeState s.dev g) ∧ t.clk = s.clk ∧ t.dev.mem = s.dev.mem ∧ t.dev.pages = s.dev.pages ∧ t.dev.cmds = s.dev.cmds ∧ t.dev.cores = s.dev.cores ∧ t.dev.galleys = s.dev.galleys) ∧
    (∀ (s : State) (mb f : Nat) (sv : Service), (.floePowerOn mb : Instr).wellFormed = true → Serving s → (mbOf s.dev mb).svc = some sv → msgOf sv.req = 0x0013 → sv.f 9 1 = 1 → sv.f 8 1 = f → f < 4 → sv.zeroFrom 10 = true → hPriv sv.hdr = 3 → sv.busy = false → sv.aside = false → mb < 12 → floeState s.dev f = 2 → s.dev.boot.contained.contains f = false →
      ∃ t, exec (.floePowerOn mb) s = .next t ∧ floeState t.dev f = 3 ∧ tget? t.dev.boot.floeJobs f = some (mb, sv.id) ∧ (∀ g, g ≠ f → floeState t.dev g = floeState s.dev g) ∧ t.clk = s.clk ∧ t.dev.mem = s.dev.mem ∧ t.dev.pages = s.dev.pages ∧ t.dev.cmds = s.dev.cmds ∧ t.dev.cores = s.dev.cores ∧ t.dev.galleys = s.dev.galleys) ∧
    (∀ (s : State) (f : Nat), (.floeDrainDone f : Instr).wellFormed = true → Serving s → floeState s.dev f = 1 → floeIdle s.dev f = true → s.dev.runq = [] → s.dev.cache.all (fun c => homeFloe (pageOfLine c.1) != f || !c.2.dirty) = true → s.dev.dir.all (fun e => !(e.2.state == 2 && decide (e.2.owner < 64) && e.2.owner / 16 == f)) = true →
      ∃ t, exec (.floeDrainDone f) s = .next t ∧ floeState t.dev f = 2 ∧ t.dev.cache = s.dev.cache.filter (fun c => homeFloe (pageOfLine c.1) ≠ f) ∧ t.dev.boot.floeJobs = tdel s.dev.boot.floeJobs f ∧ t.clk = s.clk ∧ t.dev.mem = s.dev.mem ∧ t.dev.pages = s.dev.pages) ∧
    (∀ (s : State) (f mb : Nat) (sv : Service), (.floeDrainTimeout f : Instr).wellFormed = true → Serving s → floeState s.dev f = 1 → tget? s.dev.boot.floeJobs f = some (mb, sv.id) → (mbOf s.dev mb).svc = some sv → sv.reply = none →
      ∃ t, exec (.floeDrainTimeout f) s = .next t ∧ floeState t.dev f = 0 ∧ ((mbOf t.dev mb).svc.map (·.reply)) = some (some (solpen sv.req 0x40 5 (leBytes 1 f ++ [0]))) ∧ t.clk = s.clk ∧ t.dev.mem = s.dev.mem ∧ t.dev.pages = s.dev.pages ∧ t.dev.cmds = s.dev.cmds ∧ t.dev.cores = s.dev.cores ∧ t.dev.galleys = s.dev.galleys) ∧
    (∀ (s : State) (f mb : Nat) (sv : Service), (.floeWakeDone f : Instr).wellFormed = true → Serving s → floeState s.dev f = 3 → s.dev.boot.contained.contains f = false → tget? s.dev.boot.floeJobs f = some (mb, sv.id) → (mbOf s.dev mb).svc = some sv → sv.reply = none →
      ∃ t, exec (.floeWakeDone f) s = .next t ∧ floeState t.dev f = 0 ∧ ((mbOf t.dev mb).svc.map (·.reply)) = some (some (solpen sv.req 0 0 (leBytes 1 f ++ [0]))) ∧ t.clk = s.clk ∧ t.dev.mem = s.dev.mem ∧ t.dev.pages = s.dev.pages ∧ t.dev.cmds = s.dev.cmds ∧ t.dev.cores = s.dev.cores ∧ t.dev.galleys = s.dev.galleys) ∧
    (∀ (s : State) (f : Nat), (.floeRecoveryTimeout f : Instr).wellFormed = true → Serving s → floeState s.dev f = 3 → s.dev.boot.contained.contains f = true → s.dev.runq = [] →
      ∃ t, exec (.floeRecoveryTimeout f) s = .next t ∧ floeState t.dev f = 2 ∧ t.dev.boot.contained = s.dev.boot.contained ∧ t.clk = s.clk ∧ t.dev.mem = s.dev.mem ∧ t.dev.pages = s.dev.pages ∧ t.dev.cmds = s.dev.cmds ∧ t.dev.cores = s.dev.cores ∧ t.dev.galleys = s.dev.galleys)

/-- RESET_N falling holds the device in reset (STATE RESET), and rising starts boot with the straps latched; PWR_CTRL.DEVICE_RESET, and PWR_FAIL_N high again after a flush, start boot with the straps as they were. Each leaves the calendar clock, the durable pages with their bytes, and the flash; the time base, registers, contexts, galleys, commands, cores, cache, directory and error queue are as at reset. That a device reset keeps durable pages is the model's reading (DEDUCED, log entry 3). -/
def Obligations.DeviceReset : Prop :=
    (∀ (s : State), (.resetNFall : Instr).wellFormed = true → s.dev.boot.held = false → s.dev.errq.due = [] →
      ∃ t, exec (.resetNFall) s = .next t ∧ t.dev.boot.held = true ∧ t.dev.boot.phase = 0 ∧ t.clk = { Clock.reset with cal := s.clk.cal, calNs := s.clk.calNs, calValid := s.clk.calValid } ∧ t.dev.pages = s.dev.pages.filter (fun p => p.2.durable) ∧ t.dev.mem = s.dev.mem.filter (fun c => thas (s.dev.pages.filter (fun p => p.2.durable)) (c.1 / 65536)) ∧ t.dev.regs = [] ∧ t.dev.ctxs = Dev.reset.ctxs ∧ t.dev.galleys = [] ∧ t.dev.cmds = [] ∧ t.dev.cores = [] ∧ t.dev.cache = [] ∧ t.dev.dir = [] ∧ t.dev.errq = ErrQ.reset) ∧
    (∀ (s : State) (straps : Straps), (.resetNRise straps : Instr).wellFormed = true → s.dev.boot.held = true → s.dev.errq.due = [] →
      ∃ t, exec (.resetNRise straps) s = .next t ∧ t.dev.boot.held = false ∧ t.dev.boot.phase = 1 ∧ t.clk = { Clock.reset with cal := s.clk.cal, calNs := s.clk.calNs, calValid := s.clk.calValid } ∧ t.dev.pages = s.dev.pages.filter (fun p => p.2.durable) ∧ t.dev.mem = s.dev.mem.filter (fun c => thas (s.dev.pages.filter (fun p => p.2.durable)) (c.1 / 65536)) ∧ t.dev.regs = [] ∧ t.dev.ctxs = Dev.reset.ctxs ∧ t.dev.galleys = [] ∧ t.dev.cmds = [] ∧ t.dev.cores = [] ∧ t.dev.cache = [] ∧ t.dev.dir = [] ∧ t.dev.errq = ErrQ.reset ∧ t.dev.boot.slotId = straps.slotId ∧ t.dev.boot.bootMode = straps.bootMode) ∧
    (∀ (s : State), (.deviceReset : Instr).wellFormed = true → Serving s →
      ∃ t, exec (.deviceReset) s = .next t ∧ t.dev.boot.held = false ∧ t.dev.boot.phase = 1 ∧ t.clk = { Clock.reset with cal := s.clk.cal, calNs := s.clk.calNs, calValid := s.clk.calValid } ∧ t.dev.pages = s.dev.pages.filter (fun p => p.2.durable) ∧ t.dev.mem = s.dev.mem.filter (fun c => thas (s.dev.pages.filter (fun p => p.2.durable)) (c.1 / 65536)) ∧ t.dev.regs = [] ∧ t.dev.ctxs = Dev.reset.ctxs ∧ t.dev.galleys = [] ∧ t.dev.cmds = [] ∧ t.dev.cores = [] ∧ t.dev.cache = [] ∧ t.dev.dir = [] ∧ t.dev.errq = ErrQ.reset ∧ t.dev.boot.slotId = s.dev.boot.slotId ∧ t.dev.boot.bootMode = s.dev.boot.bootMode) ∧
    (∀ (s : State), (.pwrFailNHigh : Instr).wellFormed = true → Serving s → s.dev.boot.flushing = true → s.dev.boot.flushDone = true →
      ∃ t, exec (.pwrFailNHigh) s = .next t ∧ t.dev.boot.held = false ∧ t.dev.boot.phase = 1 ∧ t.clk = { Clock.reset with cal := s.clk.cal, calNs := s.clk.calNs, calValid := s.clk.calValid } ∧ t.dev.pages = s.dev.pages.filter (fun p => p.2.durable) ∧ t.dev.mem = s.dev.mem.filter (fun c => thas (s.dev.pages.filter (fun p => p.2.durable)) (c.1 / 65536)) ∧ t.dev.regs = [] ∧ t.dev.ctxs = Dev.reset.ctxs ∧ t.dev.galleys = [] ∧ t.dev.cmds = [] ∧ t.dev.cores = [] ∧ t.dev.cache = [] ∧ t.dev.dir = [] ∧ t.dev.errq = ErrQ.reset ∧ t.dev.boot.pwrLow = false)

/-- At the end of step 4 the flash image is accepted (STATE stays BOOT and step 5 runs) or the device enters RECOVERY with the cause found; with the BOOT_MODE strap at 1 or 3 it enters RECOVERY with cause 6. At the end of step 5 the device is up, EDGE_READY sets, and each floe is ON or, where its training failed, OFF and contained. -/
def Obligations.BootImage : Prop :=
    (∀ (s : State), (.imageVerifyDone : Instr).wellFormed = true → Serving s → s.dev.boot.phase = 1 → s.dev.boot.running = false → s.dev.boot.flushing = false → s.dev.boot.torn = false → s.dev.boot.pwrLow = false → s.dev.boot.bootMode ≠ 1 → s.dev.boot.bootMode ≠ 3 →
      ∃ t, exec (.imageVerifyDone) s = .next t ∧ t.dev.boot.running = decide (imageCause s.dev.boot.record s.dev.boot.flashImage = 0) ∧ t.dev.boot.phase = (if imageCause s.dev.boot.record s.dev.boot.flashImage = 0 then 1 else 2) ∧ t.dev.boot.cause = imageCause s.dev.boot.record s.dev.boot.flashImage ∧ t.clk = s.clk ∧ t.dev.mem = s.dev.mem ∧ t.dev.pages = s.dev.pages ∧ t.dev.cmds = s.dev.cmds ∧ t.dev.cores = s.dev.cores ∧ t.dev.galleys = s.dev.galleys) ∧
    (∀ (s : State), (.imageVerifyDone : Instr).wellFormed = true → Serving s → s.dev.boot.phase = 1 → s.dev.boot.running = false → s.dev.boot.flushing = false → s.dev.boot.bootMode = 1 ∨ s.dev.boot.bootMode = 3 →
      ∃ t, exec (.imageVerifyDone) s = .next t ∧ t.dev.boot.phase = 2 ∧ t.dev.boot.cause = 6 ∧ t.clk = s.clk ∧ t.dev.mem = s.dev.mem ∧ t.dev.pages = s.dev.pages ∧ t.dev.cmds = s.dev.cmds ∧ t.dev.cores = s.dev.cores ∧ t.dev.galleys = s.dev.galleys) ∧
    (∀ (s : State) (tr : Training), (.bootTrainingDone tr : Instr).wellFormed = true → Serving s → s.dev.boot.phase = 1 → s.dev.boot.running = true →
      ∃ t, exec (.bootTrainingDone tr) s = .next t ∧ t.dev.boot.phase = 3 ∧ t.dev.boot.edgeReady = true ∧ (∀ f, f < 4 → floeState t.dev f = if tr.floes.getD f false then 0 else 2) ∧ t.dev.boot.contained = (List.range 4).filter (fun f => !tr.floes.getD f false) ∧ t.clk = s.clk ∧ t.dev.mem = s.dev.mem ∧ t.dev.pages = s.dev.pages ∧ t.dev.cmds = s.dev.cmds ∧ t.dev.cores = s.dev.cores ∧ t.dev.galleys = s.dev.galleys)

/-- IMAGE_PUSH in RECOVERY without STORE runs an image that verifies and answers its version, and refuses another with MESSAGE_INVALID, 9 where it is older than MIN_FW and 8 otherwise. CONFIG_PUSH without a record in force begins the flash write of a well-formed record that is signed by a record key and bound to this identity and slot. FLASH_WRITE_DONE puts the record into flash and answers the message. -/
def Obligations.FlashMessages : Prop :=
    (∀ (s : State) (mb : Nat) (sv : Service) (p : Bytes), (.imagePush mb : Instr).wellFormed = true → Serving s → (mbOf s.dev mb).svc = some sv → msgOf sv.req = 0x0F01 → sv.busy = false → sv.aside = false → sv.reply = none → sv.params = some p → sv.paramErr = false → sv.f 8 8 = 0 → sv.zeroFrom 28 = true → sv.f 24 4 ≤ 2 ^ 24 → mb < 12 → s.dev.boot.phase = 2 → s.dev.boot.failed = false → s.dev.boot.pwrLow = false →
      ∃ t, exec (.imagePush mb) s = .next t ∧ t.dev.boot.phase = (if imageCause s.dev.boot.record (slice p 0 (sv.f 24 4)) = 0 then 1 else 2) ∧ ((mbOf t.dev mb).svc.bind (·.reply)) = some (if imageCause s.dev.boot.record (slice p 0 (sv.f 24 4)) = 0 then solpen sv.req 0 0 (slice (slice (slice p 0 (sv.f 24 4)) 0 (fieldAt (slice p 0 (sv.f 24 4)) 8 4)) 4 8) else if imageCause s.dev.boot.record (slice p 0 (sv.f 24 4)) = 5 then solpen sv.req 0x43 9 [] else solpen sv.req 0x43 8 []) ∧ t.clk = s.clk ∧ t.dev.mem = s.dev.mem ∧ t.dev.pages = s.dev.pages ∧ t.dev.cmds = s.dev.cmds ∧ t.dev.cores = s.dev.cores ∧ t.dev.galleys = s.dev.galleys) ∧
    (∀ (s : State) (mb : Nat) (sv : Service) (p : Bytes), (.configPush mb : Instr).wellFormed = true → Serving s → (mbOf s.dev mb).svc = some sv → msgOf sv.req = 0x0F02 → sv.busy = false → sv.aside = false → sv.params = some p → sv.paramErr = false → sv.f 8 8 = 0 → sv.zeroFrom 28 = true → sv.f 24 4 = 512 → mb < 12 → s.dev.boot.record = none → s.dev.boot.flushing = false → recordForm (slice p 0 512) = true →
      ∃ t, exec (.configPush mb) s = .next t ∧ t.dev.boot.flashJob = (if (recordSigned none (slice p 0 512) && recordBound s.dev.boot (slice p 0 512)) = true then some (mb, sv.id, 0, slice p 0 512) else s.dev.boot.flashJob) ∧ t.clk = s.clk ∧ t.dev.mem = s.dev.mem ∧ t.dev.pages = s.dev.pages ∧ t.dev.cmds = s.dev.cmds ∧ t.dev.cores = s.dev.cores ∧ t.dev.galleys = s.dev.galleys) ∧
    (∀ (s : State) (mb : Nat) (sv : Service) (b : Bytes), (.flashWriteDone : Instr).wellFormed = true → Serving s → s.dev.boot.flashJob = some (mb, sv.id, 0, b) → (mbOf s.dev mb).svc = some sv → sv.reply = none →
      ∃ t, exec (.flashWriteDone) s = .next t ∧ t.dev.boot.flashRecord = some b ∧ t.dev.boot.flashJob = none ∧ ((mbOf t.dev mb).svc.bind (·.reply)) = some (solpen sv.req 0 0 (slice b 4 4 ++ slice b 24 4 ++ slice b 8 8)) ∧ t.clk = s.clk ∧ t.dev.mem = s.dev.mem ∧ t.dev.pages = s.dev.pages ∧ t.dev.cmds = s.dev.cmds ∧ t.dev.cores = s.dev.cores ∧ t.dev.galleys = s.dev.galleys)

/-- PWR_FAIL_N falling while the device is up starts the flush: FLUSHING sets, every galley stops fetching and a flash write is abandoned; at the end of the flush, with no admitted durable write waiting and PWR_FAIL_N still low, FLUSH_DONE sets and the modules get their save request. A hold-up sample below the requirement clears HOLDUP_OK. An AVS acknowledgement that does not come leaves VDD_CORE at the last value acknowledged, 0.80 V, and writes one POWER record. A temperature sample sets TJ_C and the throttle levels; at 110 °C or above the device trips: THERMTRIP_N falls and the device is FAILED. -/
def Obligations.PowerAndThermal : Prop :=
    (∀ (s : State), (.pwrFailNFall : Instr).wellFormed = true → Serving s → flushCovers s.dev.boot = true → s.dev.boot.flushing = false →
      ∃ t, exec (.pwrFailNFall) s = .next t ∧ t.dev.boot.pwrLow = true ∧ t.dev.boot.flushing = true ∧ t.dev.boot.flushDone = false ∧ t.dev.boot.flashJob = none ∧ fetchable t.dev 0 = [] ∧ fetchable t.dev 1 = [] ∧ fetchable t.dev 2 = [] ∧ fetchable t.dev 3 = [] ∧ t.clk = s.clk ∧ t.dev.mem = s.dev.mem ∧ t.dev.pages = s.dev.pages ∧ t.dev.cmds = s.dev.cmds ∧ t.dev.cores = s.dev.cores ∧ t.dev.galleys = s.dev.galleys) ∧
    (∀ (s : State), (.flushEnd : Instr).wellFormed = true → Serving s → s.dev.boot.flushing = true → s.dev.boot.flushDone = false → s.dev.boot.pwrLow = true → durableWaits s.dev = false →
      ∃ t, exec (.flushEnd) s = .next t ∧ t.dev.boot.flushDone = true ∧ t.dev.out.contains .save = true ∧ t.clk = s.clk ∧ t.dev.mem = s.dev.mem ∧ t.dev.pages = s.dev.pages ∧ t.dev.cmds = s.dev.cmds ∧ t.dev.cores = s.dev.cores ∧ t.dev.galleys = s.dev.galleys) ∧
    (∀ (s : State) (mv : Nat), (.holdupSample mv : Instr).wellFormed = true → Serving s → s.dev.boot.holdupOk = true → holdupEnergy s.dev mv < rf s.dev 0x04B00010 0 16 →
      ∃ t, exec (.holdupSample mv) s = .next t ∧ t.dev.boot.holdupOk = false ∧ t.dev.boot.energy = holdupEnergy s.dev mv ∧ t.clk = s.clk ∧ t.dev.mem = s.dev.mem ∧ t.dev.pages = s.dev.pages ∧ t.dev.cmds = s.dev.cmds ∧ t.dev.cores = s.dev.cores ∧ t.dev.galleys = s.dev.galleys) ∧
    (∀ (s : State), (.avsAckTimeout : Instr).wellFormed = true → Serving s → flushCovers s.dev.boot = true →
      ∃ t, exec (.avsAckTimeout) s = .next t ∧ t.dev.boot = { s.dev.boot with vddCore := 800 } ∧ t.dev.errq.next = (s.dev.errq.next + 1) % 2 ^ 32 ∧ t.clk = s.clk ∧ t.dev.mem = s.dev.mem ∧ t.dev.pages = s.dev.pages ∧ t.dev.cmds = s.dev.cmds ∧ t.dev.cores = s.dev.cores ∧ t.dev.galleys = s.dev.galleys) ∧
    (∀ (s : State) (tj pw : Nat), (.thermalSample tj pw : Instr).wellFormed = true → Serving s → tj < 110 →
      ∃ t, exec (.thermalSample tj pw) s = .next t ∧ t.dev.boot.tj = tj ∧ t.dev.boot.power = pw ∧ t.dev.boot.thermLevel = max (entersLevel s.dev tj) (leavesLevel s.dev tj s.dev.boot.thermLevel) ∧ t.dev.boot.tripped = s.dev.boot.tripped ∧ t.clk = s.clk ∧ t.dev.mem = s.dev.mem ∧ t.dev.pages = s.dev.pages ∧ t.dev.cmds = s.dev.cmds ∧ t.dev.cores = s.dev.cores ∧ t.dev.galleys = s.dev.galleys) ∧
    (∀ (s : State) (tj pw : Nat), (.thermalSample tj pw : Instr).wellFormed = true → Serving s → 110 ≤ tj → s.dev.boot.tripped = false →
      ∃ t, exec (.thermalSample tj pw) s = .next t ∧ t.dev.boot.tripped = true ∧ t.dev.boot.failed = true ∧ t.dev.out.contains (.pin 1 false) = true ∧ t.clk = s.clk ∧ t.dev.mem = s.dev.mem ∧ t.dev.pages = s.dev.pages ∧ t.dev.cmds = s.dev.cmds ∧ t.dev.cores = s.dev.cores ∧ t.dev.galleys = s.dev.galleys)

/-- FIELD_READ at privilege 3 of a register the map holds answers the value under the access, notes the access in the compositor's BUS_STATUS, and where no register under it has an RC field changes nothing else. FIELD_WRITE of HOLDUP (a Live register) with a full mask stores the value, is answered with OUTCOME 0 and changes no other register; FIELD_WRITE of a Held field of a CXL port that runs leaves the register as it was and is answered FIELD_REFUSED with that field in REFUSED; a reserved offset is answered MESSAGE_INVALID, 4, sets the sticky bit of BUS_STATUS and forms one error record. -/
def Obligations.RegisterMessages : Prop :=
    (∀ (s : State) (mb off size opt : Nat) (sv : Service), (.fieldRead mb : Instr).wellFormed = true → Serving s → (mbOf s.dev mb).svc = some sv → msgOf sv.req = 0x0011 → sv.busy = false → sv.aside = false → sv.reply = none → agentOff s.dev mb = false → mb < 12 → hPriv sv.hdr = 3 → sv.f 8 4 = off → sv.f 12 1 = size → sv.f 13 1 = opt → opt < 2 → sv.f 14 2 = 0 → sv.f 16 8 = 0 → sv.f 24 8 = 0 → sv.zeroFrom 32 = true → badOffset off size = false → offInFloe s.dev off = false → (regsUnder off size).all (fun r => r.flds.all (fun f => f.acc != Acc.rc)) = true →
      ∃ t, exec (.fieldRead mb) s = .next t ∧ ((mbOf t.dev mb).svc.bind (·.reply)) = some (solpen sv.req 0 0 (leBytes 4 off ++ zeros 20 ++ leBytes 8 (readAt s.clk (latch s) off size (decide (opt = 1))))) ∧ tget? t.dev.bus 0 = some ⟨0, (tget s.dev.bus 0 ⟨0, false, 0⟩).sticky, off % 2 ^ 32⟩ ∧ t = { s with dev := { latch s with mbx := t.dev.mbx, bus := t.dev.bus } }) ∧
    (∀ (s : State) (mb v : Nat) (sv : Service), (.fieldWrite mb : Instr).wellFormed = true → Serving s → (mbOf s.dev mb).svc = some sv → msgOf sv.req = 0x0012 → sv.busy = false → sv.aside = false → sv.reply = none → agentOff s.dev mb = false → mb < 12 → hPriv sv.hdr = 3 → sv.f 8 4 = 0x04B00010 → sv.f 12 1 = 4 → sv.f 13 1 = 0 → sv.f 14 2 = 0 → sv.f 16 8 = 0xFFFF → sv.f 24 8 = v → sv.zeroFrom 32 = true →
      ∃ t, exec (.fieldWrite mb) s = .next t ∧ rf t.dev 0x04B00010 0 16 = v % 65536 ∧ ((mbOf t.dev mb).svc.bind (·.reply)) = some (solpen sv.req 0 0 (leBytes 4 0x04B00010 ++ zeros 20 ++ leBytes 8 (v % 65536))) ∧ (∀ o, o ≠ 0x04B00010 → rv t.dev o = rv s.dev o) ∧ t = { s with dev := { latch s with mbx := t.dev.mbx, bus := t.dev.bus, regs := t.dev.regs } }) ∧
    (∀ (s : State) (mb p : Nat) (sv : Service), (.fieldWrite mb : Instr).wellFormed = true → Serving s → (mbOf s.dev mb).svc = some sv → msgOf sv.req = 0x0012 → sv.busy = false → sv.aside = false → sv.reply = none → agentOff s.dev mb = false → mb < 12 → hPriv sv.hdr = 3 → p < 12 → sv.f 8 4 = portBase p → sv.f 12 1 = 4 → sv.f 13 1 = 0 → sv.f 14 2 = 0 → sv.f 16 8 = 2 → sv.f 24 8 = 2 → sv.zeroFrom 32 = true → portRunning (portOf s.dev p) = true → rf s.dev (portBase p) 1 1 = 0 →
      ∃ t, exec (.fieldWrite mb) s = .next t ∧ t.dev.regs = s.dev.regs ∧ ((mbOf t.dev mb).svc.map (fun x => x.reply.map (fun r => (fieldAt r 4 1, fieldAt r 16 8)))) = some (some (0x41, 2)) ∧ t = { s with dev := { latch s with mbx := t.dev.mbx, bus := t.dev.bus } }) ∧
    (∀ (s : State) (mb off : Nat) (sv : Service), (.fieldWrite mb : Instr).wellFormed = true → Serving s → NoRecordNow s → (mbOf s.dev mb).svc = some sv → msgOf sv.req = 0x0012 → sv.busy = false → sv.aside = false → sv.reply = none → agentOff s.dev mb = false → mb < 12 → hPriv sv.hdr = 3 → sv.f 8 4 = off → sv.f 12 1 = 4 → sv.f 13 1 = 0 → sv.f 14 2 = 0 → sv.zeroFrom 32 = true → regAt off = none →
      ∃ t, exec (.fieldWrite mb) s = .next t ∧ t.dev.regs = s.dev.regs ∧ t.dev.errq.next = (s.dev.errq.next + 1) % 2 ^ 32 ∧ tget? t.dev.bus 0 = some ⟨0x43, true, off % 2 ^ 32⟩ ∧ ((mbOf t.dev mb).svc.map (fun x => x.reply.map (fun r => (fieldAt r 4 1, fieldAt r 5 1)))) = some (some (0x43, 4)) ∧ t.clk = s.clk ∧ t.dev.mem = s.dev.mem)

/-- A write of HOLDUP by the compositor stores the value. A host's 4-byte write to the offset of DB_MASK, DOORBELL or POST of a mailbox of BAR0, of CMD_TAIL, PROOF_HEAD or CONTROL of a galley, and to the acknowledgement register of the error queue by the compositor (but for BUS_STATUS), does exactly what the command of that name does. -/
def Obligations.RegisterWrites : Prop :=
    (∀ (s : State) (v : Nat), (.registerWrite .compositor 0x04B00010 4 v : Instr).wellFormed = true → Serving s →
      ∃ t, exec (.registerWrite .compositor 0x04B00010 4 v) s = .next t ∧ rf t.dev 0x04B00010 0 16 = v % 65536 ∧ (∀ o, o ≠ 0x04B00010 → rv t.dev o = rv s.dev o) ∧ t = { s with dev := { latch s with bus := t.dev.bus, regs := t.dev.regs } }) ∧
    (∀ (s : State) (port mb v : Nat), (.registerWrite (.host port) (0x10054 + 0x100 * mb) 4 v : Instr).wellFormed = true → Serving s → mb < 16 → devState s.dev ≠ 0 →
      ∃ t, exec (.registerWrite (.host port) (0x10054 + 0x100 * mb) 4 v) s = .next t ∧ exec (.dbMaskWrite port mb (BitVec.ofNat 32 v)) s = .next t) ∧
    (∀ (s : State) (port mb v : Nat), (.registerWrite (.host port) (0x10050 + 0x100 * mb) 4 v : Instr).wellFormed = true → Serving s → mb < 16 → devState s.dev ≠ 0 →
      ∃ t, exec (.registerWrite (.host port) (0x10050 + 0x100 * mb) 4 v) s = .next t ∧ exec (.doorbellClear port mb (BitVec.ofNat 32 v)) s = .next t) ∧
    (∀ (s : State) (port mb v : Nat), (.registerWrite (.host port) (0x10048 + 0x100 * mb) 4 v : Instr).wellFormed = true → Serving s → mb < 16 → devState s.dev ≠ 0 → bitOf v 0 = true → v < 2 ^ 32 →
      ∃ t, exec (.registerWrite (.host port) (0x10048 + 0x100 * mb) 4 v) s = .next t ∧ exec (.post port mb) s = .next t) ∧
    (∀ (s : State) (port ctx g v : Nat), (.registerWrite (.host port) (0x100000 + 0x1000 * ctx + 0x40 * g) 4 v : Instr).wellFormed = true → Serving s → ctx < 512 → g < 8 → devState s.dev ≠ 0 → v < 2 ^ 32 →
      ∃ t, exec (.registerWrite (.host port) (0x100000 + 0x1000 * ctx + 0x40 * g) 4 v) s = .next t ∧ exec (.cmdTailWrite port ctx g v) s = .next t) ∧
    (∀ (s : State) (port ctx g v : Nat), (.registerWrite (.host port) (0x100004 + 0x1000 * ctx + 0x40 * g) 4 v : Instr).wellFormed = true → Serving s → ctx < 512 → g < 8 → devState s.dev ≠ 0 → v < 2 ^ 32 →
      ∃ t, exec (.registerWrite (.host port) (0x100004 + 0x1000 * ctx + 0x40 * g) 4 v) s = .next t ∧ exec (.proofHeadWrite port ctx g v) s = .next t) ∧
    (∀ (s : State) (port ctx g : Nat), (.registerWrite (.host port) (0x100010 + 0x1000 * ctx + 0x40 * g) 4 1 : Instr).wellFormed = true → Serving s → ctx < 512 → g < 8 → devState s.dev ≠ 0 →
      ∃ t, exec (.registerWrite (.host port) (0x100010 + 0x1000 * ctx + 0x40 * g) 4 1) s = .next t ∧ exec (.galleyStart port ctx g) s = .next t) ∧
    (∀ (s : State) (v : Nat), (.registerWrite .compositor 0x04C00010 4 v : Instr).wellFormed = true → Serving s → v < 2 ^ 32 →
      ∃ t, exec (.registerWrite .compositor 0x04C00010 4 v) s = .next t ∧ exec (.errqAck v) s = .next { t with dev := { t.dev with bus := s.dev.bus } })

/-- ERRQ_ACK removes every held record whose SEQ is older than the value, modulo 2^32, and clears LOST of ERROR_READ; a read of ERRQ_STATUS returns it and clears its own LOST; a read of a memory controller's or an arbiter's counts, while the floe is ON, returns those counts and clears them. Nothing else changes. -/
def Obligations.CountersAndAcknowledgement : Prop :=
    (∀ (s : State) (v : Nat), (.errqAck v : Instr).wellFormed = true → Serving s →
      exec (.errqAck v) s = .next { s with dev := { latch s with errq := { s.dev.errq with slots := s.dev.errq.slots.filter (fun e => !seqOlder e.2.seq (v % 2 ^ 32)), lost := 0 } } }) ∧
    (∀ (s : State), (.errqStatusRead : Instr).wellFormed = true → Serving s →
      exec (.errqStatusRead) s = .next { s with dev := { latch s with errq := { s.dev.errq with lostReg := 0 }, out := .regData 0x04C00000 (errqStatus (latch s)) :: s.dev.out } }) ∧
    (∀ (s : State) (f u : Nat), (.eccCountsRead f u : Instr).wellFormed = true → Serving s → floeOn s.dev f = true →
      exec (.eccCountsRead f u) s = .next { s with dev := { latch s with ecc := tput s.dev.ecc (f * 7 + u) { eccOf s.dev f u with corrected := 0, uncorrectable := 0, miscorrect := 0 }, out := .regData (eccBase f u + 0x218) (eccCounts (eccOf s.dev f u)) :: s.dev.out } }) ∧
    (∀ (s : State) (f a : Nat), (.arbCountsRead f a : Instr).wellFormed = true → Serving s → floeOn s.dev f = true →
      exec (.arbCountsRead f a) s = .next { s with dev := { latch s with arbs := tput s.dev.arbs (30 * f + a) { arbOf s.dev f a with preemptions := 0, queueFull := 0, bites := 0 }, out := .regData (arbBase f a + 0x28) (arbCounts (arbOf s.dev f a)) :: s.dev.out } })

/-- At the privilege its type needs, with parameters the type accepts and where no long message stands in its way: a context, a range and a region take the lowest free index and hold what the parameters say; a sequence slot and a galley likewise, owned by the issuing context, with the home floe their block names; a table whose ranges and forme are right, an index (with the counts that its metadata gives where it names segments in use), a codebook and a kernel that the code store has room for are kept with their blocks. A context index beyond the last is refused RESOURCE_REFUSED, 1. The reply gives the handle, and nothing but the table of that type and the mailbox changes, what the index's reads of its metadata do apart. A forme of new members, or one of the map to be attached, is submitted to the coordinator as a change of the map, and the message waits for its commit. -/
def Obligations.ObjectCreate : Prop :=
    (∀ (s : State) (mb n : Nat) (sv : Service), (.objCreate mb : Instr).wellFormed = true → Serving s → (mbOf s.dev mb).svc = some sv → msgOf sv.req = 0x0100 → sv.busy = false → sv.aside = false → sv.reply = none → agentOff s.dev mb = false → sv.f 9 1 = 0 → sv.f 14 2 = 0 → sv.f 12 2 = 0 → sv.paramErr = false → ctxExists s.dev (hCtx sv.hdr) = true → sv.f 8 1 = 1 → sv.f 10 2 = 0 → sv.f 24 4 = 0 → mb < 12 → hPriv sv.hdr = 3 → ctxParamsOk (slice sv.req 40 24) = true → lowestFree (tkeys s.dev.ctxs) 0 512 = some n → vecOverlap s.dev n (Ctx.fresh.with (slice sv.req 40 24)) = false →
      ∃ t, exec (.objCreate mb) s = .next t ∧ tget? t.dev.ctxs n = some (Ctx.fresh.with (slice sv.req 40 24)) ∧ ((mbOf t.dev mb).svc.bind (·.reply)) = some (solpen sv.req 0 0 (objReply 1 n 0 (ctxInline t.dev n))) ∧ (∀ c, c ≠ n → tget? t.dev.ctxs c = tget? s.dev.ctxs c) ∧ t = { s with dev := { latch s with mbx := t.dev.mbx, ctxs := t.dev.ctxs } }) ∧
    (∀ (s : State) (mb : Nat) (sv : Service), (.objCreate mb : Instr).wellFormed = true → Serving s → (mbOf s.dev mb).svc = some sv → msgOf sv.req = 0x0100 → sv.busy = false → sv.aside = false → sv.reply = none → agentOff s.dev mb = false → sv.f 9 1 = 0 → sv.f 14 2 = 0 → sv.f 12 2 = 0 → sv.paramErr = false → ctxExists s.dev (hCtx sv.hdr) = true → sv.f 8 1 = 1 → sv.f 10 2 = 0 → sv.f 24 4 = 0 → mb < 12 → hPriv sv.hdr = 3 → ctxParamsOk (slice sv.req 40 24) = true → lowestFree (tkeys s.dev.ctxs) 0 512 = none →
      ∃ t, exec (.objCreate mb) s = .next t ∧ ((mbOf t.dev mb).svc.bind (·.reply)) = some (solpen sv.req 0x40 1 ([])) ∧ t = { s with dev := { latch s with mbx := t.dev.mbx } }) ∧
    (∀ (s : State) (mb i a n u : Nat) (sv : Service), (.objCreate mb : Instr).wellFormed = true → Serving s → (mbOf s.dev mb).svc = some sv → msgOf sv.req = 0x0100 → sv.busy = false → sv.aside = false → sv.reply = none → agentOff s.dev mb = false → sv.f 9 1 = 0 → sv.f 14 2 = 0 → sv.f 12 2 = 0 → sv.paramErr = false → ctxExists s.dev (hCtx sv.hdr) = true → sv.f 8 1 = 2 → sv.f 10 2 = 0 → sv.f 24 4 = 0 → mb < 12 → 1 ≤ hPriv sv.hdr → rangeParamsOk (slice sv.req 40 24) = true → rangeParams (slice sv.req 40 24) = (a, 3, n, u) → hPriv sv.hdr = 3 ∨ (pagesIn s.dev u n).all (fun p => !p.2.region && p.2.owner == hCtx sv.hdr) = true → lowestFree (tkeys (ctxOf s.dev (hCtx sv.hdr)).ranges) 0 4096 = some i → ctxOverlap s.dev (hCtx sv.hdr) a n = false → cohRefused s.dev none u n false = false →
      ∃ t, exec (.objCreate mb) s = .next t ∧ tget? (ctxOf t.dev (hCtx sv.hdr)).ranges i = some ⟨a, n, u, true, true, false, false, none, 0, none, none, none, (ctxOf s.dev (hCtx sv.hdr)).made⟩ ∧ (ctxOf t.dev (hCtx sv.hdr)).gen = (ctxOf s.dev (hCtx sv.hdr)).gen ∧ ((mbOf t.dev mb).svc.bind (·.reply)) = some (solpen sv.req 0 0 (objReply 2 i 0 [])) ∧ t = { s with dev := { latch s with mbx := t.dev.mbx, ctxs := t.dev.ctxs } }) ∧
    (∀ (s : State) (mb i : Nat) (sv : Service), (.objCreate mb : Instr).wellFormed = true → Serving s → (mbOf s.dev mb).svc = some sv → msgOf sv.req = 0x0100 → sv.busy = false → sv.aside = false → sv.reply = none → agentOff s.dev mb = false → sv.f 9 1 = 0 → sv.f 14 2 = 0 → sv.f 12 2 = 0 → sv.paramErr = false → ctxExists s.dev (hCtx sv.hdr) = true → sv.f 8 1 = 9 → sv.f 10 2 = 0 → sv.f 24 4 = 0 → mb < 12 → 1 ≤ hPriv sv.hdr → regionParamsOk (slice sv.req 40 24) = true → lowestFree (tkeys s.dev.regions) 0 4096 = some i →
      ∃ t, exec (.objCreate mb) s = .next t ∧ (tget? t.dev.regions i).map (fun r => (r.owner, r.open_, r.current, r.versions)) = some (hCtx sv.hdr, bitOf (fieldAt (slice sv.req 40 24) 0 2) 0, 0, []) ∧ ((mbOf t.dev mb).svc.bind (·.reply)) = some (solpen sv.req 0 0 (objReply 9 i 0 [])) ∧ t = { s with dev := { latch s with mbx := t.dev.mbx, regions := t.dev.regions } }) ∧
    (∀ (s : State) (mb i : Nat) (sv : Service) (p : Bytes), (.objCreate mb : Instr).wellFormed = true → Serving s → (mbOf s.dev mb).svc = some sv → msgOf sv.req = 0x0100 → sv.busy = false → sv.aside = false → sv.reply = none → agentOff s.dev mb = false → sv.f 9 1 = 0 → sv.f 14 2 = 0 → sv.f 12 2 = 0 → sv.paramErr = false → ctxExists s.dev (hCtx sv.hdr) = true → sv.f 8 1 = 5 → sv.f 10 2 = 0 → sv.f 24 4 = 64 → mb < 12 → 1 ≤ hPriv sv.hdr → sv.params = some p → slotParamsOk (slice p 0 64) 64 = true → fieldAt (slice p 0 64) 43 1 < 4 → sv.homeKey = [] ∨ mustWait (latch s) sv = false → floeOn s.dev (fieldAt (slice p 0 64) 43 1) = true → lowestFree (tkeys s.dev.slots) 0 4096 = some i →
      ∃ t, exec (.objCreate mb) s = .next t ∧ (tget? t.dev.slots i).map (fun x => (x.ctx, x.par, x.home, x.state, x.epoch)) = some (hCtx sv.hdr, slice p 0 64, fieldAt (slice p 0 64) 43 1, 0, 0) ∧ ((mbOf t.dev mb).svc.bind (·.reply)) = some (solpen sv.req 0 0 (objReply 5 i 0 [])) ∧ t = { s with dev := { latch s with mbx := t.dev.mbx, slots := t.dev.slots } }) ∧
    (∀ (s : State) (mb i n : Nat) (sv : Service) (p : Bytes), (.objCreate mb : Instr).wellFormed = true → Serving s → (mbOf s.dev mb).svc = some sv → msgOf sv.req = 0x0100 → sv.busy = false → sv.aside = false → sv.reply = none → agentOff s.dev mb = false → sv.f 9 1 = 0 → sv.f 14 2 = 0 → sv.f 12 2 = 0 → sv.paramErr = false → ctxExists s.dev (hCtx sv.hdr) = true → sv.f 8 1 = 8 → sv.f 10 2 = 0 → sv.f 24 4 = 16 + 16 * n → 1 ≤ n → n ≤ 4096 → mb < 12 → 1 ≤ hPriv sv.hdr → sv.params = some p → p.length = 16 + 16 * n → fieldAt p 0 2 = n → allZero (slice p 2 14) = true → freeScoped s.dev (hCtx sv.hdr) 8 256 = some i →
      ∃ t, exec (.objCreate mb) s = .next t ∧ (tget? t.dev.objs (objKey (hCtx sv.hdr) (0x8000 + i))).map (·.par) = some p ∧ ((mbOf t.dev mb).svc.bind (·.reply)) = some (solpen sv.req 0 0 (objReply 8 i 0 (bookInline p))) ∧ t = { s with dev := { latch s with mbx := t.dev.mbx, objs := t.dev.objs } }) ∧
    (∀ (s : State) (mb g : Nat) (sv : Service) (p : Bytes), (.objCreate mb : Instr).wellFormed = true → Serving s → (mbOf s.dev mb).svc = some sv → msgOf sv.req = 0x0100 → sv.busy = false → sv.aside = false → sv.reply = none → agentOff s.dev mb = false → sv.f 9 1 = 0 → sv.f 14 2 = 0 → sv.f 12 2 = 0 → sv.paramErr = false → ctxExists s.dev (hCtx sv.hdr) = true → sv.f 8 1 = 3 → sv.f 10 2 = 0 → sv.f 24 4 = 64 → mb < 12 → 1 ≤ hPriv sv.hdr → sv.params = some p → galleyParamsOk (ctxOf s.dev (hCtx sv.hdr)) (slice p 0 64) 64 = true → bitOf (fieldAt p 27 1) 2 = false ∨ hPriv sv.hdr = 3 → fieldAt p 26 1 < 4 → sv.homeKey = [] ∨ mustWait (latch s) sv = false → floeOn s.dev (fieldAt p 26 1) = true → coverFaults (latch s) (hCtx sv.hdr) [(fieldAt p 0 8, 64 * 2 ^ fieldAt p 24 1, 1), (fieldAt p 16 8, if fieldAt p 16 8 = 0 then 0 else 8, 1), (fieldAt p 8 8, 64 * 2 ^ fieldAt p 25 1, 2)] = none → lowestFree ((tkeys (s.dev.galleys.filter (fun x => decide (x.1 / 8 = hCtx sv.hdr)))).map (fun k => k % 8)) 0 8 = some g →
      ∃ t, exec (.objCreate mb) s = .next t ∧ t.dev.galleys = tput s.dev.galleys (gkey (hCtx sv.hdr) g) { Galley.none with par := slice p 0 64, home := fieldAt p 26 1, applied := slice p 0 64 } ∧ ((mbOf t.dev mb).svc.bind (·.reply)) = some (solpen sv.req 0 0 (objReply 3 g 0 (galleyInline t.dev (hCtx sv.hdr) g))) ∧ t = { s with dev := { latch s with mbx := t.dev.mbx, galleys := t.dev.galleys } }) ∧
    (∀ (s : State) (mb i : Nat) (sv : Service) (p : Bytes), (.objCreate mb : Instr).wellFormed = true → Serving s → (mbOf s.dev mb).svc = some sv → msgOf sv.req = 0x0100 → sv.busy = false → sv.aside = false → sv.reply = none → agentOff s.dev mb = false → sv.f 9 1 = 0 → sv.f 14 2 = 0 → sv.f 12 2 = 0 → sv.paramErr = false → ctxExists s.dev (hCtx sv.hdr) = true → sv.f 8 1 = 6 → sv.f 10 2 = 0 → sv.f 24 4 = 64 → mb < 12 → 1 ≤ hPriv sv.hdr → sv.params = some p → tableParamsOk (slice p 0 64) 64 = true → tableForme (latch s) (hCtx sv.hdr) (tabOf (slice p 0 64)).forme = none → coverFaults (latch s) (hCtx sv.hdr) [((tabOf (slice p 0 64)).store, (tabOf (slice p 0 64)).slots * (tabOf (slice p 0 64)).slotBytes, 3), ((tabOf (slice p 0 64)).work, roundUp (16 * (tabOf (slice p 0 64)).rows + 12 * ((tabOf (slice p 0 64)).slots - (tabOf (slice p 0 64)).rows)) 65536, 3)] = none → freeScoped s.dev (hCtx sv.hdr) 6 256 = some i →
      ∃ t, exec (.objCreate mb) s = .next t ∧ t.dev.objs = tput s.dev.objs (objKey (hCtx sv.hdr) (0x6000 + i)) ⟨slice p 0 64, []⟩ ∧ ((mbOf t.dev mb).svc.bind (·.reply)) = some (solpen sv.req 0 0 (objReply 6 i 0 [])) ∧ t = { s with dev := { latch s with mbx := t.dev.mbx, objs := t.dev.objs } }) ∧
    (∀ (s : State) (mb i : Nat) (sv : Service) (p : Bytes), (.objCreate mb : Instr).wellFormed = true → Serving s → (mbOf s.dev mb).svc = some sv → msgOf sv.req = 0x0100 → sv.busy = false → sv.aside = false → sv.reply = none → agentOff s.dev mb = false → sv.f 9 1 = 0 → sv.f 14 2 = 0 → sv.f 12 2 = 0 → sv.paramErr = false → ctxExists s.dev (hCtx sv.hdr) = true → sv.f 8 1 = 7 → sv.f 10 2 = 0 → mb < 12 → 1 ≤ hPriv sv.hdr → sv.params = some p → indexFault (latch s) sv = none → fieldAt p 60 4 = 0 → p.length = 64 → freeScoped s.dev (hCtx sv.hdr) 7 64 = some i →
      ∃ t, exec (.objCreate mb) s = .next t ∧ t.dev.objs = tput s.dev.objs (objKey (hCtx sv.hdr) (0x7000 + i)) ⟨slice p 0 64, [(0, 0), (1, 0), (2, 0)]⟩ ∧ ((mbOf t.dev mb).svc.bind (·.reply)) = some (solpen sv.req 0 0 (objReply 7 i 0 (zeros 16))) ∧ t = { s with dev := { latch s with mbx := t.dev.mbx, objs := t.dev.objs } }) ∧
    (∀ (s : State) (mb i a b : Nat) (sv : Service) (p : Bytes) (w : W) (d : Dev), (.objCreate mb : Instr).wellFormed = true → Serving s → (mbOf s.dev mb).svc = some sv → msgOf sv.req = 0x0100 → sv.busy = false → sv.aside = false → sv.reply = none → agentOff s.dev mb = false → sv.f 9 1 = 0 → sv.f 14 2 = 0 → sv.f 12 2 = 0 → sv.paramErr = false → ctxExists s.dev (hCtx sv.hdr) = true → sv.f 8 1 = 7 → sv.f 10 2 = 0 → mb < 12 → 1 ≤ hPriv sv.hdr → sv.params = some p → indexFault (latch s) sv = none → 0 < fieldAt p 60 4 → p.length = 64 → countMeta (latch s) mb sv = (w, a, b) → w.ok = true → w.blocked = none → dropReads w.d (fun o => o == .svc mb sv.id) = d → d.boot = s.dev.boot → d.mbx = s.dev.mbx → d.ctxs = s.dev.ctxs → d.errq.due = [] → d.tagWait = [] → d.tagHeld = [] → d.sw.seen = [] → freeScoped d (hCtx sv.hdr) 7 64 = some i →
      ∃ t, exec (.objCreate mb) s = .next t ∧ t.dev.objs = tput d.objs (objKey (hCtx sv.hdr) (0x7000 + i)) ⟨slice p 0 64, [(0, fieldAt p 60 4), (1, a), (2, b)]⟩ ∧ ((mbOf t.dev mb).svc.bind (·.reply)) = some (solpen sv.req 0 0 (objReply 7 i 0 (leBytes 4 (fieldAt p 60 4) ++ leBytes 4 a ++ leBytes 4 b ++ zeros 4))) ∧ t = { s with dev := { d with mbx := t.dev.mbx, objs := t.dev.objs } }) ∧
    (∀ (s : State) (mb i : Nat) (sv : Service) (p : Bytes), (.objCreate mb : Instr).wellFormed = true → Serving s → (mbOf s.dev mb).svc = some sv → msgOf sv.req = 0x0100 → sv.busy = false → sv.aside = false → sv.reply = none → agentOff s.dev mb = false → sv.f 9 1 = 0 → sv.f 14 2 = 0 → sv.f 12 2 = 0 → sv.paramErr = false → ctxExists s.dev (hCtx sv.hdr) = true → sv.f 8 1 = 10 → sv.f 10 2 = 0 → sv.f 24 4 = p.length → p.length ≤ 2 ^ 24 → mb < 12 → 1 ≤ hPriv sv.hdr → sv.params = some p → kernelFault? p p.length = none → storeUsed s.dev + codeRoom p + fieldAt p 20 4 ≤ 2 ^ 28 → freeScoped s.dev (hCtx sv.hdr) 10 256 = some i →
      ∃ t, exec (.objCreate mb) s = .next t ∧ t.dev.objs = tput s.dev.objs (objKey (hCtx sv.hdr) (0xA000 + i)) ⟨p, []⟩ ∧ ((mbOf t.dev mb).svc.bind (·.reply)) = some (solpen sv.req 0 0 (objReply 10 i 0 (leBytes 4 (codeRoom p) ++ zeros 4 ++ slice p 48 8))) ∧ t = { s with dev := { latch s with mbx := t.dev.mbx, objs := t.dev.objs } }) ∧
    (∀ (s : State) (mb n : Nat) (sv : Service) (p : Bytes) (d : Dev), (.objCreate mb : Instr).wellFormed = true → Serving s → (mbOf s.dev mb).svc = some sv → msgOf sv.req = 0x0100 → sv.busy = false → sv.aside = false → sv.reply = none → agentOff s.dev mb = false → sv.f 9 1 = 0 → sv.f 14 2 = 0 → sv.f 12 2 = 0 → sv.paramErr = false → ctxExists s.dev (hCtx sv.hdr) = true → sv.f 8 1 = 4 → sv.f 10 2 = 0 → sv.f 24 4 ≤ 2 ^ 24 → mb < 12 → 2 ≤ hPriv sv.hdr → sv.params = some p → formeParams p (sv.f 24 4) (selfNode s.dev) = none → fieldAt p 0 2 = 0 → fieldAt p 2 2 = n → s.dev.formes.length < 256 → hasMajority s.dev = true → (List.range n).all (fun i => decide ((parseMember (slice p (64 + 16 * i) 16)).node ≠ selfNode s.dev) || lentOwned s.dev (hCtx sv.hdr) (parseMember (slice p (64 + 16 * i) 16))) = true → submit (waitCommit (latch s) mb sv.id 0 0) (.create (selfNode s.dev) ((List.range n).map (fun i => parseMember (slice p (64 + 16 * i) 16)))) = d → d.boot = s.dev.boot → d.errq.due = [] → d.tagWait = [] → d.tagHeld = [] → d.sw.seen = [] →
      exec (.objCreate mb) s = .next { s with dev := d }) ∧
    (∀ (s : State) (mb id : Nat) (sv : Service) (p : Bytes) (r : FormeRec) (m : Member) (d : Dev), (.objCreate mb : Instr).wellFormed = true → Serving s → (mbOf s.dev mb).svc = some sv → msgOf sv.req = 0x0100 → sv.busy = false → sv.aside = false → sv.reply = none → agentOff s.dev mb = false → sv.f 9 1 = 0 → sv.f 14 2 = 0 → sv.f 12 2 = 0 → sv.paramErr = false → ctxExists s.dev (hCtx sv.hdr) = true → sv.f 8 1 = 4 → sv.f 10 2 = 0 → sv.f 24 4 ≤ 2 ^ 24 → mb < 12 → 2 ≤ hPriv sv.hdr → sv.params = some p → formeParams p (sv.f 24 4) (selfNode s.dev) = none → fieldAt p 0 2 = id → 0 < id → s.dev.formes.length < 256 → hasMajority s.dev = true → s.dev.mbr.map.formes.find? (fun r => decide (r.id = id)) = some r → r.members.find? (fun x => decide (x.node = selfNode s.dev)) = some m → lentOwned s.dev (hCtx sv.hdr) m = true → submit (waitCommit (latch s) mb sv.id 1 id) (.attach (selfNode s.dev) id) = d → d.boot = s.dev.boot → d.errq.due = [] → d.tagWait = [] → d.tagHeld = [] → d.sw.seen = [] →
      exec (.objCreate mb) s = .next { s with dev := d })

/-- OBJ_MODIFY of a region by its owner's context gives it the new FLAGS and ACCESS, and of a context at privilege 3 without a reset, a galley or a release of held interrupts the new parameters; OBJ_QUERY of a range answers its 32-byte entry and changes nothing else; OBJ_DESTROY of a sequence slot that no command in flight names removes it, and of one that a command names is refused RESOURCE_REFUSED, 2. A handle of another type is HANDLE_FAULT, 3. -/
def Obligations.ObjectModifyQueryDestroy : Prop :=
    (∀ (s : State) (mb i : Nat) (sv : Service) (r : Region), (.objModify mb : Instr).wellFormed = true → Serving s → (mbOf s.dev mb).svc = some sv → msgOf sv.req = 0x0101 → sv.busy = false → sv.aside = false → sv.reply = none → agentOff s.dev mb = false → sv.f 9 1 = 0 → sv.f 14 2 = 0 → sv.f 12 2 = 0 → sv.paramErr = false → ctxExists s.dev (hCtx sv.hdr) = true → sv.f 8 1 = 9 → sv.f 10 2 = 0x9000 + i → i < 4096 → sv.f 24 4 = 0 → mb < 12 → hPriv sv.hdr = 3 → tget? s.dev.regions i = some r → r.owner = hCtx sv.hdr → regionParamsOk (slice sv.req 40 24) = true →
      ∃ t, exec (.objModify mb) s = .next t ∧ tget? t.dev.regions i = some { r with open_ := bitOf (fieldAt (slice sv.req 40 24) 0 2) 0, access := (List.range 8).map (fun k => fieldAt (slice sv.req 40 24) (4 + 2 * k) 2) } ∧ ((mbOf t.dev mb).svc.bind (·.reply)) = some (solpen sv.req 0 0 (objReply 9 i 0 [])) ∧ t = { s with dev := { latch s with mbx := t.dev.mbx, regions := t.dev.regions } }) ∧
    (∀ (s : State) (mb n : Nat) (sv : Service) (x : Ctx), (.objModify mb : Instr).wellFormed = true → Serving s → (mbOf s.dev mb).svc = some sv → msgOf sv.req = 0x0101 → sv.busy = false → sv.aside = false → sv.reply = none → agentOff s.dev mb = false → sv.f 9 1 = 0 → sv.f 14 2 = 0 → sv.f 12 2 = 0 → sv.paramErr = false → ctxExists s.dev (hCtx sv.hdr) = true → sv.f 8 1 = 1 → sv.f 10 2 = 0x1000 + n → n < 4096 → sv.f 24 4 = 0 → mb < 12 → hPriv sv.hdr = 3 → tget? s.dev.ctxs n = some x → ctxParamsOk (slice sv.req 40 24) = true → x.reset = none → x.irqHold = false → (List.range 8).all (fun g => !thas s.dev.galleys (gkey n g)) = true → vecOverlap s.dev n (x.with (slice sv.req 40 24)) = false →
      ∃ t, exec (.objModify mb) s = .next t ∧ tget? t.dev.ctxs n = some { x.with (slice sv.req 40 24) with old := if (x.with (slice sv.req 40 24)).qos = x.qos ∧ (x.with (slice sv.req 40 24)).quota = x.quota then x.old else x.old ++ [(mb, sv.id, x.qos, x.quota)] } ∧ ((mbOf t.dev mb).svc.bind (·.reply)) = some (solpen sv.req 0 0 (objReply 1 n 0 (ctxInline t.dev n))) ∧ t = { s with dev := { latch s with mbx := t.dev.mbx, ctxs := t.dev.ctxs } }) ∧
    (∀ (s : State) (mb i : Nat) (sv : Service) (r : Range), (.objQuery mb : Instr).wellFormed = true → Serving s → (mbOf s.dev mb).svc = some sv → msgOf sv.req = 0x0102 → sv.busy = false → sv.aside = false → sv.reply = none → agentOff s.dev mb = false → sv.f 9 1 = 0 → sv.f 14 2 = 0 → sv.f 12 2 = 0 → sv.paramErr = false → ctxExists s.dev (hCtx sv.hdr) = true → sv.f 8 1 = 2 → sv.f 10 2 = 0x2000 + i → i < 4096 → sv.f 28 4 = 0 → mb < 12 → hPriv sv.hdr = 3 → tget? (ctxOf s.dev (hCtx sv.hdr)).ranges i = some r → r.upto = none →
      exec (.objQuery mb) s = .next { s with dev := { latch s with mbx := tput s.dev.mbx mb { mbOf s.dev mb with svc := some { sv with busy := true, ended := true, reply := some (solpen sv.req 0 0 (objReply 2 i 0 (rangeBytes r))) } } } }) ∧
    (∀ (s : State) (mb i : Nat) (sv : Service) (x : Slot), (.objDestroy mb : Instr).wellFormed = true → Serving s → (mbOf s.dev mb).svc = some sv → msgOf sv.req = 0x0103 → sv.busy = false → sv.aside = false → sv.reply = none → agentOff s.dev mb = false → sv.f 9 1 = 0 → sv.f 14 2 = 0 → sv.f 12 2 = 0 → sv.paramErr = false → ctxExists s.dev (hCtx sv.hdr) = true → sv.f 8 1 = 5 → sv.f 10 2 = 0x5000 + i → i < 4096 → mb < 12 → hPriv sv.hdr = 3 → tget? s.dev.slots i = some x → x.ctx = hCtx sv.hdr → namedBy s.dev (hCtx sv.hdr) (0x5000 + i) = false →
      ∃ t, exec (.objDestroy mb) s = .next t ∧ t.dev.slots = tdel s.dev.slots i ∧ ((mbOf t.dev mb).svc.bind (·.reply)) = some (solpen sv.req 0 0 (objReply 5 i 0 [])) ∧ t = { s with dev := { latch s with mbx := t.dev.mbx, slots := t.dev.slots } }) ∧
    (∀ (s : State) (mb i : Nat) (sv : Service) (x : Slot), (.objDestroy mb : Instr).wellFormed = true → Serving s → (mbOf s.dev mb).svc = some sv → msgOf sv.req = 0x0103 → sv.busy = false → sv.aside = false → sv.reply = none → agentOff s.dev mb = false → sv.f 9 1 = 0 → sv.f 14 2 = 0 → sv.f 12 2 = 0 → sv.paramErr = false → ctxExists s.dev (hCtx sv.hdr) = true → sv.f 8 1 = 5 → sv.f 10 2 = 0x5000 + i → i < 4096 → mb < 12 → hPriv sv.hdr = 3 → tget? s.dev.slots i = some x → x.ctx = hCtx sv.hdr → namedBy s.dev (hCtx sv.hdr) (0x5000 + i) = true →
      exec (.objDestroy mb) s = .next { s with dev := { latch s with mbx := tput s.dev.mbx mb { mbOf s.dev mb with svc := some { sv with busy := true, ended := true, reply := some (solpen sv.req 0x40 2 ([])) } } } }) ∧
    (∀ (s : State) (mb : Nat) (sv : Service), (.objDestroy mb : Instr).wellFormed = true → Serving s → (mbOf s.dev mb).svc = some sv → msgOf sv.req = 0x0103 → sv.busy = false → sv.aside = false → sv.reply = none → agentOff s.dev mb = false → sv.f 9 1 = 0 → sv.f 14 2 = 0 → sv.f 12 2 = 0 → sv.paramErr = false → ctxExists s.dev (hCtx sv.hdr) = true → sv.f 8 1 = 5 → sv.f 10 2 / 4096 ≠ 5 → mb < 12 → hPriv sv.hdr = 3 →
      exec (.objDestroy mb) s = .next { s with dev := { latch s with mbx := tput s.dev.mbx mb { mbOf s.dev mb with svc := some { sv with busy := true, ended := true, reply := some (solpen sv.req 0x16 3 ([])) } } } })

/-- At privilege 3 the decoder of the named port takes the context and the run of unified addresses, or with context FFFFH loses its binding; the reply gives the binding it had, the requests that arrive before that reply is written still go by it, and what the host programmed stays. Nothing else changes. REGION_PUBLISH by a context that may publish, of a run whose pages it owns and nothing maps for writing, with BASE the current version, makes the next version current and gives its pages to the region; a BASE that is not current is answered VERSION_STALE with the current version and changes nothing. REGION_BIND of a version gives the context a read-only range over its run at the lowest free index; REGION_RELEASE marks that range RETIRING and a command fetched before keeps it. VERSION_RETIRE removes a version that is neither current nor bound and leaves every other; RANGE_RETIRE removes the RETIRING entries that no command in flight may use, but for those whose message has not yet been answered. -/
def Obligations.DecodersAndRegions : Prop :=
    (∀ (s : State) (mb p i c u n : Nat) (sv : Service), (.decoderBind mb : Instr).wellFormed = true → Serving s → (mbOf s.dev mb).svc = some sv → msgOf sv.req = 0x0104 → sv.busy = false → sv.aside = false → sv.reply = none → agentOff s.dev mb = false → sv.f 8 1 = p → sv.f 9 1 = i → sv.f 10 2 = c → sv.f 12 4 = 0 → sv.f 16 8 = u → sv.f 24 8 = n → sv.zeroFrom 32 = true → hPriv sv.hdr = 3 → mb < 12 → p < 12 → i < 16 → c < 512 → u % 65536 = 0 → n % 65536 = 0 → u + n ≤ 2 ^ 44 → ctxExists s.dev c = true →
      ∃ t, exec (.decoderBind mb) s = .next t ∧ decoderOf t.dev p i = { decoderOf s.dev p i with ctx := some c, uniBase := u, uniLen := n, old := (decoderOf s.dev p i).old ++ [(mb, sv.id, (decoderOf s.dev p i).ctx, (decoderOf s.dev p i).uniBase, (decoderOf s.dev p i).uniLen)] } ∧ ((mbOf t.dev mb).svc.bind (·.reply)) = some (solpen sv.req 0 0 (leBytes 2 ((decoderOf s.dev p i).ctx.getD 0xFFFF) ++ zeros 6 ++ leBytes 8 (decoderOf s.dev p i).uniBase ++ leBytes 8 (decoderOf s.dev p i).uniLen)) ∧ t = { s with dev := { latch s with mbx := t.dev.mbx, ports := t.dev.ports } }) ∧
    (∀ (s : State) (mb p i : Nat) (sv : Service), (.decoderBind mb : Instr).wellFormed = true → Serving s → (mbOf s.dev mb).svc = some sv → msgOf sv.req = 0x0104 → sv.busy = false → sv.aside = false → sv.reply = none → agentOff s.dev mb = false → sv.f 8 1 = p → sv.f 9 1 = i → sv.f 10 2 = 0xFFFF → sv.f 12 4 = 0 → sv.zeroFrom 32 = true → hPriv sv.hdr = 3 → mb < 12 → p < 12 → i < 16 →
      ∃ t, exec (.decoderBind mb) s = .next t ∧ decoderOf t.dev p i = { decoderOf s.dev p i with ctx := none, uniBase := 0, uniLen := 0, old := (decoderOf s.dev p i).old ++ [(mb, sv.id, (decoderOf s.dev p i).ctx, (decoderOf s.dev p i).uniBase, (decoderOf s.dev p i).uniLen)] } ∧ t = { s with dev := { latch s with mbx := t.dev.mbx, ports := t.dev.ports } }) ∧
    (∀ (s : State) (mb i u n : Nat) (sv : Service) (r : Region), (.regionPublish mb : Instr).wellFormed = true → Serving s → (mbOf s.dev mb).svc = some sv → msgOf sv.req = 0x0200 → sv.busy = false → sv.aside = false → sv.reply = none → agentOff s.dev mb = false → sv.f 8 2 = 0x9000 + i → i < 4096 → sv.f 10 2 = 0 → sv.f 12 4 = r.current → sv.f 16 8 = u → sv.f 24 8 = n → sv.zeroFrom 32 = true → hPriv sv.hdr = 3 → mb < 12 → u % 65536 = 0 → n % 65536 = 0 → 0 < n → u + n ≤ 2 ^ 44 → tget? s.dev.regions i = some r → r.mayPublish (hCtx sv.hdr) = true → ownsRun s.dev (hCtx sv.hdr) u n = true → writableRun s.dev u n = false → r.versions.length < 16 → r.current < 0xFFFFFFFF → tget? r.versions r.current = none →
      ∃ t, exec (.regionPublish mb) s = .next t ∧ (tget? t.dev.regions i).map (·.current) = some (r.current + 1) ∧ (tget? t.dev.regions i).bind (fun x => tget? x.versions (r.current + 1)) = some ⟨u, n, some (hCtx sv.hdr)⟩ ∧ (∀ p, u / 65536 ≤ p → p < (u + n) / 65536 → (pageOf t.dev p).region = true ∧ (pageOf t.dev p).owner = 0x9000 + i) ∧ t = { s with dev := { latch s with mbx := t.dev.mbx, regions := t.dev.regions, pages := t.dev.pages, plv := t.dev.plv } }) ∧
    (∀ (s : State) (mb i u n : Nat) (sv : Service) (r : Region), (.regionPublish mb : Instr).wellFormed = true → Serving s → (mbOf s.dev mb).svc = some sv → msgOf sv.req = 0x0200 → sv.busy = false → sv.aside = false → sv.reply = none → agentOff s.dev mb = false → sv.f 8 2 = 0x9000 + i → i < 4096 → sv.f 10 2 = 0 → sv.f 12 4 ≠ r.current → sv.f 16 8 = u → sv.f 24 8 = n → sv.zeroFrom 32 = true → hPriv sv.hdr = 3 → mb < 12 → u % 65536 = 0 → n % 65536 = 0 → 0 < n → u + n ≤ 2 ^ 44 → tget? s.dev.regions i = some r → r.mayPublish (hCtx sv.hdr) = true → ownsRun s.dev (hCtx sv.hdr) u n = true → writableRun s.dev u n = false →
      exec (.regionPublish mb) s = .next { s with dev := { latch s with mbx := tput s.dev.mbx mb { mbOf s.dev mb with svc := some { sv with busy := true, ended := true, reply := some (solpen sv.req 0x34 0 (leBytes 4 r.current ++ leBytes 4 r.versions.length)) } } } }) ∧
    (∀ (s : State) (mb i k v a : Nat) (sv : Service) (r : Region) (x : Version), (.regionBind mb : Instr).wellFormed = true → Serving s → (mbOf s.dev mb).svc = some sv → msgOf sv.req = 0x0201 → sv.busy = false → sv.aside = false → sv.reply = none → agentOff s.dev mb = false → sv.f 8 2 = 0x9000 + i → i < 4096 → sv.f 10 2 = 0 → sv.f 12 4 = v → 0 < v → sv.f 16 8 = a → sv.zeroFrom 24 = true → hPriv sv.hdr = 3 → mb < 12 → a % 4096 = 0 → 0 < x.len → ctxExists s.dev (hCtx sv.hdr) = true → tget? s.dev.regions i = some r → tget? r.versions v = some x → r.mayBind (hCtx sv.hdr) = true → bindings s.dev < 16384 → lowestFree (tkeys (ctxOf s.dev (hCtx sv.hdr)).ranges) 0 4096 = some k → ctxOverlap s.dev (hCtx sv.hdr) a x.len = false →
      ∃ t, exec (.regionBind mb) s = .next t ∧ tget? (ctxOf t.dev (hCtx sv.hdr)).ranges k = some ⟨a, x.len, x.start, true, false, false, false, some (i, v), 0, none, none, none, (ctxOf s.dev (hCtx sv.hdr)).made⟩ ∧ ((mbOf t.dev mb).svc.bind (·.reply)) = some (solpen sv.req 0 0 (leBytes 2 (0x2000 + k) ++ zeros 2 ++ leBytes 4 v ++ leBytes 8 x.len)) ∧ t = { s with dev := { latch s with mbx := t.dev.mbx, ctxs := t.dev.ctxs } }) ∧
    (∀ (s : State) (mb k i v : Nat) (sv : Service) (e : Range), (.regionRelease mb : Instr).wellFormed = true → Serving s → (mbOf s.dev mb).svc = some sv → msgOf sv.req = 0x0202 → sv.busy = false → sv.aside = false → sv.reply = none → agentOff s.dev mb = false → sv.f 8 2 = 0x2000 + k → k < 4096 → sv.zeroFrom 10 = true → hPriv sv.hdr = 3 → mb < 12 → tget? (ctxOf s.dev (hCtx sv.hdr)).ranges k = some e → e.upto = none → e.region = some (i, v) → s.dev.cmds.any (fun c => c.2.ctx == hCtx sv.hdr && c.2.phase != 3 && decide (c.2.gen ≤ (ctxOf s.dev (hCtx sv.hdr)).gen)) = true →
      ∃ t, exec (.regionRelease mb) s = .next t ∧ ((tget? (ctxOf t.dev (hCtx sv.hdr)).ranges k).map (·.upto)) = some (some ((ctxOf s.dev (hCtx sv.hdr)).gen + 1)) ∧ t.dev.regions = s.dev.regions ∧ t.clk = s.clk) ∧
    (∀ (s : State) (i v : Nat) (r : Region) (x : Version), (.versionRetire i v : Instr).wellFormed = true → Serving s → tget? s.dev.regions i = some r → tget? r.versions v = some x → retainedVersion s.dev i v = false →
      ∃ t, exec (.versionRetire i v) s = .next t ∧ tget? t.dev.regions i = some { r with versions := tdel r.versions v } ∧ (∀ j, j ≠ i → tget? t.dev.regions j = tget? s.dev.regions j) ∧ t.dev.ctxs = s.dev.ctxs ∧ t.dev.cmds = s.dev.cmds ∧ t.clk = s.clk) ∧
    (∀ (s : State) (i v : Nat), (.versionRetire i v : Instr).wellFormed = true → Serving s → retainedVersion s.dev i v = true →
      exec (.versionRetire i v) s = .next { s with dev := latch s }) ∧
    (∀ (s : State) (c : Nat), (.rangeRetire c : Instr).wellFormed = true → Serving s → s.dev.cmds.all (fun k => k.2.ctx != c || k.2.phase == 3) = true →
      ∃ t, exec (.rangeRetire c) s = .next t ∧ (ctxOf t.dev c).ranges = (ctxOf s.dev c).ranges.filter (fun e => e.2.upto.isNone || e.2.uptoBy.isSome) ∧ (ctxOf t.dev c).oldRanges = (ctxOf s.dev c).oldRanges.filter (fun e => e.2.upto.isNone || e.2.uptoBy.isSome) ∧ t.dev.mem = s.dev.mem ∧ t.dev.regions = s.dev.regions ∧ t.dev.cmds = s.dev.cmds ∧ t.clk = s.clk)

/-- CONTEXT_RESET of an existing context puts its galleys into RESETTING with CMD_TAIL set to CMD_HEAD, so that entries not fetched are discarded, notes the commands that are running, and the message waits; the end of the drain time is noted, counted, and ends a command that still runs with ABORTED_RESET; once nothing of the context is left to wait for and its galleys hold no proofs, the reset ends: RESETS advances, interrupts of the context are held, and the message is answered OK. -/
def Obligations.ContextReset : Prop :=
    (∀ (s : State) (mb c : Nat) (sv : Service), (.contextReset mb : Instr).wellFormed = true → Serving s → (mbOf s.dev mb).svc = some sv → msgOf sv.req = 0x0300 → sv.busy = false → sv.aside = false → sv.reply = none → agentOff s.dev mb = false → sv.f 8 2 = c → sv.f 10 2 = 0 → sv.f 12 4 ≤ 1000000 → sv.zeroFrom 16 = true → hPriv sv.hdr = 3 → mb < 12 → c < 512 → ctxExists s.dev c = true → s.dev.cmds.all (fun k => k.2.ctx != c || !k.2.waiting) = true →
      ∃ t, exec (.contextReset mb) s = .next t ∧ ((ctxOf t.dev c).reset.map (fun j => [j.mbx, j.svc, j.started, j.drainUs, j.aborted])) = some [mb, sv.id, s.clk.time, (if sv.f 12 4 = 0 then 10000 else sv.f 12 4), 0] ∧ ((ctxOf t.dev c).reset.map (·.running)) = some ((s.dev.cmds.filter (fun k => k.2.ctx = c && (k.2.phase = 2 || (k.2.phase = 4 && k.2.status ≠ 0x50)))).map (·.2.order)) ∧ (List.range 8).all (fun g => !thas s.dev.galleys (gkey c g) || ((galleyOf t.dev c g).state == 4 && (galleyOf t.dev c g).cmdTail == (galleyOf s.dev c g).cmdHead)) = true ∧ ((mbOf t.dev mb).svc.map (fun x => (x.busy, x.reply))) = some (true, none) ∧ t = { s with dev := { latch s with mbx := t.dev.mbx, ctxs := t.dev.ctxs, galleys := t.dev.galleys } }) ∧
    (∀ (s : State) (c : Nat) (j : ResetJob), (.resetDrainExpire c : Instr).wellFormed = true → Serving s → (ctxOf s.dev c).reset = some j → j.expired = false → j.cleared = false → stillRunning s.dev c j = [] →
      ∃ t, exec (.resetDrainExpire c) s = .next t ∧ (ctxOf t.dev c).reset = some { j with expired := true, drained := j.running.length - j.lost } ∧ t.dev.tel = tput s.dev.tel 0x403A10 ((tget s.dev.tel 0x403A10 0 + 1) % 2 ^ 64) ∧ t.dev.cmds = s.dev.cmds ∧ t.dev.galleys = s.dev.galleys ∧ t.dev.mem = s.dev.mem ∧ t.clk = s.clk) ∧
    (∀ (s : State) (c tag : Nat) (j : ResetJob) (k : Cmd), (.resetDrainExpire c : Instr).wellFormed = true → Serving s → (ctxOf s.dev c).reset = some j → j.expired = false → j.cleared = false → stillRunning s.dev c j = [tag] → cmdOf s.dev tag = some k → k.opcode ≠ 0x28 → k.opcode ≠ 0x30 → k.phase = 2 → k.status = 0 → s.dev.arbs = [] →
      ∃ t, exec (.resetDrainExpire c) s = .next t ∧ ((ctxOf t.dev c).reset.map (fun x => [x.aborted, x.drained])) = some [j.aborted + 1, j.running.length - 1 - j.lost] ∧ ((ctxOf t.dev c).reset.map (·.expired)) = some true ∧ (cmdOf t.dev tag).map (·.status) = some 0x50 ∧ t.dev.mem = s.dev.mem ∧ t.clk = s.clk) ∧
    (∀ (s : State) (c : Nat) (j : ResetJob) (sv : Service), (.resetPurge c : Instr).wellFormed = true → Serving s → (ctxOf s.dev c).reset = some j → ctxExists s.dev c = true → j.cleared = false → resetReady s.dev c = true → (ctxGalleys s.dev c).all (fun g => (galleyOf s.dev c g).done.isEmpty) = true → (mbOf s.dev j.mbx).svc = some sv → sv.id = j.svc → sv.reply = none →
      ∃ t, exec (.resetPurge c) s = .next t ∧ (ctxOf t.dev c).reset = none ∧ (ctxOf t.dev c).resets = ((ctxOf s.dev c).resets + 1) % 2 ^ 32 ∧ (ctxOf t.dev c).irqHold = true ∧ (ctxGalleys s.dev c).all (fun g => (galleyOf t.dev c g).state == 0) = true ∧ ((mbOf t.dev j.mbx).svc.map (fun x => x.reply.map (fun r => fieldAt r 4 2))) = some (some 0) ∧ t.clk = s.clk)

/-- ORPHAN_LOG_READ at privilege 3 without a result block answers how many orphans there are and the cursor, and changes nothing else. RECLAIM with action 0 of a span that holds one orphan line, whose memory can be read, ends that orphan and reports one line; a span without an orphan changes nothing and reports every line as not orphaned. -/
def Obligations.Orphans : Prop :=
    (∀ (s : State) (mb cur : Nat) (sv : Service), (.orphanLogRead mb : Instr).wellFormed = true → Serving s → (mbOf s.dev mb).svc = some sv → msgOf sv.req = 0x0302 → sv.busy = false → sv.aside = false → sv.reply = none → agentOff s.dev mb = false → sv.f 8 8 = cur → cur % 64 = 0 → sv.f 24 4 = 0 → sv.f 28 4 = 0 → sv.zeroFrom 32 = true → hPriv sv.hdr = 3 → mb < 12 →
      exec (.orphanLogRead mb) s = .next { s with dev := { latch s with mbx := tput s.dev.mbx mb { mbOf s.dev mb with svc := some { sv with busy := true, ended := true, reply := some (solpen sv.req 0 0 (leBytes 4 0 ++ leBytes 4 s.dev.orphans.length ++ leBytes 8 (if (s.dev.orphans.filter (fun o => decide (cur ≤ o.1 * 64))).length = 0 then 2 ^ 64 - 1 else cur))) } } } }) ∧
    (∀ (s : State) (mb a n : Nat) (sv : Service), (.reclaim mb : Instr).wellFormed = true → Serving s → (mbOf s.dev mb).svc = some sv → msgOf sv.req = 0x0301 → sv.busy = false → sv.aside = false → sv.reply = none → agentOff s.dev mb = false → sv.f 8 8 = a → sv.f 16 4 = n → sv.f 20 1 ≤ 1 → sv.f 21 1 = 0 → sv.zeroFrom 23 = true → hPriv sv.hdr = 3 → mb < 12 → a % 64 = 0 → 0 < n → n ≤ 1048576 → a + 64 * n ≤ 2 ^ 44 → s.dev.orphans.all (fun o => decide (o.1 < a / 64) || decide (a / 64 + n ≤ o.1)) = true →
      exec (.reclaim mb) s = .next { s with dev := { latch s with mbx := tput s.dev.mbx mb { mbOf s.dev mb with svc := some { sv with busy := true, ended := true, reply := some (solpen sv.req 0 0 (leBytes 4 0 ++ leBytes 4 n ++ leBytes 4 0 ++ [0])) } } } }) ∧
    (∀ (s : State) (mb l : Nat) (o : Orphan) (b : Bytes) (sv : Service), (.reclaim mb : Instr).wellFormed = true → Serving s → (mbOf s.dev mb).svc = some sv → msgOf sv.req = 0x0301 → sv.busy = false → sv.aside = false → sv.reply = none → agentOff s.dev mb = false → sv.f 8 8 = 64 * l → sv.f 16 4 = 1 → sv.f 20 1 = 0 → sv.f 21 1 = 0 → sv.zeroFrom 23 = true → hPriv sv.hdr = 3 → mb < 12 → l < 2 ^ 38 → s.dev.orphans = [(l, o)] → floeOn s.dev (homeFloe (pageOfLine l)) = true → tget s.dev.sliceFlips l 0 = 0 → (tget? s.dev.cache l).map (·.data) = some b →
      ∃ t, exec (.reclaim mb) s = .next t ∧ t.dev.orphans = [] ∧ dirOf t.dev l = ⟨0, 0, 0xFF, (dirOf s.dev l).txn⟩ ∧ (tget? t.dev.cache l).map (·.data) = some b ∧ ((mbOf t.dev mb).svc.bind (·.reply)) = some (solpen sv.req 0 0 (leBytes 4 1 ++ leBytes 4 0 ++ leBytes 4 0 ++ [0])) ∧ t.dev.mem = s.dev.mem ∧ t.clk = s.clk)

/-- A manager accepts a proposal of an epoch above every one it has accepted and above its map's, and only records it; at the coordinator an acceptance is counted once for each manager, and the one that makes a majority commits the proposal; COMMIT of the accepted epoch and MAP_UPDATE of a higher epoch adopt the map (with no request held for a newer epoch), and a map of no higher epoch changes nothing. The next manager in line commits the highest proposal it and those it asked have accepted. -/
def Obligations.MapAgreement : Prop :=
    (∀ (s : State) (p : Proposal), (.propose p : Instr).wellFormed = true → Serving s → mirrorsOn s.dev = false → isManager s.dev = true → epochOf s.dev < p.epoch → (s.dev.mbr.accepted.all (fun q => decide (q.epoch < p.epoch))) = true →
      ∃ t, exec (.propose p) s = .next t ∧ t.dev.mbr = { s.dev.mbr with accepted := some p } ∧ t = { s with dev := { latch s with mbr := t.dev.mbr, links := t.dev.links, out := t.dev.out, tel := t.dev.tel } }) ∧
    (∀ (s : State) (n e : Nat) (p : Proposal), (.accept n e : Instr).wellFormed = true → Serving s → s.dev.mbr.proposing = some p → p.epoch = e → (managersOf s.dev.mbr.map).contains n = true → s.dev.mbr.accepts.contains n = false → s.dev.mbr.accepts.length + 1 < majorityOf s.dev.mbr.map →
      exec (.accept n e) s = .next { s with dev := { latch s with mbr := { s.dev.mbr with accepts := s.dev.mbr.accepts ++ [n] } } }) ∧
    (∀ (s : State) (n e : Nat) (p : Proposal), (.accept n e : Instr).wellFormed = true → Serving s → mirrorsOn s.dev = false → s.dev.mbr.proposing = some p → p.epoch = e → p.map.epoch = e → epochOf s.dev < e → (managersOf s.dev.mbr.map).contains n = true → s.dev.mbr.accepts.contains n = false → majorityOf s.dev.mbr.map ≤ s.dev.mbr.accepts.length + 1 → s.dev.mbr.pulls = [] → s.dev.mbr.waiting = [] →
      ∃ t, exec (.accept n e) s = .next t ∧ t.dev.mbr.map = p.map ∧ t.dev.mbr.proposing = none ∧ t.dev.mbr.accepts = [] ∧ t.dev.mbr.adopted = s.clk.time ∧ t.dev.mem = s.dev.mem ∧ t.dev.cmds = s.dev.cmds ∧ t.clk = s.clk) ∧
    (∀ (s : State) (e : Nat) (p : Proposal), (.commit e : Instr).wellFormed = true → Serving s → mirrorsOn s.dev = false → s.dev.mbr.accepted = some p → p.epoch = e → epochOf s.dev < p.map.epoch → s.dev.mbr.pulls = [] →
      ∃ t, exec (.commit e) s = .next t ∧ t.dev.mbr.map = p.map ∧ t.dev.mbr.prev = s.dev.mbr.map ∧ t.dev.mbr.adopted = s.clk.time ∧ t.dev.mem = s.dev.mem ∧ t.dev.cmds = s.dev.cmds ∧ t.clk = s.clk) ∧
    (∀ (s : State) (m : DomainMap), (.mapUpdate m : Instr).wellFormed = true → Serving s → mirrorsOn s.dev = false → epochOf s.dev < m.epoch → s.dev.mbr.pulls = [] →
      ∃ t, exec (.mapUpdate m) s = .next t ∧ t.dev.mbr.map = m ∧ t.dev.mbr.prev = s.dev.mbr.map ∧ t.dev.mbr.joined = decide ((nodeOf m (selfNode s.dev)).state = 1) ∧ t.dev.boot.fenced = (s.dev.boot.fenced || decide ((nodeOf m (selfNode s.dev)).state = 2)) ∧ t.dev.mem = s.dev.mem ∧ t.dev.cmds = s.dev.cmds ∧ t.clk = s.clk) ∧
    (∀ (s : State) (m : DomainMap), (.mapUpdate m : Instr).wellFormed = true → Serving s → m.epoch ≤ epochOf s.dev →
      exec (.mapUpdate m) s = .next { s with dev := latch s }) ∧
    (∀ (s : State) (p : Proposal), (.coordinatorTakeover [p] : Instr).wellFormed = true → Serving s → mirrorsOn s.dev = false → isManager s.dev = true → isCoord s.dev = true → majorityOf s.dev.mbr.map ≤ 2 → s.dev.mbr.accepted = none → epochOf s.dev < p.epoch → p.map.epoch = p.epoch → s.dev.mbr.pulls = [] → s.dev.mbr.waiting = [] →
      ∃ t, exec (.coordinatorTakeover [p]) s = .next t ∧ t.dev.mbr.map = p.map ∧ t.dev.mbr.accepted = some p ∧ t.dev.mbr.proposing = none ∧ t.dev.mem = s.dev.mem ∧ t.dev.cmds = s.dev.cmds ∧ t.clk = s.clk)

/-- At a coordinator whose majority is itself, with no change under way: a JOIN that it can commit makes the node JOINED with its key at the next epoch, and a link change puts the peer and state of that link into the node's entry; where more managers are needed, the end of a probe without an answer makes the expulsion the proposal under way, at the next epoch, accepted by the coordinator itself. -/
def Obligations.JoinAndLinkChanges : Prop :=
    (∀ (s : State) (n k : Nat), (.join n k : Instr).wellFormed = true → Serving s → mirrorsOn s.dev = false → isCoord s.dev = true → hasMajority s.dev = true → majorityOf s.dev.mbr.map ≤ 1 → s.dev.mbr.proposing = none → s.dev.mbr.waiting = [] → s.dev.mbr.pulls = [] → (nodeOf s.dev.mbr.map n).state ≠ 1 →
      ∃ t, exec (.join n k) s = .next t ∧ (nodeOf t.dev.mbr.map n).state = 1 ∧ (nodeOf t.dev.mbr.map n).keyId = k ∧ epochOf t.dev = epochOf s.dev + 1 ∧ t.dev.mem = s.dev.mem ∧ t.clk = s.clk) ∧
    (∀ (s : State) (n l peer : Nat) (up : Bool), (.linkChangeReport n l up peer : Instr).wellFormed = true → Serving s → mirrorsOn s.dev = false → isCoord s.dev = true → majorityOf s.dev.mbr.map ≤ 1 → s.dev.mbr.proposing = none → s.dev.mbr.waiting = [] → s.dev.mbr.pulls = [] → (nodeOf s.dev.mbr.map n).state = 1 → (nodeOf s.dev.mbr.map n).ups.getD l false ≠ up →
      ∃ t, exec (.linkChangeReport n l up peer) s = .next t ∧ (nodeOf t.dev.mbr.map n).ups.getD l false = up ∧ (nodeOf t.dev.mbr.map n).peers.getD l 0 = peer ∧ epochOf t.dev = epochOf s.dev + 1 ∧ t.dev.mem = s.dev.mem ∧ t.clk = s.clk) ∧
    (∀ (s : State) (n : Nat), (.probeTimeout n : Instr).wellFormed = true → Serving s → mirrorsOn s.dev = false → s.dev.mbr.probing.contains n = true → isCoord s.dev = true → 1 < majorityOf s.dev.mbr.map → s.dev.mbr.proposing = none → s.dev.mbr.waiting = [] → (nodeOf s.dev.mbr.map n).state = 1 →
      ∃ t, exec (.probeTimeout n) s = .next t ∧ t.dev.mbr.proposing.map (fun p => (p.epoch, (nodeOf p.map n).state)) = some (epochOf s.dev + 1, 2) ∧ t.dev.mbr.accepts = [selfNode s.dev] ∧ t.dev.mbr.probing = s.dev.mbr.probing.filter (· ≠ n) ∧ t.dev.mbr.map = s.dev.mbr.map ∧ t = { s with dev := { latch s with mbr := t.dev.mbr, links := t.dev.links, out := t.dev.out, tel := t.dev.tel } })

/-- HEARTBEAT_SEND sends one flit on an ACTIVE link with credit; a heartbeat clears the link's misses and suspicion; sixteen misses make it suspected and are counted; SUSPECT at the coordinator puts a JOINED node under PROBE, whose reply ends it; a probe is answered toward its sender; the coordinator's KEEPALIVE and a keepalive received renew the lease; a lease that expires fences a joined device. -/
def Obligations.HeartbeatsAndLease : Prop :=
    (∀ (s : State) (l : Nat), (.heartbeatSend : Instr).wellFormed = true → Serving s → mirrorsOn s.dev = false → l < 8 → (List.range 8).filter (linkActive s.dev) = [l] → (linkOf s.dev l).txq = [] → 0 < tget (linkOf s.dev l).credit 3 0 → (linkOf s.dev l).replay.length < 1024 →
      ∃ t, exec (.heartbeatSend) s = .next t ∧ t.dev.out.length = s.dev.out.length + 1 ∧ (linkOf t.dev l).txSeq = ((linkOf s.dev l).txSeq + 1) % 4096 ∧ (linkOf t.dev l).replay.length = (linkOf s.dev l).replay.length + 1 ∧ (linkOf t.dev l).txq = [] ∧ t.dev.mbr = s.dev.mbr ∧ t.dev.mem = s.dev.mem ∧ t.clk = s.clk) ∧
    (∀ (s : State) (l : Nat), (.heartbeat l : Instr).wellFormed = true → Serving s → linkActive s.dev l = true →
      exec (.heartbeat l) s = .next { s with dev := { latch s with links := tput s.dev.links l { linkOf s.dev l with suspected := false, misses := 0 } } }) ∧
    (∀ (s : State) (l : Nat), (.heartbeatMiss l : Instr).wellFormed = true → Serving s → mirrorsOn s.dev = false → linkActive s.dev l = true → (linkOf s.dev l).suspected = false → (List.range 8).all (fun k => !twinLink s.dev k) = true →
      ∃ t, exec (.heartbeatMiss l) s = .next t ∧ (linkOf t.dev l).suspected = true ∧ (linkOf t.dev l).misses = 16 ∧ tget t.dev.tel 0x403B08 0 = (tget s.dev.tel 0x403B08 0 + 1) % 2 ^ 64 ∧ t.dev.mem = s.dev.mem ∧ t.dev.cmds = s.dev.cmds ∧ t.clk = s.clk) ∧
    (∀ (s : State) (n : Nat), (.suspect n : Instr).wellFormed = true → Serving s → mirrorsOn s.dev = false → isCoord s.dev = true → (nodeOf s.dev.mbr.map n).state = 1 → n ≠ selfNode s.dev →
      ∃ t, exec (.suspect n) s = .next t ∧ t.dev.mbr.probing.contains n = true ∧ (∀ k, k ≠ n → t.dev.mbr.probing.contains k = s.dev.mbr.probing.contains k) ∧ t = { s with dev := { latch s with mbr := t.dev.mbr, links := t.dev.links, out := t.dev.out, tel := t.dev.tel } }) ∧
    (∀ (s : State) (n l : Nat), (.probe n : Instr).wellFormed = true → Serving s → mirrorsOn s.dev = false → routeLink s.dev n = some l → (linkOf s.dev l).txq = [] → 0 < tget (linkOf s.dev l).credit 3 0 → (linkOf s.dev l).replay.length < 1024 → n < 1024 → selfNode s.dev < 1024 →
      ∃ t, exec (.probe n) s = .next t ∧ t.dev.out.length = s.dev.out.length + 1 ∧ (linkOf t.dev l).txSeq = ((linkOf s.dev l).txSeq + 1) % 4096 ∧ t.dev.mbr = s.dev.mbr ∧ t.dev.mem = s.dev.mem ∧ t.clk = s.clk) ∧
    (∀ (s : State) (n : Nat), (.probeReply n : Instr).wellFormed = true → Serving s →
      exec (.probeReply n) s = .next { s with dev := { latch s with mbr := { s.dev.mbr with probing := s.dev.mbr.probing.filter (· ≠ n) } } }) ∧
    (∀ (s : State), (.keepaliveSend : Instr).wellFormed = true → Serving s → mirrorsOn s.dev = false → isCoord s.dev = true →
      ∃ t, exec (.keepaliveSend) s = .next t ∧ t.dev.mbr = { s.dev.mbr with leaseAt := s.clk.time, majority := hasMajority s.dev } ∧ t = { s with dev := { latch s with mbr := t.dev.mbr, links := t.dev.links, out := t.dev.out, tel := t.dev.tel } }) ∧
    (∀ (s : State) (e : Nat), (.keepalive e : Instr).wellFormed = true → Serving s → mirrorsOn s.dev = false →
      ∃ t, exec (.keepalive e) s = .next t ∧ t.dev.mbr = { s.dev.mbr with leaseAt := s.clk.time } ∧ t = { s with dev := { latch s with mbr := t.dev.mbr, links := t.dev.links, out := t.dev.out, tel := t.dev.tel } }) ∧
    (∀ (s : State), (.leaseExpire : Instr).wellFormed = true → Serving s → mirrorsOn s.dev = false → s.dev.mbr.joined = true →
      ∃ t, exec (.leaseExpire) s = .next t ∧ t.dev.boot = { s.dev.boot with fenced := true } ∧ t = { s with dev := { latch s with boot := t.dev.boot, mbx := t.dev.mbx, ports := t.dev.ports, tel := t.dev.tel, out := t.dev.out } })

/-- FORME_CHANGE that passes its checks at a device that is not the coordinator waits for the commit with its message under way; one whose base epoch is not the forme's is answered FORME_STALE with the forme's epoch and changes nothing. MAP_READ into a buffer that is too small is answered RANGE_LENGTH, 4 with the epoch and the length; into one that holds the map, the reply waits for the write of the map to the host. -/
def Obligations.FormesAndMapRead : Prop :=
    (∀ (s : State) (mb : Nat) (sv : Service) (f : Forme), (.formeChange mb : Instr).wellFormed = true → Serving s → mirrorsOn s.dev = false → (mbOf s.dev mb).svc = some sv → msgOf sv.req = 0x0400 → sv.busy = false → sv.aside = false → sv.reply = none → agentOff s.dev mb = false → mb < 12 → formeChangeFault s.dev sv = none → tget? s.dev.formes (sv.f 8 2 % 4096) = some f → isCoord s.dev = false →
      ∃ t, exec (.formeChange mb) s = .next t ∧ t.dev.mbr = { s.dev.mbr with waiters := s.dev.mbr.waiters ++ [(mb, sv.id, 3, f.id)] } ∧ t.dev.mbx = tput s.dev.mbx mb { mbOf s.dev mb with svc := some { sv with busy := true } } ∧ t = { s with dev := { latch s with mbx := t.dev.mbx, mbr := t.dev.mbr, links := t.dev.links, out := t.dev.out, tel := t.dev.tel } }) ∧
    (∀ (s : State) (mb : Nat) (sv : Service) (f : Forme) (r : FormeRec), (.formeChange mb : Instr).wellFormed = true → Serving s → (mbOf s.dev mb).svc = some sv → msgOf sv.req = 0x0400 → sv.busy = false → sv.aside = false → sv.reply = none → agentOff s.dev mb = false → mb < 12 → sv.f 10 1 = 1 → sv.f 11 1 < 2 → sv.zeroFrom 34 = true → 2 ≤ hPriv sv.hdr → sv.f 8 2 / 4096 = 4 → tget? s.dev.formes (sv.f 8 2 % 4096) = some f → f.ctx = hCtx sv.hdr → s.dev.mbr.map.formes.find? (fun q => q.id = f.id) = some r → sv.f 12 4 ≠ r.epoch →
      exec (.formeChange mb) s = .next { s with dev := { latch s with mbx := tput s.dev.mbx mb { mbOf s.dev mb with svc := some { sv with busy := true, ended := true, reply := some (solpen sv.req 0x34 0 (leBytes 4 r.epoch)) } } } }) ∧
    (∀ (s : State) (mb : Nat) (sv : Service), (.mapRead mb : Instr).wellFormed = true → Serving s → (mbOf s.dev mb).svc = some sv → msgOf sv.req = 0x0401 → sv.busy = false → sv.aside = false → sv.reply = none → agentOff s.dev mb = false → mb < 12 → sv.zeroFrom 20 = true → sv.f 16 4 < (mapBytes s.dev.mbr.map).length →
      exec (.mapRead mb) s = .next { s with dev := { latch s with mbx := tput s.dev.mbx mb { mbOf s.dev mb with svc := some { sv with busy := true, ended := true, reply := some (solpen sv.req 0x15 4 (leBytes 4 (epochOf s.dev) ++ leBytes 4 (mapBytes s.dev.mbr.map).length)) } } } }) ∧
    (∀ (s : State) (mb : Nat) (sv : Service), (.mapRead mb : Instr).wellFormed = true → Serving s → mirrorsOn s.dev = false → (mbOf s.dev mb).svc = some sv → msgOf sv.req = 0x0401 → sv.busy = false → sv.aside = false → sv.reply = none → agentOff s.dev mb = false → mb < 12 → sv.zeroFrom 20 = true → (mapBytes s.dev.mbr.map).length ≤ sv.f 16 4 → linkUp (portOf s.dev (hPort sv.hdr)) = true →
      ∃ t, exec (.mapRead mb) s = .next t ∧ ((mbOf t.dev mb).svc.map (fun x => (x.busy, x.reply, x.held))) = some (true, none, some (solpen sv.req 0 0 (leBytes 4 (epochOf s.dev) ++ leBytes 4 (mapBytes s.dev.mbr.map).length))) ∧ t.dev.mbr = s.dev.mbr ∧ t.dev.mem = s.dev.mem ∧ t.dev.cmds = s.dev.cmds ∧ t.clk = s.clk)

/-- GIVE of an OWNED slot makes it OFFERED to the named peer at the next epoch and its reply waits; in another state it is answered STATE with the slot's state. ARM of a fresh or RELEASED slot makes it VACANT with its epoch as the floor. RESOLVE of an OFFERED slot without REINSTATE only reports it. A GIVE whose resolution does not come in time is answered TIMEOUT while the handoff goes on. -/
def Obligations.SequenceHandoff : Prop :=
    (∀ (s : State) (mb n : Nat) (sv : Service) (x : Slot), (.seqHandoffGive mb : Instr).wellFormed = true → Serving s → mirrorsOn s.dev = false → (mbOf s.dev mb).svc = some sv → msgOf sv.req = 0x0402 → sv.busy = false → sv.aside = false → sv.reply = none → agentOff s.dev mb = false → sv.f 8 2 = 0x5000 + n → n < 4096 → sv.f 11 1 = 0 → sv.zeroFrom 16 = true → hPriv sv.hdr = 3 → mb < 12 → tget? s.dev.slots n = some x → x.ctx = hCtx sv.hdr → sv.f 10 1 = 0 → sv.f 12 2 < 1024 → sv.f 14 2 < 4096 → x.state = 0 →
      ∃ t, exec (.seqHandoffGive mb) s = .next t ∧ tget? t.dev.slots n = some { x with state := 1, offer := (x.epoch + 1) % 2 ^ 32, peerNode := sv.f 12 2, peerSlot := sv.f 14 2, give := some (mb, sv.id) } ∧ (mbOf t.dev mb).svc = some { sv with busy := true } ∧ t = { s with dev := { latch s with slots := t.dev.slots, mbx := t.dev.mbx, ports := t.dev.ports, tel := t.dev.tel, out := t.dev.out, links := t.dev.links } }) ∧
    (∀ (s : State) (mb n : Nat) (sv : Service) (x : Slot), (.seqHandoffGive mb : Instr).wellFormed = true → Serving s → (mbOf s.dev mb).svc = some sv → msgOf sv.req = 0x0402 → sv.busy = false → sv.aside = false → sv.reply = none → agentOff s.dev mb = false → sv.f 8 2 = 0x5000 + n → n < 4096 → sv.f 11 1 = 0 → sv.zeroFrom 16 = true → hPriv sv.hdr = 3 → mb < 12 → tget? s.dev.slots n = some x → x.ctx = hCtx sv.hdr → sv.f 10 1 = 0 → sv.f 12 2 < 1024 → sv.f 14 2 < 4096 → x.state ≠ 0 →
      exec (.seqHandoffGive mb) s = .next { s with dev := { latch s with mbx := tput s.dev.mbx mb { mbOf s.dev mb with svc := some { sv with busy := true, ended := true, reply := some (solpen sv.req 0x41 0 (handoffReply x)) } } } }) ∧
    (∀ (s : State) (mb n : Nat) (sv : Service) (x : Slot), (.seqHandoffArm mb : Instr).wellFormed = true → Serving s → mirrorsOn s.dev = false → (mbOf s.dev mb).svc = some sv → msgOf sv.req = 0x0402 → sv.busy = false → sv.aside = false → sv.reply = none → agentOff s.dev mb = false → sv.f 8 2 = 0x5000 + n → n < 4096 → sv.f 11 1 = 0 → sv.zeroFrom 16 = true → hPriv sv.hdr = 3 → mb < 12 → tget? s.dev.slots n = some x → x.ctx = hCtx sv.hdr → sv.f 10 1 = 1 → x.state = 4 ∨ (x.state = 0 ∧ x.epoch = 0 ∧ x.attended = false) →
      ∃ t, exec (.seqHandoffArm mb) s = .next t ∧ tget? t.dev.slots n = some { x with state := 2, floor := x.epoch } ∧ ((mbOf t.dev mb).svc.bind (·.reply)) = some (solpen sv.req 0 0 (handoffReply { x with state := 2, floor := x.epoch })) ∧ t = { s with dev := { latch s with mbx := t.dev.mbx, slots := t.dev.slots } }) ∧
    (∀ (s : State) (mb n : Nat) (sv : Service) (x : Slot), (.seqHandoffResolve mb : Instr).wellFormed = true → Serving s → (mbOf s.dev mb).svc = some sv → msgOf sv.req = 0x0402 → sv.busy = false → sv.aside = false → sv.reply = none → agentOff s.dev mb = false → sv.f 8 2 = 0x5000 + n → n < 4096 → sv.f 11 1 = 0 → sv.zeroFrom 16 = true → hPriv sv.hdr = 3 → mb < 12 → tget? s.dev.slots n = some x → x.ctx = hCtx sv.hdr → sv.f 10 1 = 2 → x.state = 1 →
      exec (.seqHandoffResolve mb) s = .next { s with dev := { latch s with mbx := tput s.dev.mbx mb { mbOf s.dev mb with svc := some { sv with busy := true, ended := true, reply := some (solpen sv.req 0 0 (handoffReply x)) } } } }) ∧
    (∀ (s : State) (n mb : Nat) (sv : Service) (x : Slot), (.giveReplyTimeout n : Instr).wellFormed = true → Serving s → tget? s.dev.slots n = some x → x.give = some (mb, sv.id) → (mbOf s.dev mb).svc = some sv → sv.reply = none →
      exec (.giveReplyTimeout n) s = .next { s with dev := { latch s with slots := tput s.dev.slots n { x with give := none }, mbx := tput s.dev.mbx mb { mbOf s.dev mb with svc := some { sv with busy := true, ended := true, reply := some (solpen sv.req 0x35 0 (handoffReply { x with give := none })) } } } })

/-- OFFER to a VACANT slot of the same sequence and shape above its floor makes it ACCEPTING at the offered epoch, and any other OFFER changes no slot. ACK of the offered epoch RELEASES an OFFERED donor; NAK returns it to OWNED; CONFIRM of the accepted epoch makes the recipient OWNED at that epoch; QUERY of an OFFERED donor releases it; the answer to a query settles the side that asked; FLOOR raises the recipient's floor; at a timeout an OFFERED slot asks its peer and keeps its state, and where the peer is EXPELLED it is OWNED again two epochs on. -/
def Obligations.HandoffFrames : Prop :=
    (∀ (s : State) (node n : Nat) (m : HandoffMsg) (x : Slot), (.offer node m : Instr).wellFormed = true → Serving s → mirrorsOn s.dev = false → m.recipient = n → tget? s.dev.slots n = some x → x.state = 2 → x.floor < m.epoch → x.seqId = m.seqId → x.shape = m.shape →
      ∃ t, exec (.offer node m) s = .next t ∧ tget? t.dev.slots n = some { x with state := 3, offer := m.epoch, peerNode := node, peerSlot := m.donor } ∧ t = { s with dev := { latch s with slots := t.dev.slots, links := t.dev.links, out := t.dev.out, tel := t.dev.tel } }) ∧
    (∀ (s : State) (node n : Nat) (m : HandoffMsg) (x : Slot), (.offer node m : Instr).wellFormed = true → Serving s → mirrorsOn s.dev = false → m.recipient = n → tget? s.dev.slots n = some x → x.state ≠ 2 ∨ m.epoch ≤ x.floor ∨ x.seqId ≠ m.seqId ∨ x.shape ≠ m.shape →
      ∃ t, exec (.offer node m) s = .next t ∧ t = { s with dev := { latch s with links := t.dev.links, out := t.dev.out, tel := t.dev.tel } }) ∧
    (∀ (s : State) (node n : Nat) (m : HandoffMsg) (x : Slot), (.ack node m : Instr).wellFormed = true → Serving s → mirrorsOn s.dev = false → m.donor = n → tget? s.dev.slots n = some x → x.state = 1 → m.epoch = x.offer →
      ∃ t, exec (.ack node m) s = .next t ∧ tget? t.dev.slots n = some { x with state := 4, give := none } ∧ t = { s with dev := { latch s with slots := t.dev.slots, mbx := t.dev.mbx, ports := t.dev.ports, tel := t.dev.tel, out := t.dev.out, links := t.dev.links } }) ∧
    (∀ (s : State) (node n : Nat) (m : HandoffMsg) (x : Slot), (.nak node m : Instr).wellFormed = true → Serving s → mirrorsOn s.dev = false → m.donor = n → tget? s.dev.slots n = some x → x.state = 1 →
      ∃ t, exec (.nak node m) s = .next t ∧ tget? t.dev.slots n = some { x with state := 0, give := none } ∧ t = { s with dev := { latch s with slots := t.dev.slots, mbx := t.dev.mbx, ports := t.dev.ports, tel := t.dev.tel, out := t.dev.out } }) ∧
    (∀ (s : State) (node n : Nat) (m : HandoffMsg) (x : Slot), (.confirm node m : Instr).wellFormed = true → Serving s → mirrorsOn s.dev = false → m.recipient = n → tget? s.dev.slots n = some x → x.state = 3 → m.epoch = x.offer → x.give = none →
      ∃ t, exec (.confirm node m) s = .next t ∧ tget? t.dev.slots n = some { x with state := 0, epoch := x.offer } ∧ t = { s with dev := { latch s with slots := t.dev.slots, mbx := t.dev.mbx, ports := t.dev.ports, tel := t.dev.tel, out := t.dev.out } }) ∧
    (∀ (s : State) (node n : Nat) (m : HandoffMsg) (x : Slot), (.query node m : Instr).wellFormed = true → Serving s → mirrorsOn s.dev = false → m.donor = n → tget? s.dev.slots n = some x → x.state = 1 → x.seqId = m.seqId → x.peerNode = node → x.peerSlot = m.recipient → x.offer = m.epoch →
      ∃ t, exec (.query node m) s = .next t ∧ tget? t.dev.slots n = some { x with state := 4, give := none } ∧ t = { s with dev := { latch s with slots := t.dev.slots, mbx := t.dev.mbx, ports := t.dev.ports, tel := t.dev.tel, out := t.dev.out, links := t.dev.links } }) ∧
    (∀ (s : State) (node n : Nat) (m : HandoffMsg) (x : Slot), (.queryReply node m : Instr).wellFormed = true → Serving s → mirrorsOn s.dev = false → m.donor = n → tget? s.dev.slots n = some x → x.state = 1 → x.seqId = m.seqId → x.peerNode = node → x.peerSlot = m.recipient → x.offer = m.epoch → m.state = 3 ∨ m.state = 0 →
      ∃ t, exec (.queryReply node m) s = .next t ∧ tget? t.dev.slots n = some { x with state := 4, give := none } ∧ t = { s with dev := { latch s with slots := t.dev.slots, mbx := t.dev.mbx, ports := t.dev.ports, tel := t.dev.tel, out := t.dev.out, links := t.dev.links } }) ∧
    (∀ (s : State) (node n : Nat) (m : HandoffMsg) (x : Slot), (.queryReply node m : Instr).wellFormed = true → Serving s → mirrorsOn s.dev = false → m.donor = n → tget? s.dev.slots n = some x → x.state = 1 → x.seqId = m.seqId → x.peerNode = node → x.peerSlot = m.recipient → x.offer = m.epoch → m.state = 2 →
      ∃ t, exec (.queryReply node m) s = .next t ∧ tget? t.dev.slots n = some { x with state := 0, epoch := (x.epoch + 2) % 2 ^ 32, give := none } ∧ t = { s with dev := { latch s with slots := t.dev.slots, mbx := t.dev.mbx, ports := t.dev.ports, tel := t.dev.tel, out := t.dev.out, links := t.dev.links } }) ∧
    (∀ (s : State) (node n : Nat) (m : HandoffMsg) (x : Slot), (.floor node m : Instr).wellFormed = true → Serving s → m.recipient = n → tget? s.dev.slots n = some x → x.seqId = m.seqId →
      exec (.floor node m) s = .next { s with dev := { latch s with slots := tput s.dev.slots n { x with floor := max x.floor m.epoch } } }) ∧
    (∀ (s : State) (n : Nat) (x : Slot), (.handoffTimeout n : Instr).wellFormed = true → Serving s → mirrorsOn s.dev = false → tget? s.dev.slots n = some x → x.state = 1 → (nodeOf s.dev.mbr.map x.peerNode).state ≠ 2 →
      ∃ t, exec (.handoffTimeout n) s = .next t ∧ t.dev.slots = s.dev.slots ∧ tget t.dev.tel 0x403B30 0 = (tget s.dev.tel 0x403B30 0 + 1) % 2 ^ 64 ∧ t = { s with dev := { latch s with tel := t.dev.tel, links := t.dev.links, out := t.dev.out } }) ∧
    (∀ (s : State) (n : Nat) (x : Slot), (.handoffTimeout n : Instr).wellFormed = true → Serving s → mirrorsOn s.dev = false → tget? s.dev.slots n = some x → x.state = 1 → (nodeOf s.dev.mbr.map x.peerNode).state = 2 →
      ∃ t, exec (.handoffTimeout n) s = .next t ∧ tget? t.dev.slots n = some { x with state := 0, epoch := (x.epoch + 2) % 2 ^ 32, give := none } ∧ t = { s with dev := { latch s with slots := t.dev.slots, mbx := t.dev.mbx, ports := t.dev.ports, tel := t.dev.tel, out := t.dev.out, links := t.dev.links } })

/-- With some mirror window on and nothing to copy, a twin link that becomes ACTIVE takes mirroring from SUSPENDED to RESYNC; a twin acknowledgement that does not come suspends mirroring and releases what waits for it; once every marked page and log line is copied and acknowledged, RESYNC ends in MIRRORING. WINDOW_OPEN admits the activities of the window. -/
def Obligations.TwinAndWindows : Prop :=
    (∀ (s : State) (l : Nat), (.twinLinkActive l : Instr).wellFormed = true → Serving s → twinLink s.dev l = true → linkActive s.dev l = true → s.dev.mbr.twin = 2 → mirrorOn s.dev = true → s.dev.mbr.log = [] → s.dev.mbr.marked = [] →
      exec (.twinLinkActive l) s = .next { s with dev := { latch s with mbr := { s.dev.mbr with twin := 3 } } }) ∧
    (∀ (s : State), (.twinAckTimeout : Instr).wellFormed = true → Serving s → s.dev.mbr.sync ≠ [] → s.dev.mbr.twin = 1 →
      ∃ t, exec (.twinAckTimeout) s = .next t ∧ t.dev.mbr.twin = 2 ∧ t.dev.mbr.sync = [] ∧ t.clk = s.clk) ∧
    (∀ (s : State), (.resyncDone : Instr).wellFormed = true → Serving s → s.dev.mbr.twin = 3 → s.dev.mbr.marked = [] → s.dev.mbr.log = [] → s.dev.fab.all (fun r => decide (r.2.owner ≠ .mirror)) = true →
      exec (.resyncDone) s = .next { s with dev := { latch s with mbr := { s.dev.mbr with twin := 1 } } }) ∧
    (∀ (s : State) (win : Nat), (.windowOpen win : Instr).wellFormed = true → Serving s → windowIsOpen s.clk (latch s) win = true → s.dev.sweep = [] → s.dev.mbr.twin ≠ 3 →
      exec (.windowOpen win) s = .next { s with dev := { latch s with boot := { s.dev.boot with windows := (List.range 8).filter (fun a => s.dev.boot.windows.contains a || (windowActs s.dev win).contains a) } } })

/-- PORT_ENABLE 1 of a DISABLED port out of reset lets it train and 0 of a port whose link is not up disables it, with the register bit written. A link that goes down with no request outstanding is DOWN, loses its speed, width, encryption and stream detectors, and a coherence walk of every floe is due for its agent; one that comes up is L0 at the speed and width its register allows, with its open records closed. PERST_N low resets what the host programmed and keeps what DECODER_BIND gave; high lets an enabled port train. L1 and L0p are entered only where the register allows them. -/
def Obligations.CxlLinkStates : Prop :=
    (∀ (s : State) (port : Nat), (.portEnable port true : Instr).wellFormed = true → Serving s → (portOf s.dev port).link = 6 → (portOf s.dev port).perst = false →
      exec (.portEnable port true) s = .next { s with dev := { latch s with regs := tput s.dev.regs (portBase port) (setBits (rv s.dev (portBase port)) 0 1 1), ports := tput s.dev.ports port { portOf s.dev port with link := 1 } } }) ∧
    (∀ (s : State) (port : Nat), (.portEnable port false : Instr).wellFormed = true → Serving s → linkUp (portOf s.dev port) = false → (portOf s.dev port).link ≠ 5 →
      exec (.portEnable port false) s = .next { s with dev := { latch s with regs := tput s.dev.regs (portBase port) (setBits (rv s.dev (portBase port)) 0 1 0), ports := tput s.dev.ports port { portOf s.dev port with link := 6 } } }) ∧
    (∀ (s : State) (port : Nat), (.portEnable port false : Instr).wellFormed = true → Serving s → linkUp (portOf s.dev port) = true → (portOf s.dev port).io = [] → s.dev.dir.all (fun e => e.2.txn.isNone) = true →
      ∃ t, exec (.portEnable port false) s = .next t ∧ (portOf t.dev port).link = 6 ∧ rf t.dev (portBase port) 0 1 = 0 ∧ t.dev.dirWalk = s.dev.dirWalk ++ (List.range 4).map (fun f => (f, 64 + port + 128)) ∧ t = { s with dev := { latch s with regs := t.dev.regs, ports := t.dev.ports, lineWait := t.dev.lineWait, touches := t.dev.touches, packJobs := t.dev.packJobs, errq := t.dev.errq, tel := t.dev.tel, mbx := t.dev.mbx, out := t.dev.out, dirWalk := t.dev.dirWalk, reads := t.dev.reads, fab := t.dev.fab } }) ∧
    (∀ (s : State) (port : Nat), (.cxlLinkDown port : Instr).wellFormed = true → Serving s → NoRecordNow s → linkUp (portOf s.dev port) = true → (portOf s.dev port).io = [] → s.dev.dir.all (fun e => e.2.txn.isNone) = true →
      ∃ t, exec (.cxlLinkDown port) s = .next t ∧ (portOf t.dev port).link = 0 ∧ (portOf t.dev port).width = 0 ∧ (portOf t.dev port).streams = [] ∧ (portOf t.dev port).decoders = (portOf s.dev port).decoders ∧ t.dev.dirWalk = s.dev.dirWalk ++ (List.range 4).map (fun f => (f, 64 + port + 128)) ∧ t.dev.errq.next = (s.dev.errq.next + 1) % 2 ^ 32 ∧ t = { s with dev := { latch s with ports := t.dev.ports, lineWait := t.dev.lineWait, touches := t.dev.touches, packJobs := t.dev.packJobs, errq := t.dev.errq, tel := t.dev.tel, mbx := t.dev.mbx, out := t.dev.out, dirWalk := t.dev.dirWalk, reads := t.dev.reads, fab := t.dev.fab } }) ∧
    (∀ (s : State) (port : Nat) (form : LinkForm), (.cxlLinkUp port form : Instr).wellFormed = true → Serving s → (portOf s.dev port).perst = false → (portOf s.dev port).link = 0 ∨ (portOf s.dev port).link = 1 ∨ (portOf s.dev port).link = 5 → rf s.dev (portBase port) 0 1 = 1 →
      ∃ t, exec (.cxlLinkUp port form) s = .next t ∧ (portOf t.dev port).link = 2 ∧ (portOf t.dev port).flit256 = form.flit ∧ (portOf t.dev port).speed = (if rf s.dev (portBase port) 1 1 = 1 ∨ form.flit = false ∨ form.slow = true then 1 else 2) ∧ (portOf t.dev port).width = (if rf s.dev (portBase port) 2 1 = 1 ∨ form.narrow = true then 8 else 16) ∧ t = { s with dev := { latch s with ports := t.dev.ports, errq := t.dev.errq, tel := t.dev.tel, out := t.dev.out } }) ∧
    (∀ (s : State) (port : Nat), (.perstNAssert port : Instr).wellFormed = true → s.dev.boot.held = true → s.dev.errq.due = [] →
      exec (.perstNAssert port) s = .next { s with dev := { latch s with ports := tput s.dev.ports port { portOf s.dev port with perst := true, link := 0 } } }) ∧
    (∀ (s : State) (port : Nat), (.perstNAssert port : Instr).wellFormed = true → Serving s → (portOf s.dev port).perst = false → (portOf s.dev port).link ≠ 6 → (portOf s.dev port).io = [] → s.dev.dir.all (fun e => e.2.txn.isNone) = true →
      ∃ t, exec (.perstNAssert port) s = .next t ∧ (portOf t.dev port).perst = true ∧ (portOf t.dev port).link = 0 ∧ (portOf t.dev port).policy = 0 ∧ (portOf t.dev port).decoders = (portOf s.dev port).decoders.map (fun x => (x.1, { Decoder.blank with ctx := x.2.ctx, uniBase := x.2.uniBase, uniLen := x.2.uniLen })) ∧ t = { s with dev := { latch s with ports := t.dev.ports, lineWait := t.dev.lineWait, touches := t.dev.touches, packJobs := t.dev.packJobs, errq := t.dev.errq, tel := t.dev.tel, mbx := t.dev.mbx, out := t.dev.out, dirWalk := t.dev.dirWalk, reads := t.dev.reads, fab := t.dev.fab } }) ∧
    (∀ (s : State) (port : Nat), (.perstNDeassert port : Instr).wellFormed = true → Serving s →
      exec (.perstNDeassert port) s = .next { s with dev := { latch s with ports := tput s.dev.ports port { portOf s.dev port with perst := false, link := if (portOf s.dev port).link = 0 ∧ rf s.dev (portBase port) 0 1 = 1 then 1 else (portOf s.dev port).link } } }) ∧
    (∀ (s : State) (port : Nat), (.l1L0pEntry port .l1 : Instr).wellFormed = true → Serving s → (portOf s.dev port).link = 2 ∨ (portOf s.dev port).link = 3 →
      exec (.l1L0pEntry port .l1) s = .next { s with dev := { latch s with ports := if rf s.dev (portBase port) 3 1 = 1 then tput s.dev.ports port { portOf s.dev port with link := 4 } else s.dev.ports } }) ∧
    (∀ (s : State) (port w : Nat), (.l1L0pEntry port (.l0p w) : Instr).wellFormed = true → Serving s → (portOf s.dev port).link = 2 → (portOf s.dev port).flit256 = true → rf s.dev (portBase port) 4 1 = 1 → w = 8 ∨ w = 4 → w < (portOf s.dev port).width →
      exec (.l1L0pEntry port (.l0p w)) s = .next { s with dev := { latch s with ports := tput s.dev.ports port { portOf s.dev port with link := 3, narrow := w } } }) ∧
    (∀ (s : State) (port : Nat), (.l1L0pEntry port .full : Instr).wellFormed = true → Serving s → (portOf s.dev port).link = 3 ∨ (portOf s.dev port).link = 4 →
      exec (.l1L0pEntry port .full) s = .next { s with dev := { latch s with ports := tput s.dev.ports port { portOf s.dev port with link := 2 } } })

/-- A completion of the read of a parameter block gives the waiting message that block; one of the write of a result block makes the held reply ready, and an error makes it say that the block could not be written. A request that gets no completion ends as one with an error, and the port counts it. GPF phase 1 stops every RUNNING galley and its completion tells the host; phase 2 completes at once where no admitted durable write waits, and its completion says whether a durable write failed meanwhile; where one waits it goes on. -/
def Obligations.CxlioCompletions : Prop :=
    (∀ (s : State) (port k mb n a ca : Nat) (b : Bytes) (sv : Service), (.cxlioCompletion port k (.data b) : Instr).wellFormed = true → Serving s → tget? (portOf s.dev port).io k = some ⟨.param mb sv.id, a, n, false, [], ca⟩ → ioSent (portOf s.dev port) k = true → (portOf s.dev port).io.length ≤ 256 → (mbOf s.dev mb).svc = some sv →
      ∃ t, exec (.cxlioCompletion port k (.data b)) s = .next t ∧ (mbOf t.dev mb).svc = some { sv with params := some (slice b 0 n) } ∧ (portOf t.dev port).io = tdel (portOf s.dev port).io k ∧ t = { s with dev := { latch s with mbx := t.dev.mbx, ports := t.dev.ports } }) ∧
    (∀ (s : State) (port k mb n a ca : Nat) (b d : Bytes) (ans : FarAnswer) (sv : Service), (.cxlioCompletion port k ans : Instr).wellFormed = true → Serving s → tget? (portOf s.dev port).io k = some ⟨.result mb sv.id, a, n, true, d, ca⟩ → ioSent (portOf s.dev port) k = true → (portOf s.dev port).io.length ≤ 256 → (mbOf s.dev mb).svc = some sv → sv.held = some b → sv.reply = none →
      ∃ t, exec (.cxlioCompletion port k ans) s = .next t ∧ (mbOf t.dev mb).svc.bind (·.reply) = some (match ans with | .data _ => b | .err _ => splice b 4 [0x15, 2]) ∧ (portOf t.dev port).io = tdel (portOf s.dev port).io k ∧ t = { s with dev := { latch s with mbx := t.dev.mbx, ports := t.dev.ports } }) ∧
    (∀ (s : State) (port k mb n a ca : Nat) (sv : Service), (.cplTimeout port k : Instr).wellFormed = true → Serving s → tget? (portOf s.dev port).io k = some ⟨.param mb sv.id, a, n, false, [], ca⟩ → ioSent (portOf s.dev port) k = true → (portOf s.dev port).io.length ≤ 256 → (mbOf s.dev mb).svc = some sv →
      ∃ t, exec (.cplTimeout port k) s = .next t ∧ (mbOf t.dev mb).svc = some { sv with paramErr := true } ∧ tget t.dev.tel (0x403000 + port * 0x40 + 0x18) 0 = (tget s.dev.tel (0x403000 + port * 0x40 + 0x18) 0 + 1) % 2 ^ 64 ∧ t = { s with dev := { latch s with mbx := t.dev.mbx, ports := t.dev.ports, tel := t.dev.tel } }) ∧
    (∀ (s : State) (port : Nat), (.gpfPhase1 port : Instr).wellFormed = true → Serving s → linkUp (portOf s.dev port) = true →
      ∃ t, exec (.gpfPhase1 port) s = .next t ∧ t.dev.boot = { s.dev.boot with gpf := 1 } ∧ s.dev.galleys.all (fun g => (galleyOf t.dev (g.1 / 8) (g.1 % 8)).state != 1) = true ∧ t.dev.out = .gpf port 1 false :: s.dev.out ∧ t = { s with dev := { latch s with boot := t.dev.boot, galleys := t.dev.galleys, ports := t.dev.ports, out := t.dev.out } }) ∧
    (∀ (s : State) (port : Nat), (.gpfPhase2 port : Instr).wellFormed = true → Serving s → linkUp (portOf s.dev port) = true → durableWaits s.dev = false →
      ∃ t, exec (.gpfPhase2 port) s = .next t ∧ t.dev.boot = { s.dev.boot with gpf := 0 } ∧ t.dev.out = .gpf port 2 (decide (s.dev.boot.gpf = 2 + port) && (portOf s.dev port).gpfFailed) :: s.dev.out ∧ t = { s with dev := { latch s with boot := t.dev.boot, ports := t.dev.ports, out := t.dev.out } }) ∧
    (∀ (s : State) (port : Nat), (.gpfPhase2 port : Instr).wellFormed = true → Serving s → linkUp (portOf s.dev port) = true → durableWaits s.dev = true →
      ∃ t, exec (.gpfPhase2 port) s = .next t ∧ t.dev.boot = { s.dev.boot with gpf := 2 + port } ∧ (portOf t.dev port).gpfFailed = (decide (s.dev.boot.gpf = 2 + port) && (portOf s.dev port).gpfFailed) ∧ t.dev.out = s.dev.out ∧ t = { s with dev := { latch s with boot := t.dev.boot, ports := t.dev.ports } })

/-- Each command of the CXL mailbox is answered on a port whose link is up (after it returns to L0) with what the device holds: the firmware version and capacity, the log list, one entry for each command, the oldest event records, the event policy, temperature and dirty shutdowns, the calendar; bytes that the specification leaves open may hold anything. CLEAR_EVENT_RECORDS removes the oldest records, SET_EVENT_INTERRUPT_POLICY stores the policy with the reserved bits [3:2] of each byte zero, SET_TIMESTAMP sets the calendar; an SPDM request that needs the identity is refused without one. Codes and layouts are the model's (PRESUMED, log entry 23). -/
def Obligations.CxlMailbox : Prop :=
    (∀ (s : State) (port : Nat), (.identifyMemoryDevice port : Instr).wellFormed = true → Serving s → linkUp (portOf s.dev port) = true →
      ∃ t, exec (.identifyMemoryDevice port) s = .next t ∧ (∃ x y z u, t.dev.out = .mailbox port 0x4000 (leBytes 16 s.dev.boot.fwVersion ++ leBytes 8 (capacity s.dev) ++ leBytes 41 x ++ leBytes 1 (y % 4) ++ leBytes 1 (z % 4) ++ leBytes 2 u) :: s.dev.out) ∧ t = { s with dev := { latch s with ports := t.dev.ports, free := t.dev.free, out := t.dev.out } }) ∧
    (∀ (s : State) (port : Nat), (.getSupportedLogs port : Instr).wellFormed = true → Serving s → linkUp (portOf s.dev port) = true →
      exec (.getSupportedLogs port) s = .next { s with dev := { latch s with ports := tput s.dev.ports port (wake (portOf s.dev port)), free := s.dev.free + 1, out := .mailbox port 0x0400 (leBytes 2 1 ++ zeros 6 ++ celUuid ++ leBytes 4 (4 * mailCodes.length)) :: s.dev.out } }) ∧
    (∀ (s : State) (port : Nat), (.getLog port : Instr).wellFormed = true → Serving s → linkUp (portOf s.dev port) = true →
      ∃ t, exec (.getLog port) s = .next t ∧ (∃ f : Nat → Nat, t.dev.out = .mailbox port 0x0401 ((List.range mailCodes.length).flatMap (fun i => leBytes 2 (mailCodes.getD i 0) ++ leBytes 2 (f i))) :: s.dev.out) ∧ t = { s with dev := { latch s with ports := t.dev.ports, free := t.dev.free, out := t.dev.out } }) ∧
    (∀ (s : State) (port n : Nat), (.getEventRecords port n : Instr).wellFormed = true → Serving s → linkUp (portOf s.dev port) = true →
      ∃ t, exec (.getEventRecords port n) s = .next t ∧ (∃ b, t.dev.out = .mailbox port 0x0100 (zeros 20 ++ leBytes 2 ((portOf s.dev port).events.take n).length ++ b) :: s.dev.out) ∧ t = { s with dev := { latch s with ports := t.dev.ports, free := t.dev.free, out := t.dev.out } }) ∧
    (∀ (s : State) (port n : Nat), (.clearEventRecords port n : Instr).wellFormed = true → Serving s → linkUp (portOf s.dev port) = true →
      ∃ t, exec (.clearEventRecords port n) s = .next t ∧ (portOf t.dev port).events = (if n = 0 then [] else (portOf s.dev port).events.drop n) ∧ t.dev.out = .mailbox port 0x0101 [] :: s.dev.out ∧ t = { s with dev := { latch s with ports := t.dev.ports, free := t.dev.free, out := t.dev.out } }) ∧
    (∀ (s : State) (port : Nat), (.getEventInterruptPolicy port : Instr).wellFormed = true → Serving s → linkUp (portOf s.dev port) = true →
      exec (.getEventInterruptPolicy port) s = .next { s with dev := { latch s with ports := tput s.dev.ports port (wake (portOf s.dev port)), free := s.dev.free + 1, out := .mailbox port 0x0102 (leBytes 5 (portOf s.dev port).policy) :: s.dev.out } }) ∧
    (∀ (s : State) (port v : Nat), (.setEventInterruptPolicy port v : Instr).wellFormed = true → Serving s → linkUp (portOf s.dev port) = true →
      ∃ t, exec (.setEventInterruptPolicy port v) s = .next t ∧ (portOf t.dev port).policy = (List.range 5).foldl (fun n i => n + 2 ^ (8 * i) * (v / 2 ^ (8 * i) % 256 &&& 0xF3)) 0 ∧ t = { s with dev := { latch s with ports := t.dev.ports, free := t.dev.free, out := t.dev.out } }) ∧
    (∀ (s : State) (port : Nat), (.getHealthInfo port : Instr).wellFormed = true → Serving s → linkUp (portOf s.dev port) = true →
      ∃ t, exec (.getHealthInfo port) s = .next t ∧ (∃ x y, t.dev.out = .mailbox port 0x4200 (leBytes 4 x ++ leBytes 2 s.dev.boot.tj ++ leBytes 4 (portOf s.dev port).dirtyShutdown ++ leBytes 8 y) :: s.dev.out) ∧ t = { s with dev := { latch s with ports := t.dev.ports, free := t.dev.free, out := t.dev.out } }) ∧
    (∀ (s : State) (port : Nat), (.getTimestamp port : Instr).wellFormed = true → Serving s → linkUp (portOf s.dev port) = true →
      exec (.getTimestamp port) s = .next { s with dev := { latch s with ports := tput s.dev.ports port (wake (portOf s.dev port)), free := s.dev.free + 1, out := .mailbox port 0x0300 (leBytes 8 (if s.clk.calValid then s.clk.cal * 1000000000 + s.clk.calNs else 0)) :: s.dev.out } }) ∧
    (∀ (s : State) (port v : Nat), (.setTimestamp port v : Instr).wellFormed = true → Serving s → linkUp (portOf s.dev port) = true →
      ∃ t, exec (.setTimestamp port v) s = .next t ∧ (t.clk.cal, t.clk.calNs, t.clk.calValid) = (v / 1000000000 % 2 ^ 64, v % 1000000000, true) ∧ t.clk.time = s.clk.time ∧ t.clk.count = s.clk.count ∧ t.dev.out = .mailbox port 0x0301 [] :: s.dev.out ∧ t = { s with clk := t.clk, dev := { latch s with ports := t.dev.ports, free := t.dev.free, out := t.dev.out } }) ∧
    (∀ (s : State) (port op : Nat), (.spdmRequest port op : Instr).wellFormed = true → Serving s → linkUp (portOf s.dev port) = true → spdmKeyed op = true → s.dev.boot.identity = false →
      exec (.spdmRequest port op) s = .next { s with dev := { latch s with ports := tput s.dev.ports port (wake (portOf s.dev port)), free := s.dev.free + 1, out := .mailbox port 0x7F ([]) :: s.dev.out } }) ∧
    (∀ (s : State) (port : Nat), (.spdmRequest port 0x82 : Instr).wellFormed = true → Serving s → linkUp (portOf s.dev port) = true →
      exec (.spdmRequest port 0x82) s = .next { s with dev := { latch s with ports := tput s.dev.ports port (wake (portOf s.dev port)), free := s.dev.free + 1, out := .mailbox port 0x82 (s.dev.boot.flashChain) :: s.dev.out } })

/-- A read through a committed, bound decoder of a line of the context's own stack or bulk page that no agent holds is answered with the line: the cache slice's copy where it has one, else (a page that is not packed, with no fault in its media) the bytes of memory, and no memory changes. A write of a line that the slice holds puts the masked bytes into it, marks it dirty where the page is not durable, changes no other line and is answered. An address that no decoder takes is a failed access: poisoned zeros, one TRANSLATION record and MEM_FAIL kept from the first failure. Unmasking a pending MSI-X entry sends its message. -/
def Obligations.CxlMemAccess : Prop :=
    (∀ (s : State) (port hpa dec off line c ba ln : Nat) (x : Decoder) (y : CLine) (far : Far), (.cxlMemRead port hpa far : Instr).wellFormed = true → Serving s → linkUp (portOf s.dev port) = true → (portOf s.dev port).streams = [] → hpa % 64 = 0 → s.dev.boot.failed = false → s.dev.sw.recovering = false → decodeHpa (portOf s.dev port) hpa = some (dec, x, off) → x.binding = (some c, ba, ln) → off < ln → s.dev.pathBad.contains line = false → tget s.dev.sliceFlips line 0 = 0 → tget s.dev.dirFlips line 0 = 0 → portLoad s.dev port false < 512 → line = (ba + off) / 64 → floeOn s.dev (homeFloe (pageOfLine line)) = true → (pageOf s.dev (pageOfLine line)).tier = 1 ∨ (pageOf s.dev (pageOfLine line)).tier = 2 → (pageOf s.dev (pageOfLine line)).region = false → (pageOf s.dev (pageOfLine line)).owner = c → (pageOf s.dev (pageOfLine line)).mot = false → tget? s.dev.dir line = none → tget? s.dev.cache line = some y →
      ∃ t, exec (.cxlMemRead port hpa far) s = .next t ∧ t.dev.out.contains (.memData port hpa y.data false 0) = true ∧ t.dev.mem = s.dev.mem ∧ tget? t.dev.cache line = some y ∧ t.clk = s.clk) ∧
    (∀ (s : State) (port hpa dec off line c ba ln : Nat) (x : Decoder) (far : Far), (.cxlMemRead port hpa far : Instr).wellFormed = true → Serving s → linkUp (portOf s.dev port) = true → (portOf s.dev port).streams = [] → hpa % 64 = 0 → s.dev.boot.failed = false → s.dev.sw.recovering = false → decodeHpa (portOf s.dev port) hpa = some (dec, x, off) → x.binding = (some c, ba, ln) → off < ln → s.dev.pathBad.contains line = false → tget s.dev.sliceFlips line 0 = 0 → tget s.dev.dirFlips line 0 = 0 → portLoad s.dev port false < 512 → line = (ba + off) / 64 → floeOn s.dev (homeFloe (pageOfLine line)) = true → (pageOf s.dev (pageOfLine line)).tier = 1 ∨ (pageOf s.dev (pageOfLine line)).tier = 2 → (pageOf s.dev (pageOfLine line)).region = false → (pageOf s.dev (pageOfLine line)).owner = c → (pageOf s.dev (pageOfLine line)).mot = false → tget? s.dev.dir line = none → tget? s.dev.cache line = none → (pageOf s.dev (pageOfLine line)).packed = false → s.dev.media = [] → (setLines s.dev line).length < 16 → rf s.dev (floeBase (homeFloe (pageOfLine line)) + 0x130000) 0 1 = 1 →
      ∃ t, exec (.cxlMemRead port hpa far) s = .next t ∧ t.dev.out.contains (.memData port hpa (memRead s.dev.mem (line * 64) 64) false 0) = true ∧ t.dev.mem = s.dev.mem ∧ (tget? t.dev.cache line).map (·.data) = some (memRead s.dev.mem (line * 64) 64) ∧ t.clk = s.clk) ∧
    (∀ (s : State) (port hpa dec off line c ba ln : Nat) (x : Decoder) (y : CLine) (bytes : List Byte) (mask : BitVec 64) (far : Far), (.cxlMemWrite port hpa bytes mask far : Instr).wellFormed = true → Serving s → linkUp (portOf s.dev port) = true → (portOf s.dev port).streams = [] → hpa % 64 = 0 → s.dev.boot.failed = false → s.dev.sw.recovering = false → decodeHpa (portOf s.dev port) hpa = some (dec, x, off) → x.binding = (some c, ba, ln) → off < ln → s.dev.pathBad.contains line = false → tget s.dev.sliceFlips line 0 = 0 → tget s.dev.dirFlips line 0 = 0 → portLoad s.dev port false < 512 → line = (ba + off) / 64 → floeOn s.dev (homeFloe (pageOfLine line)) = true → (pageOf s.dev (pageOfLine line)).tier = 1 ∨ (pageOf s.dev (pageOfLine line)).tier = 2 → (pageOf s.dev (pageOfLine line)).region = false → (pageOf s.dev (pageOfLine line)).owner = c → (pageOf s.dev (pageOfLine line)).mot = false → tget? s.dev.dir line = none → tget? s.dev.cache line = some y → y.data.length = 64 → (pageOf s.dev (pageOfLine line)).packed = false → (pageOf s.dev (pageOfLine line)).durable = false → (pageOf s.dev (pageOfLine line)).twin = false → portLoad s.dev port true < 256 →
      ∃ t, exec (.cxlMemWrite port hpa bytes mask far) s = .next t ∧ tget? t.dev.cache line = some ⟨mergeMask y.data (slice bytes 0 64) mask.toNat, true⟩ ∧ (∀ l, l ≠ line → tget? t.dev.cache l = tget? s.dev.cache l) ∧ t.dev.mem = s.dev.mem ∧ t.dev.out = .memDone port hpa :: s.dev.out ∧ t.clk = s.clk) ∧
    (∀ (s : State) (port hpa : Nat) (far : Far), (.cxlMemRead port hpa far : Instr).wellFormed = true → Serving s → NoRecordNow s → linkUp (portOf s.dev port) = true → hpa % 64 = 0 → s.dev.boot.failed = false → s.dev.sw.recovering = false → decodeHpa (portOf s.dev port) hpa = none → (portOf s.dev port).failValid = false → s.dev.rates = [] → portLoad s.dev port false < 512 →
      ∃ t, exec (.cxlMemRead port hpa far) s = .next t ∧ ((portOf t.dev port).failStatus, (portOf t.dev port).failAddr, (portOf t.dev port).failValid) = (0x10, hpa, true) ∧ t.dev.out.contains (.memData port hpa (zeros 64) true 0) = true ∧ t.dev.errq.next = (s.dev.errq.next + 1) % 2 ^ 32 ∧ t.dev.mem = s.dev.mem ∧ t.dev.cache = s.dev.cache ∧ t.clk = s.clk) ∧
    (∀ (s : State) (port e : Nat), (.msixVectorUnmask port e : Instr).wellFormed = true → Serving s → (vecOf (portOf s.dev port) e).pend = true → (portOf s.dev port).funcMask = false → linkUp (portOf s.dev port) = true →
      ∃ t, exec (.msixVectorUnmask port e) s = .next t ∧ (vecOf (portOf t.dev port) e).pend = false ∧ (vecOf (portOf t.dev port) e).masked = false ∧ t.dev.out = .msix port e :: s.dev.out ∧ t = { s with dev := { latch s with ports := t.dev.ports, tel := t.dev.tel, out := t.dev.out } }) ∧
    (∀ (s : State) (port e : Nat), (.msixVectorUnmask port e : Instr).wellFormed = true → Serving s → (vecOf (portOf s.dev port) e).pend = false →
      exec (.msixVectorUnmask port e) s = .next { s with dev := { latch s with ports := tput s.dev.ports port { portOf s.dev port with vecs := tput (portOf s.dev port).vecs e { vecOf (portOf s.dev port) e with masked := false } } } })

/-- A link moves from DOWN to DETECT on a signal, from PHY training to FEC lock, with all eight lanes or a half in use to the parameter exchange, and with acceptable parameters to authentication, where it takes the peer's node number, latencies and credits and starts its sequence numbers at zero; an authenticated peer whose key the map holds makes it ACTIVE, a failed one AUTH_FAILED until its timer lets it try again. A training or lock that does not end in time takes the link DOWN with one LINK record, and so do parameters of another version. In the bring-up nothing else of the device changes but what a record or a management frame sets going. ENABLE 1 lets a DISABLED link that may come up start from DOWN, and 0 disables a link that carried no frames; a link told to retrain in ACTIVE is in RETRAIN with its flit sequence kept, as does one whose oldest flit has reached the replay limit, and comes back ACTIVE with the count of replays at zero; a retraining that does not end in time, or the loss of signal, takes the link DOWN: it forgets its peer's proof, its unacknowledged flits and its credits. -/
def Obligations.LinkStates : Prop :=
    (∀ (s : State) (l : Nat), (.linkSignalDetect l : Instr).wellFormed = true → Serving s → (linkOf s.dev l).state = 1 →
      exec (.linkSignalDetect l) s = .next { s with dev := { latch s with links := tput s.dev.links l { linkOf s.dev l with state := 2 } } }) ∧
    (∀ (s : State) (l : Nat), (.phyTrainDone l : Instr).wellFormed = true → Serving s → (linkOf s.dev l).state = 2 →
      exec (.phyTrainDone l) s = .next { s with dev := { latch s with links := tput s.dev.links l { linkOf s.dev l with state := 3 } } }) ∧
    (∀ (s : State) (l : Nat), (.phyTrainTimeout l : Instr).wellFormed = true → Serving s → NoRecordNow s → mirrorsOn s.dev = false → (linkOf s.dev l).state = 2 → s.dev.mbr.joined = false ∨ isCoord s.dev = false →
      ∃ t, exec (.phyTrainTimeout l) s = .next t ∧ (linkOf t.dev l).state = 1 ∧ t.dev.errq.next = (s.dev.errq.next + 1) % 2 ^ 32 ∧ t = { s with dev := { latch s with links := t.dev.links, errq := t.dev.errq, tel := t.dev.tel, mbx := t.dev.mbx, ports := t.dev.ports, out := t.dev.out } }) ∧
    (∀ (s : State) (l lanes : Nat), (.fecLockDone l lanes : Instr).wellFormed = true → Serving s → (linkOf s.dev l).state = 3 → lanes = 0xFF → bitOf (rv s.dev (linkBase l)) 1 = false →
      exec (.fecLockDone l lanes) s = .next { s with dev := { latch s with links := tput s.dev.links l { linkOf s.dev l with state := 4, lanes := 0xFF }, out := .param l { node := selfNode s.dev, epoch := epochOf s.dev, version := 1, partner := s.dev.mbr.map.partner, credits := [1024, 256, 2048, 128], txLat := (linkLat l 0xFF).1, rxLat := (linkLat l 0xFF).2 } :: s.dev.out } }) ∧
    (∀ (s : State) (l lanes : Nat), (.fecLockDone l lanes : Instr).wellFormed = true → Serving s → (linkOf s.dev l).state = 3 → lanes % 16 = 0xF → lanes ≠ 0xFF ∨ bitOf (rv s.dev (linkBase l)) 1 = true →
      exec (.fecLockDone l lanes) s = .next { s with dev := { latch s with links := tput s.dev.links l { linkOf s.dev l with state := 4, lanes := 0x0F }, out := .param l { node := selfNode s.dev, epoch := epochOf s.dev, version := 1, partner := s.dev.mbr.map.partner, credits := [1024, 256, 2048, 128], txLat := (linkLat l 0x0F).1, rxLat := (linkLat l 0x0F).2 } :: s.dev.out } }) ∧
    (∀ (s : State) (l : Nat), (.fecLockTimeout l : Instr).wellFormed = true → Serving s → NoRecordNow s → mirrorsOn s.dev = false → (linkOf s.dev l).state = 3 → s.dev.mbr.joined = false ∨ isCoord s.dev = false →
      ∃ t, exec (.fecLockTimeout l) s = .next t ∧ (linkOf t.dev l).state = 1 ∧ t.dev.errq.next = (s.dev.errq.next + 1) % 2 ^ 32 ∧ t = { s with dev := { latch s with links := t.dev.links, errq := t.dev.errq, tel := t.dev.tel, mbx := t.dev.mbx, ports := t.dev.ports, out := t.dev.out } }) ∧
    (∀ (s : State) (l : Nat) (p : ParamInfo), (.paramExchangeDone l p : Instr).wellFormed = true → Serving s → (linkOf s.dev l).state = 4 → paramOk s.dev l p = true →
      exec (.paramExchangeDone l p) s = .next { s with dev := { latch s with links := tput s.dev.links l { linkOf s.dev l with state := 5, peer := p.node % 1024, peerTx := p.txLat % 65536, peerRx := p.rxLat % 65536, peerEpoch := p.epoch, credit := (List.range 4).map (fun c => (c, p.credits.getD c 0)), owed := [], txSeq := 0, rxSeq := 0, replay := [], part := [], tx := [], withheld := [], nak := false } } }) ∧
    (∀ (s : State) (l : Nat) (p : ParamInfo), (.paramExchangeDone l p : Instr).wellFormed = true → Serving s → NoRecordNow s → mirrorsOn s.dev = false → (linkOf s.dev l).state = 4 → p.version ≠ 1 → s.dev.mbr.joined = false ∨ isCoord s.dev = false →
      ∃ t, exec (.paramExchangeDone l p) s = .next t ∧ (linkOf t.dev l).state = 1 ∧ t.dev.errq.next = (s.dev.errq.next + 1) % 2 ^ 32 ∧ t = { s with dev := { latch s with links := t.dev.links, errq := t.dev.errq, tel := t.dev.tel, mbx := t.dev.mbx, ports := t.dev.ports, out := t.dev.out } }) ∧
    (∀ (s : State) (l k : Nat), (.authDone l k true : Instr).wellFormed = true → Serving s → mirrorsOn s.dev = false → (linkOf s.dev l).state = 5 → twinLink s.dev l = false → (nodeOf s.dev.mbr.map (linkOf s.dev l).peer).keyId = k → s.dev.boot.identity = true → s.dev.mbr.joined = true → isCoord s.dev = false →
      ∃ t, exec (.authDone l k true) s = .next t ∧ (linkOf t.dev l).state = 6 ∧ (linkOf t.dev l).auth = true ∧ (linkOf t.dev l).suspected = false ∧ t = { s with dev := { latch s with links := t.dev.links, errq := t.dev.errq, out := t.dev.out, tel := t.dev.tel } }) ∧
    (∀ (s : State) (l k : Nat), (.authDone l k false : Instr).wellFormed = true → Serving s → NoRecordNow s → mirrorsOn s.dev = false → (linkOf s.dev l).state = 5 →
      ∃ t, exec (.authDone l k false) s = .next t ∧ (linkOf t.dev l).state = 8 ∧ (linkOf t.dev l).auth = false ∧ t.dev.errq.next = (s.dev.errq.next + 1) % 2 ^ 32 ∧ t = { s with dev := { latch s with links := t.dev.links, errq := t.dev.errq, tel := t.dev.tel, mbx := t.dev.mbx, ports := t.dev.ports, out := t.dev.out } }) ∧
    (∀ (s : State) (l : Nat), (.authFailedTimer l : Instr).wellFormed = true → Serving s → (linkOf s.dev l).state = 8 →
      exec (.authFailedTimer l) s = .next { s with dev := { latch s with links := tput s.dev.links l { linkOf s.dev l with state := 4 }, out := .param l { node := selfNode s.dev, epoch := epochOf s.dev, version := 1, partner := s.dev.mbr.map.partner, credits := [1024, 256, 2048, 128], txLat := (linkLat l (linkOf s.dev l).lanes).1, rxLat := (linkLat l (linkOf s.dev l).lanes).2 } :: s.dev.out } }) ∧
    (∀ (s : State) (l : Nat), (.linkEnable l true : Instr).wellFormed = true → Serving s → (linkOf s.dev l).state = 0 → s.dev.boot.edgeReady = true → s.dev.boot.failed = false → s.dev.boot.bootMode ≠ 2 →
      exec (.linkEnable l true) s = .next { s with dev := { latch s with regs := tput s.dev.regs (linkBase l) (setBits (rv s.dev (linkBase l)) 0 1 1), links := tput s.dev.links l { linkOf s.dev l with state := 1 } } }) ∧
    (∀ (s : State) (l : Nat), (.linkEnable l false : Instr).wellFormed = true → Serving s → (linkOf s.dev l).state ≠ 0 → (linkOf s.dev l).state ≠ 6 → (linkOf s.dev l).state ≠ 7 →
      exec (.linkEnable l false) s = .next { s with dev := { latch s with regs := tput s.dev.regs (linkBase l) (setBits (rv s.dev (linkBase l)) 0 1 0), links := tput s.dev.links l { linkOf s.dev l with state := 0, auth := false, lanes := 0, replay := [], credit := [], owed := [], part := [], tx := [], withheld := [], nak := false } } }) ∧
    (∀ (s : State) (l : Nat), (.linkRetrain l : Instr).wellFormed = true → Serving s → NoRecordNow s → mirrorsOn s.dev = false → (linkOf s.dev l).state = 6 → (linkOf s.dev l).txq = [] →
      ∃ t, exec (.linkRetrain l) s = .next t ∧ (linkOf t.dev l) = { linkOf s.dev l with state := 7 } ∧ t.dev.errq.next = (s.dev.errq.next + 1) % 2 ^ 32 ∧ t = { s with dev := { latch s with links := t.dev.links, errq := t.dev.errq, tel := t.dev.tel, mbx := t.dev.mbx, ports := t.dev.ports, out := t.dev.out } }) ∧
    (∀ (s : State) (l : Nat), (.retrainDone l : Instr).wellFormed = true → Serving s → mirrorsOn s.dev = false → (linkOf s.dev l).state = 7 → (linkOf s.dev l).txq = [] → (linkOf s.dev l).tx = [] →
      ∃ t, exec (.retrainDone l) s = .next t ∧ (linkOf t.dev l) = { linkOf s.dev l with state := 6, replay := (linkOf s.dev l).replay.map (fun r => (r.1, r.2.1, 0)) } ∧ t = { s with dev := { latch s with links := t.dev.links, errq := t.dev.errq } }) ∧
    (∀ (s : State) (l : Nat), (.retrainTimeout l : Instr).wellFormed = true → Serving s → mirrorsOn s.dev = false → (linkOf s.dev l).state = 7 → (linkOf s.dev l).txq = [] → s.dev.mbr.joined = false ∨ isCoord s.dev = false → (List.range 8).all (fun k => !twinLink s.dev k) = true →
      ∃ t, exec (.retrainTimeout l) s = .next t ∧ (linkOf t.dev l).state = 1 ∧ (linkOf t.dev l).auth = false ∧ (linkOf t.dev l).replay = [] ∧ (linkOf t.dev l).credit = [] ∧ t.dev.mem = s.dev.mem ∧ t.dev.cmds = s.dev.cmds ∧ t.clk = s.clk) ∧
    (∀ (s : State) (l : Nat), (.linkSignalLoss l : Instr).wellFormed = true → Serving s → mirrorsOn s.dev = false → (linkOf s.dev l).state = 6 → (linkOf s.dev l).txq = [] → s.dev.mbr.joined = false ∨ isCoord s.dev = false → (List.range 8).all (fun k => !twinLink s.dev k) = true →
      ∃ t, exec (.linkSignalLoss l) s = .next t ∧ (linkOf t.dev l).state = 1 ∧ (linkOf t.dev l).auth = false ∧ (linkOf t.dev l).replay = [] ∧ (linkOf t.dev l).credit = [] ∧ t.dev.mem = s.dev.mem ∧ t.dev.cmds = s.dev.cmds ∧ t.clk = s.clk) ∧
    (∀ (s : State) (l n q : Nat) (b : Bytes) (r : List (Nat × Bytes × Nat)), (.replayLimitReached l : Instr).wellFormed = true → Serving s → NoRecordNow s → mirrorsOn s.dev = false → (linkOf s.dev l).state = 6 → (linkOf s.dev l).replay = (q, b, n) :: r → replayLimit s.dev l ≤ n → (linkOf s.dev l).txq = [] →
      ∃ t, exec (.replayLimitReached l) s = .next t ∧ (linkOf t.dev l) = { linkOf s.dev l with state := 7 } ∧ t.dev.errq.next = (s.dev.errq.next + 1) % 2 ^ 32 ∧ t = { s with dev := { latch s with links := t.dev.links, errq := t.dev.errq, tel := t.dev.tel, mbx := t.dev.mbx, ports := t.dev.ports, out := t.dev.out } })

/-- A flit that is not whole, not in order or fails its check is discarded and answered with NAK; a good one advances the receive sequence, drops the acknowledged flits from the replay buffer and adds the credits it carries. Without an acknowledgement the unacknowledged flits are sent again, each counted, until the replay limit, at which the link retrains with a record. A frame whose FCRC fails is discarded with one FABRIC record; an acknowledgement for this device goes to the sending floe; every frame taken returns its cells as credit. A frame that mirror session 0 selects is counted for it, and where its sample falls on it a copy goes into the capture ring and TAIL advances, or is dropped and counted when the ring is full. -/
def Obligations.FlitsAndFrames : Prop :=
    (∀ (s : State) (l : Nat) (b : List Byte), (.flitReceive l b : Instr).wellFormed = true → Serving s → mirrorsOn s.dev = false → (linkOf s.dev l).state = 6 → b.length ≠ 512 ∨ crc64 (b.take 504) ≠ fieldAt b 504 8 ∨ fieldAt b 0 2 % 4096 ≠ (linkOf s.dev l).rxSeq → (linkOf s.dev l).replay.length < 1024 →
      ∃ t, exec (.flitReceive l b) s = .next t ∧ (linkOf t.dev l).rxSeq = (linkOf s.dev l).rxSeq ∧ (linkOf t.dev l).rx = (linkOf s.dev l).rx ∧ (linkOf t.dev l).nak = false ∧ (linkOf t.dev l).txSeq = ((linkOf s.dev l).txSeq + 1) % 4096 ∧ t.dev.out.length = s.dev.out.length + 1 ∧ t = { s with dev := { latch s with links := t.dev.links, out := t.dev.out } }) ∧
    (∀ (s : State) (l : Nat) (b : List Byte), (.flitReceive l b : Instr).wellFormed = true → Serving s → mirrorsOn s.dev = false → (linkOf s.dev l).state = 6 → b.length = 512 → crc64 (b.take 504) = fieldAt b 504 8 → fieldAt b 0 2 % 4096 = (linkOf s.dev l).rxSeq → bitOf (fieldAt b 2 2) 12 = false → (linkOf s.dev l).txq = [] → (linkOf s.dev l).tx = [] → allZero (slice b 8 496) = true → (linkOf s.dev l).part = [] →
      ∃ t, exec (.flitReceive l b) s = .next t ∧ (linkOf t.dev l).rxSeq = ((linkOf s.dev l).rxSeq + 1) % 4096 ∧ (linkOf t.dev l).replay = (ackFlits (linkOf s.dev l) (fieldAt b 2 2 % 4096)).replay ∧ (∀ c, c < 4 → tget (linkOf t.dev l).credit c 0 = tget (linkOf s.dev l).credit c 0 + fieldAt b (4 + c) 1) ∧ (linkOf t.dev l).rx = (linkOf s.dev l).rx ∧ t = { s with dev := { latch s with links := t.dev.links } }) ∧
    (∀ (s : State) (l q n : Nat) (b : Bytes), (.flitAckTimeout l : Instr).wellFormed = true → Serving s → mirrorsOn s.dev = false → (linkOf s.dev l).state = 6 → (linkOf s.dev l).replay = [(q, b, n)] → n < replayLimit s.dev l →
      ∃ t, exec (.flitAckTimeout l) s = .next t ∧ (linkOf t.dev l).replay = [(q, b, n + 1)] ∧ t.dev.out.length = s.dev.out.length + 1 ∧ tget t.dev.tel (0x403000 + (12 + l) * 0x40 + 0x10) 0 = (tget s.dev.tel (0x403000 + (12 + l) * 0x40 + 0x10) 0 + 1) % 2 ^ 64 ∧ t = { s with dev := { latch s with links := t.dev.links, tel := t.dev.tel, out := t.dev.out } }) ∧
    (∀ (s : State) (l q n : Nat) (b : Bytes) (r : List (Nat × Bytes × Nat)), (.flitAckTimeout l : Instr).wellFormed = true → Serving s → NoRecordNow s → mirrorsOn s.dev = false → (linkOf s.dev l).state = 6 → (linkOf s.dev l).replay = (q, b, n) :: r → replayLimit s.dev l ≤ n → (linkOf s.dev l).txq = [] →
      ∃ t, exec (.flitAckTimeout l) s = .next t ∧ (linkOf t.dev l) = { linkOf s.dev l with state := 7 } ∧ t.dev.errq.next = (s.dev.errq.next + 1) % 2 ^ 32 ∧ t = { s with dev := { latch s with links := t.dev.links, errq := t.dev.errq, tel := t.dev.tel, mbx := t.dev.mbx, ports := t.dev.ports, out := t.dev.out } }) ∧
    (∀ (s : State) (l n : Nat) (b : Bytes) (r : List Bytes), (.frameReceive l : Instr).wellFormed = true → Serving s → (linkOf s.dev l).rx = b :: r → s.dev.sw.recovering = false → s.dev.sw.waiting.any (fun w => w.1 == 12 + l) = false → openOf s.dev.errq 8 0 = none → frameCrcOk b = false → (List.range 3).all (fun n => !bitOf (rv s.dev (0x04802000 + (n + 1) * 0x40)) 0) = true → selects s.dev 0 (linkSeen l 0 b) = true → n = (tget s.dev.sw.mirCount 0 0 + 1) % 2 ^ 32 → n % 2 ^ (rf s.dev 0x04802000 16 4) ≠ 0 →
      ∃ t, exec (.frameReceive l) s = .next t ∧ (linkOf t.dev l).rx = r ∧ t.dev.errq.next = (s.dev.errq.next + 1) % 2 ^ 32 ∧ t.dev.sw = { s.dev.sw with mirCount := tput s.dev.sw.mirCount 0 n } ∧ t = { s with dev := { latch s with links := t.dev.links, errq := t.dev.errq, tel := t.dev.tel, mbx := t.dev.mbx, ports := t.dev.ports, out := t.dev.out, free := t.dev.free, sw := t.dev.sw } }) ∧
    (∀ (s : State) (l n : Nat) (b : Bytes) (r : List Bytes), (.frameReceive l : Instr).wellFormed = true → Serving s → (linkOf s.dev l).rx = b :: r → s.dev.sw.recovering = false → s.dev.sw.waiting.any (fun w => w.1 == 12 + l) = false → openOf s.dev.errq 8 0 = none → frameCrcOk b = false → (List.range 3).all (fun n => !bitOf (rv s.dev (0x04802000 + (n + 1) * 0x40)) 0) = true → selects s.dev 0 (linkSeen l 0 b) = true → n = (tget s.dev.sw.mirCount 0 0 + 1) % 2 ^ 32 → n % 2 ^ (rf s.dev 0x04802000 16 4) = 0 → 2 ^ max 4 (min 20 (rf s.dev 0x04802108 0 5)) ≤ (s.dev.sw.mirTail + 2 ^ 32 - rf s.dev 0x04802118 0 32) % 2 ^ 32 →
      ∃ t, exec (.frameReceive l) s = .next t ∧ (linkOf t.dev l).rx = r ∧ t.dev.errq.next = (s.dev.errq.next + 1) % 2 ^ 32 ∧ t.dev.sw = { s.dev.sw with mirCount := tput s.dev.sw.mirCount 0 n } ∧ tget t.dev.tel 0x403818 0 = (tget s.dev.tel 0x403818 0 + 1) % 2 ^ 64 ∧ t = { s with dev := { latch s with links := t.dev.links, errq := t.dev.errq, tel := t.dev.tel, mbx := t.dev.mbx, ports := t.dev.ports, out := t.dev.out, free := t.dev.free, sw := t.dev.sw } }) ∧
    (∀ (s : State) (l n : Nat) (b : Bytes) (r : List Bytes), (.frameReceive l : Instr).wellFormed = true → Serving s → (linkOf s.dev l).rx = b :: r → s.dev.sw.recovering = false → s.dev.sw.waiting.any (fun w => w.1 == 12 + l) = false → openOf s.dev.errq 8 0 = none → frameCrcOk b = false → (List.range 3).all (fun n => !bitOf (rv s.dev (0x04802000 + (n + 1) * 0x40)) 0) = true → selects s.dev 0 (linkSeen l 0 b) = true → n = (tget s.dev.sw.mirCount 0 0 + 1) % 2 ^ 32 → n % 2 ^ (rf s.dev 0x04802000 16 4) = 0 → ¬ (2 ^ max 4 (min 20 (rf s.dev 0x04802108 0 5)) ≤ (s.dev.sw.mirTail + 2 ^ 32 - rf s.dev 0x04802118 0 32) % 2 ^ 32) → (pageOf s.dev ((bits (rv s.dev 0x04802100) 0 44 + 512 * (s.dev.sw.mirTail % 2 ^ max 4 (min 20 (rf s.dev 0x04802108 0 5)))) / 65536)).tier = 1 ∨ (pageOf s.dev ((bits (rv s.dev 0x04802100) 0 44 + 512 * (s.dev.sw.mirTail % 2 ^ max 4 (min 20 (rf s.dev 0x04802108 0 5)))) / 65536)).tier = 2 → cellsOf b.length ≤ sharedCells s.dev →
      ∃ t, exec (.frameReceive l) s = .next t ∧ (linkOf t.dev l).rx = r ∧ t.dev.sw = { s.dev.sw with mirCount := tput s.dev.sw.mirCount 0 n, mirTail := (s.dev.sw.mirTail + 1) % 2 ^ 32 } ∧ tget t.dev.tel 0x403810 0 = (tget s.dev.tel 0x403810 0 + 1) % 2 ^ 64 ∧ t.dev.regs = s.dev.regs ∧ t.dev.galleys = s.dev.galleys ∧ t.dev.ctxs = s.dev.ctxs ∧ t.dev.mbr = s.dev.mbr ∧ t.clk = s.clk) ∧
    (∀ (s : State) (l : Nat) (b : Bytes) (r : List Bytes), (.frameReceive l : Instr).wellFormed = true → Serving s → mirrorsOn s.dev = false → (linkOf s.dev l).rx = b :: r → s.dev.sw.recovering = false → s.dev.sw.waiting.any (fun w => w.1 == 12 + l) = false → openOf s.dev.errq 8 0 = none → frameCrcOk b = false → (List.range 4).all (fun n => !bitOf (rv s.dev (0x04802000 + n * 0x40)) 0) = true →
      ∃ t, exec (.frameReceive l) s = .next t ∧ (linkOf t.dev l).rx = r ∧ t.dev.errq.next = (s.dev.errq.next + 1) % 2 ^ 32 ∧ tget (linkOf t.dev l).owed (parseFrame b).cls 0 = (if (linkOf s.dev l).state = 6 ∧ (linkOf s.dev l).replay.length < 1024 then (tget (linkOf s.dev l).owed (parseFrame b).cls 0 + cellsOf b.length) - min 255 (tget (linkOf s.dev l).owed (parseFrame b).cls 0 + cellsOf b.length) else tget (linkOf s.dev l).owed (parseFrame b).cls 0 + cellsOf b.length) ∧ t = { s with dev := { latch s with links := t.dev.links, errq := t.dev.errq, tel := t.dev.tel, mbx := t.dev.mbx, ports := t.dev.ports, out := t.dev.out, free := t.dev.free } }) ∧
    (∀ (s : State) (l : Nat) (b : Bytes) (r : List Bytes), (.frameReceive l : Instr).wellFormed = true → Serving s → mirrorsOn s.dev = false → (linkOf s.dev l).rx = b :: r → s.dev.sw.recovering = false → s.dev.sw.waiting.any (fun w => w.1 == 12 + l) = false → frameCrcOk b = true → frameMalformed b = false → (parseFrame b).dst = selfNode s.dev → (parseFrame b).cls = 2 → twinLink s.dev l = false → (List.range 4).all (fun n => !bitOf (rv s.dev (0x04802000 + n * 0x40)) 0) = true →
      ∃ t, exec (.frameReceive l) s = .next t ∧ (linkOf t.dev l).rx = r ∧ tget? t.dev.acks (parseFrame b).utag = some ⟨2, (parseFrame b).code, (parseFrame b).src, (parseFrame b).epoch, (parseFrame b).width, (parseFrame b).addr, (parseFrame b).payload, (parseFrame b).error, [], false, 0, [], false, false⟩ ∧ tget (linkOf t.dev l).owed (parseFrame b).cls 0 = (if (linkOf s.dev l).state = 6 ∧ (linkOf s.dev l).replay.length < 1024 then (tget (linkOf s.dev l).owed (parseFrame b).cls 0 + cellsOf b.length) - min 255 (tget (linkOf s.dev l).owed (parseFrame b).cls 0 + cellsOf b.length) else tget (linkOf s.dev l).owed (parseFrame b).cls 0 + cellsOf b.length) ∧ t = { s with dev := { latch s with links := t.dev.links, acks := t.dev.acks, out := t.dev.out, tel := t.dev.tel } })

/-- A good cell of a frame of several cells that finds room at its output takes a buffer there and waits for the rest of its frame; one whose check fails, at an output that is a port or a link, aborts the frame, counted and recorded. A cell that waits at its input is admitted once its output has room. An audit pass marks a buffer that nothing holds, frees it and counts it when it is found so again, and starts a recovery of the switch core for one that is both held and free. -/
def Obligations.SwitchCells : Prop :=
    (∀ (s : State) (sp : Nat) (c : Cell), (.cellReceive sp c : Instr).wellFormed = true → Serving s → c.ok = true → 1 < c.count → tget? s.dev.sw.frames (frameKey sp c.frame) = none → cellRoom s.dev c.output c.cls = true → s.dev.sw.waiting = [] → s.dev.sw.bufs = [] → s.dev.sw.frames = [] → s.dev.sw.staged = [] → sp < 12 ∨ 20 ≤ sp ∨ (linkOf s.dev (sp - 12)).withheld = [] → bitOf (rf s.dev (0x04800100 + 4 * c.output) 0 8) c.cls = false →
      ∃ t, exec (.cellReceive sp c) s = .next t ∧ (tget? t.dev.sw.frames (frameKey sp c.frame)).map (fun f => (f.output, f.cls, f.cells, f.got, f.sent, f.aborted)) = some (c.output, c.cls, c.count, [c.index], 0, false) ∧ tget t.dev.sw.occupancy (8 * c.output + c.cls) 0 = tget s.dev.sw.occupancy (8 * c.output + c.cls) 0 + 1 ∧ t.dev.sw.bufs.length = 1 ∧ t = { s with dev := { latch s with sw := t.dev.sw, tel := t.dev.tel } }) ∧
    (∀ (s : State) (sp : Nat) (c : Cell), (.cellReceive sp c : Instr).wellFormed = true → Serving s → NoRecordNow s → c.ok = false → 1 < c.count → c.output < 20 → 12 ≤ c.output ∨ (c.cls ≠ 3 ∧ c.cls ≠ 4) → mirrorsOn s.dev = false → tget? s.dev.sw.frames (frameKey sp c.frame) = none →
      ∃ t, exec (.cellReceive sp c) s = .next t ∧ (tget? t.dev.sw.frames (frameKey sp c.frame)).map (·.aborted) = some true ∧ tget t.dev.tel (0x403000 + c.output * 0x40 + 0x30) 0 = (tget s.dev.tel (0x403000 + c.output * 0x40 + 0x30) 0 + 1) % 2 ^ 64 ∧ t.dev.errq.next = (s.dev.errq.next + 1) % 2 ^ 32 ∧ t.dev.cmds = s.dev.cmds ∧ t.dev.pages = s.dev.pages ∧ t.clk = s.clk) ∧
    (∀ (s : State) (sp n o q i : Nat) (f : SwFrame), (.cellAdmit sp : Instr).wellFormed = true → Serving s → s.dev.sw.waiting = [(sp, n, o, q, i)] → cellRoom s.dev o q = true → s.dev.sw.frames = [(frameKey sp n, f)] → f.aborted = false → f.cut = false → inOrder { f with got := f.got ++ [i] } < f.cells → s.dev.sw.bufs = [] → s.dev.sw.staged = [] → sp < 12 ∨ 20 ≤ sp ∨ (linkOf s.dev (sp - 12)).withheld = [] → f.output = o → f.cls = q →
      ∃ t, exec (.cellAdmit sp) s = .next t ∧ t.dev.sw.waiting = [] ∧ (tget? t.dev.sw.frames (frameKey sp n)).map (·.got) = some (f.got ++ [i]) ∧ tget t.dev.sw.occupancy (8 * o + q) 0 = tget s.dev.sw.occupancy (8 * o + q) 0 + 1 ∧ t = { s with dev := { latch s with sw := t.dev.sw } }) ∧
    (∀ (s : State) (k : Nat) (b : CellBuf), (.auditPass : Instr).wellFormed = true → Serving s → rf s.dev 0x04800000 0 1 = 1 → s.dev.sw.bufs = [(k, b)] → b.holder = false → b.suspect = false →
      exec (.auditPass) s = .next { s with dev := { latch s with sw := { s.dev.sw with bufs := [(k, { b with suspect := true })] } } }) ∧
    (∀ (s : State) (k : Nat) (b : CellBuf), (.auditPass : Instr).wellFormed = true → Serving s → NoRecordNow s → rf s.dev 0x04800000 0 1 = 1 → s.dev.sw.bufs = [(k, b)] → b.holder = false → b.suspect = true →
      ∃ t, exec (.auditPass) s = .next t ∧ t.dev.sw = { s.dev.sw with bufs := [] } ∧ tget t.dev.tel 0x403800 0 = (tget s.dev.tel 0x403800 0 + 1) % 2 ^ 64 ∧ t.dev.errq.next = (s.dev.errq.next + 1) % 2 ^ 32 ∧ t = { s with dev := { latch s with sw := t.dev.sw, errq := t.dev.errq, tel := t.dev.tel, mbx := t.dev.mbx, ports := t.dev.ports, out := t.dev.out } }) ∧
    (∀ (s : State) (k : Nat) (b : CellBuf), (.auditPass : Instr).wellFormed = true → Serving s → rf s.dev 0x04800000 0 1 = 1 → s.dev.sw.bufs = [(k, b)] → b.holder = true → b.onFree = true → openOf s.dev.errq 8 0 = none →
      ∃ t, exec (.auditPass) s = .next t ∧ t.dev.sw.recovering = true ∧ tget t.dev.tel 0x403808 0 = (tget s.dev.tel 0x403808 0 + 1) % 2 ^ 64 ∧ t.dev.reqs = [] ∧ t.dev.dedup = [] ∧ t.dev.mem = s.dev.mem ∧ t.dev.cmds = s.dev.cmds ∧ t.clk = s.clk)

/-- A request of a slot that has none pending and is not fenced is put on its wires; at the floe switch port (slot 27) it waits with the others there, and is the one presented where its class is above theirs. An arbitration of an idle unit grants it to a request of the highest rank, and only that request leaves the waiting ones for the grant. At the end of a grant the unit is free, and an owner with beats left takes part again with the rest, at the floe switch port too. A watchdog bite frees the unit, fences the slot, counts the bite, revokes the grant and forms one ARBITER record; where no command owned the transfer nothing else changes. -/
def Obligations.Arbitration : Prop :=
    (∀ (s : State) (f a slot cls o beats : Nat), (.arbRequest f a slot cls o beats : Instr).wellFormed = true → Serving s → floeRuns s.dev f = true → slot < 30 → slot ≠ 27 → ((arbOf s.dev f a).wires ++ (arbOf s.dev f a).parked).all (fun r => r.slot != slot) = true → (arbOf s.dev f a).owner.all (fun g => g.req.slot != slot) = true → bitOf (arbOf s.dev f a).fenced slot = false →
      exec (.arbRequest f a slot cls o beats) s = .next { s with dev := { latch s with arbs := tput s.dev.arbs (30 * f + a) { arbOf s.dev f a with wires := (arbOf s.dev f a).wires ++ [⟨slot, arbClass (latch s) f slot cls o, o, beats, arbCtx (latch s) f o⟩] } } }) ∧
    (∀ (s : State) (f a cls o beats : Nat) (r : ArbReq), (.arbRequest f a 27 cls o beats : Instr).wellFormed = true → Serving s → floeRuns s.dev f = true → r = ⟨27, arbClass (latch s) f 27 cls o, o, beats, arbCtx (latch s) f o⟩ → bitOf (arbOf s.dev f a).fenced 27 = false → (arbOf s.dev f a).owner.all (fun g => g.req.slot != 27) = true → (arbOf s.dev f a).port.all (fun q => decide (q.cls < r.cls)) = true → ((arbOf s.dev f a).wires ++ (arbOf s.dev f a).parked).contains r = false →
      exec (.arbRequest f a 27 cls o beats) s = .next { s with dev := { latch s with arbs := tput s.dev.arbs (30 * f + a) { arbOf s.dev f a with port := (arbOf s.dev f a).port ++ [r], wires := (arbOf s.dev f a).wires.filter (fun q => decide (q.slot ≠ 27)) ++ [r], parked := (arbOf s.dev f a).parked.filter (fun q => decide (q.slot ≠ 27)) } } }) ∧
    (∀ (s : State) (f a cls o beats : Nat) (q : ArbReq), (.arbRequest f a 27 cls o beats : Instr).wellFormed = true → Serving s → floeRuns s.dev f = true → bitOf (arbOf s.dev f a).fenced 27 = false → highest (arbOf s.dev f a).port = some q → arbClass (latch s) f 27 cls o ≤ q.cls → ((arbOf s.dev f a).wires ++ (arbOf s.dev f a).parked).contains q = true →
      exec (.arbRequest f a 27 cls o beats) s = .next { s with dev := { latch s with arbs := tput s.dev.arbs (30 * f + a) { arbOf s.dev f a with port := (arbOf s.dev f a).port ++ [⟨27, arbClass (latch s) f 27 cls o, o, beats, arbCtx (latch s) f o⟩] } } }) ∧
    (∀ (s : State) (f a : Nat) (r : ArbReq), (.arbitration f a : Instr).wellFormed = true → Serving s → floeRuns s.dev f = true → a < 16 ∨ 19 < a ∨ presentBlock (latch s) (6 * f + (a - 16)) = latch s → (arbOf s.dev f a).owner = none → (arbOf s.dev f a).best ((arbOf s.dev f a).parked ++ (arbOf s.dev f a).wires) = some r →
      ∃ t, exec (.arbitration f a) s = .next t ∧ (arbOf t.dev f a).owner.map (·.req) = some r ∧ ((arbOf s.dev f a).parked ++ (arbOf s.dev f a).wires).all (fun q => decide (q.rank ≤ r.rank)) = true ∧ ((arbOf t.dev f a).parked ++ (arbOf t.dev f a).wires).all (fun q => q.slot != r.slot) = true ∧ t.dev.out = .grant f a r.slot :: s.dev.out ∧ t = { s with dev := { latch s with arbs := t.dev.arbs, force := t.dev.force, out := t.dev.out } }) ∧
    (∀ (s : State) (f a : Nat) (g : Grant), (.grantEnd f a : Instr).wellFormed = true → Serving s → (arbOf s.dev f a).owner = some g → g.req.slot ≠ 27 → (arbOf s.dev f a).port = [] →
      exec (.grantEnd f a) s = .next { s with dev := { latch s with arbs := tput s.dev.arbs (30 * f + a) { arbOf s.dev f a with owner := none, wires := if g.req.beats ≤ g.limit then (arbOf s.dev f a).wires else (arbOf s.dev f a).wires ++ [{ g.req with beats := g.req.beats - g.limit }] } } }) ∧
    (∀ (s : State) (f a : Nat) (g : Grant), (.grantEnd f a : Instr).wellFormed = true → Serving s → (arbOf s.dev f a).owner = some g → g.req.slot = 27 → g.limit < g.req.beats → bitOf (arbOf s.dev f a).fenced 27 = false → (arbOf s.dev f a).port = [] → ((arbOf s.dev f a).wires ++ (arbOf s.dev f a).parked).all (fun q => q.slot != 27) = true →
      exec (.grantEnd f a) s = .next { s with dev := { latch s with arbs := tput s.dev.arbs (30 * f + a) { arbOf s.dev f a with owner := none, port := [{ g.req with beats := g.req.beats - g.limit }], wires := (arbOf s.dev f a).wires ++ [{ g.req with beats := g.req.beats - g.limit }] } } }) ∧
    (∀ (s : State) (f a : Nat) (g : Grant), (.arbWatchdog f a : Instr).wellFormed = true → Serving s → floeRuns s.dev f = true → g.req.slot ≠ 27 ∨ g.req.owner < 4096 → (arbOf s.dev f a).owner = some g → rf s.dev (arbBase f a + 0x10) 0 24 ≠ 0 → g.req.slot < 32 → cmdOf s.dev g.req.owner = none → openOf s.dev.errq 9 (32 * f + a) = none →
      ∃ t, exec (.arbWatchdog f a) s = .next t ∧ (arbOf t.dev f a).owner = none ∧ bitOf (arbOf t.dev f a).fenced g.req.slot = true ∧ (arbOf t.dev f a).bites = min 65535 ((arbOf s.dev f a).bites + 1) ∧ t.dev.out.contains (.revoke f a g.req.slot) = true ∧ t.dev.errq.next = (s.dev.errq.next + 1) % 2 ^ 32 ∧ t = { s with dev := { latch s with arbs := t.dev.arbs, errq := t.dev.errq, tel := t.dev.tel, mbx := t.dev.mbx, ports := t.dev.ports, out := t.dev.out } })

/-- An edge that SOURCE and FALLING allow, not earlier than MIN_GAP after the last mark (or the first of all), is a mark: the count advances, IMPR_LAST is the device time, coasting ends, the interval from the last accepted mark enters the eight kept where it is not beyond MAX_GAP, and the time base is LOCKED with eight intervals and UNLOCKED with fewer; an earlier one is only counted as ignored. A missing mark is synthesised one period after the last, COASTING until the limit, then FREE. A mark puts every Staged field in force. FREE_MARK, WINDOW_CLOSE and CAL_FORCED act on the mark count, the windows and the forced-calibration count. That a coasting mark lies one period after the last is the model's reading (DEDUCED, log entry 27). -/
def Obligations.Impressions : Prop :=
    (∀ (s : State) (fall : Bool), (.imprSyncEdge fall : Instr).wellFormed = true → Serving s → imprSource s.dev = 0 ∨ imprSource s.dev = 2 → decide (rf s.dev 0x04A04000 2 1 = 1) = fall → s.clk.count = 0 ∨ s.clk.last + 1000 * rf s.dev 0x04A04008 0 16 ≤ s.clk.time →
      ∃ t, exec (.imprSyncEdge fall) s = .next t ∧ t.clk.last = s.clk.time ∧ t.clk.count = (s.clk.count + 1) % 2 ^ 64 ∧ t.clk.from_ = some s.clk.time ∧ t.clk.coasts = 0 ∧ t.clk.impr = (if t.clk.intervals.length = 8 then 2 else 1) ∧ t.clk.intervals = (match s.clk.from_ with | some f => if s.clk.time - f ≤ 1000 * rf s.dev 0x04A04008 16 16 then ((s.clk.time - f) :: s.clk.intervals).take 8 else s.clk.intervals | none => s.clk.intervals) ∧ t.clk.time = s.clk.time ∧ t.dev.force = [] ∧ t = { s with clk := t.clk, dev := { latch s with force := t.dev.force, boot := t.dev.boot } }) ∧
    (∀ (s : State) (fall : Bool), (.imprSyncEdge fall : Instr).wellFormed = true → Serving s → imprSource s.dev = 0 ∨ imprSource s.dev = 2 → decide (rf s.dev 0x04A04000 2 1 = 1) = fall → s.clk.count ≠ 0 → s.clk.time < s.clk.last + 1000 * rf s.dev 0x04A04008 0 16 →
      exec (.imprSyncEdge fall) s = .next { s with clk := { s.clk with ignored := min 65535 (s.clk.ignored + 1) }, dev := latch s }) ∧
    (∀ (s : State), (.coastMark : Instr).wellFormed = true → Serving s → s.clk.impr ≠ 0 →
      ∃ t, exec (.coastMark) s = .next t ∧ t.clk = { s.clk with last := s.clk.last + period s.clk s.dev, count := (s.clk.count + 1) % 2 ^ 64, coasts := s.clk.coasts + 1, from_ := none, synthesised := min 65535 (s.clk.synthesised + 1), impr := if max 1 (rf s.dev 0x04A04010 16 8) ≤ s.clk.coasts + 1 then 0 else 3 } ∧ t.dev.force = [] ∧ t = { s with clk := t.clk, dev := { latch s with force := t.dev.force, boot := t.dev.boot } }) ∧
    (∀ (s : State), (.freeMark : Instr).wellFormed = true → Serving s → s.clk.impr = 0 →
      ∃ t, exec (.freeMark) s = .next t ∧ t.clk = { s.clk with last := s.clk.time, count := (s.clk.count + 1) % 2 ^ 64, from_ := none, synthesised := min 65535 (s.clk.synthesised + 1) } ∧ t.dev.force = [] ∧ t = { s with clk := t.clk, dev := { latch s with force := t.dev.force, boot := t.dev.boot } }) ∧
    (∀ (s : State) (win : Nat), (.windowClose win : Instr).wellFormed = true → Serving s → windowIsOpen s.clk (latch s) win = false →
      exec (.windowClose win) s = .next { s with dev := { latch s with boot := { s.dev.boot with windows := s.dev.boot.windows.filter (fun a => (openActs s.clk (latch s)).contains a) } } }) ∧
    (∀ (s : State) (f u : Nat), (.calForced f u : Instr).wellFormed = true → Serving s → floeOn s.dev f = true → admits s.dev 5 = false →
      exec (.calForced f u) s = .next { s with clk := { s.clk with calForced := min 65535 (s.clk.calForced + 1) }, dev := latch s })

/-- TIME_EXCHANGE notes the present time for every ACTIVE link that is not a twin link. A reply over the link toward the reference measures the offset; a joined device steps by it once, and afterwards slews. The calendar takes the seconds written, and is not valid once its oscillator has stopped. Device time changes in no other way. -/
def Obligations.TimeTransferAndCalendar : Prop :=
    (∀ (s : State), (.timeExchange : Instr).wellFormed = true → Serving s → mirrorsOn s.dev = false →
      ∃ t, exec (.timeExchange) s = .next t ∧ (List.range 8).all (fun l => !(linkActive s.dev l && !twinLink s.dev l) || tget? t.clk.t1 l == some s.clk.time) = true ∧ (t.clk.time, t.clk.cal, t.clk.impr) = (s.clk.time, s.clk.cal, s.clk.impr) ∧ t = { s with clk := t.clk, dev := { latch s with links := t.dev.links, out := t.dev.out, tel := t.dev.tel } }) ∧
    (∀ (s : State) (l t1 t2 t3 t4 : Nat), (.timeExchangeReply l t2 t3 t4 : Instr).wellFormed = true → Serving s → tget? s.clk.t1 l = some t1 → timeLink s.clk (latch s) = some l → s.dev.mbr.joined = true → s.clk.joined = false →
      ∃ t, exec (.timeExchangeReply l t2 t3 t4) s = .next t ∧ t.clk.offset = (((t2 : Int) - t1 - ((t4 : Int) - t3)) * 16 - asymmetry s.dev l) / 32 ∧ (t.clk.time : Int) = (((s.clk.time : Int) + t.clk.offset).toNat % 2 ^ 64 : Nat) ∧ t.clk.joined = true ∧ t.clk.slew = 0 ∧ t.clk.t1 = tdel s.clk.t1 l ∧ t = { s with clk := t.clk, dev := { latch s with now := t.dev.now, cal := t.dev.cal } }) ∧
    (∀ (s : State) (l t1 t2 t3 t4 : Nat), (.timeExchangeReply l t2 t3 t4 : Instr).wellFormed = true → Serving s → tget? s.clk.t1 l = some t1 → timeLink s.clk (latch s) = some l → s.dev.mbr.joined = true → s.clk.joined = true →
      ∃ t, exec (.timeExchangeReply l t2 t3 t4) s = .next t ∧ t.clk.offset = (((t2 : Int) - t1 - ((t4 : Int) - t3)) * 16 - asymmetry s.dev l) / 32 ∧ t.clk.slew = t.clk.offset ∧ t.clk.time = s.clk.time ∧ t.clk.t1 = tdel s.clk.t1 l ∧ t = { s with clk := t.clk, dev := { latch s with now := t.dev.now, cal := t.dev.cal } }) ∧
    (∀ (s : State) (v : Nat), (.calendarWrite v : Instr).wellFormed = true → Serving s →
      exec (.calendarWrite v) s = .next { s with clk := { s.clk with cal := v % 2 ^ 64, calNs := 0, calValid := true }, dev := latch s }) ∧
    (∀ (s : State), (.calOscStop : Instr).wellFormed = true → s.dev.errq.due = [] →
      exec (.calOscStop) s = .next { s with clk := { s.clk with calValid := false }, dev := latch s })

/-- With PPS_EN set, an accepted edge sets the slew to be made to the distance back to the nearest multiple of 10^9 ns, and does not step the time; PPS_LOCKED is set at the third edge in a row within 20 ns, and cleared by an edge more than 1 microsecond off and when no edge has arrived for 1.5 s. With PPS_EN clear an edge changes nothing. -/
def Obligations.TimePps : Prop :=
    (∀ (s : State), (.timePpsEdge : Instr).wellFormed = true → Serving s → rf s.dev 0x04A00000 0 1 = 1 →
      exec (.timePpsEdge) s = .next { s with clk := { s.clk with ppsGood := if (if s.clk.time % 1000000000 < 500000000 then ((s.clk.time % 1000000000 : Nat) : Int) else ((s.clk.time % 1000000000 : Nat) : Int) - 1000000000).natAbs ≤ 20 then min 3 (s.clk.ppsGood + 1) else 0, ppsLocked := if 1000 < (if s.clk.time % 1000000000 < 500000000 then ((s.clk.time % 1000000000 : Nat) : Int) else ((s.clk.time % 1000000000 : Nat) : Int) - 1000000000).natAbs then false else s.clk.ppsLocked || decide ((if s.clk.time % 1000000000 < 500000000 then ((s.clk.time % 1000000000 : Nat) : Int) else ((s.clk.time % 1000000000 : Nat) : Int) - 1000000000).natAbs ≤ 20 ∧ 2 ≤ s.clk.ppsGood), ppsLast := some s.clk.time, slew := -(if s.clk.time % 1000000000 < 500000000 then ((s.clk.time % 1000000000 : Nat) : Int) else ((s.clk.time % 1000000000 : Nat) : Int) - 1000000000) }, dev := latch s }) ∧
    (∀ (s : State), (.timePpsEdge : Instr).wellFormed = true → Serving s → rf s.dev 0x04A00000 0 1 = 0 →
      exec (.timePpsEdge) s = .next { s with dev := latch s }) ∧
    (∀ (s : State), (.ppsLoss : Instr).wellFormed = true → Serving s →
      exec (.ppsLoss) s = .next { s with clk := { s.clk with ppsLocked := false, ppsGood := 0 }, dev := latch s })

/-- A scrub of a line in which nothing is in error is counted and only advances the pass, and at the last line of the controller ends it; a late pass is flagged. RELEASE of a QUARANTINED core that has been quarantined fewer than three times starts its self-test; one that passes makes the core IDLE and closes its records, one that fails leaves it QUARANTINED. A recovery of the switch core that ends resumes forwarding with an empty pool; one that does not end in time fails the device. With AUTO_RESTART 1 the next galley that a recovery stopped starts again, with 0 none does. -/
def Obligations.ScrubSelftestAndRecovery : Prop :=
    (∀ (s : State) (f u p : Nat), (.scrubLine f u p [] : Instr).wellFormed = true → Serving s → floeOn s.dev f = true → admits s.dev 4 = true → rf s.dev (eccBase f u + 0x208) 0 1 = 1 → p < scrubLines s.dev f u → s.dev.media = [] →
      exec (.scrubLine f u p []) s = .next { s with dev := { latch s with ecc := tput s.dev.ecc (f * 7 + u) { eccOf s.dev f u with line := if scrubLines s.dev f u ≤ (eccOf s.dev f u).line + 1 then 0 else (eccOf s.dev f u).line + 1, passes := if scrubLines s.dev f u ≤ (eccOf s.dev f u).line + 1 then ((eccOf s.dev f u).passes + 1) % 65536 else (eccOf s.dev f u).passes }, tel := tput s.dev.tel (0x500000 + f * 0x100000 + 0x1748) ((tget s.dev.tel (0x500000 + f * 0x100000 + 0x1748) 0 + 1) % 2 ^ 64) } }) ∧
    (∀ (s : State) (f u : Nat), (.scrubPassLate f u : Instr).wellFormed = true → Serving s → floeOn s.dev f = true →
      exec (.scrubPassLate f u) s = .next { s with dev := { latch s with ecc := tput s.dev.ecc (f * 7 + u) { eccOf s.dev f u with late := true } } }) ∧
    (∀ (s : State) (c : Nat), (.selftestRelease c : Instr).wellFormed = true → Serving s → floeOn s.dev (c / 16) = true → (coreOf s.dev c).state = 5 → (coreOf s.dev c).quarantines < 3 → (coreOf s.dev c).selftest ≠ 1 →
      exec (.selftestRelease c) s = .next { s with dev := { latch s with cores := tput s.dev.cores c { coreOf s.dev c with selftest := 1 } } }) ∧
    (∀ (s : State) (c : Nat), (.selftestDone c true : Instr).wellFormed = true → Serving s → (coreOf s.dev c).state = 5 → (coreOf s.dev c).selftest = 1 →
      ∃ t, exec (.selftestDone c true) s = .next t ∧ coreOf t.dev c = { coreOf s.dev c with state := 0, selftest := 2, quarantines := min 3 ((coreOf s.dev c).quarantines + 1) } ∧ t.dev.errq.opens = s.dev.errq.opens.filter (fun o => !decide (o.kind = 2 ∧ o.id = c ∧ o.level ≤ 2)) ∧ t = { s with dev := { latch s with cores := t.dev.cores, errq := t.dev.errq } }) ∧
    (∀ (s : State) (c : Nat), (.selftestDone c false : Instr).wellFormed = true → Serving s → (coreOf s.dev c).state = 5 → (coreOf s.dev c).selftest = 1 →
      exec (.selftestDone c false) s = .next { s with dev := { latch s with cores := tput s.dev.cores c { coreOf s.dev c with selftest := 3 } } }) ∧
    (∀ (s : State), (.switchRecoveryTimeout : Instr).wellFormed = true → Serving s → s.dev.sw.recovering = true → s.dev.boot.phase = 3 →
      ∃ t, exec (.switchRecoveryTimeout) s = .next t ∧ t.dev.boot.failed = true ∧ devState t.dev = 15 ∧ t.dev.mem = s.dev.mem ∧ t.clk = s.clk) ∧
    (∀ (s : State), (.switchRecoveryDone : Instr).wellFormed = true → Serving s → s.dev.sw.recovering = true →
      ∃ t, exec (.switchRecoveryDone) s = .next t ∧ t.dev.sw = { s.dev.sw with recovering := false, bufs := [], occupancy := [], frames := [], staged := [], waiting := [] } ∧ t.dev.errq.next = (s.dev.errq.next + 1) % 2 ^ 32 ∧ t = { s with dev := { latch s with sw := t.dev.sw, errq := t.dev.errq, tel := t.dev.tel, mbx := t.dev.mbx, ports := t.dev.ports, out := t.dev.out } }) ∧
    (∀ (s : State), (.galleyAutoRestart : Instr).wellFormed = true → Serving s → rf s.dev 0x04C00018 0 1 = 0 →
      exec (.galleyAutoRestart) s = .next { s with dev := { latch s with galleys := s.dev.galleys.map (fun g => (g.1, { g.2 with restart := false })) } }) ∧
    (∀ (s : State) (k : Nat) (x : Galley), (.galleyAutoRestart : Instr).wellFormed = true → Serving s → rf s.dev 0x04C00018 0 1 = 1 → nextRestart s.dev = some k → tget? s.dev.galleys k = some x → x.state = 0 → x.done = [] →
      ∃ t, exec (.galleyAutoRestart) s = .next t ∧ t.dev.galleys = tput s.dev.galleys k { x with state := 1, restart := false } ∧ t = { s with dev := { latch s with galleys := t.dev.galleys, reads := t.dev.reads, fab := t.dev.fab, ports := t.dev.ports, rates := t.dev.rates } })

/-- Through a port that may use the doorbell page: an acceptable tail value becomes CMD_TAIL, one behind CMD_HEAD is only counted in DROPPED, and one too far ahead halts a RUNNING galley with cause 1, a GALLEY record formed; an acceptable head becomes PROOF_HEAD and another is only counted; START runs a STOPPED galley; STOP drains a RUNNING one, which is STOPPED at once when nothing of it is in flight; with ABORT a waiting command ends with its status 0x51; CLEAR_HALT releases a HALTED galley; reading DROPPED clears it. Another port only adds to DROPPED. COAL_US raises the interrupt of pending proofs. Nothing else changes. -/
def Obligations.GalleyDoorbell : Prop :=
    (∀ (s : State) (port ctx g v : Nat), (.cmdTailWrite port ctx g v : Instr).wellFormed = true → Serving s → galleyExists s.dev ctx g = true → doorbellOk s.dev port ctx g = true → (galleyOf s.dev ctx g).state ≠ 4 → cdiff (v % 2 ^ 32) (galleyOf s.dev ctx g).cmdTail ≤ (galleyOf s.dev ctx g).cmdSlots - cdiff (galleyOf s.dev ctx g).cmdTail (galleyOf s.dev ctx g).cmdHead →
      exec (.cmdTailWrite port ctx g v) s = .next { s with dev := { latch s with galleys := tput s.dev.galleys (gkey ctx g) { galleyOf s.dev ctx g with cmdTail := v % 2 ^ 32 } } }) ∧
    (∀ (s : State) (port ctx g v : Nat), (.cmdTailWrite port ctx g v : Instr).wellFormed = true → Serving s → galleyExists s.dev ctx g = true → doorbellOk s.dev port ctx g = false →
      exec (.cmdTailWrite port ctx g v) s = .next { s with dev := { latch s with galleys := tput s.dev.galleys (gkey ctx g) { galleyOf s.dev ctx g with dropped := min 0xFFFFFFFF ((galleyOf s.dev ctx g).dropped + 1) } } }) ∧
    (∀ (s : State) (port ctx g v : Nat), (.cmdTailWrite port ctx g v : Instr).wellFormed = true → Serving s → galleyExists s.dev ctx g = true → doorbellOk s.dev port ctx g = true → (galleyOf s.dev ctx g).state ≠ 4 → (galleyOf s.dev ctx g).cmdSlots - cdiff (galleyOf s.dev ctx g).cmdTail (galleyOf s.dev ctx g).cmdHead < cdiff (v % 2 ^ 32) (galleyOf s.dev ctx g).cmdTail → cdiff (v % 2 ^ 32) (galleyOf s.dev ctx g).cmdHead < cdiff (galleyOf s.dev ctx g).cmdTail (galleyOf s.dev ctx g).cmdHead →
      exec (.cmdTailWrite port ctx g v) s = .next { s with dev := { latch s with galleys := tput s.dev.galleys (gkey ctx g) { galleyOf s.dev ctx g with dropped := min 0xFFFFFFFF ((galleyOf s.dev ctx g).dropped + 1) } } }) ∧
    (∀ (s : State) (port ctx g v : Nat), (.cmdTailWrite port ctx g v : Instr).wellFormed = true → Serving s → galleyExists s.dev ctx g = true → doorbellOk s.dev port ctx g = true → (galleyOf s.dev ctx g).state = 1 → (galleyOf s.dev ctx g).cmdSlots - cdiff (galleyOf s.dev ctx g).cmdTail (galleyOf s.dev ctx g).cmdHead < cdiff (v % 2 ^ 32) (galleyOf s.dev ctx g).cmdTail → cdiff (galleyOf s.dev ctx g).cmdTail (galleyOf s.dev ctx g).cmdHead ≤ cdiff (v % 2 ^ 32) (galleyOf s.dev ctx g).cmdHead → openOf s.dev.errq 10 (8 * ctx + g) = none →
      ∃ t, exec (.cmdTailWrite port ctx g v) s = .next t ∧ galleyOf t.dev ctx g = { galleyOf s.dev ctx g with state := 3, haltCause := 1, haltStatus := 0, dropped := min 0xFFFFFFFF ((galleyOf s.dev ctx g).dropped + 1), pending := 0 } ∧ t.dev.errq.next = (s.dev.errq.next + 1) % 2 ^ 32 ∧ t = { s with dev := { latch s with galleys := t.dev.galleys, errq := t.dev.errq, tel := t.dev.tel, mbx := t.dev.mbx, ports := t.dev.ports, out := t.dev.out } }) ∧
    (∀ (s : State) (port ctx g v : Nat), (.proofHeadWrite port ctx g v : Instr).wellFormed = true → Serving s → galleyExists s.dev ctx g = true → doorbellOk s.dev port ctx g = true → (galleyOf s.dev ctx g).state ≠ 4 → cdiff (v % 2 ^ 32) (galleyOf s.dev ctx g).proofHead ≤ cdiff (galleyOf s.dev ctx g).proofTail (galleyOf s.dev ctx g).proofHead →
      exec (.proofHeadWrite port ctx g v) s = .next { s with dev := { latch s with galleys := tput s.dev.galleys (gkey ctx g) { galleyOf s.dev ctx g with proofHead := v % 2 ^ 32 } } }) ∧
    (∀ (s : State) (port ctx g v : Nat), (.proofHeadWrite port ctx g v : Instr).wellFormed = true → Serving s → galleyExists s.dev ctx g = true → doorbellOk s.dev port ctx g = true → (galleyOf s.dev ctx g).state ≠ 4 → cdiff (galleyOf s.dev ctx g).proofTail (galleyOf s.dev ctx g).proofHead < cdiff (v % 2 ^ 32) (galleyOf s.dev ctx g).proofHead →
      exec (.proofHeadWrite port ctx g v) s = .next { s with dev := { latch s with galleys := tput s.dev.galleys (gkey ctx g) { galleyOf s.dev ctx g with dropped := min 0xFFFFFFFF ((galleyOf s.dev ctx g).dropped + 1) } } }) ∧
    (∀ (s : State) (port ctx g : Nat), (.galleyStart port ctx g : Instr).wellFormed = true → Serving s → galleyExists s.dev ctx g = true → doorbellOk s.dev port ctx g = true → (galleyOf s.dev ctx g).state = 0 →
      exec (.galleyStart port ctx g) s = .next { s with dev := { freshGalley (latch s) ctx g with galleys := tput s.dev.galleys (gkey ctx g) { galleyOf s.dev ctx g with state := 1, restart := false } } }) ∧
    (∀ (s : State) (port ctx g : Nat), (.galleyStop port ctx g : Instr).wellFormed = true → Serving s → galleyExists s.dev ctx g = true → doorbellOk s.dev port ctx g = true → (galleyOf s.dev ctx g).state = 1 →
      exec (.galleyStop port ctx g) s = .next { s with dev := { latch s with galleys := tput s.dev.galleys (gkey ctx g) { galleyOf s.dev ctx g with state := if inFlight s.dev ctx g = 0 ∧ (galleyOf s.dev ctx g).done = [] then 0 else 2 } } }) ∧
    (∀ (s : State) (port ctx g tag : Nat) (c : Cmd), (.galleyStopAbort port ctx g : Instr).wellFormed = true → Serving s → galleyExists s.dev ctx g = true → doorbellOk s.dev port ctx g = true → (galleyOf s.dev ctx g).state = 1 → (galleyOf s.dev ctx g).done = [] → flightTags s.dev ctx g = [tag] → cmdOf s.dev tag = some c → c.ctx = ctx → c.g = g → c.waiting = true → c.opcode ≠ 8 ∨ bitOf (c.f 34 1) 1 = false ∨ 2 ^ 40 ≤ c.pos → owes s.dev (.cmd tag) = false →
      ∃ t, exec (.galleyStopAbort port ctx g) s = .next t ∧ cmdOf t.dev tag = some { c with phase := 3, status := 0x51, detail := 0, digest := if c.opcode = 0x28 then c.digest else 0, finish := s.clk.time, partialOut := c.partialOut || decide (0 < c.writes) } ∧ galleyOf t.dev ctx g = { galleyOf s.dev ctx g with state := 2, done := [tag] } ∧ t = { s with dev := { letGo (latch s) tag c with cmds := t.dev.cmds, galleys := t.dev.galleys } }) ∧
    (∀ (s : State) (port ctx g : Nat), (.clearHalt port ctx g : Instr).wellFormed = true → Serving s → galleyExists s.dev ctx g = true → doorbellOk s.dev port ctx g = true → (galleyOf s.dev ctx g).state = 3 → (galleyOf s.dev ctx g).done = [] →
      exec (.clearHalt port ctx g) s = .next { s with dev := { latch s with galleys := tput s.dev.galleys (gkey ctx g) { galleyOf s.dev ctx g with state := if inFlight s.dev ctx g = 0 then 0 else 2, holding := false }, errq := (closeErr s.dev 10 (8 * ctx + g) 2).errq } }) ∧
    (∀ (s : State) (port ctx g : Nat), (.droppedRead port ctx g : Instr).wellFormed = true → Serving s → galleyExists s.dev ctx g = true → doorbellOk s.dev port ctx g = true → devState s.dev ≠ 0 →
      exec (.droppedRead port ctx g) s = .next { s with dev := { latch s with galleys := tput s.dev.galleys (gkey ctx g) { galleyOf s.dev ctx g with dropped := 0 }, out := .readData port (0x100018 + ctx * 0x1000 + g * 0x40) (leBytes 4 (galleyOf s.dev ctx g).dropped) :: s.dev.out } }) ∧
    (∀ (s : State) (ctx g : Nat), (.coalTimerExpire ctx g : Instr).wellFormed = true → Serving s → galleyExists s.dev ctx g = true → (galleyOf s.dev ctx g).irqEn = true → 0 < (galleyOf s.dev ctx g).pending → fieldAt (galleyOf s.dev ctx g).applied 36 4 ≠ 0 →
      ∃ t, exec (.coalTimerExpire ctx g) s = .next t ∧ galleyOf t.dev ctx g = { galleyOf s.dev ctx g with pending := 0 } ∧ tget t.dev.tel (0x500000 + (galleyOf s.dev ctx g).home * 0x100000 + 0x1128) 0 = (tget s.dev.tel (0x500000 + (galleyOf s.dev ctx g).home * 0x100000 + 0x1128) 0 + 1) % 2 ^ 64 ∧ t = { s with dev := { latch s with galleys := t.dev.galleys, tel := t.dev.tel, ports := t.dev.ports, out := t.dev.out } })

/-- COMMAND_FETCH of a floe that is ON gives the next entry of the galley whose turn it is a free tag: the command holds the 64 bytes read from the ring, its context, galley and index, starts at the device time, and CMD_HEAD advances. With no tag free the command unit waits; a free tag goes to the unit that waits whose turn it is, in ascending floe order after the one last granted, and its wait is counted. TAIL_SHADOW_POLL takes an acceptable value read from the tail word as CMD_TAIL. A command held by AFTER_PREV starts once no earlier one of its galley holds a tag. A deadline that passes marks the units as late. FENCE waits for what it covers, and completes when each of those has written its proof; NOP completes at once. IMPRESS without the IMPRESS right fails with RIGHTS_FAULT; under a SOURCE that takes it, it is a mark and its proof carries the count. -/
def Obligations.CommandsInOrder : Prop :=
    (∀ (s : State) (f ctx g : Nat) (far : Far) (w : W) (b : Bytes), (.commandFetch f far : Instr).wellFormed = true → Serving s → floeOn s.dev f = true → devState s.dev ≠ 15 → g < 8 → pickGalley (countStalls (latch s) f) f = some (gkey ctx g) → 0 < freeTags (countStalls (latch s) f) → (W.start (countStalls (latch s) f) far ctx (ctxOf s.dev ctx).gen (unitWho (countStalls (latch s) f) ctx g)).read (fieldAt (galleyOf s.dev ctx g).ringPar 0 8 + 64 * ((galleyOf s.dev ctx g).cmdHead % (galleyOf s.dev ctx g).cmdSlots)) 64 = (w, b) → w.ok = true → w.d.galleys = s.dev.galleys → w.d.cmds = [] → w.d.order = s.dev.order → w.d.tagWait = [] → w.d.tagHeld = [] → w.d.boot = s.dev.boot → w.d.errq.due = [] → w.d.sw.seen = [] → galleyExists s.dev ctx g = true → fieldAt b 0 1 = 0x3A → fieldAt b 1 1 = 0 → fieldAt b 2 2 = 0 → allZero (slice b 16 16) = true → fieldAt b 8 8 = 0 →
      ∃ t, exec (.commandFetch f far) s = .next t ∧ galleyOf t.dev ctx g = { galleyOf s.dev ctx g with cmdHead := ((galleyOf s.dev ctx g).cmdHead + 1) % 2 ^ 32 } ∧ (∃ tag c, tag < 4096 ∧ cmdOf t.dev tag = some c ∧ c.entry = b ∧ c.ctx = ctx ∧ c.g = g ∧ c.index = (galleyOf s.dev ctx g).cmdHead ∧ c.start = w.d.now ∧ c.phase = 1) ∧ t.clk = s.clk) ∧
    (∀ (s : State) (f k : Nat) (far : Far), (.commandFetch f far : Instr).wellFormed = true → Serving s → floeOn s.dev f = true → devState s.dev ≠ 15 → pickGalley (countStalls (latch s) f) f = some k → freeTags (countStalls (latch s) f) = 0 →
      exec (.commandFetch f far) s = .next { s with dev := { countStalls (latch s) f with tagWait := [f], rates := tput (countStalls (latch s) f).rates (4 * 2 ^ 60 + f) (s.clk.time, 0) } }) ∧
    (∀ (s : State) (f g : Nat) (far : Far), (.commandFetch g far : Instr).wellFormed = true → s.dev.boot.held = false → s.dev.errq.due = [] → s.dev.sw.seen = [] → floeOn s.dev g = false → s.dev.tagHeld = [] → s.dev.tagWait.all (fun x => floeOn s.dev x && !(fetchable (latch s) x).isEmpty) = true → nextWait s.dev = some f → freeTags s.dev = 1 →
      exec (.commandFetch g far) s = .next { s with dev := { endWait (latch s) f with tagHeld := [f], tagLast := f } }) ∧
    (∀ (s : State) (ctx g : Nat) (far : Far) (w : W) (b : Bytes), (.tailShadowPoll ctx g far : Instr).wellFormed = true → Serving s → galleyExists s.dev ctx g = true → (galleyOf s.dev ctx g).state = 1 → bitOf (fieldAt (galleyOf s.dev ctx g).par 27 1) 1 = true → floeOn s.dev (galleyOf s.dev ctx g).home = true → (W.start (latch s) far ctx (ctxOf s.dev ctx).gen (unitWho (latch s) ctx g)).read (fieldAt (galleyOf s.dev ctx g).par 16 8) 8 = (w, b) → w.ok = true → w.d.galleys = s.dev.galleys → w.d.boot = s.dev.boot → w.d.errq.due = [] → w.d.sw.seen = [] → w.d.tagWait = [] → w.d.tagHeld = [] → cdiff (fieldAt b 0 4) (galleyOf s.dev ctx g).cmdTail ≤ (galleyOf s.dev ctx g).cmdSlots - cdiff (galleyOf s.dev ctx g).cmdTail (galleyOf s.dev ctx g).cmdHead →
      exec (.tailShadowPoll ctx g far) s = .next { s with dev := { w.d with galleys := tput s.dev.galleys (gkey ctx g) { galleyOf s.dev ctx g with cmdTail := fieldAt b 0 4 % 2 ^ 32 } } }) ∧
    (∀ (s : State) (tag : Nat) (c : Cmd), (.afterPrevStart tag : Instr).wellFormed = true → Serving s → cmdOf s.dev tag = some c → c.phase = 0 → hasEarlier s.dev c = false → okStatus c.status = true →
      exec (.afterPrevStart tag) s = .next { s with dev := { latch s with cmds := tput s.dev.cmds tag { c with phase := 1 } } }) ∧
    (∀ (s : State) (tag : Nat) (c : Cmd), (.afterPrevStart tag : Instr).wellFormed = true → Serving s → cmdOf s.dev tag = some c → c.phase = 0 → hasEarlier s.dev c = false → okStatus c.status = false → c.opcode ≠ 8 ∨ bitOf (c.f 34 1) 1 = false ∨ 2 ^ 40 ≤ c.pos → owes s.dev (.cmd tag) = false → galleyExists s.dev c.ctx c.g = true → (galleyOf s.dev c.ctx c.g).done = [] →
      ∃ t, exec (.afterPrevStart tag) s = .next t ∧ cmdOf t.dev tag = some { c with phase := 3, finish := s.clk.time, digest := if c.opcode = 0x28 then c.digest else 0, partialOut := c.partialOut || decide (0 < c.writes) } ∧ (galleyOf t.dev c.ctx c.g).done = [tag] ∧ t = { s with dev := { letGo (latch s) tag c with cmds := t.dev.cmds, galleys := t.dev.galleys } }) ∧
    (∀ (s : State) (tag : Nat) (units : List Nat) (c : Cmd), (.deadlineExpire tag units : Instr).wellFormed = true → Serving s → cmdOf s.dev tag = some c → c.f 8 8 ≠ 0 → c.phase ≠ 3 → c.opcode ≠ 0x28 →
      exec (.deadlineExpire tag units) s = .next { s with dev := { latch s with cmds := tput s.dev.cmds tag { c with late := c.late ++ units.filter (fun u => !c.late.contains u), allLate := c.allLate || c.waiting } } }) ∧
    (∀ (s : State) (tag : Nat) (c : Cmd), (.fence tag : Instr).wellFormed = true → Serving s → cmdOf s.dev tag = some c → c.phase = 1 → c.opcode = 0x38 →
      exec (.fence tag) s = .next { s with dev := { latch s with cmds := tput s.dev.cmds tag { c with phase := 2 } } }) ∧
    (∀ (s : State) (tag : Nat) (c : Cmd), (.fenceComplete tag : Instr).wellFormed = true → Serving s → cmdOf s.dev tag = some c → c.opcode = 0x38 → c.phase = 2 → floeOn s.dev c.floe = true → owes s.dev (.cmd tag) = false → galleyExists s.dev c.ctx c.g = true → (galleyOf s.dev c.ctx c.g).done = [] → c.covers.all (coveredDone s.dev) = true → okStatus c.status = true →
      ∃ t, exec (.fenceComplete tag) s = .next t ∧ cmdOf t.dev tag = some { c with phase := 3, finish := s.clk.time } ∧ (galleyOf t.dev c.ctx c.g).done = [tag] ∧ t = { s with dev := { letGo (latch s) tag c with cmds := t.dev.cmds, galleys := t.dev.galleys } }) ∧
    (∀ (s : State) (tag : Nat) (c : Cmd), (.nop tag : Instr).wellFormed = true → Serving s → cmdOf s.dev tag = some c → c.opcode = 0x3A → c.phase = 1 → floeOn s.dev c.floe = true → owes s.dev (.cmd tag) = false → galleyExists s.dev c.ctx c.g = true → (galleyOf s.dev c.ctx c.g).done = [] → okStatus c.status = true →
      ∃ t, exec (.nop tag) s = .next t ∧ cmdOf t.dev tag = some { c with phase := 3, finish := s.clk.time } ∧ (galleyOf t.dev c.ctx c.g).done = [tag] ∧ t = { s with dev := { letGo (latch s) tag c with cmds := t.dev.cmds, galleys := t.dev.galleys } }) ∧
    (∀ (s : State) (tag : Nat) (c : Cmd), (.impress tag : Instr).wellFormed = true → Serving s → cmdOf s.dev tag = some c → c.opcode = 0x39 → c.phase = 1 → floeOn s.dev c.floe = true → owes s.dev (.cmd tag) = false → galleyExists s.dev c.ctx c.g = true → (galleyOf s.dev c.ctx c.g).done = [] → bitOf (fieldAt (galleyOf s.dev c.ctx c.g).ringPar 27 1) 2 = false →
      ∃ t, exec (.impress tag) s = .next t ∧ cmdOf t.dev tag = some { c with phase := 3, finish := s.clk.time, status := 0x11, detail := 0, digest := 0, partialOut := c.partialOut || decide (0 < c.writes) } ∧ (galleyOf t.dev c.ctx c.g).done = [tag] ∧ t = { s with dev := { letGo (latch s) tag c with cmds := t.dev.cmds, galleys := t.dev.galleys } }) ∧
    (∀ (s : State) (tag : Nat) (c : Cmd), (.impress tag : Instr).wellFormed = true → Serving s → cmdOf s.dev tag = some c → c.opcode = 0x39 → c.phase = 1 → floeOn s.dev c.floe = true → owes s.dev (.cmd tag) = false → galleyExists s.dev c.ctx c.g = true → (galleyOf s.dev c.ctx c.g).done = [] → bitOf (fieldAt (galleyOf s.dev c.ctx c.g).ringPar 27 1) 2 = true → imprSource s.dev = 1 ∨ imprSource s.dev = 2 → okStatus c.status = true → s.clk.count = 0 ∨ s.clk.last + 1000 * rf s.dev 0x04A04008 0 16 ≤ s.clk.time →
      ∃ t, exec (.impress tag) s = .next t ∧ cmdOf t.dev tag = some { c with phase := 3, finish := s.clk.time, start := s.clk.time, count := t.clk.count % 2 ^ 32 } ∧ (galleyOf t.dev c.ctx c.g).done = [tag] ∧ t.clk.count = (s.clk.count + 1) % 2 ^ 64 ∧ t.clk.last = s.clk.time ∧ t = { s with clk := t.clk, dev := { letGo (latch s) tag c with cmds := t.dev.cmds, galleys := t.dev.galleys, force := t.dev.force, boot := t.dev.boot } })

/-- PROOF_WRITE of the oldest completed command of a galley with no proof in flight, where the slot's address lies in a range with the right W, in a page of the stack or bulk tier held by the cache slice, stores the 64 proof bytes as that line and leaves every other line of memory and of the slice as it was. Its acknowledgement, once nothing is owed to it, advances PROOF_TAIL, returns the tag to the pool, and stops a draining galley with nothing left in flight. -/
def Obligations.Proofs : Prop :=
    (∀ (s : State) (ctx g tag u i : Nat) (rest : List Nat) (c : Cmd) (r : Range), (.proofWrite ctx g : Instr).wellFormed = true → Serving s → galleyExists s.dev ctx g = true → (galleyOf s.dev ctx g).proofBusy = false → (galleyOf s.dev ctx g).holding = false → (galleyOf s.dev ctx g).done = tag :: rest → cmdOf s.dev tag = some c → findRange s.dev ctx (ctxOf s.dev ctx).gen (fieldAt (galleyOf s.dev ctx g).ringPar 8 8 + 64 * ((galleyOf s.dev ctx g).proofTail % (galleyOf s.dev ctx g).proofSlots)) = some (i, r) → r.w = true → u = r.uni + (fieldAt (galleyOf s.dev ctx g).ringPar 8 8 + 64 * ((galleyOf s.dev ctx g).proofTail % (galleyOf s.dev ctx g).proofSlots) - r.start) → (pageOf s.dev (u / 65536)).tier = 1 ∨ (pageOf s.dev (u / 65536)).tier = 2 → (pageOf s.dev (u / 65536)).durable = false → (pageOf s.dev (u / 65536)).packed = false → (pageOf s.dev (u / 65536)).twin = false → floeOn s.dev (homeFloe (u / 65536)) = true → tget? s.dev.dir (u / 64) = none → thas s.dev.cache (u / 64) = true → (pageOf s.dev (u / 65536)).noPack = false → SoundLine s.dev (u / 64) → mustHold s.dev (.proof ctx g) (u / 64) false = false →
      ∃ t, exec (.proofWrite ctx g) s = .next t ∧ t.dev.cache = tput s.dev.cache (u / 64) ⟨proofBytes c tag (galleyOf s.dev ctx g).proofTail (galleyOf s.dev ctx g).proofSlots, true⟩ ∧ galleyOf t.dev ctx g = { galleyOf s.dev ctx g with proofBusy := true } ∧ t.dev.recent = (useLine s.dev (u / 64)).recent ∧ t = { s with dev := { latch s with cache := t.dev.cache, galleys := t.dev.galleys, tel := t.dev.tel, recent := t.dev.recent, sliceFlips := t.dev.sliceFlips } }) ∧
    (∀ (s : State) (ctx g tag : Nat) (rest : List Nat) (c : Cmd), (.proofWriteAck ctx g : Instr).wellFormed = true → Serving s → galleyExists s.dev ctx g = true → (galleyOf s.dev ctx g).proofBusy = true → (galleyOf s.dev ctx g).irqEn = false → (galleyOf s.dev ctx g).done = tag :: rest → owes s.dev (.proof ctx g) = false → cmdOf s.dev tag = some c →
      ∃ t, exec (.proofWriteAck ctx g) s = .next t ∧ cmdOf t.dev tag = none ∧ (galleyOf t.dev ctx g).done = rest ∧ (galleyOf t.dev ctx g).proofBusy = false ∧ (galleyOf t.dev ctx g).proofTail = ((galleyOf s.dev ctx g).proofTail + 1) % 2 ^ 32 ∧ (galleyOf t.dev ctx g).applied = (galleyOf s.dev ctx g).par ∧ (galleyOf t.dev ctx g).state = (if (galleyOf s.dev ctx g).state = 2 ∧ rest = [] ∧ inFlight t.dev ctx g = 0 then 0 else (galleyOf s.dev ctx g).state) ∧ t.dev.fab = (passAcks s.dev tag c).fab ∧ t.dev.ports = (passAcks s.dev tag c).ports ∧ t = { s with dev := { latch s with cmds := t.dev.cmds, cores := t.dev.cores, errq := t.dev.errq, galleys := t.dev.galleys, tel := t.dev.tel, fab := t.dev.fab, ports := t.dev.ports } })

/-- A ready command whose reads and writes all succeed completes with the count, digest and status that its work gives, its proof takes its place in the galley, and nothing changes but what its reads and writes change: so ATTEND, ATTEND_MERGE and GATHER. SCATTER_GRAD applies the merged gradients row by row; a change that waits goes on when it is resumed. A ROW_REPLACE with COMMIT and no rows waits to commit, and one whose GEN is not the next generation ends with GEN_STALE and the current one in RESULT_COUNT. The commit makes GEN the current generation; with nothing pinned and an empty change log the old one retires at once with event 0x0008. -/
def Obligations.AttentionAndTables : Prop :=
    (∀ (s : State) (tag : Nat) (c : Cmd) (far : Far) (w : W), (.attend tag far : Instr).wellFormed = true → Serving s → cmdOf s.dev tag = some c → c.opcode = 0x01 → c.phase = 2 → floeOn s.dev c.floe = true → (attendBody c (W.start (latch s) far c.ctx c.gen (c.who tag 4))).1 = w → w.ok = true → okStatus ((attendBody c (W.start (latch s) far c.ctx c.gen (c.who tag 4))).2 { c with phase := 4 }).status = true → cmdOf w.d tag = some c → owes w.d (.cmd tag) = false → galleyExists w.d c.ctx c.g = true → (galleyOf w.d c.ctx c.g).done = [] → w.d.boot = s.dev.boot → w.d.errq.due = [] → w.d.tagWait = [] → w.d.tagHeld = [] → w.d.sw.seen = [] → c.cores.all (firmwareCore s.dev) = true →
      ∃ t, exec (.attend tag far) s = .next t ∧ cmdOf t.dev tag = some { ((attendBody c (W.start (latch s) far c.ctx c.gen (c.who tag 4))).2 { c with phase := 4 }) with phase := 3, finish := w.d.now, writes := ((attendBody c (W.start (latch s) far c.ctx c.gen (c.who tag 4))).2 { c with phase := 4 }).writes + w.wrote } ∧ (galleyOf t.dev c.ctx c.g).done = [tag] ∧ t = { s with dev := { letGo w.d tag ((attendBody c (W.start (latch s) far c.ctx c.gen (c.who tag 4))).2 { c with phase := 4 }) with cmds := t.dev.cmds, galleys := t.dev.galleys } }) ∧
    (∀ (s : State) (tag : Nat) (c : Cmd) (far : Far), (.attend tag far : Instr).wellFormed = true → Serving s → cmdOf s.dev tag = some c → c.opcode = 0x01 → c.phase = 1 → s.dev.runq.contains tag = false → canAssign { s.dev with runq := insertRun s.dev.cmds c.start tag s.dev.runq } tag c = false →
      exec (.attend tag far) s = .next { s with dev := { latch s with runq := insertRun s.dev.cmds c.start tag s.dev.runq } }) ∧
    (∀ (s : State) (tag : Nat) (c : Cmd) (far : Far) (w : W), (.attendMerge tag far : Instr).wellFormed = true → Serving s → cmdOf s.dev tag = some c → c.opcode = 0x02 → c.phase = 1 → floeOn s.dev c.floe = true → (mergeBody c (W.start (latch s) far c.ctx c.gen (c.who tag 4))).1 = w → w.ok = true → okStatus ((mergeBody c (W.start (latch s) far c.ctx c.gen (c.who tag 4))).2 { c with phase := 4 }).status = true → cmdOf w.d tag = some c → owes w.d (.cmd tag) = false → galleyExists w.d c.ctx c.g = true → (galleyOf w.d c.ctx c.g).done = [] → w.d.boot = s.dev.boot → w.d.errq.due = [] → w.d.tagWait = [] → w.d.tagHeld = [] → w.d.sw.seen = [] →
      ∃ t, exec (.attendMerge tag far) s = .next t ∧ cmdOf t.dev tag = some { ((mergeBody c (W.start (latch s) far c.ctx c.gen (c.who tag 4))).2 { c with phase := 4 }) with phase := 3, finish := w.d.now, writes := ((mergeBody c (W.start (latch s) far c.ctx c.gen (c.who tag 4))).2 { c with phase := 4 }).writes + w.wrote } ∧ (galleyOf t.dev c.ctx c.g).done = [tag] ∧ t = { s with dev := { letGo w.d tag ((mergeBody c (W.start (latch s) far c.ctx c.gen (c.who tag 4))).2 { c with phase := 4 }) with cmds := t.dev.cmds, galleys := t.dev.galleys } }) ∧
    (∀ (s : State) (tag : Nat) (c : Cmd) (far : Far) (w : W), (.gather tag far : Instr).wellFormed = true → Serving s → cmdOf s.dev tag = some c → c.opcode = 0x08 → c.phase = 1 → floeOn s.dev c.floe = true → (gatherBody c (W.start (latch s) far c.ctx c.gen (c.who tag 4))).1 = w → w.ok = true → okStatus ((gatherBody c (W.start (latch s) far c.ctx c.gen (c.who tag 4))).2 { c with phase := 4 }).status = true → cmdOf w.d tag = some c → owes w.d (.cmd tag) = false → galleyExists w.d c.ctx c.g = true → (galleyOf w.d c.ctx c.g).done = [] → w.d.boot = s.dev.boot → w.d.errq.due = [] → w.d.tagWait = [] → w.d.tagHeld = [] → w.d.sw.seen = [] → bitOf (c.f 34 1) 1 = false →
      ∃ t, exec (.gather tag far) s = .next t ∧ cmdOf t.dev tag = some { ((gatherBody c (W.start (latch s) far c.ctx c.gen (c.who tag 4))).2 { c with phase := 4 }) with phase := 3, finish := w.d.now, writes := ((gatherBody c (W.start (latch s) far c.ctx c.gen (c.who tag 4))).2 { c with phase := 4 }).writes + w.wrote } ∧ (galleyOf t.dev c.ctx c.g).done = [tag] ∧ t = { s with dev := { letGo w.d tag ((gatherBody c (W.start (latch s) far c.ctx c.gen (c.who tag 4))).2 { c with phase := 4 }) with cmds := t.dev.cmds, galleys := t.dev.galleys } }) ∧
    (∀ (s : State) (tag : Nat) (c : Cmd) (far : Far) (w : W), (.gather tag far : Instr).wellFormed = true → Serving s → cmdOf s.dev tag = some c → c.opcode = 0x08 → c.phase = 1 → floeOn s.dev c.floe = true → (gatherBody c (W.start (latch s) far c.ctx c.gen (c.who tag 4))).1 = w → w.ok = true → okStatus ((gatherBody c (W.start (latch s) far c.ctx c.gen (c.who tag 4))).2 { c with phase := 4 }).status = true → cmdOf w.d tag = some c → owes w.d (.cmd tag) = false → galleyExists w.d c.ctx c.g = true → (galleyOf w.d c.ctx c.g).done = [] → w.d.boot = s.dev.boot → w.d.errq.due = [] → w.d.tagWait = [] → w.d.tagHeld = [] → w.d.sw.seen = [] → bitOf (c.f 34 1) 1 = true → tabNum w.d (cmdTable w.d c).1 0 ≤ (((gatherBody c (W.start (latch s) far c.ctx c.gen (c.who tag 4))).2 { c with phase := 4 })).pos → tabNum w.d (cmdTable w.d c).1 9 = tabNum w.d (cmdTable w.d c).1 0 →
      ∃ t, exec (.gather tag far) s = .next t ∧ cmdOf t.dev tag = some { ((gatherBody c (W.start (latch s) far c.ctx c.gen (c.who tag 4))).2 { c with phase := 4 }) with phase := 3, finish := w.d.now, writes := ((gatherBody c (W.start (latch s) far c.ctx c.gen (c.who tag 4))).2 { c with phase := 4 }).writes + w.wrote } ∧ (galleyOf t.dev c.ctx c.g).done = [tag] ∧ t = { s with dev := { letGo w.d tag ((gatherBody c (W.start (latch s) far c.ctx c.gen (c.who tag 4))).2 { c with phase := 4 }) with cmds := t.dev.cmds, galleys := t.dev.galleys } }) ∧
    (∀ (s : State) (tag : Nat) (c : Cmd) (far : Far), (.scatterGrad tag far : Instr).wellFormed = true → Serving s → cmdOf s.dev tag = some c → c.phase = 1 → c.opcode = 0x09 → floeOn s.dev c.floe = true → (scatterStart (latch s) far tag).boot = s.dev.boot → (scatterStart (latch s) far tag).errq.due = [] → (scatterStart (latch s) far tag).tagWait = [] → (scatterStart (latch s) far tag).tagHeld = [] → (scatterStart (latch s) far tag).sw.seen = [] →
      exec (.scatterGrad tag far) s = .next { s with dev := scatterStart (latch s) far tag }) ∧
    (∀ (s : State) (tag : Nat) (c : Cmd) (far : Far) (w : W), (.rowChangeResume tag far : Instr).wellFormed = true → Serving s → cmdOf s.dev tag = some c → c.phase = 2 → c.opcode = 0x09 → floeOn s.dev c.floe = true → formeNow s.dev c = none → (retireAll (cmdTable s.dev c).1 4096 (cmdTable s.dev c).2 (W.start (latch s) far c.ctx c.gen (c.who tag 4))) = w → w.ok = true → (scatterRun (latch s) tag c w).boot = s.dev.boot → (scatterRun (latch s) tag c w).errq.due = [] → (scatterRun (latch s) tag c w).tagWait = [] → (scatterRun (latch s) tag c w).tagHeld = [] → (scatterRun (latch s) tag c w).sw.seen = [] →
      exec (.rowChangeResume tag far) s = .next { s with dev := scatterRun (latch s) tag c w }) ∧
    (∀ (s : State) (tag : Nat) (c : Cmd) (far : Far) (w : W), (.rowChangeResume tag far : Instr).wellFormed = true → Serving s → cmdOf s.dev tag = some c → c.phase = 2 → c.opcode = 0x0A → c.pos < c.f 36 4 → floeOn s.dev c.floe = true → formeNow s.dev c = none → (retireAll (cmdTable s.dev c).1 4096 (cmdTable s.dev c).2 (W.start (latch s) far c.ctx c.gen (c.who tag 4))) = w → w.ok = true → (replaceRun (latch s) tag c w).boot = s.dev.boot → (replaceRun (latch s) tag c w).errq.due = [] → (replaceRun (latch s) tag c w).tagWait = [] → (replaceRun (latch s) tag c w).tagHeld = [] → (replaceRun (latch s) tag c w).sw.seen = [] →
      exec (.rowChangeResume tag far) s = .next { s with dev := replaceRun (latch s) tag c w }) ∧
    (∀ (s : State) (tag : Nat) (c : Cmd) (far : Far), (.rowReplace tag far : Instr).wellFormed = true → Serving s → cmdOf s.dev tag = some c → c.phase = 1 → c.opcode = 0x0A → floeOn s.dev c.floe = true → formeNow s.dev c = none → c.commits = true → c.f 36 4 = 0 → tabNum s.dev (cmdTable s.dev c).1 0 ≠ 0xFFFFFFFF → c.f 60 4 = tabNum s.dev (cmdTable s.dev c).1 0 + 1 →
      ∃ t, exec (.rowReplace tag far) s = .next t ∧ cmdOf t.dev tag = some { c with phase := 2, blocks := [(0, [])], pos := 0 } ∧ t = { s with dev := { latch s with cmds := t.dev.cmds } }) ∧
    (∀ (s : State) (tag : Nat) (c : Cmd) (far : Far), (.rowReplace tag far : Instr).wellFormed = true → Serving s → cmdOf s.dev tag = some c → c.opcode = 0x0A → c.phase = 1 → floeOn s.dev c.floe = true → owes s.dev (.cmd tag) = false → galleyExists s.dev c.ctx c.g = true → (galleyOf s.dev c.ctx c.g).done = [] → formeNow s.dev c = none → c.commits = true → c.f 36 4 = 0 → tabNum s.dev (cmdTable s.dev c).1 0 ≠ 0xFFFFFFFF → c.f 60 4 ≠ tabNum s.dev (cmdTable s.dev c).1 0 + 1 →
      ∃ t, exec (.rowReplace tag far) s = .next t ∧ cmdOf t.dev tag = some { c with phase := 3, finish := s.clk.time, status := 0x34, count := tabNum s.dev (cmdTable s.dev c).1 0, digest := 0, partialOut := c.partialOut || decide (0 < c.writes) } ∧ (galleyOf t.dev c.ctx c.g).done = [tag] ∧ t = { s with dev := { letGo (latch s) tag c with cmds := t.dev.cmds, galleys := t.dev.galleys } }) ∧
    (∀ (s : State) (tag : Nat) (c : Cmd) (o : Obj), (.generationCommit tag : Instr).wellFormed = true → Serving s → cmdOf s.dev tag = some c → c.opcode = 0x0A → c.phase = 2 → floeOn s.dev c.floe = true → owes s.dev (.cmd tag) = false → galleyExists s.dev c.ctx c.g = true → (galleyOf s.dev c.ctx c.g).done = [] → formeNow s.dev c = none → c.commits = true → c.pos ≥ c.f 36 4 → okStatus c.status = true → earlierChanges s.dev c = false → objOf s.dev c.ctx (c.f 32 2) = some o → c.f 60 4 = tabNum s.dev (cmdTable s.dev c).1 0 + 1 → tabNum s.dev (cmdTable s.dev c).1 9 = tabNum s.dev (cmdTable s.dev c).1 0 → tabNum s.dev (cmdTable s.dev c).1 6 = tabNum s.dev (cmdTable s.dev c).1 7 → pinned s.dev (cmdTable s.dev c).1 4096 = [] →
      ∃ t, exec (.generationCommit tag) s = .next t ∧ cmdOf t.dev tag = some { c with phase := 3, finish := s.clk.time } ∧ (galleyOf t.dev c.ctx c.g).done = [tag] ∧ tabNum t.dev (cmdTable s.dev c).1 0 = c.f 60 4 ∧ tabNum t.dev (cmdTable s.dev c).1 9 = c.f 60 4 ∧ (objOf t.dev c.ctx (c.f 32 2)).map (·.par) = some o.par ∧ t = { s with dev := { letGo (latch s) tag c with cmds := t.dev.cmds, galleys := t.dev.galleys, objs := t.dev.objs, mbx := t.dev.mbx, tel := t.dev.tel, ports := t.dev.ports, out := t.dev.out, errq := t.dev.errq } })

/-- A ready SEARCH whose reads and writes all succeed completes with the count, digest and status that its work gives, and nothing changes but what its reads and writes change. An INDEX_DELETE whose list can be read works through it; one of a single live ID marks it deleted in its metadata, LIVE falls and DELETED and INDEX_VERSION advance by one, and it completes with RESULT_COUNT one higher. Once the writes of the last record of an INDEX_INSERT are acknowledged, the record is live: LIVE and INDEX_VERSION advance by one, the record is counted in RESULT_COUNT, and the command completes. With no search engine in service both fail with DOMAIN_OFF. -/
def Obligations.VectorSearch : Prop :=
    (∀ (s : State) (tag : Nat) (c : Cmd) (far : Far), (.search tag far : Instr).wellFormed = true → Serving s → cmdOf s.dev tag = some c → c.opcode = 0x10 → c.phase = 1 → floeOn s.dev c.floe = true → (searchBody tag c (W.start (latch s) far c.ctx c.gen (c.who tag 6))).1.ok = true → okStatus ((searchBody tag c (W.start (latch s) far c.ctx c.gen (c.who tag 6))).2 { c with phase := 4 }).status = true → cmdOf (searchBody tag c (W.start (latch s) far c.ctx c.gen (c.who tag 6))).1.d tag = some c → owes (searchBody tag c (W.start (latch s) far c.ctx c.gen (c.who tag 6))).1.d (.cmd tag) = false → galleyExists (searchBody tag c (W.start (latch s) far c.ctx c.gen (c.who tag 6))).1.d c.ctx c.g = true → (galleyOf (searchBody tag c (W.start (latch s) far c.ctx c.gen (c.who tag 6))).1.d c.ctx c.g).done = [] → (searchBody tag c (W.start (latch s) far c.ctx c.gen (c.who tag 6))).1.d.boot = s.dev.boot → (searchBody tag c (W.start (latch s) far c.ctx c.gen (c.who tag 6))).1.d.errq.due = [] → (searchBody tag c (W.start (latch s) far c.ctx c.gen (c.who tag 6))).1.d.tagWait = [] → (searchBody tag c (W.start (latch s) far c.ctx c.gen (c.who tag 6))).1.d.tagHeld = [] → (searchBody tag c (W.start (latch s) far c.ctx c.gen (c.who tag 6))).1.d.sw.seen = [] →
      ∃ t, exec (.search tag far) s = .next t ∧ cmdOf t.dev tag = some { ((searchBody tag c (W.start (latch s) far c.ctx c.gen (c.who tag 6))).2 { c with phase := 4 }) with phase := 3, finish := (searchBody tag c (W.start (latch s) far c.ctx c.gen (c.who tag 6))).1.d.now, writes := ((searchBody tag c (W.start (latch s) far c.ctx c.gen (c.who tag 6))).2 { c with phase := 4 }).writes + (searchBody tag c (W.start (latch s) far c.ctx c.gen (c.who tag 6))).1.wrote } ∧ (galleyOf t.dev c.ctx c.g).done = [tag] ∧ t = { s with dev := { letGo (searchBody tag c (W.start (latch s) far c.ctx c.gen (c.who tag 6))).1.d tag ((searchBody tag c (W.start (latch s) far c.ctx c.gen (c.who tag 6))).2 { c with phase := 4 }) with cmds := t.dev.cmds, galleys := t.dev.galleys } }) ∧
    (∀ (s : State) (tag : Nat) (c : Cmd) (far : Far) (w : W) (b : Bytes), (.indexDelete tag far : Instr).wellFormed = true → Serving s → cmdOf s.dev tag = some c → c.opcode = 0x12 → c.phase = 1 → c.blocks = [] → floeOn s.dev c.floe = true → owes s.dev (.cmd tag) = false → (W.start (latch s) far c.ctx c.gen (c.who tag 6)).read (c.f 40 8) (4 * c.f 36 4) = (w, b) → w.ok = true → (words4 b (c.f 36 4)).all (fun i => decide (i < (cmdIndex s.dev c).2.vectors)) = true → (deleteRun w.d tag { c with blocks := [(0, b)] } w).boot = s.dev.boot → (deleteRun w.d tag { c with blocks := [(0, b)] } w).errq.due = [] → (deleteRun w.d tag { c with blocks := [(0, b)] } w).tagWait = [] → (deleteRun w.d tag { c with blocks := [(0, b)] } w).tagHeld = [] → (deleteRun w.d tag { c with blocks := [(0, b)] } w).sw.seen = [] →
      exec (.indexDelete tag far) s = .next { s with dev := deleteRun w.d tag { c with blocks := [(0, b)] } w }) ∧
    (∀ (s : State) (tag i v : Nat) (c : Cmd) (far : Far) (w m y : W) (b : Bytes), (.indexDelete tag far : Instr).wellFormed = true → Serving s → cmdOf s.dev tag = some c → c.opcode = 0x12 → c.phase = 1 → c.blocks = [] → c.pos = 0 → c.f 36 4 = 1 → okStatus c.status = true → c.covers = [] → floeOn s.dev c.floe = true → owes s.dev (.cmd tag) = false → (W.start (latch s) far c.ctx c.gen (c.who tag 6)).read (c.f 40 8) 4 = (w, b) → w.ok = true → words4 b 1 = [i] → i < (cmdIndex s.dev c).2.vectors → readMeta w (cmdIndex s.dev c).2 i = (m, 1, v) → m.ok = true → idAwaited m.d 0x12 (cmdIndex s.dev c).1 c.order i = false → writeMeta m (cmdIndex s.dev c).2 i 2 v false = y → y.ok = true → owes y.d (.cmd tag) = false → cmdOf y.d tag = some c → w.d.objs = s.dev.objs → y.d.objs = s.dev.objs → y.d.boot = s.dev.boot → y.d.errq.due = [] → y.d.tagWait = [] → y.d.tagHeld = [] → y.d.sw.seen = [] → galleyExists y.d c.ctx c.g = true → (galleyOf y.d c.ctx c.g).done = [] → 0 < tabNum s.dev (cmdIndex s.dev c).1 1 → tabNum s.dev (cmdIndex s.dev c).1 2 < 2 ^ 32 - 1 → tabNum s.dev (cmdIndex s.dev c).1 3 < 2 ^ 32 - 1 → (tget? s.dev.objs (cmdIndex s.dev c).1).isSome = true →
      ∃ t, exec (.indexDelete tag far) s = .next t ∧ cmdOf t.dev tag = some { c with phase := 3, finish := y.d.now, pos := 1, count := c.count + 1, blocks := [(0, b)], writes := c.writes + y.wrote } ∧ tabNum t.dev (cmdIndex s.dev c).1 1 = tabNum s.dev (cmdIndex s.dev c).1 1 - 1 ∧ tabNum t.dev (cmdIndex s.dev c).1 2 = tabNum s.dev (cmdIndex s.dev c).1 2 + 1 ∧ tabNum t.dev (cmdIndex s.dev c).1 3 = tabNum s.dev (cmdIndex s.dev c).1 3 + 1 ∧ (galleyOf t.dev c.ctx c.g).done = [tag] ∧ t = { s with dev := { letGo y.d tag c with cmds := t.dev.cmds, galleys := t.dev.galleys, objs := t.dev.objs, tel := t.dev.tel } }) ∧
    (∀ (s : State) (tag : Nat) (c : Cmd) (far : Far) (o : Obj), (.indexInsert tag far : Instr).wellFormed = true → Serving s → cmdOf s.dev tag = some c → c.opcode = 0x11 → c.phase = 2 → floeOn s.dev c.floe = true → owes s.dev (.cmd tag) = false → galleyExists s.dev c.ctx c.g = true → (galleyOf s.dev c.ctx c.g).done = [] → c.pos = 2 * c.f 36 4 - 1 → 0 < c.f 36 4 → okStatus c.status = true → objOf s.dev c.ctx (c.f 32 2) = some o → tget o.nums 1 0 < 2 ^ 32 - 1 → tget o.nums 3 0 < 2 ^ 32 - 1 →
      ∃ t, exec (.indexInsert tag far) s = .next t ∧ cmdOf t.dev tag = some { c with phase := 3, finish := s.clk.time, pos := c.pos + 1, count := c.count + 1, covers := [] } ∧ (galleyOf t.dev c.ctx c.g).done = [tag] ∧ tabNum t.dev (cmdIndex s.dev c).1 1 = tget o.nums 1 0 + 1 ∧ tabNum t.dev (cmdIndex s.dev c).1 3 = tget o.nums 3 0 + 1 ∧ t = { s with dev := { letGo (latch s) tag c with cmds := t.dev.cmds, galleys := t.dev.galleys, objs := t.dev.objs, tel := t.dev.tel } }) ∧
    (∀ (s : State) (tag : Nat) (c : Cmd) (far : Far), (.indexInsert tag far : Instr).wellFormed = true → Serving s → cmdOf s.dev tag = some c → c.opcode = 0x11 → c.phase = 1 → floeOn s.dev c.floe = true → owes s.dev (.cmd tag) = false → galleyExists s.dev c.ctx c.g = true → (galleyOf s.dev c.ctx c.g).done = [] → enginesOn s.dev = [] →
      ∃ t, exec (.indexInsert tag far) s = .next t ∧ cmdOf t.dev tag = some { c with phase := 3, finish := s.clk.time, status := 0x40, detail := 0, digest := 0, partialOut := c.partialOut || decide (0 < c.writes) } ∧ (galleyOf t.dev c.ctx c.g).done = [tag] ∧ t = { s with dev := { letGo (latch s) tag c with cmds := t.dev.cmds, galleys := t.dev.galleys } })

/-- The end of a touch fault's DMA puts the bytes read into the page's new place in the stack or bulk tier, and the entry's version advances; an error fails the accesses that waited. The end of a packed decode puts the 64 lines of the block into the slice. A sweep outside a migration window is only noted; inside one it queues the page's move. The end of a copy swaps the entry to the destination with the same bytes; the release frees the source; a copy that takes too long is abandoned and counted. A flush of the slice writes its dirty line to the page's tier and keeps it clean. -/
def Obligations.PagesInUse : Prop :=
    (∀ (s : State) (page : Nat) (b : Bytes) (tf : Touch), (.touchFaultDmaDone page (.data b) : Instr).wellFormed = true → Serving s → s.dev.touches = [(page, tf)] → tf.queued = false → tf.waiters = [] → (pageOf s.dev page).tier = 4 → (pageOf s.dev page).mot = true → floeOn s.dev (homeFloe page) = true →
      ∃ t, exec (.touchFaultDmaDone page (.data b)) s = .next t ∧ t.dev.touches = [] ∧ t.dev.mem = memWrite (memClear s.dev.mem (page * 65536) 65536) (page * 65536) (slice b 0 65536) ∧ pageOf t.dev page = { (pageOf s.dev page) with tier := tf.tier, k := tf.k, mot := false, port := 0, haddr := 0, version := ((pageOf s.dev page).version + 1) % 65536 } ∧ t.dev.media = s.dev.media.filter (fun x => decide (x.1 / 1024 ≠ (homeFloe page * 2 + (tf.tier - 1)) * 2 ^ 24 + tf.k)) ∧ t = { s with dev := { latch s with touches := t.dev.touches, ports := t.dev.ports, out := t.dev.out, mem := t.dev.mem, media := t.dev.media, pages := t.dev.pages, plv := t.dev.plv } }) ∧
    (∀ (s : State) (page x : Nat) (o : Owner) (tf : Touch), (.touchFaultDmaDone page (.err x) : Instr).wellFormed = true → Serving s → s.dev.touches = [(page, tf)] → tf.queued = false → tf.waiters = [.engine o] → wantsRead s.dev o = true →
      ∃ t, exec (.touchFaultDmaDone page (.err x)) s = .next t ∧ t.dev.touches = [] ∧ t.dev.touched = s.dev.touched ++ [(page, o, 0x14)] ∧ t = { s with dev := { latch s with touches := t.dev.touches, ports := t.dev.ports, out := t.dev.out, touched := t.dev.touched } }) ∧
    (∀ (s : State) (page blk unit : Nat), (.packedDecodeDone page blk : Instr).wellFormed = true → Serving s → s.dev.packJobs = [⟨page, blk, unit, []⟩] → (pageOf s.dev page).packed = true → floeOn s.dev (homeFloe page) = true → s.dev.media = [] → s.dev.cache = [] → (unpackBlock (tget s.dev.packs page []) blk).fail = none →
      ∃ t, exec (.packedDecodeDone page blk) s = .next t ∧ (∀ i, i < 64 → tget? t.dev.cache (page * 1024 + blk * 64 + i) = some ⟨slice (unpackBlock (tget s.dev.packs page []) blk).out (64 * i) 64, false⟩) ∧ t.dev.cache.length = 64 ∧ t = { s with dev := { latch s with cache := t.dev.cache, counts := t.dev.counts, packJobs := t.dev.packJobs, recent := t.dev.recent, sliceFlips := t.dev.sliceFlips, tel := t.dev.tel, unitTag := t.dev.unitTag } }) ∧
    (∀ (s : State) (f : Nat), (.plcEpochSweep f : Instr).wellFormed = true → Serving s → rf s.dev (plcBase f) 0 1 = 1 → floeOn s.dev f = true → admits s.dev 6 = false →
      exec (.plcEpochSweep f) s = .next { s with dev := { latch s with sweep := tput s.dev.sweep f (curEpoch (latch s) f, 0) } }) ∧
    (∀ (s : State) (f page tg : Nat) (p : Page), (.plcEpochSweep f : Instr).wellFormed = true → Serving s → rf s.dev (plcBase f) 0 1 = 1 → floeOn s.dev f = true → suspended s.dev f = false → admits s.dev 6 = true → s.dev.pages = [(page, p)] → homeFloe page = f → p.tier = 1 ∨ p.tier = 2 → sweepTarget (countUsed (latch s) page) page = some tg → s.dev.moves = [] → s.dev.queue = [] →
      exec (.plcEpochSweep f) s = .next { s with dev := { countUsed (latch s) page with sweep := tdel s.dev.sweep f, queue := [(page, tg)] } }) ∧
    (∀ (s : State) (f page tg k : Nat), (.moveStart f : Instr).wellFormed = true → Serving s → admits s.dev 6 = true → floeOn s.dev f = true → autoOn s.dev f = true → movesOf s.dev f < 16 → s.dev.queue.find? (fun q => homeFloe q.1 = f) = some (page, tg) → thas s.dev.moves page = false → (pageOf s.dev page).tier = 1 ∨ (pageOf s.dev page).tier = 2 → (pageOf s.dev page).pinned = false → (pageOf s.dev page).durable = false → (pageOf s.dev page).mot = false → tg ≠ 5 → pickPage (latch s) f tg (fun _ => true) = some k →
      exec (.moveStart f) s = .next { s with dev := { latch s with queue := s.dev.queue.erase (page, tg), moves := tput s.dev.moves page (Move.pin tg k 0 0 none), free := s.dev.free + 1 } }) ∧
    (∀ (s : State) (f page tg k : Nat), (.moveStart f : Instr).wellFormed = true → Serving s → admits s.dev 6 = true → floeOn s.dev f = true → autoOn s.dev f = true → movesOf s.dev f < 16 → s.dev.queue.find? (fun q => homeFloe q.1 = f) = some (page, tg) → thas s.dev.moves page = false → (pageOf s.dev page).tier = 1 ∨ (pageOf s.dev page).tier = 2 → (pageOf s.dev page).pinned = false → (pageOf s.dev page).durable = false → (pageOf s.dev page).mot = false → tg = 5 → pickSectors { latch s with queue := s.dev.queue.erase (page, tg) } f (packMost (latch s) f) = some k →
      exec (.moveStart f) s = .next { s with dev := { latch s with queue := s.dev.queue.erase (page, tg), moves := tput s.dev.moves page (Move.pin 5 0 k (packMost (latch s) f) none), free := s.dev.free + 1 } }) ∧
    (∀ (s : State) (page : Nat) (m : Move), (.moveCopyDone page : Instr).wellFormed = true → Serving s → tget? s.dev.moves page = some m → m.swapped = false → m.tag = none → m.target = 1 ∨ m.target = 2 → floeRuns s.dev (homeFloe page) = true → (pageOf s.dev page).packed = false → s.dev.media = [] → Memory.wf s.dev.mem = true →
      ∃ t, exec (.moveCopyDone page) s = .next t ∧ t.dev.mem = s.dev.mem ∧ pageOf t.dev page = { (pageOf s.dev page) with tier := m.target, k := m.k, sector := 0, sectors := 0, node := 0, rpage := 0, port := 0, haddr := 0, mot := false, version := ((pageOf s.dev page).version + 1) % 65536 } ∧ t.dev.moves = tput s.dev.moves page { m with swapped := true, srcTier := (pageOf s.dev page).tier, srcK := (pageOf s.dev page).k, srcSector := 0, srcSectors := 0, sector := 0, sectors := 0, held := [] } ∧ t.dev.packs = tdel s.dev.packs page ∧ t = { s with dev := { latch s with pages := t.dev.pages, plv := t.dev.plv, packs := t.dev.packs, moves := t.dev.moves, tel := t.dev.tel } }) ∧
    (∀ (s : State) (page : Nat) (m : Move), (.moveRelease page : Instr).wellFormed = true → Serving s → tget? s.dev.moves page = some m → m.swapped = true →
      exec (.moveRelease page) s = .next { s with dev := { latch s with moves := tdel s.dev.moves page, media := if m.srcTier = 0 then s.dev.media else s.dev.media.filter (fun x => x.1 / 1024 ≠ (homeFloe page * 2 + (m.srcTier - 1)) * 2 ^ 24 + m.srcK) } }) ∧
    (∀ (s : State) (page : Nat) (m : Move), (.moveCopyTimeout page : Instr).wellFormed = true → Serving s → tget? s.dev.moves page = some m → m.swapped = false → m.tag = none → m.target = 1 ∨ m.target = 2 ∨ m.target = 5 →
      exec (.moveCopyTimeout page) s = .next { s with dev := telF { latch s with moves := tdel s.dev.moves page } (homeFloe page) 0x1028 1 }) ∧
    (∀ (s : State) (f : Nat), (.cacheFlush f : Instr).wellFormed = true → Serving s → floeOn s.dev f = true → s.dev.flushBusy.contains f = false →
      exec (.cacheFlush f) s = .next { s with dev := { latch s with flushBusy := s.dev.flushBusy ++ [f] } }) ∧
    (∀ (s : State) (f l : Nat) (b : Bytes), (.cacheFlushDone f : Instr).wellFormed = true → Serving s → s.dev.flushBusy.contains f = true → s.dev.cache = [(l, ⟨b, true⟩)] → homeFloe (pageOfLine l) = f → (pageOf s.dev (pageOfLine l)).tier = 1 → (pageOf s.dev (pageOfLine l)).packed = false → s.dev.moves = [] → tget s.dev.sliceFlips l 0 = 0 →
      exec (.cacheFlushDone f) s = .next { s with dev := { latch s with flushBusy := s.dev.flushBusy.filter (· ≠ f), cache := [(l, ⟨b, false⟩)], mem := memWrite s.dev.mem (l * 64) b, media := tdel s.dev.media (mediaKey (homeFloe (pageOfLine l)) 1 (pageOf s.dev (pageOfLine l)).k (l % 1024)) } })

/-- A MIGRATE of one page of the issuing context: with its target the tier that holds the page and flag PIN, the entry becomes pinned; with target 0 the page becomes unplaced, its bytes and its lines of the slice are gone, and every other page is as it was. The proof has COUNT 1. A page of another context, or of a region, is refused with RIGHTS_FAULT, a TRANSLATION record formed, and no page changes. PREFETCH of a line of the stack or bulk tier puts it into the slice with the bytes of memory, and counts it. -/
def Obligations.MigrateAndPrefetch : Prop :=
    (∀ (s : State) (tag page : Nat) (far : Far) (c : Cmd), (.migrate tag far : Instr).wellFormed = true → Serving s → cmdOf s.dev tag = some c → c.opcode = 0x30 → c.phase = 1 → floeOn s.dev c.floe = true → owes s.dev (.cmd tag) = false → galleyExists s.dev c.ctx c.g = true → (galleyOf s.dev c.ctx c.g).done = [] → c.pos = 0 → okStatus c.status = true → c.f 40 4 = 1 → (W.start (latch s) far c.ctx c.gen (c.who tag 4)).wholePage (c.f 32 8) = ((W.start (latch s) far c.ctx c.gen (c.who tag 4)), some page) → floeOn s.dev (homeFloe page) = true → s.dev.moves = [] → s.dev.touches = [] → (pageOf s.dev page).owner = c.ctx → (pageOf s.dev page).region = false → (pageOf s.dev page).durable = false → c.f 44 1 = 1 → c.f 45 1 = 4 → (pageOf s.dev page).tier = 1 → (pageOf s.dev page).pinned = false →
      ∃ t, exec (.migrate tag far) s = .next t ∧ pageOf t.dev page = { (pageOf s.dev page) with pinned := true, version := ((pageOf s.dev page).version + 1) % 65536 } ∧ cmdOf t.dev tag = some { c with phase := 3, finish := s.clk.time, count := 1 } ∧ (galleyOf t.dev c.ctx c.g).done = [tag] ∧ t = { s with dev := { letGo (latch s) tag c with cmds := t.dev.cmds, galleys := t.dev.galleys, pages := t.dev.pages, plv := t.dev.plv } }) ∧
    (∀ (s : State) (tag page : Nat) (far : Far) (c : Cmd), (.migrate tag far : Instr).wellFormed = true → Serving s → cmdOf s.dev tag = some c → c.opcode = 0x30 → c.phase = 1 → floeOn s.dev c.floe = true → owes s.dev (.cmd tag) = false → galleyExists s.dev c.ctx c.g = true → (galleyOf s.dev c.ctx c.g).done = [] → c.pos = 0 → okStatus c.status = true → c.f 40 4 = 1 → (W.start (latch s) far c.ctx c.gen (c.who tag 4)).wholePage (c.f 32 8) = ((W.start (latch s) far c.ctx c.gen (c.who tag 4)), some page) → floeOn s.dev (homeFloe page) = true → s.dev.moves = [] → s.dev.touches = [] → (pageOf s.dev page).owner = c.ctx → (pageOf s.dev page).region = false → (pageOf s.dev page).durable = false → c.f 44 1 = 0 → (pageOf s.dev page).tier = 1 → s.dev.dir = [] → s.dev.orphans = [] →
      ∃ t, exec (.migrate tag far) s = .next t ∧ (pageOf t.dev page).tier = 0 ∧ t.dev.mem = memClear s.dev.mem (page * 65536) 65536 ∧ t.dev.cache = s.dev.cache.filter (fun l => pageOfLine l.1 ≠ page) ∧ (∀ q, q ≠ page → pageOf t.dev q = pageOf s.dev q) ∧ cmdOf t.dev tag = some { c with phase := 3, finish := s.clk.time, count := 1 } ∧ (galleyOf t.dev c.ctx c.g).done = [tag] ∧ t = { s with dev := { letGo (latch s) tag c with cmds := t.dev.cmds, galleys := t.dev.galleys, pages := t.dev.pages, plv := t.dev.plv, mem := t.dev.mem, cache := t.dev.cache, packs := t.dev.packs, counts := t.dev.counts, media := t.dev.media } }) ∧
    (∀ (s : State) (tag page : Nat) (far : Far) (c : Cmd), (.migrate tag far : Instr).wellFormed = true → Serving s → cmdOf s.dev tag = some c → c.opcode = 0x30 → c.phase = 1 → floeOn s.dev c.floe = true → owes s.dev (.cmd tag) = false → galleyExists s.dev c.ctx c.g = true → (galleyOf s.dev c.ctx c.g).done = [] → c.pos = 0 → okStatus c.status = true → c.f 40 4 = 1 → (W.start (latch s) far c.ctx c.gen (c.who tag 4)).wholePage (c.f 32 8) = ((W.start (latch s) far c.ctx c.gen (c.who tag 4)), some page) → floeOn s.dev (homeFloe page) = true → s.dev.moves = [] → s.dev.touches = [] → (pageOf s.dev page).tier ≠ 0 → (pageOf s.dev page).region = true ∨ (pageOf s.dev page).owner ≠ c.ctx → c.record = none → openOf s.dev.errq 14 c.floe = none →
      ∃ t, exec (.migrate tag far) s = .next t ∧ (cmdOf t.dev tag).map (fun c => (c.phase, c.status, c.count)) = some (3, 0x11, 0) ∧ t.dev.errq.next = (s.dev.errq.next + 1) % 2 ^ 32 ∧ t = { s with dev := { letGo (latch s) tag c with cmds := t.dev.cmds, galleys := t.dev.galleys, errq := t.dev.errq, tel := t.dev.tel, mbx := t.dev.mbx, ports := t.dev.ports, out := t.dev.out } }) ∧
    (∀ (s : State) (tag u i : Nat) (far : Far) (c : Cmd) (r : Range), (.prefetch tag far : Instr).wellFormed = true → Serving s → cmdOf s.dev tag = some c → c.opcode = 0x31 → c.phase = 1 → floeOn s.dev c.floe = true → owes s.dev (.cmd tag) = false → galleyExists s.dev c.ctx c.g = true → (galleyOf s.dev c.ctx c.g).done = [] → okStatus c.status = true → c.f 32 8 % 64 = 0 → c.f 40 8 = 64 → c.f 48 1 = 0 → findRange s.dev c.ctx c.gen (c.f 32 8) = some (i, r) → r.r = true → u = r.uni + (c.f 32 8 - r.start) → (pageOf s.dev (u / 65536)).tier = 1 ∨ (pageOf s.dev (u / 65536)).tier = 2 → (pageOf s.dev (u / 65536)).packed = false → (pageOf s.dev (u / 65536)).mot = false → floeOn s.dev (homeFloe (u / 65536)) = true → s.dev.dir = [] → s.dev.media = [] → s.dev.cache = [] →
      ∃ t, exec (.prefetch tag far) s = .next t ∧ t.dev.recent = (useLine s.dev (u / 64)).recent ∧ t.dev.cache = [(u / 64, ⟨memRead s.dev.mem (u / 64 * 64) 64, false⟩)] ∧ cmdOf t.dev tag = some { c with phase := 3, finish := s.clk.time, count := 1 } ∧ (galleyOf t.dev c.ctx c.g).done = [tag] ∧ t = { s with dev := { letGo (latch s) tag c with cmds := t.dev.cmds, galleys := t.dev.galleys, cache := t.dev.cache, tel := t.dev.tel, recent := t.dev.recent, sliceFlips := t.dev.sliceFlips } })

/-- With its instruction ready at the head of the matrix queue and its tiles kept to R168: MZERO clears the accumulator and the checker's columns; MLOAD sets the cells that the tile covers to the slugs read, and the checker's columns to the sums of the array; MMUL adds to each cell of rows of A by rows of B the exact sum of the products, and where no column had differed before none differs after; MSTORE writes the converted cells row by row into the tile, and with MOD bit 0 clears the array; a column that differs stops the core with COMPUTE_CHECK instead, nothing stored. Operands whose columns differ are a kernel fault, cause 1. The instruction leaves the queue and is under way; nothing else changes. -/
def Obligations.MatrixEngine : Prop :=
    (∀ (s : State) (c st : Nat) (i : TInstr), (.tnop c st : Instr).wellFormed = true → Serving s → readyHead s.dev c st = some i → bits i.w0 0 8 = 0 →
      exec (.tnop c st) s = .next { s with dev := { latch s with cores := tput s.dev.cores c (modStream (coreOf s.dev c) st (fun q => { q with queue := q.queue.drop 1, flight := q.flight ++ [⟨i, [], false⟩] })) } }) ∧
    (∀ (s : State) (c : Nat) (i : TInstr), (.mzero c : Instr).wellFormed = true → Serving s → readyHead s.dev c 0 = some i → bits i.w0 0 8 = 1 →
      exec (.mzero c) s = .next { s with dev := { latch s with cores := tput s.dev.cores c (modStream { (coreOf s.dev c) with acc := [], cs := [] } 0 (fun q => { q with queue := q.queue.drop 1, flight := q.flight ++ [⟨i, [], false⟩] })) } }) ∧
    (∀ (s : State) (c : Nat) (i : TInstr) (dm : Dev) (tl : Tile), (.mload c : Instr).wellFormed = true → Serving s → readyHead s.dev c 0 = some i → bits i.w0 0 8 = 2 → sramRead (latch s) c 1 (engineSpans (coreOf s.dev c) 2 i) = (dm, false) → (readTile (coreOf dm c) i.w1 false (fun t => t.fmt = 11 && decide (t.rows ≤ 64) && decide (t.cols ≤ 64) && !t.scaled)).toOption = some tl → (List.range tl.rows).all (fun a => (List.range tl.cols).all (fun b => (slugOf (lmRead (coreOf dm c) (tl.row a + 32 * b) 32)).isSome)) = true →
      ∃ t, exec (.mload c) s = .next t ∧ (∀ a, a < tl.rows → ∀ b, b < tl.cols → some (accAt (coreOf t.dev c) a b) = slugOf (lmRead (coreOf dm c) (tl.row a + 32 * b) 32)) ∧ (∀ j, j < 64 → tget (coreOf t.dev c).cs j 0 = colSum (coreOf t.dev c) j) ∧ (coreOf t.dev c) = { modStream (coreOf dm c) 0 (fun q => { q with queue := q.queue.drop 1, flight := q.flight ++ [⟨i, [], false⟩] }) with acc := (coreOf t.dev c).acc, cs := (coreOf t.dev c).cs } ∧ t.dev.cores = tput dm.cores c (coreOf t.dev c) ∧ t = { s with dev := { dm with cores := t.dev.cores } }) ∧
    (∀ (s : State) (c : Nat) (i : TInstr) (dm : Dev) (ta tb : Tile), (.mmul c : Instr).wellFormed = true → Serving s → readyHead s.dev c 0 = some i → bits i.w0 0 8 = 3 → sramRead (latch s) c 1 (engineSpans (coreOf s.dev c) 3 i) = (dm, false) → (readTile (coreOf dm c) i.w1 false (fun t => decide (t.rows ≤ 64))).toOption = some ta → (readTile (coreOf dm c) i.w2 false (fun t => decide (t.rows ≤ 64))).toOption = some tb → ta.cols = tb.cols → mmulPair ta tb = true → checkCols (coreOf dm c) = none →
      ∃ t, exec (.mmul c) s = .next t ∧ (∀ a, a < ta.rows → ∀ b, b < tb.rows → accAt (coreOf t.dev c) a b = slugAdd (accAt (coreOf dm c) a b) (dotTerms (ta.vals (coreOf dm c) a) (tb.vals (coreOf dm c) b)).1) ∧ checkCols (coreOf t.dev c) = none ∧ (coreOf t.dev c) = { modStream (coreOf dm c) 0 (fun q => { q with queue := q.queue.drop 1, flight := q.flight ++ [⟨i, [], false⟩] }) with acc := (coreOf t.dev c).acc, cs := (coreOf t.dev c).cs, oor := (coreOf t.dev c).oor, rechecks := (coreOf t.dev c).rechecks } ∧ t.dev.cores = tput dm.cores c (coreOf t.dev c) ∧ t = { s with dev := { dm with cores := t.dev.cores, tel := t.dev.tel } }) ∧
    (∀ (s : State) (c : Nat) (i : TInstr) (ta tb : Tile), (.mmul c : Instr).wellFormed = true → Serving s → readyHead s.dev c 0 = some i → bits i.w0 0 8 = 3 → (coreOf s.dev c).flips = [] → (readTile (coreOf s.dev c) i.w1 false (fun t => decide (t.rows ≤ 64))).toOption = some ta → (readTile (coreOf s.dev c) i.w2 false (fun t => decide (t.rows ≤ 64))).toOption = some tb → ta.cols ≠ tb.cols → openOf s.dev.errq 2 c = none →
      ∃ t, exec (.mmul c) s = .next t ∧ (coreOf t.dev c) = stopChans { (coreOf s.dev c) with state := 3, faultCause := 1, stopWith := some (0x17, 0, true), sync := none, stalled := none } ∧ t.dev.errq.next = (s.dev.errq.next + 1) % 2 ^ 32 ∧ t = { s with dev := { latch s with cores := t.dev.cores, cmds := t.dev.cmds, errq := t.dev.errq, tel := t.dev.tel, mbx := t.dev.mbx, ports := t.dev.ports, out := t.dev.out } }) ∧
    (∀ (s : State) (c : Nat) (i : TInstr) (dm : Dev) (tl : Tile), (.mstore c : Instr).wellFormed = true → Serving s → readyHead s.dev c 0 = some i → bits i.w0 0 8 = 4 → sramRead (latch s) c 1 (engineSpans (coreOf s.dev c) 4 i) = (dm, false) → (readTile (coreOf dm c) i.w1 true (fun t => mstoreFmt t.fmt && !t.scaled && decide (t.rows ≤ 64) && decide (t.cols ≤ 64))).toOption = some tl → checkCols (coreOf dm c) = none →
      exec (.mstore c) s = .next { s with dev := { dm with cores := tput dm.cores c (modStream { (if bitOf i.mod 0 then mzero (coreOf dm c) else (coreOf dm c)) with lm := (List.range tl.rows).foldl (fun m r => memWrite m (tl.row r) (storeRow (coreOf dm c) tl i.sat r).1) (coreOf dm c).lm, oor := (List.range tl.rows).foldl (fun n r => n + (storeRow (coreOf dm c) tl i.sat r).2) (coreOf dm c).oor } 0 (fun q => { q with queue := q.queue.drop 1, flight := q.flight ++ [⟨i, [], false⟩] })) } }) ∧
    (∀ (s : State) (c j : Nat) (i : TInstr) (tl : Tile), (.mstore c : Instr).wellFormed = true → Serving s → readyHead s.dev c 0 = some i → bits i.w0 0 8 = 4 → (coreOf s.dev c).flips = [] → (readTile (coreOf s.dev c) i.w1 true (fun t => mstoreFmt t.fmt && !t.scaled && decide (t.rows ≤ 64) && decide (t.cols ≤ 64))).toOption = some tl → checkCols (coreOf s.dev c) = some j → openOf s.dev.errq 2 c = none →
      ∃ t, exec (.mstore c) s = .next t ∧ (coreOf t.dev c) = stopChans { (coreOf s.dev c) with state := 3, failColumn := j, failAtStore := true, stopWith := some (0x21, 0, true), sync := none, stalled := none } ∧ tget t.dev.tel (0x500000 + c / 16 * 0x100000 + 0x1738) 0 = (tget s.dev.tel (0x500000 + c / 16 * 0x100000 + 0x1738) 0 + 1) % 2 ^ 64 ∧ t.dev.errq.next = (s.dev.errq.next + 1) % 2 ^ 32 ∧ t = { s with dev := { latch s with cores := t.dev.cores, cmds := t.dev.cmds, rates := t.dev.rates, errq := t.dev.errq, tel := t.dev.tel, mbx := t.dev.mbx, ports := t.dev.ports, out := t.dev.out } })

/-- With its instruction ready at the head of the vector queue: VLD puts the rows of its tile, filled with zeros to whole registers, into the registers from VD; VST writes the registers' bytes row by row into the tile; each element of VOP's result is the operation on the elements of its sources, rounded once (and of a conversion, the converted element); VRED writes the exact sum of its elements as one slug, or with MOD bit 2 converted, or with MOD bit 1 their maximum, and with MOD bit 0 one of these for every lane; each element of VFN's result is the defined function of the source's; VQNT writes the quantised elements and the scales of its blocks of 32. Registers outside the destination keep their bytes, and nothing else of the device changes. -/
def Obligations.VectorEngine : Prop :=
    (∀ (s : State) (c : Nat) (i : TInstr) (dm : Dev) (tl : Tile), (.vld c : Instr).wellFormed = true → Serving s → readyHead s.dev c 1 = some i → bits i.w0 0 8 = 0x10 → sramRead (latch s) c 2 (engineSpans (coreOf s.dev c) 0x10 i) = (dm, false) → (readTile (coreOf dm c) i.w1 false (fun _ => true)).toOption = some tl → bits i.w2 0 6 + vregsOf (tl.rows * tl.rowBytes) ≤ 64 →
      exec (.vld c) s = .next { s with dev := { dm with cores := tput dm.cores c (modStream { (coreOf dm c) with vregs := memWrite (coreOf dm c).vregs (512 * bits i.w2 0 6) (vpad ((List.range tl.rows).flatMap (fun r => tl.bytes (coreOf dm c) r))) } 1 (fun q => { q with queue := q.queue.drop 1, flight := q.flight ++ [⟨i, [], false⟩] })) } }) ∧
    (∀ (s : State) (c : Nat) (i : TInstr) (dm : Dev) (tl : Tile), (.vst c : Instr).wellFormed = true → Serving s → readyHead s.dev c 1 = some i → bits i.w0 0 8 = 0x11 → sramRead (latch s) c 2 (engineSpans (coreOf s.dev c) 0x11 i) = (dm, false) → (readTile (coreOf dm c) i.w1 true (fun _ => true)).toOption = some tl → bits i.w2 0 6 + vregsOf (tl.rows * tl.rowBytes) ≤ 64 →
      exec (.vst c) s = .next { s with dev := { dm with cores := tput dm.cores c (modStream { (coreOf dm c) with lm := (List.range tl.rows).foldl (fun m r => memWrite m (tl.row r) (memRead (coreOf dm c).vregs (512 * bits i.w2 0 6 + r * tl.rowBytes) tl.rowBytes)) (coreOf dm c).lm, flips := (List.range tl.rows).foldl (fun m r => flipsWritten m (tl.row r) tl.rowBytes) (coreOf dm c).flips } 1 (fun q => { q with queue := q.queue.drop 1, flight := q.flight ++ [⟨i, [], false⟩] })) } }) ∧
    (∀ (s : State) (c : Nat) (i : TInstr) (dm : Dev), (.vop c : Instr).wellFormed = true → Serving s → readyHead s.dev c 1 = some i → bits i.w0 0 8 = 0x12 → sramRead (latch s) c 2 (engineSpans (coreOf s.dev c) 0x12 i) = (dm, false) → i.mod ≤ 9 → i.mod ≠ 8 → countOk (regWord i) = true → (wideFloat (regWord i).sfmt || (regWord i).sfmt == 5 || (regWord i).sfmt == 10) = true → (regWord i).dfmt = (regWord i).sfmt → runOk (regWord i).vd (regWord i).count = true → i.mod = 9 ∨ runOk (regWord i).vb (regWord i).count = true → i.mod ≠ 3 ∨ runOk (regWord i).vc (regWord i).count = true → Memory.wf (coreOf dm c).vregs = true →
      ∃ t, exec (.vop c) s = .next t ∧ (∀ e, e < elemCount (regWord i).sfmt (vread (coreOf dm c) (regWord i).va (512 * (regWord i).count)) → elemAt (regWord i).sfmt (vread (coreOf t.dev c) (regWord i).vd (512 * (regWord i).count)) e = (elemOp i.mod (regWord i).sfmt i.sat (elemAt (regWord i).sfmt (vread (coreOf dm c) (regWord i).va (512 * (regWord i).count)) e) (elemAt (regWord i).sfmt (vread (coreOf dm c) (if i.mod = 9 then (regWord i).va else (regWord i).vb) (512 * (regWord i).count)) e) (elemAt (regWord i).sfmt (vread (coreOf dm c) (if i.mod = 3 then (regWord i).vc else (regWord i).va) (512 * (regWord i).count)) e)).1 % 2 ^ fmtW (regWord i).sfmt) ∧ (∀ a, (a < 512 * (regWord i).vd ∨ 512 * ((regWord i).vd + (regWord i).count) ≤ a) → memGet (coreOf t.dev c).vregs a = memGet (coreOf dm c).vregs a) ∧ (coreOf t.dev c) = { modStream (coreOf dm c) 1 (fun q => { q with queue := q.queue.drop 1, flight := q.flight ++ [⟨i, [], false⟩] }) with vregs := (coreOf t.dev c).vregs, oor := (coreOf t.dev c).oor } ∧ t.dev.cores = tput dm.cores c (coreOf t.dev c) ∧ t = { s with dev := { dm with cores := t.dev.cores } }) ∧
    (∀ (s : State) (c : Nat) (i : TInstr) (dm : Dev), (.vop c : Instr).wellFormed = true → Serving s → readyHead s.dev c 1 = some i → bits i.w0 0 8 = 0x12 → sramRead (latch s) c 2 (engineSpans (coreOf s.dev c) 0x12 i) = (dm, false) → i.mod = 8 → countOk (regWord i) = true → (regWord i).sfmt ≤ 10 → (regWord i).dfmt ≤ 10 → runOk (regWord i).vd (destRegs (regWord i)) = true →
      exec (.vop c) s = .next { s with dev := { dm with cores := tput dm.cores c (modStream (putResults (coreOf dm c) (regWord i).vd (regWord i).dfmt ((srcElems (coreOf dm c) (regWord i).va (regWord i).count (regWord i).sfmt).map (convert (regWord i).sfmt (regWord i).dfmt i.sat))) 1 (fun q => { q with queue := q.queue.drop 1, flight := q.flight ++ [⟨i, [], false⟩] })) } }) ∧
    (∀ (s : State) (c : Nat) (i : TInstr) (dm : Dev) (b : Bytes) (l : List (Nat × Nat)), (.vred c : Instr).wellFormed = true → Serving s → readyHead s.dev c 1 = some i → bits i.w0 0 8 = 0x13 → sramRead (latch s) c 2 (engineSpans (coreOf s.dev c) 0x13 i) = (dm, false) → countOk (regWord i) = true → (regWord i).sfmt ≤ 10 → 2 ≤ i.mod % 4 → l = (if i.mod % 2 = 1 then laneElems (coreOf dm c) (regWord i) else [srcElems (coreOf dm c) (regWord i).va (regWord i).count (regWord i).sfmt]).map (maxElems (regWord i).sfmt i.sat) → b = vpad (packElems (regWord i).sfmt (l.map (·.1))) → runOk (regWord i).vd (vregsOf b.length) = true →
      exec (.vred c) s = .next { s with dev := { dm with cores := tput dm.cores c (modStream { (coreOf dm c) with vregs := memWrite (coreOf dm c).vregs (512 * (regWord i).vd) b, oor := (coreOf dm c).oor + l.foldl (fun n p => n + p.2) 0 } 1 (fun q => { q with queue := q.queue.drop 1, flight := q.flight ++ [⟨i, [], false⟩] })) } }) ∧
    (∀ (s : State) (c : Nat) (i : TInstr) (dm : Dev) (b : Bytes) (l : List (Slug × Nat)), (.vred c : Instr).wellFormed = true → Serving s → readyHead s.dev c 1 = some i → bits i.w0 0 8 = 0x13 → sramRead (latch s) c 2 (engineSpans (coreOf s.dev c) 0x13 i) = (dm, false) → countOk (regWord i) = true → (regWord i).sfmt ≤ 10 → i.mod % 4 < 2 → bitOf i.mod 2 = false → l = (if i.mod % 2 = 1 then laneElems (coreOf dm c) (regWord i) else [srcElems (coreOf dm c) (regWord i).va (regWord i).count (regWord i).sfmt]).map (fun g => sumNums (g.map (decodeNum (regWord i).sfmt))) → b = vpad (l.flatMap (fun s => cellOf s.1)) → runOk (regWord i).vd (vregsOf b.length) = true →
      exec (.vred c) s = .next { s with dev := { dm with cores := tput dm.cores c (modStream { (coreOf dm c) with vregs := memWrite (coreOf dm c).vregs (512 * (regWord i).vd) b, oor := (coreOf dm c).oor + l.foldl (fun n p => n + p.2) 0 } 1 (fun q => { q with queue := q.queue.drop 1, flight := q.flight ++ [⟨i, [], false⟩] })) } }) ∧
    (∀ (s : State) (c : Nat) (i : TInstr) (dm : Dev) (b : Bytes) (l : List (Slug × Nat)), (.vred c : Instr).wellFormed = true → Serving s → readyHead s.dev c 1 = some i → bits i.w0 0 8 = 0x13 → sramRead (latch s) c 2 (engineSpans (coreOf s.dev c) 0x13 i) = (dm, false) → countOk (regWord i) = true → (regWord i).sfmt ≤ 10 → i.mod % 4 < 2 → bitOf i.mod 2 = true → (regWord i).dfmt ≤ 10 → l = (if i.mod % 2 = 1 then laneElems (coreOf dm c) (regWord i) else [srcElems (coreOf dm c) (regWord i).va (regWord i).count (regWord i).sfmt]).map (fun g => sumNums (g.map (decodeNum (regWord i).sfmt))) → b = vpad (packElems (regWord i).dfmt ((l.map (fun s => slugTo (regWord i).dfmt i.sat s.1)).map (·.1))) → runOk (regWord i).vd (vregsOf b.length) = true →
      exec (.vred c) s = .next { s with dev := { dm with cores := tput dm.cores c (modStream { (coreOf dm c) with vregs := memWrite (coreOf dm c).vregs (512 * (regWord i).vd) b, oor := (coreOf dm c).oor + l.foldl (fun n p => n + p.2) 0 + (l.map (fun s => slugTo (regWord i).dfmt i.sat s.1)).foldl (fun n p => n + p.2) 0 } 1 (fun q => { q with queue := q.queue.drop 1, flight := q.flight ++ [⟨i, [], false⟩] })) } }) ∧
    (∀ (s : State) (c : Nat) (i : TInstr) (dm : Dev), (.vfn c : Instr).wellFormed = true → Serving s → readyHead s.dev c 1 = some i → bits i.w0 0 8 = 0x14 → sramRead (latch s) c 2 (engineSpans (coreOf s.dev c) 0x14 i) = (dm, false) → countOk (regWord i) = true → wideFloat (regWord i).sfmt = true → wideFloat (regWord i).dfmt = true → runOk (regWord i).vd (destRegs (regWord i)) = true →
      exec (.vfn c) s = .next { s with dev := { dm with cores := tput dm.cores c (modStream (putResults (coreOf dm c) (regWord i).vd (regWord i).dfmt ((srcElems (coreOf dm c) (regWord i).va (regWord i).count (regWord i).sfmt).map (fun e => definedFn (i.mod % 4) (regWord i).dfmt i.sat (decodeNum (regWord i).sfmt e)))) 1 (fun q => { q with queue := q.queue.drop 1, flight := q.flight ++ [⟨i, [], false⟩] })) } }) ∧
    (∀ (s : State) (c : Nat) (i : TInstr) (dm : Dev), (.vfn c : Instr).wellFormed = true → Serving s → readyHead s.dev c 1 = some i → bits i.w0 0 8 = 0x14 → sramRead (latch s) c 2 (engineSpans (coreOf s.dev c) 0x14 i) = (dm, false) → countOk (regWord i) = true → wideFloat (regWord i).sfmt = true → (regWord i).dfmt = (regWord i).sfmt → runOk (regWord i).vd (regWord i).count = true →
      ∃ t, exec (.vfn c) s = .next t ∧ (∀ e, e < elemCount (regWord i).sfmt (vread (coreOf dm c) (regWord i).va (512 * (regWord i).count)) → elemAt (regWord i).sfmt (vread (coreOf t.dev c) (regWord i).vd (512 * (regWord i).count)) e = (definedFn (i.mod % 4) (regWord i).sfmt i.sat (decodeNum (regWord i).sfmt (elemAt (regWord i).sfmt (vread (coreOf dm c) (regWord i).va (512 * (regWord i).count)) e))).1 % 2 ^ fmtW (regWord i).sfmt) ∧ (coreOf t.dev c) = { modStream (coreOf dm c) 1 (fun q => { q with queue := q.queue.drop 1, flight := q.flight ++ [⟨i, [], false⟩] }) with vregs := (coreOf t.dev c).vregs, oor := (coreOf t.dev c).oor } ∧ t.dev.cores = tput dm.cores c (coreOf t.dev c) ∧ t = { s with dev := { dm with cores := t.dev.cores } }) ∧
    (∀ (s : State) (c : Nat) (i : TInstr) (dm : Dev) (e : List Machine.Num) (l : List (List Nat × Nat × Nat)), (.vqnt c : Instr).wellFormed = true → Serving s → readyHead s.dev c 1 = some i → bits i.w0 0 8 = 0x15 → sramRead (latch s) c 2 (engineSpans (coreOf s.dev c) 0x15 i) = (dm, false) → countOk (regWord i) = true → wideFloat (regWord i).sfmt = true → fmtNarrow (regWord i).dfmt = true → runOk (regWord i).vd (destRegs (regWord i)) = true → e = (srcElems (coreOf dm c) (regWord i).va (regWord i).count (regWord i).sfmt).map (decodeNum (regWord i).sfmt) → l = (List.range (e.length / 32)).map (fun k => mxBlock (regWord i).dfmt ((e.drop (32 * k)).take 32)) →
      exec (.vqnt c) s = .next { s with dev := { dm with cores := tput dm.cores c (modStream { (coreOf dm c) with vregs := memWrite (memWrite (coreOf dm c).vregs (512 * (regWord i).vd) (packElems (regWord i).dfmt (l.flatMap (·.1)))) (512 * (regWord i).vc) (l.map (fun b => BitVec.ofNat 8 b.2.1)), oor := (coreOf dm c).oor + l.foldl (fun n b => n + b.2.2) 0 } 1 (fun q => { q with queue := q.queue.drop 1, flight := q.flight ++ [⟨i, [], false⟩] })) } })

/-- With the move ready at the head of its queue and its operands kept to R169 and R175, once its lines are read or written it is under way, and it owes the fabric requests it issued, which a FINAL instruction holds behind what its stream has outstanding. Of one row within one line that the cache slice holds: XLD puts the bytes of the line into the tile, XST puts the tile's row into the line, XSTI merges its 1, 2, 4 or 8 bytes into the line, XADD replaces the cell of the line by its exact sum with the tile's cell. -/
def Obligations.ContextMoves : Prop :=
    (∀ (s : State) (c st : Nat) (far : Far) (i : TInstr) (m : Dev) (w : W) (fin : Bool), (.xld c st far : Instr).wellFormed = true → Serving s → readyHead s.dev c st = some i → bits i.w0 0 8 = 0x20 → sramRead (latch s) c (if st = 0 then 1 else if st = 1 then 2 else 3) (moveSpans (coreOf s.dev c) st 0x20 i) = (m, false) → fin = false → moveCheck st true (fun _ => true) 1 (coreOf m c) i = none → xldBody c st false i (coreWork m far c (if st = 0 then 1 else if st = 1 then 2 else 3) (streamOwner c st)) = w → w.ok = true → w.d.boot = s.dev.boot → w.d.errq.due = [] → w.d.tagWait = [] → w.d.tagHeld = [] → w.d.sw.seen = [] →
      exec (.xld c st far) s = .next { s with dev := startHead (noteWrites (if fin then { w.d with fab := holdTogether w.d.fab (newOwed m w.d) } else w.d) c w.wrote) c st i (newOwed m w.d) false }) ∧
    (∀ (s : State) (c st : Nat) (far : Far) (i : TInstr) (m : Dev) (w : W) (fin : Bool), (.xst c st far : Instr).wellFormed = true → Serving s → readyHead s.dev c st = some i → bits i.w0 0 8 = 0x21 → sramRead (latch s) c (if st = 0 then 1 else if st = 1 then 2 else 3) (moveSpans (coreOf s.dev c) st 0x21 i) = (m, false) → fin = (bitOf i.w0 27 && mustHold m (streamOwner c st) 0 true) → moveCheck st false (fun _ => true) 1 (coreOf m c) i = none → xstBody c st fin i (coreWork m far c (if st = 0 then 1 else if st = 1 then 2 else 3) (streamOwner c st)) = w → w.ok = true → w.d.boot = s.dev.boot → w.d.errq.due = [] → w.d.tagWait = [] → w.d.tagHeld = [] → w.d.sw.seen = [] →
      exec (.xst c st far) s = .next { s with dev := startHead (noteWrites (if fin then { w.d with fab := holdTogether w.d.fab (newOwed m w.d) } else w.d) c w.wrote) c st i (newOwed m w.d) false }) ∧
    (∀ (s : State) (c st : Nat) (far : Far) (i : TInstr) (m : Dev) (w : W) (fin : Bool), (.xsti c st far : Instr).wellFormed = true → Serving s → readyHead s.dev c st = some i → bits i.w0 0 8 = 0x22 → sramRead (latch s) c (if st = 0 then 1 else if st = 1 then 2 else 3) (moveSpans (coreOf s.dev c) st 0x22 i) = (m, false) → fin = (bitOf i.w0 27 && mustHold m (streamOwner c st) 0 true) → (bits i.w2 0 48) % xstiSize i = 0 → (let v := (coreWork m far c (if st = 0 then 1 else if st = 1 then 2 else 3) (streamOwner c st)).writeF (bits i.w2 0 48) (leBytes (xstiSize i) i.w3) fin; { v with d := countBytes v.d c st (xstiSize i) }) = w → w.ok = true → w.d.boot = s.dev.boot → w.d.errq.due = [] → w.d.tagWait = [] → w.d.tagHeld = [] → w.d.sw.seen = [] →
      exec (.xsti c st far) s = .next { s with dev := startHead (noteWrites (if fin then { w.d with fab := holdTogether w.d.fab (newOwed m w.d) } else w.d) c w.wrote) c st i (newOwed m w.d) false }) ∧
    (∀ (s : State) (c st : Nat) (far : Far) (i : TInstr) (m : Dev) (w : W) (fin : Bool), (.xadd c st far : Instr).wellFormed = true → Serving s → readyHead s.dev c st = some i → bits i.w0 0 8 = 0x23 → sramRead (latch s) c (if st = 0 then 1 else if st = 1 then 2 else 3) (moveSpans (coreOf s.dev c) st 0x23 i) = (m, false) → fin = (bitOf i.w0 27 && mustHold m (streamOwner c st) 0 true) → moveCheck st false (fun t => t.fmt == 11) 32 (coreOf m c) i = none → xaddBody c st fin i (coreWork m far c (if st = 0 then 1 else if st = 1 then 2 else 3) (streamOwner c st)) = w → w.ok = true → w.d.boot = s.dev.boot → w.d.errq.due = [] → w.d.tagWait = [] → w.d.tagHeld = [] → w.d.sw.seen = [] →
      exec (.xadd c st far) s = .next { s with dev := startHead (noteWrites (if fin then { w.d with fab := holdTogether w.d.fab (newOwed m w.d) } else w.d) c w.wrote) c st i (newOwed m w.d) false }) ∧
    (∀ (s : State) (c st k u : Nat) (far : Far) (i : TInstr) (tl : Tile) (r : Range) (l : CLine), (.xld c st far : Instr).wellFormed = true → Serving s → readyHead s.dev c st = some i → bits i.w0 0 8 = 0x20 → tget? (coreOf s.dev c).latched st = none → (readTile (coreOf s.dev c) i.w1 true (fun _ => true)).toOption = some tl → tl.rows = 1 → (bits i.w2 0 48) % 64 + tl.rowBytes ≤ 64 → findRange s.dev (coreOf s.dev c).ctx (coreGen s.dev c) (bits i.w2 0 48) = some (k, r) → r.r = true → u = r.uni + ((bits i.w2 0 48) - r.start) → (pageOf s.dev (u / 65536)).tier = 1 ∨ (pageOf s.dev (u / 65536)).tier = 2 → (pageOf s.dev (u / 65536)).packed = false → floeOn s.dev (homeFloe (u / 65536)) = true → tget? s.dev.dir (u / 64) = none → tget? s.dev.cache (u / 64) = some l → SoundLine s.dev (u / 64) → (coreOf s.dev c).flips = [] →
      ∃ t, exec (.xld c st far) s = .next t ∧ (coreOf t.dev c).lm = memWrite (coreOf s.dev c).lm tl.base (slice l.data ((bits i.w2 0 48) % 64) tl.rowBytes) ∧ (streamOf (coreOf t.dev c) st).queue = (streamOf (coreOf s.dev c) st).queue.drop 1 ∧ t.dev.cores = tput s.dev.cores c (coreOf t.dev c) ∧ t.dev.recent = (useLine s.dev (u / 64)).recent ∧ t = { s with dev := { latch s with cores := t.dev.cores, tel := t.dev.tel, recent := t.dev.recent } }) ∧
    (∀ (s : State) (c st k u : Nat) (far : Far) (i : TInstr) (tl : Tile) (r : Range) (l : CLine), (.xst c st far : Instr).wellFormed = true → Serving s → readyHead s.dev c st = some i → bits i.w0 0 8 = 0x21 → tget? (coreOf s.dev c).latched st = none → bitOf i.w0 27 = false → (readTile (coreOf s.dev c) i.w1 false (fun _ => true)).toOption = some tl → tl.rows = 1 → (bits i.w2 0 48) % 64 + tl.rowBytes ≤ 64 → findRange s.dev (coreOf s.dev c).ctx (coreGen s.dev c) (bits i.w2 0 48) = some (k, r) → r.w = true → u = r.uni + ((bits i.w2 0 48) - r.start) → (pageOf s.dev (u / 65536)).tier = 1 ∨ (pageOf s.dev (u / 65536)).tier = 2 → (pageOf s.dev (u / 65536)).packed = false → floeOn s.dev (homeFloe (u / 65536)) = true → tget? s.dev.dir (u / 64) = none → tget? s.dev.cache (u / 64) = some l → SoundLine s.dev (u / 64) → (coreOf s.dev c).flips = [] → (pageOf s.dev (u / 65536)).durable = false → (pageOf s.dev (u / 65536)).twin = false → l.data.length = 64 → (pageOf s.dev (u / 65536)).noPack = false → mustHold s.dev (streamOwner c st) (u / 64) false = false →
      ∃ t, exec (.xst c st far) s = .next t ∧ t.dev.cache = tput s.dev.cache (u / 64) ⟨splice l.data ((bits i.w2 0 48) % 64) (lmRead (coreOf s.dev c) tl.base tl.rowBytes), true⟩ ∧ (streamOf (coreOf t.dev c) st).queue = (streamOf (coreOf s.dev c) st).queue.drop 1 ∧ t.dev.cores = tput s.dev.cores c (coreOf t.dev c) ∧ t.dev.sliceFlips = tdel s.dev.sliceFlips (u / 64) ∧ t.dev.cmds = (noteWrites s.dev c 1).cmds ∧ t = { s with dev := { latch s with cores := t.dev.cores, cache := t.dev.cache, tel := t.dev.tel, recent := t.dev.recent, sliceFlips := t.dev.sliceFlips, cmds := t.dev.cmds } }) ∧
    (∀ (s : State) (c st k u : Nat) (far : Far) (i : TInstr) (r : Range) (l : CLine), (.xsti c st far : Instr).wellFormed = true → Serving s → readyHead s.dev c st = some i → bits i.w0 0 8 = 0x22 → tget? (coreOf s.dev c).latched st = none → bitOf i.w0 27 = false → (bits i.w2 0 48) % xstiSize i = 0 → findRange s.dev (coreOf s.dev c).ctx (coreGen s.dev c) (bits i.w2 0 48) = some (k, r) → r.w = true → u = r.uni + ((bits i.w2 0 48) - r.start) → (pageOf s.dev (u / 65536)).tier = 1 ∨ (pageOf s.dev (u / 65536)).tier = 2 → (pageOf s.dev (u / 65536)).packed = false → floeOn s.dev (homeFloe (u / 65536)) = true → tget? s.dev.dir (u / 64) = none → tget? s.dev.cache (u / 64) = some l → SoundLine s.dev (u / 64) → (coreOf s.dev c).flips = [] → (pageOf s.dev (u / 65536)).durable = false → (pageOf s.dev (u / 65536)).twin = false → l.data.length = 64 → (pageOf s.dev (u / 65536)).noPack = false → mustHold s.dev (streamOwner c st) (u / 64) false = false →
      ∃ t, exec (.xsti c st far) s = .next t ∧ t.dev.cache = tput s.dev.cache (u / 64) ⟨splice l.data ((bits i.w2 0 48) % 64) (leBytes (xstiSize i) i.w3), true⟩ ∧ t.dev.cores = tput s.dev.cores c (coreOf t.dev c) ∧ t.dev.sliceFlips = tdel s.dev.sliceFlips (u / 64) ∧ t.dev.cmds = (noteWrites s.dev c 1).cmds ∧ t = { s with dev := { latch s with cores := t.dev.cores, cache := t.dev.cache, tel := t.dev.tel, recent := t.dev.recent, sliceFlips := t.dev.sliceFlips, cmds := t.dev.cmds } }) ∧
    (∀ (s : State) (c st k u : Nat) (far : Far) (i : TInstr) (tl : Tile) (r : Range) (l : CLine) (v x : Slug), (.xadd c st far : Instr).wellFormed = true → Serving s → readyHead s.dev c st = some i → bits i.w0 0 8 = 0x23 → tget? (coreOf s.dev c).latched st = none → bitOf i.w0 27 = false → (readTile (coreOf s.dev c) i.w1 false (fun t => t.fmt == 11)).toOption = some tl → tl.rows = 1 → tl.rowBytes = 32 → (bits i.w2 0 48) % 32 = 0 → bits i.w3 0 32 % 32 = 0 → findRange s.dev (coreOf s.dev c).ctx (coreGen s.dev c) (bits i.w2 0 48) = some (k, r) → r.a = true → u = r.uni + ((bits i.w2 0 48) - r.start) → (pageOf s.dev (u / 65536)).tier = 1 ∨ (pageOf s.dev (u / 65536)).tier = 2 → (pageOf s.dev (u / 65536)).packed = false → floeOn s.dev (homeFloe (u / 65536)) = true → tget? s.dev.dir (u / 64) = none → tget? s.dev.cache (u / 64) = some l → SoundLine s.dev (u / 64) → (coreOf s.dev c).flips = [] → (pageOf s.dev (u / 65536)).durable = false → (pageOf s.dev (u / 65536)).twin = false → l.data.length = 64 → (pageOf s.dev (u / 65536)).noPack = false → mustHold s.dev (streamOwner c st) (u / 64) false = false → slugOf (lmRead (coreOf s.dev c) tl.base 32) = some v → slugOf (slice l.data (u % 64) 32) = some x →
      ∃ t, exec (.xadd c st far) s = .next t ∧ t.dev.cache = tput s.dev.cache (u / 64) ⟨slice (splice l.data (u % 64) (cellOf (slugAdd x v))) 0 64, true⟩ ∧ t.dev.cores = tput s.dev.cores c (coreOf t.dev c) ∧ t.dev.sliceFlips = tdel s.dev.sliceFlips (u / 64) ∧ t.dev.cmds = (noteWrites s.dev c 1).cmds ∧ t = { s with dev := { latch s with cores := t.dev.cores, cache := t.dev.cache, tel := t.dev.tel, recent := t.dev.recent, sliceFlips := t.dev.sliceFlips, cmds := t.dev.cmds } })

/-- A wait is released when the token holds the count, which is taken from it. A signal adds one to its token; past 0xFFFF the token stays there, its overflow bit is set and the kernel faults with cause 7. Completion of the oldest instruction of an engine, with nothing owed to it, takes it from those under way, counts it as retired and gives its signal. A stalled store to a full queue goes through once a place is free. SWAIT, SSIGNAL, SDRAIN and SPULSE are performed and retired; a pulse of a line the launch owns adds the count to the token of a running core's subscription to it, another line is a kernel fault, cause 1. SEND ends the kernel: the core is IDLE, and a RUN of one core completes with the result and status sent. -/
def Obligations.TokensAndSync : Prop :=
    (∀ (s : State) (c : Nat) (i : TInstr), (.swait c : Instr).wellFormed = true → Serving s → (coreOf s.dev c).sync = some i → (coreOf s.dev c).state = 2 → bits i.w0 0 8 = 0x30 ∨ bits i.w0 0 8 = 0 → i.released = false → bitOf i.w0 21 = false → bits i.w0 32 16 ≠ 0 → waitsFirst (coreOf s.dev c) 18 (bits i.w0 22 5) = false → bits i.w0 32 16 ≤ tokenOf (coreOf s.dev c) (bits i.w0 22 5) →
      exec (.swait c) s = .next { s with dev := retire { latch s with cores := tput s.dev.cores c { (coreOf s.dev c) with tokens := tput (coreOf s.dev c).tokens (bits i.w0 22 5) (tokenOf (coreOf s.dev c) (bits i.w0 22 5) - bits i.w0 32 16), sync := none } } c }) ∧
    (∀ (s : State) (c : Nat) (i : TInstr), (.swait c : Instr).wellFormed = true → Serving s → (coreOf s.dev c).sync = some i → (coreOf s.dev c).state = 2 → bits i.w0 0 8 = 0x30 ∨ bits i.w0 0 8 = 0 → bitOf i.w0 21 = false → i.released = true ∨ bits i.w0 32 16 = 0 →
      exec (.swait c) s = .next { s with dev := retire { latch s with cores := tput s.dev.cores c { (coreOf s.dev c) with sync := none } } c }) ∧
    (∀ (s : State) (c : Nat) (i : TInstr), (.ssignal c : Instr).wellFormed = true → Serving s → (coreOf s.dev c).sync = some i → (coreOf s.dev c).state = 2 → i.released = true → bits i.w0 0 8 = 0x31 → owes s.dev (.scalar c 0 0) = false → tokenOf (coreOf s.dev c) (bits i.w0 16 5) < 0xFFFF →
      exec (.ssignal c) s = .next { s with dev := retire { latch s with cores := tput s.dev.cores c { (coreOf s.dev c) with sync := none, tokens := tput (coreOf s.dev c).tokens (bits i.w0 16 5) (tokenOf (coreOf s.dev c) (bits i.w0 16 5) + 1) } } c }) ∧
    (∀ (s : State) (c : Nat) (i : TInstr), (.ssignal c : Instr).wellFormed = true → Serving s → (coreOf s.dev c).sync = some i → (coreOf s.dev c).state = 2 → i.released = true → bits i.w0 0 8 = 0x31 → owes s.dev (.scalar c 0 0) = false → tokenOf (coreOf s.dev c) (bits i.w0 16 5) = 0xFFFF → openOf s.dev.errq 2 c = none →
      ∃ t, exec (.ssignal c) s = .next t ∧ tokenOf (coreOf t.dev c) (bits i.w0 16 5) = 0xFFFF ∧ bitOf (coreOf t.dev c).tokenOvf (bits i.w0 16 5) = true ∧ (coreOf t.dev c).state = 3 ∧ (coreOf t.dev c).faultCause = 7 ∧ t = { s with dev := { latch s with cores := t.dev.cores, cmds := t.dev.cmds, free := t.dev.free, errq := t.dev.errq, tel := t.dev.tel, mbx := t.dev.mbx, ports := t.dev.ports, out := t.dev.out } }) ∧
    (∀ (s : State) (c k : Nat) (i : TInstr), (.spulse c : Instr).wellFormed = true → Serving s → (coreOf s.dev c).sync = some i → (coreOf s.dev c).state = 2 → i.released = true → bits i.w0 0 8 = 0x32 → bitOf i.w0 21 = false → ownsLine s.dev c (bits i.w1 0 8) = true → (List.range 16).all (fun j => 16 * (c / 16) + j == c || ((coreOf s.dev (16 * (c / 16) + j)).state != 2 && (coreOf s.dev (16 * (c / 16) + j)).state != 3)) = true → (List.range 32).filter (fun j => bitOf (subReg s.dev c j) 15 && bits (subReg s.dev c j) 0 8 == (bits i.w1 0 8)) = [k] → tokenOf (coreOf s.dev c) (bits (subReg s.dev c k) 8 5) + (if bits i.w1 8 4 = 0 then 1 else bits i.w1 8 4) ≤ 0xFFFF →
      exec (.spulse c) s = .next { s with dev := retire { latch s with cores := tput s.dev.cores c { (coreOf s.dev c) with sync := none, tokens := tput (coreOf s.dev c).tokens (bits (subReg s.dev c k) 8 5) (tokenOf (coreOf s.dev c) (bits (subReg s.dev c k) 8 5) + (if bits i.w1 8 4 = 0 then 1 else bits i.w1 8 4)) } } c }) ∧
    (∀ (s : State) (c : Nat) (i : TInstr), (.spulse c : Instr).wellFormed = true → Serving s → (coreOf s.dev c).sync = some i → (coreOf s.dev c).state = 2 → i.released = true → bits i.w0 0 8 = 0x32 → bitOf i.w0 21 = false → ownsLine s.dev c (bits i.w1 0 8) = false → openOf s.dev.errq 2 c = none →
      ∃ t, exec (.spulse c) s = .next t ∧ (coreOf t.dev c).state = 3 ∧ (coreOf t.dev c).faultCause = 1 ∧ (coreOf t.dev c).tokens = (coreOf s.dev c).tokens ∧ t = { s with dev := { latch s with cores := t.dev.cores, cmds := t.dev.cmds, free := t.dev.free, errq := t.dev.errq, tel := t.dev.tel, mbx := t.dev.mbx, ports := t.dev.ports, out := t.dev.out } }) ∧
    (∀ (s : State) (c eline cnt k : Nat), (.eventPulse c eline cnt : Instr).wellFormed = true → Serving s → (coreOf s.dev c).state = 2 → ownsLine s.dev c eline = true → (List.range 16).all (fun j => 16 * (c / 16) + j == c || ((coreOf s.dev (16 * (c / 16) + j)).state != 2 && (coreOf s.dev (16 * (c / 16) + j)).state != 3)) = true → (List.range 32).filter (fun j => bitOf (subReg s.dev c j) 15 && bits (subReg s.dev c j) 0 8 == eline) = [k] → tokenOf (coreOf s.dev c) (bits (subReg s.dev c k) 8 5) + (if cnt = 0 then 1 else cnt) ≤ 0xFFFF →
      exec (.eventPulse c eline cnt) s = .next { s with dev := { latch s with cores := tput s.dev.cores c { (coreOf s.dev c) with tokens := tput (coreOf s.dev c).tokens (bits (subReg s.dev c k) 8 5) (tokenOf (coreOf s.dev c) (bits (subReg s.dev c k) 8 5) + (if cnt = 0 then 1 else cnt)) } } }) ∧
    (∀ (s : State) (c : Nat) (i : TInstr), (.sdrain c : Instr).wellFormed = true → Serving s → (coreOf s.dev c).sync = some i → (coreOf s.dev c).state = 2 → i.released = true → bits i.w0 0 8 = 0x33 → bitOf i.w0 21 = false → drained (coreOf s.dev c) = true →
      exec (.sdrain c) s = .next { s with dev := retire { latch s with cores := tput s.dev.cores c { (coreOf s.dev c) with sync := none } } c }) ∧
    (∀ (s : State) (c tag : Nat) (i : TInstr) (m : Cmd), (.send c : Instr).wellFormed = true → Serving s → (coreOf s.dev c).sync = some i → (coreOf s.dev c).state = 2 → i.released = true → bits i.w0 0 8 = 0x34 → bitOf i.w0 21 = false → bits i.w1 32 8 ≤ 1 → drained (coreOf s.dev c) = true → coreOwes s.dev c = false → (coreOf s.dev c).dcache = [] → (coreOf s.dev c).tag = tag → cmdOf s.dev tag = some m → m.phase = 2 → m.opcode = 0x28 → m.cores = [c] → m.ends = [] → owes s.dev (.cmd tag) = false → galleyExists s.dev m.ctx m.g = true → (galleyOf s.dev m.ctx m.g).done = [] → (dropReads (dropReads (latch s) (fun o => o.ofCore c)) (fun o => o == .cmd tag)).errq.due = [] → (dropReads (dropReads (latch s) (fun o => o.ofCore c)) (fun o => o == .cmd tag)).tagWait = [] → (dropReads (dropReads (latch s) (fun o => o.ofCore c)) (fun o => o == .cmd tag)).tagHeld = [] → (dropReads (dropReads (latch s) (fun o => o.ofCore c)) (fun o => o == .cmd tag)).sw.seen = [] → (dropReads (dropReads (latch s) (fun o => o.ofCore c)) (fun o => o == .cmd tag)).boot = s.dev.boot →
      ∃ t, exec (.send c) s = .next t ∧ (coreOf t.dev c).state = 0 ∧ (coreOf t.dev c).sync = none ∧ (cmdOf t.dev tag).map (fun m => (m.phase, m.status, m.count, m.digest, m.finish)) = some (3, bits i.w1 32 8, bits i.w1 0 32, crc64 (leBytes 8 i.w2), s.clk.time) ∧ (galleyOf t.dev m.ctx m.g).done = [tag] ∧ t.dev.runq = s.dev.runq.filter (fun x => decide (x ≠ tag)) ∧ t = { s with dev := { (dropReads (dropReads (latch s) (fun o => o.ofCore c)) (fun o => o == .cmd tag)) with cores := t.dev.cores, cmds := t.dev.cmds, galleys := t.dev.galleys, tel := t.dev.tel, free := t.dev.free, runq := t.dev.runq } }) ∧
    (∀ (s : State) (c win : Nat), (.issueStallRelease c : Instr).wellFormed = true → Serving s → (coreOf s.dev c).state = 2 → (coreOf s.dev c).stalled = some win → win < 2 → (streamOf (coreOf s.dev c) win).queue.length < streamCap win →
      exec (.issueStallRelease c) s = .next { s with dev := { latch s with cores := tput s.dev.cores c (modStream { (coreOf s.dev c) with stalled := none } win (fun q => { q with queue := q.queue ++ [staged (coreOf s.dev c) win] })) } }) ∧
    (∀ (s : State) (c st : Nat) (i : TInstr) (rest : List TInstr), (.tokenWaitRelease c st : Instr).wellFormed = true → Serving s → (coreOf s.dev c).state = 2 → st < 2 → (streamOf (coreOf s.dev c) st).queue = i :: rest → i.released = false → bits i.w0 32 16 ≠ 0 → waitsFirst (coreOf s.dev c) st (bits i.w0 22 5) = false → bits i.w0 32 16 ≤ tokenOf (coreOf s.dev c) (bits i.w0 22 5) →
      exec (.tokenWaitRelease c st) s = .next { s with dev := { latch s with cores := tput s.dev.cores c (modStream { (coreOf s.dev c) with tokens := tput (coreOf s.dev c).tokens (bits i.w0 22 5) (tokenOf (coreOf s.dev c) (bits i.w0 22 5) - bits i.w0 32 16) } st (fun q => { q with queue := { i with released := true } :: rest })) } }) ∧
    (∀ (s : State) (c st : Nat) (f : Flight) (rest : List Flight), (.instructionComplete c st : Instr).wellFormed = true → Serving s → (coreOf s.dev c).state = 2 → st < 2 → (streamOf (coreOf s.dev c) st).flight = f :: rest → flightDone s.dev c st f = true → bitOf f.ins.w0 21 = false →
      exec (.instructionComplete c st) s = .next { s with dev := retire { latch s with cores := tput s.dev.cores c (modStream (coreOf s.dev c) st (fun q => { q with flight := rest })) } c }) ∧
    (∀ (s : State) (c st : Nat) (f : Flight) (rest : List Flight), (.instructionComplete c st : Instr).wellFormed = true → Serving s → (coreOf s.dev c).state = 2 → st < 2 → (streamOf (coreOf s.dev c) st).flight = f :: rest → flightDone s.dev c st f = true → bitOf f.ins.w0 21 = true → tokenOf (coreOf s.dev c) (bits f.ins.w0 16 5) < 0xFFFF →
      exec (.instructionComplete c st) s = .next { s with dev := retire { latch s with cores := tput s.dev.cores c { modStream (coreOf s.dev c) st (fun q => { q with flight := rest }) with tokens := tput (coreOf s.dev c).tokens (bits f.ins.w0 16 5) (tokenOf (coreOf s.dev c) (bits f.ins.w0 16 5) + 1) } } c })

/-- A RUN that passes its checks takes its place in the queue of requests for cores, and one that fails ends with the status. When it is at the head and every floe of its mask has IDLE cores enough, it gets the lowest-numbered ones at once: each is LOADING for the command with its launch number, in ascending order. The end of LOADING sets local memory to the launch record, code, data and arguments, the pc to the entry point, and the core RUNNING. A trap, and the watchdog with cause 8, fault a running kernel; STOP makes it STOPPING; the end of STOPPING leaves the core IDLE, FAULTED or QUARANTINED by what stopped it; CLEAR_FAULT takes FAULTED to IDLE. Enabling a prefetcher starts it at position 0, and it issues the line at its position while that is within DEPTH of what is consumed. A line that it drops advances its position too, which is the model's choice (DESIGN CHOICE, log entry 58). -/
def Obligations.CoresAndRuns : Prop :=
    (∀ (s : State) (tag : Nat) (c : Cmd), (.run tag : Instr).wellFormed = true → Serving s → cmdOf s.dev tag = some c → c.phase = 1 → c.opcode = 0x28 → s.dev.runq.contains tag = false → checkRun s.dev c = none →
      exec (.run tag) s = .next { s with dev := { latch s with runq := insertRun s.dev.cmds c.start tag s.dev.runq } }) ∧
    (∀ (s : State) (tag st det : Nat) (c : Cmd), (.run tag : Instr).wellFormed = true → Serving s → cmdOf s.dev tag = some c → c.opcode = 0x28 → c.phase = 1 → floeOn s.dev c.floe = true → owes s.dev (.cmd tag) = false → galleyExists s.dev c.ctx c.g = true → (galleyOf s.dev c.ctx c.g).done = [] → s.dev.runq.contains tag = false → checkRun s.dev c = some (st, det) → okStatus st = false →
      ∃ t, exec (.run tag) s = .next t ∧ cmdOf t.dev tag = some { c with phase := 3, finish := s.clk.time, status := st, detail := det, partialOut := c.partialOut || decide (0 < c.writes) } ∧ (galleyOf t.dev c.ctx c.g).done = [tag] ∧ t = { s with dev := { letGo (latch s) tag c with cmds := t.dev.cmds, galleys := t.dev.galleys } }) ∧
    (∀ (s : State) (tag : Nat) (m : Cmd) (cs : List Nat), (.coreAssign tag : Instr).wellFormed = true → Serving s → cmdOf s.dev tag = some m → m.phase = 1 → canAssign s.dev tag m = true → cs = (m.needs s.dev).flatMap (fun p => idleCores s.dev p.1 p.2) →
      ∃ t, exec (.coreAssign tag) s = .next t ∧ cmdOf t.dev tag = some { m with phase := 2, cores := cs, pos := s.clk.time } ∧ t.dev.runq = s.dev.runq.filter (· ≠ tag) ∧ (∀ p, p ∈ ((List.zip cs (List.range cs.length))) → (coreOf t.dev p.1).state = 1 ∧ (coreOf t.dev p.1).tag = tag ∧ (coreOf t.dev p.1).ctx = m.ctx ∧ (coreOf t.dev p.1).launch = p.2) ∧ (∀ k, k ∉ cs → coreOf t.dev k = coreOf s.dev k) ∧ t = { s with dev := { latch s with cmds := t.dev.cmds, runq := t.dev.runq, cores := t.dev.cores, regs := t.dev.regs, force := t.dev.force } }) ∧
    (∀ (s : State) (c tag : Nat) (far : Far) (m : Cmd) (w : W) (b : Bytes), (.kernelLoadDone c far : Instr).wellFormed = true → Serving s → (coreOf s.dev c).state = 1 → (coreOf s.dev c).tag = tag → cmdOf s.dev tag = some m → m.opcode = 0x28 → (coreWork (latch s) far c 0 .none).read (m.f 40 8) (m.f 36 4) = (w, b) → w.ok = true → w.d.boot = s.dev.boot → w.d.errq.due = [] → w.d.tagWait = [] → w.d.tagHeld = [] → w.d.sw.seen = [] → w.d.cores = s.dev.cores →
      exec (.kernelLoadDone c far) s = .next { s with dev := { w.d with cores := tput s.dev.cores c { (coreOf s.dev c) with state := 2, lm := memWrite (memWrite (memWrite (memWrite [] 0 (launchRecord m tag c (coreOf s.dev c).launch)) 0x1000 (slice (((objOf s.dev m.ctx (m.f 32 2)).map (·.par)).getD []) (fieldAt (((objOf s.dev m.ctx (m.f 32 2)).map (·.par)).getD []) 8 4) (fieldAt (((objOf s.dev m.ctx (m.f 32 2)).map (·.par)).getD []) 12 4))) (0x1000 + codeSpan (((objOf s.dev m.ctx (m.f 32 2)).map (·.par)).getD [])) (slice (((objOf s.dev m.ctx (m.f 32 2)).map (·.par)).getD []) (fieldAt (((objOf s.dev m.ctx (m.f 32 2)).map (·.par)).getD []) 16 4) (fieldAt (((objOf s.dev m.ctx (m.f 32 2)).map (·.par)).getD []) 20 4))) 0x7FF000 b, pc := 0x1000 + fieldAt (((objOf s.dev m.ctx (m.f 32 2)).map (·.par)).getD []) 24 4, xregs := (startRegs m (coreOf s.dev c).launch (codeSpan (((objOf s.dev m.ctx (m.f 32 2)).map (·.par)).getD []))).filter (fun p => p.2 ≠ 0) } } }) ∧
    (∀ (s : State) (c cause : Nat), (.scalarTrap c cause : Instr).wellFormed = true → Serving s → kernelRuns s.dev c = true → openOf s.dev.errq 2 c = none →
      ∃ t, exec (.scalarTrap c cause) s = .next t ∧ (coreOf t.dev c) = stopChans { (coreOf s.dev c) with state := 3, faultCause := cause, stopWith := some (0x17, 0, true), sync := none, stalled := none } ∧ t.dev.errq.next = (s.dev.errq.next + 1) % 2 ^ 32 ∧ t = { s with dev := { latch s with cores := t.dev.cores, cmds := t.dev.cmds, errq := t.dev.errq, tel := t.dev.tel, mbx := t.dev.mbx, ports := t.dev.ports, out := t.dev.out } }) ∧
    (∀ (s : State) (c : Nat), (.coreWatchdog c : Instr).wellFormed = true → Serving s → kernelRuns s.dev c = true → rf s.dev (coreBase c + 0x10) 0 32 ≠ 0 → openOf s.dev.errq 2 c = none →
      ∃ t, exec (.coreWatchdog c) s = .next t ∧ (coreOf t.dev c) = stopChans { (coreOf s.dev c) with state := 3, faultCause := 8, stopWith := some (0x17, 0, true), sync := none, stalled := none } ∧ t.dev.errq.next = (s.dev.errq.next + 1) % 2 ^ 32 ∧ t = { s with dev := { latch s with cores := t.dev.cores, cmds := t.dev.cmds, errq := t.dev.errq, tel := t.dev.tel, mbx := t.dev.mbx, ports := t.dev.ports, out := t.dev.out } }) ∧
    (∀ (s : State) (c : Nat), (.coreStop c : Instr).wellFormed = true → Serving s → kernelRuns s.dev c = true →
      exec (.coreStop c) s = .next { s with dev := { latch s with cores := tput s.dev.cores c (stopChans { (coreOf s.dev c) with state := 3, stopWith := some (0x51, 0, false), sync := none, stalled := none }) } }) ∧
    (∀ (s : State) (c tag st det : Nat) (flt : Bool) (m : Cmd), (.coreStopDone c : Instr).wellFormed = true → Serving s → (coreOf s.dev c).state = 3 → coreOwes s.dev c = false → coreStarted s.dev c = false → (coreOf s.dev c).stopWith = some (st, det, flt) → (coreOf s.dev c).dcache = [] → (coreOf s.dev c).tag = tag → cmdOf s.dev tag = some m → m.ends.length + 2 < m.cores.length → (dropReads (latch s) (fun o => o.ofCore c)).errq.due = [] → (dropReads (latch s) (fun o => o.ofCore c)).tagWait = [] → (dropReads (latch s) (fun o => o.ofCore c)).tagHeld = [] → (dropReads (latch s) (fun o => o.ofCore c)).sw.seen = [] → (dropReads (latch s) (fun o => o.ofCore c)).boot = s.dev.boot →
      ∃ t, exec (.coreStopDone c) s = .next t ∧ (coreOf t.dev c).state = (if st = 0x21 then 5 else if flt then 4 else 0) ∧ (coreOf t.dev c).streams = [] ∧ (cmdOf t.dev tag).map (·.ends) = some (tput m.ends (coreOf s.dev c).launch ⟨st, det, 0, 0, true⟩) ∧ (cmdOf t.dev tag).map (·.phase) = some m.phase ∧ t = { s with dev := { (dropReads (latch s) (fun o => o.ofCore c)) with cores := t.dev.cores, cmds := t.dev.cmds } }) ∧
    (∀ (s : State) (c : Nat), (.clearFault c : Instr).wellFormed = true → Serving s → (coreOf s.dev c).state = 4 →
      exec (.clearFault c) s = .next { s with dev := { latch s with errq := (closeErr s.dev 2 c 2).errq, cores := tput s.dev.cores c { (coreOf s.dev c) with state := 0 } } }) ∧
    (∀ (s : State) (c pf : Nat) (on : Bool), (.prefetcherEnable c pf on : Instr).wellFormed = true → Serving s → on = true →
      exec (.prefetcherEnable c pf on) s = .next { s with dev := { latch s with regs := tput s.dev.regs (prefBase c pf) (setBits (rv s.dev (prefBase c pf)) 0 1 1), cores := tput s.dev.cores c { (coreOf s.dev c) with pfActive := inSet (coreOf s.dev c).pfActive pf true, pfPos := tput (coreOf s.dev c).pfPos pf (0, 0, 0, 0) } } }) ∧
    (∀ (s : State) (c pf : Nat) (on : Bool), (.prefetcherEnable c pf on : Instr).wellFormed = true → Serving s → on = false →
      exec (.prefetcherEnable c pf on) s = .next { s with dev := { latch s with regs := tput s.dev.regs (prefBase c pf) (setBits (rv s.dev (prefBase c pf)) 0 1 0), cores := tput s.dev.cores c { (coreOf s.dev c) with pfActive := (coreOf s.dev c).pfActive.filter (· ≠ pf) } } }) ∧
    (∀ (s : State) (c pf p0 p1 p2 p3 : Nat) (g : Dev) (l : Bytes), (.prefetchLineIssue c pf : Instr).wellFormed = true → Serving s → kernelRuns s.dev c = true → (coreOf s.dev c).pfActive.contains pf = true → tget (coreOf s.dev c).pfPos pf (0, 0, 0, 0) = (p0, p1, p2, p3) → prefBound (consumeAll (latch s) c pf) c pf = false → ¬ (rf s.dev (prefBase c pf) 1 2 = 1 ∨ rf s.dev (prefBase c pf) 1 2 = 2) → p0 < rf s.dev (prefBase c pf + 0x18) 0 32 → corePrefetch (consumeAll (latch s) c pf) c (((rf s.dev (prefBase c pf + 8) 0 48 : Int) + toSigned 32 (rf s.dev (prefBase c pf + 0x10) 0 32) * p0) % (2 ^ 48 : Nat)).toNat = .line g l → g.boot = s.dev.boot → g.errq.due = [] → g.tagWait = [] → g.tagHeld = [] → g.sw.seen = [] →
      exec (.prefetchLineIssue c pf) s = .next { s with dev := prefMove (countPrefetch g c pf false) c pf (p0 + 1, p1, p2, p3) (decide (p0 + 1 ≥ rf s.dev (prefBase c pf + 0x18) 0 32)) }) ∧
    (∀ (s : State) (c pf p0 p1 p2 p3 : Nat), (.prefetchLineIssue c pf : Instr).wellFormed = true → Serving s → kernelRuns s.dev c = true → (coreOf s.dev c).pfActive.contains pf = true → tget (coreOf s.dev c).pfPos pf (0, 0, 0, 0) = (p0, p1, p2, p3) → prefBound (consumeAll (latch s) c pf) c pf = false → ¬ (rf s.dev (prefBase c pf) 1 2 = 1 ∨ rf s.dev (prefBase c pf) 1 2 = 2) → p0 < rf s.dev (prefBase c pf + 0x18) 0 32 → corePrefetch (consumeAll (latch s) c pf) c (((rf s.dev (prefBase c pf + 8) 0 48 : Int) + toSigned 32 (rf s.dev (prefBase c pf + 0x10) 0 32) * p0) % (2 ^ 48 : Nat)).toNat = .dropped →
      exec (.prefetchLineIssue c pf) s = .next { s with dev := prefMove (countPrefetch (consumeAll (latch s) c pf) c pf true) c pf (p0 + 1, p1, p2, p3) (decide (p0 + 1 ≥ rf s.dev (prefBase c pf + 0x18) 0 32)) }) ∧
    (∀ (s : State) (c pf p0 p1 p2 p3 : Nat), (.prefetchLineIssue c pf : Instr).wellFormed = true → Serving s → kernelRuns s.dev c = true → (coreOf s.dev c).pfActive.contains pf = true → tget (coreOf s.dev c).pfPos pf (0, 0, 0, 0) = (p0, p1, p2, p3) → prefBound (consumeAll (latch s) c pf) c pf = false → ¬ (rf s.dev (prefBase c pf) 1 2 = 1 ∨ rf s.dev (prefBase c pf) 1 2 = 2) → rf s.dev (prefBase c pf + 0x18) 0 32 ≤ p0 →
      exec (.prefetchLineIssue c pf) s = .next { s with dev := prefDone (consumeAll (latch s) c pf) c pf }) ∧
    (∀ (s : State) (c pf p0 p1 p2 p3 : Nat) (g : Dev) (l : Bytes), (.prefetchLineIssue c pf : Instr).wellFormed = true → Serving s → kernelRuns s.dev c = true → (coreOf s.dev c).pfActive.contains pf = true → tget (coreOf s.dev c).pfPos pf (0, 0, 0, 0) = (p0, p1, p2, p3) → prefBound (consumeAll (latch s) c pf) c pf = false → (rf s.dev (prefBase c pf) 1 2 = 1 ∨ rf s.dev (prefBase c pf) 1 2 = 2) → 0 < p2 → corePrefetch (consumeAll (latch s) c pf) c p3 = .line g l → g.boot = s.dev.boot → g.errq.due = [] → g.tagWait = [] → g.tagHeld = [] → g.sw.seen = [] →
      exec (.prefetchLineIssue c pf) s = .next { s with dev := prefMove (countPrefetch g c pf false) c pf ((p0 + 1) % 2 ^ 32, p1, p2 - 1, p3 + 64) (decide (p2 = 1) && decide (rf s.dev (prefBase c pf + 0x18) 0 32 ≤ p1)) }) ∧
    (∀ (s : State) (c pf p0 p1 p2 p3 : Nat), (.prefetchLineIssue c pf : Instr).wellFormed = true → Serving s → kernelRuns s.dev c = true → (coreOf s.dev c).pfActive.contains pf = true → tget (coreOf s.dev c).pfPos pf (0, 0, 0, 0) = (p0, p1, p2, p3) → prefBound (consumeAll (latch s) c pf) c pf = false → (rf s.dev (prefBase c pf) 1 2 = 1 ∨ rf s.dev (prefBase c pf) 1 2 = 2) → 0 < p2 → corePrefetch (consumeAll (latch s) c pf) c p3 = .dropped →
      exec (.prefetchLineIssue c pf) s = .next { s with dev := prefMove (countPrefetch (consumeAll (latch s) c pf) c pf true) c pf ((p0 + 1) % 2 ^ 32, p1, p2 - 1, p3 + 64) (decide (p2 = 1) && decide (rf s.dev (prefBase c pf + 0x18) 0 32 ≤ p1)) }) ∧
    (∀ (s : State) (c pf p0 p1 p2 p3 : Nat), (.prefetchLineIssue c pf : Instr).wellFormed = true → Serving s → kernelRuns s.dev c = true → (coreOf s.dev c).pfActive.contains pf = true → tget (coreOf s.dev c).pfPos pf (0, 0, 0, 0) = (p0, p1, p2, p3) → prefBound (consumeAll (latch s) c pf) c pf = false → (rf s.dev (prefBase c pf) 1 2 = 1 ∨ rf s.dev (prefBase c pf) 1 2 = 2) → p2 = 0 → rf s.dev (prefBase c pf + 0x18) 0 32 ≤ p1 →
      exec (.prefetchLineIssue c pf) s = .next { s with dev := prefDone (consumeAll (latch s) c pf) c pf }) ∧
    (∀ (s : State) (c pf p0 p1 p2 p3 : Nat) (g : Dev) (l : Bytes), (.prefetchLineIssue c pf : Instr).wellFormed = true → Serving s → kernelRuns s.dev c = true → (coreOf s.dev c).pfActive.contains pf = true → tget (coreOf s.dev c).pfPos pf (0, 0, 0, 0) = (p0, p1, p2, p3) → prefBound (consumeAll (latch s) c pf) c pf = false → (rf s.dev (prefBase c pf) 1 2 = 1 ∨ rf s.dev (prefBase c pf) 1 2 = 2) → p2 = 0 → p1 < rf s.dev (prefBase c pf + 0x18) 0 32 → p3 ≠ halfEntry → (rf s.dev (prefBase c pf + 8) 0 48 + (if rf s.dev (prefBase c pf) 1 2 = 1 then 8 else 4) * p1) % 64 + (if rf s.dev (prefBase c pf) 1 2 = 1 then 8 else 4) ≤ 64 → corePrefetch (consumeAll (latch s) c pf) c (rf s.dev (prefBase c pf + 8) 0 48 + (if rf s.dev (prefBase c pf) 1 2 = 1 then 8 else 4) * p1) = .line g l → g.boot = s.dev.boot → g.errq.due = [] → g.tagWait = [] → g.tagHeld = [] → g.sw.seen = [] →
      exec (.prefetchLineIssue c pf) s = .next { s with dev := prefBlock (if (p1 = 0 ∨ (rf s.dev (prefBase c pf + 8) 0 48 + (if rf s.dev (prefBase c pf) 1 2 = 1 then 8 else 4) * p1) % 64 = 0) then countPrefetch g c pf false else g) c pf (rf s.dev (prefBase c pf) 1 2) (if (p1 = 0 ∨ (rf s.dev (prefBase c pf + 8) 0 48 + (if rf s.dev (prefBase c pf) 1 2 = 1 then 8 else 4) * p1) % 64 = 0) then (p0 + 1) % 2 ^ 32 else p0) p1 (fieldAt l ((rf s.dev (prefBase c pf + 8) 0 48 + (if rf s.dev (prefBase c pf) 1 2 = 1 then 8 else 4) * p1) % 64) (if rf s.dev (prefBase c pf) 1 2 = 1 then 8 else 4)) }) ∧
    (∀ (s : State) (c pf p0 p1 p2 p3 : Nat), (.prefetchLineIssue c pf : Instr).wellFormed = true → Serving s → kernelRuns s.dev c = true → (coreOf s.dev c).pfActive.contains pf = true → tget (coreOf s.dev c).pfPos pf (0, 0, 0, 0) = (p0, p1, p2, p3) → prefBound (consumeAll (latch s) c pf) c pf = false → (rf s.dev (prefBase c pf) 1 2 = 1 ∨ rf s.dev (prefBase c pf) 1 2 = 2) → p2 = 0 → p1 < rf s.dev (prefBase c pf + 0x18) 0 32 → p3 ≠ halfEntry → corePrefetch (consumeAll (latch s) c pf) c (rf s.dev (prefBase c pf + 8) 0 48 + (if rf s.dev (prefBase c pf) 1 2 = 1 then 8 else 4) * p1) = .dropped →
      exec (.prefetchLineIssue c pf) s = .next { s with dev := prefDone (countPrefetch (consumeAll (latch s) c pf) c pf true) c pf }) ∧
    (∀ (s : State) (c pf p0 p1 p2 p3 : Nat) (g : Dev) (l : Bytes), (.prefetchLineIssue c pf : Instr).wellFormed = true → Serving s → kernelRuns s.dev c = true → (coreOf s.dev c).pfActive.contains pf = true → tget (coreOf s.dev c).pfPos pf (0, 0, 0, 0) = (p0, p1, p2, p3) → prefBound (consumeAll (latch s) c pf) c pf = false → (rf s.dev (prefBase c pf) 1 2 = 1 ∨ rf s.dev (prefBase c pf) 1 2 = 2) → p2 = 0 → p1 < rf s.dev (prefBase c pf + 0x18) 0 32 → p3 ≠ halfEntry → 64 < (rf s.dev (prefBase c pf + 8) 0 48 + (if rf s.dev (prefBase c pf) 1 2 = 1 then 8 else 4) * p1) % 64 + (if rf s.dev (prefBase c pf) 1 2 = 1 then 8 else 4) → (p1 = 0 ∨ (rf s.dev (prefBase c pf + 8) 0 48 + (if rf s.dev (prefBase c pf) 1 2 = 1 then 8 else 4) * p1) % 64 = 0) → corePrefetch (consumeAll (latch s) c pf) c (rf s.dev (prefBase c pf + 8) 0 48 + (if rf s.dev (prefBase c pf) 1 2 = 1 then 8 else 4) * p1) = .line g l → g.boot = s.dev.boot → g.errq.due = [] → g.tagWait = [] → g.tagHeld = [] → g.sw.seen = [] →
      exec (.prefetchLineIssue c pf) s = .next { s with dev := prefMove (countPrefetch g c pf false) c pf ((p0 + 1) % 2 ^ 32, p1, 0, halfEntry) false }) ∧
    (∀ (s : State) (c pf p0 p1 p2 p3 : Nat) (g : Dev) (l : Bytes) (e : Dev) (m : Bytes), (.prefetchLineIssue c pf : Instr).wellFormed = true → Serving s → kernelRuns s.dev c = true → (coreOf s.dev c).pfActive.contains pf = true → tget (coreOf s.dev c).pfPos pf (0, 0, 0, 0) = (p0, p1, p2, p3) → prefBound (consumeAll (latch s) c pf) c pf = false → (rf s.dev (prefBase c pf) 1 2 = 1 ∨ rf s.dev (prefBase c pf) 1 2 = 2) → p2 = 0 → p1 < rf s.dev (prefBase c pf + 0x18) 0 32 → p3 = halfEntry → 64 < (rf s.dev (prefBase c pf + 8) 0 48 + (if rf s.dev (prefBase c pf) 1 2 = 1 then 8 else 4) * p1) % 64 + (if rf s.dev (prefBase c pf) 1 2 = 1 then 8 else 4) → corePrefetch (consumeAll (latch s) c pf) c (rf s.dev (prefBase c pf + 8) 0 48 + (if rf s.dev (prefBase c pf) 1 2 = 1 then 8 else 4) * p1) = .line e m → corePrefetch e c ((rf s.dev (prefBase c pf + 8) 0 48 + (if rf s.dev (prefBase c pf) 1 2 = 1 then 8 else 4) * p1) / 64 * 64 + 64) = .line g l → g.boot = s.dev.boot → g.errq.due = [] → g.tagWait = [] → g.tagHeld = [] → g.sw.seen = [] →
      exec (.prefetchLineIssue c pf) s = .next { s with dev := prefBlock (countPrefetch g c pf false) c pf (rf s.dev (prefBase c pf) 1 2) ((p0 + 1) % 2 ^ 32) p1 (fieldAt (m ++ l) ((rf s.dev (prefBase c pf + 8) 0 48 + (if rf s.dev (prefBase c pf) 1 2 = 1 then 8 else 4) * p1) % 64) (if rf s.dev (prefBase c pf) 1 2 = 1 then 8 else 4)) }) ∧
    (∀ (s : State) (c pf p0 p1 p2 p3 : Nat), (.prefetchLineIssue c pf : Instr).wellFormed = true → Serving s → (coreOf s.dev c).state = 2 → (coreOf s.dev c).pfActive.contains pf = true → tget (coreOf s.dev c).pfPos pf (0, 0, 0, 0) = (p0, p1, p2, p3) → p0 < rf s.dev (prefBase c pf + 0x40) 0 32 + min 128 (rf s.dev (prefBase c pf) 8 8) → rf s.dev (prefBase c pf) 1 2 = 0 → p0 + 1 < rf s.dev (prefBase c pf + 0x18) 0 32 → findRange s.dev (coreOf s.dev c).ctx (coreGen s.dev c) (((rf s.dev (prefBase c pf + 8) 0 48 : Int) + toSigned 32 (rf s.dev (prefBase c pf + 0x10) 0 32) * p0) % (2 ^ 48 : Nat)).toNat = none →
      exec (.prefetchLineIssue c pf) s = .next { s with dev := telF { latch s with cores := tput s.dev.cores c { (coreOf s.dev c) with pfDropped := inSet (coreOf s.dev c).pfDropped pf true, pfPos := tput (coreOf s.dev c).pfPos pf (p0 + 1, p1, p2, p3) } } (c / 16) (0x2000 + c % 16 * 0x40 + 0x18) 1 })

/-- A load extends the bytes read into its register (x0 stays zero), from local memory, from a line of a context address that the slice holds, or from a register of the alias; a store writes its bytes there; an AMO stores the operation on the old value and gives the old value, extended; on a coherent range it acts in an OWNED line of the data cache. LR of such a line makes its reservation; SC with it stores and gives 0, SC without it stores nothing and gives 1. A misaligned address is a kernel fault with cause 2, a hole of the map cause 3, a store into the code region cause 5, LR or SC outside a coherent range cause 6. Nothing else changes. What an AMO on the alias does is the model's choice (log entry 38). -/
def Obligations.ScalarAccesses : Prop :=
    (∀ (s : State) (c addr size rd : Nat) (uns : Bool) (far : Far), (.scalarLoad c addr size rd uns far : Instr).wellFormed = true → Serving s → scalarReady s.dev c = true → addr % size = 0 → addr < 0x800000 → (coreOf s.dev c).flips = [] →
      exec (.scalarLoad c addr size rd uns far) s = .next { s with dev := { latch s with cores := if rd = 0 then s.dev.cores else tput s.dev.cores c { (coreOf s.dev c) with xregs := tput (coreOf s.dev c).xregs rd ((loadValue size uns (leNat (lmRead (coreOf s.dev c) addr size))) % 2 ^ 64) }, out := .load c rd ((loadValue size uns (leNat (lmRead (coreOf s.dev c) addr size))) % 2 ^ 64) :: s.dev.out } }) ∧
    (∀ (s : State) (c addr size rd : Nat) (uns : Bool) (far : Far) (k u : Nat) (r : Range) (l : CLine), (.scalarLoad c addr size rd uns far : Instr).wellFormed = true → Serving s → scalarReady s.dev c = true → addr % size = 0 → 2 ^ 48 ≤ addr → addr < 2 ^ 49 → rd ≠ 0 → findRange s.dev (coreOf s.dev c).ctx (coreGen s.dev c) (addr - 2 ^ 48) = some (k, r) → r.coh = false → r.r = true → u = r.uni + ((addr - 2 ^ 48) - r.start) → (pageOf s.dev (u / 65536)).tier = 1 ∨ (pageOf s.dev (u / 65536)).tier = 2 → (pageOf s.dev (u / 65536)).packed = false → floeOn s.dev (homeFloe (u / 65536)) = true → tget? s.dev.dir (u / 64) = none → tget? s.dev.cache (u / 64) = some l → SoundLine s.dev (u / 64) → (coreOf s.dev c).flips = [] →
      ∃ t, exec (.scalarLoad c addr size rd uns far) s = .next t ∧ (coreOf t.dev c) = { (coreOf s.dev c) with xregs := tput (coreOf s.dev c).xregs rd (loadValue size uns (fieldAt l.data ((addr - 2 ^ 48) % 64) size) % 2 ^ 64) } ∧ t.dev.out = .load c rd (loadValue size uns (fieldAt l.data ((addr - 2 ^ 48) % 64) size) % 2 ^ 64) :: s.dev.out ∧ t.dev.cores = tput s.dev.cores c (coreOf t.dev c) ∧ t.dev.recent = (useLine s.dev (u / 64)).recent ∧ t = { s with dev := { latch s with cores := t.dev.cores, tel := t.dev.tel, out := t.dev.out, recent := t.dev.recent } }) ∧
    (∀ (s : State) (c addr size rd : Nat) (uns : Bool) (far : Far) (e : Dev) (v : Nat), (.scalarLoad c addr size rd uns far : Instr).wellFormed = true → Serving s → scalarReady s.dev c = true → addr % size = 0 → 0x1000000 ≤ addr → addr < 0x1004000 → coreRead s.clk (latch s) c (addr - 0x1000000) size = (e, v) → e.boot = s.dev.boot → e.errq.due = [] → e.tagWait = [] → e.tagHeld = [] → e.sw.seen = [] →
      exec (.scalarLoad c addr size rd uns far) s = .next { s with dev := setX e c rd (loadValue size uns v) }) ∧
    (∀ (s : State) (c addr size rd : Nat) (uns : Bool) (far : Far), (.scalarLoad c addr size rd uns far : Instr).wellFormed = true → Serving s → scalarReady s.dev c = true → addr % size ≠ 0 → openOf s.dev.errq 2 c = none →
      ∃ t, exec (.scalarLoad c addr size rd uns far) s = .next t ∧ (coreOf t.dev c) = stopChans { (coreOf s.dev c) with state := 3, faultCause := 2, stopWith := some (0x17, 0, true), sync := none, stalled := none } ∧ t.dev.errq.next = (s.dev.errq.next + 1) % 2 ^ 32 ∧ t = { s with dev := { latch s with cores := t.dev.cores, cmds := t.dev.cmds, errq := t.dev.errq, tel := t.dev.tel, mbx := t.dev.mbx, ports := t.dev.ports, out := t.dev.out } }) ∧
    (∀ (s : State) (c addr size rd : Nat) (uns : Bool) (far : Far), (.scalarLoad c addr size rd uns far : Instr).wellFormed = true → Serving s → scalarReady s.dev c = true → addr % size = 0 → placeOf addr = .hole → openOf s.dev.errq 2 c = none →
      ∃ t, exec (.scalarLoad c addr size rd uns far) s = .next t ∧ (coreOf t.dev c) = stopChans { (coreOf s.dev c) with state := 3, faultCause := 3, stopWith := some (0x17, 0, true), sync := none, stalled := none } ∧ t.dev.errq.next = (s.dev.errq.next + 1) % 2 ^ 32 ∧ t = { s with dev := { latch s with cores := t.dev.cores, cmds := t.dev.cmds, errq := t.dev.errq, tel := t.dev.tel, mbx := t.dev.mbx, ports := t.dev.ports, out := t.dev.out } }) ∧
    (∀ (s : State) (c addr size v : Nat) (far : Far), (.scalarStore c addr size v far : Instr).wellFormed = true → Serving s → scalarReady s.dev c = true → addr % size = 0 → addr < 0x800000 → inCode (coreOf s.dev c) addr size = false →
      exec (.scalarStore c addr size v far) s = .next { s with dev := { latch s with cores := tput s.dev.cores c { (coreOf s.dev c) with lm := memWrite (coreOf s.dev c).lm addr (leBytes size v), flips := flipsWritten (coreOf s.dev c).flips addr size } } }) ∧
    (∀ (s : State) (c addr size v : Nat) (far : Far), (.scalarStore c addr size v far : Instr).wellFormed = true → Serving s → scalarReady s.dev c = true → addr % size = 0 → addr < 0x800000 → inCode (coreOf s.dev c) addr size = true → openOf s.dev.errq 2 c = none →
      ∃ t, exec (.scalarStore c addr size v far) s = .next t ∧ (coreOf t.dev c) = stopChans { (coreOf s.dev c) with state := 3, faultCause := 5, stopWith := some (0x17, 0, true), sync := none, stalled := none } ∧ t.dev.errq.next = (s.dev.errq.next + 1) % 2 ^ 32 ∧ t = { s with dev := { latch s with cores := t.dev.cores, cmds := t.dev.cmds, errq := t.dev.errq, tel := t.dev.tel, mbx := t.dev.mbx, ports := t.dev.ports, out := t.dev.out } }) ∧
    (∀ (s : State) (c addr size v : Nat) (far : Far) (k u : Nat) (r : Range) (l : CLine), (.scalarStore c addr size v far : Instr).wellFormed = true → Serving s → scalarReady s.dev c = true → addr % size = 0 → 2 ^ 48 ≤ addr → addr < 2 ^ 49 → findRange s.dev (coreOf s.dev c).ctx (coreGen s.dev c) (addr - 2 ^ 48) = some (k, r) → r.coh = false → r.w = true → u = r.uni + ((addr - 2 ^ 48) - r.start) → (pageOf s.dev (u / 65536)).tier = 1 ∨ (pageOf s.dev (u / 65536)).tier = 2 → (pageOf s.dev (u / 65536)).packed = false → floeOn s.dev (homeFloe (u / 65536)) = true → tget? s.dev.dir (u / 64) = none → tget? s.dev.cache (u / 64) = some l → SoundLine s.dev (u / 64) → (coreOf s.dev c).flips = [] → (pageOf s.dev (u / 65536)).durable = false → (pageOf s.dev (u / 65536)).twin = false → l.data.length = 64 → (pageOf s.dev (u / 65536)).noPack = false → mustHold s.dev (.scalar c 0 0) (u / 64) false = false →
      ∃ t, exec (.scalarStore c addr size v far) s = .next t ∧ t.dev.cache = tput s.dev.cache (u / 64) ⟨splice l.data ((addr - 2 ^ 48) % 64) (leBytes size v), true⟩ ∧ t.dev.sliceFlips = tdel s.dev.sliceFlips (u / 64) ∧ t.dev.cmds = (noteWrites s.dev c 1).cmds ∧ t = { s with dev := { latch s with cache := t.dev.cache, tel := t.dev.tel, recent := t.dev.recent, sliceFlips := t.dev.sliceFlips, cmds := t.dev.cmds } }) ∧
    (∀ (s : State) (c addr size v : Nat) (far : Far) (e : Dev), (.scalarStore c addr size v far : Instr).wellFormed = true → Serving s → scalarReady s.dev c = true → addr % size = 0 → 0x1000000 ≤ addr → addr < 0x1004000 → coreWrite s.clk (latch s) c (addr - 0x1000000) size v = e → e.boot = s.dev.boot → e.errq.due = [] → e.tagWait = [] → e.tagHeld = [] → e.sw.seen = [] →
      exec (.scalarStore c addr size v far) s = .next { s with dev := e }) ∧
    (∀ (s : State) (c op addr size v rd : Nat) (far : Far), (.scalarAmo c op addr size v rd far : Instr).wellFormed = true → Serving s → scalarReady s.dev c = true → addr % size = 0 → addr < 0x800000 → inCode (coreOf s.dev c) addr size = false → (coreOf s.dev c).flips = [] →
      exec (.scalarAmo c op addr size v rd far) s = .next { s with dev := { latch s with cores := if rd = 0 then tput s.dev.cores c { (coreOf s.dev c) with lm := memWrite (coreOf s.dev c).lm addr (leBytes size (atomicNew op size (leNat (lmRead (coreOf s.dev c) addr size)) v 0)) } else tput s.dev.cores c { { (coreOf s.dev c) with lm := memWrite (coreOf s.dev c).lm addr (leBytes size (atomicNew op size (leNat (lmRead (coreOf s.dev c) addr size)) v 0)) } with xregs := tput (coreOf s.dev c).xregs rd ((extendReg size (leNat (lmRead (coreOf s.dev c) addr size))) % 2 ^ 64) }, out := .load c rd ((extendReg size (leNat (lmRead (coreOf s.dev c) addr size))) % 2 ^ 64) :: s.dev.out } }) ∧
    (∀ (s : State) (c op addr size v rd k u : Nat) (far : Far) (r : Range) (l : DLine), (.scalarAmo c op addr size v rd far : Instr).wellFormed = true → Serving s → scalarReady s.dev c = true → addr % size = 0 → 2 ^ 48 ≤ addr → addr < 2 ^ 49 → rd ≠ 0 → findRange s.dev (coreOf s.dev c).ctx (coreGen s.dev c) (addr - 2 ^ 48) = some (k, r) → r.coh = true → r.a = true → u = r.uni + ((addr - 2 ^ 48) - r.start) → (pageOf s.dev (u / 65536)).tier = 1 ∨ (pageOf s.dev (u / 65536)).tier = 2 → (coreOf s.dev c).flips = [] → (coreOf s.dev c).dcache = [(u / 64, l)] → l.owned = true →
      ∃ t, exec (.scalarAmo c op addr size v rd far) s = .next t ∧ (coreOf t.dev c) = { (coreOf s.dev c) with dcache := [(u / 64, { l with data := splice l.data ((addr - 2 ^ 48) % 64) (leBytes size (atomicNew op size (fieldAt l.data ((addr - 2 ^ 48) % 64) size) v 0)), dirty := true })], xregs := tput (coreOf s.dev c).xregs rd (extendReg size (fieldAt l.data ((addr - 2 ^ 48) % 64) size) % 2 ^ 64) } ∧ t.dev.cores = tput s.dev.cores c (coreOf t.dev c) ∧ t.dev.cmds = (noteWrites s.dev c 1).cmds ∧ t = { s with dev := { latch s with cores := t.dev.cores, out := t.dev.out, cmds := t.dev.cmds } }) ∧
    (∀ (s : State) (c op addr size v rd : Nat) (far : Far) (e e2 : Dev) (old : Nat), (.scalarAmo c op addr size v rd far : Instr).wellFormed = true → Serving s → scalarReady s.dev c = true → addr % size = 0 → 0x1000000 ≤ addr → addr < 0x1004000 → coreRead s.clk (latch s) c (addr - 0x1000000) size = (e, old) → coreWrite s.clk e c (addr - 0x1000000) size (atomicNew op size old v 0) = e2 → e2.boot = s.dev.boot → e2.errq.due = [] → e2.tagWait = [] → e2.tagHeld = [] → e2.sw.seen = [] →
      exec (.scalarAmo c op addr size v rd far) s = .next { s with dev := setX e2 c rd (extendReg size old) }) ∧
    (∀ (s : State) (c addr size v rd k u : Nat) (r : Range) (l : DLine), (.scalarLrSc c false addr size v rd : Instr).wellFormed = true → Serving s → scalarReady s.dev c = true → addr % size = 0 → 2 ^ 48 ≤ addr → addr < 2 ^ 49 → rd ≠ 0 → findRange s.dev (coreOf s.dev c).ctx (coreGen s.dev c) (addr - 2 ^ 48) = some (k, r) → r.coh = true → r.a = true → u = r.uni + ((addr - 2 ^ 48) - r.start) → (pageOf s.dev (u / 65536)).tier = 1 ∨ (pageOf s.dev (u / 65536)).tier = 2 → (coreOf s.dev c).flips = [] → (coreOf s.dev c).dcache = [(u / 64, l)] → l.owned = true →
      ∃ t, exec (.scalarLrSc c false addr size v rd) s = .next t ∧ (coreOf t.dev c) = { (coreOf s.dev c) with reserve := some (u / 64), xregs := tput (coreOf s.dev c).xregs rd (extendReg size (fieldAt l.data ((addr - 2 ^ 48) % 64) size) % 2 ^ 64) } ∧ t.dev.cores = tput s.dev.cores c (coreOf t.dev c) ∧ t = { s with dev := { latch s with cores := t.dev.cores, out := t.dev.out } }) ∧
    (∀ (s : State) (c addr size v rd k u : Nat) (r : Range) (l : DLine), (.scalarLrSc c true addr size v rd : Instr).wellFormed = true → Serving s → scalarReady s.dev c = true → addr % size = 0 → 2 ^ 48 ≤ addr → addr < 2 ^ 49 → rd ≠ 0 → findRange s.dev (coreOf s.dev c).ctx (coreGen s.dev c) (addr - 2 ^ 48) = some (k, r) → r.coh = true → r.a = true → u = r.uni + ((addr - 2 ^ 48) - r.start) → (coreOf s.dev c).flips = [] → (coreOf s.dev c).dcache = [(u / 64, l)] → l.owned = true → (coreOf s.dev c).reserve = some (u / 64) →
      ∃ t, exec (.scalarLrSc c true addr size v rd) s = .next t ∧ (coreOf t.dev c) = { (coreOf s.dev c) with reserve := none, dcache := [(u / 64, { l with data := splice l.data ((addr - 2 ^ 48) % 64) (leBytes size v), dirty := true })], xregs := tput (coreOf s.dev c).xregs rd 0 } ∧ t.dev.cores = tput s.dev.cores c (coreOf t.dev c) ∧ t.dev.cmds = (noteWrites s.dev c 1).cmds ∧ t = { s with dev := { latch s with cores := t.dev.cores, out := t.dev.out, cmds := t.dev.cmds } }) ∧
    (∀ (s : State) (c addr size v rd k u : Nat) (r : Range), (.scalarLrSc c true addr size v rd : Instr).wellFormed = true → Serving s → scalarReady s.dev c = true → addr % size = 0 → 2 ^ 48 ≤ addr → addr < 2 ^ 49 → rd ≠ 0 → findRange s.dev (coreOf s.dev c).ctx (coreGen s.dev c) (addr - 2 ^ 48) = some (k, r) → r.coh = true → r.a = true → u = r.uni + ((addr - 2 ^ 48) - r.start) → (coreOf s.dev c).reserve ≠ some (u / 64) →
      ∃ t, exec (.scalarLrSc c true addr size v rd) s = .next t ∧ (coreOf t.dev c) = { (coreOf s.dev c) with reserve := none, xregs := tput (coreOf s.dev c).xregs rd 1 } ∧ t.dev.cores = tput s.dev.cores c (coreOf t.dev c) ∧ t = { s with dev := { latch s with cores := t.dev.cores, out := t.dev.out } }) ∧
    (∀ (s : State) (c addr size v rd k : Nat) (sc : Bool) (r : Range), (.scalarLrSc c sc addr size v rd : Instr).wellFormed = true → Serving s → scalarReady s.dev c = true → addr % size = 0 → 2 ^ 48 ≤ addr → addr < 2 ^ 49 → findRange s.dev (coreOf s.dev c).ctx (coreGen s.dev c) (addr - 2 ^ 48) = some (k, r) → r.coh = false → openOf s.dev.errq 2 c = none →
      ∃ t, exec (.scalarLrSc c sc addr size v rd) s = .next t ∧ (coreOf t.dev c) = stopChans { (coreOf s.dev c) with state := 3, faultCause := 6, stopWith := some (0x17, 0, true), sync := none, stalled := none } ∧ t.dev.errq.next = (s.dev.errq.next + 1) % 2 ^ 32 ∧ t = { s with dev := { latch s with cores := t.dev.cores, cmds := t.dev.cmds, errq := t.dev.errq, tel := t.dev.tel, mbx := t.dev.mbx, ports := t.dev.ports, out := t.dev.out } })

/-- At a directory slice in service, for a line of a coherent page: RD_SHARED of a line that is SHARED or INVALID makes it SHARED with the requester's bit set, and the requester gets the line; RD_OWN takes away the other core's clean copy and makes the line OWNED by the requester; UPGRADE of its only sharer makes it OWNED; the owner's WB stores its bytes, the line SHARED where it keeps its copy, else INVALID; a poisoned WB leaves an orphan; EVICT clears the agent's bit, and behind a transaction it waits, as requests do. A port's request is answered at its link, with line data and meta state or a completion. NC_RD returns the line, and one that was owned stays SHARED; NC_WR takes the copies away and merges its bytes; NC_ATOMIC replaces the value of its operand and returns the old one. A request that waited is served in its turn. -/
def Obligations.DirectoryRequests : Prop :=
    (∀ (s : State) (agent line sh ow : Nat) (l : CLine), (.rdShared agent line : Instr).wellFormed = true → Serving s → agent < 64 → dirOf s.dev line = ⟨sh, 1, ow, none⟩ → floeOn s.dev (homeFloe (pageOfLine line)) = true → (pageOf s.dev (pageOfLine line)).tier = 1 ∨ (pageOf s.dev (pageOfLine line)).tier = 2 → (pageOf s.dev (pageOfLine line)).packed = false → tget? s.dev.cache line = some l → SoundLine s.dev line → dirPending s.dev (homeFloe (pageOfLine line)) < 512 → tget s.dev.dirFlips line 0 = 0 → s.dev.dirWait.any (fun w => decide (w.1 = line)) = false → dirQueue s.dev (homeFloe (pageOfLine line)) < 1024 → pageCoherent s.dev (pageOfLine line) = true → ((tkeys (coreOf s.dev agent).dcache).filter (fun k => decide (k % 256 = line % 256 ∧ k ≠ line))).length < 4 →
      ∃ t, exec (.rdShared agent line) s = .next t ∧ dirOf t.dev line = ⟨addSharer sh agent, 1, 0xFF, none⟩ ∧ t.dev.cores = tput s.dev.cores agent { (coreOf s.dev agent) with dcache := tput (coreOf s.dev agent).dcache line ⟨l.data, false, false⟩ } ∧ t.dev.recent = (useDir (useLine s.dev line) line).recent ∧ t = { s with dev := { latch s with dir := t.dev.dir, cores := t.dev.cores, tel := t.dev.tel, recent := t.dev.recent } }) ∧
    (∀ (s : State) (agent line : Nat) (l : CLine), (.rdShared agent line : Instr).wellFormed = true → Serving s → agent < 64 → dirOf s.dev line = ⟨0, 0, 0xFF, none⟩ → floeOn s.dev (homeFloe (pageOfLine line)) = true → (pageOf s.dev (pageOfLine line)).tier = 1 ∨ (pageOf s.dev (pageOfLine line)).tier = 2 → (pageOf s.dev (pageOfLine line)).packed = false → tget? s.dev.cache line = some l → SoundLine s.dev line → dirPending s.dev (homeFloe (pageOfLine line)) < 512 → tget s.dev.dirFlips line 0 = 0 → s.dev.dirWait.any (fun w => decide (w.1 = line)) = false → dirQueue s.dev (homeFloe (pageOfLine line)) < 1024 → pageCoherent s.dev (pageOfLine line) = true → (dirWays s.dev line).length < 16 → ((tkeys (coreOf s.dev agent).dcache).filter (fun k => decide (k % 256 = line % 256 ∧ k ≠ line))).length < 4 →
      ∃ t, exec (.rdShared agent line) s = .next t ∧ dirOf t.dev line = ⟨2 ^ agent, 1, 0xFF, none⟩ ∧ t.dev.cores = tput s.dev.cores agent { (coreOf s.dev agent) with dcache := tput (coreOf s.dev agent).dcache line ⟨l.data, false, false⟩ } ∧ t.dev.recent = (useDir (useLine s.dev line) line).recent ∧ t = { s with dev := { latch s with dir := t.dev.dir, cores := t.dev.cores, tel := t.dev.tel, recent := t.dev.recent } }) ∧
    (∀ (s : State) (p line sh ow : Nat) (l : CLine) (q : PortReq), (.rdShared (64 + p) line : Instr).wellFormed = true → Serving s → p < 12 → linkUp (portOf s.dev p) = true → portLoad s.dev p false < 512 → (portOf s.dev p).flit256 = true → decodeLine s.dev p line = some q → pageCheck s.dev q.ctx (pageOfLine line) false = none → dirOf s.dev line = ⟨sh, 1, ow, none⟩ → floeOn s.dev (homeFloe (pageOfLine line)) = true → (pageOf s.dev (pageOfLine line)).tier = 1 ∨ (pageOf s.dev (pageOfLine line)).tier = 2 → (pageOf s.dev (pageOfLine line)).packed = false → tget? s.dev.cache line = some l → SoundLine s.dev line → dirPending s.dev (homeFloe (pageOfLine line)) < 512 → tget s.dev.dirFlips line 0 = 0 → s.dev.dirWait.any (fun w => decide (w.1 = line)) = false → dirQueue s.dev (homeFloe (pageOfLine line)) < 1024 → pageCoherent s.dev (pageOfLine line) = true →
      ∃ t, exec (.rdShared (64 + p) line) s = .next t ∧ dirOf t.dev line = ⟨addSharer sh (64 + p), 1, 0xFF, none⟩ ∧ t.dev.out = .memData p q.hpa l.data false 3 :: s.dev.out ∧ t.dev.portReqs = tdel s.dev.portReqs (16 * line + p) ∧ t.dev.recent = (useDir (useLine s.dev line) line).recent ∧ t = { s with dev := { latch s with dir := t.dev.dir, ports := t.dev.ports, portReqs := t.dev.portReqs, tel := t.dev.tel, out := t.dev.out, recent := t.dev.recent } }) ∧
    (∀ (s : State) (p line : Nat) (l : CLine) (q : PortReq), (.rdOwn (64 + p) line : Instr).wellFormed = true → Serving s → p < 12 → linkUp (portOf s.dev p) = true → portLoad s.dev p false < 512 → (portOf s.dev p).flit256 = true → decodeLine s.dev p line = some q → pageCheck s.dev q.ctx (pageOfLine line) true = none → dirOf s.dev line = ⟨0, 0, 0xFF, none⟩ → floeOn s.dev (homeFloe (pageOfLine line)) = true → (pageOf s.dev (pageOfLine line)).tier = 1 ∨ (pageOf s.dev (pageOfLine line)).tier = 2 → (pageOf s.dev (pageOfLine line)).packed = false → tget? s.dev.cache line = some l → SoundLine s.dev line → dirPending s.dev (homeFloe (pageOfLine line)) < 512 → tget s.dev.dirFlips line 0 = 0 → s.dev.dirWait.any (fun w => decide (w.1 = line)) = false → dirQueue s.dev (homeFloe (pageOfLine line)) < 1024 → pageCoherent s.dev (pageOfLine line) = true → (dirWays s.dev line).length < 16 →
      ∃ t, exec (.rdOwn (64 + p) line) s = .next t ∧ dirOf t.dev line = ⟨2 ^ (64 + p), 2, 64 + p, none⟩ ∧ t.dev.out = .memData p q.hpa l.data false 2 :: s.dev.out ∧ t.dev.portReqs = tdel s.dev.portReqs (16 * line + p) ∧ t.dev.recent = (useDir (useLine s.dev line) line).recent ∧ t = { s with dev := { latch s with dir := t.dev.dir, ports := t.dev.ports, portReqs := t.dev.portReqs, tel := t.dev.tel, out := t.dev.out, recent := t.dev.recent } }) ∧
    (∀ (s : State) (p line : Nat) (q : PortReq), (.upgrade (64 + p) line : Instr).wellFormed = true → Serving s → p < 12 → linkUp (portOf s.dev p) = true → portLoad s.dev p false < 512 → (portOf s.dev p).flit256 = true → decodeLine s.dev p line = some q → pageCheck s.dev q.ctx (pageOfLine line) true = none → dirOf s.dev line = ⟨2 ^ (64 + p), 1, 0xFF, none⟩ → floeOn s.dev (homeFloe (pageOfLine line)) = true → dirPending s.dev (homeFloe (pageOfLine line)) < 512 → tget s.dev.dirFlips line 0 = 0 → s.dev.dirWait.any (fun w => decide (w.1 = line)) = false → dirQueue s.dev (homeFloe (pageOfLine line)) < 1024 → (pageOf s.dev (pageOfLine line)).tier = 1 ∨ (pageOf s.dev (pageOfLine line)).tier = 2 → pageCoherent s.dev (pageOfLine line) = true →
      ∃ t, exec (.upgrade (64 + p) line) s = .next t ∧ dirOf t.dev line = ⟨2 ^ (64 + p), 2, 64 + p, none⟩ ∧ t.dev.out = .memDone p q.hpa :: s.dev.out ∧ t.dev.portReqs = tdel s.dev.portReqs (16 * line + p) ∧ t.dev.recent = (useDir s.dev line).recent ∧ t = { s with dev := { latch s with dir := t.dev.dir, ports := t.dev.ports, portReqs := t.dev.portReqs, tel := t.dev.tel, out := t.dev.out, recent := t.dev.recent } }) ∧
    (∀ (s : State) (agent line : Nat), (.rdShared agent line : Instr).wellFormed = true → Serving s → agent < 64 → (dirOf s.dev line).txn.isSome = true → (dirOf s.dev line).state ≠ 3 → floeOn s.dev (homeFloe (pageOfLine line)) = true → tget s.dev.dirFlips line 0 = 0 →
      ∃ t, exec (.rdShared agent line) s = .next t ∧ t.dev.dirWait = s.dev.dirWait ++ [(line, .rdShared agent)] ∧ t = { s with dev := { latch s with dirWait := t.dev.dirWait, tel := t.dev.tel } }) ∧
    (∀ (s : State) (agent o line : Nat) (l : CLine) (x : DLine), (.rdOwn agent line : Instr).wellFormed = true → Serving s → agent < 64 → o < 64 → o ≠ agent → dirOf s.dev line = ⟨2 ^ o, 1, 0xFF, none⟩ → floeOn s.dev (homeFloe (pageOfLine line)) = true → (pageOf s.dev (pageOfLine line)).tier = 1 ∨ (pageOf s.dev (pageOfLine line)).tier = 2 → (pageOf s.dev (pageOfLine line)).packed = false → tget? s.dev.cache line = some l → SoundLine s.dev line → dirPending s.dev (homeFloe (pageOfLine line)) < 512 → tget s.dev.dirFlips line 0 = 0 → s.dev.dirWait.any (fun w => decide (w.1 = line)) = false → dirQueue s.dev (homeFloe (pageOfLine line)) < 1024 → pageCoherent s.dev (pageOfLine line) = true → s.dev.dirWalk = [] → ((tkeys (coreOf s.dev agent).dcache).filter (fun k => decide (k % 256 = line % 256 ∧ k ≠ line))).length < 4 → tget? (coreOf s.dev o).dcache line = some x → x.dirty = false →
      ∃ t, exec (.rdOwn agent line) s = .next t ∧ dirOf t.dev line = ⟨2 ^ agent, 2, agent, none⟩ ∧ t.dev.cores = tput (tput s.dev.cores o { (coreOf s.dev o) with dcache := tdel (coreOf s.dev o).dcache line, flips := tdel (coreOf s.dev o).flips (dcKey line), reserve := if (coreOf s.dev o).reserve = some line then none else (coreOf s.dev o).reserve }) agent { (coreOf s.dev agent) with dcache := tput (coreOf s.dev agent).dcache line ⟨l.data, false, true⟩ } ∧ t.dev.recent = (useDir (useLine s.dev line) line).recent ∧ t = { s with dev := { latch s with dir := t.dev.dir, cores := t.dev.cores, tel := t.dev.tel, recent := t.dev.recent } }) ∧
    (∀ (s : State) (agent line : Nat) (x : DLine), (.upgrade agent line : Instr).wellFormed = true → Serving s → agent < 64 → dirOf s.dev line = ⟨2 ^ agent, 1, 0xFF, none⟩ → floeOn s.dev (homeFloe (pageOfLine line)) = true → dirPending s.dev (homeFloe (pageOfLine line)) < 512 → tget s.dev.dirFlips line 0 = 0 → s.dev.dirWait.any (fun w => decide (w.1 = line)) = false → dirQueue s.dev (homeFloe (pageOfLine line)) < 1024 → (pageOf s.dev (pageOfLine line)).tier = 1 ∨ (pageOf s.dev (pageOfLine line)).tier = 2 → pageCoherent s.dev (pageOfLine line) = true → tget? (coreOf s.dev agent).dcache line = some x →
      ∃ t, exec (.upgrade agent line) s = .next t ∧ dirOf t.dev line = ⟨2 ^ agent, 2, agent, none⟩ ∧ t.dev.cores = tput s.dev.cores agent { (coreOf s.dev agent) with dcache := tput (coreOf s.dev agent).dcache line { x with owned := true } } ∧ t.dev.recent = (useDir s.dev line).recent ∧ t = { s with dev := { latch s with dir := t.dev.dir, cores := t.dev.cores, tel := t.dev.tel, recent := t.dev.recent } }) ∧
    (∀ (s : State) (agent line : Nat) (l : CLine), (.upgrade agent line : Instr).wellFormed = true → Serving s → agent < 64 → dirOf s.dev line = ⟨0, 0, 0xFF, none⟩ → floeOn s.dev (homeFloe (pageOfLine line)) = true → (pageOf s.dev (pageOfLine line)).tier = 1 ∨ (pageOf s.dev (pageOfLine line)).tier = 2 → (pageOf s.dev (pageOfLine line)).packed = false → tget? s.dev.cache line = some l → SoundLine s.dev line → dirPending s.dev (homeFloe (pageOfLine line)) < 512 → tget s.dev.dirFlips line 0 = 0 → s.dev.dirWait.any (fun w => decide (w.1 = line)) = false → dirQueue s.dev (homeFloe (pageOfLine line)) < 1024 → pageCoherent s.dev (pageOfLine line) = true → (dirWays s.dev line).length < 16 → ((tkeys (coreOf s.dev agent).dcache).filter (fun k => decide (k % 256 = line % 256 ∧ k ≠ line))).length < 4 →
      ∃ t, exec (.upgrade agent line) s = .next t ∧ dirOf t.dev line = ⟨2 ^ agent, 2, agent, none⟩ ∧ t.dev.cores = tput s.dev.cores agent { (coreOf s.dev agent) with dcache := tput (coreOf s.dev agent).dcache line ⟨l.data, false, true⟩ } ∧ t.dev.recent = (useDir (useLine s.dev line) line).recent ∧ t = { s with dev := { latch s with dir := t.dev.dir, cores := t.dev.cores, tel := t.dev.tel, recent := t.dev.recent } }) ∧
    (∀ (s : State) (agent line : Nat) (b : Bytes) (keep : Bool) (x : DLine) (l : CLine), (.wb agent line b keep false : Instr).wellFormed = true → Serving s → agent < 64 → dirOf s.dev line = ⟨2 ^ agent, 2, agent, none⟩ → floeOn s.dev (homeFloe (pageOfLine line)) = true → (pageOf s.dev (pageOfLine line)).tier = 1 ∨ (pageOf s.dev (pageOfLine line)).tier = 2 → (pageOf s.dev (pageOfLine line)).packed = false → tget? s.dev.cache line = some l → SoundLine s.dev line → (pageOf s.dev (pageOfLine line)).durable = false → (pageOf s.dev (pageOfLine line)).twin = false → (pageOf s.dev (pageOfLine line)).noPack = false → pageCoherent s.dev (pageOfLine line) = true → tget? (coreOf s.dev agent).dcache line = some x → dcBad s.dev agent line = false →
      ∃ t, exec (.wb agent line b keep false) s = .next t ∧ t.dev.cache = tput s.dev.cache line ⟨slice x.data 0 64, true⟩ ∧ dirOf t.dev line = (if keep then ⟨2 ^ agent, 1, 0xFF, none⟩ else ⟨0, 0, 0xFF, none⟩) ∧ t.dev.cores = (if keep then tput s.dev.cores agent { (coreOf s.dev agent) with dcache := tput (coreOf s.dev agent).dcache line { x with dirty := false, owned := false } } else tput s.dev.cores agent { (coreOf s.dev agent) with dcache := tdel (coreOf s.dev agent).dcache line, flips := tdel (coreOf s.dev agent).flips (dcKey line), reserve := if (coreOf s.dev agent).reserve = some line then none else (coreOf s.dev agent).reserve }) ∧ t.dev.recent = (useLine s.dev line).recent ∧ t.dev.sliceFlips = tdel s.dev.sliceFlips line ∧ t = { s with dev := { latch s with dir := t.dev.dir, cores := t.dev.cores, cache := t.dev.cache, tel := t.dev.tel, recent := t.dev.recent, sliceFlips := t.dev.sliceFlips } }) ∧
    (∀ (s : State) (p line : Nat) (b : Bytes) (keep : Bool) (l : CLine), (.wb (64 + p) line b keep false : Instr).wellFormed = true → Serving s → p < 12 → linkUp (portOf s.dev p) = true → portLoad s.dev p true < 256 → dirOf s.dev line = ⟨2 ^ (64 + p), 2, 64 + p, none⟩ → floeOn s.dev (homeFloe (pageOfLine line)) = true → (pageOf s.dev (pageOfLine line)).tier = 1 ∨ (pageOf s.dev (pageOfLine line)).tier = 2 → (pageOf s.dev (pageOfLine line)).packed = false → tget? s.dev.cache line = some l → SoundLine s.dev line → (pageOf s.dev (pageOfLine line)).durable = false → (pageOf s.dev (pageOfLine line)).twin = false → (pageOf s.dev (pageOfLine line)).noPack = false → pageCoherent s.dev (pageOfLine line) = true →
      ∃ t, exec (.wb (64 + p) line b keep false) s = .next t ∧ t.dev.cache = tput s.dev.cache line ⟨slice b 0 64, true⟩ ∧ dirOf t.dev line = (if keep then ⟨2 ^ (64 + p), 1, 0xFF, none⟩ else ⟨0, 0, 0xFF, none⟩) ∧ t.dev.out = .memDone p (portReqOr s.dev p line).hpa :: s.dev.out ∧ t.dev.sliceFlips = tdel s.dev.sliceFlips line ∧ t.dev.recent = (useLine s.dev line).recent ∧ t = { s with dev := { latch s with dir := t.dev.dir, cache := t.dev.cache, tel := t.dev.tel, recent := t.dev.recent, sliceFlips := t.dev.sliceFlips, ports := t.dev.ports, out := t.dev.out } }) ∧
    (∀ (s : State) (agent line : Nat) (b : Bytes) (keep : Bool), (.wb agent line b keep true : Instr).wellFormed = true → Serving s → agent < 64 → dirOf s.dev line = ⟨2 ^ agent, 2, agent, none⟩ → dcBad s.dev agent line = false → floeOn s.dev (homeFloe (pageOfLine line)) = true → tget s.dev.dirFlips line 0 = 0 →
      ∃ t, exec (.wb agent line b keep true) s = .next t ∧ dirOf t.dev line = ⟨0, 3, agent, none⟩ ∧ tget? t.dev.orphans line = some ⟨s.clk.time, agent, 6, (pageOf s.dev (pageOfLine line)).owner⟩ ∧ t = { s with dev := { latch s with dir := t.dev.dir, cores := t.dev.cores, orphans := t.dev.orphans, tel := t.dev.tel, mbx := t.dev.mbx, ports := t.dev.ports, out := t.dev.out } }) ∧
    (∀ (s : State) (p line : Nat) (b : Bytes) (keep : Bool), (.wb (64 + p) line b keep true : Instr).wellFormed = true → Serving s → p < 12 → linkUp (portOf s.dev p) = true → portLoad s.dev p true < 256 → dirOf s.dev line = ⟨2 ^ (64 + p), 2, 64 + p, none⟩ → floeOn s.dev (homeFloe (pageOfLine line)) = true → tget s.dev.dirFlips line 0 = 0 →
      ∃ t, exec (.wb (64 + p) line b keep true) s = .next t ∧ dirOf t.dev line = ⟨0, 3, 64 + p, none⟩ ∧ tget? t.dev.orphans line = some ⟨s.clk.time, 64 + p, 6, (pageOf s.dev (pageOfLine line)).owner⟩ ∧ t.dev.out.head? = some (.memDone p (portReqOr s.dev p line).hpa) ∧ t = { s with dev := { latch s with dir := t.dev.dir, cores := t.dev.cores, orphans := t.dev.orphans, tel := t.dev.tel, mbx := t.dev.mbx, ports := t.dev.ports, out := t.dev.out } }) ∧
    (∀ (s : State) (agent line sh : Nat), (.evict agent line : Instr).wellFormed = true → Serving s → agent < 64 → dirOf s.dev line = ⟨sh, 1, 0xFF, none⟩ → (decide (agent < 64) && (tget? (coreOf s.dev agent).dcache line).any (·.dirty)) = false → floeOn s.dev (homeFloe (pageOfLine line)) = true → tget s.dev.dirFlips line 0 = 0 →
      ∃ t, exec (.evict agent line) s = .next t ∧ dirOf t.dev line = (if delSharer sh agent = 0 then ⟨0, 0, 0xFF, none⟩ else ⟨delSharer sh agent, 1, 0xFF, none⟩) ∧ t.dev.cores = tput s.dev.cores agent { (coreOf s.dev agent) with dcache := tdel (coreOf s.dev agent).dcache line, flips := tdel (coreOf s.dev agent).flips (dcKey line), reserve := if (coreOf s.dev agent).reserve = some line then none else (coreOf s.dev agent).reserve } ∧ t = { s with dev := { latch s with dir := t.dev.dir, cores := t.dev.cores } }) ∧
    (∀ (s : State) (p line sh : Nat), (.evict (64 + p) line : Instr).wellFormed = true → Serving s → p < 12 → linkUp (portOf s.dev p) = true → portLoad s.dev p true < 256 → dirOf s.dev line = ⟨sh, 1, 0xFF, none⟩ → floeOn s.dev (homeFloe (pageOfLine line)) = true → tget s.dev.dirFlips line 0 = 0 →
      ∃ t, exec (.evict (64 + p) line) s = .next t ∧ dirOf t.dev line = (if delSharer sh (64 + p) = 0 then ⟨0, 0, 0xFF, none⟩ else ⟨delSharer sh (64 + p), 1, 0xFF, none⟩) ∧ t.dev.out = .memDone p (portReqOr s.dev p line).hpa :: s.dev.out ∧ t = { s with dev := { latch s with dir := t.dev.dir, ports := t.dev.ports, out := t.dev.out } }) ∧
    (∀ (s : State) (agent line : Nat), (.evict agent line : Instr).wellFormed = true → Serving s → agent < 64 → (dirOf s.dev line).txn.isSome = true → (decide (agent < 64) && (tget? (coreOf s.dev agent).dcache line).any (·.dirty)) = false → floeOn s.dev (homeFloe (pageOfLine line)) = true → tget s.dev.dirFlips line 0 = 0 →
      ∃ t, exec (.evict agent line) s = .next t ∧ t.dev.dirWait = s.dev.dirWait ++ [(line, .evict agent)] ∧ t = { s with dev := { latch s with dirWait := t.dev.dirWait, cores := t.dev.cores } }) ∧
    (∀ (s : State) (line : Nat) (l : CLine), (.ncRd line : Instr).wellFormed = true → Serving s → dirOf s.dev line = ⟨0, 0, 0xFF, none⟩ → floeOn s.dev (homeFloe (pageOfLine line)) = true → (pageOf s.dev (pageOfLine line)).tier = 1 ∨ (pageOf s.dev (pageOfLine line)).tier = 2 → (pageOf s.dev (pageOfLine line)).packed = false → tget? s.dev.cache line = some l → SoundLine s.dev line → dirPending s.dev (homeFloe (pageOfLine line)) < 512 → tget s.dev.dirFlips line 0 = 0 → s.dev.dirWait.any (fun w => decide (w.1 = line)) = false → dirQueue s.dev (homeFloe (pageOfLine line)) < 1024 →
      ∃ t, exec (.ncRd line) s = .next t ∧ t.dev.out = .nc line 0 l.data :: s.dev.out ∧ t.dev.recent = (useLine s.dev line).recent ∧ t = { s with dev := { latch s with tel := t.dev.tel, recent := t.dev.recent, out := t.dev.out } }) ∧
    (∀ (s : State) (line o : Nat) (l : CLine) (x : DLine), (.ncRd line : Instr).wellFormed = true → Serving s → o < 64 → dirOf s.dev line = ⟨2 ^ o, 2, o, none⟩ → floeOn s.dev (homeFloe (pageOfLine line)) = true → (pageOf s.dev (pageOfLine line)).tier = 1 ∨ (pageOf s.dev (pageOfLine line)).tier = 2 → (pageOf s.dev (pageOfLine line)).packed = false → tget? s.dev.cache line = some l → SoundLine s.dev line → dirPending s.dev (homeFloe (pageOfLine line)) < 512 → tget s.dev.dirFlips line 0 = 0 → s.dev.dirWait.any (fun w => decide (w.1 = line)) = false → dirQueue s.dev (homeFloe (pageOfLine line)) < 1024 → pageCoherent s.dev (pageOfLine line) = true → s.dev.dirWalk = [] → tget? (coreOf s.dev o).dcache line = some x → x.dirty = false →
      ∃ t, exec (.ncRd line) s = .next t ∧ dirOf t.dev line = ⟨2 ^ o, 1, 0xFF, none⟩ ∧ t.dev.cores = tput s.dev.cores o { (coreOf s.dev o) with dcache := tput (coreOf s.dev o).dcache line { x with owned := false } } ∧ t.dev.out = .nc line 0 l.data :: s.dev.out ∧ t.dev.recent = (useLine s.dev line).recent ∧ t = { s with dev := { latch s with dir := t.dev.dir, cores := t.dev.cores, tel := t.dev.tel, recent := t.dev.recent, out := t.dev.out } }) ∧
    (∀ (s : State) (line o : Nat) (b : Bytes) (mask : BitVec 64) (l : CLine) (x : DLine), (.ncWr line b mask : Instr).wellFormed = true → Serving s → o < 64 → dirOf s.dev line = ⟨2 ^ o, 1, 0xFF, none⟩ → floeOn s.dev (homeFloe (pageOfLine line)) = true → (pageOf s.dev (pageOfLine line)).tier = 1 ∨ (pageOf s.dev (pageOfLine line)).tier = 2 → (pageOf s.dev (pageOfLine line)).packed = false → tget? s.dev.cache line = some l → SoundLine s.dev line → (pageOf s.dev (pageOfLine line)).durable = false → (pageOf s.dev (pageOfLine line)).twin = false → (pageOf s.dev (pageOfLine line)).noPack = false → dirPending s.dev (homeFloe (pageOfLine line)) < 512 → tget s.dev.dirFlips line 0 = 0 → s.dev.dirWait.any (fun w => decide (w.1 = line)) = false → dirQueue s.dev (homeFloe (pageOfLine line)) < 1024 → s.dev.dirWalk = [] → l.data.length = 64 → tget? (coreOf s.dev o).dcache line = some x → x.dirty = false →
      ∃ t, exec (.ncWr line b mask) s = .next t ∧ dirOf t.dev line = ⟨0, 0, 0xFF, none⟩ ∧ t.dev.cores = tput s.dev.cores o { (coreOf s.dev o) with dcache := tdel (coreOf s.dev o).dcache line, flips := tdel (coreOf s.dev o).flips (dcKey line), reserve := if (coreOf s.dev o).reserve = some line then none else (coreOf s.dev o).reserve } ∧ t.dev.cache = tput s.dev.cache line ⟨mergeMask l.data (slice b 0 64) mask.toNat, true⟩ ∧ t.dev.out = .nc line 0 [] :: s.dev.out ∧ t.dev.sliceFlips = tdel s.dev.sliceFlips line ∧ t = { s with dev := { latch s with dir := t.dev.dir, cores := t.dev.cores, cache := t.dev.cache, tel := t.dev.tel, recent := t.dev.recent, sliceFlips := t.dev.sliceFlips, out := t.dev.out } }) ∧
    (∀ (s : State) (line : Nat) (aop : Atomic) (l : CLine), (.ncAtomic line aop : Instr).wellFormed = true → Serving s → dirOf s.dev line = ⟨0, 0, 0xFF, none⟩ → floeOn s.dev (homeFloe (pageOfLine line)) = true → (pageOf s.dev (pageOfLine line)).tier = 1 ∨ (pageOf s.dev (pageOfLine line)).tier = 2 → (pageOf s.dev (pageOfLine line)).packed = false → tget? s.dev.cache line = some l → SoundLine s.dev line → (pageOf s.dev (pageOfLine line)).durable = false → (pageOf s.dev (pageOfLine line)).twin = false → (pageOf s.dev (pageOfLine line)).noPack = false → dirPending s.dev (homeFloe (pageOfLine line)) < 512 → tget s.dev.dirFlips line 0 = 0 → s.dev.dirWait.any (fun w => decide (w.1 = line)) = false → dirQueue s.dev (homeFloe (pageOfLine line)) < 1024 → l.data.length = 64 → aop.off + aop.size ≤ 64 →
      ∃ t, exec (.ncAtomic line aop) s = .next t ∧ t.dev.cache = tput s.dev.cache line ⟨splice l.data aop.off (leBytes aop.size (atomicNew aop.op aop.size (fieldAt l.data aop.off aop.size) aop.a aop.b)), true⟩ ∧ t.dev.out = .nc line 0 (leBytes aop.size (fieldAt l.data aop.off aop.size)) :: s.dev.out ∧ t.dev.sliceFlips = tdel s.dev.sliceFlips line ∧ t = { s with dev := { latch s with dir := t.dev.dir, cache := t.dev.cache, tel := t.dev.tel, recent := t.dev.recent, sliceFlips := t.dev.sliceFlips, out := t.dev.out } }) ∧
    (∀ (s : State) (agent line sh ow : Nat) (l : CLine), (.dirReqDequeue line : Instr).wellFormed = true → Serving s → s.dev.dirWait.find? (fun w => decide (w.1 = line)) = some (line, .rdShared agent) → agent < 64 → dirOf s.dev line = ⟨sh, 1, ow, none⟩ → floeOn s.dev (homeFloe (pageOfLine line)) = true → (pageOf s.dev (pageOfLine line)).tier = 1 ∨ (pageOf s.dev (pageOfLine line)).tier = 2 → (pageOf s.dev (pageOfLine line)).packed = false → tget? s.dev.cache line = some l → SoundLine s.dev line → dirPending s.dev (homeFloe (pageOfLine line)) < 512 → pageCoherent s.dev (pageOfLine line) = true → ((tkeys (coreOf s.dev agent).dcache).filter (fun k => decide (k % 256 = line % 256 ∧ k ≠ line))).length < 4 →
      ∃ t, exec (.dirReqDequeue line) s = .next t ∧ t.dev.dirWait = s.dev.dirWait.erase (line, .rdShared agent) ∧ dirOf t.dev line = ⟨addSharer sh agent, 1, 0xFF, none⟩ ∧ t.dev.cores = tput s.dev.cores agent { (coreOf s.dev agent) with dcache := tput (coreOf s.dev agent).dcache line ⟨l.data, false, false⟩ } ∧ t.dev.recent = (useDir (useLine s.dev line) line).recent ∧ t = { s with dev := { latch s with dirWait := t.dev.dirWait, dir := t.dev.dir, cores := t.dev.cores, tel := t.dev.tel, recent := t.dev.recent } })

/-- SNP_SHARE leaves the owning core a SHARED copy; SNP_INV takes a core's copy away. The last answer of a transaction completes it; dirty data goes to memory first and to the requester. An agent whose answer does not come in time is failed with cause 3: a COHERENCE record, the walk begun in every slice, and the line it owned an orphan. The end of a slice's walk makes the lines that the agent owns orphans. DIR_FLUSH drops the tracked copies of its slice and clears FLUSH_BUSY when no eviction is pending; DIR_PROBE answers the sharers and whether an entry is held. -/
def Obligations.SnoopsAndFailures : Prop :=
    (∀ (s : State) (agent line : Nat) (x : DLine), (.snpShare agent line : Instr).wellFormed = true → Serving s → agent < 64 → dirOf s.dev line = ⟨2 ^ agent, 2, agent, none⟩ → floeOn s.dev (homeFloe (pageOfLine line)) = true → s.dev.dirWalk = [] → (pageOf s.dev (pageOfLine line)).tier = 1 ∨ (pageOf s.dev (pageOfLine line)).tier = 2 → tget? (coreOf s.dev agent).dcache line = some x → x.dirty = false →
      ∃ t, exec (.snpShare agent line) s = .next t ∧ dirOf t.dev line = ⟨2 ^ agent, 1, 0xFF, none⟩ ∧ t.dev.cores = tput s.dev.cores agent { (coreOf s.dev agent) with dcache := tput (coreOf s.dev agent).dcache line { x with owned := false } } ∧ t = { s with dev := { latch s with dir := t.dev.dir, cores := t.dev.cores, tel := t.dev.tel, recent := t.dev.recent } }) ∧
    (∀ (s : State) (agent line sh : Nat) (x : DLine), (.snpInv agent line : Instr).wellFormed = true → Serving s → agent < 64 → dirOf s.dev line = ⟨sh, 1, 0xFF, none⟩ → bitOf sh agent = true → delSharer sh agent ≠ 0 → floeOn s.dev (homeFloe (pageOfLine line)) = true → s.dev.dirWalk = [] → tget? (coreOf s.dev agent).dcache line = some x → x.dirty = false →
      ∃ t, exec (.snpInv agent line) s = .next t ∧ dirOf t.dev line = ⟨delSharer sh agent, 1, 0xFF, none⟩ ∧ t.dev.cores = tput s.dev.cores agent { (coreOf s.dev agent) with dcache := tdel (coreOf s.dev agent).dcache line, flips := tdel (coreOf s.dev agent).flips (dcKey line), reserve := if (coreOf s.dev agent).reserve = some line then none else (coreOf s.dev agent).reserve } ∧ t = { s with dev := { latch s with dir := t.dev.dir, cores := t.dev.cores, tel := t.dev.tel, recent := t.dev.recent } }) ∧
    (∀ (s : State) (agent line sh ow : Nat), (.snoopResponse agent line .clean : Instr).wellFormed = true → Serving s → dirOf s.dev line = ⟨sh, 1, ow, (some ⟨.withdraw, [(agent, 1)], none, false⟩)⟩ →
      ∃ t, exec (.snoopResponse agent line .clean) s = .next t ∧ dirOf t.dev line = ⟨0, 0, 0xFF, none⟩ ∧ t = { s with dev := { latch s with dir := t.dev.dir } }) ∧
    (∀ (s : State) (p a line : Nat) (b : Bytes) (l : CLine), (.snoopResponse (64 + p) line (.dirty b) : Instr).wellFormed = true → Serving s → a < 64 → p < 12 → dirOf s.dev line = ⟨2 ^ (64 + p), 2, 64 + p, some ⟨.rdShared a, [(64 + p, 0)], none, false⟩⟩ → floeOn s.dev (homeFloe (pageOfLine line)) = true → (pageOf s.dev (pageOfLine line)).tier = 1 ∨ (pageOf s.dev (pageOfLine line)).tier = 2 → (pageOf s.dev (pageOfLine line)).packed = false → tget? s.dev.cache line = some l → SoundLine s.dev line → (pageOf s.dev (pageOfLine line)).durable = false → (pageOf s.dev (pageOfLine line)).twin = false → (pageOf s.dev (pageOfLine line)).noPack = false → pageCoherent s.dev (pageOfLine line) = true → ((tkeys (coreOf s.dev a).dcache).filter (fun k => decide (k % 256 = line % 256 ∧ k ≠ line))).length < 4 →
      ∃ t, exec (.snoopResponse (64 + p) line (.dirty b)) s = .next t ∧ t.dev.cache = tput s.dev.cache line ⟨slice b 0 64, true⟩ ∧ dirOf t.dev line = ⟨2 ^ (64 + p) + 2 ^ a, 1, 0xFF, none⟩ ∧ t.dev.cores = tput s.dev.cores a { (coreOf s.dev a) with dcache := tput (coreOf s.dev a).dcache line ⟨slice b 0 64, false, false⟩ } ∧ t.dev.recent = (useDir (useLine s.dev line) line).recent ∧ t.dev.sliceFlips = tdel s.dev.sliceFlips line ∧ t = { s with dev := { latch s with dir := t.dev.dir, cores := t.dev.cores, cache := t.dev.cache, tel := t.dev.tel, recent := t.dev.recent, sliceFlips := t.dev.sliceFlips } }) ∧
    (∀ (s : State) (p line sh : Nat), (.snoopTimeout (64 + p) line : Instr).wellFormed = true → Serving s → NoRecordNow s → p < 12 → s.dev.dir = [(line, ⟨sh, 2, 64 + p, some ⟨.withdraw, [(64 + p, 1)], none, false⟩⟩)] →
      ∃ t, exec (.snoopTimeout (64 + p) line) s = .next t ∧ dirOf t.dev line = ⟨0, 3, 64 + p, none⟩ ∧ tget? t.dev.orphans line = some ⟨s.clk.time, 64 + p, 3, (pageOf s.dev (pageOfLine line)).owner⟩ ∧ t.dev.dirWalk = s.dev.dirWalk ++ [(0, 64 + p + 128 * 3), (1, 64 + p + 128 * 3), (2, 64 + p + 128 * 3), (3, 64 + p + 128 * 3)] ∧ t.dev.errq.next = (s.dev.errq.next + 1) % 2 ^ 32 ∧ t = { s with dev := { latch s with dir := t.dev.dir, orphans := t.dev.orphans, dirWalk := t.dev.dirWalk, errq := t.dev.errq, tel := t.dev.tel, mbx := t.dev.mbx, ports := t.dev.ports, out := t.dev.out } }) ∧
    (∀ (s : State) (f agent cause line sh : Nat), (.coherenceWalkDone f : Instr).wellFormed = true → Serving s → s.dev.dirWalk.find? (fun w => w.1 = f) = some (f, agent + 128 * cause) → agent < 128 → homeFloe (pageOfLine line) = f → s.dev.dir = [(line, ⟨sh, 2, agent, none⟩)] →
      ∃ t, exec (.coherenceWalkDone f) s = .next t ∧ dirOf t.dev line = ⟨0, 3, agent, none⟩ ∧ tget? t.dev.orphans line = some ⟨s.clk.time, agent, cause, (pageOf s.dev (pageOfLine line)).owner⟩ ∧ t.dev.dirWalk = s.dev.dirWalk.erase (f, agent + 128 * cause) ∧ t = { s with dev := { latch s with dir := t.dev.dir, orphans := t.dev.orphans, dirWalk := t.dev.dirWalk, errq := t.dev.errq, tel := t.dev.tel, mbx := t.dev.mbx, ports := t.dev.ports, out := t.dev.out } }) ∧
    (∀ (s : State) (f c line : Nat) (x : DLine), (.dirFlush f : Instr).wellFormed = true → Serving s → floeOn s.dev f = true → s.dev.dirWalk = [] → c < 64 → homeFloe (pageOfLine line) = f → s.dev.dir = [(line, ⟨2 ^ c, 1, 0xFF, none⟩)] → tget? (coreOf s.dev c).dcache line = some x → x.dirty = false →
      ∃ t, exec (.dirFlush f) s = .next t ∧ t.dev.dir = [] ∧ t.dev.cores = tput s.dev.cores c { (coreOf s.dev c) with dcache := tdel (coreOf s.dev c).dcache line, flips := tdel (coreOf s.dev c).flips (dcKey line), reserve := if (coreOf s.dev c).reserve = some line then none else (coreOf s.dev c).reserve } ∧ t.dev.dirFlush.contains f = true ∧ t = { s with dev := { latch s with dir := t.dev.dir, cores := t.dev.cores, dirFlush := t.dev.dirFlush, tel := t.dev.tel } }) ∧
    (∀ (s : State) (f : Nat), (.dirFlushDone f : Instr).wellFormed = true → Serving s → (s.dev.dir.filter (fun e => homeFloe (pageOfLine e.1) = f)).all (fun e => e.2.txn.all (fun x => x.op != .evictWay)) = true →
      exec (.dirFlushDone f) s = .next { s with dev := { latch s with dirFlush := s.dev.dirFlush.filter (· ≠ f) } }) ∧
    (∀ (s : State) (f addr : Nat) (e : DirEntry), (.dirProbe f addr : Instr).wellFormed = true → Serving s → floeOn s.dev f = true → homeFloe (addr % 2 ^ 44 / 64 / 1024) = f → tget? s.dev.dir (addr % 2 ^ 44 / 64) = some e →
      ∃ t, exec (.dirProbe f addr) s = .next t ∧ (tget? t.dev.dirProbe f).map (fun v => (v.1, v.2.2)) = some (e.sharers % 2 ^ 64, 1) ∧ t.dev.free = s.dev.free + 1 ∧ t = { s with dev := { latch s with dirProbe := t.dev.dirProbe, regs := t.dev.regs, free := t.dev.free } })

/-- DCHAIN takes up the chain at its first descriptor. A descriptor is read from local memory and checked; one with SYNC_START waits, and another issues its accesses: a FILL of one row within a line of local memory writes the pattern there and counts its bytes. A descriptor whose accesses are all acknowledged is complete: a final check value is stored first, and then the channel goes on to the next of its chain or ends it. SYNC_START lets the channels of a lock group begin when each waits and its time has come. STOP of a WAITING channel leaves it STOPPED, RESUME lets a STOPPED one go on and repeats the halted descriptor from its start (an atomic one is refused), SKIP passes over it, and ABANDON empties the queue and leaves the channel IDLE. Nothing else changes. -/
def Obligations.DmaChannels : Prop :=
    (∀ (s : State) (c ch : Nat) (i : TInstr), (.dchain c ch : Instr).wellFormed = true → Serving s → readyHead s.dev c (ch + 2) = some i → bits i.w0 0 8 = 0x28 → bits i.w1 0 23 % 64 = 0 →
      exec (.dchain c ch) s = .next { s with dev := { latch s with cores := tput s.dev.cores c (modChan (modStream (coreOf s.dev c) (ch + 2) (fun q => { q with queue := q.queue.drop 1, flight := q.flight ++ [⟨i, [], true⟩] })) ch (fun k => { k with desc := bits i.w1 0 23, prog := 0, bytes64 := [] })) } }) ∧
    (∀ (s : State) (c ch : Nat) (far : Far) (m : Dev), (.descriptorStart c ch far : Instr).wellFormed = true → Serving s → sramRead (latch s) c 3 [((chanOf (coreOf s.dev c) ch).desc, 64)] = (m, false) → (coreOf s.dev c).state = 2 → floeRuns s.dev (c / 16) = true → (chanOf (coreOf s.dev c) ch).state = 1 → (chainOf s.dev c ch).isSome = true → (chanOf (coreOf s.dev c) ch).prog = 0 → (chanOf (coreOf s.dev c) ch).desc % 64 = 0 → lmOk (chanOf (coreOf s.dev c) ch).desc 64 = true → descCause (coreOf s.dev c) (chanOf (coreOf s.dev c) ch).crcMode (lmRead (coreOf s.dev c) (chanOf (coreOf s.dev c) ch).desc 64) = 0 → (descOf (lmRead (coreOf s.dev c) (chanOf (coreOf s.dev c) ch).desc 64)).sync = true →
      exec (.descriptorStart c ch far) s = .next { s with dev := { m with cores := tput m.cores c (modChan (coreOf m c) ch (fun k => { k with bytes64 := (lmRead (coreOf s.dev c) (chanOf (coreOf s.dev c) ch).desc 64), prog := 1, state := 2 })) } }) ∧
    (∀ (s : State) (c ch : Nat) (far : Far) (m n : Dev) (w : W), (.descriptorStart c ch far : Instr).wellFormed = true → Serving s → sramRead (latch s) c 3 [((chanOf (coreOf s.dev c) ch).desc, 64)] = (m, false) → (coreOf s.dev c).state = 2 → floeRuns s.dev (c / 16) = true → (chanOf (coreOf s.dev c) ch).state = 1 → (chainOf s.dev c ch).isSome = true → (chanOf (coreOf s.dev c) ch).prog = 0 → (chanOf (coreOf s.dev c) ch).desc % 64 = 0 → lmOk (chanOf (coreOf s.dev c) ch).desc 64 = true → descCause (coreOf s.dev c) (chanOf (coreOf s.dev c) ch).crcMode (lmRead (coreOf s.dev c) (chanOf (coreOf s.dev c) ch).desc 64) = 0 → (descOf (lmRead (coreOf s.dev c) (chanOf (coreOf s.dev c) ch).desc 64)).sync = false → (sramRead (setCh m c ch (fun k => { k with bytes64 := (lmRead (coreOf s.dev c) (chanOf (coreOf s.dev c) ch).desc 64) })) c 3 (descSpans (descOf (lmRead (coreOf s.dev c) (chanOf (coreOf s.dev c) ch).desc 64)))) = (n, false) → descBody (descOf (lmRead (coreOf s.dev c) (chanOf (coreOf s.dev c) ch).desc 64)) c ch (coreWork n far c 3 (.chan c ch)) = w → w.ok = true → w.d.boot = s.dev.boot → w.d.errq.due = [] → w.d.tagWait = [] → w.d.tagHeld = [] → w.d.sw.seen = [] →
      exec (.descriptorStart c ch far) s = .next { s with dev := noteWrites (setCh w.d c ch (fun k => { k with prog := 3 })) c w.wrote }) ∧
    (∀ (s : State) (c ch : Nat) (far : Far) (m : Dev) (w : W), (.descriptorStart c ch far : Instr).wellFormed = true → Serving s → floeRuns s.dev (c / 16) = true → (chainOf s.dev c ch).isSome = true → (chanOf (coreOf s.dev c) ch).prog = 2 → (coreOf s.dev c).state = 2 ∨ (coreOf s.dev c).state = 3 → (chanOf (coreOf s.dev c) ch).state = 1 ∨ (chanOf (coreOf s.dev c) ch).state = 3 → sramRead (latch s) c 3 (descSpans (descOf (chanOf (coreOf s.dev c) ch).bytes64)) = (m, false) → descBody (descOf (chanOf (coreOf s.dev c) ch).bytes64) c ch (coreWork m far c 3 (.chan c ch)) = w → w.ok = true → w.d.boot = s.dev.boot → w.d.errq.due = [] → w.d.tagWait = [] → w.d.tagHeld = [] → w.d.sw.seen = [] →
      exec (.descriptorStart c ch far) s = .next { s with dev := noteWrites (setCh w.d c ch (fun k => { k with prog := 3 })) c w.wrote }) ∧
    (∀ (s : State) (c ch : Nat) (far : Far) (m : Dev), (.descriptorStart c ch far : Instr).wellFormed = true → Serving s → sramRead (latch s) c 3 [((chanOf (coreOf s.dev c) ch).desc, 64)] = (m, false) → (coreOf s.dev c).state = 2 → floeRuns s.dev (c / 16) = true → (chanOf (coreOf s.dev c) ch).state = 1 → (chainOf s.dev c ch).isSome = true → (chanOf (coreOf s.dev c) ch).prog = 0 → (chanOf (coreOf s.dev c) ch).desc % 64 = 0 → lmOk (chanOf (coreOf s.dev c) ch).desc 64 = true → descCause (coreOf s.dev c) (chanOf (coreOf s.dev c) ch).crcMode (lmRead (coreOf s.dev c) (chanOf (coreOf s.dev c) ch).desc 64) = 0 → (coreOf s.dev c).flips = [] → (descOf (lmRead (coreOf s.dev c) (chanOf (coreOf s.dev c) ch).desc 64)).flags = 0 → (descOf (lmRead (coreOf s.dev c) (chanOf (coreOf s.dev c) ch).desc 64)).kind = 1 → (descOf (lmRead (coreOf s.dev c) (chanOf (coreOf s.dev c) ch).desc 64)).dstLocal = true → (descOf (lmRead (coreOf s.dev c) (chanOf (coreOf s.dev c) ch).desc 64)).rows = 1 → (descOf (lmRead (coreOf s.dev c) (chanOf (coreOf s.dev c) ch).desc 64)).crcCtrl = 0 → (descOf (lmRead (coreOf s.dev c) (chanOf (coreOf s.dev c) ch).desc 64)).dst % 64 + (descOf (lmRead (coreOf s.dev c) (chanOf (coreOf s.dev c) ch).desc 64)).rowBytes ≤ 64 →
      ∃ t, exec (.descriptorStart c ch far) s = .next t ∧ (coreOf t.dev c).lm = memWrite (coreOf s.dev c).lm (descOf (lmRead (coreOf s.dev c) (chanOf (coreOf s.dev c) ch).desc 64)).dst ((List.range (descOf (lmRead (coreOf s.dev c) (chanOf (coreOf s.dev c) ch).desc 64)).rowBytes).map (fun j => BitVec.ofNat 8 ((descOf (lmRead (coreOf s.dev c) (chanOf (coreOf s.dev c) ch).desc 64)).src >>> (8 * (((descOf (lmRead (coreOf s.dev c) (chanOf (coreOf s.dev c) ch).desc 64)).dst + j) % 8))))) ∧ (chanOf (coreOf t.dev c) ch).prog = 3 ∧ (chanOf (coreOf t.dev c) ch).count = ((chanOf (coreOf s.dev c) ch).count + (descOf (lmRead (coreOf s.dev c) (chanOf (coreOf s.dev c) ch).desc 64)).rowBytes) % 2 ^ 64 ∧ t.dev.cores = tput s.dev.cores c (coreOf t.dev c) ∧ t = { s with dev := { latch s with cores := t.dev.cores } }) ∧
    (∀ (s : State) (c ch : Nat), (.descriptorComplete c ch : Instr).wellFormed = true → Serving s → (chainOf s.dev c ch).isSome = true → (chanOf (coreOf s.dev c) ch).state = 1 ∨ (chanOf (coreOf s.dev c) ch).state = 3 → (chanOf (coreOf s.dev c) ch).prog = 3 ∧ (descOf (chanOf (coreOf s.dev c) ch).bytes64).finalStore = false ∨ 4 ≤ (chanOf (coreOf s.dev c) ch).prog → owes s.dev (.chan c ch) = false → (nextDesc (latch s) c ch).boot = s.dev.boot → (nextDesc (latch s) c ch).errq.due = [] → (nextDesc (latch s) c ch).tagWait = [] → (nextDesc (latch s) c ch).tagHeld = [] → (nextDesc (latch s) c ch).sw.seen = [] →
      exec (.descriptorComplete c ch) s = .next { s with dev := (nextDesc (latch s) c ch) }) ∧
    (∀ (s : State) (c ch : Nat) (w : W), (.descriptorComplete c ch : Instr).wellFormed = true → Serving s → (chainOf s.dev c ch).isSome = true → (chanOf (coreOf s.dev c) ch).state = 1 ∨ (chanOf (coreOf s.dev c) ch).state = 3 → (chanOf (coreOf s.dev c) ch).prog = 3 → (descOf (chanOf (coreOf s.dev c) ch).bytes64).finalStore = true → owes s.dev (.chan c ch) = false → (storeCrc (descOf (chanOf (coreOf s.dev c) ch).bytes64) c (coreWork (latch s) [] c 3 (.chan c ch)) (storeAt (descOf (chanOf (coreOf s.dev c) ch).bytes64) ((chanOf (coreOf s.dev c) ch).count - (chanOf (coreOf s.dev c) ch).countStart)) (chanOf (coreOf s.dev c) ch).crc) = w → w.ok = true → w.d.boot = s.dev.boot → w.d.errq.due = [] → w.d.tagWait = [] → w.d.tagHeld = [] → w.d.sw.seen = [] →
      exec (.descriptorComplete c ch) s = .next { s with dev := setCh w.d c ch (fun k => { k with prog := 4 }) }) ∧
    (∀ (s : State) (c ch : Nat), (.descriptorComplete c ch : Instr).wellFormed = true → Serving s → (chainOf s.dev c ch).isSome = true → (chanOf (coreOf s.dev c) ch).state = 1 → (chanOf (coreOf s.dev c) ch).prog = 3 → owes s.dev (.chan c ch) = false → (descOf (chanOf (coreOf s.dev c) ch).bytes64).flags = 0 → (descOf (chanOf (coreOf s.dev c) ch).bytes64).pulses = 0 →
      exec (.descriptorComplete c ch) s = .next { s with dev := { latch s with cores := tput s.dev.cores c (modStream (modChan (coreOf s.dev c) ch (fun k => { k with crcMode := (descOf k.bytes64).mode, prog := 0, bytes64 := [], desc := 0 })) (ch + 2) (fun q => { q with flight := q.flight.map (fun f => { f with chain := false }) })) } }) ∧
    (∀ (s : State) (c ch : Nat), (.descriptorComplete c ch : Instr).wellFormed = true → Serving s → (chainOf s.dev c ch).isSome = true → (chanOf (coreOf s.dev c) ch).state = 1 → (chanOf (coreOf s.dev c) ch).prog = 3 → owes s.dev (.chan c ch) = false → (descOf (chanOf (coreOf s.dev c) ch).bytes64).flags = 1 → (descOf (chanOf (coreOf s.dev c) ch).bytes64).pulses = 0 →
      exec (.descriptorComplete c ch) s = .next { s with dev := { latch s with cores := tput s.dev.cores c (modChan (coreOf s.dev c) ch (fun k => { k with crcMode := (descOf k.bytes64).mode, prog := 0, bytes64 := [], desc := (descOf k.bytes64).next })) } }) ∧
    (∀ (s : State) (c lg : Nat), (.syncStart c lg : Instr).wellFormed = true → Serving s → (coreOf s.dev c).state = 2 → lg ≠ 0 → groupOf s.dev c lg ≠ [] → (groupOf s.dev c lg).all (fun p => (syncReady s.dev p).any (fun at_ => decide (at_ ≤ s.clk.time))) = true →
      exec (.syncStart c lg) s = .next { s with dev := goSync (latch s) (groupOf s.dev c lg) }) ∧
    (∀ (s : State) (c lg : Nat), (.syncStart c lg : Instr).wellFormed = true → Serving s → (coreOf s.dev c).state = 2 → lg = 0 →
      exec (.syncStart c lg) s = .next { s with dev := goSync (latch s) (((List.range 16).map (fun h => (c, h))).filter (fun p => decide (lockGroup s.dev c p.2 = 0) && (syncReady s.dev p).any (fun at_ => decide (at_ ≤ s.clk.time)))) }) ∧
    (∀ (s : State) (c ch lg : Nat), (.syncStart c lg : Instr).wellFormed = true → Serving s → (coreOf s.dev c).state = 2 → lg ≠ 0 → groupOf s.dev c lg = [(c, ch)] → (syncReady s.dev (c, ch)).any (fun at_ => decide (at_ ≤ s.clk.time)) = true →
      exec (.syncStart c lg) s = .next { s with dev := { latch s with cores := tput s.dev.cores c (modChan (coreOf s.dev c) ch (fun k => { k with prog := 2, state := 1 })) } }) ∧
    (∀ (s : State) (c lg : Nat) (p : Nat × Nat), (.syncStart c lg : Instr).wellFormed = true → Serving s → (coreOf s.dev c).state = 2 → lg ≠ 0 → (groupOf s.dev c lg).contains p = true → (syncReady s.dev p).all (fun at_ => decide (s.clk.time < at_)) = true →
      exec (.syncStart c lg) s = .next { s with dev := latch s }) ∧
    (∀ (s : State) (c ch : Nat), (.chStop c ch : Instr).wellFormed = true → Serving s → (chanOf (coreOf s.dev c) ch).state = 2 →
      exec (.chStop c ch) s = .next { s with dev := { latch s with cores := tput s.dev.cores c (modChan (coreOf s.dev c) ch (fun k => { k with state := 4 })) } }) ∧
    (∀ (s : State) (c ch : Nat), (.chStop c ch : Instr).wellFormed = true → Serving s → (chanOf (coreOf s.dev c) ch).state = 1 →
      exec (.chStop c ch) s = .next { s with dev := { latch s with cores := tput s.dev.cores c (modChan (coreOf s.dev c) ch (fun k => { k with state := if chanBegun (coreOf s.dev c) ch then 3 else 4 })) } }) ∧
    (∀ (s : State) (c ch : Nat), (.chResume c ch : Instr).wellFormed = true → Serving s → (chanOf (coreOf s.dev c) ch).state = 4 →
      exec (.chResume c ch) s = .next { s with dev := { latch s with cores := tput s.dev.cores c (modChan (coreOf s.dev c) ch (fun k => { k with state := match (streamOf (coreOf s.dev c) (ch + 2)).flight with | f :: _ => if f.chain ∧ k.prog = 1 then 2 else 1 | [] => nextChanState (streamOf (coreOf s.dev c) (ch + 2)).queue })) } }) ∧
    (∀ (s : State) (c ch : Nat), (.chResume c ch : Instr).wellFormed = true → Serving s → (chanOf (coreOf s.dev c) ch).state = 5 → owes s.dev (.chan c ch) = false → (chainOf s.dev c ch).isSome = true → (descOf (chanOf (coreOf s.dev c) ch).bytes64).kind ≠ 2 →
      exec (.chResume c ch) s = .next { s with dev := { latch s with cores := tput s.dev.cores c (modChan (coreOf s.dev c) ch (fun k => { startCheck (descOf (chanOf (coreOf s.dev c) ch).bytes64) { k with crc := k.crcStart } with state := 1, prog := 2, multi := false, countStart := k.countStart })) } }) ∧
    (∀ (s : State) (c ch : Nat) (f : Flight) (rest : List Flight), (.chResume c ch : Instr).wellFormed = true → Serving s → (chanOf (coreOf s.dev c) ch).state = 5 → owes s.dev (.chan c ch) = false → (streamOf (coreOf s.dev c) (ch + 2)).flight = f :: rest → f.chain = false → bits f.ins.w0 0 8 ≠ 0x23 →
      exec (.chResume c ch) s = .next { s with dev := { latch s with cores := tput s.dev.cores c (modChan (modStream (coreOf s.dev c) (ch + 2) (fun q => ⟨{ f.ins with released := true } :: q.queue, rest⟩)) ch (fun k => { k with state := 1, multi := false })) } }) ∧
    (∀ (s : State) (c ch : Nat), (.chResume c ch : Instr).wellFormed = true → Serving s → (chanOf (coreOf s.dev c) ch).state = 5 → owes s.dev (.chan c ch) = false → haltedAtomic s.dev c ch = true →
      exec (.chResume c ch) s = .next { s with dev := { latch s with cores := tput s.dev.cores c (modChan (coreOf s.dev c) ch (fun k => { k with resumeRefused := true })) } }) ∧
    (∀ (s : State) (c ch : Nat), (.chSkip c ch : Instr).wellFormed = true → Serving s → (chanOf (coreOf s.dev c) ch).state = 5 → owes s.dev (.chan c ch) = false → (chainOf s.dev c ch).isSome = true → (nextDesc (modCore (setCh (latch s) c ch (fun k => { k with state := 1, multi := false })) c (fun x => { x with latched := tdel x.latched (ch + 2) })) c ch).boot = s.dev.boot → (nextDesc (modCore (setCh (latch s) c ch (fun k => { k with state := 1, multi := false })) c (fun x => { x with latched := tdel x.latched (ch + 2) })) c ch).errq.due = [] → (nextDesc (modCore (setCh (latch s) c ch (fun k => { k with state := 1, multi := false })) c (fun x => { x with latched := tdel x.latched (ch + 2) })) c ch).tagWait = [] → (nextDesc (modCore (setCh (latch s) c ch (fun k => { k with state := 1, multi := false })) c (fun x => { x with latched := tdel x.latched (ch + 2) })) c ch).tagHeld = [] → (nextDesc (modCore (setCh (latch s) c ch (fun k => { k with state := 1, multi := false })) c (fun x => { x with latched := tdel x.latched (ch + 2) })) c ch).sw.seen = [] →
      exec (.chSkip c ch) s = .next { s with dev := nextDesc (modCore (setCh (latch s) c ch (fun k => { k with state := 1, multi := false })) c (fun x => { x with latched := tdel x.latched (ch + 2) })) c ch }) ∧
    (∀ (s : State) (c ch : Nat), (.chSkip c ch : Instr).wellFormed = true → Serving s → (chanOf (coreOf s.dev c) ch).state = 5 → owes s.dev (.chan c ch) = false → (chainOf s.dev c ch).isNone = true →
      exec (.chSkip c ch) s = .next { s with dev := (modCore (setCh (latch s) c ch (fun k => { k with state := 1, multi := false })) c (fun x => { x with latched := tdel x.latched (ch + 2) })) }) ∧
    (∀ (s : State) (c ch : Nat), (.chSkip c ch : Instr).wellFormed = true → Serving s → (chanOf (coreOf s.dev c) ch).state = 5 → owes s.dev (.chan c ch) = false → tget? (coreOf s.dev c).latched (ch + 2) = none → (chainOf s.dev c ch).isSome = true → (descOf (chanOf (coreOf s.dev c) ch).bytes64).flags = 0 → (descOf (chanOf (coreOf s.dev c) ch).bytes64).pulses = 0 →
      exec (.chSkip c ch) s = .next { s with dev := { latch s with cores := tput s.dev.cores c (modStream (modChan (coreOf s.dev c) ch (fun k => { k with state := 1, multi := false, crcMode := (descOf k.bytes64).mode, prog := 0, bytes64 := [], desc := 0 })) (ch + 2) (fun q => { q with flight := q.flight.map (fun f => { f with chain := false }) })) } }) ∧
    (∀ (s : State) (c ch : Nat), (.chAbandon c ch : Instr).wellFormed = true → Serving s → (chanOf (coreOf s.dev c) ch).state = 4 ∨ ((chanOf (coreOf s.dev c) ch).state = 5 ∧ owes s.dev (.chan c ch) = false) →
      exec (.chAbandon c ch) s = .next { s with dev := { latch s with cores := tput s.dev.cores c (modChan (modStream { (coreOf s.dev c) with latched := tdel (coreOf s.dev c).latched (ch + 2) } (ch + 2) (fun _ => ⟨[], []⟩)) ch (fun k => { k with state := 0, prog := 0, desc := 0, bytes64 := [], multi := false })) } })

/-- A request that this device admits, to a line of the stack or bulk tier that its slice holds and no agent caches: READ returns the line; WRITE stores the bytes of its mask; an integer atomic on an aligned operand stores the result of its operation and returns the old value when it fetches; EXACT_ADD and REDUCE_PART add slugs into cells with a fresh CHECK; FILL_RUN, COPY_RUN and COMPARE_RUN act on their lines and return the counts. Each answer goes to the sender with the request's own tag, an operation that is not idempotent leaves its status and old value in the deduplication window, and nothing else changes. -/
def Obligations.FabricAtHome : Prop :=
    (∀ (s : State) (utag : Nat) (r : FabIn) (l : CLine), (.read utag : Instr).wellFormed = true → Serving s → mirrorsOn s.dev = false → tget? s.dev.reqs utag = some r → r.waits = false → r.members = [] → r.kind < 4 → admitReq (latch s) r = .yes → owes s.dev (.run utag) = false → r.code = 0x00 → (pageOf s.dev (pageOfLine (r.addr / 64))).tier = 1 ∨ (pageOf s.dev (pageOfLine (r.addr / 64))).tier = 2 → (pageOf s.dev (pageOfLine (r.addr / 64))).packed = false → floeOn s.dev (homeFloe (pageOfLine (r.addr / 64))) = true → tget? s.dev.dir (r.addr / 64) = none → tget? s.dev.cache (r.addr / 64) = some l → SoundLine s.dev (r.addr / 64) →
      ∃ t, exec (.read utag) s = .next t ∧ t.dev.reqs = tdel s.dev.reqs utag ∧ t.dev.entries = s.dev.entries.filter (fun e => e.2.first ≠ utag) ∧ (r.src = selfNode s.dev → tget? t.dev.acks utag = some ⟨2, 0, selfNode s.dev, epochOf s.dev, 0, 0, l.data, decide (0 ≠ 0), [], false, 0, [], false, false⟩) ∧ t.dev.links = (ackTo (latch s) r.src utag (0) (l.data)).links ∧ t.dev.out = (ackTo (latch s) r.src utag (0) (l.data)).out ∧ t.dev.recent = (useLine s.dev (r.addr / 64)).recent ∧ t = { s with dev := { latch s with recent := t.dev.recent, reqs := t.dev.reqs, entries := t.dev.entries, tel := t.dev.tel, acks := t.dev.acks, links := t.dev.links, out := t.dev.out } }) ∧
    (∀ (s : State) (utag : Nat) (r : FabIn) (l : CLine), (.write utag : Instr).wellFormed = true → Serving s → mirrorsOn s.dev = false → tget? s.dev.reqs utag = some r → r.waits = false → r.members = [] → r.kind < 4 → admitReq (latch s) r = .yes → owes s.dev (.run utag) = false → r.code = 0x01 → (pageOf s.dev (pageOfLine (r.addr / 64))).tier = 1 ∨ (pageOf s.dev (pageOfLine (r.addr / 64))).tier = 2 → (pageOf s.dev (pageOfLine (r.addr / 64))).packed = false → floeOn s.dev (homeFloe (pageOfLine (r.addr / 64))) = true → tget? s.dev.dir (r.addr / 64) = none → tget? s.dev.cache (r.addr / 64) = some l → SoundLine s.dev (r.addr / 64) → (pageOf s.dev (pageOfLine (r.addr / 64))).durable = false → (pageOf s.dev (pageOfLine (r.addr / 64))).twin = false → l.data.length = 64 → (pageOf s.dev (pageOfLine (r.addr / 64))).noPack = false →
      ∃ t, exec (.write utag) s = .next t ∧ t.dev.reqs = tdel s.dev.reqs utag ∧ t.dev.entries = s.dev.entries.filter (fun e => e.2.first ≠ utag) ∧ (r.src = selfNode s.dev → tget? t.dev.acks utag = some ⟨2, 0, selfNode s.dev, epochOf s.dev, 0, 0, [], decide (0 ≠ 0), [], false, 0, [], false, false⟩) ∧ t.dev.links = (ackTo (latch s) r.src utag (0) ([])).links ∧ t.dev.out = (ackTo (latch s) r.src utag (0) ([])).out ∧ t.dev.cache = tput s.dev.cache (r.addr / 64) ⟨mergeMask l.data (slice (r.payload.drop 8) 0 64) (fieldAt r.payload 0 8), true⟩ ∧ t.dev.recent = (useLine s.dev (r.addr / 64)).recent ∧ t.dev.sliceFlips = tdel s.dev.sliceFlips (r.addr / 64) ∧ t = { s with dev := { latch s with recent := t.dev.recent, sliceFlips := t.dev.sliceFlips, reqs := t.dev.reqs, entries := t.dev.entries, tel := t.dev.tel, acks := t.dev.acks, links := t.dev.links, out := t.dev.out, cache := t.dev.cache } }) ∧
    (∀ (s : State) (utag : Nat) (r : FabIn) (l : CLine), (.add utag : Instr).wellFormed = true → Serving s → mirrorsOn s.dev = false → tget? s.dev.reqs utag = some r → r.waits = false → r.members = [] → r.kind < 4 → admitReq (latch s) r = .yes → owes s.dev (.run utag) = false → r.code = 0x08 → (pageOf s.dev (pageOfLine (r.addr / 64))).tier = 1 ∨ (pageOf s.dev (pageOfLine (r.addr / 64))).tier = 2 → (pageOf s.dev (pageOfLine (r.addr / 64))).packed = false → floeOn s.dev (homeFloe (pageOfLine (r.addr / 64))) = true → tget? s.dev.dir (r.addr / 64) = none → tget? s.dev.cache (r.addr / 64) = some l → SoundLine s.dev (r.addr / 64) → (pageOf s.dev (pageOfLine (r.addr / 64))).durable = false → (pageOf s.dev (pageOfLine (r.addr / 64))).twin = false → l.data.length = 64 → (pageOf s.dev (pageOfLine (r.addr / 64))).noPack = false → tget? s.dev.dedup utag = none → s.dev.sw.refusing = false → s.dev.dedup.length < 4096 → r.payload.length = 8 → r.addr % (if bitOf r.width 0 then 8 else 4) = 0 →
      ∃ t, exec (.add utag) s = .next t ∧ t.dev.reqs = tdel s.dev.reqs utag ∧ t.dev.entries = s.dev.entries.filter (fun e => e.2.first ≠ utag) ∧ t.dev.dedup = tput s.dev.dedup utag ⟨0, slice (if bitOf r.width 1 then leBytes 8 (fieldAt l.data (r.addr % 64) (if bitOf r.width 0 then 8 else 4)) else []) 0 8, true⟩ ∧ (r.src = selfNode s.dev → tget? t.dev.acks utag = some ⟨2, 0, selfNode s.dev, epochOf s.dev, 0, 0, if bitOf r.width 1 then leBytes 8 (fieldAt l.data (r.addr % 64) (if bitOf r.width 0 then 8 else 4)) else [], decide (0 ≠ 0), [], false, 0, [], false, false⟩) ∧ t.dev.links = (ackTo (latch s) r.src utag (0) (if bitOf r.width 1 then leBytes 8 (fieldAt l.data (r.addr % 64) (if bitOf r.width 0 then 8 else 4)) else [])).links ∧ t.dev.out = (ackTo (latch s) r.src utag (0) (if bitOf r.width 1 then leBytes 8 (fieldAt l.data (r.addr % 64) (if bitOf r.width 0 then 8 else 4)) else [])).out ∧ t.dev.cache = tput s.dev.cache (r.addr / 64) ⟨splice l.data (r.addr % 64) (leBytes (if bitOf r.width 0 then 8 else 4) (atomicNew 0x08 (if bitOf r.width 0 then 8 else 4) (fieldAt l.data (r.addr % 64) (if bitOf r.width 0 then 8 else 4)) (fieldAt r.payload 0 8) (fieldAt r.payload 8 8))), true⟩ ∧ t.dev.recent = (useLine s.dev (r.addr / 64)).recent ∧ t.dev.sliceFlips = tdel s.dev.sliceFlips (r.addr / 64) ∧ t = { s with dev := { latch s with recent := t.dev.recent, sliceFlips := t.dev.sliceFlips, reqs := t.dev.reqs, entries := t.dev.entries, tel := t.dev.tel, acks := t.dev.acks, links := t.dev.links, out := t.dev.out, dedup := t.dev.dedup, cache := t.dev.cache } }) ∧
    (∀ (s : State) (utag : Nat) (r : FabIn) (l : CLine), (.and utag : Instr).wellFormed = true → Serving s → mirrorsOn s.dev = false → tget? s.dev.reqs utag = some r → r.waits = false → r.members = [] → r.kind < 4 → admitReq (latch s) r = .yes → owes s.dev (.run utag) = false → r.code = 0x09 → (pageOf s.dev (pageOfLine (r.addr / 64))).tier = 1 ∨ (pageOf s.dev (pageOfLine (r.addr / 64))).tier = 2 → (pageOf s.dev (pageOfLine (r.addr / 64))).packed = false → floeOn s.dev (homeFloe (pageOfLine (r.addr / 64))) = true → tget? s.dev.dir (r.addr / 64) = none → tget? s.dev.cache (r.addr / 64) = some l → SoundLine s.dev (r.addr / 64) → (pageOf s.dev (pageOfLine (r.addr / 64))).durable = false → (pageOf s.dev (pageOfLine (r.addr / 64))).twin = false → l.data.length = 64 → (pageOf s.dev (pageOfLine (r.addr / 64))).noPack = false → tget? s.dev.dedup utag = none → s.dev.sw.refusing = false → s.dev.dedup.length < 4096 → r.payload.length = 8 → r.addr % (if bitOf r.width 0 then 8 else 4) = 0 →
      ∃ t, exec (.and utag) s = .next t ∧ t.dev.reqs = tdel s.dev.reqs utag ∧ t.dev.entries = s.dev.entries.filter (fun e => e.2.first ≠ utag) ∧ t.dev.dedup = tput s.dev.dedup utag ⟨0, slice (if bitOf r.width 1 then leBytes 8 (fieldAt l.data (r.addr % 64) (if bitOf r.width 0 then 8 else 4)) else []) 0 8, true⟩ ∧ (r.src = selfNode s.dev → tget? t.dev.acks utag = some ⟨2, 0, selfNode s.dev, epochOf s.dev, 0, 0, if bitOf r.width 1 then leBytes 8 (fieldAt l.data (r.addr % 64) (if bitOf r.width 0 then 8 else 4)) else [], decide (0 ≠ 0), [], false, 0, [], false, false⟩) ∧ t.dev.links = (ackTo (latch s) r.src utag (0) (if bitOf r.width 1 then leBytes 8 (fieldAt l.data (r.addr % 64) (if bitOf r.width 0 then 8 else 4)) else [])).links ∧ t.dev.out = (ackTo (latch s) r.src utag (0) (if bitOf r.width 1 then leBytes 8 (fieldAt l.data (r.addr % 64) (if bitOf r.width 0 then 8 else 4)) else [])).out ∧ t.dev.cache = tput s.dev.cache (r.addr / 64) ⟨splice l.data (r.addr % 64) (leBytes (if bitOf r.width 0 then 8 else 4) (atomicNew 0x09 (if bitOf r.width 0 then 8 else 4) (fieldAt l.data (r.addr % 64) (if bitOf r.width 0 then 8 else 4)) (fieldAt r.payload 0 8) (fieldAt r.payload 8 8))), true⟩ ∧ t.dev.recent = (useLine s.dev (r.addr / 64)).recent ∧ t.dev.sliceFlips = tdel s.dev.sliceFlips (r.addr / 64) ∧ t = { s with dev := { latch s with recent := t.dev.recent, sliceFlips := t.dev.sliceFlips, reqs := t.dev.reqs, entries := t.dev.entries, tel := t.dev.tel, acks := t.dev.acks, links := t.dev.links, out := t.dev.out, dedup := t.dev.dedup, cache := t.dev.cache } }) ∧
    (∀ (s : State) (utag : Nat) (r : FabIn) (l : CLine), (.or utag : Instr).wellFormed = true → Serving s → mirrorsOn s.dev = false → tget? s.dev.reqs utag = some r → r.waits = false → r.members = [] → r.kind < 4 → admitReq (latch s) r = .yes → owes s.dev (.run utag) = false → r.code = 0x0A → (pageOf s.dev (pageOfLine (r.addr / 64))).tier = 1 ∨ (pageOf s.dev (pageOfLine (r.addr / 64))).tier = 2 → (pageOf s.dev (pageOfLine (r.addr / 64))).packed = false → floeOn s.dev (homeFloe (pageOfLine (r.addr / 64))) = true → tget? s.dev.dir (r.addr / 64) = none → tget? s.dev.cache (r.addr / 64) = some l → SoundLine s.dev (r.addr / 64) → (pageOf s.dev (pageOfLine (r.addr / 64))).durable = false → (pageOf s.dev (pageOfLine (r.addr / 64))).twin = false → l.data.length = 64 → (pageOf s.dev (pageOfLine (r.addr / 64))).noPack = false → tget? s.dev.dedup utag = none → s.dev.sw.refusing = false → s.dev.dedup.length < 4096 → r.payload.length = 8 → r.addr % (if bitOf r.width 0 then 8 else 4) = 0 →
      ∃ t, exec (.or utag) s = .next t ∧ t.dev.reqs = tdel s.dev.reqs utag ∧ t.dev.entries = s.dev.entries.filter (fun e => e.2.first ≠ utag) ∧ t.dev.dedup = tput s.dev.dedup utag ⟨0, slice (if bitOf r.width 1 then leBytes 8 (fieldAt l.data (r.addr % 64) (if bitOf r.width 0 then 8 else 4)) else []) 0 8, true⟩ ∧ (r.src = selfNode s.dev → tget? t.dev.acks utag = some ⟨2, 0, selfNode s.dev, epochOf s.dev, 0, 0, if bitOf r.width 1 then leBytes 8 (fieldAt l.data (r.addr % 64) (if bitOf r.width 0 then 8 else 4)) else [], decide (0 ≠ 0), [], false, 0, [], false, false⟩) ∧ t.dev.links = (ackTo (latch s) r.src utag (0) (if bitOf r.width 1 then leBytes 8 (fieldAt l.data (r.addr % 64) (if bitOf r.width 0 then 8 else 4)) else [])).links ∧ t.dev.out = (ackTo (latch s) r.src utag (0) (if bitOf r.width 1 then leBytes 8 (fieldAt l.data (r.addr % 64) (if bitOf r.width 0 then 8 else 4)) else [])).out ∧ t.dev.cache = tput s.dev.cache (r.addr / 64) ⟨splice l.data (r.addr % 64) (leBytes (if bitOf r.width 0 then 8 else 4) (atomicNew 0x0A (if bitOf r.width 0 then 8 else 4) (fieldAt l.data (r.addr % 64) (if bitOf r.width 0 then 8 else 4)) (fieldAt r.payload 0 8) (fieldAt r.payload 8 8))), true⟩ ∧ t.dev.recent = (useLine s.dev (r.addr / 64)).recent ∧ t.dev.sliceFlips = tdel s.dev.sliceFlips (r.addr / 64) ∧ t = { s with dev := { latch s with recent := t.dev.recent, sliceFlips := t.dev.sliceFlips, reqs := t.dev.reqs, entries := t.dev.entries, tel := t.dev.tel, acks := t.dev.acks, links := t.dev.links, out := t.dev.out, dedup := t.dev.dedup, cache := t.dev.cache } }) ∧
    (∀ (s : State) (utag : Nat) (r : FabIn) (l : CLine), (.xor utag : Instr).wellFormed = true → Serving s → mirrorsOn s.dev = false → tget? s.dev.reqs utag = some r → r.waits = false → r.members = [] → r.kind < 4 → admitReq (latch s) r = .yes → owes s.dev (.run utag) = false → r.code = 0x0B → (pageOf s.dev (pageOfLine (r.addr / 64))).tier = 1 ∨ (pageOf s.dev (pageOfLine (r.addr / 64))).tier = 2 → (pageOf s.dev (pageOfLine (r.addr / 64))).packed = false → floeOn s.dev (homeFloe (pageOfLine (r.addr / 64))) = true → tget? s.dev.dir (r.addr / 64) = none → tget? s.dev.cache (r.addr / 64) = some l → SoundLine s.dev (r.addr / 64) → (pageOf s.dev (pageOfLine (r.addr / 64))).durable = false → (pageOf s.dev (pageOfLine (r.addr / 64))).twin = false → l.data.length = 64 → (pageOf s.dev (pageOfLine (r.addr / 64))).noPack = false → tget? s.dev.dedup utag = none → s.dev.sw.refusing = false → s.dev.dedup.length < 4096 → r.payload.length = 8 → r.addr % (if bitOf r.width 0 then 8 else 4) = 0 →
      ∃ t, exec (.xor utag) s = .next t ∧ t.dev.reqs = tdel s.dev.reqs utag ∧ t.dev.entries = s.dev.entries.filter (fun e => e.2.first ≠ utag) ∧ t.dev.dedup = tput s.dev.dedup utag ⟨0, slice (if bitOf r.width 1 then leBytes 8 (fieldAt l.data (r.addr % 64) (if bitOf r.width 0 then 8 else 4)) else []) 0 8, true⟩ ∧ (r.src = selfNode s.dev → tget? t.dev.acks utag = some ⟨2, 0, selfNode s.dev, epochOf s.dev, 0, 0, if bitOf r.width 1 then leBytes 8 (fieldAt l.data (r.addr % 64) (if bitOf r.width 0 then 8 else 4)) else [], decide (0 ≠ 0), [], false, 0, [], false, false⟩) ∧ t.dev.links = (ackTo (latch s) r.src utag (0) (if bitOf r.width 1 then leBytes 8 (fieldAt l.data (r.addr % 64) (if bitOf r.width 0 then 8 else 4)) else [])).links ∧ t.dev.out = (ackTo (latch s) r.src utag (0) (if bitOf r.width 1 then leBytes 8 (fieldAt l.data (r.addr % 64) (if bitOf r.width 0 then 8 else 4)) else [])).out ∧ t.dev.cache = tput s.dev.cache (r.addr / 64) ⟨splice l.data (r.addr % 64) (leBytes (if bitOf r.width 0 then 8 else 4) (atomicNew 0x0B (if bitOf r.width 0 then 8 else 4) (fieldAt l.data (r.addr % 64) (if bitOf r.width 0 then 8 else 4)) (fieldAt r.payload 0 8) (fieldAt r.payload 8 8))), true⟩ ∧ t.dev.recent = (useLine s.dev (r.addr / 64)).recent ∧ t.dev.sliceFlips = tdel s.dev.sliceFlips (r.addr / 64) ∧ t = { s with dev := { latch s with recent := t.dev.recent, sliceFlips := t.dev.sliceFlips, reqs := t.dev.reqs, entries := t.dev.entries, tel := t.dev.tel, acks := t.dev.acks, links := t.dev.links, out := t.dev.out, dedup := t.dev.dedup, cache := t.dev.cache } }) ∧
    (∀ (s : State) (utag : Nat) (r : FabIn) (l : CLine), (.min utag : Instr).wellFormed = true → Serving s → mirrorsOn s.dev = false → tget? s.dev.reqs utag = some r → r.waits = false → r.members = [] → r.kind < 4 → admitReq (latch s) r = .yes → owes s.dev (.run utag) = false → r.code = 0x0C → (pageOf s.dev (pageOfLine (r.addr / 64))).tier = 1 ∨ (pageOf s.dev (pageOfLine (r.addr / 64))).tier = 2 → (pageOf s.dev (pageOfLine (r.addr / 64))).packed = false → floeOn s.dev (homeFloe (pageOfLine (r.addr / 64))) = true → tget? s.dev.dir (r.addr / 64) = none → tget? s.dev.cache (r.addr / 64) = some l → SoundLine s.dev (r.addr / 64) → (pageOf s.dev (pageOfLine (r.addr / 64))).durable = false → (pageOf s.dev (pageOfLine (r.addr / 64))).twin = false → l.data.length = 64 → (pageOf s.dev (pageOfLine (r.addr / 64))).noPack = false → tget? s.dev.dedup utag = none → s.dev.sw.refusing = false → s.dev.dedup.length < 4096 → r.payload.length = 8 → r.addr % (if bitOf r.width 0 then 8 else 4) = 0 →
      ∃ t, exec (.min utag) s = .next t ∧ t.dev.reqs = tdel s.dev.reqs utag ∧ t.dev.entries = s.dev.entries.filter (fun e => e.2.first ≠ utag) ∧ t.dev.dedup = tput s.dev.dedup utag ⟨0, slice (if bitOf r.width 1 then leBytes 8 (fieldAt l.data (r.addr % 64) (if bitOf r.width 0 then 8 else 4)) else []) 0 8, true⟩ ∧ (r.src = selfNode s.dev → tget? t.dev.acks utag = some ⟨2, 0, selfNode s.dev, epochOf s.dev, 0, 0, if bitOf r.width 1 then leBytes 8 (fieldAt l.data (r.addr % 64) (if bitOf r.width 0 then 8 else 4)) else [], decide (0 ≠ 0), [], false, 0, [], false, false⟩) ∧ t.dev.links = (ackTo (latch s) r.src utag (0) (if bitOf r.width 1 then leBytes 8 (fieldAt l.data (r.addr % 64) (if bitOf r.width 0 then 8 else 4)) else [])).links ∧ t.dev.out = (ackTo (latch s) r.src utag (0) (if bitOf r.width 1 then leBytes 8 (fieldAt l.data (r.addr % 64) (if bitOf r.width 0 then 8 else 4)) else [])).out ∧ t.dev.cache = tput s.dev.cache (r.addr / 64) ⟨splice l.data (r.addr % 64) (leBytes (if bitOf r.width 0 then 8 else 4) (atomicNew 0x0C (if bitOf r.width 0 then 8 else 4) (fieldAt l.data (r.addr % 64) (if bitOf r.width 0 then 8 else 4)) (fieldAt r.payload 0 8) (fieldAt r.payload 8 8))), true⟩ ∧ t.dev.recent = (useLine s.dev (r.addr / 64)).recent ∧ t.dev.sliceFlips = tdel s.dev.sliceFlips (r.addr / 64) ∧ t = { s with dev := { latch s with recent := t.dev.recent, sliceFlips := t.dev.sliceFlips, reqs := t.dev.reqs, entries := t.dev.entries, tel := t.dev.tel, acks := t.dev.acks, links := t.dev.links, out := t.dev.out, dedup := t.dev.dedup, cache := t.dev.cache } }) ∧
    (∀ (s : State) (utag : Nat) (r : FabIn) (l : CLine), (.max utag : Instr).wellFormed = true → Serving s → mirrorsOn s.dev = false → tget? s.dev.reqs utag = some r → r.waits = false → r.members = [] → r.kind < 4 → admitReq (latch s) r = .yes → owes s.dev (.run utag) = false → r.code = 0x0D → (pageOf s.dev (pageOfLine (r.addr / 64))).tier = 1 ∨ (pageOf s.dev (pageOfLine (r.addr / 64))).tier = 2 → (pageOf s.dev (pageOfLine (r.addr / 64))).packed = false → floeOn s.dev (homeFloe (pageOfLine (r.addr / 64))) = true → tget? s.dev.dir (r.addr / 64) = none → tget? s.dev.cache (r.addr / 64) = some l → SoundLine s.dev (r.addr / 64) → (pageOf s.dev (pageOfLine (r.addr / 64))).durable = false → (pageOf s.dev (pageOfLine (r.addr / 64))).twin = false → l.data.length = 64 → (pageOf s.dev (pageOfLine (r.addr / 64))).noPack = false → tget? s.dev.dedup utag = none → s.dev.sw.refusing = false → s.dev.dedup.length < 4096 → r.payload.length = 8 → r.addr % (if bitOf r.width 0 then 8 else 4) = 0 →
      ∃ t, exec (.max utag) s = .next t ∧ t.dev.reqs = tdel s.dev.reqs utag ∧ t.dev.entries = s.dev.entries.filter (fun e => e.2.first ≠ utag) ∧ t.dev.dedup = tput s.dev.dedup utag ⟨0, slice (if bitOf r.width 1 then leBytes 8 (fieldAt l.data (r.addr % 64) (if bitOf r.width 0 then 8 else 4)) else []) 0 8, true⟩ ∧ (r.src = selfNode s.dev → tget? t.dev.acks utag = some ⟨2, 0, selfNode s.dev, epochOf s.dev, 0, 0, if bitOf r.width 1 then leBytes 8 (fieldAt l.data (r.addr % 64) (if bitOf r.width 0 then 8 else 4)) else [], decide (0 ≠ 0), [], false, 0, [], false, false⟩) ∧ t.dev.links = (ackTo (latch s) r.src utag (0) (if bitOf r.width 1 then leBytes 8 (fieldAt l.data (r.addr % 64) (if bitOf r.width 0 then 8 else 4)) else [])).links ∧ t.dev.out = (ackTo (latch s) r.src utag (0) (if bitOf r.width 1 then leBytes 8 (fieldAt l.data (r.addr % 64) (if bitOf r.width 0 then 8 else 4)) else [])).out ∧ t.dev.cache = tput s.dev.cache (r.addr / 64) ⟨splice l.data (r.addr % 64) (leBytes (if bitOf r.width 0 then 8 else 4) (atomicNew 0x0D (if bitOf r.width 0 then 8 else 4) (fieldAt l.data (r.addr % 64) (if bitOf r.width 0 then 8 else 4)) (fieldAt r.payload 0 8) (fieldAt r.payload 8 8))), true⟩ ∧ t.dev.recent = (useLine s.dev (r.addr / 64)).recent ∧ t.dev.sliceFlips = tdel s.dev.sliceFlips (r.addr / 64) ∧ t = { s with dev := { latch s with recent := t.dev.recent, sliceFlips := t.dev.sliceFlips, reqs := t.dev.reqs, entries := t.dev.entries, tel := t.dev.tel, acks := t.dev.acks, links := t.dev.links, out := t.dev.out, dedup := t.dev.dedup, cache := t.dev.cache } }) ∧
    (∀ (s : State) (utag : Nat) (r : FabIn) (l : CLine), (.umin utag : Instr).wellFormed = true → Serving s → mirrorsOn s.dev = false → tget? s.dev.reqs utag = some r → r.waits = false → r.members = [] → r.kind < 4 → admitReq (latch s) r = .yes → owes s.dev (.run utag) = false → r.code = 0x0E → (pageOf s.dev (pageOfLine (r.addr / 64))).tier = 1 ∨ (pageOf s.dev (pageOfLine (r.addr / 64))).tier = 2 → (pageOf s.dev (pageOfLine (r.addr / 64))).packed = false → floeOn s.dev (homeFloe (pageOfLine (r.addr / 64))) = true → tget? s.dev.dir (r.addr / 64) = none → tget? s.dev.cache (r.addr / 64) = some l → SoundLine s.dev (r.addr / 64) → (pageOf s.dev (pageOfLine (r.addr / 64))).durable = false → (pageOf s.dev (pageOfLine (r.addr / 64))).twin = false → l.data.length = 64 → (pageOf s.dev (pageOfLine (r.addr / 64))).noPack = false → tget? s.dev.dedup utag = none → s.dev.sw.refusing = false → s.dev.dedup.length < 4096 → r.payload.length = 8 → r.addr % (if bitOf r.width 0 then 8 else 4) = 0 →
      ∃ t, exec (.umin utag) s = .next t ∧ t.dev.reqs = tdel s.dev.reqs utag ∧ t.dev.entries = s.dev.entries.filter (fun e => e.2.first ≠ utag) ∧ t.dev.dedup = tput s.dev.dedup utag ⟨0, slice (if bitOf r.width 1 then leBytes 8 (fieldAt l.data (r.addr % 64) (if bitOf r.width 0 then 8 else 4)) else []) 0 8, true⟩ ∧ (r.src = selfNode s.dev → tget? t.dev.acks utag = some ⟨2, 0, selfNode s.dev, epochOf s.dev, 0, 0, if bitOf r.width 1 then leBytes 8 (fieldAt l.data (r.addr % 64) (if bitOf r.width 0 then 8 else 4)) else [], decide (0 ≠ 0), [], false, 0, [], false, false⟩) ∧ t.dev.links = (ackTo (latch s) r.src utag (0) (if bitOf r.width 1 then leBytes 8 (fieldAt l.data (r.addr % 64) (if bitOf r.width 0 then 8 else 4)) else [])).links ∧ t.dev.out = (ackTo (latch s) r.src utag (0) (if bitOf r.width 1 then leBytes 8 (fieldAt l.data (r.addr % 64) (if bitOf r.width 0 then 8 else 4)) else [])).out ∧ t.dev.cache = tput s.dev.cache (r.addr / 64) ⟨splice l.data (r.addr % 64) (leBytes (if bitOf r.width 0 then 8 else 4) (atomicNew 0x0E (if bitOf r.width 0 then 8 else 4) (fieldAt l.data (r.addr % 64) (if bitOf r.width 0 then 8 else 4)) (fieldAt r.payload 0 8) (fieldAt r.payload 8 8))), true⟩ ∧ t.dev.recent = (useLine s.dev (r.addr / 64)).recent ∧ t.dev.sliceFlips = tdel s.dev.sliceFlips (r.addr / 64) ∧ t = { s with dev := { latch s with recent := t.dev.recent, sliceFlips := t.dev.sliceFlips, reqs := t.dev.reqs, entries := t.dev.entries, tel := t.dev.tel, acks := t.dev.acks, links := t.dev.links, out := t.dev.out, dedup := t.dev.dedup, cache := t.dev.cache } }) ∧
    (∀ (s : State) (utag : Nat) (r : FabIn) (l : CLine), (.umax utag : Instr).wellFormed = true → Serving s → mirrorsOn s.dev = false → tget? s.dev.reqs utag = some r → r.waits = false → r.members = [] → r.kind < 4 → admitReq (latch s) r = .yes → owes s.dev (.run utag) = false → r.code = 0x0F → (pageOf s.dev (pageOfLine (r.addr / 64))).tier = 1 ∨ (pageOf s.dev (pageOfLine (r.addr / 64))).tier = 2 → (pageOf s.dev (pageOfLine (r.addr / 64))).packed = false → floeOn s.dev (homeFloe (pageOfLine (r.addr / 64))) = true → tget? s.dev.dir (r.addr / 64) = none → tget? s.dev.cache (r.addr / 64) = some l → SoundLine s.dev (r.addr / 64) → (pageOf s.dev (pageOfLine (r.addr / 64))).durable = false → (pageOf s.dev (pageOfLine (r.addr / 64))).twin = false → l.data.length = 64 → (pageOf s.dev (pageOfLine (r.addr / 64))).noPack = false → tget? s.dev.dedup utag = none → s.dev.sw.refusing = false → s.dev.dedup.length < 4096 → r.payload.length = 8 → r.addr % (if bitOf r.width 0 then 8 else 4) = 0 →
      ∃ t, exec (.umax utag) s = .next t ∧ t.dev.reqs = tdel s.dev.reqs utag ∧ t.dev.entries = s.dev.entries.filter (fun e => e.2.first ≠ utag) ∧ t.dev.dedup = tput s.dev.dedup utag ⟨0, slice (if bitOf r.width 1 then leBytes 8 (fieldAt l.data (r.addr % 64) (if bitOf r.width 0 then 8 else 4)) else []) 0 8, true⟩ ∧ (r.src = selfNode s.dev → tget? t.dev.acks utag = some ⟨2, 0, selfNode s.dev, epochOf s.dev, 0, 0, if bitOf r.width 1 then leBytes 8 (fieldAt l.data (r.addr % 64) (if bitOf r.width 0 then 8 else 4)) else [], decide (0 ≠ 0), [], false, 0, [], false, false⟩) ∧ t.dev.links = (ackTo (latch s) r.src utag (0) (if bitOf r.width 1 then leBytes 8 (fieldAt l.data (r.addr % 64) (if bitOf r.width 0 then 8 else 4)) else [])).links ∧ t.dev.out = (ackTo (latch s) r.src utag (0) (if bitOf r.width 1 then leBytes 8 (fieldAt l.data (r.addr % 64) (if bitOf r.width 0 then 8 else 4)) else [])).out ∧ t.dev.cache = tput s.dev.cache (r.addr / 64) ⟨splice l.data (r.addr % 64) (leBytes (if bitOf r.width 0 then 8 else 4) (atomicNew 0x0F (if bitOf r.width 0 then 8 else 4) (fieldAt l.data (r.addr % 64) (if bitOf r.width 0 then 8 else 4)) (fieldAt r.payload 0 8) (fieldAt r.payload 8 8))), true⟩ ∧ t.dev.recent = (useLine s.dev (r.addr / 64)).recent ∧ t.dev.sliceFlips = tdel s.dev.sliceFlips (r.addr / 64) ∧ t = { s with dev := { latch s with recent := t.dev.recent, sliceFlips := t.dev.sliceFlips, reqs := t.dev.reqs, entries := t.dev.entries, tel := t.dev.tel, acks := t.dev.acks, links := t.dev.links, out := t.dev.out, dedup := t.dev.dedup, cache := t.dev.cache } }) ∧
    (∀ (s : State) (utag : Nat) (r : FabIn) (l : CLine), (.swap utag : Instr).wellFormed = true → Serving s → mirrorsOn s.dev = false → tget? s.dev.reqs utag = some r → r.waits = false → r.members = [] → r.kind < 4 → admitReq (latch s) r = .yes → owes s.dev (.run utag) = false → r.code = 0x10 → (pageOf s.dev (pageOfLine (r.addr / 64))).tier = 1 ∨ (pageOf s.dev (pageOfLine (r.addr / 64))).tier = 2 → (pageOf s.dev (pageOfLine (r.addr / 64))).packed = false → floeOn s.dev (homeFloe (pageOfLine (r.addr / 64))) = true → tget? s.dev.dir (r.addr / 64) = none → tget? s.dev.cache (r.addr / 64) = some l → SoundLine s.dev (r.addr / 64) → (pageOf s.dev (pageOfLine (r.addr / 64))).durable = false → (pageOf s.dev (pageOfLine (r.addr / 64))).twin = false → l.data.length = 64 → (pageOf s.dev (pageOfLine (r.addr / 64))).noPack = false → tget? s.dev.dedup utag = none → s.dev.sw.refusing = false → s.dev.dedup.length < 4096 → r.payload.length = 8 → r.addr % (if bitOf r.width 0 then 8 else 4) = 0 →
      ∃ t, exec (.swap utag) s = .next t ∧ t.dev.reqs = tdel s.dev.reqs utag ∧ t.dev.entries = s.dev.entries.filter (fun e => e.2.first ≠ utag) ∧ t.dev.dedup = tput s.dev.dedup utag ⟨0, slice (if bitOf r.width 1 then leBytes 8 (fieldAt l.data (r.addr % 64) (if bitOf r.width 0 then 8 else 4)) else []) 0 8, true⟩ ∧ (r.src = selfNode s.dev → tget? t.dev.acks utag = some ⟨2, 0, selfNode s.dev, epochOf s.dev, 0, 0, if bitOf r.width 1 then leBytes 8 (fieldAt l.data (r.addr % 64) (if bitOf r.width 0 then 8 else 4)) else [], decide (0 ≠ 0), [], false, 0, [], false, false⟩) ∧ t.dev.links = (ackTo (latch s) r.src utag (0) (if bitOf r.width 1 then leBytes 8 (fieldAt l.data (r.addr % 64) (if bitOf r.width 0 then 8 else 4)) else [])).links ∧ t.dev.out = (ackTo (latch s) r.src utag (0) (if bitOf r.width 1 then leBytes 8 (fieldAt l.data (r.addr % 64) (if bitOf r.width 0 then 8 else 4)) else [])).out ∧ t.dev.cache = tput s.dev.cache (r.addr / 64) ⟨splice l.data (r.addr % 64) (leBytes (if bitOf r.width 0 then 8 else 4) (atomicNew 0x10 (if bitOf r.width 0 then 8 else 4) (fieldAt l.data (r.addr % 64) (if bitOf r.width 0 then 8 else 4)) (fieldAt r.payload 0 8) (fieldAt r.payload 8 8))), true⟩ ∧ t.dev.recent = (useLine s.dev (r.addr / 64)).recent ∧ t.dev.sliceFlips = tdel s.dev.sliceFlips (r.addr / 64) ∧ t = { s with dev := { latch s with recent := t.dev.recent, sliceFlips := t.dev.sliceFlips, reqs := t.dev.reqs, entries := t.dev.entries, tel := t.dev.tel, acks := t.dev.acks, links := t.dev.links, out := t.dev.out, dedup := t.dev.dedup, cache := t.dev.cache } }) ∧
    (∀ (s : State) (utag : Nat) (r : FabIn) (l : CLine), (.cas utag : Instr).wellFormed = true → Serving s → mirrorsOn s.dev = false → tget? s.dev.reqs utag = some r → r.waits = false → r.members = [] → r.kind < 4 → admitReq (latch s) r = .yes → owes s.dev (.run utag) = false → r.code = 0x11 → (pageOf s.dev (pageOfLine (r.addr / 64))).tier = 1 ∨ (pageOf s.dev (pageOfLine (r.addr / 64))).tier = 2 → (pageOf s.dev (pageOfLine (r.addr / 64))).packed = false → floeOn s.dev (homeFloe (pageOfLine (r.addr / 64))) = true → tget? s.dev.dir (r.addr / 64) = none → tget? s.dev.cache (r.addr / 64) = some l → SoundLine s.dev (r.addr / 64) → (pageOf s.dev (pageOfLine (r.addr / 64))).durable = false → (pageOf s.dev (pageOfLine (r.addr / 64))).twin = false → l.data.length = 64 → (pageOf s.dev (pageOfLine (r.addr / 64))).noPack = false → tget? s.dev.dedup utag = none → s.dev.sw.refusing = false → s.dev.dedup.length < 4096 → r.payload.length = 16 → r.addr % (if bitOf r.width 0 then 8 else 4) = 0 →
      ∃ t, exec (.cas utag) s = .next t ∧ t.dev.reqs = tdel s.dev.reqs utag ∧ t.dev.entries = s.dev.entries.filter (fun e => e.2.first ≠ utag) ∧ t.dev.dedup = tput s.dev.dedup utag ⟨0, slice (if bitOf r.width 1 then leBytes 8 (fieldAt l.data (r.addr % 64) (if bitOf r.width 0 then 8 else 4)) else []) 0 8, true⟩ ∧ (r.src = selfNode s.dev → tget? t.dev.acks utag = some ⟨2, 0, selfNode s.dev, epochOf s.dev, 0, 0, if bitOf r.width 1 then leBytes 8 (fieldAt l.data (r.addr % 64) (if bitOf r.width 0 then 8 else 4)) else [], decide (0 ≠ 0), [], false, 0, [], false, false⟩) ∧ t.dev.links = (ackTo (latch s) r.src utag (0) (if bitOf r.width 1 then leBytes 8 (fieldAt l.data (r.addr % 64) (if bitOf r.width 0 then 8 else 4)) else [])).links ∧ t.dev.out = (ackTo (latch s) r.src utag (0) (if bitOf r.width 1 then leBytes 8 (fieldAt l.data (r.addr % 64) (if bitOf r.width 0 then 8 else 4)) else [])).out ∧ t.dev.cache = tput s.dev.cache (r.addr / 64) ⟨splice l.data (r.addr % 64) (leBytes (if bitOf r.width 0 then 8 else 4) (atomicNew 0x11 (if bitOf r.width 0 then 8 else 4) (fieldAt l.data (r.addr % 64) (if bitOf r.width 0 then 8 else 4)) (fieldAt r.payload 0 8) (fieldAt r.payload 8 8))), true⟩ ∧ t.dev.recent = (useLine s.dev (r.addr / 64)).recent ∧ t.dev.sliceFlips = tdel s.dev.sliceFlips (r.addr / 64) ∧ t = { s with dev := { latch s with recent := t.dev.recent, sliceFlips := t.dev.sliceFlips, reqs := t.dev.reqs, entries := t.dev.entries, tel := t.dev.tel, acks := t.dev.acks, links := t.dev.links, out := t.dev.out, dedup := t.dev.dedup, cache := t.dev.cache } }) ∧
    (∀ (s : State) (utag : Nat) (r : FabIn) (l : CLine) (x y : Slug), (.exactAdd utag : Instr).wellFormed = true → Serving s → mirrorsOn s.dev = false → tget? s.dev.reqs utag = some r → r.waits = false → r.members = [] → r.kind < 4 → admitReq (latch s) r = .yes → owes s.dev (.run utag) = false → r.code = 0x12 → (pageOf s.dev (pageOfLine (r.addr / 64))).tier = 1 ∨ (pageOf s.dev (pageOfLine (r.addr / 64))).tier = 2 → (pageOf s.dev (pageOfLine (r.addr / 64))).packed = false → floeOn s.dev (homeFloe (pageOfLine (r.addr / 64))) = true → tget? s.dev.dir (r.addr / 64) = none → tget? s.dev.cache (r.addr / 64) = some l → SoundLine s.dev (r.addr / 64) → (pageOf s.dev (pageOfLine (r.addr / 64))).durable = false → (pageOf s.dev (pageOfLine (r.addr / 64))).twin = false → l.data.length = 64 → (pageOf s.dev (pageOfLine (r.addr / 64))).noPack = false → tget? s.dev.dedup utag = none → s.dev.sw.refusing = false → s.dev.dedup.length < 4096 → r.payload.length = 32 → r.addr % 32 = 0 → slugOf r.payload = some x → slugOf (slice l.data (r.addr % 64) 32) = some y →
      ∃ t, exec (.exactAdd utag) s = .next t ∧ t.dev.reqs = tdel s.dev.reqs utag ∧ t.dev.entries = s.dev.entries.filter (fun e => e.2.first ≠ utag) ∧ t.dev.dedup = tput s.dev.dedup utag ⟨0, slice ([]) 0 8, true⟩ ∧ (r.src = selfNode s.dev → tget? t.dev.acks utag = some ⟨2, 0, selfNode s.dev, epochOf s.dev, 0, 0, [], decide (0 ≠ 0), [], false, 0, [], false, false⟩) ∧ t.dev.links = (ackTo (latch s) r.src utag (0) ([])).links ∧ t.dev.out = (ackTo (latch s) r.src utag (0) ([])).out ∧ t.dev.cache = tput s.dev.cache (r.addr / 64) ⟨splice l.data (r.addr % 64) (cellOf (slugAdd y x)), true⟩ ∧ t.dev.recent = (useLine s.dev (r.addr / 64)).recent ∧ t.dev.sliceFlips = tdel s.dev.sliceFlips (r.addr / 64) ∧ t = { s with dev := { latch s with recent := t.dev.recent, sliceFlips := t.dev.sliceFlips, reqs := t.dev.reqs, entries := t.dev.entries, tel := t.dev.tel, acks := t.dev.acks, links := t.dev.links, out := t.dev.out, dedup := t.dev.dedup, cache := t.dev.cache } }) ∧
    (∀ (s : State) (utag : Nat) (r : FabIn) (l : CLine), (.fillRun utag : Instr).wellFormed = true → Serving s → mirrorsOn s.dev = false → tget? s.dev.reqs utag = some r → r.waits = false → r.members = [] → r.kind < 4 → admitReq (latch s) r = .yes → owes s.dev (.run utag) = false → r.code = 0x18 → fieldAt r.payload 8 4 = 1 → (pageOf s.dev (pageOfLine (r.addr / 64))).tier = 1 ∨ (pageOf s.dev (pageOfLine (r.addr / 64))).tier = 2 → (pageOf s.dev (pageOfLine (r.addr / 64))).packed = false → floeOn s.dev (homeFloe (pageOfLine (r.addr / 64))) = true → tget? s.dev.dir (r.addr / 64) = none → tget? s.dev.cache (r.addr / 64) = some l → SoundLine s.dev (r.addr / 64) → (pageOf s.dev (pageOfLine (r.addr / 64))).durable = false → (pageOf s.dev (pageOfLine (r.addr / 64))).twin = false → l.data.length = 64 → (pageOf s.dev (pageOfLine (r.addr / 64))).noPack = false → tget? s.dev.dedup utag = none → s.dev.sw.refusing = false → s.dev.dedup.length < 4096 →
      ∃ t, exec (.fillRun utag) s = .next t ∧ t.dev.reqs = tdel s.dev.reqs utag ∧ t.dev.entries = s.dev.entries.filter (fun e => e.2.first ≠ utag) ∧ t.dev.dedup = tput s.dev.dedup utag ⟨0, slice (leBytes 4 1 ++ leBytes 4 0) 0 8, true⟩ ∧ (r.src = selfNode s.dev → tget? t.dev.acks utag = some ⟨2, 0, selfNode s.dev, epochOf s.dev, 0, 0, leBytes 4 1 ++ leBytes 4 0, decide (0 ≠ 0), [], false, 0, [], false, false⟩) ∧ t.dev.links = (ackTo (latch s) r.src utag (0) (leBytes 4 1 ++ leBytes 4 0)).links ∧ t.dev.out = (ackTo (latch s) r.src utag (0) (leBytes 4 1 ++ leBytes 4 0)).out ∧ t.dev.cache = tput s.dev.cache (r.addr / 64) ⟨(List.replicate 8 (slice r.payload 0 8)).flatten, true⟩ ∧ t.dev.recent = (useLine s.dev (r.addr / 64)).recent ∧ t.dev.sliceFlips = tdel s.dev.sliceFlips (r.addr / 64) ∧ t = { s with dev := { latch s with recent := t.dev.recent, sliceFlips := t.dev.sliceFlips, reqs := t.dev.reqs, entries := t.dev.entries, tel := t.dev.tel, acks := t.dev.acks, links := t.dev.links, out := t.dev.out, dedup := t.dev.dedup, cache := t.dev.cache } }) ∧
    (∀ (s : State) (utag : Nat) (r : FabIn) (l : CLine) (m : Nat) (k : CLine), (.copyRun utag : Instr).wellFormed = true → Serving s → mirrorsOn s.dev = false → tget? s.dev.reqs utag = some r → r.waits = false → r.members = [] → r.kind < 4 → admitReq (latch s) r = .yes → owes s.dev (.run utag) = false → r.code = 0x19 → fieldAt r.payload 8 4 = 1 → fieldAt r.payload 0 8 = selfNode s.dev * 2 ^ 44 + 64 * m → m < 2 ^ 38 → (pageOf s.dev (pageOfLine (r.addr / 64))).tier = 1 ∨ (pageOf s.dev (pageOfLine (r.addr / 64))).tier = 2 → (pageOf s.dev (pageOfLine (r.addr / 64))).packed = false → floeOn s.dev (homeFloe (pageOfLine (r.addr / 64))) = true → tget? s.dev.dir (r.addr / 64) = none → tget? s.dev.cache (r.addr / 64) = some l → SoundLine s.dev (r.addr / 64) → l.data.length = 64 → (pageOf s.dev (pageOfLine m)).tier = 1 ∨ (pageOf s.dev (pageOfLine m)).tier = 2 → (pageOf s.dev (pageOfLine m)).packed = false → floeOn s.dev (homeFloe (pageOfLine m)) = true → tget? s.dev.dir m = none → tget? s.dev.cache m = some k → SoundLine s.dev m → (pageOf s.dev (pageOfLine m)).durable = false → (pageOf s.dev (pageOfLine m)).twin = false → k.data.length = 64 → (pageOf s.dev (pageOfLine m)).noPack = false → tget? s.dev.dedup utag = none → s.dev.sw.refusing = false → s.dev.dedup.length < 4096 →
      ∃ t, exec (.copyRun utag) s = .next t ∧ t.dev.reqs = tdel s.dev.reqs utag ∧ t.dev.entries = s.dev.entries.filter (fun e => e.2.first ≠ utag) ∧ t.dev.dedup = tput s.dev.dedup utag ⟨0, slice (leBytes 8 (crc64From 0 l.data)) 0 8, true⟩ ∧ (r.src = selfNode s.dev → tget? t.dev.acks utag = some ⟨2, 0, selfNode s.dev, epochOf s.dev, 0, 0, leBytes 8 (crc64From 0 l.data), decide (0 ≠ 0), [], false, 0, [], false, false⟩) ∧ t.dev.links = (ackTo (latch s) r.src utag (0) (leBytes 8 (crc64From 0 l.data))).links ∧ t.dev.out = (ackTo (latch s) r.src utag (0) (leBytes 8 (crc64From 0 l.data))).out ∧ t.dev.cache = tput s.dev.cache m ⟨l.data, true⟩ ∧ t.dev.recent = (useLine (useLine s.dev (r.addr / 64)) m).recent ∧ t.dev.sliceFlips = tdel s.dev.sliceFlips m ∧ t = { s with dev := { latch s with recent := t.dev.recent, sliceFlips := t.dev.sliceFlips, reqs := t.dev.reqs, entries := t.dev.entries, tel := t.dev.tel, acks := t.dev.acks, links := t.dev.links, out := t.dev.out, dedup := t.dev.dedup, cache := t.dev.cache } }) ∧
    (∀ (s : State) (utag : Nat) (r : FabIn) (l : CLine), (.compareRun utag : Instr).wellFormed = true → Serving s → mirrorsOn s.dev = false → tget? s.dev.reqs utag = some r → r.waits = false → r.members = [] → r.kind < 4 → admitReq (latch s) r = .yes → owes s.dev (.run utag) = false → r.code = 0x1A → fieldAt r.payload 8 4 = 1 → bitOf (fieldAt r.payload 12 1) 0 = true → (pageOf s.dev (pageOfLine (r.addr / 64))).tier = 1 ∨ (pageOf s.dev (pageOfLine (r.addr / 64))).tier = 2 → (pageOf s.dev (pageOfLine (r.addr / 64))).packed = false → floeOn s.dev (homeFloe (pageOfLine (r.addr / 64))) = true → tget? s.dev.dir (r.addr / 64) = none → tget? s.dev.cache (r.addr / 64) = some l → SoundLine s.dev (r.addr / 64) → tget? s.dev.dedup utag = none → s.dev.sw.refusing = false → s.dev.dedup.length < 4096 →
      ∃ t, exec (.compareRun utag) s = .next t ∧ t.dev.reqs = tdel s.dev.reqs utag ∧ t.dev.entries = s.dev.entries.filter (fun e => e.2.first ≠ utag) ∧ t.dev.dedup = tput s.dev.dedup utag ⟨0, slice (if bits (fieldAt r.payload 12 1) 1 2 = 0 then leBytes 4 1 ++ leBytes 4 (if l.data = (List.replicate 8 (slice r.payload 0 8)).flatten then 0 else 1) else if bits (fieldAt r.payload 12 1) 1 2 = 1 then leBytes 8 (Compared.start.add l.data (List.replicate 8 (slice r.payload 0 8)).flatten).first else leBytes 8 (crc64From 0 l.data)) 0 8, true⟩ ∧ (r.src = selfNode s.dev → tget? t.dev.acks utag = some ⟨2, 0, selfNode s.dev, epochOf s.dev, 0, 0, if bits (fieldAt r.payload 12 1) 1 2 = 0 then leBytes 4 1 ++ leBytes 4 (if l.data = (List.replicate 8 (slice r.payload 0 8)).flatten then 0 else 1) else if bits (fieldAt r.payload 12 1) 1 2 = 1 then leBytes 8 (Compared.start.add l.data (List.replicate 8 (slice r.payload 0 8)).flatten).first else leBytes 8 (crc64From 0 l.data), decide (0 ≠ 0), [], false, 0, [], false, false⟩) ∧ t.dev.links = (ackTo (latch s) r.src utag (0) (if bits (fieldAt r.payload 12 1) 1 2 = 0 then leBytes 4 1 ++ leBytes 4 (if l.data = (List.replicate 8 (slice r.payload 0 8)).flatten then 0 else 1) else if bits (fieldAt r.payload 12 1) 1 2 = 1 then leBytes 8 (Compared.start.add l.data (List.replicate 8 (slice r.payload 0 8)).flatten).first else leBytes 8 (crc64From 0 l.data))).links ∧ t.dev.out = (ackTo (latch s) r.src utag (0) (if bits (fieldAt r.payload 12 1) 1 2 = 0 then leBytes 4 1 ++ leBytes 4 (if l.data = (List.replicate 8 (slice r.payload 0 8)).flatten then 0 else 1) else if bits (fieldAt r.payload 12 1) 1 2 = 1 then leBytes 8 (Compared.start.add l.data (List.replicate 8 (slice r.payload 0 8)).flatten).first else leBytes 8 (crc64From 0 l.data))).out ∧ t.dev.recent = (useLine s.dev (r.addr / 64)).recent ∧ t = { s with dev := { latch s with recent := t.dev.recent, reqs := t.dev.reqs, entries := t.dev.entries, tel := t.dev.tel, acks := t.dev.acks, links := t.dev.links, out := t.dev.out, dedup := t.dev.dedup } }) ∧
    (∀ (s : State) (utag : Nat) (r : FabIn) (l : CLine) (m : Nat) (k : CLine), (.compareRun utag : Instr).wellFormed = true → Serving s → mirrorsOn s.dev = false → tget? s.dev.reqs utag = some r → r.waits = false → r.members = [] → r.kind < 4 → admitReq (latch s) r = .yes → owes s.dev (.run utag) = false → r.code = 0x1A → fieldAt r.payload 8 4 = 1 → fieldAt r.payload 12 1 = 0 → fieldAt r.payload 0 8 = selfNode s.dev * 2 ^ 44 + 64 * m → m < 2 ^ 38 → l.data.length = 64 → k.data.length = 64 → (pageOf s.dev (pageOfLine (r.addr / 64))).tier = 1 ∨ (pageOf s.dev (pageOfLine (r.addr / 64))).tier = 2 → (pageOf s.dev (pageOfLine (r.addr / 64))).packed = false → floeOn s.dev (homeFloe (pageOfLine (r.addr / 64))) = true → tget? s.dev.dir (r.addr / 64) = none → tget? s.dev.cache (r.addr / 64) = some l → SoundLine s.dev (r.addr / 64) → (pageOf s.dev (pageOfLine m)).tier = 1 ∨ (pageOf s.dev (pageOfLine m)).tier = 2 → (pageOf s.dev (pageOfLine m)).packed = false → floeOn s.dev (homeFloe (pageOfLine m)) = true → tget? s.dev.dir m = none → tget? s.dev.cache m = some k → SoundLine s.dev m → tget? s.dev.dedup utag = none → s.dev.sw.refusing = false → s.dev.dedup.length < 4096 →
      ∃ t, exec (.compareRun utag) s = .next t ∧ t.dev.reqs = tdel s.dev.reqs utag ∧ t.dev.entries = s.dev.entries.filter (fun e => e.2.first ≠ utag) ∧ t.dev.dedup = tput s.dev.dedup utag ⟨0, slice (leBytes 4 1 ++ leBytes 4 (if l.data = k.data then 0 else 1)) 0 8, true⟩ ∧ (r.src = selfNode s.dev → tget? t.dev.acks utag = some ⟨2, 0, selfNode s.dev, epochOf s.dev, 0, 0, leBytes 4 1 ++ leBytes 4 (if l.data = k.data then 0 else 1), decide (0 ≠ 0), [], false, 0, [], false, false⟩) ∧ t.dev.links = (ackTo (latch s) r.src utag (0) (leBytes 4 1 ++ leBytes 4 (if l.data = k.data then 0 else 1))).links ∧ t.dev.out = (ackTo (latch s) r.src utag (0) (leBytes 4 1 ++ leBytes 4 (if l.data = k.data then 0 else 1))).out ∧ t.dev.recent = (useLine (useLine s.dev (r.addr / 64)) m).recent ∧ t = { s with dev := { latch s with recent := t.dev.recent, reqs := t.dev.reqs, entries := t.dev.entries, tel := t.dev.tel, acks := t.dev.acks, links := t.dev.links, out := t.dev.out, dedup := t.dev.dedup } }) ∧
    (∀ (s : State) (utag : Nat) (r : FabIn) (l : CLine) (x y : Slug), (.reducePart utag : Instr).wellFormed = true → Serving s → mirrorsOn s.dev = false → tget? s.dev.reqs utag = some r → r.waits = false → r.members = [] → r.kind < 4 → admitReq (latch s) r = .yes → owes s.dev (.run utag) = false → r.code = 0x1B → (pageOf s.dev (pageOfLine (r.addr / 64))).tier = 1 ∨ (pageOf s.dev (pageOfLine (r.addr / 64))).tier = 2 → (pageOf s.dev (pageOfLine (r.addr / 64))).packed = false → floeOn s.dev (homeFloe (pageOfLine (r.addr / 64))) = true → tget? s.dev.dir (r.addr / 64) = none → tget? s.dev.cache (r.addr / 64) = some l → SoundLine s.dev (r.addr / 64) → (pageOf s.dev (pageOfLine (r.addr / 64))).durable = false → (pageOf s.dev (pageOfLine (r.addr / 64))).twin = false → l.data.length = 64 → (pageOf s.dev (pageOfLine (r.addr / 64))).noPack = false → tget? s.dev.dedup utag = none → s.dev.sw.refusing = false → s.dev.dedup.length < 4096 → r.payload.length = 32 → r.addr % 32 = 0 → slugOf r.payload = some x → slugOf (slice l.data (r.addr % 64) 32) = some y →
      ∃ t, exec (.reducePart utag) s = .next t ∧ t.dev.reqs = tdel s.dev.reqs utag ∧ t.dev.entries = s.dev.entries.filter (fun e => e.2.first ≠ utag) ∧ t.dev.dedup = tput s.dev.dedup utag ⟨0, slice (leBytes 4 1 ++ leBytes 4 0) 0 8, true⟩ ∧ (r.src = selfNode s.dev → tget? t.dev.acks utag = some ⟨2, 0, selfNode s.dev, epochOf s.dev, 0, 0, leBytes 4 1 ++ leBytes 4 0, decide (0 ≠ 0), [], false, 0, [], false, false⟩) ∧ t.dev.links = (ackTo (latch s) r.src utag (0) (leBytes 4 1 ++ leBytes 4 0)).links ∧ t.dev.out = (ackTo (latch s) r.src utag (0) (leBytes 4 1 ++ leBytes 4 0)).out ∧ t.dev.cache = tput s.dev.cache (r.addr / 64) ⟨splice l.data (r.addr % 64) (cellOf (slugAdd y x)), true⟩ ∧ t.dev.recent = (useLine s.dev (r.addr / 64)).recent ∧ t.dev.sliceFlips = tdel s.dev.sliceFlips (r.addr / 64) ∧ t = { s with dev := { latch s with recent := t.dev.recent, sliceFlips := t.dev.sliceFlips, reqs := t.dev.reqs, entries := t.dev.entries, tel := t.dev.tel, acks := t.dev.acks, links := t.dev.links, out := t.dev.out, dedup := t.dev.dedup, cache := t.dev.cache } }) ∧
    (∀ (s : State) (utag st : Nat) (r : FabIn) (m : Dev) (pl : Bytes), (.read utag : Instr).wellFormed = true → Serving s → tget? s.dev.reqs utag = some r → r.waits = false → dedupCode r.code = false ∨ ((recordTags r utag).filterMap (tget? s.dev.dedup) = [] ∧ s.dev.sw.refusing = false ∧ s.dev.dedup.length < 4096) → admitReq (latch s) r = .yes → r.code = 0x00 → packedWait s.dev (r.addr / 64) = false → performReq (latch s) utag r = (m, .done st pl) → owes m (.run utag) = false → m.boot = s.dev.boot → (answer m utag r st pl).boot = s.dev.boot → (answer m utag r st pl).errq.due = [] → (answer m utag r st pl).tagWait = [] → (answer m utag r st pl).tagHeld = [] → (answer m utag r st pl).sw.seen = [] →
      exec (.read utag) s = .next { s with dev := answer m utag r st pl }) ∧
    (∀ (s : State) (utag st : Nat) (r : FabIn) (m : Dev) (pl : Bytes), (.write utag : Instr).wellFormed = true → Serving s → tget? s.dev.reqs utag = some r → r.waits = false → dedupCode r.code = false ∨ ((recordTags r utag).filterMap (tget? s.dev.dedup) = [] ∧ s.dev.sw.refusing = false ∧ s.dev.dedup.length < 4096) → admitReq (latch s) r = .yes → r.code = 0x01 → performReq (latch s) utag r = (m, .done st pl) → owes m (.run utag) = false → m.boot = s.dev.boot → (answer m utag r st pl).boot = s.dev.boot → (answer m utag r st pl).errq.due = [] → (answer m utag r st pl).tagWait = [] → (answer m utag r st pl).tagHeld = [] → (answer m utag r st pl).sw.seen = [] →
      exec (.write utag) s = .next { s with dev := answer m utag r st pl }) ∧
    (∀ (s : State) (utag st : Nat) (r : FabIn) (m : Dev) (pl : Bytes), (.add utag : Instr).wellFormed = true → Serving s → tget? s.dev.reqs utag = some r → r.waits = false → dedupCode r.code = false ∨ ((recordTags r utag).filterMap (tget? s.dev.dedup) = [] ∧ s.dev.sw.refusing = false ∧ s.dev.dedup.length < 4096) → admitReq (latch s) r = .yes → r.code = 0x08 → performReq (latch s) utag r = (m, .done st pl) → owes m (.run utag) = false → m.boot = s.dev.boot → (answer m utag r st pl).boot = s.dev.boot → (answer m utag r st pl).errq.due = [] → (answer m utag r st pl).tagWait = [] → (answer m utag r st pl).tagHeld = [] → (answer m utag r st pl).sw.seen = [] →
      exec (.add utag) s = .next { s with dev := answer m utag r st pl }) ∧
    (∀ (s : State) (utag st : Nat) (r : FabIn) (m : Dev) (pl : Bytes), (.and utag : Instr).wellFormed = true → Serving s → tget? s.dev.reqs utag = some r → r.waits = false → dedupCode r.code = false ∨ ((recordTags r utag).filterMap (tget? s.dev.dedup) = [] ∧ s.dev.sw.refusing = false ∧ s.dev.dedup.length < 4096) → admitReq (latch s) r = .yes → r.code = 0x09 → performReq (latch s) utag r = (m, .done st pl) → owes m (.run utag) = false → m.boot = s.dev.boot → (answer m utag r st pl).boot = s.dev.boot → (answer m utag r st pl).errq.due = [] → (answer m utag r st pl).tagWait = [] → (answer m utag r st pl).tagHeld = [] → (answer m utag r st pl).sw.seen = [] →
      exec (.and utag) s = .next { s with dev := answer m utag r st pl }) ∧
    (∀ (s : State) (utag st : Nat) (r : FabIn) (m : Dev) (pl : Bytes), (.or utag : Instr).wellFormed = true → Serving s → tget? s.dev.reqs utag = some r → r.waits = false → dedupCode r.code = false ∨ ((recordTags r utag).filterMap (tget? s.dev.dedup) = [] ∧ s.dev.sw.refusing = false ∧ s.dev.dedup.length < 4096) → admitReq (latch s) r = .yes → r.code = 0x0A → performReq (latch s) utag r = (m, .done st pl) → owes m (.run utag) = false → m.boot = s.dev.boot → (answer m utag r st pl).boot = s.dev.boot → (answer m utag r st pl).errq.due = [] → (answer m utag r st pl).tagWait = [] → (answer m utag r st pl).tagHeld = [] → (answer m utag r st pl).sw.seen = [] →
      exec (.or utag) s = .next { s with dev := answer m utag r st pl }) ∧
    (∀ (s : State) (utag st : Nat) (r : FabIn) (m : Dev) (pl : Bytes), (.xor utag : Instr).wellFormed = true → Serving s → tget? s.dev.reqs utag = some r → r.waits = false → dedupCode r.code = false ∨ ((recordTags r utag).filterMap (tget? s.dev.dedup) = [] ∧ s.dev.sw.refusing = false ∧ s.dev.dedup.length < 4096) → admitReq (latch s) r = .yes → r.code = 0x0B → performReq (latch s) utag r = (m, .done st pl) → owes m (.run utag) = false → m.boot = s.dev.boot → (answer m utag r st pl).boot = s.dev.boot → (answer m utag r st pl).errq.due = [] → (answer m utag r st pl).tagWait = [] → (answer m utag r st pl).tagHeld = [] → (answer m utag r st pl).sw.seen = [] →
      exec (.xor utag) s = .next { s with dev := answer m utag r st pl }) ∧
    (∀ (s : State) (utag st : Nat) (r : FabIn) (m : Dev) (pl : Bytes), (.min utag : Instr).wellFormed = true → Serving s → tget? s.dev.reqs utag = some r → r.waits = false → dedupCode r.code = false ∨ ((recordTags r utag).filterMap (tget? s.dev.dedup) = [] ∧ s.dev.sw.refusing = false ∧ s.dev.dedup.length < 4096) → admitReq (latch s) r = .yes → r.code = 0x0C → performReq (latch s) utag r = (m, .done st pl) → owes m (.run utag) = false → m.boot = s.dev.boot → (answer m utag r st pl).boot = s.dev.boot → (answer m utag r st pl).errq.due = [] → (answer m utag r st pl).tagWait = [] → (answer m utag r st pl).tagHeld = [] → (answer m utag r st pl).sw.seen = [] →
      exec (.min utag) s = .next { s with dev := answer m utag r st pl }) ∧
    (∀ (s : State) (utag st : Nat) (r : FabIn) (m : Dev) (pl : Bytes), (.max utag : Instr).wellFormed = true → Serving s → tget? s.dev.reqs utag = some r → r.waits = false → dedupCode r.code = false ∨ ((recordTags r utag).filterMap (tget? s.dev.dedup) = [] ∧ s.dev.sw.refusing = false ∧ s.dev.dedup.length < 4096) → admitReq (latch s) r = .yes → r.code = 0x0D → performReq (latch s) utag r = (m, .done st pl) → owes m (.run utag) = false → m.boot = s.dev.boot → (answer m utag r st pl).boot = s.dev.boot → (answer m utag r st pl).errq.due = [] → (answer m utag r st pl).tagWait = [] → (answer m utag r st pl).tagHeld = [] → (answer m utag r st pl).sw.seen = [] →
      exec (.max utag) s = .next { s with dev := answer m utag r st pl }) ∧
    (∀ (s : State) (utag st : Nat) (r : FabIn) (m : Dev) (pl : Bytes), (.umin utag : Instr).wellFormed = true → Serving s → tget? s.dev.reqs utag = some r → r.waits = false → dedupCode r.code = false ∨ ((recordTags r utag).filterMap (tget? s.dev.dedup) = [] ∧ s.dev.sw.refusing = false ∧ s.dev.dedup.length < 4096) → admitReq (latch s) r = .yes → r.code = 0x0E → performReq (latch s) utag r = (m, .done st pl) → owes m (.run utag) = false → m.boot = s.dev.boot → (answer m utag r st pl).boot = s.dev.boot → (answer m utag r st pl).errq.due = [] → (answer m utag r st pl).tagWait = [] → (answer m utag r st pl).tagHeld = [] → (answer m utag r st pl).sw.seen = [] →
      exec (.umin utag) s = .next { s with dev := answer m utag r st pl }) ∧
    (∀ (s : State) (utag st : Nat) (r : FabIn) (m : Dev) (pl : Bytes), (.umax utag : Instr).wellFormed = true → Serving s → tget? s.dev.reqs utag = some r → r.waits = false → dedupCode r.code = false ∨ ((recordTags r utag).filterMap (tget? s.dev.dedup) = [] ∧ s.dev.sw.refusing = false ∧ s.dev.dedup.length < 4096) → admitReq (latch s) r = .yes → r.code = 0x0F → performReq (latch s) utag r = (m, .done st pl) → owes m (.run utag) = false → m.boot = s.dev.boot → (answer m utag r st pl).boot = s.dev.boot → (answer m utag r st pl).errq.due = [] → (answer m utag r st pl).tagWait = [] → (answer m utag r st pl).tagHeld = [] → (answer m utag r st pl).sw.seen = [] →
      exec (.umax utag) s = .next { s with dev := answer m utag r st pl }) ∧
    (∀ (s : State) (utag st : Nat) (r : FabIn) (m : Dev) (pl : Bytes), (.swap utag : Instr).wellFormed = true → Serving s → tget? s.dev.reqs utag = some r → r.waits = false → dedupCode r.code = false ∨ ((recordTags r utag).filterMap (tget? s.dev.dedup) = [] ∧ s.dev.sw.refusing = false ∧ s.dev.dedup.length < 4096) → admitReq (latch s) r = .yes → r.code = 0x10 → performReq (latch s) utag r = (m, .done st pl) → owes m (.run utag) = false → m.boot = s.dev.boot → (answer m utag r st pl).boot = s.dev.boot → (answer m utag r st pl).errq.due = [] → (answer m utag r st pl).tagWait = [] → (answer m utag r st pl).tagHeld = [] → (answer m utag r st pl).sw.seen = [] →
      exec (.swap utag) s = .next { s with dev := answer m utag r st pl }) ∧
    (∀ (s : State) (utag st : Nat) (r : FabIn) (m : Dev) (pl : Bytes), (.cas utag : Instr).wellFormed = true → Serving s → tget? s.dev.reqs utag = some r → r.waits = false → dedupCode r.code = false ∨ ((recordTags r utag).filterMap (tget? s.dev.dedup) = [] ∧ s.dev.sw.refusing = false ∧ s.dev.dedup.length < 4096) → admitReq (latch s) r = .yes → r.code = 0x11 → performReq (latch s) utag r = (m, .done st pl) → owes m (.run utag) = false → m.boot = s.dev.boot → (answer m utag r st pl).boot = s.dev.boot → (answer m utag r st pl).errq.due = [] → (answer m utag r st pl).tagWait = [] → (answer m utag r st pl).tagHeld = [] → (answer m utag r st pl).sw.seen = [] →
      exec (.cas utag) s = .next { s with dev := answer m utag r st pl }) ∧
    (∀ (s : State) (utag st : Nat) (r : FabIn) (m : Dev) (pl : Bytes), (.exactAdd utag : Instr).wellFormed = true → Serving s → tget? s.dev.reqs utag = some r → r.waits = false → dedupCode r.code = false ∨ ((recordTags r utag).filterMap (tget? s.dev.dedup) = [] ∧ s.dev.sw.refusing = false ∧ s.dev.dedup.length < 4096) → admitReq (latch s) r = .yes → r.code = 0x12 → performReq (latch s) utag r = (m, .done st pl) → owes m (.run utag) = false → m.boot = s.dev.boot → (answer m utag r st pl).boot = s.dev.boot → (answer m utag r st pl).errq.due = [] → (answer m utag r st pl).tagWait = [] → (answer m utag r st pl).tagHeld = [] → (answer m utag r st pl).sw.seen = [] →
      exec (.exactAdd utag) s = .next { s with dev := answer m utag r st pl }) ∧
    (∀ (s : State) (utag st : Nat) (r : FabIn) (m : Dev) (pl : Bytes), (.fillRun utag : Instr).wellFormed = true → Serving s → tget? s.dev.reqs utag = some r → r.waits = false → dedupCode r.code = false ∨ ((recordTags r utag).filterMap (tget? s.dev.dedup) = [] ∧ s.dev.sw.refusing = false ∧ s.dev.dedup.length < 4096) → admitReq (latch s) r = .yes → r.code = 0x18 → performReq (latch s) utag r = (m, .done st pl) → owes m (.run utag) = false → m.boot = s.dev.boot → (answer m utag r st pl).boot = s.dev.boot → (answer m utag r st pl).errq.due = [] → (answer m utag r st pl).tagWait = [] → (answer m utag r st pl).tagHeld = [] → (answer m utag r st pl).sw.seen = [] →
      exec (.fillRun utag) s = .next { s with dev := answer m utag r st pl }) ∧
    (∀ (s : State) (utag st : Nat) (r : FabIn) (m : Dev) (pl : Bytes), (.copyRun utag : Instr).wellFormed = true → Serving s → tget? s.dev.reqs utag = some r → r.waits = false → dedupCode r.code = false ∨ ((recordTags r utag).filterMap (tget? s.dev.dedup) = [] ∧ s.dev.sw.refusing = false ∧ s.dev.dedup.length < 4096) → admitReq (latch s) r = .yes → r.code = 0x19 → performReq (latch s) utag r = (m, .done st pl) → owes m (.run utag) = false → m.boot = s.dev.boot → (answer m utag r st pl).boot = s.dev.boot → (answer m utag r st pl).errq.due = [] → (answer m utag r st pl).tagWait = [] → (answer m utag r st pl).tagHeld = [] → (answer m utag r st pl).sw.seen = [] →
      exec (.copyRun utag) s = .next { s with dev := answer m utag r st pl }) ∧
    (∀ (s : State) (utag st : Nat) (r : FabIn) (m : Dev) (pl : Bytes), (.compareRun utag : Instr).wellFormed = true → Serving s → tget? s.dev.reqs utag = some r → r.waits = false → dedupCode r.code = false ∨ ((recordTags r utag).filterMap (tget? s.dev.dedup) = [] ∧ s.dev.sw.refusing = false ∧ s.dev.dedup.length < 4096) → admitReq (latch s) r = .yes → r.code = 0x1A → performReq (latch s) utag r = (m, .done st pl) → owes m (.run utag) = false → m.boot = s.dev.boot → (answer m utag r st pl).boot = s.dev.boot → (answer m utag r st pl).errq.due = [] → (answer m utag r st pl).tagWait = [] → (answer m utag r st pl).tagHeld = [] → (answer m utag r st pl).sw.seen = [] →
      exec (.compareRun utag) s = .next { s with dev := answer m utag r st pl }) ∧
    (∀ (s : State) (utag st : Nat) (r : FabIn) (m : Dev) (pl : Bytes), (.reducePart utag : Instr).wellFormed = true → Serving s → tget? s.dev.reqs utag = some r → r.waits = false → dedupCode r.code = false ∨ ((recordTags r utag).filterMap (tget? s.dev.dedup) = [] ∧ s.dev.sw.refusing = false ∧ s.dev.dedup.length < 4096) → admitReq (latch s) r = .yes → r.code = 0x1B → performReq (latch s) utag r = (m, .done st pl) → owes m (.run utag) = false → m.boot = s.dev.boot → (answer m utag r st pl).boot = s.dev.boot → (answer m utag r st pl).errq.due = [] → (answer m utag r st pl).tagWait = [] → (answer m utag r st pl).tagHeld = [] → (answer m utag r st pl).sw.seen = [] →
      exec (.reducePart utag) s = .next { s with dev := answer m utag r st pl })

/-- A request to an unplaced page is answered with PAGE_ABSENT and one whose epoch is too old with REROUTE, memory as it was; an atomic whose tag the window holds is not performed and gets the recorded acknowledgement again, counted in DEDUP_HITS; one that finds the window full is refused with RESOURCE_REFUSED and not recorded. An acknowledgement completes the command that waited for it alone; a retried request stays in State for the acknowledgements of its resends. A request without an acknowledgement is sent again until its attempts are spent, and then fails with FABRIC_TIMEOUT and a record. A final write is sent once nothing earlier is owed. Entries of read combining, of held atomics and of the deduplication window end by their timers, and a request held for a newer map is answered with REROUTE. -/
def Obligations.FabricRefusalsAndTimers : Prop :=
    (∀ (s : State) (utag : Nat) (r : FabIn), (.write utag : Instr).wellFormed = true → Serving s → mirrorsOn s.dev = false → tget? s.dev.reqs utag = some r → r.waits = false → r.members = [] → r.kind < 4 → admitReq (latch s) r = .yes → owes s.dev (.run utag) = false → r.code = 0x01 → floeOn s.dev (homeFloe (pageOfLine (r.addr / 64))) = true → (pageOf s.dev (pageOfLine (r.addr / 64))).tier = 0 →
      ∃ t, exec (.write utag) s = .next t ∧ t.dev.reqs = tdel s.dev.reqs utag ∧ t.dev.entries = s.dev.entries.filter (fun e => e.2.first ≠ utag) ∧ (r.src = selfNode s.dev → tget? t.dev.acks utag = some ⟨2, 0x14, selfNode s.dev, epochOf s.dev, 0, 0, [], decide (0x14 ≠ 0), [], false, 0, [], false, false⟩) ∧ t.dev.links = (ackTo (latch s) r.src utag (0x14) ([])).links ∧ t.dev.out = (ackTo (latch s) r.src utag (0x14) ([])).out ∧ t = { s with dev := { latch s with reqs := t.dev.reqs, entries := t.dev.entries, tel := t.dev.tel, acks := t.dev.acks, links := t.dev.links, out := t.dev.out } }) ∧
    (∀ (s : State) (utag : Nat) (r : FabIn) (st : Nat), (.add utag : Instr).wellFormed = true → Serving s → mirrorsOn s.dev = false → tget? s.dev.reqs utag = some r → r.waits = false → r.members = [] → r.kind < 4 → r.code = 0x08 → r.payload.length = 8 → tget? s.dev.dedup utag = none → s.dev.sw.refusing = false → s.dev.dedup.length < 4096 → admitReq (latch s) r = .no st → st = 0x32 →
      ∃ t, exec (.add utag) s = .next t ∧ t.dev.reqs = tdel s.dev.reqs utag ∧ t.dev.entries = s.dev.entries.filter (fun e => e.2.first ≠ utag) ∧ t.dev.dedup = tput s.dev.dedup utag ⟨st, slice ([]) 0 8, true⟩ ∧ (r.src = selfNode s.dev → tget? t.dev.acks utag = some ⟨2, st, selfNode s.dev, epochOf s.dev, 0, 0, [], decide (st ≠ 0), [], false, 0, [], false, false⟩) ∧ t.dev.links = (ackTo (latch s) r.src utag (st) ([])).links ∧ t.dev.out = (ackTo (latch s) r.src utag (st) ([])).out ∧ t = { s with dev := { latch s with reqs := t.dev.reqs, entries := t.dev.entries, tel := t.dev.tel, acks := t.dev.acks, links := t.dev.links, out := t.dev.out, dedup := t.dev.dedup } }) ∧
    (∀ (s : State) (utag : Nat) (r : FabIn) (e : Dedup), (.add utag : Instr).wellFormed = true → Serving s → mirrorsOn s.dev = false → tget? s.dev.reqs utag = some r → r.waits = false → r.members = [] → r.kind < 4 → r.code = 0x08 → r.payload.length = 8 → tget? s.dev.dedup utag = some e → e.acked = true →
      ∃ t, exec (.add utag) s = .next t ∧ t.dev.reqs = tdel s.dev.reqs utag ∧ tget t.dev.tel 0x403900 0 = (tget s.dev.tel 0x403900 0 + 1) % 2 ^ 64 ∧ (r.src = selfNode s.dev → tget? t.dev.acks utag = some ⟨2, e.status, selfNode s.dev, epochOf s.dev, 0, 0, if bitOf r.width 1 then e.old else [], decide (e.status ≠ 0), [], false, 0, [], false, false⟩) ∧ t.dev.links = (ackTo (latch s) r.src utag (e.status) (if bitOf r.width 1 then e.old else [])).links ∧ t.dev.out = (ackTo (latch s) r.src utag (e.status) (if bitOf r.width 1 then e.old else [])).out ∧ t = { s with dev := { latch s with reqs := t.dev.reqs, tel := t.dev.tel, acks := t.dev.acks, links := t.dev.links, out := t.dev.out } }) ∧
    (∀ (s : State) (utag : Nat) (r : FabIn), (.add utag : Instr).wellFormed = true → Serving s → mirrorsOn s.dev = false → tget? s.dev.reqs utag = some r → r.waits = false → r.members = [] → r.kind < 4 → r.code = 0x08 → r.payload.length = 8 → tget? s.dev.dedup utag = none → s.dev.sw.refusing = true →
      ∃ t, exec (.add utag) s = .next t ∧ t.dev.reqs = tdel s.dev.reqs utag ∧ (r.src = selfNode s.dev → tget? t.dev.acks utag = some ⟨2, 0xFF, selfNode s.dev, epochOf s.dev, 0, 0, [], true, [], false, 0, [], false, false⟩) ∧ t.dev.links = (ackTo (latch s) r.src utag (0xFF) ([])).links ∧ t.dev.out = (ackTo (latch s) r.src utag (0xFF) ([])).out ∧ t = { s with dev := { latch s with reqs := t.dev.reqs, tel := t.dev.tel, acks := t.dev.acks, links := t.dev.links, out := t.dev.out } }) ∧
    (∀ (s : State) (utag : Nat) (r : FabIn), (.swap utag : Instr).wellFormed = true → Serving s → mirrorsOn s.dev = false → tget? s.dev.reqs utag = some r → r.waits = false → r.members = [] → r.kind < 4 → r.code = 0x10 → tget? s.dev.dedup utag = none → s.dev.sw.refusing = false → 4096 ≤ s.dev.dedup.length → openOf s.dev.errq 8 0 = none →
      ∃ t, exec (.swap utag) s = .next t ∧ t.dev.reqs = tdel s.dev.reqs utag ∧ (r.src = selfNode s.dev → tget? t.dev.acks utag = some ⟨2, 0x40, selfNode s.dev, epochOf s.dev, 0, 0, [], true, [], false, 0, [], false, false⟩) ∧ t.dev.links = (ackTo (latch s) r.src utag (0x40) ([])).links ∧ t.dev.errq.next = (s.dev.errq.next + 1) % 2 ^ 32 ∧ t = { s with dev := { latch s with reqs := t.dev.reqs, acks := t.dev.acks, links := t.dev.links, errq := t.dev.errq, tel := t.dev.tel, mbx := t.dev.mbx, ports := t.dev.ports, out := t.dev.out } }) ∧
    (∀ (s : State) (utag tag : Nat) (a : FabIn) (q : FabReq) (c : Cmd), (.fabricAck utag : Instr).wellFormed = true → Serving s → mirrorsOn s.dev = false → tget? s.dev.acks utag = some a → a.error = false → s.dev.combs = [] → s.dev.fab = [(utag, q)] → q.owner = .cmd tag → cmdOf s.dev tag = some c → c.phase = 4 → okStatus c.status = true → q.owed = true → q.attempts ≤ 1 → q.code ≠ 0 → c.opcode ≠ 8 ∨ bitOf (c.f 34 1) 1 = false ∨ 2 ^ 40 ≤ c.pos → owes { s.dev with fab := [] } (.cmd tag) = false → galleyExists s.dev c.ctx c.g = true → (galleyOf s.dev c.ctx c.g).done = [] →
      ∃ t, exec (.fabricAck utag) s = .next t ∧ cmdOf t.dev tag = some { c with phase := 3, finish := s.clk.time } ∧ (galleyOf t.dev c.ctx c.g).done = [tag] ∧ t.dev.fab = [] ∧ t.dev.acks = tdel s.dev.acks utag ∧ t = { s with dev := { freeCores (latch s) tag c with fab := t.dev.fab, acks := t.dev.acks, cmds := t.dev.cmds, galleys := t.dev.galleys, reads := t.dev.reads } }) ∧
    (∀ (s : State) (utag tag : Nat) (a : FabIn) (q : FabReq) (c : Cmd), (.fabricAck utag : Instr).wellFormed = true → Serving s → mirrorsOn s.dev = false → tget? s.dev.acks utag = some a → a.error = false → s.dev.combs = [] → s.dev.fab = [(utag, q)] → q.owner = .cmd tag → cmdOf s.dev tag = some c → c.phase = 4 → okStatus c.status = true → q.owed = true → 2 ≤ q.attempts → q.code ≠ 0 → c.opcode ≠ 8 ∨ bitOf (c.f 34 1) 1 = false ∨ 2 ^ 40 ≤ c.pos → owes { s.dev with fab := [] } (.cmd tag) = false → galleyExists s.dev c.ctx c.g = true → (galleyOf s.dev c.ctx c.g).done = [] →
      ∃ t, exec (.fabricAck utag) s = .next t ∧ cmdOf t.dev tag = some { c with phase := 3, finish := s.clk.time } ∧ (galleyOf t.dev c.ctx c.g).done = [tag] ∧ t.dev.fab = [(utag, { q with acks := 1, bad := 0 })] ∧ t.dev.acks = tdel s.dev.acks utag ∧ t = { s with dev := { freeCores (latch s) tag c with fab := t.dev.fab, acks := t.dev.acks, cmds := t.dev.cmds, galleys := t.dev.galleys, reads := t.dev.reads } }) ∧
    (∀ (s : State) (utag tag : Nat) (a : FabIn) (q : FabReq) (c : Cmd), (.fabricAck utag : Instr).wellFormed = true → Serving s → mirrorsOn s.dev = false → tget? s.dev.acks utag = some a → a.error = true → a.code = 0x20 → s.dev.combs = [] → s.dev.fab = [(utag, q)] → q.owner = .cmd tag → cmdOf s.dev tag = some c → c.phase = 4 → c.status = 0 → q.code = 1 → q.owed = true → q.attempts ≤ 1 → c.opcode ≠ 8 ∨ bitOf (c.f 34 1) 1 = false ∨ 2 ^ 40 ≤ c.pos → c.coding = false → owes { s.dev with fab := [] } (.cmd tag) = false → galleyExists s.dev c.ctx c.g = true → (galleyOf s.dev c.ctx c.g).done = [] →
      ∃ t, exec (.fabricAck utag) s = .next t ∧ (cmdOf t.dev tag).map (fun x => (x.phase, x.status, x.finish)) = some (3, 0x20, s.clk.time) ∧ t.dev.fab = [] ∧ t.dev.acks = tdel s.dev.acks utag ∧ t = { s with dev := { freeCores (latch s) tag c with fab := t.dev.fab, acks := t.dev.acks, cmds := t.dev.cmds, galleys := t.dev.galleys, reads := t.dev.reads } }) ∧
    (∀ (s : State) (utag : Nat) (q : FabReq), (.fabricTimeout utag : Instr).wellFormed = true → Serving s → mirrorsOn s.dev = false → tget? s.dev.fab utag = some q → q.held = false → q.attempts ≤ q.retry → s.clk.time ≤ q.first + 4000000 → q.owed = true → q.owner ≠ .mirror →
      ∃ t, exec (.fabricTimeout utag) s = .next t ∧ tget? t.dev.fab utag = some { q with attempts := q.attempts + 1 } ∧ tget t.dev.tel 0x402028 0 = (tget s.dev.tel 0x402028 0 + 1) % 2 ^ 64 ∧ t = { s with dev := { latch s with fab := t.dev.fab, tel := t.dev.tel, acks := t.dev.acks, links := t.dev.links, out := t.dev.out } }) ∧
    (∀ (s : State) (utag tag : Nat) (q : FabReq) (c : Cmd), (.fabricTimeout utag : Instr).wellFormed = true → Serving s → mirrorsOn s.dev = false → s.dev.fab = [(utag, q)] → q.held = false → q.retry < q.attempts ∨ q.first + 4000000 < s.clk.time → q.owed = true → q.code = 1 → c.opcode ≠ 8 ∨ bitOf (c.f 34 1) 1 = false ∨ 2 ^ 40 ≤ c.pos → c.coding = false → openOf s.dev.errq 1 (utag / 1024 % 4) = none → q.owner = .cmd tag → cmdOf s.dev tag = some c → c.phase = 4 → c.status = 0 → owes { s.dev with fab := [] } (.cmd tag) = false → galleyExists s.dev c.ctx c.g = true → (galleyOf s.dev c.ctx c.g).done = [] →
      ∃ t, exec (.fabricTimeout utag) s = .next t ∧ (cmdOf t.dev tag).map (fun x => (x.phase, x.status, x.finish)) = some (3, 0x37, s.clk.time) ∧ t.dev.fab = [] ∧ t.dev.errq.next = (s.dev.errq.next + 1) % 2 ^ 32 ∧ t = { s with dev := { freeCores (latch s) tag c with fab := t.dev.fab, cmds := t.dev.cmds, galleys := t.dev.galleys, reads := t.dev.reads, errq := t.dev.errq, tel := t.dev.tel, mbx := t.dev.mbx, ports := t.dev.ports, out := t.dev.out } }) ∧
    (∀ (s : State) (utag : Nat) (q : FabReq), (.finalWriteRelease utag : Instr).wellFormed = true → Serving s → mirrorsOn s.dev = false → tget? s.dev.fab utag = some q → q.held = true → q.final = true → q.after = [] → q.bad = 0 → q.prog = 0 → retried s.dev q.reads = false → q.dst ≠ selfNode s.dev → fabFull s.dev = false →
      ∃ t, exec (.finalWriteRelease utag) s = .next t ∧ tget? t.dev.fab utag = some { q with held := false, first := s.clk.time } ∧ t = { s with dev := { latch s with fab := t.dev.fab, acks := t.dev.acks, links := t.dev.links, out := t.dev.out, tel := t.dev.tel } }) ∧
    (∀ (s : State) (utag k : Nat) (q : FabReq), (.finalWriteRelease utag : Instr).wellFormed = true → Serving s → tget? s.dev.fab utag = some q → q.held = true → q.final = true → q.after = [k] →
      exec (.finalWriteRelease utag) s = .next { s with dev := latch s }) ∧
    (∀ (s : State) (utag : Nat) (q : FabReq), (.finalWriteRelease utag : Instr).wellFormed = true → Serving s → tget? s.dev.fab utag = some q → q.held = true → q.final = true ∨ q.dst = selfNode s.dev → q.after = [] → q.prog = 0 → retried s.dev q.reads = false → q.final = true → q.bad ≠ 0 → (endReq (latch s) utag q q.bad []).boot = s.dev.boot → (endReq (latch s) utag q q.bad []).errq.due = [] → (endReq (latch s) utag q q.bad []).tagWait = [] → (endReq (latch s) utag q q.bad []).tagHeld = [] → (endReq (latch s) utag q q.bad []).sw.seen = [] →
      exec (.finalWriteRelease utag) s = .next { s with dev := endReq (latch s) utag q q.bad [] }) ∧
    (∀ (s : State) (utag : Nat) (q : FabReq), (.finalWriteRelease utag : Instr).wellFormed = true → Serving s → tget? s.dev.fab utag = some q → q.held = true → q.final = true ∨ q.dst = selfNode s.dev → q.after = [] → q.prog = 0 → retried s.dev q.reads = false → q.final = true → q.bad = 0 → q.dst = selfNode s.dev → (pageOf s.dev (pageOfLine q.line)).tier ≠ 3 → (performFinal (latch s) utag q).boot = s.dev.boot → (performFinal (latch s) utag q).errq.due = [] → (performFinal (latch s) utag q).tagWait = [] → (performFinal (latch s) utag q).tagHeld = [] → (performFinal (latch s) utag q).sw.seen = [] →
      exec (.finalWriteRelease utag) s = .next { s with dev := performFinal (latch s) utag q }) ∧
    (∀ (s : State) (utag : Nat) (q : FabReq), (.finalWriteRelease utag : Instr).wellFormed = true → Serving s → tget? s.dev.fab utag = some q → q.held = true → q.final = true ∨ q.dst = selfNode s.dev → q.after = [] → q.prog = 0 → retried s.dev q.reads = false → q.final = true → q.bad = 0 → q.dst = selfNode s.dev → (pageOf s.dev (pageOfLine q.line)).tier = 3 → fabFull s.dev = false → (reissue (latch s) utag { q with held := false }).boot = s.dev.boot → (reissue (latch s) utag { q with held := false }).errq.due = [] → (reissue (latch s) utag { q with held := false }).tagWait = [] → (reissue (latch s) utag { q with held := false }).tagHeld = [] → (reissue (latch s) utag { q with held := false }).sw.seen = [] →
      exec (.finalWriteRelease utag) s = .next { s with dev := reissue (latch s) utag { q with held := false } }) ∧
    (∀ (s : State) (ga : Nat), (.readCombineExpire ga : Instr).wellFormed = true → Serving s →
      exec (.readCombineExpire ga) s = .next { s with dev := { latch s with entries := tdel s.dev.entries (ga / 64), fwdReads := tdel s.dev.fwdReads (ga / 64) } }) ∧
    (∀ (s : State) (ga k : Nat) (g : AtomGroup) (m : Nat × Nat), (.atomicHoldExpire ga : Instr).wellFormed = true → Serving s → s.dev.groups = [(k, g)] → k / 1024 = ga → g.members.head? = some m →
      exec (.atomicHoldExpire ga) s = .next { s with dev := { latch s with groups := [], reqs := tput s.dev.reqs m.1 ⟨0, g.code, m.2, g.epoch, g.width, ga, g.operand ++ g.tags.flatMap (leBytes 8), false, g.members, false, 0, [], false, false⟩ } }) ∧
    (∀ (s : State) (utag : Nat) (e : Dedup), (.dedupEntryExpire utag : Instr).wellFormed = true → Serving s → tget? s.dev.dedup utag = some e →
      exec (.dedupEntryExpire utag) s = .next { s with dev := { latch s with dedup := if e.acked then tdel s.dev.dedup utag else s.dev.dedup } }) ∧
    (∀ (s : State), (.dedupRefusalEnd : Instr).wellFormed = true → Serving s →
      exec (.dedupRefusalEnd) s = .next { s with dev := { latch s with sw := { s.dev.sw with refusing := false } } }) ∧
    (∀ (s : State) (utag : Nat) (r : FabIn), (.epochPullTimeout utag : Instr).wellFormed = true → Serving s → mirrorsOn s.dev = false → s.dev.mbr.pulls.contains utag = true → tget? s.dev.reqs utag = some r → r.members = [] → r.kind < 4 → r.code < 8 →
      ∃ t, exec (.epochPullTimeout utag) s = .next t ∧ t.dev.mbr = { s.dev.mbr with pulls := s.dev.mbr.pulls.filter (· ≠ utag) } ∧ t.dev.reqs = tdel s.dev.reqs utag ∧ t.dev.entries = s.dev.entries.filter (fun e => e.2.first ≠ utag) ∧ (r.src = selfNode s.dev → tget? t.dev.acks utag = some ⟨2, 0x32, selfNode s.dev, epochOf s.dev, 0, 0, [], decide (0x32 ≠ 0), [], false, 0, [], false, false⟩) ∧ t.dev.links = (ackTo (latch s) r.src utag (0x32) ([])).links ∧ t.dev.out = (ackTo (latch s) r.src utag (0x32) ([])).out ∧ t = { s with dev := { latch s with reqs := t.dev.reqs, entries := t.dev.entries, tel := t.dev.tel, acks := t.dev.acks, links := t.dev.links, out := t.dev.out, mbr := t.dev.mbr } })

/-- FILL of a line that the slice holds makes every 8-byte word of it PATTERN, with a count of 1 and the digest of the bytes written; COPY of such a line writes the source's bytes at the destination; COMPARE of a line against a pattern counts it where it differs and says so in DETAIL bit 0. The pieces of a COMPARE that other nodes have compared end it once they are all acknowledged. REDUCE by SUM of one source stores each element's exact sum, rounded once; any REDUCE whose reads and writes all succeed completes with the count and digest its work gives. ENCODE and DECODE read their source and deal its blocks to the codec units; a unit that a command has been granted ends its block, a later block first writes nothing yet, one in its turn is written and counted, and the last block of a DECODE that only verifies completes it with DIGEST 0. Nothing else changes. -/
def Obligations.PoolAndCodecCommands : Prop :=
    (∀ (s : State) (tag k u : Nat) (c : Cmd) (far : Far) (r : Range) (l : CLine), (.fill tag far : Instr).wellFormed = true → Serving s → cmdOf s.dev tag = some c → c.opcode = 0x20 → c.phase = 1 → floeOn s.dev c.floe = true → owes s.dev (.cmd tag) = false → galleyExists s.dev c.ctx c.g = true → (galleyOf s.dev c.ctx c.g).done = [] → okStatus c.status = true → c.f 40 4 = 1 → bitOf (c.f 44 1) 0 = false → findRange s.dev c.ctx c.gen (c.f 32 8) = some (k, r) → r.w = true → u = r.uni + (c.f 32 8 - r.start) → (pageOf s.dev (u / 65536)).tier = 1 ∨ (pageOf s.dev (u / 65536)).tier = 2 → (pageOf s.dev (u / 65536)).packed = false → floeOn s.dev (homeFloe (u / 65536)) = true → tget? s.dev.dir (u / 64) = none → tget? s.dev.cache (u / 64) = some l → SoundLine s.dev (u / 64) → (pageOf s.dev (u / 65536)).durable = false → (pageOf s.dev (u / 65536)).twin = false → l.data.length = 64 → (pageOf s.dev (u / 65536)).noPack = false → mustHold s.dev (.cmd tag) (u / 64) false = false →
      ∃ t, exec (.fill tag far) s = .next t ∧ cmdOf t.dev tag = some { c with phase := 3, finish := s.clk.time, count := 1, digest := crc64 (List.replicate 8 (slice c.entry 48 8)).flatten, writes := c.writes + 1 } ∧ (galleyOf t.dev c.ctx c.g).done = [tag] ∧ t.dev.cache = tput s.dev.cache (u / 64) ⟨(List.replicate 8 (slice c.entry 48 8)).flatten, true⟩ ∧ t.dev.recent = (useLine s.dev (u / 64)).recent ∧ t.dev.sliceFlips = tdel s.dev.sliceFlips (u / 64) ∧ t = { s with dev := { letGo (latch s) tag c with cmds := t.dev.cmds, galleys := t.dev.galleys, cache := t.dev.cache, tel := t.dev.tel, recent := t.dev.recent, sliceFlips := t.dev.sliceFlips } }) ∧
    (∀ (s : State) (tag k k2 u v : Nat) (c : Cmd) (far : Far) (r r2 : Range) (l l2 : CLine), (.copy tag far : Instr).wellFormed = true → Serving s → cmdOf s.dev tag = some c → c.opcode = 0x21 → c.phase = 1 → floeOn s.dev c.floe = true → owes s.dev (.cmd tag) = false → galleyExists s.dev c.ctx c.g = true → (galleyOf s.dev c.ctx c.g).done = [] → c.isLate 0 = false → c.f 48 4 = 1 → bitOf (c.f 52 1) 0 = false → findRange s.dev c.ctx c.gen (c.f 32 8) = some (k, r) → r.r = true → u = r.uni + (c.f 32 8 - r.start) → findRange s.dev c.ctx c.gen (c.f 40 8) = some (k2, r2) → r2.w = true → v = r2.uni + (c.f 40 8 - r2.start) → (pageOf s.dev (u / 65536)).tier = 1 ∨ (pageOf s.dev (u / 65536)).tier = 2 → (pageOf s.dev (u / 65536)).packed = false → floeOn s.dev (homeFloe (u / 65536)) = true → tget? s.dev.dir (u / 64) = none → tget? s.dev.cache (u / 64) = some l → SoundLine s.dev (u / 64) → (pageOf s.dev (v / 65536)).tier = 1 ∨ (pageOf s.dev (v / 65536)).tier = 2 → (pageOf s.dev (v / 65536)).packed = false → floeOn s.dev (homeFloe (v / 65536)) = true → tget? s.dev.dir (v / 64) = none → tget? s.dev.cache (v / 64) = some l2 → SoundLine s.dev (v / 64) → (pageOf s.dev (v / 65536)).durable = false → (pageOf s.dev (v / 65536)).twin = false → l2.data.length = 64 → (pageOf s.dev (v / 65536)).noPack = false → mustHold s.dev (.cmd tag) (v / 64) false = false → l.data.length = 64 →
      ∃ t, exec (.copy tag far) s = .next t ∧ cmdOf t.dev tag = some { c with phase := 3, finish := s.clk.time, count := 1, digest := crc64 l.data, blocks := (Gather.start.line (c.f 40 8) l.data l.data).close.blocks, fallbacks := 0, firstFallback := 0xFFFFFFFF, status := 0, writes := c.writes + 1 } ∧ (galleyOf t.dev c.ctx c.g).done = [tag] ∧ t.dev.cache = tput s.dev.cache (v / 64) ⟨l.data, true⟩ ∧ t.dev.recent = (useLine (useLine s.dev (u / 64)) (v / 64)).recent ∧ t.dev.sliceFlips = tdel s.dev.sliceFlips (v / 64) ∧ t = { s with dev := { letGo (latch s) tag c with cmds := t.dev.cmds, galleys := t.dev.galleys, cache := t.dev.cache, tel := t.dev.tel, recent := t.dev.recent, sliceFlips := t.dev.sliceFlips } }) ∧
    (∀ (s : State) (tag k u : Nat) (c : Cmd) (far : Far) (r : Range) (l : CLine), (.compare tag far : Instr).wellFormed = true → Serving s → cmdOf s.dev tag = some c → c.opcode = 0x22 → c.phase = 1 → floeOn s.dev c.floe = true → owes s.dev (.cmd tag) = false → galleyExists s.dev c.ctx c.g = true → (galleyOf s.dev c.ctx c.g).done = [] → c.isLate 0 = false → c.pattern = true → c.pos = 0 → c.f 48 4 = 1 → c.f 56 8 = 0 → findRange s.dev c.ctx c.gen (c.f 32 8) = some (k, r) → r.r = true → u = r.uni + (c.f 32 8 - r.start) → (pageOf s.dev (u / 65536)).tier = 1 ∨ (pageOf s.dev (u / 65536)).tier = 2 → (pageOf s.dev (u / 65536)).packed = false → floeOn s.dev (homeFloe (u / 65536)) = true → tget? s.dev.dir (u / 64) = none → tget? s.dev.cache (u / 64) = some l → SoundLine s.dev (u / 64) → l.data.length = 64 → l.data = (List.replicate 8 (slice c.entry 40 8)).flatten →
      ∃ t, exec (.compare tag far) s = .next t ∧ cmdOf t.dev tag = some { c with phase := 3, finish := s.clk.time, count := 0, detail := 0, digest := crc64 l.data, pos := 1, writes := 0, blocks := (Gather.start.line (c.f 32 8) l.data (List.replicate 8 (slice c.entry 40 8)).flatten).close.blocks, fallbacks := 0, firstFallback := 0xFFFFFFFF, status := 0 } ∧ (galleyOf t.dev c.ctx c.g).done = [tag] ∧ t.dev.recent = (useLine s.dev (u / 64)).recent ∧ t = { s with dev := { letGo (latch s) tag c with cmds := t.dev.cmds, galleys := t.dev.galleys, tel := t.dev.tel, recent := t.dev.recent } }) ∧
    (∀ (s : State) (tag k u : Nat) (c : Cmd) (far : Far) (r : Range) (l : CLine), (.compare tag far : Instr).wellFormed = true → Serving s → cmdOf s.dev tag = some c → c.opcode = 0x22 → c.phase = 1 → floeOn s.dev c.floe = true → owes s.dev (.cmd tag) = false → galleyExists s.dev c.ctx c.g = true → (galleyOf s.dev c.ctx c.g).done = [] → c.isLate 0 = false → c.pattern = true → c.pos = 0 → c.f 48 4 = 1 → c.f 56 8 = 0 → findRange s.dev c.ctx c.gen (c.f 32 8) = some (k, r) → r.r = true → u = r.uni + (c.f 32 8 - r.start) → (pageOf s.dev (u / 65536)).tier = 1 ∨ (pageOf s.dev (u / 65536)).tier = 2 → (pageOf s.dev (u / 65536)).packed = false → floeOn s.dev (homeFloe (u / 65536)) = true → tget? s.dev.dir (u / 64) = none → tget? s.dev.cache (u / 64) = some l → SoundLine s.dev (u / 64) → l.data.length = 64 → l.data ≠ (List.replicate 8 (slice c.entry 40 8)).flatten →
      ∃ t, exec (.compare tag far) s = .next t ∧ cmdOf t.dev tag = some { c with phase := 3, finish := s.clk.time, count := 1, detail := 1, digest := crc64 l.data, pos := 1, writes := 0, blocks := (Gather.start.line (c.f 32 8) l.data (List.replicate 8 (slice c.entry 40 8)).flatten).close.blocks, fallbacks := 0, firstFallback := 0xFFFFFFFF, status := 0 } ∧ (galleyOf t.dev c.ctx c.g).done = [tag] ∧ t.dev.recent = (useLine s.dev (u / 64)).recent ∧ t = { s with dev := { letGo (latch s) tag c with cmds := t.dev.cmds, galleys := t.dev.galleys, tel := t.dev.tel, recent := t.dev.recent } }) ∧
    (∀ (s : State) (tag : Nat) (c : Cmd) (far : Far) (w : W), (.fill tag far : Instr).wellFormed = true → Serving s → cmdOf s.dev tag = some c → c.opcode = 0x20 → c.phase = 1 → floeOn s.dev c.floe = true → (fillBody c (W.start (latch s) far c.ctx c.gen (c.who tag 4))).1 = w → w.ok = true → okStatus ((fillBody c (W.start (latch s) far c.ctx c.gen (c.who tag 4))).2 { c with phase := 4 }).status = true → cmdOf w.d tag = some c → owes w.d (.cmd tag) = false → galleyExists w.d c.ctx c.g = true → (galleyOf w.d c.ctx c.g).done = [] → w.d.boot = s.dev.boot → w.d.errq.due = [] → w.d.tagWait = [] → w.d.tagHeld = [] → w.d.sw.seen = [] →
      ∃ t, exec (.fill tag far) s = .next t ∧ cmdOf t.dev tag = some { ((fillBody c (W.start (latch s) far c.ctx c.gen (c.who tag 4))).2 { c with phase := 4 }) with phase := 3, finish := w.d.now, writes := ((fillBody c (W.start (latch s) far c.ctx c.gen (c.who tag 4))).2 { c with phase := 4 }).writes + w.wrote } ∧ (galleyOf t.dev c.ctx c.g).done = [tag] ∧ t = { s with dev := { letGo w.d tag ((fillBody c (W.start (latch s) far c.ctx c.gen (c.who tag 4))).2 { c with phase := 4 }) with cmds := t.dev.cmds, galleys := t.dev.galleys } }) ∧
    (∀ (s : State) (tag : Nat) (c : Cmd) (far : Far) (w : W), (.copy tag far : Instr).wellFormed = true → Serving s → cmdOf s.dev tag = some c → c.opcode = 0x21 → c.phase = 1 → floeOn s.dev c.floe = true → (copyBody c (W.start (latch s) far c.ctx c.gen (c.who tag 4))).1 = w → w.ok = true → okStatus ((copyBody c (W.start (latch s) far c.ctx c.gen (c.who tag 4))).2 { c with phase := 4 }).copied.status = true → cmdOf w.d tag = some c → owes w.d (.cmd tag) = false → galleyExists w.d c.ctx c.g = true → (galleyOf w.d c.ctx c.g).done = [] → w.d.boot = s.dev.boot → w.d.errq.due = [] → w.d.tagWait = [] → w.d.tagHeld = [] → w.d.sw.seen = [] →
      ∃ t, exec (.copy tag far) s = .next t ∧ cmdOf t.dev tag = some { ((copyBody c (W.start (latch s) far c.ctx c.gen (c.who tag 4))).2 { c with phase := 4 }).copied with phase := 3, finish := w.d.now, writes := ((copyBody c (W.start (latch s) far c.ctx c.gen (c.who tag 4))).2 { c with phase := 4 }).copied.writes + w.wrote } ∧ (galleyOf t.dev c.ctx c.g).done = [tag] ∧ t = { s with dev := { letGo w.d tag ((copyBody c (W.start (latch s) far c.ctx c.gen (c.who tag 4))).2 { c with phase := 4 }).copied with cmds := t.dev.cmds, galleys := t.dev.galleys } }) ∧
    (∀ (s : State) (tag : Nat) (c : Cmd) (far : Far) (w : W) (g : Gather), (.compare tag far : Instr).wellFormed = true → Serving s → cmdOf s.dev tag = some c → c.opcode = 0x22 → c.phase = 1 ∨ c.phase = 2 → c.pos ≠ 1 → floeOn s.dev c.floe = true → (flushRun (compareRun c) ((List.range (c.f 48 4)).foldl (compareLine c) (W.start (latch s) far c.ctx c.gen (c.who tag 4), Gather.start))) = (w, g) → w.ok = true → cmdOf w.d tag = some c → owes { w.d with cmds := tput w.d.cmds tag { c with phase := 2, pos := 1, count := g.count, blocks := g.close.blocks } } (.cmd tag) = true → ({ w.d with cmds := tput w.d.cmds tag { c with phase := 2, pos := 1, count := g.count, blocks := g.close.blocks } }).boot = s.dev.boot → ({ w.d with cmds := tput w.d.cmds tag { c with phase := 2, pos := 1, count := g.count, blocks := g.close.blocks } }).errq.due = [] → ({ w.d with cmds := tput w.d.cmds tag { c with phase := 2, pos := 1, count := g.count, blocks := g.close.blocks } }).tagWait = [] → ({ w.d with cmds := tput w.d.cmds tag { c with phase := 2, pos := 1, count := g.count, blocks := g.close.blocks } }).tagHeld = [] → ({ w.d with cmds := tput w.d.cmds tag { c with phase := 2, pos := 1, count := g.count, blocks := g.close.blocks } }).sw.seen = [] →
      exec (.compare tag far) s = .next { s with dev := { w.d with cmds := tput w.d.cmds tag { c with phase := 2, pos := 1, count := g.count, blocks := g.close.blocks } } }) ∧
    (∀ (s : State) (tag : Nat) (c : Cmd) (far : Far) (w : W) (g : Gather), (.compare tag far : Instr).wellFormed = true → Serving s → cmdOf s.dev tag = some c → c.opcode = 0x22 → c.phase = 1 ∨ c.phase = 2 → c.pos ≠ 1 → floeOn s.dev c.floe = true → (flushRun (compareRun c) ((List.range (c.f 48 4)).foldl (compareLine c) (W.start (latch s) far c.ctx c.gen (c.who tag 4), Gather.start))) = (w, g) → w.ok = true → cmdOf w.d tag = some c → owes { w.d with cmds := tput w.d.cmds tag { c with phase := 2, pos := 1, count := g.count, blocks := g.close.blocks } } (.cmd tag) = false → ((compareEnd { w.d with cmds := tput w.d.cmds tag { c with phase := 2, pos := 1, count := g.count, blocks := g.close.blocks } } far tag)).boot = s.dev.boot → ((compareEnd { w.d with cmds := tput w.d.cmds tag { c with phase := 2, pos := 1, count := g.count, blocks := g.close.blocks } } far tag)).errq.due = [] → ((compareEnd { w.d with cmds := tput w.d.cmds tag { c with phase := 2, pos := 1, count := g.count, blocks := g.close.blocks } } far tag)).tagWait = [] → ((compareEnd { w.d with cmds := tput w.d.cmds tag { c with phase := 2, pos := 1, count := g.count, blocks := g.close.blocks } } far tag)).tagHeld = [] → ((compareEnd { w.d with cmds := tput w.d.cmds tag { c with phase := 2, pos := 1, count := g.count, blocks := g.close.blocks } } far tag)).sw.seen = [] →
      exec (.compare tag far) s = .next { s with dev := compareEnd { w.d with cmds := tput w.d.cmds tag { c with phase := 2, pos := 1, count := g.count, blocks := g.close.blocks } } far tag }) ∧
    (∀ (s : State) (tag : Nat) (c : Cmd) (far : Far), (.compare tag far : Instr).wellFormed = true → Serving s → cmdOf s.dev tag = some c → c.opcode = 0x22 → c.phase = 2 → c.pos = 1 → floeOn s.dev c.floe = true → owes s.dev (.cmd tag) = false → galleyExists s.dev c.ctx c.g = true → (galleyOf s.dev c.ctx c.g).done = [] → okStatus c.status = true → c.f 56 8 = 0 → okStatus (compareProof c).status = true →
      ∃ t, exec (.compare tag far) s = .next t ∧ cmdOf t.dev tag = some { compareProof c with phase := 3, finish := s.clk.time, count := (comparedAll c).diff, digest := (comparedAll c).digest, detail := if 0 < (comparedAll c).diff then 1 else 0, writes := 0 } ∧ (galleyOf t.dev c.ctx c.g).done = [tag] ∧ t = { s with dev := { letGo (latch s) tag c with cmds := t.dev.cmds, galleys := t.dev.galleys, tel := t.dev.tel } }) ∧
    (∀ (s : State) (tag : Nat) (c : Cmd) (far : Far) (w x y : W) (l b : Bytes) (o : List (Nat × Nat)), (.reduce tag far : Instr).wellFormed = true → Serving s → cmdOf s.dev tag = some c → c.opcode = 0x23 → c.phase = 1 → floeOn s.dev c.floe = true → c.isLate 0 = false → c.f 52 2 = 1 → c.f 56 1 % 4 = 0 → c.f 54 1 ≠ 11 → c.f 55 1 ≠ 11 → (W.start (latch s) far c.ctx c.gen (c.who tag 4)).read (c.f 32 8) 8 = (w, l) → w.ok = true → fieldAt l 0 8 < 2 ^ 48 → fieldAt l 0 8 % elemAlign (c.f 54 1) = 0 → w.read (fieldAt l 0 8) (c.f 48 4 * fmtW (c.f 54 1) / 8) = (x, b) → x.ok = true → o = (List.range (c.f 48 4)).map (fun e => slugTo (c.f 55 1) (bitOf (c.f 56 1) 3) (slugAdd Slug.zero (termOf (decodeNum (c.f 54 1) (elemAt (c.f 54 1) b e))).1)) → x.write (c.f 40 8) (packElems (c.f 55 1) (o.map (·.1))) = y → y.ok = true → cmdOf y.d tag = some c → owes y.d (.cmd tag) = false → galleyExists y.d c.ctx c.g = true → (galleyOf y.d c.ctx c.g).done = [] → y.d.boot = s.dev.boot → y.d.errq.due = [] → y.d.tagWait = [] → y.d.tagHeld = [] → y.d.sw.seen = [] →
      ∃ t, exec (.reduce tag far) s = .next t ∧ (cmdOf t.dev tag).map (fun k => (k.phase, k.status, k.count, k.digest, k.finish)) = some (3, 0, c.f 48 4, crc64 (packElems (c.f 55 1) (o.map (·.1))), y.d.now) ∧ t = { s with dev := { letGo y.d tag c with cmds := t.dev.cmds, galleys := t.dev.galleys, tel := t.dev.tel, free := t.dev.free } }) ∧
    (∀ (s : State) (tag : Nat) (c : Cmd) (far : Far) (w : W), (.reduce tag far : Instr).wellFormed = true → Serving s → cmdOf s.dev tag = some c → c.opcode = 0x23 → c.phase = 1 → floeOn s.dev c.floe = true → (reduceBody c (W.start (latch s) far c.ctx c.gen (c.who tag 4))).1 = w → w.ok = true → okStatus ((reduceBody c (W.start (latch s) far c.ctx c.gen (c.who tag 4))).2 { c with phase := 4 }).status = true → cmdOf w.d tag = some c → owes w.d (.cmd tag) = false → galleyExists w.d c.ctx c.g = true → (galleyOf w.d c.ctx c.g).done = [] → w.d.boot = s.dev.boot → w.d.errq.due = [] → w.d.tagWait = [] → w.d.tagHeld = [] → w.d.sw.seen = [] →
      ∃ t, exec (.reduce tag far) s = .next t ∧ cmdOf t.dev tag = some { ((reduceBody c (W.start (latch s) far c.ctx c.gen (c.who tag 4))).2 { c with phase := 4 }) with phase := 3, finish := w.d.now, writes := ((reduceBody c (W.start (latch s) far c.ctx c.gen (c.who tag 4))).2 { c with phase := 4 }).writes + w.wrote } ∧ (galleyOf t.dev c.ctx c.g).done = [tag] ∧ t = { s with dev := { letGo w.d tag ((reduceBody c (W.start (latch s) far c.ctx c.gen (c.who tag 4))).2 { c with phase := 4 }) with cmds := t.dev.cmds, galleys := t.dev.galleys } }) ∧
    (∀ (s : State) (tag : Nat) (c : Cmd) (far : Far) (e : Nat × Nat), (.encode tag far : Instr).wellFormed = true → Serving s → cmdOf s.dev tag = some c → c.phase = 1 → c.opcode = 0x18 → floeOn s.dev c.floe = true → (codecBlocks c (W.start (latch s) far c.ctx c.gen (c.who tag 5))).1.blocked = none → cmdOf (codecBlocks c (W.start (latch s) far c.ctx c.gen (c.who tag 5))).1.d tag = some c → c.pos = 0 → e = (codecBlocks c (W.start (latch s) far c.ctx c.gen (c.who tag 5))).1.err.getD ((codecBlocks c (W.start (latch s) far c.ctx c.gen (c.who tag 5))).2.fail.getD (0, if (codecBlocks c (W.start (latch s) far c.ctx c.gen (c.who tag 5))).2.raw then 1 else 0)) → (codecBlocks c (W.start (latch s) far c.ctx c.gen (c.who tag 5))).1.d.boot = s.dev.boot → (codecBlocks c (W.start (latch s) far c.ctx c.gen (c.who tag 5))).2.blocks ≠ [] → (codecBlocks c (W.start (latch s) far c.ctx c.gen (c.who tag 5))).1.d.errq.due = [] → (codecBlocks c (W.start (latch s) far c.ctx c.gen (c.who tag 5))).1.d.tagWait = [] → (codecBlocks c (W.start (latch s) far c.ctx c.gen (c.who tag 5))).1.d.tagHeld = [] → (codecBlocks c (W.start (latch s) far c.ctx c.gen (c.who tag 5))).1.d.sw.seen = [] →
      ∃ t, exec (.encode tag far) s = .next t ∧ cmdOf t.dev tag = some { c with phase := 2, blocks := List.zip (List.range (codecBlocks c (W.start (latch s) far c.ctx c.gen (c.who tag 5))).2.blocks.length) (codecBlocks c (W.start (latch s) far c.ctx c.gen (c.who tag 5))).2.blocks, units := (codecBlocks c (W.start (latch s) far c.ctx c.gen (c.who tag 5))).2.units, covers := [c.f 40 8 + (codecBlocks c (W.start (latch s) far c.ctx c.gen (c.who tag 5))).2.failOff, e.1, e.2] } ∧ t = { s with dev := { (codecBlocks c (W.start (latch s) far c.ctx c.gen (c.who tag 5))).1.d with cmds := t.dev.cmds } }) ∧
    (∀ (s : State) (tag : Nat) (c : Cmd) (far : Far) (e : Nat × Nat), (.decode tag far : Instr).wellFormed = true → Serving s → cmdOf s.dev tag = some c → c.phase = 1 → c.opcode = 0x19 → floeOn s.dev c.floe = true → (codecBlocks c (W.start (latch s) far c.ctx c.gen (c.who tag 5))).1.blocked = none → cmdOf (codecBlocks c (W.start (latch s) far c.ctx c.gen (c.who tag 5))).1.d tag = some c → c.pos = 0 → e = (codecBlocks c (W.start (latch s) far c.ctx c.gen (c.who tag 5))).1.err.getD ((codecBlocks c (W.start (latch s) far c.ctx c.gen (c.who tag 5))).2.fail.getD (0, 0)) → (codecBlocks c (W.start (latch s) far c.ctx c.gen (c.who tag 5))).1.d.boot = s.dev.boot → (codecBlocks c (W.start (latch s) far c.ctx c.gen (c.who tag 5))).2.blocks ≠ [] → (codecBlocks c (W.start (latch s) far c.ctx c.gen (c.who tag 5))).1.d.errq.due = [] → (codecBlocks c (W.start (latch s) far c.ctx c.gen (c.who tag 5))).1.d.tagWait = [] → (codecBlocks c (W.start (latch s) far c.ctx c.gen (c.who tag 5))).1.d.tagHeld = [] → (codecBlocks c (W.start (latch s) far c.ctx c.gen (c.who tag 5))).1.d.sw.seen = [] →
      ∃ t, exec (.decode tag far) s = .next t ∧ cmdOf t.dev tag = some { c with phase := 2, blocks := List.zip (List.range (codecBlocks c (W.start (latch s) far c.ctx c.gen (c.who tag 5))).2.blocks.length) (codecBlocks c (W.start (latch s) far c.ctx c.gen (c.who tag 5))).2.blocks, units := (codecBlocks c (W.start (latch s) far c.ctx c.gen (c.who tag 5))).2.units, covers := [c.f 40 8 + (codecBlocks c (W.start (latch s) far c.ctx c.gen (c.who tag 5))).2.failOff, e.1, e.2] } ∧ t = { s with dev := { (codecBlocks c (W.start (latch s) far c.ctx c.gen (c.who tag 5))).1.d with cmds := t.dev.cmds } }) ∧
    (∀ (s : State) (tag : Nat) (c : Cmd) (far : Far) (e : Nat × Nat), (.encode tag far : Instr).wellFormed = true → Serving s → cmdOf s.dev tag = some c → c.phase = 1 → c.opcode = 0x18 → floeOn s.dev c.floe = true → (codecBlocks c (W.start (latch s) far c.ctx c.gen (c.who tag 5))).1.blocked = none → cmdOf (codecBlocks c (W.start (latch s) far c.ctx c.gen (c.who tag 5))).1.d tag = some c → c.pos = 0 → e = (codecBlocks c (W.start (latch s) far c.ctx c.gen (c.who tag 5))).1.err.getD ((codecBlocks c (W.start (latch s) far c.ctx c.gen (c.who tag 5))).2.fail.getD (0, if (codecBlocks c (W.start (latch s) far c.ctx c.gen (c.who tag 5))).2.raw then 1 else 0)) → (codecBlocks c (W.start (latch s) far c.ctx c.gen (c.who tag 5))).1.d.boot = s.dev.boot → (codecBlocks c (W.start (latch s) far c.ctx c.gen (c.who tag 5))).2.blocks = [] → (endCodec { (codecBlocks c (W.start (latch s) far c.ctx c.gen (c.who tag 5))).1.d with cmds := tput (codecBlocks c (W.start (latch s) far c.ctx c.gen (c.who tag 5))).1.d.cmds tag { c with phase := 2, blocks := List.zip (List.range (codecBlocks c (W.start (latch s) far c.ctx c.gen (c.who tag 5))).2.blocks.length) (codecBlocks c (W.start (latch s) far c.ctx c.gen (c.who tag 5))).2.blocks, units := (codecBlocks c (W.start (latch s) far c.ctx c.gen (c.who tag 5))).2.units, covers := [c.f 40 8 + (codecBlocks c (W.start (latch s) far c.ctx c.gen (c.who tag 5))).2.failOff, e.1, e.2] } } tag).boot = s.dev.boot → (endCodec { (codecBlocks c (W.start (latch s) far c.ctx c.gen (c.who tag 5))).1.d with cmds := tput (codecBlocks c (W.start (latch s) far c.ctx c.gen (c.who tag 5))).1.d.cmds tag { c with phase := 2, blocks := List.zip (List.range (codecBlocks c (W.start (latch s) far c.ctx c.gen (c.who tag 5))).2.blocks.length) (codecBlocks c (W.start (latch s) far c.ctx c.gen (c.who tag 5))).2.blocks, units := (codecBlocks c (W.start (latch s) far c.ctx c.gen (c.who tag 5))).2.units, covers := [c.f 40 8 + (codecBlocks c (W.start (latch s) far c.ctx c.gen (c.who tag 5))).2.failOff, e.1, e.2] } } tag).errq.due = [] → (endCodec { (codecBlocks c (W.start (latch s) far c.ctx c.gen (c.who tag 5))).1.d with cmds := tput (codecBlocks c (W.start (latch s) far c.ctx c.gen (c.who tag 5))).1.d.cmds tag { c with phase := 2, blocks := List.zip (List.range (codecBlocks c (W.start (latch s) far c.ctx c.gen (c.who tag 5))).2.blocks.length) (codecBlocks c (W.start (latch s) far c.ctx c.gen (c.who tag 5))).2.blocks, units := (codecBlocks c (W.start (latch s) far c.ctx c.gen (c.who tag 5))).2.units, covers := [c.f 40 8 + (codecBlocks c (W.start (latch s) far c.ctx c.gen (c.who tag 5))).2.failOff, e.1, e.2] } } tag).tagWait = [] → (endCodec { (codecBlocks c (W.start (latch s) far c.ctx c.gen (c.who tag 5))).1.d with cmds := tput (codecBlocks c (W.start (latch s) far c.ctx c.gen (c.who tag 5))).1.d.cmds tag { c with phase := 2, blocks := List.zip (List.range (codecBlocks c (W.start (latch s) far c.ctx c.gen (c.who tag 5))).2.blocks.length) (codecBlocks c (W.start (latch s) far c.ctx c.gen (c.who tag 5))).2.blocks, units := (codecBlocks c (W.start (latch s) far c.ctx c.gen (c.who tag 5))).2.units, covers := [c.f 40 8 + (codecBlocks c (W.start (latch s) far c.ctx c.gen (c.who tag 5))).2.failOff, e.1, e.2] } } tag).tagHeld = [] → (endCodec { (codecBlocks c (W.start (latch s) far c.ctx c.gen (c.who tag 5))).1.d with cmds := tput (codecBlocks c (W.start (latch s) far c.ctx c.gen (c.who tag 5))).1.d.cmds tag { c with phase := 2, blocks := List.zip (List.range (codecBlocks c (W.start (latch s) far c.ctx c.gen (c.who tag 5))).2.blocks.length) (codecBlocks c (W.start (latch s) far c.ctx c.gen (c.who tag 5))).2.blocks, units := (codecBlocks c (W.start (latch s) far c.ctx c.gen (c.who tag 5))).2.units, covers := [c.f 40 8 + (codecBlocks c (W.start (latch s) far c.ctx c.gen (c.who tag 5))).2.failOff, e.1, e.2] } } tag).sw.seen = [] →
      exec (.encode tag far) s = .next { s with dev := endCodec { (codecBlocks c (W.start (latch s) far c.ctx c.gen (c.who tag 5))).1.d with cmds := tput (codecBlocks c (W.start (latch s) far c.ctx c.gen (c.who tag 5))).1.d.cmds tag { c with phase := 2, blocks := List.zip (List.range (codecBlocks c (W.start (latch s) far c.ctx c.gen (c.who tag 5))).2.blocks.length) (codecBlocks c (W.start (latch s) far c.ctx c.gen (c.who tag 5))).2.blocks, units := (codecBlocks c (W.start (latch s) far c.ctx c.gen (c.who tag 5))).2.units, covers := [c.f 40 8 + (codecBlocks c (W.start (latch s) far c.ctx c.gen (c.who tag 5))).2.failOff, e.1, e.2] } } tag }) ∧
    (∀ (s : State) (tag : Nat) (c : Cmd) (far : Far) (e : Nat × Nat), (.decode tag far : Instr).wellFormed = true → Serving s → cmdOf s.dev tag = some c → c.phase = 1 → c.opcode = 0x19 → floeOn s.dev c.floe = true → (codecBlocks c (W.start (latch s) far c.ctx c.gen (c.who tag 5))).1.blocked = none → cmdOf (codecBlocks c (W.start (latch s) far c.ctx c.gen (c.who tag 5))).1.d tag = some c → c.pos = 0 → e = (codecBlocks c (W.start (latch s) far c.ctx c.gen (c.who tag 5))).1.err.getD ((codecBlocks c (W.start (latch s) far c.ctx c.gen (c.who tag 5))).2.fail.getD (0, 0)) → (codecBlocks c (W.start (latch s) far c.ctx c.gen (c.who tag 5))).1.d.boot = s.dev.boot → (codecBlocks c (W.start (latch s) far c.ctx c.gen (c.who tag 5))).2.blocks = [] → (endCodec { (codecBlocks c (W.start (latch s) far c.ctx c.gen (c.who tag 5))).1.d with cmds := tput (codecBlocks c (W.start (latch s) far c.ctx c.gen (c.who tag 5))).1.d.cmds tag { c with phase := 2, blocks := List.zip (List.range (codecBlocks c (W.start (latch s) far c.ctx c.gen (c.who tag 5))).2.blocks.length) (codecBlocks c (W.start (latch s) far c.ctx c.gen (c.who tag 5))).2.blocks, units := (codecBlocks c (W.start (latch s) far c.ctx c.gen (c.who tag 5))).2.units, covers := [c.f 40 8 + (codecBlocks c (W.start (latch s) far c.ctx c.gen (c.who tag 5))).2.failOff, e.1, e.2] } } tag).boot = s.dev.boot → (endCodec { (codecBlocks c (W.start (latch s) far c.ctx c.gen (c.who tag 5))).1.d with cmds := tput (codecBlocks c (W.start (latch s) far c.ctx c.gen (c.who tag 5))).1.d.cmds tag { c with phase := 2, blocks := List.zip (List.range (codecBlocks c (W.start (latch s) far c.ctx c.gen (c.who tag 5))).2.blocks.length) (codecBlocks c (W.start (latch s) far c.ctx c.gen (c.who tag 5))).2.blocks, units := (codecBlocks c (W.start (latch s) far c.ctx c.gen (c.who tag 5))).2.units, covers := [c.f 40 8 + (codecBlocks c (W.start (latch s) far c.ctx c.gen (c.who tag 5))).2.failOff, e.1, e.2] } } tag).errq.due = [] → (endCodec { (codecBlocks c (W.start (latch s) far c.ctx c.gen (c.who tag 5))).1.d with cmds := tput (codecBlocks c (W.start (latch s) far c.ctx c.gen (c.who tag 5))).1.d.cmds tag { c with phase := 2, blocks := List.zip (List.range (codecBlocks c (W.start (latch s) far c.ctx c.gen (c.who tag 5))).2.blocks.length) (codecBlocks c (W.start (latch s) far c.ctx c.gen (c.who tag 5))).2.blocks, units := (codecBlocks c (W.start (latch s) far c.ctx c.gen (c.who tag 5))).2.units, covers := [c.f 40 8 + (codecBlocks c (W.start (latch s) far c.ctx c.gen (c.who tag 5))).2.failOff, e.1, e.2] } } tag).tagWait = [] → (endCodec { (codecBlocks c (W.start (latch s) far c.ctx c.gen (c.who tag 5))).1.d with cmds := tput (codecBlocks c (W.start (latch s) far c.ctx c.gen (c.who tag 5))).1.d.cmds tag { c with phase := 2, blocks := List.zip (List.range (codecBlocks c (W.start (latch s) far c.ctx c.gen (c.who tag 5))).2.blocks.length) (codecBlocks c (W.start (latch s) far c.ctx c.gen (c.who tag 5))).2.blocks, units := (codecBlocks c (W.start (latch s) far c.ctx c.gen (c.who tag 5))).2.units, covers := [c.f 40 8 + (codecBlocks c (W.start (latch s) far c.ctx c.gen (c.who tag 5))).2.failOff, e.1, e.2] } } tag).tagHeld = [] → (endCodec { (codecBlocks c (W.start (latch s) far c.ctx c.gen (c.who tag 5))).1.d with cmds := tput (codecBlocks c (W.start (latch s) far c.ctx c.gen (c.who tag 5))).1.d.cmds tag { c with phase := 2, blocks := List.zip (List.range (codecBlocks c (W.start (latch s) far c.ctx c.gen (c.who tag 5))).2.blocks.length) (codecBlocks c (W.start (latch s) far c.ctx c.gen (c.who tag 5))).2.blocks, units := (codecBlocks c (W.start (latch s) far c.ctx c.gen (c.who tag 5))).2.units, covers := [c.f 40 8 + (codecBlocks c (W.start (latch s) far c.ctx c.gen (c.who tag 5))).2.failOff, e.1, e.2] } } tag).sw.seen = [] →
      exec (.decode tag far) s = .next { s with dev := endCodec { (codecBlocks c (W.start (latch s) far c.ctx c.gen (c.who tag 5))).1.d with cmds := tput (codecBlocks c (W.start (latch s) far c.ctx c.gen (c.who tag 5))).1.d.cmds tag { c with phase := 2, blocks := List.zip (List.range (codecBlocks c (W.start (latch s) far c.ctx c.gen (c.who tag 5))).2.blocks.length) (codecBlocks c (W.start (latch s) far c.ctx c.gen (c.who tag 5))).2.blocks, units := (codecBlocks c (W.start (latch s) far c.ctx c.gen (c.who tag 5))).2.units, covers := [c.f 40 8 + (codecBlocks c (W.start (latch s) far c.ctx c.gen (c.who tag 5))).2.failOff, e.1, e.2] } } tag }) ∧
    (∀ (s : State) (tag k : Nat) (c : Cmd), (.codecBlockDone tag k : Instr).wellFormed = true → Serving s → cmdOf s.dev tag = some c → c.phase = 2 → c.opcode = 0x18 ∨ c.opcode = 0x19 → k < c.blocks.length → unitGranted s.dev (c.units.getD k 0) tag = true → c.blocksDone.contains k = false → floeOn s.dev c.floe = true → c.pos < c.blocks.length → k ≠ c.pos → c.blocksDone.contains c.pos = false →
      exec (.codecBlockDone tag k) s = .next { s with dev := { latch s with arbs := (dropUnit (latch s) (c.units.getD k 0)).arbs, cmds := tput s.dev.cmds tag { c with blocksDone := c.blocksDone ++ [k] } } }) ∧
    (∀ (s : State) (tag k : Nat) (c : Cmd) (w : W), (.codecBlockDone tag k : Instr).wellFormed = true → Serving s → cmdOf s.dev tag = some c → c.phase = 2 → c.opcode = 0x18 ∨ c.opcode = 0x19 → bitOf (c.f 34 1) 0 = false ∨ c.opcode = 0x18 → k + 1 < c.blocks.length → unitGranted s.dev (c.units.getD k 0) tag = true → c.blocksDone = [] → floeOn s.dev c.floe = true → k = c.pos → (W.start (dropUnit (latch s) (c.units.getD k 0)) [] c.ctx c.gen (c.who tag 5)).write (c.f 48 8 + c.count) (tget c.blocks k []) = w → w.ok = true → cmdOf w.d tag = some c → w.d.boot = s.dev.boot → w.d.errq.due = [] → w.d.tagWait = [] → w.d.tagHeld = [] → w.d.sw.seen = [] →
      exec (.codecBlockDone tag k) s = .next { s with dev := { w.d with cmds := tput w.d.cmds tag { c with blocksDone := [k], pos := k + 1, count := c.count + (tget c.blocks k []).length, digest := crc64From c.digest (tget c.blocks k []), writes := c.writes + w.wrote } } }) ∧
    (∀ (s : State) (tag : Nat) (c : Cmd) (b : Bytes), (.codecBlockDone tag 0 : Instr).wellFormed = true → Serving s → cmdOf s.dev tag = some c → c.opcode = 0x19 → c.phase = 2 → floeOn s.dev c.floe = true → owes s.dev (.cmd tag) = false → galleyExists s.dev c.ctx c.g = true → (galleyOf s.dev c.ctx c.g).done = [] → bitOf (c.f 34 1) 0 = true → c.blocks = [(0, b)] → unitGranted s.dev (c.units.getD 0 0) tag = true → c.blocksDone = [] → c.pos = 0 → okStatus (c.covers.getD 1 0) = true →
      ∃ t, exec (.codecBlockDone tag 0) s = .next t ∧ cmdOf t.dev tag = some { c with phase := 3, finish := s.clk.time, blocksDone := [0], pos := 1, count := c.count + b.length, digest := 0, status := c.covers.getD 1 0, detail := c.covers.getD 2 0 } ∧ (galleyOf t.dev c.ctx c.g).done = [tag] ∧ t.dev.arbs = (dropUnit (latch s) (c.units.getD 0 0)).arbs ∧ t = { s with dev := { letGo (latch s) tag c with cmds := t.dev.cmds, galleys := t.dev.galleys, arbs := t.dev.arbs, tel := t.dev.tel } })

/-- When a command is at the front of the queue, a step is its execution in the state with the queue's rest. With an empty queue one cycle of the time base passes, unless RESET_N holds the device: that a step on an empty queue is such a cycle is the model's choice (DESIGN CHOICE, log entry 1). -/
def Obligations.StepServesTheFront : Prop :=
    (∀ (c : Instr) (rest : List Instr) (s : State), s.pending = c :: rest → step s = exec c { s with pending := rest }) ∧
    (∀ (s : State), s.pending = [] → step s = .next (if s.dev.boot.held then s else { s with clk := s.clk.tick }))

/-- A command whose operands are in range always answers a next state, with the queue as it was, and but for the few commands that act on the clocks also with the time base as it was; one that names a unit the device does not have is a fault. While RESET_N holds the device, only edges of its pins and the stop of the calendar's oscillator change anything. -/
def Obligations.EveryCommandAnswers : Prop :=
    (∀ (c : Instr) (s : State), c.wellFormed = true → ∃ t, exec c s = .next t ∧ t.pending = s.pending ∧ (mayMoveClock c = false → t.clk = s.clk)) ∧
    (∀ (c : Instr) (s : State), c.wellFormed = false → exec c s = .fault .noSuchUnit) ∧
    (∀ (c : Instr) (s : State), c.wellFormed = true → s.dev.boot.held = true → actsInReset c = false → exec c s = .next s)

/-- From every state whose time base is legal and in which no domain recovery waits to be started, a step that answers a next state gives a state with both: the impression time base is in one of its four states, LOCKED holds eight intervals and a mark to measure from, COASTING none, the eight intervals are never exceeded, device time, counts and the calendar stay within their widths, and every recovery that an error asked for has begun. -/
def Obligations.StepKeepsTheTimeBaseLegal : Prop :=
    (∀ (s t : State), s.clk.Legal → s.dev.errq.due = [] → step s = .next t → t.clk.Legal ∧ t.dev.errq.due = [])

/-- After reset RESET_N is low, device time is 0, the impression time base is FREE, no command waits, the memory lists nothing and keeps its canonical form, and the invariant of the steps holds. -/
def Obligations.ResetState : Prop :=
    State.reset.dev.boot.held = true ∧ State.reset.clk.time = 0 ∧ State.reset.clk.impr = 0 ∧ State.reset.pending = [] ∧
    State.reset.dev.mem = [] ∧ Memory.wf State.reset.dev.mem = true ∧ State.reset.clk.Legal ∧ State.reset.dev.errq.due = []
end

