-- ==== Sys2Proof/Laws/State.lean ====
section
/-! SUPPORT. The named updates of the device, field by field: what each leaves in every field of the state, so that no
proof unfolds one. -/

namespace Sys2Proof.Machine

variable (d : Dev) (s : State)

/-! ### setMb -/

@[simp] theorem setMb_now (m : Nat) (x : Mailbox) : (setMb d m x).now = d.now := rfl
@[simp] theorem setMb_cal (m : Nat) (x : Mailbox) : (setMb d m x).cal = d.cal := rfl
@[simp] theorem setMb_free (m : Nat) (x : Mailbox) : (setMb d m x).free = d.free := rfl
@[simp] theorem setMb_boot (m : Nat) (x : Mailbox) : (setMb d m x).boot = d.boot := rfl
@[simp] theorem setMb_regs (m : Nat) (x : Mailbox) : (setMb d m x).regs = d.regs := rfl
@[simp] theorem setMb_force (m : Nat) (x : Mailbox) : (setMb d m x).force = d.force := rfl
@[simp] theorem setMb_bus (m : Nat) (x : Mailbox) : (setMb d m x).bus = d.bus := rfl
@[simp] theorem setMb_tel (m : Nat) (x : Mailbox) : (setMb d m x).tel = d.tel := rfl
@[simp] theorem setMb_mbx (m : Nat) (x : Mailbox) : (setMb d m x).mbx = tput d.mbx m x := rfl
@[simp] theorem setMb_svcNext (m : Nat) (x : Mailbox) : (setMb d m x).svcNext = d.svcNext := rfl
@[simp] theorem setMb_withdrawing (m : Nat) (x : Mailbox) : (setMb d m x).withdrawing = d.withdrawing := rfl
@[simp] theorem setMb_takeable (m : Nat) (x : Mailbox) : (setMb d m x).takeable = d.takeable := rfl
@[simp] theorem setMb_ctxs (m : Nat) (x : Mailbox) : (setMb d m x).ctxs = d.ctxs := rfl
@[simp] theorem setMb_regions (m : Nat) (x : Mailbox) : (setMb d m x).regions = d.regions := rfl
@[simp] theorem setMb_galleys (m : Nat) (x : Mailbox) : (setMb d m x).galleys = d.galleys := rfl
@[simp] theorem setMb_slots (m : Nat) (x : Mailbox) : (setMb d m x).slots = d.slots := rfl
@[simp] theorem setMb_formes (m : Nat) (x : Mailbox) : (setMb d m x).formes = d.formes := rfl
@[simp] theorem setMb_objs (m : Nat) (x : Mailbox) : (setMb d m x).objs = d.objs := rfl
@[simp] theorem setMb_errq (m : Nat) (x : Mailbox) : (setMb d m x).errq = d.errq := rfl
@[simp] theorem setMb_pages (m : Nat) (x : Mailbox) : (setMb d m x).pages = d.pages := rfl
@[simp] theorem setMb_replicas (m : Nat) (x : Mailbox) : (setMb d m x).replicas = d.replicas := rfl
@[simp] theorem setMb_plv (m : Nat) (x : Mailbox) : (setMb d m x).plv = d.plv := rfl
@[simp] theorem setMb_counts (m : Nat) (x : Mailbox) : (setMb d m x).counts = d.counts := rfl
@[simp] theorem setMb_sweep (m : Nat) (x : Mailbox) : (setMb d m x).sweep = d.sweep := rfl
@[simp] theorem setMb_queue (m : Nat) (x : Mailbox) : (setMb d m x).queue = d.queue := rfl
@[simp] theorem setMb_moves (m : Nat) (x : Mailbox) : (setMb d m x).moves = d.moves := rfl
@[simp] theorem setMb_touches (m : Nat) (x : Mailbox) : (setMb d m x).touches = d.touches := rfl
@[simp] theorem setMb_touched (m : Nat) (x : Mailbox) : (setMb d m x).touched = d.touched := rfl
@[simp] theorem setMb_packJobs (m : Nat) (x : Mailbox) : (setMb d m x).packJobs = d.packJobs := rfl
@[simp] theorem setMb_packs (m : Nat) (x : Mailbox) : (setMb d m x).packs = d.packs := rfl
@[simp] theorem setMb_mem (m : Nat) (x : Mailbox) : (setMb d m x).mem = d.mem := rfl
@[simp] theorem setMb_cache (m : Nat) (x : Mailbox) : (setMb d m x).cache = d.cache := rfl
@[simp] theorem setMb_recent (m : Nat) (x : Mailbox) : (setMb d m x).recent = d.recent := rfl
@[simp] theorem setMb_pathBad (m : Nat) (x : Mailbox) : (setMb d m x).pathBad = d.pathBad := rfl
@[simp] theorem setMb_sliceFlips (m : Nat) (x : Mailbox) : (setMb d m x).sliceFlips = d.sliceFlips := rfl
@[simp] theorem setMb_dirFlips (m : Nat) (x : Mailbox) : (setMb d m x).dirFlips = d.dirFlips := rfl
@[simp] theorem setMb_flushBusy (m : Nat) (x : Mailbox) : (setMb d m x).flushBusy = d.flushBusy := rfl
@[simp] theorem setMb_media (m : Nat) (x : Mailbox) : (setMb d m x).media = d.media := rfl
@[simp] theorem setMb_dir (m : Nat) (x : Mailbox) : (setMb d m x).dir = d.dir := rfl
@[simp] theorem setMb_orphans (m : Nat) (x : Mailbox) : (setMb d m x).orphans = d.orphans := rfl
@[simp] theorem setMb_dirWait (m : Nat) (x : Mailbox) : (setMb d m x).dirWait = d.dirWait := rfl
@[simp] theorem setMb_lineWait (m : Nat) (x : Mailbox) : (setMb d m x).lineWait = d.lineWait := rfl
@[simp] theorem setMb_dirFlush (m : Nat) (x : Mailbox) : (setMb d m x).dirFlush = d.dirFlush := rfl
@[simp] theorem setMb_dirWalk (m : Nat) (x : Mailbox) : (setMb d m x).dirWalk = d.dirWalk := rfl
@[simp] theorem setMb_dirProbe (m : Nat) (x : Mailbox) : (setMb d m x).dirProbe = d.dirProbe := rfl
@[simp] theorem setMb_cores (m : Nat) (x : Mailbox) : (setMb d m x).cores = d.cores := rfl
@[simp] theorem setMb_cmds (m : Nat) (x : Mailbox) : (setMb d m x).cmds = d.cmds := rfl
@[simp] theorem setMb_order (m : Nat) (x : Mailbox) : (setMb d m x).order = d.order := rfl
@[simp] theorem setMb_served (m : Nat) (x : Mailbox) : (setMb d m x).served = d.served := rfl
@[simp] theorem setMb_unitTag (m : Nat) (x : Mailbox) : (setMb d m x).unitTag = d.unitTag := rfl
@[simp] theorem setMb_tagLast (m : Nat) (x : Mailbox) : (setMb d m x).tagLast = d.tagLast := rfl
@[simp] theorem setMb_tagWait (m : Nat) (x : Mailbox) : (setMb d m x).tagWait = d.tagWait := rfl
@[simp] theorem setMb_tagHeld (m : Nat) (x : Mailbox) : (setMb d m x).tagHeld = d.tagHeld := rfl
@[simp] theorem setMb_runq (m : Nat) (x : Mailbox) : (setMb d m x).runq = d.runq := rfl
@[simp] theorem setMb_fab (m : Nat) (x : Mailbox) : (setMb d m x).fab = d.fab := rfl
@[simp] theorem setMb_reads (m : Nat) (x : Mailbox) : (setMb d m x).reads = d.reads := rfl
@[simp] theorem setMb_fwdReads (m : Nat) (x : Mailbox) : (setMb d m x).fwdReads = d.fwdReads := rfl
@[simp] theorem setMb_portReqs (m : Nat) (x : Mailbox) : (setMb d m x).portReqs = d.portReqs := rfl
@[simp] theorem setMb_fabNext (m : Nat) (x : Mailbox) : (setMb d m x).fabNext = d.fabNext := rfl
@[simp] theorem setMb_acks (m : Nat) (x : Mailbox) : (setMb d m x).acks = d.acks := rfl
@[simp] theorem setMb_reqs (m : Nat) (x : Mailbox) : (setMb d m x).reqs = d.reqs := rfl
@[simp] theorem setMb_dedup (m : Nat) (x : Mailbox) : (setMb d m x).dedup = d.dedup := rfl
@[simp] theorem setMb_entries (m : Nat) (x : Mailbox) : (setMb d m x).entries = d.entries := rfl
@[simp] theorem setMb_groups (m : Nat) (x : Mailbox) : (setMb d m x).groups = d.groups := rfl
@[simp] theorem setMb_combs (m : Nat) (x : Mailbox) : (setMb d m x).combs = d.combs := rfl
@[simp] theorem setMb_ports (m : Nat) (x : Mailbox) : (setMb d m x).ports = d.ports := rfl
@[simp] theorem setMb_links (m : Nat) (x : Mailbox) : (setMb d m x).links = d.links := rfl
@[simp] theorem setMb_sw (m : Nat) (x : Mailbox) : (setMb d m x).sw = d.sw := rfl
@[simp] theorem setMb_arbs (m : Nat) (x : Mailbox) : (setMb d m x).arbs = d.arbs := rfl
@[simp] theorem setMb_ecc (m : Nat) (x : Mailbox) : (setMb d m x).ecc = d.ecc := rfl
@[simp] theorem setMb_mbr (m : Nat) (x : Mailbox) : (setMb d m x).mbr = d.mbr := rfl
@[simp] theorem setMb_rates (m : Nat) (x : Mailbox) : (setMb d m x).rates = d.rates := rfl
@[simp] theorem setMb_out (m : Nat) (x : Mailbox) : (setMb d m x).out = d.out := rfl

/-! ### setPort -/

@[simp] theorem setPort_now (p : Nat) (x : Port) : (setPort d p x).now = d.now := rfl
@[simp] theorem setPort_cal (p : Nat) (x : Port) : (setPort d p x).cal = d.cal := rfl
@[simp] theorem setPort_free (p : Nat) (x : Port) : (setPort d p x).free = d.free := rfl
@[simp] theorem setPort_boot (p : Nat) (x : Port) : (setPort d p x).boot = d.boot := rfl
@[simp] theorem setPort_regs (p : Nat) (x : Port) : (setPort d p x).regs = d.regs := rfl
@[simp] theorem setPort_force (p : Nat) (x : Port) : (setPort d p x).force = d.force := rfl
@[simp] theorem setPort_bus (p : Nat) (x : Port) : (setPort d p x).bus = d.bus := rfl
@[simp] theorem setPort_tel (p : Nat) (x : Port) : (setPort d p x).tel = d.tel := rfl
@[simp] theorem setPort_mbx (p : Nat) (x : Port) : (setPort d p x).mbx = d.mbx := rfl
@[simp] theorem setPort_svcNext (p : Nat) (x : Port) : (setPort d p x).svcNext = d.svcNext := rfl
@[simp] theorem setPort_withdrawing (p : Nat) (x : Port) : (setPort d p x).withdrawing = d.withdrawing := rfl
@[simp] theorem setPort_takeable (p : Nat) (x : Port) : (setPort d p x).takeable = d.takeable := rfl
@[simp] theorem setPort_ctxs (p : Nat) (x : Port) : (setPort d p x).ctxs = d.ctxs := rfl
@[simp] theorem setPort_regions (p : Nat) (x : Port) : (setPort d p x).regions = d.regions := rfl
@[simp] theorem setPort_galleys (p : Nat) (x : Port) : (setPort d p x).galleys = d.galleys := rfl
@[simp] theorem setPort_slots (p : Nat) (x : Port) : (setPort d p x).slots = d.slots := rfl
@[simp] theorem setPort_formes (p : Nat) (x : Port) : (setPort d p x).formes = d.formes := rfl
@[simp] theorem setPort_objs (p : Nat) (x : Port) : (setPort d p x).objs = d.objs := rfl
@[simp] theorem setPort_errq (p : Nat) (x : Port) : (setPort d p x).errq = d.errq := rfl
@[simp] theorem setPort_pages (p : Nat) (x : Port) : (setPort d p x).pages = d.pages := rfl
@[simp] theorem setPort_replicas (p : Nat) (x : Port) : (setPort d p x).replicas = d.replicas := rfl
@[simp] theorem setPort_plv (p : Nat) (x : Port) : (setPort d p x).plv = d.plv := rfl
@[simp] theorem setPort_counts (p : Nat) (x : Port) : (setPort d p x).counts = d.counts := rfl
@[simp] theorem setPort_sweep (p : Nat) (x : Port) : (setPort d p x).sweep = d.sweep := rfl
@[simp] theorem setPort_queue (p : Nat) (x : Port) : (setPort d p x).queue = d.queue := rfl
@[simp] theorem setPort_moves (p : Nat) (x : Port) : (setPort d p x).moves = d.moves := rfl
@[simp] theorem setPort_touches (p : Nat) (x : Port) : (setPort d p x).touches = d.touches := rfl
@[simp] theorem setPort_touched (p : Nat) (x : Port) : (setPort d p x).touched = d.touched := rfl
@[simp] theorem setPort_packJobs (p : Nat) (x : Port) : (setPort d p x).packJobs = d.packJobs := rfl
@[simp] theorem setPort_packs (p : Nat) (x : Port) : (setPort d p x).packs = d.packs := rfl
@[simp] theorem setPort_mem (p : Nat) (x : Port) : (setPort d p x).mem = d.mem := rfl
@[simp] theorem setPort_cache (p : Nat) (x : Port) : (setPort d p x).cache = d.cache := rfl
@[simp] theorem setPort_recent (p : Nat) (x : Port) : (setPort d p x).recent = d.recent := rfl
@[simp] theorem setPort_pathBad (p : Nat) (x : Port) : (setPort d p x).pathBad = d.pathBad := rfl
@[simp] theorem setPort_sliceFlips (p : Nat) (x : Port) : (setPort d p x).sliceFlips = d.sliceFlips := rfl
@[simp] theorem setPort_dirFlips (p : Nat) (x : Port) : (setPort d p x).dirFlips = d.dirFlips := rfl
@[simp] theorem setPort_flushBusy (p : Nat) (x : Port) : (setPort d p x).flushBusy = d.flushBusy := rfl
@[simp] theorem setPort_media (p : Nat) (x : Port) : (setPort d p x).media = d.media := rfl
@[simp] theorem setPort_dir (p : Nat) (x : Port) : (setPort d p x).dir = d.dir := rfl
@[simp] theorem setPort_orphans (p : Nat) (x : Port) : (setPort d p x).orphans = d.orphans := rfl
@[simp] theorem setPort_dirWait (p : Nat) (x : Port) : (setPort d p x).dirWait = d.dirWait := rfl
@[simp] theorem setPort_lineWait (p : Nat) (x : Port) : (setPort d p x).lineWait = d.lineWait := rfl
@[simp] theorem setPort_dirFlush (p : Nat) (x : Port) : (setPort d p x).dirFlush = d.dirFlush := rfl
@[simp] theorem setPort_dirWalk (p : Nat) (x : Port) : (setPort d p x).dirWalk = d.dirWalk := rfl
@[simp] theorem setPort_dirProbe (p : Nat) (x : Port) : (setPort d p x).dirProbe = d.dirProbe := rfl
@[simp] theorem setPort_cores (p : Nat) (x : Port) : (setPort d p x).cores = d.cores := rfl
@[simp] theorem setPort_cmds (p : Nat) (x : Port) : (setPort d p x).cmds = d.cmds := rfl
@[simp] theorem setPort_order (p : Nat) (x : Port) : (setPort d p x).order = d.order := rfl
@[simp] theorem setPort_served (p : Nat) (x : Port) : (setPort d p x).served = d.served := rfl
@[simp] theorem setPort_unitTag (p : Nat) (x : Port) : (setPort d p x).unitTag = d.unitTag := rfl
@[simp] theorem setPort_tagLast (p : Nat) (x : Port) : (setPort d p x).tagLast = d.tagLast := rfl
@[simp] theorem setPort_tagWait (p : Nat) (x : Port) : (setPort d p x).tagWait = d.tagWait := rfl
@[simp] theorem setPort_tagHeld (p : Nat) (x : Port) : (setPort d p x).tagHeld = d.tagHeld := rfl
@[simp] theorem setPort_runq (p : Nat) (x : Port) : (setPort d p x).runq = d.runq := rfl
@[simp] theorem setPort_fab (p : Nat) (x : Port) : (setPort d p x).fab = d.fab := rfl
@[simp] theorem setPort_reads (p : Nat) (x : Port) : (setPort d p x).reads = d.reads := rfl
@[simp] theorem setPort_fwdReads (p : Nat) (x : Port) : (setPort d p x).fwdReads = d.fwdReads := rfl
@[simp] theorem setPort_portReqs (p : Nat) (x : Port) : (setPort d p x).portReqs = d.portReqs := rfl
@[simp] theorem setPort_fabNext (p : Nat) (x : Port) : (setPort d p x).fabNext = d.fabNext := rfl
@[simp] theorem setPort_acks (p : Nat) (x : Port) : (setPort d p x).acks = d.acks := rfl
@[simp] theorem setPort_reqs (p : Nat) (x : Port) : (setPort d p x).reqs = d.reqs := rfl
@[simp] theorem setPort_dedup (p : Nat) (x : Port) : (setPort d p x).dedup = d.dedup := rfl
@[simp] theorem setPort_entries (p : Nat) (x : Port) : (setPort d p x).entries = d.entries := rfl
@[simp] theorem setPort_groups (p : Nat) (x : Port) : (setPort d p x).groups = d.groups := rfl
@[simp] theorem setPort_combs (p : Nat) (x : Port) : (setPort d p x).combs = d.combs := rfl
@[simp] theorem setPort_ports (p : Nat) (x : Port) : (setPort d p x).ports = tput d.ports p x := rfl
@[simp] theorem setPort_links (p : Nat) (x : Port) : (setPort d p x).links = d.links := rfl
@[simp] theorem setPort_sw (p : Nat) (x : Port) : (setPort d p x).sw = d.sw := rfl
@[simp] theorem setPort_arbs (p : Nat) (x : Port) : (setPort d p x).arbs = d.arbs := rfl
@[simp] theorem setPort_ecc (p : Nat) (x : Port) : (setPort d p x).ecc = d.ecc := rfl
@[simp] theorem setPort_mbr (p : Nat) (x : Port) : (setPort d p x).mbr = d.mbr := rfl
@[simp] theorem setPort_rates (p : Nat) (x : Port) : (setPort d p x).rates = d.rates := rfl
@[simp] theorem setPort_out (p : Nat) (x : Port) : (setPort d p x).out = d.out := rfl

/-! ### setLink -/

@[simp] theorem setLink_now (l : Nat) (x : Link) : (setLink d l x).now = d.now := rfl
@[simp] theorem setLink_cal (l : Nat) (x : Link) : (setLink d l x).cal = d.cal := rfl
@[simp] theorem setLink_free (l : Nat) (x : Link) : (setLink d l x).free = d.free := rfl
@[simp] theorem setLink_boot (l : Nat) (x : Link) : (setLink d l x).boot = d.boot := rfl
@[simp] theorem setLink_regs (l : Nat) (x : Link) : (setLink d l x).regs = d.regs := rfl
@[simp] theorem setLink_force (l : Nat) (x : Link) : (setLink d l x).force = d.force := rfl
@[simp] theorem setLink_bus (l : Nat) (x : Link) : (setLink d l x).bus = d.bus := rfl
@[simp] theorem setLink_tel (l : Nat) (x : Link) : (setLink d l x).tel = d.tel := rfl
@[simp] theorem setLink_mbx (l : Nat) (x : Link) : (setLink d l x).mbx = d.mbx := rfl
@[simp] theorem setLink_svcNext (l : Nat) (x : Link) : (setLink d l x).svcNext = d.svcNext := rfl
@[simp] theorem setLink_withdrawing (l : Nat) (x : Link) : (setLink d l x).withdrawing = d.withdrawing := rfl
@[simp] theorem setLink_takeable (l : Nat) (x : Link) : (setLink d l x).takeable = d.takeable := rfl
@[simp] theorem setLink_ctxs (l : Nat) (x : Link) : (setLink d l x).ctxs = d.ctxs := rfl
@[simp] theorem setLink_regions (l : Nat) (x : Link) : (setLink d l x).regions = d.regions := rfl
@[simp] theorem setLink_galleys (l : Nat) (x : Link) : (setLink d l x).galleys = d.galleys := rfl
@[simp] theorem setLink_slots (l : Nat) (x : Link) : (setLink d l x).slots = d.slots := rfl
@[simp] theorem setLink_formes (l : Nat) (x : Link) : (setLink d l x).formes = d.formes := rfl
@[simp] theorem setLink_objs (l : Nat) (x : Link) : (setLink d l x).objs = d.objs := rfl
@[simp] theorem setLink_errq (l : Nat) (x : Link) : (setLink d l x).errq = d.errq := rfl
@[simp] theorem setLink_pages (l : Nat) (x : Link) : (setLink d l x).pages = d.pages := rfl
@[simp] theorem setLink_replicas (l : Nat) (x : Link) : (setLink d l x).replicas = d.replicas := rfl
@[simp] theorem setLink_plv (l : Nat) (x : Link) : (setLink d l x).plv = d.plv := rfl
@[simp] theorem setLink_counts (l : Nat) (x : Link) : (setLink d l x).counts = d.counts := rfl
@[simp] theorem setLink_sweep (l : Nat) (x : Link) : (setLink d l x).sweep = d.sweep := rfl
@[simp] theorem setLink_queue (l : Nat) (x : Link) : (setLink d l x).queue = d.queue := rfl
@[simp] theorem setLink_moves (l : Nat) (x : Link) : (setLink d l x).moves = d.moves := rfl
@[simp] theorem setLink_touches (l : Nat) (x : Link) : (setLink d l x).touches = d.touches := rfl
@[simp] theorem setLink_touched (l : Nat) (x : Link) : (setLink d l x).touched = d.touched := rfl
@[simp] theorem setLink_packJobs (l : Nat) (x : Link) : (setLink d l x).packJobs = d.packJobs := rfl
@[simp] theorem setLink_packs (l : Nat) (x : Link) : (setLink d l x).packs = d.packs := rfl
@[simp] theorem setLink_mem (l : Nat) (x : Link) : (setLink d l x).mem = d.mem := rfl
@[simp] theorem setLink_cache (l : Nat) (x : Link) : (setLink d l x).cache = d.cache := rfl
@[simp] theorem setLink_recent (l : Nat) (x : Link) : (setLink d l x).recent = d.recent := rfl
@[simp] theorem setLink_pathBad (l : Nat) (x : Link) : (setLink d l x).pathBad = d.pathBad := rfl
@[simp] theorem setLink_sliceFlips (l : Nat) (x : Link) : (setLink d l x).sliceFlips = d.sliceFlips := rfl
@[simp] theorem setLink_dirFlips (l : Nat) (x : Link) : (setLink d l x).dirFlips = d.dirFlips := rfl
@[simp] theorem setLink_flushBusy (l : Nat) (x : Link) : (setLink d l x).flushBusy = d.flushBusy := rfl
@[simp] theorem setLink_media (l : Nat) (x : Link) : (setLink d l x).media = d.media := rfl
@[simp] theorem setLink_dir (l : Nat) (x : Link) : (setLink d l x).dir = d.dir := rfl
@[simp] theorem setLink_orphans (l : Nat) (x : Link) : (setLink d l x).orphans = d.orphans := rfl
@[simp] theorem setLink_dirWait (l : Nat) (x : Link) : (setLink d l x).dirWait = d.dirWait := rfl
@[simp] theorem setLink_lineWait (l : Nat) (x : Link) : (setLink d l x).lineWait = d.lineWait := rfl
@[simp] theorem setLink_dirFlush (l : Nat) (x : Link) : (setLink d l x).dirFlush = d.dirFlush := rfl
@[simp] theorem setLink_dirWalk (l : Nat) (x : Link) : (setLink d l x).dirWalk = d.dirWalk := rfl
@[simp] theorem setLink_dirProbe (l : Nat) (x : Link) : (setLink d l x).dirProbe = d.dirProbe := rfl
@[simp] theorem setLink_cores (l : Nat) (x : Link) : (setLink d l x).cores = d.cores := rfl
@[simp] theorem setLink_cmds (l : Nat) (x : Link) : (setLink d l x).cmds = d.cmds := rfl
@[simp] theorem setLink_order (l : Nat) (x : Link) : (setLink d l x).order = d.order := rfl
@[simp] theorem setLink_served (l : Nat) (x : Link) : (setLink d l x).served = d.served := rfl
@[simp] theorem setLink_unitTag (l : Nat) (x : Link) : (setLink d l x).unitTag = d.unitTag := rfl
@[simp] theorem setLink_tagLast (l : Nat) (x : Link) : (setLink d l x).tagLast = d.tagLast := rfl
@[simp] theorem setLink_tagWait (l : Nat) (x : Link) : (setLink d l x).tagWait = d.tagWait := rfl
@[simp] theorem setLink_tagHeld (l : Nat) (x : Link) : (setLink d l x).tagHeld = d.tagHeld := rfl
@[simp] theorem setLink_runq (l : Nat) (x : Link) : (setLink d l x).runq = d.runq := rfl
@[simp] theorem setLink_fab (l : Nat) (x : Link) : (setLink d l x).fab = d.fab := rfl
@[simp] theorem setLink_reads (l : Nat) (x : Link) : (setLink d l x).reads = d.reads := rfl
@[simp] theorem setLink_fwdReads (l : Nat) (x : Link) : (setLink d l x).fwdReads = d.fwdReads := rfl
@[simp] theorem setLink_portReqs (l : Nat) (x : Link) : (setLink d l x).portReqs = d.portReqs := rfl
@[simp] theorem setLink_fabNext (l : Nat) (x : Link) : (setLink d l x).fabNext = d.fabNext := rfl
@[simp] theorem setLink_acks (l : Nat) (x : Link) : (setLink d l x).acks = d.acks := rfl
@[simp] theorem setLink_reqs (l : Nat) (x : Link) : (setLink d l x).reqs = d.reqs := rfl
@[simp] theorem setLink_dedup (l : Nat) (x : Link) : (setLink d l x).dedup = d.dedup := rfl
@[simp] theorem setLink_entries (l : Nat) (x : Link) : (setLink d l x).entries = d.entries := rfl
@[simp] theorem setLink_groups (l : Nat) (x : Link) : (setLink d l x).groups = d.groups := rfl
@[simp] theorem setLink_combs (l : Nat) (x : Link) : (setLink d l x).combs = d.combs := rfl
@[simp] theorem setLink_ports (l : Nat) (x : Link) : (setLink d l x).ports = d.ports := rfl
@[simp] theorem setLink_links (l : Nat) (x : Link) : (setLink d l x).links = tput d.links l x := rfl
@[simp] theorem setLink_sw (l : Nat) (x : Link) : (setLink d l x).sw = d.sw := rfl
@[simp] theorem setLink_arbs (l : Nat) (x : Link) : (setLink d l x).arbs = d.arbs := rfl
@[simp] theorem setLink_ecc (l : Nat) (x : Link) : (setLink d l x).ecc = d.ecc := rfl
@[simp] theorem setLink_mbr (l : Nat) (x : Link) : (setLink d l x).mbr = d.mbr := rfl
@[simp] theorem setLink_rates (l : Nat) (x : Link) : (setLink d l x).rates = d.rates := rfl
@[simp] theorem setLink_out (l : Nat) (x : Link) : (setLink d l x).out = d.out := rfl

/-! ### setCore -/

@[simp] theorem setCore_now (c : Nat) (x : Core) : (setCore d c x).now = d.now := rfl
@[simp] theorem setCore_cal (c : Nat) (x : Core) : (setCore d c x).cal = d.cal := rfl
@[simp] theorem setCore_free (c : Nat) (x : Core) : (setCore d c x).free = d.free := rfl
@[simp] theorem setCore_boot (c : Nat) (x : Core) : (setCore d c x).boot = d.boot := rfl
@[simp] theorem setCore_regs (c : Nat) (x : Core) : (setCore d c x).regs = d.regs := rfl
@[simp] theorem setCore_force (c : Nat) (x : Core) : (setCore d c x).force = d.force := rfl
@[simp] theorem setCore_bus (c : Nat) (x : Core) : (setCore d c x).bus = d.bus := rfl
@[simp] theorem setCore_tel (c : Nat) (x : Core) : (setCore d c x).tel = d.tel := rfl
@[simp] theorem setCore_mbx (c : Nat) (x : Core) : (setCore d c x).mbx = d.mbx := rfl
@[simp] theorem setCore_svcNext (c : Nat) (x : Core) : (setCore d c x).svcNext = d.svcNext := rfl
@[simp] theorem setCore_withdrawing (c : Nat) (x : Core) : (setCore d c x).withdrawing = d.withdrawing := rfl
@[simp] theorem setCore_takeable (c : Nat) (x : Core) : (setCore d c x).takeable = d.takeable := rfl
@[simp] theorem setCore_ctxs (c : Nat) (x : Core) : (setCore d c x).ctxs = d.ctxs := rfl
@[simp] theorem setCore_regions (c : Nat) (x : Core) : (setCore d c x).regions = d.regions := rfl
@[simp] theorem setCore_galleys (c : Nat) (x : Core) : (setCore d c x).galleys = d.galleys := rfl
@[simp] theorem setCore_slots (c : Nat) (x : Core) : (setCore d c x).slots = d.slots := rfl
@[simp] theorem setCore_formes (c : Nat) (x : Core) : (setCore d c x).formes = d.formes := rfl
@[simp] theorem setCore_objs (c : Nat) (x : Core) : (setCore d c x).objs = d.objs := rfl
@[simp] theorem setCore_errq (c : Nat) (x : Core) : (setCore d c x).errq = d.errq := rfl
@[simp] theorem setCore_pages (c : Nat) (x : Core) : (setCore d c x).pages = d.pages := rfl
@[simp] theorem setCore_replicas (c : Nat) (x : Core) : (setCore d c x).replicas = d.replicas := rfl
@[simp] theorem setCore_plv (c : Nat) (x : Core) : (setCore d c x).plv = d.plv := rfl
@[simp] theorem setCore_counts (c : Nat) (x : Core) : (setCore d c x).counts = d.counts := rfl
@[simp] theorem setCore_sweep (c : Nat) (x : Core) : (setCore d c x).sweep = d.sweep := rfl
@[simp] theorem setCore_queue (c : Nat) (x : Core) : (setCore d c x).queue = d.queue := rfl
@[simp] theorem setCore_moves (c : Nat) (x : Core) : (setCore d c x).moves = d.moves := rfl
@[simp] theorem setCore_touches (c : Nat) (x : Core) : (setCore d c x).touches = d.touches := rfl
@[simp] theorem setCore_touched (c : Nat) (x : Core) : (setCore d c x).touched = d.touched := rfl
@[simp] theorem setCore_packJobs (c : Nat) (x : Core) : (setCore d c x).packJobs = d.packJobs := rfl
@[simp] theorem setCore_packs (c : Nat) (x : Core) : (setCore d c x).packs = d.packs := rfl
@[simp] theorem setCore_mem (c : Nat) (x : Core) : (setCore d c x).mem = d.mem := rfl
@[simp] theorem setCore_cache (c : Nat) (x : Core) : (setCore d c x).cache = d.cache := rfl
@[simp] theorem setCore_recent (c : Nat) (x : Core) : (setCore d c x).recent = d.recent := rfl
@[simp] theorem setCore_pathBad (c : Nat) (x : Core) : (setCore d c x).pathBad = d.pathBad := rfl
@[simp] theorem setCore_sliceFlips (c : Nat) (x : Core) : (setCore d c x).sliceFlips = d.sliceFlips := rfl
@[simp] theorem setCore_dirFlips (c : Nat) (x : Core) : (setCore d c x).dirFlips = d.dirFlips := rfl
@[simp] theorem setCore_flushBusy (c : Nat) (x : Core) : (setCore d c x).flushBusy = d.flushBusy := rfl
@[simp] theorem setCore_media (c : Nat) (x : Core) : (setCore d c x).media = d.media := rfl
@[simp] theorem setCore_dir (c : Nat) (x : Core) : (setCore d c x).dir = d.dir := rfl
@[simp] theorem setCore_orphans (c : Nat) (x : Core) : (setCore d c x).orphans = d.orphans := rfl
@[simp] theorem setCore_dirWait (c : Nat) (x : Core) : (setCore d c x).dirWait = d.dirWait := rfl
@[simp] theorem setCore_lineWait (c : Nat) (x : Core) : (setCore d c x).lineWait = d.lineWait := rfl
@[simp] theorem setCore_dirFlush (c : Nat) (x : Core) : (setCore d c x).dirFlush = d.dirFlush := rfl
@[simp] theorem setCore_dirWalk (c : Nat) (x : Core) : (setCore d c x).dirWalk = d.dirWalk := rfl
@[simp] theorem setCore_dirProbe (c : Nat) (x : Core) : (setCore d c x).dirProbe = d.dirProbe := rfl
@[simp] theorem setCore_cores (c : Nat) (x : Core) : (setCore d c x).cores = tput d.cores c x := rfl
@[simp] theorem setCore_cmds (c : Nat) (x : Core) : (setCore d c x).cmds = d.cmds := rfl
@[simp] theorem setCore_order (c : Nat) (x : Core) : (setCore d c x).order = d.order := rfl
@[simp] theorem setCore_served (c : Nat) (x : Core) : (setCore d c x).served = d.served := rfl
@[simp] theorem setCore_unitTag (c : Nat) (x : Core) : (setCore d c x).unitTag = d.unitTag := rfl
@[simp] theorem setCore_tagLast (c : Nat) (x : Core) : (setCore d c x).tagLast = d.tagLast := rfl
@[simp] theorem setCore_tagWait (c : Nat) (x : Core) : (setCore d c x).tagWait = d.tagWait := rfl
@[simp] theorem setCore_tagHeld (c : Nat) (x : Core) : (setCore d c x).tagHeld = d.tagHeld := rfl
@[simp] theorem setCore_runq (c : Nat) (x : Core) : (setCore d c x).runq = d.runq := rfl
@[simp] theorem setCore_fab (c : Nat) (x : Core) : (setCore d c x).fab = d.fab := rfl
@[simp] theorem setCore_reads (c : Nat) (x : Core) : (setCore d c x).reads = d.reads := rfl
@[simp] theorem setCore_fwdReads (c : Nat) (x : Core) : (setCore d c x).fwdReads = d.fwdReads := rfl
@[simp] theorem setCore_portReqs (c : Nat) (x : Core) : (setCore d c x).portReqs = d.portReqs := rfl
@[simp] theorem setCore_fabNext (c : Nat) (x : Core) : (setCore d c x).fabNext = d.fabNext := rfl
@[simp] theorem setCore_acks (c : Nat) (x : Core) : (setCore d c x).acks = d.acks := rfl
@[simp] theorem setCore_reqs (c : Nat) (x : Core) : (setCore d c x).reqs = d.reqs := rfl
@[simp] theorem setCore_dedup (c : Nat) (x : Core) : (setCore d c x).dedup = d.dedup := rfl
@[simp] theorem setCore_entries (c : Nat) (x : Core) : (setCore d c x).entries = d.entries := rfl
@[simp] theorem setCore_groups (c : Nat) (x : Core) : (setCore d c x).groups = d.groups := rfl
@[simp] theorem setCore_combs (c : Nat) (x : Core) : (setCore d c x).combs = d.combs := rfl
@[simp] theorem setCore_ports (c : Nat) (x : Core) : (setCore d c x).ports = d.ports := rfl
@[simp] theorem setCore_links (c : Nat) (x : Core) : (setCore d c x).links = d.links := rfl
@[simp] theorem setCore_sw (c : Nat) (x : Core) : (setCore d c x).sw = d.sw := rfl
@[simp] theorem setCore_arbs (c : Nat) (x : Core) : (setCore d c x).arbs = d.arbs := rfl
@[simp] theorem setCore_ecc (c : Nat) (x : Core) : (setCore d c x).ecc = d.ecc := rfl
@[simp] theorem setCore_mbr (c : Nat) (x : Core) : (setCore d c x).mbr = d.mbr := rfl
@[simp] theorem setCore_rates (c : Nat) (x : Core) : (setCore d c x).rates = d.rates := rfl
@[simp] theorem setCore_out (c : Nat) (x : Core) : (setCore d c x).out = d.out := rfl

/-! ### telD -/

@[simp] theorem telD_now (o n : Nat) : (telD d o n).now = d.now := rfl
@[simp] theorem telD_cal (o n : Nat) : (telD d o n).cal = d.cal := rfl
@[simp] theorem telD_free (o n : Nat) : (telD d o n).free = d.free := rfl
@[simp] theorem telD_boot (o n : Nat) : (telD d o n).boot = d.boot := rfl
@[simp] theorem telD_regs (o n : Nat) : (telD d o n).regs = d.regs := rfl
@[simp] theorem telD_force (o n : Nat) : (telD d o n).force = d.force := rfl
@[simp] theorem telD_bus (o n : Nat) : (telD d o n).bus = d.bus := rfl
@[simp] theorem telD_tel (o n : Nat) : (telD d o n).tel = tput d.tel (0x400000 + o) ((tget d.tel (0x400000 + o) 0 + n) % 2 ^ 64) := rfl
@[simp] theorem telD_mbx (o n : Nat) : (telD d o n).mbx = d.mbx := rfl
@[simp] theorem telD_svcNext (o n : Nat) : (telD d o n).svcNext = d.svcNext := rfl
@[simp] theorem telD_withdrawing (o n : Nat) : (telD d o n).withdrawing = d.withdrawing := rfl
@[simp] theorem telD_takeable (o n : Nat) : (telD d o n).takeable = d.takeable := rfl
@[simp] theorem telD_ctxs (o n : Nat) : (telD d o n).ctxs = d.ctxs := rfl
@[simp] theorem telD_regions (o n : Nat) : (telD d o n).regions = d.regions := rfl
@[simp] theorem telD_galleys (o n : Nat) : (telD d o n).galleys = d.galleys := rfl
@[simp] theorem telD_slots (o n : Nat) : (telD d o n).slots = d.slots := rfl
@[simp] theorem telD_formes (o n : Nat) : (telD d o n).formes = d.formes := rfl
@[simp] theorem telD_objs (o n : Nat) : (telD d o n).objs = d.objs := rfl
@[simp] theorem telD_errq (o n : Nat) : (telD d o n).errq = d.errq := rfl
@[simp] theorem telD_pages (o n : Nat) : (telD d o n).pages = d.pages := rfl
@[simp] theorem telD_replicas (o n : Nat) : (telD d o n).replicas = d.replicas := rfl
@[simp] theorem telD_plv (o n : Nat) : (telD d o n).plv = d.plv := rfl
@[simp] theorem telD_counts (o n : Nat) : (telD d o n).counts = d.counts := rfl
@[simp] theorem telD_sweep (o n : Nat) : (telD d o n).sweep = d.sweep := rfl
@[simp] theorem telD_queue (o n : Nat) : (telD d o n).queue = d.queue := rfl
@[simp] theorem telD_moves (o n : Nat) : (telD d o n).moves = d.moves := rfl
@[simp] theorem telD_touches (o n : Nat) : (telD d o n).touches = d.touches := rfl
@[simp] theorem telD_touched (o n : Nat) : (telD d o n).touched = d.touched := rfl
@[simp] theorem telD_packJobs (o n : Nat) : (telD d o n).packJobs = d.packJobs := rfl
@[simp] theorem telD_packs (o n : Nat) : (telD d o n).packs = d.packs := rfl
@[simp] theorem telD_mem (o n : Nat) : (telD d o n).mem = d.mem := rfl
@[simp] theorem telD_cache (o n : Nat) : (telD d o n).cache = d.cache := rfl
@[simp] theorem telD_recent (o n : Nat) : (telD d o n).recent = d.recent := rfl
@[simp] theorem telD_pathBad (o n : Nat) : (telD d o n).pathBad = d.pathBad := rfl
@[simp] theorem telD_sliceFlips (o n : Nat) : (telD d o n).sliceFlips = d.sliceFlips := rfl
@[simp] theorem telD_dirFlips (o n : Nat) : (telD d o n).dirFlips = d.dirFlips := rfl
@[simp] theorem telD_flushBusy (o n : Nat) : (telD d o n).flushBusy = d.flushBusy := rfl
@[simp] theorem telD_media (o n : Nat) : (telD d o n).media = d.media := rfl
@[simp] theorem telD_dir (o n : Nat) : (telD d o n).dir = d.dir := rfl
@[simp] theorem telD_orphans (o n : Nat) : (telD d o n).orphans = d.orphans := rfl
@[simp] theorem telD_dirWait (o n : Nat) : (telD d o n).dirWait = d.dirWait := rfl
@[simp] theorem telD_lineWait (o n : Nat) : (telD d o n).lineWait = d.lineWait := rfl
@[simp] theorem telD_dirFlush (o n : Nat) : (telD d o n).dirFlush = d.dirFlush := rfl
@[simp] theorem telD_dirWalk (o n : Nat) : (telD d o n).dirWalk = d.dirWalk := rfl
@[simp] theorem telD_dirProbe (o n : Nat) : (telD d o n).dirProbe = d.dirProbe := rfl
@[simp] theorem telD_cores (o n : Nat) : (telD d o n).cores = d.cores := rfl
@[simp] theorem telD_cmds (o n : Nat) : (telD d o n).cmds = d.cmds := rfl
@[simp] theorem telD_order (o n : Nat) : (telD d o n).order = d.order := rfl
@[simp] theorem telD_served (o n : Nat) : (telD d o n).served = d.served := rfl
@[simp] theorem telD_unitTag (o n : Nat) : (telD d o n).unitTag = d.unitTag := rfl
@[simp] theorem telD_tagLast (o n : Nat) : (telD d o n).tagLast = d.tagLast := rfl
@[simp] theorem telD_tagWait (o n : Nat) : (telD d o n).tagWait = d.tagWait := rfl
@[simp] theorem telD_tagHeld (o n : Nat) : (telD d o n).tagHeld = d.tagHeld := rfl
@[simp] theorem telD_runq (o n : Nat) : (telD d o n).runq = d.runq := rfl
@[simp] theorem telD_fab (o n : Nat) : (telD d o n).fab = d.fab := rfl
@[simp] theorem telD_reads (o n : Nat) : (telD d o n).reads = d.reads := rfl
@[simp] theorem telD_fwdReads (o n : Nat) : (telD d o n).fwdReads = d.fwdReads := rfl
@[simp] theorem telD_portReqs (o n : Nat) : (telD d o n).portReqs = d.portReqs := rfl
@[simp] theorem telD_fabNext (o n : Nat) : (telD d o n).fabNext = d.fabNext := rfl
@[simp] theorem telD_acks (o n : Nat) : (telD d o n).acks = d.acks := rfl
@[simp] theorem telD_reqs (o n : Nat) : (telD d o n).reqs = d.reqs := rfl
@[simp] theorem telD_dedup (o n : Nat) : (telD d o n).dedup = d.dedup := rfl
@[simp] theorem telD_entries (o n : Nat) : (telD d o n).entries = d.entries := rfl
@[simp] theorem telD_groups (o n : Nat) : (telD d o n).groups = d.groups := rfl
@[simp] theorem telD_combs (o n : Nat) : (telD d o n).combs = d.combs := rfl
@[simp] theorem telD_ports (o n : Nat) : (telD d o n).ports = d.ports := rfl
@[simp] theorem telD_links (o n : Nat) : (telD d o n).links = d.links := rfl
@[simp] theorem telD_sw (o n : Nat) : (telD d o n).sw = d.sw := rfl
@[simp] theorem telD_arbs (o n : Nat) : (telD d o n).arbs = d.arbs := rfl
@[simp] theorem telD_ecc (o n : Nat) : (telD d o n).ecc = d.ecc := rfl
@[simp] theorem telD_mbr (o n : Nat) : (telD d o n).mbr = d.mbr := rfl
@[simp] theorem telD_rates (o n : Nat) : (telD d o n).rates = d.rates := rfl
@[simp] theorem telD_out (o n : Nat) : (telD d o n).out = d.out := rfl

/-! ### telF -/

@[simp] theorem telF_now (f o n : Nat) : (telF d f o n).now = d.now := rfl
@[simp] theorem telF_cal (f o n : Nat) : (telF d f o n).cal = d.cal := rfl
@[simp] theorem telF_free (f o n : Nat) : (telF d f o n).free = d.free := rfl
@[simp] theorem telF_boot (f o n : Nat) : (telF d f o n).boot = d.boot := rfl
@[simp] theorem telF_regs (f o n : Nat) : (telF d f o n).regs = d.regs := rfl
@[simp] theorem telF_force (f o n : Nat) : (telF d f o n).force = d.force := rfl
@[simp] theorem telF_bus (f o n : Nat) : (telF d f o n).bus = d.bus := rfl
@[simp] theorem telF_tel (f o n : Nat) : (telF d f o n).tel = tput d.tel (0x500000 + f * 0x100000 + o) ((tget d.tel (0x500000 + f * 0x100000 + o) 0 + n) % 2 ^ 64) := rfl
@[simp] theorem telF_mbx (f o n : Nat) : (telF d f o n).mbx = d.mbx := rfl
@[simp] theorem telF_svcNext (f o n : Nat) : (telF d f o n).svcNext = d.svcNext := rfl
@[simp] theorem telF_withdrawing (f o n : Nat) : (telF d f o n).withdrawing = d.withdrawing := rfl
@[simp] theorem telF_takeable (f o n : Nat) : (telF d f o n).takeable = d.takeable := rfl
@[simp] theorem telF_ctxs (f o n : Nat) : (telF d f o n).ctxs = d.ctxs := rfl
@[simp] theorem telF_regions (f o n : Nat) : (telF d f o n).regions = d.regions := rfl
@[simp] theorem telF_galleys (f o n : Nat) : (telF d f o n).galleys = d.galleys := rfl
@[simp] theorem telF_slots (f o n : Nat) : (telF d f o n).slots = d.slots := rfl
@[simp] theorem telF_formes (f o n : Nat) : (telF d f o n).formes = d.formes := rfl
@[simp] theorem telF_objs (f o n : Nat) : (telF d f o n).objs = d.objs := rfl
@[simp] theorem telF_errq (f o n : Nat) : (telF d f o n).errq = d.errq := rfl
@[simp] theorem telF_pages (f o n : Nat) : (telF d f o n).pages = d.pages := rfl
@[simp] theorem telF_replicas (f o n : Nat) : (telF d f o n).replicas = d.replicas := rfl
@[simp] theorem telF_plv (f o n : Nat) : (telF d f o n).plv = d.plv := rfl
@[simp] theorem telF_counts (f o n : Nat) : (telF d f o n).counts = d.counts := rfl
@[simp] theorem telF_sweep (f o n : Nat) : (telF d f o n).sweep = d.sweep := rfl
@[simp] theorem telF_queue (f o n : Nat) : (telF d f o n).queue = d.queue := rfl
@[simp] theorem telF_moves (f o n : Nat) : (telF d f o n).moves = d.moves := rfl
@[simp] theorem telF_touches (f o n : Nat) : (telF d f o n).touches = d.touches := rfl
@[simp] theorem telF_touched (f o n : Nat) : (telF d f o n).touched = d.touched := rfl
@[simp] theorem telF_packJobs (f o n : Nat) : (telF d f o n).packJobs = d.packJobs := rfl
@[simp] theorem telF_packs (f o n : Nat) : (telF d f o n).packs = d.packs := rfl
@[simp] theorem telF_mem (f o n : Nat) : (telF d f o n).mem = d.mem := rfl
@[simp] theorem telF_cache (f o n : Nat) : (telF d f o n).cache = d.cache := rfl
@[simp] theorem telF_recent (f o n : Nat) : (telF d f o n).recent = d.recent := rfl
@[simp] theorem telF_pathBad (f o n : Nat) : (telF d f o n).pathBad = d.pathBad := rfl
@[simp] theorem telF_sliceFlips (f o n : Nat) : (telF d f o n).sliceFlips = d.sliceFlips := rfl
@[simp] theorem telF_dirFlips (f o n : Nat) : (telF d f o n).dirFlips = d.dirFlips := rfl
@[simp] theorem telF_flushBusy (f o n : Nat) : (telF d f o n).flushBusy = d.flushBusy := rfl
@[simp] theorem telF_media (f o n : Nat) : (telF d f o n).media = d.media := rfl
@[simp] theorem telF_dir (f o n : Nat) : (telF d f o n).dir = d.dir := rfl
@[simp] theorem telF_orphans (f o n : Nat) : (telF d f o n).orphans = d.orphans := rfl
@[simp] theorem telF_dirWait (f o n : Nat) : (telF d f o n).dirWait = d.dirWait := rfl
@[simp] theorem telF_lineWait (f o n : Nat) : (telF d f o n).lineWait = d.lineWait := rfl
@[simp] theorem telF_dirFlush (f o n : Nat) : (telF d f o n).dirFlush = d.dirFlush := rfl
@[simp] theorem telF_dirWalk (f o n : Nat) : (telF d f o n).dirWalk = d.dirWalk := rfl
@[simp] theorem telF_dirProbe (f o n : Nat) : (telF d f o n).dirProbe = d.dirProbe := rfl
@[simp] theorem telF_cores (f o n : Nat) : (telF d f o n).cores = d.cores := rfl
@[simp] theorem telF_cmds (f o n : Nat) : (telF d f o n).cmds = d.cmds := rfl
@[simp] theorem telF_order (f o n : Nat) : (telF d f o n).order = d.order := rfl
@[simp] theorem telF_served (f o n : Nat) : (telF d f o n).served = d.served := rfl
@[simp] theorem telF_unitTag (f o n : Nat) : (telF d f o n).unitTag = d.unitTag := rfl
@[simp] theorem telF_tagLast (f o n : Nat) : (telF d f o n).tagLast = d.tagLast := rfl
@[simp] theorem telF_tagWait (f o n : Nat) : (telF d f o n).tagWait = d.tagWait := rfl
@[simp] theorem telF_tagHeld (f o n : Nat) : (telF d f o n).tagHeld = d.tagHeld := rfl
@[simp] theorem telF_runq (f o n : Nat) : (telF d f o n).runq = d.runq := rfl
@[simp] theorem telF_fab (f o n : Nat) : (telF d f o n).fab = d.fab := rfl
@[simp] theorem telF_reads (f o n : Nat) : (telF d f o n).reads = d.reads := rfl
@[simp] theorem telF_fwdReads (f o n : Nat) : (telF d f o n).fwdReads = d.fwdReads := rfl
@[simp] theorem telF_portReqs (f o n : Nat) : (telF d f o n).portReqs = d.portReqs := rfl
@[simp] theorem telF_fabNext (f o n : Nat) : (telF d f o n).fabNext = d.fabNext := rfl
@[simp] theorem telF_acks (f o n : Nat) : (telF d f o n).acks = d.acks := rfl
@[simp] theorem telF_reqs (f o n : Nat) : (telF d f o n).reqs = d.reqs := rfl
@[simp] theorem telF_dedup (f o n : Nat) : (telF d f o n).dedup = d.dedup := rfl
@[simp] theorem telF_entries (f o n : Nat) : (telF d f o n).entries = d.entries := rfl
@[simp] theorem telF_groups (f o n : Nat) : (telF d f o n).groups = d.groups := rfl
@[simp] theorem telF_combs (f o n : Nat) : (telF d f o n).combs = d.combs := rfl
@[simp] theorem telF_ports (f o n : Nat) : (telF d f o n).ports = d.ports := rfl
@[simp] theorem telF_links (f o n : Nat) : (telF d f o n).links = d.links := rfl
@[simp] theorem telF_sw (f o n : Nat) : (telF d f o n).sw = d.sw := rfl
@[simp] theorem telF_arbs (f o n : Nat) : (telF d f o n).arbs = d.arbs := rfl
@[simp] theorem telF_ecc (f o n : Nat) : (telF d f o n).ecc = d.ecc := rfl
@[simp] theorem telF_mbr (f o n : Nat) : (telF d f o n).mbr = d.mbr := rfl
@[simp] theorem telF_rates (f o n : Nat) : (telF d f o n).rates = d.rates := rfl
@[simp] theorem telF_out (f o n : Nat) : (telF d f o n).out = d.out := rfl

/-! ### emit -/

@[simp] theorem emit_now (o : Out) : (emit d o).now = d.now := rfl
@[simp] theorem emit_cal (o : Out) : (emit d o).cal = d.cal := rfl
@[simp] theorem emit_free (o : Out) : (emit d o).free = d.free := rfl
@[simp] theorem emit_boot (o : Out) : (emit d o).boot = d.boot := rfl
@[simp] theorem emit_regs (o : Out) : (emit d o).regs = d.regs := rfl
@[simp] theorem emit_force (o : Out) : (emit d o).force = d.force := rfl
@[simp] theorem emit_bus (o : Out) : (emit d o).bus = d.bus := rfl
@[simp] theorem emit_tel (o : Out) : (emit d o).tel = d.tel := rfl
@[simp] theorem emit_mbx (o : Out) : (emit d o).mbx = d.mbx := rfl
@[simp] theorem emit_svcNext (o : Out) : (emit d o).svcNext = d.svcNext := rfl
@[simp] theorem emit_withdrawing (o : Out) : (emit d o).withdrawing = d.withdrawing := rfl
@[simp] theorem emit_takeable (o : Out) : (emit d o).takeable = d.takeable := rfl
@[simp] theorem emit_ctxs (o : Out) : (emit d o).ctxs = d.ctxs := rfl
@[simp] theorem emit_regions (o : Out) : (emit d o).regions = d.regions := rfl
@[simp] theorem emit_galleys (o : Out) : (emit d o).galleys = d.galleys := rfl
@[simp] theorem emit_slots (o : Out) : (emit d o).slots = d.slots := rfl
@[simp] theorem emit_formes (o : Out) : (emit d o).formes = d.formes := rfl
@[simp] theorem emit_objs (o : Out) : (emit d o).objs = d.objs := rfl
@[simp] theorem emit_errq (o : Out) : (emit d o).errq = d.errq := rfl
@[simp] theorem emit_pages (o : Out) : (emit d o).pages = d.pages := rfl
@[simp] theorem emit_replicas (o : Out) : (emit d o).replicas = d.replicas := rfl
@[simp] theorem emit_plv (o : Out) : (emit d o).plv = d.plv := rfl
@[simp] theorem emit_counts (o : Out) : (emit d o).counts = d.counts := rfl
@[simp] theorem emit_sweep (o : Out) : (emit d o).sweep = d.sweep := rfl
@[simp] theorem emit_queue (o : Out) : (emit d o).queue = d.queue := rfl
@[simp] theorem emit_moves (o : Out) : (emit d o).moves = d.moves := rfl
@[simp] theorem emit_touches (o : Out) : (emit d o).touches = d.touches := rfl
@[simp] theorem emit_touched (o : Out) : (emit d o).touched = d.touched := rfl
@[simp] theorem emit_packJobs (o : Out) : (emit d o).packJobs = d.packJobs := rfl
@[simp] theorem emit_packs (o : Out) : (emit d o).packs = d.packs := rfl
@[simp] theorem emit_mem (o : Out) : (emit d o).mem = d.mem := rfl
@[simp] theorem emit_cache (o : Out) : (emit d o).cache = d.cache := rfl
@[simp] theorem emit_recent (o : Out) : (emit d o).recent = d.recent := rfl
@[simp] theorem emit_pathBad (o : Out) : (emit d o).pathBad = d.pathBad := rfl
@[simp] theorem emit_sliceFlips (o : Out) : (emit d o).sliceFlips = d.sliceFlips := rfl
@[simp] theorem emit_dirFlips (o : Out) : (emit d o).dirFlips = d.dirFlips := rfl
@[simp] theorem emit_flushBusy (o : Out) : (emit d o).flushBusy = d.flushBusy := rfl
@[simp] theorem emit_media (o : Out) : (emit d o).media = d.media := rfl
@[simp] theorem emit_dir (o : Out) : (emit d o).dir = d.dir := rfl
@[simp] theorem emit_orphans (o : Out) : (emit d o).orphans = d.orphans := rfl
@[simp] theorem emit_dirWait (o : Out) : (emit d o).dirWait = d.dirWait := rfl
@[simp] theorem emit_lineWait (o : Out) : (emit d o).lineWait = d.lineWait := rfl
@[simp] theorem emit_dirFlush (o : Out) : (emit d o).dirFlush = d.dirFlush := rfl
@[simp] theorem emit_dirWalk (o : Out) : (emit d o).dirWalk = d.dirWalk := rfl
@[simp] theorem emit_dirProbe (o : Out) : (emit d o).dirProbe = d.dirProbe := rfl
@[simp] theorem emit_cores (o : Out) : (emit d o).cores = d.cores := rfl
@[simp] theorem emit_cmds (o : Out) : (emit d o).cmds = d.cmds := rfl
@[simp] theorem emit_order (o : Out) : (emit d o).order = d.order := rfl
@[simp] theorem emit_served (o : Out) : (emit d o).served = d.served := rfl
@[simp] theorem emit_unitTag (o : Out) : (emit d o).unitTag = d.unitTag := rfl
@[simp] theorem emit_tagLast (o : Out) : (emit d o).tagLast = d.tagLast := rfl
@[simp] theorem emit_tagWait (o : Out) : (emit d o).tagWait = d.tagWait := rfl
@[simp] theorem emit_tagHeld (o : Out) : (emit d o).tagHeld = d.tagHeld := rfl
@[simp] theorem emit_runq (o : Out) : (emit d o).runq = d.runq := rfl
@[simp] theorem emit_fab (o : Out) : (emit d o).fab = d.fab := rfl
@[simp] theorem emit_reads (o : Out) : (emit d o).reads = d.reads := rfl
@[simp] theorem emit_fwdReads (o : Out) : (emit d o).fwdReads = d.fwdReads := rfl
@[simp] theorem emit_portReqs (o : Out) : (emit d o).portReqs = d.portReqs := rfl
@[simp] theorem emit_fabNext (o : Out) : (emit d o).fabNext = d.fabNext := rfl
@[simp] theorem emit_acks (o : Out) : (emit d o).acks = d.acks := rfl
@[simp] theorem emit_reqs (o : Out) : (emit d o).reqs = d.reqs := rfl
@[simp] theorem emit_dedup (o : Out) : (emit d o).dedup = d.dedup := rfl
@[simp] theorem emit_entries (o : Out) : (emit d o).entries = d.entries := rfl
@[simp] theorem emit_groups (o : Out) : (emit d o).groups = d.groups := rfl
@[simp] theorem emit_combs (o : Out) : (emit d o).combs = d.combs := rfl
@[simp] theorem emit_ports (o : Out) : (emit d o).ports = d.ports := rfl
@[simp] theorem emit_links (o : Out) : (emit d o).links = d.links := rfl
@[simp] theorem emit_sw (o : Out) : (emit d o).sw = d.sw := rfl
@[simp] theorem emit_arbs (o : Out) : (emit d o).arbs = d.arbs := rfl
@[simp] theorem emit_ecc (o : Out) : (emit d o).ecc = d.ecc := rfl
@[simp] theorem emit_mbr (o : Out) : (emit d o).mbr = d.mbr := rfl
@[simp] theorem emit_rates (o : Out) : (emit d o).rates = d.rates := rfl
@[simp] theorem emit_out (o : Out) : (emit d o).out = o :: d.out := rfl

/-! ### useFree -/

@[simp] theorem useFree_now : (useFree d).now = d.now := rfl
@[simp] theorem useFree_cal : (useFree d).cal = d.cal := rfl
@[simp] theorem useFree_free : (useFree d).free = d.free + 1 := rfl
@[simp] theorem useFree_boot : (useFree d).boot = d.boot := rfl
@[simp] theorem useFree_regs : (useFree d).regs = d.regs := rfl
@[simp] theorem useFree_force : (useFree d).force = d.force := rfl
@[simp] theorem useFree_bus : (useFree d).bus = d.bus := rfl
@[simp] theorem useFree_tel : (useFree d).tel = d.tel := rfl
@[simp] theorem useFree_mbx : (useFree d).mbx = d.mbx := rfl
@[simp] theorem useFree_svcNext : (useFree d).svcNext = d.svcNext := rfl
@[simp] theorem useFree_withdrawing : (useFree d).withdrawing = d.withdrawing := rfl
@[simp] theorem useFree_takeable : (useFree d).takeable = d.takeable := rfl
@[simp] theorem useFree_ctxs : (useFree d).ctxs = d.ctxs := rfl
@[simp] theorem useFree_regions : (useFree d).regions = d.regions := rfl
@[simp] theorem useFree_galleys : (useFree d).galleys = d.galleys := rfl
@[simp] theorem useFree_slots : (useFree d).slots = d.slots := rfl
@[simp] theorem useFree_formes : (useFree d).formes = d.formes := rfl
@[simp] theorem useFree_objs : (useFree d).objs = d.objs := rfl
@[simp] theorem useFree_errq : (useFree d).errq = d.errq := rfl
@[simp] theorem useFree_pages : (useFree d).pages = d.pages := rfl
@[simp] theorem useFree_replicas : (useFree d).replicas = d.replicas := rfl
@[simp] theorem useFree_plv : (useFree d).plv = d.plv := rfl
@[simp] theorem useFree_counts : (useFree d).counts = d.counts := rfl
@[simp] theorem useFree_sweep : (useFree d).sweep = d.sweep := rfl
@[simp] theorem useFree_queue : (useFree d).queue = d.queue := rfl
@[simp] theorem useFree_moves : (useFree d).moves = d.moves := rfl
@[simp] theorem useFree_touches : (useFree d).touches = d.touches := rfl
@[simp] theorem useFree_touched : (useFree d).touched = d.touched := rfl
@[simp] theorem useFree_packJobs : (useFree d).packJobs = d.packJobs := rfl
@[simp] theorem useFree_packs : (useFree d).packs = d.packs := rfl
@[simp] theorem useFree_mem : (useFree d).mem = d.mem := rfl
@[simp] theorem useFree_cache : (useFree d).cache = d.cache := rfl
@[simp] theorem useFree_recent : (useFree d).recent = d.recent := rfl
@[simp] theorem useFree_pathBad : (useFree d).pathBad = d.pathBad := rfl
@[simp] theorem useFree_sliceFlips : (useFree d).sliceFlips = d.sliceFlips := rfl
@[simp] theorem useFree_dirFlips : (useFree d).dirFlips = d.dirFlips := rfl
@[simp] theorem useFree_flushBusy : (useFree d).flushBusy = d.flushBusy := rfl
@[simp] theorem useFree_media : (useFree d).media = d.media := rfl
@[simp] theorem useFree_dir : (useFree d).dir = d.dir := rfl
@[simp] theorem useFree_orphans : (useFree d).orphans = d.orphans := rfl
@[simp] theorem useFree_dirWait : (useFree d).dirWait = d.dirWait := rfl
@[simp] theorem useFree_lineWait : (useFree d).lineWait = d.lineWait := rfl
@[simp] theorem useFree_dirFlush : (useFree d).dirFlush = d.dirFlush := rfl
@[simp] theorem useFree_dirWalk : (useFree d).dirWalk = d.dirWalk := rfl
@[simp] theorem useFree_dirProbe : (useFree d).dirProbe = d.dirProbe := rfl
@[simp] theorem useFree_cores : (useFree d).cores = d.cores := rfl
@[simp] theorem useFree_cmds : (useFree d).cmds = d.cmds := rfl
@[simp] theorem useFree_order : (useFree d).order = d.order := rfl
@[simp] theorem useFree_served : (useFree d).served = d.served := rfl
@[simp] theorem useFree_unitTag : (useFree d).unitTag = d.unitTag := rfl
@[simp] theorem useFree_tagLast : (useFree d).tagLast = d.tagLast := rfl
@[simp] theorem useFree_tagWait : (useFree d).tagWait = d.tagWait := rfl
@[simp] theorem useFree_tagHeld : (useFree d).tagHeld = d.tagHeld := rfl
@[simp] theorem useFree_runq : (useFree d).runq = d.runq := rfl
@[simp] theorem useFree_fab : (useFree d).fab = d.fab := rfl
@[simp] theorem useFree_reads : (useFree d).reads = d.reads := rfl
@[simp] theorem useFree_fwdReads : (useFree d).fwdReads = d.fwdReads := rfl
@[simp] theorem useFree_portReqs : (useFree d).portReqs = d.portReqs := rfl
@[simp] theorem useFree_fabNext : (useFree d).fabNext = d.fabNext := rfl
@[simp] theorem useFree_acks : (useFree d).acks = d.acks := rfl
@[simp] theorem useFree_reqs : (useFree d).reqs = d.reqs := rfl
@[simp] theorem useFree_dedup : (useFree d).dedup = d.dedup := rfl
@[simp] theorem useFree_entries : (useFree d).entries = d.entries := rfl
@[simp] theorem useFree_groups : (useFree d).groups = d.groups := rfl
@[simp] theorem useFree_combs : (useFree d).combs = d.combs := rfl
@[simp] theorem useFree_ports : (useFree d).ports = d.ports := rfl
@[simp] theorem useFree_links : (useFree d).links = d.links := rfl
@[simp] theorem useFree_sw : (useFree d).sw = d.sw := rfl
@[simp] theorem useFree_arbs : (useFree d).arbs = d.arbs := rfl
@[simp] theorem useFree_ecc : (useFree d).ecc = d.ecc := rfl
@[simp] theorem useFree_mbr : (useFree d).mbr = d.mbr := rfl
@[simp] theorem useFree_rates : (useFree d).rates = d.rates := rfl
@[simp] theorem useFree_out : (useFree d).out = d.out := rfl

/-! ### modCmd -/

@[simp] theorem modCmd_now (k : Nat) (u : Cmd → Cmd) : (modCmd d k u).now = d.now := rfl
@[simp] theorem modCmd_cal (k : Nat) (u : Cmd → Cmd) : (modCmd d k u).cal = d.cal := rfl
@[simp] theorem modCmd_free (k : Nat) (u : Cmd → Cmd) : (modCmd d k u).free = d.free := rfl
@[simp] theorem modCmd_boot (k : Nat) (u : Cmd → Cmd) : (modCmd d k u).boot = d.boot := rfl
@[simp] theorem modCmd_regs (k : Nat) (u : Cmd → Cmd) : (modCmd d k u).regs = d.regs := rfl
@[simp] theorem modCmd_force (k : Nat) (u : Cmd → Cmd) : (modCmd d k u).force = d.force := rfl
@[simp] theorem modCmd_bus (k : Nat) (u : Cmd → Cmd) : (modCmd d k u).bus = d.bus := rfl
@[simp] theorem modCmd_tel (k : Nat) (u : Cmd → Cmd) : (modCmd d k u).tel = d.tel := rfl
@[simp] theorem modCmd_mbx (k : Nat) (u : Cmd → Cmd) : (modCmd d k u).mbx = d.mbx := rfl
@[simp] theorem modCmd_svcNext (k : Nat) (u : Cmd → Cmd) : (modCmd d k u).svcNext = d.svcNext := rfl
@[simp] theorem modCmd_withdrawing (k : Nat) (u : Cmd → Cmd) : (modCmd d k u).withdrawing = d.withdrawing := rfl
@[simp] theorem modCmd_takeable (k : Nat) (u : Cmd → Cmd) : (modCmd d k u).takeable = d.takeable := rfl
@[simp] theorem modCmd_ctxs (k : Nat) (u : Cmd → Cmd) : (modCmd d k u).ctxs = d.ctxs := rfl
@[simp] theorem modCmd_regions (k : Nat) (u : Cmd → Cmd) : (modCmd d k u).regions = d.regions := rfl
@[simp] theorem modCmd_galleys (k : Nat) (u : Cmd → Cmd) : (modCmd d k u).galleys = d.galleys := rfl
@[simp] theorem modCmd_slots (k : Nat) (u : Cmd → Cmd) : (modCmd d k u).slots = d.slots := rfl
@[simp] theorem modCmd_formes (k : Nat) (u : Cmd → Cmd) : (modCmd d k u).formes = d.formes := rfl
@[simp] theorem modCmd_objs (k : Nat) (u : Cmd → Cmd) : (modCmd d k u).objs = d.objs := rfl
@[simp] theorem modCmd_errq (k : Nat) (u : Cmd → Cmd) : (modCmd d k u).errq = d.errq := rfl
@[simp] theorem modCmd_pages (k : Nat) (u : Cmd → Cmd) : (modCmd d k u).pages = d.pages := rfl
@[simp] theorem modCmd_replicas (k : Nat) (u : Cmd → Cmd) : (modCmd d k u).replicas = d.replicas := rfl
@[simp] theorem modCmd_plv (k : Nat) (u : Cmd → Cmd) : (modCmd d k u).plv = d.plv := rfl
@[simp] theorem modCmd_counts (k : Nat) (u : Cmd → Cmd) : (modCmd d k u).counts = d.counts := rfl
@[simp] theorem modCmd_sweep (k : Nat) (u : Cmd → Cmd) : (modCmd d k u).sweep = d.sweep := rfl
@[simp] theorem modCmd_queue (k : Nat) (u : Cmd → Cmd) : (modCmd d k u).queue = d.queue := rfl
@[simp] theorem modCmd_moves (k : Nat) (u : Cmd → Cmd) : (modCmd d k u).moves = d.moves := rfl
@[simp] theorem modCmd_touches (k : Nat) (u : Cmd → Cmd) : (modCmd d k u).touches = d.touches := rfl
@[simp] theorem modCmd_touched (k : Nat) (u : Cmd → Cmd) : (modCmd d k u).touched = d.touched := rfl
@[simp] theorem modCmd_packJobs (k : Nat) (u : Cmd → Cmd) : (modCmd d k u).packJobs = d.packJobs := rfl
@[simp] theorem modCmd_packs (k : Nat) (u : Cmd → Cmd) : (modCmd d k u).packs = d.packs := rfl
@[simp] theorem modCmd_mem (k : Nat) (u : Cmd → Cmd) : (modCmd d k u).mem = d.mem := rfl
@[simp] theorem modCmd_cache (k : Nat) (u : Cmd → Cmd) : (modCmd d k u).cache = d.cache := rfl
@[simp] theorem modCmd_recent (k : Nat) (u : Cmd → Cmd) : (modCmd d k u).recent = d.recent := rfl
@[simp] theorem modCmd_pathBad (k : Nat) (u : Cmd → Cmd) : (modCmd d k u).pathBad = d.pathBad := rfl
@[simp] theorem modCmd_sliceFlips (k : Nat) (u : Cmd → Cmd) : (modCmd d k u).sliceFlips = d.sliceFlips := rfl
@[simp] theorem modCmd_dirFlips (k : Nat) (u : Cmd → Cmd) : (modCmd d k u).dirFlips = d.dirFlips := rfl
@[simp] theorem modCmd_flushBusy (k : Nat) (u : Cmd → Cmd) : (modCmd d k u).flushBusy = d.flushBusy := rfl
@[simp] theorem modCmd_media (k : Nat) (u : Cmd → Cmd) : (modCmd d k u).media = d.media := rfl
@[simp] theorem modCmd_dir (k : Nat) (u : Cmd → Cmd) : (modCmd d k u).dir = d.dir := rfl
@[simp] theorem modCmd_orphans (k : Nat) (u : Cmd → Cmd) : (modCmd d k u).orphans = d.orphans := rfl
@[simp] theorem modCmd_dirWait (k : Nat) (u : Cmd → Cmd) : (modCmd d k u).dirWait = d.dirWait := rfl
@[simp] theorem modCmd_lineWait (k : Nat) (u : Cmd → Cmd) : (modCmd d k u).lineWait = d.lineWait := rfl
@[simp] theorem modCmd_dirFlush (k : Nat) (u : Cmd → Cmd) : (modCmd d k u).dirFlush = d.dirFlush := rfl
@[simp] theorem modCmd_dirWalk (k : Nat) (u : Cmd → Cmd) : (modCmd d k u).dirWalk = d.dirWalk := rfl
@[simp] theorem modCmd_dirProbe (k : Nat) (u : Cmd → Cmd) : (modCmd d k u).dirProbe = d.dirProbe := rfl
@[simp] theorem modCmd_cores (k : Nat) (u : Cmd → Cmd) : (modCmd d k u).cores = d.cores := rfl
@[simp] theorem modCmd_cmds (k : Nat) (u : Cmd → Cmd) : (modCmd d k u).cmds = tmod d.cmds k u := rfl
@[simp] theorem modCmd_order (k : Nat) (u : Cmd → Cmd) : (modCmd d k u).order = d.order := rfl
@[simp] theorem modCmd_served (k : Nat) (u : Cmd → Cmd) : (modCmd d k u).served = d.served := rfl
@[simp] theorem modCmd_unitTag (k : Nat) (u : Cmd → Cmd) : (modCmd d k u).unitTag = d.unitTag := rfl
@[simp] theorem modCmd_tagLast (k : Nat) (u : Cmd → Cmd) : (modCmd d k u).tagLast = d.tagLast := rfl
@[simp] theorem modCmd_tagWait (k : Nat) (u : Cmd → Cmd) : (modCmd d k u).tagWait = d.tagWait := rfl
@[simp] theorem modCmd_tagHeld (k : Nat) (u : Cmd → Cmd) : (modCmd d k u).tagHeld = d.tagHeld := rfl
@[simp] theorem modCmd_runq (k : Nat) (u : Cmd → Cmd) : (modCmd d k u).runq = d.runq := rfl
@[simp] theorem modCmd_fab (k : Nat) (u : Cmd → Cmd) : (modCmd d k u).fab = d.fab := rfl
@[simp] theorem modCmd_reads (k : Nat) (u : Cmd → Cmd) : (modCmd d k u).reads = d.reads := rfl
@[simp] theorem modCmd_fwdReads (k : Nat) (u : Cmd → Cmd) : (modCmd d k u).fwdReads = d.fwdReads := rfl
@[simp] theorem modCmd_portReqs (k : Nat) (u : Cmd → Cmd) : (modCmd d k u).portReqs = d.portReqs := rfl
@[simp] theorem modCmd_fabNext (k : Nat) (u : Cmd → Cmd) : (modCmd d k u).fabNext = d.fabNext := rfl
@[simp] theorem modCmd_acks (k : Nat) (u : Cmd → Cmd) : (modCmd d k u).acks = d.acks := rfl
@[simp] theorem modCmd_reqs (k : Nat) (u : Cmd → Cmd) : (modCmd d k u).reqs = d.reqs := rfl
@[simp] theorem modCmd_dedup (k : Nat) (u : Cmd → Cmd) : (modCmd d k u).dedup = d.dedup := rfl
@[simp] theorem modCmd_entries (k : Nat) (u : Cmd → Cmd) : (modCmd d k u).entries = d.entries := rfl
@[simp] theorem modCmd_groups (k : Nat) (u : Cmd → Cmd) : (modCmd d k u).groups = d.groups := rfl
@[simp] theorem modCmd_combs (k : Nat) (u : Cmd → Cmd) : (modCmd d k u).combs = d.combs := rfl
@[simp] theorem modCmd_ports (k : Nat) (u : Cmd → Cmd) : (modCmd d k u).ports = d.ports := rfl
@[simp] theorem modCmd_links (k : Nat) (u : Cmd → Cmd) : (modCmd d k u).links = d.links := rfl
@[simp] theorem modCmd_sw (k : Nat) (u : Cmd → Cmd) : (modCmd d k u).sw = d.sw := rfl
@[simp] theorem modCmd_arbs (k : Nat) (u : Cmd → Cmd) : (modCmd d k u).arbs = d.arbs := rfl
@[simp] theorem modCmd_ecc (k : Nat) (u : Cmd → Cmd) : (modCmd d k u).ecc = d.ecc := rfl
@[simp] theorem modCmd_mbr (k : Nat) (u : Cmd → Cmd) : (modCmd d k u).mbr = d.mbr := rfl
@[simp] theorem modCmd_rates (k : Nat) (u : Cmd → Cmd) : (modCmd d k u).rates = d.rates := rfl
@[simp] theorem modCmd_out (k : Nat) (u : Cmd → Cmd) : (modCmd d k u).out = d.out := rfl

/-! ### modGalley -/

@[simp] theorem modGalley_now (c g : Nat) (u : Galley → Galley) : (modGalley d c g u).now = d.now := rfl
@[simp] theorem modGalley_cal (c g : Nat) (u : Galley → Galley) : (modGalley d c g u).cal = d.cal := rfl
@[simp] theorem modGalley_free (c g : Nat) (u : Galley → Galley) : (modGalley d c g u).free = d.free := rfl
@[simp] theorem modGalley_boot (c g : Nat) (u : Galley → Galley) : (modGalley d c g u).boot = d.boot := rfl
@[simp] theorem modGalley_regs (c g : Nat) (u : Galley → Galley) : (modGalley d c g u).regs = d.regs := rfl
@[simp] theorem modGalley_force (c g : Nat) (u : Galley → Galley) : (modGalley d c g u).force = d.force := rfl
@[simp] theorem modGalley_bus (c g : Nat) (u : Galley → Galley) : (modGalley d c g u).bus = d.bus := rfl
@[simp] theorem modGalley_tel (c g : Nat) (u : Galley → Galley) : (modGalley d c g u).tel = d.tel := rfl
@[simp] theorem modGalley_mbx (c g : Nat) (u : Galley → Galley) : (modGalley d c g u).mbx = d.mbx := rfl
@[simp] theorem modGalley_svcNext (c g : Nat) (u : Galley → Galley) : (modGalley d c g u).svcNext = d.svcNext := rfl
@[simp] theorem modGalley_withdrawing (c g : Nat) (u : Galley → Galley) : (modGalley d c g u).withdrawing = d.withdrawing := rfl
@[simp] theorem modGalley_takeable (c g : Nat) (u : Galley → Galley) : (modGalley d c g u).takeable = d.takeable := rfl
@[simp] theorem modGalley_ctxs (c g : Nat) (u : Galley → Galley) : (modGalley d c g u).ctxs = d.ctxs := rfl
@[simp] theorem modGalley_regions (c g : Nat) (u : Galley → Galley) : (modGalley d c g u).regions = d.regions := rfl
@[simp] theorem modGalley_galleys (c g : Nat) (u : Galley → Galley) : (modGalley d c g u).galleys = tmod d.galleys (gkey c g) u := rfl
@[simp] theorem modGalley_slots (c g : Nat) (u : Galley → Galley) : (modGalley d c g u).slots = d.slots := rfl
@[simp] theorem modGalley_formes (c g : Nat) (u : Galley → Galley) : (modGalley d c g u).formes = d.formes := rfl
@[simp] theorem modGalley_objs (c g : Nat) (u : Galley → Galley) : (modGalley d c g u).objs = d.objs := rfl
@[simp] theorem modGalley_errq (c g : Nat) (u : Galley → Galley) : (modGalley d c g u).errq = d.errq := rfl
@[simp] theorem modGalley_pages (c g : Nat) (u : Galley → Galley) : (modGalley d c g u).pages = d.pages := rfl
@[simp] theorem modGalley_replicas (c g : Nat) (u : Galley → Galley) : (modGalley d c g u).replicas = d.replicas := rfl
@[simp] theorem modGalley_plv (c g : Nat) (u : Galley → Galley) : (modGalley d c g u).plv = d.plv := rfl
@[simp] theorem modGalley_counts (c g : Nat) (u : Galley → Galley) : (modGalley d c g u).counts = d.counts := rfl
@[simp] theorem modGalley_sweep (c g : Nat) (u : Galley → Galley) : (modGalley d c g u).sweep = d.sweep := rfl
@[simp] theorem modGalley_queue (c g : Nat) (u : Galley → Galley) : (modGalley d c g u).queue = d.queue := rfl
@[simp] theorem modGalley_moves (c g : Nat) (u : Galley → Galley) : (modGalley d c g u).moves = d.moves := rfl
@[simp] theorem modGalley_touches (c g : Nat) (u : Galley → Galley) : (modGalley d c g u).touches = d.touches := rfl
@[simp] theorem modGalley_touched (c g : Nat) (u : Galley → Galley) : (modGalley d c g u).touched = d.touched := rfl
@[simp] theorem modGalley_packJobs (c g : Nat) (u : Galley → Galley) : (modGalley d c g u).packJobs = d.packJobs := rfl
@[simp] theorem modGalley_packs (c g : Nat) (u : Galley → Galley) : (modGalley d c g u).packs = d.packs := rfl
@[simp] theorem modGalley_mem (c g : Nat) (u : Galley → Galley) : (modGalley d c g u).mem = d.mem := rfl
@[simp] theorem modGalley_cache (c g : Nat) (u : Galley → Galley) : (modGalley d c g u).cache = d.cache := rfl
@[simp] theorem modGalley_recent (c g : Nat) (u : Galley → Galley) : (modGalley d c g u).recent = d.recent := rfl
@[simp] theorem modGalley_pathBad (c g : Nat) (u : Galley → Galley) : (modGalley d c g u).pathBad = d.pathBad := rfl
@[simp] theorem modGalley_sliceFlips (c g : Nat) (u : Galley → Galley) : (modGalley d c g u).sliceFlips = d.sliceFlips := rfl
@[simp] theorem modGalley_dirFlips (c g : Nat) (u : Galley → Galley) : (modGalley d c g u).dirFlips = d.dirFlips := rfl
@[simp] theorem modGalley_flushBusy (c g : Nat) (u : Galley → Galley) : (modGalley d c g u).flushBusy = d.flushBusy := rfl
@[simp] theorem modGalley_media (c g : Nat) (u : Galley → Galley) : (modGalley d c g u).media = d.media := rfl
@[simp] theorem modGalley_dir (c g : Nat) (u : Galley → Galley) : (modGalley d c g u).dir = d.dir := rfl
@[simp] theorem modGalley_orphans (c g : Nat) (u : Galley → Galley) : (modGalley d c g u).orphans = d.orphans := rfl
@[simp] theorem modGalley_dirWait (c g : Nat) (u : Galley → Galley) : (modGalley d c g u).dirWait = d.dirWait := rfl
@[simp] theorem modGalley_lineWait (c g : Nat) (u : Galley → Galley) : (modGalley d c g u).lineWait = d.lineWait := rfl
@[simp] theorem modGalley_dirFlush (c g : Nat) (u : Galley → Galley) : (modGalley d c g u).dirFlush = d.dirFlush := rfl
@[simp] theorem modGalley_dirWalk (c g : Nat) (u : Galley → Galley) : (modGalley d c g u).dirWalk = d.dirWalk := rfl
@[simp] theorem modGalley_dirProbe (c g : Nat) (u : Galley → Galley) : (modGalley d c g u).dirProbe = d.dirProbe := rfl
@[simp] theorem modGalley_cores (c g : Nat) (u : Galley → Galley) : (modGalley d c g u).cores = d.cores := rfl
@[simp] theorem modGalley_cmds (c g : Nat) (u : Galley → Galley) : (modGalley d c g u).cmds = d.cmds := rfl
@[simp] theorem modGalley_order (c g : Nat) (u : Galley → Galley) : (modGalley d c g u).order = d.order := rfl
@[simp] theorem modGalley_served (c g : Nat) (u : Galley → Galley) : (modGalley d c g u).served = d.served := rfl
@[simp] theorem modGalley_unitTag (c g : Nat) (u : Galley → Galley) : (modGalley d c g u).unitTag = d.unitTag := rfl
@[simp] theorem modGalley_tagLast (c g : Nat) (u : Galley → Galley) : (modGalley d c g u).tagLast = d.tagLast := rfl
@[simp] theorem modGalley_tagWait (c g : Nat) (u : Galley → Galley) : (modGalley d c g u).tagWait = d.tagWait := rfl
@[simp] theorem modGalley_tagHeld (c g : Nat) (u : Galley → Galley) : (modGalley d c g u).tagHeld = d.tagHeld := rfl
@[simp] theorem modGalley_runq (c g : Nat) (u : Galley → Galley) : (modGalley d c g u).runq = d.runq := rfl
@[simp] theorem modGalley_fab (c g : Nat) (u : Galley → Galley) : (modGalley d c g u).fab = d.fab := rfl
@[simp] theorem modGalley_reads (c g : Nat) (u : Galley → Galley) : (modGalley d c g u).reads = d.reads := rfl
@[simp] theorem modGalley_fwdReads (c g : Nat) (u : Galley → Galley) : (modGalley d c g u).fwdReads = d.fwdReads := rfl
@[simp] theorem modGalley_portReqs (c g : Nat) (u : Galley → Galley) : (modGalley d c g u).portReqs = d.portReqs := rfl
@[simp] theorem modGalley_fabNext (c g : Nat) (u : Galley → Galley) : (modGalley d c g u).fabNext = d.fabNext := rfl
@[simp] theorem modGalley_acks (c g : Nat) (u : Galley → Galley) : (modGalley d c g u).acks = d.acks := rfl
@[simp] theorem modGalley_reqs (c g : Nat) (u : Galley → Galley) : (modGalley d c g u).reqs = d.reqs := rfl
@[simp] theorem modGalley_dedup (c g : Nat) (u : Galley → Galley) : (modGalley d c g u).dedup = d.dedup := rfl
@[simp] theorem modGalley_entries (c g : Nat) (u : Galley → Galley) : (modGalley d c g u).entries = d.entries := rfl
@[simp] theorem modGalley_groups (c g : Nat) (u : Galley → Galley) : (modGalley d c g u).groups = d.groups := rfl
@[simp] theorem modGalley_combs (c g : Nat) (u : Galley → Galley) : (modGalley d c g u).combs = d.combs := rfl
@[simp] theorem modGalley_ports (c g : Nat) (u : Galley → Galley) : (modGalley d c g u).ports = d.ports := rfl
@[simp] theorem modGalley_links (c g : Nat) (u : Galley → Galley) : (modGalley d c g u).links = d.links := rfl
@[simp] theorem modGalley_sw (c g : Nat) (u : Galley → Galley) : (modGalley d c g u).sw = d.sw := rfl
@[simp] theorem modGalley_arbs (c g : Nat) (u : Galley → Galley) : (modGalley d c g u).arbs = d.arbs := rfl
@[simp] theorem modGalley_ecc (c g : Nat) (u : Galley → Galley) : (modGalley d c g u).ecc = d.ecc := rfl
@[simp] theorem modGalley_mbr (c g : Nat) (u : Galley → Galley) : (modGalley d c g u).mbr = d.mbr := rfl
@[simp] theorem modGalley_rates (c g : Nat) (u : Galley → Galley) : (modGalley d c g u).rates = d.rates := rfl
@[simp] theorem modGalley_out (c g : Nat) (u : Galley → Galley) : (modGalley d c g u).out = d.out := rfl

/-! ### modCtx -/

@[simp] theorem modCtx_now (n : Nat) (u : Ctx → Ctx) : (modCtx d n u).now = d.now := rfl
@[simp] theorem modCtx_cal (n : Nat) (u : Ctx → Ctx) : (modCtx d n u).cal = d.cal := rfl
@[simp] theorem modCtx_free (n : Nat) (u : Ctx → Ctx) : (modCtx d n u).free = d.free := rfl
@[simp] theorem modCtx_boot (n : Nat) (u : Ctx → Ctx) : (modCtx d n u).boot = d.boot := rfl
@[simp] theorem modCtx_regs (n : Nat) (u : Ctx → Ctx) : (modCtx d n u).regs = d.regs := rfl
@[simp] theorem modCtx_force (n : Nat) (u : Ctx → Ctx) : (modCtx d n u).force = d.force := rfl
@[simp] theorem modCtx_bus (n : Nat) (u : Ctx → Ctx) : (modCtx d n u).bus = d.bus := rfl
@[simp] theorem modCtx_tel (n : Nat) (u : Ctx → Ctx) : (modCtx d n u).tel = d.tel := rfl
@[simp] theorem modCtx_mbx (n : Nat) (u : Ctx → Ctx) : (modCtx d n u).mbx = d.mbx := rfl
@[simp] theorem modCtx_svcNext (n : Nat) (u : Ctx → Ctx) : (modCtx d n u).svcNext = d.svcNext := rfl
@[simp] theorem modCtx_withdrawing (n : Nat) (u : Ctx → Ctx) : (modCtx d n u).withdrawing = d.withdrawing := rfl
@[simp] theorem modCtx_takeable (n : Nat) (u : Ctx → Ctx) : (modCtx d n u).takeable = d.takeable := rfl
@[simp] theorem modCtx_ctxs (n : Nat) (u : Ctx → Ctx) : (modCtx d n u).ctxs = tmod d.ctxs n u := rfl
@[simp] theorem modCtx_regions (n : Nat) (u : Ctx → Ctx) : (modCtx d n u).regions = d.regions := rfl
@[simp] theorem modCtx_galleys (n : Nat) (u : Ctx → Ctx) : (modCtx d n u).galleys = d.galleys := rfl
@[simp] theorem modCtx_slots (n : Nat) (u : Ctx → Ctx) : (modCtx d n u).slots = d.slots := rfl
@[simp] theorem modCtx_formes (n : Nat) (u : Ctx → Ctx) : (modCtx d n u).formes = d.formes := rfl
@[simp] theorem modCtx_objs (n : Nat) (u : Ctx → Ctx) : (modCtx d n u).objs = d.objs := rfl
@[simp] theorem modCtx_errq (n : Nat) (u : Ctx → Ctx) : (modCtx d n u).errq = d.errq := rfl
@[simp] theorem modCtx_pages (n : Nat) (u : Ctx → Ctx) : (modCtx d n u).pages = d.pages := rfl
@[simp] theorem modCtx_replicas (n : Nat) (u : Ctx → Ctx) : (modCtx d n u).replicas = d.replicas := rfl
@[simp] theorem modCtx_plv (n : Nat) (u : Ctx → Ctx) : (modCtx d n u).plv = d.plv := rfl
@[simp] theorem modCtx_counts (n : Nat) (u : Ctx → Ctx) : (modCtx d n u).counts = d.counts := rfl
@[simp] theorem modCtx_sweep (n : Nat) (u : Ctx → Ctx) : (modCtx d n u).sweep = d.sweep := rfl
@[simp] theorem modCtx_queue (n : Nat) (u : Ctx → Ctx) : (modCtx d n u).queue = d.queue := rfl
@[simp] theorem modCtx_moves (n : Nat) (u : Ctx → Ctx) : (modCtx d n u).moves = d.moves := rfl
@[simp] theorem modCtx_touches (n : Nat) (u : Ctx → Ctx) : (modCtx d n u).touches = d.touches := rfl
@[simp] theorem modCtx_touched (n : Nat) (u : Ctx → Ctx) : (modCtx d n u).touched = d.touched := rfl
@[simp] theorem modCtx_packJobs (n : Nat) (u : Ctx → Ctx) : (modCtx d n u).packJobs = d.packJobs := rfl
@[simp] theorem modCtx_packs (n : Nat) (u : Ctx → Ctx) : (modCtx d n u).packs = d.packs := rfl
@[simp] theorem modCtx_mem (n : Nat) (u : Ctx → Ctx) : (modCtx d n u).mem = d.mem := rfl
@[simp] theorem modCtx_cache (n : Nat) (u : Ctx → Ctx) : (modCtx d n u).cache = d.cache := rfl
@[simp] theorem modCtx_recent (n : Nat) (u : Ctx → Ctx) : (modCtx d n u).recent = d.recent := rfl
@[simp] theorem modCtx_pathBad (n : Nat) (u : Ctx → Ctx) : (modCtx d n u).pathBad = d.pathBad := rfl
@[simp] theorem modCtx_sliceFlips (n : Nat) (u : Ctx → Ctx) : (modCtx d n u).sliceFlips = d.sliceFlips := rfl
@[simp] theorem modCtx_dirFlips (n : Nat) (u : Ctx → Ctx) : (modCtx d n u).dirFlips = d.dirFlips := rfl
@[simp] theorem modCtx_flushBusy (n : Nat) (u : Ctx → Ctx) : (modCtx d n u).flushBusy = d.flushBusy := rfl
@[simp] theorem modCtx_media (n : Nat) (u : Ctx → Ctx) : (modCtx d n u).media = d.media := rfl
@[simp] theorem modCtx_dir (n : Nat) (u : Ctx → Ctx) : (modCtx d n u).dir = d.dir := rfl
@[simp] theorem modCtx_orphans (n : Nat) (u : Ctx → Ctx) : (modCtx d n u).orphans = d.orphans := rfl
@[simp] theorem modCtx_dirWait (n : Nat) (u : Ctx → Ctx) : (modCtx d n u).dirWait = d.dirWait := rfl
@[simp] theorem modCtx_lineWait (n : Nat) (u : Ctx → Ctx) : (modCtx d n u).lineWait = d.lineWait := rfl
@[simp] theorem modCtx_dirFlush (n : Nat) (u : Ctx → Ctx) : (modCtx d n u).dirFlush = d.dirFlush := rfl
@[simp] theorem modCtx_dirWalk (n : Nat) (u : Ctx → Ctx) : (modCtx d n u).dirWalk = d.dirWalk := rfl
@[simp] theorem modCtx_dirProbe (n : Nat) (u : Ctx → Ctx) : (modCtx d n u).dirProbe = d.dirProbe := rfl
@[simp] theorem modCtx_cores (n : Nat) (u : Ctx → Ctx) : (modCtx d n u).cores = d.cores := rfl
@[simp] theorem modCtx_cmds (n : Nat) (u : Ctx → Ctx) : (modCtx d n u).cmds = d.cmds := rfl
@[simp] theorem modCtx_order (n : Nat) (u : Ctx → Ctx) : (modCtx d n u).order = d.order := rfl
@[simp] theorem modCtx_served (n : Nat) (u : Ctx → Ctx) : (modCtx d n u).served = d.served := rfl
@[simp] theorem modCtx_unitTag (n : Nat) (u : Ctx → Ctx) : (modCtx d n u).unitTag = d.unitTag := rfl
@[simp] theorem modCtx_tagLast (n : Nat) (u : Ctx → Ctx) : (modCtx d n u).tagLast = d.tagLast := rfl
@[simp] theorem modCtx_tagWait (n : Nat) (u : Ctx → Ctx) : (modCtx d n u).tagWait = d.tagWait := rfl
@[simp] theorem modCtx_tagHeld (n : Nat) (u : Ctx → Ctx) : (modCtx d n u).tagHeld = d.tagHeld := rfl
@[simp] theorem modCtx_runq (n : Nat) (u : Ctx → Ctx) : (modCtx d n u).runq = d.runq := rfl
@[simp] theorem modCtx_fab (n : Nat) (u : Ctx → Ctx) : (modCtx d n u).fab = d.fab := rfl
@[simp] theorem modCtx_reads (n : Nat) (u : Ctx → Ctx) : (modCtx d n u).reads = d.reads := rfl
@[simp] theorem modCtx_fwdReads (n : Nat) (u : Ctx → Ctx) : (modCtx d n u).fwdReads = d.fwdReads := rfl
@[simp] theorem modCtx_portReqs (n : Nat) (u : Ctx → Ctx) : (modCtx d n u).portReqs = d.portReqs := rfl
@[simp] theorem modCtx_fabNext (n : Nat) (u : Ctx → Ctx) : (modCtx d n u).fabNext = d.fabNext := rfl
@[simp] theorem modCtx_acks (n : Nat) (u : Ctx → Ctx) : (modCtx d n u).acks = d.acks := rfl
@[simp] theorem modCtx_reqs (n : Nat) (u : Ctx → Ctx) : (modCtx d n u).reqs = d.reqs := rfl
@[simp] theorem modCtx_dedup (n : Nat) (u : Ctx → Ctx) : (modCtx d n u).dedup = d.dedup := rfl
@[simp] theorem modCtx_entries (n : Nat) (u : Ctx → Ctx) : (modCtx d n u).entries = d.entries := rfl
@[simp] theorem modCtx_groups (n : Nat) (u : Ctx → Ctx) : (modCtx d n u).groups = d.groups := rfl
@[simp] theorem modCtx_combs (n : Nat) (u : Ctx → Ctx) : (modCtx d n u).combs = d.combs := rfl
@[simp] theorem modCtx_ports (n : Nat) (u : Ctx → Ctx) : (modCtx d n u).ports = d.ports := rfl
@[simp] theorem modCtx_links (n : Nat) (u : Ctx → Ctx) : (modCtx d n u).links = d.links := rfl
@[simp] theorem modCtx_sw (n : Nat) (u : Ctx → Ctx) : (modCtx d n u).sw = d.sw := rfl
@[simp] theorem modCtx_arbs (n : Nat) (u : Ctx → Ctx) : (modCtx d n u).arbs = d.arbs := rfl
@[simp] theorem modCtx_ecc (n : Nat) (u : Ctx → Ctx) : (modCtx d n u).ecc = d.ecc := rfl
@[simp] theorem modCtx_mbr (n : Nat) (u : Ctx → Ctx) : (modCtx d n u).mbr = d.mbr := rfl
@[simp] theorem modCtx_rates (n : Nat) (u : Ctx → Ctx) : (modCtx d n u).rates = d.rates := rfl
@[simp] theorem modCtx_out (n : Nat) (u : Ctx → Ctx) : (modCtx d n u).out = d.out := rfl

/-! ### setArb -/

@[simp] theorem setArb_now (f a : Nat) (x : Arb) : (setArb d f a x).now = d.now := rfl
@[simp] theorem setArb_cal (f a : Nat) (x : Arb) : (setArb d f a x).cal = d.cal := rfl
@[simp] theorem setArb_free (f a : Nat) (x : Arb) : (setArb d f a x).free = d.free := rfl
@[simp] theorem setArb_boot (f a : Nat) (x : Arb) : (setArb d f a x).boot = d.boot := rfl
@[simp] theorem setArb_regs (f a : Nat) (x : Arb) : (setArb d f a x).regs = d.regs := rfl
@[simp] theorem setArb_force (f a : Nat) (x : Arb) : (setArb d f a x).force = d.force := rfl
@[simp] theorem setArb_bus (f a : Nat) (x : Arb) : (setArb d f a x).bus = d.bus := rfl
@[simp] theorem setArb_tel (f a : Nat) (x : Arb) : (setArb d f a x).tel = d.tel := rfl
@[simp] theorem setArb_mbx (f a : Nat) (x : Arb) : (setArb d f a x).mbx = d.mbx := rfl
@[simp] theorem setArb_svcNext (f a : Nat) (x : Arb) : (setArb d f a x).svcNext = d.svcNext := rfl
@[simp] theorem setArb_withdrawing (f a : Nat) (x : Arb) : (setArb d f a x).withdrawing = d.withdrawing := rfl
@[simp] theorem setArb_takeable (f a : Nat) (x : Arb) : (setArb d f a x).takeable = d.takeable := rfl
@[simp] theorem setArb_ctxs (f a : Nat) (x : Arb) : (setArb d f a x).ctxs = d.ctxs := rfl
@[simp] theorem setArb_regions (f a : Nat) (x : Arb) : (setArb d f a x).regions = d.regions := rfl
@[simp] theorem setArb_galleys (f a : Nat) (x : Arb) : (setArb d f a x).galleys = d.galleys := rfl
@[simp] theorem setArb_slots (f a : Nat) (x : Arb) : (setArb d f a x).slots = d.slots := rfl
@[simp] theorem setArb_formes (f a : Nat) (x : Arb) : (setArb d f a x).formes = d.formes := rfl
@[simp] theorem setArb_objs (f a : Nat) (x : Arb) : (setArb d f a x).objs = d.objs := rfl
@[simp] theorem setArb_errq (f a : Nat) (x : Arb) : (setArb d f a x).errq = d.errq := rfl
@[simp] theorem setArb_pages (f a : Nat) (x : Arb) : (setArb d f a x).pages = d.pages := rfl
@[simp] theorem setArb_replicas (f a : Nat) (x : Arb) : (setArb d f a x).replicas = d.replicas := rfl
@[simp] theorem setArb_plv (f a : Nat) (x : Arb) : (setArb d f a x).plv = d.plv := rfl
@[simp] theorem setArb_counts (f a : Nat) (x : Arb) : (setArb d f a x).counts = d.counts := rfl
@[simp] theorem setArb_sweep (f a : Nat) (x : Arb) : (setArb d f a x).sweep = d.sweep := rfl
@[simp] theorem setArb_queue (f a : Nat) (x : Arb) : (setArb d f a x).queue = d.queue := rfl
@[simp] theorem setArb_moves (f a : Nat) (x : Arb) : (setArb d f a x).moves = d.moves := rfl
@[simp] theorem setArb_touches (f a : Nat) (x : Arb) : (setArb d f a x).touches = d.touches := rfl
@[simp] theorem setArb_touched (f a : Nat) (x : Arb) : (setArb d f a x).touched = d.touched := rfl
@[simp] theorem setArb_packJobs (f a : Nat) (x : Arb) : (setArb d f a x).packJobs = d.packJobs := rfl
@[simp] theorem setArb_packs (f a : Nat) (x : Arb) : (setArb d f a x).packs = d.packs := rfl
@[simp] theorem setArb_mem (f a : Nat) (x : Arb) : (setArb d f a x).mem = d.mem := rfl
@[simp] theorem setArb_cache (f a : Nat) (x : Arb) : (setArb d f a x).cache = d.cache := rfl
@[simp] theorem setArb_recent (f a : Nat) (x : Arb) : (setArb d f a x).recent = d.recent := rfl
@[simp] theorem setArb_pathBad (f a : Nat) (x : Arb) : (setArb d f a x).pathBad = d.pathBad := rfl
@[simp] theorem setArb_sliceFlips (f a : Nat) (x : Arb) : (setArb d f a x).sliceFlips = d.sliceFlips := rfl
@[simp] theorem setArb_dirFlips (f a : Nat) (x : Arb) : (setArb d f a x).dirFlips = d.dirFlips := rfl
@[simp] theorem setArb_flushBusy (f a : Nat) (x : Arb) : (setArb d f a x).flushBusy = d.flushBusy := rfl
@[simp] theorem setArb_media (f a : Nat) (x : Arb) : (setArb d f a x).media = d.media := rfl
@[simp] theorem setArb_dir (f a : Nat) (x : Arb) : (setArb d f a x).dir = d.dir := rfl
@[simp] theorem setArb_orphans (f a : Nat) (x : Arb) : (setArb d f a x).orphans = d.orphans := rfl
@[simp] theorem setArb_dirWait (f a : Nat) (x : Arb) : (setArb d f a x).dirWait = d.dirWait := rfl
@[simp] theorem setArb_lineWait (f a : Nat) (x : Arb) : (setArb d f a x).lineWait = d.lineWait := rfl
@[simp] theorem setArb_dirFlush (f a : Nat) (x : Arb) : (setArb d f a x).dirFlush = d.dirFlush := rfl
@[simp] theorem setArb_dirWalk (f a : Nat) (x : Arb) : (setArb d f a x).dirWalk = d.dirWalk := rfl
@[simp] theorem setArb_dirProbe (f a : Nat) (x : Arb) : (setArb d f a x).dirProbe = d.dirProbe := rfl
@[simp] theorem setArb_cores (f a : Nat) (x : Arb) : (setArb d f a x).cores = d.cores := rfl
@[simp] theorem setArb_cmds (f a : Nat) (x : Arb) : (setArb d f a x).cmds = d.cmds := rfl
@[simp] theorem setArb_order (f a : Nat) (x : Arb) : (setArb d f a x).order = d.order := rfl
@[simp] theorem setArb_served (f a : Nat) (x : Arb) : (setArb d f a x).served = d.served := rfl
@[simp] theorem setArb_unitTag (f a : Nat) (x : Arb) : (setArb d f a x).unitTag = d.unitTag := rfl
@[simp] theorem setArb_tagLast (f a : Nat) (x : Arb) : (setArb d f a x).tagLast = d.tagLast := rfl
@[simp] theorem setArb_tagWait (f a : Nat) (x : Arb) : (setArb d f a x).tagWait = d.tagWait := rfl
@[simp] theorem setArb_tagHeld (f a : Nat) (x : Arb) : (setArb d f a x).tagHeld = d.tagHeld := rfl
@[simp] theorem setArb_runq (f a : Nat) (x : Arb) : (setArb d f a x).runq = d.runq := rfl
@[simp] theorem setArb_fab (f a : Nat) (x : Arb) : (setArb d f a x).fab = d.fab := rfl
@[simp] theorem setArb_reads (f a : Nat) (x : Arb) : (setArb d f a x).reads = d.reads := rfl
@[simp] theorem setArb_fwdReads (f a : Nat) (x : Arb) : (setArb d f a x).fwdReads = d.fwdReads := rfl
@[simp] theorem setArb_portReqs (f a : Nat) (x : Arb) : (setArb d f a x).portReqs = d.portReqs := rfl
@[simp] theorem setArb_fabNext (f a : Nat) (x : Arb) : (setArb d f a x).fabNext = d.fabNext := rfl
@[simp] theorem setArb_acks (f a : Nat) (x : Arb) : (setArb d f a x).acks = d.acks := rfl
@[simp] theorem setArb_reqs (f a : Nat) (x : Arb) : (setArb d f a x).reqs = d.reqs := rfl
@[simp] theorem setArb_dedup (f a : Nat) (x : Arb) : (setArb d f a x).dedup = d.dedup := rfl
@[simp] theorem setArb_entries (f a : Nat) (x : Arb) : (setArb d f a x).entries = d.entries := rfl
@[simp] theorem setArb_groups (f a : Nat) (x : Arb) : (setArb d f a x).groups = d.groups := rfl
@[simp] theorem setArb_combs (f a : Nat) (x : Arb) : (setArb d f a x).combs = d.combs := rfl
@[simp] theorem setArb_ports (f a : Nat) (x : Arb) : (setArb d f a x).ports = d.ports := rfl
@[simp] theorem setArb_links (f a : Nat) (x : Arb) : (setArb d f a x).links = d.links := rfl
@[simp] theorem setArb_sw (f a : Nat) (x : Arb) : (setArb d f a x).sw = d.sw := rfl
@[simp] theorem setArb_arbs (f a : Nat) (x : Arb) : (setArb d f a x).arbs = tput d.arbs (30 * f + a) x := rfl
@[simp] theorem setArb_ecc (f a : Nat) (x : Arb) : (setArb d f a x).ecc = d.ecc := rfl
@[simp] theorem setArb_mbr (f a : Nat) (x : Arb) : (setArb d f a x).mbr = d.mbr := rfl
@[simp] theorem setArb_rates (f a : Nat) (x : Arb) : (setArb d f a x).rates = d.rates := rfl
@[simp] theorem setArb_out (f a : Nat) (x : Arb) : (setArb d f a x).out = d.out := rfl

/-! ### setEcc -/

@[simp] theorem setEcc_now (f u : Nat) (x : Ecc) : (setEcc d f u x).now = d.now := rfl
@[simp] theorem setEcc_cal (f u : Nat) (x : Ecc) : (setEcc d f u x).cal = d.cal := rfl
@[simp] theorem setEcc_free (f u : Nat) (x : Ecc) : (setEcc d f u x).free = d.free := rfl
@[simp] theorem setEcc_boot (f u : Nat) (x : Ecc) : (setEcc d f u x).boot = d.boot := rfl
@[simp] theorem setEcc_regs (f u : Nat) (x : Ecc) : (setEcc d f u x).regs = d.regs := rfl
@[simp] theorem setEcc_force (f u : Nat) (x : Ecc) : (setEcc d f u x).force = d.force := rfl
@[simp] theorem setEcc_bus (f u : Nat) (x : Ecc) : (setEcc d f u x).bus = d.bus := rfl
@[simp] theorem setEcc_tel (f u : Nat) (x : Ecc) : (setEcc d f u x).tel = d.tel := rfl
@[simp] theorem setEcc_mbx (f u : Nat) (x : Ecc) : (setEcc d f u x).mbx = d.mbx := rfl
@[simp] theorem setEcc_svcNext (f u : Nat) (x : Ecc) : (setEcc d f u x).svcNext = d.svcNext := rfl
@[simp] theorem setEcc_withdrawing (f u : Nat) (x : Ecc) : (setEcc d f u x).withdrawing = d.withdrawing := rfl
@[simp] theorem setEcc_takeable (f u : Nat) (x : Ecc) : (setEcc d f u x).takeable = d.takeable := rfl
@[simp] theorem setEcc_ctxs (f u : Nat) (x : Ecc) : (setEcc d f u x).ctxs = d.ctxs := rfl
@[simp] theorem setEcc_regions (f u : Nat) (x : Ecc) : (setEcc d f u x).regions = d.regions := rfl
@[simp] theorem setEcc_galleys (f u : Nat) (x : Ecc) : (setEcc d f u x).galleys = d.galleys := rfl
@[simp] theorem setEcc_slots (f u : Nat) (x : Ecc) : (setEcc d f u x).slots = d.slots := rfl
@[simp] theorem setEcc_formes (f u : Nat) (x : Ecc) : (setEcc d f u x).formes = d.formes := rfl
@[simp] theorem setEcc_objs (f u : Nat) (x : Ecc) : (setEcc d f u x).objs = d.objs := rfl
@[simp] theorem setEcc_errq (f u : Nat) (x : Ecc) : (setEcc d f u x).errq = d.errq := rfl
@[simp] theorem setEcc_pages (f u : Nat) (x : Ecc) : (setEcc d f u x).pages = d.pages := rfl
@[simp] theorem setEcc_replicas (f u : Nat) (x : Ecc) : (setEcc d f u x).replicas = d.replicas := rfl
@[simp] theorem setEcc_plv (f u : Nat) (x : Ecc) : (setEcc d f u x).plv = d.plv := rfl
@[simp] theorem setEcc_counts (f u : Nat) (x : Ecc) : (setEcc d f u x).counts = d.counts := rfl
@[simp] theorem setEcc_sweep (f u : Nat) (x : Ecc) : (setEcc d f u x).sweep = d.sweep := rfl
@[simp] theorem setEcc_queue (f u : Nat) (x : Ecc) : (setEcc d f u x).queue = d.queue := rfl
@[simp] theorem setEcc_moves (f u : Nat) (x : Ecc) : (setEcc d f u x).moves = d.moves := rfl
@[simp] theorem setEcc_touches (f u : Nat) (x : Ecc) : (setEcc d f u x).touches = d.touches := rfl
@[simp] theorem setEcc_touched (f u : Nat) (x : Ecc) : (setEcc d f u x).touched = d.touched := rfl
@[simp] theorem setEcc_packJobs (f u : Nat) (x : Ecc) : (setEcc d f u x).packJobs = d.packJobs := rfl
@[simp] theorem setEcc_packs (f u : Nat) (x : Ecc) : (setEcc d f u x).packs = d.packs := rfl
@[simp] theorem setEcc_mem (f u : Nat) (x : Ecc) : (setEcc d f u x).mem = d.mem := rfl
@[simp] theorem setEcc_cache (f u : Nat) (x : Ecc) : (setEcc d f u x).cache = d.cache := rfl
@[simp] theorem setEcc_recent (f u : Nat) (x : Ecc) : (setEcc d f u x).recent = d.recent := rfl
@[simp] theorem setEcc_pathBad (f u : Nat) (x : Ecc) : (setEcc d f u x).pathBad = d.pathBad := rfl
@[simp] theorem setEcc_sliceFlips (f u : Nat) (x : Ecc) : (setEcc d f u x).sliceFlips = d.sliceFlips := rfl
@[simp] theorem setEcc_dirFlips (f u : Nat) (x : Ecc) : (setEcc d f u x).dirFlips = d.dirFlips := rfl
@[simp] theorem setEcc_flushBusy (f u : Nat) (x : Ecc) : (setEcc d f u x).flushBusy = d.flushBusy := rfl
@[simp] theorem setEcc_media (f u : Nat) (x : Ecc) : (setEcc d f u x).media = d.media := rfl
@[simp] theorem setEcc_dir (f u : Nat) (x : Ecc) : (setEcc d f u x).dir = d.dir := rfl
@[simp] theorem setEcc_orphans (f u : Nat) (x : Ecc) : (setEcc d f u x).orphans = d.orphans := rfl
@[simp] theorem setEcc_dirWait (f u : Nat) (x : Ecc) : (setEcc d f u x).dirWait = d.dirWait := rfl
@[simp] theorem setEcc_lineWait (f u : Nat) (x : Ecc) : (setEcc d f u x).lineWait = d.lineWait := rfl
@[simp] theorem setEcc_dirFlush (f u : Nat) (x : Ecc) : (setEcc d f u x).dirFlush = d.dirFlush := rfl
@[simp] theorem setEcc_dirWalk (f u : Nat) (x : Ecc) : (setEcc d f u x).dirWalk = d.dirWalk := rfl
@[simp] theorem setEcc_dirProbe (f u : Nat) (x : Ecc) : (setEcc d f u x).dirProbe = d.dirProbe := rfl
@[simp] theorem setEcc_cores (f u : Nat) (x : Ecc) : (setEcc d f u x).cores = d.cores := rfl
@[simp] theorem setEcc_cmds (f u : Nat) (x : Ecc) : (setEcc d f u x).cmds = d.cmds := rfl
@[simp] theorem setEcc_order (f u : Nat) (x : Ecc) : (setEcc d f u x).order = d.order := rfl
@[simp] theorem setEcc_served (f u : Nat) (x : Ecc) : (setEcc d f u x).served = d.served := rfl
@[simp] theorem setEcc_unitTag (f u : Nat) (x : Ecc) : (setEcc d f u x).unitTag = d.unitTag := rfl
@[simp] theorem setEcc_tagLast (f u : Nat) (x : Ecc) : (setEcc d f u x).tagLast = d.tagLast := rfl
@[simp] theorem setEcc_tagWait (f u : Nat) (x : Ecc) : (setEcc d f u x).tagWait = d.tagWait := rfl
@[simp] theorem setEcc_tagHeld (f u : Nat) (x : Ecc) : (setEcc d f u x).tagHeld = d.tagHeld := rfl
@[simp] theorem setEcc_runq (f u : Nat) (x : Ecc) : (setEcc d f u x).runq = d.runq := rfl
@[simp] theorem setEcc_fab (f u : Nat) (x : Ecc) : (setEcc d f u x).fab = d.fab := rfl
@[simp] theorem setEcc_reads (f u : Nat) (x : Ecc) : (setEcc d f u x).reads = d.reads := rfl
@[simp] theorem setEcc_fwdReads (f u : Nat) (x : Ecc) : (setEcc d f u x).fwdReads = d.fwdReads := rfl
@[simp] theorem setEcc_portReqs (f u : Nat) (x : Ecc) : (setEcc d f u x).portReqs = d.portReqs := rfl
@[simp] theorem setEcc_fabNext (f u : Nat) (x : Ecc) : (setEcc d f u x).fabNext = d.fabNext := rfl
@[simp] theorem setEcc_acks (f u : Nat) (x : Ecc) : (setEcc d f u x).acks = d.acks := rfl
@[simp] theorem setEcc_reqs (f u : Nat) (x : Ecc) : (setEcc d f u x).reqs = d.reqs := rfl
@[simp] theorem setEcc_dedup (f u : Nat) (x : Ecc) : (setEcc d f u x).dedup = d.dedup := rfl
@[simp] theorem setEcc_entries (f u : Nat) (x : Ecc) : (setEcc d f u x).entries = d.entries := rfl
@[simp] theorem setEcc_groups (f u : Nat) (x : Ecc) : (setEcc d f u x).groups = d.groups := rfl
@[simp] theorem setEcc_combs (f u : Nat) (x : Ecc) : (setEcc d f u x).combs = d.combs := rfl
@[simp] theorem setEcc_ports (f u : Nat) (x : Ecc) : (setEcc d f u x).ports = d.ports := rfl
@[simp] theorem setEcc_links (f u : Nat) (x : Ecc) : (setEcc d f u x).links = d.links := rfl
@[simp] theorem setEcc_sw (f u : Nat) (x : Ecc) : (setEcc d f u x).sw = d.sw := rfl
@[simp] theorem setEcc_arbs (f u : Nat) (x : Ecc) : (setEcc d f u x).arbs = d.arbs := rfl
@[simp] theorem setEcc_ecc (f u : Nat) (x : Ecc) : (setEcc d f u x).ecc = tput d.ecc (f * 7 + u) x := rfl
@[simp] theorem setEcc_mbr (f u : Nat) (x : Ecc) : (setEcc d f u x).mbr = d.mbr := rfl
@[simp] theorem setEcc_rates (f u : Nat) (x : Ecc) : (setEcc d f u x).rates = d.rates := rfl
@[simp] theorem setEcc_out (f u : Nat) (x : Ecc) : (setEcc d f u x).out = d.out := rfl

/-! ### setTabNum -/

@[simp] theorem setTabNum_now (k i v : Nat) : (setTabNum d k i v).now = d.now := rfl
@[simp] theorem setTabNum_cal (k i v : Nat) : (setTabNum d k i v).cal = d.cal := rfl
@[simp] theorem setTabNum_free (k i v : Nat) : (setTabNum d k i v).free = d.free := rfl
@[simp] theorem setTabNum_boot (k i v : Nat) : (setTabNum d k i v).boot = d.boot := rfl
@[simp] theorem setTabNum_regs (k i v : Nat) : (setTabNum d k i v).regs = d.regs := rfl
@[simp] theorem setTabNum_force (k i v : Nat) : (setTabNum d k i v).force = d.force := rfl
@[simp] theorem setTabNum_bus (k i v : Nat) : (setTabNum d k i v).bus = d.bus := rfl
@[simp] theorem setTabNum_tel (k i v : Nat) : (setTabNum d k i v).tel = d.tel := rfl
@[simp] theorem setTabNum_mbx (k i v : Nat) : (setTabNum d k i v).mbx = d.mbx := rfl
@[simp] theorem setTabNum_svcNext (k i v : Nat) : (setTabNum d k i v).svcNext = d.svcNext := rfl
@[simp] theorem setTabNum_withdrawing (k i v : Nat) : (setTabNum d k i v).withdrawing = d.withdrawing := rfl
@[simp] theorem setTabNum_takeable (k i v : Nat) : (setTabNum d k i v).takeable = d.takeable := rfl
@[simp] theorem setTabNum_ctxs (k i v : Nat) : (setTabNum d k i v).ctxs = d.ctxs := rfl
@[simp] theorem setTabNum_regions (k i v : Nat) : (setTabNum d k i v).regions = d.regions := rfl
@[simp] theorem setTabNum_galleys (k i v : Nat) : (setTabNum d k i v).galleys = d.galleys := rfl
@[simp] theorem setTabNum_slots (k i v : Nat) : (setTabNum d k i v).slots = d.slots := rfl
@[simp] theorem setTabNum_formes (k i v : Nat) : (setTabNum d k i v).formes = d.formes := rfl
@[simp] theorem setTabNum_objs (k i v : Nat) : (setTabNum d k i v).objs = tmod d.objs k (fun o => { o with nums := tput o.nums i v }) := rfl
@[simp] theorem setTabNum_errq (k i v : Nat) : (setTabNum d k i v).errq = d.errq := rfl
@[simp] theorem setTabNum_pages (k i v : Nat) : (setTabNum d k i v).pages = d.pages := rfl
@[simp] theorem setTabNum_replicas (k i v : Nat) : (setTabNum d k i v).replicas = d.replicas := rfl
@[simp] theorem setTabNum_plv (k i v : Nat) : (setTabNum d k i v).plv = d.plv := rfl
@[simp] theorem setTabNum_counts (k i v : Nat) : (setTabNum d k i v).counts = d.counts := rfl
@[simp] theorem setTabNum_sweep (k i v : Nat) : (setTabNum d k i v).sweep = d.sweep := rfl
@[simp] theorem setTabNum_queue (k i v : Nat) : (setTabNum d k i v).queue = d.queue := rfl
@[simp] theorem setTabNum_moves (k i v : Nat) : (setTabNum d k i v).moves = d.moves := rfl
@[simp] theorem setTabNum_touches (k i v : Nat) : (setTabNum d k i v).touches = d.touches := rfl
@[simp] theorem setTabNum_touched (k i v : Nat) : (setTabNum d k i v).touched = d.touched := rfl
@[simp] theorem setTabNum_packJobs (k i v : Nat) : (setTabNum d k i v).packJobs = d.packJobs := rfl
@[simp] theorem setTabNum_packs (k i v : Nat) : (setTabNum d k i v).packs = d.packs := rfl
@[simp] theorem setTabNum_mem (k i v : Nat) : (setTabNum d k i v).mem = d.mem := rfl
@[simp] theorem setTabNum_cache (k i v : Nat) : (setTabNum d k i v).cache = d.cache := rfl
@[simp] theorem setTabNum_recent (k i v : Nat) : (setTabNum d k i v).recent = d.recent := rfl
@[simp] theorem setTabNum_pathBad (k i v : Nat) : (setTabNum d k i v).pathBad = d.pathBad := rfl
@[simp] theorem setTabNum_sliceFlips (k i v : Nat) : (setTabNum d k i v).sliceFlips = d.sliceFlips := rfl
@[simp] theorem setTabNum_dirFlips (k i v : Nat) : (setTabNum d k i v).dirFlips = d.dirFlips := rfl
@[simp] theorem setTabNum_flushBusy (k i v : Nat) : (setTabNum d k i v).flushBusy = d.flushBusy := rfl
@[simp] theorem setTabNum_media (k i v : Nat) : (setTabNum d k i v).media = d.media := rfl
@[simp] theorem setTabNum_dir (k i v : Nat) : (setTabNum d k i v).dir = d.dir := rfl
@[simp] theorem setTabNum_orphans (k i v : Nat) : (setTabNum d k i v).orphans = d.orphans := rfl
@[simp] theorem setTabNum_dirWait (k i v : Nat) : (setTabNum d k i v).dirWait = d.dirWait := rfl
@[simp] theorem setTabNum_lineWait (k i v : Nat) : (setTabNum d k i v).lineWait = d.lineWait := rfl
@[simp] theorem setTabNum_dirFlush (k i v : Nat) : (setTabNum d k i v).dirFlush = d.dirFlush := rfl
@[simp] theorem setTabNum_dirWalk (k i v : Nat) : (setTabNum d k i v).dirWalk = d.dirWalk := rfl
@[simp] theorem setTabNum_dirProbe (k i v : Nat) : (setTabNum d k i v).dirProbe = d.dirProbe := rfl
@[simp] theorem setTabNum_cores (k i v : Nat) : (setTabNum d k i v).cores = d.cores := rfl
@[simp] theorem setTabNum_cmds (k i v : Nat) : (setTabNum d k i v).cmds = d.cmds := rfl
@[simp] theorem setTabNum_order (k i v : Nat) : (setTabNum d k i v).order = d.order := rfl
@[simp] theorem setTabNum_served (k i v : Nat) : (setTabNum d k i v).served = d.served := rfl
@[simp] theorem setTabNum_unitTag (k i v : Nat) : (setTabNum d k i v).unitTag = d.unitTag := rfl
@[simp] theorem setTabNum_tagLast (k i v : Nat) : (setTabNum d k i v).tagLast = d.tagLast := rfl
@[simp] theorem setTabNum_tagWait (k i v : Nat) : (setTabNum d k i v).tagWait = d.tagWait := rfl
@[simp] theorem setTabNum_tagHeld (k i v : Nat) : (setTabNum d k i v).tagHeld = d.tagHeld := rfl
@[simp] theorem setTabNum_runq (k i v : Nat) : (setTabNum d k i v).runq = d.runq := rfl
@[simp] theorem setTabNum_fab (k i v : Nat) : (setTabNum d k i v).fab = d.fab := rfl
@[simp] theorem setTabNum_reads (k i v : Nat) : (setTabNum d k i v).reads = d.reads := rfl
@[simp] theorem setTabNum_fwdReads (k i v : Nat) : (setTabNum d k i v).fwdReads = d.fwdReads := rfl
@[simp] theorem setTabNum_portReqs (k i v : Nat) : (setTabNum d k i v).portReqs = d.portReqs := rfl
@[simp] theorem setTabNum_fabNext (k i v : Nat) : (setTabNum d k i v).fabNext = d.fabNext := rfl
@[simp] theorem setTabNum_acks (k i v : Nat) : (setTabNum d k i v).acks = d.acks := rfl
@[simp] theorem setTabNum_reqs (k i v : Nat) : (setTabNum d k i v).reqs = d.reqs := rfl
@[simp] theorem setTabNum_dedup (k i v : Nat) : (setTabNum d k i v).dedup = d.dedup := rfl
@[simp] theorem setTabNum_entries (k i v : Nat) : (setTabNum d k i v).entries = d.entries := rfl
@[simp] theorem setTabNum_groups (k i v : Nat) : (setTabNum d k i v).groups = d.groups := rfl
@[simp] theorem setTabNum_combs (k i v : Nat) : (setTabNum d k i v).combs = d.combs := rfl
@[simp] theorem setTabNum_ports (k i v : Nat) : (setTabNum d k i v).ports = d.ports := rfl
@[simp] theorem setTabNum_links (k i v : Nat) : (setTabNum d k i v).links = d.links := rfl
@[simp] theorem setTabNum_sw (k i v : Nat) : (setTabNum d k i v).sw = d.sw := rfl
@[simp] theorem setTabNum_arbs (k i v : Nat) : (setTabNum d k i v).arbs = d.arbs := rfl
@[simp] theorem setTabNum_ecc (k i v : Nat) : (setTabNum d k i v).ecc = d.ecc := rfl
@[simp] theorem setTabNum_mbr (k i v : Nat) : (setTabNum d k i v).mbr = d.mbr := rfl
@[simp] theorem setTabNum_rates (k i v : Nat) : (setTabNum d k i v).rates = d.rates := rfl
@[simp] theorem setTabNum_out (k i v : Nat) : (setTabNum d k i v).out = d.out := rfl

/-! ### The device as a command finds it -/

@[simp] theorem latch_now : (latch s).now = s.clk.time := rfl
@[simp] theorem latch_cal : (latch s).cal = if s.clk.calValid then s.clk.cal * 1000000000 + s.clk.calNs else 0 := rfl
@[simp] theorem latch_free : (latch s).free = s.dev.free := rfl
@[simp] theorem latch_boot : (latch s).boot = s.dev.boot := rfl
@[simp] theorem latch_regs : (latch s).regs = s.dev.regs := rfl
@[simp] theorem latch_force : (latch s).force = s.dev.force := rfl
@[simp] theorem latch_bus : (latch s).bus = s.dev.bus := rfl
@[simp] theorem latch_tel : (latch s).tel = s.dev.tel := rfl
@[simp] theorem latch_mbx : (latch s).mbx = s.dev.mbx := rfl
@[simp] theorem latch_svcNext : (latch s).svcNext = s.dev.svcNext := rfl
@[simp] theorem latch_withdrawing : (latch s).withdrawing = s.dev.withdrawing := rfl
@[simp] theorem latch_takeable : (latch s).takeable = s.dev.takeable := rfl
@[simp] theorem latch_ctxs : (latch s).ctxs = s.dev.ctxs := rfl
@[simp] theorem latch_regions : (latch s).regions = s.dev.regions := rfl
@[simp] theorem latch_galleys : (latch s).galleys = s.dev.galleys := rfl
@[simp] theorem latch_slots : (latch s).slots = s.dev.slots := rfl
@[simp] theorem latch_formes : (latch s).formes = s.dev.formes := rfl
@[simp] theorem latch_objs : (latch s).objs = s.dev.objs := rfl
@[simp] theorem latch_errq : (latch s).errq = s.dev.errq := rfl
@[simp] theorem latch_pages : (latch s).pages = s.dev.pages := rfl
@[simp] theorem latch_replicas : (latch s).replicas = s.dev.replicas := rfl
@[simp] theorem latch_plv : (latch s).plv = s.dev.plv := rfl
@[simp] theorem latch_counts : (latch s).counts = s.dev.counts := rfl
@[simp] theorem latch_sweep : (latch s).sweep = s.dev.sweep := rfl
@[simp] theorem latch_queue : (latch s).queue = s.dev.queue := rfl
@[simp] theorem latch_moves : (latch s).moves = s.dev.moves := rfl
@[simp] theorem latch_touches : (latch s).touches = s.dev.touches := rfl
@[simp] theorem latch_touched : (latch s).touched = s.dev.touched := rfl
@[simp] theorem latch_packJobs : (latch s).packJobs = s.dev.packJobs := rfl
@[simp] theorem latch_packs : (latch s).packs = s.dev.packs := rfl
@[simp] theorem latch_mem : (latch s).mem = s.dev.mem := rfl
@[simp] theorem latch_cache : (latch s).cache = s.dev.cache := rfl
@[simp] theorem latch_recent : (latch s).recent = s.dev.recent := rfl
@[simp] theorem latch_pathBad : (latch s).pathBad = s.dev.pathBad := rfl
@[simp] theorem latch_sliceFlips : (latch s).sliceFlips = s.dev.sliceFlips := rfl
@[simp] theorem latch_dirFlips : (latch s).dirFlips = s.dev.dirFlips := rfl
@[simp] theorem latch_flushBusy : (latch s).flushBusy = s.dev.flushBusy := rfl
@[simp] theorem latch_media : (latch s).media = s.dev.media := rfl
@[simp] theorem latch_dir : (latch s).dir = s.dev.dir := rfl
@[simp] theorem latch_orphans : (latch s).orphans = s.dev.orphans := rfl
@[simp] theorem latch_dirWait : (latch s).dirWait = s.dev.dirWait := rfl
@[simp] theorem latch_lineWait : (latch s).lineWait = s.dev.lineWait := rfl
@[simp] theorem latch_dirFlush : (latch s).dirFlush = s.dev.dirFlush := rfl
@[simp] theorem latch_dirWalk : (latch s).dirWalk = s.dev.dirWalk := rfl
@[simp] theorem latch_dirProbe : (latch s).dirProbe = s.dev.dirProbe := rfl
@[simp] theorem latch_cores : (latch s).cores = s.dev.cores := rfl
@[simp] theorem latch_cmds : (latch s).cmds = s.dev.cmds := rfl
@[simp] theorem latch_order : (latch s).order = s.dev.order := rfl
@[simp] theorem latch_served : (latch s).served = s.dev.served := rfl
@[simp] theorem latch_unitTag : (latch s).unitTag = s.dev.unitTag := rfl
@[simp] theorem latch_tagLast : (latch s).tagLast = s.dev.tagLast := rfl
@[simp] theorem latch_tagWait : (latch s).tagWait = s.dev.tagWait := rfl
@[simp] theorem latch_tagHeld : (latch s).tagHeld = s.dev.tagHeld := rfl
@[simp] theorem latch_runq : (latch s).runq = s.dev.runq := rfl
@[simp] theorem latch_fab : (latch s).fab = s.dev.fab := rfl
@[simp] theorem latch_reads : (latch s).reads = s.dev.reads := rfl
@[simp] theorem latch_fwdReads : (latch s).fwdReads = s.dev.fwdReads := rfl
@[simp] theorem latch_portReqs : (latch s).portReqs = s.dev.portReqs := rfl
@[simp] theorem latch_fabNext : (latch s).fabNext = s.dev.fabNext := rfl
@[simp] theorem latch_acks : (latch s).acks = s.dev.acks := rfl
@[simp] theorem latch_reqs : (latch s).reqs = s.dev.reqs := rfl
@[simp] theorem latch_dedup : (latch s).dedup = s.dev.dedup := rfl
@[simp] theorem latch_entries : (latch s).entries = s.dev.entries := rfl
@[simp] theorem latch_groups : (latch s).groups = s.dev.groups := rfl
@[simp] theorem latch_combs : (latch s).combs = s.dev.combs := rfl
@[simp] theorem latch_ports : (latch s).ports = s.dev.ports := rfl
@[simp] theorem latch_links : (latch s).links = s.dev.links := rfl
@[simp] theorem latch_sw : (latch s).sw = s.dev.sw := rfl
@[simp] theorem latch_arbs : (latch s).arbs = s.dev.arbs := rfl
@[simp] theorem latch_ecc : (latch s).ecc = s.dev.ecc := rfl
@[simp] theorem latch_mbr : (latch s).mbr = s.dev.mbr := rfl
@[simp] theorem latch_rates : (latch s).rates = s.dev.rates := rfl
@[simp] theorem latch_out : (latch s).out = s.dev.out := rfl

end Sys2Proof.Machine
end

