-- ==== Sys2Proof/Laws/Table.lean ====
section
/-! SUPPORT. Tables by number: what is read after an entry is put, changed or removed. -/

namespace Sys2Proof.Machine

variable {α : Type}

@[simp] theorem tget?_nil (k : Nat) : tget? ([] : Tab α) k = none := rfl

theorem tget?_cons (j : Nat) (v : α) (t : Tab α) (k : Nat) :
    tget? ((j, v) :: t) k = if j = k then some v else tget? t k := rfl

@[simp] theorem tget?_tput_self (t : Tab α) (k : Nat) (v : α) : tget? (tput t k v) k = some v := by
  induction t with
  | nil => simp [tput, tget?]
  | cons p t ih =>
    obtain ⟨j, w⟩ := p
    unfold tput
    split
    · simp [tget?]
    · split
      · simp [tget?]
      · simp only [tget?]
        split
        · omega
        · exact ih

theorem tget?_tput_ne (t : Tab α) {k j : Nat} (v : α) (h : j ≠ k) : tget? (tput t k v) j = tget? t j := by
  induction t with
  | nil => simp [tput, tget?, Ne.symm h]
  | cons p t ih =>
    obtain ⟨i, w⟩ := p
    unfold tput
    split
    · rename_i e
      simp only [tget?, if_neg (Ne.symm h)]
      rw [if_neg (fun x => h (by omega))]
    · split
      · simp only [tget?, if_neg (Ne.symm h)]
      · simp only [tget?, ih]

theorem tget?_tput (t : Tab α) (k j : Nat) (v : α) : tget? (tput t k v) j = if j = k then some v else tget? t j := by
  split
  · subst_vars; simp
  · exact tget?_tput_ne t v ‹_›

@[simp] theorem tget_tput_self (t : Tab α) (k : Nat) (v v0 : α) : tget (tput t k v) k v0 = v := by simp [tget]

theorem tget_tput_ne (t : Tab α) {k j : Nat} (v v0 : α) (h : j ≠ k) : tget (tput t k v) j v0 = tget t j v0 := by
  simp [tget, tget?_tput_ne t v h]

@[simp] theorem tget?_tdel_self (t : Tab α) (k : Nat) : tget? (tdel t k) k = none := by
  induction t with
  | nil => rfl
  | cons p t ih =>
    obtain ⟨j, w⟩ := p
    by_cases h : j = k
    · subst h; simpa [tdel] using ih
    · simpa [tdel, h, tget?] using ih

theorem tget?_tdel_ne (t : Tab α) {k j : Nat} (h : j ≠ k) : tget? (tdel t k) j = tget? t j := by
  induction t with
  | nil => rfl
  | cons p t ih =>
    obtain ⟨i, w⟩ := p
    by_cases e : i = k
    · subst e; simpa [tdel, tget?, Ne.symm h] using ih
    · simp only [tdel, List.filter_cons, bne_iff_ne, ne_eq, e, not_false_eq_true, if_true, tget?]
      simp only [tdel] at ih
      rw [ih]

theorem tget?_tmod_self (t : Tab α) (k : Nat) (f : α → α) : tget? (tmod t k f) k = (tget? t k).map f := by
  unfold tmod
  cases h : tget? t k <;> simp [h]

theorem tget?_tmod_ne (t : Tab α) {k j : Nat} (f : α → α) (h : j ≠ k) : tget? (tmod t k f) j = tget? t j := by
  unfold tmod
  cases tget? t k <;> simp [tget?_tput_ne t _ h]

/-- A change of an entry that is listed puts the changed value in its place. -/
theorem tmod_some {t : Tab α} {k : Nat} {v : α} (h : tget? t k = some v) (f : α → α) : tmod t k f = tput t k (f v) := by
  simp [tmod, h]

theorem tmod_none {t : Tab α} {k : Nat} (h : tget? t k = none) (f : α → α) : tmod t k f = t := by simp [tmod, h]

/-- An entry put twice keeps the second value. -/
@[simp] theorem tput_tput (t : Tab α) (k : Nat) (v w : α) : tput (tput t k v) k w = tput t k w := by
  induction t with
  | nil => simp [tput]
  | cons p t ih =>
    obtain ⟨j, x⟩ := p
    by_cases e : k = j
    · simp [tput, e]
    · by_cases l : k < j
      · simp [tput, e, l]
      · simp [tput, e, l, ih]

/-- A change of an entry just put puts the changed value. -/
@[simp] theorem tmod_tput_self (t : Tab α) (k : Nat) (v : α) (f : α → α) : tmod (tput t k v) k f = tput t k (f v) := by
  simp [tmod]

theorem thas_tput_self (t : Tab α) (k : Nat) (v : α) : thas (tput t k v) k = true := by simp [thas]

end Sys2Proof.Machine
end

