-- ==== Sys2Proof/Laws/Ops.lean ====
section
/-! SUPPORT. What the shared operations of the device can do: interrupts, events, replies, error records, and what
follows a command. -/

namespace Sys2Proof.Machine

open Sys2Proof

/-- The second device differs from the first in mailboxes, ports, telemetry and outputs alone. -/
def MsgFrame (d e : Dev) : Prop :=
  ∃ mbx ports tel out, e = { d with mbx := mbx, ports := ports, tel := tel, out := out }

/-- As `MsgFrame`, and the error queue and the FAILED flag may differ too. -/
def ErrFrame (d e : Dev) : Prop :=
  ∃ mbx ports tel out errq failed,
    e = { d with mbx := mbx, ports := ports, tel := tel, out := out, errq := errq, boot := { d.boot with failed := failed } }

theorem MsgFrame.refl (d : Dev) : MsgFrame d d := ⟨d.mbx, d.ports, d.tel, d.out, rfl⟩

theorem MsgFrame.trans {d e f : Dev} (h : MsgFrame d e) (k : MsgFrame e f) : MsgFrame d f := by
  obtain ⟨_, _, _, _, rfl⟩ := h
  obtain ⟨a, b, c, o, rfl⟩ := k
  exact ⟨a, b, c, o, rfl⟩

theorem ErrFrame.refl (d : Dev) : ErrFrame d d := ⟨d.mbx, d.ports, d.tel, d.out, d.errq, d.boot.failed, rfl⟩

theorem ErrFrame.trans {d e f : Dev} (h : ErrFrame d e) (k : ErrFrame e f) : ErrFrame d f := by
  obtain ⟨_, _, _, _, _, _, rfl⟩ := h
  obtain ⟨a, b, c, o, q, x, rfl⟩ := k
  exact ⟨a, b, c, o, q, x, rfl⟩

theorem MsgFrame.err {d e : Dev} (h : MsgFrame d e) : ErrFrame d e := by
  obtain ⟨a, b, c, o, rfl⟩ := h
  exact ⟨a, b, c, o, d.errq, d.boot.failed, rfl⟩

/-- A fold whose every step keeps a reflexive and transitive relation keeps it. -/
theorem foldl_rel {β : Type} (R : Dev → Dev → Prop) (refl : ∀ d, R d d) (trans : ∀ {d e f}, R d e → R e f → R d f)
    (f : Dev → β → Dev) (h : ∀ d x, R d (f d x)) (l : List β) (d : Dev) : R d (l.foldl f d) := by
  induction l generalizing d with
  | nil => exact refl d
  | cons x t ih => exact trans (h d x) (ih (f d x))

theorem foldl_msg {β : Type} (f : Dev → β → Dev) (h : ∀ d x, MsgFrame d (f d x)) (l : List β) (d : Dev) :
    MsgFrame d (l.foldl f d) := foldl_rel MsgFrame MsgFrame.refl MsgFrame.trans f h l d

/-! ### Interrupts, events and replies -/

theorem setMb_frame (d : Dev) (m : Nat) (x : Mailbox) : MsgFrame d (setMb d m x) := ⟨_, _, _, _, rfl⟩
theorem setPort_frame (d : Dev) (p : Nat) (x : Port) : MsgFrame d (setPort d p x) := ⟨_, _, _, _, rfl⟩
theorem telD_frame (d : Dev) (o n : Nat) : MsgFrame d (telD d o n) := ⟨_, _, _, _, rfl⟩
theorem telF_frame (d : Dev) (f o n : Nat) : MsgFrame d (telF d f o n) := ⟨_, _, _, _, rfl⟩
theorem emit_frame (d : Dev) (o : Out) : MsgFrame d (emit d o) := ⟨_, _, _, _, rfl⟩

theorem sendVec_frame (d : Dev) (p e : Nat) : MsgFrame d (sendVec d p e) := by
  unfold sendVec
  dsimp only
  split
  · exact setPort_frame ..
  · exact ((setPort_frame ..).trans (emit_frame ..)).trans (telD_frame ..)

theorem raiseCtx_frame (d : Dev) (c p e : Nat) : MsgFrame d (raiseCtx d c p e) := by
  unfold raiseCtx
  split
  · exact (setPort_frame ..).trans (telD_frame ..)
  · exact sendVec_frame ..

theorem raiseMb_frame (d : Dev) (m : Nat) : MsgFrame d (raiseMb d m) := by
  unfold raiseMb
  dsimp only
  split
  · exact sendVec_frame ..
  · exact .refl d

theorem ring_frame (d : Dev) (m b : Nat) : MsgFrame d (ring d m b) := by
  unfold ring
  dsimp only
  split
  · exact .refl d
  · split
    · exact setMb_frame ..
    · exact (setMb_frame ..).trans (raiseMb_frame ..)

theorem queueEvent_frame (d : Dev) (m : Nat) (e : Event) : MsgFrame d (queueEvent d m e) := by
  unfold queueEvent
  dsimp only
  split
  · exact (setMb_frame ..).trans (ring_frame ..)
  · exact setMb_frame ..

theorem eventCtx_frame (d : Dev) (c st h : Nat) (l : List Nat) : MsgFrame d (eventCtx d c st h l) :=
  foldl_msg _ (fun d m => by
    dsimp only
    split
    · exact queueEvent_frame ..
    · exact .refl d) _ _

theorem eventDev_frame (d : Dev) (c st h : Nat) : MsgFrame d (eventDev d c st h) :=
  foldl_msg _ (fun d m => by
    split
    · exact queueEvent_frame ..
    · exact .refl d) _ _

theorem dropLate_frame (d : Dev) (m i : Nat) : MsgFrame d (dropLate d m i) := by
  unfold dropLate
  dsimp only
  split
  · exact setMb_frame ..
  · exact .refl d

theorem readyReply_frame (d : Dev) (m i : Nat) (b : Bytes) : MsgFrame d (readyReply d m i b) := by
  unfold readyReply
  dsimp only
  split
  · split
    · exact setMb_frame ..
    · exact dropLate_frame ..
  · exact dropLate_frame ..

theorem failServices_frame (d : Dev) : MsgFrame d (failServices d) :=
  foldl_msg _ (fun d m => by
    split
    · exact readyReply_frame ..
    · exact .refl d) _ _

theorem raiseGalley_frame (d : Dev) (c g : Nat) : ∃ e, MsgFrame { d with galleys := e.galleys } e ∧ e = raiseGalley d c g := by
  refine ⟨_, ?_, rfl⟩
  unfold raiseGalley
  dsimp only
  split
  · obtain ⟨a, b, t, o, h⟩ := (telF_frame (modGalley d c g (fun x => { x with pending := 0 })) (galleyOf d c g).home 0x1128 1).trans
      (raiseCtx_frame _ c (bits (galleyOf d c g).vector 11 4) (bits (galleyOf d c g).vector 0 11))
    exact ⟨a, b, t, o, by rw [h]; rfl⟩
  · exact ⟨_, _, _, _, rfl⟩

/-! ### Error records -/

theorem ErrFrame.ite {d x y : Dev} (p : Prop) [Decidable p] (h : ErrFrame d x) (k : ErrFrame d y) :
    ErrFrame d (if p then x else y) := by
  split <;> assumption

/-- Ringing the doorbells of some mailboxes. -/
theorem rings_frame {d x : Dev} (h : ErrFrame d x) (p : Dev → Nat → Prop) [∀ d m, Decidable (p d m)] (b : Nat) (l : List Nat) :
    ErrFrame d (l.foldl (fun d m => if p d m then ring d m b else d) x) :=
  h.trans (foldl_msg _ (fun d m => by
    split
    · exact ring_frame ..
    · exact .refl d) _ _).err

theorem ErrFrame.queue (d : Dev) (q : ErrQ) : ErrFrame d { d with errq := q } := ⟨_, _, _, _, _, _, rfl⟩

/-- Forming a record touches the error queue, the FAILED flag, telemetry and the doorbells of the mailboxes. -/
theorem formErr_frame (d : Dev) (cls lv k i c : Nat) (b : Bytes) (t : Bool) : ErrFrame d (formErr d cls lv k i c b t) := by
  unfold formErr
  have tel : ∀ {x : Dev} (p : Prop) [Decidable p] (o : Nat), ErrFrame d x → ErrFrame d (if p then telD x o 1 else x) :=
    fun p _ o h => ErrFrame.ite p (h.trans (telD_frame ..).err) h
  have base : ∀ (q : ErrQ) (p : Prop) [Decidable p],
      ErrFrame d (if p then { { d with errq := q } with boot := { d.boot with failed := true } } else { d with errq := q }) :=
    fun q p _ => ErrFrame.ite p ⟨_, _, _, _, _, _, rfl⟩ (.queue d q)
  extract_lets q o lv prior r q1
  split
  extract_lets q3 dom q4 a b c e
  have he : ErrFrame d e := tel _ _ (tel _ _ (base _ _))
  split
  · exact rings_frame he _ _ _
  · exact he

/-- The same where the failure falls to the record of its own event, which is then counted there. -/
theorem logErr_frame (d : Dev) (cls lv k i c : Nat) (b : Bytes) (t : Bool) : ErrFrame d (logErr d cls lv k i c b t) := by
  unfold logErr logRec
  split
  · exact .queue d _
  · exact formErr_frame ..

/-- A plain record touches the error queue, telemetry and the doorbells, and asks for no recovery. -/
theorem logPlain_frame (d : Dev) (cls lv k i : Nat) (b : Bytes) : ErrFrame d (logPlain d cls lv k i b) := by
  unfold logPlain
  extract_lets q r
  split
  extract_lets a e
  have he : ErrFrame d e := ErrFrame.ite _ ((ErrFrame.queue d _).trans (telD_frame ..).err) (.queue d _)
  split
  · exact rings_frame he _ _ _
  · exact he

/-! ### What follows a command -/

/-- No tag is handed out where no command unit waits for one or holds one. -/
theorem settleTags_idle {d : Dev} (w : d.tagWait = []) (h : d.tagHeld = []) : settleTags d = d := by
  simp [settleTags, w, h]

/-- No copy goes to the mirror port where no link has sent a frame since the last command. -/
theorem mirrorSent_none {d : Dev} (h : d.sw.seen = []) : mirrorSent d = d := by simp [mirrorSent, h]

/-- Nothing follows a command that sends no frame, leaves no recovery due, no command unit in want of a tag, and the boot
state of the device as it was. -/
theorem settle_quiet {old new : Dev} (due : new.errq.due = []) (boot : new.boot = old.boot) (w : new.tagWait = [])
    (h : new.tagHeld = []) (sent : new.sw.seen = []) : settle old new = new := by
  have st : devState new = devState old := by unfold devState anyContained; rw [boot]
  have r : runDue 16 new = new := by unfold runDue; rw [due]
  have f : failLinks old new = new := by
    unfold failLinks
    rw [boot]
    cases old.boot.failed <;> rfl
  unfold settle
  rw [mirrorSent_none sent, r, f, settleTags_idle w h]
  simp [st]

/-- No recovery is left due once those that were asked for have been started. -/
theorem runDue_due (n : Nat) (d : Dev) : (runDue n d).errq.due = [] := by
  induction n generalizing d with
  | zero => rfl
  | succ n ih =>
    unfold runDue
    split
    · assumption
    · exact ih _

theorem MsgFrame.errq {d e : Dev} (h : MsgFrame d e) : e.errq = d.errq := by obtain ⟨_, _, _, _, rfl⟩ := h; rfl

theorem endWait_errq (d : Dev) (f : Nat) : (endWait d f).errq = d.errq := by
  rfl

theorem grantTags_errq (n : Nat) (d : Dev) : (grantTags n d).errq = d.errq := by
  induction n generalizing d with
  | zero => rfl
  | succ n ih =>
    unfold grantTags
    split
    · rename_i f _
      split
      · rfl
      · exact (ih _).trans (show _ = (endWait d f).errq from rfl)
    · rfl

theorem foldl_endWait_errq (l : List Nat) (d : Dev) : (l.foldl endWait d).errq = d.errq := by
  induction l generalizing d with
  | nil => rfl
  | cons x t ih => exact (ih _).trans (endWait_errq ..)

/-- Handing out tags touches no record. -/
theorem settleTags_errq (d : Dev) : (settleTags d).errq = d.errq := by
  unfold settleTags
  split
  · rfl
  · dsimp only
    rw [grantTags_errq]
    exact foldl_endWait_errq ..

/-- After any command no recovery is due. -/
theorem settle_due (old new : Dev) : (settle old new).errq.due = [] := by
  have f : (settleTags (failLinks old (runDue 16 (mirrorSent new)))).errq.due = [] := by
    rw [settleTags_errq]
    unfold failLinks
    split
    · rw [(failServices_frame _).errq]; exact runDue_due 16 _
    · exact runDue_due 16 _
  unfold settle
  dsimp only
  split
  · exact f
  · rw [(foldl_msg _ (fun d m => ring_frame d m 3) _ _).errq, (eventDev_frame ..).errq]; exact f

/-- A well-formed command of a device that serves: its effect, and what follows. -/
theorem onDev_next {i : Instr} {s : State} (f : Dev → Dev) (w : i.wellFormed = true) (h : s.dev.boot.held = false) :
    onDev i s f = .next { s with dev := settle (latch s) (f (latch s)) } := by
  simp [onDev, w, h]

/-- The same where the effect leaves the boot state alone, no recovery due and no tag wanted: its effect alone. -/
theorem onDev_quiet {i : Instr} {s : State} (f : Dev → Dev) (w : i.wellFormed = true) (h : s.dev.boot.held = false)
    (due : (f (latch s)).errq.due = []) (boot : (f (latch s)).boot = s.dev.boot) (tw : (f (latch s)).tagWait = [])
    (th : (f (latch s)).tagHeld = []) (sent : (f (latch s)).sw.seen = []) : onDev i s f = .next { s with dev := f (latch s) } := by
  rw [onDev_next f w h, settle_quiet due (by simpa using boot) tw th sent]

theorem onDev_held {i : Instr} {s : State} (f : Dev → Dev) (w : i.wellFormed = true) (h : s.dev.boot.held = true) :
    onDev i s f = .next s := by simp [onDev, w, h]

theorem onDev_ill {i : Instr} {s : State} (f : Dev → Dev) (w : i.wellFormed = false) : onDev i s f = .fault .noSuchUnit := by
  simp [onDev, w]

theorem onState_next {i : Instr} {s : State} (f : Clock → Dev → Clock × Dev) (w : i.wellFormed = true)
    (h : s.dev.boot.held = false) :
    onState i s f = .next { s with clk := (f s.clk (latch s)).1, dev := settle (latch s) (f s.clk (latch s)).2 } := by
  simp [onState, w, h]

theorem onState_quiet {i : Instr} {s : State} (f : Clock → Dev → Clock × Dev) (w : i.wellFormed = true)
    (h : s.dev.boot.held = false) (due : (f s.clk (latch s)).2.errq.due = []) (boot : (f s.clk (latch s)).2.boot = s.dev.boot)
    (tw : (f s.clk (latch s)).2.tagWait = []) (th : (f s.clk (latch s)).2.tagHeld = [])
    (sent : (f s.clk (latch s)).2.sw.seen = []) :
    onState i s f = .next { s with clk := (f s.clk (latch s)).1, dev := (f s.clk (latch s)).2 } := by
  rw [onState_next f w h, settle_quiet due (by simpa using boot) tw th sent]

theorem onState_held {i : Instr} {s : State} (f : Clock → Dev → Clock × Dev) (w : i.wellFormed = true)
    (h : s.dev.boot.held = true) : onState i s f = .next s := by simp [onState, w, h]

theorem onState_ill {i : Instr} {s : State} (f : Clock → Dev → Clock × Dev) (w : i.wellFormed = false) :
    onState i s f = .fault .noSuchUnit := by simp [onState, w]

theorem onPin_next {i : Instr} {s : State} (f : Clock → Dev → Clock × Dev) (w : i.wellFormed = true) :
    onPin i s f = .next { s with clk := (f s.clk (latch s)).1, dev := settle (latch s) (f s.clk (latch s)).2 } := by
  simp [onPin, w]

theorem onPin_ill {i : Instr} {s : State} (f : Clock → Dev → Clock × Dev) (w : i.wellFormed = false) :
    onPin i s f = .fault .noSuchUnit := by simp [onPin, w]

end Sys2Proof.Machine
end

