-- ==== Sys2Proof/Laws/Access.lean ====
section
/-! SUPPORT. Accesses to a line that its cache slice holds and no agent caches, the common case of every engine: reads,
writes, atomics and exact-adds at the home floe, and translation. -/

namespace Sys2Proof.Machine

open Sys2Proof

/-- A line of the stack or bulk tier that the slice of its floe holds, that no agent caches and that is not packed. -/
structure HeldLine (d : Dev) (line : Nat) (l : CLine) : Prop where
  on : floeOn d (homeFloe (pageOfLine line)) = true
  tier : (pageOf d (pageOfLine line)).tier = 1 ∨ (pageOf d (pageOfLine line)).tier = 2
  unpacked : (pageOf d (pageOfLine line)).packed = false
  free : tget? d.dir line = none
  dirSound : tget d.dirFlips line 0 = 0
  held : tget? d.cache line = some l
  sound : tget d.sliceFlips line 0 = 0
  path : d.pathBad.contains line = false

/-- The page of a line may be written without a log on another device or a wait for its energy, and packed. -/
structure PlainPage (d : Dev) (page : Nat) : Prop where
  volatile : (pageOf d page).durable = false
  single : (pageOf d page).twin = false
  packs : (pageOf d page).noPack = false

/-- The code of the directory finds nothing in a set without an upset. -/
theorem dirCode_sound {d : Dev} {line : Nat} (h : tget d.dirFlips line 0 = 0) : dirCode d line = (d, false) := by
  simp [dirCode, h]

/-- A line without a directory entry is in no agent's way. -/
theorem ncReady_free {d : Dev} {line : Nat} (inv : Bool) (h : tget? d.dir line = none) (u : tget d.dirFlips line 0 = 0) :
    ncReady d line inv = (d, none) := by
  simp [ncReady, ncBlocked, dirCode_sound u, h]

/-- A floe that is ON runs. -/
theorem floeRuns_on {d : Dev} {f : Nat} (h : floeOn d f = true) : floeRuns d f = true := by
  have : floeState d f = 0 := by simpa [floeOn] using h
  simp [floeRuns, this]

/-- A page that is not packed is open to writes. -/
theorem openPage_unpacked {d : Dev} {page : Nat} (w : Who) (h : (pageOf d page).packed = false) : openPage d w page = (d, none) := by
  simp [openPage, h]

/-- A line that the slice holds is counted as a hit. -/
theorem countAccess_held {d : Dev} {line : Nat} (h : (tget? d.cache line).isSome = true) :
    countAccess d line = telF d (homeFloe (pageOfLine line)) 0x1038 1 := by
  simp [countAccess, thas, h]

/-- A write that does not fail is noted nowhere. -/
theorem noteDurable_done (page : Nat) (d : Dev) : noteDurable page (d, none) = (d, none) := rfl

theorem isOrphan_free {d : Dev} {line : Nat} (h : tget? d.dir line = none) : isOrphan d line = false := by
  simp [isOrphan, dirOf, tget, h]

/-- A line whose path to its slice is sound passes the check. -/
theorem pathCheck_sound {d : Dev} {line : Nat} (w : Who) (h : d.pathBad.contains line = false) : pathCheck d w line = (d, none) := by
  unfold pathCheck
  rw [if_neg (by rw [h]; decide)]

/-- The code of a slice finds nothing in a line without an upset. -/
theorem sliceCode_sound {d : Dev} {line : Nat} (w : Who) (dirty : Bool) (h : tget d.sliceFlips line 0 = 0) :
    sliceCode d w line dirty = (d, .fine) := by
  unfold sliceCode
  simp [h]

/-- A hit is counted, gives the bytes held, and makes its line the one last used of its set. -/
theorem slicedRead_held {d : Dev} {line : Nat} {l : CLine} (w : Who) {how : Counted} (alloc : Bool) (k : how ≠ .before)
    (h : HeldLine d line l) :
    slicedRead d w line how alloc = (useLine (telF d (homeFloe (pageOfLine line)) 0x1038 1) line, .ok l.data) := by
  unfold slicedRead
  simp only [h.held, sliceCode_sound w l.dirty h.sound, if_neg k]

theorem homeRead_held {d : Dev} {line : Nat} {l : CLine} (w : Who) (h : HeldLine d line l) :
    homeRead d w line = (useLine (telF d (homeFloe (pageOfLine line)) 0x1038 1) line, .ok l.data) := by
  have k := slicedRead_held w true (how := .access) (by decide) h
  simp [homeRead, homeReadBy, floeRuns_on h.on, pathCheck_sound w h.path, k, isOrphan_free h.free]

/-- A line that the slice holds is replaced there. -/
theorem cacheAlloc_held {d : Dev} {line : Nat} (b : Bytes) (dirty : Bool) (h : (tget? d.cache line).isSome = true) :
    cacheAlloc d line b dirty = putLine d line b dirty := by
  simp [cacheAlloc, thas, h]

/-- A store to a plain page leaves the line in the slice, dirty. -/
theorem homeStore_held {d : Dev} {line : Nat} (w : Who) (b : Bytes) (p : PlainPage d (pageOfLine line))
    (h : (tget? d.cache line).isSome = true) : homeStore d w line b = (putLine d line b true, none) := by
  have t : (pageOf (putLine d line b true) (pageOfLine line)).twin = false := p.single
  simp [homeStore, rewritten, p.volatile, p.packs, cacheAlloc_held b true h, mirrorLine, t]

/-- A whole-line write of a line that the slice holds. -/
theorem homeWrite_held {d : Dev} {line : Nat} {l : CLine} (w : Who) (b : Bytes) (h : HeldLine d line l)
    (p : PlainPage d (pageOfLine line)) :
    homeWrite d w line b (2 ^ 64 - 1) = (putLine (telF d (homeFloe (pageOfLine line)) 0x1038 1) line (slice b 0 64) true, none) := by
  have e := homeStore_held (d := telF d (homeFloe (pageOfLine line)) 0x1038 1) w (slice b 0 64)
    ⟨p.volatile, p.single, p.packs⟩ (by simp [h.held])
  have c := countAccess_held (d := d) (line := line) (by simp [h.held])
  simp [homeWrite, mergeStore, floeRuns_on h.on, pathCheck_sound w h.path, openPage_unpacked w h.unpacked, isOrphan_free h.free, c,
    e, noteDurable_done]

/-- A write of some bytes of a line that the slice holds. -/
theorem homeWrite_held_mask {d : Dev} {line mask : Nat} {l : CLine} (w : Who) (b : Bytes) (h : HeldLine d line l)
    (p : PlainPage d (pageOfLine line)) (m : mask % 2 ^ 64 ≠ 2 ^ 64 - 1) :
    homeWrite d w line b mask =
      (putLine (useLine (telF d (homeFloe (pageOfLine line)) 0x1038 1) line) line (mergeMask l.data (slice b 0 64) mask) true, none) := by
  have e := homeStore_held (d := useLine (telF d (homeFloe (pageOfLine line)) 0x1038 1) line) w
    (mergeMask l.data (slice b 0 64) mask) ⟨p.volatile, p.single, p.packs⟩ (by simp [useLine, h.held])
  have m' : ¬ mask % 18446744073709551616 = 18446744073709551615 := m
  have k := slicedRead_held w true (how := .access) (by decide) h
  simp [homeWrite, mergeStore, floeRuns_on h.on, pathCheck_sound w h.path, openPage_unpacked w h.unpacked, isOrphan_free h.free, k,
    e, m', noteDurable_done]

/-- An address in a range that grants the right is translated, and nothing else happens. -/
theorem xlate_ok {w : W} {addr access i : Nat} {r : Range} (h : findRange w.d w.ctx w.gen addr = some (i, r))
    (right : (if access = 0 then r.r else if access = 1 then r.w else r.a) = true) :
    w.xlate addr access = (w, some (r.uni + (addr - r.start))) := by
  simp only [W.xlate, h, right, if_true]

/-- A read of a line that the slice holds. -/
theorem lineRead_held {w : W} {addr line access : Nat} {l : CLine} (h : HeldLine w.d line l) :
    w.lineRead addr line access = ({ w with d := useLine (telF w.d (homeFloe (pageOfLine line)) 0x1038 1) line }, l.data) := by
  unfold W.lineRead
  dsimp only
  rw [if_neg (by simp [W.reach, h.on]), if_neg (by rcases h.tier with t | t <;> omega),
    if_neg (by rcases h.tier with t | t <;> omega), if_neg (by rcases h.tier with t | t <;> omega), ncReady_free false h.free h.dirSound]
  dsimp only
  rw [homeRead_held w.who h]

/-- Only a page of the pool or the host tier can be frozen by the end of a copy. -/
theorem frozen_local {d : Dev} {page : Nat} (h : (pageOf d page).tier = 1 ∨ (pageOf d page).tier = 2) : frozen d page = false := by
  have : ¬ (pageOf d page).tier ≥ 3 := by omega
  simp [frozen, this]

/-- A whole-line write of a line that the slice holds, not held back. -/
theorem lineWrite_held {w : W} {addr line : Nat} {l : CLine} (b : Bytes) (final : Bool) (h : HeldLine w.d line l)
    (p : PlainPage w.d (pageOfLine line)) (k : mustHold w.d w.who.owner line final = false) :
    w.lineWrite addr line b (2 ^ 64 - 1) final =
      { w with d := putLine (telF w.d (homeFloe (pageOfLine line)) 0x1038 1) line (slice b 0 64) true, wrote := w.wrote + 1 } := by
  unfold W.lineWrite
  dsimp only
  rw [if_neg (by simp [W.reach, h.on]), if_neg (by simp [frozen_local h.tier]), if_neg (by rcases h.tier with t | t <;> omega),
    if_neg (by rcases h.tier with t | t <;> omega), if_neg (by rcases h.tier with t | t <;> omega)]
  dsimp only
  rw [ncReady_free true h.free h.dirSound]
  dsimp only
  rw [if_neg (by simp [k]), homeWrite_held w.who b h p]

/-- A write of a stream that has no request outstanding and is not final is not held back. -/
theorem mustHold_idle {d : Dev} (o : Owner) (line : Nat) (h : d.fab = []) : mustHold d o line false = false := by
  simp [mustHold, h]

end Sys2Proof.Machine
end

