-- ==== Sys2Proof/Laws/Bytes.lean ====
section
/-! SUPPORT. Lengths of the byte images the block builds, and when no slot is free. -/

namespace Sys2Proof.Machine

theorem leBytes_length (n v : Nat) : (leBytes n v).length = n := by
  induction n generalizing v with
  | zero => rfl
  | succ n ih => simp [leBytes, ih]

theorem zeros_length (n : Nat) : (zeros n).length = n := List.length_replicate

theorem slice_length (b : Bytes) (o n : Nat) : (slice b o n).length = n := by
  simp only [slice, List.length_append, List.length_take, List.length_drop, List.length_replicate]
  omega

/-- A node entry of the domain map is 32 bytes (R474). -/
theorem nodeBytes_length (e : NodeEntry) : (nodeBytes e).length = 32 := by
  simp only [nodeBytes, List.length_append, leBytes_length, List.length_flatMap]
  decide

/-- The domain map is its header, 1,024 node entries and the forme records (R474). -/
theorem mapBytes_length (m : DomainMap) : (mapBytes m).length = 32832 + (m.formes.flatMap formeBytes).length := by
  have h : ((List.range 1024).flatMap (fun n => nodeBytes (nodeOf m n))).length = 32768 := by
    simp only [List.length_flatMap, nodeBytes_length, List.map_const', List.length_range, List.sum_replicate_nat]
  have h7 : ((List.range 7).flatMap (fun i => leBytes 2 (m.managers.getD i 0xFFFF))).length = 14 := by
    simp only [List.length_flatMap, leBytes_length]
    decide
  simp only [mapBytes, List.length_append, h, h7, leBytes_length, zeros_length, List.length_cons, List.length_nil]

/-- No number is free where each is used. -/
theorem lowestFree_none (used : List Nat) (n : Nat) :
    ∀ k, (∀ i, i < n → (k + i) ∈ used) → lowestFree used k n = none := by
  induction n with
  | zero => intro k _; rfl
  | succ n ih =>
    intro k h
    have h0 : k ∈ used := h 0 (by omega)
    simp only [lowestFree, List.contains_iff_mem.mpr h0, if_true]
    exact ih (k + 1) (fun i hi => by have := h (i + 1) (by omega); rwa [show k + 1 + i = k + (i + 1) by omega])

end Sys2Proof.Machine
end

