-- ==== Sys2Proof/Laws/Commands.lean ====
section
/-! SUPPORT. The end of a galley command: when it completes at once, what its proof will say, and where the proof
waits. -/

namespace Sys2Proof.Machine

open Sys2Proof

/-- The command as its work ends. -/
def endedWork (c : Cmd) (f : Cmd → Cmd) : Cmd := (f { c with phase := 4 }).ended

/-- A command complete at a moment. -/
def completed (c : Cmd) (now : Nat) : Cmd :=
  { c with phase := 3, finish := now, partialOut := c.partialOut || (!okStatus c.status && decide (0 < c.writes)) }

@[simp] theorem owes_modCmd (d : Dev) (t : Nat) (f : Cmd → Cmd) (o : Owner) : owes (modCmd d t f) o = owes d o := rfl

@[simp] theorem owes_modGalley (d : Dev) (c g : Nat) (f : Galley → Galley) (o : Owner) : owes (modGalley d c g f) o = owes d o := rfl

@[simp] theorem insertDone_nil (cmds : Tab Cmd) (now index tag : Nat) : insertDone cmds now index tag [] = [tag] := rfl

theorem cmdOf_modCmd (d : Dev) (t : Nat) (f : Cmd → Cmd) : cmdOf (modCmd d t f) t = (cmdOf d t).map f := by
  simp [cmdOf, tget?_tmod_self]

/-- A command that holds no core and pins no generation has nothing to give back. -/
theorem freeCores_none {d : Dev} {tag : Nat} {c : Cmd} (h : c.cores = []) : freeCores d tag c = d := by
  unfold freeCores
  split
  · rfl
  · rw [h]; rfl

theorem unpinGen_none {d : Dev} {tag : Nat} {c : Cmd} (h : c.opcode ≠ 8) : unpinGen d c tag = d := by
  unfold unpinGen
  rw [if_neg (fun k => h k.1)]

/-- A command whose work has ended and to which nothing is owed completes: its proof is alone in the galley's list where
none waited. -/
theorem tryComplete_done {d : Dev} {tag : Nat} {c : Cmd} {x : Galley} (h : cmdOf d tag = some c) (p : c.phase = 4)
    (o : owes d (.cmd tag) = false) (g : tget? d.galleys (gkey c.ctx c.g) = some x) (n : x.done = []) (cs : c.cores = [])
    (pin : c.opcode ≠ 8) (cp : c.copied = c) :
    tryComplete d tag =
      { d with cmds := tput d.cmds tag (completed c d.now),
               galleys := tput d.galleys (gkey c.ctx c.g) { x with done := [tag] } } := by
  have hc : tget? d.cmds tag = some c := h
  unfold tryComplete
  simp only [h]
  rw [if_pos ⟨p, by simp [o]⟩]
  unfold complete
  simp only [cmdOf_modCmd, h, Option.map_some, cp]
  rw [unpinGen_none (by exact pin), freeCores_none (by exact cs)]
  simp [modCmd, modGalley, tmod_some hc, tmod_some g, n, completed, cp]

/-- While something is owed to it a command that has ended its work goes on waiting. -/
theorem tryComplete_owed {d : Dev} {tag : Nat} (o : owes d (.cmd tag) = true) : tryComplete d tag = d := by
  unfold tryComplete
  split
  · rfl
  · simp [o]

/-- Reads that no one keeps leave nothing to drop. -/
theorem dropReads_none {d : Dev} (gone : Owner → Bool) (r : d.reads = []) (f : d.fab = []) (p : d.ports = [])
    (t : d.touched = []) : dropReads d gone = d := by
  unfold dropReads
  rw [r]
  simp only [List.filter_nil, List.foldl_nil]
  rw [f, p, t]
  simp only [List.filter_nil, List.map_nil]
  rw [← r, ← f, ← p, ← t]

/-- The end of the work of a command to which nothing is owed, at a galley where no proof waits. -/
theorem endCmd_done {d : Dev} {tag : Nat} {c : Cmd} {x : Galley} {f : Cmd → Cmd} (h : cmdOf d tag = some c)
    (p : (endedWork c f).phase = 4) (k : (endedWork c f).ctx = c.ctx ∧ (endedWork c f).g = c.g)
    (fb : (endedWork c f).fallbacks = 0) (cs : (endedWork c f).cores = []) (pin : (endedWork c f).opcode ≠ 8)
    (cp : (endedWork c f).copied = endedWork c f) (rd : d.reads = []) (tc : d.touched = []) (fab : d.fab = []) (pt : d.ports = []) (sy : d.mbr.sync = [])
    (g : tget? d.galleys (gkey c.ctx c.g) = some x) (n : x.done = []) :
    endCmd d tag f =
      { d with runq := d.runq.filter (· ≠ tag), cmds := tput d.cmds tag (completed (endedWork c f) d.now),
               galleys := tput d.galleys (gkey c.ctx c.g) { x with done := [tag] } } := by
  have hc : tget? d.cmds tag = some c := h
  have e : modCmd { d with runq := d.runq.filter (· ≠ tag) } tag (fun c => (f { c with phase := 4 }).ended) =
      { d with runq := d.runq.filter (· ≠ tag), cmds := tput d.cmds tag (endedWork c f) } := by
    simp [modCmd, tmod_some hc, endedWork]
  unfold endCmd
  dsimp only
  rw [e]
  have q : cmdOf { d with runq := d.runq.filter (· ≠ tag), cmds := tput d.cmds tag (endedWork c f) } tag = some (endedWork c f) := by
    simp [cmdOf]
  simp only [q]
  rw [if_pos fb, dropReads_none (d := { d with runq := d.runq.filter (· ≠ tag), cmds := tput d.cmds tag (endedWork c f) }) _ rd fab pt tc,
    tryComplete_done q p (by simp [owes, fab, sy, pt]) (by rw [k.1, k.2]; exact g) n cs pin cp]
  simp [k.1, k.2]

/-- A command ready for its engine whose work neither meets a block nor fails. -/
theorem runCmd_done {d : Dev} {far : Far} {tag src : Nat} {ops : List Nat} {body : Cmd → W → W × (Cmd → Cmd)} {c : Cmd}
    {r : W × (Cmd → Cmd)} (h : cmdOf d tag = some c) (p : c.phase = 1 ∨ c.phase = 2) (o : ops.contains c.opcode = true)
    (f : floeOn d c.floe = true) (b : body c (W.start d far c.ctx c.gen (c.who tag src)) = r) (k : r.1.blocked = none)
    (e : r.1.err = none) :
    runCmd d far tag src ops body = endCmd r.1.d tag (fun c => { r.2 c with writes := (r.2 c).writes + r.1.wrote }) := by
  unfold runCmd
  simp only [h]
  rw [if_pos ⟨p, o, f⟩]
  simp only [b, k, e]

/-- The same where its work fails: the command ends with the failure's status. -/
theorem runCmd_fails {d : Dev} {far : Far} {tag src : Nat} {ops : List Nat} {body : Cmd → W → W × (Cmd → Cmd)} {c : Cmd}
    {r : W × (Cmd → Cmd)} {x : Nat × Nat} (h : cmdOf d tag = some c) (p : c.phase = 1 ∨ c.phase = 2)
    (o : ops.contains c.opcode = true) (f : floeOn d c.floe = true)
    (b : body c (W.start d far c.ctx c.gen (c.who tag src)) = r) (k : r.1.blocked = none) (e : r.1.err = some x) :
    runCmd d far tag src ops body =
      endCmd r.1.d tag (fun c => { r.2 c with status := x.1, detail := x.2, writes := (r.2 c).writes + r.1.wrote }) := by
  unfold runCmd
  simp only [h]
  rw [if_pos ⟨p, o, f⟩]
  simp only [b, k, e]

/-- Work that meets a block leaves nothing but what unblocks it and the units it has been dealt, and is tried again
later. -/
theorem runCmd_blocked {d : Dev} {far : Far} {tag src : Nat} {ops : List Nat} {body : Cmd → W → W × (Cmd → Cmd)} {c : Cmd}
    {r : W × (Cmd → Cmd)} {x : Blocked} (h : cmdOf d tag = some c) (p : c.phase = 1 ∨ c.phase = 2)
    (o : ops.contains c.opcode = true) (f : floeOn d c.floe = true)
    (b : body c (W.start d far c.ctx c.gen (c.who tag src)) = r) (k : r.1.blocked = some x) :
    runCmd d far tag src ops body = unblock (modCmd d tag (fun c => { c with phase := 2, units := (r.2 c).units })) x := by
  unfold runCmd
  simp only [h]
  rw [if_pos ⟨p, o, f⟩]
  simp only [b, k]

end Sys2Proof.Machine
end

