-- ==== Sys2Proof/Laws/Memory.lean ====
section
/-! SUPPORT. Byte memories: every operation keeps the canonical form, a read gives what was written, and a write leaves
every other byte alone. -/

namespace Sys2Proof.Machine

theorem cellsAbove_mono {m : List Host.Cell} {a b : Nat} (h : a ≤ b) (w : cellsAbove b m = true) : cellsAbove a m = true := by
  cases m with
  | nil => rfl
  | cons c t =>
    obtain ⟨k, v⟩ := c
    simp only [cellsAbove, Bool.and_eq_true, decide_eq_true_eq] at w ⊢
    exact ⟨⟨by omega, w.1.2⟩, w.2⟩

theorem cellsAbove_filter (p : Host.Cell → Bool) {m : List Host.Cell} {a : Nat} (w : cellsAbove a m = true) :
    cellsAbove a (m.filter p) = true := by
  induction m generalizing a with
  | nil => rfl
  | cons c t ih =>
    obtain ⟨k, v⟩ := c
    simp only [cellsAbove, Bool.and_eq_true, decide_eq_true_eq] at w
    simp only [List.filter_cons]
    split
    · simp only [cellsAbove, Bool.and_eq_true, decide_eq_true_eq]
      exact ⟨w.1, ih w.2⟩
    · exact cellsAbove_mono (by omega) (ih w.2)

/-- The cells of a run lie from its start on. -/
theorem memCells_above (a : Nat) (b : Bytes) : cellsAbove a (memCells a b) = true := by
  induction b generalizing a with
  | nil => rfl
  | cons x t ih =>
    simp only [memCells]
    split
    · exact cellsAbove_mono (by omega) (ih (a + 1))
    · simp only [cellsAbove, Bool.and_eq_true, decide_eq_true_eq, bne_iff_ne, ne_eq]
      exact ⟨⟨by omega, ‹_›⟩, ih (a + 1)⟩

/-- Cells that end below an address, put before cells from that address on. -/
theorem cellsAbove_append {m n : List Host.Cell} {a e : Nat} (hm : cellsAbove a m = true) (ha : a ≤ e)
    (hlt : ∀ c ∈ m, c.1 < e) (hn : cellsAbove e n = true) : cellsAbove a (m ++ n) = true := by
  induction m generalizing a with
  | nil => exact cellsAbove_mono ha hn
  | cons c t ih =>
    obtain ⟨k, v⟩ := c
    have hk := hlt (k, v) (List.mem_cons_self ..)
    simp only [cellsAbove, Bool.and_eq_true, decide_eq_true_eq] at hm
    simp only [List.cons_append, cellsAbove, Bool.and_eq_true, decide_eq_true_eq]
    exact ⟨hm.1, ih hm.2 (by have : k < e := hk; omega) (fun c h => hlt c (List.mem_cons_of_mem _ h))⟩

/-- Cells of a canonical memory at an address or above are canonical from there. -/
theorem cellsAbove_from {m : List Host.Cell} {a e : Nat} (w : cellsAbove a m = true) :
    cellsAbove e (m.filter (fun c => decide (e ≤ c.1))) = true := by
  induction m generalizing a with
  | nil => rfl
  | cons c t ih =>
    obtain ⟨k, v⟩ := c
    simp only [cellsAbove, Bool.and_eq_true, decide_eq_true_eq] at w
    by_cases h : e ≤ k
    · simp only [List.filter_cons, decide_eq_true_eq, h, if_true, cellsAbove, Bool.and_eq_true]
      exact ⟨⟨trivial, w.1.2⟩, cellsAbove_filter _ w.2⟩
    · simpa [List.filter_cons, h] using ih w.2

theorem memCells_lt (a : Nat) (b : Bytes) : ∀ c ∈ memCells a b, c.1 < a + b.length := by
  induction b generalizing a with
  | nil => simp [memCells]
  | cons x t ih =>
    intro c hc
    simp only [memCells] at hc
    simp only [List.length_cons]
    split at hc
    · have := ih _ c hc; omega
    · rcases List.mem_cons.mp hc with h | h
      · subst h; simp
      · have := ih _ c h; omega

/-- A write keeps the canonical form. -/
theorem memWrite_wf {m : List Host.Cell} (a : Nat) (b : Bytes) (w : Memory.wf m = true) : Memory.wf (memWrite m a b) = true := by
  have h1 : cellsAbove (a + b.length) (m.filter (fun c => decide (a + b.length ≤ c.1))) = true := cellsAbove_from w
  have h2 : cellsAbove a (memCells a b ++ m.filter (fun c => decide (a + b.length ≤ c.1))) = true :=
    cellsAbove_append (memCells_above a b) (by omega) (memCells_lt a b) h1
  unfold Memory.wf memWrite
  rw [List.append_assoc]
  exact cellsAbove_append (cellsAbove_filter _ w) (by omega) (by simp) h2

/-- Clearing keeps the canonical form. -/
theorem memClear_wf {m : List Host.Cell} (a n : Nat) (w : Memory.wf m = true) : Memory.wf (memClear m a n) = true :=
  cellsAbove_filter _ w

/-- Keeping only some cells keeps the canonical form: what a device reset and a loss of power leave. -/
theorem filter_wf {m : List Host.Cell} (p : Host.Cell → Bool) (w : Memory.wf m = true) : Memory.wf (m.filter p) = true :=
  cellsAbove_filter _ w

/-- The memory right after reset is canonical. -/
theorem reset_mem_wf : Memory.wf State.reset.dev.mem = true := rfl

theorem memGet_below {m : List Host.Cell} {a b : Nat} (w : cellsAbove b m = true) (h : a < b) : memGet m a = 0 := by
  cases m with
  | nil => rfl
  | cons c t =>
    obtain ⟨k, v⟩ := c
    simp only [cellsAbove, Bool.and_eq_true, decide_eq_true_eq] at w
    simp only [memGet, if_pos (show a < k by omega)]

/-- The bytes read are those at the addresses one after another, out of cells that lie from the start on. -/
theorem memFrom_eq {m : List Host.Cell} (n a : Nat) (w : cellsAbove a m = true) :
    memFrom n m a = (List.range n).map (fun i => memGet m (a + i)) := by
  induction n generalizing m a with
  | zero => rfl
  | succ n ih =>
    rw [List.range_succ_eq_map, List.map_cons, List.map_map]
    cases m with
    | nil =>
      simp only [memFrom, memGet]
      rw [ih _ (show cellsAbove (a + 1) [] = true from rfl)]
      simp [memGet, Function.comp_def]
    | cons c t =>
      obtain ⟨k, v⟩ := c
      have w' := w
      simp only [cellsAbove, Bool.and_eq_true, decide_eq_true_eq] at w
      simp only [memFrom]
      split
      · rename_i e
        subst e
        rw [ih _ w.2]
        simp only [memGet, Nat.add_zero, Nat.lt_irrefl, if_false, if_true, List.cons.injEq, true_and]
        apply List.map_congr_left
        intro i _
        simp only [Function.comp_apply, Nat.succ_eq_add_one]
        rw [if_neg (by omega), if_neg (by omega)]
        congr 1
        omega
      · rw [ih _ (show cellsAbove (a + 1) ((k, v) :: t) = true by
          simp only [cellsAbove, Bool.and_eq_true, decide_eq_true_eq]; exact ⟨⟨by omega, w.1.2⟩, w.2⟩)]
        simp only [memGet, Nat.add_zero, if_pos (show a < k by omega), List.cons.injEq, true_and]
        apply List.map_congr_left
        intro i _
        simp only [Function.comp_apply, Nat.succ_eq_add_one]
        rw [show a + (i + 1) = a + 1 + i by omega]

theorem dropWhile_above {m : List Host.Cell} {a b : Nat} (w : cellsAbove b m = true) :
    cellsAbove a (m.dropWhile (fun c => decide (c.1 < a))) = true := by
  induction m generalizing b with
  | nil => rfl
  | cons c t ih =>
    obtain ⟨k, v⟩ := c
    simp only [cellsAbove, Bool.and_eq_true, decide_eq_true_eq] at w
    simp only [List.dropWhile_cons, decide_eq_true_eq]
    split
    · exact ih w.2
    · simp only [cellsAbove, Bool.and_eq_true, decide_eq_true_eq]
      exact ⟨⟨by omega, w.1.2⟩, w.2⟩

theorem memGet_dropWhile {m : List Host.Cell} {a b x : Nat} (w : cellsAbove b m = true) (h : a ≤ x) :
    memGet (m.dropWhile (fun c => decide (c.1 < a))) x = memGet m x := by
  induction m generalizing b with
  | nil => rfl
  | cons c t ih =>
    obtain ⟨k, v⟩ := c
    simp only [cellsAbove, Bool.and_eq_true, decide_eq_true_eq] at w
    simp only [List.dropWhile_cons, decide_eq_true_eq]
    split
    · rw [ih w.2]; simp only [memGet]; rw [if_neg (by omega), if_neg (by omega)]
    · rfl

/-- A read of `n` bytes gives the byte at each address in turn. -/
theorem memRead_eq {m : List Host.Cell} (a n : Nat) (w : Memory.wf m = true) :
    memRead m a n = (List.range n).map (fun i => memGet m (a + i)) := by
  unfold memRead
  rw [memFrom_eq n a (dropWhile_above w)]
  apply List.map_congr_left
  intro i _
  exact memGet_dropWhile w (by omega)

theorem memGet_append_lt {m n : List Host.Cell} {a e x : Nat} (w : cellsAbove a m = true) (hn : cellsAbove e n = true)
    (h : x < e) : memGet (m ++ n) x = memGet m x := by
  induction m generalizing a with
  | nil => exact memGet_below hn h
  | cons c t ih =>
    obtain ⟨k, v⟩ := c
    simp only [cellsAbove, Bool.and_eq_true, decide_eq_true_eq] at w
    simp only [List.cons_append, memGet, ih w.2]

theorem memGet_append_ge {m n : List Host.Cell} {e x : Nat} (hlt : ∀ c ∈ m, c.1 < e) (h : e ≤ x) :
    memGet (m ++ n) x = memGet n x := by
  induction m with
  | nil => rfl
  | cons c t ih =>
    obtain ⟨k, v⟩ := c
    have hk := hlt (k, v) (List.mem_cons_self ..)
    have hk' : k < e := by simpa using hk
    simp only [List.cons_append, memGet]
    rw [if_neg (by omega), if_neg (by omega), ih (fun c h => hlt c (List.mem_cons_of_mem _ h))]

theorem memGet_filter_lt {m : List Host.Cell} {a b x : Nat} (w : cellsAbove b m = true) (h : x < a) :
    memGet (m.filter (fun c => decide (c.1 < a))) x = memGet m x := by
  induction m generalizing b with
  | nil => rfl
  | cons c t ih =>
    obtain ⟨k, v⟩ := c
    simp only [cellsAbove, Bool.and_eq_true, decide_eq_true_eq] at w
    by_cases e : k < a
    · simp only [List.filter_cons, decide_eq_true_eq, e, if_true, memGet, ih w.2]
    · simp only [List.filter_cons, decide_eq_true_eq, e, if_false, memGet]
      rw [ih w.2, if_pos (by omega)]
      exact memGet_below w.2 (by omega)

theorem memGet_filter_ge {m : List Host.Cell} {a b x : Nat} (w : cellsAbove b m = true) (h : a ≤ x) :
    memGet (m.filter (fun c => decide (a ≤ c.1))) x = memGet m x := by
  induction m generalizing b with
  | nil => rfl
  | cons c t ih =>
    obtain ⟨k, v⟩ := c
    simp only [cellsAbove, Bool.and_eq_true, decide_eq_true_eq] at w
    by_cases e : a ≤ k
    · simp only [List.filter_cons, decide_eq_true_eq, e, if_true, memGet, ih w.2]
    · simp only [List.filter_cons, decide_eq_true_eq, e, if_false, memGet]
      rw [ih w.2, if_neg (by omega), if_neg (by omega)]

theorem memGet_memCells (a : Nat) (b : Bytes) (i : Nat) (h : i < b.length) : memGet (memCells a b) (a + i) = b.getD i 0 := by
  induction b generalizing a i with
  | nil => simp at h
  | cons x t ih =>
    simp only [memCells]
    cases i with
    | zero =>
      split
      · rw [memGet_below (memCells_above (a + 1) t) (by omega)]; simp [*]
      · simp [memGet]
    | succ i =>
      have hi : i < t.length := by simpa using h
      have e : a + (i + 1) = a + 1 + i := by omega
      split
      · rw [e, ih (a + 1) i hi]; simp
      · simp only [memGet]
        rw [if_neg (by omega), if_neg (by omega), e, ih (a + 1) i hi]; simp

/-- A byte inside a run that has been written reads as written. -/
theorem memGet_memWrite_in {m : List Host.Cell} (a : Nat) (b : Bytes) (i : Nat) (w : Memory.wf m = true) (h : i < b.length) :
    memGet (memWrite m a b) (a + i) = b.getD i 0 := by
  unfold memWrite
  rw [List.append_assoc, memGet_append_ge (e := a) (by simp) (by omega),
    memGet_append_lt (memCells_above a b) (cellsAbove_from w) (by omega)]
  exact memGet_memCells a b i h

/-- A byte outside a run that has been written reads as before. -/
theorem memGet_memWrite_out {m : List Host.Cell} (a : Nat) (b : Bytes) (x : Nat) (w : Memory.wf m = true)
    (h : x < a ∨ a + b.length ≤ x) : memGet (memWrite m a b) x = memGet m x := by
  have h1 : cellsAbove (a + b.length) (m.filter (fun c => decide (a + b.length ≤ c.1))) = true := cellsAbove_from w
  have h2 : cellsAbove a (memCells a b ++ m.filter (fun c => decide (a + b.length ≤ c.1))) = true :=
    cellsAbove_append (memCells_above a b) (by omega) (memCells_lt a b) h1
  unfold memWrite
  rw [List.append_assoc]
  rcases h with h | h
  · rw [memGet_append_lt (cellsAbove_filter _ w) h2 h]
    exact memGet_filter_lt w h
  · rw [memGet_append_ge (e := a) (by simp) (by omega), memGet_append_ge (memCells_lt a b) h]
    exact memGet_filter_ge w h

end Sys2Proof.Machine
end

