-- ==== Sys2Proof/Tests/Slice0.lean ====
section
/-! SUPPORT. Tests: ill-formed commands are refused and the largest operands accepted; single commands on small states,
with results worked out from the rules; and, for every statement with hypotheses, a state and operands that meet them. -/

set_option Elab.async false
set_option maxRecDepth 100000

namespace Sys2Proof.Tests

open Sys2Proof Sys2Proof.Machine

/-! ### Small states -/

/-- The state after reset with the device up: READY, every floe ON, context 0 alone. -/
def stUp : State :=
  { State.reset with dev := { State.reset.dev with
    boot := { Boot.reset with held := false, phase := 3, floes := [(0, 0), (1, 0), (2, 0), (3, 0)] }
    ctxs := [(0, Ctx.fresh)] } }

/-- That state with its device changed. -/
def stWith (f : Dev → Dev) : State := { stUp with dev := f stUp.dev }

/-- The 64 bytes of a request: code, version, and a body from byte 8 on. -/
def reqOf (code : Nat) (body : Bytes) : Bytes := slice (leBytes 2 code ++ [1] ++ zeros 5 ++ body) 0 64

/-- A request in service. -/
def svOf (code : Nat) (body : Bytes) : Service := ⟨1, 0, reqOf code body, none, false, false, false, none, none, false⟩

/-- The device up with a request in service at a mailbox. -/
def stSvc (mb : Nat) (sv : Service) : State := stWith (fun d => { d with mbx := [(mb, { Mailbox.reset with svc := some sv })] })

/-- A command with an opcode and the bytes of its entry from byte 1 on. -/
def cmdWith (op : Nat) (body : Bytes) (phase : Nat) : Cmd :=
  { ctx := 0, g := 0, floe := 0, index := 0, entry := slice (leBytes 1 op ++ body) 0 64, gen := 0, order := 0, start := 0, finish := 0,
    phase := phase, status := 0, detail := 0, digest := 0, count := 0, fallbacks := 0, firstFallback := 0, oor := 0, stale := 0,
    rechecks := 0, partialOut := false, late := [], allLate := false, covers := [], cores := [], ends := [], blocks := [],
    blocksDone := [], pos := 0, record := none, failAt := none, opens := [], par := zeros 64, qos := 0, writes := 0, units := [] }

/-- So many tags in use, all of context 1. -/
def manyCmds (n : Nat) : Tab Cmd := (List.range n).map (fun i => (i, { cmdWith 0x38 [] 1 with ctx := 1 }))

/-- The parameters of a galley: rings at 0x1000 and 0x2000 of eight slots, the tail word at 0x3000, every flag, COAL_US 10. -/
def galPar : Bytes := slice (leBytes 8 0x1000 ++ leBytes 8 0x2000 ++ leBytes 8 0x3000 ++ [3, 3, 0, 7] ++ zeros 8 ++ leBytes 4 10) 0 64

/-- A galley with those parameters. -/
def galUp : Galley := { Galley.none with par := galPar }

/-- The device up with page 0 placed and mapped by range 0 of context 0. -/
def stMem (f : Dev → Dev) : State := stWith (fun d => f { d with
  ctxs := [(0, { Ctx.fresh with ranges := [(0, ⟨0, 65536, 0, true, true, true, false, none, 0, none, none, none, 0⟩)] })]
  pages := [(0, { Page.unplaced with tier := 1 })] })

/-- That, with a galley. -/
def stGal (x : Galley) (f : Dev → Dev) : State := stMem (fun d => f { d with galleys := [(0, x)] })

/-- A running core with an instruction at the head of a stream's queue, whose channel is ACTIVE. -/
def coreRun (x : Core) (st : Nat) (i : TInstr) : Core :=
  { x with state := 2, streams := [(st, ⟨[i], []⟩)], chans := if st < 2 then [] else [(st - 2, { Chan.idle with state := 1 })] }

/-- The device up with such a core. -/
def stCore (c st : Nat) (i : TInstr) (x : Core) : State := stWith (fun d => { d with cores := [(c, coreRun x st i)] })

/-- A tile descriptor that is not scaled. -/
def tileBytes (base rows rowBytes stride fmt : Nat) : Bytes :=
  slice (leBytes 4 base ++ leBytes 2 rows ++ leBytes 2 rowBytes ++ leBytes 4 stride ++ leBytes 1 fmt) 0 32

/-! ### Which commands are well-formed -/

theorem test_wellFormed_accepts_1 :
    (.post 11 15 : Instr).wellFormed ∧
    (.reqDataWrite 11 15 0 [] : Instr).wellFormed ∧
    (.rspHdrRead 11 15 0 4 : Instr).wellFormed ∧
    (.requestTake 15 : Instr).wellFormed ∧
    (.replyWrite 15 : Instr).wellFormed ∧
    (.serviceTimeout 15 : Instr).wellFormed ∧
    (.setAsideServe 15 : Instr).wellFormed ∧
    (.doorbellClear 11 15 0 : Instr).wellFormed ∧
    (.dbMaskWrite 11 15 0 : Instr).wellFormed ∧
    (.identify 15 : Instr).wellFormed ∧
    (.status 15 : Instr).wellFormed ∧
    (.eventRead 15 : Instr).wellFormed ∧
    (.errorRead 15 : Instr).wellFormed ∧
    (.mailboxBind 15 : Instr).wellFormed ∧
    (.fieldRead 15 : Instr).wellFormed ∧
    (.fieldWrite 15 : Instr).wellFormed ∧
    (.floePowerOff 15 : Instr).wellFormed ∧
    (.floePowerOn 15 : Instr).wellFormed ∧
    (.floeDrainDone 3 : Instr).wellFormed ∧
    (.floeDrainTimeout 3 : Instr).wellFormed ∧
    (.floeWakeDone 3 : Instr).wellFormed ∧
    (.objCreate 15 : Instr).wellFormed ∧
    (.objModify 15 : Instr).wellFormed ∧
    (.objQuery 15 : Instr).wellFormed := by
  decide

theorem test_wellFormed_accepts_2 :
    (.objDestroy 15 : Instr).wellFormed ∧
    (.decoderBind 15 : Instr).wellFormed ∧
    (.regionPublish 15 : Instr).wellFormed ∧
    (.regionBind 15 : Instr).wellFormed ∧
    (.regionRelease 15 : Instr).wellFormed ∧
    (.versionRetire 4095 0 : Instr).wellFormed ∧
    (.rangeRetire 511 : Instr).wellFormed ∧
    (.contextReset 15 : Instr).wellFormed ∧
    (.resetDrainExpire 511 : Instr).wellFormed ∧
    (.resetPurge 511 : Instr).wellFormed ∧
    (.reclaim 15 : Instr).wellFormed ∧
    (.orphanLogRead 15 : Instr).wellFormed ∧
    (.formeChange 15 : Instr).wellFormed ∧
    (.mapRead 15 : Instr).wellFormed ∧
    (.seqHandoffGive 15 : Instr).wellFormed ∧
    (.seqHandoffArm 15 : Instr).wellFormed ∧
    (.seqHandoffResolve 15 : Instr).wellFormed ∧
    (.giveReplyTimeout 4095 : Instr).wellFormed ∧
    (.imagePush 15 : Instr).wellFormed ∧
    (.configPush 15 : Instr).wellFormed ∧
    (.registerWrite (.core 63) 0 4 0 : Instr).wellFormed ∧
    (.cxlMemRead 11 (2 ^ 52 - 1) [] : Instr).wellFormed ∧
    (.cxlMemWrite 11 (2 ^ 52 - 1) [] 0 [] : Instr).wellFormed ∧
    (.touchFaultDmaDone (2 ^ 28 - 1) (.err 0) : Instr).wellFormed := by
  decide

theorem test_wellFormed_accepts_3 :
    (.packedDecodeDone (2 ^ 28 - 1) 15 : Instr).wellFormed ∧
    (.plcEpochSweep 3 : Instr).wellFormed ∧
    (.moveStart 3 : Instr).wellFormed ∧
    (.moveCopyDone (2 ^ 28 - 1) : Instr).wellFormed ∧
    (.moveRelease (2 ^ 28 - 1) : Instr).wellFormed ∧
    (.moveCopyTimeout (2 ^ 28 - 1) : Instr).wellFormed ∧
    (.deadlineExpire 4095 [] : Instr).wellFormed ∧
    (.migrate 4095 [] : Instr).wellFormed ∧
    (.prefetch 4095 [] : Instr).wellFormed ∧
    (.cacheFlush 3 : Instr).wellFormed ∧
    (.cacheFlushDone 3 : Instr).wellFormed ∧
    (.tnop 63 17 : Instr).wellFormed ∧
    (.mzero 63 : Instr).wellFormed ∧
    (.mload 63 : Instr).wellFormed ∧
    (.mmul 63 : Instr).wellFormed ∧
    (.mstore 63 : Instr).wellFormed ∧
    (.vld 63 : Instr).wellFormed ∧
    (.vst 63 : Instr).wellFormed ∧
    (.vop 63 : Instr).wellFormed ∧
    (.vred 63 : Instr).wellFormed ∧
    (.vfn 63 : Instr).wellFormed ∧
    (.vqnt 63 : Instr).wellFormed ∧
    (.xld 63 17 [] : Instr).wellFormed ∧
    (.xst 63 17 [] : Instr).wellFormed := by
  decide

theorem test_wellFormed_accepts_4 :
    (.xsti 63 17 [] : Instr).wellFormed ∧
    (.xadd 63 17 [] : Instr).wellFormed ∧
    (.dchain 63 15 : Instr).wellFormed ∧
    (.swait 63 : Instr).wellFormed ∧
    (.ssignal 63 : Instr).wellFormed ∧
    (.spulse 63 : Instr).wellFormed ∧
    (.sdrain 63 : Instr).wellFormed ∧
    (.send 63 : Instr).wellFormed ∧
    (.issueStallRelease 63 : Instr).wellFormed ∧
    (.tokenWaitRelease 63 17 : Instr).wellFormed ∧
    (.instructionComplete 63 17 : Instr).wellFormed ∧
    (.eventPulse 63 255 15 : Instr).wellFormed ∧
    (.scalarLoad 63 0 8 31 false [] : Instr).wellFormed ∧
    (.scalarStore 63 0 8 0 [] : Instr).wellFormed ∧
    (.scalarAmo 63 16 0 8 0 31 [] : Instr).wellFormed ∧
    (.scalarLrSc 63 false 0 8 0 31 : Instr).wellFormed ∧
    (.scalarTrap 63 0 : Instr).wellFormed ∧
    (.coreStop 63 : Instr).wellFormed ∧
    (.clearFault 63 : Instr).wellFormed ∧
    (.coreWatchdog 63 : Instr).wellFormed ∧
    (.coreStopDone 63 : Instr).wellFormed ∧
    (.run 4095 : Instr).wellFormed ∧
    (.coreAssign 4095 : Instr).wellFormed ∧
    (.kernelLoadDone 63 [] : Instr).wellFormed := by
  decide

theorem test_wellFormed_accepts_5 :
    (.prefetcherEnable 63 15 false : Instr).wellFormed ∧
    (.prefetchLineIssue 63 15 : Instr).wellFormed ∧
    (.cmdTailWrite 11 511 7 0 : Instr).wellFormed ∧
    (.proofHeadWrite 11 511 7 0 : Instr).wellFormed ∧
    (.galleyStart 11 511 7 : Instr).wellFormed ∧
    (.galleyStop 11 511 7 : Instr).wellFormed ∧
    (.galleyStopAbort 11 511 7 : Instr).wellFormed ∧
    (.clearHalt 11 511 7 : Instr).wellFormed ∧
    (.droppedRead 11 511 7 : Instr).wellFormed ∧
    (.tailShadowPoll 511 7 [] : Instr).wellFormed ∧
    (.commandFetch 3 [] : Instr).wellFormed ∧
    (.afterPrevStart 4095 : Instr).wellFormed ∧
    (.proofWrite 511 7 : Instr).wellFormed ∧
    (.proofWriteAck 511 7 : Instr).wellFormed ∧
    (.coalTimerExpire 511 7 : Instr).wellFormed ∧
    (.fence 4095 : Instr).wellFormed ∧
    (.fenceComplete 4095 : Instr).wellFormed ∧
    (.impress 4095 : Instr).wellFormed ∧
    (.nop 4095 : Instr).wellFormed ∧
    (.attend 4095 [] : Instr).wellFormed ∧
    (.attendMerge 4095 [] : Instr).wellFormed ∧
    (.gather 4095 [] : Instr).wellFormed ∧
    (.scatterGrad 4095 [] : Instr).wellFormed ∧
    (.rowReplace 4095 [] : Instr).wellFormed := by
  decide

theorem test_wellFormed_accepts_6 :
    (.rowChangeResume 4095 [] : Instr).wellFormed ∧
    (.generationCommit 4095 : Instr).wellFormed ∧
    (.search 4095 [] : Instr).wellFormed ∧
    (.indexInsert 4095 [] : Instr).wellFormed ∧
    (.indexDelete 4095 [] : Instr).wellFormed ∧
    (.encode 4095 [] : Instr).wellFormed ∧
    (.decode 4095 [] : Instr).wellFormed ∧
    (.codecBlockDone 4095 0 : Instr).wellFormed ∧
    (.fill 4095 [] : Instr).wellFormed ∧
    (.copy 4095 [] : Instr).wellFormed ∧
    (.compare 4095 [] : Instr).wellFormed ∧
    (.reduce 4095 [] : Instr).wellFormed ∧
    (.read (2 ^ 64 - 1) : Instr).wellFormed ∧
    (.write (2 ^ 64 - 1) : Instr).wellFormed ∧
    (.add (2 ^ 64 - 1) : Instr).wellFormed ∧
    (.and (2 ^ 64 - 1) : Instr).wellFormed ∧
    (.or (2 ^ 64 - 1) : Instr).wellFormed ∧
    (.xor (2 ^ 64 - 1) : Instr).wellFormed ∧
    (.min (2 ^ 64 - 1) : Instr).wellFormed ∧
    (.max (2 ^ 64 - 1) : Instr).wellFormed ∧
    (.umin (2 ^ 64 - 1) : Instr).wellFormed ∧
    (.umax (2 ^ 64 - 1) : Instr).wellFormed ∧
    (.swap (2 ^ 64 - 1) : Instr).wellFormed ∧
    (.cas (2 ^ 64 - 1) : Instr).wellFormed := by
  decide

theorem test_wellFormed_accepts_7 :
    (.exactAdd (2 ^ 64 - 1) : Instr).wellFormed ∧
    (.fillRun (2 ^ 64 - 1) : Instr).wellFormed ∧
    (.copyRun (2 ^ 64 - 1) : Instr).wellFormed ∧
    (.compareRun (2 ^ 64 - 1) : Instr).wellFormed ∧
    (.reducePart (2 ^ 64 - 1) : Instr).wellFormed ∧
    (.fabricAck (2 ^ 64 - 1) : Instr).wellFormed ∧
    (.fabricTimeout (2 ^ 64 - 1) : Instr).wellFormed ∧
    (.finalWriteRelease (2 ^ 64 - 1) : Instr).wellFormed ∧
    (.dedupEntryExpire (2 ^ 64 - 1) : Instr).wellFormed ∧
    (.rdShared 75 (2 ^ 38 - 1) : Instr).wellFormed ∧
    (.rdOwn 75 (2 ^ 38 - 1) : Instr).wellFormed ∧
    (.upgrade 75 (2 ^ 38 - 1) : Instr).wellFormed ∧
    (.wb 75 (2 ^ 38 - 1) [] false false : Instr).wellFormed ∧
    (.evict 75 (2 ^ 38 - 1) : Instr).wellFormed ∧
    (.ncRd (2 ^ 38 - 1) : Instr).wellFormed ∧
    (.ncWr (2 ^ 38 - 1) [] 0 : Instr).wellFormed ∧
    (.ncAtomic (2 ^ 38 - 1) ⟨0, 0, 8, 0, 0⟩ : Instr).wellFormed ∧
    (.snpShare 75 (2 ^ 38 - 1) : Instr).wellFormed ∧
    (.snpInv 75 (2 ^ 38 - 1) : Instr).wellFormed ∧
    (.snoopResponse 75 (2 ^ 38 - 1) .clean : Instr).wellFormed ∧
    (.dirReqDequeue (2 ^ 38 - 1) : Instr).wellFormed ∧
    (.snoopTimeout 75 (2 ^ 38 - 1) : Instr).wellFormed ∧
    (.coherenceWalkDone 3 : Instr).wellFormed ∧
    (.dirFlush 3 : Instr).wellFormed := by
  decide

theorem test_wellFormed_accepts_8 :
    (.dirFlushDone 3 : Instr).wellFormed ∧
    (.dirProbe 3 0 : Instr).wellFormed ∧
    (.portEnable 11 false : Instr).wellFormed ∧
    (.cxlLinkDown 11 : Instr).wellFormed ∧
    (.cxlLinkUp 11 ⟨false, false, false⟩ : Instr).wellFormed ∧
    (.perstNAssert 11 : Instr).wellFormed ∧
    (.perstNDeassert 11 : Instr).wellFormed ∧
    (.gpfPhase1 11 : Instr).wellFormed ∧
    (.gpfPhase2 11 : Instr).wellFormed ∧
    (.cxlioCompletion 11 0 (.err 0) : Instr).wellFormed ∧
    (.cplTimeout 11 0 : Instr).wellFormed ∧
    (.identifyMemoryDevice 11 : Instr).wellFormed ∧
    (.getSupportedLogs 11 : Instr).wellFormed ∧
    (.getLog 11 : Instr).wellFormed ∧
    (.getEventRecords 11 0 : Instr).wellFormed ∧
    (.clearEventRecords 11 0 : Instr).wellFormed ∧
    (.getEventInterruptPolicy 11 : Instr).wellFormed ∧
    (.setEventInterruptPolicy 11 0 : Instr).wellFormed ∧
    (.getHealthInfo 11 : Instr).wellFormed ∧
    (.getTimestamp 11 : Instr).wellFormed ∧
    (.setTimestamp 11 0 : Instr).wellFormed ∧
    (.spdmRequest 11 8 : Instr).wellFormed ∧
    (.msixVectorUnmask 11 2047 : Instr).wellFormed ∧
    (.flitReceive 7 [] : Instr).wellFormed := by
  decide

theorem test_wellFormed_accepts_9 :
    (.flitAckTimeout 7 : Instr).wellFormed ∧
    (.replayLimitReached 7 : Instr).wellFormed ∧
    (.linkEnable 7 false : Instr).wellFormed ∧
    (.linkRetrain 7 : Instr).wellFormed ∧
    (.linkSignalDetect 7 : Instr).wellFormed ∧
    (.phyTrainDone 7 : Instr).wellFormed ∧
    (.phyTrainTimeout 7 : Instr).wellFormed ∧
    (.fecLockDone 7 255 : Instr).wellFormed ∧
    (.fecLockTimeout 7 : Instr).wellFormed ∧
    (.paramExchangeDone 7 ⟨0, 0, 0, 0, [], 0, 0⟩ : Instr).wellFormed ∧
    (.authDone 7 0 false : Instr).wellFormed ∧
    (.authFailedTimer 7 : Instr).wellFormed ∧
    (.retrainDone 7 : Instr).wellFormed ∧
    (.retrainTimeout 7 : Instr).wellFormed ∧
    (.linkSignalLoss 7 : Instr).wellFormed ∧
    (.frameReceive 7 : Instr).wellFormed ∧
    (.cellReceive 24 ⟨0, 24, 7, 62, 63, true, [], 0, 0, 0⟩ : Instr).wellFormed ∧
    (.cellAdmit 24 : Instr).wellFormed ∧
    (.descriptorStart 63 15 [] : Instr).wellFormed ∧
    (.descriptorComplete 63 15 : Instr).wellFormed ∧
    (.syncStart 63 15 : Instr).wellFormed ∧
    (.chResume 63 15 : Instr).wellFormed ∧
    (.chSkip 63 15 : Instr).wellFormed ∧
    (.chStop 63 15 : Instr).wellFormed := by
  decide

theorem test_wellFormed_accepts_10 :
    (.chAbandon 63 15 : Instr).wellFormed ∧
    (.arbRequest 3 29 31 7 0 0 : Instr).wellFormed ∧
    (.arbitration 3 29 : Instr).wellFormed ∧
    (.grantEnd 3 29 : Instr).wellFormed ∧
    (.arbWatchdog 3 29 : Instr).wellFormed ∧
    (.arbCountsRead 3 29 : Instr).wellFormed ∧
    (.windowClose 7 : Instr).wellFormed ∧
    (.calForced 3 6 : Instr).wellFormed ∧
    (.scrubLine 3 6 0 [] : Instr).wellFormed ∧
    (.scrubPassLate 3 6 : Instr).wellFormed ∧
    (.eccCountsRead 3 6 : Instr).wellFormed ∧
    (.selftestRelease 63 : Instr).wellFormed ∧
    (.selftestDone 63 false : Instr).wellFormed ∧
    (.floeRecoveryTimeout 3 : Instr).wellFormed ∧
    (.heartbeat 7 : Instr).wellFormed ∧
    (.heartbeatMiss 7 : Instr).wellFormed ∧
    (.suspect 1023 : Instr).wellFormed ∧
    (.probe 1023 : Instr).wellFormed ∧
    (.probeReply 1023 : Instr).wellFormed ∧
    (.probeTimeout 1023 : Instr).wellFormed ∧
    (.accept 1023 0 : Instr).wellFormed ∧
    (.join 1023 0 : Instr).wellFormed ∧
    (.epochPullTimeout (2 ^ 64 - 1) : Instr).wellFormed ∧
    (.offer 1023 ⟨0, 0, 0, 0, 0, 0, 0⟩ : Instr).wellFormed := by
  decide

theorem test_wellFormed_accepts_11 :
    (.ack 1023 ⟨0, 0, 0, 0, 0, 0, 0⟩ : Instr).wellFormed ∧
    (.nak 1023 ⟨0, 0, 0, 0, 0, 0, 0⟩ : Instr).wellFormed ∧
    (.confirm 1023 ⟨0, 0, 0, 0, 0, 0, 0⟩ : Instr).wellFormed ∧
    (.query 1023 ⟨0, 0, 0, 0, 0, 0, 0⟩ : Instr).wellFormed ∧
    (.queryReply 1023 ⟨0, 0, 0, 0, 0, 0, 0⟩ : Instr).wellFormed ∧
    (.floor 1023 ⟨0, 0, 0, 0, 0, 0, 0⟩ : Instr).wellFormed ∧
    (.handoffTimeout 4095 : Instr).wellFormed ∧
    (.twinLinkActive 7 : Instr).wellFormed ∧
    (.resetNRise ⟨63, 3⟩ : Instr).wellFormed ∧
    (.timeExchangeReply 7 0 0 0 : Instr).wellFormed ∧
    (.windowOpen 7 : Instr).wellFormed ∧
    (.linkChangeReport 1023 7 false 1023 : Instr).wellFormed ∧
    (.l1L0pEntry 11 .l1 : Instr).wellFormed := by
  decide

theorem test_wellFormed_refuses_1 :
    (.post 12 0 : Instr).wellFormed = false ∧
    (.post 0 16 : Instr).wellFormed = false ∧
    (.reqDataWrite 12 0 0 [] : Instr).wellFormed = false ∧
    (.reqDataWrite 0 16 0 [] : Instr).wellFormed = false ∧
    (.rspHdrRead 12 0 0 4 : Instr).wellFormed = false ∧
    (.rspHdrRead 0 16 0 4 : Instr).wellFormed = false ∧
    (.requestTake 16 : Instr).wellFormed = false ∧
    (.replyWrite 16 : Instr).wellFormed = false ∧
    (.serviceTimeout 16 : Instr).wellFormed = false ∧
    (.setAsideServe 16 : Instr).wellFormed = false ∧
    (.doorbellClear 12 0 0 : Instr).wellFormed = false ∧
    (.doorbellClear 0 16 0 : Instr).wellFormed = false ∧
    (.dbMaskWrite 12 0 0 : Instr).wellFormed = false ∧
    (.dbMaskWrite 0 16 0 : Instr).wellFormed = false ∧
    (.identify 16 : Instr).wellFormed = false ∧
    (.status 16 : Instr).wellFormed = false ∧
    (.eventRead 16 : Instr).wellFormed = false ∧
    (.errorRead 16 : Instr).wellFormed = false ∧
    (.mailboxBind 16 : Instr).wellFormed = false ∧
    (.fieldRead 16 : Instr).wellFormed = false ∧
    (.fieldWrite 16 : Instr).wellFormed = false ∧
    (.floePowerOff 16 : Instr).wellFormed = false ∧
    (.floePowerOn 16 : Instr).wellFormed = false ∧
    (.floeDrainDone 4 : Instr).wellFormed = false := by
  decide

theorem test_wellFormed_refuses_2 :
    (.floeDrainTimeout 4 : Instr).wellFormed = false ∧
    (.floeWakeDone 4 : Instr).wellFormed = false ∧
    (.objCreate 16 : Instr).wellFormed = false ∧
    (.objModify 16 : Instr).wellFormed = false ∧
    (.objQuery 16 : Instr).wellFormed = false ∧
    (.objDestroy 16 : Instr).wellFormed = false ∧
    (.decoderBind 16 : Instr).wellFormed = false ∧
    (.regionPublish 16 : Instr).wellFormed = false ∧
    (.regionBind 16 : Instr).wellFormed = false ∧
    (.regionRelease 16 : Instr).wellFormed = false ∧
    (.versionRetire 4096 0 : Instr).wellFormed = false ∧
    (.rangeRetire 512 : Instr).wellFormed = false ∧
    (.contextReset 16 : Instr).wellFormed = false ∧
    (.resetDrainExpire 512 : Instr).wellFormed = false ∧
    (.resetPurge 512 : Instr).wellFormed = false ∧
    (.reclaim 16 : Instr).wellFormed = false ∧
    (.orphanLogRead 16 : Instr).wellFormed = false ∧
    (.formeChange 16 : Instr).wellFormed = false ∧
    (.mapRead 16 : Instr).wellFormed = false ∧
    (.seqHandoffGive 16 : Instr).wellFormed = false ∧
    (.seqHandoffArm 16 : Instr).wellFormed = false ∧
    (.seqHandoffResolve 16 : Instr).wellFormed = false ∧
    (.giveReplyTimeout 4096 : Instr).wellFormed = false ∧
    (.imagePush 16 : Instr).wellFormed = false := by
  decide

theorem test_wellFormed_refuses_3 :
    (.configPush 16 : Instr).wellFormed = false ∧
    (.registerWrite (.host 12) 0 4 0 : Instr).wellFormed = false ∧
    (.registerWrite (.bar2 12) 0 4 0 : Instr).wellFormed = false ∧
    (.registerWrite (.agent 4) 0 4 0 : Instr).wellFormed = false ∧
    (.registerWrite (.core 64) 0 4 0 : Instr).wellFormed = false ∧
    (.cxlMemRead 12 0 [] : Instr).wellFormed = false ∧
    (.cxlMemRead 0 (2 ^ 52) [] : Instr).wellFormed = false ∧
    (.cxlMemWrite 12 0 [] 0 [] : Instr).wellFormed = false ∧
    (.cxlMemWrite 0 (2 ^ 52) [] 0 [] : Instr).wellFormed = false ∧
    (.touchFaultDmaDone (2 ^ 28) (.err 0) : Instr).wellFormed = false ∧
    (.packedDecodeDone (2 ^ 28) 0 : Instr).wellFormed = false ∧
    (.packedDecodeDone 0 16 : Instr).wellFormed = false ∧
    (.plcEpochSweep 4 : Instr).wellFormed = false ∧
    (.moveStart 4 : Instr).wellFormed = false ∧
    (.moveCopyDone (2 ^ 28) : Instr).wellFormed = false ∧
    (.moveRelease (2 ^ 28) : Instr).wellFormed = false ∧
    (.moveCopyTimeout (2 ^ 28) : Instr).wellFormed = false ∧
    (.deadlineExpire 4096 [] : Instr).wellFormed = false ∧
    (.migrate 4096 [] : Instr).wellFormed = false ∧
    (.prefetch 4096 [] : Instr).wellFormed = false ∧
    (.cacheFlush 4 : Instr).wellFormed = false ∧
    (.cacheFlushDone 4 : Instr).wellFormed = false ∧
    (.tnop 64 0 : Instr).wellFormed = false ∧
    (.tnop 0 18 : Instr).wellFormed = false := by
  decide

theorem test_wellFormed_refuses_4 :
    (.mzero 64 : Instr).wellFormed = false ∧
    (.mload 64 : Instr).wellFormed = false ∧
    (.mmul 64 : Instr).wellFormed = false ∧
    (.mstore 64 : Instr).wellFormed = false ∧
    (.vld 64 : Instr).wellFormed = false ∧
    (.vst 64 : Instr).wellFormed = false ∧
    (.vop 64 : Instr).wellFormed = false ∧
    (.vred 64 : Instr).wellFormed = false ∧
    (.vfn 64 : Instr).wellFormed = false ∧
    (.vqnt 64 : Instr).wellFormed = false ∧
    (.xld 64 0 [] : Instr).wellFormed = false ∧
    (.xld 0 18 [] : Instr).wellFormed = false ∧
    (.xst 64 0 [] : Instr).wellFormed = false ∧
    (.xst 0 18 [] : Instr).wellFormed = false ∧
    (.xsti 64 0 [] : Instr).wellFormed = false ∧
    (.xsti 0 18 [] : Instr).wellFormed = false ∧
    (.xadd 64 0 [] : Instr).wellFormed = false ∧
    (.xadd 0 18 [] : Instr).wellFormed = false ∧
    (.dchain 64 0 : Instr).wellFormed = false ∧
    (.dchain 0 16 : Instr).wellFormed = false ∧
    (.swait 64 : Instr).wellFormed = false ∧
    (.ssignal 64 : Instr).wellFormed = false ∧
    (.spulse 64 : Instr).wellFormed = false ∧
    (.sdrain 64 : Instr).wellFormed = false := by
  decide

theorem test_wellFormed_refuses_5 :
    (.send 64 : Instr).wellFormed = false ∧
    (.issueStallRelease 64 : Instr).wellFormed = false ∧
    (.tokenWaitRelease 64 0 : Instr).wellFormed = false ∧
    (.tokenWaitRelease 0 18 : Instr).wellFormed = false ∧
    (.instructionComplete 64 0 : Instr).wellFormed = false ∧
    (.instructionComplete 0 18 : Instr).wellFormed = false ∧
    (.eventPulse 64 0 0 : Instr).wellFormed = false ∧
    (.eventPulse 0 256 0 : Instr).wellFormed = false ∧
    (.eventPulse 0 0 16 : Instr).wellFormed = false ∧
    (.scalarLoad 64 0 4 0 false [] : Instr).wellFormed = false ∧
    (.scalarLoad 0 0 4 32 false [] : Instr).wellFormed = false ∧
    (.scalarLoad 0 0 16 0 false [] : Instr).wellFormed = false ∧
    (.scalarStore 64 0 4 0 [] : Instr).wellFormed = false ∧
    (.scalarStore 0 0 16 0 [] : Instr).wellFormed = false ∧
    (.scalarAmo 64 8 0 4 0 0 [] : Instr).wellFormed = false ∧
    (.scalarAmo 0 8 0 4 0 32 [] : Instr).wellFormed = false ∧
    (.scalarAmo 0 8 0 16 0 0 [] : Instr).wellFormed = false ∧
    (.scalarAmo 0 7 0 4 0 0 [] : Instr).wellFormed = false ∧
    (.scalarAmo 0 17 0 4 0 0 [] : Instr).wellFormed = false ∧
    (.scalarLrSc 64 false 0 4 0 0 : Instr).wellFormed = false ∧
    (.scalarLrSc 0 false 0 4 0 32 : Instr).wellFormed = false ∧
    (.scalarLrSc 0 false 0 16 0 0 : Instr).wellFormed = false ∧
    (.scalarTrap 64 0 : Instr).wellFormed = false ∧
    (.coreStop 64 : Instr).wellFormed = false := by
  decide

theorem test_wellFormed_refuses_6 :
    (.clearFault 64 : Instr).wellFormed = false ∧
    (.coreWatchdog 64 : Instr).wellFormed = false ∧
    (.coreStopDone 64 : Instr).wellFormed = false ∧
    (.run 4096 : Instr).wellFormed = false ∧
    (.coreAssign 4096 : Instr).wellFormed = false ∧
    (.kernelLoadDone 64 [] : Instr).wellFormed = false ∧
    (.prefetcherEnable 64 0 false : Instr).wellFormed = false ∧
    (.prefetcherEnable 0 16 false : Instr).wellFormed = false ∧
    (.prefetchLineIssue 64 0 : Instr).wellFormed = false ∧
    (.prefetchLineIssue 0 16 : Instr).wellFormed = false ∧
    (.cmdTailWrite 12 0 0 0 : Instr).wellFormed = false ∧
    (.cmdTailWrite 0 512 0 0 : Instr).wellFormed = false ∧
    (.cmdTailWrite 0 0 8 0 : Instr).wellFormed = false ∧
    (.proofHeadWrite 12 0 0 0 : Instr).wellFormed = false ∧
    (.proofHeadWrite 0 512 0 0 : Instr).wellFormed = false ∧
    (.proofHeadWrite 0 0 8 0 : Instr).wellFormed = false ∧
    (.galleyStart 12 0 0 : Instr).wellFormed = false ∧
    (.galleyStart 0 512 0 : Instr).wellFormed = false ∧
    (.galleyStart 0 0 8 : Instr).wellFormed = false ∧
    (.galleyStop 12 0 0 : Instr).wellFormed = false ∧
    (.galleyStop 0 512 0 : Instr).wellFormed = false ∧
    (.galleyStop 0 0 8 : Instr).wellFormed = false ∧
    (.galleyStopAbort 12 0 0 : Instr).wellFormed = false ∧
    (.galleyStopAbort 0 512 0 : Instr).wellFormed = false := by
  decide

theorem test_wellFormed_refuses_7 :
    (.galleyStopAbort 0 0 8 : Instr).wellFormed = false ∧
    (.clearHalt 12 0 0 : Instr).wellFormed = false ∧
    (.clearHalt 0 512 0 : Instr).wellFormed = false ∧
    (.clearHalt 0 0 8 : Instr).wellFormed = false ∧
    (.droppedRead 12 0 0 : Instr).wellFormed = false ∧
    (.droppedRead 0 512 0 : Instr).wellFormed = false ∧
    (.droppedRead 0 0 8 : Instr).wellFormed = false ∧
    (.tailShadowPoll 512 0 [] : Instr).wellFormed = false ∧
    (.tailShadowPoll 0 8 [] : Instr).wellFormed = false ∧
    (.commandFetch 4 [] : Instr).wellFormed = false ∧
    (.afterPrevStart 4096 : Instr).wellFormed = false ∧
    (.proofWrite 512 0 : Instr).wellFormed = false ∧
    (.proofWrite 0 8 : Instr).wellFormed = false ∧
    (.proofWriteAck 512 0 : Instr).wellFormed = false ∧
    (.proofWriteAck 0 8 : Instr).wellFormed = false ∧
    (.coalTimerExpire 512 0 : Instr).wellFormed = false ∧
    (.coalTimerExpire 0 8 : Instr).wellFormed = false ∧
    (.fence 4096 : Instr).wellFormed = false ∧
    (.fenceComplete 4096 : Instr).wellFormed = false ∧
    (.impress 4096 : Instr).wellFormed = false ∧
    (.nop 4096 : Instr).wellFormed = false ∧
    (.attend 4096 [] : Instr).wellFormed = false ∧
    (.attendMerge 4096 [] : Instr).wellFormed = false ∧
    (.gather 4096 [] : Instr).wellFormed = false := by
  decide

theorem test_wellFormed_refuses_8 :
    (.scatterGrad 4096 [] : Instr).wellFormed = false ∧
    (.rowReplace 4096 [] : Instr).wellFormed = false ∧
    (.rowChangeResume 4096 [] : Instr).wellFormed = false ∧
    (.generationCommit 4096 : Instr).wellFormed = false ∧
    (.search 4096 [] : Instr).wellFormed = false ∧
    (.indexInsert 4096 [] : Instr).wellFormed = false ∧
    (.indexDelete 4096 [] : Instr).wellFormed = false ∧
    (.encode 4096 [] : Instr).wellFormed = false ∧
    (.decode 4096 [] : Instr).wellFormed = false ∧
    (.codecBlockDone 4096 0 : Instr).wellFormed = false ∧
    (.fill 4096 [] : Instr).wellFormed = false ∧
    (.copy 4096 [] : Instr).wellFormed = false ∧
    (.compare 4096 [] : Instr).wellFormed = false ∧
    (.reduce 4096 [] : Instr).wellFormed = false ∧
    (.read (2 ^ 64) : Instr).wellFormed = false ∧
    (.write (2 ^ 64) : Instr).wellFormed = false ∧
    (.add (2 ^ 64) : Instr).wellFormed = false ∧
    (.and (2 ^ 64) : Instr).wellFormed = false ∧
    (.or (2 ^ 64) : Instr).wellFormed = false ∧
    (.xor (2 ^ 64) : Instr).wellFormed = false ∧
    (.min (2 ^ 64) : Instr).wellFormed = false ∧
    (.max (2 ^ 64) : Instr).wellFormed = false ∧
    (.umin (2 ^ 64) : Instr).wellFormed = false ∧
    (.umax (2 ^ 64) : Instr).wellFormed = false := by
  decide

theorem test_wellFormed_refuses_9 :
    (.swap (2 ^ 64) : Instr).wellFormed = false ∧
    (.cas (2 ^ 64) : Instr).wellFormed = false ∧
    (.exactAdd (2 ^ 64) : Instr).wellFormed = false ∧
    (.fillRun (2 ^ 64) : Instr).wellFormed = false ∧
    (.copyRun (2 ^ 64) : Instr).wellFormed = false ∧
    (.compareRun (2 ^ 64) : Instr).wellFormed = false ∧
    (.reducePart (2 ^ 64) : Instr).wellFormed = false ∧
    (.fabricAck (2 ^ 64) : Instr).wellFormed = false ∧
    (.fabricTimeout (2 ^ 64) : Instr).wellFormed = false ∧
    (.finalWriteRelease (2 ^ 64) : Instr).wellFormed = false ∧
    (.dedupEntryExpire (2 ^ 64) : Instr).wellFormed = false ∧
    (.rdShared 76 0 : Instr).wellFormed = false ∧
    (.rdShared 0 (2 ^ 38) : Instr).wellFormed = false ∧
    (.rdOwn 76 0 : Instr).wellFormed = false ∧
    (.rdOwn 0 (2 ^ 38) : Instr).wellFormed = false ∧
    (.upgrade 76 0 : Instr).wellFormed = false ∧
    (.upgrade 0 (2 ^ 38) : Instr).wellFormed = false ∧
    (.wb 76 0 [] false false : Instr).wellFormed = false ∧
    (.wb 0 (2 ^ 38) [] false false : Instr).wellFormed = false ∧
    (.evict 76 0 : Instr).wellFormed = false ∧
    (.evict 0 (2 ^ 38) : Instr).wellFormed = false ∧
    (.ncRd (2 ^ 38) : Instr).wellFormed = false ∧
    (.ncWr (2 ^ 38) [] 0 : Instr).wellFormed = false ∧
    (.ncAtomic (2 ^ 38) ⟨0, 0, 8, 0, 0⟩ : Instr).wellFormed = false := by
  decide

theorem test_wellFormed_refuses_10 :
    (.snpShare 76 0 : Instr).wellFormed = false ∧
    (.snpShare 0 (2 ^ 38) : Instr).wellFormed = false ∧
    (.snpInv 76 0 : Instr).wellFormed = false ∧
    (.snpInv 0 (2 ^ 38) : Instr).wellFormed = false ∧
    (.snoopResponse 76 0 .clean : Instr).wellFormed = false ∧
    (.snoopResponse 0 (2 ^ 38) .clean : Instr).wellFormed = false ∧
    (.dirReqDequeue (2 ^ 38) : Instr).wellFormed = false ∧
    (.snoopTimeout 76 0 : Instr).wellFormed = false ∧
    (.snoopTimeout 0 (2 ^ 38) : Instr).wellFormed = false ∧
    (.coherenceWalkDone 4 : Instr).wellFormed = false ∧
    (.dirFlush 4 : Instr).wellFormed = false ∧
    (.dirFlushDone 4 : Instr).wellFormed = false ∧
    (.dirProbe 4 0 : Instr).wellFormed = false ∧
    (.portEnable 12 false : Instr).wellFormed = false ∧
    (.cxlLinkDown 12 : Instr).wellFormed = false ∧
    (.cxlLinkUp 12 ⟨false, false, false⟩ : Instr).wellFormed = false ∧
    (.perstNAssert 12 : Instr).wellFormed = false ∧
    (.perstNDeassert 12 : Instr).wellFormed = false ∧
    (.gpfPhase1 12 : Instr).wellFormed = false ∧
    (.gpfPhase2 12 : Instr).wellFormed = false ∧
    (.cxlioCompletion 12 0 (.err 0) : Instr).wellFormed = false ∧
    (.cplTimeout 12 0 : Instr).wellFormed = false ∧
    (.identifyMemoryDevice 12 : Instr).wellFormed = false ∧
    (.getSupportedLogs 12 : Instr).wellFormed = false := by
  decide

theorem test_wellFormed_refuses_11 :
    (.getLog 12 : Instr).wellFormed = false ∧
    (.getEventRecords 12 0 : Instr).wellFormed = false ∧
    (.clearEventRecords 12 0 : Instr).wellFormed = false ∧
    (.getEventInterruptPolicy 12 : Instr).wellFormed = false ∧
    (.setEventInterruptPolicy 12 0 : Instr).wellFormed = false ∧
    (.getHealthInfo 12 : Instr).wellFormed = false ∧
    (.getTimestamp 12 : Instr).wellFormed = false ∧
    (.setTimestamp 12 0 : Instr).wellFormed = false ∧
    (.spdmRequest 12 8 : Instr).wellFormed = false ∧
    (.msixVectorUnmask 12 0 : Instr).wellFormed = false ∧
    (.msixVectorUnmask 0 2048 : Instr).wellFormed = false ∧
    (.flitReceive 8 [] : Instr).wellFormed = false ∧
    (.flitAckTimeout 8 : Instr).wellFormed = false ∧
    (.replayLimitReached 8 : Instr).wellFormed = false ∧
    (.linkEnable 8 false : Instr).wellFormed = false ∧
    (.linkRetrain 8 : Instr).wellFormed = false ∧
    (.linkSignalDetect 8 : Instr).wellFormed = false ∧
    (.phyTrainDone 8 : Instr).wellFormed = false ∧
    (.phyTrainTimeout 8 : Instr).wellFormed = false ∧
    (.fecLockDone 8 0 : Instr).wellFormed = false ∧
    (.fecLockDone 0 256 : Instr).wellFormed = false ∧
    (.fecLockTimeout 8 : Instr).wellFormed = false ∧
    (.paramExchangeDone 8 ⟨0, 0, 0, 0, [], 0, 0⟩ : Instr).wellFormed = false ∧
    (.authDone 8 0 false : Instr).wellFormed = false := by
  decide

theorem test_wellFormed_refuses_12 :
    (.authFailedTimer 8 : Instr).wellFormed = false ∧
    (.retrainDone 8 : Instr).wellFormed = false ∧
    (.retrainTimeout 8 : Instr).wellFormed = false ∧
    (.linkSignalLoss 8 : Instr).wellFormed = false ∧
    (.frameReceive 8 : Instr).wellFormed = false ∧
    (.cellReceive 25 ⟨0, 0, 0, 0, 1, true, [], 0, 0, 0⟩ : Instr).wellFormed = false ∧
    (.cellReceive 0 ⟨0, 25, 0, 0, 1, true, [], 0, 0, 0⟩ : Instr).wellFormed = false ∧
    (.cellReceive 0 ⟨0, 0, 8, 0, 1, true, [], 0, 0, 0⟩ : Instr).wellFormed = false ∧
    (.cellReceive 0 ⟨0, 0, 0, 1, 1, true, [], 0, 0, 0⟩ : Instr).wellFormed = false ∧
    (.cellAdmit 25 : Instr).wellFormed = false ∧
    (.descriptorStart 64 0 [] : Instr).wellFormed = false ∧
    (.descriptorStart 0 16 [] : Instr).wellFormed = false ∧
    (.descriptorComplete 64 0 : Instr).wellFormed = false ∧
    (.descriptorComplete 0 16 : Instr).wellFormed = false ∧
    (.syncStart 64 0 : Instr).wellFormed = false ∧
    (.syncStart 0 16 : Instr).wellFormed = false ∧
    (.chResume 64 0 : Instr).wellFormed = false ∧
    (.chResume 0 16 : Instr).wellFormed = false ∧
    (.chSkip 64 0 : Instr).wellFormed = false ∧
    (.chSkip 0 16 : Instr).wellFormed = false ∧
    (.chStop 64 0 : Instr).wellFormed = false ∧
    (.chStop 0 16 : Instr).wellFormed = false ∧
    (.chAbandon 64 0 : Instr).wellFormed = false ∧
    (.chAbandon 0 16 : Instr).wellFormed = false := by
  decide

theorem test_wellFormed_refuses_13 :
    (.arbRequest 4 0 0 0 0 0 : Instr).wellFormed = false ∧
    (.arbRequest 0 30 0 0 0 0 : Instr).wellFormed = false ∧
    (.arbRequest 0 0 32 0 0 0 : Instr).wellFormed = false ∧
    (.arbRequest 0 0 0 8 0 0 : Instr).wellFormed = false ∧
    (.arbitration 4 0 : Instr).wellFormed = false ∧
    (.arbitration 0 30 : Instr).wellFormed = false ∧
    (.grantEnd 4 0 : Instr).wellFormed = false ∧
    (.grantEnd 0 30 : Instr).wellFormed = false ∧
    (.arbWatchdog 4 0 : Instr).wellFormed = false ∧
    (.arbWatchdog 0 30 : Instr).wellFormed = false ∧
    (.arbCountsRead 4 0 : Instr).wellFormed = false ∧
    (.arbCountsRead 0 30 : Instr).wellFormed = false ∧
    (.windowClose 8 : Instr).wellFormed = false ∧
    (.calForced 4 0 : Instr).wellFormed = false ∧
    (.calForced 0 7 : Instr).wellFormed = false ∧
    (.scrubLine 4 0 0 [] : Instr).wellFormed = false ∧
    (.scrubLine 0 7 0 [] : Instr).wellFormed = false ∧
    (.scrubPassLate 4 0 : Instr).wellFormed = false ∧
    (.scrubPassLate 0 7 : Instr).wellFormed = false ∧
    (.eccCountsRead 4 0 : Instr).wellFormed = false ∧
    (.eccCountsRead 0 7 : Instr).wellFormed = false ∧
    (.selftestRelease 64 : Instr).wellFormed = false ∧
    (.selftestDone 64 false : Instr).wellFormed = false ∧
    (.floeRecoveryTimeout 4 : Instr).wellFormed = false := by
  decide

theorem test_wellFormed_refuses_14 :
    (.heartbeat 8 : Instr).wellFormed = false ∧
    (.heartbeatMiss 8 : Instr).wellFormed = false ∧
    (.suspect 1024 : Instr).wellFormed = false ∧
    (.probe 1024 : Instr).wellFormed = false ∧
    (.probeReply 1024 : Instr).wellFormed = false ∧
    (.probeTimeout 1024 : Instr).wellFormed = false ∧
    (.accept 1024 0 : Instr).wellFormed = false ∧
    (.join 1024 0 : Instr).wellFormed = false ∧
    (.epochPullTimeout (2 ^ 64) : Instr).wellFormed = false ∧
    (.offer 1024 ⟨0, 0, 0, 0, 0, 0, 0⟩ : Instr).wellFormed = false ∧
    (.ack 1024 ⟨0, 0, 0, 0, 0, 0, 0⟩ : Instr).wellFormed = false ∧
    (.nak 1024 ⟨0, 0, 0, 0, 0, 0, 0⟩ : Instr).wellFormed = false ∧
    (.confirm 1024 ⟨0, 0, 0, 0, 0, 0, 0⟩ : Instr).wellFormed = false ∧
    (.query 1024 ⟨0, 0, 0, 0, 0, 0, 0⟩ : Instr).wellFormed = false ∧
    (.queryReply 1024 ⟨0, 0, 0, 0, 0, 0, 0⟩ : Instr).wellFormed = false ∧
    (.floor 1024 ⟨0, 0, 0, 0, 0, 0, 0⟩ : Instr).wellFormed = false ∧
    (.handoffTimeout 4096 : Instr).wellFormed = false ∧
    (.twinLinkActive 8 : Instr).wellFormed = false ∧
    (.resetNRise ⟨64, 0⟩ : Instr).wellFormed = false ∧
    (.resetNRise ⟨0, 4⟩ : Instr).wellFormed = false ∧
    (.timeExchangeReply 8 0 0 0 : Instr).wellFormed = false ∧
    (.windowOpen 8 : Instr).wellFormed = false ∧
    (.linkChangeReport 1024 0 false 0 : Instr).wellFormed = false ∧
    (.linkChangeReport 0 8 false 0 : Instr).wellFormed = false := by
  decide

theorem test_wellFormed_refuses_15 :
    (.linkChangeReport 0 0 false 1024 : Instr).wellFormed = false ∧
    (.l1L0pEntry 12 .l1 : Instr).wellFormed = false := by
  decide


/-! ### The words of the queue's host side: no row of the table has bits -/

theorem test_decodeTableWord : ∀ n w, decodeTableWord n w = none := fun _ _ => rfl
theorem test_withFetchWord : State.reset.withFetchWord 32 1 = State.reset := rfl

/-! ### The specification's worked examples -/

/-- The check value of CRC-32C over the nine digits. -/
theorem test_crc32c : crc32c ([0x31, 0x32, 0x33, 0x34, 0x35, 0x36, 0x37, 0x38, 0x39] : Bytes) = 0xE3069283 := by decide +kernel

/-- Edge values of the formats (R138): E4M3 0x7E is 448, E5M2 0x01 is 2⁻¹⁶, FP16 0x7BFF is 65,504; each converts back. -/
theorem test_format_edges :
    (convert 0 9 false 0x7E).1 = 0x43E00000 ∧ (convert 9 0 false 0x43E00000).1 = 0x7E ∧ (convert 1 9 false 0x01).1 = 0x37800000 ∧
      (convert 8 9 false 0x7BFF).1 = 0x477FE000 := by
  decide +kernel

/-- "one dot product, any order": 2³⁰ + 1 − 2³⁰ in E5M2 is exactly 1, VALUE 2¹²⁰, TERMS 3, and 0x3F80 in BF16. -/
theorem test_dot_product :
    let t (x y : Nat) : Slug := (termOf (mulNum (decodeNum 1 x) (decodeNum 1 y))).1
    let s := slugAdd (slugAdd (t 0x78 0x78) (t 0x3C 0x3C)) (t 0xF8 0x78)
    s = slugAdd (t 0x78 0x78) (slugAdd (t 0x3C 0x3C) (t 0xF8 0x78)) ∧ s = ⟨2 ^ 120, 3, 0⟩ ∧ slugTo 7 false s = (0x3F80, 0) ∧
      (cellOf s)[15]? = some 1 ∧ fieldAt (cellOf s) 24 4 = 3 := by
  decide +kernel

/-- The BF16 product 2⁻⁶⁶ × 2⁻⁶⁰ of that chapter enters as 0 with TERMS 1 and is counted. -/
theorem test_product_flush : termOf (mulNum (decodeNum 7 0x1E80) (decodeNum 7 0x2180)) = (⟨0, 1, 0⟩, 1) := by decide +kernel

/-- "three exact-adds to one gradient cell". -/
theorem test_exact_adds :
    let g := slugAdd (slugAdd ⟨3 * 2 ^ 118, 2, 0⟩ ⟨-(2 ^ 118), 1, 0⟩) ⟨2 ^ 110, 4, 0⟩
    g = ⟨2 ^ 119 + 2 ^ 110, 7, 0⟩ ∧ slugTo 9 false g = (0x3F004000, 0) ∧
      (slice (cellOf g) 0 28 = zeros 13 ++ [0x40, 0x80] ++ zeros 9 ++ [7, 0, 0, 0]) ∧ slugOf (cellOf g) = some g := by
  decide +kernel

/-- The codebook and the raw vectors of "one block of four vectors". -/
def exBook : Codebook := [zeros 16, List.replicate 16 0x20, (List.range 16).map (BitVec.ofNat 8)]
def exRaw : Bytes :=
  (List.range 16).map (BitVec.ofNat 8) ++ zeros 16 ++ (List.replicate 15 0x20 ++ [0x21]) ++ ((List.range 15).map (BitVec.ofNat 8) ++ [0x1F])
def exBody : Bytes := [0x1D, 0x32, 0xAC, 0x07, 0xB4, 0x43, 0x00]

theorem test_codec_encodes :
    let b := (encodeBlock exBook 0x8001 false exRaw).1
    b.drop 16 = exBody ∧ slice b 0 8 = [0x40, 0x00, 0x17, 0x00, 0x01, 0x80, 0x00, 0x03] := by
  decide +kernel

theorem test_codec_decodes :
    let b (raw enc : Nat) := blockHeader raw enc 0x8001 0 3 (crc32c exRaw) (bookCrc exBook) ++ exBody
    let go (raw enc : Nat) := decodeBlock (fun _ => some exBook) 4096 true 4096 (b raw enc)
    go 64 23 = ⟨exRaw, 64, none⟩ ∧ go 96 23 = ⟨exRaw, 96, some (0x23, 1)⟩ ∧ go 48 23 = ⟨exRaw.take 48, 48, some (0x22, 1)⟩ ∧
      go 64 22 = ⟨exRaw.take 48, 64, some (0x24, 5)⟩ := by
  decide +kernel

/-- The pooled column of "a 2³⁰-row table on four devices": 0.75 × 0.5625 + 2 × (−0.4375) is −29 × 2⁻⁶, 0xBEE8 in BF16. -/
theorem test_pooled_column :
    let s := slugAdd (termOf (mulNum (.fin false 3 (-2)) (.fin false 9 (-4)))).1 (termOf (mulNum (.fin false 2 0) (.fin true 7 (-4)))).1
    s.terms = 2 ∧ slugTo 7 false s = (0xBEE8, 0) := by
  decide +kernel

/-- That example's row: lo −1, hi 1 and 0.375 give OFFSET −1.0, SCALE 0x3C008081 and code 175. -/
theorem test_row_encoding : encRow 8 [(-1, 0), (1, 0), (3, -3)] = ([0, 255, 175], 0x3C008081, 0xBF800000, 0) := by decide +kernel

/-- The local roots of devices 0, 1 and 7 in "one token of a 10,000,000-token sequence": level and index in the level. -/
theorem test_local_roots :
    treeHeight 19532 = 15 ∧ localRoots 19532 0 2432 15 0 = [(11, 0), (8, 8), (7, 18)] ∧
      localRoots 19532 2432 4864 15 0 = [(7, 19), (9, 5), (10, 3), (9, 8), (8, 18)] ∧
      localRoots 19532 17024 19532 15 0 = [(7, 133), (8, 67), (10, 17), (11, 9)] := by
  decide +kernel

/-- The stamps and the BINDING value of "binding a mailbox and posting through it". -/
theorem test_mailbox_example :
    let s := stWith (fun d => { d with
      mbx := [(0, { Mailbox.reset with bound := true, port := 0, ctx := 0, priv := 3, nextSeq := 0x41 }),
              (2, { Mailbox.reset with bound := true, port := 5, ctx := 300, priv := 1 })] })
    bindingOf (mbOf s.dev 2) = 0x5B2C ∧
      (match exec (.post 0 0) s with | .next t => (mbOf t.dev 0).reqHdr == 0x416000 | _ => false) = true ∧
      (match exec (.post 5 2) s with | .next t => (mbOf t.dev 2).reqHdr == 0x32C5 | _ => false) = true := by
  decide +kernel

/-- The range of "a range, an access and a contested publish". -/
theorem test_range_example :
    let s := stWith (fun d => { d with ctxs := [(300, { Ctx.fresh with
      ranges := [(5, ⟨0x7F0000000000, 0x40000000, 0x240000000, true, true, false, false, none, 0, none, none, none, 0⟩)] })] })
    (findRange s.dev 300 0 0x7F0012345678).map (fun r => (r.1, r.2.uni + (0x7F0012345678 - r.2.start))) = some (5, 0x252345678) := by
  decide +kernel

/-- The directory entry of "a host fails holding a modified control word": floe 2, set 74, and the bytes of the entry. -/
theorem test_directory_entry :
    homeFloe (0x3C0021280 / 65536) = 2 ∧ dirSet (0x3C0021280 / 64) = 74 ∧
      ∀ d, dirBits d (0x3C0021280 / 64) ⟨2 ^ 67, 2, 0x43, none⟩ =
        fieldAt (zeros 8 ++ [0x08, 0, 0x02, 0x43, 0xE0, 0x01, 0x00]) 0 15 + freeVal d % 256 * 2 ^ 120 := by
  refine ⟨by decide +kernel, by decide +kernel, fun d => ?_⟩
  have h : 2 ^ 67 + 2 * 2 ^ 80 + b2n (none : Option DirTxn).isSome * 2 ^ 82 + 0x43 * 2 ^ 88 + 0x3C0021280 / 64 / 2 ^ 19 * 2 ^ 96 =
      fieldAt (zeros 8 ++ [0x08, 0, 0x02, 0x43, 0xE0, 0x01, 0x00]) 0 15 := by decide +kernel
  simp only [dirBits, h]

/-- The header of "a two-hop READ". -/
theorem test_read_frame :
    frameBody ⟨0, false, false, 1, 0, 1, 37, 5, 18, 0, 0x25 + (2 <<< 10) + (0x1234 <<< 12), 0x1A0000040, []⟩ 1 =
      [0x10, 0, 1, 0, 0x25, 0, 5, 0, 0x12, 0, 0, 0, 0, 0, 0, 0, 0x25, 0x48, 0x23, 1, 0, 0, 0, 0, 0x40, 0, 0, 0xA0, 1, 0, 0, 0] := by
  decide +kernel

/-- The defined functions (R159, R163): exp(0) and exp of an input below 2⁻⁶² are 1, log(1) is +0, reciprocal(−0) is −∞. -/
theorem test_defined_functions :
    definedFn 0 9 false (.fin false 0 0) = (0x3F800000, 0) ∧ (definedFn 0 9 false (.fin true 1 (-63))).1 = 0x3F800000 ∧
      definedFn 1 9 false (.fin false 1 0) = (0, 0) ∧ (definedFn 2 9 false (decodeNum 9 0x80000000)).1 = 0xFF800000 := by
  decide +kernel

/-! ### One command each: the effect its rules give it -/

theorem test_MailboxPost :
    let port : Nat := 2
    let mb : Nat := 3
    let s : State := stWith (fun d => { d with mbx := [(3, { Mailbox.reset with bound := true, port := 2, ctx := 0, priv := 3, nextSeq := 5 })] })
    (match exec (.post port mb) s with | .next t => decide (t = { s with dev := { latch s with mbx := tput s.dev.mbx mb { mbOf s.dev mb with reqHdr := port + 16 * (mbOf s.dev mb).ctx + 2 ^ 13 * (mbOf s.dev mb).priv + 2 ^ 16 * (mbOf s.dev mb).nextSeq, nextSeq := ((mbOf s.dev mb).nextSeq + 1) % 65536, reqFull := true }, takeable := if (mbOf s.dev mb).svc.isNone then s.dev.takeable ++ [mb] else s.dev.takeable } }) | _ => false) = true := by
  decide +kernel

theorem test_MailboxRegisters :
    let port : Nat := 0
    let mb : Nat := 15
    let off : Nat := 56
    let bytes : List Byte := List.replicate 8 (1 : Byte)
    let s : State := stWith id
    (match exec (.reqDataWrite port mb off bytes) s with | .next t => decide (t = { s with dev := { latch s with mbx := tput s.dev.mbx mb { mbOf s.dev mb with reqData := splice (mbOf s.dev mb).reqData off bytes } } }) | _ => false) = true := by
  decide +kernel

theorem test_MailboxService :
    let mb : Nat := 0
    let s : State := stWith (fun d => { d with takeable := [0], mbx := [(0, { Mailbox.reset with reqFull := true, reqData := reqOf 1 [] })] })
    (match exec (.requestTake mb) s with | .next t => decide ((t.dev.mbx = ({ latch s with svcNext := s.dev.svcNext + 1, takeable := s.dev.takeable.erase mb, mbx := tput s.dev.mbx mb { mbOf s.dev mb with reqFull := false, svc := some ⟨s.dev.svcNext, (mbOf s.dev mb).reqHdr, (mbOf s.dev mb).reqData, Option.none, false, false, false, Option.none, Option.none, false⟩ } }).mbx) ∧ (t = { s with dev := { { latch s with svcNext := s.dev.svcNext + 1, takeable := s.dev.takeable.erase mb, mbx := tput s.dev.mbx mb { mbOf s.dev mb with reqFull := false, svc := some ⟨s.dev.svcNext, (mbOf s.dev mb).reqHdr, (mbOf s.dev mb).reqData, Option.none, false, false, false, Option.none, Option.none, false⟩ } } with mbx := t.dev.mbx } })) | _ => false) = true := by
  decide +kernel

theorem test_InformationMessages :
    let mb : Nat := 15
    let sv : Service := svOf 1 []
    let s : State := stSvc 15 (svOf 1 [])
    (match exec (.identify mb) s with | .next t => decide (t = { s with dev := { latch s with mbx := tput s.dev.mbx mb { mbOf s.dev mb with svc := some { sv with busy := true, ended := true, reply := some (solpen sv.req 0 0 (leBytes 4 0x00011200 ++ leBytes 4 s.dev.boot.fwVersion ++ leBytes 8 (serialOf s.dev) ++ leBytes 4 (idNode s.dev) ++ leBytes 4 (epochOf s.dev) ++ [1])) } } } }) | _ => false) = true := by
  decide +kernel

theorem test_MailboxBinding :
    let mb : Nat := 0
    let m : Nat := 15
    let port : Nat := 11
    let ctx : Nat := 0
    let priv : Nat := 2
    let sv : Service := { svOf 0x10 [15, 11, 0, 0, 2] with hdr := 3 * 2 ^ 13 }
    let s : State := stWith (fun d => { d with mbx := [(0, { Mailbox.reset with bound := true, priv := 3, svc := some { svOf 0x10 [15, 11, 0, 0, 2] with hdr := 3 * 2 ^ 13 } })] })
    (match exec (.mailboxBind mb) s with | .next t => decide (((mbOf t.dev m) = { mbOf s.dev m with bound := true, port := port, ctx := ctx, priv := priv }) ∧ ((mbOf t.dev mb) = { mbOf s.dev mb with svc := some { sv with busy := true, ended := true, reply := some (solpen sv.req 0 0 (leBytes 4 (bindingOf (mbOf s.dev m)))) } }) ∧ (t.dev = { latch s with mbx := t.dev.mbx }) ∧ (t.clk = s.clk)) | _ => false) = true := by
  decide +kernel

theorem test_FloePower :
    let mb : Nat := 0
    let f : Nat := 3
    let sv : Service := { svOf 0x13 [3, 0] with hdr := 3 * 2 ^ 13 }
    let s : State := stSvc 0 ({ svOf 0x13 [3, 0] with hdr := 3 * 2 ^ 13 })
    (match exec (.floePowerOff mb) s with | .next t => decide ((floeState t.dev f = 1) ∧ (tget? t.dev.boot.floeJobs f = some (mb, sv.id)) ∧ (t.clk = s.clk) ∧ (t.dev.mem = s.dev.mem) ∧ (t.dev.pages = s.dev.pages) ∧ (t.dev.cmds = s.dev.cmds) ∧ (t.dev.cores = s.dev.cores) ∧ (t.dev.galleys = s.dev.galleys)) | _ => false) = true := by
  decide +kernel

theorem test_DeviceReset :
    let s : State := stWith (fun d => { d with pages := [(1, { Page.unplaced with tier := 2, durable := true }), (2, { Page.unplaced with tier := 1 })], mem := [(65536, 1), (131072, 2)] })
    (match exec (.resetNFall) s with | .next t => decide ((t.dev.boot.held = true) ∧ (t.dev.boot.phase = 0) ∧ (t.clk = { Clock.reset with cal := s.clk.cal, calNs := s.clk.calNs, calValid := s.clk.calValid }) ∧ (t.dev.pages = s.dev.pages.filter (fun p => p.2.durable)) ∧ (t.dev.mem = s.dev.mem.filter (fun c => thas (s.dev.pages.filter (fun p => p.2.durable)) (c.1 / 65536))) ∧ (t.dev.regs = []) ∧ (t.dev.ctxs = Dev.reset.ctxs) ∧ (t.dev.galleys = []) ∧ (t.dev.cmds = []) ∧ (t.dev.cores = []) ∧ (t.dev.cache = []) ∧ (t.dev.dir = []) ∧ (t.dev.errq = ErrQ.reset)) | _ => false) = true := by
  decide +kernel

theorem test_BootImage :
    let s : State := stWith (fun d => { d with boot := { d.boot with phase := 1 } })
    (match exec (.imageVerifyDone) s with | .next t => decide ((t.dev.boot.running = decide (imageCause s.dev.boot.record s.dev.boot.flashImage = 0)) ∧ (t.dev.boot.phase = (if imageCause s.dev.boot.record s.dev.boot.flashImage = 0 then 1 else 2)) ∧ (t.dev.boot.cause = imageCause s.dev.boot.record s.dev.boot.flashImage) ∧ (t.clk = s.clk) ∧ (t.dev.mem = s.dev.mem) ∧ (t.dev.pages = s.dev.pages) ∧ (t.dev.cmds = s.dev.cmds) ∧ (t.dev.cores = s.dev.cores) ∧ (t.dev.galleys = s.dev.galleys)) | _ => false) = true := by
  decide +kernel

theorem test_FlashMessages :
    let mb : Nat := 0
    let p : Bytes := zeros 16
    let sv : Service := { svOf 0xF01 (zeros 16 ++ leBytes 4 16) with params := some (zeros 16) }
    let s : State := stWith (fun d => { d with boot := { d.boot with phase := 2 }, mbx := [(0, { Mailbox.reset with svc := some { svOf 0xF01 (zeros 16 ++ leBytes 4 16) with params := some (zeros 16) } })] })
    (match exec (.imagePush mb) s with | .next t => decide ((t.dev.boot.phase = (if imageCause s.dev.boot.record (slice p 0 (sv.f 24 4)) = 0 then 1 else 2)) ∧ (((mbOf t.dev mb).svc.bind (·.reply)) = some (if imageCause s.dev.boot.record (slice p 0 (sv.f 24 4)) = 0 then solpen sv.req 0 0 (slice (slice (slice p 0 (sv.f 24 4)) 0 (fieldAt (slice p 0 (sv.f 24 4)) 8 4)) 4 8) else if imageCause s.dev.boot.record (slice p 0 (sv.f 24 4)) = 5 then solpen sv.req 0x43 9 [] else solpen sv.req 0x43 8 [])) ∧ (t.clk = s.clk) ∧ (t.dev.mem = s.dev.mem) ∧ (t.dev.pages = s.dev.pages) ∧ (t.dev.cmds = s.dev.cmds) ∧ (t.dev.cores = s.dev.cores) ∧ (t.dev.galleys = s.dev.galleys)) | _ => false) = true := by
  decide +kernel

theorem test_PowerAndThermal :
    let s : State := stWith (fun d => { d with galleys := [(0, { galUp with state := 1, cmdTail := 3 })] })
    (match exec (.pwrFailNFall) s with | .next t => decide ((t.dev.boot.pwrLow = true) ∧ (t.dev.boot.flushing = true) ∧ (t.dev.boot.flushDone = false) ∧ (t.dev.boot.flashJob = none) ∧ (fetchable t.dev 0 = []) ∧ (fetchable t.dev 1 = []) ∧ (fetchable t.dev 2 = []) ∧ (fetchable t.dev 3 = []) ∧ (t.clk = s.clk) ∧ (t.dev.mem = s.dev.mem) ∧ (t.dev.pages = s.dev.pages) ∧ (t.dev.cmds = s.dev.cmds) ∧ (t.dev.cores = s.dev.cores) ∧ (t.dev.galleys = s.dev.galleys)) | _ => false) = true := by
  decide +kernel

theorem test_RegisterMessages :
    let mb : Nat := 0
    let off : Nat := 0x04B00010
    let size : Nat := 4
    let opt : Nat := 1
    let sv : Service := { svOf 0x11 (leBytes 4 0x04B00010 ++ [4, 1]) with hdr := 3 * 2 ^ 13 }
    let s : State := stWith (fun d => { d with mbx := [(0, { Mailbox.reset with svc := some ({ svOf 0x11 (leBytes 4 0x04B00010 ++ [4, 1]) with hdr := 3 * 2 ^ 13 }) })] })
    (match exec (.fieldRead mb) s with | .next t => decide ((((mbOf t.dev mb).svc.bind (·.reply)) = some (solpen sv.req 0 0 (leBytes 4 off ++ zeros 20 ++ leBytes 8 (readAt s.clk (latch s) off size (decide (opt = 1)))))) ∧ (tget? t.dev.bus 0 = some ⟨0, (tget s.dev.bus 0 ⟨0, false, 0⟩).sticky, off % 2 ^ 32⟩) ∧ (t = { s with dev := { latch s with mbx := t.dev.mbx, bus := t.dev.bus } })) | _ => false) = true := by
  decide +kernel

theorem test_RegisterWrites :
    let v : Nat := 0x190
    let s : State := stUp
    (match exec (.registerWrite .compositor 0x04B00010 4 v) s with | .next t => decide ((rf t.dev 0x04B00010 0 16 = v % 65536) ∧ (t = { s with dev := { latch s with bus := t.dev.bus, regs := t.dev.regs } })) | _ => false) = true := by
  decide +kernel

theorem test_CountersAndAcknowledgement :
    let v : Nat := 1
    let s : State := stWith (fun d => { d with errq := { ErrQ.reset with next := 3, lost := 1, slots := [(0, ⟨0, 0, 11, 1, false, false, 13, 0, 0, 0xFFFFFFFF, zeros 32⟩), (1, ⟨0, 2, 11, 1, false, false, 13, 0, 0, 0xFFFFFFFF, zeros 32⟩)] } })
    (match exec (.errqAck v) s with | .next t => decide (t = { s with dev := { latch s with errq := { s.dev.errq with slots := s.dev.errq.slots.filter (fun e => !seqOlder e.2.seq (v % 2 ^ 32)), lost := 0 } } }) | _ => false) = true := by
  decide +kernel

theorem test_ObjectCreate :
    let mb : Nat := 0
    let n : Nat := 1
    let sv : Service := { svOf 0x100 ([1, 0] ++ leBytes 2 0 ++ zeros 12 ++ leBytes 4 0 ++ zeros 12 ++ ([7, 1, 0, 0, 11, 0, 16, 0, 64, 0])) with hdr := 3 * 2 ^ 13 }
    let s : State := stWith (fun d => { d with mbx := [(0, { Mailbox.reset with svc := some ({ svOf 0x100 ([1, 0] ++ leBytes 2 0 ++ zeros 12 ++ leBytes 4 0 ++ zeros 12 ++ ([7, 1, 0, 0, 11, 0, 16, 0, 64, 0])) with hdr := 3 * 2 ^ 13 }) })] })
    (match exec (.objCreate mb) s with | .next t => decide ((tget? t.dev.ctxs n = some (Ctx.fresh.with (slice sv.req 40 24))) ∧ (((mbOf t.dev mb).svc.bind (·.reply)) = some (solpen sv.req 0 0 (objReply 1 n 0 (ctxInline t.dev n)))) ∧ (t = { s with dev := { latch s with mbx := t.dev.mbx, ctxs := t.dev.ctxs } })) | _ => false) = true := by
  decide +kernel

theorem test_ObjectModifyQueryDestroy :
    let mb : Nat := 0
    let i : Nat := 4095
    let r : Region := { owner := 0, open_ := false, access := [], current := 2, versions := [(2, ⟨0, 65536, none⟩)] }
    let sv : Service := { svOf 0x101 ([9, 0] ++ leBytes 2 0x9FFF ++ zeros 12 ++ leBytes 4 0 ++ zeros 12 ++ ([1, 0])) with hdr := 3 * 2 ^ 13 }
    let s : State := stWith (fun d => { d with mbx := [(0, { Mailbox.reset with svc := some ({ svOf 0x101 ([9, 0] ++ leBytes 2 0x9FFF ++ zeros 12 ++ leBytes 4 0 ++ zeros 12 ++ ([1, 0])) with hdr := 3 * 2 ^ 13 }) })], regions := [(4095, { owner := 0, open_ := false, access := [], current := 2, versions := [(2, ⟨0, 65536, none⟩)] })] })
    (match exec (.objModify mb) s with | .next t => decide ((tget? t.dev.regions i = some { r with open_ := bitOf (fieldAt (slice sv.req 40 24) 0 2) 0, access := (List.range 8).map (fun k => fieldAt (slice sv.req 40 24) (4 + 2 * k) 2) }) ∧ (((mbOf t.dev mb).svc.bind (·.reply)) = some (solpen sv.req 0 0 (objReply 9 i 0 []))) ∧ (t = { s with dev := { latch s with mbx := t.dev.mbx, regions := t.dev.regions } })) | _ => false) = true := by
  decide +kernel

theorem test_DecodersAndRegions :
    let mb : Nat := 0
    let p : Nat := 11
    let i : Nat := 15
    let c : Nat := 0
    let u : Nat := 65536
    let n : Nat := 131072
    let sv : Service := { svOf 0x104 (leBytes 1 11 ++ [15] ++ leBytes 2 0 ++ zeros 4 ++ leBytes 8 65536 ++ leBytes 8 131072) with hdr := 3 * 2 ^ 13 }
    let s : State := stWith (fun d => { d with mbx := [(0, { Mailbox.reset with svc := some ({ svOf 0x104 (leBytes 1 11 ++ [15] ++ leBytes 2 0 ++ zeros 4 ++ leBytes 8 65536 ++ leBytes 8 131072) with hdr := 3 * 2 ^ 13 }) })] })
    (match exec (.decoderBind mb) s with | .next t => decide ((decoderOf t.dev p i = { decoderOf s.dev p i with ctx := some c, uniBase := u, uniLen := n, old := (decoderOf s.dev p i).old ++ [(mb, sv.id, (decoderOf s.dev p i).ctx, (decoderOf s.dev p i).uniBase, (decoderOf s.dev p i).uniLen)] }) ∧ (((mbOf t.dev mb).svc.bind (·.reply)) = some (solpen sv.req 0 0 (leBytes 2 ((decoderOf s.dev p i).ctx.getD 0xFFFF) ++ zeros 6 ++ leBytes 8 (decoderOf s.dev p i).uniBase ++ leBytes 8 (decoderOf s.dev p i).uniLen))) ∧ (t = { s with dev := { latch s with mbx := t.dev.mbx, ports := t.dev.ports } })) | _ => false) = true := by
  decide +kernel

theorem test_ContextReset :
    let mb : Nat := 0
    let c : Nat := 511
    let sv : Service := { svOf 0x300 (leBytes 2 511) with hdr := 3 * 2 ^ 13 }
    let s : State := stWith (fun d => { d with mbx := [(0, { Mailbox.reset with svc := some ({ svOf 0x300 (leBytes 2 511) with hdr := 3 * 2 ^ 13 }) })], ctxs := [(0, Ctx.fresh), (511, Ctx.fresh)], cmds := [(7, { cmdWith 1 [] 2 with ctx := 511, order := 3 })], galleys := [(gkey 511 7, { Galley.none with state := 1, cmdTail := 9, cmdHead := 4 })] })
    (match exec (.contextReset mb) s with | .next t => decide ((((ctxOf t.dev c).reset.map (fun j => [j.mbx, j.svc, j.started, j.drainUs, j.aborted])) = some [mb, sv.id, s.clk.time, (if sv.f 12 4 = 0 then 10000 else sv.f 12 4), 0]) ∧ (((ctxOf t.dev c).reset.map (·.running)) = some ((s.dev.cmds.filter (fun k => k.2.ctx = c && (k.2.phase = 2 || (k.2.phase = 4 && k.2.status ≠ 0x50)))).map (·.2.order))) ∧ ((List.range 8).all (fun g => !thas s.dev.galleys (gkey c g) || ((galleyOf t.dev c g).state == 4 && (galleyOf t.dev c g).cmdTail == (galleyOf s.dev c g).cmdHead)) = true) ∧ (((mbOf t.dev mb).svc.map (fun x => (x.busy, x.reply))) = some (true, none)) ∧ (t = { s with dev := { latch s with mbx := t.dev.mbx, ctxs := t.dev.ctxs, galleys := t.dev.galleys } })) | _ => false) = true := by
  decide +kernel

theorem test_Orphans :
    let mb : Nat := 0
    let cur : Nat := 64
    let sv : Service := { svOf 0x302 (leBytes 8 64) with hdr := 3 * 2 ^ 13 }
    let s : State := stWith (fun d => { d with mbx := [(0, { Mailbox.reset with svc := some ({ svOf 0x302 (leBytes 8 64) with hdr := 3 * 2 ^ 13 }) })], dir := [(5, ⟨0, 3, 0xFF, none⟩)], orphans := [(5, ⟨3, 7, 1, 0⟩)] })
    (match exec (.orphanLogRead mb) s with | .next t => decide (t = { s with dev := { latch s with mbx := tput s.dev.mbx mb { mbOf s.dev mb with svc := some { sv with busy := true, ended := true, reply := some (solpen sv.req 0 0 (leBytes 4 0 ++ leBytes 4 s.dev.orphans.length ++ leBytes 8 (if (s.dev.orphans.filter (fun o => decide (cur ≤ o.1 * 64))).length = 0 then 2 ^ 64 - 1 else cur))) } } } }) | _ => false) = true := by
  decide +kernel

theorem test_MapAgreement :
    let p : Proposal := ⟨5, { emptyMap with epoch := 5, managerCount := 3, managers := [1], nodes := [(1, ⟨1, true, false, 0, 1, 9, [], []⟩)] }⟩
    let s : State := stWith (fun d => { d with boot := { d.boot with record := some (zeros 36 ++ leBytes 2 1 ++ [0, 3] ++ zeros 472) }, mbr := { d.mbr with map := { emptyMap with managerCount := 3, managers := [1, 0xFFFF, 0xFFFF, 0xFFFF, 0xFFFF, 0xFFFF, 0xFFFF], nodes := [(1, ⟨1, true, false, 0, 1, 9, [], []⟩)] }, joined := true } })
    (match exec (.propose p) s with | .next t => decide ((t.dev.mbr = { s.dev.mbr with accepted := some p }) ∧ (t = { s with dev := { latch s with mbr := t.dev.mbr, links := t.dev.links, out := t.dev.out, tel := t.dev.tel } })) | _ => false) = true := by
  decide +kernel

theorem test_HeartbeatsAndLease :
    let l : Nat := 7
    let s : State := stWith (fun d => { d with links := [(7, { Link.reset with state := 6, peer := 2, auth := true, credit := [(3, 10)] })] })
    (match exec (.heartbeatSend) s with | .next t => decide ((t.dev.out.length = s.dev.out.length + 1) ∧ ((linkOf t.dev l).txSeq = ((linkOf s.dev l).txSeq + 1) % 4096) ∧ ((linkOf t.dev l).replay.length = (linkOf s.dev l).replay.length + 1) ∧ ((linkOf t.dev l).txq = []) ∧ (t.dev.mbr = s.dev.mbr) ∧ (t.dev.mem = s.dev.mem) ∧ (t.clk = s.clk)) | _ => false) = true := by
  decide +kernel

theorem test_FormesAndMapRead :
    let mb : Nat := 0
    let f : Forme := ⟨0, 7⟩
    let sv : Service := { svOf 0x400 (leBytes 2 0x4000 ++ [1, 0] ++ leBytes 4 3 ++ zeros 16 ++ leBytes 2 2) with hdr := 3 * 2 ^ 13 }
    let s : State := stWith (fun d => { d with boot := { d.boot with record := some (zeros 36 ++ leBytes 2 1 ++ [0, 3] ++ zeros 472) }, mbr := { d.mbr with map := { emptyMap with managerCount := 3, managers := [0, 1, 0xFFFF, 0xFFFF, 0xFFFF, 0xFFFF, 0xFFFF, 0xFFFF], formes := [⟨7, 1, 3, [⟨1, 0, true, 0, 0, 0⟩, ⟨2, 0, true, 0, 0, 0⟩]⟩], nodes := [(1, ⟨1, true, false, 0, 1, 9, [], []⟩), (0, ⟨1, true, false, 0, 1, 9, [], []⟩)] }, joined := true, majority := true }, formes := [(0, ⟨0, 7⟩)], mbx := [(0, { Mailbox.reset with svc := some ({ svOf 0x400 (leBytes 2 0x4000 ++ [1, 0] ++ leBytes 4 3 ++ zeros 16 ++ leBytes 2 2) with hdr := 3 * 2 ^ 13 }) })] })
    (match exec (.formeChange mb) s with | .next t => decide ((t.dev.mbr = { s.dev.mbr with waiters := s.dev.mbr.waiters ++ [(mb, sv.id, 3, f.id)] }) ∧ (t.dev.mbx = tput s.dev.mbx mb { mbOf s.dev mb with svc := some { sv with busy := true } }) ∧ (t = { s with dev := { latch s with mbx := t.dev.mbx, mbr := t.dev.mbr, links := t.dev.links, out := t.dev.out, tel := t.dev.tel } })) | _ => false) = true := by
  decide +kernel

theorem test_SequenceHandoff :
    let mb : Nat := 0
    let n : Nat := 5
    let sv : Service := { svOf 0x402 (leBytes 2 0x5005 ++ [0, 0] ++ leBytes 2 9 ++ leBytes 2 3) with hdr := 3 * 2 ^ 13 }
    let x : Slot := { ctx := 0, par := zeros 64, home := 0, state := 0, epoch := 4, offer := 5, floor := 2, peerNode := 9, peerSlot := 3, attended := false, give := none, old := [] }
    let s : State := stWith (fun d => { d with mbx := [(0, { Mailbox.reset with svc := some ({ svOf 0x402 (leBytes 2 0x5005 ++ [0, 0] ++ leBytes 2 9 ++ leBytes 2 3) with hdr := 3 * 2 ^ 13 }) })], slots := [(5, { ctx := 0, par := zeros 64, home := 0, state := 0, epoch := 4, offer := 5, floor := 2, peerNode := 9, peerSlot := 3, attended := false, give := none, old := [] })] })
    (match exec (.seqHandoffGive mb) s with | .next t => decide ((tget? t.dev.slots n = some { x with state := 1, offer := (x.epoch + 1) % 2 ^ 32, peerNode := sv.f 12 2, peerSlot := sv.f 14 2, give := some (mb, sv.id) }) ∧ ((mbOf t.dev mb).svc = some { sv with busy := true }) ∧ (t = { s with dev := { latch s with slots := t.dev.slots, mbx := t.dev.mbx, ports := t.dev.ports, tel := t.dev.tel, out := t.dev.out, links := t.dev.links } })) | _ => false) = true := by
  decide +kernel

theorem test_HandoffFrames :
    let node : Nat := 9
    let n : Nat := 5
    let m : HandoffMsg := ⟨0, 7, 3, 5, 0, 0, crc32c (zeros 14)⟩
    let x : Slot := { ctx := 0, par := zeros 64, home := 0, state := 2, epoch := 4, offer := 5, floor := 2, peerNode := 9, peerSlot := 3, attended := false, give := none, old := [] }
    let s : State := stWith (fun d => { d with slots := [(5, { ctx := 0, par := zeros 64, home := 0, state := 2, epoch := 4, offer := 5, floor := 2, peerNode := 9, peerSlot := 3, attended := false, give := none, old := [] })] })
    (match exec (.offer node m) s with | .next t => decide ((tget? t.dev.slots n = some { x with state := 3, offer := m.epoch, peerNode := node, peerSlot := m.donor }) ∧ (t = { s with dev := { latch s with slots := t.dev.slots, links := t.dev.links, out := t.dev.out, tel := t.dev.tel } })) | _ => false) = true := by
  decide +kernel

theorem test_TwinAndWindows :
    let l : Nat := 0
    let s : State := stWith (fun d => { d with mbr := { d.mbr with twin := 2 }, regs := [(0x048E0020, 1), (0x048E0108, 1)], links := [(0, { Link.reset with state := 6, peer := 2, auth := true, credit := [(3, 10)] })] })
    (match exec (.twinLinkActive l) s with | .next t => decide (t = { s with dev := { latch s with mbr := { s.dev.mbr with twin := 3 } } }) | _ => false) = true := by
  decide +kernel

theorem test_CxlLinkStates :
    let port : Nat := 11
    let s : State := stWith (fun d => { d with ports := [(11, { Port.reset with perst := false, link := 6 })] })
    (match exec (.portEnable port true) s with | .next t => decide (t = { s with dev := { latch s with regs := tput s.dev.regs (portBase port) (setBits (rv s.dev (portBase port)) 0 1 1), ports := tput s.dev.ports port { portOf s.dev port with link := 1 } } }) | _ => false) = true := by
  decide +kernel

theorem test_CxlioCompletions :
    let port : Nat := 11
    let k : Nat := 4
    let mb : Nat := 0
    let n : Nat := 64
    let a : Nat := 0
    let ca : Nat := 0
    let b : Bytes := [1, 2]
    let sv : Service := svOf 0x100 []
    let s : State := stWith (fun d => { d with ports := [(11, { Port.reset with perst := false, link := 2, io := [(4, ⟨.param 0 1, 0, 64, false, [], 0⟩)] })], mbx := [(0, { Mailbox.reset with svc := some (svOf 0x100 []) })] })
    (match exec (.cxlioCompletion port k (.data b)) s with | .next t => decide (((mbOf t.dev mb).svc = some { sv with params := some (slice b 0 n) }) ∧ ((portOf t.dev port).io = tdel (portOf s.dev port).io k) ∧ (t = { s with dev := { latch s with mbx := t.dev.mbx, ports := t.dev.ports } })) | _ => false) = true := by
  decide +kernel

theorem test_CxlMemAccess :
    let ba : Nat := 65536
    let ln : Nat := 65536
    let port : Nat := 11
    let hpa : Nat := 8192
    let dec : Nat := 0
    let off : Nat := 4096
    let line : Nat := 1088
    let c : Nat := 0
    let x : Decoder := { base := 4096, size := 2 ^ 28, ways := 1, gran := 256, committed := true, locked := false, ctx := some 0, uniBase := 65536, uniLen := 65536, old := [] }
    let far : Far := []
    let y : CLine := ⟨zeros 64, true⟩
    let s : State := stWith (fun d => { d with ports := [(11, { Port.reset with perst := false, link := 2, decoders := [(0, { base := 4096, size := 2 ^ 28, ways := 1, gran := 256, committed := true, locked := false, ctx := some 0, uniBase := 65536, uniLen := 65536, old := [] })] })], pages := [(1, { Page.unplaced with tier := 1, k := 4 })], mem := [(69632, 7)], cache := [(1088, ⟨zeros 64, true⟩)] })
    (match exec (.cxlMemRead port hpa far) s with | .next t => decide ((t.dev.out.contains (.memData port hpa y.data false 0) = true) ∧ (t.dev.mem = s.dev.mem) ∧ (tget? t.dev.cache line = some y) ∧ (t.clk = s.clk)) | _ => false) = true := by
  decide +kernel

theorem test_LinkStates :
    let l : Nat := 7
    let s : State := stWith (fun d => { d with links := [(7, { Link.reset with state := 1 })] })
    (match exec (.linkSignalDetect l) s with | .next t => decide (t = { s with dev := { latch s with links := tput s.dev.links l { linkOf s.dev l with state := 2 } } }) | _ => false) = true := by
  decide +kernel

theorem test_FlitsAndFrames :
    let l : Nat := 7
    let b : List Byte := zeros 511
    let s : State := stWith (fun d => { d with links := [(7, { Link.reset with state := 6 })] })
    (match exec (.flitReceive l b) s with | .next t => decide (((linkOf t.dev l).rxSeq = (linkOf s.dev l).rxSeq) ∧ ((linkOf t.dev l).rx = (linkOf s.dev l).rx) ∧ ((linkOf t.dev l).nak = false) ∧ ((linkOf t.dev l).txSeq = ((linkOf s.dev l).txSeq + 1) % 4096) ∧ (t.dev.out.length = s.dev.out.length + 1) ∧ (t = { s with dev := { latch s with links := t.dev.links, out := t.dev.out } })) | _ => false) = true := by
  decide +kernel

theorem test_SwitchCells :
    let sp : Nat := 24
    let c : Cell := ⟨7, 3, 6, 0, 2, true, [], 0, 0, 0⟩
    let s : State := stUp
    (match exec (.cellReceive sp c) s with | .next t => decide (((tget? t.dev.sw.frames (frameKey sp c.frame)).map (fun f => (f.output, f.cls, f.cells, f.got, f.sent, f.aborted)) = some (c.output, c.cls, c.count, [c.index], 0, false)) ∧ (tget t.dev.sw.occupancy (8 * c.output + c.cls) 0 = tget s.dev.sw.occupancy (8 * c.output + c.cls) 0 + 1) ∧ (t.dev.sw.bufs.length = 1) ∧ (t = { s with dev := { latch s with sw := t.dev.sw, tel := t.dev.tel } })) | _ => false) = true := by
  decide +kernel

theorem test_Arbitration :
    let f : Nat := 3
    let a : Nat := 29
    let slot : Nat := 29
    let cls : Nat := 7
    let o : Nat := 4096
    let beats : Nat := 300
    let s : State := stUp
    (match exec (.arbRequest f a slot cls o beats) s with | .next t => decide (t = { s with dev := { latch s with arbs := tput s.dev.arbs (30 * f + a) { arbOf s.dev f a with wires := (arbOf s.dev f a).wires ++ [⟨slot, arbClass (latch s) f slot cls o, o, beats, arbCtx (latch s) f o⟩] } } }) | _ => false) = true := by
  decide +kernel

theorem test_Impressions :
    let fall : Bool := false
    let s : State := { stUp with clk := { Clock.reset with time := 2000000, last := 1000000, count := 8, from_ := some 1000000, intervals := List.replicate 7 1000000, impr := 1 } }
    (match exec (.imprSyncEdge fall) s with | .next t => decide ((t.clk.last = s.clk.time) ∧ (t.clk.count = (s.clk.count + 1) % 2 ^ 64) ∧ (t.clk.from_ = some s.clk.time) ∧ (t.clk.coasts = 0) ∧ (t.clk.impr = (if t.clk.intervals.length = 8 then 2 else 1)) ∧ (t.clk.intervals = (match s.clk.from_ with | some f => if s.clk.time - f ≤ 1000 * rf s.dev 0x04A04008 16 16 then ((s.clk.time - f) :: s.clk.intervals).take 8 else s.clk.intervals | none => s.clk.intervals)) ∧ (t.clk.time = s.clk.time) ∧ (t.dev.force = []) ∧ (t = { s with clk := t.clk, dev := { latch s with force := t.dev.force, boot := t.dev.boot } })) | _ => false) = true := by
  decide +kernel

theorem test_TimePps :
    let s : State := { stWith (fun d => { d with regs := [(0x04A00000, 1)] }) with clk := { Clock.reset with time := 1999999980, ppsGood := 2 } }
    (match exec (.timePpsEdge) s with | .next t => decide (t = { s with clk := { s.clk with ppsGood := if (if s.clk.time % 1000000000 < 500000000 then ((s.clk.time % 1000000000 : Nat) : Int) else ((s.clk.time % 1000000000 : Nat) : Int) - 1000000000).natAbs ≤ 20 then min 3 (s.clk.ppsGood + 1) else 0, ppsLocked := if 1000 < (if s.clk.time % 1000000000 < 500000000 then ((s.clk.time % 1000000000 : Nat) : Int) else ((s.clk.time % 1000000000 : Nat) : Int) - 1000000000).natAbs then false else s.clk.ppsLocked || decide ((if s.clk.time % 1000000000 < 500000000 then ((s.clk.time % 1000000000 : Nat) : Int) else ((s.clk.time % 1000000000 : Nat) : Int) - 1000000000).natAbs ≤ 20 ∧ 2 ≤ s.clk.ppsGood), ppsLast := some s.clk.time, slew := -(if s.clk.time % 1000000000 < 500000000 then ((s.clk.time % 1000000000 : Nat) : Int) else ((s.clk.time % 1000000000 : Nat) : Int) - 1000000000) }, dev := latch s }) | _ => false) = true := by
  decide +kernel

theorem test_ScrubSelftestAndRecovery :
    let f : Nat := 3
    let u : Nat := 6
    let p : Nat := 5
    let s : State := stWith (fun d => { d with boot := { d.boot with bulks := [(15, 1)] }, ecc := [(27, { Ecc.reset with line := 8388607 })] })
    (match exec (.scrubLine f u p []) s with | .next t => decide (t = { s with dev := { latch s with ecc := tput s.dev.ecc (f * 7 + u) { eccOf s.dev f u with line := if scrubLines s.dev f u ≤ (eccOf s.dev f u).line + 1 then 0 else (eccOf s.dev f u).line + 1, passes := if scrubLines s.dev f u ≤ (eccOf s.dev f u).line + 1 then ((eccOf s.dev f u).passes + 1) % 65536 else (eccOf s.dev f u).passes }, tel := tput s.dev.tel (0x500000 + f * 0x100000 + 0x1748) ((tget s.dev.tel (0x500000 + f * 0x100000 + 0x1748) 0 + 1) % 2 ^ 64) } }) | _ => false) = true := by
  decide +kernel

theorem test_GalleyDoorbell :
    let port : Nat := 3
    let ctx : Nat := 0
    let g : Nat := 0
    let s : State := stGal { galUp with state := 1, cmdTail := 0xFFFFFFFF, cmdHead := 0xFFFFFFFE } (fun d => { d with free := 0 })
    let v : Nat := 6
    (match exec (.cmdTailWrite port ctx g v) s with | .next t => decide (t = { s with dev := { latch s with galleys := tput s.dev.galleys (gkey ctx g) { galleyOf s.dev ctx g with cmdTail := v % 2 ^ 32 } } }) | _ => false) = true := by
  decide +kernel

theorem test_CommandsInOrder :
    let f : Nat := 0
    let ctx : Nat := 0
    let g : Nat := 0
    let far : Far := ([] : Far)
    let s : State := stGal { galUp with state := 1, cmdTail := 0 , cmdHead := 0xFFFFFFFF } (fun d => { d with mem := memWrite [] 0x11C0 ([0x3A, 0, 0, 0, 9] : Bytes) })
    let w : W := ((W.start (countStalls (latch s) f) far ctx (ctxOf s.dev ctx).gen (unitWho (countStalls (latch s) f) ctx g)).read (fieldAt (galleyOf s.dev ctx g).ringPar 0 8 + 64 * ((galleyOf s.dev ctx g).cmdHead % (galleyOf s.dev ctx g).cmdSlots)) 64).1
    let b : Bytes := ((W.start (countStalls (latch s) f) far ctx (ctxOf s.dev ctx).gen (unitWho (countStalls (latch s) f) ctx g)).read (fieldAt (galleyOf s.dev ctx g).ringPar 0 8 + 64 * ((galleyOf s.dev ctx g).cmdHead % (galleyOf s.dev ctx g).cmdSlots)) 64).2
    (match exec (.commandFetch f far) s with | .next t => decide ((galleyOf t.dev ctx g = { galleyOf s.dev ctx g with cmdHead := ((galleyOf s.dev ctx g).cmdHead + 1) % 2 ^ 32 }) ∧ (t.clk = s.clk)) | _ => false) = true := by
  decide +kernel

theorem test_Proofs :
    let ctx : Nat := 0
    let g : Nat := 0
    let tag : Nat := 4095
    let u : Nat := 0x21C0
    let i : Nat := 0
    let rest : List Nat := [2]
    let c : Cmd := cmdWith 0x3A [] 3
    let r : Range := (⟨0, 65536, 0, true, true, true, false, none, 0, none, none, none, 0⟩ : Range)
    let s : State := stGal { galUp with state := 1, done := [4095, 2], proofTail := 7 } (fun d => { d with cmds := [(4095, cmdWith 0x3A [] 3)], cache := [(0x87, ⟨zeros 64, false⟩)] })
    (match exec (.proofWrite ctx g) s with | .next t => decide ((t.dev.cache = tput s.dev.cache (u / 64) ⟨proofBytes c tag (galleyOf s.dev ctx g).proofTail (galleyOf s.dev ctx g).proofSlots, true⟩) ∧ (galleyOf t.dev ctx g = { galleyOf s.dev ctx g with proofBusy := true }) ∧ (t.dev.recent = (useLine s.dev (u / 64)).recent) ∧ (t = { s with dev := { latch s with cache := t.dev.cache, galleys := t.dev.galleys, tel := t.dev.tel, recent := t.dev.recent, sliceFlips := t.dev.sliceFlips } })) | _ => false) = true := by
  decide +kernel

theorem test_MatrixEngine :
    let c : Nat := 63
    let i : TInstr := (⟨2 ^ 21, 0, 0, 0, false⟩ : TInstr)
    let s : State := stCore 63 17 (⟨2 ^ 21, 0, 0, 0, false⟩ : TInstr) { Core.idle with lm := [] }
    let st : Nat := 17
    (match exec (.tnop c st) s with | .next t => decide (t = { s with dev := { latch s with cores := tput s.dev.cores c (modStream (coreOf s.dev c) st (fun q => { q with queue := q.queue.drop 1, flight := q.flight ++ [⟨i, [], false⟩] })) } }) | _ => false) = true := by
  decide +kernel

theorem test_VectorEngine :
    let c : Nat := 63
    let i : TInstr := (⟨0x10, 0x100, 63, 0, false⟩ : TInstr)
    let s : State := stCore 63 1 (⟨0x10, 0x100, 63, 0, false⟩ : TInstr) { Core.idle with lm := memWrite (memWrite [] 0x100 (tileBytes 0x200 2 100 128 9)) 0x200 (List.replicate 200 (7 : Byte)), vregs := [(63 * 512 + 511, 1)] }
    let dm : Dev := (sramRead (latch s) c 2 (engineSpans (coreOf s.dev c) 0x10 i)).1
    let tl : Tile := tileOf (tileBytes 0x200 2 100 128 9)
    (match exec (.vld c) s with | .next t => decide (t = { s with dev := { dm with cores := tput dm.cores c (modStream { (coreOf dm c) with vregs := memWrite (coreOf dm c).vregs (512 * bits i.w2 0 6) (vpad ((List.range tl.rows).flatMap (fun r => tl.bytes (coreOf dm c) r))) } 1 (fun q => { q with queue := q.queue.drop 1, flight := q.flight ++ [⟨i, [], false⟩] })) } }) | _ => false) = true := by
  decide +kernel

theorem test_ContextMoves :
    let c : Nat := 63
    let st : Nat := 17
    let far : Far := ([] : Far)
    let i : TInstr := (⟨0x20, 0x100, 0x40, 0x40, false⟩ : TInstr)
    let s : State := stMem (fun d => { d with cores := [(63, coreRun { Core.idle with lm := memWrite [] 0x100 (tileBytes 0x200 2 32 64 11) } 17 (⟨0x20, 0x100, 0x40, 0x40, false⟩ : TInstr))], free := 0 })
    let m : Dev := (sramRead (latch s) c (if st = 0 then 1 else if st = 1 then 2 else 3) (moveSpans (coreOf s.dev c) st (bits i.w0 0 8) i)).1
    let fin : Bool := false
    let w : W := xldBody c st false i (coreWork m far c (if st = 0 then 1 else if st = 1 then 2 else 3) (streamOwner c st))
    (match exec (.xld c st far) s with | .next t => decide (t = { s with dev := startHead (noteWrites (if fin then { w.d with fab := holdTogether w.d.fab (newOwed m w.d) } else w.d) c w.wrote) c st i (newOwed m w.d) false }) | _ => false) = true := by
  decide +kernel

theorem test_CoresAndRuns :
    let tag : Nat := 4095
    let c : Cmd := { cmdWith 0x28 (zeros 31 ++ [0x01, 0xA0, 8, 2]) 1 with start := 5 }
    let s : State := stGal { galUp with state := 1 } (fun d => { d with cmds := [(4095, { cmdWith 0x28 (zeros 31 ++ [0x01, 0xA0, 8, 2]) 1 with start := 5 })], runq := [3], objs := [(objKey 0 0xA001, ⟨slice (zeros 36 ++ [1, 0, 16, 0, 4]) 0 64, []⟩)] })
    (match exec (.run tag) s with | .next t => decide (t = { s with dev := { latch s with runq := insertRun s.dev.cmds c.start tag s.dev.runq } }) | _ => false) = true := by
  decide +kernel

theorem test_ScalarAccesses :
    let c : Nat := 63
    let far : Far := ([] : Far)
    let addr : Nat := 4
    let size : Nat := 4
    let rd : Nat := 31
    let uns : Bool := false
    let s : State := stMem (fun d => { d with cores := [(63, { Core.idle with state := 2, lm := [(5, 0x80), (7, 0xFF)] })] })
    (match exec (.scalarLoad c addr size rd uns far) s with | .next t => decide (t = { s with dev := { latch s with cores := if rd = 0 then s.dev.cores else tput s.dev.cores c { (coreOf s.dev c) with xregs := tput (coreOf s.dev c).xregs rd ((loadValue size uns (leNat (lmRead (coreOf s.dev c) addr size))) % 2 ^ 64) }, out := .load c rd ((loadValue size uns (leNat (lmRead (coreOf s.dev c) addr size))) % 2 ^ 64) :: s.dev.out } }) | _ => false) = true := by
  decide +kernel

theorem test_DirectoryRequests :
    let agent : Nat := 63
    let sh : Nat := 2 ^ 62
    let ow : Nat := 0xFF
    let line : Nat := 1023
    let l : CLine := (⟨List.replicate 64 (9 : Byte), false⟩ : CLine)
    let s : State := stMem (fun d => { d with ctxs := [(0, { Ctx.fresh with ranges := [(0, ⟨0, 65536, 0, true, true, true, true, none, 0, none, none, none, 0⟩)] })], cache := [(1023, (⟨List.replicate 64 (9 : Byte), false⟩ : CLine))], dir := [(1023, ⟨2 ^ 62, 1, 0xFF, none⟩)] })
    (match exec (.rdShared agent line) s with | .next t => decide ((dirOf t.dev line = ⟨addSharer sh agent, 1, 0xFF, none⟩) ∧ (t.dev.cores = tput s.dev.cores agent { (coreOf s.dev agent) with dcache := tput (coreOf s.dev agent).dcache line ⟨l.data, false, false⟩ }) ∧ (t.dev.recent = (useDir (useLine s.dev line) line).recent) ∧ (t = { s with dev := { latch s with dir := t.dev.dir, cores := t.dev.cores, tel := t.dev.tel, recent := t.dev.recent } })) | _ => false) = true := by
  decide +kernel

theorem test_SnoopsAndFailures :
    let agent : Nat := 63
    let x : DLine := (⟨List.replicate 64 (3 : Byte), false, true⟩ : DLine)
    let line : Nat := 1023
    let s : State := stMem (fun d => { d with ctxs := [(0, { Ctx.fresh with ranges := [(0, ⟨0, 65536, 0, true, true, true, true, none, 0, none, none, none, 0⟩)] })], cache := [(1023, (⟨List.replicate 64 (9 : Byte), false⟩ : CLine))], dir := [(1023, ⟨2 ^ 63, 2, 63, none⟩)], cores := [(63, { Core.idle with dcache := [(1023, (⟨List.replicate 64 (3 : Byte), false, true⟩ : DLine))] })] })
    (match exec (.snpShare agent line) s with | .next t => decide ((dirOf t.dev line = ⟨2 ^ agent, 1, 0xFF, none⟩) ∧ (t.dev.cores = tput s.dev.cores agent { (coreOf s.dev agent) with dcache := tput (coreOf s.dev agent).dcache line { x with owned := false } }) ∧ (t = { s with dev := { latch s with dir := t.dev.dir, cores := t.dev.cores, tel := t.dev.tel, recent := t.dev.recent } })) | _ => false) = true := by
  decide +kernel

theorem test_DmaChannels :
    let c : Nat := 63
    let ch : Nat := 15
    let i : TInstr := (⟨0x28, 0x40, 0, 0, false⟩ : TInstr)
    let s : State := stMem (fun d => { d with cores := [(63, { Core.idle with state := 2, streams := [(17, ⟨[⟨0x28, 0x40, 0, 0, false⟩], []⟩)], chans := [(15, { Chan.idle with state := 1 })] })] })
    (match exec (.dchain c ch) s with | .next t => decide (t = { s with dev := { latch s with cores := tput s.dev.cores c (modChan (modStream (coreOf s.dev c) (ch + 2) (fun q => { q with queue := q.queue.drop 1, flight := q.flight ++ [⟨i, [], true⟩] })) ch (fun k => { k with desc := bits i.w1 0 23, prog := 0, bytes64 := [] })) } }) | _ => false) = true := by
  decide +kernel

theorem test_FabricAtHome :
    let utag : Nat := 0x5000
    let r : FabIn := ⟨0, 0, 0, 0, 0, 0xFFC0, [], false, [], false, 0, [], false, false⟩
    let l : CLine := (⟨List.replicate 64 (9 : Byte), false⟩ : CLine)
    let s : State := stMem (fun d => { d with reqs := [(0x5000, ⟨0, 0, 0, 0, 0, 0xFFC0, [], false, [], false, 0, [], false, false⟩)], entries := [(3, ⟨0x5000, [], 8⟩), (4, ⟨1, [], 8⟩)], cache := [(1023, (⟨List.replicate 64 (9 : Byte), false⟩ : CLine)), (5, (⟨List.replicate 64 (9 : Byte), false⟩ : CLine))] })
    (match exec (.read utag) s with | .next t => decide ((t.dev.reqs = tdel s.dev.reqs utag) ∧ (t.dev.entries = s.dev.entries.filter (fun e => e.2.first ≠ utag)) ∧ ((r.src = selfNode s.dev → tget? t.dev.acks utag = some ⟨2, 0, selfNode s.dev, epochOf s.dev, 0, 0, l.data, decide (0 ≠ 0), [], false, 0, [], false, false⟩)) ∧ (t.dev.links = (ackTo (latch s) r.src utag (0) (l.data)).links) ∧ (t.dev.out = (ackTo (latch s) r.src utag (0) (l.data)).out) ∧ (t.dev.recent = (useLine s.dev (r.addr / 64)).recent) ∧ (t = { s with dev := { latch s with recent := t.dev.recent, reqs := t.dev.reqs, entries := t.dev.entries, tel := t.dev.tel, acks := t.dev.acks, links := t.dev.links, out := t.dev.out } })) | _ => false) = true := by
  decide +kernel

theorem test_FabricRefusalsAndTimers :
    let utag : Nat := 0x5000
    let r : FabIn := ⟨0, 1, 0, 0, 0, 0x7FFFFFC0, leBytes 8 1, false, [], false, 0, [], false, false⟩
    let s : State := stMem (fun d => { d with reqs := [(0x5000, ⟨0, 1, 0, 0, 0, 0x7FFFFFC0, leBytes 8 1, false, [], false, 0, [], false, false⟩)], entries := [(3, ⟨0x5000, [], 8⟩), (4, ⟨1, [], 8⟩)], cache := [(1023, (⟨List.replicate 64 (9 : Byte), false⟩ : CLine)), (5, (⟨List.replicate 64 (9 : Byte), false⟩ : CLine))] })
    (match exec (.write utag) s with | .next t => decide ((t.dev.reqs = tdel s.dev.reqs utag) ∧ (t.dev.entries = s.dev.entries.filter (fun e => e.2.first ≠ utag)) ∧ ((r.src = selfNode s.dev → tget? t.dev.acks utag = some ⟨2, 0x14, selfNode s.dev, epochOf s.dev, 0, 0, [], decide (0x14 ≠ 0), [], false, 0, [], false, false⟩)) ∧ (t.dev.links = (ackTo (latch s) r.src utag (0x14) ([])).links) ∧ (t.dev.out = (ackTo (latch s) r.src utag (0x14) ([])).out) ∧ (t = { s with dev := { latch s with reqs := t.dev.reqs, entries := t.dev.entries, tel := t.dev.tel, acks := t.dev.acks, links := t.dev.links, out := t.dev.out } })) | _ => false) = true := by
  decide +kernel

theorem test_PoolAndCodecCommands :
    let tag : Nat := 4095
    let c : Cmd := (cmdWith 0x20 (zeros 31 ++ leBytes 8 0x2040 ++ leBytes 4 1 ++ zeros 4 ++ leBytes 8 0x1122334455667788) 1)
    let s : State := stGal { galUp with state := 1 } (fun d => { d with cmds := [(4095, (cmdWith 0x20 (zeros 31 ++ leBytes 8 0x2040 ++ leBytes 4 1 ++ zeros 4 ++ leBytes 8 0x1122334455667788) 1))], cache := [(0x81, (⟨List.replicate 64 (9 : Byte), false⟩ : CLine))] })
    let k : Nat := 0
    let u : Nat := 0x2040
    let far : Far := ([] : Far)
    let r : Range := (⟨0, 65536, 0, true, true, true, false, none, 0, none, none, none, 0⟩ : Range)
    let l : CLine := (⟨List.replicate 64 (9 : Byte), false⟩ : CLine)
    (match exec (.fill tag far) s with | .next t => decide ((cmdOf t.dev tag = some { c with phase := 3, finish := s.clk.time, count := 1, digest := crc64 (List.replicate 8 (slice c.entry 48 8)).flatten, writes := c.writes + 1 }) ∧ ((galleyOf t.dev c.ctx c.g).done = [tag]) ∧ (t.dev.cache = tput s.dev.cache (u / 64) ⟨(List.replicate 8 (slice c.entry 48 8)).flatten, true⟩) ∧ (t.dev.recent = (useLine s.dev (u / 64)).recent) ∧ (t.dev.sliceFlips = tdel s.dev.sliceFlips (u / 64)) ∧ (t = { s with dev := { letGo (latch s) tag c with cmds := t.dev.cmds, galleys := t.dev.galleys, cache := t.dev.cache, tel := t.dev.tel, recent := t.dev.recent, sliceFlips := t.dev.sliceFlips } })) | _ => false) = true := by
  decide +kernel

/-! ### Witnesses: each clause of each statement holds of something -/

theorem fullSlots : lowestFree (tkeys ((List.range 512).map (fun i => (i, Ctx.fresh)))) 0 512 = none := by
  apply lowestFree_none
  intro i hi
  simp [tkeys, Function.comp_def]
  omega

/-- The state of the witness for the start of a move: page 7 queued for the stack tier, which three stacks hold. -/
def stMove : State :=
  stWith (fun d => { d with queue := [(7, 1)], pages := [(7, { Page.unplaced with tier := 2 })]
                            boot := { d.boot with stackCaps := [(9, 64), (10, 64), (11, 64)] } })

theorem stMove_cap : ∀ r, r < 3 → tierCap (latch stMove) 3 1 r = 1048576 := by decide +kernel

theorem stMove_used : tierUsed (latch stMove) 3 1 = [] := by decide +kernel

/-- Whatever the choice of the hardware, a page is free for the move. -/
theorem stMove_picks : ∃ k, pickPage (latch stMove) 3 1 (fun _ => true) = some k := by
  have hr : freeVal (latch stMove) % 3 < 3 := Nat.mod_lt _ (by decide)
  have hc := stMove_cap _ hr
  refine ⟨freeVal (latch stMove) / 3 % 1048576 * 3 + freeVal (latch stMove) % 3, ?_⟩
  simp only [pickPage, stMove_used, tierWays, if_true, Nat.add_zero, show List.range 3 = [0, 1, 2] from rfl, List.foldl_cons,
    List.foldl_nil, hc]
  simp [pickIn]

theorem witness_PagesInUse_moveStart : ∃ k : Nat,
    let f : Nat := 3
    let page : Nat := 7
    let tg : Nat := 1
    let s : State := stMove
    ((.moveStart f : Instr).wellFormed = true) ∧ (Serving s) ∧ (devState s.dev ≠ 0) ∧ (admits s.dev 6 = true) ∧ (floeOn s.dev f = true) ∧
      (movesOf s.dev f < 16) ∧ (s.dev.queue.find? (fun q => homeFloe q.1 = f) = some (page, tg)) ∧ (thas s.dev.moves page = false) ∧
      ((pageOf s.dev page).tier = 1 ∨ (pageOf s.dev page).tier = 2) ∧ ((pageOf s.dev page).pinned = false) ∧
      ((pageOf s.dev page).durable = false) ∧ (tg ≠ 5) ∧ (pickPage (latch s) f tg (fun _ => true) = some k) := by
  obtain ⟨k, hk⟩ := stMove_picks
  refine ⟨k, ?_⟩
  simp only [hk]
  decide +kernel

/-- Witnesses of the statements about every command: one that names units the device has, one that does not, and a
state in which a command waits for RESET_N. -/
theorem witness_EveryCommandAnswers_1 : (.doorbellClear 11 15 1 : Instr).wellFormed = true := by decide
theorem witness_EveryCommandAnswers_2 : (.doorbellClear 12 15 1 : Instr).wellFormed = false := by decide
theorem witness_EveryCommandAnswers_3 :
    (.post 2 3 : Instr).wellFormed = true ∧ State.reset.dev.boot.held = true ∧ actsInReset (.post 2 3) = false := by decide

theorem witness_StepServesTheFront_1 : ({ stUp with pending := [.post 2 3] } : State).pending = [.post 2 3] := rfl
theorem witness_StepServesTheFront_2 : stUp.pending = [] := by decide

/-- A locked time base is legal, and a step of it answers. -/
theorem witness_StepKeepsTheTimeBaseLegal_1 :
    State.reset.clk.Legal ∧ State.reset.dev.errq.due = [] ∧ step State.reset = .next State.reset := by
  refine ⟨by decide, by decide, rfl⟩
theorem witness_StepKeepsTheTimeBaseLegal_2 :
    let s : State := { stUp with clk := { Clock.reset with impr := 2, intervals := [8, 8, 8, 8, 8, 8, 8, 8], from_ := some 5 } }
    s.clk.Legal ∧ s.dev.errq.due = [] ∧ step s = .next { s with clk := s.clk.tick } := by
  refine ⟨by decide, by decide, rfl⟩

theorem witness_MailboxPost_1 :
    let port : Nat := 2
    let mb : Nat := 3
    let s : State := stWith (fun d => { d with mbx := [(3, { Mailbox.reset with bound := true, port := 2, ctx := 0, priv := 3, nextSeq := 5 })] })
    ((.post port mb : Instr).wellFormed = true) ∧ (Serving s) ∧ (devState s.dev ≠ 0) ∧ (mailUse s.dev port mb = true) ∧ ((mbOf s.dev mb).reqFull = false) ∧ (mb < 12) := by
  decide +kernel

theorem witness_MailboxPost_2 :
    let port : Nat := 11
    let mb : Nat := 15
    let s : State := stWith id
    ((.post port mb : Instr).wellFormed = true) ∧ (Serving s) ∧ (devState s.dev ≠ 0) ∧ (mailUse s.dev port mb = true) ∧ ((mbOf s.dev mb).reqFull = false) ∧ (12 ≤ mb) ∧ (agentOff s.dev mb = false) := by
  decide +kernel

theorem witness_MailboxPost_3 :
    let port : Nat := 0
    let mb : Nat := 0
    let s : State := stWith (fun d => { d with mbx := [(0, { Mailbox.reset with reqFull := true })] })
    ((.post port mb : Instr).wellFormed = true) ∧ (Serving s) ∧ (devState s.dev ≠ 0) ∧ (mailUse s.dev port mb = true) ∧ ((mbOf s.dev mb).reqFull = true) := by
  decide +kernel

theorem witness_MailboxPost_4 :
    let port : Nat := 0
    let mb : Nat := 0
    let off : Nat := 60
    let bytes : List Byte := List.replicate 4 (1 : Byte)
    let s : State := stWith (fun d => { d with mbx := [(0, { Mailbox.reset with reqFull := true })] })
    ((.reqDataWrite port mb off bytes : Instr).wellFormed = true) ∧ (Serving s) ∧ (devState s.dev ≠ 0) ∧ (mailUse s.dev port mb = true) ∧ (bytes.length = 4 ∨ bytes.length = 8) ∧ (off % bytes.length = 0) ∧ (off + bytes.length ≤ 64) ∧ ((mbOf s.dev mb).reqFull = true) := by
  decide +kernel

theorem witness_MailboxRegisters_1 :
    let port : Nat := 0
    let mb : Nat := 15
    let off : Nat := 56
    let bytes : List Byte := List.replicate 8 (1 : Byte)
    let s : State := stWith id
    ((.reqDataWrite port mb off bytes : Instr).wellFormed = true) ∧ (Serving s) ∧ (devState s.dev ≠ 0) ∧ (mailUse s.dev port mb = true) ∧ (bytes.length = 4 ∨ bytes.length = 8) ∧ (off % bytes.length = 0) ∧ (off + bytes.length ≤ 64) ∧ ((mbOf s.dev mb).reqFull = false) := by
  decide +kernel

theorem witness_MailboxRegisters_2 :
    let port : Nat := 1
    let mb : Nat := 0
    let off : Nat := 0
    let bytes : List Byte := List.replicate 4 (1 : Byte)
    let s : State := stWith (fun d => { d with mbx := [(0, { Mailbox.reset with bound := true })] })
    ((.reqDataWrite port mb off bytes : Instr).wellFormed = true) ∧ (Serving s) ∧ (devState s.dev = 0 ∨ mailUse s.dev port mb = false ∨ ¬(bytes.length = 4 ∨ bytes.length = 8) ∨ off % bytes.length ≠ 0 ∨ 64 < off + bytes.length) := by
  decide +kernel

theorem witness_MailboxRegisters_3 :
    let port : Nat := 0
    let mb : Nat := 15
    let s : State := stWith (fun d => { d with mbx := [(15, { Mailbox.reset with rspFull := true, rspHdr := 0x81234567 })] })
    ((.rspHdrRead port mb 0xC0 4 : Instr).wellFormed = true) ∧ (Serving s) ∧ (devState s.dev ≠ 0) ∧ (mailUse s.dev port mb = true) ∧ ((mbOf s.dev mb).rspFull = true) ∧ ((mbOf s.dev mb).bindReady = none) := by
  decide +kernel

theorem witness_MailboxRegisters_4 :
    let port : Nat := 0
    let mb : Nat := 0
    let s : State := stWith (fun d => { d with mbx := [(0, { Mailbox.reset with rspFull := true })] })
    ((.rspHdrRead port mb 0xC0 8 : Instr).wellFormed = true) ∧ (Serving s) ∧ (devState s.dev ≠ 0) ∧ (mailUse s.dev port mb = true) ∧ ((mbOf s.dev mb).rspFull = true) ∧ ((mbOf s.dev mb).bindReady = none) := by
  decide +kernel

theorem witness_MailboxRegisters_5 :
    let port : Nat := 0
    let mb : Nat := 0
    let size : Nat := 8
    let b : Bool := true
    let p : Nat := 11
    let c : Nat := 511
    let v : Nat := 1
    let s : State := stWith (fun d => { d with mbx := [(0, { Mailbox.reset with rspFull := true, bindReady := some (true, 11, 511, 1) })] })
    ((.rspHdrRead port mb 0xC0 size : Instr).wellFormed = true) ∧ (Serving s) ∧ (devState s.dev ≠ 0) ∧ (mailUse s.dev port mb = true) ∧ (size = 4 ∨ size = 8) ∧ ((mbOf s.dev mb).rspFull = true) ∧ ((mbOf s.dev mb).bindReady = some (b, p, c, v)) := by
  decide +kernel

theorem witness_MailboxRegisters_6 :
    let port : Nat := 0
    let mb : Nat := 0
    let off : Nat := 0xC4
    let size : Nat := 4
    let s : State := stWith (fun d => { d with mbx := [(0, { Mailbox.reset with rspFull := true })] })
    ((.rspHdrRead port mb off size : Instr).wellFormed = true) ∧ (Serving s) ∧ (devState s.dev ≠ 0) ∧ (size = 4 ∨ size = 8) ∧ (off % size = 0) ∧ (off ≠ 0xC0 ∨ mailUse s.dev port mb = false ∨ (mbOf s.dev mb).rspFull = false) := by
  decide +kernel

theorem witness_MailboxRegisters_7 :
    let port : Nat := 0
    let mb : Nat := 0
    let off : Nat := 0xC4
    let size : Nat := 8
    let s : State := stWith id
    ((.rspHdrRead port mb off size : Instr).wellFormed = true) ∧ (Serving s) ∧ (devState s.dev = 0 ∨ ¬(size = 4 ∨ size = 8) ∨ off % size ≠ 0) := by
  decide +kernel

theorem witness_MailboxRegisters_8 :
    let port : Nat := 0
    let mb : Nat := 0
    let v : BitVec 32 := (1#32)
    let s : State := stWith (fun d => { d with mbx := [(0, { Mailbox.reset with doorbell := 3, events := [⟨1, 0, 0, 0⟩] })] })
    ((.doorbellClear port mb v : Instr).wellFormed = true) ∧ (Serving s) ∧ (devState s.dev ≠ 0) ∧ (mailUse s.dev port mb = true) ∧ (bitOf v.toNat 1 = false ∨ (mbOf s.dev mb).events = []) := by
  decide +kernel

theorem witness_MailboxRegisters_9 :
    let port : Nat := 0
    let mb : Nat := 0
    let v : BitVec 32 := (3#32)
    let s : State := stWith (fun d => { d with mbx := [(0, { Mailbox.reset with mask := 2, doorbell := 7, events := [⟨1, 0, 0, 0⟩] })] })
    ((.doorbellClear port mb v : Instr).wellFormed = true) ∧ (Serving s) ∧ (devState s.dev ≠ 0) ∧ (mailUse s.dev port mb = true) ∧ (bitOf v.toNat 1 = true) ∧ ((mbOf s.dev mb).events.isEmpty = false) ∧ (bitOf (mbOf s.dev mb).mask 1 = true) := by
  decide +kernel

theorem witness_MailboxRegisters_10 :
    let port : Nat := 1
    let mb : Nat := 0
    let v : BitVec 32 := (0#32)
    let s : State := stWith (fun d => { d with mbx := [(0, { Mailbox.reset with bound := true })] })
    ((.dbMaskWrite port mb v : Instr).wellFormed = true) ∧ (Serving s) ∧ (devState s.dev = 0 ∨ mailUse s.dev port mb = false) := by
  decide +kernel

theorem witness_MailboxRegisters_11 :
    let port : Nat := 1
    let mb : Nat := 0
    let v : BitVec 32 := (3#32)
    let s : State := stWith (fun d => { d with mbx := [(0, { Mailbox.reset with bound := true, doorbell := 3 })] })
    ((.doorbellClear port mb v : Instr).wellFormed = true) ∧ (Serving s) ∧ (devState s.dev = 0 ∨ mailUse s.dev port mb = false) := by
  decide +kernel

theorem witness_MailboxRegisters_12 :
    let port : Nat := 0
    let mb : Nat := 0
    let v : BitVec 32 := (3#32)
    let s : State := stWith (fun d => { d with mbx := [(0, { Mailbox.reset with bound := true, mask := 0, doorbell := 7, events := [⟨1, 0, 0, 0⟩] })], ports := [(0, { Port.reset with link := 2, vecs := [(0, ⟨false, false, false, 0, 0⟩)] })] })
    ((.doorbellClear port mb v : Instr).wellFormed = true) ∧ (Serving s) ∧ (devState s.dev ≠ 0) ∧ (mailUse s.dev port mb = true) ∧ (bitOf v.toNat 1 = true) ∧ ((mbOf s.dev mb).events.isEmpty = false) ∧ (bitOf (mbOf s.dev mb).mask 1 = false) := by
  decide +kernel

theorem witness_MailboxRegisters_13 :
    let port : Nat := 0
    let mb : Nat := 0
    let v : BitVec 32 := (1#32)
    let s : State := stWith (fun d => { d with mbx := [(0, { Mailbox.reset with doorbell := 1 })] })
    ((.dbMaskWrite port mb v : Instr).wellFormed = true) ∧ (Serving s) ∧ (devState s.dev ≠ 0) ∧ (mailUse s.dev port mb = true) ∧ ((List.range 32).all (fun i => !(bitOf (mbOf s.dev mb).mask i && !bitOf v.toNat i && bitOf (mbOf s.dev mb).doorbell i)) = true) := by
  decide +kernel

theorem witness_MailboxRegisters_14 :
    let port : Nat := 1
    let mb : Nat := 0
    let i : Nat := 31
    let v : BitVec 32 := (0#32)
    let s : State := stWith (fun d => { d with mbx := [(0, { Mailbox.reset with bound := true, port := 1, doorbell := 2 ^ 31 })], ports := [(1, { Port.reset with link := 2, vecs := [(0, ⟨false, false, false, 0, 0⟩)] })] })
    ((.dbMaskWrite port mb v : Instr).wellFormed = true) ∧ (Serving s) ∧ (devState s.dev ≠ 0) ∧ (mailUse s.dev port mb = true) ∧ (i < 32) ∧ ((mbOf s.dev mb).bound = true) ∧ (bitOf (mbOf s.dev mb).mask i = true) ∧ (bitOf v.toNat i = false) ∧ (bitOf (mbOf s.dev mb).doorbell i = true) ∧ ((vecOf (portOf s.dev (mbOf s.dev mb).port) mb).masked = false) ∧ ((portOf s.dev (mbOf s.dev mb).port).funcMask = false) ∧ (linkUp (portOf s.dev (mbOf s.dev mb).port) = true) := by
  decide +kernel

theorem witness_MailboxService_1 :
    let mb : Nat := 0
    let s : State := stWith (fun d => { d with takeable := [0], mbx := [(0, { Mailbox.reset with reqFull := true, reqData := reqOf 1 [] })] })
    ((.requestTake mb : Instr).wellFormed = true) ∧ (Serving s) ∧ (mayTake s.dev mb = true) ∧ (agentOff s.dev mb = false) ∧ (headerFault s.dev mb (mbOf s.dev mb).reqData = none) ∧ (paramBlock (mbOf s.dev mb).reqData = none) ∧ (12 ≤ mb ∨ mustWait ({ latch s with svcNext := s.dev.svcNext + 1, takeable := s.dev.takeable.erase mb, mbx := tput s.dev.mbx mb { mbOf s.dev mb with reqFull := false, svc := some ⟨s.dev.svcNext, (mbOf s.dev mb).reqHdr, (mbOf s.dev mb).reqData, Option.none, false, false, false, Option.none, Option.none, false⟩ } }) ⟨s.dev.svcNext, (mbOf s.dev mb).reqHdr, (mbOf s.dev mb).reqData, Option.none, false, false, false, Option.none, Option.none, false⟩ = false) := by
  decide +kernel

theorem witness_MailboxService_2 :
    let mb : Nat := 11
    let s : State := stWith (fun d => { d with svcNext := 4, takeable := [11], mbx := [(0, { Mailbox.reset with svc := some { svOf 0x13 [2] with busy := true } }), (11, { Mailbox.reset with reqFull := true, reqData := reqOf 0x13 [2] })] })
    ((.requestTake mb : Instr).wellFormed = true) ∧ (Serving s) ∧ (mayTake s.dev mb = true) ∧ (mb < 12) ∧ (headerFault s.dev mb (mbOf s.dev mb).reqData = none) ∧ (paramBlock (mbOf s.dev mb).reqData = none) ∧ (mustWait ({ latch s with svcNext := s.dev.svcNext + 1, takeable := s.dev.takeable.erase mb, mbx := tput s.dev.mbx mb { mbOf s.dev mb with reqFull := false, svc := some ⟨s.dev.svcNext, (mbOf s.dev mb).reqHdr, (mbOf s.dev mb).reqData, Option.none, false, false, false, Option.none, Option.none, false⟩ } }) ⟨s.dev.svcNext, (mbOf s.dev mb).reqHdr, (mbOf s.dev mb).reqData, Option.none, false, false, false, Option.none, Option.none, false⟩ = true) := by
  decide +kernel

theorem witness_MailboxService_3 :
    let mb : Nat := 15
    let det : Nat := 5
    let s : State := stWith (fun d => { d with mbx := [(15, { Mailbox.reset with reqFull := true, reqData := reqOf 0x10 [] })] })
    ((.requestTake mb : Instr).wellFormed = true) ∧ (Serving s) ∧ (mayTake s.dev mb = true) ∧ (agentOff s.dev mb = false) ∧ (headerFault s.dev mb (mbOf s.dev mb).reqData = some det) := by
  decide +kernel

theorem witness_MailboxService_4 :
    let mb : Nat := 12
    let s : State := stWith (fun d => { d with boot := { d.boot with floes := [(0, 3)] }, mbx := [(12, { Mailbox.reset with reqFull := true, reqData := reqOf 1 [] })] })
    ((.requestTake mb : Instr).wellFormed = true) ∧ (Serving s) ∧ (mayTake s.dev mb = true) ∧ (agentOff s.dev mb = true) := by
  decide +kernel

theorem witness_MailboxService_5 :
    let mb : Nat := 0
    let sv : Service := { svOf 0x0013 [] with aside := true }
    let s : State := stWith (fun d => { d with mbx := [(0, { Mailbox.reset with svc := some { svOf 0x0013 [] with aside := true } })] })
    ((.setAsideServe mb : Instr).wellFormed = true) ∧ (Serving s) ∧ ((mbOf s.dev mb).svc = some sv) ∧ (sv.aside = true) ∧ (asideNext s.dev = some sv.id) ∧ ((mbOf s.dev mb).late = []) ∧ (foreground s.dev = false) := by
  decide +kernel

theorem witness_MailboxService_6 :
    let mb : Nat := 15
    let sv : Service := svOf 1 []
    let s : State := stSvc 15 (svOf 1 [])
    ((.serviceTimeout mb : Instr).wellFormed = true) ∧ (Serving s) ∧ ((mbOf s.dev mb).svc = some sv) ∧ (sv.reply = none) ∧ (NoRecordNow s) := by
  decide +kernel

theorem witness_MailboxService_7 :
    let mb : Nat := 0
    let sv : Service := { svOf 1 [] with reply := some [] }
    let b : Bytes := ([] : Bytes)
    let s : State := stSvc 0 { svOf 1 [] with reply := some [] }
    ((.replyWrite mb : Instr).wellFormed = true) ∧ (Serving s) ∧ ((mbOf s.dev mb).svc = some sv) ∧ (sv.reply = some b) ∧ ((mbOf s.dev mb).rspFull = false) ∧ (s.dev.withdrawing = []) := by
  decide +kernel

theorem witness_InformationMessages_1 :
    let mb : Nat := 15
    let sv : Service := svOf 1 []
    let s : State := stSvc 15 (svOf 1 [])
    ((.identify mb : Instr).wellFormed = true) ∧ (Serving s) ∧ ((mbOf s.dev mb).svc = some sv) ∧ (msgOf sv.req = 0x0001) ∧ (sv.busy = false) ∧ (sv.aside = false) ∧ (sv.reply = none) ∧ (agentOff s.dev mb = false) ∧ (sv.zeroFrom 8 = true) := by
  decide +kernel

theorem witness_InformationMessages_2 :
    let mb : Nat := 0
    let sv : Service := svOf 2 []
    let s : State := stSvc 0 (svOf 2 [])
    ((.status mb : Instr).wellFormed = true) ∧ (Serving s) ∧ ((mbOf s.dev mb).svc = some sv) ∧ (msgOf sv.req = 0x0002) ∧ (sv.busy = false) ∧ (sv.aside = false) ∧ (sv.reply = none) ∧ (agentOff s.dev mb = false) ∧ (sv.zeroFrom 8 = true) := by
  decide +kernel

theorem witness_InformationMessages_3 :
    let mb : Nat := 0
    let sv : Service := svOf 3 []
    let s : State := stWith (fun d => { d with mbx := [(0, { Mailbox.reset with svc := some (svOf 3 []), lost := 7, events := List.replicate 4 ⟨1, 2, 3, 4⟩ })] })
    ((.eventRead mb : Instr).wellFormed = true) ∧ (Serving s) ∧ ((mbOf s.dev mb).svc = some sv) ∧ (msgOf sv.req = 0x0003) ∧ (sv.busy = false) ∧ (sv.aside = false) ∧ (sv.reply = none) ∧ (agentOff s.dev mb = false) ∧ (sv.zeroFrom 8 = true) := by
  decide +kernel

theorem witness_InformationMessages_4 :
    let mb : Nat := 0
    let sv : Service := { svOf 4 (zeros 4 ++ [1] ++ zeros 15 ++ leBytes 4 2) with hdr := 3 * 2 ^ 13 }
    let s : State := stWith (fun d => { d with mbx := [(0, { Mailbox.reset with svc := some { svOf 4 (zeros 4 ++ [1] ++ zeros 15 ++ leBytes 4 2) with hdr := 3 * 2 ^ 13 } })], errq := { ErrQ.reset with next := 3, slots := [(0, ⟨0, 0, 11, 1, false, false, 13, 0, 0, 0xFFFFFFFF, zeros 32⟩), (1, ⟨0, 2, 11, 1, false, false, 13, 0, 0, 0xFFFFFFFF, zeros 32⟩)] } })
    ((.errorRead mb : Instr).wellFormed = true) ∧ (Serving s) ∧ ((mbOf s.dev mb).svc = some sv) ∧ (msgOf sv.req = 0x0004) ∧ (sv.busy = false) ∧ (sv.aside = false) ∧ (sv.reply = none) ∧ (agentOff s.dev mb = false) ∧ (sv.f 12 1 = 1) ∧ (sv.f 13 3 = 0) ∧ (sv.zeroFrom 32 = true) ∧ (sv.f 24 4 % 64 = 0) ∧ (hPriv sv.hdr = 3) := by
  decide +kernel

theorem witness_MailboxBinding_1 :
    let mb : Nat := 0
    let m : Nat := 15
    let port : Nat := 11
    let ctx : Nat := 0
    let priv : Nat := 2
    let sv : Service := { svOf 0x10 [15, 11, 0, 0, 2] with hdr := 3 * 2 ^ 13 }
    let s : State := stWith (fun d => { d with mbx := [(0, { Mailbox.reset with bound := true, priv := 3, svc := some { svOf 0x10 [15, 11, 0, 0, 2] with hdr := 3 * 2 ^ 13 } })] })
    ((.mailboxBind mb : Instr).wellFormed = true) ∧ (Serving s) ∧ ((mbOf s.dev mb).svc = some sv) ∧ (msgOf sv.req = 0x0010) ∧ (sv.busy = false) ∧ (sv.aside = false) ∧ (sv.reply = none) ∧ (agentOff s.dev mb = false) ∧ (sv.zeroFrom 13 = true) ∧ (sv.f 8 1 = m) ∧ (sv.f 9 1 = port) ∧ (sv.f 10 2 = ctx) ∧ (sv.f 12 1 = priv) ∧ (m ≠ mb) ∧ (m < 16) ∧ (port < 12) ∧ (ctx < 512) ∧ (priv < 4) ∧ (hPriv sv.hdr = 3) ∧ (ctxExists s.dev ctx = true) ∧ ((mbOf s.dev m).reqFull = false) ∧ ((mbOf s.dev m).rspFull = false) ∧ ((mbOf s.dev m).svc = none) ∧ (otherOwner s.dev m = true) := by
  decide +kernel

theorem witness_FloePower_1 :
    let mb : Nat := 0
    let f : Nat := 3
    let sv : Service := { svOf 0x13 [3, 0] with hdr := 3 * 2 ^ 13 }
    let s : State := stSvc 0 ({ svOf 0x13 [3, 0] with hdr := 3 * 2 ^ 13 })
    ((.floePowerOff mb : Instr).wellFormed = true) ∧ (Serving s) ∧ ((mbOf s.dev mb).svc = some sv) ∧ (msgOf sv.req = 0x0013) ∧ (sv.f 9 1 = 0) ∧ (sv.f 8 1 = f) ∧ (f < 4) ∧ (sv.zeroFrom 10 = true) ∧ (hPriv sv.hdr = 3) ∧ (sv.busy = false) ∧ (sv.aside = false) ∧ (mb < 12) ∧ (floeState s.dev f = 0) ∧ (mayPowerOff s.dev f = true) := by
  decide +kernel

theorem witness_FloePower_2 :
    let mb : Nat := 0
    let f : Nat := 0
    let sv : Service := { svOf 0x13 [0, 1] with hdr := 3 * 2 ^ 13 }
    let s : State := stWith (fun d => { d with boot := { d.boot with floes := [(0, 2)] }, mbx := [(0, { Mailbox.reset with svc := some ({ svOf 0x13 [0, 1] with hdr := 3 * 2 ^ 13 }) })] })
    ((.floePowerOn mb : Instr).wellFormed = true) ∧ (Serving s) ∧ ((mbOf s.dev mb).svc = some sv) ∧ (msgOf sv.req = 0x0013) ∧ (sv.f 9 1 = 1) ∧ (sv.f 8 1 = f) ∧ (f < 4) ∧ (sv.zeroFrom 10 = true) ∧ (hPriv sv.hdr = 3) ∧ (sv.busy = false) ∧ (sv.aside = false) ∧ (mb < 12) ∧ (floeState s.dev f = 2) ∧ (s.dev.boot.contained.contains f = false) := by
  decide +kernel

theorem witness_FloePower_3 :
    let f : Nat := 0
    let s : State := stWith (fun d => { d with boot := { d.boot with floes := [(0, 1)], floeJobs := [(0, 0, 1)] }, cache := [(3, ⟨zeros 64, false⟩), (1025, ⟨zeros 64, true⟩)] })
    ((.floeDrainDone f : Instr).wellFormed = true) ∧ (Serving s) ∧ (floeState s.dev f = 1) ∧ (floeIdle s.dev f = true) ∧ (s.dev.runq = []) ∧ (s.dev.cache.all (fun c => homeFloe (pageOfLine c.1) != f || !c.2.dirty) = true) ∧ (s.dev.dir.all (fun e => !(e.2.state == 2 && decide (e.2.owner < 64) && e.2.owner / 16 == f)) = true) := by
  decide +kernel

theorem witness_FloePower_4 :
    let mb : Nat := 0
    let f : Nat := 0
    let sv : Service := { svOf 0x13 [0, 0] with hdr := 3 * 2 ^ 13 }
    let s : State := stWith (fun d => { d with boot := { d.boot with floes := [(0, 1)], floeJobs := [(0, 0, 1)] }, mbx := [(0, { Mailbox.reset with svc := some ({ svOf 0x13 [0, 0] with hdr := 3 * 2 ^ 13 }) })] })
    ((.floeDrainTimeout f : Instr).wellFormed = true) ∧ (Serving s) ∧ (floeState s.dev f = 1) ∧ (tget? s.dev.boot.floeJobs f = some (mb, sv.id)) ∧ ((mbOf s.dev mb).svc = some sv) ∧ (sv.reply = none) := by
  decide +kernel

theorem witness_FloePower_5 :
    let mb : Nat := 0
    let f : Nat := 0
    let sv : Service := { svOf 0x13 [0, 1] with hdr := 3 * 2 ^ 13 }
    let s : State := stWith (fun d => { d with boot := { d.boot with floes := [(0, 3)], floeJobs := [(0, 0, 1)] }, mbx := [(0, { Mailbox.reset with svc := some ({ svOf 0x13 [0, 1] with hdr := 3 * 2 ^ 13 }) })] })
    ((.floeWakeDone f : Instr).wellFormed = true) ∧ (Serving s) ∧ (floeState s.dev f = 3) ∧ (s.dev.boot.contained.contains f = false) ∧ (tget? s.dev.boot.floeJobs f = some (mb, sv.id)) ∧ ((mbOf s.dev mb).svc = some sv) ∧ (sv.reply = none) := by
  decide +kernel

theorem witness_FloePower_6 :
    let f : Nat := 3
    let s : State := stWith (fun d => { d with boot := { d.boot with floes := [(3, 3)], contained := [3] } })
    ((.floeRecoveryTimeout f : Instr).wellFormed = true) ∧ (Serving s) ∧ (floeState s.dev f = 3) ∧ (s.dev.boot.contained.contains f = true) ∧ (s.dev.runq = []) := by
  decide +kernel

theorem witness_DeviceReset_1 :
    let s : State := stWith (fun d => { d with pages := [(1, { Page.unplaced with tier := 2, durable := true }), (2, { Page.unplaced with tier := 1 })], mem := [(65536, 1), (131072, 2)] })
    ((.resetNFall : Instr).wellFormed = true) ∧ (s.dev.boot.held = false) ∧ (s.dev.errq.due = []) := by
  decide +kernel

theorem witness_DeviceReset_2 :
    let straps : Straps := (⟨63, 3⟩ : Straps)
    let s : State := State.reset
    ((.resetNRise straps : Instr).wellFormed = true) ∧ (s.dev.boot.held = true) ∧ (s.dev.errq.due = []) := by
  decide +kernel

theorem witness_DeviceReset_3 :
    let s : State := stWith (fun d => { d with pages := [(1, { Page.unplaced with tier := 2, durable := true }), (2, { Page.unplaced with tier := 1 })], mem := [(65536, 1), (131072, 2)] })
    ((.deviceReset : Instr).wellFormed = true) ∧ (Serving s) := by
  decide +kernel

theorem witness_DeviceReset_4 :
    let s : State := stWith (fun d => { d with boot := { d.boot with flushing := true, flushDone := true, pwrLow := true } })
    ((.pwrFailNHigh : Instr).wellFormed = true) ∧ (Serving s) ∧ (s.dev.boot.flushing = true) ∧ (s.dev.boot.flushDone = true) := by
  decide +kernel

theorem witness_BootImage_1 :
    let s : State := stWith (fun d => { d with boot := { d.boot with phase := 1 } })
    ((.imageVerifyDone : Instr).wellFormed = true) ∧ (Serving s) ∧ (s.dev.boot.phase = 1) ∧ (s.dev.boot.running = false) ∧ (s.dev.boot.flushing = false) ∧ (s.dev.boot.torn = false) ∧ (s.dev.boot.pwrLow = false) ∧ (s.dev.boot.bootMode ≠ 1) ∧ (s.dev.boot.bootMode ≠ 3) := by
  decide +kernel

theorem witness_BootImage_2 :
    let s : State := stWith (fun d => { d with boot := { d.boot with phase := 1, bootMode := 3 } })
    ((.imageVerifyDone : Instr).wellFormed = true) ∧ (Serving s) ∧ (s.dev.boot.phase = 1) ∧ (s.dev.boot.running = false) ∧ (s.dev.boot.flushing = false) ∧ (s.dev.boot.bootMode = 1 ∨ s.dev.boot.bootMode = 3) := by
  decide +kernel

theorem witness_BootImage_3 :
    let tr : Training := (⟨[true, false, true, true], List.replicate 12 72, List.replicate 16 256, []⟩ : Training)
    let s : State := stWith (fun d => { d with boot := { d.boot with phase := 1, running := true } })
    ((.bootTrainingDone tr : Instr).wellFormed = true) ∧ (Serving s) ∧ (s.dev.boot.phase = 1) ∧ (s.dev.boot.running = true) := by
  decide +kernel

theorem witness_FlashMessages_1 :
    let mb : Nat := 0
    let p : Bytes := zeros 16
    let sv : Service := { svOf 0xF01 (zeros 16 ++ leBytes 4 16) with params := some (zeros 16) }
    let s : State := stWith (fun d => { d with boot := { d.boot with phase := 2 }, mbx := [(0, { Mailbox.reset with svc := some { svOf 0xF01 (zeros 16 ++ leBytes 4 16) with params := some (zeros 16) } })] })
    ((.imagePush mb : Instr).wellFormed = true) ∧ (Serving s) ∧ ((mbOf s.dev mb).svc = some sv) ∧ (msgOf sv.req = 0x0F01) ∧ (sv.busy = false) ∧ (sv.aside = false) ∧ (sv.reply = none) ∧ (sv.params = some p) ∧ (sv.paramErr = false) ∧ (sv.f 8 8 = 0) ∧ (sv.zeroFrom 28 = true) ∧ (sv.f 24 4 ≤ 2 ^ 24) ∧ (mb < 12) ∧ (s.dev.boot.phase = 2) ∧ (s.dev.boot.failed = false) ∧ (s.dev.boot.pwrLow = false) := by
  decide +kernel

theorem witness_FlashMessages_2 :
    let mb : Nat := 0
    let p : Bytes := leBytes 4 0x46434B50 ++ zeros 50 ++ [1] ++ zeros 457
    let sv : Service := { svOf 0xF02 (zeros 16 ++ leBytes 4 512) with params := some (leBytes 4 0x46434B50 ++ zeros 50 ++ [1] ++ zeros 457) }
    let s : State := stSvc 0 { svOf 0xF02 (zeros 16 ++ leBytes 4 512) with params := some (leBytes 4 0x46434B50 ++ zeros 50 ++ [1] ++ zeros 457) }
    ((.configPush mb : Instr).wellFormed = true) ∧ (Serving s) ∧ ((mbOf s.dev mb).svc = some sv) ∧ (msgOf sv.req = 0x0F02) ∧ (sv.busy = false) ∧ (sv.aside = false) ∧ (sv.params = some p) ∧ (sv.paramErr = false) ∧ (sv.f 8 8 = 0) ∧ (sv.zeroFrom 28 = true) ∧ (sv.f 24 4 = 512) ∧ (mb < 12) ∧ (s.dev.boot.record = none) ∧ (s.dev.boot.flushing = false) ∧ (recordForm (slice p 0 512) = true) := by
  decide +kernel

theorem witness_FlashMessages_3 :
    let mb : Nat := 0
    let b : Bytes := zeros 512
    let sv : Service := svOf 0xF02 []
    let s : State := stWith (fun d => { d with boot := { d.boot with flashJob := some (0, 1, 0, zeros 512) }, mbx := [(0, { Mailbox.reset with svc := some (svOf 0xF02 []) })] })
    ((.flashWriteDone : Instr).wellFormed = true) ∧ (Serving s) ∧ (s.dev.boot.flashJob = some (mb, sv.id, 0, b)) ∧ ((mbOf s.dev mb).svc = some sv) ∧ (sv.reply = none) := by
  decide +kernel

theorem witness_PowerAndThermal_1 :
    let s : State := stWith (fun d => { d with galleys := [(0, { galUp with state := 1, cmdTail := 3 })] })
    ((.pwrFailNFall : Instr).wellFormed = true) ∧ (Serving s) ∧ (flushCovers s.dev.boot = true) ∧ (s.dev.boot.flushing = false) := by
  decide +kernel

theorem witness_PowerAndThermal_2 :
    let s : State := stWith (fun d => { d with boot := { d.boot with flushing := true, pwrLow := true } })
    ((.flushEnd : Instr).wellFormed = true) ∧ (Serving s) ∧ (s.dev.boot.flushing = true) ∧ (s.dev.boot.flushDone = false) ∧ (s.dev.boot.pwrLow = true) ∧ (durableWaits s.dev = false) := by
  decide +kernel

theorem witness_PowerAndThermal_3 :
    let mv : Nat := 0
    let s : State := stWith (fun d => { d with boot := { d.boot with holdupOk := true } })
    ((.holdupSample mv : Instr).wellFormed = true) ∧ (Serving s) ∧ (s.dev.boot.holdupOk = true) ∧ (holdupEnergy s.dev mv < rf s.dev 0x04B00010 0 16) := by
  decide +kernel

theorem witness_PowerAndThermal_4 :
    let s : State := stUp
    ((.avsAckTimeout : Instr).wellFormed = true) ∧ (Serving s) ∧ (flushCovers s.dev.boot = true) := by
  decide +kernel

theorem witness_PowerAndThermal_5 :
    let tj : Nat := 109
    let pw : Nat := 0
    let s : State := stUp
    ((.thermalSample tj pw : Instr).wellFormed = true) ∧ (Serving s) ∧ (tj < 110) := by
  decide +kernel

theorem witness_PowerAndThermal_6 :
    let tj : Nat := 110
    let pw : Nat := 0
    let s : State := stUp
    ((.thermalSample tj pw : Instr).wellFormed = true) ∧ (Serving s) ∧ (110 ≤ tj) ∧ (s.dev.boot.tripped = false) := by
  decide +kernel

theorem witness_RegisterMessages_1 :
    let mb : Nat := 0
    let off : Nat := 0x04B00010
    let size : Nat := 4
    let opt : Nat := 1
    let sv : Service := { svOf 0x11 (leBytes 4 0x04B00010 ++ [4, 1]) with hdr := 3 * 2 ^ 13 }
    let s : State := stWith (fun d => { d with mbx := [(0, { Mailbox.reset with svc := some ({ svOf 0x11 (leBytes 4 0x04B00010 ++ [4, 1]) with hdr := 3 * 2 ^ 13 }) })] })
    ((.fieldRead mb : Instr).wellFormed = true) ∧ (Serving s) ∧ ((mbOf s.dev mb).svc = some sv) ∧ (msgOf sv.req = 0x0011) ∧ (sv.busy = false) ∧ (sv.aside = false) ∧ (sv.reply = none) ∧ (agentOff s.dev mb = false) ∧ (mb < 12) ∧ (hPriv sv.hdr = 3) ∧ (sv.f 8 4 = off) ∧ (sv.f 12 1 = size) ∧ (sv.f 13 1 = opt) ∧ (opt < 2) ∧ (sv.f 14 2 = 0) ∧ (sv.f 16 8 = 0) ∧ (sv.f 24 8 = 0) ∧ (sv.zeroFrom 32 = true) ∧ (badOffset off size = false) ∧ (offInFloe s.dev off = false) ∧ ((regsUnder off size).all (fun r => r.flds.all (fun f => f.acc != Acc.rc)) = true) := by
  decide +kernel

theorem witness_RegisterMessages_2 :
    let mb : Nat := 0
    let v : Nat := 0x12345
    let sv : Service := { svOf 0x12 (leBytes 4 0x04B00010 ++ [4, 0, 0, 0] ++ leBytes 8 0xFFFF ++ leBytes 8 0x12345) with hdr := 3 * 2 ^ 13 }
    let s : State := stWith (fun d => { d with mbx := [(0, { Mailbox.reset with svc := some ({ svOf 0x12 (leBytes 4 0x04B00010 ++ [4, 0, 0, 0] ++ leBytes 8 0xFFFF ++ leBytes 8 0x12345) with hdr := 3 * 2 ^ 13 }) })] })
    ((.fieldWrite mb : Instr).wellFormed = true) ∧ (Serving s) ∧ ((mbOf s.dev mb).svc = some sv) ∧ (msgOf sv.req = 0x0012) ∧ (sv.busy = false) ∧ (sv.aside = false) ∧ (sv.reply = none) ∧ (agentOff s.dev mb = false) ∧ (mb < 12) ∧ (hPriv sv.hdr = 3) ∧ (sv.f 8 4 = 0x04B00010) ∧ (sv.f 12 1 = 4) ∧ (sv.f 13 1 = 0) ∧ (sv.f 14 2 = 0) ∧ (sv.f 16 8 = 0xFFFF) ∧ (sv.f 24 8 = v) ∧ (sv.zeroFrom 32 = true) := by
  decide +kernel

theorem witness_RegisterMessages_3 :
    let mb : Nat := 0
    let p : Nat := 11
    let sv : Service := { svOf 0x12 (leBytes 4 0x042C0000 ++ [4, 0, 0, 0] ++ leBytes 8 2 ++ leBytes 8 2) with hdr := 3 * 2 ^ 13 }
    let s : State := stWith (fun d => { d with mbx := [(0, { Mailbox.reset with svc := some ({ svOf 0x12 (leBytes 4 0x042C0000 ++ [4, 0, 0, 0] ++ leBytes 8 2 ++ leBytes 8 2) with hdr := 3 * 2 ^ 13 }) })], ports := [(11, { Port.reset with link := 2 })] })
    ((.fieldWrite mb : Instr).wellFormed = true) ∧ (Serving s) ∧ ((mbOf s.dev mb).svc = some sv) ∧ (msgOf sv.req = 0x0012) ∧ (sv.busy = false) ∧ (sv.aside = false) ∧ (sv.reply = none) ∧ (agentOff s.dev mb = false) ∧ (mb < 12) ∧ (hPriv sv.hdr = 3) ∧ (p < 12) ∧ (sv.f 8 4 = portBase p) ∧ (sv.f 12 1 = 4) ∧ (sv.f 13 1 = 0) ∧ (sv.f 14 2 = 0) ∧ (sv.f 16 8 = 2) ∧ (sv.f 24 8 = 2) ∧ (sv.zeroFrom 32 = true) ∧ (portRunning (portOf s.dev p) = true) ∧ (rf s.dev (portBase p) 1 1 = 0) := by
  decide +kernel

theorem witness_RegisterMessages_4 :
    let mb : Nat := 0
    let off : Nat := 0x04B00004
    let sv : Service := { svOf 0x12 (leBytes 4 0x04B00004 ++ [4]) with hdr := 3 * 2 ^ 13 }
    let s : State := stWith (fun d => { d with mbx := [(0, { Mailbox.reset with svc := some ({ svOf 0x12 (leBytes 4 0x04B00004 ++ [4]) with hdr := 3 * 2 ^ 13 }) })] })
    ((.fieldWrite mb : Instr).wellFormed = true) ∧ (Serving s) ∧ (NoRecordNow s) ∧ ((mbOf s.dev mb).svc = some sv) ∧ (msgOf sv.req = 0x0012) ∧ (sv.busy = false) ∧ (sv.aside = false) ∧ (sv.reply = none) ∧ (agentOff s.dev mb = false) ∧ (mb < 12) ∧ (hPriv sv.hdr = 3) ∧ (sv.f 8 4 = off) ∧ (sv.f 12 1 = 4) ∧ (sv.f 13 1 = 0) ∧ (sv.f 14 2 = 0) ∧ (sv.zeroFrom 32 = true) ∧ (regAt off = none) := by
  decide +kernel

theorem witness_RegisterWrites_1 :
    let v : Nat := 0x190
    let s : State := stUp
    ((.registerWrite .compositor 0x04B00010 4 v : Instr).wellFormed = true) ∧ (Serving s) := by
  decide +kernel

theorem witness_RegisterWrites_2 :
    let port : Nat := 0
    let mb : Nat := 3
    let v : Nat := 7
    let s : State := stWith (fun d => { d with mbx := [(3, { Mailbox.reset with doorbell := 1, bound := true })] })
    ((.registerWrite (.host port) (0x10054 + 0x100 * mb) 4 v : Instr).wellFormed = true) ∧ (Serving s) ∧ (mb < 16) ∧ (devState s.dev ≠ 0) := by
  decide +kernel

theorem witness_RegisterWrites_3 :
    let port : Nat := 0
    let mb : Nat := 0
    let v : Nat := 2 ^ 32 + 1
    let s : State := stWith (fun d => { d with mbx := [(0, { Mailbox.reset with doorbell := 3 })] })
    ((.registerWrite (.host port) (0x10050 + 0x100 * mb) 4 v : Instr).wellFormed = true) ∧ (Serving s) ∧ (mb < 16) ∧ (devState s.dev ≠ 0) := by
  decide +kernel

theorem witness_RegisterWrites_4 :
    let port : Nat := 0
    let mb : Nat := 0
    let v : Nat := 1
    let s : State := stUp
    ((.registerWrite (.host port) (0x10048 + 0x100 * mb) 4 v : Instr).wellFormed = true) ∧ (Serving s) ∧ (mb < 16) ∧ (devState s.dev ≠ 0) ∧ (bitOf v 0 = true) ∧ (v < 2 ^ 32) := by
  decide +kernel

theorem witness_RegisterWrites_5 :
    let port : Nat := 0
    let ctx : Nat := 511
    let g : Nat := 7
    let v : Nat := 1
    let s : State := stUp
    ((.registerWrite (.host port) (0x100000 + 0x1000 * ctx + 0x40 * g) 4 v : Instr).wellFormed = true) ∧ (Serving s) ∧ (ctx < 512) ∧ (g < 8) ∧ (devState s.dev ≠ 0) ∧ (v < 2 ^ 32) := by
  decide +kernel

theorem witness_RegisterWrites_6 :
    let port : Nat := 0
    let ctx : Nat := 511
    let g : Nat := 7
    let v : Nat := 1
    let s : State := stUp
    ((.registerWrite (.host port) (0x100004 + 0x1000 * ctx + 0x40 * g) 4 v : Instr).wellFormed = true) ∧ (Serving s) ∧ (ctx < 512) ∧ (g < 8) ∧ (devState s.dev ≠ 0) ∧ (v < 2 ^ 32) := by
  decide +kernel

theorem witness_RegisterWrites_7 :
    let port : Nat := 0
    let ctx : Nat := 0
    let g : Nat := 0
    let s : State := stUp
    ((.registerWrite (.host port) (0x100010 + 0x1000 * ctx + 0x40 * g) 4 1 : Instr).wellFormed = true) ∧ (Serving s) ∧ (ctx < 512) ∧ (g < 8) ∧ (devState s.dev ≠ 0) := by
  decide +kernel

theorem witness_RegisterWrites_8 :
    let v : Nat := 3
    let s : State := stUp
    ((.registerWrite .compositor 0x04C00010 4 v : Instr).wellFormed = true) ∧ (Serving s) ∧ (v < 2 ^ 32) := by
  decide +kernel

theorem witness_CountersAndAcknowledgement_1 :
    let v : Nat := 1
    let s : State := stWith (fun d => { d with errq := { ErrQ.reset with next := 3, lost := 1, slots := [(0, ⟨0, 0, 11, 1, false, false, 13, 0, 0, 0xFFFFFFFF, zeros 32⟩), (1, ⟨0, 2, 11, 1, false, false, 13, 0, 0, 0xFFFFFFFF, zeros 32⟩)] } })
    ((.errqAck v : Instr).wellFormed = true) ∧ (Serving s) := by
  decide +kernel

theorem witness_CountersAndAcknowledgement_2 :
    let s : State := stWith (fun d => { d with errq := { ErrQ.reset with lost := 1, lostReg := 5 } })
    ((.errqStatusRead : Instr).wellFormed = true) ∧ (Serving s) := by
  decide +kernel

theorem witness_CountersAndAcknowledgement_3 :
    let f : Nat := 3
    let u : Nat := 6
    let s : State := stWith (fun d => { d with ecc := [(27, { Ecc.reset with line := 4, corrected := 9 })] })
    ((.eccCountsRead f u : Instr).wellFormed = true) ∧ (Serving s) ∧ (floeOn s.dev f = true) := by
  decide +kernel

theorem witness_CountersAndAcknowledgement_4 :
    let f : Nat := 0
    let a : Nat := 29
    let s : State := stWith (fun d => { d with arbs := [(29, { Arb.reset with fenced := 1, bites := 9 })] })
    ((.arbCountsRead f a : Instr).wellFormed = true) ∧ (Serving s) ∧ (floeOn s.dev f = true) := by
  decide +kernel

theorem witness_ObjectCreate_1 :
    let mb : Nat := 0
    let n : Nat := 1
    let sv : Service := { svOf 0x100 ([1, 0] ++ leBytes 2 0 ++ zeros 12 ++ leBytes 4 0 ++ zeros 12 ++ ([7, 1, 0, 0, 11, 0, 16, 0, 64, 0])) with hdr := 3 * 2 ^ 13 }
    let s : State := stWith (fun d => { d with mbx := [(0, { Mailbox.reset with svc := some ({ svOf 0x100 ([1, 0] ++ leBytes 2 0 ++ zeros 12 ++ leBytes 4 0 ++ zeros 12 ++ ([7, 1, 0, 0, 11, 0, 16, 0, 64, 0])) with hdr := 3 * 2 ^ 13 }) })] })
    ((.objCreate mb : Instr).wellFormed = true) ∧ (Serving s) ∧ ((mbOf s.dev mb).svc = some sv) ∧ (msgOf sv.req = 0x0100) ∧ (sv.busy = false) ∧ (sv.aside = false) ∧ (sv.reply = none) ∧ (agentOff s.dev mb = false) ∧ (sv.f 9 1 = 0) ∧ (sv.f 14 2 = 0) ∧ (sv.f 12 2 = 0) ∧ (sv.paramErr = false) ∧ (ctxExists s.dev (hCtx sv.hdr) = true) ∧ (sv.f 8 1 = 1) ∧ (sv.f 10 2 = 0) ∧ (sv.f 24 4 = 0) ∧ (mb < 12) ∧ (hPriv sv.hdr = 3) ∧ (ctxParamsOk (slice sv.req 40 24) = true) ∧ (lowestFree (tkeys s.dev.ctxs) 0 512 = some n) ∧ (vecOverlap s.dev n (Ctx.fresh.with (slice sv.req 40 24)) = false) := by
  decide +kernel

theorem witness_ObjectCreate_2 :
    let mb : Nat := 0
    let sv : Service := { svOf 0x100 ([1, 0] ++ leBytes 2 0 ++ zeros 12 ++ leBytes 4 0 ++ zeros 12 ++ ([7, 1, 0, 0, 11, 0, 16, 0, 64, 0])) with hdr := 3 * 2 ^ 13 }
    let s : State := stWith (fun d => { d with mbx := [(0, { Mailbox.reset with svc := some ({ svOf 0x100 ([1, 0] ++ leBytes 2 0 ++ zeros 12 ++ leBytes 4 0 ++ zeros 12 ++ ([7, 1, 0, 0, 11, 0, 16, 0, 64, 0])) with hdr := 3 * 2 ^ 13 }) })], ctxs := (List.range 512).map (fun i => (i, Ctx.fresh)) })
    ((.objCreate mb : Instr).wellFormed = true) ∧ (Serving s) ∧ ((mbOf s.dev mb).svc = some sv) ∧ (msgOf sv.req = 0x0100) ∧ (sv.busy = false) ∧ (sv.aside = false) ∧ (sv.reply = none) ∧ (agentOff s.dev mb = false) ∧ (sv.f 9 1 = 0) ∧ (sv.f 14 2 = 0) ∧ (sv.f 12 2 = 0) ∧ (sv.paramErr = false) ∧ (ctxExists s.dev (hCtx sv.hdr) = true) ∧ (sv.f 8 1 = 1) ∧ (sv.f 10 2 = 0) ∧ (sv.f 24 4 = 0) ∧ (mb < 12) ∧ (hPriv sv.hdr = 3) ∧ (ctxParamsOk (slice sv.req 40 24) = true) ∧ (lowestFree (tkeys s.dev.ctxs) 0 512 = none) := by
  refine ⟨?_, ?_, ?_, ?_, ?_, ?_, ?_, ?_, ?_, ?_, ?_, ?_, ?_, ?_, ?_, ?_, ?_, ?_, ?_, fullSlots⟩ <;> decide +kernel

theorem witness_ObjectCreate_3 :
    let mb : Nat := 0
    let i : Nat := 0
    let a : Nat := 4096
    let n : Nat := 65536
    let u : Nat := 0
    let sv : Service := { svOf 0x100 ([2, 0] ++ leBytes 2 0 ++ zeros 12 ++ leBytes 4 0 ++ zeros 12 ++ (leBytes 8 4099 ++ leBytes 8 65536 ++ leBytes 8 0)) with hdr := 3 * 2 ^ 13 }
    let s : State := stWith (fun d => { d with mbx := [(0, { Mailbox.reset with svc := some ({ svOf 0x100 ([2, 0] ++ leBytes 2 0 ++ zeros 12 ++ leBytes 4 0 ++ zeros 12 ++ (leBytes 8 4099 ++ leBytes 8 65536 ++ leBytes 8 0)) with hdr := 3 * 2 ^ 13 }) })] })
    ((.objCreate mb : Instr).wellFormed = true) ∧ (Serving s) ∧ ((mbOf s.dev mb).svc = some sv) ∧ (msgOf sv.req = 0x0100) ∧ (sv.busy = false) ∧ (sv.aside = false) ∧ (sv.reply = none) ∧ (agentOff s.dev mb = false) ∧ (sv.f 9 1 = 0) ∧ (sv.f 14 2 = 0) ∧ (sv.f 12 2 = 0) ∧ (sv.paramErr = false) ∧ (ctxExists s.dev (hCtx sv.hdr) = true) ∧ (sv.f 8 1 = 2) ∧ (sv.f 10 2 = 0) ∧ (sv.f 24 4 = 0) ∧ (mb < 12) ∧ (1 ≤ hPriv sv.hdr) ∧ (rangeParamsOk (slice sv.req 40 24) = true) ∧ (rangeParams (slice sv.req 40 24) = (a, 3, n, u)) ∧ (hPriv sv.hdr = 3 ∨ (pagesIn s.dev u n).all (fun p => !p.2.region && p.2.owner == hCtx sv.hdr) = true) ∧ (lowestFree (tkeys (ctxOf s.dev (hCtx sv.hdr)).ranges) 0 4096 = some i) ∧ (ctxOverlap s.dev (hCtx sv.hdr) a n = false) ∧ (cohRefused s.dev none u n false = false) := by
  decide +kernel

theorem witness_ObjectCreate_4 :
    let mb : Nat := 0
    let i : Nat := 0
    let sv : Service := { svOf 0x100 ([9, 0] ++ leBytes 2 0 ++ zeros 12 ++ leBytes 4 0 ++ zeros 12 ++ ([1, 0])) with hdr := 3 * 2 ^ 13 }
    let s : State := stWith (fun d => { d with mbx := [(0, { Mailbox.reset with svc := some ({ svOf 0x100 ([9, 0] ++ leBytes 2 0 ++ zeros 12 ++ leBytes 4 0 ++ zeros 12 ++ ([1, 0])) with hdr := 3 * 2 ^ 13 }) })] })
    ((.objCreate mb : Instr).wellFormed = true) ∧ (Serving s) ∧ ((mbOf s.dev mb).svc = some sv) ∧ (msgOf sv.req = 0x0100) ∧ (sv.busy = false) ∧ (sv.aside = false) ∧ (sv.reply = none) ∧ (agentOff s.dev mb = false) ∧ (sv.f 9 1 = 0) ∧ (sv.f 14 2 = 0) ∧ (sv.f 12 2 = 0) ∧ (sv.paramErr = false) ∧ (ctxExists s.dev (hCtx sv.hdr) = true) ∧ (sv.f 8 1 = 9) ∧ (sv.f 10 2 = 0) ∧ (sv.f 24 4 = 0) ∧ (mb < 12) ∧ (1 ≤ hPriv sv.hdr) ∧ (regionParamsOk (slice sv.req 40 24) = true) ∧ (lowestFree (tkeys s.dev.regions) 0 4096 = some i) := by
  decide +kernel

theorem witness_ObjectCreate_5 :
    let mb : Nat := 0
    let i : Nat := 0
    let p : Bytes := zeros 24 ++ leBytes 4 4096 ++ leBytes 4 0x3F800000 ++ leBytes 2 16 ++ [8, 8] ++ leBytes 2 64 ++ [6, 0, 0, 7, 0, 3, 1] ++ zeros 19
    let sv : Service := { svOf 0x100 ([5, 0] ++ leBytes 2 0 ++ zeros 12 ++ leBytes 4 64 ++ zeros 12 ++ ([])) with hdr := 3 * 2 ^ 13, params := some (zeros 24 ++ leBytes 4 4096 ++ leBytes 4 0x3F800000 ++ leBytes 2 16 ++ [8, 8] ++ leBytes 2 64 ++ [6, 0, 0, 7, 0, 3, 1] ++ zeros 19) }
    let s : State := stWith (fun d => { d with mbx := [(0, { Mailbox.reset with svc := some ({ svOf 0x100 ([5, 0] ++ leBytes 2 0 ++ zeros 12 ++ leBytes 4 64 ++ zeros 12 ++ ([])) with hdr := 3 * 2 ^ 13, params := some (zeros 24 ++ leBytes 4 4096 ++ leBytes 4 0x3F800000 ++ leBytes 2 16 ++ [8, 8] ++ leBytes 2 64 ++ [6, 0, 0, 7, 0, 3, 1] ++ zeros 19) }) })] })
    ((.objCreate mb : Instr).wellFormed = true) ∧ (Serving s) ∧ ((mbOf s.dev mb).svc = some sv) ∧ (msgOf sv.req = 0x0100) ∧ (sv.busy = false) ∧ (sv.aside = false) ∧ (sv.reply = none) ∧ (agentOff s.dev mb = false) ∧ (sv.f 9 1 = 0) ∧ (sv.f 14 2 = 0) ∧ (sv.f 12 2 = 0) ∧ (sv.paramErr = false) ∧ (ctxExists s.dev (hCtx sv.hdr) = true) ∧ (sv.f 8 1 = 5) ∧ (sv.f 10 2 = 0) ∧ (sv.f 24 4 = 64) ∧ (mb < 12) ∧ (1 ≤ hPriv sv.hdr) ∧ (sv.params = some p) ∧ (slotParamsOk (slice p 0 64) 64 = true) ∧ (fieldAt (slice p 0 64) 43 1 < 4) ∧ (sv.homeKey = [] ∨ mustWait (latch s) sv = false) ∧ (floeOn s.dev (fieldAt (slice p 0 64) 43 1) = true) ∧ (lowestFree (tkeys s.dev.slots) 0 4096 = some i) := by
  decide +kernel

theorem witness_ObjectCreate_6 :
    let mb : Nat := 0
    let i : Nat := 0
    let n : Nat := 1
    let p : Bytes := leBytes 2 1 ++ zeros 30
    let sv : Service := { svOf 0x100 ([8, 0] ++ leBytes 2 0 ++ zeros 12 ++ leBytes 4 32 ++ zeros 12 ++ ([])) with hdr := 3 * 2 ^ 13, params := some (leBytes 2 1 ++ zeros 30) }
    let s : State := stWith (fun d => { d with mbx := [(0, { Mailbox.reset with svc := some ({ svOf 0x100 ([8, 0] ++ leBytes 2 0 ++ zeros 12 ++ leBytes 4 32 ++ zeros 12 ++ ([])) with hdr := 3 * 2 ^ 13, params := some (leBytes 2 1 ++ zeros 30) }) })] })
    ((.objCreate mb : Instr).wellFormed = true) ∧ (Serving s) ∧ ((mbOf s.dev mb).svc = some sv) ∧ (msgOf sv.req = 0x0100) ∧ (sv.busy = false) ∧ (sv.aside = false) ∧ (sv.reply = none) ∧ (agentOff s.dev mb = false) ∧ (sv.f 9 1 = 0) ∧ (sv.f 14 2 = 0) ∧ (sv.f 12 2 = 0) ∧ (sv.paramErr = false) ∧ (ctxExists s.dev (hCtx sv.hdr) = true) ∧ (sv.f 8 1 = 8) ∧ (sv.f 10 2 = 0) ∧ (sv.f 24 4 = 16 + 16 * n) ∧ (1 ≤ n) ∧ (n ≤ 4096) ∧ (mb < 12) ∧ (1 ≤ hPriv sv.hdr) ∧ (sv.params = some p) ∧ (p.length = 16 + 16 * n) ∧ (fieldAt p 0 2 = n) ∧ (allZero (slice p 2 14) = true) ∧ (freeScoped s.dev (hCtx sv.hdr) 8 256 = some i) := by
  decide +kernel

theorem witness_ObjectCreate_7 :
    let mb : Nat := 0
    let g : Nat := 0
    let p : Bytes := leBytes 8 0x1000 ++ leBytes 8 0x2000 ++ zeros 8 ++ [4, 4, 3, 0] ++ zeros 36
    let sv : Service := { svOf 0x100 ([3, 0] ++ leBytes 2 0 ++ zeros 12 ++ leBytes 4 64 ++ zeros 12 ++ ([])) with hdr := 3 * 2 ^ 13, params := some (leBytes 8 0x1000 ++ leBytes 8 0x2000 ++ zeros 8 ++ [4, 4, 3, 0] ++ zeros 36) }
    let s : State := stWith (fun d => { d with mbx := [(0, { Mailbox.reset with svc := some ({ svOf 0x100 ([3, 0] ++ leBytes 2 0 ++ zeros 12 ++ leBytes 4 64 ++ zeros 12 ++ ([])) with hdr := 3 * 2 ^ 13, params := some (leBytes 8 0x1000 ++ leBytes 8 0x2000 ++ zeros 8 ++ [4, 4, 3, 0] ++ zeros 36) }) })], ctxs := [(0, { Ctx.fresh with ranges := [(0, ⟨0, 2 ^ 20, 0, true, true, false, false, none, 0, none, none, none, 0⟩)] })] })
    ((.objCreate mb : Instr).wellFormed = true) ∧ (Serving s) ∧ ((mbOf s.dev mb).svc = some sv) ∧ (msgOf sv.req = 0x0100) ∧ (sv.busy = false) ∧ (sv.aside = false) ∧ (sv.reply = none) ∧ (agentOff s.dev mb = false) ∧ (sv.f 9 1 = 0) ∧ (sv.f 14 2 = 0) ∧ (sv.f 12 2 = 0) ∧ (sv.paramErr = false) ∧ (ctxExists s.dev (hCtx sv.hdr) = true) ∧ (sv.f 8 1 = 3) ∧ (sv.f 10 2 = 0) ∧ (sv.f 24 4 = 64) ∧ (mb < 12) ∧ (1 ≤ hPriv sv.hdr) ∧ (sv.params = some p) ∧ (galleyParamsOk (ctxOf s.dev (hCtx sv.hdr)) (slice p 0 64) 64 = true) ∧ (bitOf (fieldAt p 27 1) 2 = false ∨ hPriv sv.hdr = 3) ∧ (fieldAt p 26 1 < 4) ∧ (sv.homeKey = [] ∨ mustWait (latch s) sv = false) ∧ (floeOn s.dev (fieldAt p 26 1) = true) ∧ (coverFaults (latch s) (hCtx sv.hdr) [(fieldAt p 0 8, 64 * 2 ^ fieldAt p 24 1, 1), (fieldAt p 16 8, if fieldAt p 16 8 = 0 then 0 else 8, 1), (fieldAt p 8 8, 64 * 2 ^ fieldAt p 25 1, 2)] = none) ∧ (lowestFree ((tkeys (s.dev.galleys.filter (fun x => decide (x.1 / 8 = hCtx sv.hdr)))).map (fun k => k % 8)) 0 8 = some g) := by
  decide +kernel

theorem witness_ObjectCreate_8 :
    let mb : Nat := 0
    let i : Nat := 0
    let p : Bytes := leBytes 8 0 ++ leBytes 8 65536 ++ leBytes 4 1 ++ leBytes 4 65 ++ leBytes 4 1 ++ leBytes 2 0 ++ leBytes 2 1 ++ leBytes 2 64 ++ [8, 0] ++ zeros 28
    let sv : Service := { svOf 0x100 ([6, 0] ++ leBytes 2 0 ++ zeros 12 ++ leBytes 4 64 ++ zeros 12 ++ ([])) with hdr := 3 * 2 ^ 13, params := some (leBytes 8 0 ++ leBytes 8 65536 ++ leBytes 4 1 ++ leBytes 4 65 ++ leBytes 4 1 ++ leBytes 2 0 ++ leBytes 2 1 ++ leBytes 2 64 ++ [8, 0] ++ zeros 28) }
    let s : State := stWith (fun d => { d with mbx := [(0, { Mailbox.reset with svc := some ({ svOf 0x100 ([6, 0] ++ leBytes 2 0 ++ zeros 12 ++ leBytes 4 64 ++ zeros 12 ++ ([])) with hdr := 3 * 2 ^ 13, params := some (leBytes 8 0 ++ leBytes 8 65536 ++ leBytes 4 1 ++ leBytes 4 65 ++ leBytes 4 1 ++ leBytes 2 0 ++ leBytes 2 1 ++ leBytes 2 64 ++ [8, 0] ++ zeros 28) }) })], ctxs := [(0, { Ctx.fresh with ranges := [(0, ⟨0, 2 ^ 20, 0, true, true, false, false, none, 0, none, none, none, 0⟩)] })] })
    ((.objCreate mb : Instr).wellFormed = true) ∧ (Serving s) ∧ ((mbOf s.dev mb).svc = some sv) ∧ (msgOf sv.req = 0x0100) ∧ (sv.busy = false) ∧ (sv.aside = false) ∧ (sv.reply = none) ∧ (agentOff s.dev mb = false) ∧ (sv.f 9 1 = 0) ∧ (sv.f 14 2 = 0) ∧ (sv.f 12 2 = 0) ∧ (sv.paramErr = false) ∧ (ctxExists s.dev (hCtx sv.hdr) = true) ∧ (sv.f 8 1 = 6) ∧ (sv.f 10 2 = 0) ∧ (sv.f 24 4 = 64) ∧ (mb < 12) ∧ (1 ≤ hPriv sv.hdr) ∧ (sv.params = some p) ∧ (tableParamsOk (slice p 0 64) 64 = true) ∧ (tableForme (latch s) (hCtx sv.hdr) (tabOf (slice p 0 64)).forme = none) ∧ (coverFaults (latch s) (hCtx sv.hdr) [((tabOf (slice p 0 64)).store, (tabOf (slice p 0 64)).slots * (tabOf (slice p 0 64)).slotBytes, 3), ((tabOf (slice p 0 64)).work, roundUp (16 * (tabOf (slice p 0 64)).rows + 12 * ((tabOf (slice p 0 64)).slots - (tabOf (slice p 0 64)).rows)) 65536, 3)] = none) ∧ (freeScoped s.dev (hCtx sv.hdr) 6 256 = some i) := by
  decide +kernel

theorem witness_ObjectCreate_9 :
    let mb : Nat := 0
    let i : Nat := 0
    let p : Bytes := zeros 32 ++ leBytes 8 65536 ++ leBytes 4 1 ++ leBytes 4 1 ++ leBytes 4 0 ++ leBytes 2 32 ++ [1, 8, 0, 0, 0, 8] ++ leBytes 4 0
    let sv : Service := { svOf 0x100 ([7, 0] ++ leBytes 2 0 ++ zeros 12 ++ leBytes 4 64 ++ zeros 12 ++ ([])) with hdr := 3 * 2 ^ 13, params := some (zeros 32 ++ leBytes 8 65536 ++ leBytes 4 1 ++ leBytes 4 1 ++ leBytes 4 0 ++ leBytes 2 32 ++ [1, 8, 0, 0, 0, 8] ++ leBytes 4 0) }
    let s : State := stWith (fun d => { d with mbx := [(0, { Mailbox.reset with svc := some ({ svOf 0x100 ([7, 0] ++ leBytes 2 0 ++ zeros 12 ++ leBytes 4 64 ++ zeros 12 ++ ([])) with hdr := 3 * 2 ^ 13, params := some (zeros 32 ++ leBytes 8 65536 ++ leBytes 4 1 ++ leBytes 4 1 ++ leBytes 4 0 ++ leBytes 2 32 ++ [1, 8, 0, 0, 0, 8] ++ leBytes 4 0) }) })], ctxs := [(0, { Ctx.fresh with ranges := [(0, ⟨0, 2 ^ 20, 0, true, true, false, false, none, 0, none, none, none, 0⟩)] })] })
    ((.objCreate mb : Instr).wellFormed = true) ∧ (Serving s) ∧ ((mbOf s.dev mb).svc = some sv) ∧ (msgOf sv.req = 0x0100) ∧ (sv.busy = false) ∧ (sv.aside = false) ∧ (sv.reply = none) ∧ (agentOff s.dev mb = false) ∧ (sv.f 9 1 = 0) ∧ (sv.f 14 2 = 0) ∧ (sv.f 12 2 = 0) ∧ (sv.paramErr = false) ∧ (ctxExists s.dev (hCtx sv.hdr) = true) ∧ (sv.f 8 1 = 7) ∧ (sv.f 10 2 = 0) ∧ (mb < 12) ∧ (1 ≤ hPriv sv.hdr) ∧ (sv.params = some p) ∧ (indexFault (latch s) sv = none) ∧ (fieldAt p 60 4 = 0) ∧ (p.length = 64) ∧ (freeScoped s.dev (hCtx sv.hdr) 7 64 = some i) := by
  decide +kernel

theorem witness_ObjectCreate_10 :
    let mb : Nat := 0
    let i : Nat := 0
    let a : Nat := 1
    let b : Nat := 0
    let p : Bytes := zeros 32 ++ leBytes 8 65536 ++ leBytes 4 1 ++ leBytes 4 1 ++ leBytes 4 0 ++ leBytes 2 32 ++ [1, 8, 0, 0, 0, 8] ++ leBytes 4 1
    let sv : Service := { svOf 0x100 ([7, 0] ++ leBytes 2 0 ++ zeros 12 ++ leBytes 4 64 ++ zeros 12 ++ ([])) with hdr := 3 * 2 ^ 13, params := some (zeros 32 ++ leBytes 8 65536 ++ leBytes 4 1 ++ leBytes 4 1 ++ leBytes 4 0 ++ leBytes 2 32 ++ [1, 8, 0, 0, 0, 8] ++ leBytes 4 1) }
    let s : State := stWith (fun d => { d with mbx := [(0, { Mailbox.reset with svc := some ({ svOf 0x100 ([7, 0] ++ leBytes 2 0 ++ zeros 12 ++ leBytes 4 64 ++ zeros 12 ++ ([])) with hdr := 3 * 2 ^ 13, params := some (zeros 32 ++ leBytes 8 65536 ++ leBytes 4 1 ++ leBytes 4 1 ++ leBytes 4 0 ++ leBytes 2 32 ++ [1, 8, 0, 0, 0, 8] ++ leBytes 4 1) }) })], ctxs := [(0, { Ctx.fresh with ranges := [(0, ⟨0, 2 ^ 20, 0, true, true, false, false, none, 0, none, none, none, 0⟩)] })], pages := [(0, { Page.unplaced with tier := 1 })], mem := memWrite [] 0 ([1] : Bytes) })
    let w : W := (countMeta (latch s) mb sv).1
    let d : Dev := dropReads w.d (fun o => o == .svc mb sv.id)
    ((.objCreate mb : Instr).wellFormed = true) ∧ (Serving s) ∧ ((mbOf s.dev mb).svc = some sv) ∧ (msgOf sv.req = 0x0100) ∧ (sv.busy = false) ∧ (sv.aside = false) ∧ (sv.reply = none) ∧ (agentOff s.dev mb = false) ∧ (sv.f 9 1 = 0) ∧ (sv.f 14 2 = 0) ∧ (sv.f 12 2 = 0) ∧ (sv.paramErr = false) ∧ (ctxExists s.dev (hCtx sv.hdr) = true) ∧ (sv.f 8 1 = 7) ∧ (sv.f 10 2 = 0) ∧ (mb < 12) ∧ (1 ≤ hPriv sv.hdr) ∧ (sv.params = some p) ∧ (indexFault (latch s) sv = none) ∧ (0 < fieldAt p 60 4) ∧ (p.length = 64) ∧ (countMeta (latch s) mb sv = (w, a, b)) ∧ (w.ok = true) ∧ (w.blocked = none) ∧ (dropReads w.d (fun o => o == .svc mb sv.id) = d) ∧ (d.boot = s.dev.boot) ∧ (d.mbx = s.dev.mbx) ∧ (d.ctxs = s.dev.ctxs) ∧ (d.errq.due = []) ∧ (d.tagWait = []) ∧ (d.tagHeld = []) ∧ (d.sw.seen = []) ∧ (freeScoped d (hCtx sv.hdr) 7 64 = some i) := by
  decide +kernel

theorem witness_ObjectCreate_11 :
    let mb : Nat := 0
    let i : Nat := 0
    let p : Bytes := leBytes 4 0x314C4E4B ++ leBytes 4 1 ++ leBytes 4 128 ++ leBytes 4 16 ++ zeros 12 ++ leBytes 4 16384 ++ zeros 4 ++ leBytes 2 1 ++ leBytes 2 1 ++ zeros 8 ++ leBytes 8 (crc64 (zeros 16)) ++ zeros 88
    let sv : Service := { svOf 0x100 ([10, 0] ++ leBytes 2 0 ++ zeros 12 ++ leBytes 4 144 ++ zeros 12 ++ ([])) with hdr := 3 * 2 ^ 13, params := some (leBytes 4 0x314C4E4B ++ leBytes 4 1 ++ leBytes 4 128 ++ leBytes 4 16 ++ zeros 12 ++ leBytes 4 16384 ++ zeros 4 ++ leBytes 2 1 ++ leBytes 2 1 ++ zeros 8 ++ leBytes 8 (crc64 (zeros 16)) ++ zeros 88) }
    let s : State := stWith (fun d => { d with mbx := [(0, { Mailbox.reset with svc := some ({ svOf 0x100 ([10, 0] ++ leBytes 2 0 ++ zeros 12 ++ leBytes 4 144 ++ zeros 12 ++ ([])) with hdr := 3 * 2 ^ 13, params := some (leBytes 4 0x314C4E4B ++ leBytes 4 1 ++ leBytes 4 128 ++ leBytes 4 16 ++ zeros 12 ++ leBytes 4 16384 ++ zeros 4 ++ leBytes 2 1 ++ leBytes 2 1 ++ zeros 8 ++ leBytes 8 (crc64 (zeros 16)) ++ zeros 88) }) })] })
    ((.objCreate mb : Instr).wellFormed = true) ∧ (Serving s) ∧ ((mbOf s.dev mb).svc = some sv) ∧ (msgOf sv.req = 0x0100) ∧ (sv.busy = false) ∧ (sv.aside = false) ∧ (sv.reply = none) ∧ (agentOff s.dev mb = false) ∧ (sv.f 9 1 = 0) ∧ (sv.f 14 2 = 0) ∧ (sv.f 12 2 = 0) ∧ (sv.paramErr = false) ∧ (ctxExists s.dev (hCtx sv.hdr) = true) ∧ (sv.f 8 1 = 10) ∧ (sv.f 10 2 = 0) ∧ (sv.f 24 4 = p.length) ∧ (p.length ≤ 2 ^ 24) ∧ (mb < 12) ∧ (1 ≤ hPriv sv.hdr) ∧ (sv.params = some p) ∧ (kernelFault? p p.length = none) ∧ (storeUsed s.dev + codeRoom p + fieldAt p 20 4 ≤ 2 ^ 28) ∧ (freeScoped s.dev (hCtx sv.hdr) 10 256 = some i) := by
  decide +kernel

theorem witness_ObjectCreate_12 :
    let mb : Nat := 0
    let n : Nat := 1
    let p : Bytes := zeros 2 ++ leBytes 2 1 ++ zeros 60 ++ leBytes 2 1 ++ [1, 0] ++ zeros 12
    let sv : Service := { svOf 0x100 ([4, 0] ++ leBytes 2 0 ++ zeros 12 ++ leBytes 4 80 ++ zeros 12 ++ ([])) with hdr := 3 * 2 ^ 13, params := some (zeros 2 ++ leBytes 2 1 ++ zeros 60 ++ leBytes 2 1 ++ [1, 0] ++ zeros 12) }
    let s : State := stWith (fun d => { d with boot := { d.boot with record := some (zeros 36 ++ leBytes 2 1 ++ [0, 1] ++ zeros 472) }, mbr := { d.mbr with map := { emptyMap with managerCount := 1, managers := [1, 0xFFFF, 0xFFFF, 0xFFFF, 0xFFFF, 0xFFFF, 0xFFFF], nodes := [(1, ⟨1, true, false, 0, 1, 9, [], []⟩)] }, joined := true }, mbx := [(0, { Mailbox.reset with svc := some ({ svOf 0x100 ([4, 0] ++ leBytes 2 0 ++ zeros 12 ++ leBytes 4 80 ++ zeros 12 ++ ([])) with hdr := 3 * 2 ^ 13, params := some (zeros 2 ++ leBytes 2 1 ++ zeros 60 ++ leBytes 2 1 ++ [1, 0] ++ zeros 12) }) })] })
    let d : Dev := submit (waitCommit (latch s) mb sv.id 0 0) (.create (selfNode s.dev) ((List.range n).map (fun i => parseMember (slice p (64 + 16 * i) 16))))
    ((.objCreate mb : Instr).wellFormed = true) ∧ (Serving s) ∧ ((mbOf s.dev mb).svc = some sv) ∧ (msgOf sv.req = 0x0100) ∧ (sv.busy = false) ∧ (sv.aside = false) ∧ (sv.reply = none) ∧ (agentOff s.dev mb = false) ∧ (sv.f 9 1 = 0) ∧ (sv.f 14 2 = 0) ∧ (sv.f 12 2 = 0) ∧ (sv.paramErr = false) ∧ (ctxExists s.dev (hCtx sv.hdr) = true) ∧ (sv.f 8 1 = 4) ∧ (sv.f 10 2 = 0) ∧ (sv.f 24 4 ≤ 2 ^ 24) ∧ (mb < 12) ∧ (2 ≤ hPriv sv.hdr) ∧ (sv.params = some p) ∧ (formeParams p (sv.f 24 4) (selfNode s.dev) = none) ∧ (fieldAt p 0 2 = 0) ∧ (fieldAt p 2 2 = n) ∧ (s.dev.formes.length < 256) ∧ (hasMajority s.dev = true) ∧ ((List.range n).all (fun i => decide ((parseMember (slice p (64 + 16 * i) 16)).node ≠ selfNode s.dev) || lentOwned s.dev (hCtx sv.hdr) (parseMember (slice p (64 + 16 * i) 16))) = true) ∧ (submit (waitCommit (latch s) mb sv.id 0 0) (.create (selfNode s.dev) ((List.range n).map (fun i => parseMember (slice p (64 + 16 * i) 16)))) = d) ∧ (d.boot = s.dev.boot) ∧ (d.errq.due = []) ∧ (d.tagWait = []) ∧ (d.tagHeld = []) ∧ (d.sw.seen = []) := by
  decide +kernel

theorem witness_ObjectCreate_13 :
    let mb : Nat := 0
    let id : Nat := 3
    let p : Bytes := leBytes 2 3 ++ zeros 2 ++ [1] ++ zeros 59
    let r : FormeRec := ⟨3, 0, 1, [⟨1, 1, false, 0, 0, 0⟩]⟩
    let m : Member := ⟨1, 1, false, 0, 0, 0⟩
    let sv : Service := { svOf 0x100 ([4, 0] ++ leBytes 2 0 ++ zeros 12 ++ leBytes 4 64 ++ zeros 12 ++ ([])) with hdr := 3 * 2 ^ 13, params := some (leBytes 2 3 ++ zeros 2 ++ [1] ++ zeros 59) }
    let s : State := stWith (fun d => { d with boot := { d.boot with record := some (zeros 36 ++ leBytes 2 1 ++ [0, 1] ++ zeros 472) }, mbr := { d.mbr with map := { emptyMap with managerCount := 1, managers := [1, 0xFFFF, 0xFFFF, 0xFFFF, 0xFFFF, 0xFFFF, 0xFFFF], formes := [⟨3, 0, 1, [⟨1, 1, false, 0, 0, 0⟩]⟩], nodes := [(1, ⟨1, true, false, 0, 1, 9, [], []⟩)] }, joined := true, leaseAt := 0 }, mbx := [(0, { Mailbox.reset with svc := some ({ svOf 0x100 ([4, 0] ++ leBytes 2 0 ++ zeros 12 ++ leBytes 4 64 ++ zeros 12 ++ ([])) with hdr := 3 * 2 ^ 13, params := some (leBytes 2 3 ++ zeros 2 ++ [1] ++ zeros 59) }) })] })
    let d : Dev := submit (waitCommit (latch s) mb sv.id 1 id) (.attach (selfNode s.dev) id)
    ((.objCreate mb : Instr).wellFormed = true) ∧ (Serving s) ∧ ((mbOf s.dev mb).svc = some sv) ∧ (msgOf sv.req = 0x0100) ∧ (sv.busy = false) ∧ (sv.aside = false) ∧ (sv.reply = none) ∧ (agentOff s.dev mb = false) ∧ (sv.f 9 1 = 0) ∧ (sv.f 14 2 = 0) ∧ (sv.f 12 2 = 0) ∧ (sv.paramErr = false) ∧ (ctxExists s.dev (hCtx sv.hdr) = true) ∧ (sv.f 8 1 = 4) ∧ (sv.f 10 2 = 0) ∧ (sv.f 24 4 ≤ 2 ^ 24) ∧ (mb < 12) ∧ (2 ≤ hPriv sv.hdr) ∧ (sv.params = some p) ∧ (formeParams p (sv.f 24 4) (selfNode s.dev) = none) ∧ (fieldAt p 0 2 = id) ∧ (0 < id) ∧ (s.dev.formes.length < 256) ∧ (hasMajority s.dev = true) ∧ (s.dev.mbr.map.formes.find? (fun r => decide (r.id = id)) = some r) ∧ (r.members.find? (fun x => decide (x.node = selfNode s.dev)) = some m) ∧ (lentOwned s.dev (hCtx sv.hdr) m = true) ∧ (submit (waitCommit (latch s) mb sv.id 1 id) (.attach (selfNode s.dev) id) = d) ∧ (d.boot = s.dev.boot) ∧ (d.errq.due = []) ∧ (d.tagWait = []) ∧ (d.tagHeld = []) ∧ (d.sw.seen = []) := by
  decide +kernel

theorem witness_ObjectModifyQueryDestroy_1 :
    let mb : Nat := 0
    let i : Nat := 4095
    let r : Region := { owner := 0, open_ := false, access := [], current := 2, versions := [(2, ⟨0, 65536, none⟩)] }
    let sv : Service := { svOf 0x101 ([9, 0] ++ leBytes 2 0x9FFF ++ zeros 12 ++ leBytes 4 0 ++ zeros 12 ++ ([1, 0])) with hdr := 3 * 2 ^ 13 }
    let s : State := stWith (fun d => { d with mbx := [(0, { Mailbox.reset with svc := some ({ svOf 0x101 ([9, 0] ++ leBytes 2 0x9FFF ++ zeros 12 ++ leBytes 4 0 ++ zeros 12 ++ ([1, 0])) with hdr := 3 * 2 ^ 13 }) })], regions := [(4095, { owner := 0, open_ := false, access := [], current := 2, versions := [(2, ⟨0, 65536, none⟩)] })] })
    ((.objModify mb : Instr).wellFormed = true) ∧ (Serving s) ∧ ((mbOf s.dev mb).svc = some sv) ∧ (msgOf sv.req = 0x0101) ∧ (sv.busy = false) ∧ (sv.aside = false) ∧ (sv.reply = none) ∧ (agentOff s.dev mb = false) ∧ (sv.f 9 1 = 0) ∧ (sv.f 14 2 = 0) ∧ (sv.f 12 2 = 0) ∧ (sv.paramErr = false) ∧ (ctxExists s.dev (hCtx sv.hdr) = true) ∧ (sv.f 8 1 = 9) ∧ (sv.f 10 2 = 0x9000 + i) ∧ (i < 4096) ∧ (sv.f 24 4 = 0) ∧ (mb < 12) ∧ (hPriv sv.hdr = 3) ∧ (tget? s.dev.regions i = some r) ∧ (r.owner = hCtx sv.hdr) ∧ (regionParamsOk (slice sv.req 40 24) = true) := by
  decide +kernel

theorem witness_ObjectModifyQueryDestroy_2 :
    let mb : Nat := 0
    let n : Nat := 511
    let x : Ctx := Ctx.fresh
    let sv : Service := { svOf 0x101 ([1, 0] ++ leBytes 2 0x11FF ++ zeros 12 ++ leBytes 4 0 ++ zeros 12 ++ ([3])) with hdr := 3 * 2 ^ 13 }
    let s : State := stWith (fun d => { d with mbx := [(0, { Mailbox.reset with svc := some ({ svOf 0x101 ([1, 0] ++ leBytes 2 0x11FF ++ zeros 12 ++ leBytes 4 0 ++ zeros 12 ++ ([3])) with hdr := 3 * 2 ^ 13 }) })], ctxs := [(0, Ctx.fresh), (511, Ctx.fresh)] })
    ((.objModify mb : Instr).wellFormed = true) ∧ (Serving s) ∧ ((mbOf s.dev mb).svc = some sv) ∧ (msgOf sv.req = 0x0101) ∧ (sv.busy = false) ∧ (sv.aside = false) ∧ (sv.reply = none) ∧ (agentOff s.dev mb = false) ∧ (sv.f 9 1 = 0) ∧ (sv.f 14 2 = 0) ∧ (sv.f 12 2 = 0) ∧ (sv.paramErr = false) ∧ (ctxExists s.dev (hCtx sv.hdr) = true) ∧ (sv.f 8 1 = 1) ∧ (sv.f 10 2 = 0x1000 + n) ∧ (n < 4096) ∧ (sv.f 24 4 = 0) ∧ (mb < 12) ∧ (hPriv sv.hdr = 3) ∧ (tget? s.dev.ctxs n = some x) ∧ (ctxParamsOk (slice sv.req 40 24) = true) ∧ (x.reset = none) ∧ (x.irqHold = false) ∧ ((List.range 8).all (fun g => !thas s.dev.galleys (gkey n g)) = true) ∧ (vecOverlap s.dev n (x.with (slice sv.req 40 24)) = false) := by
  decide +kernel

theorem witness_ObjectModifyQueryDestroy_3 :
    let mb : Nat := 0
    let i : Nat := 7
    let r : Range := (⟨4096, 65536, 0, true, true, false, false, none, 0, none, none, none, 0⟩ : Range)
    let sv : Service := { svOf 0x102 ([2, 0] ++ leBytes 2 0x2007 ++ zeros 12 ++ leBytes 4 0 ++ zeros 12 ++ ([])) with hdr := 3 * 2 ^ 13 }
    let s : State := stWith (fun d => { d with mbx := [(0, { Mailbox.reset with svc := some ({ svOf 0x102 ([2, 0] ++ leBytes 2 0x2007 ++ zeros 12 ++ leBytes 4 0 ++ zeros 12 ++ ([])) with hdr := 3 * 2 ^ 13 }) })], ctxs := [(0, { Ctx.fresh with ranges := [(7, ⟨4096, 65536, 0, true, true, false, false, none, 0, none, none, none, 0⟩)] })] })
    ((.objQuery mb : Instr).wellFormed = true) ∧ (Serving s) ∧ ((mbOf s.dev mb).svc = some sv) ∧ (msgOf sv.req = 0x0102) ∧ (sv.busy = false) ∧ (sv.aside = false) ∧ (sv.reply = none) ∧ (agentOff s.dev mb = false) ∧ (sv.f 9 1 = 0) ∧ (sv.f 14 2 = 0) ∧ (sv.f 12 2 = 0) ∧ (sv.paramErr = false) ∧ (ctxExists s.dev (hCtx sv.hdr) = true) ∧ (sv.f 8 1 = 2) ∧ (sv.f 10 2 = 0x2000 + i) ∧ (i < 4096) ∧ (sv.f 28 4 = 0) ∧ (mb < 12) ∧ (hPriv sv.hdr = 3) ∧ (tget? (ctxOf s.dev (hCtx sv.hdr)).ranges i = some r) ∧ (r.upto = none) := by
  decide +kernel

theorem witness_ObjectModifyQueryDestroy_4 :
    let mb : Nat := 0
    let i : Nat := 4095
    let x : Slot := ({ ctx := 0, par := zeros 64, home := 0, state := 0, epoch := 4, offer := 0, floor := 0, peerNode := 0, peerSlot := 0, attended := false, give := none, old := [] } : Slot)
    let sv : Service := { svOf 0x103 ([5, 0] ++ leBytes 2 0x5FFF ++ zeros 12 ++ leBytes 4 0 ++ zeros 12 ++ ([])) with hdr := 3 * 2 ^ 13 }
    let s : State := stWith (fun d => { d with mbx := [(0, { Mailbox.reset with svc := some ({ svOf 0x103 ([5, 0] ++ leBytes 2 0x5FFF ++ zeros 12 ++ leBytes 4 0 ++ zeros 12 ++ ([])) with hdr := 3 * 2 ^ 13 }) })], slots := [(4095, { ctx := 0, par := zeros 64, home := 0, state := 0, epoch := 4, offer := 0, floor := 0, peerNode := 0, peerSlot := 0, attended := false, give := none, old := [] })] })
    ((.objDestroy mb : Instr).wellFormed = true) ∧ (Serving s) ∧ ((mbOf s.dev mb).svc = some sv) ∧ (msgOf sv.req = 0x0103) ∧ (sv.busy = false) ∧ (sv.aside = false) ∧ (sv.reply = none) ∧ (agentOff s.dev mb = false) ∧ (sv.f 9 1 = 0) ∧ (sv.f 14 2 = 0) ∧ (sv.f 12 2 = 0) ∧ (sv.paramErr = false) ∧ (ctxExists s.dev (hCtx sv.hdr) = true) ∧ (sv.f 8 1 = 5) ∧ (sv.f 10 2 = 0x5000 + i) ∧ (i < 4096) ∧ (mb < 12) ∧ (hPriv sv.hdr = 3) ∧ (tget? s.dev.slots i = some x) ∧ (x.ctx = hCtx sv.hdr) ∧ (namedBy s.dev (hCtx sv.hdr) (0x5000 + i) = false) := by
  decide +kernel

theorem witness_ObjectModifyQueryDestroy_5 :
    let mb : Nat := 0
    let i : Nat := 0
    let x : Slot := ({ ctx := 0, par := zeros 64, home := 0, state := 0, epoch := 4, offer := 0, floor := 0, peerNode := 0, peerSlot := 0, attended := false, give := none, old := [] } : Slot)
    let sv : Service := { svOf 0x103 ([5, 0] ++ leBytes 2 0x5000 ++ zeros 12 ++ leBytes 4 0 ++ zeros 12 ++ ([])) with hdr := 3 * 2 ^ 13 }
    let s : State := stWith (fun d => { d with mbx := [(0, { Mailbox.reset with svc := some ({ svOf 0x103 ([5, 0] ++ leBytes 2 0x5000 ++ zeros 12 ++ leBytes 4 0 ++ zeros 12 ++ ([])) with hdr := 3 * 2 ^ 13 }) })], slots := [(0, { ctx := 0, par := zeros 64, home := 0, state := 0, epoch := 4, offer := 0, floor := 0, peerNode := 0, peerSlot := 0, attended := false, give := none, old := [] })], cmds := [(9, cmdWith 1 (zeros 31 ++ leBytes 2 0x5000) 2)] })
    ((.objDestroy mb : Instr).wellFormed = true) ∧ (Serving s) ∧ ((mbOf s.dev mb).svc = some sv) ∧ (msgOf sv.req = 0x0103) ∧ (sv.busy = false) ∧ (sv.aside = false) ∧ (sv.reply = none) ∧ (agentOff s.dev mb = false) ∧ (sv.f 9 1 = 0) ∧ (sv.f 14 2 = 0) ∧ (sv.f 12 2 = 0) ∧ (sv.paramErr = false) ∧ (ctxExists s.dev (hCtx sv.hdr) = true) ∧ (sv.f 8 1 = 5) ∧ (sv.f 10 2 = 0x5000 + i) ∧ (i < 4096) ∧ (mb < 12) ∧ (hPriv sv.hdr = 3) ∧ (tget? s.dev.slots i = some x) ∧ (x.ctx = hCtx sv.hdr) ∧ (namedBy s.dev (hCtx sv.hdr) (0x5000 + i) = true) := by
  decide +kernel

theorem witness_ObjectModifyQueryDestroy_6 :
    let mb : Nat := 0
    let sv : Service := { svOf 0x103 ([5, 0] ++ leBytes 2 0x4000 ++ zeros 12 ++ leBytes 4 0 ++ zeros 12 ++ ([])) with hdr := 3 * 2 ^ 13 }
    let s : State := stWith (fun d => { d with mbx := [(0, { Mailbox.reset with svc := some ({ svOf 0x103 ([5, 0] ++ leBytes 2 0x4000 ++ zeros 12 ++ leBytes 4 0 ++ zeros 12 ++ ([])) with hdr := 3 * 2 ^ 13 }) })] })
    ((.objDestroy mb : Instr).wellFormed = true) ∧ (Serving s) ∧ ((mbOf s.dev mb).svc = some sv) ∧ (msgOf sv.req = 0x0103) ∧ (sv.busy = false) ∧ (sv.aside = false) ∧ (sv.reply = none) ∧ (agentOff s.dev mb = false) ∧ (sv.f 9 1 = 0) ∧ (sv.f 14 2 = 0) ∧ (sv.f 12 2 = 0) ∧ (sv.paramErr = false) ∧ (ctxExists s.dev (hCtx sv.hdr) = true) ∧ (sv.f 8 1 = 5) ∧ (sv.f 10 2 / 4096 ≠ 5) ∧ (mb < 12) ∧ (hPriv sv.hdr = 3) := by
  decide +kernel

theorem witness_DecodersAndRegions_1 :
    let mb : Nat := 0
    let p : Nat := 11
    let i : Nat := 15
    let c : Nat := 0
    let u : Nat := 65536
    let n : Nat := 131072
    let sv : Service := { svOf 0x104 (leBytes 1 11 ++ [15] ++ leBytes 2 0 ++ zeros 4 ++ leBytes 8 65536 ++ leBytes 8 131072) with hdr := 3 * 2 ^ 13 }
    let s : State := stWith (fun d => { d with mbx := [(0, { Mailbox.reset with svc := some ({ svOf 0x104 (leBytes 1 11 ++ [15] ++ leBytes 2 0 ++ zeros 4 ++ leBytes 8 65536 ++ leBytes 8 131072) with hdr := 3 * 2 ^ 13 }) })] })
    ((.decoderBind mb : Instr).wellFormed = true) ∧ (Serving s) ∧ ((mbOf s.dev mb).svc = some sv) ∧ (msgOf sv.req = 0x0104) ∧ (sv.busy = false) ∧ (sv.aside = false) ∧ (sv.reply = none) ∧ (agentOff s.dev mb = false) ∧ (sv.f 8 1 = p) ∧ (sv.f 9 1 = i) ∧ (sv.f 10 2 = c) ∧ (sv.f 12 4 = 0) ∧ (sv.f 16 8 = u) ∧ (sv.f 24 8 = n) ∧ (sv.zeroFrom 32 = true) ∧ (hPriv sv.hdr = 3) ∧ (mb < 12) ∧ (p < 12) ∧ (i < 16) ∧ (c < 512) ∧ (u % 65536 = 0) ∧ (n % 65536 = 0) ∧ (u + n ≤ 2 ^ 44) ∧ (ctxExists s.dev c = true) := by
  decide +kernel

theorem witness_DecodersAndRegions_2 :
    let mb : Nat := 0
    let p : Nat := 11
    let i : Nat := 15
    let sv : Service := { svOf 0x104 (leBytes 1 11 ++ [15] ++ leBytes 2 0xFFFF ++ zeros 4 ++ leBytes 8 65536 ++ leBytes 8 131072) with hdr := 3 * 2 ^ 13 }
    let s : State := stWith (fun d => { d with mbx := [(0, { Mailbox.reset with svc := some ({ svOf 0x104 (leBytes 1 11 ++ [15] ++ leBytes 2 0xFFFF ++ zeros 4 ++ leBytes 8 65536 ++ leBytes 8 131072) with hdr := 3 * 2 ^ 13 }) })] })
    ((.decoderBind mb : Instr).wellFormed = true) ∧ (Serving s) ∧ ((mbOf s.dev mb).svc = some sv) ∧ (msgOf sv.req = 0x0104) ∧ (sv.busy = false) ∧ (sv.aside = false) ∧ (sv.reply = none) ∧ (agentOff s.dev mb = false) ∧ (sv.f 8 1 = p) ∧ (sv.f 9 1 = i) ∧ (sv.f 10 2 = 0xFFFF) ∧ (sv.f 12 4 = 0) ∧ (sv.zeroFrom 32 = true) ∧ (hPriv sv.hdr = 3) ∧ (mb < 12) ∧ (p < 12) ∧ (i < 16) := by
  decide +kernel

theorem witness_DecodersAndRegions_3 :
    let mb : Nat := 0
    let i : Nat := 0
    let u : Nat := 65536
    let n : Nat := 65536
    let r : Region := { owner := 0, open_ := false, access := [], current := 0, versions := [] }
    let sv : Service := { svOf 0x200 (leBytes 2 0x9000 ++ zeros 2 ++ leBytes 4 0 ++ leBytes 8 65536 ++ leBytes 8 65536) with hdr := 3 * 2 ^ 13 }
    let s : State := stWith (fun d => { d with mbx := [(0, { Mailbox.reset with svc := some ({ svOf 0x200 (leBytes 2 0x9000 ++ zeros 2 ++ leBytes 4 0 ++ leBytes 8 65536 ++ leBytes 8 65536) with hdr := 3 * 2 ^ 13 }) })], regions := [(0, { owner := 0, open_ := false, access := [], current := 0, versions := [] })], pages := [(1, { Page.unplaced with tier := 1, k := 4 })] })
    ((.regionPublish mb : Instr).wellFormed = true) ∧ (Serving s) ∧ ((mbOf s.dev mb).svc = some sv) ∧ (msgOf sv.req = 0x0200) ∧ (sv.busy = false) ∧ (sv.aside = false) ∧ (sv.reply = none) ∧ (agentOff s.dev mb = false) ∧ (sv.f 8 2 = 0x9000 + i) ∧ (i < 4096) ∧ (sv.f 10 2 = 0) ∧ (sv.f 12 4 = r.current) ∧ (sv.f 16 8 = u) ∧ (sv.f 24 8 = n) ∧ (sv.zeroFrom 32 = true) ∧ (hPriv sv.hdr = 3) ∧ (mb < 12) ∧ (u % 65536 = 0) ∧ (n % 65536 = 0) ∧ (0 < n) ∧ (u + n ≤ 2 ^ 44) ∧ (tget? s.dev.regions i = some r) ∧ (r.mayPublish (hCtx sv.hdr) = true) ∧ (ownsRun s.dev (hCtx sv.hdr) u n = true) ∧ (writableRun s.dev u n = false) ∧ (r.versions.length < 16) ∧ (r.current < 0xFFFFFFFF) ∧ (tget? r.versions r.current = none) := by
  decide +kernel

theorem witness_DecodersAndRegions_4 :
    let mb : Nat := 0
    let i : Nat := 0
    let u : Nat := 65536
    let n : Nat := 65536
    let r : Region := { owner := 0, open_ := false, access := [], current := 3, versions := [(3, ⟨0, 65536, none⟩)] }
    let sv : Service := { svOf 0x200 (leBytes 2 0x9000 ++ zeros 2 ++ leBytes 4 2 ++ leBytes 8 65536 ++ leBytes 8 65536) with hdr := 3 * 2 ^ 13 }
    let s : State := stWith (fun d => { d with mbx := [(0, { Mailbox.reset with svc := some ({ svOf 0x200 (leBytes 2 0x9000 ++ zeros 2 ++ leBytes 4 2 ++ leBytes 8 65536 ++ leBytes 8 65536) with hdr := 3 * 2 ^ 13 }) })], regions := [(0, { owner := 0, open_ := false, access := [], current := 3, versions := [(3, ⟨0, 65536, none⟩)] })], pages := [(1, { Page.unplaced with tier := 1, k := 4 })] })
    ((.regionPublish mb : Instr).wellFormed = true) ∧ (Serving s) ∧ ((mbOf s.dev mb).svc = some sv) ∧ (msgOf sv.req = 0x0200) ∧ (sv.busy = false) ∧ (sv.aside = false) ∧ (sv.reply = none) ∧ (agentOff s.dev mb = false) ∧ (sv.f 8 2 = 0x9000 + i) ∧ (i < 4096) ∧ (sv.f 10 2 = 0) ∧ (sv.f 12 4 ≠ r.current) ∧ (sv.f 16 8 = u) ∧ (sv.f 24 8 = n) ∧ (sv.zeroFrom 32 = true) ∧ (hPriv sv.hdr = 3) ∧ (mb < 12) ∧ (u % 65536 = 0) ∧ (n % 65536 = 0) ∧ (0 < n) ∧ (u + n ≤ 2 ^ 44) ∧ (tget? s.dev.regions i = some r) ∧ (r.mayPublish (hCtx sv.hdr) = true) ∧ (ownsRun s.dev (hCtx sv.hdr) u n = true) ∧ (writableRun s.dev u n = false) := by
  decide +kernel

theorem witness_DecodersAndRegions_5 :
    let mb : Nat := 0
    let i : Nat := 0
    let k : Nat := 0
    let v : Nat := 1
    let a : Nat := 4096
    let r : Region := { owner := 0, open_ := false, access := [], current := 1, versions := [(1, ⟨65536, 65536, none⟩)] }
    let x : Version := (⟨65536, 65536, none⟩ : Version)
    let sv : Service := { svOf 0x201 (leBytes 2 0x9000 ++ zeros 2 ++ leBytes 4 1 ++ leBytes 8 4096) with hdr := 3 * 2 ^ 13 }
    let s : State := stWith (fun d => { d with mbx := [(0, { Mailbox.reset with svc := some ({ svOf 0x201 (leBytes 2 0x9000 ++ zeros 2 ++ leBytes 4 1 ++ leBytes 8 4096) with hdr := 3 * 2 ^ 13 }) })], regions := [(0, { owner := 0, open_ := false, access := [], current := 1, versions := [(1, ⟨65536, 65536, none⟩)] })] })
    ((.regionBind mb : Instr).wellFormed = true) ∧ (Serving s) ∧ ((mbOf s.dev mb).svc = some sv) ∧ (msgOf sv.req = 0x0201) ∧ (sv.busy = false) ∧ (sv.aside = false) ∧ (sv.reply = none) ∧ (agentOff s.dev mb = false) ∧ (sv.f 8 2 = 0x9000 + i) ∧ (i < 4096) ∧ (sv.f 10 2 = 0) ∧ (sv.f 12 4 = v) ∧ (0 < v) ∧ (sv.f 16 8 = a) ∧ (sv.zeroFrom 24 = true) ∧ (hPriv sv.hdr = 3) ∧ (mb < 12) ∧ (a % 4096 = 0) ∧ (0 < x.len) ∧ (ctxExists s.dev (hCtx sv.hdr) = true) ∧ (tget? s.dev.regions i = some r) ∧ (tget? r.versions v = some x) ∧ (r.mayBind (hCtx sv.hdr) = true) ∧ (bindings s.dev < 16384) ∧ (lowestFree (tkeys (ctxOf s.dev (hCtx sv.hdr)).ranges) 0 4096 = some k) ∧ (ctxOverlap s.dev (hCtx sv.hdr) a x.len = false) := by
  decide +kernel

theorem witness_DecodersAndRegions_6 :
    let mb : Nat := 0
    let k : Nat := 0
    let i : Nat := 0
    let v : Nat := 1
    let e : Range := (⟨4096, 65536, 65536, true, false, false, false, some (0, 1), 0, none, none, none, 0⟩ : Range)
    let sv : Service := { svOf 0x202 (leBytes 2 0x2000) with hdr := 3 * 2 ^ 13 }
    let s : State := stWith (fun d => { d with mbx := [(0, { Mailbox.reset with svc := some ({ svOf 0x202 (leBytes 2 0x2000) with hdr := 3 * 2 ^ 13 }) })], ctxs := [(0, { Ctx.fresh with ranges := [(0, ⟨4096, 65536, 65536, true, false, false, false, some (0, 1), 0, none, none, none, 0⟩)] })], cmds := [(9, cmdWith 1 [] 2)], regions := [(0, { owner := 0, open_ := false, access := [], current := 2, versions := [(1, ⟨65536, 65536, none⟩), (2, ⟨0, 65536, none⟩)] })] })
    ((.regionRelease mb : Instr).wellFormed = true) ∧ (Serving s) ∧ ((mbOf s.dev mb).svc = some sv) ∧ (msgOf sv.req = 0x0202) ∧ (sv.busy = false) ∧ (sv.aside = false) ∧ (sv.reply = none) ∧ (agentOff s.dev mb = false) ∧ (sv.f 8 2 = 0x2000 + k) ∧ (k < 4096) ∧ (sv.zeroFrom 10 = true) ∧ (hPriv sv.hdr = 3) ∧ (mb < 12) ∧ (tget? (ctxOf s.dev (hCtx sv.hdr)).ranges k = some e) ∧ (e.upto = none) ∧ (e.region = some (i, v)) ∧ (s.dev.cmds.any (fun c => c.2.ctx == hCtx sv.hdr && c.2.phase != 3 && decide (c.2.gen ≤ (ctxOf s.dev (hCtx sv.hdr)).gen)) = true) := by
  decide +kernel

theorem witness_DecodersAndRegions_7 :
    let i : Nat := 4095
    let v : Nat := 1
    let r : Region := { owner := 0, open_ := false, access := [], current := 2, versions := [(1, ⟨65536, 65536, none⟩), (2, ⟨0, 65536, none⟩)] }
    let x : Version := (⟨65536, 65536, none⟩ : Version)
    let s : State := stWith (fun d => { d with regions := [(4095, { owner := 0, open_ := false, access := [], current := 2, versions := [(1, ⟨65536, 65536, none⟩), (2, ⟨0, 65536, none⟩)] })] })
    ((.versionRetire i v : Instr).wellFormed = true) ∧ (Serving s) ∧ (tget? s.dev.regions i = some r) ∧ (tget? r.versions v = some x) ∧ (retainedVersion s.dev i v = false) := by
  decide +kernel

theorem witness_DecodersAndRegions_8 :
    let i : Nat := 0
    let v : Nat := 2
    let s : State := stWith (fun d => { d with regions := [(0, { owner := 0, open_ := false, access := [], current := 2, versions := [(2, ⟨0, 65536, none⟩)] })] })
    ((.versionRetire i v : Instr).wellFormed = true) ∧ (Serving s) ∧ (retainedVersion s.dev i v = true) := by
  decide +kernel

theorem witness_DecodersAndRegions_9 :
    let c : Nat := 511
    let s : State := stWith (fun d => { d with ctxs := [(0, Ctx.fresh), (511, { Ctx.fresh with ranges := [(0, ⟨4096, 65536, 0, true, true, false, false, none, 0, some 1, none, none, 0⟩)] })] })
    ((.rangeRetire c : Instr).wellFormed = true) ∧ (Serving s) ∧ (s.dev.cmds.all (fun k => k.2.ctx != c || k.2.phase == 3) = true) := by
  decide +kernel

theorem witness_ContextReset_1 :
    let mb : Nat := 0
    let c : Nat := 511
    let sv : Service := { svOf 0x300 (leBytes 2 511) with hdr := 3 * 2 ^ 13 }
    let s : State := stWith (fun d => { d with mbx := [(0, { Mailbox.reset with svc := some ({ svOf 0x300 (leBytes 2 511) with hdr := 3 * 2 ^ 13 }) })], ctxs := [(0, Ctx.fresh), (511, Ctx.fresh)], cmds := [(7, { cmdWith 1 [] 2 with ctx := 511, order := 3 })], galleys := [(gkey 511 7, { Galley.none with state := 1, cmdTail := 9, cmdHead := 4 })] })
    ((.contextReset mb : Instr).wellFormed = true) ∧ (Serving s) ∧ ((mbOf s.dev mb).svc = some sv) ∧ (msgOf sv.req = 0x0300) ∧ (sv.busy = false) ∧ (sv.aside = false) ∧ (sv.reply = none) ∧ (agentOff s.dev mb = false) ∧ (sv.f 8 2 = c) ∧ (sv.f 10 2 = 0) ∧ (sv.f 12 4 ≤ 1000000) ∧ (sv.zeroFrom 16 = true) ∧ (hPriv sv.hdr = 3) ∧ (mb < 12) ∧ (c < 512) ∧ (ctxExists s.dev c = true) ∧ (s.dev.cmds.all (fun k => k.2.ctx != c || !k.2.waiting) = true) := by
  decide +kernel

theorem witness_ContextReset_2 :
    let c : Nat := 0
    let j : ResetJob := { mbx := 0, svc := 1, started := 0, drainUs := 10000, expired := false, running := [], lost := 0, drained := 0, aborted := 3, discarded := 0, purged := 0, cleared := false, revoked := 0, irqs := 0, released := 0, lostProofs := 0, floes := [] }
    let s : State := stWith (fun d => { d with ctxs := [(0, { Ctx.fresh with reset := some ({ mbx := 0, svc := 1, started := 0, drainUs := 10000, expired := false, running := [], lost := 0, drained := 0, aborted := 3, discarded := 0, purged := 0, cleared := false, revoked := 0, irqs := 0, released := 0, lostProofs := 0, floes := [] }) })] })
    ((.resetDrainExpire c : Instr).wellFormed = true) ∧ (Serving s) ∧ ((ctxOf s.dev c).reset = some j) ∧ (j.expired = false) ∧ (j.cleared = false) ∧ (stillRunning s.dev c j = []) := by
  decide +kernel

theorem witness_ContextReset_3 :
    let c : Nat := 0
    let tag : Nat := 9
    let k : Cmd := { cmdWith 1 [] 2 with order := 5 }
    let j : ResetJob := { mbx := 0, svc := 1, started := 0, drainUs := 10000, expired := false, running := [5, 6], lost := 0, drained := 0, aborted := 3, discarded := 0, purged := 0, cleared := false, revoked := 0, irqs := 0, released := 0, lostProofs := 0, floes := [] }
    let s : State := stWith (fun d => { d with cmds := [(9, { cmdWith 1 [] 2 with order := 5 })], ctxs := [(0, { Ctx.fresh with reset := some ({ mbx := 0, svc := 1, started := 0, drainUs := 10000, expired := false, running := [5, 6], lost := 0, drained := 0, aborted := 3, discarded := 0, purged := 0, cleared := false, revoked := 0, irqs := 0, released := 0, lostProofs := 0, floes := [] }) })] })
    ((.resetDrainExpire c : Instr).wellFormed = true) ∧ (Serving s) ∧ ((ctxOf s.dev c).reset = some j) ∧ (j.expired = false) ∧ (j.cleared = false) ∧ (stillRunning s.dev c j = [tag]) ∧ (cmdOf s.dev tag = some k) ∧ (k.opcode ≠ 0x28) ∧ (k.opcode ≠ 0x30) ∧ (k.phase = 2) ∧ (k.status = 0) ∧ (s.dev.arbs = []) := by
  decide +kernel

theorem witness_ContextReset_4 :
    let c : Nat := 0
    let j : ResetJob := { mbx := 0, svc := 1, started := 0, drainUs := 10000, expired := false, running := [], lost := 0, drained := 0, aborted := 3, discarded := 0, purged := 0, cleared := false, revoked := 0, irqs := 0, released := 0, lostProofs := 0, floes := [] }
    let sv : Service := svOf 0x300 []
    let s : State := stWith (fun d => { d with ctxs := [(0, { Ctx.fresh with reset := some ({ mbx := 0, svc := 1, started := 0, drainUs := 10000, expired := false, running := [], lost := 0, drained := 0, aborted := 3, discarded := 0, purged := 0, cleared := false, revoked := 0, irqs := 0, released := 0, lostProofs := 0, floes := [] }) })], mbx := [(0, { Mailbox.reset with svc := some (svOf 0x300 []) })], galleys := [(0, { Galley.none with state := 4 })] })
    ((.resetPurge c : Instr).wellFormed = true) ∧ (Serving s) ∧ ((ctxOf s.dev c).reset = some j) ∧ (ctxExists s.dev c = true) ∧ (j.cleared = false) ∧ (resetReady s.dev c = true) ∧ ((ctxGalleys s.dev c).all (fun g => (galleyOf s.dev c g).done.isEmpty) = true) ∧ ((mbOf s.dev j.mbx).svc = some sv) ∧ (sv.id = j.svc) ∧ (sv.reply = none) := by
  decide +kernel

theorem witness_Orphans_1 :
    let mb : Nat := 0
    let cur : Nat := 64
    let sv : Service := { svOf 0x302 (leBytes 8 64) with hdr := 3 * 2 ^ 13 }
    let s : State := stWith (fun d => { d with mbx := [(0, { Mailbox.reset with svc := some ({ svOf 0x302 (leBytes 8 64) with hdr := 3 * 2 ^ 13 }) })], dir := [(5, ⟨0, 3, 0xFF, none⟩)], orphans := [(5, ⟨3, 7, 1, 0⟩)] })
    ((.orphanLogRead mb : Instr).wellFormed = true) ∧ (Serving s) ∧ ((mbOf s.dev mb).svc = some sv) ∧ (msgOf sv.req = 0x0302) ∧ (sv.busy = false) ∧ (sv.aside = false) ∧ (sv.reply = none) ∧ (agentOff s.dev mb = false) ∧ (sv.f 8 8 = cur) ∧ (cur % 64 = 0) ∧ (sv.f 24 4 = 0) ∧ (sv.f 28 4 = 0) ∧ (sv.zeroFrom 32 = true) ∧ (hPriv sv.hdr = 3) ∧ (mb < 12) := by
  decide +kernel

theorem witness_Orphans_2 :
    let mb : Nat := 0
    let a : Nat := 384
    let n : Nat := 10
    let sv : Service := { svOf 0x301 (leBytes 8 384 ++ leBytes 4 10 ++ [1]) with hdr := 3 * 2 ^ 13 }
    let s : State := stWith (fun d => { d with mbx := [(0, { Mailbox.reset with svc := some ({ svOf 0x301 (leBytes 8 384 ++ leBytes 4 10 ++ [1]) with hdr := 3 * 2 ^ 13 }) })], dir := [(5, ⟨0, 3, 0xFF, none⟩)], orphans := [(5, ⟨3, 7, 1, 0⟩)] })
    ((.reclaim mb : Instr).wellFormed = true) ∧ (Serving s) ∧ ((mbOf s.dev mb).svc = some sv) ∧ (msgOf sv.req = 0x0301) ∧ (sv.busy = false) ∧ (sv.aside = false) ∧ (sv.reply = none) ∧ (agentOff s.dev mb = false) ∧ (sv.f 8 8 = a) ∧ (sv.f 16 4 = n) ∧ (sv.f 20 1 ≤ 1) ∧ (sv.f 21 1 = 0) ∧ (sv.zeroFrom 23 = true) ∧ (hPriv sv.hdr = 3) ∧ (mb < 12) ∧ (a % 64 = 0) ∧ (0 < n) ∧ (n ≤ 1048576) ∧ (a + 64 * n ≤ 2 ^ 44) ∧ (s.dev.orphans.all (fun o => decide (o.1 < a / 64) || decide (a / 64 + n ≤ o.1)) = true) := by
  decide +kernel

theorem witness_Orphans_3 :
    let mb : Nat := 0
    let l : Nat := 5
    let o : Orphan := (⟨3, 7, 1, 0⟩ : Orphan)
    let b : Bytes := zeros 64
    let sv : Service := { svOf 0x301 (leBytes 8 320 ++ leBytes 4 1) with hdr := 3 * 2 ^ 13 }
    let s : State := stWith (fun d => { d with mbx := [(0, { Mailbox.reset with svc := some ({ svOf 0x301 (leBytes 8 320 ++ leBytes 4 1) with hdr := 3 * 2 ^ 13 }) })], dir := [(5, ⟨0, 3, 0xFF, none⟩)], orphans := [(5, ⟨3, 7, 1, 0⟩)], cache := [(5, ⟨zeros 64, false⟩)] })
    ((.reclaim mb : Instr).wellFormed = true) ∧ (Serving s) ∧ ((mbOf s.dev mb).svc = some sv) ∧ (msgOf sv.req = 0x0301) ∧ (sv.busy = false) ∧ (sv.aside = false) ∧ (sv.reply = none) ∧ (agentOff s.dev mb = false) ∧ (sv.f 8 8 = 64 * l) ∧ (sv.f 16 4 = 1) ∧ (sv.f 20 1 = 0) ∧ (sv.f 21 1 = 0) ∧ (sv.zeroFrom 23 = true) ∧ (hPriv sv.hdr = 3) ∧ (mb < 12) ∧ (l < 2 ^ 38) ∧ (s.dev.orphans = [(l, o)]) ∧ (floeOn s.dev (homeFloe (pageOfLine l)) = true) ∧ (tget s.dev.sliceFlips l 0 = 0) ∧ ((tget? s.dev.cache l).map (·.data) = some b) := by
  decide +kernel

theorem witness_MapAgreement_1 :
    let p : Proposal := ⟨5, { emptyMap with epoch := 5, managerCount := 3, managers := [1], nodes := [(1, ⟨1, true, false, 0, 1, 9, [], []⟩)] }⟩
    let s : State := stWith (fun d => { d with boot := { d.boot with record := some (zeros 36 ++ leBytes 2 1 ++ [0, 3] ++ zeros 472) }, mbr := { d.mbr with map := { emptyMap with managerCount := 3, managers := [1, 0xFFFF, 0xFFFF, 0xFFFF, 0xFFFF, 0xFFFF, 0xFFFF], nodes := [(1, ⟨1, true, false, 0, 1, 9, [], []⟩)] }, joined := true } })
    ((.propose p : Instr).wellFormed = true) ∧ (Serving s) ∧ (mirrorsOn s.dev = false) ∧ (isManager s.dev = true) ∧ (epochOf s.dev < p.epoch) ∧ ((s.dev.mbr.accepted.all (fun q => decide (q.epoch < p.epoch))) = true) := by
  decide +kernel

theorem witness_MapAgreement_2 :
    let n : Nat := 1
    let e : Nat := 5
    let p : Proposal := ⟨5, { emptyMap with epoch := 5, managerCount := 3, managers := [1], nodes := [(1, ⟨1, true, false, 0, 1, 9, [], []⟩)] }⟩
    let s : State := stWith (fun d => { d with boot := { d.boot with record := some (zeros 36 ++ leBytes 2 1 ++ [0, 3] ++ zeros 472) }, mbr := { d.mbr with map := { emptyMap with managerCount := 3, managers := [1, 0xFFFF, 0xFFFF, 0xFFFF, 0xFFFF, 0xFFFF, 0xFFFF], nodes := [(1, ⟨1, true, false, 0, 1, 9, [], []⟩)] }, joined := true, proposing := some ⟨5, { emptyMap with epoch := 5, managerCount := 3, managers := [1], nodes := [(1, ⟨1, true, false, 0, 1, 9, [], []⟩)] }⟩ } })
    ((.accept n e : Instr).wellFormed = true) ∧ (Serving s) ∧ (s.dev.mbr.proposing = some p) ∧ (p.epoch = e) ∧ ((managersOf s.dev.mbr.map).contains n = true) ∧ (s.dev.mbr.accepts.contains n = false) ∧ (s.dev.mbr.accepts.length + 1 < majorityOf s.dev.mbr.map) := by
  decide +kernel

theorem witness_MapAgreement_3 :
    let n : Nat := 1
    let e : Nat := 5
    let p : Proposal := ⟨5, { emptyMap with epoch := 5, managerCount := 3, managers := [1], nodes := [(1, ⟨1, true, false, 0, 1, 9, [], []⟩)] }⟩
    let s : State := stWith (fun d => { d with boot := { d.boot with record := some (zeros 36 ++ leBytes 2 1 ++ [0, 1] ++ zeros 472) }, mbr := { d.mbr with map := { emptyMap with managerCount := 1, managers := [1, 0xFFFF, 0xFFFF, 0xFFFF, 0xFFFF, 0xFFFF, 0xFFFF], nodes := [(1, ⟨1, true, false, 0, 1, 9, [], []⟩)] }, joined := true, proposing := some ⟨5, { emptyMap with epoch := 5, managerCount := 3, managers := [1], nodes := [(1, ⟨1, true, false, 0, 1, 9, [], []⟩)] }⟩ } })
    ((.accept n e : Instr).wellFormed = true) ∧ (Serving s) ∧ (mirrorsOn s.dev = false) ∧ (s.dev.mbr.proposing = some p) ∧ (p.epoch = e) ∧ (p.map.epoch = e) ∧ (epochOf s.dev < e) ∧ ((managersOf s.dev.mbr.map).contains n = true) ∧ (s.dev.mbr.accepts.contains n = false) ∧ (majorityOf s.dev.mbr.map ≤ s.dev.mbr.accepts.length + 1) ∧ (s.dev.mbr.pulls = []) ∧ (s.dev.mbr.waiting = []) := by
  decide +kernel

theorem witness_MapAgreement_4 :
    let e : Nat := 5
    let p : Proposal := ⟨5, { emptyMap with epoch := 5, managerCount := 3, managers := [1], nodes := [(1, ⟨1, true, false, 0, 1, 9, [], []⟩)] }⟩
    let s : State := stWith (fun d => { d with boot := { d.boot with record := some (zeros 36 ++ leBytes 2 1 ++ [0, 3] ++ zeros 472) }, mbr := { d.mbr with map := { emptyMap with managerCount := 3, managers := [1, 0xFFFF, 0xFFFF, 0xFFFF, 0xFFFF, 0xFFFF, 0xFFFF], nodes := [(1, ⟨1, true, false, 0, 1, 9, [], []⟩)] }, joined := true, accepted := some ⟨5, { emptyMap with epoch := 5, managerCount := 3, managers := [1], nodes := [(1, ⟨1, true, false, 0, 1, 9, [], []⟩)] }⟩ } })
    ((.commit e : Instr).wellFormed = true) ∧ (Serving s) ∧ (mirrorsOn s.dev = false) ∧ (s.dev.mbr.accepted = some p) ∧ (p.epoch = e) ∧ (epochOf s.dev < p.map.epoch) ∧ (s.dev.mbr.pulls = []) := by
  decide +kernel

theorem witness_MapAgreement_5 :
    let m : DomainMap := { emptyMap with epoch := 5, nodes := [(1, ⟨2, true, false, 0, 1, 9, [], []⟩)] }
    let s : State := stWith (fun d => { d with boot := { d.boot with record := some (zeros 36 ++ leBytes 2 1 ++ [0, 3] ++ zeros 472) }, mbr := { d.mbr with map := { emptyMap with managerCount := 3, managers := [1, 0xFFFF, 0xFFFF, 0xFFFF, 0xFFFF, 0xFFFF, 0xFFFF], nodes := [(1, ⟨1, true, false, 0, 1, 9, [], []⟩)] }, joined := true } })
    ((.mapUpdate m : Instr).wellFormed = true) ∧ (Serving s) ∧ (mirrorsOn s.dev = false) ∧ (epochOf s.dev < m.epoch) ∧ (s.dev.mbr.pulls = []) := by
  decide +kernel

theorem witness_MapAgreement_6 :
    let m : DomainMap := emptyMap
    let s : State := stWith (fun d => { d with boot := { d.boot with record := some (zeros 36 ++ leBytes 2 1 ++ [0, 3] ++ zeros 472) }, mbr := { d.mbr with map := { emptyMap with managerCount := 3, managers := [1, 0xFFFF, 0xFFFF, 0xFFFF, 0xFFFF, 0xFFFF, 0xFFFF], nodes := [(1, ⟨1, true, false, 0, 1, 9, [], []⟩)] }, joined := true } })
    ((.mapUpdate m : Instr).wellFormed = true) ∧ (Serving s) ∧ (m.epoch ≤ epochOf s.dev) := by
  decide +kernel

theorem witness_MapAgreement_7 :
    let p : Proposal := ⟨5, { emptyMap with epoch := 5, managerCount := 3, managers := [1], nodes := [(1, ⟨1, true, false, 0, 1, 9, [], []⟩)] }⟩
    let s : State := stWith (fun d => { d with boot := { d.boot with record := some (zeros 36 ++ leBytes 2 1 ++ [0, 3] ++ zeros 472) }, mbr := { d.mbr with map := { emptyMap with managerCount := 3, managers := [1, 0xFFFF, 0xFFFF, 0xFFFF, 0xFFFF, 0xFFFF, 0xFFFF], nodes := [(1, ⟨1, true, false, 0, 1, 9, [], []⟩)] }, joined := true } })
    ((.coordinatorTakeover [p] : Instr).wellFormed = true) ∧ (Serving s) ∧ (mirrorsOn s.dev = false) ∧ (isManager s.dev = true) ∧ (isCoord s.dev = true) ∧ (majorityOf s.dev.mbr.map ≤ 2) ∧ (s.dev.mbr.accepted = none) ∧ (epochOf s.dev < p.epoch) ∧ (p.map.epoch = p.epoch) ∧ (s.dev.mbr.pulls = []) ∧ (s.dev.mbr.waiting = []) := by
  decide +kernel

theorem witness_JoinAndLinkChanges_1 :
    let n : Nat := 1023
    let k : Nat := 77
    let s : State := stWith (fun d => { d with boot := { d.boot with record := some (zeros 36 ++ leBytes 2 1 ++ [0, 1] ++ zeros 472) }, mbr := { d.mbr with map := { emptyMap with managerCount := 1, managers := [1, 0xFFFF, 0xFFFF, 0xFFFF, 0xFFFF, 0xFFFF, 0xFFFF], nodes := [(1, ⟨1, true, false, 0, 1, 9, [], []⟩)] }, joined := true } })
    ((.join n k : Instr).wellFormed = true) ∧ (Serving s) ∧ (mirrorsOn s.dev = false) ∧ (isCoord s.dev = true) ∧ (hasMajority s.dev = true) ∧ (majorityOf s.dev.mbr.map ≤ 1) ∧ (s.dev.mbr.proposing = none) ∧ (s.dev.mbr.waiting = []) ∧ (s.dev.mbr.pulls = []) ∧ ((nodeOf s.dev.mbr.map n).state ≠ 1) := by
  decide +kernel

theorem witness_JoinAndLinkChanges_2 :
    let n : Nat := 1
    let l : Nat := 7
    let peer : Nat := 1023
    let up : Bool := true
    let s : State := stWith (fun d => { d with boot := { d.boot with record := some (zeros 36 ++ leBytes 2 1 ++ [0, 1] ++ zeros 472) }, mbr := { d.mbr with map := { emptyMap with managerCount := 1, managers := [1, 0xFFFF, 0xFFFF, 0xFFFF, 0xFFFF, 0xFFFF, 0xFFFF], nodes := [(1, ⟨1, true, false, 0, 1, 9, [], []⟩)] }, joined := true } })
    ((.linkChangeReport n l up peer : Instr).wellFormed = true) ∧ (Serving s) ∧ (mirrorsOn s.dev = false) ∧ (isCoord s.dev = true) ∧ (majorityOf s.dev.mbr.map ≤ 1) ∧ (s.dev.mbr.proposing = none) ∧ (s.dev.mbr.waiting = []) ∧ (s.dev.mbr.pulls = []) ∧ ((nodeOf s.dev.mbr.map n).state = 1) ∧ ((nodeOf s.dev.mbr.map n).ups.getD l false ≠ up) := by
  decide +kernel

theorem witness_JoinAndLinkChanges_3 :
    let n : Nat := 2
    let s : State := stWith (fun d => { d with boot := { d.boot with record := some (zeros 36 ++ leBytes 2 1 ++ [0, 3] ++ zeros 472) }, mbr := { d.mbr with map := { emptyMap with managerCount := 3, managers := [1, 0xFFFF, 0xFFFF, 0xFFFF, 0xFFFF, 0xFFFF, 0xFFFF], nodes := [(1, ⟨1, true, false, 0, 1, 9, [], []⟩), (2, ⟨1, false, false, 0, 1, 9, [], []⟩)] }, joined := true, probing := [2] } })
    ((.probeTimeout n : Instr).wellFormed = true) ∧ (Serving s) ∧ (mirrorsOn s.dev = false) ∧ (s.dev.mbr.probing.contains n = true) ∧ (isCoord s.dev = true) ∧ (1 < majorityOf s.dev.mbr.map) ∧ (s.dev.mbr.proposing = none) ∧ (s.dev.mbr.waiting = []) ∧ ((nodeOf s.dev.mbr.map n).state = 1) := by
  decide +kernel

theorem witness_HeartbeatsAndLease_1 :
    let l : Nat := 7
    let s : State := stWith (fun d => { d with links := [(7, { Link.reset with state := 6, peer := 2, auth := true, credit := [(3, 10)] })] })
    ((.heartbeatSend : Instr).wellFormed = true) ∧ (Serving s) ∧ (mirrorsOn s.dev = false) ∧ (l < 8) ∧ ((List.range 8).filter (linkActive s.dev) = [l]) ∧ ((linkOf s.dev l).txq = []) ∧ (0 < tget (linkOf s.dev l).credit 3 0) ∧ ((linkOf s.dev l).replay.length < 1024) := by
  decide +kernel

theorem witness_HeartbeatsAndLease_2 :
    let l : Nat := 7
    let s : State := stWith (fun d => { d with links := [(7, { { Link.reset with state := 6, peer := 2, auth := true, credit := [(3, 10)] } with suspected := true, misses := 16 })] })
    ((.heartbeat l : Instr).wellFormed = true) ∧ (Serving s) ∧ (linkActive s.dev l = true) := by
  decide +kernel

theorem witness_HeartbeatsAndLease_3 :
    let l : Nat := 0
    let s : State := stWith (fun d => { d with links := [(0, { Link.reset with state := 6, peer := 2, auth := true, credit := [(3, 10)] })] })
    ((.heartbeatMiss l : Instr).wellFormed = true) ∧ (Serving s) ∧ (mirrorsOn s.dev = false) ∧ (linkActive s.dev l = true) ∧ ((linkOf s.dev l).suspected = false) ∧ ((List.range 8).all (fun k => !twinLink s.dev k) = true) := by
  decide +kernel

theorem witness_HeartbeatsAndLease_4 :
    let n : Nat := 2
    let s : State := stWith (fun d => { d with boot := { d.boot with record := some (zeros 36 ++ leBytes 2 1 ++ [0, 1] ++ zeros 472) }, mbr := { d.mbr with map := { emptyMap with managerCount := 1, managers := [1, 0xFFFF, 0xFFFF, 0xFFFF, 0xFFFF, 0xFFFF, 0xFFFF], nodes := [(1, ⟨1, true, false, 0, 1, 9, [], []⟩), (2, ⟨1, false, false, 0, 1, 9, [], []⟩)] }, joined := true } })
    ((.suspect n : Instr).wellFormed = true) ∧ (Serving s) ∧ (mirrorsOn s.dev = false) ∧ (isCoord s.dev = true) ∧ ((nodeOf s.dev.mbr.map n).state = 1) ∧ (n ≠ selfNode s.dev) := by
  decide +kernel

theorem witness_HeartbeatsAndLease_5 :
    let n : Nat := 2
    let l : Nat := 7
    let s : State := stWith (fun d => { d with links := [(7, { Link.reset with state := 6, peer := 2, auth := true, credit := [(3, 10)] })], regs := [(0x04810008, 15)] })
    ((.probe n : Instr).wellFormed = true) ∧ (Serving s) ∧ (mirrorsOn s.dev = false) ∧ (routeLink s.dev n = some l) ∧ ((linkOf s.dev l).txq = []) ∧ (0 < tget (linkOf s.dev l).credit 3 0) ∧ ((linkOf s.dev l).replay.length < 1024) ∧ (n < 1024) ∧ (selfNode s.dev < 1024) := by
  decide +kernel

theorem witness_HeartbeatsAndLease_6 :
    let n : Nat := 3
    let s : State := stWith (fun d => { d with boot := { d.boot with record := some (zeros 36 ++ leBytes 2 1 ++ [0, 1] ++ zeros 472) }, mbr := { d.mbr with map := { emptyMap with managerCount := 1, managers := [1, 0xFFFF, 0xFFFF, 0xFFFF, 0xFFFF, 0xFFFF, 0xFFFF], nodes := [(1, ⟨1, true, false, 0, 1, 9, [], []⟩)] }, joined := true, probing := [2, 3] } })
    ((.probeReply n : Instr).wellFormed = true) ∧ (Serving s) := by
  decide +kernel

theorem witness_HeartbeatsAndLease_7 :
    let s : State := stWith (fun d => { d with boot := { d.boot with record := some (zeros 36 ++ leBytes 2 1 ++ [0, 1] ++ zeros 472) }, mbr := { d.mbr with map := { emptyMap with managerCount := 1, managers := [1, 0xFFFF, 0xFFFF, 0xFFFF, 0xFFFF, 0xFFFF, 0xFFFF], nodes := [(1, ⟨1, true, false, 0, 1, 9, [], []⟩)] }, joined := true, leaseAt := 7 } })
    ((.keepaliveSend : Instr).wellFormed = true) ∧ (Serving s) ∧ (mirrorsOn s.dev = false) ∧ (isCoord s.dev = true) := by
  decide +kernel

theorem witness_HeartbeatsAndLease_8 :
    let e : Nat := 5
    let s : State := stWith (fun d => { d with boot := { d.boot with record := some (zeros 36 ++ leBytes 2 1 ++ [0, 1] ++ zeros 472) }, mbr := { d.mbr with map := { emptyMap with managerCount := 1, managers := [1, 0xFFFF, 0xFFFF, 0xFFFF, 0xFFFF, 0xFFFF, 0xFFFF], nodes := [(1, ⟨1, true, false, 0, 1, 9, [], []⟩)] }, joined := true, leaseAt := 7 } })
    ((.keepalive e : Instr).wellFormed = true) ∧ (Serving s) ∧ (mirrorsOn s.dev = false) := by
  decide +kernel

theorem witness_HeartbeatsAndLease_9 :
    let s : State := stWith (fun d => { d with boot := { d.boot with record := some (zeros 36 ++ leBytes 2 1 ++ [0, 1] ++ zeros 472) }, mbr := { d.mbr with map := { emptyMap with managerCount := 1, managers := [1, 0xFFFF, 0xFFFF, 0xFFFF, 0xFFFF, 0xFFFF, 0xFFFF], nodes := [(1, ⟨1, true, false, 0, 1, 9, [], []⟩)] }, joined := true } })
    ((.leaseExpire : Instr).wellFormed = true) ∧ (Serving s) ∧ (mirrorsOn s.dev = false) ∧ (s.dev.mbr.joined = true) := by
  decide +kernel

theorem witness_FormesAndMapRead_1 :
    let mb : Nat := 0
    let f : Forme := ⟨0, 7⟩
    let sv : Service := { svOf 0x400 (leBytes 2 0x4000 ++ [1, 0] ++ leBytes 4 3 ++ zeros 16 ++ leBytes 2 2) with hdr := 3 * 2 ^ 13 }
    let s : State := stWith (fun d => { d with boot := { d.boot with record := some (zeros 36 ++ leBytes 2 1 ++ [0, 3] ++ zeros 472) }, mbr := { d.mbr with map := { emptyMap with managerCount := 3, managers := [0, 1, 0xFFFF, 0xFFFF, 0xFFFF, 0xFFFF, 0xFFFF, 0xFFFF], formes := [⟨7, 1, 3, [⟨1, 0, true, 0, 0, 0⟩, ⟨2, 0, true, 0, 0, 0⟩]⟩], nodes := [(1, ⟨1, true, false, 0, 1, 9, [], []⟩), (0, ⟨1, true, false, 0, 1, 9, [], []⟩)] }, joined := true, majority := true }, formes := [(0, ⟨0, 7⟩)], mbx := [(0, { Mailbox.reset with svc := some ({ svOf 0x400 (leBytes 2 0x4000 ++ [1, 0] ++ leBytes 4 3 ++ zeros 16 ++ leBytes 2 2) with hdr := 3 * 2 ^ 13 }) })] })
    ((.formeChange mb : Instr).wellFormed = true) ∧ (Serving s) ∧ (mirrorsOn s.dev = false) ∧ ((mbOf s.dev mb).svc = some sv) ∧ (msgOf sv.req = 0x0400) ∧ (sv.busy = false) ∧ (sv.aside = false) ∧ (sv.reply = none) ∧ (agentOff s.dev mb = false) ∧ (mb < 12) ∧ (formeChangeFault s.dev sv = none) ∧ (tget? s.dev.formes (sv.f 8 2 % 4096) = some f) ∧ (isCoord s.dev = false) := by
  decide +kernel

theorem witness_FormesAndMapRead_2 :
    let mb : Nat := 0
    let f : Forme := ⟨0, 7⟩
    let r : FormeRec := ⟨7, 1, 4, [⟨1, 0, true, 0, 0, 0⟩]⟩
    let sv : Service := { svOf 0x400 (leBytes 2 0x4000 ++ [1, 0] ++ leBytes 4 3 ++ zeros 16 ++ leBytes 2 2) with hdr := 3 * 2 ^ 13 }
    let s : State := stWith (fun d => { d with boot := { d.boot with record := some (zeros 36 ++ leBytes 2 1 ++ [0, 3] ++ zeros 472) }, mbr := { d.mbr with map := { emptyMap with managerCount := 3, managers := [1, 0xFFFF, 0xFFFF, 0xFFFF, 0xFFFF, 0xFFFF, 0xFFFF], formes := [⟨7, 1, 4, [⟨1, 0, true, 0, 0, 0⟩]⟩], nodes := [(1, ⟨1, true, false, 0, 1, 9, [], []⟩)] }, joined := true }, formes := [(0, ⟨0, 7⟩)], mbx := [(0, { Mailbox.reset with svc := some ({ svOf 0x400 (leBytes 2 0x4000 ++ [1, 0] ++ leBytes 4 3 ++ zeros 16 ++ leBytes 2 2) with hdr := 3 * 2 ^ 13 }) })] })
    ((.formeChange mb : Instr).wellFormed = true) ∧ (Serving s) ∧ ((mbOf s.dev mb).svc = some sv) ∧ (msgOf sv.req = 0x0400) ∧ (sv.busy = false) ∧ (sv.aside = false) ∧ (sv.reply = none) ∧ (agentOff s.dev mb = false) ∧ (mb < 12) ∧ (sv.f 10 1 = 1) ∧ (sv.f 11 1 < 2) ∧ (sv.zeroFrom 34 = true) ∧ (2 ≤ hPriv sv.hdr) ∧ (sv.f 8 2 / 4096 = 4) ∧ (tget? s.dev.formes (sv.f 8 2 % 4096) = some f) ∧ (f.ctx = hCtx sv.hdr) ∧ (s.dev.mbr.map.formes.find? (fun q => q.id = f.id) = some r) ∧ (sv.f 12 4 ≠ r.epoch) := by
  decide +kernel

theorem witness_FormesAndMapRead_3 :
    let mb : Nat := 0
    let sv : Service := { svOf 0x401 ([]) with hdr := 3 * 2 ^ 13 }
    let s : State := stWith (fun d => { d with mbx := [(0, { Mailbox.reset with svc := some ({ svOf 0x401 ([]) with hdr := 3 * 2 ^ 13 }) })] })
    ((.mapRead mb : Instr).wellFormed = true) ∧ (Serving s) ∧ ((mbOf s.dev mb).svc = some sv) ∧ (msgOf sv.req = 0x0401) ∧ (sv.busy = false) ∧ (sv.aside = false) ∧ (sv.reply = none) ∧ (agentOff s.dev mb = false) ∧ (mb < 12) ∧ (sv.zeroFrom 20 = true) ∧ (sv.f 16 4 < (mapBytes s.dev.mbr.map).length) := by
  refine ⟨?_, ?_, ?_, ?_, ?_, ?_, ?_, ?_, ?_, ?_, by simp only [mapBytes_length]; exact Nat.lt_of_lt_of_le (by decide +kernel) (Nat.le_add_right _ _)⟩ <;> decide +kernel

theorem witness_FormesAndMapRead_4 :
    let mb : Nat := 0
    let sv : Service := { svOf 0x401 (leBytes 8 4096 ++ leBytes 4 65536) with hdr := 3 * 2 ^ 13 }
    let s : State := stWith (fun d => { d with mbx := [(0, { Mailbox.reset with svc := some ({ svOf 0x401 (leBytes 8 4096 ++ leBytes 4 65536) with hdr := 3 * 2 ^ 13 }) })], ports := [(0, { Port.reset with link := 2 })] })
    ((.mapRead mb : Instr).wellFormed = true) ∧ (Serving s) ∧ (mirrorsOn s.dev = false) ∧ ((mbOf s.dev mb).svc = some sv) ∧ (msgOf sv.req = 0x0401) ∧ (sv.busy = false) ∧ (sv.aside = false) ∧ (sv.reply = none) ∧ (agentOff s.dev mb = false) ∧ (mb < 12) ∧ (sv.zeroFrom 20 = true) ∧ ((mapBytes s.dev.mbr.map).length ≤ sv.f 16 4) ∧ (linkUp (portOf s.dev (hPort sv.hdr)) = true) := by
  refine ⟨?_, ?_, ?_, ?_, ?_, ?_, ?_, ?_, ?_, ?_, ?_, by simp only [mapBytes_length]; exact Nat.le_trans (by decide +kernel : _ ≤ 65536) (by decide +kernel), ?_⟩ <;> decide +kernel

theorem witness_SequenceHandoff_1 :
    let mb : Nat := 0
    let n : Nat := 5
    let sv : Service := { svOf 0x402 (leBytes 2 0x5005 ++ [0, 0] ++ leBytes 2 9 ++ leBytes 2 3) with hdr := 3 * 2 ^ 13 }
    let x : Slot := { ctx := 0, par := zeros 64, home := 0, state := 0, epoch := 4, offer := 5, floor := 2, peerNode := 9, peerSlot := 3, attended := false, give := none, old := [] }
    let s : State := stWith (fun d => { d with mbx := [(0, { Mailbox.reset with svc := some ({ svOf 0x402 (leBytes 2 0x5005 ++ [0, 0] ++ leBytes 2 9 ++ leBytes 2 3) with hdr := 3 * 2 ^ 13 }) })], slots := [(5, { ctx := 0, par := zeros 64, home := 0, state := 0, epoch := 4, offer := 5, floor := 2, peerNode := 9, peerSlot := 3, attended := false, give := none, old := [] })] })
    ((.seqHandoffGive mb : Instr).wellFormed = true) ∧ (Serving s) ∧ (mirrorsOn s.dev = false) ∧ ((mbOf s.dev mb).svc = some sv) ∧ (msgOf sv.req = 0x0402) ∧ (sv.busy = false) ∧ (sv.aside = false) ∧ (sv.reply = none) ∧ (agentOff s.dev mb = false) ∧ (sv.f 8 2 = 0x5000 + n) ∧ (n < 4096) ∧ (sv.f 11 1 = 0) ∧ (sv.zeroFrom 16 = true) ∧ (hPriv sv.hdr = 3) ∧ (mb < 12) ∧ (tget? s.dev.slots n = some x) ∧ (x.ctx = hCtx sv.hdr) ∧ (sv.f 10 1 = 0) ∧ (sv.f 12 2 < 1024) ∧ (sv.f 14 2 < 4096) ∧ (x.state = 0) := by
  decide +kernel

theorem witness_SequenceHandoff_2 :
    let mb : Nat := 0
    let n : Nat := 5
    let sv : Service := { svOf 0x402 (leBytes 2 0x5005 ++ [0, 0] ++ leBytes 2 9 ++ leBytes 2 3) with hdr := 3 * 2 ^ 13 }
    let x : Slot := { ctx := 0, par := zeros 64, home := 0, state := 2, epoch := 4, offer := 5, floor := 2, peerNode := 9, peerSlot := 3, attended := false, give := none, old := [] }
    let s : State := stWith (fun d => { d with mbx := [(0, { Mailbox.reset with svc := some ({ svOf 0x402 (leBytes 2 0x5005 ++ [0, 0] ++ leBytes 2 9 ++ leBytes 2 3) with hdr := 3 * 2 ^ 13 }) })], slots := [(5, { ctx := 0, par := zeros 64, home := 0, state := 2, epoch := 4, offer := 5, floor := 2, peerNode := 9, peerSlot := 3, attended := false, give := none, old := [] })] })
    ((.seqHandoffGive mb : Instr).wellFormed = true) ∧ (Serving s) ∧ ((mbOf s.dev mb).svc = some sv) ∧ (msgOf sv.req = 0x0402) ∧ (sv.busy = false) ∧ (sv.aside = false) ∧ (sv.reply = none) ∧ (agentOff s.dev mb = false) ∧ (sv.f 8 2 = 0x5000 + n) ∧ (n < 4096) ∧ (sv.f 11 1 = 0) ∧ (sv.zeroFrom 16 = true) ∧ (hPriv sv.hdr = 3) ∧ (mb < 12) ∧ (tget? s.dev.slots n = some x) ∧ (x.ctx = hCtx sv.hdr) ∧ (sv.f 10 1 = 0) ∧ (sv.f 12 2 < 1024) ∧ (sv.f 14 2 < 4096) ∧ (x.state ≠ 0) := by
  decide +kernel

theorem witness_SequenceHandoff_3 :
    let mb : Nat := 0
    let n : Nat := 5
    let sv : Service := { svOf 0x402 (leBytes 2 0x5005 ++ [1, 0] ++ leBytes 2 0 ++ leBytes 2 0) with hdr := 3 * 2 ^ 13 }
    let x : Slot := { ctx := 0, par := zeros 64, home := 0, state := 4, epoch := 4, offer := 5, floor := 2, peerNode := 9, peerSlot := 3, attended := false, give := none, old := [] }
    let s : State := stWith (fun d => { d with mbx := [(0, { Mailbox.reset with svc := some ({ svOf 0x402 (leBytes 2 0x5005 ++ [1, 0] ++ leBytes 2 0 ++ leBytes 2 0) with hdr := 3 * 2 ^ 13 }) })], slots := [(5, { ctx := 0, par := zeros 64, home := 0, state := 4, epoch := 4, offer := 5, floor := 2, peerNode := 9, peerSlot := 3, attended := false, give := none, old := [] })] })
    ((.seqHandoffArm mb : Instr).wellFormed = true) ∧ (Serving s) ∧ (mirrorsOn s.dev = false) ∧ ((mbOf s.dev mb).svc = some sv) ∧ (msgOf sv.req = 0x0402) ∧ (sv.busy = false) ∧ (sv.aside = false) ∧ (sv.reply = none) ∧ (agentOff s.dev mb = false) ∧ (sv.f 8 2 = 0x5000 + n) ∧ (n < 4096) ∧ (sv.f 11 1 = 0) ∧ (sv.zeroFrom 16 = true) ∧ (hPriv sv.hdr = 3) ∧ (mb < 12) ∧ (tget? s.dev.slots n = some x) ∧ (x.ctx = hCtx sv.hdr) ∧ (sv.f 10 1 = 1) ∧ (x.state = 4 ∨ (x.state = 0 ∧ x.epoch = 0 ∧ x.attended = false)) := by
  decide +kernel

theorem witness_SequenceHandoff_4 :
    let mb : Nat := 0
    let n : Nat := 5
    let sv : Service := { svOf 0x402 (leBytes 2 0x5005 ++ [2, 0] ++ leBytes 2 0 ++ leBytes 2 0) with hdr := 3 * 2 ^ 13 }
    let x : Slot := { ctx := 0, par := zeros 64, home := 0, state := 1, epoch := 4, offer := 5, floor := 2, peerNode := 9, peerSlot := 3, attended := false, give := none, old := [] }
    let s : State := stWith (fun d => { d with mbx := [(0, { Mailbox.reset with svc := some ({ svOf 0x402 (leBytes 2 0x5005 ++ [2, 0] ++ leBytes 2 0 ++ leBytes 2 0) with hdr := 3 * 2 ^ 13 }) })], slots := [(5, { ctx := 0, par := zeros 64, home := 0, state := 1, epoch := 4, offer := 5, floor := 2, peerNode := 9, peerSlot := 3, attended := false, give := none, old := [] })] })
    ((.seqHandoffResolve mb : Instr).wellFormed = true) ∧ (Serving s) ∧ ((mbOf s.dev mb).svc = some sv) ∧ (msgOf sv.req = 0x0402) ∧ (sv.busy = false) ∧ (sv.aside = false) ∧ (sv.reply = none) ∧ (agentOff s.dev mb = false) ∧ (sv.f 8 2 = 0x5000 + n) ∧ (n < 4096) ∧ (sv.f 11 1 = 0) ∧ (sv.zeroFrom 16 = true) ∧ (hPriv sv.hdr = 3) ∧ (mb < 12) ∧ (tget? s.dev.slots n = some x) ∧ (x.ctx = hCtx sv.hdr) ∧ (sv.f 10 1 = 2) ∧ (x.state = 1) := by
  decide +kernel

theorem witness_SequenceHandoff_5 :
    let n : Nat := 5
    let mb : Nat := 0
    let sv : Service := { svOf 0x402 (leBytes 2 0x5005 ++ [0, 0] ++ leBytes 2 9 ++ leBytes 2 3) with hdr := 3 * 2 ^ 13 }
    let x : Slot := { ctx := 0, par := zeros 64, home := 0, state := 1, epoch := 4, offer := 5, floor := 2, peerNode := 9, peerSlot := 3, attended := false, give := some (0, 1), old := [] }
    let s : State := stWith (fun d => { d with mbx := [(0, { Mailbox.reset with svc := some ({ svOf 0x402 (leBytes 2 0x5005 ++ [0, 0] ++ leBytes 2 9 ++ leBytes 2 3) with hdr := 3 * 2 ^ 13 }) })], slots := [(5, { ctx := 0, par := zeros 64, home := 0, state := 1, epoch := 4, offer := 5, floor := 2, peerNode := 9, peerSlot := 3, attended := false, give := some (0, 1), old := [] })] })
    ((.giveReplyTimeout n : Instr).wellFormed = true) ∧ (Serving s) ∧ (tget? s.dev.slots n = some x) ∧ (x.give = some (mb, sv.id)) ∧ ((mbOf s.dev mb).svc = some sv) ∧ (sv.reply = none) := by
  decide +kernel

theorem witness_HandoffFrames_1 :
    let node : Nat := 9
    let n : Nat := 5
    let m : HandoffMsg := ⟨0, 7, 3, 5, 0, 0, crc32c (zeros 14)⟩
    let x : Slot := { ctx := 0, par := zeros 64, home := 0, state := 2, epoch := 4, offer := 5, floor := 2, peerNode := 9, peerSlot := 3, attended := false, give := none, old := [] }
    let s : State := stWith (fun d => { d with slots := [(5, { ctx := 0, par := zeros 64, home := 0, state := 2, epoch := 4, offer := 5, floor := 2, peerNode := 9, peerSlot := 3, attended := false, give := none, old := [] })] })
    ((.offer node m : Instr).wellFormed = true) ∧ (Serving s) ∧ (mirrorsOn s.dev = false) ∧ (m.recipient = n) ∧ (tget? s.dev.slots n = some x) ∧ (x.state = 2) ∧ (x.floor < m.epoch) ∧ (x.seqId = m.seqId) ∧ (x.shape = m.shape) := by
  decide +kernel

theorem witness_HandoffFrames_2 :
    let node : Nat := 9
    let n : Nat := 5
    let m : HandoffMsg := ⟨0, 2, 3, 5, 0, 0, crc32c (zeros 14)⟩
    let x : Slot := { ctx := 0, par := zeros 64, home := 0, state := 2, epoch := 4, offer := 5, floor := 2, peerNode := 9, peerSlot := 3, attended := false, give := none, old := [] }
    let s : State := stWith (fun d => { d with slots := [(5, { ctx := 0, par := zeros 64, home := 0, state := 2, epoch := 4, offer := 5, floor := 2, peerNode := 9, peerSlot := 3, attended := false, give := none, old := [] })] })
    ((.offer node m : Instr).wellFormed = true) ∧ (Serving s) ∧ (mirrorsOn s.dev = false) ∧ (m.recipient = n) ∧ (tget? s.dev.slots n = some x) ∧ (x.state ≠ 2 ∨ m.epoch ≤ x.floor ∨ x.seqId ≠ m.seqId ∨ x.shape ≠ m.shape) := by
  decide +kernel

theorem witness_HandoffFrames_3 :
    let node : Nat := 9
    let n : Nat := 5
    let m : HandoffMsg := ⟨0, 5, 5, 3, 0, 0, crc32c (zeros 14)⟩
    let x : Slot := { ctx := 0, par := zeros 64, home := 0, state := 1, epoch := 4, offer := 5, floor := 2, peerNode := 9, peerSlot := 3, attended := false, give := none, old := [] }
    let s : State := stWith (fun d => { d with slots := [(5, { ctx := 0, par := zeros 64, home := 0, state := 1, epoch := 4, offer := 5, floor := 2, peerNode := 9, peerSlot := 3, attended := false, give := none, old := [] })] })
    ((.ack node m : Instr).wellFormed = true) ∧ (Serving s) ∧ (mirrorsOn s.dev = false) ∧ (m.donor = n) ∧ (tget? s.dev.slots n = some x) ∧ (x.state = 1) ∧ (m.epoch = x.offer) := by
  decide +kernel

theorem witness_HandoffFrames_4 :
    let node : Nat := 9
    let n : Nat := 5
    let m : HandoffMsg := ⟨0, 5, 5, 3, 0, 0, crc32c (zeros 14)⟩
    let x : Slot := { ctx := 0, par := zeros 64, home := 0, state := 1, epoch := 4, offer := 5, floor := 2, peerNode := 9, peerSlot := 3, attended := false, give := none, old := [] }
    let s : State := stWith (fun d => { d with slots := [(5, { ctx := 0, par := zeros 64, home := 0, state := 1, epoch := 4, offer := 5, floor := 2, peerNode := 9, peerSlot := 3, attended := false, give := none, old := [] })] })
    ((.nak node m : Instr).wellFormed = true) ∧ (Serving s) ∧ (mirrorsOn s.dev = false) ∧ (m.donor = n) ∧ (tget? s.dev.slots n = some x) ∧ (x.state = 1) := by
  decide +kernel

theorem witness_HandoffFrames_5 :
    let node : Nat := 9
    let n : Nat := 5
    let m : HandoffMsg := ⟨0, 5, 3, 5, 0, 0, crc32c (zeros 14)⟩
    let x : Slot := { ctx := 0, par := zeros 64, home := 0, state := 3, epoch := 4, offer := 5, floor := 2, peerNode := 9, peerSlot := 3, attended := false, give := none, old := [] }
    let s : State := stWith (fun d => { d with slots := [(5, { ctx := 0, par := zeros 64, home := 0, state := 3, epoch := 4, offer := 5, floor := 2, peerNode := 9, peerSlot := 3, attended := false, give := none, old := [] })] })
    ((.confirm node m : Instr).wellFormed = true) ∧ (Serving s) ∧ (mirrorsOn s.dev = false) ∧ (m.recipient = n) ∧ (tget? s.dev.slots n = some x) ∧ (x.state = 3) ∧ (m.epoch = x.offer) ∧ (x.give = none) := by
  decide +kernel

theorem witness_HandoffFrames_6 :
    let node : Nat := 9
    let n : Nat := 5
    let m : HandoffMsg := ⟨0, 5, 5, 3, 0, 0, crc32c (zeros 14)⟩
    let x : Slot := { ctx := 0, par := zeros 64, home := 0, state := 1, epoch := 4, offer := 5, floor := 2, peerNode := 9, peerSlot := 3, attended := false, give := none, old := [] }
    let s : State := stWith (fun d => { d with slots := [(5, { ctx := 0, par := zeros 64, home := 0, state := 1, epoch := 4, offer := 5, floor := 2, peerNode := 9, peerSlot := 3, attended := false, give := none, old := [] })] })
    ((.query node m : Instr).wellFormed = true) ∧ (Serving s) ∧ (mirrorsOn s.dev = false) ∧ (m.donor = n) ∧ (tget? s.dev.slots n = some x) ∧ (x.state = 1) ∧ (x.seqId = m.seqId) ∧ (x.peerNode = node) ∧ (x.peerSlot = m.recipient) ∧ (x.offer = m.epoch) := by
  decide +kernel

theorem witness_HandoffFrames_7 :
    let node : Nat := 9
    let n : Nat := 5
    let m : HandoffMsg := ⟨0, 5, 5, 3, 3, 0, crc32c (zeros 14)⟩
    let x : Slot := { ctx := 0, par := zeros 64, home := 0, state := 1, epoch := 4, offer := 5, floor := 2, peerNode := 9, peerSlot := 3, attended := false, give := none, old := [] }
    let s : State := stWith (fun d => { d with slots := [(5, { ctx := 0, par := zeros 64, home := 0, state := 1, epoch := 4, offer := 5, floor := 2, peerNode := 9, peerSlot := 3, attended := false, give := none, old := [] })] })
    ((.queryReply node m : Instr).wellFormed = true) ∧ (Serving s) ∧ (mirrorsOn s.dev = false) ∧ (m.donor = n) ∧ (tget? s.dev.slots n = some x) ∧ (x.state = 1) ∧ (x.seqId = m.seqId) ∧ (x.peerNode = node) ∧ (x.peerSlot = m.recipient) ∧ (x.offer = m.epoch) ∧ (m.state = 3 ∨ m.state = 0) := by
  decide +kernel

theorem witness_HandoffFrames_8 :
    let node : Nat := 9
    let n : Nat := 5
    let m : HandoffMsg := ⟨0, 5, 5, 3, 2, 0, crc32c (zeros 14)⟩
    let x : Slot := { ctx := 0, par := zeros 64, home := 0, state := 1, epoch := 4, offer := 5, floor := 2, peerNode := 9, peerSlot := 3, attended := false, give := none, old := [] }
    let s : State := stWith (fun d => { d with slots := [(5, { ctx := 0, par := zeros 64, home := 0, state := 1, epoch := 4, offer := 5, floor := 2, peerNode := 9, peerSlot := 3, attended := false, give := none, old := [] })] })
    ((.queryReply node m : Instr).wellFormed = true) ∧ (Serving s) ∧ (mirrorsOn s.dev = false) ∧ (m.donor = n) ∧ (tget? s.dev.slots n = some x) ∧ (x.state = 1) ∧ (x.seqId = m.seqId) ∧ (x.peerNode = node) ∧ (x.peerSlot = m.recipient) ∧ (x.offer = m.epoch) ∧ (m.state = 2) := by
  decide +kernel

theorem witness_HandoffFrames_9 :
    let node : Nat := 9
    let n : Nat := 5
    let m : HandoffMsg := ⟨0, 9, 3, 5, 0, 0, crc32c (zeros 14)⟩
    let x : Slot := { ctx := 0, par := zeros 64, home := 0, state := 2, epoch := 4, offer := 5, floor := 2, peerNode := 9, peerSlot := 3, attended := false, give := none, old := [] }
    let s : State := stWith (fun d => { d with slots := [(5, { ctx := 0, par := zeros 64, home := 0, state := 2, epoch := 4, offer := 5, floor := 2, peerNode := 9, peerSlot := 3, attended := false, give := none, old := [] })] })
    ((.floor node m : Instr).wellFormed = true) ∧ (Serving s) ∧ (m.recipient = n) ∧ (tget? s.dev.slots n = some x) ∧ (x.seqId = m.seqId) := by
  decide +kernel

theorem witness_HandoffFrames_10 :
    let n : Nat := 5
    let x : Slot := { ctx := 0, par := zeros 64, home := 0, state := 1, epoch := 4, offer := 5, floor := 2, peerNode := 9, peerSlot := 3, attended := false, give := none, old := [] }
    let s : State := stWith (fun d => { d with slots := [(5, { ctx := 0, par := zeros 64, home := 0, state := 1, epoch := 4, offer := 5, floor := 2, peerNode := 9, peerSlot := 3, attended := false, give := none, old := [] })] })
    ((.handoffTimeout n : Instr).wellFormed = true) ∧ (Serving s) ∧ (mirrorsOn s.dev = false) ∧ (tget? s.dev.slots n = some x) ∧ (x.state = 1) ∧ ((nodeOf s.dev.mbr.map x.peerNode).state ≠ 2) := by
  decide +kernel

theorem witness_HandoffFrames_11 :
    let n : Nat := 5
    let x : Slot := { ctx := 0, par := zeros 64, home := 0, state := 1, epoch := 4, offer := 5, floor := 2, peerNode := 9, peerSlot := 3, attended := false, give := none, old := [] }
    let s : State := stWith (fun d => { d with slots := [(5, { ctx := 0, par := zeros 64, home := 0, state := 1, epoch := 4, offer := 5, floor := 2, peerNode := 9, peerSlot := 3, attended := false, give := none, old := [] })], mbr := { d.mbr with map := { emptyMap with nodes := [(9, ⟨2, false, false, 0, 1, 9, [], []⟩)] } } })
    ((.handoffTimeout n : Instr).wellFormed = true) ∧ (Serving s) ∧ (mirrorsOn s.dev = false) ∧ (tget? s.dev.slots n = some x) ∧ (x.state = 1) ∧ ((nodeOf s.dev.mbr.map x.peerNode).state = 2) := by
  decide +kernel

theorem witness_TwinAndWindows_1 :
    let l : Nat := 0
    let s : State := stWith (fun d => { d with mbr := { d.mbr with twin := 2 }, regs := [(0x048E0020, 1), (0x048E0108, 1)], links := [(0, { Link.reset with state := 6, peer := 2, auth := true, credit := [(3, 10)] })] })
    ((.twinLinkActive l : Instr).wellFormed = true) ∧ (Serving s) ∧ (twinLink s.dev l = true) ∧ (linkActive s.dev l = true) ∧ (s.dev.mbr.twin = 2) ∧ (mirrorOn s.dev = true) ∧ (s.dev.mbr.log = []) ∧ (s.dev.mbr.marked = []) := by
  decide +kernel

theorem witness_TwinAndWindows_2 :
    let s : State := stWith (fun d => { d with mbr := { d.mbr with twin := 1, sync := [(5, .port ⟨0, 4096, 0, 0, 0, 4096⟩)] }, regs := [(0x048E0020, 1), (0x048E0108, 1)], links := [(0, { Link.reset with state := 6, peer := 2, auth := true, credit := [(3, 10)] })] })
    ((.twinAckTimeout : Instr).wellFormed = true) ∧ (Serving s) ∧ (s.dev.mbr.sync ≠ []) ∧ (s.dev.mbr.twin = 1) := by
  decide +kernel

theorem witness_TwinAndWindows_3 :
    let s : State := stWith (fun d => { d with mbr := { d.mbr with twin := 3 }, regs := [(0x048E0020, 1), (0x048E0108, 1)], links := [(0, { Link.reset with state := 6, peer := 2, auth := true, credit := [(3, 10)] })] })
    ((.resyncDone : Instr).wellFormed = true) ∧ (Serving s) ∧ (s.dev.mbr.twin = 3) ∧ (s.dev.mbr.marked = []) ∧ (s.dev.mbr.log = []) ∧ (s.dev.fab.all (fun r => decide (r.2.owner ≠ .mirror)) = true) := by
  decide +kernel

theorem witness_TwinAndWindows_4 :
    let win : Nat := 0
    let s : State := stWith (fun d => { d with boot := { d.boot with windows := [] } })
    ((.windowOpen win : Instr).wellFormed = true) ∧ (Serving s) ∧ (windowIsOpen s.clk (latch s) win = true) ∧ (s.dev.sweep = []) ∧ (s.dev.mbr.twin ≠ 3) := by
  decide +kernel

theorem witness_CxlLinkStates_1 :
    let port : Nat := 11
    let s : State := stWith (fun d => { d with ports := [(11, { Port.reset with perst := false, link := 6 })] })
    ((.portEnable port true : Instr).wellFormed = true) ∧ (Serving s) ∧ ((portOf s.dev port).link = 6) ∧ ((portOf s.dev port).perst = false) := by
  decide +kernel

theorem witness_CxlLinkStates_2 :
    let port : Nat := 11
    let s : State := stWith (fun d => { d with ports := [(11, { Port.reset with perst := false, link := 1 })] })
    ((.portEnable port false : Instr).wellFormed = true) ∧ (Serving s) ∧ (linkUp (portOf s.dev port) = false) ∧ ((portOf s.dev port).link ≠ 5) := by
  decide +kernel

theorem witness_CxlLinkStates_3 :
    let port : Nat := 11
    let s : State := stWith (fun d => { d with ports := [(11, { Port.reset with perst := false, link := 4 })] })
    ((.portEnable port false : Instr).wellFormed = true) ∧ (Serving s) ∧ (linkUp (portOf s.dev port) = true) ∧ ((portOf s.dev port).io = []) ∧ (s.dev.dir.all (fun e => e.2.txn.isNone) = true) := by
  decide +kernel

theorem witness_CxlLinkStates_4 :
    let port : Nat := 11
    let s : State := stWith (fun d => { d with ports := [(11, { Port.reset with perst := false, link := 2, width := 16, streams := [(1, 1)] })] })
    ((.cxlLinkDown port : Instr).wellFormed = true) ∧ (Serving s) ∧ (NoRecordNow s) ∧ (linkUp (portOf s.dev port) = true) ∧ ((portOf s.dev port).io = []) ∧ (s.dev.dir.all (fun e => e.2.txn.isNone) = true) := by
  decide +kernel

theorem witness_CxlLinkStates_5 :
    let port : Nat := 11
    let form : LinkForm := ⟨true, false, true⟩
    let s : State := stWith (fun d => { d with ports := [(11, { Port.reset with perst := false, link := 1 })] })
    ((.cxlLinkUp port form : Instr).wellFormed = true) ∧ (Serving s) ∧ ((portOf s.dev port).perst = false) ∧ ((portOf s.dev port).link = 0 ∨ (portOf s.dev port).link = 1 ∨ (portOf s.dev port).link = 5) ∧ (rf s.dev (portBase port) 0 1 = 1) := by
  decide +kernel

theorem witness_CxlLinkStates_6 :
    let port : Nat := 11
    let s : State := State.reset
    ((.perstNAssert port : Instr).wellFormed = true) ∧ (s.dev.boot.held = true) ∧ (s.dev.errq.due = []) := by
  decide +kernel

theorem witness_CxlLinkStates_7 :
    let port : Nat := 11
    let s : State := stWith (fun d => { d with ports := [(11, { Port.reset with perst := false, link := 2, policy := 5, decoders := [(0, { Decoder.blank with base := 4096, ctx := some 3, uniLen := 65536 })] })] })
    ((.perstNAssert port : Instr).wellFormed = true) ∧ (Serving s) ∧ ((portOf s.dev port).perst = false) ∧ ((portOf s.dev port).link ≠ 6) ∧ ((portOf s.dev port).io = []) ∧ (s.dev.dir.all (fun e => e.2.txn.isNone) = true) := by
  decide +kernel

theorem witness_CxlLinkStates_8 :
    let port : Nat := 11
    let s : State := stUp
    ((.perstNDeassert port : Instr).wellFormed = true) ∧ (Serving s) := by
  decide +kernel

theorem witness_CxlLinkStates_9 :
    let port : Nat := 11
    let s : State := stWith (fun d => { d with ports := [(11, { Port.reset with perst := false, link := 2 })] })
    ((.l1L0pEntry port .l1 : Instr).wellFormed = true) ∧ (Serving s) ∧ ((portOf s.dev port).link = 2 ∨ (portOf s.dev port).link = 3) := by
  decide +kernel

theorem witness_CxlLinkStates_10 :
    let port : Nat := 11
    let w : Nat := 8
    let s : State := stWith (fun d => { d with ports := [(11, { Port.reset with perst := false, link := 2, flit256 := true, width := 16 })] })
    ((.l1L0pEntry port (.l0p w) : Instr).wellFormed = true) ∧ (Serving s) ∧ ((portOf s.dev port).link = 2) ∧ ((portOf s.dev port).flit256 = true) ∧ (rf s.dev (portBase port) 4 1 = 1) ∧ (w = 8 ∨ w = 4) ∧ (w < (portOf s.dev port).width) := by
  decide +kernel

theorem witness_CxlLinkStates_11 :
    let port : Nat := 11
    let s : State := stWith (fun d => { d with ports := [(11, { Port.reset with perst := false, link := 4 })] })
    ((.l1L0pEntry port .full : Instr).wellFormed = true) ∧ (Serving s) ∧ ((portOf s.dev port).link = 3 ∨ (portOf s.dev port).link = 4) := by
  decide +kernel

theorem witness_CxlioCompletions_1 :
    let port : Nat := 11
    let k : Nat := 4
    let mb : Nat := 0
    let n : Nat := 64
    let a : Nat := 0
    let ca : Nat := 0
    let b : Bytes := [1, 2]
    let sv : Service := svOf 0x100 []
    let s : State := stWith (fun d => { d with ports := [(11, { Port.reset with perst := false, link := 2, io := [(4, ⟨.param 0 1, 0, 64, false, [], 0⟩)] })], mbx := [(0, { Mailbox.reset with svc := some (svOf 0x100 []) })] })
    ((.cxlioCompletion port k (.data b) : Instr).wellFormed = true) ∧ (Serving s) ∧ (tget? (portOf s.dev port).io k = some ⟨.param mb sv.id, a, n, false, [], ca⟩) ∧ (ioSent (portOf s.dev port) k = true) ∧ ((portOf s.dev port).io.length ≤ 256) ∧ ((mbOf s.dev mb).svc = some sv) := by
  decide +kernel

theorem witness_CxlioCompletions_2 :
    let port : Nat := 11
    let k : Nat := 4
    let mb : Nat := 0
    let n : Nat := 64
    let a : Nat := 0
    let ca : Nat := 0
    let b : Bytes := zeros 64
    let d : Bytes := []
    let ans : FarAnswer := .err 0x14
    let sv : Service := { svOf 0x100 [] with busy := true, held := some (zeros 64) }
    let s : State := stWith (fun d => { d with ports := [(11, { Port.reset with perst := false, link := 2, io := [(4, ⟨.result 0 1, 0, 64, true, [], 0⟩)] })], mbx := [(0, { Mailbox.reset with svc := some { svOf 0x100 [] with busy := true, held := some (zeros 64) } })] })
    ((.cxlioCompletion port k ans : Instr).wellFormed = true) ∧ (Serving s) ∧ (tget? (portOf s.dev port).io k = some ⟨.result mb sv.id, a, n, true, d, ca⟩) ∧ (ioSent (portOf s.dev port) k = true) ∧ ((portOf s.dev port).io.length ≤ 256) ∧ ((mbOf s.dev mb).svc = some sv) ∧ (sv.held = some b) ∧ (sv.reply = none) := by
  decide +kernel

theorem witness_CxlioCompletions_3 :
    let port : Nat := 11
    let k : Nat := 4
    let mb : Nat := 0
    let n : Nat := 64
    let a : Nat := 0
    let ca : Nat := 0
    let sv : Service := svOf 0x100 []
    let s : State := stWith (fun d => { d with ports := [(11, { Port.reset with perst := false, link := 2, io := [(4, ⟨.param 0 1, 0, 64, false, [], 0⟩)] })], mbx := [(0, { Mailbox.reset with svc := some (svOf 0x100 []) })] })
    ((.cplTimeout port k : Instr).wellFormed = true) ∧ (Serving s) ∧ (tget? (portOf s.dev port).io k = some ⟨.param mb sv.id, a, n, false, [], ca⟩) ∧ (ioSent (portOf s.dev port) k = true) ∧ ((portOf s.dev port).io.length ≤ 256) ∧ ((mbOf s.dev mb).svc = some sv) := by
  decide +kernel

theorem witness_CxlioCompletions_4 :
    let port : Nat := 11
    let s : State := stWith (fun d => { d with ports := [(11, { Port.reset with perst := false, link := 2 })], galleys := [(4095, { Galley.none with state := 1 })] })
    ((.gpfPhase1 port : Instr).wellFormed = true) ∧ (Serving s) ∧ (linkUp (portOf s.dev port) = true) := by
  decide +kernel

theorem witness_CxlioCompletions_5 :
    let port : Nat := 11
    let s : State := stWith (fun d => { d with ports := [(11, { Port.reset with perst := false, link := 2 })] })
    ((.gpfPhase2 port : Instr).wellFormed = true) ∧ (Serving s) ∧ (linkUp (portOf s.dev port) = true) ∧ (durableWaits s.dev = false) := by
  decide +kernel

theorem witness_CxlioCompletions_6 :
    let port : Nat := 11
    let s : State := stWith (fun d => { d with ports := [(11, { Port.reset with perst := false, link := 2, gpfFailed := true })], dirWait := [(1088, .ncWr [] 0)], pages := [(1, { Page.unplaced with tier := 1, durable := true })] })
    ((.gpfPhase2 port : Instr).wellFormed = true) ∧ (Serving s) ∧ (linkUp (portOf s.dev port) = true) ∧ (durableWaits s.dev = true) := by
  decide +kernel

theorem witness_CxlMailbox_1 :
    let port : Nat := 11
    let s : State := stWith (fun d => { d with ports := [(11, { Port.reset with perst := false, link := 4 })] })
    ((.identifyMemoryDevice port : Instr).wellFormed = true) ∧ (Serving s) ∧ (linkUp (portOf s.dev port) = true) := by
  decide +kernel

theorem witness_CxlMailbox_2 :
    let port : Nat := 11
    let s : State := stWith (fun d => { d with ports := [(11, { Port.reset with perst := false, link := 4 })] })
    ((.getSupportedLogs port : Instr).wellFormed = true) ∧ (Serving s) ∧ (linkUp (portOf s.dev port) = true) := by
  decide +kernel

theorem witness_CxlMailbox_3 :
    let port : Nat := 11
    let s : State := stWith (fun d => { d with ports := [(11, { Port.reset with perst := false, link := 4 })] })
    ((.getLog port : Instr).wellFormed = true) ∧ (Serving s) ∧ (linkUp (portOf s.dev port) = true) := by
  decide +kernel

theorem witness_CxlMailbox_4 :
    let port : Nat := 11
    let n : Nat := 1
    let s : State := stWith (fun d => { d with ports := [(11, { Port.reset with perst := false, link := 4, events := [⟨1, 2, 3⟩, ⟨4, 5, 6⟩] })] })
    ((.getEventRecords port n : Instr).wellFormed = true) ∧ (Serving s) ∧ (linkUp (portOf s.dev port) = true) := by
  decide +kernel

theorem witness_CxlMailbox_5 :
    let port : Nat := 11
    let n : Nat := 1
    let s : State := stWith (fun d => { d with ports := [(11, { Port.reset with perst := false, link := 4, events := [⟨1, 2, 3⟩, ⟨4, 5, 6⟩] })] })
    ((.clearEventRecords port n : Instr).wellFormed = true) ∧ (Serving s) ∧ (linkUp (portOf s.dev port) = true) := by
  decide +kernel

theorem witness_CxlMailbox_6 :
    let port : Nat := 11
    let s : State := stWith (fun d => { d with ports := [(11, { Port.reset with perst := false, link := 4 })] })
    ((.getEventInterruptPolicy port : Instr).wellFormed = true) ∧ (Serving s) ∧ (linkUp (portOf s.dev port) = true) := by
  decide +kernel

theorem witness_CxlMailbox_7 :
    let port : Nat := 11
    let v : Nat := 2 ^ 40 + 0xFF0D
    let s : State := stWith (fun d => { d with ports := [(11, { Port.reset with perst := false, link := 2 })] })
    ((.setEventInterruptPolicy port v : Instr).wellFormed = true) ∧ (Serving s) ∧ (linkUp (portOf s.dev port) = true) := by
  decide +kernel

theorem witness_CxlMailbox_8 :
    let port : Nat := 11
    let s : State := stWith (fun d => { d with ports := [(11, { Port.reset with perst := false, link := 4 })] })
    ((.getHealthInfo port : Instr).wellFormed = true) ∧ (Serving s) ∧ (linkUp (portOf s.dev port) = true) := by
  decide +kernel

theorem witness_CxlMailbox_9 :
    let port : Nat := 11
    let s : State := stWith (fun d => { d with ports := [(11, { Port.reset with perst := false, link := 4 })] })
    ((.getTimestamp port : Instr).wellFormed = true) ∧ (Serving s) ∧ (linkUp (portOf s.dev port) = true) := by
  decide +kernel

theorem witness_CxlMailbox_10 :
    let port : Nat := 11
    let v : Nat := 1500000000
    let s : State := stWith (fun d => { d with ports := [(11, { Port.reset with perst := false, link := 2 })] })
    ((.setTimestamp port v : Instr).wellFormed = true) ∧ (Serving s) ∧ (linkUp (portOf s.dev port) = true) := by
  decide +kernel

theorem witness_CxlMailbox_11 :
    let port : Nat := 11
    let op : Nat := 0x83
    let s : State := stWith (fun d => { d with ports := [(11, { Port.reset with perst := false, link := 2 })] })
    ((.spdmRequest port op : Instr).wellFormed = true) ∧ (Serving s) ∧ (linkUp (portOf s.dev port) = true) ∧ (spdmKeyed op = true) ∧ (s.dev.boot.identity = false) := by
  decide +kernel

theorem witness_CxlMailbox_12 :
    let port : Nat := 11
    let s : State := stWith (fun d => { d with ports := [(11, { Port.reset with perst := false, link := 4 })] })
    ((.spdmRequest port 0x82 : Instr).wellFormed = true) ∧ (Serving s) ∧ (linkUp (portOf s.dev port) = true) := by
  decide +kernel

theorem witness_CxlMemAccess_1 :
    let ba : Nat := 65536
    let ln : Nat := 65536
    let port : Nat := 11
    let hpa : Nat := 8192
    let dec : Nat := 0
    let off : Nat := 4096
    let line : Nat := 1088
    let c : Nat := 0
    let x : Decoder := { base := 4096, size := 2 ^ 28, ways := 1, gran := 256, committed := true, locked := false, ctx := some 0, uniBase := 65536, uniLen := 65536, old := [] }
    let far : Far := []
    let y : CLine := ⟨zeros 64, true⟩
    let s : State := stWith (fun d => { d with ports := [(11, { Port.reset with perst := false, link := 2, decoders := [(0, { base := 4096, size := 2 ^ 28, ways := 1, gran := 256, committed := true, locked := false, ctx := some 0, uniBase := 65536, uniLen := 65536, old := [] })] })], pages := [(1, { Page.unplaced with tier := 1, k := 4 })], mem := [(69632, 7)], cache := [(1088, ⟨zeros 64, true⟩)] })
    ((.cxlMemRead port hpa far : Instr).wellFormed = true) ∧ (Serving s) ∧ (linkUp (portOf s.dev port) = true) ∧ ((portOf s.dev port).streams = []) ∧ (hpa % 64 = 0) ∧ (s.dev.boot.failed = false) ∧ (s.dev.sw.recovering = false) ∧ (decodeHpa (portOf s.dev port) hpa = some (dec, x, off)) ∧ (x.binding = (some c, ba, ln)) ∧ (off < ln) ∧ (s.dev.pathBad.contains line = false) ∧ (tget s.dev.sliceFlips line 0 = 0) ∧ (tget s.dev.dirFlips line 0 = 0) ∧ (portLoad s.dev port false < 512) ∧ (line = (ba + off) / 64) ∧ (floeOn s.dev (homeFloe (pageOfLine line)) = true) ∧ ((pageOf s.dev (pageOfLine line)).tier = 1 ∨ (pageOf s.dev (pageOfLine line)).tier = 2) ∧ ((pageOf s.dev (pageOfLine line)).region = false) ∧ ((pageOf s.dev (pageOfLine line)).owner = c) ∧ ((pageOf s.dev (pageOfLine line)).mot = false) ∧ (tget? s.dev.dir line = none) ∧ (tget? s.dev.cache line = some y) := by
  decide +kernel

theorem witness_CxlMemAccess_2 :
    let ba : Nat := 65536
    let ln : Nat := 65536
    let port : Nat := 11
    let hpa : Nat := 8192
    let dec : Nat := 0
    let off : Nat := 4096
    let line : Nat := 1088
    let c : Nat := 0
    let x : Decoder := { base := 4096, size := 2 ^ 28, ways := 1, gran := 256, committed := true, locked := false, ctx := some 0, uniBase := 65536, uniLen := 65536, old := [] }
    let far : Far := []
    let s : State := stWith (fun d => { d with ports := [(11, { Port.reset with perst := false, link := 2, decoders := [(0, { base := 4096, size := 2 ^ 28, ways := 1, gran := 256, committed := true, locked := false, ctx := some 0, uniBase := 65536, uniLen := 65536, old := [] })] })], pages := [(1, { Page.unplaced with tier := 1, k := 4 })], mem := [(69632, 7)] })
    ((.cxlMemRead port hpa far : Instr).wellFormed = true) ∧ (Serving s) ∧ (linkUp (portOf s.dev port) = true) ∧ ((portOf s.dev port).streams = []) ∧ (hpa % 64 = 0) ∧ (s.dev.boot.failed = false) ∧ (s.dev.sw.recovering = false) ∧ (decodeHpa (portOf s.dev port) hpa = some (dec, x, off)) ∧ (x.binding = (some c, ba, ln)) ∧ (off < ln) ∧ (s.dev.pathBad.contains line = false) ∧ (tget s.dev.sliceFlips line 0 = 0) ∧ (tget s.dev.dirFlips line 0 = 0) ∧ (portLoad s.dev port false < 512) ∧ (line = (ba + off) / 64) ∧ (floeOn s.dev (homeFloe (pageOfLine line)) = true) ∧ ((pageOf s.dev (pageOfLine line)).tier = 1 ∨ (pageOf s.dev (pageOfLine line)).tier = 2) ∧ ((pageOf s.dev (pageOfLine line)).region = false) ∧ ((pageOf s.dev (pageOfLine line)).owner = c) ∧ ((pageOf s.dev (pageOfLine line)).mot = false) ∧ (tget? s.dev.dir line = none) ∧ (tget? s.dev.cache line = none) ∧ ((pageOf s.dev (pageOfLine line)).packed = false) ∧ (s.dev.media = []) ∧ ((setLines s.dev line).length < 16) ∧ (rf s.dev (floeBase (homeFloe (pageOfLine line)) + 0x130000) 0 1 = 1) := by
  decide +kernel

theorem witness_CxlMemAccess_3 :
    let ba : Nat := 65536
    let ln : Nat := 65536
    let port : Nat := 11
    let hpa : Nat := 8192
    let dec : Nat := 0
    let off : Nat := 4096
    let line : Nat := 1088
    let c : Nat := 0
    let x : Decoder := { base := 4096, size := 2 ^ 28, ways := 1, gran := 256, committed := true, locked := false, ctx := some 0, uniBase := 65536, uniLen := 65536, old := [] }
    let far : Far := []
    let bytes : List Byte := List.replicate 64 5
    let mask : BitVec 64 := (3#64)
    let y : CLine := ⟨zeros 64, false⟩
    let s : State := stWith (fun d => { d with ports := [(11, { Port.reset with perst := false, link := 2, decoders := [(0, { base := 4096, size := 2 ^ 28, ways := 1, gran := 256, committed := true, locked := false, ctx := some 0, uniBase := 65536, uniLen := 65536, old := [] })] })], pages := [(1, { Page.unplaced with tier := 1, k := 4 })], mem := [(69632, 7)], cache := [(1088, ⟨zeros 64, false⟩)] })
    ((.cxlMemWrite port hpa bytes mask far : Instr).wellFormed = true) ∧ (Serving s) ∧ (linkUp (portOf s.dev port) = true) ∧ ((portOf s.dev port).streams = []) ∧ (hpa % 64 = 0) ∧ (s.dev.boot.failed = false) ∧ (s.dev.sw.recovering = false) ∧ (decodeHpa (portOf s.dev port) hpa = some (dec, x, off)) ∧ (x.binding = (some c, ba, ln)) ∧ (off < ln) ∧ (s.dev.pathBad.contains line = false) ∧ (tget s.dev.sliceFlips line 0 = 0) ∧ (tget s.dev.dirFlips line 0 = 0) ∧ (portLoad s.dev port false < 512) ∧ (line = (ba + off) / 64) ∧ (floeOn s.dev (homeFloe (pageOfLine line)) = true) ∧ ((pageOf s.dev (pageOfLine line)).tier = 1 ∨ (pageOf s.dev (pageOfLine line)).tier = 2) ∧ ((pageOf s.dev (pageOfLine line)).region = false) ∧ ((pageOf s.dev (pageOfLine line)).owner = c) ∧ ((pageOf s.dev (pageOfLine line)).mot = false) ∧ (tget? s.dev.dir line = none) ∧ (tget? s.dev.cache line = some y) ∧ (y.data.length = 64) ∧ ((pageOf s.dev (pageOfLine line)).packed = false) ∧ ((pageOf s.dev (pageOfLine line)).durable = false) ∧ ((pageOf s.dev (pageOfLine line)).twin = false) ∧ (portLoad s.dev port true < 256) := by
  decide +kernel

theorem witness_CxlMemAccess_4 :
    let port : Nat := 11
    let hpa : Nat := 0
    let far : Far := []
    let s : State := stWith (fun d => { d with ports := [(11, { Port.reset with perst := false, link := 2 })] })
    ((.cxlMemRead port hpa far : Instr).wellFormed = true) ∧ (Serving s) ∧ (NoRecordNow s) ∧ (linkUp (portOf s.dev port) = true) ∧ (hpa % 64 = 0) ∧ (s.dev.boot.failed = false) ∧ (s.dev.sw.recovering = false) ∧ (decodeHpa (portOf s.dev port) hpa = none) ∧ ((portOf s.dev port).failValid = false) ∧ (s.dev.rates = []) ∧ (portLoad s.dev port false < 512) := by
  decide +kernel

theorem witness_CxlMemAccess_5 :
    let port : Nat := 11
    let e : Nat := 2047
    let s : State := stWith (fun d => { d with ports := [(11, { Port.reset with perst := false, link := 2, vecs := [(2047, ⟨true, true, false, 0, 0⟩)] })] })
    ((.msixVectorUnmask port e : Instr).wellFormed = true) ∧ (Serving s) ∧ ((vecOf (portOf s.dev port) e).pend = true) ∧ ((portOf s.dev port).funcMask = false) ∧ (linkUp (portOf s.dev port) = true) := by
  decide +kernel

theorem witness_CxlMemAccess_6 :
    let port : Nat := 11
    let e : Nat := 16
    let s : State := stWith (fun d => { d with ports := [(11, { Port.reset with perst := false, link := 2 })] })
    ((.msixVectorUnmask port e : Instr).wellFormed = true) ∧ (Serving s) ∧ ((vecOf (portOf s.dev port) e).pend = false) := by
  decide +kernel

theorem witness_LinkStates_1 :
    let l : Nat := 7
    let s : State := stWith (fun d => { d with links := [(7, { Link.reset with state := 1 })] })
    ((.linkSignalDetect l : Instr).wellFormed = true) ∧ (Serving s) ∧ ((linkOf s.dev l).state = 1) := by
  decide +kernel

theorem witness_LinkStates_2 :
    let l : Nat := 7
    let s : State := stWith (fun d => { d with links := [(7, { Link.reset with state := 2 })] })
    ((.phyTrainDone l : Instr).wellFormed = true) ∧ (Serving s) ∧ ((linkOf s.dev l).state = 2) := by
  decide +kernel

theorem witness_LinkStates_3 :
    let l : Nat := 7
    let s : State := stWith (fun d => { d with links := [(7, { Link.reset with state := 2 })] })
    ((.phyTrainTimeout l : Instr).wellFormed = true) ∧ (Serving s) ∧ (NoRecordNow s) ∧ (mirrorsOn s.dev = false) ∧ ((linkOf s.dev l).state = 2) ∧ (s.dev.mbr.joined = false ∨ isCoord s.dev = false) := by
  decide +kernel

theorem witness_LinkStates_4 :
    let l : Nat := 7
    let lanes : Nat := 0xFF
    let s : State := stWith (fun d => { d with links := [(7, { Link.reset with state := 3 })] })
    ((.fecLockDone l lanes : Instr).wellFormed = true) ∧ (Serving s) ∧ ((linkOf s.dev l).state = 3) ∧ (lanes = 0xFF) ∧ (bitOf (rv s.dev (linkBase l)) 1 = false) := by
  decide +kernel

theorem witness_LinkStates_5 :
    let l : Nat := 7
    let lanes : Nat := 0x1F
    let s : State := stWith (fun d => { d with links := [(7, { Link.reset with state := 3 })] })
    ((.fecLockDone l lanes : Instr).wellFormed = true) ∧ (Serving s) ∧ ((linkOf s.dev l).state = 3) ∧ (lanes % 16 = 0xF) ∧ (lanes ≠ 0xFF ∨ bitOf (rv s.dev (linkBase l)) 1 = true) := by
  decide +kernel

theorem witness_LinkStates_6 :
    let l : Nat := 7
    let s : State := stWith (fun d => { d with links := [(7, { Link.reset with state := 3 })] })
    ((.fecLockTimeout l : Instr).wellFormed = true) ∧ (Serving s) ∧ (NoRecordNow s) ∧ (mirrorsOn s.dev = false) ∧ ((linkOf s.dev l).state = 3) ∧ (s.dev.mbr.joined = false ∨ isCoord s.dev = false) := by
  decide +kernel

theorem witness_LinkStates_7 :
    let l : Nat := 7
    let p : ParamInfo := ⟨9, 3, 1, 0, [4, 4, 4, 4], 11, 12⟩
    let s : State := stWith (fun d => { d with links := [(7, { Link.reset with state := 4, txSeq := 9 })] })
    ((.paramExchangeDone l p : Instr).wellFormed = true) ∧ (Serving s) ∧ ((linkOf s.dev l).state = 4) ∧ (paramOk s.dev l p = true) := by
  decide +kernel

theorem witness_LinkStates_8 :
    let l : Nat := 7
    let p : ParamInfo := ⟨9, 3, 2, 0, [], 0, 0⟩
    let s : State := stWith (fun d => { d with links := [(7, { Link.reset with state := 4 })] })
    ((.paramExchangeDone l p : Instr).wellFormed = true) ∧ (Serving s) ∧ (NoRecordNow s) ∧ (mirrorsOn s.dev = false) ∧ ((linkOf s.dev l).state = 4) ∧ (p.version ≠ 1) ∧ (s.dev.mbr.joined = false ∨ isCoord s.dev = false) := by
  decide +kernel

theorem witness_LinkStates_9 :
    let l : Nat := 7
    let k : Nat := 0
    let s : State := stWith (fun d => { d with links := [(7, { Link.reset with state := 5, peer := 9 })], boot := { d.boot with identity := true }, mbr := { d.mbr with joined := true } })
    ((.authDone l k true : Instr).wellFormed = true) ∧ (Serving s) ∧ (mirrorsOn s.dev = false) ∧ ((linkOf s.dev l).state = 5) ∧ (twinLink s.dev l = false) ∧ ((nodeOf s.dev.mbr.map (linkOf s.dev l).peer).keyId = k) ∧ (s.dev.boot.identity = true) ∧ (s.dev.mbr.joined = true) ∧ (isCoord s.dev = false) := by
  decide +kernel

theorem witness_LinkStates_10 :
    let l : Nat := 7
    let k : Nat := 0
    let s : State := stWith (fun d => { d with links := [(7, { Link.reset with state := 5 })] })
    ((.authDone l k false : Instr).wellFormed = true) ∧ (Serving s) ∧ (NoRecordNow s) ∧ (mirrorsOn s.dev = false) ∧ ((linkOf s.dev l).state = 5) := by
  decide +kernel

theorem witness_LinkStates_11 :
    let l : Nat := 7
    let s : State := stWith (fun d => { d with links := [(7, { Link.reset with state := 8, lanes := 0xF0 })] })
    ((.authFailedTimer l : Instr).wellFormed = true) ∧ (Serving s) ∧ ((linkOf s.dev l).state = 8) := by
  decide +kernel

theorem witness_LinkStates_12 :
    let l : Nat := 7
    let s : State := stWith (fun d => { d with links := [(7, { Link.reset with state := 0 })], boot := { d.boot with edgeReady := true } })
    ((.linkEnable l true : Instr).wellFormed = true) ∧ (Serving s) ∧ ((linkOf s.dev l).state = 0) ∧ (s.dev.boot.edgeReady = true) ∧ (s.dev.boot.failed = false) ∧ (s.dev.boot.bootMode ≠ 2) := by
  decide +kernel

theorem witness_LinkStates_13 :
    let l : Nat := 7
    let s : State := stWith (fun d => { d with links := [(7, { Link.reset with state := 5 })] })
    ((.linkEnable l false : Instr).wellFormed = true) ∧ (Serving s) ∧ ((linkOf s.dev l).state ≠ 0) ∧ ((linkOf s.dev l).state ≠ 6) ∧ ((linkOf s.dev l).state ≠ 7) := by
  decide +kernel

theorem witness_LinkStates_14 :
    let l : Nat := 7
    let s : State := stWith (fun d => { d with links := [(7, { Link.reset with state := 6, txSeq := 5, replay := [(4, [], 2)] })] })
    ((.linkRetrain l : Instr).wellFormed = true) ∧ (Serving s) ∧ (NoRecordNow s) ∧ (mirrorsOn s.dev = false) ∧ ((linkOf s.dev l).state = 6) ∧ ((linkOf s.dev l).txq = []) := by
  decide +kernel

theorem witness_LinkStates_15 :
    let l : Nat := 7
    let s : State := stWith (fun d => { d with links := [(7, { Link.reset with state := 7, txSeq := 5, replay := [(4, [], 2)] })] })
    ((.retrainDone l : Instr).wellFormed = true) ∧ (Serving s) ∧ (mirrorsOn s.dev = false) ∧ ((linkOf s.dev l).state = 7) ∧ ((linkOf s.dev l).txq = []) ∧ ((linkOf s.dev l).tx = []) := by
  decide +kernel

theorem witness_LinkStates_16 :
    let l : Nat := 7
    let s : State := stWith (fun d => { d with links := [(7, { Link.reset with state := 7, auth := true })] })
    ((.retrainTimeout l : Instr).wellFormed = true) ∧ (Serving s) ∧ (mirrorsOn s.dev = false) ∧ ((linkOf s.dev l).state = 7) ∧ ((linkOf s.dev l).txq = []) ∧ (s.dev.mbr.joined = false ∨ isCoord s.dev = false) ∧ ((List.range 8).all (fun k => !twinLink s.dev k) = true) := by
  decide +kernel

theorem witness_LinkStates_17 :
    let l : Nat := 7
    let s : State := stWith (fun d => { d with links := [(7, { Link.reset with state := 6, auth := true })] })
    ((.linkSignalLoss l : Instr).wellFormed = true) ∧ (Serving s) ∧ (mirrorsOn s.dev = false) ∧ ((linkOf s.dev l).state = 6) ∧ ((linkOf s.dev l).txq = []) ∧ (s.dev.mbr.joined = false ∨ isCoord s.dev = false) ∧ ((List.range 8).all (fun k => !twinLink s.dev k) = true) := by
  decide +kernel

theorem witness_LinkStates_18 :
    let l : Nat := 7
    let n : Nat := 8
    let q : Nat := 4
    let b : Bytes := []
    let r : List (Nat × Bytes × Nat) := []
    let s : State := stWith (fun d => { d with links := [(7, { Link.reset with state := 6, replay := [(4, [], 8)] })] })
    ((.replayLimitReached l : Instr).wellFormed = true) ∧ (Serving s) ∧ (NoRecordNow s) ∧ (mirrorsOn s.dev = false) ∧ ((linkOf s.dev l).state = 6) ∧ ((linkOf s.dev l).replay = (q, b, n) :: r) ∧ (replayLimit s.dev l ≤ n) ∧ ((linkOf s.dev l).txq = []) := by
  decide +kernel

theorem witness_FlitsAndFrames_1 :
    let l : Nat := 7
    let b : List Byte := zeros 511
    let s : State := stWith (fun d => { d with links := [(7, { Link.reset with state := 6 })] })
    ((.flitReceive l b : Instr).wellFormed = true) ∧ (Serving s) ∧ (mirrorsOn s.dev = false) ∧ ((linkOf s.dev l).state = 6) ∧ (b.length ≠ 512 ∨ crc64 (b.take 504) ≠ fieldAt b 504 8 ∨ fieldAt b 0 2 % 4096 ≠ (linkOf s.dev l).rxSeq) ∧ ((linkOf s.dev l).replay.length < 1024) := by
  decide +kernel

theorem witness_FlitsAndFrames_2 :
    let l : Nat := 7
    let b : List Byte := (leBytes 2 4095 ++ leBytes 2 3 ++ [1, 2, 3, 4] ++ zeros 496) ++ leBytes 8 (crc64 (leBytes 2 4095 ++ leBytes 2 3 ++ [1, 2, 3, 4] ++ zeros 496))
    let s : State := stWith (fun d => { d with links := [(7, { Link.reset with state := 6, rxSeq := 4095, replay := [(2, [], 0), (3, [], 0), (4, [], 0)] })] })
    ((.flitReceive l b : Instr).wellFormed = true) ∧ (Serving s) ∧ (mirrorsOn s.dev = false) ∧ ((linkOf s.dev l).state = 6) ∧ (b.length = 512) ∧ (crc64 (b.take 504) = fieldAt b 504 8) ∧ (fieldAt b 0 2 % 4096 = (linkOf s.dev l).rxSeq) ∧ (bitOf (fieldAt b 2 2) 12 = false) ∧ ((linkOf s.dev l).txq = []) ∧ ((linkOf s.dev l).tx = []) ∧ (allZero (slice b 8 496) = true) ∧ ((linkOf s.dev l).part = []) := by
  decide +kernel

theorem witness_FlitsAndFrames_3 :
    let l : Nat := 7
    let q : Nat := 4
    let n : Nat := 7
    let b : Bytes := []
    let s : State := stWith (fun d => { d with links := [(7, { Link.reset with state := 6, replay := [(4, [], 7)] })] })
    ((.flitAckTimeout l : Instr).wellFormed = true) ∧ (Serving s) ∧ (mirrorsOn s.dev = false) ∧ ((linkOf s.dev l).state = 6) ∧ ((linkOf s.dev l).replay = [(q, b, n)]) ∧ (n < replayLimit s.dev l) := by
  decide +kernel

theorem witness_FlitsAndFrames_4 :
    let l : Nat := 7
    let n : Nat := 8
    let q : Nat := 4
    let b : Bytes := []
    let r : List (Nat × Bytes × Nat) := []
    let s : State := stWith (fun d => { d with links := [(7, { Link.reset with state := 6, replay := [(4, [], 8)] })] })
    ((.flitAckTimeout l : Instr).wellFormed = true) ∧ (Serving s) ∧ (NoRecordNow s) ∧ (mirrorsOn s.dev = false) ∧ ((linkOf s.dev l).state = 6) ∧ ((linkOf s.dev l).replay = (q, b, n) :: r) ∧ (replayLimit s.dev l ≤ n) ∧ ((linkOf s.dev l).txq = []) := by
  decide +kernel

theorem witness_FlitsAndFrames_5 :
    let l : Nat := 7
    let b : Bytes := zeros 40
    let r : List Bytes := []
    let n : Nat := 1
    let s : State := stWith (fun d => { d with links := [(7, { Link.reset with state := 6, rx := [zeros 40] })], sw := { d.sw with mirTail := 16 }, regs := [(0x04802000, 551 + 2 ^ 16)] })
    ((.frameReceive l : Instr).wellFormed = true) ∧ (Serving s) ∧ ((linkOf s.dev l).rx = b :: r) ∧ (s.dev.sw.recovering = false) ∧ (s.dev.sw.waiting.any (fun w => w.1 == 12 + l) = false) ∧ (openOf s.dev.errq 8 0 = none) ∧ (frameCrcOk b = false) ∧ ((List.range 3).all (fun n => !bitOf (rv s.dev (0x04802000 + (n + 1) * 0x40)) 0) = true) ∧ (selects s.dev 0 (linkSeen l 0 b) = true) ∧ (n = (tget s.dev.sw.mirCount 0 0 + 1) % 2 ^ 32) ∧ (n % 2 ^ (rf s.dev 0x04802000 16 4) ≠ 0) := by
  decide +kernel

theorem witness_FlitsAndFrames_6 :
    let l : Nat := 7
    let b : Bytes := zeros 40
    let r : List Bytes := []
    let n : Nat := 1
    let s : State := stWith (fun d => { d with links := [(7, { Link.reset with state := 6, rx := [zeros 40] })], sw := { d.sw with mirTail := 16 }, regs := [(0x04802000, 551)] })
    ((.frameReceive l : Instr).wellFormed = true) ∧ (Serving s) ∧ ((linkOf s.dev l).rx = b :: r) ∧ (s.dev.sw.recovering = false) ∧ (s.dev.sw.waiting.any (fun w => w.1 == 12 + l) = false) ∧ (openOf s.dev.errq 8 0 = none) ∧ (frameCrcOk b = false) ∧ ((List.range 3).all (fun n => !bitOf (rv s.dev (0x04802000 + (n + 1) * 0x40)) 0) = true) ∧ (selects s.dev 0 (linkSeen l 0 b) = true) ∧ (n = (tget s.dev.sw.mirCount 0 0 + 1) % 2 ^ 32) ∧ (n % 2 ^ (rf s.dev 0x04802000 16 4) = 0) ∧ (2 ^ max 4 (min 20 (rf s.dev 0x04802108 0 5)) ≤ (s.dev.sw.mirTail + 2 ^ 32 - rf s.dev 0x04802118 0 32) % 2 ^ 32) := by
  decide +kernel

theorem witness_FlitsAndFrames_7 :
    let l : Nat := 7
    let b : Bytes := zeros 40
    let r : List Bytes := []
    let n : Nat := 1
    let s : State := stWith (fun d => { d with links := [(7, { Link.reset with state := 6, rx := [zeros 40] })], sw := { d.sw with mirTail := 15 }, regs := [(0x04802000, 551)], pages := [(0, { Page.unplaced with tier := 1 })] })
    ((.frameReceive l : Instr).wellFormed = true) ∧ (Serving s) ∧ ((linkOf s.dev l).rx = b :: r) ∧ (s.dev.sw.recovering = false) ∧ (s.dev.sw.waiting.any (fun w => w.1 == 12 + l) = false) ∧ (openOf s.dev.errq 8 0 = none) ∧ (frameCrcOk b = false) ∧ ((List.range 3).all (fun n => !bitOf (rv s.dev (0x04802000 + (n + 1) * 0x40)) 0) = true) ∧ (selects s.dev 0 (linkSeen l 0 b) = true) ∧ (n = (tget s.dev.sw.mirCount 0 0 + 1) % 2 ^ 32) ∧ (n % 2 ^ (rf s.dev 0x04802000 16 4) = 0) ∧ (¬ (2 ^ max 4 (min 20 (rf s.dev 0x04802108 0 5)) ≤ (s.dev.sw.mirTail + 2 ^ 32 - rf s.dev 0x04802118 0 32) % 2 ^ 32)) ∧ ((pageOf s.dev ((bits (rv s.dev 0x04802100) 0 44 + 512 * (s.dev.sw.mirTail % 2 ^ max 4 (min 20 (rf s.dev 0x04802108 0 5)))) / 65536)).tier = 1 ∨ (pageOf s.dev ((bits (rv s.dev 0x04802100) 0 44 + 512 * (s.dev.sw.mirTail % 2 ^ max 4 (min 20 (rf s.dev 0x04802108 0 5)))) / 65536)).tier = 2) ∧ (cellsOf b.length ≤ sharedCells s.dev) := by
  decide +kernel

theorem witness_FlitsAndFrames_8 :
    let l : Nat := 7
    let b : Bytes := zeros 40
    let r : List Bytes := []
    let s : State := stWith (fun d => { d with links := [(7, { Link.reset with state := 6, rx := [zeros 40] })] })
    ((.frameReceive l : Instr).wellFormed = true) ∧ (Serving s) ∧ (mirrorsOn s.dev = false) ∧ ((linkOf s.dev l).rx = b :: r) ∧ (s.dev.sw.recovering = false) ∧ (s.dev.sw.waiting.any (fun w => w.1 == 12 + l) = false) ∧ (openOf s.dev.errq 8 0 = none) ∧ (frameCrcOk b = false) ∧ ((List.range 4).all (fun n => !bitOf (rv s.dev (0x04802000 + n * 0x40)) 0) = true) := by
  decide +kernel

theorem witness_FlitsAndFrames_9 :
    let l : Nat := 7
    let b : Bytes := (frameBytes ⟨2, false, false, 1, 0, 1, 9, 0, 0, 0, 0x5000, 0, []⟩)
    let r : List Bytes := []
    let s : State := stWith (fun d => { d with links := [(7, { Link.reset with state := 6, rx := [frameBytes ⟨2, false, false, 1, 0, 1, 9, 0, 0, 0, 0x5000, 0, []⟩] })] })
    ((.frameReceive l : Instr).wellFormed = true) ∧ (Serving s) ∧ (mirrorsOn s.dev = false) ∧ ((linkOf s.dev l).rx = b :: r) ∧ (s.dev.sw.recovering = false) ∧ (s.dev.sw.waiting.any (fun w => w.1 == 12 + l) = false) ∧ (frameCrcOk b = true) ∧ (frameMalformed b = false) ∧ ((parseFrame b).dst = selfNode s.dev) ∧ ((parseFrame b).cls = 2) ∧ (twinLink s.dev l = false) ∧ ((List.range 4).all (fun n => !bitOf (rv s.dev (0x04802000 + n * 0x40)) 0) = true) := by
  decide +kernel

theorem witness_SwitchCells_1 :
    let sp : Nat := 24
    let c : Cell := ⟨7, 3, 6, 0, 2, true, [], 0, 0, 0⟩
    let s : State := stUp
    ((.cellReceive sp c : Instr).wellFormed = true) ∧ (Serving s) ∧ (c.ok = true) ∧ (1 < c.count) ∧ (tget? s.dev.sw.frames (frameKey sp c.frame) = none) ∧ (cellRoom s.dev c.output c.cls = true) ∧ (s.dev.sw.waiting = []) ∧ (s.dev.sw.bufs = []) ∧ (s.dev.sw.frames = []) ∧ (s.dev.sw.staged = []) ∧ (sp < 12 ∨ 20 ≤ sp ∨ (linkOf s.dev (sp - 12)).withheld = []) ∧ (bitOf (rf s.dev (0x04800100 + 4 * c.output) 0 8) c.cls = false) := by
  decide +kernel

theorem witness_SwitchCells_2 :
    let sp : Nat := 24
    let c : Cell := ⟨7, 19, 1, 0, 2, false, [], 0, 0, 0⟩
    let s : State := stUp
    ((.cellReceive sp c : Instr).wellFormed = true) ∧ (Serving s) ∧ (NoRecordNow s) ∧ (c.ok = false) ∧ (1 < c.count) ∧ (c.output < 20) ∧ (12 ≤ c.output ∨ (c.cls ≠ 3 ∧ c.cls ≠ 4)) ∧ (mirrorsOn s.dev = false) ∧ (tget? s.dev.sw.frames (frameKey sp c.frame) = none) := by
  decide +kernel

theorem witness_SwitchCells_3 :
    let sp : Nat := 5
    let n : Nat := 7
    let o : Nat := 3
    let q : Nat := 1
    let i : Nat := 1
    let f : SwFrame := ⟨5, 3, 1, 2, [], [], 0, false, false, 0, 128, 0, 0, 0, zeros 256⟩
    let s : State := stWith (fun d => { d with sw := { d.sw with waiting := [(5, 7, 3, 1, 1)], frames := [(frameKey 5 7, ⟨5, 3, 1, 2, [], [], 0, false, false, 0, 128, 0, 0, 0, zeros 256⟩)] } })
    ((.cellAdmit sp : Instr).wellFormed = true) ∧ (Serving s) ∧ (s.dev.sw.waiting = [(sp, n, o, q, i)]) ∧ (cellRoom s.dev o q = true) ∧ (s.dev.sw.frames = [(frameKey sp n, f)]) ∧ (f.aborted = false) ∧ (f.cut = false) ∧ (inOrder { f with got := f.got ++ [i] } < f.cells) ∧ (s.dev.sw.bufs = []) ∧ (s.dev.sw.staged = []) ∧ (sp < 12 ∨ 20 ≤ sp ∨ (linkOf s.dev (sp - 12)).withheld = []) ∧ (f.output = o) ∧ (f.cls = q) := by
  decide +kernel

theorem witness_SwitchCells_4 :
    let k : Nat := 131071
    let b : CellBuf := ⟨1, false, false, false⟩
    let s : State := stWith (fun d => { d with sw := { d.sw with bufs := [(131071, ⟨1, false, false, false⟩)] } })
    ((.auditPass : Instr).wellFormed = true) ∧ (Serving s) ∧ (rf s.dev 0x04800000 0 1 = 1) ∧ (s.dev.sw.bufs = [(k, b)]) ∧ (b.holder = false) ∧ (b.suspect = false) := by
  decide +kernel

theorem witness_SwitchCells_5 :
    let k : Nat := 0
    let b : CellBuf := ⟨1, false, false, true⟩
    let s : State := stWith (fun d => { d with sw := { d.sw with bufs := [(0, ⟨1, false, false, true⟩)] } })
    ((.auditPass : Instr).wellFormed = true) ∧ (Serving s) ∧ (NoRecordNow s) ∧ (rf s.dev 0x04800000 0 1 = 1) ∧ (s.dev.sw.bufs = [(k, b)]) ∧ (b.holder = false) ∧ (b.suspect = true) := by
  decide +kernel

theorem witness_SwitchCells_6 :
    let k : Nat := 0
    let b : CellBuf := ⟨1, true, true, false⟩
    let s : State := stWith (fun d => { d with sw := { d.sw with bufs := [(0, ⟨1, true, true, false⟩)] } })
    ((.auditPass : Instr).wellFormed = true) ∧ (Serving s) ∧ (rf s.dev 0x04800000 0 1 = 1) ∧ (s.dev.sw.bufs = [(k, b)]) ∧ (b.holder = true) ∧ (b.onFree = true) ∧ (openOf s.dev.errq 8 0 = none) := by
  decide +kernel

theorem witness_Arbitration_1 :
    let f : Nat := 3
    let a : Nat := 29
    let slot : Nat := 29
    let cls : Nat := 7
    let o : Nat := 4096
    let beats : Nat := 300
    let s : State := stUp
    ((.arbRequest f a slot cls o beats : Instr).wellFormed = true) ∧ (Serving s) ∧ (floeRuns s.dev f = true) ∧ (slot < 30) ∧ (slot ≠ 27) ∧ (((arbOf s.dev f a).wires ++ (arbOf s.dev f a).parked).all (fun r => r.slot != slot) = true) ∧ ((arbOf s.dev f a).owner.all (fun g => g.req.slot != slot) = true) ∧ (bitOf (arbOf s.dev f a).fenced slot = false) := by
  decide +kernel

theorem witness_Arbitration_2 :
    let f : Nat := 3
    let a : Nat := 0
    let cls : Nat := 7
    let o : Nat := 0
    let beats : Nat := 4
    let r : ArbReq := ⟨27, 7, 0, 4, 0xFFFF⟩
    let s : State := stWith (fun d => { d with arbs := [(90, { Arb.reset with wires := [⟨27, 6, 0, 4, 0xFFFF⟩], port := [⟨27, 6, 0, 4, 0xFFFF⟩] })] })
    ((.arbRequest f a 27 cls o beats : Instr).wellFormed = true) ∧ (Serving s) ∧ (floeRuns s.dev f = true) ∧ (r = ⟨27, arbClass (latch s) f 27 cls o, o, beats, arbCtx (latch s) f o⟩) ∧ (bitOf (arbOf s.dev f a).fenced 27 = false) ∧ ((arbOf s.dev f a).owner.all (fun g => g.req.slot != 27) = true) ∧ ((arbOf s.dev f a).port.all (fun q => decide (q.cls < r.cls)) = true) ∧ (((arbOf s.dev f a).wires ++ (arbOf s.dev f a).parked).contains r = false) := by
  decide +kernel

theorem witness_Arbitration_3 :
    let f : Nat := 3
    let a : Nat := 0
    let cls : Nat := 6
    let o : Nat := 0
    let beats : Nat := 4
    let q : ArbReq := ⟨27, 6, 0, 4, 0xFFFF⟩
    let s : State := stWith (fun d => { d with arbs := [(90, { Arb.reset with wires := [⟨27, 6, 0, 4, 0xFFFF⟩], port := [⟨27, 6, 0, 4, 0xFFFF⟩] })] })
    ((.arbRequest f a 27 cls o beats : Instr).wellFormed = true) ∧ (Serving s) ∧ (floeRuns s.dev f = true) ∧ (bitOf (arbOf s.dev f a).fenced 27 = false) ∧ (highest (arbOf s.dev f a).port = some q) ∧ (arbClass (latch s) f 27 cls o ≤ q.cls) ∧ (((arbOf s.dev f a).wires ++ (arbOf s.dev f a).parked).contains q = true) := by
  decide +kernel

theorem witness_Arbitration_4 :
    let f : Nat := 3
    let a : Nat := 29
    let r : ArbReq := ⟨5, 6, 4096, 1, 0xFFFF⟩
    let s : State := stWith (fun d => { d with arbs := [(119, { Arb.reset with wires := [⟨4, 2, 4096, 9, 0xFFFF⟩, ⟨5, 6, 4096, 1, 0xFFFF⟩], parked := [⟨26, 7, 4096, 9, 0xFFFF⟩] })] })
    ((.arbitration f a : Instr).wellFormed = true) ∧ (Serving s) ∧ (floeRuns s.dev f = true) ∧ (a < 16 ∨ 19 < a ∨ presentBlock (latch s) (6 * f + (a - 16)) = latch s) ∧ ((arbOf s.dev f a).owner = none) ∧ ((arbOf s.dev f a).best ((arbOf s.dev f a).parked ++ (arbOf s.dev f a).wires) = some r) := by
  decide +kernel

theorem witness_Arbitration_5 :
    let f : Nat := 3
    let a : Nat := 29
    let g : Grant := ⟨⟨4, 2, 4096, 300, 0xFFFF⟩, false, 256, 0⟩
    let s : State := stWith (fun d => { d with arbs := [(119, { Arb.reset with owner := some ⟨⟨4, 2, 4096, 300, 0xFFFF⟩, false, 256, 0⟩ })] })
    ((.grantEnd f a : Instr).wellFormed = true) ∧ (Serving s) ∧ ((arbOf s.dev f a).owner = some g) ∧ (g.req.slot ≠ 27) ∧ ((arbOf s.dev f a).port = []) := by
  decide +kernel

theorem witness_Arbitration_6 :
    let f : Nat := 3
    let a : Nat := 0
    let g : Grant := ⟨⟨27, 2, 0, 300, 0xFFFF⟩, false, 256, 0⟩
    let s : State := stWith (fun d => { d with arbs := [(90, { Arb.reset with owner := some ⟨⟨27, 2, 0, 300, 0xFFFF⟩, false, 256, 0⟩ })] })
    ((.grantEnd f a : Instr).wellFormed = true) ∧ (Serving s) ∧ ((arbOf s.dev f a).owner = some g) ∧ (g.req.slot = 27) ∧ (g.limit < g.req.beats) ∧ (bitOf (arbOf s.dev f a).fenced 27 = false) ∧ ((arbOf s.dev f a).port = []) ∧ (((arbOf s.dev f a).wires ++ (arbOf s.dev f a).parked).all (fun q => q.slot != 27) = true) := by
  decide +kernel

theorem witness_Arbitration_7 :
    let f : Nat := 3
    let a : Nat := 29
    let g : Grant := ⟨⟨29, 2, 4096, 300, 0xFFFF⟩, false, 256, 0⟩
    let s : State := stWith (fun d => { d with arbs := [(119, { Arb.reset with owner := some ⟨⟨29, 2, 4096, 300, 0xFFFF⟩, false, 256, 0⟩ })] })
    ((.arbWatchdog f a : Instr).wellFormed = true) ∧ (Serving s) ∧ (floeRuns s.dev f = true) ∧ (g.req.slot ≠ 27 ∨ g.req.owner < 4096) ∧ ((arbOf s.dev f a).owner = some g) ∧ (rf s.dev (arbBase f a + 0x10) 0 24 ≠ 0) ∧ (g.req.slot < 32) ∧ (cmdOf s.dev g.req.owner = none) ∧ (openOf s.dev.errq 9 (32 * f + a) = none) := by
  decide +kernel

theorem witness_Impressions_1 :
    let fall : Bool := false
    let s : State := { stUp with clk := { Clock.reset with time := 2000000, last := 1000000, count := 8, from_ := some 1000000, intervals := List.replicate 7 1000000, impr := 1 } }
    ((.imprSyncEdge fall : Instr).wellFormed = true) ∧ (Serving s) ∧ (imprSource s.dev = 0 ∨ imprSource s.dev = 2) ∧ (decide (rf s.dev 0x04A04000 2 1 = 1) = fall) ∧ (s.clk.count = 0 ∨ s.clk.last + 1000 * rf s.dev 0x04A04008 0 16 ≤ s.clk.time) := by
  decide +kernel

theorem witness_Impressions_2 :
    let fall : Bool := false
    let s : State := { stUp with clk := { Clock.reset with time := 1049999, last := 1000000, count := 8 } }
    ((.imprSyncEdge fall : Instr).wellFormed = true) ∧ (Serving s) ∧ (imprSource s.dev = 0 ∨ imprSource s.dev = 2) ∧ (decide (rf s.dev 0x04A04000 2 1 = 1) = fall) ∧ (s.clk.count ≠ 0) ∧ (s.clk.time < s.clk.last + 1000 * rf s.dev 0x04A04008 0 16) := by
  decide +kernel

theorem witness_Impressions_3 :
    let s : State := { stUp with clk := { Clock.reset with time := 3000000, last := 1000000, count := 8, impr := 2, coasts := 3 } }
    ((.coastMark : Instr).wellFormed = true) ∧ (Serving s) ∧ (s.clk.impr ≠ 0) := by
  decide +kernel

theorem witness_Impressions_4 :
    let s : State := { stUp with clk := { Clock.reset with time := 3000000, last := 1000000 } }
    ((.freeMark : Instr).wellFormed = true) ∧ (Serving s) ∧ (s.clk.impr = 0) := by
  decide +kernel

theorem witness_Impressions_5 :
    let win : Nat := 7
    let s : State := stUp
    ((.windowClose win : Instr).wellFormed = true) ∧ (Serving s) ∧ (windowIsOpen s.clk (latch s) win = false) := by
  decide +kernel

theorem witness_Impressions_6 :
    let f : Nat := 3
    let u : Nat := 6
    let s : State := stWith (fun d => { d with boot := { d.boot with windows := [] } })
    ((.calForced f u : Instr).wellFormed = true) ∧ (Serving s) ∧ (floeOn s.dev f = true) ∧ (admits s.dev 5 = false) := by
  decide +kernel

theorem witness_TimeTransferAndCalendar_1 :
    let s : State := { stWith (fun d => { d with links := [(7, { Link.reset with state := 6 })] }) with clk := { Clock.reset with time := 77 } }
    ((.timeExchange : Instr).wellFormed = true) ∧ (Serving s) ∧ (mirrorsOn s.dev = false) := by
  decide +kernel

theorem witness_TimeTransferAndCalendar_2 :
    let l : Nat := 7
    let t1 : Nat := 5
    let t2 : Nat := 1000
    let t3 : Nat := 1000
    let t4 : Nat := 9
    let s : State := { stWith (fun d => { d with links := [(7, { Link.reset with state := 6, peer := 2 })], regs := [(0x04810008, 15)], boot := { d.boot with record := some (zeros 512) }, mbr := { d.mbr with joined := true, map := { emptyMap with managers := [2] } } }) with clk := { Clock.reset with time := 9, t1 := [(7, 5)] } }
    ((.timeExchangeReply l t2 t3 t4 : Instr).wellFormed = true) ∧ (Serving s) ∧ (tget? s.clk.t1 l = some t1) ∧ (timeLink s.clk (latch s) = some l) ∧ (s.dev.mbr.joined = true) ∧ (s.clk.joined = false) := by
  decide +kernel

theorem witness_TimeTransferAndCalendar_3 :
    let l : Nat := 7
    let t1 : Nat := 5
    let t2 : Nat := 1000
    let t3 : Nat := 1000
    let t4 : Nat := 9
    let s : State := { stWith (fun d => { d with links := [(7, { Link.reset with state := 6, peer := 2 })], regs := [(0x04810008, 15)], boot := { d.boot with record := some (zeros 512) }, mbr := { d.mbr with joined := true, map := { emptyMap with managers := [2] } } }) with clk := { Clock.reset with time := 9, joined := true, t1 := [(7, 5)] } }
    ((.timeExchangeReply l t2 t3 t4 : Instr).wellFormed = true) ∧ (Serving s) ∧ (tget? s.clk.t1 l = some t1) ∧ (timeLink s.clk (latch s) = some l) ∧ (s.dev.mbr.joined = true) ∧ (s.clk.joined = true) := by
  decide +kernel

theorem witness_TimeTransferAndCalendar_4 :
    let v : Nat := 1700000000
    let s : State := { stUp with clk := { Clock.reset with calNs := 7 } }
    ((.calendarWrite v : Instr).wellFormed = true) ∧ (Serving s) := by
  decide +kernel

theorem witness_TimeTransferAndCalendar_5 :
    let s : State := { State.reset with clk := { Clock.reset with calValid := true } }
    ((.calOscStop : Instr).wellFormed = true) ∧ (s.dev.errq.due = []) := by
  decide +kernel

theorem witness_TimePps_1 :
    let s : State := { stWith (fun d => { d with regs := [(0x04A00000, 1)] }) with clk := { Clock.reset with time := 1999999980, ppsGood := 2 } }
    ((.timePpsEdge : Instr).wellFormed = true) ∧ (Serving s) ∧ (rf s.dev 0x04A00000 0 1 = 1) := by
  decide +kernel

theorem witness_TimePps_2 :
    let s : State := { stUp with clk := { Clock.reset with time := 20 } }
    ((.timePpsEdge : Instr).wellFormed = true) ∧ (Serving s) ∧ (rf s.dev 0x04A00000 0 1 = 0) := by
  decide +kernel

theorem witness_TimePps_3 :
    let s : State := { stUp with clk := { Clock.reset with ppsLocked := true, ppsGood := 3 } }
    ((.ppsLoss : Instr).wellFormed = true) ∧ (Serving s) := by
  decide +kernel

theorem witness_ScrubSelftestAndRecovery_1 :
    let f : Nat := 3
    let u : Nat := 6
    let p : Nat := 5
    let s : State := stWith (fun d => { d with boot := { d.boot with bulks := [(15, 1)] }, ecc := [(27, { Ecc.reset with line := 8388607 })] })
    ((.scrubLine f u p [] : Instr).wellFormed = true) ∧ (Serving s) ∧ (floeOn s.dev f = true) ∧ (admits s.dev 4 = true) ∧ (rf s.dev (eccBase f u + 0x208) 0 1 = 1) ∧ (p < scrubLines s.dev f u) ∧ (s.dev.media = []) := by
  decide +kernel

theorem witness_ScrubSelftestAndRecovery_2 :
    let f : Nat := 3
    let u : Nat := 6
    let s : State := stUp
    ((.scrubPassLate f u : Instr).wellFormed = true) ∧ (Serving s) ∧ (floeOn s.dev f = true) := by
  decide +kernel

theorem witness_ScrubSelftestAndRecovery_3 :
    let c : Nat := 63
    let s : State := stWith (fun d => { d with cores := [(63, { Core.idle with state := 5, quarantines := 2 })] })
    ((.selftestRelease c : Instr).wellFormed = true) ∧ (Serving s) ∧ (floeOn s.dev (c / 16) = true) ∧ ((coreOf s.dev c).state = 5) ∧ ((coreOf s.dev c).quarantines < 3) ∧ ((coreOf s.dev c).selftest ≠ 1) := by
  decide +kernel

theorem witness_ScrubSelftestAndRecovery_4 :
    let c : Nat := 63
    let s : State := stWith (fun d => { d with cores := [(63, { Core.idle with state := 5, selftest := 1 })], errq := { d.errq with opens := [⟨2, 63, 1, 0, 2, 0⟩, ⟨2, 62, 1, 0, 2, 0⟩] } })
    ((.selftestDone c true : Instr).wellFormed = true) ∧ (Serving s) ∧ ((coreOf s.dev c).state = 5) ∧ ((coreOf s.dev c).selftest = 1) := by
  decide +kernel

theorem witness_ScrubSelftestAndRecovery_5 :
    let c : Nat := 63
    let s : State := stWith (fun d => { d with cores := [(63, { Core.idle with state := 5, selftest := 1 })] })
    ((.selftestDone c false : Instr).wellFormed = true) ∧ (Serving s) ∧ ((coreOf s.dev c).state = 5) ∧ ((coreOf s.dev c).selftest = 1) := by
  decide +kernel

theorem witness_ScrubSelftestAndRecovery_6 :
    let s : State := stWith (fun d => { d with sw := { d.sw with recovering := true } })
    ((.switchRecoveryTimeout : Instr).wellFormed = true) ∧ (Serving s) ∧ (s.dev.sw.recovering = true) ∧ (s.dev.boot.phase = 3) := by
  decide +kernel

theorem witness_ScrubSelftestAndRecovery_7 :
    let s : State := stWith (fun d => { d with sw := { d.sw with recovering := true, bufs := [(3, ⟨1, true, false, false⟩)] } })
    ((.switchRecoveryDone : Instr).wellFormed = true) ∧ (Serving s) ∧ (s.dev.sw.recovering = true) := by
  decide +kernel

theorem witness_ScrubSelftestAndRecovery_8 :
    let s : State := stWith (fun d => { d with regs := [(0x04C00018, 0)], galleys := [(4095, { Galley.none with restart := true })] })
    ((.galleyAutoRestart : Instr).wellFormed = true) ∧ (Serving s) ∧ (rf s.dev 0x04C00018 0 1 = 0) := by
  decide +kernel

theorem witness_ScrubSelftestAndRecovery_9 :
    let k : Nat := 4095
    let x : Galley := { Galley.none with restart := true }
    let s : State := stWith (fun d => { d with galleys := [(4095, { Galley.none with restart := true })] })
    ((.galleyAutoRestart : Instr).wellFormed = true) ∧ (Serving s) ∧ (rf s.dev 0x04C00018 0 1 = 1) ∧ (nextRestart s.dev = some k) ∧ (tget? s.dev.galleys k = some x) ∧ (x.state = 0) ∧ (x.done = []) := by
  decide +kernel

theorem witness_GalleyDoorbell_1 :
    let port : Nat := 3
    let ctx : Nat := 0
    let g : Nat := 0
    let s : State := stGal { galUp with state := 1, cmdTail := 0xFFFFFFFF, cmdHead := 0xFFFFFFFE } (fun d => { d with free := 0 })
    let v : Nat := 6
    ((.cmdTailWrite port ctx g v : Instr).wellFormed = true) ∧ (Serving s) ∧ (galleyExists s.dev ctx g = true) ∧ (doorbellOk s.dev port ctx g = true) ∧ ((galleyOf s.dev ctx g).state ≠ 4) ∧ (cdiff (v % 2 ^ 32) (galleyOf s.dev ctx g).cmdTail ≤ (galleyOf s.dev ctx g).cmdSlots - cdiff (galleyOf s.dev ctx g).cmdTail (galleyOf s.dev ctx g).cmdHead) := by
  decide +kernel

theorem witness_GalleyDoorbell_2 :
    let port : Nat := 3
    let ctx : Nat := 0
    let g : Nat := 0
    let s : State := stGal { galUp with par := splice galPar 30 [1] } (fun d => { d with free := 0 })
    let v : Nat := 6
    ((.cmdTailWrite port ctx g v : Instr).wellFormed = true) ∧ (Serving s) ∧ (galleyExists s.dev ctx g = true) ∧ (doorbellOk s.dev port ctx g = false) := by
  decide +kernel

theorem witness_GalleyDoorbell_3 :
    let port : Nat := 3
    let ctx : Nat := 0
    let g : Nat := 0
    let s : State := stGal { galUp with cmdTail := 5, cmdHead := 2 } (fun d => { d with free := 0 })
    let v : Nat := 4
    ((.cmdTailWrite port ctx g v : Instr).wellFormed = true) ∧ (Serving s) ∧ (galleyExists s.dev ctx g = true) ∧ (doorbellOk s.dev port ctx g = true) ∧ ((galleyOf s.dev ctx g).state ≠ 4) ∧ ((galleyOf s.dev ctx g).cmdSlots - cdiff (galleyOf s.dev ctx g).cmdTail (galleyOf s.dev ctx g).cmdHead < cdiff (v % 2 ^ 32) (galleyOf s.dev ctx g).cmdTail) ∧ (cdiff (v % 2 ^ 32) (galleyOf s.dev ctx g).cmdHead < cdiff (galleyOf s.dev ctx g).cmdTail (galleyOf s.dev ctx g).cmdHead) := by
  decide +kernel

theorem witness_GalleyDoorbell_4 :
    let port : Nat := 3
    let ctx : Nat := 0
    let g : Nat := 0
    let s : State := stGal { galUp with state := 1, cmdTail := 5, cmdHead := 2 } (fun d => { d with free := 0 })
    let v : Nat := 11
    ((.cmdTailWrite port ctx g v : Instr).wellFormed = true) ∧ (Serving s) ∧ (galleyExists s.dev ctx g = true) ∧ (doorbellOk s.dev port ctx g = true) ∧ ((galleyOf s.dev ctx g).state = 1) ∧ ((galleyOf s.dev ctx g).cmdSlots - cdiff (galleyOf s.dev ctx g).cmdTail (galleyOf s.dev ctx g).cmdHead < cdiff (v % 2 ^ 32) (galleyOf s.dev ctx g).cmdTail) ∧ (cdiff (galleyOf s.dev ctx g).cmdTail (galleyOf s.dev ctx g).cmdHead ≤ cdiff (v % 2 ^ 32) (galleyOf s.dev ctx g).cmdHead) ∧ (openOf s.dev.errq 10 (8 * ctx + g) = none) := by
  decide +kernel

theorem witness_GalleyDoorbell_5 :
    let port : Nat := 3
    let ctx : Nat := 0
    let g : Nat := 0
    let s : State := stGal { galUp with proofTail := 3, proofHead := 0xFFFFFFFF } (fun d => { d with free := 0 })
    let v : Nat := 3
    ((.proofHeadWrite port ctx g v : Instr).wellFormed = true) ∧ (Serving s) ∧ (galleyExists s.dev ctx g = true) ∧ (doorbellOk s.dev port ctx g = true) ∧ ((galleyOf s.dev ctx g).state ≠ 4) ∧ (cdiff (v % 2 ^ 32) (galleyOf s.dev ctx g).proofHead ≤ cdiff (galleyOf s.dev ctx g).proofTail (galleyOf s.dev ctx g).proofHead) := by
  decide +kernel

theorem witness_GalleyDoorbell_6 :
    let port : Nat := 3
    let ctx : Nat := 0
    let g : Nat := 0
    let s : State := stGal { galUp with proofTail := 3 } (fun d => { d with free := 0 })
    let v : Nat := 4
    ((.proofHeadWrite port ctx g v : Instr).wellFormed = true) ∧ (Serving s) ∧ (galleyExists s.dev ctx g = true) ∧ (doorbellOk s.dev port ctx g = true) ∧ ((galleyOf s.dev ctx g).state ≠ 4) ∧ (cdiff (galleyOf s.dev ctx g).proofTail (galleyOf s.dev ctx g).proofHead < cdiff (v % 2 ^ 32) (galleyOf s.dev ctx g).proofHead) := by
  decide +kernel

theorem witness_GalleyDoorbell_7 :
    let port : Nat := 3
    let ctx : Nat := 0
    let g : Nat := 0
    let s : State := stGal { galUp with state := 0 } (fun d => { d with free := 0 })
    ((.galleyStart port ctx g : Instr).wellFormed = true) ∧ (Serving s) ∧ (galleyExists s.dev ctx g = true) ∧ (doorbellOk s.dev port ctx g = true) ∧ ((galleyOf s.dev ctx g).state = 0) := by
  decide +kernel

theorem witness_GalleyDoorbell_8 :
    let port : Nat := 3
    let ctx : Nat := 0
    let g : Nat := 0
    let s : State := stGal { galUp with state := 1 } (fun d => { d with free := 0 })
    ((.galleyStop port ctx g : Instr).wellFormed = true) ∧ (Serving s) ∧ (galleyExists s.dev ctx g = true) ∧ (doorbellOk s.dev port ctx g = true) ∧ ((galleyOf s.dev ctx g).state = 1) := by
  decide +kernel

theorem witness_GalleyDoorbell_9 :
    let port : Nat := 3
    let ctx : Nat := 0
    let g : Nat := 0
    let s : State := stGal { galUp with state := 1 } (fun d => { d with cmds := [(4095, cmdWith 0x28 [] 1)], runq := [7, 4095] })
    let tag : Nat := 4095
    let c : Cmd := cmdWith 0x28 [] 1
    ((.galleyStopAbort port ctx g : Instr).wellFormed = true) ∧ (Serving s) ∧ (galleyExists s.dev ctx g = true) ∧ (doorbellOk s.dev port ctx g = true) ∧ ((galleyOf s.dev ctx g).state = 1) ∧ ((galleyOf s.dev ctx g).done = []) ∧ (flightTags s.dev ctx g = [tag]) ∧ (cmdOf s.dev tag = some c) ∧ (c.ctx = ctx) ∧ (c.g = g) ∧ (c.waiting = true) ∧ (c.opcode ≠ 8 ∨ bitOf (c.f 34 1) 1 = false ∨ 2 ^ 40 ≤ c.pos) ∧ (owes s.dev (.cmd tag) = false) := by
  decide +kernel

theorem witness_GalleyDoorbell_10 :
    let port : Nat := 3
    let ctx : Nat := 0
    let g : Nat := 0
    let s : State := stGal { galUp with state := 3, holding := true } (fun d => { d with errq := { ErrQ.reset with opens := [⟨10, 0, 2, 0, 10, 0⟩, ⟨10, 1, 2, 1, 10, 0⟩] } })
    ((.clearHalt port ctx g : Instr).wellFormed = true) ∧ (Serving s) ∧ (galleyExists s.dev ctx g = true) ∧ (doorbellOk s.dev port ctx g = true) ∧ ((galleyOf s.dev ctx g).state = 3) ∧ ((galleyOf s.dev ctx g).done = []) := by
  decide +kernel

theorem witness_GalleyDoorbell_11 :
    let port : Nat := 3
    let ctx : Nat := 0
    let g : Nat := 0
    let s : State := stGal { galUp with dropped := 7 } (fun d => { d with free := 0 })
    ((.droppedRead port ctx g : Instr).wellFormed = true) ∧ (Serving s) ∧ (galleyExists s.dev ctx g = true) ∧ (doorbellOk s.dev port ctx g = true) ∧ (devState s.dev ≠ 0) := by
  decide +kernel

theorem witness_GalleyDoorbell_12 :
    let port := 3
    let ctx : Nat := 0
    let g : Nat := 0
    let s : State := stGal { galUp with pending := 3, applied := galPar } (fun d => { d with free := 0 })
    ((.coalTimerExpire ctx g : Instr).wellFormed = true) ∧ (Serving s) ∧ (galleyExists s.dev ctx g = true) ∧ ((galleyOf s.dev ctx g).irqEn = true) ∧ (0 < (galleyOf s.dev ctx g).pending) ∧ (fieldAt (galleyOf s.dev ctx g).applied 36 4 ≠ 0) := by
  decide +kernel

theorem witness_CommandsInOrder_1 :
    let f : Nat := 0
    let ctx : Nat := 0
    let g : Nat := 0
    let far : Far := ([] : Far)
    let s : State := stGal { galUp with state := 1, cmdTail := 0 , cmdHead := 0xFFFFFFFF } (fun d => { d with mem := memWrite [] 0x11C0 ([0x3A, 0, 0, 0, 9] : Bytes) })
    let w : W := ((W.start (countStalls (latch s) f) far ctx (ctxOf s.dev ctx).gen (unitWho (countStalls (latch s) f) ctx g)).read (fieldAt (galleyOf s.dev ctx g).ringPar 0 8 + 64 * ((galleyOf s.dev ctx g).cmdHead % (galleyOf s.dev ctx g).cmdSlots)) 64).1
    let b : Bytes := ((W.start (countStalls (latch s) f) far ctx (ctxOf s.dev ctx).gen (unitWho (countStalls (latch s) f) ctx g)).read (fieldAt (galleyOf s.dev ctx g).ringPar 0 8 + 64 * ((galleyOf s.dev ctx g).cmdHead % (galleyOf s.dev ctx g).cmdSlots)) 64).2
    ((.commandFetch f far : Instr).wellFormed = true) ∧ (Serving s) ∧ (floeOn s.dev f = true) ∧ (devState s.dev ≠ 15) ∧ (g < 8) ∧ (pickGalley (countStalls (latch s) f) f = some (gkey ctx g)) ∧ (0 < freeTags (countStalls (latch s) f)) ∧ ((W.start (countStalls (latch s) f) far ctx (ctxOf s.dev ctx).gen (unitWho (countStalls (latch s) f) ctx g)).read (fieldAt (galleyOf s.dev ctx g).ringPar 0 8 + 64 * ((galleyOf s.dev ctx g).cmdHead % (galleyOf s.dev ctx g).cmdSlots)) 64 = (w, b)) ∧ (w.ok = true) ∧ (w.d.galleys = s.dev.galleys) ∧ (w.d.cmds = []) ∧ (w.d.order = s.dev.order) ∧ (w.d.tagWait = []) ∧ (w.d.tagHeld = []) ∧ (w.d.boot = s.dev.boot) ∧ (w.d.errq.due = []) ∧ (w.d.sw.seen = []) ∧ (galleyExists s.dev ctx g = true) ∧ (fieldAt b 0 1 = 0x3A) ∧ (fieldAt b 1 1 = 0) ∧ (fieldAt b 2 2 = 0) ∧ (allZero (slice b 16 16) = true) ∧ (fieldAt b 8 8 = 0) := by
  decide +kernel

theorem witness_CommandsInOrder_2 :
    let f : Nat := 0
    let k : Nat := 0
    let far : Far := ([] : Far)
    let s : State := stGal { galUp with state := 1, cmdTail := 1 } (fun d => { d with cmds := manyCmds 4096 })
    ((.commandFetch f far : Instr).wellFormed = true) ∧ (Serving s) ∧ (floeOn s.dev f = true) ∧ (devState s.dev ≠ 15) ∧ (pickGalley (countStalls (latch s) f) f = some k) ∧ (freeTags (countStalls (latch s) f) = 0) := by
  decide +kernel

theorem witness_CommandsInOrder_3 :
    let f : Nat := 1
    let g : Nat := 3
    let far : Far := ([] : Far)
    let s : State := stGal galUp (fun d => { d with cmds := manyCmds 4095, tagWait := [2, 1], tagLast := 3, boot := { d.boot with floes := [(1, 0), (2, 0)] }, galleys := [(0, { galUp with home := 1, state := 1, cmdTail := 1 }), (1, { galUp with home := 2, state := 1, cmdTail := 1 })] })
    ((.commandFetch g far : Instr).wellFormed = true) ∧ (s.dev.boot.held = false) ∧ (s.dev.errq.due = []) ∧ (s.dev.sw.seen = []) ∧ (floeOn s.dev g = false) ∧ (s.dev.tagHeld = []) ∧ (s.dev.tagWait.all (fun x => floeOn s.dev x && !(fetchable (latch s) x).isEmpty) = true) ∧ (nextWait s.dev = some f) ∧ (freeTags s.dev = 1) := by
  decide +kernel

theorem witness_CommandsInOrder_4 :
    let ctx : Nat := 0
    let g : Nat := 0
    let far : Far := ([] : Far)
    let s : State := stGal { galUp with state := 1 } (fun d => { d with mem := memWrite [] 0x3000 ([8] : Bytes) })
    let w : W := ((W.start (latch s) far ctx (ctxOf s.dev ctx).gen (unitWho (latch s) ctx g)).read (fieldAt (galleyOf s.dev ctx g).par 16 8) 8).1
    let b : Bytes := ((W.start (latch s) far ctx (ctxOf s.dev ctx).gen (unitWho (latch s) ctx g)).read (fieldAt (galleyOf s.dev ctx g).par 16 8) 8).2
    ((.tailShadowPoll ctx g far : Instr).wellFormed = true) ∧ (Serving s) ∧ (galleyExists s.dev ctx g = true) ∧ ((galleyOf s.dev ctx g).state = 1) ∧ (bitOf (fieldAt (galleyOf s.dev ctx g).par 27 1) 1 = true) ∧ (floeOn s.dev (galleyOf s.dev ctx g).home = true) ∧ ((W.start (latch s) far ctx (ctxOf s.dev ctx).gen (unitWho (latch s) ctx g)).read (fieldAt (galleyOf s.dev ctx g).par 16 8) 8 = (w, b)) ∧ (w.ok = true) ∧ (w.d.galleys = s.dev.galleys) ∧ (w.d.boot = s.dev.boot) ∧ (w.d.errq.due = []) ∧ (w.d.sw.seen = []) ∧ (w.d.tagWait = []) ∧ (w.d.tagHeld = []) ∧ (cdiff (fieldAt b 0 4) (galleyOf s.dev ctx g).cmdTail ≤ (galleyOf s.dev ctx g).cmdSlots - cdiff (galleyOf s.dev ctx g).cmdTail (galleyOf s.dev ctx g).cmdHead) := by
  decide +kernel

theorem witness_CommandsInOrder_5 :
    let tag : Nat := 4095
    let c : Cmd := { cmdWith 0x3A [] 0 with order := 1 }
    let s : State := stGal { galUp with state := 1 } (fun d => { d with cmds := [(4095, { cmdWith 0x3A [] 0 with order := 1 })], free := 0 })
    ((.afterPrevStart tag : Instr).wellFormed = true) ∧ (Serving s) ∧ (cmdOf s.dev tag = some c) ∧ (c.phase = 0) ∧ (hasEarlier s.dev c = false) ∧ (okStatus c.status = true) := by
  decide +kernel

theorem witness_CommandsInOrder_6 :
    let tag : Nat := 4095
    let c : Cmd := { cmdWith 0x3A [] 0 with status := 0x18 }
    let s : State := stGal { galUp with state := 1 } (fun d => { d with cmds := [(4095, { cmdWith 0x3A [] 0 with status := 0x18 })], free := 0 })
    ((.afterPrevStart tag : Instr).wellFormed = true) ∧ (Serving s) ∧ (cmdOf s.dev tag = some c) ∧ (c.phase = 0) ∧ (hasEarlier s.dev c = false) ∧ (okStatus c.status = false) ∧ (c.opcode ≠ 8 ∨ bitOf (c.f 34 1) 1 = false ∨ 2 ^ 40 ≤ c.pos) ∧ (owes s.dev (.cmd tag) = false) ∧ (galleyExists s.dev c.ctx c.g = true) ∧ ((galleyOf s.dev c.ctx c.g).done = []) := by
  decide +kernel

theorem witness_CommandsInOrder_7 :
    let tag : Nat := 4095
    let c : Cmd := { cmdWith 1 (zeros 7 ++ [1]) 1 with late := [2] }
    let s : State := stGal { galUp with state := 1 } (fun d => { d with cmds := [(4095, { cmdWith 1 (zeros 7 ++ [1]) 1 with late := [2] })], free := 0 })
    let units : List Nat := [1, 2, 3]
    ((.deadlineExpire tag units : Instr).wellFormed = true) ∧ (Serving s) ∧ (cmdOf s.dev tag = some c) ∧ (c.f 8 8 ≠ 0) ∧ (c.phase ≠ 3) ∧ (c.opcode ≠ 0x28) := by
  decide +kernel

theorem witness_CommandsInOrder_8 :
    let tag : Nat := 4095
    let c : Cmd := cmdWith 0x38 [] 1
    let s : State := stGal { galUp with state := 1 } (fun d => { d with cmds := [(4095, cmdWith 0x38 [] 1)], free := 0 })
    ((.fence tag : Instr).wellFormed = true) ∧ (Serving s) ∧ (cmdOf s.dev tag = some c) ∧ (c.phase = 1) ∧ (c.opcode = 0x38) := by
  decide +kernel

theorem witness_CommandsInOrder_9 :
    let tag : Nat := 4095
    let c : Cmd := { cmdWith 0x38 [] 2 with covers := [5, 4096 + 4095] }
    let s : State := stGal { galUp with state := 1 } (fun d => { d with cmds := [(4095, { cmdWith 0x38 [] 2 with covers := [5, 4096 + 4095] })], free := 0 })
    ((.fenceComplete tag : Instr).wellFormed = true) ∧ (Serving s) ∧ (cmdOf s.dev tag = some c) ∧ (c.opcode = 0x38) ∧ (c.phase = 2) ∧ (floeOn s.dev c.floe = true) ∧ (owes s.dev (.cmd tag) = false) ∧ (galleyExists s.dev c.ctx c.g = true) ∧ ((galleyOf s.dev c.ctx c.g).done = []) ∧ (c.covers.all (coveredDone s.dev) = true) ∧ (okStatus c.status = true) := by
  decide +kernel

theorem witness_CommandsInOrder_10 :
    let tag : Nat := 4095
    let c : Cmd := cmdWith 0x3A [] 1
    let s : State := stGal { galUp with state := 1 } (fun d => { d with cmds := [(4095, cmdWith 0x3A [] 1)], free := 0 })
    ((.nop tag : Instr).wellFormed = true) ∧ (Serving s) ∧ (cmdOf s.dev tag = some c) ∧ (c.opcode = 0x3A) ∧ (c.phase = 1) ∧ (floeOn s.dev c.floe = true) ∧ (owes s.dev (.cmd tag) = false) ∧ (galleyExists s.dev c.ctx c.g = true) ∧ ((galleyOf s.dev c.ctx c.g).done = []) ∧ (okStatus c.status = true) := by
  decide +kernel

theorem witness_CommandsInOrder_11 :
    let tag : Nat := 4095
    let c : Cmd := cmdWith 0x39 [] 1
    let s : State := stGal { galUp with par := zeros 64 } (fun d => { d with cmds := [(4095, cmdWith 0x39 [] 1)], free := 0 })
    ((.impress tag : Instr).wellFormed = true) ∧ (Serving s) ∧ (cmdOf s.dev tag = some c) ∧ (c.opcode = 0x39) ∧ (c.phase = 1) ∧ (floeOn s.dev c.floe = true) ∧ (owes s.dev (.cmd tag) = false) ∧ (galleyExists s.dev c.ctx c.g = true) ∧ ((galleyOf s.dev c.ctx c.g).done = []) ∧ (bitOf (fieldAt (galleyOf s.dev c.ctx c.g).ringPar 27 1) 2 = false) := by
  decide +kernel

theorem witness_CommandsInOrder_12 :
    let tag : Nat := 4095
    let c : Cmd := cmdWith 0x39 [] 1
    let s : State := stGal { galUp with state := 1 } (fun d => { d with cmds := [(4095, cmdWith 0x39 [] 1)], free := 0 })
    ((.impress tag : Instr).wellFormed = true) ∧ (Serving s) ∧ (cmdOf s.dev tag = some c) ∧ (c.opcode = 0x39) ∧ (c.phase = 1) ∧ (floeOn s.dev c.floe = true) ∧ (owes s.dev (.cmd tag) = false) ∧ (galleyExists s.dev c.ctx c.g = true) ∧ ((galleyOf s.dev c.ctx c.g).done = []) ∧ (bitOf (fieldAt (galleyOf s.dev c.ctx c.g).ringPar 27 1) 2 = true) ∧ (imprSource s.dev = 1 ∨ imprSource s.dev = 2) ∧ (okStatus c.status = true) ∧ (s.clk.count = 0 ∨ s.clk.last + 1000 * rf s.dev 0x04A04008 0 16 ≤ s.clk.time) := by
  decide +kernel

theorem witness_Proofs_1 :
    let ctx : Nat := 0
    let g : Nat := 0
    let tag : Nat := 4095
    let u : Nat := 0x21C0
    let i : Nat := 0
    let rest : List Nat := [2]
    let c : Cmd := cmdWith 0x3A [] 3
    let r : Range := (⟨0, 65536, 0, true, true, true, false, none, 0, none, none, none, 0⟩ : Range)
    let s : State := stGal { galUp with state := 1, done := [4095, 2], proofTail := 7 } (fun d => { d with cmds := [(4095, cmdWith 0x3A [] 3)], cache := [(0x87, ⟨zeros 64, false⟩)] })
    ((.proofWrite ctx g : Instr).wellFormed = true) ∧ (Serving s) ∧ (galleyExists s.dev ctx g = true) ∧ ((galleyOf s.dev ctx g).proofBusy = false) ∧ ((galleyOf s.dev ctx g).holding = false) ∧ ((galleyOf s.dev ctx g).done = tag :: rest) ∧ (cmdOf s.dev tag = some c) ∧ (findRange s.dev ctx (ctxOf s.dev ctx).gen (fieldAt (galleyOf s.dev ctx g).ringPar 8 8 + 64 * ((galleyOf s.dev ctx g).proofTail % (galleyOf s.dev ctx g).proofSlots)) = some (i, r)) ∧ (r.w = true) ∧ (u = r.uni + (fieldAt (galleyOf s.dev ctx g).ringPar 8 8 + 64 * ((galleyOf s.dev ctx g).proofTail % (galleyOf s.dev ctx g).proofSlots) - r.start)) ∧ ((pageOf s.dev (u / 65536)).tier = 1 ∨ (pageOf s.dev (u / 65536)).tier = 2) ∧ ((pageOf s.dev (u / 65536)).durable = false) ∧ ((pageOf s.dev (u / 65536)).packed = false) ∧ ((pageOf s.dev (u / 65536)).twin = false) ∧ (floeOn s.dev (homeFloe (u / 65536)) = true) ∧ (tget? s.dev.dir (u / 64) = none) ∧ (thas s.dev.cache (u / 64) = true) ∧ ((pageOf s.dev (u / 65536)).noPack = false) ∧ (SoundLine s.dev (u / 64)) ∧ (mustHold s.dev (.proof ctx g) (u / 64) false = false) := by
  decide +kernel

theorem witness_Proofs_2 :
    let ctx : Nat := 0
    let g : Nat := 0
    let tag : Nat := 4095
    let rest : List Nat := ([] : List Nat)
    let c : Cmd := cmdWith 0x3A [] 3
    let s : State := stGal { galUp with par := zeros 64, state := 2, done := [4095], proofBusy := true, proofTail := 0xFFFFFFFF } (fun d => { d with cmds := [(4095, cmdWith 0x3A [] 3)], errq := { ErrQ.reset with opens := [⟨10, 1, 2, 1, 10, 0⟩] } })
    ((.proofWriteAck ctx g : Instr).wellFormed = true) ∧ (Serving s) ∧ (galleyExists s.dev ctx g = true) ∧ ((galleyOf s.dev ctx g).proofBusy = true) ∧ ((galleyOf s.dev ctx g).irqEn = false) ∧ ((galleyOf s.dev ctx g).done = tag :: rest) ∧ (owes s.dev (.proof ctx g) = false) ∧ (cmdOf s.dev tag = some c) := by
  decide +kernel

theorem witness_AttentionAndTables_1 :
    let tag : Nat := 4095
    let c : Cmd := { cmdWith 1 (zeros 31 ++ leBytes 2 0x5000 ++ zeros 2 ++ leBytes 4 3 ++ zeros 4 ++ leBytes 4 1 ++ leBytes 8 0x5000 ++ leBytes 8 0x6000) 2 with cores := [17, 63], par := slice (zeros 8 ++ leBytes 8 0x4000 ++ zeros 8 ++ leBytes 4 1 ++ leBytes 4 0x3F800000 ++ leBytes 2 1 ++ [1, 1] ++ leBytes 2 32 ++ [4, 9, 9, 9]) 0 64 }
    let s : State := stGal { galUp with state := 1 } (fun d => { d with cmds := [(4095, { cmdWith 1 (zeros 31 ++ leBytes 2 0x5000 ++ zeros 2 ++ leBytes 4 3 ++ zeros 4 ++ leBytes 4 1 ++ leBytes 8 0x5000 ++ leBytes 8 0x6000) 2 with cores := [17, 63], par := slice (zeros 8 ++ leBytes 8 0x4000 ++ zeros 8 ++ leBytes 4 1 ++ leBytes 4 0x3F800000 ++ leBytes 2 1 ++ [1, 1] ++ leBytes 2 32 ++ [4, 9, 9, 9]) 0 64 })], cores := [(17, { Core.idle with state := 1, tag := 4095 }), (63, { Core.idle with state := 1, tag := 4095 })], slots := [(0, { ctx := 0, par := zeros 64, home := 0, state := 0, epoch := 4, offer := 0, floor := 0, peerNode := 0, peerSlot := 0, attended := false, give := none, old := [] })] })
    let far : Far := ([] : Far)
    let w : W := (attendBody c (W.start (latch s) far c.ctx c.gen (c.who tag 4))).1
    ((.attend tag far : Instr).wellFormed = true) ∧ (Serving s) ∧ (cmdOf s.dev tag = some c) ∧ (c.opcode = 0x01) ∧ (c.phase = 2) ∧ (floeOn s.dev c.floe = true) ∧ ((attendBody c (W.start (latch s) far c.ctx c.gen (c.who tag 4))).1 = w) ∧ (w.ok = true) ∧ (okStatus ((attendBody c (W.start (latch s) far c.ctx c.gen (c.who tag 4))).2 { c with phase := 4 }).status = true) ∧ (cmdOf w.d tag = some c) ∧ (owes w.d (.cmd tag) = false) ∧ (galleyExists w.d c.ctx c.g = true) ∧ ((galleyOf w.d c.ctx c.g).done = []) ∧ (w.d.boot = s.dev.boot) ∧ (w.d.errq.due = []) ∧ (w.d.tagWait = []) ∧ (w.d.tagHeld = []) ∧ (w.d.sw.seen = []) ∧ (c.cores.all (firmwareCore s.dev) = true) := by
  decide +kernel

theorem witness_AttentionAndTables_2 :
    let tag : Nat := 4095
    let c : Cmd := { cmdWith 1 (zeros 31 ++ leBytes 2 0x5000 ++ zeros 2 ++ leBytes 4 3 ++ zeros 4 ++ leBytes 4 1 ++ leBytes 8 0x5000 ++ leBytes 8 0x6000) 1 with par := slice (zeros 8 ++ leBytes 8 0x4000 ++ zeros 8 ++ leBytes 4 1 ++ leBytes 4 0x3F800000 ++ leBytes 2 1 ++ [1, 1] ++ leBytes 2 32 ++ [4, 9, 9, 9, 0, 0, 2]) 0 64 }
    let s : State := stGal { galUp with state := 1 } (fun d => { d with cmds := [(4095, { cmdWith 1 (zeros 31 ++ leBytes 2 0x5000 ++ zeros 2 ++ leBytes 4 3 ++ zeros 4 ++ leBytes 4 1 ++ leBytes 8 0x5000 ++ leBytes 8 0x6000) 1 with par := slice (zeros 8 ++ leBytes 8 0x4000 ++ zeros 8 ++ leBytes 4 1 ++ leBytes 4 0x3F800000 ++ leBytes 2 1 ++ [1, 1] ++ leBytes 2 32 ++ [4, 9, 9, 9, 0, 0, 2]) 0 64 })], runq := [3], slots := [(0, { ctx := 0, par := zeros 64, home := 0, state := 0, epoch := 4, offer := 0, floor := 0, peerNode := 0, peerSlot := 0, attended := false, give := none, old := [] })], cores := (List.range 16).map (fun k => (k, { Core.idle with state := 2 })) })
    let far : Far := ([] : Far)
    ((.attend tag far : Instr).wellFormed = true) ∧ (Serving s) ∧ (cmdOf s.dev tag = some c) ∧ (c.opcode = 0x01) ∧ (c.phase = 1) ∧ (s.dev.runq.contains tag = false) ∧ (canAssign { s.dev with runq := insertRun s.dev.cmds c.start tag s.dev.runq } tag c = false) := by
  decide +kernel

theorem witness_AttentionAndTables_3 :
    let tag : Nat := 4095
    let c : Cmd := (cmdWith 2 (zeros 31 ++ leBytes 8 0x4000 ++ leBytes 2 1 ++ [0, 1] ++ leBytes 2 32 ++ [9] ++ zeros 1 ++ leBytes 8 0x6000 ++ leBytes 4 1) 1)
    let s : State := stGal { galUp with state := 1 } (fun d => { d with cmds := [(4095, (cmdWith 2 (zeros 31 ++ leBytes 8 0x4000 ++ leBytes 2 1 ++ [0, 1] ++ leBytes 2 32 ++ [9] ++ zeros 1 ++ leBytes 8 0x6000 ++ leBytes 4 1) 1))], mem := memWrite (memWrite [] 0x4000 (leBytes 8 0x8000)) 0x8000 (recordBytes 7 0 0 32 0 0 ⟨some ⟨false, false, 0, List.replicate 33 Slug.zero⟩, 1, 0, 0, 0⟩) })
    let far : Far := ([] : Far)
    let w : W := (mergeBody c (W.start (latch s) far c.ctx c.gen (c.who tag 4))).1
    ((.attendMerge tag far : Instr).wellFormed = true) ∧ (Serving s) ∧ (cmdOf s.dev tag = some c) ∧ (c.opcode = 0x02) ∧ (c.phase = 1) ∧ (floeOn s.dev c.floe = true) ∧ ((mergeBody c (W.start (latch s) far c.ctx c.gen (c.who tag 4))).1 = w) ∧ (w.ok = true) ∧ (okStatus ((mergeBody c (W.start (latch s) far c.ctx c.gen (c.who tag 4))).2 { c with phase := 4 }).status = true) ∧ (cmdOf w.d tag = some c) ∧ (owes w.d (.cmd tag) = false) ∧ (galleyExists w.d c.ctx c.g = true) ∧ ((galleyOf w.d c.ctx c.g).done = []) ∧ (w.d.boot = s.dev.boot) ∧ (w.d.errq.due = []) ∧ (w.d.tagWait = []) ∧ (w.d.tagHeld = []) ∧ (w.d.sw.seen = []) := by
  decide +kernel

theorem witness_AttentionAndTables_4 :
    let tag : Nat := 4095
    let c : Cmd := (cmdWith 8 (zeros 31 ++ leBytes 2 0x6000 ++ zeros 1 ++ [9] ++ zeros 4 ++ leBytes 8 0x8000 ++ leBytes 8 0x9000 ++ leBytes 4 64) 1)
    let s : State := stGal { galUp with state := 1 } (fun d => { d with cmds := [(4095, (cmdWith 8 (zeros 31 ++ leBytes 2 0x6000 ++ zeros 1 ++ [9] ++ zeros 4 ++ leBytes 8 0x8000 ++ leBytes 8 0x9000 ++ leBytes 4 64) 1))], objs := [(0x6000, ⟨slice (leBytes 8 0x4000 ++ leBytes 8 0x5000 ++ leBytes 4 2 ++ leBytes 4 8 ++ leBytes 4 6 ++ zeros 2 ++ leBytes 2 16 ++ zeros 2 ++ [8]) 0 64, []⟩)], mem := memWrite (memWrite [] 0x4018 (List.replicate 16 (3 : Byte) ++ leBytes 4 0x3F800000)) 0x8000 (leBytes 4 1 ++ leBytes 4 2 ++ zeros 8 ++ leBytes 4 0 ++ leBytes 4 2 ++ leBytes 4 1 ++ leBytes 4 0) })
    let far : Far := ([] : Far)
    let w : W := (gatherBody c (W.start (latch s) far c.ctx c.gen (c.who tag 4))).1
    ((.gather tag far : Instr).wellFormed = true) ∧ (Serving s) ∧ (cmdOf s.dev tag = some c) ∧ (c.opcode = 0x08) ∧ (c.phase = 1) ∧ (floeOn s.dev c.floe = true) ∧ ((gatherBody c (W.start (latch s) far c.ctx c.gen (c.who tag 4))).1 = w) ∧ (w.ok = true) ∧ (okStatus ((gatherBody c (W.start (latch s) far c.ctx c.gen (c.who tag 4))).2 { c with phase := 4 }).status = true) ∧ (cmdOf w.d tag = some c) ∧ (owes w.d (.cmd tag) = false) ∧ (galleyExists w.d c.ctx c.g = true) ∧ ((galleyOf w.d c.ctx c.g).done = []) ∧ (w.d.boot = s.dev.boot) ∧ (w.d.errq.due = []) ∧ (w.d.tagWait = []) ∧ (w.d.tagHeld = []) ∧ (w.d.sw.seen = []) ∧ (bitOf (c.f 34 1) 1 = false) := by
  decide +kernel

theorem witness_AttentionAndTables_5 :
    let tag : Nat := 4095
    let c : Cmd := { cmdWith 8 (zeros 31 ++ leBytes 2 0x6000 ++ [2, 9] ++ zeros 4 ++ leBytes 8 0x8000 ++ leBytes 8 0x9000 ++ leBytes 4 64) 1 with pos := 5 }
    let s : State := stGal { galUp with state := 1 } (fun d => { d with cmds := [(4095, { cmdWith 8 (zeros 31 ++ leBytes 2 0x6000 ++ [2, 9] ++ zeros 4 ++ leBytes 8 0x8000 ++ leBytes 8 0x9000 ++ leBytes 4 64) 1 with pos := 5 })], objs := [(0x6000, ⟨slice (leBytes 8 0x4000 ++ leBytes 8 0x5000 ++ leBytes 4 2 ++ leBytes 4 8 ++ leBytes 4 6 ++ zeros 2 ++ leBytes 2 16 ++ zeros 2 ++ [8]) 0 64, []⟩)], mem := memWrite (memWrite [] 0x4018 (List.replicate 16 (3 : Byte) ++ leBytes 4 0x3F800000)) 0x8000 (leBytes 4 1 ++ leBytes 4 2 ++ zeros 8 ++ leBytes 4 0 ++ leBytes 4 2 ++ leBytes 4 1 ++ leBytes 4 0) })
    let far : Far := ([] : Far)
    let w : W := (gatherBody c (W.start (latch s) far c.ctx c.gen (c.who tag 4))).1
    ((.gather tag far : Instr).wellFormed = true) ∧ (Serving s) ∧ (cmdOf s.dev tag = some c) ∧ (c.opcode = 0x08) ∧ (c.phase = 1) ∧ (floeOn s.dev c.floe = true) ∧ ((gatherBody c (W.start (latch s) far c.ctx c.gen (c.who tag 4))).1 = w) ∧ (w.ok = true) ∧ (okStatus ((gatherBody c (W.start (latch s) far c.ctx c.gen (c.who tag 4))).2 { c with phase := 4 }).status = true) ∧ (cmdOf w.d tag = some c) ∧ (owes w.d (.cmd tag) = false) ∧ (galleyExists w.d c.ctx c.g = true) ∧ ((galleyOf w.d c.ctx c.g).done = []) ∧ (w.d.boot = s.dev.boot) ∧ (w.d.errq.due = []) ∧ (w.d.tagWait = []) ∧ (w.d.tagHeld = []) ∧ (w.d.sw.seen = []) ∧ (bitOf (c.f 34 1) 1 = true) ∧ (tabNum w.d (cmdTable w.d c).1 0 ≤ (((gatherBody c (W.start (latch s) far c.ctx c.gen (c.who tag 4))).2 { c with phase := 4 })).pos) ∧ (tabNum w.d (cmdTable w.d c).1 9 = tabNum w.d (cmdTable w.d c).1 0) := by
  decide +kernel

theorem witness_AttentionAndTables_6 :
    let tag : Nat := 4095
    let c : Cmd := (cmdWith 9 (zeros 31 ++ leBytes 2 0x6000 ++ zeros 1 ++ [9] ++ leBytes 4 0x3F800000 ++ leBytes 8 0x8000 ++ leBytes 8 0x9000 ++ leBytes 4 64) 1)
    let s : State := stGal { galUp with state := 1 } (fun d => { d with cmds := [(4095, (cmdWith 9 (zeros 31 ++ leBytes 2 0x6000 ++ zeros 1 ++ [9] ++ leBytes 4 0x3F800000 ++ leBytes 8 0x8000 ++ leBytes 8 0x9000 ++ leBytes 4 64) 1))], objs := [(0x6000, ⟨slice (leBytes 8 0x4000 ++ leBytes 8 0x5000 ++ leBytes 4 2 ++ leBytes 4 8 ++ leBytes 4 6 ++ zeros 2 ++ leBytes 2 16 ++ zeros 2 ++ [8]) 0 64, []⟩)], mem := memWrite (memWrite [] 0x9000 (leBytes 4 0x3F800000)) 0x8000 (leBytes 4 1 ++ zeros 12 ++ leBytes 4 1) })
    let far : Far := ([] : Far)
    let w := W.start (latch s) [] 0 0 (c.who tag 4)
    ((.scatterGrad tag far : Instr).wellFormed = true) ∧ (Serving s) ∧ (cmdOf s.dev tag = some c) ∧ (c.phase = 1) ∧ (c.opcode = 0x09) ∧ (floeOn s.dev c.floe = true) ∧ ((scatterStart (latch s) far tag).boot = s.dev.boot) ∧ ((scatterStart (latch s) far tag).errq.due = []) ∧ ((scatterStart (latch s) far tag).tagWait = []) ∧ ((scatterStart (latch s) far tag).tagHeld = []) ∧ ((scatterStart (latch s) far tag).sw.seen = []) := by
  decide +kernel

theorem witness_AttentionAndTables_7 :
    let tag : Nat := 4095
    let c : Cmd := { cmdWith 9 (zeros 31 ++ leBytes 2 0x6000 ++ zeros 1 ++ [9]) 2 with blocks := [(1, (List.replicate 16 (cellOf Slug.zero)).flatten)], covers := [1] }
    let s : State := stGal { galUp with state := 1 } (fun d => { d with cmds := [(4095, { cmdWith 9 (zeros 31 ++ leBytes 2 0x6000 ++ zeros 1 ++ [9]) 2 with blocks := [(1, (List.replicate 16 (cellOf Slug.zero)).flatten)], covers := [1] })], objs := [(0x6000, ⟨slice (leBytes 8 0x4000 ++ leBytes 8 0x5000 ++ leBytes 4 2 ++ leBytes 4 8 ++ leBytes 4 6 ++ zeros 2 ++ leBytes 2 16 ++ zeros 2 ++ [8]) 0 64, []⟩)] })
    let far : Far := ([] : Far)
    let w : W := (retireAll (cmdTable s.dev c).1 4096 (cmdTable s.dev c).2 (W.start (latch s) far c.ctx c.gen (c.who tag 4)))
    ((.rowChangeResume tag far : Instr).wellFormed = true) ∧ (Serving s) ∧ (cmdOf s.dev tag = some c) ∧ (c.phase = 2) ∧ (c.opcode = 0x09) ∧ (floeOn s.dev c.floe = true) ∧ (formeNow s.dev c = none) ∧ ((retireAll (cmdTable s.dev c).1 4096 (cmdTable s.dev c).2 (W.start (latch s) far c.ctx c.gen (c.who tag 4))) = w) ∧ (w.ok = true) ∧ ((scatterRun (latch s) tag c w).boot = s.dev.boot) ∧ ((scatterRun (latch s) tag c w).errq.due = []) ∧ ((scatterRun (latch s) tag c w).tagWait = []) ∧ ((scatterRun (latch s) tag c w).tagHeld = []) ∧ ((scatterRun (latch s) tag c w).sw.seen = []) := by
  decide +kernel

theorem witness_AttentionAndTables_8 :
    let tag : Nat := 4095
    let c : Cmd := { cmdWith 0x0A (zeros 31 ++ leBytes 2 0x6000 ++ [1] ++ zeros 1 ++ leBytes 4 1 ++ leBytes 8 0x8000 ++ leBytes 8 0x9000 ++ leBytes 4 64 ++ leBytes 4 6) 2 with blocks := [(0, leBytes 4 1)], covers := [0] }
    let s : State := stGal { galUp with state := 1 } (fun d => { d with cmds := [(4095, { cmdWith 0x0A (zeros 31 ++ leBytes 2 0x6000 ++ [1] ++ zeros 1 ++ leBytes 4 1 ++ leBytes 8 0x8000 ++ leBytes 8 0x9000 ++ leBytes 4 64 ++ leBytes 4 6) 2 with blocks := [(0, leBytes 4 1)], covers := [0] })], objs := [(0x6000, ⟨slice (leBytes 8 0x4000 ++ leBytes 8 0x5000 ++ leBytes 4 2 ++ leBytes 4 8 ++ leBytes 4 6 ++ zeros 2 ++ leBytes 2 16 ++ zeros 2 ++ [8]) 0 64, [(0, 5), (9, 5)]⟩)] })
    let far : Far := ([] : Far)
    let w : W := (retireAll (cmdTable s.dev c).1 4096 (cmdTable s.dev c).2 (W.start (latch s) far c.ctx c.gen (c.who tag 4)))
    ((.rowChangeResume tag far : Instr).wellFormed = true) ∧ (Serving s) ∧ (cmdOf s.dev tag = some c) ∧ (c.phase = 2) ∧ (c.opcode = 0x0A) ∧ (c.pos < c.f 36 4) ∧ (floeOn s.dev c.floe = true) ∧ (formeNow s.dev c = none) ∧ ((retireAll (cmdTable s.dev c).1 4096 (cmdTable s.dev c).2 (W.start (latch s) far c.ctx c.gen (c.who tag 4))) = w) ∧ (w.ok = true) ∧ ((replaceRun (latch s) tag c w).boot = s.dev.boot) ∧ ((replaceRun (latch s) tag c w).errq.due = []) ∧ ((replaceRun (latch s) tag c w).tagWait = []) ∧ ((replaceRun (latch s) tag c w).tagHeld = []) ∧ ((replaceRun (latch s) tag c w).sw.seen = []) := by
  decide +kernel

theorem witness_AttentionAndTables_9 :
    let tag : Nat := 4095
    let c : Cmd := (cmdWith 0x0A (zeros 31 ++ leBytes 2 0x6000 ++ [4] ++ zeros 25 ++ leBytes 4 6) 1)
    let s : State := stGal { galUp with state := 1 } (fun d => { d with cmds := [(4095, (cmdWith 0x0A (zeros 31 ++ leBytes 2 0x6000 ++ [4] ++ zeros 25 ++ leBytes 4 6) 1))], objs := [(0x6000, ⟨slice (leBytes 8 0x4000 ++ leBytes 8 0x5000 ++ leBytes 4 2 ++ leBytes 4 8 ++ leBytes 4 6 ++ zeros 2 ++ leBytes 2 16 ++ zeros 2 ++ [8]) 0 64, [(0, 5), (9, 5)]⟩)] })
    let far : Far := ([] : Far)
    ((.rowReplace tag far : Instr).wellFormed = true) ∧ (Serving s) ∧ (cmdOf s.dev tag = some c) ∧ (c.phase = 1) ∧ (c.opcode = 0x0A) ∧ (floeOn s.dev c.floe = true) ∧ (formeNow s.dev c = none) ∧ (c.commits = true) ∧ (c.f 36 4 = 0) ∧ (tabNum s.dev (cmdTable s.dev c).1 0 ≠ 0xFFFFFFFF) ∧ (c.f 60 4 = tabNum s.dev (cmdTable s.dev c).1 0 + 1) := by
  decide +kernel

theorem witness_AttentionAndTables_10 :
    let tag : Nat := 4095
    let c : Cmd := (cmdWith 0x0A (zeros 31 ++ leBytes 2 0x6000 ++ [4] ++ zeros 25 ++ leBytes 4 6) 1)
    let s : State := stGal { galUp with state := 1 } (fun d => { d with cmds := [(4095, (cmdWith 0x0A (zeros 31 ++ leBytes 2 0x6000 ++ [4] ++ zeros 25 ++ leBytes 4 6) 1))], objs := [(0x6000, ⟨slice (leBytes 8 0x4000 ++ leBytes 8 0x5000 ++ leBytes 4 2 ++ leBytes 4 8 ++ leBytes 4 6 ++ zeros 2 ++ leBytes 2 16 ++ zeros 2 ++ [8]) 0 64, [(0, 4)]⟩)] })
    let far : Far := ([] : Far)
    ((.rowReplace tag far : Instr).wellFormed = true) ∧ (Serving s) ∧ (cmdOf s.dev tag = some c) ∧ (c.opcode = 0x0A) ∧ (c.phase = 1) ∧ (floeOn s.dev c.floe = true) ∧ (owes s.dev (.cmd tag) = false) ∧ (galleyExists s.dev c.ctx c.g = true) ∧ ((galleyOf s.dev c.ctx c.g).done = []) ∧ (formeNow s.dev c = none) ∧ (c.commits = true) ∧ (c.f 36 4 = 0) ∧ (tabNum s.dev (cmdTable s.dev c).1 0 ≠ 0xFFFFFFFF) ∧ (c.f 60 4 ≠ tabNum s.dev (cmdTable s.dev c).1 0 + 1) := by
  decide +kernel

theorem witness_AttentionAndTables_11 :
    let tag : Nat := 4095
    let c : Cmd := (cmdWith 0x0A (zeros 31 ++ leBytes 2 0x6000 ++ [4] ++ zeros 25 ++ leBytes 4 6) 2)
    let s : State := stGal { galUp with state := 1 } (fun d => { d with cmds := [(4095, (cmdWith 0x0A (zeros 31 ++ leBytes 2 0x6000 ++ [4] ++ zeros 25 ++ leBytes 4 6) 2))], objs := [(0x6000, ⟨slice (leBytes 8 0x4000 ++ leBytes 8 0x5000 ++ leBytes 4 2 ++ leBytes 4 8 ++ leBytes 4 6 ++ zeros 2 ++ leBytes 2 16 ++ zeros 2 ++ [8]) 0 64, [(0, 5), (9, 5)]⟩)] })
    let o : Obj := (⟨slice (leBytes 8 0x4000 ++ leBytes 8 0x5000 ++ leBytes 4 2 ++ leBytes 4 8 ++ leBytes 4 6 ++ zeros 2 ++ leBytes 2 16 ++ zeros 2 ++ [8]) 0 64, [(0, 5), (9, 5)]⟩ : Obj)
    ((.generationCommit tag : Instr).wellFormed = true) ∧ (Serving s) ∧ (cmdOf s.dev tag = some c) ∧ (c.opcode = 0x0A) ∧ (c.phase = 2) ∧ (floeOn s.dev c.floe = true) ∧ (owes s.dev (.cmd tag) = false) ∧ (galleyExists s.dev c.ctx c.g = true) ∧ ((galleyOf s.dev c.ctx c.g).done = []) ∧ (formeNow s.dev c = none) ∧ (c.commits = true) ∧ (c.pos ≥ c.f 36 4) ∧ (okStatus c.status = true) ∧ (earlierChanges s.dev c = false) ∧ (objOf s.dev c.ctx (c.f 32 2) = some o) ∧ (c.f 60 4 = tabNum s.dev (cmdTable s.dev c).1 0 + 1) ∧ (tabNum s.dev (cmdTable s.dev c).1 9 = tabNum s.dev (cmdTable s.dev c).1 0) ∧ (tabNum s.dev (cmdTable s.dev c).1 6 = tabNum s.dev (cmdTable s.dev c).1 7) ∧ (pinned s.dev (cmdTable s.dev c).1 4096 = []) := by
  decide +kernel

theorem witness_VectorSearch_1 :
    let tag : Nat := 4095
    let c : Cmd := (cmdWith 0x10 (zeros 31 ++ leBytes 2 0x7000 ++ zeros 6 ++ leBytes 8 0x8000 ++ leBytes 8 0x9000) 1)
    let s : State := stGal { galUp with state := 1 } (fun d => { d with cmds := [(4095, (cmdWith 0x10 (zeros 31 ++ leBytes 2 0x7000 ++ zeros 6 ++ leBytes 8 0x8000 ++ leBytes 8 0x9000) 1))], objs := [(0x7000, ⟨slice (leBytes 8 0x4000 ++ leBytes 8 0x5000 ++ leBytes 8 0x5800 ++ leBytes 8 0x6000 ++ leBytes 8 0x7000 ++ leBytes 4 4 ++ leBytes 4 4 ++ zeros 4 ++ leBytes 2 16 ++ [1, 1, 7, 0, 8, 6]) 0 64, []⟩)], mem := memWrite [] 0x8000 (leBytes 4 1 ++ leBytes 2 1 ++ leBytes 2 1 ++ [0, 0, 7, 0] ++ zeros 8 ++ leBytes 4 10 ++ zeros 8) })
    let far : Far := ([] : Far)
    ((.search tag far : Instr).wellFormed = true) ∧ (Serving s) ∧ (cmdOf s.dev tag = some c) ∧ (c.opcode = 0x10) ∧ (c.phase = 1) ∧ (floeOn s.dev c.floe = true) ∧ ((searchBody tag c (W.start (latch s) far c.ctx c.gen (c.who tag 6))).1.ok = true) ∧ (okStatus ((searchBody tag c (W.start (latch s) far c.ctx c.gen (c.who tag 6))).2 { c with phase := 4 }).status = true) ∧ (cmdOf (searchBody tag c (W.start (latch s) far c.ctx c.gen (c.who tag 6))).1.d tag = some c) ∧ (owes (searchBody tag c (W.start (latch s) far c.ctx c.gen (c.who tag 6))).1.d (.cmd tag) = false) ∧ (galleyExists (searchBody tag c (W.start (latch s) far c.ctx c.gen (c.who tag 6))).1.d c.ctx c.g = true) ∧ ((galleyOf (searchBody tag c (W.start (latch s) far c.ctx c.gen (c.who tag 6))).1.d c.ctx c.g).done = []) ∧ ((searchBody tag c (W.start (latch s) far c.ctx c.gen (c.who tag 6))).1.d.boot = s.dev.boot) ∧ ((searchBody tag c (W.start (latch s) far c.ctx c.gen (c.who tag 6))).1.d.errq.due = []) ∧ ((searchBody tag c (W.start (latch s) far c.ctx c.gen (c.who tag 6))).1.d.tagWait = []) ∧ ((searchBody tag c (W.start (latch s) far c.ctx c.gen (c.who tag 6))).1.d.tagHeld = []) ∧ ((searchBody tag c (W.start (latch s) far c.ctx c.gen (c.who tag 6))).1.d.sw.seen = []) := by
  decide +kernel

theorem witness_VectorSearch_2 :
    let tag : Nat := 4095
    let c : Cmd := (cmdWith 0x12 (zeros 31 ++ leBytes 2 0x7000 ++ zeros 2 ++ leBytes 4 1 ++ leBytes 8 0x8000) 1)
    let s : State := stGal { galUp with state := 1 } (fun d => { d with cmds := [(4095, (cmdWith 0x12 (zeros 31 ++ leBytes 2 0x7000 ++ zeros 2 ++ leBytes 4 1 ++ leBytes 8 0x8000) 1))], objs := [(0x7000, ⟨slice (leBytes 8 0x4000 ++ leBytes 8 0x5000 ++ leBytes 8 0x5800 ++ leBytes 8 0x6000 ++ leBytes 8 0x7000 ++ leBytes 4 4 ++ leBytes 4 4 ++ zeros 4 ++ leBytes 2 16 ++ [1, 1, 7, 0, 8, 6]) 0 64, [(1, 3)]⟩)], mem := memWrite (memWrite [] 0x8000 (leBytes 4 2)) 0x5010 (leBytes 4 1 ++ leBytes 4 9) })
    let far : Far := ([] : Far)
    let w : W := ((W.start (latch s) far c.ctx c.gen (c.who tag 6)).read (c.f 40 8) (4 * c.f 36 4)).1
    let b : Bytes := ((W.start (latch s) far c.ctx c.gen (c.who tag 6)).read (c.f 40 8) (4 * c.f 36 4)).2
    ((.indexDelete tag far : Instr).wellFormed = true) ∧ (Serving s) ∧ (cmdOf s.dev tag = some c) ∧ (c.opcode = 0x12) ∧ (c.phase = 1) ∧ (c.blocks = []) ∧ (floeOn s.dev c.floe = true) ∧ (owes s.dev (.cmd tag) = false) ∧ ((W.start (latch s) far c.ctx c.gen (c.who tag 6)).read (c.f 40 8) (4 * c.f 36 4) = (w, b)) ∧ (w.ok = true) ∧ ((words4 b (c.f 36 4)).all (fun i => decide (i < (cmdIndex s.dev c).2.vectors)) = true) ∧ ((deleteRun w.d tag { c with blocks := [(0, b)] } w).boot = s.dev.boot) ∧ ((deleteRun w.d tag { c with blocks := [(0, b)] } w).errq.due = []) ∧ ((deleteRun w.d tag { c with blocks := [(0, b)] } w).tagWait = []) ∧ ((deleteRun w.d tag { c with blocks := [(0, b)] } w).tagHeld = []) ∧ ((deleteRun w.d tag { c with blocks := [(0, b)] } w).sw.seen = []) := by
  decide +kernel

theorem witness_VectorSearch_3 :
    let tag : Nat := 4095
    let c : Cmd := (cmdWith 0x12 (zeros 31 ++ leBytes 2 0x7000 ++ zeros 2 ++ leBytes 4 1 ++ leBytes 8 0x8000) 1)
    let s : State := stGal { galUp with state := 1 } (fun d => { d with cmds := [(4095, (cmdWith 0x12 (zeros 31 ++ leBytes 2 0x7000 ++ zeros 2 ++ leBytes 4 1 ++ leBytes 8 0x8000) 1))], objs := [(0x7000, ⟨slice (leBytes 8 0x4000 ++ leBytes 8 0x5000 ++ leBytes 8 0x5800 ++ leBytes 8 0x6000 ++ leBytes 8 0x7000 ++ leBytes 4 4 ++ leBytes 4 4 ++ zeros 4 ++ leBytes 2 16 ++ [1, 1, 7, 0, 8, 6]) 0 64, [(1, 3)]⟩)], mem := memWrite (memWrite [] 0x8000 (leBytes 4 2)) 0x5010 (leBytes 4 1 ++ leBytes 4 9) })
    let far : Far := ([] : Far)
    let i : Nat := 2
    let v : Nat := 9
    let w : W := ((W.start (latch s) far c.ctx c.gen (c.who tag 6)).read (c.f 40 8) 4).1
    let b : Bytes := ((W.start (latch s) far c.ctx c.gen (c.who tag 6)).read (c.f 40 8) 4).2
    let m : W := (readMeta w (cmdIndex s.dev c).2 i).1
    let y : W := writeMeta m (cmdIndex s.dev c).2 i 2 v false
    ((.indexDelete tag far : Instr).wellFormed = true) ∧ (Serving s) ∧ (cmdOf s.dev tag = some c) ∧ (c.opcode = 0x12) ∧ (c.phase = 1) ∧ (c.blocks = []) ∧ (c.pos = 0) ∧ (c.f 36 4 = 1) ∧ (okStatus c.status = true) ∧ (c.covers = []) ∧ (floeOn s.dev c.floe = true) ∧ (owes s.dev (.cmd tag) = false) ∧ ((W.start (latch s) far c.ctx c.gen (c.who tag 6)).read (c.f 40 8) 4 = (w, b)) ∧ (w.ok = true) ∧ (words4 b 1 = [i]) ∧ (i < (cmdIndex s.dev c).2.vectors) ∧ (readMeta w (cmdIndex s.dev c).2 i = (m, 1, v)) ∧ (m.ok = true) ∧ (idAwaited m.d 0x12 (cmdIndex s.dev c).1 c.order i = false) ∧ (writeMeta m (cmdIndex s.dev c).2 i 2 v false = y) ∧ (y.ok = true) ∧ (owes y.d (.cmd tag) = false) ∧ (cmdOf y.d tag = some c) ∧ (w.d.objs = s.dev.objs) ∧ (y.d.objs = s.dev.objs) ∧ (y.d.boot = s.dev.boot) ∧ (y.d.errq.due = []) ∧ (y.d.tagWait = []) ∧ (y.d.tagHeld = []) ∧ (y.d.sw.seen = []) ∧ (galleyExists y.d c.ctx c.g = true) ∧ ((galleyOf y.d c.ctx c.g).done = []) ∧ (0 < tabNum s.dev (cmdIndex s.dev c).1 1) ∧ (tabNum s.dev (cmdIndex s.dev c).1 2 < 2 ^ 32 - 1) ∧ (tabNum s.dev (cmdIndex s.dev c).1 3 < 2 ^ 32 - 1) ∧ ((tget? s.dev.objs (cmdIndex s.dev c).1).isSome = true) := by
  decide +kernel

theorem witness_VectorSearch_4 :
    let tag : Nat := 4095
    let c : Cmd := { cmdWith 0x11 (zeros 31 ++ leBytes 2 0x7000 ++ zeros 2 ++ leBytes 4 1 ++ leBytes 8 0x8000) 2 with pos := 1, covers := [2] }
    let s : State := stGal { galUp with state := 1 } (fun d => { d with cmds := [(4095, { cmdWith 0x11 (zeros 31 ++ leBytes 2 0x7000 ++ zeros 2 ++ leBytes 4 1 ++ leBytes 8 0x8000) 2 with pos := 1, covers := [2] })], objs := [(0x7000, ⟨slice (leBytes 8 0x4000 ++ leBytes 8 0x5000 ++ leBytes 8 0x5800 ++ leBytes 8 0x6000 ++ leBytes 8 0x7000 ++ leBytes 4 4 ++ leBytes 4 4 ++ zeros 4 ++ leBytes 2 16 ++ [1, 1, 7, 0, 8, 6]) 0 64, [(1, 3), (3, 8)]⟩)] })
    let far : Far := ([] : Far)
    let o : Obj := (⟨slice (leBytes 8 0x4000 ++ leBytes 8 0x5000 ++ leBytes 8 0x5800 ++ leBytes 8 0x6000 ++ leBytes 8 0x7000 ++ leBytes 4 4 ++ leBytes 4 4 ++ zeros 4 ++ leBytes 2 16 ++ [1, 1, 7, 0, 8, 6]) 0 64, [(1, 3), (3, 8)]⟩ : Obj)
    ((.indexInsert tag far : Instr).wellFormed = true) ∧ (Serving s) ∧ (cmdOf s.dev tag = some c) ∧ (c.opcode = 0x11) ∧ (c.phase = 2) ∧ (floeOn s.dev c.floe = true) ∧ (owes s.dev (.cmd tag) = false) ∧ (galleyExists s.dev c.ctx c.g = true) ∧ ((galleyOf s.dev c.ctx c.g).done = []) ∧ (c.pos = 2 * c.f 36 4 - 1) ∧ (0 < c.f 36 4) ∧ (okStatus c.status = true) ∧ (objOf s.dev c.ctx (c.f 32 2) = some o) ∧ (tget o.nums 1 0 < 2 ^ 32 - 1) ∧ (tget o.nums 3 0 < 2 ^ 32 - 1) := by
  decide +kernel

theorem witness_VectorSearch_5 :
    let tag : Nat := 4095
    let c : Cmd := (cmdWith 0x11 (zeros 31 ++ leBytes 2 0x7000 ++ zeros 2 ++ leBytes 4 1 ++ leBytes 8 0x8000) 1)
    let s : State := stGal { galUp with state := 1 } (fun d => { d with cmds := [(4095, (cmdWith 0x11 (zeros 31 ++ leBytes 2 0x7000 ++ zeros 2 ++ leBytes 4 1 ++ leBytes 8 0x8000) 1))], regs := (List.range 4).flatMap (fun f => [(floeBase f + 0x164000, 1), (floeBase f + 0x165000, 1)]) })
    let far : Far := ([] : Far)
    ((.indexInsert tag far : Instr).wellFormed = true) ∧ (Serving s) ∧ (cmdOf s.dev tag = some c) ∧ (c.opcode = 0x11) ∧ (c.phase = 1) ∧ (floeOn s.dev c.floe = true) ∧ (owes s.dev (.cmd tag) = false) ∧ (galleyExists s.dev c.ctx c.g = true) ∧ ((galleyOf s.dev c.ctx c.g).done = []) ∧ (enginesOn s.dev = []) := by
  decide +kernel

theorem witness_PagesInUse_1 :
    let page : Nat := 5
    let b : Bytes := ([7] : Bytes)
    let tf : Touch := (⟨2, 9, [], 0, false⟩ : Touch)
    let s : State := stWith (fun d => { d with touches := [(5, ⟨2, 9, [], 0, false⟩)], pages := [(5, { Page.unplaced with tier := 4, mot := true, port := 1, haddr := 65536 })], ports := [(1, { Port.reset with io := [(3, ⟨.touch 5, 65536, 65536, false, [], 0⟩)] })] })
    ((.touchFaultDmaDone page (.data b) : Instr).wellFormed = true) ∧ (Serving s) ∧ (s.dev.touches = [(page, tf)]) ∧ (tf.queued = false) ∧ (tf.waiters = []) ∧ ((pageOf s.dev page).tier = 4) ∧ ((pageOf s.dev page).mot = true) ∧ (floeOn s.dev (homeFloe page) = true) := by
  decide +kernel

theorem witness_PagesInUse_2 :
    let page : Nat := 5
    let x : Nat := 1
    let o : Owner := (.cmd 7 : Owner)
    let tf : Touch := (⟨2, 9, [.engine (.cmd 7)], 0, false⟩ : Touch)
    let s : State := stWith (fun d => { d with touches := [(5, ⟨2, 9, [.engine (.cmd 7)], 0, false⟩)], cmds := [(7, cmdWith 1 [] 2)] })
    ((.touchFaultDmaDone page (.err x) : Instr).wellFormed = true) ∧ (Serving s) ∧ (s.dev.touches = [(page, tf)]) ∧ (tf.queued = false) ∧ (tf.waiters = [.engine o]) ∧ (wantsRead s.dev o = true) := by
  decide +kernel

theorem witness_PagesInUse_3 :
    let page : Nat := 6
    let blk : Nat := 0
    let unit : Nat := 3
    let s : State := stWith (fun d => { d with packJobs := [⟨6, 0, 3, []⟩], pages := [(6, { Page.unplaced with tier := 2, packed := true })], packs := [(6, leBytes 2 64 ++ leBytes 2 4112 ++ zeros 60 ++ blockHeader 0 4112 0 1 0 0x98F94189 0 ++ zeros 4096)] })
    ((.packedDecodeDone page blk : Instr).wellFormed = true) ∧ (Serving s) ∧ (s.dev.packJobs = [⟨page, blk, unit, []⟩]) ∧ ((pageOf s.dev page).packed = true) ∧ (floeOn s.dev (homeFloe page) = true) ∧ (s.dev.media = []) ∧ (s.dev.cache = []) ∧ ((unpackBlock (tget s.dev.packs page []) blk).fail = none) := by
  decide +kernel

theorem witness_PagesInUse_4 :
    let f : Nat := 3
    let s : State := stWith (fun d => { d with regs := [(0x03150000, 1)], boot := { d.boot with windows := [] } })
    ((.plcEpochSweep f : Instr).wellFormed = true) ∧ (Serving s) ∧ (rf s.dev (plcBase f) 0 1 = 1) ∧ (floeOn s.dev f = true) ∧ (admits s.dev 6 = false) := by
  decide +kernel

theorem witness_PagesInUse_5 :
    let f : Nat := 3
    let page : Nat := 7
    let tg : Nat := 1
    let p : Page := { Page.unplaced with tier := 2 }
    let s : State := stWith (fun d => { d with regs := [(0x03150000, 1)], pages := [(7, { Page.unplaced with tier := 2 })], counts := [(7, (65535, 0))], boot := { d.boot with stackCaps := [(9, 64), (10, 64), (11, 64)] } })
    ((.plcEpochSweep f : Instr).wellFormed = true) ∧ (Serving s) ∧ (rf s.dev (plcBase f) 0 1 = 1) ∧ (floeOn s.dev f = true) ∧ (suspended s.dev f = false) ∧ (admits s.dev 6 = true) ∧ (s.dev.pages = [(page, p)]) ∧ (homeFloe page = f) ∧ (p.tier = 1 ∨ p.tier = 2) ∧ (sweepTarget (countUsed (latch s) page) page = some tg) ∧ (s.dev.moves = []) ∧ (s.dev.queue = []) := by
  decide +kernel

theorem witness_PagesInUse_8 :
    let page : Nat := 7
    let m : Move := (Move.pin 1 12 0 0 none)
    let s : State := stWith (fun d => { d with moves := [(7, Move.pin 1 12 0 0 none)], pages := [(7, { Page.unplaced with tier := 2, k := 3 })], mem := [(7 * 65536, 1), (8 * 65536, 1)] })
    ((.moveCopyDone page : Instr).wellFormed = true) ∧ (Serving s) ∧ (tget? s.dev.moves page = some m) ∧ (m.swapped = false) ∧ (m.tag = none) ∧ (m.target = 1 ∨ m.target = 2) ∧ (floeRuns s.dev (homeFloe page) = true) ∧ ((pageOf s.dev page).packed = false) ∧ (s.dev.media = []) ∧ (Memory.wf s.dev.mem = true) := by
  decide +kernel

theorem witness_PagesInUse_9 :
    let page : Nat := 7
    let m : Move := (⟨1, 12, true, 2, 5, 0, 0, 0, 0, [], none, false⟩ : Move)
    let s : State := stWith (fun d => { d with moves := [(7, ⟨1, 12, true, 2, 5, 0, 0, 0, 0, [], none, false⟩)], media := [(mediaKey 3 2 5 0, [(1, 1)]), (mediaKey 3 2 6 0, [(1, 1)])] })
    ((.moveRelease page : Instr).wellFormed = true) ∧ (Serving s) ∧ (tget? s.dev.moves page = some m) ∧ (m.swapped = true) := by
  decide +kernel

theorem witness_PagesInUse_10 :
    let page : Nat := 7
    let m : Move := (Move.pin 5 0 7 9 none)
    let s : State := stWith (fun d => { d with moves := [(7, Move.pin 5 0 7 9 none)] })
    ((.moveCopyTimeout page : Instr).wellFormed = true) ∧ (Serving s) ∧ (tget? s.dev.moves page = some m) ∧ (m.swapped = false) ∧ (m.tag = none) ∧ (m.target = 1 ∨ m.target = 2 ∨ m.target = 5) := by
  decide +kernel

theorem witness_PagesInUse_11 :
    let f : Nat := 3
    let s : State := stUp
    ((.cacheFlush f : Instr).wellFormed = true) ∧ (Serving s) ∧ (floeOn s.dev f = true) ∧ (s.dev.flushBusy.contains f = false) := by
  decide +kernel

theorem witness_PagesInUse_12 :
    let f : Nat := 3
    let l : Nat := 3072
    let b : Bytes := List.replicate 64 (5 : Byte)
    let s : State := stWith (fun d => { d with flushBusy := [3], cache := [(3072, ⟨List.replicate 64 (5 : Byte), true⟩)], pages := [(3, { Page.unplaced with tier := 1 })] })
    ((.cacheFlushDone f : Instr).wellFormed = true) ∧ (Serving s) ∧ (s.dev.flushBusy.contains f = true) ∧ (s.dev.cache = [(l, ⟨b, true⟩)]) ∧ (homeFloe (pageOfLine l) = f) ∧ ((pageOf s.dev (pageOfLine l)).tier = 1) ∧ ((pageOf s.dev (pageOfLine l)).packed = false) ∧ (s.dev.moves = []) ∧ (tget s.dev.sliceFlips l 0 = 0) := by
  decide +kernel

theorem witness_MigrateAndPrefetch_1 :
    let tag : Nat := 4095
    let page : Nat := 0
    let far : Far := ([] : Far)
    let c : Cmd := cmdWith 0x30 (zeros 39 ++ [1, 0, 0, 0, 1, 4]) 1
    let s : State := stGal { galUp with state := 1 } (fun d => { d with cmds := [(4095, cmdWith 0x30 (zeros 39 ++ [1, 0, 0, 0, 1, 4]) 1)], free := 0 })
    ((.migrate tag far : Instr).wellFormed = true) ∧ (Serving s) ∧ (cmdOf s.dev tag = some c) ∧ (c.opcode = 0x30) ∧ (c.phase = 1) ∧ (floeOn s.dev c.floe = true) ∧ (owes s.dev (.cmd tag) = false) ∧ (galleyExists s.dev c.ctx c.g = true) ∧ ((galleyOf s.dev c.ctx c.g).done = []) ∧ (c.pos = 0) ∧ (okStatus c.status = true) ∧ (c.f 40 4 = 1) ∧ ((W.start (latch s) far c.ctx c.gen (c.who tag 4)).wholePage (c.f 32 8) = ((W.start (latch s) far c.ctx c.gen (c.who tag 4)), some page)) ∧ (floeOn s.dev (homeFloe page) = true) ∧ (s.dev.moves = []) ∧ (s.dev.touches = []) ∧ ((pageOf s.dev page).owner = c.ctx) ∧ ((pageOf s.dev page).region = false) ∧ ((pageOf s.dev page).durable = false) ∧ (c.f 44 1 = 1) ∧ (c.f 45 1 = 4) ∧ ((pageOf s.dev page).tier = 1) ∧ ((pageOf s.dev page).pinned = false) := by
  decide +kernel

theorem witness_MigrateAndPrefetch_2 :
    let tag : Nat := 4095
    let page : Nat := 0
    let far : Far := ([] : Far)
    let c : Cmd := cmdWith 0x30 (zeros 39 ++ [1, 0, 0, 0, 0, 0]) 1
    let s : State := stGal { galUp with state := 1 } (fun d => { d with cmds := [(4095, cmdWith 0x30 (zeros 39 ++ [1, 0, 0, 0, 0, 0]) 1)], mem := [(5, 7), (65536, 1)], cache := [(1, ⟨zeros 64, true⟩), (1024, ⟨zeros 64, true⟩)] })
    ((.migrate tag far : Instr).wellFormed = true) ∧ (Serving s) ∧ (cmdOf s.dev tag = some c) ∧ (c.opcode = 0x30) ∧ (c.phase = 1) ∧ (floeOn s.dev c.floe = true) ∧ (owes s.dev (.cmd tag) = false) ∧ (galleyExists s.dev c.ctx c.g = true) ∧ ((galleyOf s.dev c.ctx c.g).done = []) ∧ (c.pos = 0) ∧ (okStatus c.status = true) ∧ (c.f 40 4 = 1) ∧ ((W.start (latch s) far c.ctx c.gen (c.who tag 4)).wholePage (c.f 32 8) = ((W.start (latch s) far c.ctx c.gen (c.who tag 4)), some page)) ∧ (floeOn s.dev (homeFloe page) = true) ∧ (s.dev.moves = []) ∧ (s.dev.touches = []) ∧ ((pageOf s.dev page).owner = c.ctx) ∧ ((pageOf s.dev page).region = false) ∧ ((pageOf s.dev page).durable = false) ∧ (c.f 44 1 = 0) ∧ ((pageOf s.dev page).tier = 1) ∧ (s.dev.dir = []) ∧ (s.dev.orphans = []) := by
  decide +kernel

theorem witness_MigrateAndPrefetch_3 :
    let tag : Nat := 4095
    let page : Nat := 0
    let far : Far := ([] : Far)
    let c : Cmd := cmdWith 0x30 (zeros 39 ++ [1, 0, 0, 0, 5, 0]) 1
    let s : State := stGal { galUp with state := 1 } (fun d => { d with cmds := [(4095, cmdWith 0x30 (zeros 39 ++ [1, 0, 0, 0, 5, 0]) 1)], pages := [(0, { Page.unplaced with tier := 1, owner := 3 })] })
    ((.migrate tag far : Instr).wellFormed = true) ∧ (Serving s) ∧ (cmdOf s.dev tag = some c) ∧ (c.opcode = 0x30) ∧ (c.phase = 1) ∧ (floeOn s.dev c.floe = true) ∧ (owes s.dev (.cmd tag) = false) ∧ (galleyExists s.dev c.ctx c.g = true) ∧ ((galleyOf s.dev c.ctx c.g).done = []) ∧ (c.pos = 0) ∧ (okStatus c.status = true) ∧ (c.f 40 4 = 1) ∧ ((W.start (latch s) far c.ctx c.gen (c.who tag 4)).wholePage (c.f 32 8) = ((W.start (latch s) far c.ctx c.gen (c.who tag 4)), some page)) ∧ (floeOn s.dev (homeFloe page) = true) ∧ (s.dev.moves = []) ∧ (s.dev.touches = []) ∧ ((pageOf s.dev page).tier ≠ 0) ∧ ((pageOf s.dev page).region = true ∨ (pageOf s.dev page).owner ≠ c.ctx) ∧ (c.record = none) ∧ (openOf s.dev.errq 14 c.floe = none) := by
  decide +kernel

theorem witness_MigrateAndPrefetch_4 :
    let tag : Nat := 4095
    let u : Nat := 0xFFC0
    let i : Nat := 0
    let far : Far := ([] : Far)
    let c : Cmd := cmdWith 0x31 (zeros 31 ++ leBytes 8 0xFFC0 ++ leBytes 8 64) 1
    let r : Range := (⟨0, 65536, 0, true, true, true, false, none, 0, none, none, none, 0⟩ : Range)
    let s : State := stGal { galUp with state := 1 } (fun d => { d with cmds := [(4095, cmdWith 0x31 (zeros 31 ++ leBytes 8 0xFFC0 ++ leBytes 8 64) 1)], mem := [(0xFFFF, 7)] })
    ((.prefetch tag far : Instr).wellFormed = true) ∧ (Serving s) ∧ (cmdOf s.dev tag = some c) ∧ (c.opcode = 0x31) ∧ (c.phase = 1) ∧ (floeOn s.dev c.floe = true) ∧ (owes s.dev (.cmd tag) = false) ∧ (galleyExists s.dev c.ctx c.g = true) ∧ ((galleyOf s.dev c.ctx c.g).done = []) ∧ (okStatus c.status = true) ∧ (c.f 32 8 % 64 = 0) ∧ (c.f 40 8 = 64) ∧ (c.f 48 1 = 0) ∧ (findRange s.dev c.ctx c.gen (c.f 32 8) = some (i, r)) ∧ (r.r = true) ∧ (u = r.uni + (c.f 32 8 - r.start)) ∧ ((pageOf s.dev (u / 65536)).tier = 1 ∨ (pageOf s.dev (u / 65536)).tier = 2) ∧ ((pageOf s.dev (u / 65536)).packed = false) ∧ ((pageOf s.dev (u / 65536)).mot = false) ∧ (floeOn s.dev (homeFloe (u / 65536)) = true) ∧ (s.dev.dir = []) ∧ (s.dev.media = []) ∧ (s.dev.cache = []) := by
  decide +kernel

theorem witness_MatrixEngine_1 :
    let c : Nat := 63
    let i : TInstr := (⟨2 ^ 21, 0, 0, 0, false⟩ : TInstr)
    let s : State := stCore 63 17 (⟨2 ^ 21, 0, 0, 0, false⟩ : TInstr) { Core.idle with lm := [] }
    let st : Nat := 17
    ((.tnop c st : Instr).wellFormed = true) ∧ (Serving s) ∧ (readyHead s.dev c st = some i) ∧ (bits i.w0 0 8 = 0) := by
  decide +kernel

theorem witness_MatrixEngine_2 :
    let c : Nat := 63
    let i : TInstr := (⟨1, 0, 0, 0, false⟩ : TInstr)
    let s : State := stCore 63 0 (⟨1, 0, 0, 0, false⟩ : TInstr) { Core.idle with lm := [], acc := [(5, ⟨1, 2, 3⟩)], cs := [(5, 1)] }
    ((.mzero c : Instr).wellFormed = true) ∧ (Serving s) ∧ (readyHead s.dev c 0 = some i) ∧ (bits i.w0 0 8 = 1) := by
  decide +kernel

theorem witness_MatrixEngine_3 :
    let c : Nat := 63
    let i : TInstr := (⟨2, 0x100, 0, 0, false⟩ : TInstr)
    let s : State := stCore 63 0 (⟨2, 0x100, 0, 0, false⟩ : TInstr) { Core.idle with lm := memWrite (memWrite [] 0x100 (tileBytes 0x200 1 32 64 11)) 0x200 (cellOf ⟨-5, 1, 0⟩), acc := [(1, ⟨9, 1, 0⟩)] }
    let dm : Dev := (sramRead (latch s) c 1 (engineSpans (coreOf s.dev c) 2 i)).1
    let tl : Tile := tileOf (lmRead { Core.idle with lm := memWrite [] 0x100 (tileBytes 0x200 1 32 64 11) } 0x100 32)
    ((.mload c : Instr).wellFormed = true) ∧ (Serving s) ∧ (readyHead s.dev c 0 = some i) ∧ (bits i.w0 0 8 = 2) ∧ (sramRead (latch s) c 1 (engineSpans (coreOf s.dev c) 2 i) = (dm, false)) ∧ ((readTile (coreOf dm c) i.w1 false (fun t => t.fmt = 11 && decide (t.rows ≤ 64) && decide (t.cols ≤ 64) && !t.scaled)).toOption = some tl) ∧ ((List.range tl.rows).all (fun a => (List.range tl.cols).all (fun b => (slugOf (lmRead (coreOf dm c) (tl.row a + 32 * b) 32)).isSome)) = true) := by
  decide +kernel

theorem witness_MatrixEngine_4 :
    let c : Nat := 63
    let i : TInstr := (⟨3, 0x100, 0x120, 0, false⟩ : TInstr)
    let s : State := stCore 63 0 (⟨3, 0x100, 0x120, 0, false⟩ : TInstr) { Core.idle with lm := memWrite (memWrite (memWrite (memWrite [] 0x100 (tileBytes 0x200 2 2 64 0)) 0x120 (tileBytes 0x300 1 2 64 0)) 0x200 ([0x38, 0x40] : Bytes)) 0x300 ([0x40, 0x48] : Bytes), acc := [(0, ⟨9, 1, 0⟩)], cs := [(0, 9)] }
    let dm : Dev := (sramRead (latch s) c 1 (engineSpans (coreOf s.dev c) 3 i)).1
    let ta : Tile := tileOf (tileBytes 0x200 2 2 64 0)
    let tb : Tile := tileOf (tileBytes 0x300 1 2 64 0)
    ((.mmul c : Instr).wellFormed = true) ∧ (Serving s) ∧ (readyHead s.dev c 0 = some i) ∧ (bits i.w0 0 8 = 3) ∧ (sramRead (latch s) c 1 (engineSpans (coreOf s.dev c) 3 i) = (dm, false)) ∧ ((readTile (coreOf dm c) i.w1 false (fun t => decide (t.rows ≤ 64))).toOption = some ta) ∧ ((readTile (coreOf dm c) i.w2 false (fun t => decide (t.rows ≤ 64))).toOption = some tb) ∧ (ta.cols = tb.cols) ∧ (mmulPair ta tb = true) ∧ (checkCols (coreOf dm c) = none) := by
  decide +kernel

theorem witness_MatrixEngine_5 :
    let c : Nat := 63
    let i : TInstr := (⟨3, 0x100, 0x120, 0, false⟩ : TInstr)
    let s : State := stCore 63 0 (⟨3, 0x100, 0x120, 0, false⟩ : TInstr) { Core.idle with lm := memWrite (memWrite (memWrite (memWrite (memWrite [] 0x100 (tileBytes 0x200 2 2 64 0)) 0x120 (tileBytes 0x300 1 2 64 0)) 0x200 ([0x38, 0x40] : Bytes)) 0x300 ([0x40, 0x48] : Bytes)) 0x106 ([4] : Bytes) }
    let ta : Tile := tileOf (tileBytes 0x200 2 4 64 0)
    let tb : Tile := tileOf (tileBytes 0x300 1 2 64 0)
    ((.mmul c : Instr).wellFormed = true) ∧ (Serving s) ∧ (readyHead s.dev c 0 = some i) ∧ (bits i.w0 0 8 = 3) ∧ ((coreOf s.dev c).flips = []) ∧ ((readTile (coreOf s.dev c) i.w1 false (fun t => decide (t.rows ≤ 64))).toOption = some ta) ∧ ((readTile (coreOf s.dev c) i.w2 false (fun t => decide (t.rows ≤ 64))).toOption = some tb) ∧ (ta.cols ≠ tb.cols) ∧ (openOf s.dev.errq 2 c = none) := by
  decide +kernel

theorem witness_MatrixEngine_6 :
    let c : Nat := 63
    let i : TInstr := (⟨4 + 2 ^ 8, 0x100, 0, 0, false⟩ : TInstr)
    let s : State := stCore 63 0 (⟨4 + 2 ^ 8, 0x100, 0, 0, false⟩ : TInstr) { Core.idle with lm := memWrite [] 0x100 (tileBytes 0x200 2 4 64 9), acc := [(0, ⟨2 ^ 120 * 3, 1, 0⟩), (64, ⟨2 ^ 121, 1, 0⟩)], cs := [(0, 2 ^ 120 * 5)] }
    let dm : Dev := (sramRead (latch s) c 1 (engineSpans (coreOf s.dev c) 4 i)).1
    let tl : Tile := tileOf (tileBytes 0x200 2 4 64 9)
    ((.mstore c : Instr).wellFormed = true) ∧ (Serving s) ∧ (readyHead s.dev c 0 = some i) ∧ (bits i.w0 0 8 = 4) ∧ (sramRead (latch s) c 1 (engineSpans (coreOf s.dev c) 4 i) = (dm, false)) ∧ ((readTile (coreOf dm c) i.w1 true (fun t => mstoreFmt t.fmt && !t.scaled && decide (t.rows ≤ 64) && decide (t.cols ≤ 64))).toOption = some tl) ∧ (checkCols (coreOf dm c) = none) := by
  decide +kernel

theorem witness_MatrixEngine_7 :
    let c : Nat := 63
    let i : TInstr := (⟨4, 0x100, 0, 0, false⟩ : TInstr)
    let s : State := stCore 63 0 (⟨4, 0x100, 0, 0, false⟩ : TInstr) { Core.idle with lm := memWrite [] 0x100 (tileBytes 0x200 2 4 64 9), acc := [(63, ⟨1, 1, 0⟩)] }
    let j : Nat := 63
    let tl : Tile := tileOf (tileBytes 0x200 2 4 64 9)
    ((.mstore c : Instr).wellFormed = true) ∧ (Serving s) ∧ (readyHead s.dev c 0 = some i) ∧ (bits i.w0 0 8 = 4) ∧ ((coreOf s.dev c).flips = []) ∧ ((readTile (coreOf s.dev c) i.w1 true (fun t => mstoreFmt t.fmt && !t.scaled && decide (t.rows ≤ 64) && decide (t.cols ≤ 64))).toOption = some tl) ∧ (checkCols (coreOf s.dev c) = some j) ∧ (openOf s.dev.errq 2 c = none) := by
  decide +kernel

theorem witness_VectorEngine_1 :
    let c : Nat := 63
    let i : TInstr := (⟨0x10, 0x100, 63, 0, false⟩ : TInstr)
    let s : State := stCore 63 1 (⟨0x10, 0x100, 63, 0, false⟩ : TInstr) { Core.idle with lm := memWrite (memWrite [] 0x100 (tileBytes 0x200 2 100 128 9)) 0x200 (List.replicate 200 (7 : Byte)), vregs := [(63 * 512 + 511, 1)] }
    let dm : Dev := (sramRead (latch s) c 2 (engineSpans (coreOf s.dev c) 0x10 i)).1
    let tl : Tile := tileOf (tileBytes 0x200 2 100 128 9)
    ((.vld c : Instr).wellFormed = true) ∧ (Serving s) ∧ (readyHead s.dev c 1 = some i) ∧ (bits i.w0 0 8 = 0x10) ∧ (sramRead (latch s) c 2 (engineSpans (coreOf s.dev c) 0x10 i) = (dm, false)) ∧ ((readTile (coreOf dm c) i.w1 false (fun _ => true)).toOption = some tl) ∧ (bits i.w2 0 6 + vregsOf (tl.rows * tl.rowBytes) ≤ 64) := by
  decide +kernel

theorem witness_VectorEngine_2 :
    let c : Nat := 63
    let i : TInstr := (⟨0x11, 0x100, 63, 0, false⟩ : TInstr)
    let s : State := stCore 63 1 (⟨0x11, 0x100, 63, 0, false⟩ : TInstr) { Core.idle with lm := memWrite (memWrite [] 0x100 (tileBytes 0x200 2 100 128 9)) 0x200 (List.replicate 200 (7 : Byte)), vregs := [(63 * 512 + 199, 1)] }
    let dm : Dev := (sramRead (latch s) c 2 (engineSpans (coreOf s.dev c) 0x11 i)).1
    let tl : Tile := tileOf (tileBytes 0x200 2 100 128 9)
    ((.vst c : Instr).wellFormed = true) ∧ (Serving s) ∧ (readyHead s.dev c 1 = some i) ∧ (bits i.w0 0 8 = 0x11) ∧ (sramRead (latch s) c 2 (engineSpans (coreOf s.dev c) 0x11 i) = (dm, false)) ∧ ((readTile (coreOf dm c) i.w1 true (fun _ => true)).toOption = some tl) ∧ (bits i.w2 0 6 + vregsOf (tl.rows * tl.rowBytes) ≤ 64) := by
  decide +kernel

theorem witness_VectorEngine_3 :
    let c : Nat := 63
    let i : TInstr := (⟨0x12, 61 + 62 * 2 ^ 8 + 63 * 2 ^ 16 + 0 * 2 ^ 24 + 1 * 2 ^ 32 + 9 * 2 ^ 40 + 9 * 2 ^ 44, 0, 0, false⟩ : TInstr)
    let s : State := stCore 63 1 (⟨0x12, 61 + 62 * 2 ^ 8 + 63 * 2 ^ 16 + 0 * 2 ^ 24 + 1 * 2 ^ 32 + 9 * 2 ^ 40 + 9 * 2 ^ 44, 0, 0, false⟩ : TInstr) { Core.idle with lm := [], vregs := memWrite (memWrite [] (512 * 62) ([0, 0, 128, 63, 0, 0, 0, 64] : Bytes)) (512 * 63) ([0, 0, 64, 64] : Bytes) }
    let dm : Dev := (sramRead (latch s) c 2 (engineSpans (coreOf s.dev c) 0x12 i)).1
    ((.vop c : Instr).wellFormed = true) ∧ (Serving s) ∧ (readyHead s.dev c 1 = some i) ∧ (bits i.w0 0 8 = 0x12) ∧ (sramRead (latch s) c 2 (engineSpans (coreOf s.dev c) 0x12 i) = (dm, false)) ∧ (i.mod ≤ 9) ∧ (i.mod ≠ 8) ∧ (countOk (regWord i) = true) ∧ ((wideFloat (regWord i).sfmt || (regWord i).sfmt == 5 || (regWord i).sfmt == 10) = true) ∧ ((regWord i).dfmt = (regWord i).sfmt) ∧ (runOk (regWord i).vd (regWord i).count = true) ∧ (i.mod = 9 ∨ runOk (regWord i).vb (regWord i).count = true) ∧ (i.mod ≠ 3 ∨ runOk (regWord i).vc (regWord i).count = true) ∧ (Memory.wf (coreOf dm c).vregs = true) := by
  decide +kernel

theorem witness_VectorEngine_4 :
    let c : Nat := 63
    let i : TInstr := (⟨0x12 + 8 * 2 ^ 8, 63 + 62 * 2 ^ 8 + 0 * 2 ^ 16 + 0 * 2 ^ 24 + 1 * 2 ^ 32 + 9 * 2 ^ 40 + 7 * 2 ^ 44, 0, 0, false⟩ : TInstr)
    let s : State := stCore 63 1 (⟨0x12 + 8 * 2 ^ 8, 63 + 62 * 2 ^ 8 + 0 * 2 ^ 16 + 0 * 2 ^ 24 + 1 * 2 ^ 32 + 9 * 2 ^ 40 + 7 * 2 ^ 44, 0, 0, false⟩ : TInstr) { Core.idle with lm := [], vregs := memWrite (memWrite [] (512 * 62) ([0, 0, 128, 63, 0, 0, 0, 64] : Bytes)) (512 * 63) ([0, 0, 64, 64] : Bytes) }
    let dm : Dev := (sramRead (latch s) c 2 (engineSpans (coreOf s.dev c) 0x12 i)).1
    ((.vop c : Instr).wellFormed = true) ∧ (Serving s) ∧ (readyHead s.dev c 1 = some i) ∧ (bits i.w0 0 8 = 0x12) ∧ (sramRead (latch s) c 2 (engineSpans (coreOf s.dev c) 0x12 i) = (dm, false)) ∧ (i.mod = 8) ∧ (countOk (regWord i) = true) ∧ ((regWord i).sfmt ≤ 10) ∧ ((regWord i).dfmt ≤ 10) ∧ (runOk (regWord i).vd (destRegs (regWord i)) = true) := by
  decide +kernel

theorem witness_VectorEngine_5 :
    let c : Nat := 63
    let i : TInstr := (⟨0x13 + 3 * 2 ^ 8, 63 + 62 * 2 ^ 8 + 0 * 2 ^ 16 + 0 * 2 ^ 24 + 2 * 2 ^ 32 + 9 * 2 ^ 40 + 9 * 2 ^ 44, 0, 0, false⟩ : TInstr)
    let s : State := stCore 63 1 (⟨0x13 + 3 * 2 ^ 8, 63 + 62 * 2 ^ 8 + 0 * 2 ^ 16 + 0 * 2 ^ 24 + 2 * 2 ^ 32 + 9 * 2 ^ 40 + 9 * 2 ^ 44, 0, 0, false⟩ : TInstr) { Core.idle with lm := [], vregs := memWrite (memWrite [] (512 * 62) ([0, 0, 128, 63, 0, 0, 0, 64] : Bytes)) (512 * 63) ([0, 0, 64, 64] : Bytes) }
    let dm : Dev := (sramRead (latch s) c 2 (engineSpans (coreOf s.dev c) 0x13 i)).1
    let l : List (Nat × Nat) := (if i.mod % 2 = 1 then laneElems (coreOf dm c) (regWord i) else [srcElems (coreOf dm c) (regWord i).va (regWord i).count (regWord i).sfmt]).map (maxElems (regWord i).sfmt i.sat)
    let b : Bytes := vpad (packElems (regWord i).sfmt (l.map (·.1)))
    ((.vred c : Instr).wellFormed = true) ∧ (Serving s) ∧ (readyHead s.dev c 1 = some i) ∧ (bits i.w0 0 8 = 0x13) ∧ (sramRead (latch s) c 2 (engineSpans (coreOf s.dev c) 0x13 i) = (dm, false)) ∧ (countOk (regWord i) = true) ∧ ((regWord i).sfmt ≤ 10) ∧ (2 ≤ i.mod % 4) ∧ (l = (if i.mod % 2 = 1 then laneElems (coreOf dm c) (regWord i) else [srcElems (coreOf dm c) (regWord i).va (regWord i).count (regWord i).sfmt]).map (maxElems (regWord i).sfmt i.sat)) ∧ (b = vpad (packElems (regWord i).sfmt (l.map (·.1)))) ∧ (runOk (regWord i).vd (vregsOf b.length) = true) := by
  decide +kernel

theorem witness_VectorEngine_6 :
    let c : Nat := 63
    let i : TInstr := (⟨0x13, 63 + 62 * 2 ^ 8 + 0 * 2 ^ 16 + 0 * 2 ^ 24 + 2 * 2 ^ 32 + 9 * 2 ^ 40 + 0 * 2 ^ 44, 0, 0, false⟩ : TInstr)
    let s : State := stCore 63 1 (⟨0x13, 63 + 62 * 2 ^ 8 + 0 * 2 ^ 16 + 0 * 2 ^ 24 + 2 * 2 ^ 32 + 9 * 2 ^ 40 + 0 * 2 ^ 44, 0, 0, false⟩ : TInstr) { Core.idle with lm := [], vregs := memWrite (memWrite [] (512 * 62) ([0, 0, 128, 63, 0, 0, 0, 64] : Bytes)) (512 * 63) ([0, 0, 64, 64] : Bytes) }
    let dm : Dev := (sramRead (latch s) c 2 (engineSpans (coreOf s.dev c) 0x13 i)).1
    let l : List (Slug × Nat) := (if i.mod % 2 = 1 then laneElems (coreOf dm c) (regWord i) else [srcElems (coreOf dm c) (regWord i).va (regWord i).count (regWord i).sfmt]).map (fun g => sumNums (g.map (decodeNum (regWord i).sfmt)))
    let b : Bytes := vpad (l.flatMap (fun s => cellOf s.1))
    ((.vred c : Instr).wellFormed = true) ∧ (Serving s) ∧ (readyHead s.dev c 1 = some i) ∧ (bits i.w0 0 8 = 0x13) ∧ (sramRead (latch s) c 2 (engineSpans (coreOf s.dev c) 0x13 i) = (dm, false)) ∧ (countOk (regWord i) = true) ∧ ((regWord i).sfmt ≤ 10) ∧ (i.mod % 4 < 2) ∧ (bitOf i.mod 2 = false) ∧ (l = (if i.mod % 2 = 1 then laneElems (coreOf dm c) (regWord i) else [srcElems (coreOf dm c) (regWord i).va (regWord i).count (regWord i).sfmt]).map (fun g => sumNums (g.map (decodeNum (regWord i).sfmt)))) ∧ (b = vpad (l.flatMap (fun s => cellOf s.1))) ∧ (runOk (regWord i).vd (vregsOf b.length) = true) := by
  decide +kernel

theorem witness_VectorEngine_7 :
    let c : Nat := 63
    let i : TInstr := (⟨0x13 + 5 * 2 ^ 8, 63 + 62 * 2 ^ 8 + 0 * 2 ^ 16 + 0 * 2 ^ 24 + 2 * 2 ^ 32 + 9 * 2 ^ 40 + 7 * 2 ^ 44, 0, 0, false⟩ : TInstr)
    let s : State := stCore 63 1 (⟨0x13 + 5 * 2 ^ 8, 63 + 62 * 2 ^ 8 + 0 * 2 ^ 16 + 0 * 2 ^ 24 + 2 * 2 ^ 32 + 9 * 2 ^ 40 + 7 * 2 ^ 44, 0, 0, false⟩ : TInstr) { Core.idle with lm := [], vregs := memWrite (memWrite [] (512 * 62) ([0, 0, 128, 63, 0, 0, 0, 64] : Bytes)) (512 * 63) ([0, 0, 64, 64] : Bytes) }
    let dm : Dev := (sramRead (latch s) c 2 (engineSpans (coreOf s.dev c) 0x13 i)).1
    let l : List (Slug × Nat) := (if i.mod % 2 = 1 then laneElems (coreOf dm c) (regWord i) else [srcElems (coreOf dm c) (regWord i).va (regWord i).count (regWord i).sfmt]).map (fun g => sumNums (g.map (decodeNum (regWord i).sfmt)))
    let b : Bytes := vpad (packElems (regWord i).dfmt ((l.map (fun s => slugTo (regWord i).dfmt i.sat s.1)).map (·.1)))
    ((.vred c : Instr).wellFormed = true) ∧ (Serving s) ∧ (readyHead s.dev c 1 = some i) ∧ (bits i.w0 0 8 = 0x13) ∧ (sramRead (latch s) c 2 (engineSpans (coreOf s.dev c) 0x13 i) = (dm, false)) ∧ (countOk (regWord i) = true) ∧ ((regWord i).sfmt ≤ 10) ∧ (i.mod % 4 < 2) ∧ (bitOf i.mod 2 = true) ∧ ((regWord i).dfmt ≤ 10) ∧ (l = (if i.mod % 2 = 1 then laneElems (coreOf dm c) (regWord i) else [srcElems (coreOf dm c) (regWord i).va (regWord i).count (regWord i).sfmt]).map (fun g => sumNums (g.map (decodeNum (regWord i).sfmt)))) ∧ (b = vpad (packElems (regWord i).dfmt ((l.map (fun s => slugTo (regWord i).dfmt i.sat s.1)).map (·.1)))) ∧ (runOk (regWord i).vd (vregsOf b.length) = true) := by
  decide +kernel

theorem witness_VectorEngine_8 :
    let c : Nat := 63
    let i : TInstr := (⟨0x14 + 1 * 2 ^ 8, 61 + 62 * 2 ^ 8 + 0 * 2 ^ 16 + 0 * 2 ^ 24 + 1 * 2 ^ 32 + 9 * 2 ^ 40 + 7 * 2 ^ 44, 0, 0, false⟩ : TInstr)
    let s : State := stCore 63 1 (⟨0x14 + 1 * 2 ^ 8, 61 + 62 * 2 ^ 8 + 0 * 2 ^ 16 + 0 * 2 ^ 24 + 1 * 2 ^ 32 + 9 * 2 ^ 40 + 7 * 2 ^ 44, 0, 0, false⟩ : TInstr) { Core.idle with lm := [], vregs := memWrite (memWrite [] (512 * 62) ([0, 0, 128, 63, 0, 0, 0, 64] : Bytes)) (512 * 63) ([0, 0, 64, 64] : Bytes) }
    let dm : Dev := (sramRead (latch s) c 2 (engineSpans (coreOf s.dev c) 0x14 i)).1
    ((.vfn c : Instr).wellFormed = true) ∧ (Serving s) ∧ (readyHead s.dev c 1 = some i) ∧ (bits i.w0 0 8 = 0x14) ∧ (sramRead (latch s) c 2 (engineSpans (coreOf s.dev c) 0x14 i) = (dm, false)) ∧ (countOk (regWord i) = true) ∧ (wideFloat (regWord i).sfmt = true) ∧ (wideFloat (regWord i).dfmt = true) ∧ (runOk (regWord i).vd (destRegs (regWord i)) = true) := by
  decide +kernel

theorem witness_VectorEngine_9 :
    let c : Nat := 63
    let i : TInstr := (⟨0x14 + 2 * 2 ^ 8, 61 + 62 * 2 ^ 8 + 0 * 2 ^ 16 + 0 * 2 ^ 24 + 1 * 2 ^ 32 + 9 * 2 ^ 40 + 9 * 2 ^ 44, 0, 0, false⟩ : TInstr)
    let s : State := stCore 63 1 (⟨0x14 + 2 * 2 ^ 8, 61 + 62 * 2 ^ 8 + 0 * 2 ^ 16 + 0 * 2 ^ 24 + 1 * 2 ^ 32 + 9 * 2 ^ 40 + 9 * 2 ^ 44, 0, 0, false⟩ : TInstr) { Core.idle with lm := [], vregs := memWrite (memWrite [] (512 * 62) ([0, 0, 128, 63, 0, 0, 0, 64] : Bytes)) (512 * 63) ([0, 0, 64, 64] : Bytes) }
    let dm : Dev := (sramRead (latch s) c 2 (engineSpans (coreOf s.dev c) 0x14 i)).1
    ((.vfn c : Instr).wellFormed = true) ∧ (Serving s) ∧ (readyHead s.dev c 1 = some i) ∧ (bits i.w0 0 8 = 0x14) ∧ (sramRead (latch s) c 2 (engineSpans (coreOf s.dev c) 0x14 i) = (dm, false)) ∧ (countOk (regWord i) = true) ∧ (wideFloat (regWord i).sfmt = true) ∧ ((regWord i).dfmt = (regWord i).sfmt) ∧ (runOk (regWord i).vd (regWord i).count = true) := by
  decide +kernel

theorem witness_VectorEngine_10 :
    let c : Nat := 63
    let i : TInstr := (⟨0x15, 61 + 62 * 2 ^ 8 + 0 * 2 ^ 16 + 63 * 2 ^ 24 + 1 * 2 ^ 32 + 9 * 2 ^ 40 + 4 * 2 ^ 44, 0, 0, false⟩ : TInstr)
    let s : State := stCore 63 1 (⟨0x15, 61 + 62 * 2 ^ 8 + 0 * 2 ^ 16 + 63 * 2 ^ 24 + 1 * 2 ^ 32 + 9 * 2 ^ 40 + 4 * 2 ^ 44, 0, 0, false⟩ : TInstr) { Core.idle with lm := [], vregs := memWrite (memWrite [] (512 * 62) ([0, 0, 128, 63, 0, 0, 0, 64] : Bytes)) (512 * 63) ([0, 0, 64, 64] : Bytes) }
    let dm : Dev := (sramRead (latch s) c 2 (engineSpans (coreOf s.dev c) 0x15 i)).1
    let e : List Machine.Num := (srcElems (coreOf dm c) (regWord i).va (regWord i).count (regWord i).sfmt).map (decodeNum (regWord i).sfmt)
    let l : List (List Nat × Nat × Nat) := (List.range (e.length / 32)).map (fun k => mxBlock (regWord i).dfmt ((e.drop (32 * k)).take 32))
    ((.vqnt c : Instr).wellFormed = true) ∧ (Serving s) ∧ (readyHead s.dev c 1 = some i) ∧ (bits i.w0 0 8 = 0x15) ∧ (sramRead (latch s) c 2 (engineSpans (coreOf s.dev c) 0x15 i) = (dm, false)) ∧ (countOk (regWord i) = true) ∧ (wideFloat (regWord i).sfmt = true) ∧ (fmtNarrow (regWord i).dfmt = true) ∧ (runOk (regWord i).vd (destRegs (regWord i)) = true) ∧ (e = (srcElems (coreOf dm c) (regWord i).va (regWord i).count (regWord i).sfmt).map (decodeNum (regWord i).sfmt)) ∧ (l = (List.range (e.length / 32)).map (fun k => mxBlock (regWord i).dfmt ((e.drop (32 * k)).take 32))) := by
  decide +kernel

theorem witness_ContextMoves_1 :
    let c : Nat := 63
    let st : Nat := 17
    let far : Far := ([] : Far)
    let i : TInstr := (⟨0x20, 0x100, 0x40, 0x40, false⟩ : TInstr)
    let s : State := stMem (fun d => { d with cores := [(63, coreRun { Core.idle with lm := memWrite [] 0x100 (tileBytes 0x200 2 32 64 11) } 17 (⟨0x20, 0x100, 0x40, 0x40, false⟩ : TInstr))], free := 0 })
    let m : Dev := (sramRead (latch s) c (if st = 0 then 1 else if st = 1 then 2 else 3) (moveSpans (coreOf s.dev c) st (bits i.w0 0 8) i)).1
    let fin : Bool := false
    let w : W := xldBody c st false i (coreWork m far c (if st = 0 then 1 else if st = 1 then 2 else 3) (streamOwner c st))
    ((.xld c st far : Instr).wellFormed = true) ∧ (Serving s) ∧ (readyHead s.dev c st = some i) ∧ (bits i.w0 0 8 = 0x20) ∧ (sramRead (latch s) c (if st = 0 then 1 else if st = 1 then 2 else 3) (moveSpans (coreOf s.dev c) st 0x20 i) = (m, false)) ∧ (fin = false) ∧ (moveCheck st true (fun _ => true) 1 (coreOf m c) i = none) ∧ (xldBody c st false i (coreWork m far c (if st = 0 then 1 else if st = 1 then 2 else 3) (streamOwner c st)) = w) ∧ (w.ok = true) ∧ (w.d.boot = s.dev.boot) ∧ (w.d.errq.due = []) ∧ (w.d.tagWait = []) ∧ (w.d.tagHeld = []) ∧ (w.d.sw.seen = []) := by
  decide +kernel

theorem witness_ContextMoves_2 :
    let c : Nat := 63
    let st : Nat := 0
    let far : Far := ([] : Far)
    let i : TInstr := (⟨0x21, 0x100, 0x60, 0x40, false⟩ : TInstr)
    let s : State := stMem (fun d => { d with cores := [(63, coreRun { Core.idle with lm := memWrite (memWrite [] 0x100 (tileBytes 0x200 1 32 64 11)) 0x200 (cellOf ⟨7, 1, 0⟩) } 0 (⟨0x21, 0x100, 0x60, 0x40, false⟩ : TInstr))], free := 0 })
    let m : Dev := (sramRead (latch s) c (if st = 0 then 1 else if st = 1 then 2 else 3) (moveSpans (coreOf s.dev c) st (bits i.w0 0 8) i)).1
    let fin : Bool := false
    let w : W := xstBody c st fin i (coreWork m far c (if st = 0 then 1 else if st = 1 then 2 else 3) (streamOwner c st))
    ((.xst c st far : Instr).wellFormed = true) ∧ (Serving s) ∧ (readyHead s.dev c st = some i) ∧ (bits i.w0 0 8 = 0x21) ∧ (sramRead (latch s) c (if st = 0 then 1 else if st = 1 then 2 else 3) (moveSpans (coreOf s.dev c) st 0x21 i) = (m, false)) ∧ (fin = (bitOf i.w0 27 && mustHold m (streamOwner c st) 0 true)) ∧ (moveCheck st false (fun _ => true) 1 (coreOf m c) i = none) ∧ (xstBody c st fin i (coreWork m far c (if st = 0 then 1 else if st = 1 then 2 else 3) (streamOwner c st)) = w) ∧ (w.ok = true) ∧ (w.d.boot = s.dev.boot) ∧ (w.d.errq.due = []) ∧ (w.d.tagWait = []) ∧ (w.d.tagHeld = []) ∧ (w.d.sw.seen = []) := by
  decide +kernel

theorem witness_ContextMoves_3 :
    let c : Nat := 63
    let st : Nat := 17
    let far : Far := ([] : Far)
    let i : TInstr := (⟨0x22 + 3 * 2 ^ 8, 0, 0x78, 0x1122334455667788, false⟩ : TInstr)
    let s : State := stMem (fun d => { d with cores := [(63, coreRun { Core.idle with lm := [] } 17 (⟨0x22 + 3 * 2 ^ 8, 0, 0x78, 0x1122334455667788, false⟩ : TInstr))], free := 0 })
    let m : Dev := (sramRead (latch s) c (if st = 0 then 1 else if st = 1 then 2 else 3) (moveSpans (coreOf s.dev c) st (bits i.w0 0 8) i)).1
    let fin : Bool := false
    let w : W := (let v := (coreWork m far c (if st = 0 then 1 else if st = 1 then 2 else 3) (streamOwner c st)).writeF (bits i.w2 0 48) (leBytes (xstiSize i) i.w3) fin; { v with d := countBytes v.d c st (xstiSize i) })
    ((.xsti c st far : Instr).wellFormed = true) ∧ (Serving s) ∧ (readyHead s.dev c st = some i) ∧ (bits i.w0 0 8 = 0x22) ∧ (sramRead (latch s) c (if st = 0 then 1 else if st = 1 then 2 else 3) (moveSpans (coreOf s.dev c) st 0x22 i) = (m, false)) ∧ (fin = (bitOf i.w0 27 && mustHold m (streamOwner c st) 0 true)) ∧ ((bits i.w2 0 48) % xstiSize i = 0) ∧ ((let v := (coreWork m far c (if st = 0 then 1 else if st = 1 then 2 else 3) (streamOwner c st)).writeF (bits i.w2 0 48) (leBytes (xstiSize i) i.w3) fin; { v with d := countBytes v.d c st (xstiSize i) }) = w) ∧ (w.ok = true) ∧ (w.d.boot = s.dev.boot) ∧ (w.d.errq.due = []) ∧ (w.d.tagWait = []) ∧ (w.d.tagHeld = []) ∧ (w.d.sw.seen = []) := by
  decide +kernel

theorem witness_ContextMoves_4 :
    let c : Nat := 63
    let st : Nat := 1
    let far : Far := ([] : Far)
    let i : TInstr := (⟨0x23, 0x100, 0x60, 0x40, false⟩ : TInstr)
    let s : State := stMem (fun d => { d with cores := [(63, coreRun { Core.idle with lm := memWrite (memWrite [] 0x100 (tileBytes 0x200 1 32 64 11)) 0x200 (cellOf ⟨7, 1, 0⟩) } 1 (⟨0x23, 0x100, 0x60, 0x40, false⟩ : TInstr))], free := 0 })
    let m : Dev := (sramRead (latch s) c (if st = 0 then 1 else if st = 1 then 2 else 3) (moveSpans (coreOf s.dev c) st (bits i.w0 0 8) i)).1
    let fin : Bool := false
    let w : W := xaddBody c st fin i (coreWork m far c (if st = 0 then 1 else if st = 1 then 2 else 3) (streamOwner c st))
    ((.xadd c st far : Instr).wellFormed = true) ∧ (Serving s) ∧ (readyHead s.dev c st = some i) ∧ (bits i.w0 0 8 = 0x23) ∧ (sramRead (latch s) c (if st = 0 then 1 else if st = 1 then 2 else 3) (moveSpans (coreOf s.dev c) st 0x23 i) = (m, false)) ∧ (fin = (bitOf i.w0 27 && mustHold m (streamOwner c st) 0 true)) ∧ (moveCheck st false (fun t => t.fmt == 11) 32 (coreOf m c) i = none) ∧ (xaddBody c st fin i (coreWork m far c (if st = 0 then 1 else if st = 1 then 2 else 3) (streamOwner c st)) = w) ∧ (w.ok = true) ∧ (w.d.boot = s.dev.boot) ∧ (w.d.errq.due = []) ∧ (w.d.tagWait = []) ∧ (w.d.tagHeld = []) ∧ (w.d.sw.seen = []) := by
  decide +kernel

theorem witness_ContextMoves_5 :
    let c : Nat := 63
    let st : Nat := 17
    let k : Nat := 0
    let u : Nat := 0x50
    let far : Far := ([] : Far)
    let i : TInstr := (⟨0x20, 0x100, 0x50, 0x40, false⟩ : TInstr)
    let tl : Tile := tileOf (tileBytes 0x200 1 32 64 11)
    let r : Range := (⟨0, 65536, 0, true, true, true, false, none, 0, none, none, none, 0⟩ : Range)
    let l : CLine := (⟨List.replicate 64 (9 : Byte), false⟩ : CLine)
    let s : State := stMem (fun d => { d with cores := [(63, coreRun { Core.idle with lm := memWrite (memWrite [] 0x100 (tileBytes 0x200 1 32 64 11)) 0x200 (cellOf ⟨7, 1, 0⟩) } 17 (⟨0x20, 0x100, 0x50, 0x40, false⟩ : TInstr))], cache := [(1, (⟨List.replicate 64 (9 : Byte), false⟩ : CLine))] })
    ((.xld c st far : Instr).wellFormed = true) ∧ (Serving s) ∧ (readyHead s.dev c st = some i) ∧ (bits i.w0 0 8 = 0x20) ∧ (tget? (coreOf s.dev c).latched st = none) ∧ ((readTile (coreOf s.dev c) i.w1 true (fun _ => true)).toOption = some tl) ∧ (tl.rows = 1) ∧ ((bits i.w2 0 48) % 64 + tl.rowBytes ≤ 64) ∧ (findRange s.dev (coreOf s.dev c).ctx (coreGen s.dev c) (bits i.w2 0 48) = some (k, r)) ∧ (r.r = true) ∧ (u = r.uni + ((bits i.w2 0 48) - r.start)) ∧ ((pageOf s.dev (u / 65536)).tier = 1 ∨ (pageOf s.dev (u / 65536)).tier = 2) ∧ ((pageOf s.dev (u / 65536)).packed = false) ∧ (floeOn s.dev (homeFloe (u / 65536)) = true) ∧ (tget? s.dev.dir (u / 64) = none) ∧ (tget? s.dev.cache (u / 64) = some l) ∧ (SoundLine s.dev (u / 64)) ∧ ((coreOf s.dev c).flips = []) := by
  decide +kernel

theorem witness_ContextMoves_6 :
    let c : Nat := 63
    let st : Nat := 17
    let k : Nat := 0
    let u : Nat := 0x60
    let far : Far := ([] : Far)
    let i : TInstr := (⟨0x21, 0x100, 0x60, 0x40, false⟩ : TInstr)
    let tl : Tile := tileOf (tileBytes 0x200 1 32 64 11)
    let r : Range := (⟨0, 65536, 0, true, true, true, false, none, 0, none, none, none, 0⟩ : Range)
    let l : CLine := (⟨List.replicate 64 (9 : Byte), false⟩ : CLine)
    let s : State := stMem (fun d => { d with cores := [(63, coreRun { Core.idle with lm := memWrite (memWrite [] 0x100 (tileBytes 0x200 1 32 64 11)) 0x200 (cellOf ⟨7, 1, 0⟩) } 17 (⟨0x21, 0x100, 0x60, 0x40, false⟩ : TInstr))], cache := [(1, (⟨List.replicate 64 (9 : Byte), false⟩ : CLine))] })
    ((.xst c st far : Instr).wellFormed = true) ∧ (Serving s) ∧ (readyHead s.dev c st = some i) ∧ (bits i.w0 0 8 = 0x21) ∧ (tget? (coreOf s.dev c).latched st = none) ∧ (bitOf i.w0 27 = false) ∧ ((readTile (coreOf s.dev c) i.w1 false (fun _ => true)).toOption = some tl) ∧ (tl.rows = 1) ∧ ((bits i.w2 0 48) % 64 + tl.rowBytes ≤ 64) ∧ (findRange s.dev (coreOf s.dev c).ctx (coreGen s.dev c) (bits i.w2 0 48) = some (k, r)) ∧ (r.w = true) ∧ (u = r.uni + ((bits i.w2 0 48) - r.start)) ∧ ((pageOf s.dev (u / 65536)).tier = 1 ∨ (pageOf s.dev (u / 65536)).tier = 2) ∧ ((pageOf s.dev (u / 65536)).packed = false) ∧ (floeOn s.dev (homeFloe (u / 65536)) = true) ∧ (tget? s.dev.dir (u / 64) = none) ∧ (tget? s.dev.cache (u / 64) = some l) ∧ (SoundLine s.dev (u / 64)) ∧ ((coreOf s.dev c).flips = []) ∧ ((pageOf s.dev (u / 65536)).durable = false) ∧ ((pageOf s.dev (u / 65536)).twin = false) ∧ (l.data.length = 64) ∧ ((pageOf s.dev (u / 65536)).noPack = false) ∧ (mustHold s.dev (streamOwner c st) (u / 64) false = false) := by
  decide +kernel

theorem witness_ContextMoves_7 :
    let c : Nat := 63
    let st : Nat := 0
    let k : Nat := 0
    let u : Nat := 0x78
    let far : Far := ([] : Far)
    let i : TInstr := (⟨0x22 + 3 * 2 ^ 8, 0, 0x78, 0x1122334455667788, false⟩ : TInstr)
    let r : Range := (⟨0, 65536, 0, true, true, true, false, none, 0, none, none, none, 0⟩ : Range)
    let l : CLine := (⟨List.replicate 64 (9 : Byte), false⟩ : CLine)
    let s : State := stMem (fun d => { d with cores := [(63, coreRun Core.idle 0 (⟨0x22 + 3 * 2 ^ 8, 0, 0x78, 0x1122334455667788, false⟩ : TInstr))], cache := [(1, (⟨List.replicate 64 (9 : Byte), false⟩ : CLine))] })
    ((.xsti c st far : Instr).wellFormed = true) ∧ (Serving s) ∧ (readyHead s.dev c st = some i) ∧ (bits i.w0 0 8 = 0x22) ∧ (tget? (coreOf s.dev c).latched st = none) ∧ (bitOf i.w0 27 = false) ∧ ((bits i.w2 0 48) % xstiSize i = 0) ∧ (findRange s.dev (coreOf s.dev c).ctx (coreGen s.dev c) (bits i.w2 0 48) = some (k, r)) ∧ (r.w = true) ∧ (u = r.uni + ((bits i.w2 0 48) - r.start)) ∧ ((pageOf s.dev (u / 65536)).tier = 1 ∨ (pageOf s.dev (u / 65536)).tier = 2) ∧ ((pageOf s.dev (u / 65536)).packed = false) ∧ (floeOn s.dev (homeFloe (u / 65536)) = true) ∧ (tget? s.dev.dir (u / 64) = none) ∧ (tget? s.dev.cache (u / 64) = some l) ∧ (SoundLine s.dev (u / 64)) ∧ ((coreOf s.dev c).flips = []) ∧ ((pageOf s.dev (u / 65536)).durable = false) ∧ ((pageOf s.dev (u / 65536)).twin = false) ∧ (l.data.length = 64) ∧ ((pageOf s.dev (u / 65536)).noPack = false) ∧ (mustHold s.dev (streamOwner c st) (u / 64) false = false) := by
  decide +kernel

theorem witness_ContextMoves_8 :
    let c : Nat := 63
    let st : Nat := 0
    let k : Nat := 0
    let u : Nat := 0x60
    let far : Far := ([] : Far)
    let i : TInstr := (⟨0x23, 0x100, 0x60, 0x40, false⟩ : TInstr)
    let tl : Tile := tileOf (tileBytes 0x200 1 32 64 11)
    let r : Range := (⟨0, 65536, 0, true, true, true, false, none, 0, none, none, none, 0⟩ : Range)
    let v : Slug := (⟨7, 1, 0⟩ : Slug)
    let x : Slug := (⟨-3, 1, 0⟩ : Slug)
    let l : CLine := (⟨zeros 32 ++ cellOf ⟨-3, 1, 0⟩, false⟩ : CLine)
    let s : State := stMem (fun d => { d with cores := [(63, coreRun { Core.idle with lm := memWrite (memWrite [] 0x100 (tileBytes 0x200 1 32 64 11)) 0x200 (cellOf ⟨7, 1, 0⟩) } 0 (⟨0x23, 0x100, 0x60, 0x40, false⟩ : TInstr))], cache := [(1, ⟨zeros 32 ++ cellOf ⟨-3, 1, 0⟩, false⟩)] })
    ((.xadd c st far : Instr).wellFormed = true) ∧ (Serving s) ∧ (readyHead s.dev c st = some i) ∧ (bits i.w0 0 8 = 0x23) ∧ (tget? (coreOf s.dev c).latched st = none) ∧ (bitOf i.w0 27 = false) ∧ ((readTile (coreOf s.dev c) i.w1 false (fun t => t.fmt == 11)).toOption = some tl) ∧ (tl.rows = 1) ∧ (tl.rowBytes = 32) ∧ ((bits i.w2 0 48) % 32 = 0) ∧ (bits i.w3 0 32 % 32 = 0) ∧ (findRange s.dev (coreOf s.dev c).ctx (coreGen s.dev c) (bits i.w2 0 48) = some (k, r)) ∧ (r.a = true) ∧ (u = r.uni + ((bits i.w2 0 48) - r.start)) ∧ ((pageOf s.dev (u / 65536)).tier = 1 ∨ (pageOf s.dev (u / 65536)).tier = 2) ∧ ((pageOf s.dev (u / 65536)).packed = false) ∧ (floeOn s.dev (homeFloe (u / 65536)) = true) ∧ (tget? s.dev.dir (u / 64) = none) ∧ (tget? s.dev.cache (u / 64) = some l) ∧ (SoundLine s.dev (u / 64)) ∧ ((coreOf s.dev c).flips = []) ∧ ((pageOf s.dev (u / 65536)).durable = false) ∧ ((pageOf s.dev (u / 65536)).twin = false) ∧ (l.data.length = 64) ∧ ((pageOf s.dev (u / 65536)).noPack = false) ∧ (mustHold s.dev (streamOwner c st) (u / 64) false = false) ∧ (slugOf (lmRead (coreOf s.dev c) tl.base 32) = some v) ∧ (slugOf (slice l.data (u % 64) 32) = some x) := by
  decide +kernel

theorem witness_TokensAndSync_1 :
    let c : Nat := 63
    let i : TInstr := (⟨0x30 + 31 * 2 ^ 22 + 0xFFFF * 2 ^ 32, 0, 0, 0, false⟩ : TInstr)
    let s : State := stWith (fun d => { d with cores := [(63, { Core.idle with state := 2, sync := some (⟨0x30 + 31 * 2 ^ 22 + 0xFFFF * 2 ^ 32, 0, 0, 0, false⟩ : TInstr), tokens := [(31, 0xFFFF)] })] })
    ((.swait c : Instr).wellFormed = true) ∧ (Serving s) ∧ ((coreOf s.dev c).sync = some i) ∧ ((coreOf s.dev c).state = 2) ∧ (bits i.w0 0 8 = 0x30 ∨ bits i.w0 0 8 = 0) ∧ (i.released = false) ∧ (bitOf i.w0 21 = false) ∧ (bits i.w0 32 16 ≠ 0) ∧ (waitsFirst (coreOf s.dev c) 18 (bits i.w0 22 5) = false) ∧ (bits i.w0 32 16 ≤ tokenOf (coreOf s.dev c) (bits i.w0 22 5)) := by
  decide +kernel

theorem witness_TokensAndSync_2 :
    let c : Nat := 63
    let i : TInstr := (⟨0x30 + 31 * 2 ^ 22, 0, 0, 0, false⟩ : TInstr)
    let s : State := stWith (fun d => { d with cores := [(63, { Core.idle with state := 2, sync := some (⟨0x30 + 31 * 2 ^ 22, 0, 0, 0, false⟩ : TInstr) })] })
    ((.swait c : Instr).wellFormed = true) ∧ (Serving s) ∧ ((coreOf s.dev c).sync = some i) ∧ ((coreOf s.dev c).state = 2) ∧ (bits i.w0 0 8 = 0x30 ∨ bits i.w0 0 8 = 0) ∧ (bitOf i.w0 21 = false) ∧ (i.released = true ∨ bits i.w0 32 16 = 0) := by
  decide +kernel

theorem witness_TokensAndSync_3 :
    let c : Nat := 63
    let i : TInstr := (⟨0x31 + 31 * 2 ^ 16, 0, 0, 0, true⟩ : TInstr)
    let s : State := stWith (fun d => { d with cores := [(63, { Core.idle with state := 2, sync := some (⟨0x31 + 31 * 2 ^ 16, 0, 0, 0, true⟩ : TInstr), tokens := [(31, 0xFFFE)] })] })
    ((.ssignal c : Instr).wellFormed = true) ∧ (Serving s) ∧ ((coreOf s.dev c).sync = some i) ∧ ((coreOf s.dev c).state = 2) ∧ (i.released = true) ∧ (bits i.w0 0 8 = 0x31) ∧ (owes s.dev (.scalar c 0 0) = false) ∧ (tokenOf (coreOf s.dev c) (bits i.w0 16 5) < 0xFFFF) := by
  decide +kernel

theorem witness_TokensAndSync_4 :
    let c : Nat := 63
    let i : TInstr := (⟨0x31, 0, 0, 0, true⟩ : TInstr)
    let s : State := stWith (fun d => { d with cores := [(63, { Core.idle with state := 2, sync := some (⟨0x31, 0, 0, 0, true⟩ : TInstr), tokens := [(0, 0xFFFF)] })] })
    ((.ssignal c : Instr).wellFormed = true) ∧ (Serving s) ∧ ((coreOf s.dev c).sync = some i) ∧ ((coreOf s.dev c).state = 2) ∧ (i.released = true) ∧ (bits i.w0 0 8 = 0x31) ∧ (owes s.dev (.scalar c 0 0) = false) ∧ (tokenOf (coreOf s.dev c) (bits i.w0 16 5) = 0xFFFF) ∧ (openOf s.dev.errq 2 c = none) := by
  decide +kernel

theorem witness_TokensAndSync_5 :
    let c : Nat := 63
    let i : TInstr := (⟨0x32, 255 + 15 * 2 ^ 8, 0, 0, true⟩ : TInstr)
    let s : State := stWith (fun d => { d with cores := [(63, { Core.idle with state := 2, sync := some (⟨0x32, 255 + 15 * 2 ^ 8, 0, 0, true⟩ : TInstr) })], regs := [(coreBase 63 + 0x3100 + 4 * 31, 0x8000 + 255 + 5 * 2 ^ 8)] })
    let k : Nat := 31
    ((.spulse c : Instr).wellFormed = true) ∧ (Serving s) ∧ ((coreOf s.dev c).sync = some i) ∧ ((coreOf s.dev c).state = 2) ∧ (i.released = true) ∧ (bits i.w0 0 8 = 0x32) ∧ (bitOf i.w0 21 = false) ∧ (ownsLine s.dev c (bits i.w1 0 8) = true) ∧ ((List.range 16).all (fun j => 16 * (c / 16) + j == c || ((coreOf s.dev (16 * (c / 16) + j)).state != 2 && (coreOf s.dev (16 * (c / 16) + j)).state != 3)) = true) ∧ ((List.range 32).filter (fun j => bitOf (subReg s.dev c j) 15 && bits (subReg s.dev c j) 0 8 == (bits i.w1 0 8)) = [k]) ∧ (tokenOf (coreOf s.dev c) (bits (subReg s.dev c k) 8 5) + (if bits i.w1 8 4 = 0 then 1 else bits i.w1 8 4) ≤ 0xFFFF) := by
  decide +kernel

theorem witness_TokensAndSync_6 :
    let c : Nat := 63
    let i : TInstr := (⟨0x32, 239, 0, 0, true⟩ : TInstr)
    let s : State := stWith (fun d => { d with cores := [(63, { Core.idle with state := 2, sync := some (⟨0x32, 239, 0, 0, true⟩ : TInstr) })] })
    ((.spulse c : Instr).wellFormed = true) ∧ (Serving s) ∧ ((coreOf s.dev c).sync = some i) ∧ ((coreOf s.dev c).state = 2) ∧ (i.released = true) ∧ (bits i.w0 0 8 = 0x32) ∧ (bitOf i.w0 21 = false) ∧ (ownsLine s.dev c (bits i.w1 0 8) = false) ∧ (openOf s.dev.errq 2 c = none) := by
  decide +kernel

theorem witness_TokensAndSync_7 :
    let c : Nat := 63
    let eline : Nat := 255
    let cnt : Nat := 15
    let k : Nat := 31
    let s : State := stWith (fun d => { d with cores := [(63, { Core.idle with state := 2 }), (62, Core.idle)], regs := [(coreBase 63 + 0x3100 + 4 * 31, 0x8000 + 255 + 5 * 2 ^ 8)] })
    ((.eventPulse c eline cnt : Instr).wellFormed = true) ∧ (Serving s) ∧ ((coreOf s.dev c).state = 2) ∧ (ownsLine s.dev c eline = true) ∧ ((List.range 16).all (fun j => 16 * (c / 16) + j == c || ((coreOf s.dev (16 * (c / 16) + j)).state != 2 && (coreOf s.dev (16 * (c / 16) + j)).state != 3)) = true) ∧ ((List.range 32).filter (fun j => bitOf (subReg s.dev c j) 15 && bits (subReg s.dev c j) 0 8 == eline) = [k]) ∧ (tokenOf (coreOf s.dev c) (bits (subReg s.dev c k) 8 5) + (if cnt = 0 then 1 else cnt) ≤ 0xFFFF) := by
  decide +kernel

theorem witness_TokensAndSync_8 :
    let c : Nat := 63
    let i : TInstr := (⟨0x33, 0, 0, 0, true⟩ : TInstr)
    let s : State := stWith (fun d => { d with cores := [(63, { Core.idle with state := 2, sync := some (⟨0x33, 0, 0, 0, true⟩ : TInstr) })] })
    ((.sdrain c : Instr).wellFormed = true) ∧ (Serving s) ∧ ((coreOf s.dev c).sync = some i) ∧ ((coreOf s.dev c).state = 2) ∧ (i.released = true) ∧ (bits i.w0 0 8 = 0x33) ∧ (bitOf i.w0 21 = false) ∧ (drained (coreOf s.dev c) = true) := by
  decide +kernel

theorem witness_TokensAndSync_9 :
    let c : Nat := 63
    let tag : Nat := 4095
    let i : TInstr := (⟨0x34, 2 ^ 32 + 77, 5, 0, true⟩ : TInstr)
    let m : Cmd := { cmdWith 0x28 [] 2 with cores := [63] }
    let s : State := stGal { galUp with state := 1 } (fun d => { d with cmds := [(4095, { cmdWith 0x28 [] 2 with cores := [63] })], cores := [(63, { Core.idle with state := 2, tag := 4095, sync := some (⟨0x34, 2 ^ 32 + 77, 5, 0, true⟩ : TInstr) })] })
    ((.send c : Instr).wellFormed = true) ∧ (Serving s) ∧ ((coreOf s.dev c).sync = some i) ∧ ((coreOf s.dev c).state = 2) ∧ (i.released = true) ∧ (bits i.w0 0 8 = 0x34) ∧ (bitOf i.w0 21 = false) ∧ (bits i.w1 32 8 ≤ 1) ∧ (drained (coreOf s.dev c) = true) ∧ (coreOwes s.dev c = false) ∧ ((coreOf s.dev c).dcache = []) ∧ ((coreOf s.dev c).tag = tag) ∧ (cmdOf s.dev tag = some m) ∧ (m.phase = 2) ∧ (m.opcode = 0x28) ∧ (m.cores = [c]) ∧ (m.ends = []) ∧ (owes s.dev (.cmd tag) = false) ∧ (galleyExists s.dev m.ctx m.g = true) ∧ ((galleyOf s.dev m.ctx m.g).done = []) ∧ ((dropReads (dropReads (latch s) (fun o => o.ofCore c)) (fun o => o == .cmd tag)).errq.due = []) ∧ ((dropReads (dropReads (latch s) (fun o => o.ofCore c)) (fun o => o == .cmd tag)).tagWait = []) ∧ ((dropReads (dropReads (latch s) (fun o => o.ofCore c)) (fun o => o == .cmd tag)).tagHeld = []) ∧ ((dropReads (dropReads (latch s) (fun o => o.ofCore c)) (fun o => o == .cmd tag)).sw.seen = []) ∧ ((dropReads (dropReads (latch s) (fun o => o.ofCore c)) (fun o => o == .cmd tag)).boot = s.dev.boot) := by
  decide +kernel

theorem witness_TokensAndSync_10 :
    let c : Nat := 63
    let win : Nat := 1
    let s : State := stWith (fun d => { d with cores := [(63, { Core.idle with state := 2, stalled := some 1, stage := [(4, 0x10)] })] })
    ((.issueStallRelease c : Instr).wellFormed = true) ∧ (Serving s) ∧ ((coreOf s.dev c).state = 2) ∧ ((coreOf s.dev c).stalled = some win) ∧ (win < 2) ∧ ((streamOf (coreOf s.dev c) win).queue.length < streamCap win) := by
  decide +kernel

theorem witness_TokensAndSync_11 :
    let c : Nat := 63
    let st : Nat := 1
    let i : TInstr := (⟨0x10 + 2 ^ 32, 0, 0, 0, false⟩ : TInstr)
    let rest : List TInstr := ([] : List TInstr)
    let s : State := stCore 63 1 (⟨0x10 + 2 ^ 32, 0, 0, 0, false⟩ : TInstr) { Core.idle with tokens := [(0, 1)] }
    ((.tokenWaitRelease c st : Instr).wellFormed = true) ∧ (Serving s) ∧ ((coreOf s.dev c).state = 2) ∧ (st < 2) ∧ ((streamOf (coreOf s.dev c) st).queue = i :: rest) ∧ (i.released = false) ∧ (bits i.w0 32 16 ≠ 0) ∧ (waitsFirst (coreOf s.dev c) st (bits i.w0 22 5) = false) ∧ (bits i.w0 32 16 ≤ tokenOf (coreOf s.dev c) (bits i.w0 22 5)) := by
  decide +kernel

theorem witness_TokensAndSync_12 :
    let c : Nat := 63
    let st : Nat := 1
    let f : Flight := (⟨⟨0x10, 0, 0, 0, false⟩, [5], false⟩ : Flight)
    let rest : List Flight := ([] : List Flight)
    let s : State := stWith (fun d => { d with cores := [(63, { Core.idle with state := 2, streams := [(1, ⟨[], [⟨⟨0x10, 0, 0, 0, false⟩, [5], false⟩]⟩)] })] })
    ((.instructionComplete c st : Instr).wellFormed = true) ∧ (Serving s) ∧ ((coreOf s.dev c).state = 2) ∧ (st < 2) ∧ ((streamOf (coreOf s.dev c) st).flight = f :: rest) ∧ (flightDone s.dev c st f = true) ∧ (bitOf f.ins.w0 21 = false) := by
  decide +kernel

theorem witness_TokensAndSync_13 :
    let c : Nat := 63
    let st : Nat := 0
    let f : Flight := (⟨⟨1 + 2 ^ 21 + 31 * 2 ^ 16, 0, 0, 0, false⟩, [], false⟩ : Flight)
    let rest : List Flight := ([] : List Flight)
    let s : State := stWith (fun d => { d with cores := [(63, { Core.idle with state := 2, streams := [(0, ⟨[], [⟨⟨1 + 2 ^ 21 + 31 * 2 ^ 16, 0, 0, 0, false⟩, [], false⟩]⟩)] })] })
    ((.instructionComplete c st : Instr).wellFormed = true) ∧ (Serving s) ∧ ((coreOf s.dev c).state = 2) ∧ (st < 2) ∧ ((streamOf (coreOf s.dev c) st).flight = f :: rest) ∧ (flightDone s.dev c st f = true) ∧ (bitOf f.ins.w0 21 = true) ∧ (tokenOf (coreOf s.dev c) (bits f.ins.w0 16 5) < 0xFFFF) := by
  decide +kernel

theorem witness_CoresAndRuns_1 :
    let tag : Nat := 4095
    let c : Cmd := { cmdWith 0x28 (zeros 31 ++ [0x01, 0xA0, 8, 2]) 1 with start := 5 }
    let s : State := stGal { galUp with state := 1 } (fun d => { d with cmds := [(4095, { cmdWith 0x28 (zeros 31 ++ [0x01, 0xA0, 8, 2]) 1 with start := 5 })], runq := [3], objs := [(objKey 0 0xA001, ⟨slice (zeros 36 ++ [1, 0, 16, 0, 4]) 0 64, []⟩)] })
    ((.run tag : Instr).wellFormed = true) ∧ (Serving s) ∧ (cmdOf s.dev tag = some c) ∧ (c.phase = 1) ∧ (c.opcode = 0x28) ∧ (s.dev.runq.contains tag = false) ∧ (checkRun s.dev c = none) := by
  decide +kernel

theorem witness_CoresAndRuns_2 :
    let tag : Nat := 4095
    let c : Cmd := cmdWith 0x28 (zeros 31 ++ [0x01, 0xA0, 8, 2]) 1
    let s : State := stGal { galUp with state := 1 } (fun d => { d with cmds := [(4095, cmdWith 0x28 (zeros 31 ++ [0x01, 0xA0, 8, 2]) 1)], free := 0 })
    let st : Nat := 0x16
    let det : Nat := 1
    ((.run tag : Instr).wellFormed = true) ∧ (Serving s) ∧ (cmdOf s.dev tag = some c) ∧ (c.opcode = 0x28) ∧ (c.phase = 1) ∧ (floeOn s.dev c.floe = true) ∧ (owes s.dev (.cmd tag) = false) ∧ (galleyExists s.dev c.ctx c.g = true) ∧ ((galleyOf s.dev c.ctx c.g).done = []) ∧ (s.dev.runq.contains tag = false) ∧ (checkRun s.dev c = some (st, det)) ∧ (okStatus st = false) := by
  decide +kernel

theorem witness_CoresAndRuns_3 :
    let tag : Nat := 4095
    let m : Cmd := cmdWith 0x28 (zeros 31 ++ [0x01, 0xA0, 8, 2]) 1
    let cs : List Nat := [49, 50]
    let s : State := stWith (fun d => { d with cmds := [(4095, cmdWith 0x28 (zeros 31 ++ [0x01, 0xA0, 8, 2]) 1)], runq := [4095], cores := [(48, { Core.idle with state := 2 })] })
    ((.coreAssign tag : Instr).wellFormed = true) ∧ (Serving s) ∧ (cmdOf s.dev tag = some m) ∧ (m.phase = 1) ∧ (canAssign s.dev tag m = true) ∧ (cs = (m.needs s.dev).flatMap (fun p => idleCores s.dev p.1 p.2)) := by
  decide +kernel

theorem witness_CoresAndRuns_4 :
    let c : Nat := 63
    let tag : Nat := 4095
    let far : Far := ([] : Far)
    let m : Cmd := cmdWith 0x28 (zeros 31 ++ [1, 0xA0, 8, 1, 8, 0, 0, 0, 0x40]) 2
    let s : State := stMem (fun d => { d with mem := [(0x47, 9)], cmds := [(4095, cmdWith 0x28 (zeros 31 ++ [1, 0xA0, 8, 1, 8, 0, 0, 0, 0x40]) 2)], cores := [(63, { Core.idle with state := 1, tag := 4095 })] })
    let w : W := ((coreWork (latch s) far c 0 .none).read (m.f 40 8) (m.f 36 4)).1
    let b : Bytes := ((coreWork (latch s) far c 0 .none).read (m.f 40 8) (m.f 36 4)).2
    ((.kernelLoadDone c far : Instr).wellFormed = true) ∧ (Serving s) ∧ ((coreOf s.dev c).state = 1) ∧ ((coreOf s.dev c).tag = tag) ∧ (cmdOf s.dev tag = some m) ∧ (m.opcode = 0x28) ∧ ((coreWork (latch s) far c 0 .none).read (m.f 40 8) (m.f 36 4) = (w, b)) ∧ (w.ok = true) ∧ (w.d.boot = s.dev.boot) ∧ (w.d.errq.due = []) ∧ (w.d.tagWait = []) ∧ (w.d.tagHeld = []) ∧ (w.d.sw.seen = []) ∧ (w.d.cores = s.dev.cores) := by
  decide +kernel

theorem witness_CoresAndRuns_5 :
    let c : Nat := 63
    let s : State := stWith (fun d => { d with cores := [(63, { Core.idle with state := 2, lm := [(5, 1)], chans := [(3, { Chan.idle with state := 1 }), (5, { Chan.idle with state := 4 })] })] })
    let cause : Nat := 4
    ((.scalarTrap c cause : Instr).wellFormed = true) ∧ (Serving s) ∧ (kernelRuns s.dev c = true) ∧ (openOf s.dev.errq 2 c = none) := by
  decide +kernel

theorem witness_CoresAndRuns_6 :
    let c : Nat := 63
    let s : State := stWith (fun d => { d with cores := [(63, { Core.idle with state := 2 })], regs := [(coreBase 63 + 0x10, 1)] })
    ((.coreWatchdog c : Instr).wellFormed = true) ∧ (Serving s) ∧ (kernelRuns s.dev c = true) ∧ (rf s.dev (coreBase c + 0x10) 0 32 ≠ 0) ∧ (openOf s.dev.errq 2 c = none) := by
  decide +kernel

theorem witness_CoresAndRuns_7 :
    let c : Nat := 63
    let s : State := stWith (fun d => { d with cores := [(63, { Core.idle with state := 2, stalled := some 1, chans := [(3, { Chan.idle with state := 1 })], latched := [(5, [])], streams := [(5, ⟨[⟨0x20, 0, 0, 0, false⟩], []⟩)] })] })
    ((.coreStop c : Instr).wellFormed = true) ∧ (Serving s) ∧ (kernelRuns s.dev c = true) := by
  decide +kernel

theorem witness_CoresAndRuns_8 :
    let c : Nat := 63
    let tag : Nat := 4095
    let st : Nat := 0x17
    let det : Nat := 0
    let flt : Bool := true
    let m : Cmd := { cmdWith 0x28 [] 2 with cores := [61, 62, 63] }
    let s : State := stWith (fun d => { d with cmds := [(4095, { cmdWith 0x28 [] 2 with cores := [61, 62, 63] })], cores := [(63, { Core.idle with state := 3, tag := 4095, stopWith := some (0x17, 0, true) })] })
    ((.coreStopDone c : Instr).wellFormed = true) ∧ (Serving s) ∧ ((coreOf s.dev c).state = 3) ∧ (coreOwes s.dev c = false) ∧ (coreStarted s.dev c = false) ∧ ((coreOf s.dev c).stopWith = some (st, det, flt)) ∧ ((coreOf s.dev c).dcache = []) ∧ ((coreOf s.dev c).tag = tag) ∧ (cmdOf s.dev tag = some m) ∧ (m.ends.length + 2 < m.cores.length) ∧ ((dropReads (latch s) (fun o => o.ofCore c)).errq.due = []) ∧ ((dropReads (latch s) (fun o => o.ofCore c)).tagWait = []) ∧ ((dropReads (latch s) (fun o => o.ofCore c)).tagHeld = []) ∧ ((dropReads (latch s) (fun o => o.ofCore c)).sw.seen = []) ∧ ((dropReads (latch s) (fun o => o.ofCore c)).boot = s.dev.boot) := by
  decide +kernel

theorem witness_CoresAndRuns_9 :
    let c : Nat := 63
    let s : State := stWith (fun d => { d with cores := [(63, { Core.idle with state := 4, faultCause := 7 })], errq := { ErrQ.reset with opens := [⟨2, 63, 2, 0, 2, 0⟩, ⟨2, 62, 2, 1, 2, 0⟩] } })
    ((.clearFault c : Instr).wellFormed = true) ∧ (Serving s) ∧ ((coreOf s.dev c).state = 4) := by
  decide +kernel

theorem witness_CoresAndRuns_10 :
    let c : Nat := 63
    let s : State := stWith (fun d => { d with cores := [(63, { Core.idle with state := 2, pfPos := [(15, (7, 0, 0, 0))] })] })
    let pf : Nat := 15
    let on : Bool := true
    ((.prefetcherEnable c pf on : Instr).wellFormed = true) ∧ (Serving s) ∧ (on = true) := by
  decide +kernel

theorem witness_CoresAndRuns_11 :
    let c : Nat := 63
    let s : State := stWith (fun d => { d with cores := [(63, { Core.idle with state := 2, pfActive := [15] })] })
    let pf : Nat := 15
    let on : Bool := false
    ((.prefetcherEnable c pf on : Instr).wellFormed = true) ∧ (Serving s) ∧ (on = false) := by
  decide +kernel

theorem witness_CoresAndRuns_12 :
    let c : Nat := 63
    let pf : Nat := 15
    let p0 : Nat := 0
    let p1 : Nat := 0
    let p2 : Nat := 0
    let p3 : Nat := 0
    let s : State := stMem (fun d => { d with cores := [(63, { Core.idle with state := 2, pfActive := [15], pfPos := [(15, (0, 0, 0, 0))] })], cache := [(1, (⟨leBytes 4 0x77 ++ leBytes 4 (256 ^ 4 - 1) ++ List.replicate 52 (9 : Byte) ++ leBytes 4 0x12345678, false⟩ : CLine)), (2, (⟨leBytes 4 0x77 ++ leBytes 4 (256 ^ 4 - 1) ++ List.replicate 52 (9 : Byte) ++ leBytes 4 0x12345678, false⟩ : CLine))], regs := [(prefBase 63 15, 32512), (prefBase 63 15 + 8, 0x40), (prefBase 63 15 + 0x10, 64), (prefBase 63 15 + 0x18, 1)] })
    let g : Dev := (match corePrefetch (consumeAll (latch s) c pf) c (((rf s.dev (prefBase c pf + 8) 0 48 : Int) + toSigned 32 (rf s.dev (prefBase c pf + 0x10) 0 32) * p0) % (2 ^ 48 : Nat)).toNat with | .line g _ => g | _ => latch s)
    let l : Bytes := (match corePrefetch (consumeAll (latch s) c pf) c (((rf s.dev (prefBase c pf + 8) 0 48 : Int) + toSigned 32 (rf s.dev (prefBase c pf + 0x10) 0 32) * p0) % (2 ^ 48 : Nat)).toNat with | .line _ l => l | _ => [])
    ((.prefetchLineIssue c pf : Instr).wellFormed = true) ∧ (Serving s) ∧ (kernelRuns s.dev c = true) ∧ ((coreOf s.dev c).pfActive.contains pf = true) ∧ (tget (coreOf s.dev c).pfPos pf (0, 0, 0, 0) = (p0, p1, p2, p3)) ∧ (prefBound (consumeAll (latch s) c pf) c pf = false) ∧ (¬ (rf s.dev (prefBase c pf) 1 2 = 1 ∨ rf s.dev (prefBase c pf) 1 2 = 2)) ∧ (p0 < rf s.dev (prefBase c pf + 0x18) 0 32) ∧ (corePrefetch (consumeAll (latch s) c pf) c (((rf s.dev (prefBase c pf + 8) 0 48 : Int) + toSigned 32 (rf s.dev (prefBase c pf + 0x10) 0 32) * p0) % (2 ^ 48 : Nat)).toNat = .line g l) ∧ (g.boot = s.dev.boot) ∧ (g.errq.due = []) ∧ (g.tagWait = []) ∧ (g.tagHeld = []) ∧ (g.sw.seen = []) := by
  decide +kernel

theorem witness_CoresAndRuns_13 :
    let c : Nat := 63
    let pf : Nat := 15
    let p0 : Nat := 0
    let p1 : Nat := 0
    let p2 : Nat := 0
    let p3 : Nat := 0
    let s : State := stMem (fun d => { d with cores := [(63, { Core.idle with state := 2, pfActive := [15], pfPos := [(15, (0, 0, 0, 0))] })], cache := [(1, (⟨leBytes 4 0x77 ++ leBytes 4 (256 ^ 4 - 1) ++ List.replicate 52 (9 : Byte) ++ leBytes 4 0x12345678, false⟩ : CLine)), (2, (⟨leBytes 4 0x77 ++ leBytes 4 (256 ^ 4 - 1) ++ List.replicate 52 (9 : Byte) ++ leBytes 4 0x12345678, false⟩ : CLine))], regs := [(prefBase 63 15, 32512), (prefBase 63 15 + 8, 0x20000), (prefBase 63 15 + 0x10, 64), (prefBase 63 15 + 0x18, 2)] })
    ((.prefetchLineIssue c pf : Instr).wellFormed = true) ∧ (Serving s) ∧ (kernelRuns s.dev c = true) ∧ ((coreOf s.dev c).pfActive.contains pf = true) ∧ (tget (coreOf s.dev c).pfPos pf (0, 0, 0, 0) = (p0, p1, p2, p3)) ∧ (prefBound (consumeAll (latch s) c pf) c pf = false) ∧ (¬ (rf s.dev (prefBase c pf) 1 2 = 1 ∨ rf s.dev (prefBase c pf) 1 2 = 2)) ∧ (p0 < rf s.dev (prefBase c pf + 0x18) 0 32) ∧ (corePrefetch (consumeAll (latch s) c pf) c (((rf s.dev (prefBase c pf + 8) 0 48 : Int) + toSigned 32 (rf s.dev (prefBase c pf + 0x10) 0 32) * p0) % (2 ^ 48 : Nat)).toNat = .dropped) := by
  decide +kernel

theorem witness_CoresAndRuns_14 :
    let c : Nat := 63
    let pf : Nat := 15
    let p0 : Nat := 1
    let p1 : Nat := 0
    let p2 : Nat := 0
    let p3 : Nat := 0
    let s : State := stMem (fun d => { d with cores := [(63, { Core.idle with state := 2, pfActive := [15], pfPos := [(15, (1, 0, 0, 0))] })], cache := [(1, (⟨leBytes 4 0x77 ++ leBytes 4 (256 ^ 4 - 1) ++ List.replicate 52 (9 : Byte) ++ leBytes 4 0x12345678, false⟩ : CLine)), (2, (⟨leBytes 4 0x77 ++ leBytes 4 (256 ^ 4 - 1) ++ List.replicate 52 (9 : Byte) ++ leBytes 4 0x12345678, false⟩ : CLine))], regs := [(prefBase 63 15, 32512), (prefBase 63 15 + 8, 0x40), (prefBase 63 15 + 0x10, 64), (prefBase 63 15 + 0x18, 1)] })
    ((.prefetchLineIssue c pf : Instr).wellFormed = true) ∧ (Serving s) ∧ (kernelRuns s.dev c = true) ∧ ((coreOf s.dev c).pfActive.contains pf = true) ∧ (tget (coreOf s.dev c).pfPos pf (0, 0, 0, 0) = (p0, p1, p2, p3)) ∧ (prefBound (consumeAll (latch s) c pf) c pf = false) ∧ (¬ (rf s.dev (prefBase c pf) 1 2 = 1 ∨ rf s.dev (prefBase c pf) 1 2 = 2)) ∧ (rf s.dev (prefBase c pf + 0x18) 0 32 ≤ p0) := by
  decide +kernel

theorem witness_CoresAndRuns_15 :
    let c : Nat := 63
    let pf : Nat := 15
    let p0 : Nat := 2
    let p1 : Nat := 5
    let p2 : Nat := 1
    let p3 : Nat := 64
    let s : State := stMem (fun d => { d with cores := [(63, { Core.idle with state := 2, pfActive := [15], pfPos := [(15, (2, 5, 1, 64))] })], cache := [(1, (⟨leBytes 4 0x77 ++ leBytes 4 (256 ^ 4 - 1) ++ List.replicate 52 (9 : Byte) ++ leBytes 4 0x12345678, false⟩ : CLine)), (2, (⟨leBytes 4 0x77 ++ leBytes 4 (256 ^ 4 - 1) ++ List.replicate 52 (9 : Byte) ++ leBytes 4 0x12345678, false⟩ : CLine))], regs := [(prefBase 63 15, 32516), (prefBase 63 15 + 8, 0x80), (prefBase 63 15 + 0x10, 64), (prefBase 63 15 + 0x18, 5)] })
    let g : Dev := (match corePrefetch (consumeAll (latch s) c pf) c p3 with | .line g _ => g | _ => latch s)
    let l : Bytes := (match corePrefetch (consumeAll (latch s) c pf) c p3 with | .line _ l => l | _ => [])
    ((.prefetchLineIssue c pf : Instr).wellFormed = true) ∧ (Serving s) ∧ (kernelRuns s.dev c = true) ∧ ((coreOf s.dev c).pfActive.contains pf = true) ∧ (tget (coreOf s.dev c).pfPos pf (0, 0, 0, 0) = (p0, p1, p2, p3)) ∧ (prefBound (consumeAll (latch s) c pf) c pf = false) ∧ ((rf s.dev (prefBase c pf) 1 2 = 1 ∨ rf s.dev (prefBase c pf) 1 2 = 2)) ∧ (0 < p2) ∧ (corePrefetch (consumeAll (latch s) c pf) c p3 = .line g l) ∧ (g.boot = s.dev.boot) ∧ (g.errq.due = []) ∧ (g.tagWait = []) ∧ (g.tagHeld = []) ∧ (g.sw.seen = []) := by
  decide +kernel

theorem witness_CoresAndRuns_16 :
    let c : Nat := 63
    let pf : Nat := 15
    let p0 : Nat := 2
    let p1 : Nat := 4
    let p2 : Nat := 1
    let p3 : Nat := 0x20000
    let s : State := stMem (fun d => { d with cores := [(63, { Core.idle with state := 2, pfActive := [15], pfPos := [(15, (2, 4, 1, 0x20000))] })], cache := [(1, (⟨leBytes 4 0x77 ++ leBytes 4 (256 ^ 4 - 1) ++ List.replicate 52 (9 : Byte) ++ leBytes 4 0x12345678, false⟩ : CLine)), (2, (⟨leBytes 4 0x77 ++ leBytes 4 (256 ^ 4 - 1) ++ List.replicate 52 (9 : Byte) ++ leBytes 4 0x12345678, false⟩ : CLine))], regs := [(prefBase 63 15, 32516), (prefBase 63 15 + 8, 0x80), (prefBase 63 15 + 0x10, 64), (prefBase 63 15 + 0x18, 5)] })
    ((.prefetchLineIssue c pf : Instr).wellFormed = true) ∧ (Serving s) ∧ (kernelRuns s.dev c = true) ∧ ((coreOf s.dev c).pfActive.contains pf = true) ∧ (tget (coreOf s.dev c).pfPos pf (0, 0, 0, 0) = (p0, p1, p2, p3)) ∧ (prefBound (consumeAll (latch s) c pf) c pf = false) ∧ ((rf s.dev (prefBase c pf) 1 2 = 1 ∨ rf s.dev (prefBase c pf) 1 2 = 2)) ∧ (0 < p2) ∧ (corePrefetch (consumeAll (latch s) c pf) c p3 = .dropped) := by
  decide +kernel

theorem witness_CoresAndRuns_17 :
    let c : Nat := 63
    let pf : Nat := 15
    let p0 : Nat := 2
    let p1 : Nat := 5
    let p2 : Nat := 0
    let p3 : Nat := 0
    let s : State := stMem (fun d => { d with cores := [(63, { Core.idle with state := 2, pfActive := [15], pfPos := [(15, (2, 5, 0, 0))] })], cache := [(1, (⟨leBytes 4 0x77 ++ leBytes 4 (256 ^ 4 - 1) ++ List.replicate 52 (9 : Byte) ++ leBytes 4 0x12345678, false⟩ : CLine)), (2, (⟨leBytes 4 0x77 ++ leBytes 4 (256 ^ 4 - 1) ++ List.replicate 52 (9 : Byte) ++ leBytes 4 0x12345678, false⟩ : CLine))], regs := [(prefBase 63 15, 32514), (prefBase 63 15 + 8, 0x40), (prefBase 63 15 + 0x10, 64), (prefBase 63 15 + 0x18, 5)] })
    ((.prefetchLineIssue c pf : Instr).wellFormed = true) ∧ (Serving s) ∧ (kernelRuns s.dev c = true) ∧ ((coreOf s.dev c).pfActive.contains pf = true) ∧ (tget (coreOf s.dev c).pfPos pf (0, 0, 0, 0) = (p0, p1, p2, p3)) ∧ (prefBound (consumeAll (latch s) c pf) c pf = false) ∧ ((rf s.dev (prefBase c pf) 1 2 = 1 ∨ rf s.dev (prefBase c pf) 1 2 = 2)) ∧ (p2 = 0) ∧ (rf s.dev (prefBase c pf + 0x18) 0 32 ≤ p1) := by
  decide +kernel

theorem witness_CoresAndRuns_18 :
    let c : Nat := 63
    let pf : Nat := 15
    let p0 : Nat := 0
    let p1 : Nat := 0
    let p2 : Nat := 0
    let p3 : Nat := 0
    let s : State := stMem (fun d => { d with cores := [(63, { Core.idle with state := 2, pfActive := [15], pfPos := [(15, (0, 0, 0, 0))] })], cache := [(1, (⟨leBytes 4 0x77 ++ leBytes 4 (256 ^ 4 - 1) ++ List.replicate 52 (9 : Byte) ++ leBytes 4 0x12345678, false⟩ : CLine)), (2, (⟨leBytes 4 0x77 ++ leBytes 4 (256 ^ 4 - 1) ++ List.replicate 52 (9 : Byte) ++ leBytes 4 0x12345678, false⟩ : CLine))], regs := [(prefBase 63 15, 32516), (prefBase 63 15 + 8, 0x40), (prefBase 63 15 + 0x10, 64), (prefBase 63 15 + 0x18, 2), (prefBase 63 15 + 0x20, 0x100), (prefBase 63 15 + 0x28, 100)] })
    let g : Dev := (match corePrefetch (consumeAll (latch s) c pf) c (rf s.dev (prefBase c pf + 8) 0 48 + (if rf s.dev (prefBase c pf) 1 2 = 1 then 8 else 4) * p1) with | .line g _ => g | _ => latch s)
    let l : Bytes := (match corePrefetch (consumeAll (latch s) c pf) c (rf s.dev (prefBase c pf + 8) 0 48 + (if rf s.dev (prefBase c pf) 1 2 = 1 then 8 else 4) * p1) with | .line _ l => l | _ => [])
    ((.prefetchLineIssue c pf : Instr).wellFormed = true) ∧ (Serving s) ∧ (kernelRuns s.dev c = true) ∧ ((coreOf s.dev c).pfActive.contains pf = true) ∧ (tget (coreOf s.dev c).pfPos pf (0, 0, 0, 0) = (p0, p1, p2, p3)) ∧ (prefBound (consumeAll (latch s) c pf) c pf = false) ∧ ((rf s.dev (prefBase c pf) 1 2 = 1 ∨ rf s.dev (prefBase c pf) 1 2 = 2)) ∧ (p2 = 0) ∧ (p1 < rf s.dev (prefBase c pf + 0x18) 0 32) ∧ (p3 ≠ halfEntry) ∧ ((rf s.dev (prefBase c pf + 8) 0 48 + (if rf s.dev (prefBase c pf) 1 2 = 1 then 8 else 4) * p1) % 64 + (if rf s.dev (prefBase c pf) 1 2 = 1 then 8 else 4) ≤ 64) ∧ (corePrefetch (consumeAll (latch s) c pf) c (rf s.dev (prefBase c pf + 8) 0 48 + (if rf s.dev (prefBase c pf) 1 2 = 1 then 8 else 4) * p1) = .line g l) ∧ (g.boot = s.dev.boot) ∧ (g.errq.due = []) ∧ (g.tagWait = []) ∧ (g.tagHeld = []) ∧ (g.sw.seen = []) := by
  decide +kernel

theorem witness_CoresAndRuns_19 :
    let c : Nat := 63
    let pf : Nat := 15
    let p0 : Nat := 0
    let p1 : Nat := 0
    let p2 : Nat := 0
    let p3 : Nat := 0
    let s : State := stMem (fun d => { d with cores := [(63, { Core.idle with state := 2, pfActive := [15], pfPos := [(15, (0, 0, 0, 0))] })], cache := [(1, (⟨leBytes 4 0x77 ++ leBytes 4 (256 ^ 4 - 1) ++ List.replicate 52 (9 : Byte) ++ leBytes 4 0x12345678, false⟩ : CLine)), (2, (⟨leBytes 4 0x77 ++ leBytes 4 (256 ^ 4 - 1) ++ List.replicate 52 (9 : Byte) ++ leBytes 4 0x12345678, false⟩ : CLine))], regs := [(prefBase 63 15, 32514), (prefBase 63 15 + 8, 0x20000), (prefBase 63 15 + 0x10, 64), (prefBase 63 15 + 0x18, 2)] })
    ((.prefetchLineIssue c pf : Instr).wellFormed = true) ∧ (Serving s) ∧ (kernelRuns s.dev c = true) ∧ ((coreOf s.dev c).pfActive.contains pf = true) ∧ (tget (coreOf s.dev c).pfPos pf (0, 0, 0, 0) = (p0, p1, p2, p3)) ∧ (prefBound (consumeAll (latch s) c pf) c pf = false) ∧ ((rf s.dev (prefBase c pf) 1 2 = 1 ∨ rf s.dev (prefBase c pf) 1 2 = 2)) ∧ (p2 = 0) ∧ (p1 < rf s.dev (prefBase c pf + 0x18) 0 32) ∧ (p3 ≠ halfEntry) ∧ (corePrefetch (consumeAll (latch s) c pf) c (rf s.dev (prefBase c pf + 8) 0 48 + (if rf s.dev (prefBase c pf) 1 2 = 1 then 8 else 4) * p1) = .dropped) := by
  decide +kernel

theorem witness_CoresAndRuns_20 :
    let c : Nat := 63
    let pf : Nat := 15
    let p0 : Nat := 0
    let p1 : Nat := 0
    let p2 : Nat := 0
    let p3 : Nat := 0
    let s : State := stMem (fun d => { d with cores := [(63, { Core.idle with state := 2, pfActive := [15], pfPos := [(15, (0, 0, 0, 0))] })], cache := [(1, (⟨leBytes 4 0x77 ++ leBytes 4 (256 ^ 4 - 1) ++ List.replicate 52 (9 : Byte) ++ leBytes 4 0x12345678, false⟩ : CLine)), (2, (⟨leBytes 4 0x77 ++ leBytes 4 (256 ^ 4 - 1) ++ List.replicate 52 (9 : Byte) ++ leBytes 4 0x12345678, false⟩ : CLine))], regs := [(prefBase 63 15, 32514), (prefBase 63 15 + 8, 0x7C), (prefBase 63 15 + 0x10, 64), (prefBase 63 15 + 0x18, 2)] })
    let g : Dev := (match corePrefetch (consumeAll (latch s) c pf) c (rf s.dev (prefBase c pf + 8) 0 48 + (if rf s.dev (prefBase c pf) 1 2 = 1 then 8 else 4) * p1) with | .line g _ => g | _ => latch s)
    let l : Bytes := (match corePrefetch (consumeAll (latch s) c pf) c (rf s.dev (prefBase c pf + 8) 0 48 + (if rf s.dev (prefBase c pf) 1 2 = 1 then 8 else 4) * p1) with | .line _ l => l | _ => [])
    ((.prefetchLineIssue c pf : Instr).wellFormed = true) ∧ (Serving s) ∧ (kernelRuns s.dev c = true) ∧ ((coreOf s.dev c).pfActive.contains pf = true) ∧ (tget (coreOf s.dev c).pfPos pf (0, 0, 0, 0) = (p0, p1, p2, p3)) ∧ (prefBound (consumeAll (latch s) c pf) c pf = false) ∧ ((rf s.dev (prefBase c pf) 1 2 = 1 ∨ rf s.dev (prefBase c pf) 1 2 = 2)) ∧ (p2 = 0) ∧ (p1 < rf s.dev (prefBase c pf + 0x18) 0 32) ∧ (p3 ≠ halfEntry) ∧ (64 < (rf s.dev (prefBase c pf + 8) 0 48 + (if rf s.dev (prefBase c pf) 1 2 = 1 then 8 else 4) * p1) % 64 + (if rf s.dev (prefBase c pf) 1 2 = 1 then 8 else 4)) ∧ ((p1 = 0 ∨ (rf s.dev (prefBase c pf + 8) 0 48 + (if rf s.dev (prefBase c pf) 1 2 = 1 then 8 else 4) * p1) % 64 = 0)) ∧ (corePrefetch (consumeAll (latch s) c pf) c (rf s.dev (prefBase c pf + 8) 0 48 + (if rf s.dev (prefBase c pf) 1 2 = 1 then 8 else 4) * p1) = .line g l) ∧ (g.boot = s.dev.boot) ∧ (g.errq.due = []) ∧ (g.tagWait = []) ∧ (g.tagHeld = []) ∧ (g.sw.seen = []) := by
  decide +kernel

theorem witness_CoresAndRuns_21 :
    let c : Nat := 63
    let pf : Nat := 15
    let p0 : Nat := 1
    let p1 : Nat := 0
    let p2 : Nat := 0
    let p3 : Nat := halfEntry
    let s : State := stMem (fun d => { d with cores := [(63, { Core.idle with state := 2, pfActive := [15], pfPos := [(15, (1, 0, 0, halfEntry))] })], cache := [(1, (⟨leBytes 4 0x77 ++ leBytes 4 (256 ^ 4 - 1) ++ List.replicate 52 (9 : Byte) ++ leBytes 4 0x12345678, false⟩ : CLine)), (2, (⟨leBytes 4 0x77 ++ leBytes 4 (256 ^ 4 - 1) ++ List.replicate 52 (9 : Byte) ++ leBytes 4 0x12345678, false⟩ : CLine))], regs := [(prefBase 63 15, 32514), (prefBase 63 15 + 8, 0x7C), (prefBase 63 15 + 0x10, 64), (prefBase 63 15 + 0x18, 2), (prefBase 63 15 + 0x28, 64)] })
    let e : Dev := (match corePrefetch (consumeAll (latch s) c pf) c (rf s.dev (prefBase c pf + 8) 0 48 + (if rf s.dev (prefBase c pf) 1 2 = 1 then 8 else 4) * p1) with | .line g _ => g | _ => latch s)
    let m : Bytes := (match corePrefetch (consumeAll (latch s) c pf) c (rf s.dev (prefBase c pf + 8) 0 48 + (if rf s.dev (prefBase c pf) 1 2 = 1 then 8 else 4) * p1) with | .line _ l => l | _ => [])
    let g : Dev := (match corePrefetch e c ((rf s.dev (prefBase c pf + 8) 0 48 + (if rf s.dev (prefBase c pf) 1 2 = 1 then 8 else 4) * p1) / 64 * 64 + 64) with | .line g _ => g | _ => latch s)
    let l : Bytes := (match corePrefetch e c ((rf s.dev (prefBase c pf + 8) 0 48 + (if rf s.dev (prefBase c pf) 1 2 = 1 then 8 else 4) * p1) / 64 * 64 + 64) with | .line _ l => l | _ => [])
    ((.prefetchLineIssue c pf : Instr).wellFormed = true) ∧ (Serving s) ∧ (kernelRuns s.dev c = true) ∧ ((coreOf s.dev c).pfActive.contains pf = true) ∧ (tget (coreOf s.dev c).pfPos pf (0, 0, 0, 0) = (p0, p1, p2, p3)) ∧ (prefBound (consumeAll (latch s) c pf) c pf = false) ∧ ((rf s.dev (prefBase c pf) 1 2 = 1 ∨ rf s.dev (prefBase c pf) 1 2 = 2)) ∧ (p2 = 0) ∧ (p1 < rf s.dev (prefBase c pf + 0x18) 0 32) ∧ (p3 = halfEntry) ∧ (64 < (rf s.dev (prefBase c pf + 8) 0 48 + (if rf s.dev (prefBase c pf) 1 2 = 1 then 8 else 4) * p1) % 64 + (if rf s.dev (prefBase c pf) 1 2 = 1 then 8 else 4)) ∧ (corePrefetch (consumeAll (latch s) c pf) c (rf s.dev (prefBase c pf + 8) 0 48 + (if rf s.dev (prefBase c pf) 1 2 = 1 then 8 else 4) * p1) = .line e m) ∧ (corePrefetch e c ((rf s.dev (prefBase c pf + 8) 0 48 + (if rf s.dev (prefBase c pf) 1 2 = 1 then 8 else 4) * p1) / 64 * 64 + 64) = .line g l) ∧ (g.boot = s.dev.boot) ∧ (g.errq.due = []) ∧ (g.tagWait = []) ∧ (g.tagHeld = []) ∧ (g.sw.seen = []) := by
  decide +kernel

theorem witness_CoresAndRuns_22 :
    let c : Nat := 63
    let s : State := stWith (fun d => { d with cores := [(63, { Core.idle with state := 2, pfActive := [15] })], regs := [(prefBase 63 15, 0x100), (prefBase 63 15 + 0x18, 5)] })
    let pf : Nat := 15
    let p0 : Nat := 0
    let p1 : Nat := 0
    let p2 : Nat := 0
    let p3 : Nat := 0
    ((.prefetchLineIssue c pf : Instr).wellFormed = true) ∧ (Serving s) ∧ ((coreOf s.dev c).state = 2) ∧ ((coreOf s.dev c).pfActive.contains pf = true) ∧ (tget (coreOf s.dev c).pfPos pf (0, 0, 0, 0) = (p0, p1, p2, p3)) ∧ (p0 < rf s.dev (prefBase c pf + 0x40) 0 32 + min 128 (rf s.dev (prefBase c pf) 8 8)) ∧ (rf s.dev (prefBase c pf) 1 2 = 0) ∧ (p0 + 1 < rf s.dev (prefBase c pf + 0x18) 0 32) ∧ (findRange s.dev (coreOf s.dev c).ctx (coreGen s.dev c) (((rf s.dev (prefBase c pf + 8) 0 48 : Int) + toSigned 32 (rf s.dev (prefBase c pf + 0x10) 0 32) * p0) % (2 ^ 48 : Nat)).toNat = none) := by
  decide +kernel

theorem witness_ScalarAccesses_1 :
    let c : Nat := 63
    let far : Far := ([] : Far)
    let addr : Nat := 4
    let size : Nat := 4
    let rd : Nat := 31
    let uns : Bool := false
    let s : State := stMem (fun d => { d with cores := [(63, { Core.idle with state := 2, lm := [(5, 0x80), (7, 0xFF)] })] })
    ((.scalarLoad c addr size rd uns far : Instr).wellFormed = true) ∧ (Serving s) ∧ (scalarReady s.dev c = true) ∧ (addr % size = 0) ∧ (addr < 0x800000) ∧ ((coreOf s.dev c).flips = []) := by
  decide +kernel

theorem witness_ScalarAccesses_2 :
    let c : Nat := 63
    let far : Far := ([] : Far)
    let addr : Nat := 2 ^ 48 + 0x78
    let size : Nat := 8
    let rd : Nat := 1
    let uns : Bool := false
    let k : Nat := 0
    let u : Nat := 0x78
    let r : Range := (⟨0, 65536, 0, true, true, true, false, none, 0, none, none, none, 0⟩ : Range)
    let l : CLine := (⟨List.replicate 64 (9 : Byte), false⟩ : CLine)
    let s : State := stMem (fun d => { d with cores := [(63, { Core.idle with state := 2, lm := [(5, 0x80), (7, 0xFF)] })], cache := [(1, (⟨List.replicate 64 (9 : Byte), false⟩ : CLine))] })
    ((.scalarLoad c addr size rd uns far : Instr).wellFormed = true) ∧ (Serving s) ∧ (scalarReady s.dev c = true) ∧ (addr % size = 0) ∧ (2 ^ 48 ≤ addr) ∧ (addr < 2 ^ 49) ∧ (rd ≠ 0) ∧ (findRange s.dev (coreOf s.dev c).ctx (coreGen s.dev c) (addr - 2 ^ 48) = some (k, r)) ∧ (r.coh = false) ∧ (r.r = true) ∧ (u = r.uni + ((addr - 2 ^ 48) - r.start)) ∧ ((pageOf s.dev (u / 65536)).tier = 1 ∨ (pageOf s.dev (u / 65536)).tier = 2) ∧ ((pageOf s.dev (u / 65536)).packed = false) ∧ (floeOn s.dev (homeFloe (u / 65536)) = true) ∧ (tget? s.dev.dir (u / 64) = none) ∧ (tget? s.dev.cache (u / 64) = some l) ∧ (SoundLine s.dev (u / 64)) ∧ ((coreOf s.dev c).flips = []) := by
  decide +kernel

theorem witness_ScalarAccesses_3 :
    let c : Nat := 63
    let far : Far := ([] : Far)
    let addr : Nat := 0x1000010
    let size : Nat := 4
    let rd : Nat := 31
    let uns : Bool := true
    let s : State := stMem (fun d => { d with cores := [(63, { Core.idle with state := 2, lm := [(5, 0x80), (7, 0xFF)], tokens := [(0, 7)] })] })
    let e : Dev := (coreRead s.clk (latch s) c (addr - 0x1000000) size).1
    let v : Nat := (coreRead s.clk (latch s) c (addr - 0x1000000) size).2
    ((.scalarLoad c addr size rd uns far : Instr).wellFormed = true) ∧ (Serving s) ∧ (scalarReady s.dev c = true) ∧ (addr % size = 0) ∧ (0x1000000 ≤ addr) ∧ (addr < 0x1004000) ∧ (coreRead s.clk (latch s) c (addr - 0x1000000) size = (e, v)) ∧ (e.boot = s.dev.boot) ∧ (e.errq.due = []) ∧ (e.tagWait = []) ∧ (e.tagHeld = []) ∧ (e.sw.seen = []) := by
  decide +kernel

theorem witness_ScalarAccesses_4 :
    let c : Nat := 63
    let far : Far := ([] : Far)
    let addr : Nat := 6
    let size : Nat := 4
    let rd : Nat := 31
    let uns : Bool := false
    let s : State := stMem (fun d => { d with cores := [(63, { Core.idle with state := 2, lm := [(5, 0x80), (7, 0xFF)] })] })
    ((.scalarLoad c addr size rd uns far : Instr).wellFormed = true) ∧ (Serving s) ∧ (scalarReady s.dev c = true) ∧ (addr % size ≠ 0) ∧ (openOf s.dev.errq 2 c = none) := by
  decide +kernel

theorem witness_ScalarAccesses_5 :
    let c : Nat := 63
    let far : Far := ([] : Far)
    let addr : Nat := 0x800000
    let size : Nat := 4
    let rd : Nat := 31
    let uns : Bool := false
    let s : State := stMem (fun d => { d with cores := [(63, { Core.idle with state := 2, lm := [(5, 0x80), (7, 0xFF)] })] })
    ((.scalarLoad c addr size rd uns far : Instr).wellFormed = true) ∧ (Serving s) ∧ (scalarReady s.dev c = true) ∧ (addr % size = 0) ∧ (placeOf addr = .hole) ∧ (openOf s.dev.errq 2 c = none) := by
  decide +kernel

theorem witness_ScalarAccesses_6 :
    let c : Nat := 63
    let far : Far := ([] : Far)
    let addr : Nat := 0x7FFFF8
    let size : Nat := 8
    let v : Nat := 2 ^ 64 - 1
    let s : State := stMem (fun d => { d with cores := [(63, { Core.idle with state := 2, lm := [(5, 0x80), (7, 0xFF)] })] })
    ((.scalarStore c addr size v far : Instr).wellFormed = true) ∧ (Serving s) ∧ (scalarReady s.dev c = true) ∧ (addr % size = 0) ∧ (addr < 0x800000) ∧ (inCode (coreOf s.dev c) addr size = false) := by
  decide +kernel

theorem witness_ScalarAccesses_7 :
    let c : Nat := 63
    let far : Far := ([] : Far)
    let addr : Nat := 0x1FF8
    let size : Nat := 8
    let v : Nat := 1
    let s : State := stMem (fun d => { d with cores := [(63, { Core.idle with state := 2, lm := [(5, 0x80), (7, 0xFF)], codeBase := 0x1000, codeLen := 0x1000 })] })
    ((.scalarStore c addr size v far : Instr).wellFormed = true) ∧ (Serving s) ∧ (scalarReady s.dev c = true) ∧ (addr % size = 0) ∧ (addr < 0x800000) ∧ (inCode (coreOf s.dev c) addr size = true) ∧ (openOf s.dev.errq 2 c = none) := by
  decide +kernel

theorem witness_ScalarAccesses_8 :
    let c : Nat := 63
    let far : Far := ([] : Far)
    let addr : Nat := 2 ^ 48 + 0x78
    let size : Nat := 8
    let v : Nat := 5
    let k : Nat := 0
    let u : Nat := 0x78
    let r : Range := (⟨0, 65536, 0, true, true, true, false, none, 0, none, none, none, 0⟩ : Range)
    let l : CLine := (⟨List.replicate 64 (9 : Byte), false⟩ : CLine)
    let s : State := stMem (fun d => { d with cores := [(63, { Core.idle with state := 2, lm := [(5, 0x80), (7, 0xFF)] })], cache := [(1, (⟨List.replicate 64 (9 : Byte), false⟩ : CLine))] })
    ((.scalarStore c addr size v far : Instr).wellFormed = true) ∧ (Serving s) ∧ (scalarReady s.dev c = true) ∧ (addr % size = 0) ∧ (2 ^ 48 ≤ addr) ∧ (addr < 2 ^ 49) ∧ (findRange s.dev (coreOf s.dev c).ctx (coreGen s.dev c) (addr - 2 ^ 48) = some (k, r)) ∧ (r.coh = false) ∧ (r.w = true) ∧ (u = r.uni + ((addr - 2 ^ 48) - r.start)) ∧ ((pageOf s.dev (u / 65536)).tier = 1 ∨ (pageOf s.dev (u / 65536)).tier = 2) ∧ ((pageOf s.dev (u / 65536)).packed = false) ∧ (floeOn s.dev (homeFloe (u / 65536)) = true) ∧ (tget? s.dev.dir (u / 64) = none) ∧ (tget? s.dev.cache (u / 64) = some l) ∧ (SoundLine s.dev (u / 64)) ∧ ((coreOf s.dev c).flips = []) ∧ ((pageOf s.dev (u / 65536)).durable = false) ∧ ((pageOf s.dev (u / 65536)).twin = false) ∧ (l.data.length = 64) ∧ ((pageOf s.dev (u / 65536)).noPack = false) ∧ (mustHold s.dev (.scalar c 0 0) (u / 64) false = false) := by
  decide +kernel

theorem witness_ScalarAccesses_9 :
    let c : Nat := 63
    let far : Far := ([] : Far)
    let addr : Nat := 0x1000030
    let size : Nat := 4
    let v : Nat := 2
    let s : State := stMem (fun d => { d with cores := [(63, { Core.idle with state := 2, lm := [(5, 0x80), (7, 0xFF)] })] })
    let e : Dev := coreWrite s.clk (latch s) c (addr - 0x1000000) size v
    ((.scalarStore c addr size v far : Instr).wellFormed = true) ∧ (Serving s) ∧ (scalarReady s.dev c = true) ∧ (addr % size = 0) ∧ (0x1000000 ≤ addr) ∧ (addr < 0x1004000) ∧ (coreWrite s.clk (latch s) c (addr - 0x1000000) size v = e) ∧ (e.boot = s.dev.boot) ∧ (e.errq.due = []) ∧ (e.tagWait = []) ∧ (e.tagHeld = []) ∧ (e.sw.seen = []) := by
  decide +kernel

theorem witness_ScalarAccesses_10 :
    let c : Nat := 63
    let far : Far := ([] : Far)
    let op : Nat := 8
    let addr : Nat := 4
    let size : Nat := 4
    let v : Nat := 0x80000000
    let rd : Nat := 31
    let s : State := stMem (fun d => { d with cores := [(63, { Core.idle with state := 2, lm := [(5, 0x80), (7, 0xFF)] })] })
    ((.scalarAmo c op addr size v rd far : Instr).wellFormed = true) ∧ (Serving s) ∧ (scalarReady s.dev c = true) ∧ (addr % size = 0) ∧ (addr < 0x800000) ∧ (inCode (coreOf s.dev c) addr size = false) ∧ ((coreOf s.dev c).flips = []) := by
  decide +kernel

theorem witness_ScalarAccesses_11 :
    let c : Nat := 63
    let far : Far := ([] : Far)
    let op : Nat := 8
    let addr : Nat := 2 ^ 48 + 0x78
    let size : Nat := 4
    let v : Nat := 1
    let rd : Nat := 31
    let k : Nat := 0
    let u : Nat := 0x78
    let r : Range := (⟨0, 65536, 0, true, true, true, true, none, 0, none, none, none, 0⟩ : Range)
    let l : DLine := (⟨List.replicate 64 (0x81 : Byte), false, true⟩ : DLine)
    let s : State := stMem (fun d => { d with cores := [(63, { Core.idle with state := 2, lm := [(5, 0x80), (7, 0xFF)], dcache := [(1, (⟨List.replicate 64 (0x81 : Byte), false, true⟩ : DLine))] })], ctxs := [(0, { Ctx.fresh with ranges := [(0, ⟨0, 65536, 0, true, true, true, true, none, 0, none, none, none, 0⟩)] })] })
    ((.scalarAmo c op addr size v rd far : Instr).wellFormed = true) ∧ (Serving s) ∧ (scalarReady s.dev c = true) ∧ (addr % size = 0) ∧ (2 ^ 48 ≤ addr) ∧ (addr < 2 ^ 49) ∧ (rd ≠ 0) ∧ (findRange s.dev (coreOf s.dev c).ctx (coreGen s.dev c) (addr - 2 ^ 48) = some (k, r)) ∧ (r.coh = true) ∧ (r.a = true) ∧ (u = r.uni + ((addr - 2 ^ 48) - r.start)) ∧ ((pageOf s.dev (u / 65536)).tier = 1 ∨ (pageOf s.dev (u / 65536)).tier = 2) ∧ ((coreOf s.dev c).flips = []) ∧ ((coreOf s.dev c).dcache = [(u / 64, l)]) ∧ (l.owned = true) := by
  decide +kernel

theorem witness_ScalarAccesses_12 :
    let c : Nat := 63
    let far : Far := ([] : Far)
    let op : Nat := 0x0A
    let addr : Nat := 0x1000030
    let size : Nat := 4
    let v : Nat := 2
    let rd : Nat := 31
    let s : State := stMem (fun d => { d with cores := [(63, { Core.idle with state := 2, lm := [(5, 0x80), (7, 0xFF)] })] })
    let e : Dev := (coreRead s.clk (latch s) c (addr - 0x1000000) size).1
    let old : Nat := (coreRead s.clk (latch s) c (addr - 0x1000000) size).2
    let e2 : Dev := coreWrite s.clk e c (addr - 0x1000000) size (atomicNew op size old v 0)
    ((.scalarAmo c op addr size v rd far : Instr).wellFormed = true) ∧ (Serving s) ∧ (scalarReady s.dev c = true) ∧ (addr % size = 0) ∧ (0x1000000 ≤ addr) ∧ (addr < 0x1004000) ∧ (coreRead s.clk (latch s) c (addr - 0x1000000) size = (e, old)) ∧ (coreWrite s.clk e c (addr - 0x1000000) size (atomicNew op size old v 0) = e2) ∧ (e2.boot = s.dev.boot) ∧ (e2.errq.due = []) ∧ (e2.tagWait = []) ∧ (e2.tagHeld = []) ∧ (e2.sw.seen = []) := by
  decide +kernel

theorem witness_ScalarAccesses_13 :
    let c : Nat := 63
    let far := ([] : Far)
    let addr : Nat := 2 ^ 48 + 0x78
    let size : Nat := 4
    let v : Nat := 1
    let rd : Nat := 31
    let k : Nat := 0
    let u : Nat := 0x78
    let r : Range := (⟨0, 65536, 0, true, true, true, true, none, 0, none, none, none, 0⟩ : Range)
    let l : DLine := (⟨List.replicate 64 (0x81 : Byte), false, true⟩ : DLine)
    let s : State := stMem (fun d => { d with cores := [(63, { Core.idle with state := 2, lm := [(5, 0x80), (7, 0xFF)], dcache := [(1, (⟨List.replicate 64 (0x81 : Byte), false, true⟩ : DLine))] })], ctxs := [(0, { Ctx.fresh with ranges := [(0, ⟨0, 65536, 0, true, true, true, true, none, 0, none, none, none, 0⟩)] })] })
    ((.scalarLrSc c false addr size v rd : Instr).wellFormed = true) ∧ (Serving s) ∧ (scalarReady s.dev c = true) ∧ (addr % size = 0) ∧ (2 ^ 48 ≤ addr) ∧ (addr < 2 ^ 49) ∧ (rd ≠ 0) ∧ (findRange s.dev (coreOf s.dev c).ctx (coreGen s.dev c) (addr - 2 ^ 48) = some (k, r)) ∧ (r.coh = true) ∧ (r.a = true) ∧ (u = r.uni + ((addr - 2 ^ 48) - r.start)) ∧ ((pageOf s.dev (u / 65536)).tier = 1 ∨ (pageOf s.dev (u / 65536)).tier = 2) ∧ ((coreOf s.dev c).flips = []) ∧ ((coreOf s.dev c).dcache = [(u / 64, l)]) ∧ (l.owned = true) := by
  decide +kernel

theorem witness_ScalarAccesses_14 :
    let c : Nat := 63
    let far := ([] : Far)
    let addr : Nat := 2 ^ 48 + 0x78
    let size : Nat := 8
    let v : Nat := 1
    let rd : Nat := 31
    let k : Nat := 0
    let u : Nat := 0x78
    let r : Range := (⟨0, 65536, 0, true, true, true, true, none, 0, none, none, none, 0⟩ : Range)
    let l : DLine := (⟨List.replicate 64 (0x81 : Byte), false, true⟩ : DLine)
    let s : State := stMem (fun d => { d with cores := [(63, { Core.idle with state := 2, lm := [(5, 0x80), (7, 0xFF)], reserve := some 1, dcache := [(1, (⟨List.replicate 64 (0x81 : Byte), false, true⟩ : DLine))] })], ctxs := [(0, { Ctx.fresh with ranges := [(0, ⟨0, 65536, 0, true, true, true, true, none, 0, none, none, none, 0⟩)] })] })
    ((.scalarLrSc c true addr size v rd : Instr).wellFormed = true) ∧ (Serving s) ∧ (scalarReady s.dev c = true) ∧ (addr % size = 0) ∧ (2 ^ 48 ≤ addr) ∧ (addr < 2 ^ 49) ∧ (rd ≠ 0) ∧ (findRange s.dev (coreOf s.dev c).ctx (coreGen s.dev c) (addr - 2 ^ 48) = some (k, r)) ∧ (r.coh = true) ∧ (r.a = true) ∧ (u = r.uni + ((addr - 2 ^ 48) - r.start)) ∧ ((coreOf s.dev c).flips = []) ∧ ((coreOf s.dev c).dcache = [(u / 64, l)]) ∧ (l.owned = true) ∧ ((coreOf s.dev c).reserve = some (u / 64)) := by
  decide +kernel

theorem witness_ScalarAccesses_15 :
    let c : Nat := 63
    let far := ([] : Far)
    let addr : Nat := 2 ^ 48 + 0x78
    let size : Nat := 8
    let v : Nat := 1
    let rd : Nat := 31
    let k : Nat := 0
    let u : Nat := 0x78
    let r : Range := (⟨0, 65536, 0, true, true, true, true, none, 0, none, none, none, 0⟩ : Range)
    let s : State := stMem (fun d => { d with cores := [(63, { Core.idle with state := 2, lm := [(5, 0x80), (7, 0xFF)], reserve := some 2 })], ctxs := [(0, { Ctx.fresh with ranges := [(0, ⟨0, 65536, 0, true, true, true, true, none, 0, none, none, none, 0⟩)] })] })
    ((.scalarLrSc c true addr size v rd : Instr).wellFormed = true) ∧ (Serving s) ∧ (scalarReady s.dev c = true) ∧ (addr % size = 0) ∧ (2 ^ 48 ≤ addr) ∧ (addr < 2 ^ 49) ∧ (rd ≠ 0) ∧ (findRange s.dev (coreOf s.dev c).ctx (coreGen s.dev c) (addr - 2 ^ 48) = some (k, r)) ∧ (r.coh = true) ∧ (r.a = true) ∧ (u = r.uni + ((addr - 2 ^ 48) - r.start)) ∧ ((coreOf s.dev c).reserve ≠ some (u / 64)) := by
  decide +kernel

theorem witness_ScalarAccesses_16 :
    let c : Nat := 63
    let far := ([] : Far)
    let sc : Bool := true
    let addr : Nat := 2 ^ 48 + 0x78
    let size : Nat := 8
    let v : Nat := 1
    let rd : Nat := 31
    let k : Nat := 0
    let r : Range := (⟨0, 65536, 0, true, true, true, false, none, 0, none, none, none, 0⟩ : Range)
    let s : State := stMem (fun d => { d with cores := [(63, { Core.idle with state := 2, lm := [(5, 0x80), (7, 0xFF)] })] })
    ((.scalarLrSc c sc addr size v rd : Instr).wellFormed = true) ∧ (Serving s) ∧ (scalarReady s.dev c = true) ∧ (addr % size = 0) ∧ (2 ^ 48 ≤ addr) ∧ (addr < 2 ^ 49) ∧ (findRange s.dev (coreOf s.dev c).ctx (coreGen s.dev c) (addr - 2 ^ 48) = some (k, r)) ∧ (r.coh = false) ∧ (openOf s.dev.errq 2 c = none) := by
  decide +kernel

theorem witness_DirectoryRequests_1 :
    let agent : Nat := 63
    let sh : Nat := 2 ^ 62
    let ow : Nat := 0xFF
    let line : Nat := 1023
    let l : CLine := (⟨List.replicate 64 (9 : Byte), false⟩ : CLine)
    let s : State := stMem (fun d => { d with ctxs := [(0, { Ctx.fresh with ranges := [(0, ⟨0, 65536, 0, true, true, true, true, none, 0, none, none, none, 0⟩)] })], cache := [(1023, (⟨List.replicate 64 (9 : Byte), false⟩ : CLine))], dir := [(1023, ⟨2 ^ 62, 1, 0xFF, none⟩)] })
    ((.rdShared agent line : Instr).wellFormed = true) ∧ (Serving s) ∧ (agent < 64) ∧ (dirOf s.dev line = ⟨sh, 1, ow, none⟩) ∧ (floeOn s.dev (homeFloe (pageOfLine line)) = true) ∧ ((pageOf s.dev (pageOfLine line)).tier = 1 ∨ (pageOf s.dev (pageOfLine line)).tier = 2) ∧ ((pageOf s.dev (pageOfLine line)).packed = false) ∧ (tget? s.dev.cache line = some l) ∧ (SoundLine s.dev line) ∧ (dirPending s.dev (homeFloe (pageOfLine line)) < 512) ∧ (tget s.dev.dirFlips line 0 = 0) ∧ (s.dev.dirWait.any (fun w => decide (w.1 = line)) = false) ∧ (dirQueue s.dev (homeFloe (pageOfLine line)) < 1024) ∧ (pageCoherent s.dev (pageOfLine line) = true) ∧ (((tkeys (coreOf s.dev agent).dcache).filter (fun k => decide (k % 256 = line % 256 ∧ k ≠ line))).length < 4) := by
  decide +kernel

theorem witness_DirectoryRequests_2 :
    let agent : Nat := 63
    let line : Nat := 1023
    let l : CLine := (⟨List.replicate 64 (9 : Byte), false⟩ : CLine)
    let s : State := stMem (fun d => { d with ctxs := [(0, { Ctx.fresh with ranges := [(0, ⟨0, 65536, 0, true, true, true, true, none, 0, none, none, none, 0⟩)] })], cache := [(1023, (⟨List.replicate 64 (9 : Byte), false⟩ : CLine))], dir := [] })
    ((.rdShared agent line : Instr).wellFormed = true) ∧ (Serving s) ∧ (agent < 64) ∧ (dirOf s.dev line = ⟨0, 0, 0xFF, none⟩) ∧ (floeOn s.dev (homeFloe (pageOfLine line)) = true) ∧ ((pageOf s.dev (pageOfLine line)).tier = 1 ∨ (pageOf s.dev (pageOfLine line)).tier = 2) ∧ ((pageOf s.dev (pageOfLine line)).packed = false) ∧ (tget? s.dev.cache line = some l) ∧ (SoundLine s.dev line) ∧ (dirPending s.dev (homeFloe (pageOfLine line)) < 512) ∧ (tget s.dev.dirFlips line 0 = 0) ∧ (s.dev.dirWait.any (fun w => decide (w.1 = line)) = false) ∧ (dirQueue s.dev (homeFloe (pageOfLine line)) < 1024) ∧ (pageCoherent s.dev (pageOfLine line) = true) ∧ ((dirWays s.dev line).length < 16) ∧ (((tkeys (coreOf s.dev agent).dcache).filter (fun k => decide (k % 256 = line % 256 ∧ k ≠ line))).length < 4) := by
  decide +kernel

theorem witness_DirectoryRequests_3 :
    let p : Nat := 11
    let sh : Nat := 2 ^ 62
    let ow : Nat := 0xFF
    let line : Nat := 1023
    let l : CLine := (⟨List.replicate 64 (9 : Byte), false⟩ : CLine)
    let s : State := stMem (fun d => { d with ctxs := [(0, { Ctx.fresh with ranges := [(0, ⟨0, 65536, 0, true, true, true, true, none, 0, none, none, none, 0⟩)] })], cache := [(1023, (⟨List.replicate 64 (9 : Byte), false⟩ : CLine))], dir := [(1023, ⟨2 ^ 62, 1, 0xFF, none⟩)], ports := [(11, { Port.reset with link := 3, flit256 := true, decoders := [(0, { Decoder.blank with base := 65536, size := 65536, committed := true, ctx := some 0, uniLen := 65536 })] })] })
    let q : PortReq := (decodeLine s.dev 11 1023).getD ⟨0, 0, 0, 0, 0, 0⟩
    ((.rdShared (64 + p) line : Instr).wellFormed = true) ∧ (Serving s) ∧ (p < 12) ∧ (linkUp (portOf s.dev p) = true) ∧ (portLoad s.dev p false < 512) ∧ ((portOf s.dev p).flit256 = true) ∧ (decodeLine s.dev p line = some q) ∧ (pageCheck s.dev q.ctx (pageOfLine line) false = none) ∧ (dirOf s.dev line = ⟨sh, 1, ow, none⟩) ∧ (floeOn s.dev (homeFloe (pageOfLine line)) = true) ∧ ((pageOf s.dev (pageOfLine line)).tier = 1 ∨ (pageOf s.dev (pageOfLine line)).tier = 2) ∧ ((pageOf s.dev (pageOfLine line)).packed = false) ∧ (tget? s.dev.cache line = some l) ∧ (SoundLine s.dev line) ∧ (dirPending s.dev (homeFloe (pageOfLine line)) < 512) ∧ (tget s.dev.dirFlips line 0 = 0) ∧ (s.dev.dirWait.any (fun w => decide (w.1 = line)) = false) ∧ (dirQueue s.dev (homeFloe (pageOfLine line)) < 1024) ∧ (pageCoherent s.dev (pageOfLine line) = true) := by
  decide +kernel

theorem witness_DirectoryRequests_4 :
    let p : Nat := 11
    let line : Nat := 1023
    let l : CLine := (⟨List.replicate 64 (9 : Byte), false⟩ : CLine)
    let s : State := stMem (fun d => { d with ctxs := [(0, { Ctx.fresh with ranges := [(0, ⟨0, 65536, 0, true, true, true, true, none, 0, none, none, none, 0⟩)] })], cache := [(1023, (⟨List.replicate 64 (9 : Byte), false⟩ : CLine))], dir := [], ports := [(11, { Port.reset with link := 3, flit256 := true, decoders := [(0, { Decoder.blank with base := 65536, size := 65536, committed := true, ctx := some 0, uniLen := 65536 })] })] })
    let q : PortReq := (decodeLine s.dev 11 1023).getD ⟨0, 0, 0, 0, 0, 0⟩
    ((.rdOwn (64 + p) line : Instr).wellFormed = true) ∧ (Serving s) ∧ (p < 12) ∧ (linkUp (portOf s.dev p) = true) ∧ (portLoad s.dev p false < 512) ∧ ((portOf s.dev p).flit256 = true) ∧ (decodeLine s.dev p line = some q) ∧ (pageCheck s.dev q.ctx (pageOfLine line) true = none) ∧ (dirOf s.dev line = ⟨0, 0, 0xFF, none⟩) ∧ (floeOn s.dev (homeFloe (pageOfLine line)) = true) ∧ ((pageOf s.dev (pageOfLine line)).tier = 1 ∨ (pageOf s.dev (pageOfLine line)).tier = 2) ∧ ((pageOf s.dev (pageOfLine line)).packed = false) ∧ (tget? s.dev.cache line = some l) ∧ (SoundLine s.dev line) ∧ (dirPending s.dev (homeFloe (pageOfLine line)) < 512) ∧ (tget s.dev.dirFlips line 0 = 0) ∧ (s.dev.dirWait.any (fun w => decide (w.1 = line)) = false) ∧ (dirQueue s.dev (homeFloe (pageOfLine line)) < 1024) ∧ (pageCoherent s.dev (pageOfLine line) = true) ∧ ((dirWays s.dev line).length < 16) := by
  decide +kernel

theorem witness_DirectoryRequests_5 :
    let p : Nat := 11
    let line : Nat := 1023
    let s : State := stMem (fun d => { d with ctxs := [(0, { Ctx.fresh with ranges := [(0, ⟨0, 65536, 0, true, true, true, true, none, 0, none, none, none, 0⟩)] })], cache := [(1023, (⟨List.replicate 64 (9 : Byte), false⟩ : CLine))], dir := [(1023, ⟨2 ^ 75, 1, 0xFF, none⟩)], ports := [(11, { Port.reset with link := 3, flit256 := true, decoders := [(0, { Decoder.blank with base := 65536, size := 65536, committed := true, ctx := some 0, uniLen := 65536 })] })] })
    let q : PortReq := (decodeLine s.dev 11 1023).getD ⟨0, 0, 0, 0, 0, 0⟩
    ((.upgrade (64 + p) line : Instr).wellFormed = true) ∧ (Serving s) ∧ (p < 12) ∧ (linkUp (portOf s.dev p) = true) ∧ (portLoad s.dev p false < 512) ∧ ((portOf s.dev p).flit256 = true) ∧ (decodeLine s.dev p line = some q) ∧ (pageCheck s.dev q.ctx (pageOfLine line) true = none) ∧ (dirOf s.dev line = ⟨2 ^ (64 + p), 1, 0xFF, none⟩) ∧ (floeOn s.dev (homeFloe (pageOfLine line)) = true) ∧ (dirPending s.dev (homeFloe (pageOfLine line)) < 512) ∧ (tget s.dev.dirFlips line 0 = 0) ∧ (s.dev.dirWait.any (fun w => decide (w.1 = line)) = false) ∧ (dirQueue s.dev (homeFloe (pageOfLine line)) < 1024) ∧ ((pageOf s.dev (pageOfLine line)).tier = 1 ∨ (pageOf s.dev (pageOfLine line)).tier = 2) ∧ (pageCoherent s.dev (pageOfLine line) = true) := by
  decide +kernel

theorem witness_DirectoryRequests_6 :
    let agent : Nat := 63
    let line : Nat := 1023
    let s : State := stMem (fun d => { d with ctxs := [(0, { Ctx.fresh with ranges := [(0, ⟨0, 65536, 0, true, true, true, true, none, 0, none, none, none, 0⟩)] })], cache := [(1023, (⟨List.replicate 64 (9 : Byte), false⟩ : CLine))], dir := [(1023, ⟨2 ^ 62, 1, 0xFF, some ⟨.withdraw, [(62, 1)], none, false⟩⟩)] })
    ((.rdShared agent line : Instr).wellFormed = true) ∧ (Serving s) ∧ (agent < 64) ∧ ((dirOf s.dev line).txn.isSome = true) ∧ ((dirOf s.dev line).state ≠ 3) ∧ (floeOn s.dev (homeFloe (pageOfLine line)) = true) ∧ (tget s.dev.dirFlips line 0 = 0) := by
  decide +kernel

theorem witness_DirectoryRequests_7 :
    let agent : Nat := 63
    let o : Nat := 62
    let x : DLine := (⟨List.replicate 64 (3 : Byte), false, false⟩ : DLine)
    let line : Nat := 1023
    let l : CLine := (⟨List.replicate 64 (9 : Byte), false⟩ : CLine)
    let s : State := stMem (fun d => { d with ctxs := [(0, { Ctx.fresh with ranges := [(0, ⟨0, 65536, 0, true, true, true, true, none, 0, none, none, none, 0⟩)] })], cache := [(1023, (⟨List.replicate 64 (9 : Byte), false⟩ : CLine))], dir := [(1023, ⟨2 ^ 62, 1, 0xFF, none⟩)], cores := [(62, { Core.idle with dcache := [(1023, (⟨List.replicate 64 (3 : Byte), false, false⟩ : DLine))] })] })
    ((.rdOwn agent line : Instr).wellFormed = true) ∧ (Serving s) ∧ (agent < 64) ∧ (o < 64) ∧ (o ≠ agent) ∧ (dirOf s.dev line = ⟨2 ^ o, 1, 0xFF, none⟩) ∧ (floeOn s.dev (homeFloe (pageOfLine line)) = true) ∧ ((pageOf s.dev (pageOfLine line)).tier = 1 ∨ (pageOf s.dev (pageOfLine line)).tier = 2) ∧ ((pageOf s.dev (pageOfLine line)).packed = false) ∧ (tget? s.dev.cache line = some l) ∧ (SoundLine s.dev line) ∧ (dirPending s.dev (homeFloe (pageOfLine line)) < 512) ∧ (tget s.dev.dirFlips line 0 = 0) ∧ (s.dev.dirWait.any (fun w => decide (w.1 = line)) = false) ∧ (dirQueue s.dev (homeFloe (pageOfLine line)) < 1024) ∧ (pageCoherent s.dev (pageOfLine line) = true) ∧ (s.dev.dirWalk = []) ∧ (((tkeys (coreOf s.dev agent).dcache).filter (fun k => decide (k % 256 = line % 256 ∧ k ≠ line))).length < 4) ∧ (tget? (coreOf s.dev o).dcache line = some x) ∧ (x.dirty = false) := by
  decide +kernel

theorem witness_DirectoryRequests_8 :
    let agent : Nat := 63
    let x : DLine := (⟨List.replicate 64 (3 : Byte), false, false⟩ : DLine)
    let line : Nat := 1023
    let s : State := stMem (fun d => { d with ctxs := [(0, { Ctx.fresh with ranges := [(0, ⟨0, 65536, 0, true, true, true, true, none, 0, none, none, none, 0⟩)] })], cache := [(1023, (⟨List.replicate 64 (9 : Byte), false⟩ : CLine))], dir := [(1023, ⟨2 ^ 63, 1, 0xFF, none⟩)], cores := [(63, { Core.idle with dcache := [(1023, (⟨List.replicate 64 (3 : Byte), false, false⟩ : DLine))] })] })
    ((.upgrade agent line : Instr).wellFormed = true) ∧ (Serving s) ∧ (agent < 64) ∧ (dirOf s.dev line = ⟨2 ^ agent, 1, 0xFF, none⟩) ∧ (floeOn s.dev (homeFloe (pageOfLine line)) = true) ∧ (dirPending s.dev (homeFloe (pageOfLine line)) < 512) ∧ (tget s.dev.dirFlips line 0 = 0) ∧ (s.dev.dirWait.any (fun w => decide (w.1 = line)) = false) ∧ (dirQueue s.dev (homeFloe (pageOfLine line)) < 1024) ∧ ((pageOf s.dev (pageOfLine line)).tier = 1 ∨ (pageOf s.dev (pageOfLine line)).tier = 2) ∧ (pageCoherent s.dev (pageOfLine line) = true) ∧ (tget? (coreOf s.dev agent).dcache line = some x) := by
  decide +kernel

theorem witness_DirectoryRequests_9 :
    let agent : Nat := 63
    let line : Nat := 1023
    let l : CLine := (⟨List.replicate 64 (9 : Byte), false⟩ : CLine)
    let s : State := stMem (fun d => { d with ctxs := [(0, { Ctx.fresh with ranges := [(0, ⟨0, 65536, 0, true, true, true, true, none, 0, none, none, none, 0⟩)] })], cache := [(1023, (⟨List.replicate 64 (9 : Byte), false⟩ : CLine))], dir := [] })
    ((.upgrade agent line : Instr).wellFormed = true) ∧ (Serving s) ∧ (agent < 64) ∧ (dirOf s.dev line = ⟨0, 0, 0xFF, none⟩) ∧ (floeOn s.dev (homeFloe (pageOfLine line)) = true) ∧ ((pageOf s.dev (pageOfLine line)).tier = 1 ∨ (pageOf s.dev (pageOfLine line)).tier = 2) ∧ ((pageOf s.dev (pageOfLine line)).packed = false) ∧ (tget? s.dev.cache line = some l) ∧ (SoundLine s.dev line) ∧ (dirPending s.dev (homeFloe (pageOfLine line)) < 512) ∧ (tget s.dev.dirFlips line 0 = 0) ∧ (s.dev.dirWait.any (fun w => decide (w.1 = line)) = false) ∧ (dirQueue s.dev (homeFloe (pageOfLine line)) < 1024) ∧ (pageCoherent s.dev (pageOfLine line) = true) ∧ ((dirWays s.dev line).length < 16) ∧ (((tkeys (coreOf s.dev agent).dcache).filter (fun k => decide (k % 256 = line % 256 ∧ k ≠ line))).length < 4) := by
  decide +kernel

theorem witness_DirectoryRequests_10 :
    let agent : Nat := 63
    let b : Bytes := List.replicate 64 (4 : Byte)
    let keep : Bool := true
    let x : DLine := (⟨List.replicate 64 (3 : Byte), false, true⟩ : DLine)
    let line : Nat := 1023
    let l : CLine := (⟨List.replicate 64 (9 : Byte), false⟩ : CLine)
    let s : State := stMem (fun d => { d with ctxs := [(0, { Ctx.fresh with ranges := [(0, ⟨0, 65536, 0, true, true, true, true, none, 0, none, none, none, 0⟩)] })], cache := [(1023, (⟨List.replicate 64 (9 : Byte), false⟩ : CLine))], dir := [(1023, ⟨2 ^ 63, 2, 63, none⟩)], cores := [(63, { Core.idle with dcache := [(1023, (⟨List.replicate 64 (3 : Byte), false, true⟩ : DLine))] })] })
    ((.wb agent line b keep false : Instr).wellFormed = true) ∧ (Serving s) ∧ (agent < 64) ∧ (dirOf s.dev line = ⟨2 ^ agent, 2, agent, none⟩) ∧ (floeOn s.dev (homeFloe (pageOfLine line)) = true) ∧ ((pageOf s.dev (pageOfLine line)).tier = 1 ∨ (pageOf s.dev (pageOfLine line)).tier = 2) ∧ ((pageOf s.dev (pageOfLine line)).packed = false) ∧ (tget? s.dev.cache line = some l) ∧ (SoundLine s.dev line) ∧ ((pageOf s.dev (pageOfLine line)).durable = false) ∧ ((pageOf s.dev (pageOfLine line)).twin = false) ∧ ((pageOf s.dev (pageOfLine line)).noPack = false) ∧ (pageCoherent s.dev (pageOfLine line) = true) ∧ (tget? (coreOf s.dev agent).dcache line = some x) ∧ (dcBad s.dev agent line = false) := by
  decide +kernel

theorem witness_DirectoryRequests_11 :
    let p : Nat := 11
    let b : Bytes := List.replicate 64 (4 : Byte)
    let keep : Bool := true
    let line : Nat := 1023
    let l : CLine := (⟨List.replicate 64 (9 : Byte), false⟩ : CLine)
    let s : State := stMem (fun d => { d with ctxs := [(0, { Ctx.fresh with ranges := [(0, ⟨0, 65536, 0, true, true, true, true, none, 0, none, none, none, 0⟩)] })], cache := [(1023, (⟨List.replicate 64 (9 : Byte), false⟩ : CLine))], dir := [(1023, ⟨2 ^ 75, 2, 75, none⟩)], ports := [(11, { Port.reset with link := 3, flit256 := true, decoders := [(0, { Decoder.blank with base := 65536, size := 65536, committed := true, ctx := some 0, uniLen := 65536 })] })] })
    ((.wb (64 + p) line b keep false : Instr).wellFormed = true) ∧ (Serving s) ∧ (p < 12) ∧ (linkUp (portOf s.dev p) = true) ∧ (portLoad s.dev p true < 256) ∧ (dirOf s.dev line = ⟨2 ^ (64 + p), 2, 64 + p, none⟩) ∧ (floeOn s.dev (homeFloe (pageOfLine line)) = true) ∧ ((pageOf s.dev (pageOfLine line)).tier = 1 ∨ (pageOf s.dev (pageOfLine line)).tier = 2) ∧ ((pageOf s.dev (pageOfLine line)).packed = false) ∧ (tget? s.dev.cache line = some l) ∧ (SoundLine s.dev line) ∧ ((pageOf s.dev (pageOfLine line)).durable = false) ∧ ((pageOf s.dev (pageOfLine line)).twin = false) ∧ ((pageOf s.dev (pageOfLine line)).noPack = false) ∧ (pageCoherent s.dev (pageOfLine line) = true) := by
  decide +kernel

theorem witness_DirectoryRequests_12 :
    let agent : Nat := 63
    let b : Bytes := List.replicate 64 (4 : Byte)
    let keep : Bool := true
    let line : Nat := 1023
    let s : State := stMem (fun d => { d with ctxs := [(0, { Ctx.fresh with ranges := [(0, ⟨0, 65536, 0, true, true, true, true, none, 0, none, none, none, 0⟩)] })], cache := [(1023, (⟨List.replicate 64 (9 : Byte), false⟩ : CLine))], dir := [(1023, ⟨2 ^ 63, 2, 63, none⟩)], cores := [(63, { Core.idle with dcache := [(1023, (⟨List.replicate 64 (3 : Byte), false, true⟩ : DLine))] })] })
    ((.wb agent line b keep true : Instr).wellFormed = true) ∧ (Serving s) ∧ (agent < 64) ∧ (dirOf s.dev line = ⟨2 ^ agent, 2, agent, none⟩) ∧ (dcBad s.dev agent line = false) ∧ (floeOn s.dev (homeFloe (pageOfLine line)) = true) ∧ (tget s.dev.dirFlips line 0 = 0) := by
  decide +kernel

theorem witness_DirectoryRequests_13 :
    let p : Nat := 11
    let b : Bytes := List.replicate 64 (4 : Byte)
    let keep : Bool := true
    let line : Nat := 1023
    let s : State := stMem (fun d => { d with ctxs := [(0, { Ctx.fresh with ranges := [(0, ⟨0, 65536, 0, true, true, true, true, none, 0, none, none, none, 0⟩)] })], cache := [(1023, (⟨List.replicate 64 (9 : Byte), false⟩ : CLine))], dir := [(1023, ⟨2 ^ 75, 2, 75, none⟩)], ports := [(11, { Port.reset with link := 3, flit256 := true, decoders := [(0, { Decoder.blank with base := 65536, size := 65536, committed := true, ctx := some 0, uniLen := 65536 })] })] })
    ((.wb (64 + p) line b keep true : Instr).wellFormed = true) ∧ (Serving s) ∧ (p < 12) ∧ (linkUp (portOf s.dev p) = true) ∧ (portLoad s.dev p true < 256) ∧ (dirOf s.dev line = ⟨2 ^ (64 + p), 2, 64 + p, none⟩) ∧ (floeOn s.dev (homeFloe (pageOfLine line)) = true) ∧ (tget s.dev.dirFlips line 0 = 0) := by
  decide +kernel

theorem witness_DirectoryRequests_14 :
    let agent : Nat := 63
    let sh : Nat := 2 ^ 62 + 2 ^ 63
    let line : Nat := 1023
    let s : State := stMem (fun d => { d with ctxs := [(0, { Ctx.fresh with ranges := [(0, ⟨0, 65536, 0, true, true, true, true, none, 0, none, none, none, 0⟩)] })], cache := [(1023, (⟨List.replicate 64 (9 : Byte), false⟩ : CLine))], dir := [(1023, ⟨2 ^ 62 + 2 ^ 63, 1, 0xFF, none⟩)], cores := [(63, { Core.idle with dcache := [(1023, (⟨List.replicate 64 (3 : Byte), false, false⟩ : DLine))] })] })
    ((.evict agent line : Instr).wellFormed = true) ∧ (Serving s) ∧ (agent < 64) ∧ (dirOf s.dev line = ⟨sh, 1, 0xFF, none⟩) ∧ ((decide (agent < 64) && (tget? (coreOf s.dev agent).dcache line).any (·.dirty)) = false) ∧ (floeOn s.dev (homeFloe (pageOfLine line)) = true) ∧ (tget s.dev.dirFlips line 0 = 0) := by
  decide +kernel

theorem witness_DirectoryRequests_15 :
    let p : Nat := 11
    let sh : Nat := 2 ^ 75
    let line : Nat := 1023
    let s : State := stMem (fun d => { d with ctxs := [(0, { Ctx.fresh with ranges := [(0, ⟨0, 65536, 0, true, true, true, true, none, 0, none, none, none, 0⟩)] })], cache := [(1023, (⟨List.replicate 64 (9 : Byte), false⟩ : CLine))], dir := [(1023, ⟨2 ^ 75, 1, 0xFF, none⟩)], ports := [(11, { Port.reset with link := 3, flit256 := true, decoders := [(0, { Decoder.blank with base := 65536, size := 65536, committed := true, ctx := some 0, uniLen := 65536 })] })] })
    ((.evict (64 + p) line : Instr).wellFormed = true) ∧ (Serving s) ∧ (p < 12) ∧ (linkUp (portOf s.dev p) = true) ∧ (portLoad s.dev p true < 256) ∧ (dirOf s.dev line = ⟨sh, 1, 0xFF, none⟩) ∧ (floeOn s.dev (homeFloe (pageOfLine line)) = true) ∧ (tget s.dev.dirFlips line 0 = 0) := by
  decide +kernel

theorem witness_DirectoryRequests_16 :
    let agent : Nat := 63
    let line : Nat := 1023
    let s : State := stMem (fun d => { d with ctxs := [(0, { Ctx.fresh with ranges := [(0, ⟨0, 65536, 0, true, true, true, true, none, 0, none, none, none, 0⟩)] })], cache := [(1023, (⟨List.replicate 64 (9 : Byte), false⟩ : CLine))], dir := [(1023, ⟨2 ^ 63, 1, 0xFF, some ⟨.withdraw, [(62, 1)], none, false⟩⟩)] })
    ((.evict agent line : Instr).wellFormed = true) ∧ (Serving s) ∧ (agent < 64) ∧ ((dirOf s.dev line).txn.isSome = true) ∧ ((decide (agent < 64) && (tget? (coreOf s.dev agent).dcache line).any (·.dirty)) = false) ∧ (floeOn s.dev (homeFloe (pageOfLine line)) = true) ∧ (tget s.dev.dirFlips line 0 = 0) := by
  decide +kernel

theorem witness_DirectoryRequests_17 :
    let line : Nat := 1023
    let l : CLine := (⟨List.replicate 64 (9 : Byte), false⟩ : CLine)
    let s : State := stMem (fun d => { d with ctxs := [(0, { Ctx.fresh with ranges := [(0, ⟨0, 65536, 0, true, true, true, true, none, 0, none, none, none, 0⟩)] })], cache := [(1023, (⟨List.replicate 64 (9 : Byte), false⟩ : CLine))], dir := [] })
    ((.ncRd line : Instr).wellFormed = true) ∧ (Serving s) ∧ (dirOf s.dev line = ⟨0, 0, 0xFF, none⟩) ∧ (floeOn s.dev (homeFloe (pageOfLine line)) = true) ∧ ((pageOf s.dev (pageOfLine line)).tier = 1 ∨ (pageOf s.dev (pageOfLine line)).tier = 2) ∧ ((pageOf s.dev (pageOfLine line)).packed = false) ∧ (tget? s.dev.cache line = some l) ∧ (SoundLine s.dev line) ∧ (dirPending s.dev (homeFloe (pageOfLine line)) < 512) ∧ (tget s.dev.dirFlips line 0 = 0) ∧ (s.dev.dirWait.any (fun w => decide (w.1 = line)) = false) ∧ (dirQueue s.dev (homeFloe (pageOfLine line)) < 1024) := by
  decide +kernel

theorem witness_DirectoryRequests_18 :
    let o : Nat := 63
    let x : DLine := (⟨List.replicate 64 (3 : Byte), false, true⟩ : DLine)
    let line : Nat := 1023
    let l : CLine := (⟨List.replicate 64 (9 : Byte), false⟩ : CLine)
    let s : State := stMem (fun d => { d with ctxs := [(0, { Ctx.fresh with ranges := [(0, ⟨0, 65536, 0, true, true, true, true, none, 0, none, none, none, 0⟩)] })], cache := [(1023, (⟨List.replicate 64 (9 : Byte), false⟩ : CLine))], dir := [(1023, ⟨2 ^ 63, 2, 63, none⟩)], cores := [(63, { Core.idle with dcache := [(1023, (⟨List.replicate 64 (3 : Byte), false, true⟩ : DLine))] })] })
    ((.ncRd line : Instr).wellFormed = true) ∧ (Serving s) ∧ (o < 64) ∧ (dirOf s.dev line = ⟨2 ^ o, 2, o, none⟩) ∧ (floeOn s.dev (homeFloe (pageOfLine line)) = true) ∧ ((pageOf s.dev (pageOfLine line)).tier = 1 ∨ (pageOf s.dev (pageOfLine line)).tier = 2) ∧ ((pageOf s.dev (pageOfLine line)).packed = false) ∧ (tget? s.dev.cache line = some l) ∧ (SoundLine s.dev line) ∧ (dirPending s.dev (homeFloe (pageOfLine line)) < 512) ∧ (tget s.dev.dirFlips line 0 = 0) ∧ (s.dev.dirWait.any (fun w => decide (w.1 = line)) = false) ∧ (dirQueue s.dev (homeFloe (pageOfLine line)) < 1024) ∧ (pageCoherent s.dev (pageOfLine line) = true) ∧ (s.dev.dirWalk = []) ∧ (tget? (coreOf s.dev o).dcache line = some x) ∧ (x.dirty = false) := by
  decide +kernel

theorem witness_DirectoryRequests_19 :
    let o : Nat := 63
    let b : Bytes := List.replicate 64 (4 : Byte)
    let mask : BitVec 64 := (0x8000000000000001#64)
    let x : DLine := (⟨List.replicate 64 (3 : Byte), false, false⟩ : DLine)
    let line : Nat := 1023
    let l : CLine := (⟨List.replicate 64 (9 : Byte), false⟩ : CLine)
    let s : State := stMem (fun d => { d with ctxs := [(0, { Ctx.fresh with ranges := [(0, ⟨0, 65536, 0, true, true, true, true, none, 0, none, none, none, 0⟩)] })], cache := [(1023, (⟨List.replicate 64 (9 : Byte), false⟩ : CLine))], dir := [(1023, ⟨2 ^ 63, 1, 0xFF, none⟩)], cores := [(63, { Core.idle with dcache := [(1023, (⟨List.replicate 64 (3 : Byte), false, false⟩ : DLine))] })] })
    ((.ncWr line b mask : Instr).wellFormed = true) ∧ (Serving s) ∧ (o < 64) ∧ (dirOf s.dev line = ⟨2 ^ o, 1, 0xFF, none⟩) ∧ (floeOn s.dev (homeFloe (pageOfLine line)) = true) ∧ ((pageOf s.dev (pageOfLine line)).tier = 1 ∨ (pageOf s.dev (pageOfLine line)).tier = 2) ∧ ((pageOf s.dev (pageOfLine line)).packed = false) ∧ (tget? s.dev.cache line = some l) ∧ (SoundLine s.dev line) ∧ ((pageOf s.dev (pageOfLine line)).durable = false) ∧ ((pageOf s.dev (pageOfLine line)).twin = false) ∧ ((pageOf s.dev (pageOfLine line)).noPack = false) ∧ (dirPending s.dev (homeFloe (pageOfLine line)) < 512) ∧ (tget s.dev.dirFlips line 0 = 0) ∧ (s.dev.dirWait.any (fun w => decide (w.1 = line)) = false) ∧ (dirQueue s.dev (homeFloe (pageOfLine line)) < 1024) ∧ (s.dev.dirWalk = []) ∧ (l.data.length = 64) ∧ (tget? (coreOf s.dev o).dcache line = some x) ∧ (x.dirty = false) := by
  decide +kernel

theorem witness_DirectoryRequests_20 :
    let aop : Atomic := (⟨8, 56, 8, 2 ^ 64 - 1, 0⟩ : Atomic)
    let line : Nat := 1023
    let l : CLine := (⟨List.replicate 64 (9 : Byte), false⟩ : CLine)
    let s : State := stMem (fun d => { d with ctxs := [(0, { Ctx.fresh with ranges := [(0, ⟨0, 65536, 0, true, true, true, true, none, 0, none, none, none, 0⟩)] })], cache := [(1023, (⟨List.replicate 64 (9 : Byte), false⟩ : CLine))], dir := [] })
    ((.ncAtomic line aop : Instr).wellFormed = true) ∧ (Serving s) ∧ (dirOf s.dev line = ⟨0, 0, 0xFF, none⟩) ∧ (floeOn s.dev (homeFloe (pageOfLine line)) = true) ∧ ((pageOf s.dev (pageOfLine line)).tier = 1 ∨ (pageOf s.dev (pageOfLine line)).tier = 2) ∧ ((pageOf s.dev (pageOfLine line)).packed = false) ∧ (tget? s.dev.cache line = some l) ∧ (SoundLine s.dev line) ∧ ((pageOf s.dev (pageOfLine line)).durable = false) ∧ ((pageOf s.dev (pageOfLine line)).twin = false) ∧ ((pageOf s.dev (pageOfLine line)).noPack = false) ∧ (dirPending s.dev (homeFloe (pageOfLine line)) < 512) ∧ (tget s.dev.dirFlips line 0 = 0) ∧ (s.dev.dirWait.any (fun w => decide (w.1 = line)) = false) ∧ (dirQueue s.dev (homeFloe (pageOfLine line)) < 1024) ∧ (l.data.length = 64) ∧ (aop.off + aop.size ≤ 64) := by
  decide +kernel

theorem witness_DirectoryRequests_21 :
    let agent : Nat := 63
    let sh : Nat := 2 ^ 62
    let ow : Nat := 0xFF
    let line : Nat := 1023
    let l : CLine := (⟨List.replicate 64 (9 : Byte), false⟩ : CLine)
    let s : State := stMem (fun d => { d with ctxs := [(0, { Ctx.fresh with ranges := [(0, ⟨0, 65536, 0, true, true, true, true, none, 0, none, none, none, 0⟩)] })], cache := [(1023, (⟨List.replicate 64 (9 : Byte), false⟩ : CLine))], dir := [(1023, ⟨2 ^ 62, 1, 0xFF, none⟩)], dirWait := [(1024, .ncRd), (1023, .rdShared 63), (1023, .rdOwn 3)] })
    ((.dirReqDequeue line : Instr).wellFormed = true) ∧ (Serving s) ∧ (s.dev.dirWait.find? (fun w => decide (w.1 = line)) = some (line, .rdShared agent)) ∧ (agent < 64) ∧ (dirOf s.dev line = ⟨sh, 1, ow, none⟩) ∧ (floeOn s.dev (homeFloe (pageOfLine line)) = true) ∧ ((pageOf s.dev (pageOfLine line)).tier = 1 ∨ (pageOf s.dev (pageOfLine line)).tier = 2) ∧ ((pageOf s.dev (pageOfLine line)).packed = false) ∧ (tget? s.dev.cache line = some l) ∧ (SoundLine s.dev line) ∧ (dirPending s.dev (homeFloe (pageOfLine line)) < 512) ∧ (pageCoherent s.dev (pageOfLine line) = true) ∧ (((tkeys (coreOf s.dev agent).dcache).filter (fun k => decide (k % 256 = line % 256 ∧ k ≠ line))).length < 4) := by
  decide +kernel

theorem witness_SnoopsAndFailures_1 :
    let agent : Nat := 63
    let x : DLine := (⟨List.replicate 64 (3 : Byte), false, true⟩ : DLine)
    let line : Nat := 1023
    let s : State := stMem (fun d => { d with ctxs := [(0, { Ctx.fresh with ranges := [(0, ⟨0, 65536, 0, true, true, true, true, none, 0, none, none, none, 0⟩)] })], cache := [(1023, (⟨List.replicate 64 (9 : Byte), false⟩ : CLine))], dir := [(1023, ⟨2 ^ 63, 2, 63, none⟩)], cores := [(63, { Core.idle with dcache := [(1023, (⟨List.replicate 64 (3 : Byte), false, true⟩ : DLine))] })] })
    ((.snpShare agent line : Instr).wellFormed = true) ∧ (Serving s) ∧ (agent < 64) ∧ (dirOf s.dev line = ⟨2 ^ agent, 2, agent, none⟩) ∧ (floeOn s.dev (homeFloe (pageOfLine line)) = true) ∧ (s.dev.dirWalk = []) ∧ ((pageOf s.dev (pageOfLine line)).tier = 1 ∨ (pageOf s.dev (pageOfLine line)).tier = 2) ∧ (tget? (coreOf s.dev agent).dcache line = some x) ∧ (x.dirty = false) := by
  decide +kernel

theorem witness_SnoopsAndFailures_2 :
    let agent : Nat := 63
    let sh : Nat := 2 ^ 62 + 2 ^ 63
    let x : DLine := (⟨List.replicate 64 (3 : Byte), false, false⟩ : DLine)
    let line : Nat := 1023
    let s : State := stMem (fun d => { d with ctxs := [(0, { Ctx.fresh with ranges := [(0, ⟨0, 65536, 0, true, true, true, true, none, 0, none, none, none, 0⟩)] })], cache := [(1023, (⟨List.replicate 64 (9 : Byte), false⟩ : CLine))], dir := [(1023, ⟨2 ^ 62 + 2 ^ 63, 1, 0xFF, none⟩)], cores := [(63, { Core.idle with dcache := [(1023, (⟨List.replicate 64 (3 : Byte), false, false⟩ : DLine))] })] })
    ((.snpInv agent line : Instr).wellFormed = true) ∧ (Serving s) ∧ (agent < 64) ∧ (dirOf s.dev line = ⟨sh, 1, 0xFF, none⟩) ∧ (bitOf sh agent = true) ∧ (delSharer sh agent ≠ 0) ∧ (floeOn s.dev (homeFloe (pageOfLine line)) = true) ∧ (s.dev.dirWalk = []) ∧ (tget? (coreOf s.dev agent).dcache line = some x) ∧ (x.dirty = false) := by
  decide +kernel

theorem witness_SnoopsAndFailures_3 :
    let agent : Nat := 75
    let sh : Nat := 2 ^ 75
    let ow : Nat := 0xFF
    let line : Nat := 1023
    let s : State := stMem (fun d => { d with ctxs := [(0, { Ctx.fresh with ranges := [(0, ⟨0, 65536, 0, true, true, true, true, none, 0, none, none, none, 0⟩)] })], cache := [(1023, (⟨List.replicate 64 (9 : Byte), false⟩ : CLine))], dir := [(1023, ⟨2 ^ 75, 1, 0xFF, some ⟨.withdraw, [(75, 1)], none, false⟩⟩)] })
    ((.snoopResponse agent line .clean : Instr).wellFormed = true) ∧ (Serving s) ∧ (dirOf s.dev line = ⟨sh, 1, ow, (some ⟨.withdraw, [(agent, 1)], none, false⟩)⟩) := by
  decide +kernel

theorem witness_SnoopsAndFailures_4 :
    let p : Nat := 11
    let a : Nat := 63
    let b : Bytes := List.replicate 64 (4 : Byte)
    let line : Nat := 1023
    let l : CLine := (⟨List.replicate 64 (9 : Byte), false⟩ : CLine)
    let s : State := stMem (fun d => { d with ctxs := [(0, { Ctx.fresh with ranges := [(0, ⟨0, 65536, 0, true, true, true, true, none, 0, none, none, none, 0⟩)] })], cache := [(1023, (⟨List.replicate 64 (9 : Byte), false⟩ : CLine))], dir := [(1023, ⟨2 ^ 75, 2, 75, some ⟨.rdShared 63, [(75, 0)], none, false⟩⟩)] })
    ((.snoopResponse (64 + p) line (.dirty b) : Instr).wellFormed = true) ∧ (Serving s) ∧ (a < 64) ∧ (p < 12) ∧ (dirOf s.dev line = ⟨2 ^ (64 + p), 2, 64 + p, some ⟨.rdShared a, [(64 + p, 0)], none, false⟩⟩) ∧ (floeOn s.dev (homeFloe (pageOfLine line)) = true) ∧ ((pageOf s.dev (pageOfLine line)).tier = 1 ∨ (pageOf s.dev (pageOfLine line)).tier = 2) ∧ ((pageOf s.dev (pageOfLine line)).packed = false) ∧ (tget? s.dev.cache line = some l) ∧ (SoundLine s.dev line) ∧ ((pageOf s.dev (pageOfLine line)).durable = false) ∧ ((pageOf s.dev (pageOfLine line)).twin = false) ∧ ((pageOf s.dev (pageOfLine line)).noPack = false) ∧ (pageCoherent s.dev (pageOfLine line) = true) ∧ (((tkeys (coreOf s.dev a).dcache).filter (fun k => decide (k % 256 = line % 256 ∧ k ≠ line))).length < 4) := by
  decide +kernel

theorem witness_SnoopsAndFailures_5 :
    let p : Nat := 11
    let sh : Nat := 2 ^ 75
    let line : Nat := 1023
    let s : State := stMem (fun d => { d with ctxs := [(0, { Ctx.fresh with ranges := [(0, ⟨0, 65536, 0, true, true, true, true, none, 0, none, none, none, 0⟩)] })], cache := [(1023, (⟨List.replicate 64 (9 : Byte), false⟩ : CLine))], dir := [(1023, ⟨2 ^ 75, 2, 75, some ⟨.withdraw, [(75, 1)], none, false⟩⟩)] })
    ((.snoopTimeout (64 + p) line : Instr).wellFormed = true) ∧ (Serving s) ∧ (NoRecordNow s) ∧ (p < 12) ∧ (s.dev.dir = [(line, ⟨sh, 2, 64 + p, some ⟨.withdraw, [(64 + p, 1)], none, false⟩⟩)]) := by
  decide +kernel

theorem witness_SnoopsAndFailures_6 :
    let f : Nat := 0
    let agent : Nat := 75
    let cause : Nat := 1
    let sh : Nat := 2 ^ 75
    let line : Nat := 1023
    let s : State := stMem (fun d => { d with ctxs := [(0, { Ctx.fresh with ranges := [(0, ⟨0, 65536, 0, true, true, true, true, none, 0, none, none, none, 0⟩)] })], cache := [(1023, (⟨List.replicate 64 (9 : Byte), false⟩ : CLine))], dir := [(1023, ⟨2 ^ 75, 2, 75, none⟩)], dirWalk := [(1, 75 + 128), (0, 75 + 128)] })
    ((.coherenceWalkDone f : Instr).wellFormed = true) ∧ (Serving s) ∧ (s.dev.dirWalk.find? (fun w => w.1 = f) = some (f, agent + 128 * cause)) ∧ (agent < 128) ∧ (homeFloe (pageOfLine line) = f) ∧ (s.dev.dir = [(line, ⟨sh, 2, agent, none⟩)]) := by
  decide +kernel

theorem witness_SnoopsAndFailures_7 :
    let f : Nat := 0
    let c : Nat := 63
    let x : DLine := (⟨List.replicate 64 (3 : Byte), false, false⟩ : DLine)
    let line : Nat := 1023
    let s : State := stMem (fun d => { d with ctxs := [(0, { Ctx.fresh with ranges := [(0, ⟨0, 65536, 0, true, true, true, true, none, 0, none, none, none, 0⟩)] })], cache := [(1023, (⟨List.replicate 64 (9 : Byte), false⟩ : CLine))], dir := [(1023, ⟨2 ^ 63, 1, 0xFF, none⟩)], cores := [(63, { Core.idle with dcache := [(1023, (⟨List.replicate 64 (3 : Byte), false, false⟩ : DLine))] })] })
    ((.dirFlush f : Instr).wellFormed = true) ∧ (Serving s) ∧ (floeOn s.dev f = true) ∧ (s.dev.dirWalk = []) ∧ (c < 64) ∧ (homeFloe (pageOfLine line) = f) ∧ (s.dev.dir = [(line, ⟨2 ^ c, 1, 0xFF, none⟩)]) ∧ (tget? (coreOf s.dev c).dcache line = some x) ∧ (x.dirty = false) := by
  decide +kernel

theorem witness_SnoopsAndFailures_8 :
    let f : Nat := 3
    let s : State := stWith (fun d => { d with dirFlush := [2, 3] })
    ((.dirFlushDone f : Instr).wellFormed = true) ∧ (Serving s) ∧ ((s.dev.dir.filter (fun e => homeFloe (pageOfLine e.1) = f)).all (fun e => e.2.txn.all (fun x => x.op != .evictWay)) = true) := by
  decide +kernel

theorem witness_SnoopsAndFailures_9 :
    let f : Nat := 0
    let addr : Nat := 0xFFC0
    let e : DirEntry := (⟨2 ^ 63 + 1, 1, 0xFF, none⟩ : DirEntry)
    let s : State := stWith (fun d => { d with dir := [(1023, ⟨2 ^ 63 + 1, 1, 0xFF, none⟩)] })
    ((.dirProbe f addr : Instr).wellFormed = true) ∧ (Serving s) ∧ (floeOn s.dev f = true) ∧ (homeFloe (addr % 2 ^ 44 / 64 / 1024) = f) ∧ (tget? s.dev.dir (addr % 2 ^ 44 / 64) = some e) := by
  decide +kernel

theorem witness_DmaChannels_1 :
    let c : Nat := 63
    let ch : Nat := 15
    let i : TInstr := (⟨0x28, 0x40, 0, 0, false⟩ : TInstr)
    let s : State := stMem (fun d => { d with cores := [(63, { Core.idle with state := 2, streams := [(17, ⟨[⟨0x28, 0x40, 0, 0, false⟩], []⟩)], chans := [(15, { Chan.idle with state := 1 })] })] })
    ((.dchain c ch : Instr).wellFormed = true) ∧ (Serving s) ∧ (readyHead s.dev c (ch + 2) = some i) ∧ (bits i.w0 0 8 = 0x28) ∧ (bits i.w1 0 23 % 64 = 0) := by
  decide +kernel

theorem witness_DmaChannels_2 :
    let c : Nat := 63
    let ch : Nat := 15
    let far : Far := ([] : Far)
    let s : State := stMem (fun d => { d with cores := [(63, { Core.idle with state := 2, streams := [(17, ⟨[], [⟨⟨0x28, 0, 0, 0, true⟩, [], true⟩]⟩)], chans := [(15, { Chan.idle with state := 1, desc := 0x40 })], lm := memWrite [] 0x40 (splice (slice ([1, 0, 2, 0, 1, 0, 0, 0, 8, 0, 0, 0] ++ zeros 4 ++ leBytes 8 0x1122334455667788 ++ leBytes 8 0x4000) 0 64) 1 [2]) })] })
    let m : Dev := (sramRead (latch s) c 3 [((chanOf (coreOf s.dev c) ch).desc, 64)]).1
    ((.descriptorStart c ch far : Instr).wellFormed = true) ∧ (Serving s) ∧ (sramRead (latch s) c 3 [((chanOf (coreOf s.dev c) ch).desc, 64)] = (m, false)) ∧ ((coreOf s.dev c).state = 2) ∧ (floeRuns s.dev (c / 16) = true) ∧ ((chanOf (coreOf s.dev c) ch).state = 1) ∧ ((chainOf s.dev c ch).isSome = true) ∧ ((chanOf (coreOf s.dev c) ch).prog = 0) ∧ ((chanOf (coreOf s.dev c) ch).desc % 64 = 0) ∧ (lmOk (chanOf (coreOf s.dev c) ch).desc 64 = true) ∧ (descCause (coreOf s.dev c) (chanOf (coreOf s.dev c) ch).crcMode (lmRead (coreOf s.dev c) (chanOf (coreOf s.dev c) ch).desc 64) = 0) ∧ ((descOf (lmRead (coreOf s.dev c) (chanOf (coreOf s.dev c) ch).desc 64)).sync = true) := by
  decide +kernel

theorem witness_DmaChannels_3 :
    let c : Nat := 63
    let ch : Nat := 15
    let far : Far := ([] : Far)
    let s : State := stMem (fun d => { d with cores := [(63, { Core.idle with state := 2, streams := [(17, ⟨[], [⟨⟨0x28, 0, 0, 0, true⟩, [], true⟩]⟩)], chans := [(15, { Chan.idle with state := 1, desc := 0x40 })], lm := memWrite [] 0x40 (slice ([1, 0, 2, 0, 1, 0, 0, 0, 8, 0, 0, 0] ++ zeros 4 ++ leBytes 8 0x1122334455667788 ++ leBytes 8 0x4000) 0 64) })] })
    let m : Dev := (sramRead (latch s) c 3 [((chanOf (coreOf s.dev c) ch).desc, 64)]).1
    let n : Dev := (sramRead (setCh m c ch (fun k => { k with bytes64 := (lmRead (coreOf s.dev c) (chanOf (coreOf s.dev c) ch).desc 64) })) c 3 (descSpans (descOf (lmRead (coreOf s.dev c) (chanOf (coreOf s.dev c) ch).desc 64)))).1
    let w : W := descBody (descOf (lmRead (coreOf s.dev c) (chanOf (coreOf s.dev c) ch).desc 64)) c ch (coreWork n far c 3 (.chan c ch))
    ((.descriptorStart c ch far : Instr).wellFormed = true) ∧ (Serving s) ∧ (sramRead (latch s) c 3 [((chanOf (coreOf s.dev c) ch).desc, 64)] = (m, false)) ∧ ((coreOf s.dev c).state = 2) ∧ (floeRuns s.dev (c / 16) = true) ∧ ((chanOf (coreOf s.dev c) ch).state = 1) ∧ ((chainOf s.dev c ch).isSome = true) ∧ ((chanOf (coreOf s.dev c) ch).prog = 0) ∧ ((chanOf (coreOf s.dev c) ch).desc % 64 = 0) ∧ (lmOk (chanOf (coreOf s.dev c) ch).desc 64 = true) ∧ (descCause (coreOf s.dev c) (chanOf (coreOf s.dev c) ch).crcMode (lmRead (coreOf s.dev c) (chanOf (coreOf s.dev c) ch).desc 64) = 0) ∧ ((descOf (lmRead (coreOf s.dev c) (chanOf (coreOf s.dev c) ch).desc 64)).sync = false) ∧ ((sramRead (setCh m c ch (fun k => { k with bytes64 := (lmRead (coreOf s.dev c) (chanOf (coreOf s.dev c) ch).desc 64) })) c 3 (descSpans (descOf (lmRead (coreOf s.dev c) (chanOf (coreOf s.dev c) ch).desc 64)))) = (n, false)) ∧ (descBody (descOf (lmRead (coreOf s.dev c) (chanOf (coreOf s.dev c) ch).desc 64)) c ch (coreWork n far c 3 (.chan c ch)) = w) ∧ (w.ok = true) ∧ (w.d.boot = s.dev.boot) ∧ (w.d.errq.due = []) ∧ (w.d.tagWait = []) ∧ (w.d.tagHeld = []) ∧ (w.d.sw.seen = []) := by
  decide +kernel

theorem witness_DmaChannels_4 :
    let c : Nat := 63
    let ch : Nat := 15
    let far : Far := ([] : Far)
    let s : State := stMem (fun d => { d with cores := [(63, { Core.idle with state := 2, streams := [(17, ⟨[], [⟨⟨0x28, 0, 0, 0, true⟩, [], true⟩]⟩)], chans := [(15, { Chan.idle with state := 3, prog := 2, bytes64 := splice (slice ([1, 0, 2, 0, 1, 0, 0, 0, 8, 0, 0, 0] ++ zeros 4 ++ leBytes 8 0x1122334455667788 ++ leBytes 8 0x4000) 0 64) 1 [2] })] })] })
    let m : Dev := (sramRead (latch s) c 3 (descSpans (descOf (chanOf (coreOf s.dev c) ch).bytes64))).1
    let w : W := descBody (descOf (chanOf (coreOf s.dev c) ch).bytes64) c ch (coreWork m far c 3 (.chan c ch))
    ((.descriptorStart c ch far : Instr).wellFormed = true) ∧ (Serving s) ∧ (floeRuns s.dev (c / 16) = true) ∧ ((chainOf s.dev c ch).isSome = true) ∧ ((chanOf (coreOf s.dev c) ch).prog = 2) ∧ ((coreOf s.dev c).state = 2 ∨ (coreOf s.dev c).state = 3) ∧ ((chanOf (coreOf s.dev c) ch).state = 1 ∨ (chanOf (coreOf s.dev c) ch).state = 3) ∧ (sramRead (latch s) c 3 (descSpans (descOf (chanOf (coreOf s.dev c) ch).bytes64)) = (m, false)) ∧ (descBody (descOf (chanOf (coreOf s.dev c) ch).bytes64) c ch (coreWork m far c 3 (.chan c ch)) = w) ∧ (w.ok = true) ∧ (w.d.boot = s.dev.boot) ∧ (w.d.errq.due = []) ∧ (w.d.tagWait = []) ∧ (w.d.tagHeld = []) ∧ (w.d.sw.seen = []) := by
  decide +kernel

theorem witness_DmaChannels_5 :
    let c : Nat := 63
    let ch : Nat := 15
    let far : Far := ([] : Far)
    let s : State := stMem (fun d => { d with cores := [(63, { Core.idle with state := 2, streams := [(17, ⟨[], [⟨⟨0x28, 0, 0, 0, true⟩, [], true⟩]⟩)], chans := [(15, { Chan.idle with state := 1, desc := 0x40 })], lm := memWrite [] 0x40 (slice ([1, 0, 2, 0, 1, 0, 0, 0, 8, 0, 0, 0] ++ zeros 4 ++ leBytes 8 0x1122334455667788 ++ leBytes 8 0x4000) 0 64) })] })
    let m : Dev := (sramRead (latch s) c 3 [((chanOf (coreOf s.dev c) ch).desc, 64)]).1
    ((.descriptorStart c ch far : Instr).wellFormed = true) ∧ (Serving s) ∧ (sramRead (latch s) c 3 [((chanOf (coreOf s.dev c) ch).desc, 64)] = (m, false)) ∧ ((coreOf s.dev c).state = 2) ∧ (floeRuns s.dev (c / 16) = true) ∧ ((chanOf (coreOf s.dev c) ch).state = 1) ∧ ((chainOf s.dev c ch).isSome = true) ∧ ((chanOf (coreOf s.dev c) ch).prog = 0) ∧ ((chanOf (coreOf s.dev c) ch).desc % 64 = 0) ∧ (lmOk (chanOf (coreOf s.dev c) ch).desc 64 = true) ∧ (descCause (coreOf s.dev c) (chanOf (coreOf s.dev c) ch).crcMode (lmRead (coreOf s.dev c) (chanOf (coreOf s.dev c) ch).desc 64) = 0) ∧ ((coreOf s.dev c).flips = []) ∧ ((descOf (lmRead (coreOf s.dev c) (chanOf (coreOf s.dev c) ch).desc 64)).flags = 0) ∧ ((descOf (lmRead (coreOf s.dev c) (chanOf (coreOf s.dev c) ch).desc 64)).kind = 1) ∧ ((descOf (lmRead (coreOf s.dev c) (chanOf (coreOf s.dev c) ch).desc 64)).dstLocal = true) ∧ ((descOf (lmRead (coreOf s.dev c) (chanOf (coreOf s.dev c) ch).desc 64)).rows = 1) ∧ ((descOf (lmRead (coreOf s.dev c) (chanOf (coreOf s.dev c) ch).desc 64)).crcCtrl = 0) ∧ ((descOf (lmRead (coreOf s.dev c) (chanOf (coreOf s.dev c) ch).desc 64)).dst % 64 + (descOf (lmRead (coreOf s.dev c) (chanOf (coreOf s.dev c) ch).desc 64)).rowBytes ≤ 64) := by
  decide +kernel

theorem witness_DmaChannels_6 :
    let c : Nat := 63
    let ch : Nat := 15
    let s : State := stMem (fun d => { d with cores := [(63, { Core.idle with state := 2, streams := [(17, ⟨[], [⟨⟨0x28, 0, 0, 0, true⟩, [], true⟩]⟩)], chans := [(15, { Chan.idle with state := 3, prog := 4, bytes64 := splice (slice ([1, 0, 2, 0, 1, 0, 0, 0, 8, 0, 0, 0] ++ zeros 4 ++ leBytes 8 0x1122334455667788 ++ leBytes 8 0x4000) 0 64) 1 [5] })] })] })
    ((.descriptorComplete c ch : Instr).wellFormed = true) ∧ (Serving s) ∧ ((chainOf s.dev c ch).isSome = true) ∧ ((chanOf (coreOf s.dev c) ch).state = 1 ∨ (chanOf (coreOf s.dev c) ch).state = 3) ∧ ((chanOf (coreOf s.dev c) ch).prog = 3 ∧ (descOf (chanOf (coreOf s.dev c) ch).bytes64).finalStore = false ∨ 4 ≤ (chanOf (coreOf s.dev c) ch).prog) ∧ (owes s.dev (.chan c ch) = false) ∧ ((nextDesc (latch s) c ch).boot = s.dev.boot) ∧ ((nextDesc (latch s) c ch).errq.due = []) ∧ ((nextDesc (latch s) c ch).tagWait = []) ∧ ((nextDesc (latch s) c ch).tagHeld = []) ∧ ((nextDesc (latch s) c ch).sw.seen = []) := by
  decide +kernel

theorem witness_DmaChannels_7 :
    let c : Nat := 63
    let ch : Nat := 15
    let s : State := stMem (fun d => { d with cores := [(63, { Core.idle with state := 2, streams := [(17, ⟨[], [⟨⟨0x28, 0, 0, 0, true⟩, [], true⟩]⟩)], chans := [(15, { Chan.idle with state := 1, prog := 3, crc := 5, bytes64 := splice (splice (slice ([1, 0, 2, 0, 1, 0, 0, 0, 8, 0, 0, 0] ++ zeros 4 ++ leBytes 8 0x1122334455667788 ++ leBytes 8 0x4000) 0 64) 1 [4]) 36 [9] })] })] })
    let w : W := (storeCrc (descOf (chanOf (coreOf s.dev c) ch).bytes64) c (coreWork (latch s) [] c 3 (.chan c ch)) (storeAt (descOf (chanOf (coreOf s.dev c) ch).bytes64) ((chanOf (coreOf s.dev c) ch).count - (chanOf (coreOf s.dev c) ch).countStart)) (chanOf (coreOf s.dev c) ch).crc)
    ((.descriptorComplete c ch : Instr).wellFormed = true) ∧ (Serving s) ∧ ((chainOf s.dev c ch).isSome = true) ∧ ((chanOf (coreOf s.dev c) ch).state = 1 ∨ (chanOf (coreOf s.dev c) ch).state = 3) ∧ ((chanOf (coreOf s.dev c) ch).prog = 3) ∧ ((descOf (chanOf (coreOf s.dev c) ch).bytes64).finalStore = true) ∧ (owes s.dev (.chan c ch) = false) ∧ ((storeCrc (descOf (chanOf (coreOf s.dev c) ch).bytes64) c (coreWork (latch s) [] c 3 (.chan c ch)) (storeAt (descOf (chanOf (coreOf s.dev c) ch).bytes64) ((chanOf (coreOf s.dev c) ch).count - (chanOf (coreOf s.dev c) ch).countStart)) (chanOf (coreOf s.dev c) ch).crc) = w) ∧ (w.ok = true) ∧ (w.d.boot = s.dev.boot) ∧ (w.d.errq.due = []) ∧ (w.d.tagWait = []) ∧ (w.d.tagHeld = []) ∧ (w.d.sw.seen = []) := by
  decide +kernel

theorem witness_DmaChannels_8 :
    let c : Nat := 63
    let ch : Nat := 15
    let s : State := stMem (fun d => { d with cores := [(63, { Core.idle with state := 2, streams := [(17, ⟨[], [⟨⟨0x28, 0, 0, 0, true⟩, [], true⟩]⟩)], chans := [(15, { Chan.idle with state := 1, prog := 3, bytes64 := slice ([1, 0, 2, 0, 1, 0, 0, 0, 8, 0, 0, 0] ++ zeros 4 ++ leBytes 8 0x1122334455667788 ++ leBytes 8 0x4000) 0 64 })] })] })
    ((.descriptorComplete c ch : Instr).wellFormed = true) ∧ (Serving s) ∧ ((chainOf s.dev c ch).isSome = true) ∧ ((chanOf (coreOf s.dev c) ch).state = 1) ∧ ((chanOf (coreOf s.dev c) ch).prog = 3) ∧ (owes s.dev (.chan c ch) = false) ∧ ((descOf (chanOf (coreOf s.dev c) ch).bytes64).flags = 0) ∧ ((descOf (chanOf (coreOf s.dev c) ch).bytes64).pulses = 0) := by
  decide +kernel

theorem witness_DmaChannels_9 :
    let c : Nat := 63
    let ch : Nat := 15
    let s : State := stMem (fun d => { d with cores := [(63, { Core.idle with state := 2, streams := [(17, ⟨[], [⟨⟨0x28, 0, 0, 0, true⟩, [], true⟩]⟩)], chans := [(15, { Chan.idle with state := 1, prog := 3, bytes64 := splice (slice ([1, 0, 2, 0, 1, 0, 0, 0, 8, 0, 0, 0] ++ zeros 4 ++ leBytes 8 0x1122334455667788 ++ leBytes 8 0x4000) 0 64) 1 [1] })] })] })
    ((.descriptorComplete c ch : Instr).wellFormed = true) ∧ (Serving s) ∧ ((chainOf s.dev c ch).isSome = true) ∧ ((chanOf (coreOf s.dev c) ch).state = 1) ∧ ((chanOf (coreOf s.dev c) ch).prog = 3) ∧ (owes s.dev (.chan c ch) = false) ∧ ((descOf (chanOf (coreOf s.dev c) ch).bytes64).flags = 1) ∧ ((descOf (chanOf (coreOf s.dev c) ch).bytes64).pulses = 0) := by
  decide +kernel

theorem witness_DmaChannels_10 :
    let c : Nat := 63
    let lg : Nat := 15
    let s : State := stMem (fun d => { d with cores := [(63, { Core.idle with state := 2, streams := [(17, ⟨[], [⟨⟨0x28, 0, 0, 0, true⟩, [], true⟩]⟩)], chans := [(15, { Chan.idle with state := 2, prog := 1, bytes64 := splice (slice ([1, 0, 2, 0, 1, 0, 0, 0, 8, 0, 0, 0] ++ zeros 4 ++ leBytes 8 0x1122334455667788 ++ leBytes 8 0x4000) 0 64) 1 [2] })] })], regs := [(chanBase 63 15 + 8, 15 * 2 ^ 9)] })
    ((.syncStart c lg : Instr).wellFormed = true) ∧ (Serving s) ∧ ((coreOf s.dev c).state = 2) ∧ (lg ≠ 0) ∧ (groupOf s.dev c lg ≠ []) ∧ ((groupOf s.dev c lg).all (fun p => (syncReady s.dev p).any (fun at_ => decide (at_ ≤ s.clk.time))) = true) := by
  decide +kernel

theorem witness_DmaChannels_11 :
    let c : Nat := 63
    let lg : Nat := 0
    let s : State := stMem (fun d => { d with cores := [(63, { Core.idle with state := 2, streams := [(17, ⟨[], [⟨⟨0x28, 0, 0, 0, true⟩, [], true⟩]⟩)], chans := [(15, { Chan.idle with state := 2, prog := 1, bytes64 := splice (slice ([1, 0, 2, 0, 1, 0, 0, 0, 8, 0, 0, 0] ++ zeros 4 ++ leBytes 8 0x1122334455667788 ++ leBytes 8 0x4000) 0 64) 1 [2] })] })] })
    ((.syncStart c lg : Instr).wellFormed = true) ∧ (Serving s) ∧ ((coreOf s.dev c).state = 2) ∧ (lg = 0) := by
  decide +kernel

theorem witness_DmaChannels_12 :
    let c : Nat := 63
    let ch : Nat := 15
    let lg : Nat := 15
    let s : State := stMem (fun d => { d with cores := [(63, { Core.idle with state := 2, streams := [(17, ⟨[], [⟨⟨0x28, 0, 0, 0, true⟩, [], true⟩]⟩)], chans := [(15, { Chan.idle with state := 2, prog := 1, bytes64 := splice (slice ([1, 0, 2, 0, 1, 0, 0, 0, 8, 0, 0, 0] ++ zeros 4 ++ leBytes 8 0x1122334455667788 ++ leBytes 8 0x4000) 0 64) 1 [2] })] })], regs := [(chanBase 63 15 + 8, 15 * 2 ^ 9)] })
    ((.syncStart c lg : Instr).wellFormed = true) ∧ (Serving s) ∧ ((coreOf s.dev c).state = 2) ∧ (lg ≠ 0) ∧ (groupOf s.dev c lg = [(c, ch)]) ∧ ((syncReady s.dev (c, ch)).any (fun at_ => decide (at_ ≤ s.clk.time)) = true) := by
  decide +kernel

theorem witness_DmaChannels_13 :
    let lg : Nat := 15
    let p : Nat × Nat := ((63, 15) : Nat × Nat)
    let c : Nat := 63
    let s : State := stMem (fun d => { d with cores := [(63, { Core.idle with state := 2, streams := [(17, ⟨[], [⟨⟨0x28, 0, 0, 0, true⟩, [], true⟩]⟩)], chans := [(15, { Chan.idle with state := 2, prog := 1, bytes64 := splice (splice (slice ([1, 0, 2, 0, 1, 0, 0, 0, 8, 0, 0, 0] ++ zeros 4 ++ leBytes 8 0x1122334455667788 ++ leBytes 8 0x4000) 0 64) 1 [2]) 48 [1] })] })], regs := [(chanBase 63 15 + 8, 15 * 2 ^ 9)] })
    ((.syncStart c lg : Instr).wellFormed = true) ∧ (Serving s) ∧ ((coreOf s.dev c).state = 2) ∧ (lg ≠ 0) ∧ ((groupOf s.dev c lg).contains p = true) ∧ ((syncReady s.dev p).all (fun at_ => decide (s.clk.time < at_)) = true) := by
  decide +kernel

theorem witness_DmaChannels_14 :
    let c : Nat := 63
    let ch : Nat := 15
    let s : State := stMem (fun d => { d with cores := [(63, { Core.idle with state := 2, streams := [(17, ⟨[], []⟩)], chans := [(15, { Chan.idle with state := 2 })] })] })
    ((.chStop c ch : Instr).wellFormed = true) ∧ (Serving s) ∧ ((chanOf (coreOf s.dev c) ch).state = 2) := by
  decide +kernel

theorem witness_DmaChannels_15 :
    let c : Nat := 63
    let ch : Nat := 15
    let s : State := stMem (fun d => { d with cores := [(63, { Core.idle with state := 2, streams := [(17, ⟨[], [⟨⟨0x28, 0, 0, 0, true⟩, [], true⟩]⟩)], chans := [(15, { Chan.idle with state := 1, prog := 3 })] })] })
    ((.chStop c ch : Instr).wellFormed = true) ∧ (Serving s) ∧ ((chanOf (coreOf s.dev c) ch).state = 1) := by
  decide +kernel

theorem witness_DmaChannels_16 :
    let c : Nat := 63
    let ch : Nat := 15
    let s : State := stMem (fun d => { d with cores := [(63, { Core.idle with state := 2, streams := [(17, ⟨[⟨0x20, 0, 0, 0, false⟩], [⟨⟨0x28, 0, 0, 0, true⟩, [], true⟩]⟩)], chans := [(15, { Chan.idle with state := 4, prog := 1 })] })] })
    ((.chResume c ch : Instr).wellFormed = true) ∧ (Serving s) ∧ ((chanOf (coreOf s.dev c) ch).state = 4) := by
  decide +kernel

theorem witness_DmaChannels_17 :
    let c : Nat := 63
    let ch : Nat := 15
    let s : State := stMem (fun d => { d with cores := [(63, { Core.idle with state := 2, streams := [(17, ⟨[], [⟨⟨0x28, 0, 0, 0, true⟩, [], true⟩]⟩)], chans := [(15, { Chan.idle with state := 5, prog := 3, multi := true, crc := 4, crcStart := 9, countStart := 3, count := 8, crcShown := 77, bytes64 := splice (slice ([1, 0, 2, 0, 1, 0, 0, 0, 8, 0, 0, 0] ++ zeros 4 ++ leBytes 8 0x1122334455667788 ++ leBytes 8 0x4000) 0 64) 36 [2] })] })] })
    ((.chResume c ch : Instr).wellFormed = true) ∧ (Serving s) ∧ ((chanOf (coreOf s.dev c) ch).state = 5) ∧ (owes s.dev (.chan c ch) = false) ∧ ((chainOf s.dev c ch).isSome = true) ∧ ((descOf (chanOf (coreOf s.dev c) ch).bytes64).kind ≠ 2) := by
  decide +kernel

theorem witness_DmaChannels_18 :
    let c : Nat := 63
    let ch : Nat := 15
    let f : Flight := (⟨⟨0x20 + 2 ^ 32, 0, 0, 0, false⟩, [], false⟩ : Flight)
    let rest : List Flight := ([] : List Flight)
    let s : State := stMem (fun d => { d with cores := [(63, { Core.idle with state := 2, streams := [(17, ⟨[⟨0x21, 0, 0, 0, false⟩], [⟨⟨0x20 + 2 ^ 32, 0, 0, 0, false⟩, [], false⟩]⟩)], chans := [(15, { Chan.idle with state := 5, multi := true })] })] })
    ((.chResume c ch : Instr).wellFormed = true) ∧ (Serving s) ∧ ((chanOf (coreOf s.dev c) ch).state = 5) ∧ (owes s.dev (.chan c ch) = false) ∧ ((streamOf (coreOf s.dev c) (ch + 2)).flight = f :: rest) ∧ (f.chain = false) ∧ (bits f.ins.w0 0 8 ≠ 0x23) := by
  decide +kernel

theorem witness_DmaChannels_19 :
    let c : Nat := 63
    let ch : Nat := 15
    let s : State := stMem (fun d => { d with cores := [(63, { Core.idle with state := 2, streams := [(17, ⟨[], [⟨⟨0x28, 0, 0, 0, true⟩, [], true⟩]⟩)], chans := [(15, { Chan.idle with state := 5, prog := 3, bytes64 := splice (slice ([1, 0, 2, 0, 1, 0, 0, 0, 8, 0, 0, 0] ++ zeros 4 ++ leBytes 8 0x1122334455667788 ++ leBytes 8 0x4000) 0 64) 0 [2] })] })] })
    ((.chResume c ch : Instr).wellFormed = true) ∧ (Serving s) ∧ ((chanOf (coreOf s.dev c) ch).state = 5) ∧ (owes s.dev (.chan c ch) = false) ∧ (haltedAtomic s.dev c ch = true) := by
  decide +kernel

theorem witness_DmaChannels_20 :
    let c : Nat := 63
    let ch : Nat := 15
    let s : State := stMem (fun d => { d with cores := [(63, { Core.idle with state := 2, streams := [(17, ⟨[], [⟨⟨0x28, 0, 0, 0, true⟩, [], true⟩]⟩)], chans := [(15, { Chan.idle with state := 5, prog := 3, multi := true, bytes64 := splice (slice ([1, 0, 2, 0, 1, 0, 0, 0, 8, 0, 0, 0] ++ zeros 4 ++ leBytes 8 0x1122334455667788 ++ leBytes 8 0x4000) 0 64) 1 [1] })] })] })
    ((.chSkip c ch : Instr).wellFormed = true) ∧ (Serving s) ∧ ((chanOf (coreOf s.dev c) ch).state = 5) ∧ (owes s.dev (.chan c ch) = false) ∧ ((chainOf s.dev c ch).isSome = true) ∧ ((nextDesc (modCore (setCh (latch s) c ch (fun k => { k with state := 1, multi := false })) c (fun x => { x with latched := tdel x.latched (ch + 2) })) c ch).boot = s.dev.boot) ∧ ((nextDesc (modCore (setCh (latch s) c ch (fun k => { k with state := 1, multi := false })) c (fun x => { x with latched := tdel x.latched (ch + 2) })) c ch).errq.due = []) ∧ ((nextDesc (modCore (setCh (latch s) c ch (fun k => { k with state := 1, multi := false })) c (fun x => { x with latched := tdel x.latched (ch + 2) })) c ch).tagWait = []) ∧ ((nextDesc (modCore (setCh (latch s) c ch (fun k => { k with state := 1, multi := false })) c (fun x => { x with latched := tdel x.latched (ch + 2) })) c ch).tagHeld = []) ∧ ((nextDesc (modCore (setCh (latch s) c ch (fun k => { k with state := 1, multi := false })) c (fun x => { x with latched := tdel x.latched (ch + 2) })) c ch).sw.seen = []) := by
  decide +kernel

theorem witness_DmaChannels_21 :
    let c : Nat := 63
    let ch : Nat := 15
    let s : State := stMem (fun d => { d with cores := [(63, { Core.idle with state := 2, streams := [(17, ⟨[], [⟨⟨0x20, 0, 0, 0, false⟩, [], false⟩]⟩)], chans := [(15, { Chan.idle with state := 5, multi := true })] })] })
    ((.chSkip c ch : Instr).wellFormed = true) ∧ (Serving s) ∧ ((chanOf (coreOf s.dev c) ch).state = 5) ∧ (owes s.dev (.chan c ch) = false) ∧ ((chainOf s.dev c ch).isNone = true) := by
  decide +kernel

theorem witness_DmaChannels_22 :
    let c : Nat := 63
    let ch : Nat := 15
    let s : State := stMem (fun d => { d with cores := [(63, { Core.idle with state := 2, streams := [(17, ⟨[], [⟨⟨0x28, 0, 0, 0, true⟩, [], true⟩]⟩)], chans := [(15, { Chan.idle with state := 5, prog := 3, multi := true, bytes64 := slice ([1, 0, 2, 0, 1, 0, 0, 0, 8, 0, 0, 0] ++ zeros 4 ++ leBytes 8 0x1122334455667788 ++ leBytes 8 0x4000) 0 64 })] })] })
    ((.chSkip c ch : Instr).wellFormed = true) ∧ (Serving s) ∧ ((chanOf (coreOf s.dev c) ch).state = 5) ∧ (owes s.dev (.chan c ch) = false) ∧ (tget? (coreOf s.dev c).latched (ch + 2) = none) ∧ ((chainOf s.dev c ch).isSome = true) ∧ ((descOf (chanOf (coreOf s.dev c) ch).bytes64).flags = 0) ∧ ((descOf (chanOf (coreOf s.dev c) ch).bytes64).pulses = 0) := by
  decide +kernel

theorem witness_DmaChannels_23 :
    let c : Nat := 63
    let ch : Nat := 15
    let s : State := stMem (fun d => { d with cores := [(63, { Core.idle with state := 2, streams := [(17, ⟨[], [⟨⟨0x28, 0, 0, 0, true⟩, [], true⟩]⟩)], chans := [(15, { Chan.idle with state := 4, desc := 0x40 })], latched := [(17, [])] })] })
    ((.chAbandon c ch : Instr).wellFormed = true) ∧ (Serving s) ∧ ((chanOf (coreOf s.dev c) ch).state = 4 ∨ ((chanOf (coreOf s.dev c) ch).state = 5 ∧ owes s.dev (.chan c ch) = false)) := by
  decide +kernel

theorem witness_FabricAtHome_1 :
    let utag : Nat := 0x5000
    let r : FabIn := ⟨0, 0, 0, 0, 0, 0xFFC0, [], false, [], false, 0, [], false, false⟩
    let l : CLine := (⟨List.replicate 64 (9 : Byte), false⟩ : CLine)
    let s : State := stMem (fun d => { d with reqs := [(0x5000, ⟨0, 0, 0, 0, 0, 0xFFC0, [], false, [], false, 0, [], false, false⟩)], entries := [(3, ⟨0x5000, [], 8⟩), (4, ⟨1, [], 8⟩)], cache := [(1023, (⟨List.replicate 64 (9 : Byte), false⟩ : CLine)), (5, (⟨List.replicate 64 (9 : Byte), false⟩ : CLine))] })
    ((.read utag : Instr).wellFormed = true) ∧ (Serving s) ∧ (mirrorsOn s.dev = false) ∧ (tget? s.dev.reqs utag = some r) ∧ (r.waits = false) ∧ (r.members = []) ∧ (r.kind < 4) ∧ (admitReq (latch s) r = .yes) ∧ (owes s.dev (.run utag) = false) ∧ (r.code = 0x00) ∧ ((pageOf s.dev (pageOfLine (r.addr / 64))).tier = 1 ∨ (pageOf s.dev (pageOfLine (r.addr / 64))).tier = 2) ∧ ((pageOf s.dev (pageOfLine (r.addr / 64))).packed = false) ∧ (floeOn s.dev (homeFloe (pageOfLine (r.addr / 64))) = true) ∧ (tget? s.dev.dir (r.addr / 64) = none) ∧ (tget? s.dev.cache (r.addr / 64) = some l) ∧ (SoundLine s.dev (r.addr / 64)) := by
  decide +kernel

theorem witness_FabricAtHome_2 :
    let utag : Nat := 0x5000
    let r : FabIn := ⟨0, 1, 0, 0, 0, 0xFFC0, leBytes 8 0x8000000000000001 ++ List.replicate 64 (4 : Byte), false, [], false, 0, [], false, false⟩
    let l : CLine := (⟨List.replicate 64 (9 : Byte), false⟩ : CLine)
    let s : State := stMem (fun d => { d with reqs := [(0x5000, ⟨0, 1, 0, 0, 0, 0xFFC0, leBytes 8 0x8000000000000001 ++ List.replicate 64 (4 : Byte), false, [], false, 0, [], false, false⟩)], entries := [(3, ⟨0x5000, [], 8⟩), (4, ⟨1, [], 8⟩)], cache := [(1023, (⟨List.replicate 64 (9 : Byte), false⟩ : CLine)), (5, (⟨List.replicate 64 (9 : Byte), false⟩ : CLine))] })
    ((.write utag : Instr).wellFormed = true) ∧ (Serving s) ∧ (mirrorsOn s.dev = false) ∧ (tget? s.dev.reqs utag = some r) ∧ (r.waits = false) ∧ (r.members = []) ∧ (r.kind < 4) ∧ (admitReq (latch s) r = .yes) ∧ (owes s.dev (.run utag) = false) ∧ (r.code = 0x01) ∧ ((pageOf s.dev (pageOfLine (r.addr / 64))).tier = 1 ∨ (pageOf s.dev (pageOfLine (r.addr / 64))).tier = 2) ∧ ((pageOf s.dev (pageOfLine (r.addr / 64))).packed = false) ∧ (floeOn s.dev (homeFloe (pageOfLine (r.addr / 64))) = true) ∧ (tget? s.dev.dir (r.addr / 64) = none) ∧ (tget? s.dev.cache (r.addr / 64) = some l) ∧ (SoundLine s.dev (r.addr / 64)) ∧ ((pageOf s.dev (pageOfLine (r.addr / 64))).durable = false) ∧ ((pageOf s.dev (pageOfLine (r.addr / 64))).twin = false) ∧ (l.data.length = 64) ∧ ((pageOf s.dev (pageOfLine (r.addr / 64))).noPack = false) := by
  decide +kernel

theorem witness_FabricAtHome_3 :
    let utag : Nat := 0x5000
    let r : FabIn := ⟨0, 0x08, 0, 0, 1, 0xFFF8, leBytes 8 (2 ^ 64 - 3), false, [], false, 0, [], false, false⟩
    let l : CLine := (⟨List.replicate 64 (9 : Byte), false⟩ : CLine)
    let s : State := stMem (fun d => { d with reqs := [(0x5000, ⟨0, 0x08, 0, 0, 1, 0xFFF8, leBytes 8 (2 ^ 64 - 3), false, [], false, 0, [], false, false⟩)], entries := [(3, ⟨0x5000, [], 8⟩), (4, ⟨1, [], 8⟩)], cache := [(1023, (⟨List.replicate 64 (9 : Byte), false⟩ : CLine)), (5, (⟨List.replicate 64 (9 : Byte), false⟩ : CLine))] })
    ((.add utag : Instr).wellFormed = true) ∧ (Serving s) ∧ (mirrorsOn s.dev = false) ∧ (tget? s.dev.reqs utag = some r) ∧ (r.waits = false) ∧ (r.members = []) ∧ (r.kind < 4) ∧ (admitReq (latch s) r = .yes) ∧ (owes s.dev (.run utag) = false) ∧ (r.code = 0x08) ∧ ((pageOf s.dev (pageOfLine (r.addr / 64))).tier = 1 ∨ (pageOf s.dev (pageOfLine (r.addr / 64))).tier = 2) ∧ ((pageOf s.dev (pageOfLine (r.addr / 64))).packed = false) ∧ (floeOn s.dev (homeFloe (pageOfLine (r.addr / 64))) = true) ∧ (tget? s.dev.dir (r.addr / 64) = none) ∧ (tget? s.dev.cache (r.addr / 64) = some l) ∧ (SoundLine s.dev (r.addr / 64)) ∧ ((pageOf s.dev (pageOfLine (r.addr / 64))).durable = false) ∧ ((pageOf s.dev (pageOfLine (r.addr / 64))).twin = false) ∧ (l.data.length = 64) ∧ ((pageOf s.dev (pageOfLine (r.addr / 64))).noPack = false) ∧ (tget? s.dev.dedup utag = none) ∧ (s.dev.sw.refusing = false) ∧ (s.dev.dedup.length < 4096) ∧ (r.payload.length = 8) ∧ (r.addr % (if bitOf r.width 0 then 8 else 4) = 0) := by
  decide +kernel

theorem witness_FabricAtHome_4 :
    let utag : Nat := 0x5000
    let r : FabIn := ⟨0, 0x09, 0, 0, 3, 0xFFF8, leBytes 8 (2 ^ 64 - 3), false, [], false, 0, [], false, false⟩
    let l : CLine := (⟨List.replicate 64 (9 : Byte), false⟩ : CLine)
    let s : State := stMem (fun d => { d with reqs := [(0x5000, ⟨0, 0x09, 0, 0, 3, 0xFFF8, leBytes 8 (2 ^ 64 - 3), false, [], false, 0, [], false, false⟩)], entries := [(3, ⟨0x5000, [], 8⟩), (4, ⟨1, [], 8⟩)], cache := [(1023, (⟨List.replicate 64 (9 : Byte), false⟩ : CLine)), (5, (⟨List.replicate 64 (9 : Byte), false⟩ : CLine))] })
    ((.and utag : Instr).wellFormed = true) ∧ (Serving s) ∧ (mirrorsOn s.dev = false) ∧ (tget? s.dev.reqs utag = some r) ∧ (r.waits = false) ∧ (r.members = []) ∧ (r.kind < 4) ∧ (admitReq (latch s) r = .yes) ∧ (owes s.dev (.run utag) = false) ∧ (r.code = 0x09) ∧ ((pageOf s.dev (pageOfLine (r.addr / 64))).tier = 1 ∨ (pageOf s.dev (pageOfLine (r.addr / 64))).tier = 2) ∧ ((pageOf s.dev (pageOfLine (r.addr / 64))).packed = false) ∧ (floeOn s.dev (homeFloe (pageOfLine (r.addr / 64))) = true) ∧ (tget? s.dev.dir (r.addr / 64) = none) ∧ (tget? s.dev.cache (r.addr / 64) = some l) ∧ (SoundLine s.dev (r.addr / 64)) ∧ ((pageOf s.dev (pageOfLine (r.addr / 64))).durable = false) ∧ ((pageOf s.dev (pageOfLine (r.addr / 64))).twin = false) ∧ (l.data.length = 64) ∧ ((pageOf s.dev (pageOfLine (r.addr / 64))).noPack = false) ∧ (tget? s.dev.dedup utag = none) ∧ (s.dev.sw.refusing = false) ∧ (s.dev.dedup.length < 4096) ∧ (r.payload.length = 8) ∧ (r.addr % (if bitOf r.width 0 then 8 else 4) = 0) := by
  decide +kernel

theorem witness_FabricAtHome_5 :
    let utag : Nat := 0x5000
    let r : FabIn := ⟨0, 0x0A, 0, 0, 0, 0xFFF8, leBytes 8 (2 ^ 64 - 3), false, [], false, 0, [], false, false⟩
    let l : CLine := (⟨List.replicate 64 (9 : Byte), false⟩ : CLine)
    let s : State := stMem (fun d => { d with reqs := [(0x5000, ⟨0, 0x0A, 0, 0, 0, 0xFFF8, leBytes 8 (2 ^ 64 - 3), false, [], false, 0, [], false, false⟩)], entries := [(3, ⟨0x5000, [], 8⟩), (4, ⟨1, [], 8⟩)], cache := [(1023, (⟨List.replicate 64 (9 : Byte), false⟩ : CLine)), (5, (⟨List.replicate 64 (9 : Byte), false⟩ : CLine))] })
    ((.or utag : Instr).wellFormed = true) ∧ (Serving s) ∧ (mirrorsOn s.dev = false) ∧ (tget? s.dev.reqs utag = some r) ∧ (r.waits = false) ∧ (r.members = []) ∧ (r.kind < 4) ∧ (admitReq (latch s) r = .yes) ∧ (owes s.dev (.run utag) = false) ∧ (r.code = 0x0A) ∧ ((pageOf s.dev (pageOfLine (r.addr / 64))).tier = 1 ∨ (pageOf s.dev (pageOfLine (r.addr / 64))).tier = 2) ∧ ((pageOf s.dev (pageOfLine (r.addr / 64))).packed = false) ∧ (floeOn s.dev (homeFloe (pageOfLine (r.addr / 64))) = true) ∧ (tget? s.dev.dir (r.addr / 64) = none) ∧ (tget? s.dev.cache (r.addr / 64) = some l) ∧ (SoundLine s.dev (r.addr / 64)) ∧ ((pageOf s.dev (pageOfLine (r.addr / 64))).durable = false) ∧ ((pageOf s.dev (pageOfLine (r.addr / 64))).twin = false) ∧ (l.data.length = 64) ∧ ((pageOf s.dev (pageOfLine (r.addr / 64))).noPack = false) ∧ (tget? s.dev.dedup utag = none) ∧ (s.dev.sw.refusing = false) ∧ (s.dev.dedup.length < 4096) ∧ (r.payload.length = 8) ∧ (r.addr % (if bitOf r.width 0 then 8 else 4) = 0) := by
  decide +kernel

theorem witness_FabricAtHome_6 :
    let utag : Nat := 0x5000
    let r : FabIn := ⟨0, 0x0B, 0, 0, 2, 0xFFF8, leBytes 8 (2 ^ 64 - 3), false, [], false, 0, [], false, false⟩
    let l : CLine := (⟨List.replicate 64 (9 : Byte), false⟩ : CLine)
    let s : State := stMem (fun d => { d with reqs := [(0x5000, ⟨0, 0x0B, 0, 0, 2, 0xFFF8, leBytes 8 (2 ^ 64 - 3), false, [], false, 0, [], false, false⟩)], entries := [(3, ⟨0x5000, [], 8⟩), (4, ⟨1, [], 8⟩)], cache := [(1023, (⟨List.replicate 64 (9 : Byte), false⟩ : CLine)), (5, (⟨List.replicate 64 (9 : Byte), false⟩ : CLine))] })
    ((.xor utag : Instr).wellFormed = true) ∧ (Serving s) ∧ (mirrorsOn s.dev = false) ∧ (tget? s.dev.reqs utag = some r) ∧ (r.waits = false) ∧ (r.members = []) ∧ (r.kind < 4) ∧ (admitReq (latch s) r = .yes) ∧ (owes s.dev (.run utag) = false) ∧ (r.code = 0x0B) ∧ ((pageOf s.dev (pageOfLine (r.addr / 64))).tier = 1 ∨ (pageOf s.dev (pageOfLine (r.addr / 64))).tier = 2) ∧ ((pageOf s.dev (pageOfLine (r.addr / 64))).packed = false) ∧ (floeOn s.dev (homeFloe (pageOfLine (r.addr / 64))) = true) ∧ (tget? s.dev.dir (r.addr / 64) = none) ∧ (tget? s.dev.cache (r.addr / 64) = some l) ∧ (SoundLine s.dev (r.addr / 64)) ∧ ((pageOf s.dev (pageOfLine (r.addr / 64))).durable = false) ∧ ((pageOf s.dev (pageOfLine (r.addr / 64))).twin = false) ∧ (l.data.length = 64) ∧ ((pageOf s.dev (pageOfLine (r.addr / 64))).noPack = false) ∧ (tget? s.dev.dedup utag = none) ∧ (s.dev.sw.refusing = false) ∧ (s.dev.dedup.length < 4096) ∧ (r.payload.length = 8) ∧ (r.addr % (if bitOf r.width 0 then 8 else 4) = 0) := by
  decide +kernel

theorem witness_FabricAtHome_7 :
    let utag : Nat := 0x5000
    let r : FabIn := ⟨0, 0x0C, 0, 0, 1, 0xFFF8, leBytes 8 (2 ^ 64 - 3), false, [], false, 0, [], false, false⟩
    let l : CLine := (⟨List.replicate 64 (9 : Byte), false⟩ : CLine)
    let s : State := stMem (fun d => { d with reqs := [(0x5000, ⟨0, 0x0C, 0, 0, 1, 0xFFF8, leBytes 8 (2 ^ 64 - 3), false, [], false, 0, [], false, false⟩)], entries := [(3, ⟨0x5000, [], 8⟩), (4, ⟨1, [], 8⟩)], cache := [(1023, (⟨List.replicate 64 (9 : Byte), false⟩ : CLine)), (5, (⟨List.replicate 64 (9 : Byte), false⟩ : CLine))] })
    ((.min utag : Instr).wellFormed = true) ∧ (Serving s) ∧ (mirrorsOn s.dev = false) ∧ (tget? s.dev.reqs utag = some r) ∧ (r.waits = false) ∧ (r.members = []) ∧ (r.kind < 4) ∧ (admitReq (latch s) r = .yes) ∧ (owes s.dev (.run utag) = false) ∧ (r.code = 0x0C) ∧ ((pageOf s.dev (pageOfLine (r.addr / 64))).tier = 1 ∨ (pageOf s.dev (pageOfLine (r.addr / 64))).tier = 2) ∧ ((pageOf s.dev (pageOfLine (r.addr / 64))).packed = false) ∧ (floeOn s.dev (homeFloe (pageOfLine (r.addr / 64))) = true) ∧ (tget? s.dev.dir (r.addr / 64) = none) ∧ (tget? s.dev.cache (r.addr / 64) = some l) ∧ (SoundLine s.dev (r.addr / 64)) ∧ ((pageOf s.dev (pageOfLine (r.addr / 64))).durable = false) ∧ ((pageOf s.dev (pageOfLine (r.addr / 64))).twin = false) ∧ (l.data.length = 64) ∧ ((pageOf s.dev (pageOfLine (r.addr / 64))).noPack = false) ∧ (tget? s.dev.dedup utag = none) ∧ (s.dev.sw.refusing = false) ∧ (s.dev.dedup.length < 4096) ∧ (r.payload.length = 8) ∧ (r.addr % (if bitOf r.width 0 then 8 else 4) = 0) := by
  decide +kernel

theorem witness_FabricAtHome_8 :
    let utag : Nat := 0x5000
    let r : FabIn := ⟨0, 0x0D, 0, 0, 3, 0xFFF8, leBytes 8 (2 ^ 64 - 3), false, [], false, 0, [], false, false⟩
    let l : CLine := (⟨List.replicate 64 (9 : Byte), false⟩ : CLine)
    let s : State := stMem (fun d => { d with reqs := [(0x5000, ⟨0, 0x0D, 0, 0, 3, 0xFFF8, leBytes 8 (2 ^ 64 - 3), false, [], false, 0, [], false, false⟩)], entries := [(3, ⟨0x5000, [], 8⟩), (4, ⟨1, [], 8⟩)], cache := [(1023, (⟨List.replicate 64 (9 : Byte), false⟩ : CLine)), (5, (⟨List.replicate 64 (9 : Byte), false⟩ : CLine))] })
    ((.max utag : Instr).wellFormed = true) ∧ (Serving s) ∧ (mirrorsOn s.dev = false) ∧ (tget? s.dev.reqs utag = some r) ∧ (r.waits = false) ∧ (r.members = []) ∧ (r.kind < 4) ∧ (admitReq (latch s) r = .yes) ∧ (owes s.dev (.run utag) = false) ∧ (r.code = 0x0D) ∧ ((pageOf s.dev (pageOfLine (r.addr / 64))).tier = 1 ∨ (pageOf s.dev (pageOfLine (r.addr / 64))).tier = 2) ∧ ((pageOf s.dev (pageOfLine (r.addr / 64))).packed = false) ∧ (floeOn s.dev (homeFloe (pageOfLine (r.addr / 64))) = true) ∧ (tget? s.dev.dir (r.addr / 64) = none) ∧ (tget? s.dev.cache (r.addr / 64) = some l) ∧ (SoundLine s.dev (r.addr / 64)) ∧ ((pageOf s.dev (pageOfLine (r.addr / 64))).durable = false) ∧ ((pageOf s.dev (pageOfLine (r.addr / 64))).twin = false) ∧ (l.data.length = 64) ∧ ((pageOf s.dev (pageOfLine (r.addr / 64))).noPack = false) ∧ (tget? s.dev.dedup utag = none) ∧ (s.dev.sw.refusing = false) ∧ (s.dev.dedup.length < 4096) ∧ (r.payload.length = 8) ∧ (r.addr % (if bitOf r.width 0 then 8 else 4) = 0) := by
  decide +kernel

theorem witness_FabricAtHome_9 :
    let utag : Nat := 0x5000
    let r : FabIn := ⟨0, 0x0E, 0, 0, 0, 0xFFF8, leBytes 8 (2 ^ 64 - 3), false, [], false, 0, [], false, false⟩
    let l : CLine := (⟨List.replicate 64 (9 : Byte), false⟩ : CLine)
    let s : State := stMem (fun d => { d with reqs := [(0x5000, ⟨0, 0x0E, 0, 0, 0, 0xFFF8, leBytes 8 (2 ^ 64 - 3), false, [], false, 0, [], false, false⟩)], entries := [(3, ⟨0x5000, [], 8⟩), (4, ⟨1, [], 8⟩)], cache := [(1023, (⟨List.replicate 64 (9 : Byte), false⟩ : CLine)), (5, (⟨List.replicate 64 (9 : Byte), false⟩ : CLine))] })
    ((.umin utag : Instr).wellFormed = true) ∧ (Serving s) ∧ (mirrorsOn s.dev = false) ∧ (tget? s.dev.reqs utag = some r) ∧ (r.waits = false) ∧ (r.members = []) ∧ (r.kind < 4) ∧ (admitReq (latch s) r = .yes) ∧ (owes s.dev (.run utag) = false) ∧ (r.code = 0x0E) ∧ ((pageOf s.dev (pageOfLine (r.addr / 64))).tier = 1 ∨ (pageOf s.dev (pageOfLine (r.addr / 64))).tier = 2) ∧ ((pageOf s.dev (pageOfLine (r.addr / 64))).packed = false) ∧ (floeOn s.dev (homeFloe (pageOfLine (r.addr / 64))) = true) ∧ (tget? s.dev.dir (r.addr / 64) = none) ∧ (tget? s.dev.cache (r.addr / 64) = some l) ∧ (SoundLine s.dev (r.addr / 64)) ∧ ((pageOf s.dev (pageOfLine (r.addr / 64))).durable = false) ∧ ((pageOf s.dev (pageOfLine (r.addr / 64))).twin = false) ∧ (l.data.length = 64) ∧ ((pageOf s.dev (pageOfLine (r.addr / 64))).noPack = false) ∧ (tget? s.dev.dedup utag = none) ∧ (s.dev.sw.refusing = false) ∧ (s.dev.dedup.length < 4096) ∧ (r.payload.length = 8) ∧ (r.addr % (if bitOf r.width 0 then 8 else 4) = 0) := by
  decide +kernel

theorem witness_FabricAtHome_10 :
    let utag : Nat := 0x5000
    let r : FabIn := ⟨0, 0x0F, 0, 0, 2, 0xFFF8, leBytes 8 (2 ^ 64 - 3), false, [], false, 0, [], false, false⟩
    let l : CLine := (⟨List.replicate 64 (9 : Byte), false⟩ : CLine)
    let s : State := stMem (fun d => { d with reqs := [(0x5000, ⟨0, 0x0F, 0, 0, 2, 0xFFF8, leBytes 8 (2 ^ 64 - 3), false, [], false, 0, [], false, false⟩)], entries := [(3, ⟨0x5000, [], 8⟩), (4, ⟨1, [], 8⟩)], cache := [(1023, (⟨List.replicate 64 (9 : Byte), false⟩ : CLine)), (5, (⟨List.replicate 64 (9 : Byte), false⟩ : CLine))] })
    ((.umax utag : Instr).wellFormed = true) ∧ (Serving s) ∧ (mirrorsOn s.dev = false) ∧ (tget? s.dev.reqs utag = some r) ∧ (r.waits = false) ∧ (r.members = []) ∧ (r.kind < 4) ∧ (admitReq (latch s) r = .yes) ∧ (owes s.dev (.run utag) = false) ∧ (r.code = 0x0F) ∧ ((pageOf s.dev (pageOfLine (r.addr / 64))).tier = 1 ∨ (pageOf s.dev (pageOfLine (r.addr / 64))).tier = 2) ∧ ((pageOf s.dev (pageOfLine (r.addr / 64))).packed = false) ∧ (floeOn s.dev (homeFloe (pageOfLine (r.addr / 64))) = true) ∧ (tget? s.dev.dir (r.addr / 64) = none) ∧ (tget? s.dev.cache (r.addr / 64) = some l) ∧ (SoundLine s.dev (r.addr / 64)) ∧ ((pageOf s.dev (pageOfLine (r.addr / 64))).durable = false) ∧ ((pageOf s.dev (pageOfLine (r.addr / 64))).twin = false) ∧ (l.data.length = 64) ∧ ((pageOf s.dev (pageOfLine (r.addr / 64))).noPack = false) ∧ (tget? s.dev.dedup utag = none) ∧ (s.dev.sw.refusing = false) ∧ (s.dev.dedup.length < 4096) ∧ (r.payload.length = 8) ∧ (r.addr % (if bitOf r.width 0 then 8 else 4) = 0) := by
  decide +kernel

theorem witness_FabricAtHome_11 :
    let utag : Nat := 0x5000
    let r : FabIn := ⟨0, 0x10, 0, 0, 3, 0xFFF8, leBytes 8 (2 ^ 64 - 3), false, [], false, 0, [], false, false⟩
    let l : CLine := (⟨List.replicate 64 (9 : Byte), false⟩ : CLine)
    let s : State := stMem (fun d => { d with reqs := [(0x5000, ⟨0, 0x10, 0, 0, 3, 0xFFF8, leBytes 8 (2 ^ 64 - 3), false, [], false, 0, [], false, false⟩)], entries := [(3, ⟨0x5000, [], 8⟩), (4, ⟨1, [], 8⟩)], cache := [(1023, (⟨List.replicate 64 (9 : Byte), false⟩ : CLine)), (5, (⟨List.replicate 64 (9 : Byte), false⟩ : CLine))] })
    ((.swap utag : Instr).wellFormed = true) ∧ (Serving s) ∧ (mirrorsOn s.dev = false) ∧ (tget? s.dev.reqs utag = some r) ∧ (r.waits = false) ∧ (r.members = []) ∧ (r.kind < 4) ∧ (admitReq (latch s) r = .yes) ∧ (owes s.dev (.run utag) = false) ∧ (r.code = 0x10) ∧ ((pageOf s.dev (pageOfLine (r.addr / 64))).tier = 1 ∨ (pageOf s.dev (pageOfLine (r.addr / 64))).tier = 2) ∧ ((pageOf s.dev (pageOfLine (r.addr / 64))).packed = false) ∧ (floeOn s.dev (homeFloe (pageOfLine (r.addr / 64))) = true) ∧ (tget? s.dev.dir (r.addr / 64) = none) ∧ (tget? s.dev.cache (r.addr / 64) = some l) ∧ (SoundLine s.dev (r.addr / 64)) ∧ ((pageOf s.dev (pageOfLine (r.addr / 64))).durable = false) ∧ ((pageOf s.dev (pageOfLine (r.addr / 64))).twin = false) ∧ (l.data.length = 64) ∧ ((pageOf s.dev (pageOfLine (r.addr / 64))).noPack = false) ∧ (tget? s.dev.dedup utag = none) ∧ (s.dev.sw.refusing = false) ∧ (s.dev.dedup.length < 4096) ∧ (r.payload.length = 8) ∧ (r.addr % (if bitOf r.width 0 then 8 else 4) = 0) := by
  decide +kernel

theorem witness_FabricAtHome_12 :
    let utag : Nat := 0x5000
    let r : FabIn := ⟨0, 0x11, 0, 0, 3, 0xFFF8, leBytes 8 0x0909090909090909 ++ leBytes 8 7, false, [], false, 0, [], false, false⟩
    let l : CLine := (⟨List.replicate 64 (9 : Byte), false⟩ : CLine)
    let s : State := stMem (fun d => { d with reqs := [(0x5000, ⟨0, 0x11, 0, 0, 3, 0xFFF8, leBytes 8 0x0909090909090909 ++ leBytes 8 7, false, [], false, 0, [], false, false⟩)], entries := [(3, ⟨0x5000, [], 8⟩), (4, ⟨1, [], 8⟩)], cache := [(1023, (⟨List.replicate 64 (9 : Byte), false⟩ : CLine)), (5, (⟨List.replicate 64 (9 : Byte), false⟩ : CLine))] })
    ((.cas utag : Instr).wellFormed = true) ∧ (Serving s) ∧ (mirrorsOn s.dev = false) ∧ (tget? s.dev.reqs utag = some r) ∧ (r.waits = false) ∧ (r.members = []) ∧ (r.kind < 4) ∧ (admitReq (latch s) r = .yes) ∧ (owes s.dev (.run utag) = false) ∧ (r.code = 0x11) ∧ ((pageOf s.dev (pageOfLine (r.addr / 64))).tier = 1 ∨ (pageOf s.dev (pageOfLine (r.addr / 64))).tier = 2) ∧ ((pageOf s.dev (pageOfLine (r.addr / 64))).packed = false) ∧ (floeOn s.dev (homeFloe (pageOfLine (r.addr / 64))) = true) ∧ (tget? s.dev.dir (r.addr / 64) = none) ∧ (tget? s.dev.cache (r.addr / 64) = some l) ∧ (SoundLine s.dev (r.addr / 64)) ∧ ((pageOf s.dev (pageOfLine (r.addr / 64))).durable = false) ∧ ((pageOf s.dev (pageOfLine (r.addr / 64))).twin = false) ∧ (l.data.length = 64) ∧ ((pageOf s.dev (pageOfLine (r.addr / 64))).noPack = false) ∧ (tget? s.dev.dedup utag = none) ∧ (s.dev.sw.refusing = false) ∧ (s.dev.dedup.length < 4096) ∧ (r.payload.length = 16) ∧ (r.addr % (if bitOf r.width 0 then 8 else 4) = 0) := by
  decide +kernel

theorem witness_FabricAtHome_13 :
    let utag : Nat := 0x5000
    let r : FabIn := ⟨0, 0x12, 0, 0, 0, 0xFFE0, cellOf ⟨5, 1, 0⟩, false, [], false, 0, [], false, false⟩
    let l : CLine := (⟨zeros 32 ++ cellOf ⟨-7, 3, 0⟩, false⟩ : CLine)
    let s : State := stMem (fun d => { d with reqs := [(0x5000, ⟨0, 0x12, 0, 0, 0, 0xFFE0, cellOf ⟨5, 1, 0⟩, false, [], false, 0, [], false, false⟩)], cache := [(1023, ⟨zeros 32 ++ cellOf ⟨-7, 3, 0⟩, false⟩)] })
    let x : Slug := (⟨5, 1, 0⟩ : Slug)
    let y : Slug := (⟨-7, 3, 0⟩ : Slug)
    ((.exactAdd utag : Instr).wellFormed = true) ∧ (Serving s) ∧ (mirrorsOn s.dev = false) ∧ (tget? s.dev.reqs utag = some r) ∧ (r.waits = false) ∧ (r.members = []) ∧ (r.kind < 4) ∧ (admitReq (latch s) r = .yes) ∧ (owes s.dev (.run utag) = false) ∧ (r.code = 0x12) ∧ ((pageOf s.dev (pageOfLine (r.addr / 64))).tier = 1 ∨ (pageOf s.dev (pageOfLine (r.addr / 64))).tier = 2) ∧ ((pageOf s.dev (pageOfLine (r.addr / 64))).packed = false) ∧ (floeOn s.dev (homeFloe (pageOfLine (r.addr / 64))) = true) ∧ (tget? s.dev.dir (r.addr / 64) = none) ∧ (tget? s.dev.cache (r.addr / 64) = some l) ∧ (SoundLine s.dev (r.addr / 64)) ∧ ((pageOf s.dev (pageOfLine (r.addr / 64))).durable = false) ∧ ((pageOf s.dev (pageOfLine (r.addr / 64))).twin = false) ∧ (l.data.length = 64) ∧ ((pageOf s.dev (pageOfLine (r.addr / 64))).noPack = false) ∧ (tget? s.dev.dedup utag = none) ∧ (s.dev.sw.refusing = false) ∧ (s.dev.dedup.length < 4096) ∧ (r.payload.length = 32) ∧ (r.addr % 32 = 0) ∧ (slugOf r.payload = some x) ∧ (slugOf (slice l.data (r.addr % 64) 32) = some y) := by
  decide +kernel

theorem witness_FabricAtHome_14 :
    let utag : Nat := 0x5000
    let r : FabIn := ⟨0, 0x18, 0, 0, 0, 0xFFC0, leBytes 8 0x1122334455667788 ++ leBytes 4 1 ++ zeros 4, false, [], false, 0, [], false, false⟩
    let l : CLine := (⟨List.replicate 64 (9 : Byte), false⟩ : CLine)
    let s : State := stMem (fun d => { d with reqs := [(0x5000, ⟨0, 0x18, 0, 0, 0, 0xFFC0, leBytes 8 0x1122334455667788 ++ leBytes 4 1 ++ zeros 4, false, [], false, 0, [], false, false⟩)], entries := [(3, ⟨0x5000, [], 8⟩), (4, ⟨1, [], 8⟩)], cache := [(1023, (⟨List.replicate 64 (9 : Byte), false⟩ : CLine)), (5, (⟨List.replicate 64 (9 : Byte), false⟩ : CLine))] })
    ((.fillRun utag : Instr).wellFormed = true) ∧ (Serving s) ∧ (mirrorsOn s.dev = false) ∧ (tget? s.dev.reqs utag = some r) ∧ (r.waits = false) ∧ (r.members = []) ∧ (r.kind < 4) ∧ (admitReq (latch s) r = .yes) ∧ (owes s.dev (.run utag) = false) ∧ (r.code = 0x18) ∧ (fieldAt r.payload 8 4 = 1) ∧ ((pageOf s.dev (pageOfLine (r.addr / 64))).tier = 1 ∨ (pageOf s.dev (pageOfLine (r.addr / 64))).tier = 2) ∧ ((pageOf s.dev (pageOfLine (r.addr / 64))).packed = false) ∧ (floeOn s.dev (homeFloe (pageOfLine (r.addr / 64))) = true) ∧ (tget? s.dev.dir (r.addr / 64) = none) ∧ (tget? s.dev.cache (r.addr / 64) = some l) ∧ (SoundLine s.dev (r.addr / 64)) ∧ ((pageOf s.dev (pageOfLine (r.addr / 64))).durable = false) ∧ ((pageOf s.dev (pageOfLine (r.addr / 64))).twin = false) ∧ (l.data.length = 64) ∧ ((pageOf s.dev (pageOfLine (r.addr / 64))).noPack = false) ∧ (tget? s.dev.dedup utag = none) ∧ (s.dev.sw.refusing = false) ∧ (s.dev.dedup.length < 4096) := by
  decide +kernel

theorem witness_FabricAtHome_15 :
    let m : Nat := 5
    let k : CLine := (⟨List.replicate 64 (9 : Byte), false⟩ : CLine)
    let utag : Nat := 0x5000
    let r : FabIn := ⟨0, 0x19, 0, 0, 0, 0xFFC0, leBytes 8 0x140 ++ leBytes 4 1 ++ zeros 4, false, [], false, 0, [], false, false⟩
    let l : CLine := (⟨List.replicate 64 (9 : Byte), false⟩ : CLine)
    let s : State := stMem (fun d => { d with reqs := [(0x5000, ⟨0, 0x19, 0, 0, 0, 0xFFC0, leBytes 8 0x140 ++ leBytes 4 1 ++ zeros 4, false, [], false, 0, [], false, false⟩)], entries := [(3, ⟨0x5000, [], 8⟩), (4, ⟨1, [], 8⟩)], cache := [(1023, (⟨List.replicate 64 (9 : Byte), false⟩ : CLine)), (5, (⟨List.replicate 64 (9 : Byte), false⟩ : CLine))] })
    ((.copyRun utag : Instr).wellFormed = true) ∧ (Serving s) ∧ (mirrorsOn s.dev = false) ∧ (tget? s.dev.reqs utag = some r) ∧ (r.waits = false) ∧ (r.members = []) ∧ (r.kind < 4) ∧ (admitReq (latch s) r = .yes) ∧ (owes s.dev (.run utag) = false) ∧ (r.code = 0x19) ∧ (fieldAt r.payload 8 4 = 1) ∧ (fieldAt r.payload 0 8 = selfNode s.dev * 2 ^ 44 + 64 * m) ∧ (m < 2 ^ 38) ∧ ((pageOf s.dev (pageOfLine (r.addr / 64))).tier = 1 ∨ (pageOf s.dev (pageOfLine (r.addr / 64))).tier = 2) ∧ ((pageOf s.dev (pageOfLine (r.addr / 64))).packed = false) ∧ (floeOn s.dev (homeFloe (pageOfLine (r.addr / 64))) = true) ∧ (tget? s.dev.dir (r.addr / 64) = none) ∧ (tget? s.dev.cache (r.addr / 64) = some l) ∧ (SoundLine s.dev (r.addr / 64)) ∧ (l.data.length = 64) ∧ ((pageOf s.dev (pageOfLine m)).tier = 1 ∨ (pageOf s.dev (pageOfLine m)).tier = 2) ∧ ((pageOf s.dev (pageOfLine m)).packed = false) ∧ (floeOn s.dev (homeFloe (pageOfLine m)) = true) ∧ (tget? s.dev.dir m = none) ∧ (tget? s.dev.cache m = some k) ∧ (SoundLine s.dev m) ∧ ((pageOf s.dev (pageOfLine m)).durable = false) ∧ ((pageOf s.dev (pageOfLine m)).twin = false) ∧ (k.data.length = 64) ∧ ((pageOf s.dev (pageOfLine m)).noPack = false) ∧ (tget? s.dev.dedup utag = none) ∧ (s.dev.sw.refusing = false) ∧ (s.dev.dedup.length < 4096) := by
  decide +kernel

theorem witness_FabricAtHome_16 :
    let utag : Nat := 0x5000
    let r : FabIn := ⟨0, 0x1A, 0, 0, 0, 0xFFC0, leBytes 8 0x0909090909090809 ++ leBytes 4 1 ++ [3], false, [], false, 0, [], false, false⟩
    let l : CLine := (⟨List.replicate 64 (9 : Byte), false⟩ : CLine)
    let s : State := stMem (fun d => { d with reqs := [(0x5000, ⟨0, 0x1A, 0, 0, 0, 0xFFC0, leBytes 8 0x0909090909090809 ++ leBytes 4 1 ++ [3], false, [], false, 0, [], false, false⟩)], entries := [(3, ⟨0x5000, [], 8⟩), (4, ⟨1, [], 8⟩)], cache := [(1023, (⟨List.replicate 64 (9 : Byte), false⟩ : CLine)), (5, (⟨List.replicate 64 (9 : Byte), false⟩ : CLine))] })
    ((.compareRun utag : Instr).wellFormed = true) ∧ (Serving s) ∧ (mirrorsOn s.dev = false) ∧ (tget? s.dev.reqs utag = some r) ∧ (r.waits = false) ∧ (r.members = []) ∧ (r.kind < 4) ∧ (admitReq (latch s) r = .yes) ∧ (owes s.dev (.run utag) = false) ∧ (r.code = 0x1A) ∧ (fieldAt r.payload 8 4 = 1) ∧ (bitOf (fieldAt r.payload 12 1) 0 = true) ∧ ((pageOf s.dev (pageOfLine (r.addr / 64))).tier = 1 ∨ (pageOf s.dev (pageOfLine (r.addr / 64))).tier = 2) ∧ ((pageOf s.dev (pageOfLine (r.addr / 64))).packed = false) ∧ (floeOn s.dev (homeFloe (pageOfLine (r.addr / 64))) = true) ∧ (tget? s.dev.dir (r.addr / 64) = none) ∧ (tget? s.dev.cache (r.addr / 64) = some l) ∧ (SoundLine s.dev (r.addr / 64)) ∧ (tget? s.dev.dedup utag = none) ∧ (s.dev.sw.refusing = false) ∧ (s.dev.dedup.length < 4096) := by
  decide +kernel

theorem witness_FabricAtHome_17 :
    let m : Nat := 5
    let k : CLine := (⟨List.replicate 64 (9 : Byte), false⟩ : CLine)
    let utag : Nat := 0x5000
    let r : FabIn := ⟨0, 0x1A, 0, 0, 0, 0xFFC0, leBytes 8 0x140 ++ leBytes 4 1 ++ [0], false, [], false, 0, [], false, false⟩
    let l : CLine := (⟨List.replicate 64 (9 : Byte), false⟩ : CLine)
    let s : State := stMem (fun d => { d with reqs := [(0x5000, ⟨0, 0x1A, 0, 0, 0, 0xFFC0, leBytes 8 0x140 ++ leBytes 4 1 ++ [0], false, [], false, 0, [], false, false⟩)], entries := [(3, ⟨0x5000, [], 8⟩), (4, ⟨1, [], 8⟩)], cache := [(1023, (⟨List.replicate 64 (9 : Byte), false⟩ : CLine)), (5, (⟨List.replicate 64 (9 : Byte), false⟩ : CLine))] })
    ((.compareRun utag : Instr).wellFormed = true) ∧ (Serving s) ∧ (mirrorsOn s.dev = false) ∧ (tget? s.dev.reqs utag = some r) ∧ (r.waits = false) ∧ (r.members = []) ∧ (r.kind < 4) ∧ (admitReq (latch s) r = .yes) ∧ (owes s.dev (.run utag) = false) ∧ (r.code = 0x1A) ∧ (fieldAt r.payload 8 4 = 1) ∧ (fieldAt r.payload 12 1 = 0) ∧ (fieldAt r.payload 0 8 = selfNode s.dev * 2 ^ 44 + 64 * m) ∧ (m < 2 ^ 38) ∧ (l.data.length = 64) ∧ (k.data.length = 64) ∧ ((pageOf s.dev (pageOfLine (r.addr / 64))).tier = 1 ∨ (pageOf s.dev (pageOfLine (r.addr / 64))).tier = 2) ∧ ((pageOf s.dev (pageOfLine (r.addr / 64))).packed = false) ∧ (floeOn s.dev (homeFloe (pageOfLine (r.addr / 64))) = true) ∧ (tget? s.dev.dir (r.addr / 64) = none) ∧ (tget? s.dev.cache (r.addr / 64) = some l) ∧ (SoundLine s.dev (r.addr / 64)) ∧ ((pageOf s.dev (pageOfLine m)).tier = 1 ∨ (pageOf s.dev (pageOfLine m)).tier = 2) ∧ ((pageOf s.dev (pageOfLine m)).packed = false) ∧ (floeOn s.dev (homeFloe (pageOfLine m)) = true) ∧ (tget? s.dev.dir m = none) ∧ (tget? s.dev.cache m = some k) ∧ (SoundLine s.dev m) ∧ (tget? s.dev.dedup utag = none) ∧ (s.dev.sw.refusing = false) ∧ (s.dev.dedup.length < 4096) := by
  decide +kernel

theorem witness_FabricAtHome_18 :
    let utag : Nat := 0x5000
    let r : FabIn := ⟨0, 0x1B, 0, 0, 0, 0xFFE0, cellOf ⟨5, 1, 0⟩, false, [], false, 0, [], false, false⟩
    let l : CLine := (⟨zeros 32 ++ cellOf ⟨-7, 3, 0⟩, false⟩ : CLine)
    let s : State := stMem (fun d => { d with reqs := [(0x5000, ⟨0, 0x1B, 0, 0, 0, 0xFFE0, cellOf ⟨5, 1, 0⟩, false, [], false, 0, [], false, false⟩)], cache := [(1023, ⟨zeros 32 ++ cellOf ⟨-7, 3, 0⟩, false⟩)] })
    let x : Slug := (⟨5, 1, 0⟩ : Slug)
    let y : Slug := (⟨-7, 3, 0⟩ : Slug)
    ((.reducePart utag : Instr).wellFormed = true) ∧ (Serving s) ∧ (mirrorsOn s.dev = false) ∧ (tget? s.dev.reqs utag = some r) ∧ (r.waits = false) ∧ (r.members = []) ∧ (r.kind < 4) ∧ (admitReq (latch s) r = .yes) ∧ (owes s.dev (.run utag) = false) ∧ (r.code = 0x1B) ∧ ((pageOf s.dev (pageOfLine (r.addr / 64))).tier = 1 ∨ (pageOf s.dev (pageOfLine (r.addr / 64))).tier = 2) ∧ ((pageOf s.dev (pageOfLine (r.addr / 64))).packed = false) ∧ (floeOn s.dev (homeFloe (pageOfLine (r.addr / 64))) = true) ∧ (tget? s.dev.dir (r.addr / 64) = none) ∧ (tget? s.dev.cache (r.addr / 64) = some l) ∧ (SoundLine s.dev (r.addr / 64)) ∧ ((pageOf s.dev (pageOfLine (r.addr / 64))).durable = false) ∧ ((pageOf s.dev (pageOfLine (r.addr / 64))).twin = false) ∧ (l.data.length = 64) ∧ ((pageOf s.dev (pageOfLine (r.addr / 64))).noPack = false) ∧ (tget? s.dev.dedup utag = none) ∧ (s.dev.sw.refusing = false) ∧ (s.dev.dedup.length < 4096) ∧ (r.payload.length = 32) ∧ (r.addr % 32 = 0) ∧ (slugOf r.payload = some x) ∧ (slugOf (slice l.data (r.addr % 64) 32) = some y) := by
  decide +kernel

theorem witness_FabricAtHome_19 :
    let utag : Nat := 0x5000
    let r : FabIn := ⟨0, 0x00, 0, 0, 0, 0xFFC0, [], false, [], false, 0, [], false, false⟩
    let s : State := stMem (fun d => { d with reqs := [(0x5000, ⟨0, 0x00, 0, 0, 0, 0xFFC0, [], false, [], false, 0, [], false, false⟩)], entries := [(3, ⟨0x5000, [], 8⟩), (4, ⟨1, [], 8⟩)], cache := [(1023, (⟨List.replicate 64 (9 : Byte), false⟩ : CLine)), (5, (⟨List.replicate 64 (9 : Byte), false⟩ : CLine))] })
    let m : Dev := (performReq (latch s) utag r).1
    let st : Nat := (match (performReq (latch s) utag r).2 with | .done st _ => st | _ => 0)
    let pl : Bytes := (match (performReq (latch s) utag r).2 with | .done _ pl => pl | _ => [])
    ((.read utag : Instr).wellFormed = true) ∧ (Serving s) ∧ (tget? s.dev.reqs utag = some r) ∧ (r.waits = false) ∧ (dedupCode r.code = false ∨ ((recordTags r utag).filterMap (tget? s.dev.dedup) = [] ∧ s.dev.sw.refusing = false ∧ s.dev.dedup.length < 4096)) ∧ (admitReq (latch s) r = .yes) ∧ (r.code = 0x00) ∧ (packedWait s.dev (r.addr / 64) = false) ∧ (performReq (latch s) utag r = (m, .done st pl)) ∧ (owes m (.run utag) = false) ∧ (m.boot = s.dev.boot) ∧ ((answer m utag r st pl).boot = s.dev.boot) ∧ ((answer m utag r st pl).errq.due = []) ∧ ((answer m utag r st pl).tagWait = []) ∧ ((answer m utag r st pl).tagHeld = []) ∧ ((answer m utag r st pl).sw.seen = []) := by
  decide +kernel

theorem witness_FabricAtHome_20 :
    let utag : Nat := 0x5000
    let r : FabIn := ⟨0, 0x01, 0, 0, 0, 0xFFC0, leBytes 8 0x8000000000000001 ++ List.replicate 64 (4 : Byte), false, [], false, 0, [], false, false⟩
    let s : State := stMem (fun d => { d with reqs := [(0x5000, ⟨0, 0x01, 0, 0, 0, 0xFFC0, leBytes 8 0x8000000000000001 ++ List.replicate 64 (4 : Byte), false, [], false, 0, [], false, false⟩)], entries := [(3, ⟨0x5000, [], 8⟩), (4, ⟨1, [], 8⟩)], cache := [(1023, (⟨List.replicate 64 (9 : Byte), false⟩ : CLine)), (5, (⟨List.replicate 64 (9 : Byte), false⟩ : CLine))] })
    let m : Dev := (performReq (latch s) utag r).1
    let st : Nat := (match (performReq (latch s) utag r).2 with | .done st _ => st | _ => 0)
    let pl : Bytes := (match (performReq (latch s) utag r).2 with | .done _ pl => pl | _ => [])
    ((.write utag : Instr).wellFormed = true) ∧ (Serving s) ∧ (tget? s.dev.reqs utag = some r) ∧ (r.waits = false) ∧ (dedupCode r.code = false ∨ ((recordTags r utag).filterMap (tget? s.dev.dedup) = [] ∧ s.dev.sw.refusing = false ∧ s.dev.dedup.length < 4096)) ∧ (admitReq (latch s) r = .yes) ∧ (r.code = 0x01) ∧ (performReq (latch s) utag r = (m, .done st pl)) ∧ (owes m (.run utag) = false) ∧ (m.boot = s.dev.boot) ∧ ((answer m utag r st pl).boot = s.dev.boot) ∧ ((answer m utag r st pl).errq.due = []) ∧ ((answer m utag r st pl).tagWait = []) ∧ ((answer m utag r st pl).tagHeld = []) ∧ ((answer m utag r st pl).sw.seen = []) := by
  decide +kernel

theorem witness_FabricAtHome_21 :
    let utag : Nat := 0x5000
    let r : FabIn := ⟨0, 0x08, 0, 0, 1, 0xFFC4, leBytes 8 0x0909090909090909 ++ leBytes 8 7, false, [], false, 0, [], false, false⟩
    let s : State := stMem (fun d => { d with reqs := [(0x5000, ⟨0, 0x08, 0, 0, 1, 0xFFC4, leBytes 8 0x0909090909090909 ++ leBytes 8 7, false, [], false, 0, [], false, false⟩)], entries := [(3, ⟨0x5000, [], 8⟩), (4, ⟨1, [], 8⟩)], cache := [(1023, (⟨List.replicate 64 (9 : Byte), false⟩ : CLine)), (5, (⟨List.replicate 64 (9 : Byte), false⟩ : CLine))] })
    let m : Dev := (performReq (latch s) utag r).1
    let st : Nat := (match (performReq (latch s) utag r).2 with | .done st _ => st | _ => 0)
    let pl : Bytes := (match (performReq (latch s) utag r).2 with | .done _ pl => pl | _ => [])
    ((.add utag : Instr).wellFormed = true) ∧ (Serving s) ∧ (tget? s.dev.reqs utag = some r) ∧ (r.waits = false) ∧ (dedupCode r.code = false ∨ ((recordTags r utag).filterMap (tget? s.dev.dedup) = [] ∧ s.dev.sw.refusing = false ∧ s.dev.dedup.length < 4096)) ∧ (admitReq (latch s) r = .yes) ∧ (r.code = 0x08) ∧ (performReq (latch s) utag r = (m, .done st pl)) ∧ (owes m (.run utag) = false) ∧ (m.boot = s.dev.boot) ∧ ((answer m utag r st pl).boot = s.dev.boot) ∧ ((answer m utag r st pl).errq.due = []) ∧ ((answer m utag r st pl).tagWait = []) ∧ ((answer m utag r st pl).tagHeld = []) ∧ ((answer m utag r st pl).sw.seen = []) := by
  decide +kernel

theorem witness_FabricAtHome_22 :
    let utag : Nat := 0x5000
    let r : FabIn := ⟨0, 0x09, 0, 0, 1, 0xFFC4, leBytes 8 0x0909090909090909 ++ leBytes 8 7, false, [], false, 0, [], false, false⟩
    let s : State := stMem (fun d => { d with reqs := [(0x5000, ⟨0, 0x09, 0, 0, 1, 0xFFC4, leBytes 8 0x0909090909090909 ++ leBytes 8 7, false, [], false, 0, [], false, false⟩)], entries := [(3, ⟨0x5000, [], 8⟩), (4, ⟨1, [], 8⟩)], cache := [(1023, (⟨List.replicate 64 (9 : Byte), false⟩ : CLine)), (5, (⟨List.replicate 64 (9 : Byte), false⟩ : CLine))] })
    let m : Dev := (performReq (latch s) utag r).1
    let st : Nat := (match (performReq (latch s) utag r).2 with | .done st _ => st | _ => 0)
    let pl : Bytes := (match (performReq (latch s) utag r).2 with | .done _ pl => pl | _ => [])
    ((.and utag : Instr).wellFormed = true) ∧ (Serving s) ∧ (tget? s.dev.reqs utag = some r) ∧ (r.waits = false) ∧ (dedupCode r.code = false ∨ ((recordTags r utag).filterMap (tget? s.dev.dedup) = [] ∧ s.dev.sw.refusing = false ∧ s.dev.dedup.length < 4096)) ∧ (admitReq (latch s) r = .yes) ∧ (r.code = 0x09) ∧ (performReq (latch s) utag r = (m, .done st pl)) ∧ (owes m (.run utag) = false) ∧ (m.boot = s.dev.boot) ∧ ((answer m utag r st pl).boot = s.dev.boot) ∧ ((answer m utag r st pl).errq.due = []) ∧ ((answer m utag r st pl).tagWait = []) ∧ ((answer m utag r st pl).tagHeld = []) ∧ ((answer m utag r st pl).sw.seen = []) := by
  decide +kernel

theorem witness_FabricAtHome_23 :
    let utag : Nat := 0x5000
    let r : FabIn := ⟨0, 0x0A, 0, 0, 1, 0xFFC4, leBytes 8 0x0909090909090909 ++ leBytes 8 7, false, [], false, 0, [], false, false⟩
    let s : State := stMem (fun d => { d with reqs := [(0x5000, ⟨0, 0x0A, 0, 0, 1, 0xFFC4, leBytes 8 0x0909090909090909 ++ leBytes 8 7, false, [], false, 0, [], false, false⟩)], entries := [(3, ⟨0x5000, [], 8⟩), (4, ⟨1, [], 8⟩)], cache := [(1023, (⟨List.replicate 64 (9 : Byte), false⟩ : CLine)), (5, (⟨List.replicate 64 (9 : Byte), false⟩ : CLine))] })
    let m : Dev := (performReq (latch s) utag r).1
    let st : Nat := (match (performReq (latch s) utag r).2 with | .done st _ => st | _ => 0)
    let pl : Bytes := (match (performReq (latch s) utag r).2 with | .done _ pl => pl | _ => [])
    ((.or utag : Instr).wellFormed = true) ∧ (Serving s) ∧ (tget? s.dev.reqs utag = some r) ∧ (r.waits = false) ∧ (dedupCode r.code = false ∨ ((recordTags r utag).filterMap (tget? s.dev.dedup) = [] ∧ s.dev.sw.refusing = false ∧ s.dev.dedup.length < 4096)) ∧ (admitReq (latch s) r = .yes) ∧ (r.code = 0x0A) ∧ (performReq (latch s) utag r = (m, .done st pl)) ∧ (owes m (.run utag) = false) ∧ (m.boot = s.dev.boot) ∧ ((answer m utag r st pl).boot = s.dev.boot) ∧ ((answer m utag r st pl).errq.due = []) ∧ ((answer m utag r st pl).tagWait = []) ∧ ((answer m utag r st pl).tagHeld = []) ∧ ((answer m utag r st pl).sw.seen = []) := by
  decide +kernel

theorem witness_FabricAtHome_24 :
    let utag : Nat := 0x5000
    let r : FabIn := ⟨0, 0x0B, 0, 0, 1, 0xFFC4, leBytes 8 0x0909090909090909 ++ leBytes 8 7, false, [], false, 0, [], false, false⟩
    let s : State := stMem (fun d => { d with reqs := [(0x5000, ⟨0, 0x0B, 0, 0, 1, 0xFFC4, leBytes 8 0x0909090909090909 ++ leBytes 8 7, false, [], false, 0, [], false, false⟩)], entries := [(3, ⟨0x5000, [], 8⟩), (4, ⟨1, [], 8⟩)], cache := [(1023, (⟨List.replicate 64 (9 : Byte), false⟩ : CLine)), (5, (⟨List.replicate 64 (9 : Byte), false⟩ : CLine))] })
    let m : Dev := (performReq (latch s) utag r).1
    let st : Nat := (match (performReq (latch s) utag r).2 with | .done st _ => st | _ => 0)
    let pl : Bytes := (match (performReq (latch s) utag r).2 with | .done _ pl => pl | _ => [])
    ((.xor utag : Instr).wellFormed = true) ∧ (Serving s) ∧ (tget? s.dev.reqs utag = some r) ∧ (r.waits = false) ∧ (dedupCode r.code = false ∨ ((recordTags r utag).filterMap (tget? s.dev.dedup) = [] ∧ s.dev.sw.refusing = false ∧ s.dev.dedup.length < 4096)) ∧ (admitReq (latch s) r = .yes) ∧ (r.code = 0x0B) ∧ (performReq (latch s) utag r = (m, .done st pl)) ∧ (owes m (.run utag) = false) ∧ (m.boot = s.dev.boot) ∧ ((answer m utag r st pl).boot = s.dev.boot) ∧ ((answer m utag r st pl).errq.due = []) ∧ ((answer m utag r st pl).tagWait = []) ∧ ((answer m utag r st pl).tagHeld = []) ∧ ((answer m utag r st pl).sw.seen = []) := by
  decide +kernel

theorem witness_FabricAtHome_25 :
    let utag : Nat := 0x5000
    let r : FabIn := ⟨0, 0x0C, 0, 0, 1, 0xFFC4, leBytes 8 0x0909090909090909 ++ leBytes 8 7, false, [], false, 0, [], false, false⟩
    let s : State := stMem (fun d => { d with reqs := [(0x5000, ⟨0, 0x0C, 0, 0, 1, 0xFFC4, leBytes 8 0x0909090909090909 ++ leBytes 8 7, false, [], false, 0, [], false, false⟩)], entries := [(3, ⟨0x5000, [], 8⟩), (4, ⟨1, [], 8⟩)], cache := [(1023, (⟨List.replicate 64 (9 : Byte), false⟩ : CLine)), (5, (⟨List.replicate 64 (9 : Byte), false⟩ : CLine))] })
    let m : Dev := (performReq (latch s) utag r).1
    let st : Nat := (match (performReq (latch s) utag r).2 with | .done st _ => st | _ => 0)
    let pl : Bytes := (match (performReq (latch s) utag r).2 with | .done _ pl => pl | _ => [])
    ((.min utag : Instr).wellFormed = true) ∧ (Serving s) ∧ (tget? s.dev.reqs utag = some r) ∧ (r.waits = false) ∧ (dedupCode r.code = false ∨ ((recordTags r utag).filterMap (tget? s.dev.dedup) = [] ∧ s.dev.sw.refusing = false ∧ s.dev.dedup.length < 4096)) ∧ (admitReq (latch s) r = .yes) ∧ (r.code = 0x0C) ∧ (performReq (latch s) utag r = (m, .done st pl)) ∧ (owes m (.run utag) = false) ∧ (m.boot = s.dev.boot) ∧ ((answer m utag r st pl).boot = s.dev.boot) ∧ ((answer m utag r st pl).errq.due = []) ∧ ((answer m utag r st pl).tagWait = []) ∧ ((answer m utag r st pl).tagHeld = []) ∧ ((answer m utag r st pl).sw.seen = []) := by
  decide +kernel

theorem witness_FabricAtHome_26 :
    let utag : Nat := 0x5000
    let r : FabIn := ⟨0, 0x0D, 0, 0, 1, 0xFFC4, leBytes 8 0x0909090909090909 ++ leBytes 8 7, false, [], false, 0, [], false, false⟩
    let s : State := stMem (fun d => { d with reqs := [(0x5000, ⟨0, 0x0D, 0, 0, 1, 0xFFC4, leBytes 8 0x0909090909090909 ++ leBytes 8 7, false, [], false, 0, [], false, false⟩)], entries := [(3, ⟨0x5000, [], 8⟩), (4, ⟨1, [], 8⟩)], cache := [(1023, (⟨List.replicate 64 (9 : Byte), false⟩ : CLine)), (5, (⟨List.replicate 64 (9 : Byte), false⟩ : CLine))] })
    let m : Dev := (performReq (latch s) utag r).1
    let st : Nat := (match (performReq (latch s) utag r).2 with | .done st _ => st | _ => 0)
    let pl : Bytes := (match (performReq (latch s) utag r).2 with | .done _ pl => pl | _ => [])
    ((.max utag : Instr).wellFormed = true) ∧ (Serving s) ∧ (tget? s.dev.reqs utag = some r) ∧ (r.waits = false) ∧ (dedupCode r.code = false ∨ ((recordTags r utag).filterMap (tget? s.dev.dedup) = [] ∧ s.dev.sw.refusing = false ∧ s.dev.dedup.length < 4096)) ∧ (admitReq (latch s) r = .yes) ∧ (r.code = 0x0D) ∧ (performReq (latch s) utag r = (m, .done st pl)) ∧ (owes m (.run utag) = false) ∧ (m.boot = s.dev.boot) ∧ ((answer m utag r st pl).boot = s.dev.boot) ∧ ((answer m utag r st pl).errq.due = []) ∧ ((answer m utag r st pl).tagWait = []) ∧ ((answer m utag r st pl).tagHeld = []) ∧ ((answer m utag r st pl).sw.seen = []) := by
  decide +kernel

theorem witness_FabricAtHome_27 :
    let utag : Nat := 0x5000
    let r : FabIn := ⟨0, 0x0E, 0, 0, 1, 0xFFC4, leBytes 8 0x0909090909090909 ++ leBytes 8 7, false, [], false, 0, [], false, false⟩
    let s : State := stMem (fun d => { d with reqs := [(0x5000, ⟨0, 0x0E, 0, 0, 1, 0xFFC4, leBytes 8 0x0909090909090909 ++ leBytes 8 7, false, [], false, 0, [], false, false⟩)], entries := [(3, ⟨0x5000, [], 8⟩), (4, ⟨1, [], 8⟩)], cache := [(1023, (⟨List.replicate 64 (9 : Byte), false⟩ : CLine)), (5, (⟨List.replicate 64 (9 : Byte), false⟩ : CLine))] })
    let m : Dev := (performReq (latch s) utag r).1
    let st : Nat := (match (performReq (latch s) utag r).2 with | .done st _ => st | _ => 0)
    let pl : Bytes := (match (performReq (latch s) utag r).2 with | .done _ pl => pl | _ => [])
    ((.umin utag : Instr).wellFormed = true) ∧ (Serving s) ∧ (tget? s.dev.reqs utag = some r) ∧ (r.waits = false) ∧ (dedupCode r.code = false ∨ ((recordTags r utag).filterMap (tget? s.dev.dedup) = [] ∧ s.dev.sw.refusing = false ∧ s.dev.dedup.length < 4096)) ∧ (admitReq (latch s) r = .yes) ∧ (r.code = 0x0E) ∧ (performReq (latch s) utag r = (m, .done st pl)) ∧ (owes m (.run utag) = false) ∧ (m.boot = s.dev.boot) ∧ ((answer m utag r st pl).boot = s.dev.boot) ∧ ((answer m utag r st pl).errq.due = []) ∧ ((answer m utag r st pl).tagWait = []) ∧ ((answer m utag r st pl).tagHeld = []) ∧ ((answer m utag r st pl).sw.seen = []) := by
  decide +kernel

theorem witness_FabricAtHome_28 :
    let utag : Nat := 0x5000
    let r : FabIn := ⟨0, 0x0F, 0, 0, 1, 0xFFC4, leBytes 8 0x0909090909090909 ++ leBytes 8 7, false, [], false, 0, [], false, false⟩
    let s : State := stMem (fun d => { d with reqs := [(0x5000, ⟨0, 0x0F, 0, 0, 1, 0xFFC4, leBytes 8 0x0909090909090909 ++ leBytes 8 7, false, [], false, 0, [], false, false⟩)], entries := [(3, ⟨0x5000, [], 8⟩), (4, ⟨1, [], 8⟩)], cache := [(1023, (⟨List.replicate 64 (9 : Byte), false⟩ : CLine)), (5, (⟨List.replicate 64 (9 : Byte), false⟩ : CLine))] })
    let m : Dev := (performReq (latch s) utag r).1
    let st : Nat := (match (performReq (latch s) utag r).2 with | .done st _ => st | _ => 0)
    let pl : Bytes := (match (performReq (latch s) utag r).2 with | .done _ pl => pl | _ => [])
    ((.umax utag : Instr).wellFormed = true) ∧ (Serving s) ∧ (tget? s.dev.reqs utag = some r) ∧ (r.waits = false) ∧ (dedupCode r.code = false ∨ ((recordTags r utag).filterMap (tget? s.dev.dedup) = [] ∧ s.dev.sw.refusing = false ∧ s.dev.dedup.length < 4096)) ∧ (admitReq (latch s) r = .yes) ∧ (r.code = 0x0F) ∧ (performReq (latch s) utag r = (m, .done st pl)) ∧ (owes m (.run utag) = false) ∧ (m.boot = s.dev.boot) ∧ ((answer m utag r st pl).boot = s.dev.boot) ∧ ((answer m utag r st pl).errq.due = []) ∧ ((answer m utag r st pl).tagWait = []) ∧ ((answer m utag r st pl).tagHeld = []) ∧ ((answer m utag r st pl).sw.seen = []) := by
  decide +kernel

theorem witness_FabricAtHome_29 :
    let utag : Nat := 0x5000
    let r : FabIn := ⟨0, 0x10, 0, 0, 1, 0xFFC4, leBytes 8 0x0909090909090909 ++ leBytes 8 7, false, [], false, 0, [], false, false⟩
    let s : State := stMem (fun d => { d with reqs := [(0x5000, ⟨0, 0x10, 0, 0, 1, 0xFFC4, leBytes 8 0x0909090909090909 ++ leBytes 8 7, false, [], false, 0, [], false, false⟩)], entries := [(3, ⟨0x5000, [], 8⟩), (4, ⟨1, [], 8⟩)], cache := [(1023, (⟨List.replicate 64 (9 : Byte), false⟩ : CLine)), (5, (⟨List.replicate 64 (9 : Byte), false⟩ : CLine))] })
    let m : Dev := (performReq (latch s) utag r).1
    let st : Nat := (match (performReq (latch s) utag r).2 with | .done st _ => st | _ => 0)
    let pl : Bytes := (match (performReq (latch s) utag r).2 with | .done _ pl => pl | _ => [])
    ((.swap utag : Instr).wellFormed = true) ∧ (Serving s) ∧ (tget? s.dev.reqs utag = some r) ∧ (r.waits = false) ∧ (dedupCode r.code = false ∨ ((recordTags r utag).filterMap (tget? s.dev.dedup) = [] ∧ s.dev.sw.refusing = false ∧ s.dev.dedup.length < 4096)) ∧ (admitReq (latch s) r = .yes) ∧ (r.code = 0x10) ∧ (performReq (latch s) utag r = (m, .done st pl)) ∧ (owes m (.run utag) = false) ∧ (m.boot = s.dev.boot) ∧ ((answer m utag r st pl).boot = s.dev.boot) ∧ ((answer m utag r st pl).errq.due = []) ∧ ((answer m utag r st pl).tagWait = []) ∧ ((answer m utag r st pl).tagHeld = []) ∧ ((answer m utag r st pl).sw.seen = []) := by
  decide +kernel

theorem witness_FabricAtHome_30 :
    let utag : Nat := 0x5000
    let r : FabIn := ⟨0, 0x11, 0, 0, 1, 0xFFC4, leBytes 8 0x0909090909090909 ++ leBytes 8 7, false, [], false, 0, [], false, false⟩
    let s : State := stMem (fun d => { d with reqs := [(0x5000, ⟨0, 0x11, 0, 0, 1, 0xFFC4, leBytes 8 0x0909090909090909 ++ leBytes 8 7, false, [], false, 0, [], false, false⟩)], entries := [(3, ⟨0x5000, [], 8⟩), (4, ⟨1, [], 8⟩)], cache := [(1023, (⟨List.replicate 64 (9 : Byte), false⟩ : CLine)), (5, (⟨List.replicate 64 (9 : Byte), false⟩ : CLine))] })
    let m : Dev := (performReq (latch s) utag r).1
    let st : Nat := (match (performReq (latch s) utag r).2 with | .done st _ => st | _ => 0)
    let pl : Bytes := (match (performReq (latch s) utag r).2 with | .done _ pl => pl | _ => [])
    ((.cas utag : Instr).wellFormed = true) ∧ (Serving s) ∧ (tget? s.dev.reqs utag = some r) ∧ (r.waits = false) ∧ (dedupCode r.code = false ∨ ((recordTags r utag).filterMap (tget? s.dev.dedup) = [] ∧ s.dev.sw.refusing = false ∧ s.dev.dedup.length < 4096)) ∧ (admitReq (latch s) r = .yes) ∧ (r.code = 0x11) ∧ (performReq (latch s) utag r = (m, .done st pl)) ∧ (owes m (.run utag) = false) ∧ (m.boot = s.dev.boot) ∧ ((answer m utag r st pl).boot = s.dev.boot) ∧ ((answer m utag r st pl).errq.due = []) ∧ ((answer m utag r st pl).tagWait = []) ∧ ((answer m utag r st pl).tagHeld = []) ∧ ((answer m utag r st pl).sw.seen = []) := by
  decide +kernel

theorem witness_FabricAtHome_31 :
    let utag : Nat := 0x5000
    let r : FabIn := ⟨0, 0x12, 0, 0, 0, 0xFFC0, cellOf ⟨5, 1, 0⟩, false, [], false, 0, [], false, false⟩
    let s : State := stMem (fun d => { d with reqs := [(0x5000, ⟨0, 0x12, 0, 0, 0, 0xFFC0, cellOf ⟨5, 1, 0⟩, false, [], false, 0, [], false, false⟩)], entries := [(3, ⟨0x5000, [], 8⟩), (4, ⟨1, [], 8⟩)], cache := [(1023, (⟨List.replicate 64 (9 : Byte), false⟩ : CLine)), (5, (⟨List.replicate 64 (9 : Byte), false⟩ : CLine))] })
    let m : Dev := (performReq (latch s) utag r).1
    let st : Nat := (match (performReq (latch s) utag r).2 with | .done st _ => st | _ => 0)
    let pl : Bytes := (match (performReq (latch s) utag r).2 with | .done _ pl => pl | _ => [])
    ((.exactAdd utag : Instr).wellFormed = true) ∧ (Serving s) ∧ (tget? s.dev.reqs utag = some r) ∧ (r.waits = false) ∧ (dedupCode r.code = false ∨ ((recordTags r utag).filterMap (tget? s.dev.dedup) = [] ∧ s.dev.sw.refusing = false ∧ s.dev.dedup.length < 4096)) ∧ (admitReq (latch s) r = .yes) ∧ (r.code = 0x12) ∧ (performReq (latch s) utag r = (m, .done st pl)) ∧ (owes m (.run utag) = false) ∧ (m.boot = s.dev.boot) ∧ ((answer m utag r st pl).boot = s.dev.boot) ∧ ((answer m utag r st pl).errq.due = []) ∧ ((answer m utag r st pl).tagWait = []) ∧ ((answer m utag r st pl).tagHeld = []) ∧ ((answer m utag r st pl).sw.seen = []) := by
  decide +kernel

theorem witness_FabricAtHome_32 :
    let utag : Nat := 0x5000
    let r : FabIn := ⟨0, 0x18, 0, 0, 0, 0x80, leBytes 8 0x1122334455667788 ++ leBytes 4 2 ++ zeros 4, false, [], false, 0, [], false, false⟩
    let s : State := stMem (fun d => { d with reqs := [(0x5000, ⟨0, 0x18, 0, 0, 0, 0x80, leBytes 8 0x1122334455667788 ++ leBytes 4 2 ++ zeros 4, false, [], false, 0, [], false, false⟩)], entries := [(3, ⟨0x5000, [], 8⟩), (4, ⟨1, [], 8⟩)], cache := [(1023, (⟨List.replicate 64 (9 : Byte), false⟩ : CLine)), (5, (⟨List.replicate 64 (9 : Byte), false⟩ : CLine))] })
    let m : Dev := (performReq (latch s) utag r).1
    let st : Nat := (match (performReq (latch s) utag r).2 with | .done st _ => st | _ => 0)
    let pl : Bytes := (match (performReq (latch s) utag r).2 with | .done _ pl => pl | _ => [])
    ((.fillRun utag : Instr).wellFormed = true) ∧ (Serving s) ∧ (tget? s.dev.reqs utag = some r) ∧ (r.waits = false) ∧ (dedupCode r.code = false ∨ ((recordTags r utag).filterMap (tget? s.dev.dedup) = [] ∧ s.dev.sw.refusing = false ∧ s.dev.dedup.length < 4096)) ∧ (admitReq (latch s) r = .yes) ∧ (r.code = 0x18) ∧ (performReq (latch s) utag r = (m, .done st pl)) ∧ (owes m (.run utag) = false) ∧ (m.boot = s.dev.boot) ∧ ((answer m utag r st pl).boot = s.dev.boot) ∧ ((answer m utag r st pl).errq.due = []) ∧ ((answer m utag r st pl).tagWait = []) ∧ ((answer m utag r st pl).tagHeld = []) ∧ ((answer m utag r st pl).sw.seen = []) := by
  decide +kernel

theorem witness_FabricAtHome_33 :
    let utag : Nat := 0x5000
    let r : FabIn := ⟨0, 0x19, 0, 0, 0, 0x80, leBytes 8 0x140 ++ leBytes 4 2 ++ zeros 4, false, [], false, 0, [], false, false⟩
    let s : State := stMem (fun d => { d with reqs := [(0x5000, ⟨0, 0x19, 0, 0, 0, 0x80, leBytes 8 0x140 ++ leBytes 4 2 ++ zeros 4, false, [], false, 0, [], false, false⟩)], entries := [(3, ⟨0x5000, [], 8⟩), (4, ⟨1, [], 8⟩)], cache := [(1023, (⟨List.replicate 64 (9 : Byte), false⟩ : CLine)), (5, (⟨List.replicate 64 (9 : Byte), false⟩ : CLine))] })
    let m : Dev := (performReq (latch s) utag r).1
    let st : Nat := (match (performReq (latch s) utag r).2 with | .done st _ => st | _ => 0)
    let pl : Bytes := (match (performReq (latch s) utag r).2 with | .done _ pl => pl | _ => [])
    ((.copyRun utag : Instr).wellFormed = true) ∧ (Serving s) ∧ (tget? s.dev.reqs utag = some r) ∧ (r.waits = false) ∧ (dedupCode r.code = false ∨ ((recordTags r utag).filterMap (tget? s.dev.dedup) = [] ∧ s.dev.sw.refusing = false ∧ s.dev.dedup.length < 4096)) ∧ (admitReq (latch s) r = .yes) ∧ (r.code = 0x19) ∧ (performReq (latch s) utag r = (m, .done st pl)) ∧ (owes m (.run utag) = false) ∧ (m.boot = s.dev.boot) ∧ ((answer m utag r st pl).boot = s.dev.boot) ∧ ((answer m utag r st pl).errq.due = []) ∧ ((answer m utag r st pl).tagWait = []) ∧ ((answer m utag r st pl).tagHeld = []) ∧ ((answer m utag r st pl).sw.seen = []) := by
  decide +kernel

theorem witness_FabricAtHome_34 :
    let utag : Nat := 0x5000
    let r : FabIn := ⟨0, 0x1A, 0, 0, 0, 0x80, leBytes 8 0x140 ++ leBytes 4 2 ++ [4], false, [], false, 0, [], false, false⟩
    let s : State := stMem (fun d => { d with reqs := [(0x5000, ⟨0, 0x1A, 0, 0, 0, 0x80, leBytes 8 0x140 ++ leBytes 4 2 ++ [4], false, [], false, 0, [], false, false⟩)], entries := [(3, ⟨0x5000, [], 8⟩), (4, ⟨1, [], 8⟩)], cache := [(1023, (⟨List.replicate 64 (9 : Byte), false⟩ : CLine)), (5, (⟨List.replicate 64 (9 : Byte), false⟩ : CLine))] })
    let m : Dev := (performReq (latch s) utag r).1
    let st : Nat := (match (performReq (latch s) utag r).2 with | .done st _ => st | _ => 0)
    let pl : Bytes := (match (performReq (latch s) utag r).2 with | .done _ pl => pl | _ => [])
    ((.compareRun utag : Instr).wellFormed = true) ∧ (Serving s) ∧ (tget? s.dev.reqs utag = some r) ∧ (r.waits = false) ∧ (dedupCode r.code = false ∨ ((recordTags r utag).filterMap (tget? s.dev.dedup) = [] ∧ s.dev.sw.refusing = false ∧ s.dev.dedup.length < 4096)) ∧ (admitReq (latch s) r = .yes) ∧ (r.code = 0x1A) ∧ (performReq (latch s) utag r = (m, .done st pl)) ∧ (owes m (.run utag) = false) ∧ (m.boot = s.dev.boot) ∧ ((answer m utag r st pl).boot = s.dev.boot) ∧ ((answer m utag r st pl).errq.due = []) ∧ ((answer m utag r st pl).tagWait = []) ∧ ((answer m utag r st pl).tagHeld = []) ∧ ((answer m utag r st pl).sw.seen = []) := by
  decide +kernel

theorem witness_FabricAtHome_35 :
    let utag : Nat := 0x5000
    let r : FabIn := ⟨0, 0x1B, 0, 0, 0, 0xFFC0, cellOf ⟨5, 1, 0⟩ ++ cellOf ⟨6, 1, 0⟩, false, [], false, 0, [], false, false⟩
    let s : State := stMem (fun d => { d with reqs := [(0x5000, ⟨0, 0x1B, 0, 0, 0, 0xFFC0, cellOf ⟨5, 1, 0⟩ ++ cellOf ⟨6, 1, 0⟩, false, [], false, 0, [], false, false⟩)], entries := [(3, ⟨0x5000, [], 8⟩), (4, ⟨1, [], 8⟩)], cache := [(1023, (⟨List.replicate 64 (9 : Byte), false⟩ : CLine)), (5, (⟨List.replicate 64 (9 : Byte), false⟩ : CLine))] })
    let m : Dev := (performReq (latch s) utag r).1
    let st : Nat := (match (performReq (latch s) utag r).2 with | .done st _ => st | _ => 0)
    let pl : Bytes := (match (performReq (latch s) utag r).2 with | .done _ pl => pl | _ => [])
    ((.reducePart utag : Instr).wellFormed = true) ∧ (Serving s) ∧ (tget? s.dev.reqs utag = some r) ∧ (r.waits = false) ∧ (dedupCode r.code = false ∨ ((recordTags r utag).filterMap (tget? s.dev.dedup) = [] ∧ s.dev.sw.refusing = false ∧ s.dev.dedup.length < 4096)) ∧ (admitReq (latch s) r = .yes) ∧ (r.code = 0x1B) ∧ (performReq (latch s) utag r = (m, .done st pl)) ∧ (owes m (.run utag) = false) ∧ (m.boot = s.dev.boot) ∧ ((answer m utag r st pl).boot = s.dev.boot) ∧ ((answer m utag r st pl).errq.due = []) ∧ ((answer m utag r st pl).tagWait = []) ∧ ((answer m utag r st pl).tagHeld = []) ∧ ((answer m utag r st pl).sw.seen = []) := by
  decide +kernel

theorem witness_FabricRefusalsAndTimers_1 :
    let utag : Nat := 0x5000
    let r : FabIn := ⟨0, 1, 0, 0, 0, 0x7FFFFFC0, leBytes 8 1, false, [], false, 0, [], false, false⟩
    let s : State := stMem (fun d => { d with reqs := [(0x5000, ⟨0, 1, 0, 0, 0, 0x7FFFFFC0, leBytes 8 1, false, [], false, 0, [], false, false⟩)], entries := [(3, ⟨0x5000, [], 8⟩), (4, ⟨1, [], 8⟩)], cache := [(1023, (⟨List.replicate 64 (9 : Byte), false⟩ : CLine)), (5, (⟨List.replicate 64 (9 : Byte), false⟩ : CLine))] })
    ((.write utag : Instr).wellFormed = true) ∧ (Serving s) ∧ (mirrorsOn s.dev = false) ∧ (tget? s.dev.reqs utag = some r) ∧ (r.waits = false) ∧ (r.members = []) ∧ (r.kind < 4) ∧ (admitReq (latch s) r = .yes) ∧ (owes s.dev (.run utag) = false) ∧ (r.code = 0x01) ∧ (floeOn s.dev (homeFloe (pageOfLine (r.addr / 64))) = true) ∧ ((pageOf s.dev (pageOfLine (r.addr / 64))).tier = 0) := by
  decide +kernel

theorem witness_FabricRefusalsAndTimers_2 :
    let utag : Nat := 0x5000
    let r : FabIn := ⟨0, 8, 0, 0, 0, 0xFFF8, leBytes 8 1, false, [], false, 0, [], false, false⟩
    let s : State := stMem (fun d => { d with reqs := [(0x5000, ⟨0, 8, 0, 0, 0, 0xFFF8, leBytes 8 1, false, [], false, 0, [], false, false⟩)], entries := [(3, ⟨0x5000, [], 8⟩), (4, ⟨1, [], 8⟩)], cache := [(1023, (⟨List.replicate 64 (9 : Byte), false⟩ : CLine)), (5, (⟨List.replicate 64 (9 : Byte), false⟩ : CLine))], mbr := { d.mbr with map := { d.mbr.map with epoch := 5 } } })
    let st : Nat := 0x32
    ((.add utag : Instr).wellFormed = true) ∧ (Serving s) ∧ (mirrorsOn s.dev = false) ∧ (tget? s.dev.reqs utag = some r) ∧ (r.waits = false) ∧ (r.members = []) ∧ (r.kind < 4) ∧ (r.code = 0x08) ∧ (r.payload.length = 8) ∧ (tget? s.dev.dedup utag = none) ∧ (s.dev.sw.refusing = false) ∧ (s.dev.dedup.length < 4096) ∧ (admitReq (latch s) r = .no st) ∧ (st = 0x32) := by
  decide +kernel

theorem witness_FabricRefusalsAndTimers_3 :
    let utag : Nat := 0x5000
    let r : FabIn := ⟨0, 8, 0, 0, 3, 0xFFF8, leBytes 8 1, false, [], false, 0, [], false, false⟩
    let s : State := stMem (fun d => { d with reqs := [(0x5000, ⟨0, 8, 0, 0, 3, 0xFFF8, leBytes 8 1, false, [], false, 0, [], false, false⟩)], entries := [(3, ⟨0x5000, [], 8⟩), (4, ⟨1, [], 8⟩)], cache := [(1023, (⟨List.replicate 64 (9 : Byte), false⟩ : CLine)), (5, (⟨List.replicate 64 (9 : Byte), false⟩ : CLine))], dedup := [(0x5000, ⟨0, leBytes 8 7, true⟩)] })
    let e : Dedup := (⟨0, leBytes 8 7, true⟩ : Dedup)
    ((.add utag : Instr).wellFormed = true) ∧ (Serving s) ∧ (mirrorsOn s.dev = false) ∧ (tget? s.dev.reqs utag = some r) ∧ (r.waits = false) ∧ (r.members = []) ∧ (r.kind < 4) ∧ (r.code = 0x08) ∧ (r.payload.length = 8) ∧ (tget? s.dev.dedup utag = some e) ∧ (e.acked = true) := by
  decide +kernel

theorem witness_FabricRefusalsAndTimers_4 :
    let utag : Nat := 0x5000
    let r : FabIn := ⟨0, 8, 0, 0, 0, 0xFFF8, leBytes 8 1, false, [], false, 0, [], false, false⟩
    let s : State := stMem (fun d => { d with reqs := [(0x5000, ⟨0, 8, 0, 0, 0, 0xFFF8, leBytes 8 1, false, [], false, 0, [], false, false⟩)], entries := [(3, ⟨0x5000, [], 8⟩), (4, ⟨1, [], 8⟩)], cache := [(1023, (⟨List.replicate 64 (9 : Byte), false⟩ : CLine)), (5, (⟨List.replicate 64 (9 : Byte), false⟩ : CLine))], sw := { d.sw with refusing := true } })
    ((.add utag : Instr).wellFormed = true) ∧ (Serving s) ∧ (mirrorsOn s.dev = false) ∧ (tget? s.dev.reqs utag = some r) ∧ (r.waits = false) ∧ (r.members = []) ∧ (r.kind < 4) ∧ (r.code = 0x08) ∧ (r.payload.length = 8) ∧ (tget? s.dev.dedup utag = none) ∧ (s.dev.sw.refusing = true) := by
  decide +kernel

theorem witness_FabricRefusalsAndTimers_5 :
    let utag : Nat := 0x5000
    let r : FabIn := ⟨0, 0x10, 0, 0, 0, 0xFFF8, leBytes 8 1, false, [], false, 0, [], false, false⟩
    let s : State := stMem (fun d => { d with reqs := [(0x5000, ⟨0, 0x10, 0, 0, 0, 0xFFF8, leBytes 8 1, false, [], false, 0, [], false, false⟩)], entries := [(3, ⟨0x5000, [], 8⟩), (4, ⟨1, [], 8⟩)], cache := [(1023, (⟨List.replicate 64 (9 : Byte), false⟩ : CLine)), (5, (⟨List.replicate 64 (9 : Byte), false⟩ : CLine))], dedup := (List.range 4096).map (fun i => (i, ⟨0, [], true⟩)) })
    ((.swap utag : Instr).wellFormed = true) ∧ (Serving s) ∧ (mirrorsOn s.dev = false) ∧ (tget? s.dev.reqs utag = some r) ∧ (r.waits = false) ∧ (r.members = []) ∧ (r.kind < 4) ∧ (r.code = 0x10) ∧ (tget? s.dev.dedup utag = none) ∧ (s.dev.sw.refusing = false) ∧ (4096 ≤ s.dev.dedup.length) ∧ (openOf s.dev.errq 8 0 = none) := by
  decide +kernel

theorem witness_FabricRefusalsAndTimers_6 :
    let tag : Nat := 4095
    let c : Cmd := cmdWith 0x20 [] 4
    let s : State := stGal { galUp with state := 1 } (fun d => { d with cmds := [(4095, cmdWith 0x20 [] 4)], fab := [(0x5000, ⟨1, 9, 0x40, 1, 0, 0, [], .cmd 4095, 1, 0, [], false, false, 0, 0, 0, 0, 15, [], 0, []⟩)], acks := [(0x5000, ⟨0, 0, 0, 0, 0, 0, [], false, [], false, 0, [], false, false⟩)] })
    let utag : Nat := 0x5000
    let a : FabIn := ⟨0, 0, 0, 0, 0, 0, [], false, [], false, 0, [], false, false⟩
    let q : FabReq := (⟨1, 9, 0x40, 1, 0, 0, [], .cmd 4095, 1, 0, [], false, false, 0, 0, 0, 0, 15, [], 0, []⟩ : FabReq)
    ((.fabricAck utag : Instr).wellFormed = true) ∧ (Serving s) ∧ (mirrorsOn s.dev = false) ∧ (tget? s.dev.acks utag = some a) ∧ (a.error = false) ∧ (s.dev.combs = []) ∧ (s.dev.fab = [(utag, q)]) ∧ (q.owner = .cmd tag) ∧ (cmdOf s.dev tag = some c) ∧ (c.phase = 4) ∧ (okStatus c.status = true) ∧ (q.owed = true) ∧ (q.attempts ≤ 1) ∧ (q.code ≠ 0) ∧ (c.opcode ≠ 8 ∨ bitOf (c.f 34 1) 1 = false ∨ 2 ^ 40 ≤ c.pos) ∧ (owes { s.dev with fab := [] } (.cmd tag) = false) ∧ (galleyExists s.dev c.ctx c.g = true) ∧ ((galleyOf s.dev c.ctx c.g).done = []) := by
  decide +kernel

theorem witness_FabricRefusalsAndTimers_7 :
    let tag : Nat := 4095
    let c : Cmd := cmdWith 0x20 [] 4
    let s : State := stGal { galUp with state := 1 } (fun d => { d with cmds := [(4095, cmdWith 0x20 [] 4)], fab := [(0x5000, ⟨1, 9, 0x40, 1, 0, 0, [], .cmd 4095, 2, 0, [], false, false, 0, 0, 0, 0, 15, [], 0, []⟩)], acks := [(0x5000, ⟨0, 0, 0, 0, 0, 0, [], false, [], false, 0, [], false, false⟩)] })
    let utag : Nat := 0x5000
    let a : FabIn := ⟨0, 0, 0, 0, 0, 0, [], false, [], false, 0, [], false, false⟩
    let q : FabReq := (⟨1, 9, 0x40, 1, 0, 0, [], .cmd 4095, 2, 0, [], false, false, 0, 0, 0, 0, 15, [], 0, []⟩ : FabReq)
    ((.fabricAck utag : Instr).wellFormed = true) ∧ (Serving s) ∧ (mirrorsOn s.dev = false) ∧ (tget? s.dev.acks utag = some a) ∧ (a.error = false) ∧ (s.dev.combs = []) ∧ (s.dev.fab = [(utag, q)]) ∧ (q.owner = .cmd tag) ∧ (cmdOf s.dev tag = some c) ∧ (c.phase = 4) ∧ (okStatus c.status = true) ∧ (q.owed = true) ∧ (2 ≤ q.attempts) ∧ (q.code ≠ 0) ∧ (c.opcode ≠ 8 ∨ bitOf (c.f 34 1) 1 = false ∨ 2 ^ 40 ≤ c.pos) ∧ (owes { s.dev with fab := [] } (.cmd tag) = false) ∧ (galleyExists s.dev c.ctx c.g = true) ∧ ((galleyOf s.dev c.ctx c.g).done = []) := by
  decide +kernel

theorem witness_FabricRefusalsAndTimers_8 :
    let tag : Nat := 4095
    let c : Cmd := cmdWith 0x20 [] 4
    let s : State := stGal { galUp with state := 1 } (fun d => { d with cmds := [(4095, cmdWith 0x20 [] 4)], fab := [(0x5000, ⟨1, 9, 0x40, 1, 0, 0, [], .cmd 4095, 1, 0, [], false, false, 0, 0, 0, 0, 15, [], 0, []⟩)], acks := [(0x5000, { (⟨0, 0x20, 0, 0, 0, 0, [], false, [], false, 0, [], false, false⟩ : FabIn) with error := true })] })
    let utag : Nat := 0x5000
    let a : FabIn := ({ (⟨0, 0x20, 0, 0, 0, 0, [], false, [], false, 0, [], false, false⟩ : FabIn) with error := true })
    let q : FabReq := (⟨1, 9, 0x40, 1, 0, 0, [], .cmd 4095, 1, 0, [], false, false, 0, 0, 0, 0, 15, [], 0, []⟩ : FabReq)
    ((.fabricAck utag : Instr).wellFormed = true) ∧ (Serving s) ∧ (mirrorsOn s.dev = false) ∧ (tget? s.dev.acks utag = some a) ∧ (a.error = true) ∧ (a.code = 0x20) ∧ (s.dev.combs = []) ∧ (s.dev.fab = [(utag, q)]) ∧ (q.owner = .cmd tag) ∧ (cmdOf s.dev tag = some c) ∧ (c.phase = 4) ∧ (c.status = 0) ∧ (q.code = 1) ∧ (q.owed = true) ∧ (q.attempts ≤ 1) ∧ (c.opcode ≠ 8 ∨ bitOf (c.f 34 1) 1 = false ∨ 2 ^ 40 ≤ c.pos) ∧ (c.coding = false) ∧ (owes { s.dev with fab := [] } (.cmd tag) = false) ∧ (galleyExists s.dev c.ctx c.g = true) ∧ ((galleyOf s.dev c.ctx c.g).done = []) := by
  decide +kernel

theorem witness_FabricRefusalsAndTimers_9 :
    let utag : Nat := 0x5000
    let q : FabReq := (⟨1, 9, 0x40, 1, 0, 0, [], .none, 1, 0, [], false, false, 0, 0, 0, 0, 15, [], 0, []⟩ : FabReq)
    let s : State := stWith (fun d => { d with fab := [(0x5000, ⟨1, 9, 0x40, 1, 0, 0, [], .none, 1, 0, [], false, false, 0, 0, 0, 0, 15, [], 0, []⟩)] })
    ((.fabricTimeout utag : Instr).wellFormed = true) ∧ (Serving s) ∧ (mirrorsOn s.dev = false) ∧ (tget? s.dev.fab utag = some q) ∧ (q.held = false) ∧ (q.attempts ≤ q.retry) ∧ (s.clk.time ≤ q.first + 4000000) ∧ (q.owed = true) ∧ (q.owner ≠ .mirror) := by
  decide +kernel

theorem witness_FabricRefusalsAndTimers_10 :
    let tag : Nat := 4095
    let c : Cmd := cmdWith 0x20 [] 4
    let s : State := stGal { galUp with state := 1 } (fun d => { d with cmds := [(4095, cmdWith 0x20 [] 4)], fab := [(0x5000, ⟨1, 9, 0x40, 1, 0, 0, [], .cmd 4095, 16, 0, [], false, false, 0, 0, 0, 0, 15, [], 0, []⟩)] })
    let utag : Nat := 0x5000
    let q : FabReq := (⟨1, 9, 0x40, 1, 0, 0, [], .cmd 4095, 16, 0, [], false, false, 0, 0, 0, 0, 15, [], 0, []⟩ : FabReq)
    ((.fabricTimeout utag : Instr).wellFormed = true) ∧ (Serving s) ∧ (mirrorsOn s.dev = false) ∧ (s.dev.fab = [(utag, q)]) ∧ (q.held = false) ∧ (q.retry < q.attempts ∨ q.first + 4000000 < s.clk.time) ∧ (q.owed = true) ∧ (q.code = 1) ∧ (c.opcode ≠ 8 ∨ bitOf (c.f 34 1) 1 = false ∨ 2 ^ 40 ≤ c.pos) ∧ (c.coding = false) ∧ (openOf s.dev.errq 1 (utag / 1024 % 4) = none) ∧ (q.owner = .cmd tag) ∧ (cmdOf s.dev tag = some c) ∧ (c.phase = 4) ∧ (c.status = 0) ∧ (owes { s.dev with fab := [] } (.cmd tag) = false) ∧ (galleyExists s.dev c.ctx c.g = true) ∧ ((galleyOf s.dev c.ctx c.g).done = []) := by
  decide +kernel

theorem witness_FabricRefusalsAndTimers_11 :
    let utag : Nat := 0x5000
    let q : FabReq := (⟨1, 9, 0x40, 1, 0, 0, [], .none, 1, 0, [], true, true, 0, 0, 0, 0, 15, [], 0, []⟩ : FabReq)
    let s : State := stWith (fun d => { d with fab := [(0x5000, ⟨1, 9, 0x40, 1, 0, 0, [], .none, 1, 0, [], true, true, 0, 0, 0, 0, 15, [], 0, []⟩)] })
    ((.finalWriteRelease utag : Instr).wellFormed = true) ∧ (Serving s) ∧ (mirrorsOn s.dev = false) ∧ (tget? s.dev.fab utag = some q) ∧ (q.held = true) ∧ (q.final = true) ∧ (q.after = []) ∧ (q.bad = 0) ∧ (q.prog = 0) ∧ (retried s.dev q.reads = false) ∧ (q.dst ≠ selfNode s.dev) ∧ (fabFull s.dev = false) := by
  decide +kernel

theorem witness_FabricRefusalsAndTimers_12 :
    let utag : Nat := 0x5000
    let k : Nat := 7
    let q : FabReq := (⟨1, 9, 0x40, 1, 0, 0, [], .none, 1, 0, [7], true, true, 0, 0, 0, 0, 15, [], 0, []⟩ : FabReq)
    let s : State := stWith (fun d => { d with fab := [(0x5000, ⟨1, 9, 0x40, 1, 0, 0, [], .none, 1, 0, [7], true, true, 0, 0, 0, 0, 15, [], 0, []⟩)] })
    ((.finalWriteRelease utag : Instr).wellFormed = true) ∧ (Serving s) ∧ (tget? s.dev.fab utag = some q) ∧ (q.held = true) ∧ (q.final = true) ∧ (q.after = [k]) := by
  decide +kernel

theorem witness_FabricRefusalsAndTimers_13 :
    let utag : Nat := 0x5000
    let q : FabReq := (⟨1, 9, 0x40, 1, 0, 0, [], .none, 1, 0, [], true, true, 0, 0x20, 0, 0, 15, [], 0, []⟩ : FabReq)
    let s : State := stWith (fun d => { d with fab := [(0x5000, ⟨1, 9, 0x40, 1, 0, 0, [], .none, 1, 0, [], true, true, 0, 0x20, 0, 0, 15, [], 0, []⟩)] })
    ((.finalWriteRelease utag : Instr).wellFormed = true) ∧ (Serving s) ∧ (tget? s.dev.fab utag = some q) ∧ (q.held = true) ∧ (q.final = true ∨ q.dst = selfNode s.dev) ∧ (q.after = []) ∧ (q.prog = 0) ∧ (retried s.dev q.reads = false) ∧ (q.final = true) ∧ (q.bad ≠ 0) ∧ ((endReq (latch s) utag q q.bad []).boot = s.dev.boot) ∧ ((endReq (latch s) utag q q.bad []).errq.due = []) ∧ ((endReq (latch s) utag q q.bad []).tagWait = []) ∧ ((endReq (latch s) utag q q.bad []).tagHeld = []) ∧ ((endReq (latch s) utag q q.bad []).sw.seen = []) := by
  decide +kernel

theorem witness_FabricRefusalsAndTimers_14 :
    let utag : Nat := 0x5000
    let q : FabReq := (⟨1, 0, 0x40, 1, 0, 0, [], .none, 1, 0, [], true, true, 0, 0, 0, 0, 15, [], 0, []⟩ : FabReq)
    let s : State := stWith (fun d => { d with fab := [(0x5000, ⟨1, 0, 0x40, 1, 0, 0, [], .none, 1, 0, [], true, true, 0, 0, 0, 0, 15, [], 0, []⟩)], pages := [(0, { Page.unplaced with tier := 1 })] })
    ((.finalWriteRelease utag : Instr).wellFormed = true) ∧ (Serving s) ∧ (tget? s.dev.fab utag = some q) ∧ (q.held = true) ∧ (q.final = true ∨ q.dst = selfNode s.dev) ∧ (q.after = []) ∧ (q.prog = 0) ∧ (retried s.dev q.reads = false) ∧ (q.final = true → q.bad = 0) ∧ (q.dst = selfNode s.dev) ∧ ((pageOf s.dev (pageOfLine q.line)).tier ≠ 3) ∧ ((performFinal (latch s) utag q).boot = s.dev.boot) ∧ ((performFinal (latch s) utag q).errq.due = []) ∧ ((performFinal (latch s) utag q).tagWait = []) ∧ ((performFinal (latch s) utag q).tagHeld = []) ∧ ((performFinal (latch s) utag q).sw.seen = []) := by
  decide +kernel

theorem witness_FabricRefusalsAndTimers_15 :
    let utag : Nat := 0x5000
    let q : FabReq := (⟨1, 0, 0x40, 1, 0, 0, [], .none, 1, 0, [], true, true, 0, 0, 0, 0, 15, [], 0, []⟩ : FabReq)
    let s : State := stWith (fun d => { d with fab := [(0x5000, ⟨1, 0, 0x40, 1, 0, 0, [], .none, 1, 0, [], true, true, 0, 0, 0, 0, 15, [], 0, []⟩)], pages := [(0, { Page.unplaced with tier := 3, node := 9 })] })
    ((.finalWriteRelease utag : Instr).wellFormed = true) ∧ (Serving s) ∧ (tget? s.dev.fab utag = some q) ∧ (q.held = true) ∧ (q.final = true ∨ q.dst = selfNode s.dev) ∧ (q.after = []) ∧ (q.prog = 0) ∧ (retried s.dev q.reads = false) ∧ (q.final = true → q.bad = 0) ∧ (q.dst = selfNode s.dev) ∧ ((pageOf s.dev (pageOfLine q.line)).tier = 3) ∧ (fabFull s.dev = false) ∧ ((reissue (latch s) utag { q with held := false }).boot = s.dev.boot) ∧ ((reissue (latch s) utag { q with held := false }).errq.due = []) ∧ ((reissue (latch s) utag { q with held := false }).tagWait = []) ∧ ((reissue (latch s) utag { q with held := false }).tagHeld = []) ∧ ((reissue (latch s) utag { q with held := false }).sw.seen = []) := by
  decide +kernel

theorem witness_FabricRefusalsAndTimers_16 :
    let ga : Nat := 0x1C7
    let s : State := stWith (fun d => { d with entries := [(3, ⟨1, [], 8⟩), (7, ⟨2, [], 8⟩)], fwdReads := [(7, ⟨2, [], 8⟩)] })
    ((.readCombineExpire ga : Instr).wellFormed = true) ∧ (Serving s) := by
  decide +kernel

theorem witness_FabricRefusalsAndTimers_17 :
    let ga : Nat := 0x48
    let k : Nat := 0x48 * 1024 + 33
    let g : AtomGroup := (⟨8, 1, leBytes 8 5, [(0x5000, 0), (0x6000, 0)], [0x5000, 0x6000], 0, 8⟩ : AtomGroup)
    let m : Nat × Nat := ((0x5000, 0) : Nat × Nat)
    let s : State := stWith (fun d => { d with groups := [(0x48 * 1024 + 33, ⟨8, 1, leBytes 8 5, [(0x5000, 0), (0x6000, 0)], [0x5000, 0x6000], 0, 8⟩)] })
    ((.atomicHoldExpire ga : Instr).wellFormed = true) ∧ (Serving s) ∧ (s.dev.groups = [(k, g)]) ∧ (k / 1024 = ga) ∧ (g.members.head? = some m) := by
  decide +kernel

theorem witness_FabricRefusalsAndTimers_18 :
    let utag : Nat := 9
    let e : Dedup := (⟨0, [], true⟩ : Dedup)
    let s : State := stWith (fun d => { d with dedup := [(9, ⟨0, [], true⟩)] })
    ((.dedupEntryExpire utag : Instr).wellFormed = true) ∧ (Serving s) ∧ (tget? s.dev.dedup utag = some e) := by
  decide +kernel

theorem witness_FabricRefusalsAndTimers_19 :
    let s : State := stWith (fun d => { d with sw := { d.sw with refusing := true } })
    ((.dedupRefusalEnd : Instr).wellFormed = true) ∧ (Serving s) := by
  decide +kernel

theorem witness_FabricRefusalsAndTimers_20 :
    let utag : Nat := 0x5000
    let r : FabIn := ⟨0, 1, 0, 0, 0, 0x40, leBytes 8 1, false, [], false, 0, [], false, false⟩
    let s : State := stMem (fun d => { d with reqs := [(0x5000, ⟨0, 1, 0, 0, 0, 0x40, leBytes 8 1, false, [], false, 0, [], false, false⟩)], entries := [(3, ⟨0x5000, [], 8⟩), (4, ⟨1, [], 8⟩)], cache := [(1023, (⟨List.replicate 64 (9 : Byte), false⟩ : CLine)), (5, (⟨List.replicate 64 (9 : Byte), false⟩ : CLine))], mbr := { d.mbr with pulls := [0x5000] } })
    ((.epochPullTimeout utag : Instr).wellFormed = true) ∧ (Serving s) ∧ (mirrorsOn s.dev = false) ∧ (s.dev.mbr.pulls.contains utag = true) ∧ (tget? s.dev.reqs utag = some r) ∧ (r.members = []) ∧ (r.kind < 4) ∧ (r.code < 8) := by
  decide +kernel

theorem witness_PoolAndCodecCommands_1 :
    let tag : Nat := 4095
    let c : Cmd := (cmdWith 0x20 (zeros 31 ++ leBytes 8 0x2040 ++ leBytes 4 1 ++ zeros 4 ++ leBytes 8 0x1122334455667788) 1)
    let s : State := stGal { galUp with state := 1 } (fun d => { d with cmds := [(4095, (cmdWith 0x20 (zeros 31 ++ leBytes 8 0x2040 ++ leBytes 4 1 ++ zeros 4 ++ leBytes 8 0x1122334455667788) 1))], cache := [(0x81, (⟨List.replicate 64 (9 : Byte), false⟩ : CLine))] })
    let k : Nat := 0
    let u : Nat := 0x2040
    let far : Far := ([] : Far)
    let r : Range := (⟨0, 65536, 0, true, true, true, false, none, 0, none, none, none, 0⟩ : Range)
    let l : CLine := (⟨List.replicate 64 (9 : Byte), false⟩ : CLine)
    ((.fill tag far : Instr).wellFormed = true) ∧ (Serving s) ∧ (cmdOf s.dev tag = some c) ∧ (c.opcode = 0x20) ∧ (c.phase = 1) ∧ (floeOn s.dev c.floe = true) ∧ (owes s.dev (.cmd tag) = false) ∧ (galleyExists s.dev c.ctx c.g = true) ∧ ((galleyOf s.dev c.ctx c.g).done = []) ∧ (okStatus c.status = true) ∧ (c.f 40 4 = 1) ∧ (bitOf (c.f 44 1) 0 = false) ∧ (findRange s.dev c.ctx c.gen (c.f 32 8) = some (k, r)) ∧ (r.w = true) ∧ (u = r.uni + (c.f 32 8 - r.start)) ∧ ((pageOf s.dev (u / 65536)).tier = 1 ∨ (pageOf s.dev (u / 65536)).tier = 2) ∧ ((pageOf s.dev (u / 65536)).packed = false) ∧ (floeOn s.dev (homeFloe (u / 65536)) = true) ∧ (tget? s.dev.dir (u / 64) = none) ∧ (tget? s.dev.cache (u / 64) = some l) ∧ (SoundLine s.dev (u / 64)) ∧ ((pageOf s.dev (u / 65536)).durable = false) ∧ ((pageOf s.dev (u / 65536)).twin = false) ∧ (l.data.length = 64) ∧ ((pageOf s.dev (u / 65536)).noPack = false) ∧ (mustHold s.dev (.cmd tag) (u / 64) false = false) := by
  decide +kernel

theorem witness_PoolAndCodecCommands_2 :
    let tag : Nat := 4095
    let c : Cmd := (cmdWith 0x21 (zeros 31 ++ leBytes 8 0x2040 ++ leBytes 8 0x3080 ++ leBytes 4 1) 1)
    let s : State := stGal { galUp with state := 1 } (fun d => { d with cmds := [(4095, (cmdWith 0x21 (zeros 31 ++ leBytes 8 0x2040 ++ leBytes 8 0x3080 ++ leBytes 4 1) 1))], cache := [(0x81, (⟨List.replicate 64 (9 : Byte), false⟩ : CLine)), (0xC2, ⟨zeros 64, false⟩)] })
    let k : Nat := 0
    let k2 : Nat := 0
    let u : Nat := 0x2040
    let v : Nat := 0x3080
    let far : Far := ([] : Far)
    let r : Range := (⟨0, 65536, 0, true, true, true, false, none, 0, none, none, none, 0⟩ : Range)
    let r2 : Range := (⟨0, 65536, 0, true, true, true, false, none, 0, none, none, none, 0⟩ : Range)
    let l : CLine := (⟨List.replicate 64 (9 : Byte), false⟩ : CLine)
    let l2 : CLine := (⟨zeros 64, false⟩ : CLine)
    ((.copy tag far : Instr).wellFormed = true) ∧ (Serving s) ∧ (cmdOf s.dev tag = some c) ∧ (c.opcode = 0x21) ∧ (c.phase = 1) ∧ (floeOn s.dev c.floe = true) ∧ (owes s.dev (.cmd tag) = false) ∧ (galleyExists s.dev c.ctx c.g = true) ∧ ((galleyOf s.dev c.ctx c.g).done = []) ∧ (c.isLate 0 = false) ∧ (c.f 48 4 = 1) ∧ (bitOf (c.f 52 1) 0 = false) ∧ (findRange s.dev c.ctx c.gen (c.f 32 8) = some (k, r)) ∧ (r.r = true) ∧ (u = r.uni + (c.f 32 8 - r.start)) ∧ (findRange s.dev c.ctx c.gen (c.f 40 8) = some (k2, r2)) ∧ (r2.w = true) ∧ (v = r2.uni + (c.f 40 8 - r2.start)) ∧ ((pageOf s.dev (u / 65536)).tier = 1 ∨ (pageOf s.dev (u / 65536)).tier = 2) ∧ ((pageOf s.dev (u / 65536)).packed = false) ∧ (floeOn s.dev (homeFloe (u / 65536)) = true) ∧ (tget? s.dev.dir (u / 64) = none) ∧ (tget? s.dev.cache (u / 64) = some l) ∧ (SoundLine s.dev (u / 64)) ∧ ((pageOf s.dev (v / 65536)).tier = 1 ∨ (pageOf s.dev (v / 65536)).tier = 2) ∧ ((pageOf s.dev (v / 65536)).packed = false) ∧ (floeOn s.dev (homeFloe (v / 65536)) = true) ∧ (tget? s.dev.dir (v / 64) = none) ∧ (tget? s.dev.cache (v / 64) = some l2) ∧ (SoundLine s.dev (v / 64)) ∧ ((pageOf s.dev (v / 65536)).durable = false) ∧ ((pageOf s.dev (v / 65536)).twin = false) ∧ (l2.data.length = 64) ∧ ((pageOf s.dev (v / 65536)).noPack = false) ∧ (mustHold s.dev (.cmd tag) (v / 64) false = false) ∧ (l.data.length = 64) := by
  decide +kernel

theorem witness_PoolAndCodecCommands_3 :
    let tag : Nat := 4095
    let c : Cmd := (cmdWith 0x22 (zeros 31 ++ leBytes 8 0x2040 ++ leBytes 8 0x0909090909090909 ++ leBytes 4 1 ++ [1]) 1)
    let s : State := stGal { galUp with state := 1 } (fun d => { d with cmds := [(4095, (cmdWith 0x22 (zeros 31 ++ leBytes 8 0x2040 ++ leBytes 8 0x0909090909090909 ++ leBytes 4 1 ++ [1]) 1))], cache := [(0x81, (⟨List.replicate 64 (9 : Byte), false⟩ : CLine))] })
    let k : Nat := 0
    let u : Nat := 0x2040
    let far : Far := ([] : Far)
    let r : Range := (⟨0, 65536, 0, true, true, true, false, none, 0, none, none, none, 0⟩ : Range)
    let l : CLine := (⟨List.replicate 64 (9 : Byte), false⟩ : CLine)
    ((.compare tag far : Instr).wellFormed = true) ∧ (Serving s) ∧ (cmdOf s.dev tag = some c) ∧ (c.opcode = 0x22) ∧ (c.phase = 1) ∧ (floeOn s.dev c.floe = true) ∧ (owes s.dev (.cmd tag) = false) ∧ (galleyExists s.dev c.ctx c.g = true) ∧ ((galleyOf s.dev c.ctx c.g).done = []) ∧ (c.isLate 0 = false) ∧ (c.pattern = true) ∧ (c.pos = 0) ∧ (c.f 48 4 = 1) ∧ (c.f 56 8 = 0) ∧ (findRange s.dev c.ctx c.gen (c.f 32 8) = some (k, r)) ∧ (r.r = true) ∧ (u = r.uni + (c.f 32 8 - r.start)) ∧ ((pageOf s.dev (u / 65536)).tier = 1 ∨ (pageOf s.dev (u / 65536)).tier = 2) ∧ ((pageOf s.dev (u / 65536)).packed = false) ∧ (floeOn s.dev (homeFloe (u / 65536)) = true) ∧ (tget? s.dev.dir (u / 64) = none) ∧ (tget? s.dev.cache (u / 64) = some l) ∧ (SoundLine s.dev (u / 64)) ∧ (l.data.length = 64) ∧ (l.data = (List.replicate 8 (slice c.entry 40 8)).flatten) := by
  decide +kernel

theorem witness_PoolAndCodecCommands_4 :
    let tag : Nat := 4095
    let c : Cmd := (cmdWith 0x22 (zeros 31 ++ leBytes 8 0x2040 ++ leBytes 8 0x1909090909090909 ++ leBytes 4 1 ++ [1]) 1)
    let s : State := stGal { galUp with state := 1 } (fun d => { d with cmds := [(4095, (cmdWith 0x22 (zeros 31 ++ leBytes 8 0x2040 ++ leBytes 8 0x1909090909090909 ++ leBytes 4 1 ++ [1]) 1))], cache := [(0x81, (⟨List.replicate 64 (9 : Byte), false⟩ : CLine))] })
    let k : Nat := 0
    let u : Nat := 0x2040
    let far : Far := ([] : Far)
    let r : Range := (⟨0, 65536, 0, true, true, true, false, none, 0, none, none, none, 0⟩ : Range)
    let l : CLine := (⟨List.replicate 64 (9 : Byte), false⟩ : CLine)
    ((.compare tag far : Instr).wellFormed = true) ∧ (Serving s) ∧ (cmdOf s.dev tag = some c) ∧ (c.opcode = 0x22) ∧ (c.phase = 1) ∧ (floeOn s.dev c.floe = true) ∧ (owes s.dev (.cmd tag) = false) ∧ (galleyExists s.dev c.ctx c.g = true) ∧ ((galleyOf s.dev c.ctx c.g).done = []) ∧ (c.isLate 0 = false) ∧ (c.pattern = true) ∧ (c.pos = 0) ∧ (c.f 48 4 = 1) ∧ (c.f 56 8 = 0) ∧ (findRange s.dev c.ctx c.gen (c.f 32 8) = some (k, r)) ∧ (r.r = true) ∧ (u = r.uni + (c.f 32 8 - r.start)) ∧ ((pageOf s.dev (u / 65536)).tier = 1 ∨ (pageOf s.dev (u / 65536)).tier = 2) ∧ ((pageOf s.dev (u / 65536)).packed = false) ∧ (floeOn s.dev (homeFloe (u / 65536)) = true) ∧ (tget? s.dev.dir (u / 64) = none) ∧ (tget? s.dev.cache (u / 64) = some l) ∧ (SoundLine s.dev (u / 64)) ∧ (l.data.length = 64) ∧ (l.data ≠ (List.replicate 8 (slice c.entry 40 8)).flatten) := by
  decide +kernel

theorem witness_PoolAndCodecCommands_5 :
    let tag : Nat := 4095
    let c : Cmd := (cmdWith 0x20 (zeros 31 ++ leBytes 8 0x2040 ++ leBytes 4 2 ++ zeros 4 ++ leBytes 8 0x1122334455667788) 1)
    let s : State := stGal { galUp with state := 1 } (fun d => { d with cmds := [(4095, (cmdWith 0x20 (zeros 31 ++ leBytes 8 0x2040 ++ leBytes 4 2 ++ zeros 4 ++ leBytes 8 0x1122334455667788) 1))], free := 0 })
    let far : Far := ([] : Far)
    let w : W := (fillBody c (W.start (latch s) far c.ctx c.gen (c.who tag 4))).1
    ((.fill tag far : Instr).wellFormed = true) ∧ (Serving s) ∧ (cmdOf s.dev tag = some c) ∧ (c.opcode = 0x20) ∧ (c.phase = 1) ∧ (floeOn s.dev c.floe = true) ∧ ((fillBody c (W.start (latch s) far c.ctx c.gen (c.who tag 4))).1 = w) ∧ (w.ok = true) ∧ (okStatus ((fillBody c (W.start (latch s) far c.ctx c.gen (c.who tag 4))).2 { c with phase := 4 }).status = true) ∧ (cmdOf w.d tag = some c) ∧ (owes w.d (.cmd tag) = false) ∧ (galleyExists w.d c.ctx c.g = true) ∧ ((galleyOf w.d c.ctx c.g).done = []) ∧ (w.d.boot = s.dev.boot) ∧ (w.d.errq.due = []) ∧ (w.d.tagWait = []) ∧ (w.d.tagHeld = []) ∧ (w.d.sw.seen = []) := by
  decide +kernel

theorem witness_PoolAndCodecCommands_6 :
    let tag : Nat := 4095
    let c : Cmd := (cmdWith 0x21 (zeros 31 ++ leBytes 8 0x2040 ++ leBytes 8 0x3080 ++ leBytes 4 2) 1)
    let s : State := stGal { galUp with state := 1 } (fun d => { d with cmds := [(4095, (cmdWith 0x21 (zeros 31 ++ leBytes 8 0x2040 ++ leBytes 8 0x3080 ++ leBytes 4 2) 1))], free := 0 })
    let far : Far := ([] : Far)
    let w : W := (copyBody c (W.start (latch s) far c.ctx c.gen (c.who tag 4))).1
    ((.copy tag far : Instr).wellFormed = true) ∧ (Serving s) ∧ (cmdOf s.dev tag = some c) ∧ (c.opcode = 0x21) ∧ (c.phase = 1) ∧ (floeOn s.dev c.floe = true) ∧ ((copyBody c (W.start (latch s) far c.ctx c.gen (c.who tag 4))).1 = w) ∧ (w.ok = true) ∧ (okStatus ((copyBody c (W.start (latch s) far c.ctx c.gen (c.who tag 4))).2 { c with phase := 4 }).copied.status = true) ∧ (cmdOf w.d tag = some c) ∧ (owes w.d (.cmd tag) = false) ∧ (galleyExists w.d c.ctx c.g = true) ∧ ((galleyOf w.d c.ctx c.g).done = []) ∧ (w.d.boot = s.dev.boot) ∧ (w.d.errq.due = []) ∧ (w.d.tagWait = []) ∧ (w.d.tagHeld = []) ∧ (w.d.sw.seen = []) := by
  decide +kernel

theorem witness_PoolAndCodecCommands_7 :
    let tag : Nat := 4095
    let c : Cmd := (cmdWith 0x22 (zeros 31 ++ leBytes 8 0x2040 ++ leBytes 8 0x3080 ++ leBytes 4 2) 1)
    let s : State := stGal { galUp with state := 1 } (fun d => { d with cmds := [(4095, (cmdWith 0x22 (zeros 31 ++ leBytes 8 0x2040 ++ leBytes 8 0x3080 ++ leBytes 4 2) 1))], fab := [(7, ⟨1, 9, 0x40, 1, 0, 0, [], .cmd 4095, 1, 0, [], false, false, 0, 0, 0, 0, 15, [], 0, []⟩)] })
    let far : Far := ([] : Far)
    let w : W := (flushRun (compareRun c) ((List.range (c.f 48 4)).foldl (compareLine c) (W.start (latch s) far c.ctx c.gen (c.who tag 4), Gather.start))).1
    let g : Gather := (flushRun (compareRun c) ((List.range (c.f 48 4)).foldl (compareLine c) (W.start (latch s) far c.ctx c.gen (c.who tag 4), Gather.start))).2
    ((.compare tag far : Instr).wellFormed = true) ∧ (Serving s) ∧ (cmdOf s.dev tag = some c) ∧ (c.opcode = 0x22) ∧ (c.phase = 1 ∨ c.phase = 2) ∧ (c.pos ≠ 1) ∧ (floeOn s.dev c.floe = true) ∧ ((flushRun (compareRun c) ((List.range (c.f 48 4)).foldl (compareLine c) (W.start (latch s) far c.ctx c.gen (c.who tag 4), Gather.start))) = (w, g)) ∧ (w.ok = true) ∧ (cmdOf w.d tag = some c) ∧ (owes { w.d with cmds := tput w.d.cmds tag { c with phase := 2, pos := 1, count := g.count, blocks := g.close.blocks } } (.cmd tag) = true) ∧ (({ w.d with cmds := tput w.d.cmds tag { c with phase := 2, pos := 1, count := g.count, blocks := g.close.blocks } }).boot = s.dev.boot) ∧ (({ w.d with cmds := tput w.d.cmds tag { c with phase := 2, pos := 1, count := g.count, blocks := g.close.blocks } }).errq.due = []) ∧ (({ w.d with cmds := tput w.d.cmds tag { c with phase := 2, pos := 1, count := g.count, blocks := g.close.blocks } }).tagWait = []) ∧ (({ w.d with cmds := tput w.d.cmds tag { c with phase := 2, pos := 1, count := g.count, blocks := g.close.blocks } }).tagHeld = []) ∧ (({ w.d with cmds := tput w.d.cmds tag { c with phase := 2, pos := 1, count := g.count, blocks := g.close.blocks } }).sw.seen = []) := by
  decide +kernel

theorem witness_PoolAndCodecCommands_8 :
    let tag : Nat := 4095
    let c : Cmd := (cmdWith 0x22 (zeros 31 ++ leBytes 8 0x2040 ++ leBytes 8 0x3080 ++ leBytes 4 2) 1)
    let s : State := stGal { galUp with state := 1 } (fun d => { d with cmds := [(4095, (cmdWith 0x22 (zeros 31 ++ leBytes 8 0x2040 ++ leBytes 8 0x3080 ++ leBytes 4 2) 1))], free := 0 })
    let far : Far := ([] : Far)
    let w : W := (flushRun (compareRun c) ((List.range (c.f 48 4)).foldl (compareLine c) (W.start (latch s) far c.ctx c.gen (c.who tag 4), Gather.start))).1
    let g : Gather := (flushRun (compareRun c) ((List.range (c.f 48 4)).foldl (compareLine c) (W.start (latch s) far c.ctx c.gen (c.who tag 4), Gather.start))).2
    ((.compare tag far : Instr).wellFormed = true) ∧ (Serving s) ∧ (cmdOf s.dev tag = some c) ∧ (c.opcode = 0x22) ∧ (c.phase = 1 ∨ c.phase = 2) ∧ (c.pos ≠ 1) ∧ (floeOn s.dev c.floe = true) ∧ ((flushRun (compareRun c) ((List.range (c.f 48 4)).foldl (compareLine c) (W.start (latch s) far c.ctx c.gen (c.who tag 4), Gather.start))) = (w, g)) ∧ (w.ok = true) ∧ (cmdOf w.d tag = some c) ∧ (owes { w.d with cmds := tput w.d.cmds tag { c with phase := 2, pos := 1, count := g.count, blocks := g.close.blocks } } (.cmd tag) = false) ∧ (((compareEnd { w.d with cmds := tput w.d.cmds tag { c with phase := 2, pos := 1, count := g.count, blocks := g.close.blocks } } far tag)).boot = s.dev.boot) ∧ (((compareEnd { w.d with cmds := tput w.d.cmds tag { c with phase := 2, pos := 1, count := g.count, blocks := g.close.blocks } } far tag)).errq.due = []) ∧ (((compareEnd { w.d with cmds := tput w.d.cmds tag { c with phase := 2, pos := 1, count := g.count, blocks := g.close.blocks } } far tag)).tagWait = []) ∧ (((compareEnd { w.d with cmds := tput w.d.cmds tag { c with phase := 2, pos := 1, count := g.count, blocks := g.close.blocks } } far tag)).tagHeld = []) ∧ (((compareEnd { w.d with cmds := tput w.d.cmds tag { c with phase := 2, pos := 1, count := g.count, blocks := g.close.blocks } } far tag)).sw.seen = []) := by
  decide +kernel

theorem witness_PoolAndCodecCommands_9 :
    let tag : Nat := 4095
    let c : Cmd := { (cmdWith 0x22 (zeros 31 ++ leBytes 8 0x2040 ++ leBytes 8 0x3080 ++ leBytes 4 2) 1) with phase := 2, pos := 1, blocks := [(0x204, leBytes 4 1 ++ leBytes 4 1 ++ leBytes 4 1), (0x205, leBytes 4 1 ++ leBytes 8 7), (0x206, leBytes 4 1 ++ leBytes 8 9)] }
    let s : State := stGal { galUp with state := 1 } (fun d => { d with cmds := [(4095, { (cmdWith 0x22 (zeros 31 ++ leBytes 8 0x2040 ++ leBytes 8 0x3080 ++ leBytes 4 2) 1) with phase := 2, pos := 1, blocks := [(0x204, leBytes 4 1 ++ leBytes 4 1 ++ leBytes 4 1), (0x205, leBytes 4 1 ++ leBytes 8 7), (0x206, leBytes 4 1 ++ leBytes 8 9)] })], free := 0 })
    let far : Far := ([] : Far)
    ((.compare tag far : Instr).wellFormed = true) ∧ (Serving s) ∧ (cmdOf s.dev tag = some c) ∧ (c.opcode = 0x22) ∧ (c.phase = 2) ∧ (c.pos = 1) ∧ (floeOn s.dev c.floe = true) ∧ (owes s.dev (.cmd tag) = false) ∧ (galleyExists s.dev c.ctx c.g = true) ∧ ((galleyOf s.dev c.ctx c.g).done = []) ∧ (okStatus c.status = true) ∧ (c.f 56 8 = 0) ∧ (okStatus (compareProof c).status = true) := by
  decide +kernel

theorem witness_PoolAndCodecCommands_10 :
    let tag : Nat := 4095
    let c : Cmd := (cmdWith 0x23 (zeros 31 ++ leBytes 8 0x2000 ++ leBytes 8 0x3000 ++ leBytes 4 16 ++ leBytes 2 1 ++ [9, 7] ++ [0]) 1)
    let s : State := stGal { galUp with state := 1 } (fun d => { d with cmds := [(4095, (cmdWith 0x23 (zeros 31 ++ leBytes 8 0x2000 ++ leBytes 8 0x3000 ++ leBytes 4 16 ++ leBytes 2 1 ++ [9, 7] ++ [0]) 1))], mem := memWrite (memWrite [] 0x2000 (leBytes 8 0x4000)) 0x4000 ([0, 0, 128, 63, 0, 0, 0, 64] : Bytes) })
    let far : Far := ([] : Far)
    let w : W := ((W.start (latch s) far c.ctx c.gen (c.who tag 4)).read (c.f 32 8) 8).1
    let l : Bytes := ((W.start (latch s) far c.ctx c.gen (c.who tag 4)).read (c.f 32 8) 8).2
    let x : W := (w.read (fieldAt l 0 8) (c.f 48 4 * fmtW (c.f 54 1) / 8)).1
    let b : Bytes := (w.read (fieldAt l 0 8) (c.f 48 4 * fmtW (c.f 54 1) / 8)).2
    let o : List (Nat × Nat) := (List.range (c.f 48 4)).map (fun e => slugTo (c.f 55 1) (bitOf (c.f 56 1) 3) (slugAdd Slug.zero (termOf (decodeNum (c.f 54 1) (elemAt (c.f 54 1) b e))).1))
    let y : W := x.write (c.f 40 8) (packElems (c.f 55 1) (o.map (·.1)))
    ((.reduce tag far : Instr).wellFormed = true) ∧ (Serving s) ∧ (cmdOf s.dev tag = some c) ∧ (c.opcode = 0x23) ∧ (c.phase = 1) ∧ (floeOn s.dev c.floe = true) ∧ (c.isLate 0 = false) ∧ (c.f 52 2 = 1) ∧ (c.f 56 1 % 4 = 0) ∧ (c.f 54 1 ≠ 11) ∧ (c.f 55 1 ≠ 11) ∧ ((W.start (latch s) far c.ctx c.gen (c.who tag 4)).read (c.f 32 8) 8 = (w, l)) ∧ (w.ok = true) ∧ (fieldAt l 0 8 < 2 ^ 48) ∧ (fieldAt l 0 8 % elemAlign (c.f 54 1) = 0) ∧ (w.read (fieldAt l 0 8) (c.f 48 4 * fmtW (c.f 54 1) / 8) = (x, b)) ∧ (x.ok = true) ∧ (o = (List.range (c.f 48 4)).map (fun e => slugTo (c.f 55 1) (bitOf (c.f 56 1) 3) (slugAdd Slug.zero (termOf (decodeNum (c.f 54 1) (elemAt (c.f 54 1) b e))).1))) ∧ (x.write (c.f 40 8) (packElems (c.f 55 1) (o.map (·.1))) = y) ∧ (y.ok = true) ∧ (cmdOf y.d tag = some c) ∧ (owes y.d (.cmd tag) = false) ∧ (galleyExists y.d c.ctx c.g = true) ∧ ((galleyOf y.d c.ctx c.g).done = []) ∧ (y.d.boot = s.dev.boot) ∧ (y.d.errq.due = []) ∧ (y.d.tagWait = []) ∧ (y.d.tagHeld = []) ∧ (y.d.sw.seen = []) := by
  decide +kernel

theorem witness_PoolAndCodecCommands_11 :
    let tag : Nat := 4095
    let c : Cmd := (cmdWith 0x23 (zeros 31 ++ leBytes 8 0x2000 ++ leBytes 8 0x3000 ++ leBytes 4 16 ++ leBytes 2 2 ++ [9, 9] ++ [0]) 1)
    let s : State := stGal { galUp with state := 1 } (fun d => { d with cmds := [(4095, (cmdWith 0x23 (zeros 31 ++ leBytes 8 0x2000 ++ leBytes 8 0x3000 ++ leBytes 4 16 ++ leBytes 2 2 ++ [9, 9] ++ [0]) 1))], mem := memWrite [] 0x2000 (leBytes 8 0x4000 ++ leBytes 8 0x4040) })
    let far : Far := ([] : Far)
    let w : W := (reduceBody c (W.start (latch s) far c.ctx c.gen (c.who tag 4))).1
    ((.reduce tag far : Instr).wellFormed = true) ∧ (Serving s) ∧ (cmdOf s.dev tag = some c) ∧ (c.opcode = 0x23) ∧ (c.phase = 1) ∧ (floeOn s.dev c.floe = true) ∧ ((reduceBody c (W.start (latch s) far c.ctx c.gen (c.who tag 4))).1 = w) ∧ (w.ok = true) ∧ (okStatus ((reduceBody c (W.start (latch s) far c.ctx c.gen (c.who tag 4))).2 { c with phase := 4 }).status = true) ∧ (cmdOf w.d tag = some c) ∧ (owes w.d (.cmd tag) = false) ∧ (galleyExists w.d c.ctx c.g = true) ∧ ((galleyOf w.d c.ctx c.g).done = []) ∧ (w.d.boot = s.dev.boot) ∧ (w.d.errq.due = []) ∧ (w.d.tagWait = []) ∧ (w.d.tagHeld = []) ∧ (w.d.sw.seen = []) := by
  decide +kernel

theorem witness_PoolAndCodecCommands_12 :
    let tag : Nat := 4095
    let c : Cmd := (cmdWith 0x18 (zeros 33 ++ [1] ++ zeros 5 ++ leBytes 8 0x2000 ++ leBytes 8 0x3000 ++ leBytes 4 32 ++ leBytes 4 64) 1)
    let s : State := stGal { galUp with state := 1 } (fun d => { d with cmds := [(4095, (cmdWith 0x18 (zeros 33 ++ [1] ++ zeros 5 ++ leBytes 8 0x2000 ++ leBytes 8 0x3000 ++ leBytes 4 32 ++ leBytes 4 64) 1))], free := 0 })
    let far : Far := ([] : Far)
    let e : Nat × Nat := (codecBlocks c (W.start (latch s) far c.ctx c.gen (c.who tag 5))).1.err.getD ((codecBlocks c (W.start (latch s) far c.ctx c.gen (c.who tag 5))).2.fail.getD (0, if (codecBlocks c (W.start (latch s) far c.ctx c.gen (c.who tag 5))).2.raw then 1 else 0))
    ((.encode tag far : Instr).wellFormed = true) ∧ (Serving s) ∧ (cmdOf s.dev tag = some c) ∧ (c.phase = 1) ∧ (c.opcode = 0x18) ∧ (floeOn s.dev c.floe = true) ∧ ((codecBlocks c (W.start (latch s) far c.ctx c.gen (c.who tag 5))).1.blocked = none) ∧ (cmdOf (codecBlocks c (W.start (latch s) far c.ctx c.gen (c.who tag 5))).1.d tag = some c) ∧ (c.pos = 0) ∧ (e = (codecBlocks c (W.start (latch s) far c.ctx c.gen (c.who tag 5))).1.err.getD ((codecBlocks c (W.start (latch s) far c.ctx c.gen (c.who tag 5))).2.fail.getD (0, if (codecBlocks c (W.start (latch s) far c.ctx c.gen (c.who tag 5))).2.raw then 1 else 0))) ∧ ((codecBlocks c (W.start (latch s) far c.ctx c.gen (c.who tag 5))).1.d.boot = s.dev.boot) ∧ ((codecBlocks c (W.start (latch s) far c.ctx c.gen (c.who tag 5))).2.blocks ≠ []) ∧ ((codecBlocks c (W.start (latch s) far c.ctx c.gen (c.who tag 5))).1.d.errq.due = []) ∧ ((codecBlocks c (W.start (latch s) far c.ctx c.gen (c.who tag 5))).1.d.tagWait = []) ∧ ((codecBlocks c (W.start (latch s) far c.ctx c.gen (c.who tag 5))).1.d.tagHeld = []) ∧ ((codecBlocks c (W.start (latch s) far c.ctx c.gen (c.who tag 5))).1.d.sw.seen = []) := by
  decide +kernel

theorem witness_PoolAndCodecCommands_13 :
    let tag : Nat := 4095
    let c : Cmd := (cmdWith 0x19 (zeros 33 ++ [1] ++ zeros 5 ++ leBytes 8 0x2000 ++ leBytes 8 0x3000 ++ leBytes 4 48 ++ leBytes 4 64) 1)
    let s : State := stGal { galUp with state := 1 } (fun d => { d with cmds := [(4095, (cmdWith 0x19 (zeros 33 ++ [1] ++ zeros 5 ++ leBytes 8 0x2000 ++ leBytes 8 0x3000 ++ leBytes 4 48 ++ leBytes 4 64) 1))], mem := memWrite [] 0x2000 ((encodeBlock zeroBook 0 true (zeros 32)).1) })
    let far : Far := ([] : Far)
    let e : Nat × Nat := (codecBlocks c (W.start (latch s) far c.ctx c.gen (c.who tag 5))).1.err.getD ((codecBlocks c (W.start (latch s) far c.ctx c.gen (c.who tag 5))).2.fail.getD (0, 0))
    ((.decode tag far : Instr).wellFormed = true) ∧ (Serving s) ∧ (cmdOf s.dev tag = some c) ∧ (c.phase = 1) ∧ (c.opcode = 0x19) ∧ (floeOn s.dev c.floe = true) ∧ ((codecBlocks c (W.start (latch s) far c.ctx c.gen (c.who tag 5))).1.blocked = none) ∧ (cmdOf (codecBlocks c (W.start (latch s) far c.ctx c.gen (c.who tag 5))).1.d tag = some c) ∧ (c.pos = 0) ∧ (e = (codecBlocks c (W.start (latch s) far c.ctx c.gen (c.who tag 5))).1.err.getD ((codecBlocks c (W.start (latch s) far c.ctx c.gen (c.who tag 5))).2.fail.getD (0, 0))) ∧ ((codecBlocks c (W.start (latch s) far c.ctx c.gen (c.who tag 5))).1.d.boot = s.dev.boot) ∧ ((codecBlocks c (W.start (latch s) far c.ctx c.gen (c.who tag 5))).2.blocks ≠ []) ∧ ((codecBlocks c (W.start (latch s) far c.ctx c.gen (c.who tag 5))).1.d.errq.due = []) ∧ ((codecBlocks c (W.start (latch s) far c.ctx c.gen (c.who tag 5))).1.d.tagWait = []) ∧ ((codecBlocks c (W.start (latch s) far c.ctx c.gen (c.who tag 5))).1.d.tagHeld = []) ∧ ((codecBlocks c (W.start (latch s) far c.ctx c.gen (c.who tag 5))).1.d.sw.seen = []) := by
  decide +kernel

theorem witness_PoolAndCodecCommands_14 :
    let tag : Nat := 4095
    let c : Cmd := (cmdWith 0x18 (zeros 33 ++ [1] ++ zeros 5 ++ leBytes 8 0x2000 ++ leBytes 8 0x3000 ++ leBytes 4 32 ++ leBytes 4 16) 1)
    let s : State := stGal { galUp with state := 1 } (fun d => { d with cmds := [(4095, (cmdWith 0x18 (zeros 33 ++ [1] ++ zeros 5 ++ leBytes 8 0x2000 ++ leBytes 8 0x3000 ++ leBytes 4 32 ++ leBytes 4 16) 1))], free := 0 })
    let far : Far := ([] : Far)
    let e : Nat × Nat := (codecBlocks c (W.start (latch s) far c.ctx c.gen (c.who tag 5))).1.err.getD ((codecBlocks c (W.start (latch s) far c.ctx c.gen (c.who tag 5))).2.fail.getD (0, if (codecBlocks c (W.start (latch s) far c.ctx c.gen (c.who tag 5))).2.raw then 1 else 0))
    ((.encode tag far : Instr).wellFormed = true) ∧ (Serving s) ∧ (cmdOf s.dev tag = some c) ∧ (c.phase = 1) ∧ (c.opcode = 0x18) ∧ (floeOn s.dev c.floe = true) ∧ ((codecBlocks c (W.start (latch s) far c.ctx c.gen (c.who tag 5))).1.blocked = none) ∧ (cmdOf (codecBlocks c (W.start (latch s) far c.ctx c.gen (c.who tag 5))).1.d tag = some c) ∧ (c.pos = 0) ∧ (e = (codecBlocks c (W.start (latch s) far c.ctx c.gen (c.who tag 5))).1.err.getD ((codecBlocks c (W.start (latch s) far c.ctx c.gen (c.who tag 5))).2.fail.getD (0, if (codecBlocks c (W.start (latch s) far c.ctx c.gen (c.who tag 5))).2.raw then 1 else 0))) ∧ ((codecBlocks c (W.start (latch s) far c.ctx c.gen (c.who tag 5))).1.d.boot = s.dev.boot) ∧ ((codecBlocks c (W.start (latch s) far c.ctx c.gen (c.who tag 5))).2.blocks = []) ∧ ((endCodec { (codecBlocks c (W.start (latch s) far c.ctx c.gen (c.who tag 5))).1.d with cmds := tput (codecBlocks c (W.start (latch s) far c.ctx c.gen (c.who tag 5))).1.d.cmds tag { c with phase := 2, blocks := List.zip (List.range (codecBlocks c (W.start (latch s) far c.ctx c.gen (c.who tag 5))).2.blocks.length) (codecBlocks c (W.start (latch s) far c.ctx c.gen (c.who tag 5))).2.blocks, units := (codecBlocks c (W.start (latch s) far c.ctx c.gen (c.who tag 5))).2.units, covers := [c.f 40 8 + (codecBlocks c (W.start (latch s) far c.ctx c.gen (c.who tag 5))).2.failOff, e.1, e.2] } } tag).boot = s.dev.boot) ∧ ((endCodec { (codecBlocks c (W.start (latch s) far c.ctx c.gen (c.who tag 5))).1.d with cmds := tput (codecBlocks c (W.start (latch s) far c.ctx c.gen (c.who tag 5))).1.d.cmds tag { c with phase := 2, blocks := List.zip (List.range (codecBlocks c (W.start (latch s) far c.ctx c.gen (c.who tag 5))).2.blocks.length) (codecBlocks c (W.start (latch s) far c.ctx c.gen (c.who tag 5))).2.blocks, units := (codecBlocks c (W.start (latch s) far c.ctx c.gen (c.who tag 5))).2.units, covers := [c.f 40 8 + (codecBlocks c (W.start (latch s) far c.ctx c.gen (c.who tag 5))).2.failOff, e.1, e.2] } } tag).errq.due = []) ∧ ((endCodec { (codecBlocks c (W.start (latch s) far c.ctx c.gen (c.who tag 5))).1.d with cmds := tput (codecBlocks c (W.start (latch s) far c.ctx c.gen (c.who tag 5))).1.d.cmds tag { c with phase := 2, blocks := List.zip (List.range (codecBlocks c (W.start (latch s) far c.ctx c.gen (c.who tag 5))).2.blocks.length) (codecBlocks c (W.start (latch s) far c.ctx c.gen (c.who tag 5))).2.blocks, units := (codecBlocks c (W.start (latch s) far c.ctx c.gen (c.who tag 5))).2.units, covers := [c.f 40 8 + (codecBlocks c (W.start (latch s) far c.ctx c.gen (c.who tag 5))).2.failOff, e.1, e.2] } } tag).tagWait = []) ∧ ((endCodec { (codecBlocks c (W.start (latch s) far c.ctx c.gen (c.who tag 5))).1.d with cmds := tput (codecBlocks c (W.start (latch s) far c.ctx c.gen (c.who tag 5))).1.d.cmds tag { c with phase := 2, blocks := List.zip (List.range (codecBlocks c (W.start (latch s) far c.ctx c.gen (c.who tag 5))).2.blocks.length) (codecBlocks c (W.start (latch s) far c.ctx c.gen (c.who tag 5))).2.blocks, units := (codecBlocks c (W.start (latch s) far c.ctx c.gen (c.who tag 5))).2.units, covers := [c.f 40 8 + (codecBlocks c (W.start (latch s) far c.ctx c.gen (c.who tag 5))).2.failOff, e.1, e.2] } } tag).tagHeld = []) ∧ ((endCodec { (codecBlocks c (W.start (latch s) far c.ctx c.gen (c.who tag 5))).1.d with cmds := tput (codecBlocks c (W.start (latch s) far c.ctx c.gen (c.who tag 5))).1.d.cmds tag { c with phase := 2, blocks := List.zip (List.range (codecBlocks c (W.start (latch s) far c.ctx c.gen (c.who tag 5))).2.blocks.length) (codecBlocks c (W.start (latch s) far c.ctx c.gen (c.who tag 5))).2.blocks, units := (codecBlocks c (W.start (latch s) far c.ctx c.gen (c.who tag 5))).2.units, covers := [c.f 40 8 + (codecBlocks c (W.start (latch s) far c.ctx c.gen (c.who tag 5))).2.failOff, e.1, e.2] } } tag).sw.seen = []) := by
  decide +kernel

theorem witness_PoolAndCodecCommands_15 :
    let tag : Nat := 4095
    let c : Cmd := (cmdWith 0x19 (zeros 33 ++ [1] ++ zeros 5 ++ leBytes 8 0x2000 ++ leBytes 8 0x3000 ++ leBytes 4 48 ++ leBytes 4 64) 1)
    let s : State := stGal { galUp with state := 1 } (fun d => { d with cmds := [(4095, (cmdWith 0x19 (zeros 33 ++ [1] ++ zeros 5 ++ leBytes 8 0x2000 ++ leBytes 8 0x3000 ++ leBytes 4 48 ++ leBytes 4 64) 1))], regs := (List.range 4).map (fun u => (floeBase 0 + 0x160000 + u * 0x1000, 1)) })
    let far : Far := ([] : Far)
    let e : Nat × Nat := (codecBlocks c (W.start (latch s) far c.ctx c.gen (c.who tag 5))).1.err.getD ((codecBlocks c (W.start (latch s) far c.ctx c.gen (c.who tag 5))).2.fail.getD (0, 0))
    ((.decode tag far : Instr).wellFormed = true) ∧ (Serving s) ∧ (cmdOf s.dev tag = some c) ∧ (c.phase = 1) ∧ (c.opcode = 0x19) ∧ (floeOn s.dev c.floe = true) ∧ ((codecBlocks c (W.start (latch s) far c.ctx c.gen (c.who tag 5))).1.blocked = none) ∧ (cmdOf (codecBlocks c (W.start (latch s) far c.ctx c.gen (c.who tag 5))).1.d tag = some c) ∧ (c.pos = 0) ∧ (e = (codecBlocks c (W.start (latch s) far c.ctx c.gen (c.who tag 5))).1.err.getD ((codecBlocks c (W.start (latch s) far c.ctx c.gen (c.who tag 5))).2.fail.getD (0, 0))) ∧ ((codecBlocks c (W.start (latch s) far c.ctx c.gen (c.who tag 5))).1.d.boot = s.dev.boot) ∧ ((codecBlocks c (W.start (latch s) far c.ctx c.gen (c.who tag 5))).2.blocks = []) ∧ ((endCodec { (codecBlocks c (W.start (latch s) far c.ctx c.gen (c.who tag 5))).1.d with cmds := tput (codecBlocks c (W.start (latch s) far c.ctx c.gen (c.who tag 5))).1.d.cmds tag { c with phase := 2, blocks := List.zip (List.range (codecBlocks c (W.start (latch s) far c.ctx c.gen (c.who tag 5))).2.blocks.length) (codecBlocks c (W.start (latch s) far c.ctx c.gen (c.who tag 5))).2.blocks, units := (codecBlocks c (W.start (latch s) far c.ctx c.gen (c.who tag 5))).2.units, covers := [c.f 40 8 + (codecBlocks c (W.start (latch s) far c.ctx c.gen (c.who tag 5))).2.failOff, e.1, e.2] } } tag).boot = s.dev.boot) ∧ ((endCodec { (codecBlocks c (W.start (latch s) far c.ctx c.gen (c.who tag 5))).1.d with cmds := tput (codecBlocks c (W.start (latch s) far c.ctx c.gen (c.who tag 5))).1.d.cmds tag { c with phase := 2, blocks := List.zip (List.range (codecBlocks c (W.start (latch s) far c.ctx c.gen (c.who tag 5))).2.blocks.length) (codecBlocks c (W.start (latch s) far c.ctx c.gen (c.who tag 5))).2.blocks, units := (codecBlocks c (W.start (latch s) far c.ctx c.gen (c.who tag 5))).2.units, covers := [c.f 40 8 + (codecBlocks c (W.start (latch s) far c.ctx c.gen (c.who tag 5))).2.failOff, e.1, e.2] } } tag).errq.due = []) ∧ ((endCodec { (codecBlocks c (W.start (latch s) far c.ctx c.gen (c.who tag 5))).1.d with cmds := tput (codecBlocks c (W.start (latch s) far c.ctx c.gen (c.who tag 5))).1.d.cmds tag { c with phase := 2, blocks := List.zip (List.range (codecBlocks c (W.start (latch s) far c.ctx c.gen (c.who tag 5))).2.blocks.length) (codecBlocks c (W.start (latch s) far c.ctx c.gen (c.who tag 5))).2.blocks, units := (codecBlocks c (W.start (latch s) far c.ctx c.gen (c.who tag 5))).2.units, covers := [c.f 40 8 + (codecBlocks c (W.start (latch s) far c.ctx c.gen (c.who tag 5))).2.failOff, e.1, e.2] } } tag).tagWait = []) ∧ ((endCodec { (codecBlocks c (W.start (latch s) far c.ctx c.gen (c.who tag 5))).1.d with cmds := tput (codecBlocks c (W.start (latch s) far c.ctx c.gen (c.who tag 5))).1.d.cmds tag { c with phase := 2, blocks := List.zip (List.range (codecBlocks c (W.start (latch s) far c.ctx c.gen (c.who tag 5))).2.blocks.length) (codecBlocks c (W.start (latch s) far c.ctx c.gen (c.who tag 5))).2.blocks, units := (codecBlocks c (W.start (latch s) far c.ctx c.gen (c.who tag 5))).2.units, covers := [c.f 40 8 + (codecBlocks c (W.start (latch s) far c.ctx c.gen (c.who tag 5))).2.failOff, e.1, e.2] } } tag).tagHeld = []) ∧ ((endCodec { (codecBlocks c (W.start (latch s) far c.ctx c.gen (c.who tag 5))).1.d with cmds := tput (codecBlocks c (W.start (latch s) far c.ctx c.gen (c.who tag 5))).1.d.cmds tag { c with phase := 2, blocks := List.zip (List.range (codecBlocks c (W.start (latch s) far c.ctx c.gen (c.who tag 5))).2.blocks.length) (codecBlocks c (W.start (latch s) far c.ctx c.gen (c.who tag 5))).2.blocks, units := (codecBlocks c (W.start (latch s) far c.ctx c.gen (c.who tag 5))).2.units, covers := [c.f 40 8 + (codecBlocks c (W.start (latch s) far c.ctx c.gen (c.who tag 5))).2.failOff, e.1, e.2] } } tag).sw.seen = []) := by
  decide +kernel

theorem witness_PoolAndCodecCommands_16 :
    let tag : Nat := 4095
    let c : Cmd := { (cmdWith 0x19 (zeros 33 ++ [1] ++ zeros 5 ++ leBytes 8 0x2000 ++ leBytes 8 0x3000 ++ leBytes 4 48 ++ leBytes 4 64) 2) with units := [7, 1], blocks := [(0, zeros 16), (1, zeros 16)] }
    let s : State := stGal { galUp with state := 1 } (fun d => { d with cmds := [(4095, { (cmdWith 0x19 (zeros 33 ++ [1] ++ zeros 5 ++ leBytes 8 0x2000 ++ leBytes 8 0x3000 ++ leBytes 4 48 ++ leBytes 4 64) 2) with units := [7, 1], blocks := [(0, zeros 16), (1, zeros 16)] })], arbs := [(17, { Arb.reset with owner := some ⟨⟨22, 0, 4095, 1, 0⟩, false, 64, 0⟩ })] })
    let k : Nat := 1
    ((.codecBlockDone tag k : Instr).wellFormed = true) ∧ (Serving s) ∧ (cmdOf s.dev tag = some c) ∧ (c.phase = 2) ∧ (c.opcode = 0x18 ∨ c.opcode = 0x19) ∧ (k < c.blocks.length) ∧ (unitGranted s.dev (c.units.getD k 0) tag = true) ∧ (c.blocksDone.contains k = false) ∧ (floeOn s.dev c.floe = true) ∧ (c.pos < c.blocks.length) ∧ (k ≠ c.pos) ∧ (c.blocksDone.contains c.pos = false) := by
  decide +kernel

theorem witness_PoolAndCodecCommands_17 :
    let tag : Nat := 4095
    let c : Cmd := { (cmdWith 0x18 (zeros 33 ++ [1] ++ zeros 5 ++ leBytes 8 0x2000 ++ leBytes 8 0x3000 ++ leBytes 4 32 ++ leBytes 4 64) 2) with units := [1, 7], blocks := [(0, List.replicate 16 (7 : Byte)), (1, zeros 16)] }
    let s : State := stGal { galUp with state := 1 } (fun d => { d with cmds := [(4095, { (cmdWith 0x18 (zeros 33 ++ [1] ++ zeros 5 ++ leBytes 8 0x2000 ++ leBytes 8 0x3000 ++ leBytes 4 32 ++ leBytes 4 64) 2) with units := [1, 7], blocks := [(0, List.replicate 16 (7 : Byte)), (1, zeros 16)] })], arbs := [(17, { Arb.reset with owner := some ⟨⟨22, 0, 4095, 1, 0⟩, false, 64, 0⟩ })] })
    let k : Nat := 0
    let w : W := (W.start (dropUnit (latch s) (c.units.getD k 0)) [] c.ctx c.gen (c.who tag 5)).write (c.f 48 8 + c.count) (tget c.blocks k [])
    ((.codecBlockDone tag k : Instr).wellFormed = true) ∧ (Serving s) ∧ (cmdOf s.dev tag = some c) ∧ (c.phase = 2) ∧ (c.opcode = 0x18 ∨ c.opcode = 0x19) ∧ (bitOf (c.f 34 1) 0 = false ∨ c.opcode = 0x18) ∧ (k + 1 < c.blocks.length) ∧ (unitGranted s.dev (c.units.getD k 0) tag = true) ∧ (c.blocksDone = []) ∧ (floeOn s.dev c.floe = true) ∧ (k = c.pos) ∧ ((W.start (dropUnit (latch s) (c.units.getD k 0)) [] c.ctx c.gen (c.who tag 5)).write (c.f 48 8 + c.count) (tget c.blocks k []) = w) ∧ (w.ok = true) ∧ (cmdOf w.d tag = some c) ∧ (w.d.boot = s.dev.boot) ∧ (w.d.errq.due = []) ∧ (w.d.tagWait = []) ∧ (w.d.tagHeld = []) ∧ (w.d.sw.seen = []) := by
  decide +kernel

theorem witness_PoolAndCodecCommands_18 :
    let tag : Nat := 4095
    let c : Cmd := { (cmdWith 0x19 (zeros 33 ++ [1] ++ zeros 5 ++ leBytes 8 0x2000 ++ leBytes 8 0x3000 ++ leBytes 4 48 ++ leBytes 4 64) 2) with units := [1], covers := [0, 0, 3], blocks := [(0, zeros 16)], digest := 5 }
    let s : State := stGal { galUp with state := 1 } (fun d => { d with cmds := [(4095, { (cmdWith 0x19 (zeros 33 ++ [1] ++ zeros 5 ++ leBytes 8 0x2000 ++ leBytes 8 0x3000 ++ leBytes 4 48 ++ leBytes 4 64) 2) with units := [1], covers := [0, 0, 3], blocks := [(0, zeros 16)], digest := 5 })], arbs := [(17, { Arb.reset with owner := some ⟨⟨22, 0, 4095, 1, 0⟩, false, 64, 0⟩ })] })
    let b : Bytes := (zeros 16 : Bytes)
    ((.codecBlockDone tag 0 : Instr).wellFormed = true) ∧ (Serving s) ∧ (cmdOf s.dev tag = some c) ∧ (c.opcode = 0x19) ∧ (c.phase = 2) ∧ (floeOn s.dev c.floe = true) ∧ (owes s.dev (.cmd tag) = false) ∧ (galleyExists s.dev c.ctx c.g = true) ∧ ((galleyOf s.dev c.ctx c.g).done = []) ∧ (bitOf (c.f 34 1) 0 = true) ∧ (c.blocks = [(0, b)]) ∧ (unitGranted s.dev (c.units.getD 0 0) tag = true) ∧ (c.blocksDone = []) ∧ (c.pos = 0) ∧ (okStatus (c.covers.getD 1 0) = true) := by
  decide +kernel

end Sys2Proof.Tests
end

section
/-! PROOFS. The impression time base: what follows a command that changes no more of the device than the registers in
force and the open windows, what a mark leaves, and the statement Impressions. -/

namespace Sys2Proof.Machine

open Sys2Proof

/-! ### What follows a command on the impression time base -/

/-- `devState`, `failLinks` and the recoveries look at no window, so `settle` has nothing to do. -/
theorem settle_windows {old new : Dev} (ws : List Nat) (due : new.errq.due = [])
    (boot : new.boot = { old.boot with windows := ws }) (w : new.tagWait = []) (h : new.tagHeld = [])
    (sent : new.sw.seen = []) : settle old new = new := by
  have state : devState new = devState old := by unfold devState anyContained; rw [boot]
  have recoveries : runDue 16 new = new := by rw [runDue, due]
  have links : failLinks old new = new := by
    unfold failLinks
    rw [boot]
    cases old.boot.failed <;> rfl
  unfold settle
  rw [mirrorSent_none sent, recoveries, links, settleTags_idle w h]
  simp [state]

/-- A command whose effect on the device nothing follows. -/
theorem onState_settled {i : Instr} {s : State} {f : Clock → Dev → Clock × Dev} {c : Clock} {d : Dev}
    (w : i.wellFormed = true) (held : s.dev.boot.held = false) (h : f s.clk (latch s) = (c, d))
    (quiet : settle (latch s) d = d) : onState i s f = .next { s with clk := c, dev := d } := by
  simp only [onState_next f w held, h, quiet]

/-- A command that changes the time base alone. -/
theorem onState_clock {i : Instr} {s : State} {f : Clock → Dev → Clock × Dev} {c : Clock} (w : i.wellFormed = true)
    (sv : Serving s) (h : f s.clk (latch s) = (c, latch s)) : onState i s f = .next { s with clk := c, dev := latch s } := by
  obtain ⟨held, due, wait, tags, sent⟩ := sv
  exact onState_settled w held h (settle_quiet due rfl wait tags sent)

/-- A command that changes the open windows alone. -/
theorem onState_windows {i : Instr} {s : State} {f : Clock → Dev → Clock × Dev} {ws : List Nat} (w : i.wellFormed = true)
    (sv : Serving s) (h : f s.clk (latch s) = (s.clk, { latch s with boot := { s.dev.boot with windows := ws } })) :
    onState i s f = .next { s with dev := { latch s with boot := { s.dev.boot with windows := ws } } } := by
  obtain ⟨held, due, wait, tags, sent⟩ := sv
  exact onState_settled w held h (settle_windows ws due rfl wait tags sent)

/-! ### Marks (R413 to R415) -/

/-- The block after a mark at a device time, from the time base that the mark's kind leaves. -/
def State.marked (s : State) (c : Clock) (a : Nat) : State :=
  { s with clk := (markAt c (latch s) a).1, dev := (markAt c (latch s) a).2 }

theorem marked_clk (s : State) (c : Clock) (a : Nat) :
    (s.marked c a).clk = { c with last := a, count := (c.count + 1) % 2 ^ 64 } := rfl

/-- A mark puts every Staged field in force (R9). -/
theorem marked_force (s : State) (c : Clock) (a : Nat) : (s.marked c a).dev.force = [] := rfl

theorem marked_frame (s : State) (c : Clock) (a : Nat) :
    s.marked c a = { s with clk := (s.marked c a).clk, dev := { latch s with
      force := (s.marked c a).dev.force, boot := (s.marked c a).dev.boot } } := rfl

/-- A command whose effect is a mark. -/
theorem onState_mark {i : Instr} {s : State} {f : Clock → Dev → Clock × Dev} {c : Clock} {a : Nat}
    (w : i.wellFormed = true) (sv : Serving s) (h : f s.clk (latch s) = markAt c (latch s) a) :
    onState i s f = .next (s.marked c a) := by
  obtain ⟨held, due, wait, tags, sent⟩ := sv
  exact onState_settled w held h (settle_windows _ due rfl wait tags sent)

/-- The intervals kept once a mark has been accepted (R414). -/
def keptIntervals (c : Clock) (d : Dev) : List Nat :=
  match c.from_ with
  | some f => if c.time - f ≤ 1000 * rf d (imprBase + 8) 16 16 then ((c.time - f) :: c.intervals).take 8 else c.intervals
  | none => c.intervals

/-- The time base of an accepted mark, its count and place apart. -/
def acceptMark (c : Clock) (d : Dev) : Clock :=
  { c with intervals := keptIntervals c d, from_ := some c.time, coasts := 0,
           impr := if (keptIntervals c d).length = 8 then 2 else 1 }

theorem arriveMark_early {c : Clock} {d : Dev} (n : c.count ≠ 0)
    (h : c.time < c.last + 1000 * rf d (imprBase + 8) 0 16) :
    arriveMark c d = ({ c with ignored := min 65535 (c.ignored + 1) }, d) := if_pos ⟨n, h⟩

theorem arriveMark_accepted {c : Clock} {d : Dev}
    (h : c.count = 0 ∨ c.last + 1000 * rf d (imprBase + 8) 0 16 ≤ c.time) :
    arriveMark c d = markAt (acceptMark c d) d c.time := if_neg (by omega)

/-- An edge that SOURCE and FALLING allow is a mark that arrives (R413). -/
theorem exec_imprSyncEdge {s : State} {fall : Bool} (src : imprSource s.dev = 0 ∨ imprSource s.dev = 2)
    (edge : decide (rf s.dev imprBase 2 1 = 1) = fall) :
    exec (.imprSyncEdge fall) s = onState (.imprSyncEdge fall) s arriveMark := by
  have allowed : (imprSource (latch s) = 0 ∨ imprSource (latch s) = 2) ∧ (rf (latch s) imprBase 2 1 = 1) = fall :=
    ⟨src, by rw [← edge, decide_eq_true_eq]; rfl⟩
  change execImprSyncEdge fall s = _
  simp only [execImprSyncEdge, onState, if_pos allowed]

theorem exec_imprSyncEdge_accepted {s : State} {fall : Bool} (w : (.imprSyncEdge fall : Instr).wellFormed = true)
    (sv : Serving s) (src : imprSource s.dev = 0 ∨ imprSource s.dev = 2) (edge : decide (rf s.dev imprBase 2 1 = 1) = fall)
    (gap : s.clk.count = 0 ∨ s.clk.last + 1000 * rf s.dev (imprBase + 8) 0 16 ≤ s.clk.time) :
    exec (.imprSyncEdge fall) s = .next (s.marked (acceptMark s.clk (latch s)) s.clk.time) := by
  rw [exec_imprSyncEdge src edge, onState_mark w sv (arriveMark_accepted gap)]

/-- The time base in which the first missing mark or the next one is synthesised (R415). -/
def coasted (c : Clock) (d : Dev) : Clock :=
  { c with impr := if max 1 (rf d (imprBase + 0x10) 16 8) ≤ c.coasts + 1 then 0 else 3, coasts := c.coasts + 1,
           from_ := none, synthesised := min 65535 (c.synthesised + 1) }

theorem exec_coastMark {s : State} (w : (.coastMark : Instr).wellFormed = true) (sv : Serving s) (on : s.clk.impr ≠ 0) :
    exec .coastMark s = .next (s.marked (coasted s.clk s.dev) (s.clk.last + period s.clk s.dev)) := by
  change execCoastMark s = _
  exact onState_mark w sv (if_neg on)

theorem exec_freeMark {s : State} (w : (.freeMark : Instr).wellFormed = true) (sv : Serving s) (off : s.clk.impr = 0) :
    exec .freeMark s =
      .next (s.marked { s.clk with from_ := none, synthesised := min 65535 (s.clk.synthesised + 1) } s.clk.time) := by
  change execFreeMark s = _
  exact onState_mark w sv (if_pos off)

/-- Settles O34: the accepted edge and the synthesised marks are marks of their own time bases; an early edge and a forced
calibration touch the time base alone, the end of a window the open windows alone. -/
theorem impressions : Obligations.Impressions := by
  unfold Obligations.Impressions
  refine ⟨?accepted, ?early, ?coast, ?free, ?window, ?forced⟩
  case accepted =>
    intro s fall w sv src edge gap
    refine ⟨_, exec_imprSyncEdge_accepted w sv src edge gap, ?_⟩
    exact ⟨rfl, rfl, rfl, rfl, rfl, rfl, rfl, marked_force .., marked_frame ..⟩
  case early =>
    intro s fall w sv src edge n early
    rw [exec_imprSyncEdge src edge]
    exact onState_clock w sv (arriveMark_early n early)
  case coast =>
    intro s w sv on
    exact ⟨_, exec_coastMark w sv on, marked_clk .., marked_force .., marked_frame ..⟩
  case free =>
    intro s w sv off
    exact ⟨_, exec_freeMark w sv off, marked_clk .., marked_force .., marked_frame ..⟩
  case window =>
    intro s win w sv shut
    change execWindowClose win s = _
    exact onState_windows w sv (if_neg (by rw [shut]; decide))
  case forced =>
    intro s f u w sv on shut
    have runs : (admits (latch s) 5 || !floeOn (latch s) f) = false := by
      change (admits s.dev 5 || !floeOn s.dev f) = false
      rw [on, shut]; rfl
    change execCalForced f u s = _
    exact onState_clock w sv (if_neg (by rw [runs]; decide))

end Sys2Proof.Machine
end

section
/-! PROOFS. FIELD_READ at a mailbox with a read that the service timer has answered and that is still to be served (R38):
the refutation of the statement RegisterMessages. -/

namespace Sys2Proof.Machine

open Sys2Proof

/-- A FIELD_READ of HOLDUP, 4 bytes wide (R54). -/
def holdupRead : Bytes := slice (leBytes 2 0x0011 ++ [1] ++ zeros 5 ++ leBytes 4 0x04B00010 ++ [4]) 0 64

/-- Its service at privilege 3, not begun. -/
def holdupService (id : Nat) : Service := ⟨id, 3 * 2 ^ 13, holdupRead, none, false, false, false, none, none, false⟩

/-- The device up, with read 1 in service at mailbox 0 and read 0 among those that the timer has answered.  A run does not
come here by REQUEST_TAKE, which waits while a request at the compositor has not begun (`foreground`); the statement speaks
of every state. -/
def twoHoldupReads : State :=
  { State.reset with dev := { Dev.reset with
      boot := { Boot.reset with held := false, phase := 3, floes := [(0, 0), (1, 0), (2, 0), (3, 0)] }
      mbx := [(0, { Mailbox.reset with priv := 3, svc := some (holdupService 1), late := [holdupService 0] })] } }

/-- `inService` finds read 0 before read 1; its reply is dropped, and read 1 is left as it was. -/
theorem fieldRead_serves_late_read :
    (match exec (.fieldRead 0) twoHoldupReads with
      | .next t => (mbOf t.dev 0).svc
      | _ => none) = some (holdupService 1) := by
  decide +kernel

/-- Refutes O11: its first clause says that the read in service is answered, and leaves free what the timer has answered at
the same mailbox, which FIELD_READ serves first. -/
theorem not_registerMessages : ¬ Obligations.RegisterMessages := by
  unfold Obligations.RegisterMessages
  rintro ⟨hread, -⟩
  obtain ⟨t, next, answered, -⟩ := hread twoHoldupReads 0 0x04B00010 4 0 (holdupService 1)
    rfl (by decide) rfl rfl rfl rfl rfl rfl (by decide) rfl rfl rfl rfl (by decide) rfl rfl rfl rfl rfl rfl rfl
  have unanswered := fieldRead_serves_late_read
  simp only [next] at unanswered
  rw [unanswered] at answered
  cases answered

end Sys2Proof.Machine
end

section
/-! PROOFS. Mailboxes: what a read of a mailbox reaches past its 0x100 bytes, what a written reply does to galleys, and
which message is served where the timer has answered one that has not begun (R23, R35, R38, R52): the refutations of
MailboxRegisters, MailboxService, InformationMessages and FloePower. -/

namespace Sys2Proof.Machine

open Sys2Proof

/-- The device up with every floe ON, and these mailboxes and galleys. -/
def upWith (mbx : Tab Mailbox) (galleys : Tab Galley) : State :=
  { State.reset with dev := { Dev.reset with
      boot := { Boot.reset with held := false, phase := 3, floes := [(0, 0), (1, 0), (2, 0), (3, 0)] }
      mbx := mbx, galleys := galleys } }

/-- A request of 64 bytes in service, not begun: its number, stamped privilege, code and body. -/
def unbegun (id priv code : Nat) (body : Bytes) : Service :=
  ⟨id, priv * 2 ^ 13, slice (leBytes 2 code ++ [1] ++ zeros 5 ++ body) 0 64, none, false, false, false, none, none, false⟩

/-! ### Reads past a mailbox -/

/-- The mailboxes of BAR0 lie 0x100 bytes apart (R22): a read 0x100 bytes further on is a read of the next one. -/
theorem exec_rspHdrRead_next (s : State) {port mb : Nat} (off size : Nat) (hmb : mb + 1 < 16) :
    exec (.rspHdrRead port mb (0x100 + off) size) s = exec (.rspHdrRead port (mb + 1) off size) s := by
  change execRspHdrRead port mb (0x100 + off) size s = execRspHdrRead port (mb + 1) off size s
  have here : mb < 16 := by omega
  have place : 0x10000 + mb * 0x100 + (0x100 + off) = 0x10000 + (mb + 1) * 0x100 + off := by omega
  simp only [execRspHdrRead, onDev, Instr.wellFormed, place, here, hmb]

/-- The device up with a reply in mailbox 1. -/
def replyInOne : State := upWith [(1, { Mailbox.reset with rspFull := true })] []

/-- Refutes O2: its offsets are not bounded by the mailbox.  The read at 0x1C0 from mailbox 0 is that of RSP_HDR of mailbox 1,
which clears RSP_FULL there by the statement's third clause; by its sixth it changes nothing. -/
theorem not_mailboxRegisters : ¬ Obligations.MailboxRegisters := by
  unfold Obligations.MailboxRegisters
  rintro ⟨-, -, clears, -, -, only_returns, -⟩
  have cleared := clears replyInOne 0 1 rfl (by decide) (by decide) rfl rfl rfl
  have kept := only_returns replyInOne 0 0 0x1C0 4 rfl (by decide) (by decide) (.inl rfl) rfl (.inl (by decide))
  rw [show 0x1C0 = 0x100 + 0xC0 from rfl, exec_rspHdrRead_next _ _ _ (by decide), cleared] at kept
  injection kept with same
  have full := congrArg (fun t : State => (mbOf t.dev 1).rspFull) same
  exact absurd full (by decide)

/-! ### Written replies and galleys -/

/-- The device up with the reply to an OBJ_MODIFY of galley 0 ready at mailbox 0; until it is written, commands are fetched
under the galley's old block (R52). -/
def modifyAnswered : State :=
  upWith [(0, { Mailbox.reset with svc := some { unbegun 7 3 0x0101 [3] with busy := true, ended := true, reply := some [] } })]
    [(0, { Galley.none with old := [(0, 7, zeros 64, 0)] })]

/-- With the reply written, the galley's new block is in force. -/
theorem replyWrite_ends_old_block :
    (match exec (.replyWrite 0) modifyAnswered with
      | .next t => (galleyOf t.dev 0 0).old
      | _ => [(0, 7, zeros 64, 0)]) = [] := by
  decide +kernel

/-- Refutes O3: its last clause says that REPLY_WRITE leaves every galley as it was, yet what the answered message modified
comes into force with its reply. -/
theorem not_mailboxService : ¬ Obligations.MailboxService := by
  unfold Obligations.MailboxService
  rintro ⟨-, -, -, -, -, -, written⟩
  obtain ⟨t, next, -, -, -, -, -, -, -, -, -, galleys, -⟩ :=
    written modifyAnswered 0 _ [] rfl (by decide) rfl rfl rfl rfl
  have ended := replyWrite_ends_old_block
  simp only [next] at ended
  rw [galleyOf, galleys] at ended
  exact absurd ended (by decide)

/-! ### Messages that the timer has answered -/

/-- IDENTIFY 1 in service at the agent of floe 0, with IDENTIFY 0 among those that the timer has answered; REQUEST_TAKE at an
agent's mailbox does not wait for one that has not begun (`mayTake`). -/
def twoIdentifies : State :=
  upWith [(12, { Mailbox.reset with svc := some (unbegun 1 0 0x0001 []), late := [unbegun 0 0 0x0001 []] })] []

/-- `inService` finds message 0 first; its reply is dropped, and message 1 is left as it was. -/
theorem identify_serves_late_message :
    (match exec (.identify 12) twoIdentifies with
      | .next t => (mbOf t.dev 12).svc
      | _ => none) = some (unbegun 1 0 0x0001 []) := by
  decide +kernel

/-- Refutes O4: its first clause says that the message in service is answered, and leaves free what the timer has answered at
the same mailbox, which IDENTIFY serves first. -/
theorem not_informationMessages : ¬ Obligations.InformationMessages := by
  unfold Obligations.InformationMessages
  rintro ⟨identify, -⟩
  have answered := identify twoIdentifies 12 _ rfl (by decide) rfl rfl rfl rfl rfl rfl rfl
  have left := identify_serves_late_message
  rw [answered] at left
  exact absurd left (by decide +kernel)

/-- FLOE_POWER off of floe 0 in service at mailbox 0, with FLOE_POWER off of floe 1 among those that the timer has answered.
A run does not come here by REQUEST_TAKE, which waits while a request at the compositor has not begun (`foreground`); the
statement speaks of every state. -/
def twoPowerOffs : State :=
  upWith [(0, { Mailbox.reset with svc := some (unbegun 1 3 0x0013 [0]), late := [unbegun 0 3 0x0013 [1]] })] []

/-- The message served is that of floe 1, and floe 0 stays ON. -/
theorem floePowerOff_serves_late_message :
    (match exec (.floePowerOff 0) twoPowerOffs with
      | .next t => (floeState t.dev 0, floeState t.dev 1)
      | _ => (2, 2)) = (0, 1) := by
  decide +kernel

/-- Refutes O6: its first clause says that the floe of the message in service drains, and leaves free what the timer has
answered at the same mailbox, which FLOE_POWER serves first. -/
theorem not_floePower : ¬ Obligations.FloePower := by
  unfold Obligations.FloePower
  rintro ⟨off, -⟩
  obtain ⟨t, next, drains, -⟩ := off twoPowerOffs 0 0 (unbegun 1 3 0x0013 [0])
    rfl (by decide) rfl rfl rfl rfl (by decide) rfl rfl rfl rfl (by decide) rfl rfl
  have other := floePowerOff_serves_late_message
  simp only [next, drains, Prod.mk.injEq] at other
  exact absurd other.1 (by decide)

end Sys2Proof.Machine
end

section
/-! PROOFS. Boot: what follows a command that leaves the FAILED flag and the recoveries alone, the end of step 4 and the end
of step 5 (R503, R506), and the statement BootImage. -/

namespace Sys2Proof.Machine

open Sys2Proof

/-! ### What follows a command that may change DEVICE_STATUS.STATE -/

/-- What follows may be the event of a changed STATE (R59), and nothing else. -/
theorem settle_event_frame {old new : Dev} (due : new.errq.due = []) (failed : new.boot.failed = old.boot.failed)
    (wait : new.tagWait = []) (tags : new.tagHeld = []) (sent : new.sw.seen = []) : MsgFrame new (settle old new) := by
  have recoveries : runDue 16 new = new := by rw [runDue, due]
  have links : failLinks old new = new := by
    unfold failLinks
    rw [failed]
    cases old.boot.failed <;> rfl
  unfold settle
  rw [mirrorSent_none sent, recoveries, links, settleTags_idle wait tags]
  dsimp only
  split
  · exact .refl new
  · exact (eventDev_frame ..).trans (foldl_msg _ (fun d m => ring_frame d m 3) _ _)

/-- A command whose effect, messages apart, is known by the device it leaves. -/
theorem onDev_frame {i : Instr} {s : State} {f : Dev → Dev} {e : Dev} (w : i.wellFormed = true) (sv : Serving s)
    (effect : MsgFrame e (f (latch s))) (due : e.errq.due = []) (failed : e.boot.failed = s.dev.boot.failed)
    (wait : e.tagWait = []) (tags : e.tagHeld = []) (sent : e.sw.seen = []) :
    ∃ d, onDev i s f = .next { s with dev := d } ∧ MsgFrame e d := by
  refine ⟨_, onDev_next f w sv.1, effect.trans ?_⟩
  obtain ⟨_, _, _, _, h⟩ := effect
  rw [h]
  exact settle_event_frame due failed wait tags sent

/-! ### The end of step 4 (R506) -/

/-- The device as it enters RECOVERY, the replies to requests in service apart. -/
def recovering (d : Dev) (cause : Nat) : Dev :=
  { d with boot := { d.boot with phase := 2, cause := cause, running := false } }

theorem verifyImage_strap {d : Dev} (boot : d.boot.phase = 1) (idle : d.boot.running = false)
    (calm : d.boot.flushing = false) (strap : d.boot.bootMode = 1 ∨ d.boot.bootMode = 3) :
    MsgFrame (recovering d 6) (verifyImage d) := by
  have enters : verifyImage d = enterRecovery d 6 := by simp [verifyImage, boot, idle, calm, strap]
  rw [enters]
  exact failServices_frame _

/-- The image that step 4 puts in force. -/
def flashed (d : Dev) : Bytes := slice d.boot.flashImage 0 (fieldAt d.boot.flashImage 8 4)

/-- The device in step 5. -/
def imageRuns (d : Dev) : Dev :=
  { d with boot := { d.boot with
      phase := 1, cause := 0, image := flashed d, fwVersion := fieldAt (flashed d) 4 4, running := true } }

section
variable {d : Dev} (boot : d.boot.phase = 1) (idle : d.boot.running = false) (calm : d.boot.flushing = false)
  (whole : d.boot.torn = false) (strap1 : d.boot.bootMode ≠ 1) (strap3 : d.boot.bootMode ≠ 3)
include boot idle calm whole strap1 strap3

theorem verifyImage_accepted (power : d.boot.pwrLow = false) (ok : imageCause d.boot.record d.boot.flashImage = 0) :
    verifyImage d = imageRuns d := by
  simp [verifyImage, boot, idle, calm, whole, strap1, strap3, ok, runImage, power, imageRuns, flashed]

theorem verifyImage_rejected (bad : imageCause d.boot.record d.boot.flashImage ≠ 0) :
    MsgFrame (recovering d (imageCause d.boot.record d.boot.flashImage)) (verifyImage d) := by
  have enters : verifyImage d = enterRecovery d (imageCause d.boot.record d.boot.flashImage) := by
    simp [verifyImage, boot, idle, calm, whole, strap1, strap3, bad]
  rw [enters]
  exact failServices_frame _

end

/-! ### The end of step 5 (R503) -/

/-- Enabling links changes links alone. -/
theorem enableLinks_frame (l : List Nat) (d : Dev) : ∃ links, l.foldl enableLink d = { d with links := links } :=
  foldl_rel (fun d e => ∃ links, e = { d with links := links }) (fun d => ⟨d.links, rfl⟩)
    (by rintro d _ _ ⟨_, rfl⟩ ⟨x, rfl⟩; exact ⟨x, rfl⟩) enableLink
    (fun d n => by
      unfold enableLink
      split
      · exact ⟨_, rfl⟩
      · exact ⟨d.links, rfl⟩) l d

/-- The boot state of a device that is up after training. -/
def Boot.trained (b : Boot) (t : Training) (free : Nat) : Boot :=
  { b with
    phase := 3, running := false, edgeReady := true
    floes := (List.range 4).map (fun f => (f, if t.floes.getD f false then 0 else 2))
    contained := (List.range 4).filter (fun f => !t.floes.getD f false)
    containedMem := (List.range 12).filter (fun i => t.stackCaps.getD i 0 = 0) ++
      ((List.range 16).filter (fun i => t.bulks.getD i 0 = 0)).map (16 + ·)
    stackCaps := (List.range 12).map (fun i => (i, t.stackCaps.getD i 0))
    bulks := (List.range 16).map (fun i => (i, t.bulks.getD i 0))
    backed := (List.range 16).filter (fun i => t.backed.getD i false)
    vddCore := 650 + 5 * (free % 41) }

/-- The device that has trained, its links and the events of its floes apart. -/
def trained (d : Dev) (t : Training) : Dev := { d with boot := d.boot.trained t (freeVal d), free := d.free + 1 }

theorem endTraining_frame {d : Dev} (t : Training) (boot : d.boot.phase = 1) (runs : d.boot.running = true) :
    ∃ links, MsgFrame { trained d t with links := links } (endTraining d t) := by
  have enabled : ∃ links, (if d.boot.bootMode = 2 then trained d t else (List.range 8).foldl enableLink (trained d t)) =
      { trained d t with links := links } := by
    split
    · exact ⟨d.links, rfl⟩
    · exact enableLinks_frame ..
  obtain ⟨links, enabled⟩ := enabled
  refine ⟨links, ?_⟩
  have working : ¬(d.boot.phase ≠ 1 ∨ !d.boot.running) := by simp [boot, runs]
  rw [← enabled, endTraining, if_neg working]
  exact foldl_msg (fun d f => eventDev d 1 0 f) (fun d f => eventDev_frame d 1 0 f) _ _

theorem trained_floeState (d : Dev) (t : Training) {f : Nat} (h : f < 4) :
    floeState (trained d t) f = if t.floes.getD f false then 0 else 2 := by
  match f, h with
  | 0, _ | 1, _ | 2, _ | 3, _ => rfl

/-- Settles O8: the end of step 4 leaves the device of step 5 or one in RECOVERY, that of step 5 the device that has
trained; what follows either is messages alone. -/
theorem bootImage : Obligations.BootImage := by
  unfold Obligations.BootImage
  refine ⟨?judged, ?strap, ?training⟩
  case judged =>
    intro s w sv boot idle calm whole power strap1 strap3
    have ⟨_, due, wait, tags, sent⟩ := sv
    by_cases ok : imageCause s.dev.boot.record s.dev.boot.flashImage = 0
    · have effect : MsgFrame (imageRuns (latch s)) (verifyImage (latch s)) :=
        verifyImage_accepted (d := latch s) boot idle calm whole strap1 strap3 power ok ▸ .refl _
      obtain ⟨_, next, _, _, _, _, rfl⟩ := onDev_frame w sv effect due rfl wait tags sent
      simp only [ok]
      exact ⟨_, next, rfl, rfl, rfl, rfl, rfl, rfl, rfl, rfl, rfl⟩
    · have effect := verifyImage_rejected (d := latch s) boot idle calm whole strap1 strap3 ok
      obtain ⟨_, next, _, _, _, _, rfl⟩ := onDev_frame w sv effect due rfl wait tags sent
      simp only [ok]
      exact ⟨_, next, rfl, rfl, rfl, rfl, rfl, rfl, rfl, rfl, rfl⟩
  case strap =>
    intro s w sv boot idle calm strap
    have ⟨_, due, wait, tags, sent⟩ := sv
    have effect := verifyImage_strap (d := latch s) boot idle calm strap
    obtain ⟨_, next, _, _, _, _, rfl⟩ := onDev_frame w sv effect due rfl wait tags sent
    exact ⟨_, next, rfl, rfl, rfl, rfl, rfl, rfl, rfl, rfl⟩
  case training =>
    intro s tr w sv boot runs
    have ⟨_, due, wait, tags, sent⟩ := sv
    obtain ⟨links, effect⟩ := endTraining_frame (d := latch s) tr boot runs
    obtain ⟨_, next, _, _, _, _, rfl⟩ :=
      onDev_frame (f := fun d => endTraining d tr) w sv effect due rfl wait tags sent
    exact ⟨_, next, rfl, rfl, fun f h => trained_floeState (latch s) tr h, rfl, rfl, rfl, rfl, rfl, rfl, rfl⟩

end Sys2Proof.Machine
end

section
/-! PROOFS. Register writes: the words of BAR0 at a mailbox and at a galley's doorbell registers, the compositor's writes of
HOLDUP and of the error queue's acknowledgement (R22, R30, R31, R197, R447, R526), and the statement RegisterWrites. -/

namespace Sys2Proof.Machine

open Sys2Proof

/-! ### A host's words -/

/-- A host's write whose effect is that of a command. -/
theorem hostWrite_eq {i : Instr} {s : State} {port off v : Nat} {f : Dev → Dev}
    (w : (.registerWrite (.host port) off 4 v : Instr).wellFormed = true) (sv : Serving s) (wi : i.wellFormed = true)
    (command : exec i s = onDev i s f) (same : bar0Write (latch s) port off 4 v = f (latch s)) :
    ∃ t, exec (.registerWrite (.host port) off 4 v) s = .next t ∧ exec i s = .next t := by
  refine ⟨{ s with dev := settle (latch s) (f (latch s)) }, ?_, ?_⟩
  · rw [← same]
    exact onState_next (fun k d => issuerWrite k d (.host port) off 4 v) w sv.1
  · rw [command, onDev_next f wi sv.1]

/-- The words of mailbox `m` above REQ_DATA stand at its 0x100 bytes of BAR0 (R22, R31). -/
theorem bar0Write_mail {d : Dev} {m q : Nat} (port v : Nat) (out : devState d ≠ 0) (hm : m < 16) (low : 0x40 ≤ q)
    (high : q < 0x100) (aligned : q % 4 = 0) :
    bar0Write d port (0x10000 + q + 0x100 * m) 4 v = mailWord port m d (0x10000 + q + 0x100 * m, v % 2 ^ 32) := by
  have mail : 0x10000 + q + 0x100 * m < 0x11000 := by omega
  have number : (0x10000 + q + 0x100 * m - 0x10000) / 0x100 = m := by omega
  have place : (0x10000 + q + 0x100 * m) % 0x100 = q := by omega
  have even : (0x10000 + q + 0x100 * m) % 4 = 0 := by omega
  have start : 0x10000 ≤ 0x10000 + q + 0x100 * m := by omega
  simp only [bar0Write, out, number, place, even, start, mail, Nat.not_lt.mpr low, hostWords]
  simp

/-- The registers of galley `g` of context `ctx` stand at its 0x40 bytes of the doorbell pages (R22, R197). -/
theorem bar0Write_bell {d : Dev} {ctx g q : Nat} (port v : Nat) (out : devState d ≠ 0) (hc : ctx < 512) (hg : g < 8)
    (high : q < 0x40) (aligned : q % 4 = 0) :
    bar0Write d port (0x100000 + q + 0x1000 * ctx + 0x40 * g) 4 v =
      doorbell d port ctx g (fun d => bellWord ctx g d (0x100000 + q + 0x1000 * ctx + 0x40 * g, v % 2 ^ 32)) := by
  have past : ¬0x100000 + q + 0x1000 * ctx + 0x40 * g < 0x11000 := by omega
  have page : 0x100000 ≤ 0x100000 + q + 0x1000 * ctx + 0x40 * g ∧ 0x100000 + q + 0x1000 * ctx + 0x40 * g < 0x300000 ∧
      (0x100000 + q + 0x1000 * ctx + 0x40 * g) % 0x1000 < 0x200 := by omega
  have context : (0x100000 + q + 0x1000 * ctx + 0x40 * g - 0x100000) / 0x1000 = ctx := by omega
  have galley : (0x100000 + q + 0x1000 * ctx + 0x40 * g) % 0x1000 / 0x40 = g := by omega
  have even : (0x100000 + q + 0x1000 * ctx + 0x40 * g) % 4 = 0 := by omega
  simp only [bar0Write, out, past, page, context, galley, even, hostWords]
  simp

/-! ### The words of a mailbox (R31) -/

section
variable {d : Dev} {port m : Nat} (v : Nat) (out : devState d ≠ 0) (hm : m < 16)
include out hm

theorem bar0Write_mask : bar0Write d port (0x10054 + 0x100 * m) 4 v =
    if devState d = 0 ∨ !mailUse d port m then d else writeMask d m (BitVec.ofNat 32 v).toNat := by
  have place : (0x10054 + 0x100 * m) % 0x100 = 0x54 := by omega
  rw [show 0x10054 = 0x10000 + 0x54 from rfl, bar0Write_mail port v out hm (by decide) (by decide) rfl]
  simp [mailWord, place, out]

theorem bar0Write_doorbell : bar0Write d port (0x10050 + 0x100 * m) 4 v =
    if devState d = 0 ∨ !mailUse d port m then d else clearDoorbell d m (BitVec.ofNat 32 v).toNat := by
  have place : (0x10050 + 0x100 * m) % 0x100 = 0x50 := by omega
  rw [show 0x10050 = 0x10000 + 0x50 from rfl, bar0Write_mail port v out hm (by decide) (by decide) rfl]
  simp [mailWord, place, out]

/-- A port that may not use the mailbox posts nothing either way. -/
theorem bar0Write_post (set : bitOf v 0 = true) (word : v < 2 ^ 32) :
    bar0Write d port (0x10048 + 0x100 * m) 4 v = postRequest d port m := by
  have place : (0x10048 + 0x100 * m) % 0x100 = 0x48 := by omega
  rw [show 0x10048 = 0x10000 + 0x48 from rfl, bar0Write_mail port v out hm (by decide) (by decide) rfl,
    Nat.mod_eq_of_lt word]
  by_cases use : mailUse d port m = true
  · simp [mailWord, place, set, use]
  · simp [mailWord, postRequest, use]

end

/-! ### The registers of a galley (R197) -/

section
variable {d : Dev} {port ctx g : Nat} (v : Nat) (out : devState d ≠ 0) (hc : ctx < 512) (hg : g < 8)
include out hc hg

theorem bar0Write_tail : bar0Write d port (0x100000 + 0x1000 * ctx + 0x40 * g) 4 v =
    doorbell d port ctx g (fun d =>
      if (galleyOf d ctx g).state = 4 then dropCount d ctx g else judgeTail d ctx g (v % 2 ^ 32)) := by
  have place : (0x100000 + 0x1000 * ctx + 0x40 * g) % 0x40 = 0 := by omega
  rw [show 0x100000 = 0x100000 + 0x00 from rfl, bar0Write_bell port v out hc hg (by decide) rfl]
  simp [bellWord, place]

theorem bar0Write_head : bar0Write d port (0x100004 + 0x1000 * ctx + 0x40 * g) 4 v =
    doorbell d port ctx g (fun d =>
      if (galleyOf d ctx g).state = 4 then dropCount d ctx g else judgeHead d ctx g (v % 2 ^ 32)) := by
  have place : (0x100004 + 0x1000 * ctx + 0x40 * g) % 0x40 = 4 := by omega
  rw [show 0x100004 = 0x100000 + 0x04 from rfl, bar0Write_bell port v out hc hg (by decide) rfl]
  simp [bellWord, place]

theorem bar0Write_start : bar0Write d port (0x100010 + 0x1000 * ctx + 0x40 * g) 4 1 =
    doorbell d port ctx g (fun d => startGalley d ctx g) := by
  have place : (0x100010 + 0x1000 * ctx + 0x40 * g) % 0x40 = 0x10 := by omega
  have start : (fun d => bellWord ctx g d (0x100010 + 0x1000 * ctx + 0x40 * g, 1)) = fun d => startGalley d ctx g := by
    funext d
    simp [bellWord, place, bitOf]
  rw [← start]
  exact bar0Write_bell port 1 out hc hg (q := 0x10) (by decide) rfl

end

/-! ### The commands that the words stand for -/

section
variable {port off size v : Nat} (w : (.registerWrite (.host port) off size v : Instr).wellFormed = true)
include w

/-- The operands of a mailbox command whose port a host's write names. -/
theorem mailOperands {m : Nat} (hm : m < 16) : (decide (port < 12) && decide (m < 16)) = true := by
  have hp : port < 12 := of_decide_eq_true w
  simp [hp, hm]

/-- The operands of a galley command whose port a host's write names. -/
theorem galleyOperands {ctx g : Nat} (hc : ctx < 512) (hg : g < 8) :
    (decide (port < 12) && decide (ctx < 512) && decide (g < 8)) = true := by
  have hp : port < 12 := of_decide_eq_true w
  simp [hp, hc, hg]

end

theorem exec_dbMaskWrite (port mb : Nat) (v : BitVec 32) (s : State) : exec (.dbMaskWrite port mb v) s =
    onDev (.dbMaskWrite port mb v) s (fun d =>
      if devState d = 0 ∨ !mailUse d port mb then d else writeMask d mb v.toNat) := rfl

theorem exec_doorbellClear (port mb : Nat) (v : BitVec 32) (s : State) : exec (.doorbellClear port mb v) s =
    onDev (.doorbellClear port mb v) s (fun d =>
      if devState d = 0 ∨ !mailUse d port mb then d else clearDoorbell d mb v.toNat) := rfl

theorem exec_post (port mb : Nat) (s : State) :
    exec (.post port mb) s = onDev (.post port mb) s (fun d => postRequest d port mb) := rfl

theorem exec_cmdTailWrite (port ctx g v : Nat) (s : State) : exec (.cmdTailWrite port ctx g v) s =
    onDev (.cmdTailWrite port ctx g v) s (fun d => doorbell d port ctx g (fun d =>
      if (galleyOf d ctx g).state = 4 then dropCount d ctx g else judgeTail d ctx g (v % 2 ^ 32))) := rfl

theorem exec_proofHeadWrite (port ctx g v : Nat) (s : State) : exec (.proofHeadWrite port ctx g v) s =
    onDev (.proofHeadWrite port ctx g v) s (fun d => doorbell d port ctx g (fun d =>
      if (galleyOf d ctx g).state = 4 then dropCount d ctx g else judgeHead d ctx g (v % 2 ^ 32))) := rfl

theorem exec_galleyStart (port ctx g : Nat) (s : State) : exec (.galleyStart port ctx g) s =
    onDev (.galleyStart port ctx g) s (fun d => doorbell d port ctx g (fun d => startGalley d ctx g)) := rfl

theorem exec_errqAck (v : Nat) (s : State) :
    exec (.errqAck v) s = onDev (.errqAck v) s (fun d => ackErrors d (v % 2 ^ 32)) := rfl

/-! ### The compositor's writes (R30, R447, R526) -/

/-- A full write of 4 bytes of a register of 4 bytes outside the floes: its stored fields, then what its bits do. -/
theorem writeAt_word {off : Nat} {r : Reg} (k : Clock) (d : Dev) (v : Nat) (under : regsUnder off 4 = [r])
    (base : r.base = off) (size : r.size = 4) (edge : 0x04000000 ≤ off) :
    ∃ o, writeAt k d off 4 (2 ^ 64 - 1) v false =
      ((edgeAct k (storeReg d r (2 ^ 32 - 1) (v % 2 ^ 32)).1 off (rv d off) (2 ^ 32 - 1) (v % 2 ^ 32)).1,
        (edgeAct k (storeReg d r (2 ^ 32 - 1) (v % 2 ^ 32)).1 off (rv d off) (2 ^ 32 - 1) (v % 2 ^ 32)).2, o) := by
  have here (n : Nat) : toReg r off n = n % 2 ^ 32 := by simp [toReg, base, size]
  have whole : (2 ^ 64 - 1) % 2 ^ (8 * 4) % 2 ^ 32 = 2 ^ 32 - 1 := by decide
  have word : v % 2 ^ (8 * 4) % 2 ^ 32 = v % 2 ^ 32 := Nat.mod_mod ..
  have masked : v % 2 ^ 32 &&& (2 ^ 32 - 1) = v % 2 ^ 32 :=
    Nat.and_two_pow_sub_one_of_lt_two_pow (n := 32) (Nat.mod_lt _ (by decide))
  have outside : ¬r.base < 0x04000000 := by omega
  unfold writeAt
  rw [under, List.foldl_cons, List.foldl_nil, here, here, whole, word, writeReg, if_neg outside, masked, base]
  exact ⟨_, rfl⟩

/-- Such a write by the compositor that leaves the time base and the boot state alone: what it does, and its outcome in
BUS_STATUS (R58). -/
theorem exec_compositorWrite {s : State} {off v : Nat} {r : Reg} {e : Dev} (sv : Serving s) (good : badOffset off 4 = false)
    (under : regsUnder off 4 = [r]) (base : r.base = off) (size : r.size = 4) (edge : 0x04B00000 < off)
    (effect : edgeAct s.clk (storeReg (latch s) r (2 ^ 32 - 1) (v % 2 ^ 32)).1 off (rv (latch s) off) (2 ^ 32 - 1)
      (v % 2 ^ 32) = (s.clk, e))
    (due : e.errq.due = []) (boot : e.boot = s.dev.boot) (wait : e.tagWait = []) (tags : e.tagHeld = [])
    (sent : e.sw.seen = []) :
    ∃ st, exec (.registerWrite .compositor off 4 v) s = .next { s with dev := noteBus e 0 st off } := by
  obtain ⟨o, written⟩ := writeAt_word s.clk (latch s) v under base size (by omega)
  have outside : offInFloe (latch s) off = false := by
    simp only [offInFloe, show ¬off < 0x04000000 by omega, decide_false, Bool.false_and]
  have noReset : ¬off = 0x04B00000 := by omega
  have done : ∃ st, issuerWrite s.clk (latch s) .compositor off 4 v = (s.clk, noteBus e 0 st off) := by
    simp only [issuerWrite, procWrite, good, outside, written, effect, noReset, false_and]
    exact ⟨_, rfl⟩
  obtain ⟨st, done⟩ := done
  exact ⟨st, onState_settled (i := .registerWrite .compositor off 4 v)
    (f := fun k d => issuerWrite k d .compositor off 4 v) rfl sv.1 done (settle_quiet due boot wait tags sent)⟩

/-- HOLDUP (R526). -/
def holdupReg : Reg := ⟨0x04B00010, 4, [rw 0 16 0x190]⟩

/-- ERRQ_ACK (R447). -/
def errqAckReg : Reg := ⟨0x04C00010, 4, [wo 0 32]⟩

theorem regsUnder_holdup : regsUnder 0x04B00010 4 = [holdupReg] := by decide +kernel
theorem regsUnder_errqAck : regsUnder 0x04C00010 4 = [errqAckReg] := by decide +kernel

/-- The value of HOLDUP after a full write. -/
def holdupAfter (d : Dev) (v : Nat) : Nat := setBits (rv d 0x04B00010) 0 16 (v % 2 ^ 16)

theorem holdupAfter_bits (d : Dev) (v : Nat) : bits (holdupAfter d v) 0 16 = v % 65536 := by
  simp only [holdupAfter, bits, setBits, Nat.shiftRight_zero]
  omega

/-- A full write of HOLDUP's one field stores the value. -/
theorem writeField_holdup (d : Dev) (run : Bool) (v : Nat) :
    writeField d holdupReg run (2 ^ 32 - 1) v ⟨rv d 0x04B00010, 0, 0, false⟩ (rw 0 16 0x190) =
      ⟨holdupAfter d v, 0, 0, false⟩ := by
  have all (n : Nat) : bits n 0 16 &&& 65535 = bits n 0 16 :=
    Nat.and_two_pow_sub_one_of_lt_two_pow (n := 16) (Nat.mod_lt _ (by decide))
  have mask : bits (2 ^ 32 - 1) 0 16 = 65535 := by decide
  have value : bits v 0 16 = v % 2 ^ 16 := rfl
  unfold writeField
  simp only [holdupReg, rw, mask, all, Nat.sub_self, Nat.zero_add]
  simp [holdupAfter, value]

theorem storeReg_holdup (d : Dev) (v : Nat) :
    (storeReg d holdupReg (2 ^ 32 - 1) v).1 =
      if holdupAfter d v = rv d 0x04B00010 then d else { d with regs := tput d.regs 0x04B00010 (holdupAfter d v) } := by
  have token : tokenAt 0x04B00010 = none := rfl
  have unstaged : stagedMask holdupReg = 0 := rfl
  have starts (o n : Nat) : startsSweeps 0x04B00010 o n = false := rfl
  have stops (o n : Nat) : stopsSweeps 0x04B00010 o n = false := rfl
  have base : holdupReg.base = 0x04B00010 := rfl
  have fields : holdupReg.flds = [rw 0 16 0x190] := rfl
  unfold storeReg
  simp only [base, token, fields, List.foldl_cons, List.foldl_nil, writeField_holdup, unstaged, starts, stops]
  by_cases same : holdupAfter d v = rv d 0x04B00010
  · simp [same]
  · simp [same]

theorem storeReg_holdup_regs (d : Dev) (v : Nat) :
    ∃ regs, (storeReg d holdupReg (2 ^ 32 - 1) v).1 = { d with regs := regs } ∧
      tget regs 0x04B00010 (regReset 0x04B00010) = holdupAfter d v ∧
      ∀ o, o ≠ 0x04B00010 → tget regs o (regReset o) = rv d o := by
  rw [storeReg_holdup]
  split
  · rename_i same
    exact ⟨d.regs, rfl, same.symm, fun _ _ => rfl⟩
  · exact ⟨_, rfl, tget_tput_self .., fun o other => tget_tput_ne _ _ _ other⟩

/-- HOLDUP has no bit that acts. -/
theorem edgeAct_holdup (k : Clock) (d : Dev) (old m w : Nat) : edgeAct k d 0x04B00010 old m w = (k, d) := by
  simp [edgeAct]

/-- ERRQ_ACK stores nothing. -/
theorem storeReg_errqAck (d : Dev) (m v : Nat) : (storeReg d errqAckReg m v).1 = d := by
  have token : tokenAt errqAckReg.base = none := rfl
  have fields : errqAckReg.flds = [wo 0 32] := rfl
  unfold storeReg
  simp only [token, fields, List.foldl_cons, List.foldl_nil]
  simp [writeField, wo]

theorem edgeAct_errqAck (k : Clock) (d : Dev) (old w : Nat) :
    edgeAct k d 0x04C00010 old (2 ^ 32 - 1) w = (k, ackErrors d w) := by
  simp [edgeAct]

/-- Settles O12: a host's word has the effect of the command of its register; the compositor's two writes store HOLDUP's
value and acknowledge records. -/
theorem registerWrites : Obligations.RegisterWrites := by
  unfold Obligations.RegisterWrites
  refine ⟨?holdup, ?mask, ?clear, ?post, ?tail, ?head, ?start, ?acknowledge⟩
  case holdup =>
    intro s v _ sv
    have ⟨_, due, wait, tags, sent⟩ := sv
    obtain ⟨regs, stored, value, others⟩ := storeReg_holdup_regs (latch s) (v % 2 ^ 32)
    obtain ⟨st, next⟩ := exec_compositorWrite (v := v) (e := { latch s with regs := regs }) sv (by decide +kernel)
      regsUnder_holdup rfl rfl (by decide) (by rw [edgeAct_holdup, stored]) due rfl wait tags sent
    refine ⟨_, next, ?_, others, rfl⟩
    have field := holdupAfter_bits (latch s) (v % 2 ^ 32)
    rw [Nat.mod_mod_of_dvd v (by decide)] at field
    rw [← field, ← value]
    rfl
  case mask =>
    intro s port mb v w sv hmb out
    exact hostWrite_eq w sv (mailOperands w hmb) (exec_dbMaskWrite ..) (bar0Write_mask v out hmb)
  case clear =>
    intro s port mb v w sv hmb out
    exact hostWrite_eq w sv (mailOperands w hmb) (exec_doorbellClear ..) (bar0Write_doorbell v out hmb)
  case post =>
    intro s port mb v w sv hmb out set word
    exact hostWrite_eq w sv (mailOperands w hmb) (exec_post ..) (bar0Write_post v out hmb set word)
  case tail =>
    intro s port ctx g v w sv hc hg out _
    exact hostWrite_eq w sv (galleyOperands w hc hg) (exec_cmdTailWrite ..) (bar0Write_tail v out hc hg)
  case head =>
    intro s port ctx g v w sv hc hg out _
    exact hostWrite_eq w sv (galleyOperands w hc hg) (exec_proofHeadWrite ..) (bar0Write_head v out hc hg)
  case start =>
    intro s port ctx g w sv hc hg out
    exact hostWrite_eq w sv (galleyOperands w hc hg) (exec_galleyStart ..) (bar0Write_start out hc hg)
  case acknowledge =>
    intro s v _ sv _
    have ⟨held, due, wait, tags, sent⟩ := sv
    obtain ⟨st, next⟩ := exec_compositorWrite (v := v) (e := ackErrors (latch s) (v % 2 ^ 32)) sv (by decide +kernel)
      regsUnder_errqAck rfl rfl (by decide) (by rw [edgeAct_errqAck, storeReg_errqAck]) due rfl wait tags sent
    refine ⟨_, next, ?_⟩
    rw [exec_errqAck]
    exact onDev_quiet _ rfl held due rfl wait tags sent

end Sys2Proof.Machine
end

section
/-! PROOFS. The end of a flush after PWR_FAIL_N has risen: it is a device reset, which sets the time base back (R503, R524):
the refutation of EveryCommandAnswers. -/

namespace Sys2Proof.Machine

open Sys2Proof

theorem powerRecord_boot (d : Dev) (e : Nat) : ∃ x, (powerRecord d e).boot = { d.boot with failed := x } := by
  obtain ⟨_, _, _, _, _, x, h⟩ := logErr_frame d 12 0 0 0 0xFFFF
    (errBody 0 0 0 0xFFFF (e + (if e = 3 ∨ e = 4 then d.boot.power else d.boot.tj) % 65536 * 65536) 0) true
  exact ⟨x, congrArg Dev.boot h⟩

/-- With no durable write waiting the flush ends (R523). -/
theorem endFlush_boot {d : Dev} (runs : d.boot.flushing = true) (goes : d.boot.flushDone = false)
    (idle : durableWaits d = false) : ∃ x, (endFlush d).boot = { d.boot with flushDone := true, failed := x } := by
  unfold endFlush
  rw [if_pos (by simp [runs, goes, idle])]
  exact powerRecord_boot ..

/-- Where PWR_FAIL_N is high by then, the end of the flush is a device reset (R524). -/
theorem exec_flushEnd_resets {s : State} (on : s.dev.boot.held = false) (runs : s.dev.boot.flushing = true)
    (goes : s.dev.boot.flushDone = false) (idle : durableWaits s.dev = false) (high : s.dev.boot.pwrLow = false) :
    exec .flushEnd s = .next { s with
      clk := clearClock s.clk, dev := settle (latch s) (resetDevice s.clk (endFlush (latch s))).2 } := by
  obtain ⟨x, boot⟩ := endFlush_boot (d := latch s) runs goes idle
  have low : (!s.dev.boot.pwrLow) = true := by rw [high]; rfl
  have resets : (endFlush (latch s)).boot.flushing = true ∧ (endFlush (latch s)).boot.flushDone = true ∧
      !(endFlush (latch s)).boot.pwrLow := by
    rw [boot]; exact ⟨runs, rfl, low⟩
  change execFlushEnd s = _
  rw [execFlushEnd, onState_next _ rfl on]
  simp only [if_pos resets, resetDevice]

/-- One nanosecond after reset: a flush that nothing holds up, with PWR_FAIL_N high again. -/
def flushEnding : State :=
  { State.reset with clk := { Clock.reset with time := 1 },
                     dev := { Dev.reset with boot := { Boot.reset with held := false, phase := 3, flushing := true } } }

/-- Refutes O58: FLUSH_END is not among the commands that `mayMoveClock` names, yet where PWR_FAIL_N is high again it resets
the device, and device time with it. -/
theorem not_everyCommandAnswers : ¬ Obligations.EveryCommandAnswers := by
  unfold Obligations.EveryCommandAnswers
  rintro ⟨answers, -⟩
  obtain ⟨t, next, -, time⟩ := answers .flushEnd flushEnding rfl
  rw [exec_flushEnd_resets rfl rfl rfl rfl rfl] at next
  injection next with reset
  have moved : t.clk.time = 0 := by rw [← reset]; rfl
  rw [time rfl] at moved
  exact absurd moved (by decide)

end Sys2Proof.Machine
end

section
/-! PROOFS. Commands that change neither the error queue nor the state of the device (DEVICE_STATUS.STATE), and after which
nothing follows. -/

namespace Sys2Proof.Machine

open Sys2Proof

/-- Where no recovery is due, no tag is wanted and no frame was sent, `settle` looks at the state and the FAILED flag alone. -/
theorem settle_still {old new : Dev} (due : new.errq.due = []) (state : devState new = devState old)
    (failed : new.boot.failed = old.boot.failed) (wait : new.tagWait = []) (tags : new.tagHeld = [])
    (sent : new.sw.seen = []) : settle old new = new := by
  have recoveries : runDue 16 new = new := by rw [runDue, due]
  have links : failLinks old new = new := by
    unfold failLinks
    rw [failed]
    cases old.boot.failed <;> rfl
  unfold settle
  rw [mirrorSent_none sent, recoveries, links, settleTags_idle wait tags]
  simp [state]

/-- What a command of a serving device may change with nothing to follow: no record, no tag, no frame on a link, and of the
boot state the phase of a Global Persistent Flush alone. -/
def Undisturbed (d e : Dev) : Prop :=
  e.errq = d.errq ∧ e.tagWait = d.tagWait ∧ e.tagHeld = d.tagHeld ∧ e.sw = d.sw ∧ e.boot = { d.boot with gpf := e.boot.gpf }

/-- A command of a serving device that leaves it undisturbed: its effect alone. -/
theorem onDev_undisturbed {i : Instr} {s : State} {f : Dev → Dev} {e : Dev} (w : i.wellFormed = true) (sv : Serving s)
    (effect : f (latch s) = e) (same : Undisturbed (latch s) e) : onDev i s f = .next { s with dev := e } := by
  obtain ⟨held, due, wait, tags, sent⟩ := sv
  obtain ⟨errq, tagWait, tagHeld, sw, boot⟩ := same
  have state : devState e = devState (latch s) := by unfold devState anyContained; rw [boot]
  have failed : e.boot.failed = (latch s).boot.failed := by rw [boot]
  have quiet : settle (latch s) e = e :=
    settle_still (by rw [errq]; exact due) state failed (tagWait.trans wait) (tagHeld.trans tags) (by rw [sw]; exact sent)
  rw [onDev_next f w held, effect, quiet]

end Sys2Proof.Machine
end

section
/-! PROOFS. The end of a CXL.io request (R44, R367), the phases of a Global Persistent Flush (R366), and the statement
CxlioCompletions. -/

namespace Sys2Proof.Machine

open Sys2Proof

/-! ### Services of a mailbox -/

/-- The service in place, by its number, before those that the timer has answered. -/
theorem svcOf_inPlace {d : Dev} {m : Nat} {sv : Service} (h : (mbOf d m).svc = some sv) : svcOf d m sv.id = some sv := by
  simp [svcOf, h]

@[simp] theorem mbOf_setMb_self (d : Dev) (m : Nat) (x : Mailbox) : mbOf (setMb d m x) m = x := tget_tput_self ..

@[simp] theorem portOf_setPort_self (d : Dev) (p : Nat) (x : Port) : portOf (setPort d p x) p = x := tget_tput_self ..

/-- A change of the service in place. -/
theorem modSvc_svc {d : Dev} {m : Nat} {sv : Service} (f : Service → Service) (h : (mbOf d m).svc = some sv) :
    (mbOf (modSvc d m sv.id f) m).svc = some (f sv) := by
  simp [modSvc, h]

/-- The reply of the service in place becomes ready. -/
theorem readyReply_inPlace {d : Dev} {m : Nat} {sv : Service} (b : Bytes) (h : (mbOf d m).svc = some sv)
    (unanswered : sv.reply = none) :
    readyReply d m sv.id b =
      setMb d m { mbOf d m with svc := some { sv with busy := true, ended := true, reply := some b } } := by
  simp [readyReply, h, unanswered]

/-! ### The end of a CXL.io request -/

/-- The device without a CXL.io request of a port. -/
def withoutRequest (d : Dev) (port k : Nat) : Dev :=
  setPort d port { portOf d port with io := tdel (portOf d port).io k }

theorem withoutRequest_io (d : Dev) (port k : Nat) :
    (portOf (withoutRequest d port k) port).io = tdel (portOf d port).io k :=
  congrArg Port.io (portOf_setPort_self ..)

/-- With no more than 256 requests at a port none waits to leave it, and the end of one removes it alone. -/
theorem ioEnd_eq {d : Dev} {port : Nat} (k : Nat) (few : (portOf d port).io.length ≤ 256) :
    ioEnd d port k = withoutRequest d port k := by
  simp [ioEnd, withoutRequest, List.getElem?_eq_none few]

/-- The end of the read of a parameter block (R44). -/
theorem ioComplete_param {d : Dev} {port k mb id a n ca : Nat} {w : Bool} {b : Bytes} (ans : FarAnswer)
    (req : tget? (portOf d port).io k = some ⟨.param mb id, a, n, w, b, ca⟩) (few : (portOf d port).io.length ≤ 256) :
    ioComplete d port k ans = paramDone (withoutRequest d port k) mb id ans n := by
  simp only [ioComplete, req, ioEnd_eq k few]

/-- The end of the write of a result block (R44). -/
theorem ioComplete_result {d : Dev} {port k mb id a n ca : Nat} {w : Bool} {b : Bytes} (ans : FarAnswer)
    (req : tget? (portOf d port).io k = some ⟨.result mb id, a, n, w, b, ca⟩) (few : (portOf d port).io.length ≤ 256) :
    ioComplete d port k ans = resultDone (withoutRequest d port k) mb id ans := by
  simp only [ioComplete, req, ioEnd_eq k few]

/-- The reply that the end of the write of a result block makes ready. -/
def heldReply (ans : FarAnswer) (b : Bytes) : Bytes :=
  match ans with
  | .data _ => b
  | .err _ => splice b 4 [0x15, 2]

theorem resultDone_inPlace {d : Dev} {m : Nat} {sv : Service} {b : Bytes} (ans : FarAnswer) (h : (mbOf d m).svc = some sv)
    (held : sv.held = some b) (unanswered : sv.reply = none) :
    resultDone d m sv.id ans =
      setMb d m { mbOf d m with svc := some { sv with busy := true, ended := true, reply := some (heldReply ans b) } } := by
  cases ans <;> simp [resultDone, svcOf_inPlace h, held, readyReply_inPlace _ h unanswered, heldReply]

/-! ### Galleys that stop fetching (R199, R366) -/

theorem gkey_split (k : Nat) : gkey (k / 8) (k % 8) = k := by
  unfold gkey; omega

/-- The galley of a number is RUNNING. -/
def Runs (d : Dev) (k : Nat) : Prop := (galleyOf d (k / 8) (k % 8)).state = 1

theorem runs_iff (d : Dev) (k : Nat) : Runs d k ↔ (tget d.galleys k Galley.none).state = 1 := by
  rw [Runs, galleyOf, gkey_split]

/-- GPF phase 1 at one galley. -/
def gpfStop (d : Dev) (k : Nat) : Dev :=
  if (galleyOf d (k / 8) (k % 8)).state = 1 then stopGalley d (k / 8) (k % 8) else d

/-- A stopped galley drains, or stops at once where nothing of it is in flight. -/
theorem stopGalley_not_runs (d : Dev) (k : Nat) : ¬ Runs (stopGalley d (k / 8) (k % 8)) k := by
  rw [runs_iff]
  simp only [stopGalley, settleGalley, modGalley, gkey_split, tget, tget?_tmod_self]
  cases tget? d.galleys k with
  | none => simp [Galley.none]
  | some x =>
    simp only [Option.map_some, Option.getD_some]
    split <;> split <;> simp_all

theorem stopGalley_other (d : Dev) {j k : Nat} (other : j ≠ k) :
    Runs (stopGalley d (k / 8) (k % 8)) j ↔ Runs d j := by
  simp only [runs_iff, stopGalley, settleGalley, modGalley, gkey_split, tget, tget?_tmod_ne _ _ other]

theorem gpfStop_not_runs (d : Dev) (k : Nat) : ¬ Runs (gpfStop d k) k := by
  unfold gpfStop
  split
  · exact stopGalley_not_runs d k
  · assumption

theorem gpfStop_keeps_stopped {d : Dev} {j : Nat} (k : Nat) (h : ¬ Runs d j) : ¬ Runs (gpfStop d k) j := by
  by_cases same : j = k
  · subst same; exact gpfStop_not_runs d j
  · unfold gpfStop
    split
    · rwa [stopGalley_other d same]
    · exact h

theorem foldl_gpfStop_keeps_stopped (l : List Nat) {d : Dev} {j : Nat} (h : ¬ Runs d j) : ¬ Runs (l.foldl gpfStop d) j := by
  induction l generalizing d with
  | nil => exact h
  | cons k t ih => exact ih (gpfStop_keeps_stopped k h)

/-- Every galley that was looked at has stopped fetching. -/
theorem foldl_gpfStop_stops {l : List Nat} (d : Dev) {j : Nat} (h : j ∈ l) : ¬ Runs (l.foldl gpfStop d) j := by
  induction l generalizing d with
  | nil => cases h
  | cons k t ih =>
    rcases List.mem_cons.mp h with rfl | later
    · exact foldl_gpfStop_keeps_stopped t (gpfStop_not_runs d j)
    · exact ih (gpfStop d k) later

theorem foldl_gpfStop_frame (l : List Nat) (d : Dev) : ∃ galleys, l.foldl gpfStop d = { d with galleys := galleys } := by
  refine foldl_rel (fun d e => ∃ galleys, e = { d with galleys := galleys }) (fun d => ⟨d.galleys, rfl⟩) ?_ gpfStop ?_ l d
  · rintro d _ _ ⟨_, rfl⟩ ⟨g, rfl⟩
    exact ⟨g, rfl⟩
  · intro d k
    unfold gpfStop
    split
    · exact ⟨_, rfl⟩
    · exact ⟨d.galleys, rfl⟩

/-! ### The commands -/

/-- The completion of a request that has left its port ends the request (R367). -/
theorem exec_cxlioCompletion {s : State} {port k : Nat} {ans : FarAnswer} {e : Dev}
    (w : (.cxlioCompletion port k ans : Instr).wellFormed = true) (sv : Serving s) (sent : ioSent (portOf s.dev port) k = true)
    (done : ioComplete (latch s) port k ans = e) (same : Undisturbed (latch s) e) :
    exec (.cxlioCompletion port k ans) s = .next { s with dev := e } := by
  refine onDev_undisturbed w sv ?_ same
  rw [← done]
  exact if_pos sent

/-- A timeout is counted and ends the request with an error (R367). -/
theorem exec_cplTimeout {s : State} {port k : Nat} {e : Dev}
    (w : (.cplTimeout port k : Instr).wellFormed = true) (sv : Serving s) (sent : ioSent (portOf s.dev port) k = true)
    (done : ioComplete (telPort (latch s) port 0x18) port k (.err 0x14) = e) (same : Undisturbed (latch s) e) :
    exec (.cplTimeout port k) s = .next { s with dev := e } := by
  refine onDev_undisturbed w sv ?_ same
  rw [← done]
  exact if_pos sent

/-- The device after GPF phase 1. -/
def gpfStopped (d : Dev) (port : Nat) : Dev :=
  { d with
    boot := { d.boot with gpf := 1 }
    galleys := ((tkeys d.galleys).foldl gpfStop { d with boot := { d.boot with gpf := 1 } }).galleys
    ports := tput d.ports port (wake (portOf d port))
    out := .gpf port 1 false :: d.out }

theorem gpfStopped_stops {d : Dev} (port : Nat) {j : Nat} (h : j ∈ tkeys d.galleys) : ¬ Runs (gpfStopped d port) j := by
  have stops := foldl_gpfStop_stops { d with boot := { d.boot with gpf := 1 } } h
  rw [runs_iff] at stops ⊢
  exact stops

theorem execGpfPhase1_eq (port : Nat) (s : State) : execGpfPhase1 port s =
    onDev (.gpfPhase1 port) s (fun d => if !linkUp (portOf d port) then d else gpfStopped d port) := by
  unfold execGpfPhase1
  congr 1
  funext d
  split
  · rfl
  · have stop : (fun d k => if (galleyOf d (k / 8) (k % 8)).state = 1 then stopGalley d (k / 8) (k % 8) else d) = gpfStop := rfl
    dsimp only
    obtain ⟨galleys, stopped⟩ := foldl_gpfStop_frame (tkeys d.galleys) { d with boot := { d.boot with gpf := 1 } }
    rw [gpfStopped, stop, stopped]
    rfl

theorem exec_gpfPhase1 {s : State} {port : Nat} (w : (.gpfPhase1 port : Instr).wellFormed = true) (sv : Serving s)
    (up : linkUp (portOf s.dev port) = true) :
    exec (.gpfPhase1 port) s = .next { s with dev := gpfStopped (latch s) port } := by
  have linked : linkUp (portOf (latch s) port) = true := up
  change execGpfPhase1 port s = _
  rw [execGpfPhase1_eq]
  exact onDev_undisturbed w sv (if_neg (by simp [linked])) ⟨rfl, rfl, rfl, rfl, rfl⟩

/-- The device with GPF phase 2 begun at a port: no durable write has failed yet, but where the phase was under way there. -/
def gpfBegun (d : Dev) (port : Nat) : Dev :=
  if d.boot.gpf = 2 + port then d else setPort d port { portOf d port with gpfFailed := false }

theorem gpfBegun_frame (d : Dev) (port : Nat) : gpfBegun d port = { d with ports := (gpfBegun d port).ports } := by
  unfold gpfBegun
  split <;> rfl

theorem gpfBegun_failed (d : Dev) (port : Nat) :
    (portOf (gpfBegun d port) port).gpfFailed = (decide (d.boot.gpf = 2 + port) && (portOf d port).gpfFailed) := by
  unfold gpfBegun
  split <;> simp [*]

/-- The ports have no part in what durable writes wait for. -/
theorem durableWaits_gpfBegun (d : Dev) (port : Nat) : durableWaits (gpfBegun d port) = durableWaits d := by
  rw [gpfBegun_frame]
  rfl

/-- The device while GPF phase 2 goes on at a port. -/
def gpfWaiting (d : Dev) (port : Nat) : Dev :=
  { d with boot := { d.boot with gpf := 2 + port }, ports := (gpfBegun d port).ports }

/-- The device after GPF phase 2. -/
def gpfEnded (d : Dev) (port : Nat) : Dev :=
  { d with
    boot := { d.boot with gpf := 0 }
    ports := tput (gpfBegun d port).ports port (wake (portOf (gpfBegun d port) port))
    out := .gpf port 2 (decide (d.boot.gpf = 2 + port) && (portOf d port).gpfFailed) :: d.out }

theorem execGpfPhase2_eq (port : Nat) (s : State) : execGpfPhase2 port s = onDev (.gpfPhase2 port) s (fun d =>
    if !linkUp (portOf d port) then d else if durableWaits d then gpfWaiting d port else gpfEnded d port) := by
  unfold execGpfPhase2
  congr 1
  funext d
  split
  · rfl
  · have begun : (if d.boot.gpf = 2 + port then d else setPort d port { portOf d port with gpfFailed := false }) =
        gpfBegun d port := rfl
    dsimp only
    rw [begun, durableWaits_gpfBegun, gpfBegun_failed]
    rw [gpfBegun_frame]
    rfl

theorem exec_gpfPhase2_waits {s : State} {port : Nat} (w : (.gpfPhase2 port : Instr).wellFormed = true) (sv : Serving s)
    (up : linkUp (portOf s.dev port) = true) (waits : durableWaits s.dev = true) :
    exec (.gpfPhase2 port) s = .next { s with dev := gpfWaiting (latch s) port } := by
  have linked : linkUp (portOf (latch s) port) = true := up
  have wait : durableWaits (latch s) = true := waits
  change execGpfPhase2 port s = _
  rw [execGpfPhase2_eq]
  exact onDev_undisturbed w sv (by simp [linked, wait]) ⟨rfl, rfl, rfl, rfl, rfl⟩

theorem exec_gpfPhase2_ends {s : State} {port : Nat} (w : (.gpfPhase2 port : Instr).wellFormed = true) (sv : Serving s)
    (up : linkUp (portOf s.dev port) = true) (done : durableWaits s.dev = false) :
    exec (.gpfPhase2 port) s = .next { s with dev := gpfEnded (latch s) port } := by
  have linked : linkUp (portOf (latch s) port) = true := up
  have idle : durableWaits (latch s) = false := done
  change execGpfPhase2 port s = _
  rw [execGpfPhase2_eq]
  exact onDev_undisturbed w sv (by simp [linked, idle]) ⟨rfl, rfl, rfl, rfl, rfl⟩

/-- Settles O27: the end of a request does to its message what `paramDone` and `resultDone` do, and to its port the removal
alone; the phases of a Global Persistent Flush leave the devices `gpfStopped`, `gpfWaiting` and `gpfEnded`. -/
theorem cxlioCompletions : Obligations.CxlioCompletions := by
  unfold Obligations.CxlioCompletions
  refine ⟨?read, ?written, ?timeout, ?stop, ?ends, ?waits⟩
  case read =>
    intro s port k mb n a ca b sv w serving req sent few found
    have done := ioComplete_param (d := latch s) (.data b) req few
    exact ⟨_, exec_cxlioCompletion w serving sent done ⟨rfl, rfl, rfl, rfl, rfl⟩, modSvc_svc _ found,
      withoutRequest_io .., rfl⟩
  case written =>
    intro s port k mb n a ca b d ans sv w serving req sent few found held unanswered
    have done := ioComplete_result (d := latch s) ans req few
    rw [resultDone_inPlace (d := withoutRequest (latch s) port k) ans found held unanswered] at done
    refine ⟨_, exec_cxlioCompletion w serving sent done ⟨rfl, rfl, rfl, rfl, rfl⟩, ?_, withoutRequest_io .., rfl⟩
    rw [mbOf_setMb_self]
    cases ans <;> rfl
  case timeout =>
    intro s port k mb n a ca sv w serving req sent few found
    have done := ioComplete_param (d := telPort (latch s) port 0x18) (.err 0x14) req few
    have place : 0x403000 + port * 0x40 + 0x18 = 0x400000 + (0x3000 + port * 0x40 + 0x18) := by omega
    refine ⟨_, exec_cplTimeout w serving sent done ⟨rfl, rfl, rfl, rfl, rfl⟩, modSvc_svc _ found, ?_, rfl⟩
    rw [place]
    exact tget_tput_self ..
  case stop =>
    intro s port w serving up
    refine ⟨_, exec_gpfPhase1 w serving up, rfl, ?_, rfl, rfl⟩
    rw [List.all_eq_true]
    intro g listed
    have stopped := gpfStopped_stops (d := latch s) port (List.mem_map_of_mem listed)
    simpa [Runs] using stopped
  case ends =>
    intro s port w serving up done
    exact ⟨_, exec_gpfPhase2_ends w serving up done, rfl, rfl, rfl⟩
  case waits =>
    intro s port w serving up waits
    exact ⟨_, exec_gpfPhase2_waits w serving up waits, rfl, gpfBegun_failed .., rfl, rfl⟩

end Sys2Proof.Machine
end

section
/-! PROOFS. Posting a request (R33, R34), and the statement MailboxPost. -/

namespace Sys2Proof.Machine

open Sys2Proof

/-- The mailbox with its request posted: stamped, counted and in the slot. -/
def Mailbox.posted (x : Mailbox) (port : Nat) : Mailbox :=
  { x with
    reqHdr := port + 16 * x.ctx + 2 ^ 13 * x.priv + 2 ^ 16 * x.nextSeq
    nextSeq := (x.nextSeq + 1) % 65536
    reqFull := true }

/-- The compositor's mailboxes have no floe behind them. -/
theorem agentOff_compositor (d : Dev) {m : Nat} (low : m < 12) : agentOff d m = false := by
  have here : decide (12 ≤ m) = false := decide_eq_false (Nat.not_le_of_lt low)
  rw [agentOff, here, Bool.false_and]

/-- A post into an empty slot; the compositor may take it from a mailbox that it is not serving. -/
theorem postRequest_empty {d : Dev} {port m : Nat} (up : devState d ≠ 0) (use : mailUse d port m = true)
    (empty : (mbOf d m).reqFull = false) (on : agentOff d m = false) :
    postRequest d port m = { d with
      mbx := tput d.mbx m ((mbOf d m).posted port)
      takeable := if m < 12 ∧ (mbOf d m).svc.isNone then d.takeable ++ [m] else d.takeable } := by
  have stamped (c p n : Nat) : stamp port c p n = port + 16 * c + 2 ^ 13 * p + 2 ^ 16 * n := by unfold stamp; omega
  simp only [postRequest, up, use, empty, on, stamped, Bool.not_true, Bool.false_and, or_self, Bool.false_eq_true, if_false]
  split <;> rfl

theorem postRequest_full {d : Dev} {port m : Nat} (up : devState d ≠ 0) (use : mailUse d port m = true)
    (full : (mbOf d m).reqFull = true) :
    postRequest d port m = setMb d m { mbOf d m with postRefused := true } := by
  simp [postRequest, up, use, full]

theorem writeReqData_full {d : Dev} {port m off : Nat} {b : Bytes} (up : devState d ≠ 0) (use : mailUse d port m = true)
    (size : b.length = 4 ∨ b.length = 8) (aligned : off % b.length = 0) (inside : off + b.length ≤ 64)
    (full : (mbOf d m).reqFull = true) :
    writeReqData d port m off b = setMb d m { mbOf d m with writeDropped := true } := by
  simp [writeReqData, up, use, size, aligned, Nat.not_lt.mpr inside, full]

theorem exec_post_empty {s : State} {port mb : Nat} (w : (.post port mb : Instr).wellFormed = true) (serving : Serving s)
    (up : devState s.dev ≠ 0) (use : mailUse s.dev port mb = true) (empty : (mbOf s.dev mb).reqFull = false)
    (on : agentOff s.dev mb = false) :
    exec (.post port mb) s = .next { s with dev := { latch s with
      mbx := tput s.dev.mbx mb ((mbOf s.dev mb).posted port)
      takeable := if mb < 12 ∧ (mbOf s.dev mb).svc.isNone then s.dev.takeable ++ [mb] else s.dev.takeable } } := by
  rw [exec_post]
  exact onDev_undisturbed w serving (postRequest_empty (d := latch s) up use empty on) ⟨rfl, rfl, rfl, rfl, rfl⟩

/-- Settles O1: a post into an empty slot leaves the mailbox `posted`, which is takeable at the compositor alone; at a full slot
a post or a write sets its flag. -/
theorem mailboxPost : Obligations.MailboxPost := by
  unfold Obligations.MailboxPost
  refine ⟨?compositor, ?agent, ?refused, ?dropped⟩
  case compositor =>
    intro s port mb w serving up use empty low
    have on : agentOff s.dev mb = false := agentOff_compositor s.dev low
    have posted := exec_post_empty w serving up use empty on
    simp only [low, true_and] at posted
    exact posted
  case agent =>
    intro s port mb w serving up use empty high on
    have posted := exec_post_empty w serving up use empty on
    simp only [Nat.not_lt.mpr high, false_and, if_false] at posted
    exact posted
  case refused =>
    intro s port mb w serving up use full
    rw [exec_post]
    exact onDev_undisturbed w serving (postRequest_full (d := latch s) up use full) ⟨rfl, rfl, rfl, rfl, rfl⟩
  case dropped =>
    intro s port mb off bytes w serving up use size aligned inside full
    change execReqDataWrite port mb off bytes s = _
    exact onDev_undisturbed w serving (writeReqData_full (d := latch s) up use size aligned inside full)
      ⟨rfl, rfl, rfl, rfl, rfl⟩

end Sys2Proof.Machine
end

section
/-! PROOFS. Messages at a mailbox with one of the same kind that the service timer has answered and that is still to be served
(R38): the refutations of MailboxBinding, ObjectCreate, ObjectModifyQueryDestroy and FormesAndMapRead. -/

namespace Sys2Proof.Machine

open Sys2Proof

/-- Two messages of one code and privilege 3 at mailbox 0 of a device that is up, neither begun: service 1 is in place, and service
0 is among those that the timer has answered.  A run does not come here by REQUEST_TAKE, which waits while a request at the
compositor has not begun (`foreground`); the statements speak of every state. -/
def behindLate (code : Nat) (late body : Bytes) : State :=
  upWith [(0, { Mailbox.reset with
    bound := true, priv := 3, svc := some (unbegun 1 3 code body), late := [unbegun 0 3 code late] })] []

/-- The service in place at mailbox 0 after a command. -/
def leftInPlace (i : Instr) (s : State) : Option Service :=
  match exec i s with
  | .next t => (mbOf t.dev 0).svc
  | _ => none

theorem leftInPlace_next {i : Instr} {s t : State} (h : exec i s = .next t) : leftInPlace i s = (mbOf t.dev 0).svc := by
  rw [leftInPlace, h]

/-- MAILBOX_BIND of mailbox 1 to port 0, context 0, at privilege 3. -/
def bindOne : Bytes := [1, 0, 0, 0, 3]

/-- `inService` finds service 0 first; its reply is dropped, and service 1 is left as it was. -/
theorem mailboxBind_serves_late_message :
    leftInPlace (.mailboxBind 0) (behindLate 0x0010 bindOne bindOne) = some (unbegun 1 3 0x0010 bindOne) := by
  decide +kernel

/-- The same for an OBJ_CREATE of a context. -/
theorem objCreate_serves_late_message :
    leftInPlace (.objCreate 0) (behindLate 0x0100 [1] [1]) = some (unbegun 1 3 0x0100 [1]) := by
  decide +kernel

/-- The same for an OBJ_DESTROY of a sequence slot whose handle is of no type. -/
theorem objDestroy_serves_late_message :
    leftInPlace (.objDestroy 0) (behindLate 0x0103 [5] [5]) = some (unbegun 1 3 0x0103 [5]) := by
  decide +kernel

/-- The body of a MAP_READ with a reserved byte that is not zero: its refusal asks for no map. -/
def reservedSet : Bytes := zeros 12 ++ [1]

/-- The same for a MAP_READ into a buffer of no bytes, behind one that is malformed. -/
theorem mapRead_serves_late_message :
    leftInPlace (.mapRead 0) (behindLate 0x0401 reservedSet []) = some (unbegun 1 3 0x0401 []) := by
  decide +kernel

/-- Refutes O5: it says that the message in place is answered, and leaves free what the timer has answered at the same mailbox,
which MAILBOX_BIND serves first. -/
theorem not_mailboxBinding : ¬ Obligations.MailboxBinding := by
  unfold Obligations.MailboxBinding
  intro binds
  obtain ⟨t, next, -, answered, -⟩ := binds (behindLate 0x0010 bindOne bindOne) 0 1 0 0 3 (unbegun 1 3 0x0010 bindOne)
    rfl (by decide) rfl rfl rfl rfl rfl rfl rfl rfl rfl rfl rfl (by decide) (by decide) (by decide) (by decide) (by decide)
    rfl rfl rfl rfl rfl rfl
  have left := mailboxBind_serves_late_message
  rw [leftInPlace_next next, answered] at left
  exact absurd (congrArg (Option.map Service.busy) left) (by decide)

/-- Refutes O14: its first clause says that the message in place is answered, and leaves free what the timer has answered at the
same mailbox, which OBJ_CREATE serves first. -/
theorem not_objectCreate : ¬ Obligations.ObjectCreate := by
  unfold Obligations.ObjectCreate
  rintro ⟨creates, -⟩
  obtain ⟨t, next, -, answered, -⟩ := creates (behindLate 0x0100 [1] [1]) 0 1 (unbegun 1 3 0x0100 [1])
    rfl (by decide) rfl rfl rfl rfl rfl rfl rfl rfl rfl rfl rfl rfl rfl rfl (by decide) rfl rfl rfl rfl
  have left := objCreate_serves_late_message
  rw [leftInPlace_next next] at left
  rw [left] at answered
  cases answered

/-- Refutes O15: its last clause says that the message in place is refused, and leaves free what the timer has answered at the
same mailbox, which OBJ_DESTROY serves first. -/
theorem not_objectModifyQueryDestroy : ¬ Obligations.ObjectModifyQueryDestroy := by
  unfold Obligations.ObjectModifyQueryDestroy
  rintro ⟨-, -, -, -, -, refuses⟩
  have refused := refuses (behindLate 0x0103 [5] [5]) 0 (unbegun 1 3 0x0103 [5])
    rfl (by decide) rfl rfl rfl rfl rfl rfl rfl rfl rfl rfl rfl rfl (by decide) (by decide) rfl
  have left := objDestroy_serves_late_message
  rw [leftInPlace_next refused] at left
  exact absurd (congrArg (Option.map Service.busy) left) (by decide)

/-- Refutes O22: its third clause says that the message in place is refused, and leaves free what the timer has answered at the
same mailbox, which MAP_READ serves first. -/
theorem not_formesAndMapRead : ¬ Obligations.FormesAndMapRead := by
  unfold Obligations.FormesAndMapRead
  rintro ⟨-, -, small, -⟩
  have refused := small (behindLate 0x0401 reservedSet []) 0 (unbegun 1 3 0x0401 [])
    rfl (by decide) rfl rfl rfl rfl rfl rfl (by decide) rfl (by rw [mapBytes_length]; exact Nat.lt_add_right _ (by decide))
  have left := mapRead_serves_late_message
  rw [leftInPlace_next refused] at left
  exact absurd (congrArg (Option.map Service.busy) left) (by decide)

end Sys2Proof.Machine
end

section
/-! PROOFS. A command whose end drops the failure of a read that it no longer wants (R85, R102), and a MIGRATE of a page with a
withdrawal still in a line wait queue (R339, R347): the refutations of CommandsInOrder and MigrateAndPrefetch. -/

namespace Sys2Proof.Machine

open Sys2Proof

/-- A command of galley 0 of context 0, ready, from the bytes of its entry. -/
def readyCmd (entry : Bytes) : Cmd :=
  { ctx := 0, g := 0, floe := 0, index := 0, entry := slice entry 0 64, gen := 0, order := 0, start := 0, finish := 0, phase := 1,
    status := 0, detail := 0, digest := 0, count := 0, fallbacks := 0, firstFallback := 0xFFFFFFFF, oor := 0, stale := 0,
    rechecks := 0, partialOut := false, late := [], allLate := false, covers := [], cores := [], ends := [], blocks := [],
    blocksDone := [], pos := 0, record := none, failAt := none, opens := [], par := [], qos := 0, writes := 0, units := [] }

/-- The device up with galley 0 of context 0 and its command of tag 7. -/
def commandUp (c : Cmd) : State :=
  let s := upWith [] [(0, Galley.none)]
  { s with dev := { s.dev with cmds := [(7, c)] } }

/-! ### The reads of a command that ends -/

/-- A NOP. -/
def nopCmd : Cmd := readyCmd [0x3A]

/-- The NOP with a READ of its own kept that has come back with RIGHTS_FAULT.  A run does not come here, since a NOP reads
nothing; the statement speaks of every state. -/
def nopKeepsRead : State :=
  let s := commandUp nopCmd
  { s with dev := { s.dev with reads := [⟨.cmd 7, 0, .err 0x11, 0, 0⟩] } }

/-- The end of the command drops the READ, whose failure forms the command's TRANSLATION record. -/
theorem nop_records_dropped_read :
    (match exec (.nop 7) nopKeepsRead with
      | .next t => (cmdOf t.dev 7).bind (·.record)
      | _ => none) = some 0 := by
  decide +kernel

/-- Refutes O39: its clause of NOP says that the command's record stays as it was, and leaves free the reads kept for the
command, of which a failed one is recorded when the command ends. -/
theorem not_commandsInOrder : ¬ Obligations.CommandsInOrder := by
  unfold Obligations.CommandsInOrder
  rintro ⟨-, -, -, -, -, -, -, -, -, nop, -⟩
  obtain ⟨t, next, ended, -⟩ := nop nopKeepsRead 7 nopCmd
    rfl (by decide) rfl (by decide +kernel) rfl rfl rfl rfl rfl rfl
  have recorded := nop_records_dropped_read
  simp only [next, ended] at recorded
  cases recorded

/-! ### A withdrawal that waits -/

/-- MIGRATE of the page at address 0 to target 0. -/
def releaseCmd : Cmd := readyCmd ([0x30] ++ zeros 39 ++ [1])

/-- Page 0, mapped by context 0, lies in the stack tier; its line 5 has no directory entry any more, and a withdrawal of an
earlier release of the page stands in the line's queue until DIR_REQ_DEQUEUE (R347). -/
def withdrawalWaits : State :=
  let s := commandUp releaseCmd
  { s with dev := { s.dev with
      ctxs := [(0, { Ctx.fresh with ranges := [(0, ⟨0, 65536, 0, true, true, true, false, none, 0, none, none, none, 0⟩)] })]
      pages := [(0, { Page.unplaced with tier := 1 })]
      dirWait := [(5, .withdraw)] } }

/-- The command waits, and the page stays where it is. -/
theorem migrate_waits_for_withdrawal :
    (match exec (.migrate 7 []) withdrawalWaits with
      | .next t => (pageOf t.dev 0).tier
      | _ => 0) = 1 := by
  decide +kernel

/-- Refutes O44: its second clause says that the page becomes unplaced where the directory is empty and no line is an orphan,
and leaves free the line wait queue, whose withdrawals the command waits for. -/
theorem not_migrateAndPrefetch : ¬ Obligations.MigrateAndPrefetch := by
  unfold Obligations.MigrateAndPrefetch
  rintro ⟨-, release, -⟩
  obtain ⟨t, next, unplaced, -⟩ := release withdrawalWaits 7 0 [] releaseCmd
    rfl (by decide) rfl (by decide +kernel) rfl rfl rfl rfl rfl rfl rfl (by decide +kernel) (by decide +kernel)
    rfl rfl rfl rfl rfl rfl (by decide +kernel) rfl rfl rfl
  have placed := migrate_waits_for_withdrawal
  simp only [next, unplaced] at placed
  cases placed

end Sys2Proof.Machine
end

section
/-! PROOFS. Pages in use: the ends of touch faults and packed decodes, sweeps, moves, and the flush of the cache slice (R93, R97,
R100, R103, R105, R108), and the statement PagesInUse. -/

namespace Sys2Proof.Machine

open Sys2Proof

/-! ### Memories and tables -/

/-- A byte whose cell a filter keeps reads as before. -/
theorem memGet_filter {m : List Host.Cell} {b x : Nat} (p : Host.Cell → Bool) (w : cellsAbove b m = true)
    (keeps : ∀ v, p (x, v) = true) : memGet (m.filter p) x = memGet m x := by
  induction m generalizing b with
  | nil => rfl
  | cons c t ih =>
    obtain ⟨k, v⟩ := c
    simp only [cellsAbove, Bool.and_eq_true] at w
    obtain ⟨-, above⟩ := w
    rw [List.filter_cons]
    split
    · simp only [memGet, ih above]
    · rename_i dropped
      have ne : x ≠ k := fun e => dropped (e ▸ keeps v)
      simp only [ih above, memGet, if_neg ne]
      split
      · exact memGet_below above (by omega)
      · rfl

/-- Canonical memories with the same bytes are the same. -/
theorem cells_ext {m n : List Host.Cell} {a b : Nat} (hm : cellsAbove a m = true) (hn : cellsAbove b n = true)
    (h : ∀ x, memGet m x = memGet n x) : m = n := by
  induction m generalizing n a b with
  | nil =>
    cases n with
    | nil => rfl
    | cons c t =>
      have listed := h c.1
      simp [cellsAbove] at hn
      simp [memGet] at listed
      exact absurd listed.symm hn.1.2
  | cons c t ih =>
    obtain ⟨k, v⟩ := c
    simp only [cellsAbove, Bool.and_eq_true, decide_eq_true_eq, bne_iff_ne, ne_eq] at hm
    obtain ⟨⟨-, vnz⟩, ht⟩ := hm
    have here := h k
    cases n with
    | nil => simp [memGet] at here; exact absurd here vnz
    | cons c' t' =>
      obtain ⟨k', v'⟩ := c'
      simp only [cellsAbove, Bool.and_eq_true, decide_eq_true_eq, bne_iff_ne, ne_eq] at hn
      obtain ⟨⟨-, vnz'⟩, ht'⟩ := hn
      have there := h k'
      simp only [memGet, Nat.lt_irrefl, if_false, if_true] at here there
      have ek : k = k' := by
        rcases Nat.lt_trichotomy k k' with l | e | l
        · rw [if_pos l] at here; exact absurd here vnz
        · exact e
        · rw [if_pos l] at there; exact absurd there.symm vnz'
      subst ek
      have ev : v = v' := by simpa using here
      subst ev
      have tails : t = t' := ih ht ht' fun x => by
        have hx := h x
        simp only [memGet] at hx
        rcases Nat.lt_or_ge k x with l | g
        · rwa [if_neg (by omega), if_neg (by omega), if_neg (by omega), if_neg (by omega)] at hx
        · rw [memGet_below ht (by omega), memGet_below ht' (by omega)]
      rw [tails]

/-- What a run of memory holds, written back over it, leaves the memory as it was. -/
theorem memWrite_memRead {m : List Host.Cell} (a n : Nat) (w : Memory.wf m = true) :
    memWrite (memClear m a n) a (memRead m a n) = m := by
  have cleared := memClear_wf a n w
  have len : (memRead m a n).length = n := by rw [memRead_eq a n w]; simp
  refine cells_ext (memWrite_wf a _ cleared) w fun x => ?_
  by_cases inside : a ≤ x ∧ x < a + n
  · obtain ⟨i, rfl⟩ := Nat.exists_eq_add_of_le inside.1
    have hi : i < n := by omega
    rw [memGet_memWrite_in a _ i cleared (by omega), memRead_eq a n w]
    simp [hi]
  · rw [memGet_memWrite_out a _ x cleared (by omega)]
    exact memGet_filter _ w fun v => by
      simp only [Bool.or_eq_true, decide_eq_true_eq]; omega

section
variable {α : Type}

/-- An entry put behind all others stands last. -/
theorem tput_last {t : Tab α} {k : Nat} (v : α) (h : ∀ p ∈ t, p.1 < k) : tput t k v = t ++ [(k, v)] := by
  induction t with
  | nil => rfl
  | cons p t ih =>
    have hp := h p (List.mem_cons_self ..)
    have ht := ih fun q hq => h q (List.mem_cons_of_mem _ hq)
    simp only [tput, if_neg (show k ≠ p.1 by omega), if_neg (show ¬ k < p.1 by omega), ht, List.cons_append]

theorem tget?_append (t u : Tab α) (k : Nat) : tget? (t ++ u) k = (tget? t k).or (tget? u k) := by
  induction t with
  | nil => rfl
  | cons p t ih =>
    simp only [List.cons_append, tget?]
    split
    · rfl
    · exact ih

theorem tget?_absent {t : Tab α} {k : Nat} (h : ∀ p ∈ t, p.1 ≠ k) : tget? t k = none := by
  induction t with
  | nil => rfl
  | cons p t ih =>
    simp only [tget?, if_neg (h p (List.mem_cons_self ..))]
    exact ih fun q hq => h q (List.mem_cons_of_mem _ hq)

/-- Values listed under consecutive numbers. -/
def tabFrom (base : Nat) (g : Nat → α) (n : Nat) : Tab α := (List.range n).map fun i => (base + i, g i)

theorem tabFrom_succ (base : Nat) (g : Nat → α) (n : Nat) : tabFrom base g (n + 1) = tabFrom base g n ++ [(base + n, g n)] := by
  simp [tabFrom, List.range_succ]

theorem tabFrom_length (base : Nat) (g : Nat → α) (n : Nat) : (tabFrom base g n).length = n := by simp [tabFrom]

theorem mem_tabFrom {base n : Nat} {g : Nat → α} {p : Nat × α} (h : p ∈ tabFrom base g n) : base ≤ p.1 ∧ p.1 < base + n := by
  obtain ⟨i, hi, rfl⟩ := List.mem_map.mp h
  have := List.mem_range.mp hi
  exact ⟨by simp, by simpa using this⟩

theorem tget?_tabFrom (base : Nat) (g : Nat → α) {i n : Nat} (h : i < n) : tget? (tabFrom base g n) (base + i) = some (g i) := by
  induction n with
  | zero => omega
  | succ n ih =>
    rw [tabFrom_succ, tget?_append]
    rcases Nat.lt_succ_iff_lt_or_eq.mp h with l | rfl
    · rw [ih l]; rfl
    · rw [tget?_absent fun p hp => by have := mem_tabFrom hp; omega]; simp [tget?]

theorem tdel_tput (t : Tab α) (k : Nat) (v : α) : tdel (tput t k v) k = tdel t k := by
  induction t with
  | nil => simp [tput, tdel]
  | cons p t ih =>
    simp only [tput]
    split
    · rename_i e; simp [tdel, e]
    · split
      · simp [tdel]
      · simp only [tdel, List.filter_cons] at ih ⊢
        rw [ih]

end

/-! ### Touch faults (R100) -/

/-- The second device differs from the first in ports and outputs alone. -/
def PortFrame (d e : Dev) : Prop := ∃ ports out, e = { d with ports := ports, out := out }

theorem PortFrame.refl (d : Dev) : PortFrame d d := ⟨d.ports, d.out, rfl⟩

theorem PortFrame.trans {d e f : Dev} (h : PortFrame d e) (k : PortFrame e f) : PortFrame d f := by
  obtain ⟨_, _, rfl⟩ := h
  obtain ⟨p, o, rfl⟩ := k
  exact ⟨p, o, rfl⟩

theorem wakePort_ports (d : Dev) (p : Nat) : PortFrame d (wakePort d p) := by
  unfold wakePort
  dsimp only
  split
  · exact ⟨_, _, rfl⟩
  · exact .refl d

theorem ioEnd_ports (d : Dev) (p k : Nat) : PortFrame d (ioEnd d p k) := by
  have removed : PortFrame d (setPort d p { portOf d p with io := tdel (portOf d p).io k }) := ⟨_, _, rfl⟩
  unfold ioEnd
  dsimp only
  split
  · split
    · exact (removed.trans (wakePort_ports ..)).trans ⟨_, _, rfl⟩
    · exact removed
  · exact removed

/-- The end of the DMA of a touch fault is told to its port alone. -/
theorem endTouchDma_ports (d : Dev) (page : Nat) : PortFrame d (endTouchDma d page) :=
  foldl_rel PortFrame .refl .trans _
    (fun d _ => foldl_rel PortFrame .refl .trans _ (fun d _ => ioEnd_ports d ..) _ d) _ d

/-- The device once the bytes of a touched page lie in the place taken for it. -/
def touchPlaced (d : Dev) (page : Nat) (t : Touch) (b : Bytes) : Dev :=
  let e := dropMedia { d with touches := [] } (homeFloe page) t.tier t.k
  setPage { e with mem := memWrite (memClear d.mem (page * 65536) 65536) (page * 65536) (slice b 0 65536) } page
    { pageOf d page with tier := t.tier, k := t.k, mot := false, port := 0, haddr := 0 }

section
variable {d : Dev} {page : Nat} {t : Touch} (only : d.touches = [(page, t)]) (begun : t.queued = false)
include only begun

theorem touchDone_placed (b : Bytes) (idle : t.waiters = []) (far : (pageOf d page).tier = 4) (mot : (pageOf d page).mot = true)
    (on : floeOn d (homeFloe page) = true) :
    ∃ ports out, touchDone d page (.data b) = touchPlaced { d with ports := ports, out := out } page t b := by
  obtain ⟨ports, out, ended⟩ := endTouchDma_ports d page
  refine ⟨ports, out, ?_⟩
  have runs : floeRuns { d with ports := ports, out := out, touches := [] } (homeFloe page) = true := floeRuns_on on
  have moved : (pageOf d page).tier = 4 ∧ (pageOf d page).mot = true ∧
      floeRuns { d with ports := ports, out := out, touches := [] } (homeFloe page) = true := ⟨far, mot, runs⟩
  simp only [touchDone, only, tget?, if_true, begun, Bool.false_eq_true, if_false, ended, tdel, List.filter_cons, bne_self_eq_false,
    List.filter_nil, idle, List.foldl_nil, moved, and_self]
  rfl

theorem touchDone_failed (x : Nat) {o : Owner} (waits : t.waiters = [.engine o]) (wants : wantsRead d o = true) :
    ∃ ports out, touchDone d page (.err x) =
      { d with touches := [], ports := ports, out := out, touched := d.touched ++ [(page, o, 0x14)] } := by
  obtain ⟨ports, out, ended⟩ := endTouchDma_ports d page
  refine ⟨ports, out, ?_⟩
  have still : wantsRead { d with touches := [], ports := ports, out := out } o = true := by
    rw [← wants]; cases o <;> rfl
  have fails : failWaiter { d with touches := [], ports := ports, out := out } page 0x14 (.engine o) =
      { d with touches := [], ports := ports, out := out, touched := d.touched ++ [(page, o, 0x14)] } := by
    cases o with
    | held u => cases wants
    | _ => simp only [failWaiter, still, if_true]
  simp [touchDone, only, tget?, begun, ended, failTouch, tdel, waits, fails, nextTouch]

end

/-! ### Packed decodes (R97) -/

/-- A fold whose every step gives back what it starts from.  (The package's proofs are built without Mathlib.) -/
theorem foldl_unmoved {α β : Type} {f : α → β → α} {a : α} (h : ∀ b, f a b = a) (l : List β) : l.foldl f a = a := by
  induction l with
  | nil => rfl
  | cons b t ih => rw [List.foldl_cons, h, ih]

/-- Where the media hold no error every code is clean. -/
theorem eccRead_clean {d : Dev} (w : Who) (f tier k n addr : Nat) (clean : d.media = []) :
    eccRead d w f tier k n addr = (d, none) := by
  simp [eccRead, clean, tget, eccOutcome]

/-- A block that has been coded is counted in telemetry alone. -/
theorem countBlock_tel (d : Dev) (f enc raw bad i o : Nat) : ∃ tel, countBlock d f enc raw bad i o = { d with tel := tel } := by
  have counts : ∀ {e : Dev} (off n : Nat), (∃ tel, e = { d with tel := tel }) → ∃ tel, telF e f off n = { d with tel := tel } := by
    rintro _ off n ⟨_, rfl⟩
    exact ⟨_, rfl⟩
  unfold countBlock
  exact counts _ _ (counts _ _ (counts _ _ (counts _ _ (counts _ _ ⟨d.tel, rfl⟩))))

/-- A block that decodes costs its unit a count. -/
theorem readBlockBy_clean {d : Dev} (w : Who) {page kb : Nat} (unit : Nat) (clean : d.media = [])
    (good : (unpackBlock (tget d.packs page []) kb).fail = none) :
    ∃ tel unitTag, readBlockBy d w page kb unit =
      ({ d with tel := tel, unitTag := unitTag }, .ok (unpackBlock (tget d.packs page []) kb).out) := by
  unfold readBlockBy
  simp only [eccRead_clean w _ _ _ _ _ clean]
  rw [foldl_unmoved (fun _ => by simp only [eccRead_clean w _ _ _ _ _ clean])]
  simp only [good]
  obtain ⟨tel, counted⟩ := countBlock_tel (markPacked d (homeFloe page) unit) (homeFloe page) 0 0 (b2n none.isSome) _ _
  exact ⟨tel, _, congrArg (·, _) counted⟩

/-- The slice's copies of the first `n` lines of a block. -/
def blockLines (base : Nat) (b : Bytes) (n : Nat) : Tab CLine := tabFrom base (fun i => ⟨slice b (64 * i) 64, false⟩) n

/-- A line whose set is empty takes a way of it. -/
theorem cacheAlloc_empty {d : Dev} {line : Nat} (b : Bytes) (dirty : Bool)
    (free : ∀ p ∈ d.cache, cacheSet p.1 ≠ cacheSet line) : cacheAlloc d line b dirty = putLine d line b dirty := by
  have none : setLines d line = [] := by
    simp only [setLines, tkeys, List.map_eq_nil_iff, List.filter_eq_nil_iff]
    intro p hp
    simp [free p hp]
  rw [cacheAlloc, if_pos (.inr (by rw [none]; decide))]

/-- Lines less than 1,024 apart lie in different sets. -/
theorem cacheSet_near {a b : Nat} (lt : a < b) (near : b < a + 1024) : cacheSet a ≠ cacheSet b := by
  unfold cacheSet
  omega

/-- An empty slice takes the lines of a block one after another. -/
theorem allocLines_empty {d : Dev} (base : Nat) (b : Bytes) (empty : d.cache = []) {n : Nat} (few : n ≤ 64) :
    ∃ recent flips, (List.range n).foldl (fun d i =>
        if thas d.cache (base + i) then d else cacheAlloc d (base + i) (slice b (64 * i) 64) false) d =
      { d with cache := blockLines base b n, recent := recent, sliceFlips := flips } := by
  induction n with
  | zero =>
    refine ⟨d.recent, d.sliceFlips, ?_⟩
    change d = { d with cache := [] }
    rw [← empty]
  | succ n ih =>
    obtain ⟨recent, flips, filled⟩ := ih (by omega)
    have before : ∀ p ∈ blockLines base b n, p.1 < base + n ∧ base + n < p.1 + 1024 := fun p hp => by
      have := mem_tabFrom hp; omega
    have new : thas (blockLines base b n) (base + n) = false := by
      rw [thas, tget?_absent fun p hp => Nat.ne_of_lt (before p hp).1]; rfl
    have last : tput (blockLines base b n) (base + n) ⟨slice b (64 * n) 64, false⟩ = blockLines base b (n + 1) := by
      rw [tput_last _ fun p hp => (before p hp).1]; exact (tabFrom_succ ..).symm
    rw [List.range_succ, List.foldl_append, filled, List.foldl_cons, List.foldl_nil, if_neg (by rw [new]; decide),
      cacheAlloc_empty _ _ fun p hp => cacheSet_near (before p hp).1 (before p hp).2, putLine, useLine, last]
    exact ⟨_, _, rfl⟩

/-- The end of a decode that no access waits for. -/
theorem decodeDone_fills {d : Dev} {page blk unit : Nat} (job : d.packJobs = [⟨page, blk, unit, []⟩])
    (packed : (pageOf d page).packed = true) (on : floeOn d (homeFloe page) = true) (clean : d.media = []) (empty : d.cache = [])
    (good : (unpackBlock (tget d.packs page []) blk).fail = none) :
    ∃ recent flips tel unitTag, decodeDone d page blk = { d with
      packJobs := [], recent := recent, sliceFlips := flips, tel := tel, unitTag := unitTag
      cache := blockLines (page * 1024 + blk * 64) (unpackBlock (tget d.packs page []) blk).out 64 } := by
  obtain ⟨tel, unitTag, read⟩ := readBlockBy_clean (d := { d with packJobs := [] }) (Who.unitOnly 9 (homeFloe page)) unit clean good
  obtain ⟨recent, flips, filled⟩ := allocLines_empty (d := { d with packJobs := [], tel := tel, unitTag := unitTag })
    (page * 1024 + blk * 64) (unpackBlock (tget d.packs page []) blk).out empty (Nat.le_refl 64)
  have works : (!(pageOf { d with packJobs := [] } page).packed || !floeRuns { d with packJobs := [] } (homeFloe page)) = false := by
    have runs : floeRuns { d with packJobs := [] } (homeFloe page) = true := floeRuns_on on
    rw [runs, show (pageOf { d with packJobs := [] } page).packed = true from packed]; rfl
  refine ⟨recent, flips, tel, unitTag, ?_⟩
  simp only [decodeDone, job, List.find?_cons, List.filter_cons, decide_true, Bool.and_self, Bool.not_true, List.filter_nil,
    Bool.false_eq_true, if_false, works, read, List.foldl_nil]
  exact filled

/-! ### Sweeps (R93) -/

theorem runSweep_shut {d : Dev} {f : Nat} (shut : admits d 6 = false) : runSweep d f = d := by
  rw [runSweep, if_pos (by rw [shut]; simp)]

/-- A candidate enters an empty queue. -/
theorem queueMove_empty {d : Dev} (page tg : Nat) (still : d.moves = []) (idle : d.queue = []) :
    queueMove d page tg = { d with queue := [(page, tg)] } := by
  simp [queueMove, still, idle, thas]

/-- In a window of migration the sweep of a floe's one local page queues its move. -/
theorem runSweep_single {d : Dev} {f page tg : Nat} {p : Page} (noted : thas d.sweep f = true) (opened : admits d 6 = true)
    (on : floeOn d f = true) (auto : autoOn d f = true) (runs : suspended d f = false) (only : d.pages = [(page, p)])
    (home : homeFloe page = f) (near : p.tier = 1 ∨ p.tier = 2) (target : sweepTarget (countUsed d page) page = some tg)
    (still : d.moves = []) (idle : d.queue = []) :
    runSweep d f = { countUsed d page with sweep := tdel d.sweep f, queue := [(page, tg)] } := by
  have goes : (!thas d.sweep f || !admits d 6 || !floeOn d f || !autoOn d f) = false := by rw [noted, opened, on, auto]; rfl
  have candidates : tkeys (d.pages.filter (fun p => homeFloe p.1 = f && (p.2.tier = 1 || p.2.tier = 2))) = [page] := by
    simp [only, tkeys, home, near]
  have runs' : suspended (countUsed { d with sweep := tdel d.sweep f } page) f = false := runs
  have target' : sweepTarget (countUsed { d with sweep := tdel d.sweep f } page) page = some tg := target
  rw [runSweep, if_neg (by rw [goes]; decide)]
  simp only [candidates, List.foldl_cons, List.foldl_nil, runs', Bool.false_eq_true, if_false, target']
  exact queueMove_empty page tg still idle

/-! ### Moves (R103, R105) -/

/-- The move that starts towards a target (5: packed), where the floe has room for it. -/
def moveTo (d : Dev) (f tg : Nat) : Option Move :=
  if tg = 5 then (pickSectors d f (packMost d f)).map fun k => Move.pin 5 0 k (packMost d f) none
  else (pickPage d f tg fun _ => true).map fun k => Move.pin tg k 0 0 none

section
variable {d : Dev} {f page tg : Nat} (opened : admits d 6 = true) (on : floeOn d f = true) (auto : autoOn d f = true)
  (few : movesOf d f < 16) (oldest : d.queue.find? (fun q => homeFloe q.1 = f) = some (page, tg))
  (still : thas d.moves page = false) (near : (pageOf d page).tier = 1 ∨ (pageOf d page).tier = 2)
  (free : (pageOf d page).pinned = false) (volatile : (pageOf d page).durable = false) (mot : (pageOf d page).mot = false)
include opened on auto few oldest still near free volatile mot

/-- The oldest queued move of a floe leaves the queue and is pinned at the destination found for it. -/
theorem startMove_pins {m : Move} (room : moveTo { d with queue := d.queue.erase (page, tg) } f tg = some m) :
    startMove d f = useFree { d with queue := d.queue.erase (page, tg), moves := tput d.moves page m } := by
  have goes : (!admits d 6 || !floeOn d f || !autoOn d f || decide (movesOf d f ≥ 16)) = false := by
    rw [opened, on, auto, decide_eq_false (by omega)]; rfl
  rw [startMove, if_neg (by rw [goes]; decide)]
  simp only [oldest]
  rw [if_neg (by simp [still, near, free, volatile, mot])]
  by_cases packs : tg = 5
  · rw [moveTo, if_pos packs] at room
    obtain ⟨k, found, rfl⟩ := Option.map_eq_some_iff.mp room
    rw [if_pos packs, found]
  · rw [moveTo, if_neg packs] at room
    obtain ⟨k, found, rfl⟩ := Option.map_eq_some_iff.mp room
    rw [if_neg packs, found]

end

/-- The bytes of a page in its place, where the media hold no error. -/
theorem readSource_clean {d : Dev} (w : Who) {page : Nat} (unpacked : (pageOf d page).packed = false) (clean : d.media = []) :
    readSource d w page = (d, .ok (memRead d.mem (page * 65536) 65536)) := by
  have sound : (List.range 1024).filter (fun n => thas d.media (mediaKey (homeFloe page) (pageOf d page).tier (pageOf d page).k n)) =
      [] := by
    rw [List.filter_eq_nil_iff, clean]
    exact fun _ _ => Bool.false_ne_true
  simp only [readSource, unpacked, Bool.false_eq_true, if_false, sound, List.foldl_nil]

/-- The entry of an unpacked page at a place of the stack or bulk tier. -/
def Page.placed (p : Page) (tier k : Nat) : Page :=
  { p with tier := tier, k := k, sector := 0, sectors := 0, node := 0, rpage := 0, port := 0, haddr := 0, mot := false }

theorem Page.placed_unpacked {p : Page} (tier k : Nat) (h : p.packed = false) :
    { p with tier := tier, k := k, packed := false, sector := 0, sectors := 0, node := 0, rpage := 0, port := 0, haddr := 0,
             mot := false } = p.placed tier k := by
  cases p
  cases h
  rfl

/-- The move of an unpacked page once its entry has been swapped. -/
theorem Move.swap_unpacked (m : Move) {p : Page} (h : p.packed = false) :
    m.swap p = { m with swapped := true, srcTier := p.tier, srcK := p.k, srcSector := 0, srcSectors := 0, sector := 0, sectors := 0,
                        held := [] } := by
  simp [Move.swap, h]

/-- A page goes to its new place with the bytes it has. -/
theorem placeAt_same {d : Dev} {page : Nat} (tier k : Nat) (unpacked : (pageOf d page).packed = false) (clean : d.media = [])
    (mem : Memory.wf d.mem = true) : placeAt d page tier k (memRead d.mem (page * 65536) 65536) =
      setPage { d with packs := tdel d.packs page } page ((pageOf d page).placed tier k) := by
  have forgets : dropMedia d (homeFloe page) tier k = d := by
    rw [dropMedia, clean, List.filter_nil, ← clean]
  simp only [placeAt, forgets, unpacked, Bool.false_eq_true, if_false, memWrite_memRead _ _ mem, Page.placed_unpacked tier k unpacked]

theorem swapMove_places {d : Dev} {page : Nat} {m : Move} (moving : tget? d.moves page = some m) (copying : m.swapped = false)
    (own : m.tag = none) (local_ : m.target = 1 ∨ m.target = 2) (runs : floeRuns d (homeFloe page) = true)
    (unpacked : (pageOf d page).packed = false) (clean : d.media = []) (mem : Memory.wf d.mem = true) :
    swapMove d page = telF { setPage { d with packs := tdel d.packs page } page ((pageOf d page).placed m.target m.k) with
      moves := tput d.moves page (m.swap (pageOf d page)) } (homeFloe page) (if m.target = 1 then 0x1000 else 0x1008) 1 := by
  have goes : ¬(m.swapped = true ∨ m.tag.isSome = true ∨ (!floeRuns d (homeFloe page)) = true) := by simp [copying, own, runs]
  have unpackedTarget : m.target ≠ 5 := by omega
  simp only [swapMove, moving, if_neg goes, readSource_clean _ unpacked clean, if_neg unpackedTarget,
    placeAt_same _ _ unpacked clean mem]

/-! ### The flush of the slice (R108) -/

/-- The one line of a slice, dirty and of an unpacked page of the stack tier, goes to memory and stays clean. -/
theorem flushSlice_single {d : Dev} {f l : Nat} {b : Bytes} (only : d.cache = [(l, ⟨b, true⟩)]) (home : homeFloe (pageOfLine l) = f)
    (stack : (pageOf d (pageOfLine l)).tier = 1) (unpacked : (pageOf d (pageOfLine l)).packed = false) (still : d.moves = [])
    (sound : tget d.sliceFlips l 0 = 0) :
    flushSlice d f = { d with
      cache := [(l, ⟨b, false⟩)], mem := memWrite d.mem (l * 64) b
      media := tdel d.media (mediaKey (homeFloe (pageOfLine l)) 1 (pageOf d (pageOfLine l)).k (l % 1024)) } := by
  have dirty : tkeys (d.cache.filter (fun c => homeFloe (pageOfLine c.1) = f && c.2.dirty)) = [l] := by simp [only, tkeys, home]
  have held : tget? d.cache l = some ⟨b, true⟩ := by simp [only, tget?]
  have alone : tget? d.cache (partnerOf l) = none := by
    have other : l ≠ partnerOf l := by unfold partnerOf; split <;> omega
    simp [only, tget?, other]
  have single : pairBack d l = d := by simp only [pairBack, alone]
  have bulk : ¬(pageOf d (pageOfLine l)).tier = 2 := by omega
  rw [flushSlice, dirty, List.foldl_cons, List.foldl_nil]
  simp only [writeBack, held, if_true, sliceCode_sound _ _ sound, reduceCtorEq, if_false, single, tierWrite, unpacked,
    Bool.false_eq_true, if_neg bulk, still, tmod_none (tget?_nil _)]
  simp only [only, tput, if_true]

/-! ### The statement -/

theorem autoOn_of_enable {s : State} {f : Nat} (h : rf s.dev (plcBase f) 0 1 = 1) : autoOn (latch s) f = true := beq_iff_eq.mpr h

/-- A sweep is noted, and run in a window of migration. -/
theorem exec_plcEpochSweep {s : State} {f : Nat} (auto : rf s.dev (plcBase f) 0 1 = 1) (on : floeOn s.dev f = true) :
    exec (.plcEpochSweep f) s = onDev (.plcEpochSweep f) s fun d =>
      runSweep { d with sweep := tput d.sweep f (curEpoch d f, 0) } f := by
  have goes : ¬((!autoOn (latch s) f) = true ∨ (!floeOn (latch s) f) = true) := by
    rw [autoOn_of_enable auto, show floeOn (latch s) f = true from on]; decide
  change execPlcEpochSweep f s = _
  simp only [execPlcEpochSweep, onDev, if_neg goes]

section
variable {s : State} {page : Nat} (sv : Serving s)
include sv

theorem exec_touchFaultDmaDone {ans : FarAnswer} {e : Dev} (w : (.touchFaultDmaDone page ans : Instr).wellFormed = true)
    (effect : touchDone (latch s) page ans = e) (same : Undisturbed (latch s) e) :
    exec (.touchFaultDmaDone page ans) s = .next { s with dev := e } := by
  change execTouchFaultDmaDone page ans s = _
  exact onDev_undisturbed w sv effect same

theorem exec_packedDecodeDone {blk : Nat} {e : Dev} (w : (.packedDecodeDone page blk : Instr).wellFormed = true)
    (effect : decodeDone (latch s) page blk = e) (same : Undisturbed (latch s) e) :
    exec (.packedDecodeDone page blk) s = .next { s with dev := e } := by
  change execPackedDecodeDone page blk s = _
  exact onDev_undisturbed w sv effect same

theorem exec_moveStart {f : Nat} {e : Dev} (w : (.moveStart f : Instr).wellFormed = true)
    (effect : startMove (latch s) f = e) (same : Undisturbed (latch s) e) :
    exec (.moveStart f) s = .next { s with dev := e } := by
  change execMoveStart f s = _
  exact onDev_undisturbed w sv effect same

theorem exec_moveCopyDone {e : Dev} (w : (.moveCopyDone page : Instr).wellFormed = true)
    (effect : swapMove (latch s) page = e) (same : Undisturbed (latch s) e) :
    exec (.moveCopyDone page) s = .next { s with dev := e } := by
  change execMoveCopyDone page s = _
  exact onDev_undisturbed w sv effect same

/-- The end of a move gives the place of its source free (R103). -/
theorem exec_moveRelease {m : Move} (w : (.moveRelease page : Instr).wellFormed = true)
    (moving : tget? s.dev.moves page = some m) (swapped : m.swapped = true) :
    exec (.moveRelease page) s = .next { s with dev := { latch s with
      moves := tdel s.dev.moves page
      media := if m.srcTier = 0 then s.dev.media
        else s.dev.media.filter (fun x => x.1 / 1024 ≠ (homeFloe page * 2 + (m.srcTier - 1)) * 2 ^ 24 + m.srcK) } } := by
  change execMoveRelease page s = _
  refine onDev_undisturbed w sv ?_ ⟨rfl, rfl, rfl, rfl, rfl⟩
  simp only [latch_moves, moving, swapped, if_true]
  split <;> rfl

/-- A move whose copy takes too long is abandoned, and counted (R105). -/
theorem exec_moveCopyTimeout {m : Move} (w : (.moveCopyTimeout page : Instr).wellFormed = true)
    (moving : tget? s.dev.moves page = some m) (copying : m.swapped = false) (own : m.tag = none) :
    exec (.moveCopyTimeout page) s =
      .next { s with dev := telF { latch s with moves := tdel s.dev.moves page } (homeFloe page) 0x1028 1 } := by
  change execMoveCopyTimeout page s = _
  refine onDev_undisturbed w sv ?_ ⟨rfl, rfl, rfl, rfl, rfl⟩
  simp only [latch_moves, moving, copying, own, Option.isSome_none, Bool.or_self, Bool.false_eq_true, if_false]
  rfl

theorem exec_cacheFlush {f : Nat} (w : (.cacheFlush f : Instr).wellFormed = true) (on : floeOn s.dev f = true)
    (quiet : s.dev.flushBusy.contains f = false) :
    exec (.cacheFlush f) s = .next { s with dev := { latch s with flushBusy := s.dev.flushBusy ++ [f] } } := by
  change execCacheFlush f s = _
  refine onDev_undisturbed w sv (if_neg ?_) ⟨rfl, rfl, rfl, rfl, rfl⟩
  rw [show floeOn (latch s) f = true from on, latch_flushBusy, quiet]
  decide

theorem exec_cacheFlushDone {f : Nat} {e : Dev} (w : (.cacheFlushDone f : Instr).wellFormed = true)
    (busy : s.dev.flushBusy.contains f = true) (effect : flushSlice (latch s) f = e) (same : Undisturbed (latch s) e) :
    exec (.cacheFlushDone f) s = .next { s with dev := { e with flushBusy := s.dev.flushBusy.filter (· ≠ f) } } := by
  change execCacheFlushDone f s = _
  refine onDev_undisturbed w sv ?_ same
  rw [← effect]
  exact if_pos busy

end

/-- Settles O43: each command leaves the device that the lemmas above name, and none of them disturbs what `settle` looks at. -/
theorem pagesInUse : Obligations.PagesInUse := by
  unfold Obligations.PagesInUse
  refine ⟨?arrives, ?fails, ?decoded, ?noted, ?swept, ?started, ?packed, ?copied, ?released, ?abandoned, ?flushes, ?flushed⟩
  case arrives =>
    intro s page b t w sv only begun idle far mot on
    obtain ⟨ports, out, placed⟩ := touchDone_placed (d := latch s) only begun b idle far mot on
    exact ⟨_, exec_touchFaultDmaDone sv w placed ⟨rfl, rfl, rfl, rfl, rfl⟩, rfl, rfl, tget_tput_self .., rfl, rfl⟩
  case fails =>
    intro s page x o t w sv only begun waits wants
    have wants' : wantsRead (latch s) o = true := by rw [← wants]; cases o <;> rfl
    obtain ⟨ports, out, failed⟩ := touchDone_failed (d := latch s) only begun x waits wants'
    exact ⟨_, exec_touchFaultDmaDone sv w failed ⟨rfl, rfl, rfl, rfl, rfl⟩, rfl, rfl, rfl⟩
  case decoded =>
    intro s page blk unit w sv job packed on clean empty good
    obtain ⟨recent, flips, tel, unitTag, fills⟩ := decodeDone_fills (d := latch s) job packed on clean empty good
    exact ⟨_, exec_packedDecodeDone sv w fills ⟨rfl, rfl, rfl, rfl, rfl⟩, fun i hi => tget?_tabFrom _ _ hi, tabFrom_length .., rfl⟩
  case noted =>
    intro s f w sv auto on shut
    rw [exec_plcEpochSweep auto on]
    exact onDev_undisturbed w sv (runSweep_shut shut) ⟨rfl, rfl, rfl, rfl, rfl⟩
  case swept =>
    intro s f page tg p w sv auto on runs opened only home near target still idle
    have swept := runSweep_single (d := { latch s with sweep := tput s.dev.sweep f (curEpoch (latch s) f, 0) }) (thas_tput_self ..)
      opened on (autoOn_of_enable auto) runs only home near target still idle
    rw [exec_plcEpochSweep auto on]
    refine onDev_undisturbed w sv (swept.trans ?_) ⟨rfl, rfl, rfl, rfl, rfl⟩
    simp only [tdel_tput]
    rfl
  case started =>
    intro s f page tg k w sv opened on auto few oldest still near free volatile mot unpacked room
    refine exec_moveStart sv w (startMove_pins (d := latch s) opened on auto few oldest still near free volatile mot ?_)
      ⟨rfl, rfl, rfl, rfl, rfl⟩
    rw [moveTo, if_neg unpacked]
    exact congrArg (Option.map _) room
  case packed =>
    intro s f page tg k w sv opened on auto few oldest still near free volatile mot packed room
    refine exec_moveStart sv w (startMove_pins (d := latch s) opened on auto few oldest still near free volatile mot ?_)
      ⟨rfl, rfl, rfl, rfl, rfl⟩
    rw [moveTo, if_pos packed]
    exact congrArg (Option.map _) room
  case copied =>
    intro s page m w sv moving copying own near runs unpacked clean mem
    have places := swapMove_places (d := latch s) moving copying own near runs unpacked clean mem
    refine ⟨_, exec_moveCopyDone sv w places ⟨rfl, rfl, rfl, rfl, rfl⟩, rfl, tget_tput_self .., ?_, rfl, rfl⟩
    rw [← Move.swap_unpacked m unpacked]
    rfl
  case released =>
    intro s page m w sv moving swapped
    exact exec_moveRelease sv w moving swapped
  case abandoned =>
    intro s page m w sv moving copying own _
    exact exec_moveCopyTimeout sv w moving copying own
  case flushes =>
    intro s f w sv on quiet
    exact exec_cacheFlush sv w on quiet
  case flushed =>
    intro s f l b w sv busy only home stack unpacked still sound
    have goes := flushSlice_single (d := latch s) only home stack unpacked still sound
    exact exec_cacheFlushDone sv w busy goes ⟨rfl, rfl, rfl, rfl, rfl⟩

end Sys2Proof.Machine
end

section
/-! PROOFS. A pulse at a core that has ended its kernel (R125, R189), and a RUN whose end drops the failure of a read that it no
longer wants (R85, R102): the refutations of TokensAndSync and CoresAndRuns. -/

namespace Sys2Proof.Machine

open Sys2Proof

/-- Core 1 of floe 0 has ended its kernel and is IDLE, while core 0 of the same launch still runs.  Subscription 0 of both
adds the pulses of line 16, which is core 1's, to token 0. -/
def endedSubscriber : State :=
  let s := commandUp { readyCmd [0x28] with phase := 2, cores := [0, 1] }
  { s with dev := { s.dev with
      cores := [(0, { Core.idle with state := 2, tag := 7 }), (1, { Core.idle with tag := 7 })]
      regs := [(coreBase 0 + 0x3100, 0x8010), (coreBase 1 + 0x3100, 0x8010)] } }

/-- A pulse of the line reaches the token of the core that has ended (`pulseLine`). -/
theorem eventPulse_counts_at_ended_core :
    (match exec (.eventPulse 0 16 1) endedSubscriber with
      | .next t => tokenOf (coreOf t.dev 1) 0
      | _ => 0) = 1 := by
  decide +kernel

/-- Refutes O48: its clause of EVENT_PULSE leaves every other core as it was where none is RUNNING or STOPPING, yet a pulse
counts at the subscriptions of cores in every state. -/
theorem not_tokensAndSync : ¬ Obligations.TokensAndSync := by
  unfold Obligations.TokensAndSync
  rintro ⟨-, -, -, -, -, -, pulse, -⟩
  have next := pulse endedSubscriber 0 16 1 0 rfl (by decide +kernel) rfl (by decide +kernel) (by decide +kernel)
    (by decide +kernel) (by decide +kernel)
  have counted := eventPulse_counts_at_ended_core
  rw [next] at counted
  exact absurd counted (by decide +kernel)

/-- A RUN of an image that its context does not have, with a READ of its own kept that has come back with RIGHTS_FAULT.  A run
does not come here, since a RUN reads nothing; the statement speaks of every state. -/
def runKeepsRead : State :=
  let s := commandUp (readyCmd [0x28])
  { s with dev := { s.dev with reads := [⟨.cmd 7, 0, .err 0x11, 0, 0⟩] } }

/-- The end of the command drops the READ, whose failure forms the command's TRANSLATION record. -/
theorem run_records_dropped_read :
    (match exec (.run 7) runKeepsRead with
      | .next t => (cmdOf t.dev 7).bind (·.record)
      | _ => none) = some 0 := by
  decide +kernel

/-- Refutes O49: its clause of a RUN that fails its checks says that the command's record stays as it was, and leaves free the
reads kept for the command, of which a failed one is recorded when the command ends. -/
theorem not_coresAndRuns : ¬ Obligations.CoresAndRuns := by
  unfold Obligations.CoresAndRuns
  rintro ⟨-, fails, -⟩
  obtain ⟨t, next, ended, -⟩ := fails runKeepsRead 7 0x16 3 (readyCmd [0x28])
    rfl (by decide) rfl (by decide +kernel) rfl (by decide +kernel) rfl rfl rfl rfl (by decide +kernel) rfl
  have recorded := run_records_dropped_read
  simp only [next, ended] at recorded
  cases recorded

end Sys2Proof.Machine
end

section
/-! PROOFS. Kernel faults (R128, R188): a core without an open record stops with a record of its own. -/

namespace Sys2Proof.Machine

open Sys2Proof

/-! ### Cores -/

@[simp] theorem coreOf_setCore_self (d : Dev) (c : Nat) (x : Core) : coreOf (setCore d c x) c = x := tget_tput_self ..

theorem coreOf_setCore_ne {d : Dev} {c k : Nat} (x : Core) (other : k ≠ c) : coreOf (setCore d c x) k = coreOf d k :=
  tget_tput_ne _ _ _ other

@[simp] theorem setCore_setCore (d : Dev) (c : Nat) (x y : Core) : setCore (setCore d c x) c y = setCore d c y := by
  simp [setCore]

/-! ### Records of a unit with none open (R449) -/

theorem openOf_eq_none {q : ErrQ} {kind id : Nat} :
    openOf q kind id = none ↔ ∀ o ∈ q.opens, ¬(o.kind = kind ∧ o.id = id) := by
  have general (l : List OpenRec) (b : Option OpenRec) :
      l.foldl (fun b o => if o.kind = kind ∧ o.id = id then some o else b) b = none ↔
        b = none ∧ ∀ o ∈ l, ¬(o.kind = kind ∧ o.id = id) := by
    induction l generalizing b with
    | nil => simp
    | cons o l ih =>
      rw [List.foldl_cons, ih, List.forall_mem_cons]
      split <;> simp_all only [not_true, not_false_eq_true, false_and, and_false, true_and, reduceCtorEq]
  exact (general q.opens none).trans ⟨And.right, fun h => ⟨rfl, h⟩⟩

theorem overlapped_none {d : Dev} {kind id : Nat} (level : Nat) (fresh : openOf d.errq kind id = none) :
    overlapped d level kind id = none := by
  unfold overlapped
  split
  · rfl
  · exact openOf_eq_none.mpr fun o mem => openOf_eq_none.mp fresh o (List.mem_filter.mp mem).1

theorem sameEvent_none {d : Dev} {kind id : Nat} (cls level : Nat) (fresh : openOf d.errq kind id = none) :
    sameEvent d cls level kind id = none := by
  unfold sameEvent
  split
  · rfl
  · rw [List.find?_eq_none]
    intro o mem same
    obtain ⟨sameKind, sameId, -⟩ := of_decide_eq_true same
    exact openOf_eq_none.mp fresh o mem ⟨sameKind, sameId⟩

theorem enqueueErr_keeps (q : ErrQ) (r : ErrRec) : (enqueueErr q r).1.next = q.next ∧ (enqueueErr q r).1.due = q.due := by
  unfold enqueueErr
  split
  · exact ⟨rfl, rfl⟩
  · dsimp only
    split
    · exact ⟨rfl, rfl⟩
    · split <;> exact ⟨rfl, rfl⟩

/-- An event of level 1 of a unit with no open record takes the next SEQ and asks for no recovery. -/
theorem formErr_level_one {d : Dev} {kind id : Nat} (cls ctx : Nat) (body : Bytes) (instant : Bool)
    (fresh : openOf d.errq kind id = none) : ∃ errq mbx ports tel out,
      formErr d cls 1 kind id ctx body instant = { d with errq := errq, mbx := mbx, ports := ports, tel := tel, out := out } ∧
      errq.next = (d.errq.next + 1) % 2 ^ 32 ∧ errq.due = d.errq.due := by
  unfold formErr
  rw [overlapped_none 1 fresh]
  extract_lets q o lv prior r q1 dom
  have keeps := enqueueErr_keeps q1 r
  split
  rename_i q2 held queued
  rw [queued] at keeps
  obtain ⟨next, due⟩ := keeps
  extract_lets q3 q4 d1 boot d2 d3 d4
  have next3 : q3.next = q1.next := by simp only [q3]; split <;> exact next
  have due3 : q3.due = q1.due := by simp only [q3]; split <;> exact due
  have q43 : q4 = q3 := if_neg (by simp [lv, o])
  have e1 : d1 = { d with errq := q3 } := congrArg (fun q => { d with errq := q }) q43
  have e2 : d2 = d1 := if_neg (by simp [lv, o])
  have e3 : d3 = d2 := if_neg (by simp [lv, o])
  have frame : MsgFrame { d with errq := q3 } d4 := by
    rw [← e1, ← e2, ← e3]
    simp only [d4]
    split
    · exact telD_frame ..
    · exact .refl _
  split
  · obtain ⟨mbx, ports, tel, out, rung⟩ := frame.trans (foldl_msg (fun d m => if (mbOf d m).priv = 3 ∨
      ((mbOf d m).priv = 1 ∨ (mbOf d m).priv = 2) ∧ (mbOf d m).ctx = ctx then ring d m 2 else d) (fun d m => by
        split
        · exact ring_frame ..
        · exact .refl d) allMb d4)
    exact ⟨q3, mbx, ports, tel, out, rung, next3, due3⟩
  · obtain ⟨mbx, ports, tel, out, rung⟩ := frame
    exact ⟨q3, mbx, ports, tel, out, rung, next3, due3⟩

/-! ### A core stops (R128, R188) -/

/-- A core that a fault of its kernel has stopped. -/
def Core.faulted (x : Core) (cause : Nat) : Core :=
  stopChans { x with state := 3, faultCause := cause, stopWith := some (0x17, 0, true), sync := none, stalled := none }

/-- What a kernel fault may touch: cores, commands, the error queue, and what tells of its record. -/
def FaultFrame (d e : Dev) : Prop :=
  e = { d with cores := e.cores, cmds := e.cmds, errq := e.errq, tel := e.tel, mbx := e.mbx, ports := e.ports, out := e.out }

/-- The KERNEL record of a core with no open record takes the next SEQ and leaves the cores alone. -/
theorem kernelRecord_first {d : Dev} {c : Nat} (status : Nat) (fresh : openOf d.errq 2 c = none) :
    FaultFrame d (kernelRecord d c status 0 none) ∧ (kernelRecord d c status 0 none).cores = d.cores ∧
      (kernelRecord d c status 0 none).errq.next = (d.errq.next + 1) % 2 ^ 32 ∧
      (kernelRecord d c status 0 none).errq.due = d.errq.due := by
  unfold kernelRecord
  dsimp only
  simp only [logRec, sameEvent_none _ _ fresh]
  obtain ⟨errq, mbx, ports, tel, out, formed, next, due⟩ := formErr_level_one 3 (coreOf d c).ctx
    (errBody 0 status 0 (coreOf d c).tag ((coreOf d c).faultCause + 0 + (coreOf d c).launch * 65536) (coreOf d c).pc) false fresh
  rw [formed]
  exact ⟨rfl, rfl, next, due⟩

theorem coreStop_frame (d : Dev) (c status : Nat) : coreStop d c status = { d with cores := (coreStop d c status).cores } := by
  unfold coreStop
  split <;> rfl

theorem coreOf_coreStop_ne {d : Dev} {c k : Nat} (status : Nat) (other : k ≠ c) : coreOf (coreStop d c status) k = coreOf d k := by
  unfold coreStop
  split
  · exact coreOf_setCore_ne _ other
  · rfl

/-- STOP for the other cores of a launch changes cores alone, and not the core that failed. -/
theorem foldl_coreStop (l : List Nat) (d : Dev) (c status : Nat) :
    (∃ cores, l.foldl (fun d o => if o = c then d else coreStop d o status) d = { d with cores := cores }) ∧
      coreOf (l.foldl (fun d o => if o = c then d else coreStop d o status) d) c = coreOf d c := by
  induction l generalizing d with
  | nil => exact ⟨⟨d.cores, rfl⟩, rfl⟩
  | cons o l ih =>
    rw [List.foldl_cons]
    by_cases same : o = c
    · rw [if_pos same]
      exact ih d
    · rw [if_neg same]
      obtain ⟨⟨cores, rest⟩, kept⟩ := ih (coreStop d o status)
      refine ⟨⟨cores, ?_⟩, kept.trans (coreOf_coreStop_ne status (Ne.symm same))⟩
      rw [rest, coreStop_frame]

/-- A kernel fault stops its core, with a record where none of the core was open. -/
theorem kernelFault_stops {d : Dev} {c : Nat} (cause : Nat) (runs : (coreOf d c).state = 2) (fresh : openOf d.errq 2 c = none) :
    FaultFrame d (kernelFault d c cause) ∧ coreOf (kernelFault d c cause) c = (coreOf d c).faulted cause ∧
      (kernelFault d c cause).errq.next = (d.errq.next + 1) % 2 ^ 32 ∧ (kernelFault d c cause).errq.due = d.errq.due := by
  have stopped : kernelFault d c cause =
      let e := kernelRecord (setCore d c ((coreOf d c).faulted cause)) c 0x17 0 none
      match cmdOf e (coreOf d c).tag with
      | some m => m.cores.foldl (fun d o => if o = c then d else coreStop d o 0x51) e
      | none => e := by
    unfold kernelFault coreFault
    rw [if_pos (.inl runs)]
    rfl
  obtain ⟨frame, cores, next, due⟩ :=
    kernelRecord_first (d := setCore d c ((coreOf d c).faulted cause)) (c := c) 0x17 fresh
  have self : coreOf (kernelRecord (setCore d c ((coreOf d c).faulted cause)) c 0x17 0 none) c = (coreOf d c).faulted cause := by
    exact (congrArg (tget · c Core.idle) cores).trans (tget_tput_self ..)
  rw [stopped]
  dsimp only
  split
  · rename_i m _
    obtain ⟨⟨others, rest⟩, kept⟩ := foldl_coreStop m.cores
      (kernelRecord (setCore d c ((coreOf d c).faulted cause)) c 0x17 0 none) c 0x51
    refine ⟨?_, kept.trans self, ?_, ?_⟩
    · rw [rest, frame]; rfl
    · rw [rest]; exact next
    · rw [rest]; exact due
  · exact ⟨frame, self, next, due⟩

/-- Nothing follows a kernel fault of a serving device. -/
theorem settle_kernelFault {s : State} {c : Nat} (cause : Nat) (sv : Serving s) (runs : (coreOf s.dev c).state = 2)
    (fresh : openOf s.dev.errq 2 c = none) :
    settle (latch s) (kernelFault (latch s) c cause) = kernelFault (latch s) c cause := by
  obtain ⟨_, due, wait, tags, sent⟩ := sv
  obtain ⟨frame, _, _, kept⟩ := kernelFault_stops (d := latch s) cause runs fresh
  refine settle_quiet (kept.trans due) ?_ ?_ ?_ ?_ <;> rw [frame]
  · exact wait
  · exact tags
  · exact sent

end Sys2Proof.Machine
end

section
/-! PROOFS. Scalar accesses (R114, R118 to R121, R342): where an address leads, runs of bytes within one line, local memory, the
home floe and the data cache, and the statement ScalarAccesses. -/

namespace Sys2Proof.Machine

open Sys2Proof

/-! ### Where a scalar address leads (R114, R118) -/

section
variable {d : Dev} {c addr size : Nat} {f : Place → Dev} (ready : scalarReady d c = true)
include ready

theorem scalarReady_running : (coreOf d c).state = 2 := by
  unfold scalarReady at ready
  simp only [Bool.and_eq_true, beq_iff_eq] at ready
  exact ready.1.1.1

theorem scalarAt_misaligned (odd : addr % size ≠ 0) : scalarAt d c addr size f = kernelFault d c 2 := by
  simp [scalarAt, ready, odd]

variable (aligned : addr % size = 0)
include aligned

theorem scalarAt_hole (hole : placeOf addr = .hole) : scalarAt d c addr size f = kernelFault d c 3 := by
  simp [scalarAt, ready, aligned, hole]

theorem scalarAt_lm (low : addr < 0x800000) : scalarAt d c addr size f = f (.lm addr) := by
  simp [scalarAt, ready, aligned, placeOf, low]

theorem scalarAt_alias (start : 0x1000000 ≤ addr) (stop : addr < 0x1004000) :
    scalarAt d c addr size f = f (.alias_ (addr - 0x1000000)) := by
  have high : ¬addr < 0x800000 := by omega
  simp [scalarAt, ready, aligned, placeOf, high, start, stop]

theorem scalarAt_ctx (start : 2 ^ 48 ≤ addr) (stop : addr < 2 ^ 49) :
    scalarAt d c addr size f = f (.ctx (addr - 2 ^ 48)) := by
  have place : placeOf addr = .ctx (addr - 2 ^ 48) := by
    rw [placeOf, if_neg (by omega), if_neg (by omega), if_pos ⟨start, stop⟩]
  simp [scalarAt, ready, aligned, place]

end

/-- The sizes of a scalar access. -/
theorem access_sizes {size : Nat} (sizes : [1, 2, 4, 8].contains size = true) : size = 1 ∨ size = 2 ∨ size = 4 ∨ size = 8 := by
  simpa using sizes

theorem size_le_eight {size : Nat} (sizes : [1, 2, 4, 8].contains size = true) : size ≤ 8 := by
  have := access_sizes sizes
  omega

/-- An aligned access lies within one line. -/
theorem access_within_line {addr size : Nat} (sizes : [1, 2, 4, 8].contains size = true) (aligned : addr % size = 0)
    (start : 2 ^ 48 ≤ addr) : 0 < size ∧ (addr - 2 ^ 48) % 64 + size ≤ 64 := by
  rcases access_sizes sizes with rfl | rfl | rfl | rfl <;> omega

/-! ### A run of bytes within one line -/

/-- A mask of no bits keeps every byte. -/
theorem mergeMask_zero (old v : Bytes) : mergeMask old v 0 = old := by
  induction old generalizing v with
  | nil => rfl
  | cons x old ih => simp [mergeMask, ih]

/-- The mask of the first bytes. -/
theorem mergeMask_prefix (v pad old : Bytes) (fits : v.length ≤ old.length) :
    mergeMask old (v ++ pad) (2 ^ v.length - 1) = v ++ old.drop v.length := by
  induction v generalizing old with
  | nil => simp [mergeMask_zero]
  | cons x v ih =>
    cases old with
    | nil => simp at fits
    | cons y old =>
      have odd : (2 ^ (v.length + 1) - 1) % 2 = 1 := by have := Nat.two_pow_pos v.length; omega
      have half : (2 ^ (v.length + 1) - 1) / 2 = 2 ^ v.length - 1 := by omega
      simp [mergeMask, odd, half, ih old (by simpa using fits)]

/-- The mask of a run of bytes at an offset puts them there. -/
theorem mergeMask_run (v pad : Bytes) {old : Bytes} {o : Nat} (fits : o + v.length ≤ old.length) :
    mergeMask old (zeros o ++ v ++ pad) (runMask o v.length) = splice old o v := by
  have merged : mergeMask old (zeros o ++ v ++ pad) (runMask o v.length) = old.take o ++ v ++ old.drop (o + v.length) := by
    induction o generalizing old with
    | zero =>
      rw [Nat.zero_add] at fits
      simpa [zeros, runMask] using mergeMask_prefix v pad old fits
    | succ o ih =>
      cases old with
      | nil => simp at fits
      | cons y old =>
        have even : runMask (o + 1) v.length % 2 = 0 := by rw [runMask, Nat.pow_succ, ← Nat.mul_assoc]; omega
        have half : runMask (o + 1) v.length / 2 = runMask o v.length := by
          rw [runMask, runMask, Nat.pow_succ, ← Nat.mul_assoc]; omega
        have rest := ih (old := old) (by simp only [List.length_cons] at fits; omega)
        simpa [mergeMask, zeros, List.replicate_succ, even, half, Nat.add_right_comm o 1] using rest
  have whole : (old.take o ++ v ++ old.drop (o + v.length)).length ≤ old.length := by
    simp only [List.length_append, List.length_take, List.length_drop]
    omega
  rw [merged, splice, List.take_of_length_le whole]

theorem lineRuns_within {addr n : Nat} (pos : 0 < n) (fits : addr % 64 + n ≤ 64) : lineRuns addr n = [(addr, addr % 64, n)] := by
  have one : (addr % 64 + n + 63) / 64 = 1 := by omega
  have whole : min (64 - addr % 64) (addr + n - addr) = n := by omega
  simp only [lineRuns, if_neg (show ¬n = 0 by omega), one, List.range_one, List.map_cons, List.map_nil, if_true, whole]

/-- The mask of part of a line is not that of the whole. -/
theorem runMask_partial {o n : Nat} (small : n ≤ 8) : runMask o n % 2 ^ 64 ≠ 2 ^ 64 - 1 := by
  have few : 2 ^ n ≤ 2 ^ 8 := Nat.pow_le_pow_right (by decide) small
  unfold runMask
  cases o with
  | zero => omega
  | succ o =>
    rw [Nat.pow_succ, ← Nat.mul_assoc]
    omega

/-- The device after a hit in a slice: it is counted, and its line is the one last used of its set (R92, R108). -/
def sliceHit (d : Dev) (line : Nat) : Dev := useLine (telF d (homeFloe (pageOfLine line)) 0x1038 1) line

/-- A line write of some bytes of a line that the slice holds, not held back. -/
theorem lineWrite_held_mask {w : W} {line mask : Nat} {l : CLine} (addr : Nat) (b : Bytes) (final : Bool) (h : HeldLine w.d line l)
    (p : PlainPage w.d (pageOfLine line)) (k : mustHold w.d w.who.owner line final = false) (m : mask % 2 ^ 64 ≠ 2 ^ 64 - 1) :
    w.lineWrite addr line b mask final =
      { w with d := putLine (sliceHit w.d line) line (mergeMask l.data (slice b 0 64) mask) true, wrote := w.wrote + 1 } := by
  have near : ¬(pageOf w.d (pageOfLine line)).tier = 0 ∧ ¬(pageOf w.d (pageOfLine line)).tier = 3 ∧
      ¬(pageOf w.d (pageOfLine line)).tier = 4 := by rcases h.tier with t | t <;> omega
  obtain ⟨placed, pool, host⟩ := near
  simp only [W.lineWrite, W.reach, h.on, Bool.true_or, Bool.not_true, Bool.false_eq_true, if_false, frozen_local h.tier, placed, pool,
    host, ncReady_free true h.free h.dirSound, k, homeWrite_held_mask w.who b h p m]
  rfl

section
variable {w : W} {addr n i u : Nat} {r : Range} {l : CLine} (goes : w.ok = true) (pos : 0 < n) (fits : addr % 64 + n ≤ 64)
  (range : findRange w.d w.ctx w.gen addr = some (i, r)) (place : u = r.uni + (addr - r.start)) (held : HeldLine w.d (u / 64) l)
include goes pos fits range place held

/-- A read within a line that the slice holds. -/
theorem read_held (right : r.r = true) :
    w.read addr n = ({ w with d := sliceHit w.d (u / 64) }, slice l.data (addr % 64) n) := by
  subst place
  simp only [W.read, lineRuns_within pos fits, List.foldl_cons, List.foldl_nil, goes, if_true,
    xlate_ok (access := 0) range (by simpa using right), lineRead_held held, List.nil_append]
  rfl

/-- A write of at most 8 bytes within a line that the slice holds. -/
theorem write_held {b : Bytes} (few : b.length = n) (small : n ≤ 8) (right : r.w = true)
    (page : PlainPage w.d (pageOfLine (u / 64))) (free : mustHold w.d w.who.owner (u / 64) false = false)
    (whole : l.data.length = 64) : w.write addr b = { w with
      d := putLine (sliceHit w.d (u / 64)) (u / 64) (splice l.data (addr % 64) b) true
      wrote := w.wrote + 1 } := by
  subst place
  have bytes : slice (zeros (addr % 64) ++ b) 0 64 = zeros (addr % 64) ++ b ++ zeros (64 - (addr % 64 + n)) := by
    have short : (zeros (addr % 64) ++ b).length = addr % 64 + n := by rw [List.length_append, zeros_length, few]
    rw [slice, List.drop_zero, List.take_of_length_le (by omega), short]
    rfl
  have merged : mergeMask l.data (slice (zeros (addr % 64) ++ b) 0 64) (runMask (addr % 64) n) = splice l.data (addr % 64) b := by
    rw [bytes, ← few]
    exact mergeMask_run b _ (by omega)
  simp only [W.write, W.writeF, few, lineRuns_within pos fits, List.foldl_cons, List.foldl_nil, goes, if_true,
    xlate_ok (access := 1) range (by simpa using right), List.take_of_length_le (Nat.le_of_eq few),
    lineWrite_held_mask addr (zeros (addr % 64) ++ b) false held page free (runMask_partial small), merged]

end

theorem pageOfLine_div (u : Nat) : pageOfLine (u / 64) = u / 65536 := Nat.div_div_eq_div_mul ..

/-- The line of a unified address that its slice holds. -/
theorem heldLine_at {d : Dev} {u : Nat} {l : CLine} (tier : (pageOf d (u / 65536)).tier = 1 ∨ (pageOf d (u / 65536)).tier = 2)
    (unpacked : (pageOf d (u / 65536)).packed = false) (on : floeOn d (homeFloe (u / 65536)) = true)
    (free : tget? d.dir (u / 64) = none) (held : tget? d.cache (u / 64) = some l) (sound : SoundLine d (u / 64)) :
    HeldLine d (u / 64) l := by
  rw [← pageOfLine_div] at tier unpacked on
  obtain ⟨slice, path, dir⟩ := sound
  exact ⟨on, tier, unpacked, free, dir, held, slice, path⟩

theorem plainPage_at {d : Dev} {u : Nat} (volatile : (pageOf d (u / 65536)).durable = false)
    (single : (pageOf d (u / 65536)).twin = false) (packs : (pageOf d (u / 65536)).noPack = false) :
    PlainPage d (pageOfLine (u / 64)) := by
  rw [← pageOfLine_div] at volatile single packs
  exact ⟨volatile, single, packs⟩

/-! ### What an access does to the core (R115, R119, R121) -/

/-- A loaded value in its register, and what the access tells of it. -/
theorem setX_eq (d : Dev) (c rd v : Nat) : setX d c rd v = { d with
    cores := if rd = 0 then d.cores
      else tput d.cores c { (coreOf d c) with xregs := tput (coreOf d c).xregs rd (v % 2 ^ 64) }
    out := .load c rd (v % 2 ^ 64) :: d.out } := by
  unfold setX
  split <;> rfl

theorem setX_register (d : Dev) (c : Nat) {rd : Nat} (v : Nat) (register : rd ≠ 0) : setX d c rd v =
    emit (setCore d c { (coreOf d c) with xregs := tput (coreOf d c).xregs rd (v % 2 ^ 64) }) (.load c rd (v % 2 ^ 64)) := by
  rw [setX, if_neg register]
  rfl

theorem sramRead_clean {d : Dev} {c : Nat} (src : Nat) (spans : List (Nat × Nat)) (clean : (coreOf d c).flips = []) :
    sramRead d c src spans = (d, false) := by
  simp [sramRead, flipsIn, clean]

/-- An aligned run from an address of local memory lies in it, and is refused in the code region alone. -/
theorem lmWriteCause_aligned (x : Core) {addr size : Nat} (sizes : [1, 2, 4, 8].contains size = true) (aligned : addr % size = 0)
    (low : addr < 0x800000) : lmWriteCause x addr size = if inCode x addr size then 5 else 0 := by
  have inside : addr + size ≤ 0x800000 := by
    rcases access_sizes sizes with rfl | rfl | rfl | rfl <;> omega
  have ok : lmOk addr size = true := decide_eq_true inside
  simp [lmWriteCause, ok]

/-! ### Context addresses (R120, R342) -/

section
variable {d : Dev} {c addr k : Nat} {r : Range} (range : findRange d (coreOf d c).ctx (coreGen d c) addr = some (k, r))
include range

theorem addrCoherent_range : addrCoherent d c addr = r.coh := by
  simp [addrCoherent, range]

/-- An access to a range that is not coherent goes to the home floe. -/
theorem ctxAccess_home {far : Far} {access : Nat} {own places : Bool} {o : Owner} {hit : Dev → DLine → Nat → Dev}
    {plain : W → W × (Dev → Dev)} (apart : r.coh = false) : ctxAccess d far c addr access own places o hit plain =
      scalarEnd d c (plain (coreWork d far c 0 o)).1 (plain (coreWork d far c 0 o)).2 := by
  have line : coherentLine (coreWork d far c 0 o) c addr access places = (coreWork d far c 0 o, none) := by
    have no : addrCoherent (coreWork d far c 0 o).d c addr = false := (addrCoherent_range range).trans apart
    rw [coherentLine, no]
    rfl
  rw [ctxAccess, line]
  rfl

end

/-- Work that neither fails nor waits ends with what it has come to. -/
theorem scalarEnd_done {w : W} (d : Dev) (c : Nat) (done : Dev → Dev) (goes : w.ok = true) :
    scalarEnd d c w done = done (noteWrites w.d c w.wrote) := by
  simp only [W.ok, Bool.and_eq_true, Option.isNone_iff_eq_none] at goes
  simp only [scalarEnd, goes]

section
variable {d : Dev} {c line : Nat} {l : DLine} (clean : (coreOf d c).flips = []) (owned : l.owned = true)
include clean owned

/-- A line OWNED in the data cache serves an access. -/
theorem cachedAccess_owned {own : Bool} {hit : Dev → DLine → Dev} {uncached : Dev → Dev}
    (held : tget? (coreOf d c).dcache line = some l) : cachedAccess d c line own hit uncached = hit d l := by
  have code : dcCode d c line = (d, false) := by simp [dcCode, held, clean, tget]
  have serves : cachedLine d c line own = some l := by simp [cachedLine, held, owned]
  simp [cachedAccess, code, fetchLine, serves]

/-- An atomic access to a coherent range whose line the core owns. -/
theorem ctxAccess_owned {far : Far} {addr k : Nat} {r : Range} {places : Bool} {o : Owner} {hit : Dev → DLine → Nat → Dev}
    {plain : W → W × (Dev → Dev)} (range : findRange d (coreOf d c).ctx (coreGen d c) addr = some (k, r)) (coherent : r.coh = true)
    (right : r.a = true) (place : line = (r.uni + (addr - r.start)) / 64)
    (tier : (pageOf d (pageOfLine line)).tier = 1 ∨ (pageOf d (pageOfLine line)).tier = 2)
    (held : tget? (coreOf d c).dcache line = some l) : ctxAccess d far c addr 2 true places o hit plain = hit d l line := by
  have site : coherentLine (coreWork d far c 0 o) c addr 2 places = (coreWork d far c 0 o, some line) := by
    have yes : addrCoherent (coreWork d far c 0 o).d c addr = true := (addrCoherent_range range).trans coherent
    have translated : (coreWork d far c 0 o).xlate addr 2 = (coreWork d far c 0 o, some (r.uni + (addr - r.start))) :=
      xlate_ok (w := coreWork d far c 0 o) range (by simpa using right)
    have near : (pageOf (coreWork d far c 0 o).d (pageOfLine ((r.uni + (addr - r.start)) / 64))).tier = 1 ∨
        (pageOf (coreWork d far c 0 o).d (pageOfLine ((r.uni + (addr - r.start)) / 64))).tier = 2 := place ▸ tier
    simp only [coherentLine, yes, Bool.not_true, Bool.false_eq_true, if_false, translated, near, if_true, place]
  rw [ctxAccess, site]
  exact cachedAccess_owned clean owned held

end

/-- Bytes put into the one line of a data cache. -/
theorem dcPut_only {d : Dev} {c line : Nat} {l : DLine} (o : Nat) (b : Bytes) (only : (coreOf d c).dcache = [(line, l)]) :
    dcPut d c line o b = setCore (noteWrites d c 1) c
      { (coreOf d c) with dcache := [(line, { l with data := splice l.data o b, dirty := true })] } := by
  simp only [dcPut, modCore, only, tmod, tget?, if_true, tput, noteWrites, coreOf_setCore_self]
  rfl

/-! ### What follows an access -/

theorem settle_undisturbed {s : State} {e : Dev} (sv : Serving s) (same : Undisturbed (latch s) e) : settle (latch s) e = e := by
  obtain ⟨_, due, wait, tags, sent⟩ := sv
  obtain ⟨errq, tagWait, tagHeld, sw, boot⟩ := same
  have state : devState e = devState (latch s) := by unfold devState anyContained; rw [boot]
  have failed : e.boot.failed = (latch s).boot.failed := by rw [boot]
  exact settle_still (by rw [errq]; exact due) state failed (tagWait.trans wait) (tagHeld.trans tags) (by rw [sw]; exact sent)

/-- An instruction that is a kernel fault: the core stops with a record of its own. -/
theorem exec_faults {i : Instr} {s : State} {c cause : Nat} (sv : Serving s) (ready : scalarReady s.dev c = true)
    (fresh : openOf s.dev.errq 2 c = none)
    (next : exec i s = .next { s with dev := settle (latch s) (kernelFault (latch s) c cause) }) :
    ∃ t, exec i s = .next t ∧ coreOf t.dev c = (coreOf s.dev c).faulted cause ∧
      t.dev.errq.next = (s.dev.errq.next + 1) % 2 ^ 32 ∧ t = { s with dev := { latch s with
        cores := t.dev.cores, cmds := t.dev.cmds, errq := t.dev.errq, tel := t.dev.tel, mbx := t.dev.mbx, ports := t.dev.ports
        out := t.dev.out } } := by
  have runs := scalarReady_running ready
  obtain ⟨frame, core, seq, -⟩ := kernelFault_stops (d := latch s) cause runs fresh
  rw [settle_kernelFault cause sv runs fresh] at next
  exact ⟨_, next, core, seq, congrArg (fun d => { s with dev := d }) frame⟩

section
variable {d : Dev} {far : Far} {c addr size k u : Nat} {r : Range} {l : CLine}
  (range : findRange d (coreOf d c).ctx (coreGen d c) addr = some (k, r)) (apart : r.coh = false)
  (place : u = r.uni + (addr - r.start)) (pos : 0 < size) (fits : addr % 64 + size ≤ 64) (held : HeldLine d (u / 64) l)
include range apart place pos fits held

/-- A load from a line that the slice holds. -/
theorem ctxLoad_held (rd : Nat) (uns : Bool) (right : r.r = true) : ctxLoad d far c addr size rd uns =
    setX (sliceHit d (u / 64)) c rd (loadValue size uns (fieldAt l.data (addr % 64) size)) := by
  have read := read_held (w := coreWork d far c 0 (.scalar c rd size)) rfl pos fits range place held right
  rw [ctxLoad, ctxAccess_home range apart]
  simp only [read]
  exact scalarEnd_done d c _ rfl

/-- A store to a line that the slice holds. -/
theorem ctxStore_held (v : Nat) (small : size ≤ 8) (right : r.w = true)
    (page : PlainPage d (pageOfLine (u / 64))) (free : mustHold d (.scalar c 0 0) (u / 64) false = false)
    (whole : l.data.length = 64) : ctxStore d far c addr size v =
      noteWrites (putLine (sliceHit d (u / 64)) (u / 64) (splice l.data (addr % 64) (leBytes size v)) true) c 1 := by
  have write := write_held (w := coreWork d far c 0 (.scalar c 0 0)) rfl pos fits range place held (leBytes_length size v) small right
    page free whole
  rw [ctxStore, ctxAccess_home range apart]
  simp only [write]
  exact scalarEnd_done d c _ rfl

end

section
variable {d : Dev} {c addr size rd k u : Nat} {r : Range} {l : DLine}
  (range : findRange d (coreOf d c).ctx (coreGen d c) addr = some (k, r)) (right : r.a = true)
  (place : u = r.uni + (addr - r.start))
include range right place

theorem atomic_xlate (far : Far) (o : Owner) : (coreWork d far c 0 o).xlate addr 2 = (coreWork d far c 0 o, some u) := by
  subst place
  exact xlate_ok (w := coreWork d far c 0 o) range (by simpa using right)

variable (register : rd ≠ 0)
include register

/-- SC without its reservation. -/
theorem storeConditional_unreserved (v : Nat) (lost : (coreOf d c).reserve ≠ some (u / 64)) :
    storeConditional d c addr size v rd =
      emit (setCore d c { (coreOf d c) with reserve := none, xregs := tput (coreOf d c).xregs rd 1 }) (.load c rd 1) := by
  simp only [storeConditional, atomic_xlate range right place, if_pos lost, scFails, modCore, setX_register _ _ _ register,
    coreOf_setCore_self, setCore_setCore] <;> rfl

variable (clean : (coreOf d c).flips = []) (only : (coreOf d c).dcache = [(u / 64, l)]) (owned : l.owned = true)
include clean only owned

/-- SC with its reservation. -/
theorem storeConditional_reserved (v : Nat) (holds : (coreOf d c).reserve = some (u / 64)) :
    storeConditional d c addr size v rd = emit (setCore (noteWrites d c 1) c { (coreOf d c) with
      reserve := none
      dcache := [(u / 64, { l with data := splice l.data (addr % 64) (leBytes size v), dirty := true })]
      xregs := tput (coreOf d c).xregs rd 0 }) (.load c rd 0) := by
  have held : tget? (coreOf d c).dcache (u / 64) = some l := by simp [only, tget?]
  simp only [storeConditional, atomic_xlate range right place, holds, ne_eq, not_true, if_false,
    cachedAccess_owned clean owned held, if_true, dcPut_only _ _ only, modCore, setX_register _ _ _ register,
    coreOf_setCore_self, setCore_setCore] <;> rfl

variable (coherent : r.coh = true) (tier : (pageOf d (u / 65536)).tier = 1 ∨ (pageOf d (u / 65536)).tier = 2)
include coherent tier

/-- An AMO in a line OWNED in the data cache. -/
theorem ctxAmo_owned (far : Far) (op v : Nat) : ctxAmo d far c op addr size v rd =
    emit (setCore (noteWrites d c 1) c { (coreOf d c) with
      dcache := [(u / 64, { l with
        data := splice l.data (addr % 64) (leBytes size (atomicNew op size (fieldAt l.data (addr % 64) size) v 0)), dirty := true })]
      xregs := tput (coreOf d c).xregs rd (extendReg size (fieldAt l.data (addr % 64) size) % 2 ^ 64) })
      (.load c rd (extendReg size (fieldAt l.data (addr % 64) size) % 2 ^ 64)) := by
  have held : tget? (coreOf d c).dcache (u / 64) = some l := by simp [only, tget?]
  rw [ctxAmo, ctxAccess_owned clean owned range coherent right (by rw [place]) (by rwa [pageOfLine_div]) held]
  simp only [dcPut_only _ _ only, setX_register _ _ _ register, coreOf_setCore_self, setCore_setCore]

/-- LR of a line OWNED in the data cache. -/
theorem loadReserved_owned : loadReserved d c addr size rd =
    emit (setCore d c { (coreOf d c) with
      reserve := some (u / 64)
      xregs := tput (coreOf d c).xregs rd (extendReg size (fieldAt l.data (addr % 64) size) % 2 ^ 64) })
      (.load c rd (extendReg size (fieldAt l.data (addr % 64) size) % 2 ^ 64)) := by
  have held : tget? (coreOf d c).dcache (u / 64) = some l := by simp [only, tget?]
  have emitted (x y : Core) (o : Out) : setCore (emit (setCore d c x) o) c y = emit (setCore d c y) o := by
    simp [setCore, emit]
  have seen (x : Core) (o : Out) : coreOf (emit (setCore d c x) o) c = x := coreOf_setCore_self ..
  rw [loadReserved, ctxAccess_owned clean owned range coherent right (by rw [place]) (by rwa [pageOfLine_div]) held]
  simp only [setX_register _ _ _ register, modCore, seen, emitted]

end

/-! ### The four instructions -/

/-- SCALAR_LOAD at what its address names (R119). -/
def placeLoad (k : Clock) (d : Dev) (c size rd : Nat) (uns : Bool) (far : Far) : Place → Dev
  | .lm a =>
    if (sramRead d c 0 [(a, size)]).2 then (sramRead d c 0 [(a, size)]).1
    else setX (sramRead d c 0 [(a, size)]).1 c rd (loadValue size uns (leNat (lmRead (coreOf d c) a size)))
  | .alias_ q => setX (coreRead k d c q size).1 c rd (loadValue size uns (coreRead k d c q size).2)
  | .ctx a => ctxLoad d far c a size rd uns
  | .hole => d

/-- SCALAR_STORE at what its address names (R119). -/
def placeStore (k : Clock) (d : Dev) (c size v : Nat) (far : Far) : Place → Dev
  | .lm a =>
    if lmWriteCause (coreOf d c) a size ≠ 0 then kernelFault d c (lmWriteCause (coreOf d c) a size)
    else modCore d c (fun x => lmWrite x a (leBytes size v))
  | .alias_ q => coreWrite k d c q size v
  | .ctx a => ctxStore d far c a size v
  | .hole => d

/-- SCALAR_AMO at what its address names (R120). -/
def placeAmo (k : Clock) (d : Dev) (c op size v rd : Nat) (far : Far) : Place → Dev
  | .lm a =>
    if lmWriteCause (coreOf d c) a size ≠ 0 then kernelFault d c (lmWriteCause (coreOf d c) a size)
    else if (sramRead d c 0 [(a, size)]).2 then (sramRead d c 0 [(a, size)]).1
    else
      setX (modCore (sramRead d c 0 [(a, size)]).1 c fun x =>
        lmWrite x a (leBytes size (atomicNew op size (leNat (lmRead (coreOf d c) a size)) v 0))) c rd
        (extendReg size (leNat (lmRead (coreOf d c) a size)))
  | .alias_ q =>
    setX (coreWrite k (coreRead k d c q size).1 c q size (atomicNew op size (coreRead k d c q size).2 v 0)) c rd
      (extendReg size (coreRead k d c q size).2)
  | .ctx a => ctxAmo d far c op a size v rd
  | .hole => d

/-- SCALAR_LR_SC at what its address names: on coherent ranges alone (R120). -/
def placeLrSc (d : Dev) (c : Nat) (sc : Bool) (size v rd : Nat) : Place → Dev
  | .ctx a =>
    if (findRange d (coreOf d c).ctx (coreGen d c) a).isSome ∧ !addrCoherent d c a then kernelFault d c 6
    else if sc then storeConditional d c a size v rd
    else loadReserved d c a size rd
  | _ => kernelFault d c 6

section
variable {s : State} {c addr size rd : Nat} {far : Far} {e : Dev} (sv : Serving s)
include sv

theorem exec_scalarLoad {uns : Bool} (w : (.scalarLoad c addr size rd uns far : Instr).wellFormed = true)
    (effect : scalarAt (latch s) c addr size (placeLoad s.clk (latch s) c size rd uns far) = e) :
    exec (.scalarLoad c addr size rd uns far) s = .next { s with dev := settle (latch s) e } := by
  have shape : exec (.scalarLoad c addr size rd uns far) s = onState (.scalarLoad c addr size rd uns far) s fun k d =>
    (k, scalarAt d c addr size (placeLoad k d c size rd uns far)) := rfl
  rw [shape, onState_next _ w sv.1, effect]

theorem exec_scalarStore {v : Nat} (w : (.scalarStore c addr size v far : Instr).wellFormed = true)
    (effect : scalarAt (latch s) c addr size (placeStore s.clk (latch s) c size v far) = e) :
    exec (.scalarStore c addr size v far) s = .next { s with dev := settle (latch s) e } := by
  have shape : exec (.scalarStore c addr size v far) s = onState (.scalarStore c addr size v far) s fun k d =>
    (k, scalarAt d c addr size (placeStore k d c size v far)) := rfl
  rw [shape, onState_next _ w sv.1, effect]

theorem exec_scalarAmo {op v : Nat} (w : (.scalarAmo c op addr size v rd far : Instr).wellFormed = true)
    (effect : scalarAt (latch s) c addr size (placeAmo s.clk (latch s) c op size v rd far) = e) :
    exec (.scalarAmo c op addr size v rd far) s = .next { s with dev := settle (latch s) e } := by
  have shape : exec (.scalarAmo c op addr size v rd far) s = onState (.scalarAmo c op addr size v rd far) s fun k d =>
    (k, scalarAt d c addr size (placeAmo k d c op size v rd far)) := rfl
  rw [shape, onState_next _ w sv.1, effect]

theorem exec_scalarLrSc {sc : Bool} {v : Nat} (w : (.scalarLrSc c sc addr size v rd : Instr).wellFormed = true)
    (effect : scalarAt (latch s) c addr size (placeLrSc (latch s) c sc size v rd) = e) :
    exec (.scalarLrSc c sc addr size v rd) s = .next { s with dev := settle (latch s) e } := by
  have shape : exec (.scalarLrSc c sc addr size v rd) s = onDev (.scalarLrSc c sc addr size v rd) s fun d =>
    scalarAt d c addr size (placeLrSc d c sc size v rd) := rfl
  rw [shape, onDev_next _ w sv.1, effect]

end

/-- Nothing follows an instruction that leaves the device undisturbed. -/
theorem next_undisturbed {i : Instr} {s : State} {e : Dev} (sv : Serving s)
    (next : exec i s = .next { s with dev := settle (latch s) e }) (same : Undisturbed (latch s) e) :
    exec i s = .next { s with dev := e } := by
  rw [next, settle_undisturbed sv same]

theorem next_quiet {i : Instr} {s : State} {e : Dev} (next : exec i s = .next { s with dev := settle (latch s) e })
    (boot : e.boot = s.dev.boot) (due : e.errq.due = []) (wait : e.tagWait = []) (tags : e.tagHeld = []) (sent : e.sw.seen = []) :
    exec i s = .next { s with dev := e } := by
  rw [next, settle_quiet (old := latch s) due boot wait tags sent]

section
variable {d : Dev} {k : Clock} {c a size : Nat} {far : Far}

theorem placeStore_lm (v : Nat) (allowed : lmWriteCause (coreOf d c) a size = 0) : placeStore k d c size v far (.lm a) =
    setCore d c { (coreOf d c) with
      lm := memWrite (coreOf d c).lm a (leBytes size v), flips := flipsWritten (coreOf d c).flips a size } := by
  rw [placeStore, if_neg (not_not_intro allowed), modCore, lmWrite, leBytes_length]

theorem placeStore_code (v : Nat) (refused : lmWriteCause (coreOf d c) a size = 5) :
    placeStore k d c size v far (.lm a) = kernelFault d c 5 := by
  rw [placeStore, refused, if_pos (by decide)]

/-- An AMO in local memory without upsets: what it stores, and what it gives. -/
theorem placeAmo_lm (op v rd : Nat) (allowed : lmWriteCause (coreOf d c) a size = 0) (clean : (coreOf d c).flips = []) :
    placeAmo k d c op size v rd far (.lm a) =
      setX (setCore d c { (coreOf d c) with
        lm := memWrite (coreOf d c).lm a (leBytes size (atomicNew op size (leNat (lmRead (coreOf d c) a size)) v 0)) }) c rd
        (extendReg size (leNat (lmRead (coreOf d c) a size))) := by
  have unflipped (x : Core) (b : Bytes) (fresh : x.flips = []) : lmWrite x a b = { x with lm := memWrite x.lm a b } := by
    rw [lmWrite, fresh, flipsWritten, List.filter_nil, ← fresh]
  rw [placeAmo, if_neg (not_not_intro allowed), sramRead_clean _ _ clean]
  simp only [Bool.false_eq_true, if_false, modCore, unflipped _ _ clean]

end

section
variable {d : Dev} {c a k size : Nat} {r : Range} (range : findRange d (coreOf d c).ctx (coreGen d c) a = some (k, r))
include range

theorem placeLrSc_lr (coherent : r.coh = true) (v rd : Nat) :
    placeLrSc d c false size v rd (.ctx a) = loadReserved d c a size rd := by
  simp [placeLrSc, addrCoherent_range range, coherent]

theorem placeLrSc_sc (coherent : r.coh = true) (v rd : Nat) :
    placeLrSc d c true size v rd (.ctx a) = storeConditional d c a size v rd := by
  simp [placeLrSc, addrCoherent_range range, coherent]

/-- LR and SC on any other range are a kernel fault. -/
theorem placeLrSc_apart (apart : r.coh = false) (sc : Bool) (v rd : Nat) :
    placeLrSc d c sc size v rd (.ctx a) = kernelFault d c 6 := by
  simp [placeLrSc, range, addrCoherent_range range, apart]

end

theorem loadSizes {c addr size rd : Nat} {uns : Bool} {far : Far}
    (w : (.scalarLoad c addr size rd uns far : Instr).wellFormed = true) : [1, 2, 4, 8].contains size = true := by
  change (decide (c < 64) && decide (rd < 32) && [1, 2, 4, 8].contains size) = true at w
  exact (Bool.and_eq_true_iff.mp w).2

theorem storeSizes {c addr size v : Nat} {far : Far} (w : (.scalarStore c addr size v far : Instr).wellFormed = true) :
    [1, 2, 4, 8].contains size = true := by
  change (decide (c < 64) && [1, 2, 4, 8].contains size) = true at w
  exact (Bool.and_eq_true_iff.mp w).2

theorem amoSizes {c op addr size v rd : Nat} {far : Far} (w : (.scalarAmo c op addr size v rd far : Instr).wellFormed = true) :
    [1, 2, 4, 8].contains size = true := by
  change (decide (c < 64) && decide (rd < 32) && [4, 8].contains size && decide (8 ≤ op) && decide (op ≤ 16)) = true at w
  simp only [Bool.and_eq_true, List.contains_cons, List.contains_nil, Bool.or_false, Bool.or_eq_true] at w ⊢
  obtain ⟨⟨⟨_, sizes⟩, _⟩, _⟩ := w
  exact .inr (.inr sizes)

/-- Settles O50: an address leads to its place (`scalarAt_…`), the lemmas above say what the instruction does there, and nothing
follows it; a kernel fault leaves what `kernelFault_stops` says. -/
theorem scalarAccesses : Obligations.ScalarAccesses := by
  unfold Obligations.ScalarAccesses
  refine ⟨?loadLm, ?loadCtx, ?loadAlias, ?loadOdd, ?loadHole, ?storeLm, ?storeCode, ?storeCtx, ?storeAlias, ?amoLm, ?amoCtx,
    ?amoAlias, ?reserve, ?conditional, ?unreserved, ?outside⟩
  case loadLm =>
    intro s c addr size rd uns far w sv ready aligned low clean
    have loads : placeLoad s.clk (latch s) c size rd uns far (.lm addr) =
        setX (latch s) c rd (loadValue size uns (leNat (lmRead (coreOf s.dev c) addr size))) := by
      simp only [placeLoad, sramRead_clean (d := latch s) _ _ clean, Bool.false_eq_true, if_false]
      rfl
    exact next_undisturbed sv
      (exec_scalarLoad sv w ((scalarAt_lm (d := latch s) ready aligned low).trans (loads.trans (setX_eq ..))))
      ⟨rfl, rfl, rfl, rfl, rfl⟩
  case loadCtx =>
    intro s c addr size rd uns far k u r l w sv ready aligned start stop register range apart right place tier unpacked on free held
      sound _
    obtain ⟨pos, fits⟩ := access_within_line (loadSizes w) aligned start
    have loads := ctxLoad_held (d := latch s) (far := far) range apart place pos fits
      (heldLine_at tier unpacked on free held sound) rd uns right
    rw [setX_register _ _ _ register] at loads
    have next := next_undisturbed sv
      (exec_scalarLoad sv w ((scalarAt_ctx (d := latch s) ready aligned start stop).trans loads)) ⟨rfl, rfl, rfl, rfl, rfl⟩
    exact ⟨_, next, tget_tput_self .., rfl, congrArg (tput s.dev.cores c) (tget_tput_self ..).symm, rfl, rfl⟩
  case loadAlias =>
    intro s c addr size rd uns far e v w sv ready aligned start stop read boot due wait tags sent
    have loads : placeLoad s.clk (latch s) c size rd uns far (.alias_ (addr - 0x1000000)) = setX e c rd (loadValue size uns v) := by
      rw [placeLoad, read]
    have next := exec_scalarLoad sv w ((scalarAt_alias (d := latch s) ready aligned start stop).trans (loads.trans (setX_eq ..)))
    rw [setX_eq]
    exact next_quiet next boot due wait tags sent
  case loadOdd =>
    intro s c addr size rd uns far w sv ready odd fresh
    exact exec_faults sv ready fresh (exec_scalarLoad sv w (scalarAt_misaligned (d := latch s) ready odd))
  case loadHole =>
    intro s c addr size rd uns far w sv ready aligned hole fresh
    exact exec_faults sv ready fresh (exec_scalarLoad sv w (scalarAt_hole (d := latch s) ready aligned hole))
  case storeLm =>
    intro s c addr size v far w sv ready aligned low code
    have allowed : lmWriteCause (coreOf s.dev c) addr size = 0 := by simp [lmWriteCause_aligned _ (storeSizes w) aligned low, code]
    exact next_undisturbed sv
      (exec_scalarStore sv w ((scalarAt_lm (d := latch s) ready aligned low).trans (placeStore_lm (d := latch s) v allowed)))
      ⟨rfl, rfl, rfl, rfl, rfl⟩
  case storeCode =>
    intro s c addr size v far w sv ready aligned low code fresh
    have refused : lmWriteCause (coreOf s.dev c) addr size = 5 := by simp [lmWriteCause_aligned _ (storeSizes w) aligned low, code]
    exact exec_faults sv ready fresh (exec_scalarStore sv w
      ((scalarAt_lm (d := latch s) ready aligned low).trans (placeStore_code (d := latch s) v refused)))
  case storeCtx =>
    intro s c addr size v far k u r l w sv ready aligned start stop range apart right place tier unpacked on free held sound _ volatile
      single whole packs unheld
    obtain ⟨pos, fits⟩ := access_within_line (storeSizes w) aligned start
    have stores := ctxStore_held (d := latch s) (far := far) range apart place pos fits
      (heldLine_at tier unpacked on free held sound) v (size_le_eight (storeSizes w)) right (plainPage_at volatile single packs) unheld whole
    have next := next_undisturbed sv
      (exec_scalarStore sv w ((scalarAt_ctx (d := latch s) ready aligned start stop).trans stores)) ⟨rfl, rfl, rfl, rfl, rfl⟩
    exact ⟨_, next, rfl, rfl, rfl, rfl⟩
  case storeAlias =>
    intro s c addr size v far e w sv ready aligned start stop write boot due wait tags sent
    exact next_quiet (exec_scalarStore sv w ((scalarAt_alias (d := latch s) ready aligned start stop).trans write))
      boot due wait tags sent
  case amoLm =>
    intro s c op addr size v rd far w sv ready aligned low code clean
    have allowed : lmWriteCause (coreOf s.dev c) addr size = 0 := by simp [lmWriteCause_aligned _ (amoSizes w) aligned low, code]
    have acts := (placeAmo_lm (d := latch s) (k := s.clk) (far := far) op v rd allowed clean).trans (setX_eq ..)
    rw [coreOf_setCore_self, setCore_cores, tput_tput] at acts
    exact next_undisturbed sv (exec_scalarAmo sv w ((scalarAt_lm (d := latch s) ready aligned low).trans acts))
      ⟨rfl, rfl, rfl, rfl, rfl⟩
  case amoCtx =>
    intro s c op addr size v rd k u far r l w sv ready aligned start stop register range coherent right place tier clean only owned
    have acts := ctxAmo_owned (d := latch s) (size := size) range right place register clean only owned coherent tier far op v
    have next := next_undisturbed sv
      (exec_scalarAmo sv w ((scalarAt_ctx (d := latch s) ready aligned start stop).trans acts)) ⟨rfl, rfl, rfl, rfl, rfl⟩
    exact ⟨_, next, tget_tput_self .., congrArg (tput s.dev.cores c) (tget_tput_self ..).symm, rfl, rfl⟩
  case amoAlias =>
    intro s c op addr size v rd far e e2 old w sv ready aligned start stop read write boot due wait tags sent
    have acts : placeAmo s.clk (latch s) c op size v rd far (.alias_ (addr - 0x1000000)) = setX e2 c rd (extendReg size old) := by
      rw [placeAmo, read, write]
    have next := exec_scalarAmo sv w ((scalarAt_alias (d := latch s) ready aligned start stop).trans (acts.trans (setX_eq ..)))
    rw [setX_eq]
    exact next_quiet next boot due wait tags sent
  case reserve =>
    intro s c addr size v rd k u r l w sv ready aligned start stop register range coherent right place tier clean only owned
    have acts := loadReserved_owned (d := latch s) (size := size) range right place register clean only owned coherent tier
    have next := next_undisturbed sv
      (exec_scalarLrSc sv w ((scalarAt_ctx (d := latch s) ready aligned start stop).trans
        ((placeLrSc_lr (d := latch s) range coherent v rd).trans acts))) ⟨rfl, rfl, rfl, rfl, rfl⟩
    exact ⟨_, next, tget_tput_self .., congrArg (tput s.dev.cores c) (tget_tput_self ..).symm, rfl⟩
  case conditional =>
    intro s c addr size v rd k u r l w sv ready aligned start stop register range coherent right place clean only owned holds
    have acts := storeConditional_reserved (d := latch s) (size := size) range right place register clean only owned v holds
    have next := next_undisturbed sv
      (exec_scalarLrSc sv w ((scalarAt_ctx (d := latch s) ready aligned start stop).trans
        ((placeLrSc_sc (d := latch s) range coherent v rd).trans acts))) ⟨rfl, rfl, rfl, rfl, rfl⟩
    exact ⟨_, next, tget_tput_self .., congrArg (tput s.dev.cores c) (tget_tput_self ..).symm, rfl, rfl⟩
  case unreserved =>
    intro s c addr size v rd k u r w sv ready aligned start stop register range coherent right place lost
    have acts := storeConditional_unreserved (d := latch s) (size := size) range right place register v lost
    have next := next_undisturbed sv
      (exec_scalarLrSc sv w ((scalarAt_ctx (d := latch s) ready aligned start stop).trans
        ((placeLrSc_sc (d := latch s) range coherent v rd).trans acts))) ⟨rfl, rfl, rfl, rfl, rfl⟩
    exact ⟨_, next, tget_tput_self .., congrArg (tput s.dev.cores c) (tget_tput_self ..).symm, rfl⟩
  case outside =>
    intro s c addr size v rd k sc r w sv ready aligned start stop range apart fresh
    exact exec_faults sv ready fresh (exec_scalarLrSc sv w ((scalarAt_ctx (d := latch s) ready aligned start stop).trans
      (placeLrSc_apart (d := latch s) range apart sc v rd)))

end Sys2Proof.Machine
end

section
/-! PROOFS. A VLD into a register that holds an upset (R174, R427): the refutation of VectorEngine. -/

namespace Sys2Proof.Machine

open Sys2Proof

/-- VLD of the tile at 0x100 into register 63. -/
def vldLast : TInstr := ⟨0x10, 0x100, 63, 0, false⟩

/-- The descriptor at 0x100: one row of 64 bytes of FP32 at 0x200. -/
def vldTile : Tile := ⟨0x200, 1, 64, 64, 9, false, 0, 0⟩

/-- Core 0 runs with the VLD at the head of its vector queue, and the first word of register 63 has an upset of one bit.  The
VLD reads local memory alone, so nothing finds the upset before the register is written. -/
def vldOverUpset : State :=
  let descriptor : Bytes := leBytes 4 0x200 ++ leBytes 2 1 ++ leBytes 2 64 ++ leBytes 4 64 ++ leBytes 1 9
  let s := upWith [] []
  { s with dev := { s.dev with
      cores := [(0, { Core.idle with
        state := 2, streams := [(1, ⟨[vldLast], []⟩)], lm := memWrite [] 0x100 descriptor
        flips := [(2 ^ 20 + 64 * 63, 1)] })] } }

/-- The words of the register are written whole, and the upset is gone (`vwrite`). -/
theorem vld_ends_upset :
    (match exec (.vld 0) vldOverUpset with
      | .next t => (coreOf t.dev 0).flips.isEmpty
      | _ => false) = true := by
  decide +kernel

/-- Refutes O46: its clause of VLD says that of the core the registers and the stream alone change, yet an upset of a word that is
written whole is gone as well. -/
theorem not_vectorEngine : ¬ Obligations.VectorEngine := by
  unfold Obligations.VectorEngine
  rintro ⟨load, -⟩
  have next := load vldOverUpset 0 vldLast (latch vldOverUpset) vldTile rfl (by decide +kernel) (by decide +kernel)
    (by decide +kernel) (by decide +kernel) (by decide +kernel) (by decide +kernel)
  have ended := vld_ends_upset
  rw [next] at ended
  exact absurd ended (by decide +kernel)

end Sys2Proof.Machine
end

section
/-! PROOFS. An MSTORE over a word that holds an upset (R172, R427): the refutation of MatrixEngine. -/

namespace Sys2Proof.Machine

open Sys2Proof

/-- MSTORE, with MOD 0, into the tile whose descriptor lies at 0x100. -/
def mstoreWhole : TInstr := ⟨4, 0x100, 0, 0, false⟩

/-- Core 0 as in `vldOverUpset`, with the MSTORE at the head of its matrix queue, and the first word of the tile `vldTile`, at
0x200, has an upset of one bit.  The MSTORE reads its descriptor alone, so nothing finds the upset before the tile is written. -/
def mstoreOverUpset : State :=
  { vldOverUpset with dev := { vldOverUpset.dev with
      cores := [(0, { coreOf vldOverUpset.dev 0 with
        streams := [(0, ⟨[mstoreWhole], []⟩)], flips := [(0x200 / 8, 1)] })] } }

/-- The word of the tile is written whole, and the upset is gone (`lmWrite`). -/
theorem mstore_ends_upset :
    (match exec (.mstore 0) mstoreOverUpset with
      | .next t => (coreOf t.dev 0).flips.isEmpty
      | _ => false) = true := by
  decide +kernel

/-- Refutes O45: its clause of MSTORE says that of the core the local memory, the departures, the array and the stream alone
change, yet an upset of a word of local memory that is written whole is gone as well. -/
theorem not_matrixEngine : ¬ Obligations.MatrixEngine := by
  unfold Obligations.MatrixEngine
  rintro ⟨-, -, -, -, -, store, -⟩
  have next := store mstoreOverUpset 0 mstoreWhole (latch mstoreOverUpset) vldTile rfl (by decide +kernel) (by decide +kernel)
    (by decide +kernel) (by decide +kernel) (by decide +kernel) (by decide +kernel)
  have ended := mstore_ends_upset
  rw [next] at ended
  exact absurd ended (by decide +kernel)

end Sys2Proof.Machine
end

section
/-! PROOFS. Galleys: a halt whose record has risen to level 3 (R216, R442, R448), and a proof after which a modified IRQ_EN is in
force (R192, R217): the refutations of GalleyDoorbell and Proofs. -/

namespace Sys2Proof.Machine

open Sys2Proof

/-! ### The records that CLEAR_HALT closes -/

/-- Galley 0 of context 0 has halted at its tail, as had the galley of that number before it, which was destroyed while HALTED
(R192) with its GALLEY record open: the second record overlaps the first and stands one level higher. -/
def haltedTwice : State :=
  let s := upWith [] [(0, { Galley.none with state := 3, haltCause := 1 })]
  { s with dev := { s.dev with errq := { s.dev.errq with opens := [⟨10, 0, 2, 0, 4, 0⟩, ⟨10, 0, 3, 1, 4, 1⟩] } } }

/-- CLEAR_HALT closes both (`clearHalt`). -/
theorem clearHalt_closes_both_records :
    (match exec (.clearHalt 0 0 0) haltedTwice with
      | .next t => t.dev.errq.opens.length
      | _ => 2) = 0 := by
  decide

/-- Refutes O38: its clause of CLEAR_HALT closes the open records of the galley up to level 2, and leaves the one of level 3
open. -/
theorem not_galleyDoorbell : ¬ Obligations.GalleyDoorbell := by
  unfold Obligations.GalleyDoorbell
  rintro ⟨-, -, -, -, -, -, -, -, -, clears, -⟩
  have next := clears haltedTwice 0 0 0 rfl (by decide) rfl (by decide) rfl rfl
  have closed := clearHalt_closes_both_records
  rw [next] at closed
  exact absurd closed (by decide)

/-! ### The interrupt of a proof -/

/-- Galley 0 of context 0, which holds vector 0, has its proof of tag 7 in flight: the first since an OBJ_MODIFY has set IRQ_EN. -/
def modifiedBeforeAck : State :=
  let s := commandUp { nopCmd with phase := 3 }
  { s with dev := { s.dev with
      ctxs := [(0, { Ctx.fresh with vecCount := 1 })]
      galleys := [(0, { Galley.none with par := slice (zeros 27 ++ [1]) 0 64, done := [7], proofBusy := true })] } }

/-- The acknowledgement puts IRQ_EN in force before it judges the interrupt (`ackProof`), which is then pending at the port. -/
theorem proofWriteAck_raises_interrupt :
    (match exec (.proofWriteAck 0 0) modifiedBeforeAck with
      | .next t => t.dev.ports.isEmpty
      | _ => true) = false := by
  decide

/-- Refutes O40: its clause of PROOF_WRITE_ACK takes IRQ_EN to be 0 as it was in force before, and says that the ports change
only in who their CXL.io requests belong to; yet this proof already goes by the modified IRQ_EN. -/
theorem not_proofs : ¬ Obligations.Proofs := by
  unfold Obligations.Proofs
  rintro ⟨-, acknowledged⟩
  obtain ⟨t, next, -, -, -, -, -, -, -, ports, -⟩ := acknowledged modifiedBeforeAck 0 0 7 [] { nopCmd with phase := 3 }
    rfl (by decide) rfl rfl rfl rfl rfl rfl
  have raised := proofWriteAck_raises_interrupt
  simp only [next, ports] at raised
  exact absurd raised (by decide)

end Sys2Proof.Machine
end

section
/-! PROOFS. A context reset during an INDEX_INSERT with the writes of a record on their way: the record is applied first, and the
command then ends with ABORTED_RESET (R292, R468): the refutations of ContextReset and VectorSearch. -/

namespace Sys2Proof.Machine

open Sys2Proof

/-- An INDEX_INSERT of one record into index 0x7000, with the writes of the record issued and INDEX_INSERT to go on once they
are acknowledged: identifier 0, and no segment held for it. -/
def recordIssued : Cmd :=
  { readyCmd ([0x11] ++ zeros 31 ++ leBytes 2 0x7000 ++ zeros 2 ++ [1]) with phase := 2, pos := 1, covers := [0, 0] }

/-- The same once the drain time has ended: the status that the command ends with stands behind its record. -/
def recordThenAborted : Cmd := { recordIssued with covers := [0, 0, 0x50] }

/-- The reset of context 0, which found that command running: within its drain time, or after that has ended. -/
def resetOfInsert (expired : Bool) : ResetJob :=
  { mbx := 0, svc := 0, started := 0, floes := [0], drainUs := 10000, expired := expired, running := [0], lost := 0, drained := 0,
    aborted := if expired then 1 else 0, discarded := 0, purged := 0, cleared := false, revoked := 0, irqs := 0, released := 0,
    lostProofs := 0 }

/-- Context 0 in that reset, with the command. -/
def insertInReset (expired : Bool) (c : Cmd) : State :=
  let s := commandUp c
  { s with dev := { s.dev with
      ctxs := [(0, { Ctx.fresh with reset := some (resetOfInsert expired) })]
      galleys := [(0, { Galley.none with state := 4 })]
      objs := [(objKey 0 0x7000, ⟨zeros 64, []⟩)] } }

/-- A command's status and the fields that an INDEX_INSERT keeps of its record, after an instruction. -/
def statusAndCovers (i : Instr) (s : State) : Option (Nat × List Nat) :=
  match exec i s with
  | .next t => (cmdOf t.dev 7).map (fun c => (c.status, c.covers))
  | _ => none

theorem statusAndCovers_next {i : Instr} {s t : State} (h : exec i s = .next t) :
    statusAndCovers i s = (cmdOf t.dev 7).map (fun c => (c.status, c.covers)) := by
  rw [statusAndCovers, h]

/-- The end of the drain time leaves the command's status as it is until the record is applied (`stopCmd`). -/
theorem resetDrainExpire_awaits_record :
    statusAndCovers (.resetDrainExpire 0) (insertInReset false recordIssued) = some (0, [0, 0, 0x50]) := by
  decide

/-- Refutes O17: its third clause says that the end of the drain time gives a command that still runs the status ABORTED_RESET
at once, and excepts RUN and MIGRATE alone. -/
theorem not_contextReset : ¬ Obligations.ContextReset := by
  unfold Obligations.ContextReset
  rintro ⟨-, -, expires, -⟩
  obtain ⟨t, next, -, -, aborted, -⟩ := expires (insertInReset false recordIssued) 0 7 (resetOfInsert false) recordIssued
    rfl (by decide) rfl rfl rfl (by decide) rfl (by decide) (by decide) rfl rfl rfl
  have awaited := resetDrainExpire_awaits_record
  rw [statusAndCovers_next next] at awaited
  have kept := congrArg (Option.map Prod.fst) awaited
  rw [Option.map_map] at kept
  exact absurd (aborted.symm.trans kept) (by decide)

/-- Once the record is applied, the command ends with the status that stood behind it (`insertCmd`). -/
theorem indexInsert_ends_aborted :
    statusAndCovers (.indexInsert 7 []) (insertInReset true recordThenAborted) = some (0x50, []) := by
  decide

/-- Refutes O42: its clause of the last record of an INDEX_INSERT says that the command keeps its status, and leaves free the
status that a reset has put behind the record. -/
theorem not_vectorSearch : ¬ Obligations.VectorSearch := by
  unfold Obligations.VectorSearch
  rintro ⟨-, -, -, inserted, -⟩
  obtain ⟨t, next, ended, -⟩ := inserted (insertInReset true recordThenAborted) 7 recordThenAborted [] ⟨zeros 64, []⟩
    rfl (by decide) rfl (by decide) rfl rfl rfl rfl rfl (by decide) (by decide) rfl
    (by decide) (by decide) (by decide)
  have aborted := indexInsert_ends_aborted
  rw [statusAndCovers_next next, ended] at aborted
  cases aborted

end Sys2Proof.Machine
end

section
/-! PROOFS. A COMPARE whose end drops the failure of a read that a fallback has replaced (R85, R102): the refutation of
PoolAndCodecCommands. -/

namespace Sys2Proof.Machine

open Sys2Proof

/-- A COMPARE of 1,025 lines with FALLBACK SKIP, whose first page is late; the runs of its second page have been issued and are
acknowledged. -/
def compareSkipped : Cmd :=
  { readyCmd ([0x22, 0, 3] ++ zeros 45 ++ leBytes 2 1025) with phase := 2, pos := 1, late := [0] }

/-- The COMPARE with a READ of the late page, in flight when it was skipped, that has come back with RIGHTS_FAULT. -/
def compareKeepsRead : State :=
  let s := commandUp compareSkipped
  { s with dev := { s.dev with reads := [⟨.cmd 7, 0, .err 0x11, 0, 0⟩] } }

/-- The end of the command drops the READ, whose failure forms the command's TRANSLATION record. -/
theorem compare_records_dropped_read :
    (match exec (.compare 7 []) compareKeepsRead with
      | .next t => (cmdOf t.dev 7).bind (·.record)
      | _ => none) = some 0 := by
  decide

/-- Refutes O56: its clause of a COMPARE whose pieces are all acknowledged says that the command's record stays as it was, and
leaves free the reads kept for the command, of which a failed one is recorded when the command ends. -/
theorem not_poolAndCodecCommands : ¬ Obligations.PoolAndCodecCommands := by
  unfold Obligations.PoolAndCodecCommands
  rintro ⟨-, -, -, -, -, -, -, -, ends, -⟩
  obtain ⟨t, next, ended, -⟩ := ends compareKeepsRead 7 compareSkipped []
    rfl (by decide) rfl (by decide) rfl rfl (by decide) rfl rfl rfl rfl (by decide) (by decide)
  have recorded := compare_records_dropped_read
  simp only [next, ended] at recorded
  exact absurd recorded (by decide)

end Sys2Proof.Machine
end

section
/-! PROOFS. A COMPARE_RUN over a line that holds too few bytes (R333), and the acknowledgement of a COPY's last run (R321, R332):
the refutations of FabricAtHome and FabricRefusalsAndTimers. -/

namespace Sys2Proof.Machine

open Sys2Proof

/-! ### A COMPARE_RUN -/

/-- A COMPARE_RUN of line 5 with the pattern of eight zero bytes, which asks for the lines that differ. -/
def runAgainstZero : FabIn := FabIn.new 0 0x1A 0 0 0 320 (zeros 8 ++ leBytes 4 1 ++ leBytes 4 1) false

/-- The run at its home floe, whose slice holds line 5 without any byte.  A run of the device does not come here, since its lines
have 64 bytes; the statement speaks of every state. -/
def runOverEmptyLine : State :=
  let s := upWith [] []
  { s with dev := { s.dev with
      pages := [(0, { Page.unplaced with tier := 1 })]
      cache := [(5, ⟨[], false⟩)]
      reqs := [(0x5000, runAgainstZero)] } }

/-- No byte of the line differs from the pattern, and the acknowledgement counts one line and none that differs. -/
theorem compareRun_counts_none :
    (match exec (.compareRun 0x5000) runOverEmptyLine with
      | .next t => (tget? t.dev.acks 0x5000).map (·.payload)
      | _ => none) = some [1, 0, 0, 0, 0, 0, 0, 0] := by
  decide +kernel

/-- Refutes O54: its clause of a COMPARE_RUN against a pattern counts a line that is not the pattern's 64 bytes as one that
differs, and leaves free how many bytes the line holds. -/
theorem not_fabricAtHome : ¬ Obligations.FabricAtHome := by
  unfold Obligations.FabricAtHome
  rintro ⟨-, -, -, -, -, -, -, -, -, -, -, -, -, -, -, compare, -⟩
  obtain ⟨t, next, -, -, -, answered, -⟩ := compare runOverEmptyLine 0x5000 runAgainstZero ⟨[], false⟩
    rfl (by decide) (by decide +kernel) rfl rfl rfl (by decide) (by decide +kernel) rfl rfl (by decide) (by decide) (.inl rfl) rfl
    rfl rfl rfl (by decide) rfl rfl (by decide)
  have counted := compareRun_counts_none
  simp only [next, answered rfl] at counted
  exact absurd counted (by decide +kernel)

/-! ### The last acknowledgement of a COPY -/

/-- A COPY of one line whose run has been issued. -/
def copyIssued : Cmd := { readyCmd [0x21] with phase := 4 }

/-- The COPY_RUN of its line. -/
def copyRunSent : FabReq :=
  ⟨0x19, 9, 0x40, 1, 0, 0, zeros 8 ++ leBytes 4 1 ++ zeros 4, .cmd 7, 1, 0, [], false, false, 0, 0, 0, 0, 15, [], 0, []⟩

/-- Its acknowledgement, with a CRC-64 of the line. -/
def copyRunAck : FabIn := FabIn.new 2 0 9 0 0 0 (leBytes 8 0x55) false

/-- The acknowledgement has come, and nothing else is owed to the COPY. -/
def copyAnswered : State :=
  let s := commandUp copyIssued
  { s with dev := { s.dev with fab := [(0x5000, copyRunSent)], acks := [(0x5000, copyRunAck)] } }

/-- The COPY completes with the digest that its run has brought. -/
theorem fabricAck_gives_digest :
    (match exec (.fabricAck 0x5000) copyAnswered with
      | .next t => (cmdOf t.dev 7).map (·.digest)
      | _ => none) = some 0x55 := by
  decide +kernel

/-- Refutes O55: its clause of an acknowledgement that ends a command leaves all of the command but its phase and its time of
completion as it was, and does not keep the command from being a COPY, to which the acknowledgement brings its digest. -/
theorem not_fabricRefusalsAndTimers : ¬ Obligations.FabricRefusalsAndTimers := by
  unfold Obligations.FabricRefusalsAndTimers
  rintro ⟨-, -, -, -, -, acknowledged, -⟩
  obtain ⟨t, next, ended, -⟩ := acknowledged copyAnswered 0x5000 7 copyRunAck copyRunSent copyIssued
    rfl (by decide) (by decide +kernel) rfl rfl rfl rfl rfl rfl rfl rfl rfl (by decide) (by decide) (.inl (by decide))
    (by decide +kernel) rfl rfl
  have digest := fabricAck_gives_digest
  simp only [next, ended] at digest
  exact absurd digest (by decide)

end Sys2Proof.Machine
end

section
/-! PROOFS. Orphan records, the links of the CXL ports and a flush of a directory slice: a message that the timer has answered
(R38, R356), a pin that acts while RESET_N holds the device (R503, R535), and an eviction that waits (R349, R358): the
refutations of Orphans, CxlLinkStates and SnoopsAndFailures. -/

namespace Sys2Proof.Machine

open Sys2Proof

/-! ### Orphan records -/

/-- ORPHAN_LOG_READ 1 in service at mailbox 0, with ORPHAN_LOG_READ 0 among those that the timer has answered.  A run does not
come here by REQUEST_TAKE, which waits while a request at the compositor has not begun (`foreground`); the statement speaks
of every state. -/
def twoOrphanReads : State :=
  upWith [(0, { Mailbox.reset with svc := some (unbegun 1 3 0x0302 []), late := [unbegun 0 3 0x0302 []] })] []

/-- `inService` finds message 0 first; its reply is dropped, and message 1 is left as it was. -/
theorem orphanLogRead_serves_late_message :
    (match exec (.orphanLogRead 0) twoOrphanReads with
      | .next t => (mbOf t.dev 0).svc
      | _ => none) = some (unbegun 1 3 0x0302 []) := by
  rfl

/-- Refutes O18: its first clause says that the message in service is answered, and leaves free what the timer has answered at
the same mailbox, which ORPHAN_LOG_READ serves first. -/
theorem not_orphans : ¬ Obligations.Orphans := by
  unfold Obligations.Orphans
  rintro ⟨read, -⟩
  have answered := read twoOrphanReads 0 0 (unbegun 1 3 0x0302 [])
    rfl (by decide) rfl rfl rfl rfl rfl rfl rfl rfl rfl rfl rfl rfl (by decide)
  have left := orphanLogRead_serves_late_message
  rw [answered] at left
  exact absurd left (by decide)

/-! ### A pin that acts in reset -/

/-- The device held by RESET_N, with a tag granted to the command unit of floe 0, which is OFF.  A run does not come here, since
RESET_N takes back every grant; the statement speaks of every state. -/
def heldWithGrant : State :=
  { State.reset with dev := { Dev.reset with tagHeld := [0] } }

/-- What follows any command takes the grant back, since no galley of the floe can fetch (`settleTags`). -/
theorem perstNAssert_takes_grant_back :
    (match exec (.perstNAssert 0) heldWithGrant with
      | .next t => t.dev.tagHeld
      | _ => [0]) = [] := by
  rfl

/-- Refutes O26: its clause of PERST_N low during reset does not say that the device serves commands, and so leaves free the
tags that command units have been granted, which the end of the command takes back. -/
theorem not_cxlLinkStates : ¬ Obligations.CxlLinkStates := by
  unfold Obligations.CxlLinkStates
  rintro ⟨-, -, -, -, -, inReset, -⟩
  have kept := inReset heldWithGrant 0 rfl rfl rfl
  have taken := perstNAssert_takes_grant_back
  rw [kept] at taken
  exact absurd taken (by decide)

/-! ### A flush with an eviction that waits -/

/-- The device up with a flush of slice 0 under way, whose eviction of line 0 waits in the line wait queue for the end of a
transaction (`startDirFlush`). -/
def flushWaits : State :=
  let s := upWith [] []
  { s with dev := { s.dev with dirFlush := [0], dirWait := [(0, .evictWay)] } }

/-- FLUSH_BUSY stays set while the eviction waits. -/
theorem dirFlushDone_awaits_eviction :
    (match exec (.dirFlushDone 0) flushWaits with
      | .next t => t.dev.dirFlush
      | _ => []) = [0] := by
  rfl

/-- Refutes O52: its clause of the end of a flush asks only that no entry has an eviction for its transaction, and leaves free
the evictions that wait in the line wait queue, which keep FLUSH_BUSY set. -/
theorem not_snoopsAndFailures : ¬ Obligations.SnoopsAndFailures := by
  unfold Obligations.SnoopsAndFailures
  rintro ⟨-, -, -, -, -, -, -, done, -⟩
  have cleared := done flushWaits 0 rfl (by decide) rfl
  have busy := dirFlushDone_awaits_eviction
  rw [cleared] at busy
  exact absurd busy (by decide)

end Sys2Proof.Machine
end

section
/-! PROOFS. What a directory slice's entries hold, lines that its cache slice holds, and the copies of cores and ports
(R341, R343, R347, R362). -/

namespace Sys2Proof.Machine

open Sys2Proof

/-! ### Sharers (R343) -/

theorem bitOf_two_pow (a i : Nat) : bitOf (2 ^ a) i = decide (a = i) := by
  rw [← Nat.testBit_two_pow, Nat.testBit_eq_decide_div_mod_eq, bitOf, Nat.shiftRight_eq_div_pow]
  rfl

theorem range_filter_eq {a n : Nat} (h : a < n) : (List.range n).filter (fun i => decide (a = i)) = [a] := by
  induction n with
  | zero => omega
  | succ n ih =>
    rw [List.range_succ, List.filter_append]
    rcases Nat.lt_succ_iff_lt_or_eq.mp h with low | rfl
    · simp [ih low, Nat.ne_of_lt low]
    · have none : (List.range a).filter (fun i => decide (a = i)) = [] := by
        simp only [List.filter_eq_nil_iff, List.mem_range, decide_eq_true_eq]
        omega
      simp [none]

/-- The one sharer of an entry. -/
theorem sharersOf_single {a st ow : Nat} (h : a < 76) : sharersOf ⟨2 ^ a, st, ow, none⟩ = [a] := by
  simp only [sharersOf, bitOf_two_pow, range_filter_eq h]

theorem sharersOf_none (st ow : Nat) : sharersOf ⟨0, st, ow, none⟩ = [] := by
  simp [sharersOf, bitOf]

theorem addSharer_none (a : Nat) : addSharer 0 a = 2 ^ a := by
  simp [addSharer, bitOf, agentBit]

/-! ### Entries -/

section
variable {d : Dev} {line : Nat}

theorem dirOf_setDir_self (e : DirEntry) :
    dirOf (setDir d line e) line = if e.state = 0 ∧ e.txn = none then ⟨0, 0, 0xFF, none⟩ else e := by
  unfold setDir dirOf
  split <;> simp [tget]

/-- The entry of a line without a transaction, once its state is set. -/
theorem dirOf_putState_self (settled : (dirOf d line).txn = none) (st sh ow : Nat) :
    dirOf (putState d line st sh ow) line = if st = 0 then ⟨0, 0, 0xFF, none⟩ else ⟨sh, st, ow, none⟩ := by
  rw [putState, dirOf_setDir_self]
  simp [settled]

/-- An INVALID line has no entry. -/
theorem putState_invalid (settled : (dirOf d line).txn = none) (sh ow : Nat) :
    putState d line 0 sh ow = { d with dir := tdel d.dir line } := by
  simp [putState, setDir, settled]

end

/-! ### Lines that the cache slice holds -/

/-- A line of the stack or bulk tier that the slice of its floe holds without an upset; agents may cache it. -/
structure SliceHolds (d : Dev) (line : Nat) (l : CLine) : Prop where
  on : floeOn d (homeFloe (pageOfLine line)) = true
  tier : (pageOf d (pageOfLine line)).tier = 1 ∨ (pageOf d (pageOfLine line)).tier = 2
  unpacked : (pageOf d (pageOfLine line)).packed = false
  held : tget? d.cache line = some l
  sound : SoundLine d line

section
variable {d : Dev} {line : Nat} {l : CLine} (holds : SliceHolds d line l)
include holds

theorem SliceHolds.free (none : tget? d.dir line = none) : HeldLine d line l :=
  ⟨holds.on, holds.tier, holds.unpacked, none, holds.sound.2.2, holds.held, holds.sound.1, holds.sound.2.1⟩

theorem homeRead_slice (w : Who) (alive : (dirOf d line).state ≠ 3) : homeRead d w line = (sliceHit d line, .ok l.data) := by
  have code := sliceCode_sound w l.dirty holds.sound.1
  have orphan : isOrphan d line = false := by simpa [isOrphan] using alive
  simp only [homeRead, homeReadBy, floeRuns_on holds.on, orphan, pathCheck_sound w holds.sound.2.1, slicedRead, holds.held, code]
  rfl

/-- A directory request reads the line from its slice where no answer brought it. -/
theorem dirRead_slice (a : Nat) (alive : (dirOf d line).state ≠ 3) : dirRead d a line none = (sliceHit d line, some l.data) := by
  simp only [dirRead, if_pos holds.tier, homeRead_slice holds _ alive]

/-- Dirty data of an agent goes into the slice (R347). -/
theorem dirtyToMemory_slice (agent : Nat) (b : Bytes) (plain : PlainPage d (pageOfLine line)) :
    dirtyToMemory d agent line b = putLine (telF d (homeFloe (pageOfLine line)) 0x1038 1) line b true := by
  have present : (tget? d.cache line).isSome = true := by rw [holds.held]; rfl
  have stored := homeStore_held (d := telF d (homeFloe (pageOfLine line)) 0x1038 1)
    (Who.unitOnly 9 (homeFloe (pageOfLine line))) b ⟨plain.volatile, plain.single, plain.packs⟩ present
  simp only [dirtyToMemory, dirtyBack, storeBack, openPage_unpacked _ holds.unpacked, countAccess_held present, stored,
    noteDurable_done]

end

theorem slice_whole {b : Bytes} {n : Nat} (h : b.length = n) : slice b 0 n = b := by
  subst h
  simp [slice]

/-- A mask of every byte takes the new bytes. -/
theorem mergeMask_whole {old v : Bytes} (hold : old.length = 64) (hv : v.length = 64) : mergeMask old v (2 ^ 64 - 1) = v := by
  have merged := mergeMask_prefix v [] old (by omega)
  rw [hv, List.append_nil, List.drop_of_length_le (by omega), List.append_nil] at merged
  exact merged

/-- A line put twice into a slice is the line put last. -/
theorem putLine_useLine (d : Dev) (line : Nat) (b : Bytes) (dirty : Bool) :
    putLine (useLine d line) line b dirty = putLine d line b dirty := by
  simp only [putLine, useLine, tput_tput]

/-- A write of masked bytes to a line that no agent caches, whatever the mask. -/
theorem homeWrite_merges {d : Dev} {line mask : Nat} {l : CLine} (w : Who) (b : Bytes) (h : HeldLine d line l)
    (p : PlainPage d (pageOfLine line)) (small : mask < 2 ^ 64) (whole : l.data.length = 64) :
    homeWrite d w line b mask =
      (putLine (telF d (homeFloe (pageOfLine line)) 0x1038 1) line (mergeMask l.data (slice b 0 64) mask) true, none) := by
  by_cases full : mask = 2 ^ 64 - 1
  · subst full
    rw [homeWrite_held w b h p, mergeMask_whole whole (slice_length ..)]
  · rw [homeWrite_held_mask w b h p (by omega), putLine_useLine]

/-! ### Cores and ports -/

theorem tkeys_filter {α : Type} (t : Tab α) (p : Nat → Bool) : tkeys (t.filter (fun e => p e.1)) = (tkeys t).filter p := by
  simp only [tkeys, List.filter_map]
  rfl

/-- A data cache with a free way of the line's set takes the line (R341). -/
theorem dcFill_room {d : Dev} {c line : Nat} (b : Bytes) (owned : Bool)
    (room : ((tkeys (coreOf d c).dcache).filter (fun k => decide (k % 256 = line % 256 ∧ k ≠ line))).length < 4) :
    dcFill d c line b owned =
      setCore d c { (coreOf d c) with dcache := tput (coreOf d c).dcache line ⟨b, false, owned⟩ } := by
  have ways := tkeys_filter (coreOf d c).dcache (fun k => decide (k % 256 = line % 256 ∧ k ≠ line))
  simp only [Bool.decide_and] at ways room
  unfold dcFill
  dsimp only
  rw [ways, if_neg (by omega)]
  rfl

theorem wake_link {x : Port} (up : linkUp x = true) : (wake x).link = 2 := by
  unfold linkUp at up
  simp only [Bool.or_eq_true, beq_iff_eq] at up
  unfold wake
  split <;> simp_all

theorem wake_flit (x : Port) : (wake x).flit256 = x.flit256 := by unfold wake; split <;> rfl

theorem wake_decoders (x : Port) : (wake x).decoders = x.decoders := by unfold wake; split <;> rfl

/-- A port at L0 sends a response as it is. -/
theorem respond_awake {d : Dev} {p : Nat} (o : Out) (awake : (portOf d p).link = 2) : respond d p o = emit d o := by
  simp [respond, linkUp, wakePort, awake]

/-- A port's request wakes its link and is served (R362, R365). -/
theorem portTakes_up {d : Dev} {p : Nat} {write : Bool} (go : Dev → Dev) (up : linkUp (portOf d p) = true)
    (few : portLoad d p write < if write then 256 else 512) :
    portTakes d p write go = go (setPort d p (wake (portOf d p))) := by
  rw [portTakes, if_neg (by simp [up]), if_neg (Nat.not_le.mpr few)]

end Sys2Proof.Machine
end

section
/-! PROOFS. How a directory slice takes and serves a request, and the snoops it sends (R347 to R350, R359). -/

namespace Sys2Proof.Machine

open Sys2Proof

/-! ### A request is taken (R347, R359) -/

/-- A directory slice in service that takes a request for a line at once: the line's set holds no upset, nothing waits for the
line, and neither the slice's queue nor its transactions are full. -/
structure SliceTakes (d : Dev) (line : Nat) : Prop where
  on : floeOn d (homeFloe (pageOfLine line)) = true
  few : dirPending d (homeFloe (pageOfLine line)) < 512
  sound : tget d.dirFlips line 0 = 0
  first : d.dirWait.any (fun w => decide (w.1 = line)) = false
  room : dirQueue d (homeFloe (pageOfLine line)) < 1024

/-- The device once its directory slice has counted a request for a line. -/
def dirCounted (d : Dev) (line : Nat) : Dev := telF d (homeFloe (pageOfLine line)) 0x1600 1

/-- The device once a port's request for a line has been counted, with what it was decoded to. -/
def portAsked (d : Dev) (p line : Nat) (q : PortReq) : Dev :=
  { dirCounted d line with portReqs := tput d.portReqs (16 * line + p) q }

section
variable {d : Dev} {line : Nat} {op : DirOp}

theorem SliceTakes.direct (takes : SliceTakes d line) :
    ¬(d.dirWait.any (fun w => decide (w.1 = line)) = true ∨ dirQueue d (homeFloe (pageOfLine line)) ≥ 1024) :=
  not_or.mpr ⟨by simp [takes.first], Nat.not_le.mpr takes.room⟩

theorem dirRequest_takes (takes : SliceTakes d line) (noPort : ∀ a, opAgent op = some a → a < 64) :
    dirRequest d line op = dirServe (dirCounted d line) line op := by
  have code : dirCode (telF d (homeFloe (pageOfLine line)) 0x1600 1) line = (dirCounted d line, false) := dirCode_sound takes.sound
  cases agent : opAgent op with
  | none =>
    simp only [dirRequest, takes.on, code, agent, Bool.not_true, Bool.false_eq_true, if_false]
    exact if_neg takes.direct
  | some a =>
    simp only [dirRequest, takes.on, code, agent, Bool.not_true, Bool.false_eq_true, if_false, if_pos (noPort a agent)]
    exact if_neg takes.direct

theorem dirRequest_takes_port {p : Nat} {q : PortReq} (takes : SliceTakes d line) (agent : opAgent op = some (64 + p))
    (decoded : decodeLine d p line = some q) : dirRequest d line op = dirServe (portAsked d p line q) line op := by
  have code : dirCode (telF d (homeFloe (pageOfLine line)) 0x1600 1) line = (dirCounted d line, false) := dirCode_sound takes.sound
  have decoded' : decodeLine (dirCounted d line) p line = some q := decoded
  simp only [dirRequest, takes.on, code, agent, Bool.not_true, Bool.false_eq_true, if_false, if_neg (show ¬64 + p < 64 by omega),
    Nat.add_sub_cancel_left, decoded']
  exact if_neg takes.direct

/-! ### A request is served (R347 to R349) -/

/-- A request for a copy that its agent may write. -/
def DirOp.owns : DirOp → Bool
  | .rdShared _ => false
  | _ => true

/-- What a request needs to be served at once: its slice in service and not full, an entry without a transaction, and a page in
the stack or bulk tier. -/
structure Servable (d : Dev) (line : Nat) : Prop where
  on : floeOn d (homeFloe (pageOfLine line)) = true
  few : dirPending d (homeFloe (pageOfLine line)) < 512
  tier : (pageOf d (pageOfLine line)).tier = 1 ∨ (pageOf d (pageOfLine line)).tier = 2
  alive : (dirOf d line).state ≠ 3
  settled : (dirOf d line).txn = none

/-- What an agent's request needs besides: a way for its entry, and, where it is an UPGRADE, that it comes from a sharer. -/
structure Trackable (d : Dev) (line : Nat) (op : DirOp) : Prop where
  way : (dirOf d line).state ≠ 0 ∨ (dirWays d line).length < 16
  sharer : ∀ a, op = .upgrade a → (dirOf d line).state = 1 ∧ bitOf (dirOf d line).sharers a = true

theorem Servable.goes (ok : Servable d line) :
    ¬((dirOf d line).txn.isSome = true ∨ dirPending d (homeFloe (pageOfLine line)) ≥ 512) :=
  not_or.mpr ⟨by simp [ok.settled], Nat.not_le.mpr ok.few⟩

theorem dirAllocate_way (a : Nat) (way : (dirOf d line).state ≠ 0 ∨ (dirWays d line).length < 16) :
    dirAllocate d line a op = startDir d line op := by
  unfold dirAllocate
  by_cases listed : (dirOf d line).state ≠ 0
  · rw [if_pos listed]
  · rw [if_neg listed]
    exact if_pos (way.resolve_left listed)

/-- The request of a core, or of a port that may cache the line, is served at once. -/
theorem dirServe_starts {a : Nat} (agent : opAgent op = some a) (ok : Servable d line) (fits : Trackable d line op)
    (may : a < 64 ∨ mayCache d a line = true ∧ portBars d (a - 64) line op.owns = none) :
    dirServe d line op = startDir d line op := by
  have placed : ¬(pageOf d (pageOfLine line)).tier = 0 := by rcases ok.tier with t | t <;> omega
  have unbarred : (if a ≥ 64 then portBars d (a - 64) line op.owns else none) = none := by
    rcases may with low | ⟨_, bars⟩
    · exact if_neg (by omega)
    · rw [bars, ite_self]
  have caches : ¬(a ≥ 64 ∧ (!mayCache d a line) = true ∧ (dirOf d line).txn.isNone = true) := by
    rcases may with low | ⟨yes, _⟩
    · exact fun ⟨high, _⟩ => Nat.not_lt.mpr high low
    · simp [yes]
  rw [← dirAllocate_way a fits.way]
  cases op with
  | rdShared b | rdOwn b =>
    cases agent
    simp only [dirServe, opAgent, ok.on, ok.alive, placed, Bool.not_true, Bool.false_eq_true, if_false, if_neg ok.goes, if_neg caches]
    simp only [DirOp.owns] at unbarred
    rw [unbarred]
  | upgrade b =>
    cases agent
    simp only [dirServe, if_pos (Or.inr (fits.sharer a rfl)), opAgent, ok.on, ok.alive, placed, Bool.not_true, Bool.false_eq_true, if_false,
      if_neg ok.goes, if_neg caches]
    simp only [DirOp.owns] at unbarred
    rw [unbarred]
  | _ => cases agent

/-- An UPGRADE of an INVALID line is one for RD_OWN (R352). -/
theorem dirServe_upgrade_invalid (a : Nat) (settled : (dirOf d line).txn = none) (invalid : (dirOf d line).state = 0) :
    dirServe d line (.upgrade a) = dirServe d line (.rdOwn a) := by
  have other : ¬((dirOf d line).txn.isSome = true ∨ (dirOf d line).state = 1 ∧ bitOf (dirOf d line).sharers a = true) := by
    simp [settled, invalid]
  simp only [dirServe, if_neg other]

/-- A request of a core behind a transaction waits. -/
theorem dirServe_waits {a : Nat} (low : a < 64) (on : floeOn d (homeFloe (pageOfLine line)) = true)
    (alive : (dirOf d line).state ≠ 3) (pending : (dirOf d line).txn.isSome = true) :
    dirServe d line (.rdShared a) = waitDir d line (.rdShared a) := by
  have near : ¬a ≥ 64 := by omega
  simp only [dirServe, opAgent, on, alive, near, pending, Bool.not_true, Bool.false_eq_true, if_false, false_and, true_or, if_true]

/-- A request that is not coherent is served at once (R350). -/
theorem dirServe_nc (nc : op.nc = true) (ok : Servable d line)
    (volatile : op.writes = true → (pageOf d (pageOfLine line)).durable = false) : dirServe d line op = startDir d line op := by
  have tier : ((pageOf d (pageOfLine line)).tier == 1 || (pageOf d (pageOfLine line)).tier == 2) = true := by simpa using ok.tier
  have unbarred : (op.writes && flushBars d (pageOfLine line)) = false := by
    cases writes : op.writes with
    | false => rfl
    | true => simp [flushBars, volatile writes]
  cases op with
  | ncRd | ncWr _ _ | ncAtomic _ _ _ _ _ =>
    simp only [dirServe, opAgent, floeRuns_on ok.on, ok.alive, tier, unbarred, Bool.not_true, Bool.and_false, Bool.false_eq_true, if_false,
      if_neg ok.goes]
  | _ => cases nc

/-! ### Its snoops (R347, R348) -/

/-- The device once a core without a dirty copy has answered a snoop: SNP_INV where `inv`, else SNP_SHARE. -/
def coreSnooped (d : Dev) (c line : Nat) (inv : Bool) : Dev :=
  (snoopCore (telF d (homeFloe (pageOfLine line)) 0x1608 1) c line inv).1

/-- A core with a clean copy answers its snoop at once. -/
theorem sendSnoops_core {c k : Nat} {x : DLine} (low : c < 64) (still : d.dirWalk = [])
    (held : tget? (coreOf d c).dcache line = some x) (clean : x.dirty = false) :
    sendSnoops d line [(c, k)] = ⟨coreSnooped d c line (decide (k = 1)), [], false, none⟩ := by
  have held' : tget? (coreOf (telF d (homeFloe (pageOfLine line)) 0x1608 1) c).dcache line = some x := held
  have good : (dcBad (telF d (homeFloe (pageOfLine line)) 0x1608 1) c line && Option.any (·.dirty) (some x)) = false := by
    simp [clean]
  simp only [sendSnoops, List.foldl_cons, List.foldl_nil, sendSnoop, telF_dirWalk, still, List.find?_nil, low, if_true, held', good,
    Bool.false_eq_true, if_false, coreSnooped, snoopCore, clean, Bool.or_false]

variable {e : Dev}

/-- With its snoops answered, an operation on a line that nobody owns ends. -/
theorem startDir_answered (sent : sendSnoops d line (snoopsFor (dirOf d line) op) = ⟨e, [], false, none⟩)
    (alive : (dirOf e line).state ≠ 3) (unowned : (dirOf d line).state ≠ 2) : startDir d line op = finishDir e line op none none := by
  cases op <;> simp [startDir, sent, alive, unowned]

/-- So does a read that is not coherent, whose owner keeps its copy. -/
theorem startDir_ncRd_owned (sent : sendSnoops d line (snoopsFor (dirOf d line) .ncRd) = ⟨e, [], false, none⟩)
    (alive : (dirOf e line).state ≠ 3) (owned : (dirOf d line).state = 2) :
    startDir d line .ncRd = finishDir e line .ncRd (some (dirOf d line).owner) none := by
  simp [startDir, sent, alive, owned]

/-- Without snoops an operation ends at once. -/
theorem startDir_unopposed (quiet : snoopsFor (dirOf d line) op = []) (alive : (dirOf d line).state ≠ 3)
    (unowned : (dirOf d line).state ≠ 2) : startDir d line op = finishDir d line op none none :=
  startDir_answered (by rw [quiet]; rfl) alive unowned

end

end Sys2Proof.Machine
end

section
/-! PROOFS. From a core's, a port's or a non-coherent request to the operation of the directory, and what each operation ends with
(R341, R347, R350, R364). -/

namespace Sys2Proof.Machine

open Sys2Proof

/-! ### From the command to the operation -/

section
variable {d : Dev} {line : Nat} {op : DirOp} (takes : SliceTakes d line) (ok : Servable d line)
include takes ok

/-- A core's request for a copy. -/
theorem copyRequest_core {a : Nat} (fits : Trackable d line op) (low : a < 64) (agent : opAgent op = some a) :
    copyRequest d a line op = startDir (dirCounted d line) line op := by
  have core : ∀ b, opAgent op = some b → b < 64 := fun b h => Option.some.inj (agent.symm.trans h) ▸ low
  rw [copyRequest, if_pos low, dirRequest_takes takes core]
  exact dirServe_starts agent ⟨ok.on, ok.few, ok.tier, ok.alive, ok.settled⟩ ⟨fits.way, fits.sharer⟩ (.inl low)

/-- A request that is not coherent. -/
theorem dirRequest_nc (nc : op.nc = true) (volatile : op.writes = true → (pageOf d (pageOfLine line)).durable = false) :
    dirRequest d line op = startDir (dirCounted d line) line op := by
  have noAgent : ∀ a, opAgent op = some a → a < 64 := by
    intro a h
    cases op with
    | ncRd | ncWr _ _ | ncAtomic _ _ _ _ _ => cases h
    | _ => cases nc
  rw [dirRequest_takes takes noAgent]
  exact dirServe_nc nc ⟨ok.on, ok.few, ok.tier, ok.alive, ok.settled⟩ volatile

end

/-- A core's UPGRADE of an INVALID line. -/
theorem copyRequest_upgrade_invalid {d : Dev} {line a : Nat} (takes : SliceTakes d line) (ok : Servable d line)
    (fits : Trackable d line (.rdOwn a)) (low : a < 64) (invalid : (dirOf d line).state = 0) :
    copyRequest d a line (.upgrade a) = startDir (dirCounted d line) line (.rdOwn a) := by
  have core : ∀ b, opAgent (.upgrade a) = some b → b < 64 := fun b h => Option.some.inj h ▸ low
  rw [copyRequest, if_pos low, dirRequest_takes takes core, dirServe_upgrade_invalid (d := dirCounted d line) a ok.settled invalid]
  exact dirServe_starts rfl ⟨ok.on, ok.few, ok.tier, ok.alive, ok.settled⟩ ⟨fits.way, fits.sharer⟩ (.inl low)

/-- A core's request for a line with a transaction waits, wherever in the queue it comes to stand. -/
theorem copyRequest_waits {d : Dev} {line a : Nat} (low : a < 64) (on : floeOn d (homeFloe (pageOfLine line)) = true)
    (sound : tget d.dirFlips line 0 = 0) (alive : (dirOf d line).state ≠ 3) (pending : (dirOf d line).txn.isSome = true) :
    copyRequest d a line (.rdShared a) = waitDir (dirCounted d line) line (.rdShared a) := by
  have code : dirCode (telF d (homeFloe (pageOfLine line)) 0x1600 1) line = (dirCounted d line, false) := dirCode_sound sound
  simp only [copyRequest, dirRequest, on, code, opAgent, low, Bool.not_true, Bool.false_eq_true, if_false, if_true]
  split
  · rfl
  · exact dirServe_waits (d := dirCounted d line) low on alive pending

/-- The device with a port's link back at L0. -/
def portWoken (d : Dev) (p : Nat) : Dev := setPort d p (wake (portOf d p))

theorem portOf_portWoken (d : Dev) (p : Nat) : portOf (portWoken d p) p = wake (portOf d p) := portOf_setPort_self ..

theorem decodeLine_portWoken (d : Dev) (p line : Nat) : decodeLine (portWoken d p) p line = decodeLine d p line := by
  simp only [decodeLine, portOf_portWoken, wake_decoders]

theorem mayCache_core {d : Dev} {a line : Nat} (low : a < 64) (coherent : pageCoherent d (pageOfLine line) = true) :
    mayCache d a line = true := by
  simp [mayCache, low, coherent]

theorem mayCache_port {d : Dev} {p : Nat} (line : Nat) (flit : (portOf d p).flit256 = true)
    (coherent : pageCoherent d (pageOfLine line) = true) : mayCache (portWoken d p) (64 + p) line = true := by
  have coherent' : pageCoherent (portWoken d p) (pageOfLine line) = true := coherent
  rw [mayCache, coherent', Nat.add_sub_cancel_left, portOf_portWoken, wake_flit, flit, Bool.or_true]
  rfl

/-- The request of a port for a copy that it may have (R76, R362, R363). -/
theorem copyRequest_port {d : Dev} {line p : Nat} {op : DirOp} {q : PortReq} (agent : opAgent op = some (64 + p))
    (up : linkUp (portOf d p) = true) (load : portLoad d p false < 512) (flit : (portOf d p).flit256 = true)
    (decoded : decodeLine d p line = some q) (check : pageCheck d q.ctx (pageOfLine line) op.owns = none)
    (takes : SliceTakes d line) (ok : Servable d line) (fits : Trackable d line op)
    (coherent : pageCoherent d (pageOfLine line) = true) :
    copyRequest d (64 + p) line op = startDir (portAsked (portWoken d p) p line q) line op := by
  have woken : SliceTakes (portWoken d p) line := ⟨takes.on, takes.few, takes.sound, takes.first, takes.room⟩
  have asked : portReqAt (portAsked (portWoken d p) p line q) p line = some q := by
    simp only [portReqAt, portAsked, tget?_tput_self]
  have bars : portBars (portAsked (portWoken d p) p line q) p line op.owns = none := by
    rw [portBars, asked]
    exact check
  rw [copyRequest, if_neg (by omega), Nat.add_sub_cancel_left, portTakes_up _ up load]
  change dirRequest (portWoken d p) line op = _
  rw [dirRequest_takes_port woken agent ((decodeLine_portWoken d p line).trans decoded)]
  refine dirServe_starts agent ⟨ok.on, ok.few, ok.tier, ok.alive, ok.settled⟩ ⟨fits.way, fits.sharer⟩ (.inr ⟨mayCache_port line flit coherent, ?_⟩)
  rw [Nat.add_sub_cancel_left]
  exact bars

/-! ### What an operation ends with (R341, R347, R350) -/

/-- The device once a line has been read for a requester, and the entry tracks the copy. -/
def copyGranted (d : Dev) (line st sh ow : Nat) : Dev := useDir (putState (sliceHit d line) line st sh ow) line

/-- The device with a clean copy of a line in a core's data cache. -/
def coreFilled (d : Dev) (c line : Nat) (b : Bytes) (owned : Bool) : Dev :=
  setCore d c { (coreOf d c) with dcache := tput (coreOf d c).dcache line ⟨b, false, owned⟩ }

section
variable {d : Dev} {line : Nat} {l : CLine} (holds : SliceHolds d line l) (alive : (dirOf d line).state ≠ 3)
include holds alive

theorem finishDir_rdShared {a : Nat} (may : mayCache d a line = true) : finishDir d line (.rdShared a) none none =
    dirData (copyGranted d line 1 (addSharer (if (dirOf d line).state = 1 then (dirOf d line).sharers else 0) a) 0xFF)
      a line l.data false true := by
  simp only [finishDir, dirRead_slice holds a alive, may, if_true]
  rfl

theorem finishDir_rdOwn {a : Nat} (may : mayCache d a line = true) : finishDir d line (.rdOwn a) none none =
    dirData (copyGranted d line 2 (2 ^ a) a) a line l.data true true := by
  simp only [finishDir, dirRead_slice holds a alive, may, if_true]
  rfl

theorem finishDir_ncRd (unowned : (dirOf d line).state ≠ 2) :
    finishDir d line .ncRd none none = emit (sliceHit d line) (.nc line 0 l.data) := by
  simp only [finishDir, unowned, if_false, homeRead_slice holds _ alive]
  rfl

end

/-- Copies of a coherent page stay tracked. -/
theorem keepSharers_coherent {d : Dev} {line s : Nat} (some : s ≠ 0) (coherent : pageCoherent d (pageOfLine line) = true) :
    keepSharers d line s = putState d line 1 s 0xFF := by
  have coherent' : pageCoherent (putState d line 1 s 0xFF) (pageOfLine line) = true := coherent
  simp only [keepSharers, if_neg some, coherent', or_true, if_true]

section
variable {d : Dev} {line : Nat} {l : CLine} (holds : SliceHolds d line l)
include holds

/-- A read of a line that an owner holds leaves the owner a shared copy. -/
theorem finishDir_ncRd_owned {o : Nat} (owned : (dirOf d line).state = 2) (coherent : pageCoherent d (pageOfLine line) = true) :
    finishDir d line .ncRd (some o) none = emit (sliceHit (putState d line 1 (2 ^ o) 0xFF) line) (.nc line 0 l.data) := by
  have kept := keepSharers_coherent (line := line) (Nat.ne_of_gt (Nat.two_pow_pos o)) coherent
  have alive : (dirOf (putState d line 1 (2 ^ o) 0xFF) line).state ≠ 3 := by simp [putState, dirOf_setDir_self]
  have shared : SliceHolds (putState d line 1 (2 ^ o) 0xFF) line l :=
    ⟨holds.on, holds.tier, holds.unpacked, holds.held, holds.sound⟩
  simp only [finishDir, owned, if_true, agentBit, kept, homeRead_slice shared _ alive]
  rfl

variable (settled : (dirOf d line).txn = none) (plain : PlainPage d (pageOfLine line))
include settled plain

/-- The line is held once the copies of the agents are gone. -/
theorem heldLine_invalid : HeldLine (putState d line 0 0 0xFF) line l ∧ PlainPage (putState d line 0 0 0xFF) (pageOfLine line) := by
  rw [putState_invalid settled]
  have held : SliceHolds { d with dir := tdel d.dir line } line l :=
    ⟨holds.on, holds.tier, holds.unpacked, holds.held, holds.sound⟩
  exact ⟨held.free (tget?_tdel_self ..), plain.volatile, plain.single, plain.packs⟩

variable (whole : l.data.length = 64)
include whole

theorem finishDir_ncWr {b : Bytes} {mask : Nat} (small : mask < 2 ^ 64) (given : b.length = 64) :
    finishDir d line (.ncWr b mask) none none =
      emit (putLine (telF (putState d line 0 0 0xFF) (homeFloe (pageOfLine line)) 0x1038 1) line (mergeMask l.data b mask) true)
        (.nc line 0 []) := by
  obtain ⟨held, plain⟩ := heldLine_invalid holds settled plain
  simp only [finishDir, homeWrite_merges _ b held plain small whole, slice_whole given]
  rfl

theorem finishDir_ncAtomic {c o n x y : Nat} (within : o + n ≤ 64) : finishDir d line (.ncAtomic c o n x y) none none =
    emit (putLine (telF (sliceHit (putState d line 0 0 0xFF) line) (homeFloe (pageOfLine line)) 0x1038 1) line
      (splice l.data o (leBytes n (atomicNew c n (fieldAt l.data o n) x y))) true) (.nc line 0 (leBytes n (fieldAt l.data o n))) := by
  obtain ⟨held, plain⟩ := heldLine_invalid holds settled plain
  have after : HeldLine (sliceHit (putState d line 0 0 0xFF) line) line l :=
    ⟨held.on, held.tier, held.unpacked, held.free, held.dirSound, held.held, held.sound, held.path⟩
  have length : (splice l.data o (leBytes n (atomicNew c n (fieldAt l.data o n) x y))).length = 64 := by
    simp only [splice, List.length_take, List.length_append, List.length_drop, leBytes_length]
    omega
  have written := homeWrite_held (Who.unitOnly 4 (homeFloe (pageOfLine line)))
    (splice l.data o (leBytes n (atomicNew c n (fieldAt l.data o n) x y))) after ⟨plain.volatile, plain.single, plain.packs⟩
  rw [slice_whole length] at written
  have read : homeRead (putState d line 0 0 0xFF) (Who.unitOnly 4 (homeFloe (pageOfLine line))) line =
    (sliceHit (putState d line 0 0 0xFF) line, .ok l.data) := homeRead_held _ held
  simp only [finishDir, homeAtomic, read, written]
  rfl

end

/-! ### The requester's copy (R341, R364) -/

section
variable {d : Dev} {line : Nat}

theorem dirData_core {a : Nat} (low : a < 64) (b : Bytes) (owned : Bool)
    (room : ((tkeys (coreOf d a).dcache).filter (fun k => decide (k % 256 = line % 256 ∧ k ≠ line))).length < 4) :
    dirData d a line b owned true = coreFilled d a line b owned := by
  rw [dirData, if_pos low]
  exact dcFill_room b owned room

variable {p : Nat} {q : PortReq} (asked : tget? d.portReqs (16 * line + p) = some q) (awake : (portOf d p).link = 2)
include asked awake

/-- What answers a port's request: it is done, and the response leaves on the port's link. -/
theorem respond_portReq (o : PortReq → Out) :
    respond (portReqDone d p line) p (o (portReqOr d p line)) = emit (portReqDone d p line) (o q) := by
  have request : portReqOr d p line = q := by simp only [portReqOr, portReqAt, asked, Option.getD_some]
  rw [request, respond_awake (d := portReqDone d p line) _ awake]

theorem dirData_port (b : Bytes) (owned : Bool) : dirData d (64 + p) line b owned true =
    emit (portReqDone d p line) (.memData p q.hpa b false (if owned then 2 else 3)) := by
  have given := respond_portReq asked awake (fun r => .memData p r.hpa b false (if owned then 2 else 3))
  rw [dirData, if_neg (by omega), Nat.add_sub_cancel_left]
  exact given

theorem finishDir_upgrade_port (may : mayCache d (64 + p) line = true) : finishDir d line (.upgrade (64 + p)) none none =
    emit (portReqDone (useDir (putState d line 2 (2 ^ (64 + p)) (64 + p)) line) p line) (.memDone p q.hpa) := by
  have given := respond_portReq (d := useDir (putState d line 2 (2 ^ (64 + p)) (64 + p)) line) asked awake
    (fun r => .memDone p r.hpa)
  simp only [finishDir, may, if_true, if_neg (show ¬64 + p < 64 by omega), Nat.add_sub_cancel_left]
  exact given

end

theorem finishDir_upgrade_core {d : Dev} {line a : Nat} {x : DLine} (low : a < 64) (may : mayCache d a line = true)
    (held : tget? (coreOf d a).dcache line = some x) : finishDir d line (.upgrade a) none none =
      setCore (useDir (putState d line 2 (2 ^ a) a) line) a
        { (coreOf d a) with dcache := tput (coreOf d a).dcache line { x with owned := true } } := by
  have changed := tmod_some held (fun l => { l with owned := true })
  have granted : mayCache (useDir (putState d line 2 (2 ^ a) a) line) a line = true := may
  rw [← changed]
  simp only [finishDir, agentBit, may, low, granted, if_true]
  rfl

/-! ### Snooped cores (R348) -/

theorem coreSnooped_inv {d : Dev} {c line : Nat} {x : DLine} (held : tget? (coreOf d c).dcache line = some x) :
    coreSnooped d c line true = dcForget (telF d (homeFloe (pageOfLine line)) 0x1608 1) c line := by
  have held' : tget? (coreOf (telF d (homeFloe (pageOfLine line)) 0x1608 1) c).dcache line = some x := held
  simp only [coreSnooped, snoopCore, held', if_true, true_and]
  rfl

theorem coreSnooped_share {d : Dev} {c line : Nat} {x : DLine} (held : tget? (coreOf d c).dcache line = some x)
    (clean : x.dirty = false) : coreSnooped d c line false = setCore (telF d (homeFloe (pageOfLine line)) 0x1608 1) c
      { (coreOf d c) with dcache := tput (coreOf d c).dcache line { x with owned := false } } := by
  obtain ⟨data, dirty, owned⟩ := x
  subst clean
  have held' : tget? (coreOf (telF d (homeFloe (pageOfLine line)) 0x1608 1) c).dcache line = some ⟨data, false, owned⟩ := held
  simp only [coreSnooped, snoopCore, held', Bool.false_eq_true, if_false, false_and]
  rfl

end Sys2Proof.Machine
end

section
/-! PROOFS. Writebacks and eviction notices at a directory slice, and how a line becomes an orphan (R344, R346, R347, R354, R355). -/

namespace Sys2Proof.Machine

open Sys2Proof

/-! ### Notices of agents (R346, R347) -/

section
variable {d : Dev} {line : Nat} (sound : tget d.dirFlips line 0 = 0)
include sound

theorem noticeOp_core {a : Nat} (low : a < 64) (go : Dev → Dev) : noticeOp d a line go = go d := by
  simp only [noticeOp, low, if_true, dirCode_sound sound, Bool.false_eq_true, if_false]

/-- A port's notice wakes its link, and is completed on it. -/
theorem noticeOp_port {p : Nat} (up : linkUp (portOf d p) = true) (load : portLoad d p true < 256) (go : Dev → Dev) :
    noticeOp d (64 + p) line go = respond (go (portWoken d p)) p (.memDone p (portReqOr d p line).hpa) := by
  have code : dirCode (setPort d p (wake (portOf d p))) line = (setPort d p (wake (portOf d p)), false) := dirCode_sound sound
  simp only [noticeOp, if_neg (show ¬64 + p < 64 by omega), Nat.add_sub_cancel_left, portTakes_up _ up load, code,
    Bool.false_eq_true, if_false]
  rfl

end

/-- What a writeback takes from a core's data cache: the line, or only that it is dirty and owned. -/
def givesUp (d : Dev) (a line : Nat) (keep : Bool) : Dev :=
  if a < 64 then
    if keep then
      modCore d a (fun x => { x with dcache := tmod x.dcache line (fun l => { l with dirty := false, owned := false }) })
    else dcForget d a line
  else d

/-- The device once the bytes of a line's owner lie in the slice, and the entry tracks the copy that is kept (R347). -/
def writtenBack (d : Dev) (a line : Nat) (b : Bytes) (keep : Bool) : Dev :=
  let e := putLine (telF d (homeFloe (pageOfLine line)) 0x1038 1) line b true
  if keep then putState e line 1 (2 ^ a) 0xFF else putState e line 0 0 0xFF

theorem givesUp_frame (d : Dev) (a line : Nat) (keep : Bool) : ∃ cores, givesUp d a line keep = { d with cores := cores } := by
  unfold givesUp
  split
  · split <;> exact ⟨_, rfl⟩
  · exact ⟨_, rfl⟩

theorem givesUp_kept {d : Dev} {a line : Nat} {x : DLine} (low : a < 64) (held : tget? (coreOf d a).dcache line = some x) :
    givesUp d a line true = setCore d a
      { (coreOf d a) with dcache := tput (coreOf d a).dcache line { x with dirty := false, owned := false } } := by
  have changed := tmod_some held (fun l => { l with dirty := false, owned := false })
  rw [← changed, givesUp, if_pos low]
  rfl

theorem givesUp_dropped {d : Dev} {a line : Nat} (low : a < 64) : givesUp d a line false = dcForget d a line := if_pos low

theorem givesUp_port (d : Dev) (p line : Nat) (keep : Bool) : givesUp d (64 + p) line keep = d := if_neg (by omega)

theorem wbBytes_core {d : Dev} {a line : Nat} {x : DLine} (b : Bytes) (low : a < 64)
    (held : tget? (coreOf d a).dcache line = some x) : wbBytes d a line b = x.data := by
  rw [wbBytes, if_pos low, held]
  rfl

theorem wbBytes_port (d : Dev) (p line : Nat) (b : Bytes) : wbBytes d (64 + p) line b = b := if_neg (by omega)

section
variable {d : Dev} {a line : Nat} (entry : dirOf d line = ⟨2 ^ a, 2, a, none⟩)
  (on : floeOn d (homeFloe (pageOfLine line)) = true) (good : a < 64 → dcBad d a line = false) (b : Bytes) (keep : Bool)
include entry on good

theorem writebackOp_owner (poison : Bool) : writebackOp d a line b keep poison =
    if poison then makeOrphan (givesUp d a line keep) line a 6
    else if keep then keepSharers (dirtyToMemory (givesUp d a line keep) a line (slice b 0 64)) line (2 ^ a)
    else putState (dirtyToMemory (givesUp d a line keep) a line (slice b 0 64)) line 0 0 0xFF := by
  have readable : (decide (a < 64) && dcBad d a line) = false := by
    by_cases low : a < 64
    · simp [good low]
    · simp [low]
  simp only [writebackOp, floeRuns_on on, entry, readable, Bool.not_true, Bool.false_eq_true, if_false, if_true, true_and]
  rfl

theorem writebackOp_stores {l : CLine} (holds : SliceHolds d line l) (plain : PlainPage d (pageOfLine line))
    (coherent : pageCoherent d (pageOfLine line) = true) :
    writebackOp d a line b keep false = writtenBack (givesUp d a line keep) a line (slice b 0 64) keep := by
  obtain ⟨cores, given⟩ := givesUp_frame d a line keep
  have holds' : SliceHolds { d with cores := cores } line l :=
    ⟨holds.on, holds.tier, holds.unpacked, holds.held, holds.sound⟩
  have stored := dirtyToMemory_slice holds' a (slice b 0 64) ⟨plain.volatile, plain.single, plain.packs⟩
  rw [writebackOp_owner entry on good, given, stored]
  have kept := keepSharers_coherent (d := putLine (telF { d with cores := cores } (homeFloe (pageOfLine line)) 0x1038 1) line
    (slice b 0 64) true) (line := line) (Nat.ne_of_gt (Nat.two_pow_pos a)) coherent
  rw [kept]
  rfl

end

/-- The entry after a writeback: SHARED where the owner keeps its copy, else INVALID. -/
theorem dirOf_writtenBack {d : Dev} {a line : Nat} (b : Bytes) (keep : Bool) (settled : (dirOf d line).txn = none) :
    dirOf (writtenBack d a line b keep) line = if keep then ⟨2 ^ a, 1, 0xFF, none⟩ else ⟨0, 0, 0xFF, none⟩ := by
  have settled' : (dirOf (putLine (telF d (homeFloe (pageOfLine line)) 0x1038 1) line b true) line).txn = none := settled
  cases keep
  · exact dirOf_putState_self settled' ..
  · exact dirOf_putState_self settled' ..

/-! ### Eviction notices (R347) -/

/-- The device once a core has forgotten a line; a port's caches are its host's. -/
def lineForgotten (d : Dev) (a line : Nat) : Dev := if a < 64 then dcForget d a line else d

theorem evictOp_runs {d : Dev} {a line : Nat} (on : floeOn d (homeFloe (pageOfLine line)) = true)
    (clean : (decide (a < 64) && (tget? (coreOf d a).dcache line).any (·.dirty)) = false) : evictOp d a line =
      if (dirOf (lineForgotten d a line) line).txn.isSome then waitDir (lineForgotten d a line) line (.evict a)
      else dropAgent (lineForgotten d a line) line a := by
  simp only [evictOp, floeRuns_on on, clean, Bool.not_true, Bool.or_false, Bool.false_eq_true, if_false]
  rfl

/-- A shared line loses an agent (R347). -/
theorem dropAgent_shared {d : Dev} {line sh ow : Nat} (a : Nat) (entry : dirOf d line = ⟨sh, 1, ow, none⟩) :
    dropAgent d line a = putState d line (if delSharer sh a = 0 then 0 else 1) (delSharer sh a) 0xFF := by
  simp only [dropAgent, entry, if_true]

theorem dirOf_dropAgent_shared {d : Dev} {line sh ow : Nat} (a : Nat) (entry : dirOf d line = ⟨sh, 1, ow, none⟩) :
    dirOf (dropAgent d line a) line =
      if delSharer sh a = 0 then ⟨0, 0, 0xFF, none⟩ else ⟨delSharer sh a, 1, 0xFF, none⟩ := by
  rw [dropAgent_shared a entry, dirOf_putState_self (by rw [entry])]
  by_cases last : delSharer sh a = 0 <;> simp [last]

theorem lineForgotten_core {d : Dev} {a line : Nat} (low : a < 64) : lineForgotten d a line = dcForget d a line := if_pos low

theorem lineForgotten_port (d : Dev) (p line : Nat) : lineForgotten d (64 + p) line = d := if_neg (by omega)

/-! ### Orphans (R344, R354, R355) -/

/-- Agents have been told of something: of the rest of the device it leaves cores, mailboxes, ports, telemetry and outputs
changed alone, and no link has gone down. -/
def Told (d e : Dev) : Prop :=
  (∃ cores mbx ports tel out, e = { d with cores := cores, mbx := mbx, ports := ports, tel := tel, out := out }) ∧
    ∀ p, linkUp (portOf d p) = true → linkUp (portOf e p) = true

theorem Told.refl (d : Dev) : Told d d := ⟨⟨d.cores, d.mbx, d.ports, d.tel, d.out, rfl⟩, fun _ h => h⟩

theorem Told.trans {d e f : Dev} (h : Told d e) (k : Told e f) : Told d f := by
  obtain ⟨⟨_, _, _, _, _, rfl⟩, up⟩ := h
  obtain ⟨⟨c, m, p, t, o, rfl⟩, up'⟩ := k
  exact ⟨⟨c, m, p, t, o, rfl⟩, fun n h => up' n (up n h)⟩

theorem Told.setMb (d : Dev) (m : Nat) (x : Mailbox) : Told d (setMb d m x) := ⟨⟨_, _, _, _, _, rfl⟩, fun _ h => h⟩
theorem Told.setCore (d : Dev) (c : Nat) (x : Core) : Told d (setCore d c x) := ⟨⟨_, _, _, _, _, rfl⟩, fun _ h => h⟩
theorem Told.emit (d : Dev) (o : Out) : Told d (emit d o) := ⟨⟨_, _, _, _, _, rfl⟩, fun _ h => h⟩
theorem Told.telD (d : Dev) (o n : Nat) : Told d (telD d o n) := ⟨⟨_, _, _, _, _, rfl⟩, fun _ h => h⟩
theorem Told.telF (d : Dev) (f o n : Nat) : Told d (telF d f o n) := ⟨⟨_, _, _, _, _, rfl⟩, fun _ h => h⟩

theorem Told.setPort {d : Dev} {p : Nat} {x : Port} (up : linkUp (portOf d p) = true → linkUp x = true) :
    Told d (setPort d p x) := by
  refine ⟨⟨_, _, _, _, _, rfl⟩, fun n h => ?_⟩
  by_cases same : n = p
  · subst same
    rw [portOf_setPort_self]
    exact up h
  · rw [portOf, setPort_ports, tget_tput_ne _ _ _ same]
    exact h

theorem linkUp_wake {x : Port} (up : linkUp x = true) : linkUp (wake x) = true := by
  rw [linkUp, wake_link up]
  rfl

theorem Told.ite {d x y : Dev} (p : Prop) [Decidable p] (h : Told d x) (k : Told d y) : Told d (if p then x else y) := by
  split
  · exact h
  · exact k

theorem sendVec_told (d : Dev) (p e : Nat) : Told d (sendVec d p e) := by
  unfold sendVec
  exact .ite _ (.setPort fun up => up)
    (((Told.setPort (x := { wake (portOf d p) with vecs := tput (portOf d p).vecs e { vecOf (portOf d p) e with pend := false } })
      linkUp_wake).trans (.emit ..)).trans (.telD ..))

theorem ring_told (d : Dev) (m b : Nat) : Told d (ring d m b) := by
  unfold ring
  refine .ite _ (.refl d) ((Told.setMb ..).trans (.ite _ (.refl _) ?_))
  unfold raiseMb
  exact .ite _ (sendVec_told ..) (.refl _)

theorem queueEvent_told (d : Dev) (m : Nat) (e : Event) : Told d (queueEvent d m e) := by
  unfold queueEvent
  exact .ite _ ((Told.setMb ..).trans (ring_told ..)) (.setMb ..)

theorem eventDev_told (d : Dev) (c st h : Nat) : Told d (eventDev d c st h) :=
  foldl_rel Told .refl .trans _ (fun d _ => .ite _ (queueEvent_told ..) (.refl d)) _ d

theorem eventCtx_told (d : Dev) (c st h : Nat) (l : List Nat) : Told d (eventCtx d c st h l) :=
  foldl_rel Told .refl .trans _ (fun d _ => .ite _ (queueEvent_told ..) (.refl d)) _ d

/-- The copies beside an orphan are taken away. -/
theorem orphanCopies_told (d : Dev) (line owner : Nat) : Told d (orphanCopies d line owner) :=
  (foldl_rel Told .refl .trans _ (fun _ _ => .setCore ..) _ d).trans
    (foldl_rel Told .refl .trans _ (fun _ _ => (Told.setPort linkUp_wake).trans (.emit ..)) _ _)

/-- The device once the entry of a line and its side-table record say that it is an orphan. -/
def orphanNoted (d : Dev) (line owner cause : Nat) : Dev :=
  { setDir d line { dirOf d line with sharers := 0, state := 3, owner := owner } with
    orphans := tput d.orphans line ⟨d.now, owner, cause, (pageOf d (pageOfLine line)).owner⟩ }

theorem dirOf_orphanNoted {d : Dev} {line : Nat} (settled : (dirOf d line).txn = none) (owner cause : Nat) :
    dirOf (orphanNoted d line owner cause) line = ⟨0, 3, owner, none⟩ := by
  have entry := dirOf_setDir_self (d := d) (line := line) { dirOf d line with sharers := 0, state := 3, owner := owner }
  rw [if_neg (by simp)] at entry
  exact entry.trans (congrArg (DirEntry.mk 0 3 owner) settled)

/-- A line becomes an orphan, and agents are told. -/
theorem makeOrphan_told (d : Dev) (line owner cause : Nat) : Told (orphanNoted d line owner cause) (makeOrphan d line owner cause) := by
  obtain ⟨⟨cores, mbx, ports, tel, out, copies⟩, up⟩ := orphanCopies_told d line owner
  have noted : Told (orphanNoted d line owner cause) (orphanNoted (orphanCopies d line owner) line owner cause) :=
    ⟨⟨cores, mbx, ports, tel, out, by rw [copies]; rfl⟩, up⟩
  refine noted.trans ((Told.telF _ (homeFloe (pageOfLine line)) 0x1628 1).trans ?_)
  have page : (pageOf (orphanCopies d line owner) (pageOfLine line)).owner = (pageOf d (pageOfLine line)).owner := by
    rw [copies]
    rfl
  rw [orphanNoted, page]
  exact .ite _ (eventDev_told ..) (eventCtx_told ..)

end Sys2Proof.Machine
end

section
/-! PROOFS. The operations on the entries that DirectoryRequests names, one step at a time, and its proof (R341 to R350). -/

namespace Sys2Proof.Machine

open Sys2Proof

/-! ### Copies for cores and ports (R347) -/

theorem dirOf_copyGranted {d : Dev} {line st : Nat} (settled : (dirOf d line).txn = none) (some : st ≠ 0) (sh ow : Nat) :
    dirOf (copyGranted d line st sh ow) line = ⟨sh, st, ow, none⟩ := by
  have entry := dirOf_putState_self (d := sliceHit d line) settled st sh ow
  rw [if_neg some] at entry
  exact entry

section
variable {d : Dev} {line sh st ow : Nat} {l : CLine} (entry : dirOf d line = ⟨sh, st, ow, none⟩) (holds : SliceHolds d line l)
include entry holds

/-- RD_SHARED of a line that is SHARED or INVALID. -/
theorem startDir_rdShared {a : Nat} (unowned : st = 0 ∨ st = 1) (may : mayCache d a line = true) : startDir d line (.rdShared a) =
    dirData (copyGranted d line 1 (addSharer (if st = 1 then sh else 0) a) 0xFF) a line l.data false true := by
  have states : (dirOf d line).state ≠ 3 ∧ (dirOf d line).state ≠ 2 := by rw [entry]; dsimp only; omega
  have quiet : snoopsFor (dirOf d line) (.rdShared a) = [] := if_neg fun h => states.2 h.1
  rw [startDir_unopposed quiet states.1 states.2, finishDir_rdShared holds states.1 may, entry]

/-- RD_OWN of an INVALID line. -/
theorem startDir_rdOwn {a : Nat} (invalid : sh = 0 ∧ st = 0) (may : mayCache d a line = true) :
    startDir d line (.rdOwn a) = dirData (copyGranted d line 2 (2 ^ a) a) a line l.data true true := by
  obtain ⟨rfl, rfl⟩ := invalid
  have states : (dirOf d line).state ≠ 3 ∧ (dirOf d line).state ≠ 2 := by rw [entry]; dsimp only; omega
  have quiet : snoopsFor (dirOf d line) (.rdOwn a) = [] := by
    rw [entry]
    simp only [snoopsFor, sharersOf_none, List.filter_nil, List.map_nil]
  rw [startDir_unopposed quiet states.1 states.2, finishDir_rdOwn holds states.1 may]

end

/-- An UPGRADE of the only sharer has nobody to snoop. -/
theorem startDir_upgrade {d : Dev} {line a ow : Nat} (known : a < 76) (entry : dirOf d line = ⟨2 ^ a, 1, ow, none⟩) :
    startDir d line (.upgrade a) = finishDir d line (.upgrade a) none none := by
  have quiet : snoopsFor (dirOf d line) (.upgrade a) = [] := by
    rw [entry]
    simp [snoopsFor, sharersOf_single known]
  exact startDir_unopposed quiet (by simp [entry]) (by simp [entry])

/-- SNP_INV takes away the clean copy of the one core that is in an operation's way. -/
theorem startDir_inv {d : Dev} {line o k ow : Nat} {op : DirOp} {x : DLine} (entry : dirOf d line = ⟨2 ^ o, 1, ow, none⟩)
    (snoops : snoopsFor ⟨2 ^ o, 1, ow, none⟩ op = ((sharersOf ⟨2 ^ o, 1, ow, none⟩).filter (· ≠ k)).map (fun a => (a, 1)))
    (low : o < 64) (other : o ≠ k) (still : d.dirWalk = []) (held : tget? (coreOf d o).dcache line = some x)
    (clean : x.dirty = false) : startDir d line op =
      finishDir (dcForget (telF d (homeFloe (pageOfLine line)) 0x1608 1) o line) line op none none := by
  have one : snoopsFor (dirOf d line) op = [(o, 1)] := by
    rw [entry, snoops, sharersOf_single (by omega)]
    simp [other]
  have sent := sendSnoops_core (k := 1) low still held clean
  rw [← one, show decide (1 = 1) = true from rfl, coreSnooped_inv held] at sent
  have after : dirOf (dcForget (telF d (homeFloe (pageOfLine line)) 0x1608 1) o line) line = ⟨2 ^ o, 1, ow, none⟩ := entry
  exact startDir_answered sent (by simp [after]) (by simp [entry])

/-- Entries lie in the directory alone. -/
theorem dirOf_same {d e : Dev} {line : Nat} {x : DirEntry} (entry : dirOf e line = x) (same : d.dir = e.dir) : dirOf d line = x := by
  rw [← entry, dirOf, dirOf, same]

theorem state_ne {d : Dev} {line sh st ow n : Nat} {x : Option DirTxn} (entry : dirOf d line = ⟨sh, st, ow, x⟩) (h : st ≠ n) :
    (dirOf d line).state ≠ n := by
  rw [entry]
  exact h

theorem coreOf_copyGranted (d : Dev) (line st sh ow c : Nat) : coreOf (copyGranted d line st sh ow) c = coreOf d c := rfl

theorem coreOf_dcForget_ne {c k : Nat} (d : Dev) (line : Nat) (other : k ≠ c) : coreOf (dcForget d c line) k = coreOf d k := by
  rw [dcForget, modCore, coreOf_setCore_ne _ other]

/-- RD_OWN of a line that one other core shares. -/
theorem startDir_rdOwn_shared {d : Dev} {line a o ow : Nat} {l : CLine} {x : DLine} (entry : dirOf d line = ⟨2 ^ o, 1, ow, none⟩)
    (holds : SliceHolds d line l) (core : o < 64) (low : a < 64) (other : o ≠ a) (still : d.dirWalk = [])
    (copy : tget? (coreOf d o).dcache line = some x) (clean : x.dirty = false) (coherent : pageCoherent d (pageOfLine line) = true)
    (room : ((tkeys (coreOf d a).dcache).filter (fun k => decide (k % 256 = line % 256 ∧ k ≠ line))).length < 4) :
    startDir d line (.rdOwn a) =
      setCore (copyGranted (dcForget (telF d (homeFloe (pageOfLine line)) 0x1608 1) o line) line 2 (2 ^ a) a) a
        { (coreOf d a) with dcache := tput (coreOf d a).dcache line ⟨l.data, false, true⟩ } := by
  have holds' : SliceHolds (dcForget (telF d (homeFloe (pageOfLine line)) 0x1608 1) o line) line l :=
    ⟨holds.on, holds.tier, holds.unpacked, holds.held, holds.sound⟩
  have served := finishDir_rdOwn holds' (state_ne entry (by decide)) (mayCache_core low coherent)
  have mine : coreOf (copyGranted (dcForget (telF d (homeFloe (pageOfLine line)) 0x1608 1) o line) line 2 (2 ^ a) a) a = coreOf d a := by
    rw [coreOf_copyGranted, coreOf_dcForget_ne _ _ (Ne.symm other)]
    rfl
  rw [startDir_inv entry rfl core other still copy clean, served, dirData_core low l.data true (by rw [mine]; exact room), coreFilled, mine]

/-- SNP_SHARE leaves the owning core a shared copy, and the read goes on. -/
theorem startDir_share {d : Dev} {line o : Nat} {x : DLine} (entry : dirOf d line = ⟨2 ^ o, 2, o, none⟩) (low : o < 64)
    (still : d.dirWalk = []) (held : tget? (coreOf d o).dcache line = some x) (clean : x.dirty = false) :
    startDir d line .ncRd = finishDir (setCore (telF d (homeFloe (pageOfLine line)) 0x1608 1) o
      { (coreOf d o) with dcache := tput (coreOf d o).dcache line { x with owned := false } }) line .ncRd (some o) none := by
  have one : snoopsFor (dirOf d line) .ncRd = [(o, 0)] := by
    rw [entry]
    rfl
  have sent := sendSnoops_core (k := 0) low still held clean
  rw [← one, show decide (0 = 1) = false from rfl, coreSnooped_share held clean] at sent
  have after : dirOf (setCore (telF d (homeFloe (pageOfLine line)) 0x1608 1) o
    { (coreOf d o) with dcache := tput (coreOf d o).dcache line { x with owned := false } }) line = ⟨2 ^ o, 2, o, none⟩ := entry
  rw [startDir_ncRd_owned sent (by simp [after]) (by simp [entry]), entry]

/-- The first request that waits for a line without a transaction is served. -/
theorem dequeueLine_first {d : Dev} {line : Nat} {w : Nat × DirOp} (settled : (dirOf d line).txn = none)
    (first : d.dirWait.find? (fun w => decide (w.1 = line)) = some w) (reads : w.2.writes = false) :
    dequeueLine d line = dirServe { d with dirWait := d.dirWait.erase w } line w.2 := by
  simp only [dequeueLine, settled, first, reads, Option.isSome_none, Bool.false_eq_true, if_false]

theorem servable_entry {d : Dev} {line sh st ow : Nat} (entry : dirOf d line = ⟨sh, st, ow, none⟩)
    (on : floeOn d (homeFloe (pageOfLine line)) = true) (few : dirPending d (homeFloe (pageOfLine line)) < 512)
    (tier : (pageOf d (pageOfLine line)).tier = 1 ∨ (pageOf d (pageOfLine line)).tier = 2) (alive : st ≠ 3) : Servable d line :=
  ⟨on, few, tier, state_ne entry alive, congrArg DirEntry.txn entry⟩

/-- An UPGRADE of the only sharer. -/
theorem trackable_upgrade {d : Dev} {line a ow : Nat} (entry : dirOf d line = ⟨2 ^ a, 1, ow, none⟩) :
    Trackable d line (.upgrade a) := by
  refine ⟨.inl (state_ne entry (by decide)), ?_⟩
  rintro b ⟨⟩
  rw [entry]
  exact ⟨rfl, by simp [bitOf_two_pow]⟩

theorem portWoken_link {d : Dev} {p : Nat} (up : linkUp (portOf d p) = true) : (portOf (portWoken d p) p).link = 2 := by
  rw [portOf_portWoken, wake_link up]

theorem linkUp_portWoken {d : Dev} {p : Nat} (up : linkUp (portOf d p) = true) : linkUp (portOf (portWoken d p) p) = true := by
  rw [portOf_portWoken]
  exact linkUp_wake up

/-! ### The commands -/

section
variable {s : State} {a line : Nat} {e : Dev} (sv : Serving s)
include sv

theorem exec_rdShared (w : (.rdShared a line : Instr).wellFormed = true)
    (effect : copyRequest (latch s) a line (.rdShared a) = e) (same : Undisturbed (latch s) e) :
    exec (.rdShared a line) s = .next { s with dev := e } :=
  onDev_undisturbed (f := fun d => copyRequest d a line (.rdShared a)) w sv effect same

theorem exec_rdOwn (w : (.rdOwn a line : Instr).wellFormed = true)
    (effect : copyRequest (latch s) a line (.rdOwn a) = e) (same : Undisturbed (latch s) e) :
    exec (.rdOwn a line) s = .next { s with dev := e } :=
  onDev_undisturbed (f := fun d => copyRequest d a line (.rdOwn a)) w sv effect same

theorem exec_upgrade (w : (.upgrade a line : Instr).wellFormed = true)
    (effect : copyRequest (latch s) a line (.upgrade a) = e) (same : Undisturbed (latch s) e) :
    exec (.upgrade a line) s = .next { s with dev := e } :=
  onDev_undisturbed (f := fun d => copyRequest d a line (.upgrade a)) w sv effect same

theorem exec_wb {b : Bytes} {keep poison : Bool} (w : (.wb a line b keep poison : Instr).wellFormed = true)
    (effect : noticeOp (latch s) a line (fun d => writebackOp d a line (wbBytes d a line b) keep poison) = e)
    (same : Undisturbed (latch s) e) : exec (.wb a line b keep poison) s = .next { s with dev := e } :=
  onDev_undisturbed (f := fun d => noticeOp d a line (fun d => writebackOp d a line (wbBytes d a line b) keep poison)) w sv effect same

theorem exec_evict (w : (.evict a line : Instr).wellFormed = true)
    (effect : noticeOp (latch s) a line (fun d => evictOp d a line) = e) (same : Undisturbed (latch s) e) :
    exec (.evict a line) s = .next { s with dev := e } :=
  onDev_undisturbed (f := fun d => noticeOp d a line (fun d => evictOp d a line)) w sv effect same

theorem exec_ncRd (w : (.ncRd line : Instr).wellFormed = true) (effect : dirRequest (latch s) line .ncRd = e)
    (same : Undisturbed (latch s) e) : exec (.ncRd line) s = .next { s with dev := e } :=
  onDev_undisturbed (f := fun d => dirRequest d line .ncRd) w sv effect same

theorem exec_ncWr {b : Bytes} {mask : BitVec 64} (w : (.ncWr line b mask : Instr).wellFormed = true)
    (effect : dirRequest (latch s) line (.ncWr (slice b 0 64) mask.toNat) = e) (same : Undisturbed (latch s) e) :
    exec (.ncWr line b mask) s = .next { s with dev := e } :=
  onDev_undisturbed (f := fun d => dirRequest d line (.ncWr (slice b 0 64) mask.toNat)) w sv effect same

theorem exec_ncAtomic {op : Atomic} (w : (.ncAtomic line op : Instr).wellFormed = true)
    (effect : dirRequest (latch s) line (.ncAtomic op.op op.off op.size op.a op.b) = e) (same : Undisturbed (latch s) e) :
    exec (.ncAtomic line op) s = .next { s with dev := e } :=
  onDev_undisturbed (f := fun d => dirRequest d line (.ncAtomic op.op op.off op.size op.a op.b)) w sv effect same

theorem exec_dirReqDequeue (w : (.dirReqDequeue line : Instr).wellFormed = true) (effect : dequeueLine (latch s) line = e)
    (same : Undisturbed (latch s) e) : exec (.dirReqDequeue line) s = .next { s with dev := e } :=
  onDev_undisturbed (f := fun d => dequeueLine d line) w sv effect same

end

/-- Settles O51: a request is taken and served at once (`copyRequest_…`, `dirRequest_nc`), it ends with what `finishDir_…` says,
and nothing follows it; a notice is the operation of `writebackOp_…` or `evictOp_runs`. -/
theorem directoryRequests : Obligations.DirectoryRequests := by
  unfold Obligations.DirectoryRequests
  refine ⟨?shared, ?invalid, ?portShared, ?portOwn, ?portUpgrade, ?waits, ?own, ?upgrade, ?upgradeInvalid, ?back, ?portBack,
    ?poisoned, ?portPoisoned, ?evict, ?portEvict, ?evictWaits, ?read, ?readOwned, ?write, ?atomic, ?dequeued⟩
  case shared =>
    intro s a line sh ow l w sv low entry on tier unpacked held sound few flips first room coherent ways
    have asked := copyRequest_core (d := latch s) (op := .rdShared a) ⟨on, few, flips, first, room⟩
      (servable_entry entry on few tier (by decide)) ⟨.inl (state_ne entry (by decide)), nofun⟩ low rfl
    have served := startDir_rdShared (d := dirCounted (latch s) line) entry ⟨on, tier, unpacked, held, sound⟩ (.inr rfl)
      (mayCache_core low coherent)
    have next := exec_rdShared sv w (asked.trans (served.trans (dirData_core low l.data false ways))) ⟨rfl, rfl, rfl, rfl, rfl⟩
    have tracked := dirOf_copyGranted (st := 1) (d := dirCounted (latch s) line) (congrArg DirEntry.txn entry) (by decide)
      (addSharer sh a) 0xFF
    exact ⟨_, next, tracked, rfl, rfl, rfl⟩
  case invalid =>
    intro s a line l w sv low entry on tier unpacked held sound few flips first room coherent free ways
    have asked := copyRequest_core (d := latch s) (op := .rdShared a) ⟨on, few, flips, first, room⟩
      (servable_entry entry on few tier (by decide)) ⟨.inr free, nofun⟩ low rfl
    have served := startDir_rdShared (d := dirCounted (latch s) line) entry ⟨on, tier, unpacked, held, sound⟩ (.inl rfl)
      (mayCache_core low coherent)
    have next := exec_rdShared sv w (asked.trans (served.trans (dirData_core low l.data false ways))) ⟨rfl, rfl, rfl, rfl, rfl⟩
    have tracked := dirOf_copyGranted (st := 1) (d := dirCounted (latch s) line) (congrArg DirEntry.txn entry) (by decide)
      (addSharer 0 a) 0xFF
    exact ⟨_, next, tracked.trans (congrArg (DirEntry.mk · 1 0xFF none) (addSharer_none a)), rfl, rfl, rfl⟩
  case portShared =>
    intro s p line sh ow l q w sv known up load flit decoded check entry on tier unpacked held sound few flips first room coherent
    have asked := copyRequest_port (d := latch s) (op := .rdShared (64 + p)) rfl up load flit decoded check ⟨on, few, flips, first, room⟩
      (servable_entry entry on few tier (by decide)) ⟨.inl (state_ne entry (by decide)), nofun⟩ coherent
    have served := startDir_rdShared (d := portAsked (portWoken (latch s) p) p line q) entry ⟨on, tier, unpacked, held, sound⟩
      (.inr rfl) (mayCache_port line flit coherent)
    have answered := dirData_port (d := copyGranted (portAsked (portWoken (latch s) p) p line q) line 1 (addSharer sh (64 + p)) 0xFF)
      (tget?_tput_self ..) (portWoken_link up) l.data false
    have next := exec_rdShared sv w (asked.trans (served.trans answered)) ⟨rfl, rfl, rfl, rfl, rfl⟩
    have tracked := dirOf_copyGranted (st := 1) (d := portAsked (portWoken (latch s) p) p line q) (congrArg DirEntry.txn entry) (by decide)
      (addSharer sh (64 + p)) 0xFF
    exact ⟨_, next, tracked, rfl, tdel_tput .., rfl, rfl⟩
  case portOwn =>
    intro s p line l q w sv known up load flit decoded check entry on tier unpacked held sound few flips first room coherent free
    have asked := copyRequest_port (d := latch s) (op := .rdOwn (64 + p)) rfl up load flit decoded check ⟨on, few, flips, first, room⟩
      (servable_entry entry on few tier (by decide)) ⟨.inr free, nofun⟩ coherent
    have served := startDir_rdOwn (d := portAsked (portWoken (latch s) p) p line q) entry ⟨on, tier, unpacked, held, sound⟩
      ⟨rfl, rfl⟩ (mayCache_port line flit coherent)
    have answered := dirData_port (d := copyGranted (portAsked (portWoken (latch s) p) p line q) line 2 (2 ^ (64 + p)) (64 + p))
      (tget?_tput_self ..) (portWoken_link up) l.data true
    have next := exec_rdOwn sv w (asked.trans (served.trans answered)) ⟨rfl, rfl, rfl, rfl, rfl⟩
    have tracked := dirOf_copyGranted (st := 2) (d := portAsked (portWoken (latch s) p) p line q) (congrArg DirEntry.txn entry) (by decide)
      (2 ^ (64 + p)) (64 + p)
    exact ⟨_, next, tracked, rfl, tdel_tput .., rfl, rfl⟩
  case portUpgrade =>
    intro s p line q w sv known up load flit decoded check entry on few flips first room tier coherent
    have asked := copyRequest_port (d := latch s) (op := .upgrade (64 + p)) rfl up load flit decoded check ⟨on, few, flips, first, room⟩
      (servable_entry entry on few tier (by decide)) (trackable_upgrade entry) coherent
    have served := (startDir_upgrade (d := portAsked (portWoken (latch s) p) p line q) (by omega) entry).trans
      (finishDir_upgrade_port (tget?_tput_self ..) (portWoken_link up) (mayCache_port line flit coherent))
    have next := exec_upgrade sv w (asked.trans served) ⟨rfl, rfl, rfl, rfl, rfl⟩
    have tracked := dirOf_putState_self (d := portAsked (portWoken (latch s) p) p line q) (congrArg DirEntry.txn entry) 2
      (2 ^ (64 + p)) (64 + p)
    exact ⟨_, next, tracked, rfl, tdel_tput .., rfl, rfl⟩
  case waits =>
    intro s a line w sv low pending alive on flips
    have next := exec_rdShared sv w (copyRequest_waits (d := latch s) low on flips alive pending) ⟨rfl, rfl, rfl, rfl, rfl⟩
    exact ⟨_, next, rfl, rfl⟩
  case own =>
    intro s a o line l x w sv low core other entry on tier unpacked held sound few flips first room coherent still ways copy clean
    have asked := copyRequest_core (d := latch s) (op := .rdOwn a) ⟨on, few, flips, first, room⟩
      (servable_entry entry on few tier (by decide)) ⟨.inl (state_ne entry (by decide)), nofun⟩ low rfl
    have served := startDir_rdOwn_shared (d := dirCounted (latch s) line) entry ⟨on, tier, unpacked, held, sound⟩ core low other still
      copy clean coherent ways
    have next := exec_rdOwn sv w (asked.trans served) ⟨rfl, rfl, rfl, rfl, rfl⟩
    have tracked := dirOf_copyGranted (st := 2)
      (d := dcForget (telF (dirCounted (latch s) line) (homeFloe (pageOfLine line)) 0x1608 1) o line) (congrArg DirEntry.txn entry)
      (by decide) (2 ^ a) a
    exact ⟨_, next, tracked, rfl, rfl, rfl⟩
  case upgrade =>
    intro s a line x w sv low entry on few flips first room tier coherent copy
    have asked := copyRequest_core (d := latch s) (op := .upgrade a) ⟨on, few, flips, first, room⟩
      (servable_entry entry on few tier (by decide)) (trackable_upgrade entry) low rfl
    have served := (startDir_upgrade (d := dirCounted (latch s) line) (by omega) entry).trans
      (finishDir_upgrade_core low (mayCache_core low coherent) copy)
    have next := exec_upgrade sv w (asked.trans served) ⟨rfl, rfl, rfl, rfl, rfl⟩
    have tracked := dirOf_putState_self (d := dirCounted (latch s) line) (congrArg DirEntry.txn entry) 2 (2 ^ a) a
    exact ⟨_, next, tracked, rfl, rfl, rfl⟩
  case upgradeInvalid =>
    intro s a line l w sv low entry on tier unpacked held sound few flips first room coherent free ways
    have asked := copyRequest_upgrade_invalid (d := latch s) ⟨on, few, flips, first, room⟩
      (servable_entry entry on few tier (by decide)) ⟨.inr free, nofun⟩ low (congrArg DirEntry.state entry)
    have served := startDir_rdOwn (d := dirCounted (latch s) line) entry ⟨on, tier, unpacked, held, sound⟩ ⟨rfl, rfl⟩
      (mayCache_core low coherent)
    have next := exec_upgrade sv w (asked.trans (served.trans (dirData_core low l.data true ways))) ⟨rfl, rfl, rfl, rfl, rfl⟩
    have tracked := dirOf_copyGranted (st := 2) (d := dirCounted (latch s) line) (congrArg DirEntry.txn entry) (by decide) (2 ^ a) a
    exact ⟨_, next, tracked, rfl, rfl, rfl⟩
  case back =>
    intro s a line b keep x l w sv low entry on tier unpacked held sound volatile single packs coherent copy good
    have noticed := noticeOp_core (d := latch s) sound.2.2 low (fun d => writebackOp d a line (wbBytes d a line b) keep false)
    have stored := writebackOp_stores (d := latch s) entry on (fun _ => good) (wbBytes (latch s) a line b) keep
      ⟨on, tier, unpacked, held, sound⟩ ⟨volatile, single, packs⟩ coherent
    have effect := noticed.trans stored
    rw [wbBytes_core (d := latch s) b low copy] at effect
    cases keep with
    | true =>
      rw [givesUp_kept (d := latch s) low copy] at effect
      have next := exec_wb sv w effect ⟨rfl, rfl, rfl, rfl, rfl⟩
      have tracked := dirOf_writtenBack (d := latch s) (a := a) (slice x.data 0 64) true (congrArg DirEntry.txn entry)
      exact ⟨_, next, rfl, tracked, rfl, rfl, rfl, rfl⟩
    | false =>
      rw [givesUp_dropped (d := latch s) low] at effect
      have next := exec_wb sv w effect ⟨rfl, rfl, rfl, rfl, rfl⟩
      have tracked := dirOf_writtenBack (d := latch s) (a := a) (slice x.data 0 64) false (congrArg DirEntry.txn entry)
      exact ⟨_, next, rfl, tracked, rfl, rfl, rfl, rfl⟩
  case portBack =>
    intro s p line b keep l w sv known up load entry on tier unpacked held sound volatile single packs coherent
    have noticed := noticeOp_port (d := latch s) sound.2.2 up load
      (fun d => writebackOp d (64 + p) line (wbBytes d (64 + p) line b) keep false)
    have stored := writebackOp_stores (d := portWoken (latch s) p) entry on (fun low => absurd low (by omega))
      (wbBytes (portWoken (latch s) p) (64 + p) line b) keep ⟨on, tier, unpacked, held, sound⟩ ⟨volatile, single, packs⟩ coherent
    rw [stored, wbBytes_port, givesUp_port] at noticed
    have tracked := dirOf_writtenBack (d := portWoken (latch s) p) (a := 64 + p) (slice b 0 64) keep (congrArg DirEntry.txn entry)
    cases keep with
    | true =>
      have answered := respond_awake (d := writtenBack (portWoken (latch s) p) (64 + p) line (slice b 0 64) true)
        (.memDone p (portReqOr (latch s) p line).hpa) (portWoken_link up)
      have next := exec_wb sv w (noticed.trans answered) ⟨rfl, rfl, rfl, rfl, rfl⟩
      exact ⟨_, next, rfl, tracked, rfl, rfl, rfl, rfl⟩
    | false =>
      have answered := respond_awake (d := writtenBack (portWoken (latch s) p) (64 + p) line (slice b 0 64) false)
        (.memDone p (portReqOr (latch s) p line).hpa) (portWoken_link up)
      have next := exec_wb sv w (noticed.trans answered) ⟨rfl, rfl, rfl, rfl, rfl⟩
      exact ⟨_, next, rfl, tracked, rfl, rfl, rfl, rfl⟩
  case poisoned =>
    intro s a line b keep w sv low entry good on flips
    have noticed := noticeOp_core (d := latch s) flips low (fun d => writebackOp d a line (wbBytes d a line b) keep true)
    have orphaned := writebackOp_owner (d := latch s) entry on (fun _ => good) (wbBytes (latch s) a line b) keep true
    obtain ⟨given, gives⟩ := givesUp_frame (latch s) a line keep
    obtain ⟨⟨cores, mbx, ports, tel, out, told⟩, -⟩ := makeOrphan_told { latch s with cores := given } line a 6
    rw [if_pos rfl, gives, told] at orphaned
    have next := exec_wb sv w (noticed.trans orphaned) ⟨rfl, rfl, rfl, rfl, rfl⟩
    have tracked := dirOf_orphanNoted (d := { latch s with cores := given }) (line := line) (congrArg DirEntry.txn entry) a 6
    exact ⟨_, next, tracked, tget?_tput_self .., rfl⟩
  case portPoisoned =>
    intro s p line b keep w sv known up load entry on flips
    have noticed := noticeOp_port (d := latch s) flips up load
      (fun d => writebackOp d (64 + p) line (wbBytes d (64 + p) line b) keep true)
    have orphaned := writebackOp_owner (d := portWoken (latch s) p) entry on (fun low => absurd low (by omega))
      (wbBytes (portWoken (latch s) p) (64 + p) line b) keep true
    obtain ⟨⟨cores, mbx, ports, tel, out, told⟩, linked⟩ := makeOrphan_told (portWoken (latch s) p) line (64 + p) 6
    have linked := linked p (linkUp_portWoken up)
    obtain ⟨ports', out', woken⟩ := wakePort_ports (makeOrphan (portWoken (latch s) p) line (64 + p) 6) p
    rw [if_pos rfl, givesUp_port] at orphaned
    rw [orphaned, respond, if_pos linked, woken, told] at noticed
    have next := exec_wb sv w noticed ⟨rfl, rfl, rfl, rfl, rfl⟩
    have tracked := dirOf_orphanNoted (d := portWoken (latch s) p) (line := line) (congrArg DirEntry.txn entry) (64 + p) 6
    exact ⟨_, next, tracked, tget?_tput_self .., rfl, rfl⟩
  case evict =>
    intro s a line sh w sv low entry clean on flips
    have noticed := noticeOp_core (d := latch s) flips low (fun d => evictOp d a line)
    have evicted := evictOp_runs (d := latch s) (a := a) on clean
    rw [lineForgotten_core low] at evicted
    have forgotten : dirOf (dcForget (latch s) a line) line = ⟨sh, 1, 0xFF, none⟩ := entry
    rw [forgotten, if_neg (by simp)] at evicted
    have tracked := dirOf_dropAgent_shared a forgotten
    rw [dropAgent_shared a forgotten] at evicted tracked
    have next := exec_evict sv w (noticed.trans evicted) ⟨rfl, rfl, rfl, rfl, rfl⟩
    exact ⟨_, next, tracked, rfl, rfl⟩
  case portEvict =>
    intro s p line sh w sv known up load entry on flips
    have noticed := noticeOp_port (d := latch s) flips up load (fun d => evictOp d (64 + p) line)
    have evicted := evictOp_runs (d := portWoken (latch s) p) (a := 64 + p) (line := line) on
      (by rw [decide_eq_false (by omega), Bool.false_and])
    have unchanged : dirOf (portWoken (latch s) p) line = ⟨sh, 1, 0xFF, none⟩ := entry
    rw [lineForgotten_port, unchanged, if_neg (by simp), dropAgent_shared _ unchanged] at evicted
    have tracked := dirOf_dropAgent_shared (64 + p) unchanged
    rw [dropAgent_shared _ unchanged] at tracked
    rw [evicted] at noticed
    have next := exec_evict sv w (noticed.trans (respond_awake _ (portWoken_link up))) ⟨rfl, rfl, rfl, rfl, rfl⟩
    exact ⟨_, next, tracked, rfl, rfl⟩
  case evictWaits =>
    intro s a line w sv low pending clean on flips
    have noticed := noticeOp_core (d := latch s) flips low (fun d => evictOp d a line)
    have evicted := evictOp_runs (d := latch s) (a := a) on clean
    have pending' : (dirOf (dcForget (latch s) a line) line).txn.isSome = true := pending
    rw [lineForgotten_core low, if_pos pending'] at evicted
    have next := exec_evict sv w (noticed.trans evicted) ⟨rfl, rfl, rfl, rfl, rfl⟩
    exact ⟨_, next, rfl, rfl⟩
  case read =>
    intro s line l w sv entry on tier unpacked held sound few flips first room
    have asked := dirRequest_nc (d := latch s) (op := .ncRd) ⟨on, few, flips, first, room⟩
      (servable_entry entry on few tier (by decide)) rfl nofun
    have served := startDir_unopposed (d := dirCounted (latch s) line) (op := .ncRd) (if_neg (state_ne entry (by decide)))
      (state_ne entry (by decide)) (state_ne entry (by decide))
    have ended := finishDir_ncRd (d := dirCounted (latch s) line) ⟨on, tier, unpacked, held, sound⟩ (state_ne entry (by decide))
      (state_ne entry (by decide))
    have next := exec_ncRd sv w (asked.trans (served.trans ended)) ⟨rfl, rfl, rfl, rfl, rfl⟩
    exact ⟨_, next, rfl, rfl, rfl⟩
  case readOwned =>
    intro s line o l x w sv low entry on tier unpacked held sound few flips first room coherent still copy clean
    have asked := dirRequest_nc (d := latch s) (op := .ncRd) ⟨on, few, flips, first, room⟩
      (servable_entry entry on few tier (by decide)) rfl nofun
    have shared := startDir_share (d := dirCounted (latch s) line) entry low still copy clean
    have ended := finishDir_ncRd_owned (o := o)
      (d := setCore (telF (dirCounted (latch s) line) (homeFloe (pageOfLine line)) 0x1608 1) o
        { (coreOf s.dev o) with dcache := tput (coreOf s.dev o).dcache line { x with owned := false } })
      ⟨on, tier, unpacked, held, sound⟩ (congrArg DirEntry.state entry) coherent
    have next := exec_ncRd sv w (asked.trans (shared.trans ended)) ⟨rfl, rfl, rfl, rfl, rfl⟩
    have tracked := dirOf_putState_self
      (d := setCore (telF (dirCounted (latch s) line) (homeFloe (pageOfLine line)) 0x1608 1) o
        { (coreOf s.dev o) with dcache := tput (coreOf s.dev o).dcache line { x with owned := false } })
      (congrArg DirEntry.txn entry) 1 (2 ^ o) 0xFF
    exact ⟨_, next, dirOf_same tracked rfl, rfl, rfl, rfl, rfl⟩
  case write =>
    intro s line o b mask l x w sv low entry on tier unpacked held sound volatile single packs few flips first room still whole copy clean
    have asked := dirRequest_nc (d := latch s) (op := .ncWr (slice b 0 64) mask.toNat) ⟨on, few, flips, first, room⟩
      (servable_entry entry on few tier (by decide)) rfl (fun _ => volatile)
    have snooped := startDir_inv (d := dirCounted (latch s) line) (op := .ncWr (slice b 0 64) mask.toNat) (k := 76) entry rfl low
      (by omega) still copy clean
    have ended := finishDir_ncWr (d := dcForget (telF (dirCounted (latch s) line) (homeFloe (pageOfLine line)) 0x1608 1) o line)
      ⟨on, tier, unpacked, held, sound⟩ (congrArg DirEntry.txn entry) ⟨volatile, single, packs⟩ whole mask.isLt (slice_length b 0 64)
    have next := exec_ncWr sv w (asked.trans (snooped.trans ended)) ⟨rfl, rfl, rfl, rfl, rfl⟩
    have dropped := dirOf_putState_self (d := dcForget (telF (dirCounted (latch s) line) (homeFloe (pageOfLine line)) 0x1608 1) o line)
      (congrArg DirEntry.txn entry) 0 0 0xFF
    exact ⟨_, next, dirOf_same dropped rfl, rfl, rfl, rfl, rfl, rfl⟩
  case atomic =>
    intro s line op l w sv entry on tier unpacked held sound volatile single packs few flips first room whole within
    have asked := dirRequest_nc (d := latch s) (op := .ncAtomic op.op op.off op.size op.a op.b) ⟨on, few, flips, first, room⟩
      (servable_entry entry on few tier (by decide)) rfl (fun _ => volatile)
    have quiet : snoopsFor (dirOf (dirCounted (latch s) line) line) (.ncAtomic op.op op.off op.size op.a op.b) = [] := by
      rw [show dirOf (dirCounted (latch s) line) line = ⟨0, 0, 0xFF, none⟩ from entry]
      simp only [snoopsFor, sharersOf_none, List.filter_nil, List.map_nil]
    have served := startDir_unopposed quiet (state_ne entry (by decide)) (state_ne entry (by decide))
    have ended := finishDir_ncAtomic (d := dirCounted (latch s) line) (c := op.op) (x := op.a) (y := op.b)
      ⟨on, tier, unpacked, held, sound⟩ (congrArg DirEntry.txn entry) ⟨volatile, single, packs⟩ whole within
    have next := exec_ncAtomic sv w (asked.trans (served.trans ended)) ⟨rfl, rfl, rfl, rfl, rfl⟩
    exact ⟨_, next, rfl, rfl, rfl, rfl⟩
  case dequeued =>
    intro s a line sh ow l w sv waits low entry on tier unpacked held sound few coherent ways
    have taken := dequeueLine_first (d := latch s) (congrArg DirEntry.txn entry) waits rfl
    have served := dirServe_starts (d := { latch s with dirWait := s.dev.dirWait.erase (line, .rdShared a) }) (op := .rdShared a) rfl
      (servable_entry entry on few tier (by decide)) ⟨.inl (state_ne entry (by decide)), nofun⟩ (.inl low)
    have granted := startDir_rdShared (d := { latch s with dirWait := s.dev.dirWait.erase (line, .rdShared a) }) entry
      ⟨on, tier, unpacked, held, sound⟩ (.inr rfl) (mayCache_core low coherent)
    have effect := taken.trans (served.trans (granted.trans (dirData_core low l.data false ways)))
    have next := exec_dirReqDequeue sv w effect ⟨rfl, rfl, rfl, rfl, rfl⟩
    have tracked := dirOf_copyGranted (st := 1) (d := { latch s with dirWait := s.dev.dirWait.erase (line, .rdShared a) })
      (congrArg DirEntry.txn entry) (by decide) (addSharer sh a) 0xFF
    exact ⟨_, next, rfl, tracked, rfl, rfl, rfl⟩

end Sys2Proof.Machine
end

section
/-! PROOFS. The time base is legal after every step: one lemma for each change of the clocks, what the three ways of serving a
command (`onDev`, `onState`, `onPin`) leave, and the statements StepServesTheFront, StepKeepsTheTimeBaseLegal and ResetState. -/

namespace Sys2Proof.Machine

open Sys2Proof

/-! ### A legal time base, taken apart -/

/-- Device time, counts and the calendar stand within their widths (R415, R517, R520, R521). -/
structure Clock.Counts (c : Clock) : Prop where
  time : c.time < 2 ^ 64
  count : c.count < 2 ^ 64
  cal : c.cal < 2 ^ 64
  calNs : c.calNs < 1000000000
  ppsGood : c.ppsGood ≤ 3
  ignored : c.ignored ≤ 65535
  synthesised : c.synthesised ≤ 65535
  calForced : c.calForced ≤ 65535

/-- The impression state fits its intervals, its mark and its coasting (R413 to R415). -/
structure Clock.Impression (c : Clock) : Prop where
  state : c.impr ≤ 3
  few : c.intervals.length ≤ 8
  locked : c.impr = 2 → c.intervals.length = 8
  measures : c.impr = 1 ∨ c.impr = 2 → c.from_.isSome = true ∧ c.coasts = 0
  coasting : c.impr = 3 → c.from_ = none

theorem Clock.legal_iff (c : Clock) : c.Legal ↔ c.Impression ∧ c.Counts := by
  constructor
  · rintro ⟨state, few, locked, measures, coasting, time, count, cal, ns, pps, ign, syn, forced⟩
    exact ⟨⟨state, few, locked, measures, coasting⟩, ⟨time, count, cal, ns, pps, ign, syn, forced⟩⟩
  · rintro ⟨⟨state, few, locked, measures, coasting⟩, ⟨time, count, cal, ns, pps, ign, syn, forced⟩⟩
    exact ⟨state, few, locked, measures, coasting, time, count, cal, ns, pps, ign, syn, forced⟩

section
variable {k : Clock} (legal : k.Legal)
include legal

theorem Clock.Legal.impression : k.Impression := ((Clock.legal_iff k).mp legal).1

theorem Clock.Legal.counts : k.Counts := ((Clock.legal_iff k).mp legal).2

/-- A change that leaves the impression fields alone keeps the time base legal where the counts stay within their widths. -/
theorem Clock.Legal.of_counts {e : Clock} (impr : e.impr = k.impr) (intervals : e.intervals = k.intervals)
    (mark : e.from_ = k.from_) (coasts : e.coasts = k.coasts) (counts : e.Counts) : e.Legal := by
  obtain ⟨state, few, locked, measures, coasting⟩ := legal.impression
  exact (Clock.legal_iff e).mpr
    ⟨⟨by rwa [impr], by rwa [intervals], by rwa [impr, intervals], by rwa [impr, mark, coasts], by rwa [impr, mark]⟩, counts⟩

end

/-- What is said of another state than that of the time base. -/
theorem otherState {e : Clock} {i j : Nat} {P : Prop} (is : e.impr = i) (differ : i ≠ j) (other : e.impr = j) : P :=
  absurd (is.symm.trans other) differ

/-- In FREE and COASTING no mark is measured from, and COASTING holds none. -/
theorem Clock.Legal.unmeasured {e : Clock} (state : e.impr = 0 ∨ e.impr = 3) (mark : e.impr = 3 → e.from_ = none)
    (few : e.intervals.length ≤ 8) (counts : e.Counts) : e.Legal := by
  have below : e.impr ≤ 3 := state.elim (fun is => is ▸ Nat.zero_le 3) Nat.le_of_eq
  have other {j : Nat} {P : Prop} (free : 0 ≠ j) (coasts : 3 ≠ j) : e.impr = j → P :=
    state.elim (otherState · free) (otherState · coasts)
  exact (Clock.legal_iff e).mpr ⟨⟨below, few, other (by decide) (by decide),
    fun measures => measures.elim (other (by decide) (by decide)) (other (by decide) (by decide)), mark⟩, counts⟩

theorem reset_legal : Clock.reset.Legal := by decide

/-! ### What keeps a time base legal -/

/-- What comes of a clock, with whatever else, is legal where the clock is. -/
def Clock.Keeps {β : Type} (k : Clock) (x : Clock × β) : Prop := k.Legal → x.1.Legal

theorem Clock.Keeps.same {β : Type} {k : Clock} {b : β} : k.Keeps (k, b) := id

theorem Clock.Keeps.dite {p : Prop} [Decidable p] {β : Type} {k : Clock} {x y : Clock × β} (h : p → k.Keeps x) (g : ¬p → k.Keeps y) :
    k.Keeps (if p then x else y) := by
  split
  · exact h ‹p›
  · exact g ‹¬p›

theorem Clock.Keeps.ite {p : Prop} [Decidable p] {β : Type} {k : Clock} {x y : Clock × β} (h : k.Keeps x) (g : k.Keeps y) :
    k.Keeps (if p then x else y) := .dite (fun _ => h) fun _ => g

/-- The same of clocks alone. -/
theorem Clock.Legal.choice {p : Prop} [Decidable p] {x y : Clock} (h : x.Legal) (g : y.Legal) : (if p then x else y).Legal := by
  split <;> assumption

/-! ### The changes of the time base -/

section
variable {k : Clock} (legal : k.Legal)
include legal

/-- A nanosecond more on the calendar clock (R521). -/
theorem Clock.Legal.calTick : Clock.Legal (if k.calValid then
    (if k.calNs + 1 < 1000000000 then { k with calNs := k.calNs + 1 }
     else { k with cal := (k.cal + 1) % 2 ^ 64, calNs := 0 }) else k) := by
  have n := legal.counts
  refine .choice ?_ legal
  split
  · next below => exact legal.of_counts rfl rfl rfl rfl { n with calNs := below }
  · exact legal.of_counts rfl rfl rfl rfl { n with cal := Nat.mod_lt _ (by decide), calNs := Nat.zero_lt_succ _ }

/-- A cycle of the time base (R517, R518, R521). -/
theorem Clock.Legal.tick : k.tick.Legal :=
  have after := legal.calTick
  have n := after.counts
  .choice (after.of_counts rfl rfl rfl rfl { n with time := Nat.mod_lt _ (by decide) }) <|
    .choice (after.of_counts rfl rfl rfl rfl { n with time := Nat.mod_lt _ (by decide) }) <|
    .choice (after.of_counts rfl rfl rfl rfl { n with time := Nat.mod_lt _ (by decide) })
      (after.of_counts rfl rfl rfl rfl { n with })

/-- A mark counts and places itself, and leaves the impression state (R413). -/
theorem Clock.Legal.markAt (d : Dev) (a : Nat) : (markAt k d a).1.Legal :=
  legal.of_counts rfl rfl rfl rfl { legal.counts with count := Nat.mod_lt _ (by decide) }

theorem keptIntervals_length (d : Dev) : (keptIntervals k d).length ≤ 8 := by
  have few := legal.impression.few
  unfold keptIntervals
  split
  · split
    · exact List.length_take_le ..
    · exact few
  · exact few

/-- An accepted mark is measured from, and LOCKED holds its eight intervals (R414). -/
theorem Clock.Legal.acceptMark (d : Dev) : (acceptMark k d).Legal :=
  have few := keptIntervals_length legal d
  iteInduction (motive := fun i => Clock.Legal
      { k with intervals := keptIntervals k d, from_ := some k.time, coasts := 0, impr := i })
    (fun full => (Clock.legal_iff _).mpr ⟨⟨Nat.le_add_right 2 1, few, fun _ => full, fun _ => ⟨rfl, rfl⟩,
      otherState rfl (by decide : 2 ≠ 3)⟩, { legal.counts with }⟩)
    fun _ => (Clock.legal_iff _).mpr ⟨⟨Nat.le_add_right 1 2, few, otherState rfl (by decide : 1 ≠ 2), fun _ => ⟨rfl, rfl⟩,
      otherState rfl (by decide : 1 ≠ 3)⟩, { legal.counts with }⟩

/-- A synthesised mark leaves the time base COASTING or FREE, with no mark to measure from (R415). -/
theorem Clock.Legal.coasted (d : Dev) : (coasted k d).Legal :=
  .unmeasured (iteInduction (motive := fun i => i = 0 ∨ i = 3) (fun _ => .inl rfl) fun _ => .inr rfl) (fun _ => rfl) legal.impression.few
    { legal.counts with synthesised := Nat.min_le_left .. }

/-- With SOURCE 3 and in FREE nothing is asked of marks and intervals (R413, R415). -/
theorem Clock.Legal.free (from_ : Option Nat) : Clock.Legal { k with impr := 0, from_ := from_ } :=
  .unmeasured (.inl rfl) (otherState rfl (by decide : 0 ≠ 3)) legal.impression.few { legal.counts with }

/-- The synthesised mark of FREE (R415). -/
theorem Clock.Legal.freeMark (off : k.impr = 0) :
    Clock.Legal { k with from_ := none, synthesised := min 65535 (k.synthesised + 1) } := by
  have free := legal.free none
  rw [← off] at free
  exact free.of_counts rfl rfl rfl rfl { free.counts with synthesised := Nat.min_le_left .. }

theorem Clock.Legal.setCalendar (sec ns : Nat) (below : ns < 1000000000) : (setCalendar k sec ns).Legal :=
  legal.of_counts rfl rfl rfl rfl { legal.counts with cal := Nat.mod_lt _ (by decide), calNs := below }

/-- A device reset keeps the calendar alone (R503, R521). -/
theorem Clock.Legal.clearClock : (clearClock k).Legal := by
  have n := legal.counts
  exact reset_legal.of_counts rfl rfl rfl rfl { reset_legal.counts with cal := n.cal, calNs := n.calNs }

end

/-- A mark that arrives is counted as ignored or accepted (R413, R414). -/
theorem arriveMark_keeps (k : Clock) (d : Dev) : k.Keeps (arriveMark k d) :=
  .ite (fun legal => legal.of_counts rfl rfl rfl rfl { legal.counts with ignored := Nat.min_le_left .. })
    fun legal => (legal.acceptMark d).markAt ..

/-! ### Register writes (R8, R413, R521, R524) -/

/-- Of the registers with an effect of their own CAL_SEC, SOURCE and DEVICE_RESET reach the time base. -/
theorem edgeAct_keeps (k : Clock) (d : Dev) (base old m w : Nat) : k.Keeps (edgeAct k d base old m w) :=
  .ite (.ite .same (.ite .same .same)) <| .ite (.ite .same .same) <| .ite .same <|
    .ite (.ite .same fun legal => legal.setCalendar _ 0 (by decide)) <|
    .ite (fun legal => (legal.free k.from_).choice legal) <| .ite (.ite (fun legal => legal.clearClock) .same) <|
    .ite .same <| .ite .same .same

theorem writeReg_keeps (k : Clock) (d : Dev) (r : Reg) (m v : Nat) (self : Bool) : k.Keeps (writeReg k d r m v self) :=
  .ite .same fun legal => edgeAct_keeps k _ _ _ _ _ legal

theorem writeAt_keeps (k : Clock) (d : Dev) (off size m v : Nat) (self : Bool) : k.Keeps (writeAt k d off size m v self) := by
  intro legal
  unfold Machine.writeAt
  generalize regsUnder off size = regs
  suffices ∀ x : Clock × Dev × Wrote, x.1.Legal → Clock.Legal (regs.foldl _ x).1 from this _ legal
  induction regs with
  | nil => exact fun _ lx => lx
  | cons r rest ih => exact fun _ lx => ih _ (writeReg_keeps _ _ _ _ _ _ lx)

theorem procWrite_keeps (k : Clock) (d : Dev) (n off size m v : Nat) : k.Keeps (procWrite k d n off size m v) :=
  have written : k.Keeps (Machine.writeAt k d off size m v false) := writeAt_keeps k d off size m v false
  .ite .same (.ite .same (.ite written written))

theorem issuerWrite_keeps (k : Clock) (d : Dev) (iss : Issuer) (off size v : Nat) : k.Keeps (issuerWrite k d iss off size v) := by
  cases iss with
  | host p => exact .same
  | bar2 p => exact .same
  | compositor => exact procWrite_keeps k d 0 off size (2 ^ 64 - 1) v
  | agent f => exact .ite .same (.ite .same (procWrite_keeps k d (f + 1) off size (2 ^ 64 - 1) v))
  | core c => exact .same

theorem fieldWriteMsg_keeps (k : Clock) (d : Dev) (mb : Nat) (s : Service) : k.Keeps (fieldWriteMsg k d mb s) := by
  unfold Machine.fieldWriteMsg
  dsimp only
  split
  · exact .same
  · exact fun legal => procWrite_keeps k d _ _ _ _ _ legal

theorem impressCmd_keeps (k : Clock) (d : Dev) (tag : Nat) : k.Keeps (impressCmd k d tag) := by
  unfold Machine.impressCmd
  split
  · exact .same
  · exact .ite (.ite .same (.ite .same (arriveMark_keeps k d))) .same

/-! ### The ways of serving a command -/

/-- An outcome from a state with a legal time base and no recovery due is one with both. -/
def KeepsLegal (s : State) (o : Host.Outcome State Fault Refusal) : Prop :=
  s.clk.Legal → s.dev.errq.due = [] → ∀ t, o = .next t → t.clk.Legal ∧ t.dev.errq.due = []

/-- `settle` starts every recovery that was asked for (`settle_due`), so the clocks alone are left to look at. -/
theorem KeepsLegal.settled {s : State} {k : Clock} {old new : Dev} (legal : s.clk.Legal → k.Legal) :
    KeepsLegal s (.next { s with clk := k, dev := settle old new }) := by
  rintro before - t ⟨⟩
  exact ⟨legal before, settle_due ..⟩

theorem KeepsLegal.same (s : State) : KeepsLegal s (.next s) := by
  rintro before due t ⟨⟩
  exact ⟨before, due⟩

theorem KeepsLegal.fault (s : State) (f : Fault) : KeepsLegal s (.fault f) := by
  rintro - - t ⟨⟩

theorem KeepsLegal.onDev (i : Instr) (s : State) (f : Dev → Dev) : KeepsLegal s (onDev i s f) := by
  unfold Machine.onDev
  split
  · split
    · exact .same s
    · exact .settled id
  · exact .fault s _

theorem KeepsLegal.onState {i : Instr} {s : State} {f : Clock → Dev → Clock × Dev} (keeps : ∀ (k : Clock) (d : Dev), k.Keeps (f k d)) :
    KeepsLegal s (onState i s f) := by
  unfold Machine.onState
  split
  · split
    · exact .same s
    · exact .settled (keeps _ _)
  · exact .fault s _

theorem KeepsLegal.onPin {i : Instr} {s : State} {f : Clock → Dev → Clock × Dev} (keeps : ∀ (k : Clock) (d : Dev), k.Keeps (f k d)) :
    KeepsLegal s (onPin i s f) := by
  unfold Machine.onPin
  split
  · exact .settled (keeps _ _)
  · exact .fault s _

/-! ### The commands -/

/-- The count of edges in a row within 20 ns stays at 3 (R520). -/
theorem consecutive_le (near : Bool) (n : Nat) : (if near then min 3 (n + 1) else 0) ≤ 3 := by
  split
  · exact Nat.min_le_left ..
  · exact Nat.zero_le 3

/-- A reply to a time exchange is measured, and may move device time within its width (R518, R519). -/
theorem measured_keeps {k e : Clock} {d : Dev} (time : k.Legal → e.time < 2 ^ 64)
    (same : e = { k with time := e.time, slew := e.slew, offset := e.offset, joined := e.joined, t1 := e.t1 }) : k.Keeps (e, d) := by
  intro legal
  rw [same]
  exact legal.of_counts rfl rfl rfl rfl { legal.counts with time := time legal }

/-- Every command is served in one of the three ways; the cases named are those that see the time base. -/
theorem KeepsLegal.exec (c : Instr) : ∀ s, KeepsLegal s (exec c s) := by
  delta Machine.exec
  induction c <;> intro s
  case fieldRead =>
    refine .onState fun k d => ?_
    split <;> exact .same
  case fieldWrite =>
    refine .onState fun k d => ?_
    split
    · exact .same
    · exact fieldWriteMsg_keeps k d _ _
  case registerWrite => exact .onState fun k d => issuerWrite_keeps k d _ _ _ _
  case scalarLoad => exact .onState fun _ _ => .same
  case scalarStore => exact .onState fun _ _ => .same
  case scalarAmo => exact .onState fun _ _ => .same
  case impress => exact .onState fun k d => impressCmd_keeps k d _
  case setTimestamp => exact .onState fun k d => .ite (fun legal => legal.setCalendar _ _ (Nat.mod_lt _ (by decide))) .same
  case imprSyncEdge => exact .onState fun k d => .ite (arriveMark_keeps k d) .same
  case coastMark => exact .onState fun k d => .ite .same fun legal => (legal.coasted d).markAt ..
  case freeMark => exact .onState fun k d => .dite (fun off legal => (legal.freeMark off).markAt ..) fun _ => .same
  case windowOpen => exact .onState fun k d => .ite .same .same
  case windowClose => exact .onState fun k d => .ite .same .same
  case calForced =>
    exact .onState fun k d => .ite .same fun legal =>
      legal.of_counts rfl rfl rfl rfl { legal.counts with calForced := Nat.min_le_left .. }
  case deviceReset => exact .onState fun k d legal => legal.clearClock
  case flushEnd => exact .onState fun k d => .ite (fun legal => legal.clearClock) .same
  case timeExchange => exact .onState fun k d legal => legal.of_counts rfl rfl rfl rfl { legal.counts with }
  case timeExchangeReply =>
    refine .onState fun k d => ?_
    split
    · exact .same
    · exact .ite (measured_keeps (fun legal => legal.counts.time) rfl)
        (.ite (measured_keeps (fun _ => Nat.mod_lt _ (by decide)) rfl) (measured_keeps (fun legal => legal.counts.time) rfl))
  case timePpsEdge =>
    exact .onState fun k d => .ite .same fun legal =>
      legal.of_counts rfl rfl rfl rfl { legal.counts with ppsGood := consecutive_le .. }
  case ppsLoss =>
    exact .onState fun k d legal => legal.of_counts rfl rfl rfl rfl { legal.counts with ppsGood := Nat.zero_le 3 }
  case calendarWrite => exact .onState fun k d legal => legal.setCalendar _ _ (by decide)
  case perstNAssert => exact .onPin fun _ _ => .same
  case perstNDeassert => exact .onPin fun _ _ => .same
  case resetNRise => exact .onPin fun k d => .ite (fun legal => legal.clearClock) .same
  case resetNFall => exact .onPin fun k d => .ite .same fun legal => legal.clearClock
  case pwrFailNFall => exact .onPin fun _ _ => .same
  case pwrFailNHigh => exact .onPin fun k d => .ite (fun legal => legal.clearClock) .same
  case calOscStop => exact .onPin fun k d legal => legal.of_counts rfl rfl rfl rfl { legal.counts with }
  all_goals exact .onDev _ s _

/-! ### The statements -/

/-- Settles O57, by the two cases of the queue. -/
theorem stepServesTheFront : Obligations.StepServesTheFront := by
  refine ⟨fun c rest s front => ?served, fun s empty => ?idle⟩
  case served => rw [step, front]
  case idle => simp only [step, empty, tick]

/-- Settles O59: an idle cycle is `Clock.Legal.tick`, a command is `KeepsLegal.exec`. -/
theorem stepKeepsTheTimeBaseLegal : Obligations.StepKeepsTheTimeBaseLegal := by
  intro s t legal due next
  unfold step at next
  split at next
  · obtain rfl : tick s = t := by injection next
    unfold tick
    split
    · exact ⟨legal, due⟩
    · exact ⟨legal.tick, due⟩
  · next c rest _ => exact KeepsLegal.exec c { s with pending := rest } legal due t next

/-- Settles O60: the reset state is a closed term. -/
theorem resetState : Obligations.ResetState :=
  ⟨rfl, rfl, rfl, rfl, rfl, rfl, reset_legal, rfl⟩

end Sys2Proof.Machine
end

section
/-! PROOFS. A SEQ_HANDOFF and an IMAGE_PUSH at a mailbox with one of the same kind that the service timer has answered and that
is still to be served (R38): the refutations of SequenceHandoff and FlashMessages. -/

namespace Sys2Proof.Machine

open Sys2Proof

/-- The body of RESOLVE of sequence slot 0 without REINSTATE, with a byte at offset 16. -/
noncomputable def resolveZero (at16 : Nat) : Bytes := [0, 0x50, 2, 0, 0, 0, 0, 0, BitVec.ofNat 8 at16]

/-- Sequence slot 0 of context 0, OFFERED. -/
noncomputable def offeredSlot : Slot := ⟨0, [], 0, 1, 0, 1, 0, 2, 0, false, none, []⟩

/-- RESOLVE of the OFFERED slot 0, behind one whose reserved byte at offset 16 is not zero. -/
noncomputable def resolveBehindLate : State :=
  let s := behindLate 0x0402 (resolveZero 1) (resolveZero 0)
  { s with dev := { s.dev with slots := [(0, offeredSlot)] } }

/-- `inService` finds the RESOLVE with the reserved byte first; its refusal is dropped, and service 1 is left as it was. -/
theorem seqHandoffResolve_serves_late_message :
    leftInPlace (.seqHandoffResolve 0) resolveBehindLate = some (unbegun 1 3 0x0402 (resolveZero 0)) := by
  decide +kernel

/-- Refutes O23: its fourth clause says that the RESOLVE in place is answered, and leaves free what the timer has answered at the
same mailbox, which SEQ_HANDOFF serves first. -/
theorem not_sequenceHandoff : ¬ Obligations.SequenceHandoff := by
  unfold Obligations.SequenceHandoff
  rintro ⟨-, -, -, reports, -⟩
  have reported := reports resolveBehindLate 0 0 (unbegun 1 3 0x0402 (resolveZero 0)) offeredSlot
    rfl (by decide) rfl rfl rfl rfl rfl rfl rfl (by decide) rfl rfl rfl (by decide) rfl rfl rfl rfl
  have left := seqHandoffResolve_serves_late_message
  rw [leftInPlace_next reported] at left
  exact absurd (congrArg (Option.map Service.busy) left) (by decide)

/-- IMAGE_PUSH of no bytes, its parameter block read. -/
noncomputable def emptyPush : Service := { unbegun 1 3 0x0F01 [] with params := some [] }

/-- The device in RECOVERY with the IMAGE_PUSH of no bytes in place, behind one whose reserved bytes from offset 8 on are not
zero. -/
noncomputable def pushBehindLate : State :=
  let s := behindLate 0x0F01 [1] []
  { s with dev := { s.dev with
      boot := { s.dev.boot with phase := 2 }
      mbx := [(0, { Mailbox.reset with
        bound := true, priv := 3, svc := some emptyPush, late := [unbegun 0 3 0x0F01 [1]] })] } }

/-- `inService` finds the malformed IMAGE_PUSH first; its refusal is dropped, and the one in place has no reply. -/
theorem imagePush_serves_late_message : leftInPlace (.imagePush 0) pushBehindLate = some emptyPush := by
  decide +kernel

/-- Refutes O9: its first clause says that the IMAGE_PUSH in place is answered, and leaves free what the timer has answered at the
same mailbox, which IMAGE_PUSH serves first. -/
theorem not_flashMessages : ¬ Obligations.FlashMessages := by
  unfold Obligations.FlashMessages
  rintro ⟨pushes, -⟩
  obtain ⟨t, next, -, answered, -⟩ := pushes pushBehindLate 0 emptyPush []
    rfl (by decide) rfl rfl rfl rfl rfl rfl rfl rfl rfl (by decide) (by decide) rfl rfl rfl
  have left := imagePush_serves_late_message
  rw [leftInPlace_next next] at left
  rw [left] at answered
  cases answered

end Sys2Proof.Machine
end

section
/-! PROOFS. States in which a command does more than its statement says: the refutations of TimeTransferAndCalendar,
ScrubSelftestAndRecovery, HeartbeatsAndLease, SwitchCells, MapAgreement, LinkStates and FlitsAndFrames. -/

namespace Sys2Proof.Machine

open Sys2Proof

/-- The device up with every floe ON, changed by `f`. -/
noncomputable def upBut (f : Dev → Dev) : State :=
  { upWith [] [] with dev := f (upWith [] []).dev }

/-- What a command that answers a next state leaves of what `f` reads. -/
noncomputable def leaves {α : Type} (i : Instr) (s : State) (f : State → α) : Option α :=
  match exec i s with
  | .next t => some (f t)
  | _ => none

theorem leaves_next {α : Type} {i : Instr} {s t : State} (f : State → α) (h : exec i s = .next t) : leaves i s f = some (f t) := by
  rw [leaves, h]

/-! ### TimeTransferAndCalendar -/

/-- A frame seen at a link, of which no mirror session has taken its copy yet. -/
noncomputable def frameSeen : State := upBut fun d => { d with sw := { d.sw with seen := [(0, [])] } }

/-- Every command ends by showing what was seen to the mirror sessions (R383). -/
theorem calOscStop_empties_seen : leaves .calOscStop frameSeen (·.dev.sw.seen) = some [] := by
  decide +kernel

/-- Refutes O35: its last clause says that CAL_OSC_STOP changes nothing but the calendar in every state without a record due, yet
it also shows the mirror sessions the frames that have been seen. -/
theorem not_timeTransferAndCalendar : ¬ Obligations.TimeTransferAndCalendar := by
  unfold Obligations.TimeTransferAndCalendar
  rintro ⟨-, -, -, -, stops⟩
  have emptied := calOscStop_empties_seen
  rw [leaves_next _ (stops frameSeen rfl rfl)] at emptied
  exact absurd emptied (by decide)

/-! ### ScrubSelftestAndRecovery -/

/-- A recovery of the switch core, with the record of its time-out open from an earlier one. -/
noncomputable def recoveryReported : State := upBut fun d =>
  { d with sw := { d.sw with recovering := true }, errq := { d.errq with opens := [⟨8, 0, 4, 0, 13, 0⟩] } }

/-- An error whose record is open forms none, and what it asks for does not follow again (R445). -/
theorem switchRecoveryTimeout_does_not_fail : leaves .switchRecoveryTimeout recoveryReported (·.dev.boot.failed) = some false := by
  decide +kernel

/-- Refutes O37: its sixth clause says that a recovery of the switch core that does not end in time fails the device, and leaves
free a record of the same event that is still open. -/
theorem not_scrubSelftestAndRecovery : ¬ Obligations.ScrubSelftestAndRecovery := by
  unfold Obligations.ScrubSelftestAndRecovery
  rintro ⟨-, -, -, -, -, times_out, -⟩
  obtain ⟨t, next, failed, -⟩ := times_out recoveryReported rfl (by decide) rfl rfl
  have kept := switchRecoveryTimeout_does_not_fail
  rw [leaves_next _ next, failed] at kept
  exact absurd kept (by decide)

/-! ### HeartbeatsAndLease -/

/-- Link 0 ACTIVE with credit, and with bytes for one flit that the flits sent so far have not taken. -/
noncomputable def flitOwed : State := upBut fun d =>
  { d with links := [(0, { Link.reset with state := 6, credit := [(3, 1)], tx := zeros 496 })] }

/-- Both flits go out. -/
theorem heartbeatSend_sends_two_flits : leaves .heartbeatSend flitOwed (·.dev.out.length) = some 2 := by
  decide +kernel

/-- Refutes O21: its first clause says that HEARTBEAT_SEND sends one flit, and leaves free what the link has still to send of its
frame stream. -/
theorem not_heartbeatsAndLease : ¬ Obligations.HeartbeatsAndLease := by
  unfold Obligations.HeartbeatsAndLease
  rintro ⟨sends, -⟩
  obtain ⟨t, next, one, -⟩ := sends flitOwed 0 rfl (by decide) rfl (by decide) (by decide) rfl (by decide) (by decide)
  have two := heartbeatSend_sends_two_flits
  rw [leaves_next _ next, one] at two
  exact absurd two (by decide)

/-! ### SwitchCells -/

/-- The last of the two cells of frame 0 at port 0 to an output that is a link, its check failed. -/
noncomputable def failedCell : Cell := ⟨0, 12, 0, 0, 2, false, [], 0, 0, 0⟩

/-- Its other cell waits at the input for room. -/
noncomputable def otherCellWaits : State := upBut fun d => { d with sw := { d.sw with waiting := [(0, 0, 12, 0, 1)] } }

/-- With both cells come the frame is dropped whole. -/
theorem cellReceive_drops_frame :
    leaves (.cellReceive 0 failedCell) otherCellWaits (fun t => (tget? t.dev.sw.frames (frameKey 0 0)).map (·.aborted)) = some none := by
  decide +kernel

/-- Refutes O32: its second clause says that the frame of a failed cell stands aborted, and leaves free the cells that wait at the
input, with which the frame may be complete. -/
theorem not_switchCells : ¬ Obligations.SwitchCells := by
  unfold Obligations.SwitchCells
  rintro ⟨-, aborts, -⟩
  obtain ⟨t, next, aborted, -⟩ := aborts otherCellWaits 0 failedCell rfl (by decide) (by decide) rfl (by decide) (by decide)
    (by decide) rfl rfl
  have dropped := cellReceive_drops_frame
  rw [leaves_next _ next] at dropped
  change some (Option.map (·.aborted) (tget? t.dev.sw.frames (frameKey 0 failedCell.frame))) = some none at dropped
  rw [aborted] at dropped
  exact absurd dropped (by decide)

/-! ### MapAgreement -/

/-- A node that is JOINED, a manager and without links. -/
noncomputable def joinedNode : NodeEntry := ⟨1, true, false, 0, 0, 0, [], []⟩

/-- The map of an epoch with these managers, of five, and nodes. -/
noncomputable def mapOf (epoch : Nat) (managers : List Nat) (nodes : List (Nat × NodeEntry)) : DomainMap :=
  { epoch := epoch, domain := 0, partner := 0, managerCount := 5, managers := managers, nodes := nodes, formes := [] }

/-- A configuration record whose node number is below 256. -/
noncomputable def recordOfNode (n : Nat) : Bytes := zeros 36 ++ [BitVec.ofNat 8 n, 0]

/-- The coordinator with a proposal of epoch 1 that two others have accepted.  Link 0 is ACTIVE, which the proposal's map does not
say. -/
noncomputable def nearlyCommitted : State := upBut fun d =>
  { d with
    boot := { d.boot with record := some (recordOfNode 1) }
    links := [(0, { Link.reset with state := 6, peer := 2 })]
    mbr := { d.mbr with
      map := mapOf 0 [1] [], proposing := some ⟨1, mapOf 1 [1] [(1, joinedNode)]⟩, accepts := [2, 3] } }

set_option maxRecDepth 1000 in
/-- The commit is followed by a proposal of the state of link 0. -/
theorem accept_begins_next_proposal : leaves (.accept 1 1) nearlyCommitted (·.dev.mbr.accepts) = some [1] := by
  decide +kernel

/-- Refutes O19: its third clause says that no proposal is under way after the commit, yet adopting the map may bring out a link
whose state the map does not hold, which is the next proposal. -/
theorem not_mapAgreement : ¬ Obligations.MapAgreement := by
  unfold Obligations.MapAgreement
  rintro ⟨-, -, commits, -⟩
  obtain ⟨t, next, -, -, accepts, -⟩ := commits nearlyCommitted 1 1 _ rfl (by decide) rfl rfl rfl rfl (by decide) (by decide)
    (by decide) (by decide) rfl rfl
  have proposed := accept_begins_next_proposal
  rw [leaves_next _ next, accepts] at proposed
  exact absurd proposed (by decide)

/-! ### LinkStates -/

/-- Node 9, next in line behind node 5, which it reaches over link 0 and suspects over link 1. -/
noncomputable def behindCoordinator : State := upBut fun d =>
  { d with
    boot := { d.boot with record := some (recordOfNode 9) }
    links := [(0, { Link.reset with state := 2, peer := 5, auth := true }), (1, { Link.reset with peer := 5, suspected := true })]
    mbr := { d.mbr with joined := true, map := mapOf 0 [5, 9] [(5, joinedNode), (9, joinedNode)] } }

/-- With link 0 gone node 9 is the coordinator, and the change of its own link waits here. -/
theorem phyTrainTimeout_changes_mbr :
    leaves (.phyTrainTimeout 0) behindCoordinator (fun t => decide (t.dev.mbr = behindCoordinator.dev.mbr)) = some false := by
  decide +kernel

/-- Refutes O30: its third clause says that membership is left as it was where this device is not the coordinator before, yet the
loss of the link can make it the coordinator. -/
theorem not_linkStates : ¬ Obligations.LinkStates := by
  unfold Obligations.LinkStates
  rintro ⟨-, -, trains, -⟩
  obtain ⟨t, next, -, -, frame⟩ := trains behindCoordinator 0 rfl (by decide) (by decide) rfl rfl (.inr (by decide))
  have mbr : t.dev.mbr = behindCoordinator.dev.mbr :=
    (congrArg (fun t : State => t.dev.mbr) frame).trans rfl
  have changed := phyTrainTimeout_changes_mbr
  rw [leaves_next _ next, mbr] at changed
  exact absurd changed (by decide +kernel)

/-! ### FlitsAndFrames -/

/-- An empty frame at link 0, which mirror session 0 selects and copies into a ring at address 0, on a page that is mirrored to
the twin. -/
noncomputable def ringMirrored : State := upBut fun d =>
  { d with
    links := [(0, { Link.reset with rx := [[]] })]
    regs := [(0x04802000, 665), (0x048E0108, 1), (0x048E0104, 1)]
    pages := [(0, { Page.unplaced with tier := 1, twin := true })] }

/-- The copy marks the page for the twin (R496). -/
theorem frameReceive_marks_page : leaves (.frameReceive 0) ringMirrored (·.dev.mbr.marked) = some [0] := by
  decide +kernel

/-- Refutes O31: its seventh clause says that a frame copied into the capture ring leaves membership as it was, yet a ring on a
mirrored page marks that page to be copied to the twin. -/
theorem not_flitsAndFrames : ¬ Obligations.FlitsAndFrames := by
  unfold Obligations.FlitsAndFrames
  rintro ⟨-, -, -, -, -, -, captures, -⟩
  obtain ⟨t, next, -, -, -, -, -, -, mbr, -⟩ := captures ringMirrored 0 1 [] [] rfl (by decide) rfl rfl rfl rfl
    (by decide) (by decide) (by decide) (by decide) (by decide) (by decide) (.inl (by decide)) (by decide +kernel)
  have marked := frameReceive_marks_page
  rw [leaves_next _ next, mbr] at marked
  exact absurd marked (by decide)

end Sys2Proof.Machine
end

section
/-! PROOFS. A DCHAIN over an operand that its stream has latched, which goes with the instruction: the refutation of
DmaChannels. -/

namespace Sys2Proof.Machine

open Sys2Proof

/-- DCHAIN of the descriptor at the start of local memory. -/
noncomputable def chainAtZero : TInstr := ⟨0x28, 0, 0, 0, false⟩

/-- Core 0 runs, with DCHAIN at the head of the queue of its channel 0 and an operand latched for that queue. -/
noncomputable def chainLatched : State :=
  { upWith [] [] with dev := { (upWith [] []).dev with
      cores := [(0, { Core.idle with
        state := 2, streams := [(2, ⟨[chainAtZero], []⟩)], latched := [(2, [])], chans := [(0, { Chan.idle with state := 1 })] })] } }

/-- What DCHAIN leaves latched at core 0. -/
noncomputable def latchedByChain (s : State) : Option (Tab Bytes) :=
  match execDchain 0 0 s with
  | .next t => some (coreOf t.dev 0).latched
  | _ => none

/-- The head of a stream takes with it the operand that was latched for it. -/
theorem dchain_drops_latched : latchedByChain chainLatched = some [] := by
  decide +kernel

/-- Refutes O53: its first clause says that DCHAIN leaves what the core has latched, and leaves free an operand latched for the
very stream whose head it takes. -/
theorem not_dmaChannels : ¬ Obligations.DmaChannels := by
  unfold Obligations.DmaChannels
  rintro ⟨takes_up, -⟩
  have next := takes_up chainLatched 0 0 chainAtZero rfl (by decide) (by decide) rfl rfl
  have dropped := dchain_drops_latched
  change execDchain 0 0 chainLatched = _ at next
  rw [latchedByChain, next] at dropped
  exact absurd dropped (by decide)

end Sys2Proof.Machine
end

section
/-! PROOFS. The reads and the write that clear what they return or acknowledge, and the discipline of device time by TIME_PPS: the
statements CountersAndAcknowledgement and TimePps. -/

namespace Sys2Proof.Machine

open Sys2Proof

/-! ### Acknowledgements and counters (R412, R432, R447) -/

/-- A command of a serving device that asks for no recovery, wants no tag and sends no frame, and leaves the boot state alone: its
effect alone. -/
theorem onDev_answers {i : Instr} {s : State} {f : Dev → Dev} {e : Dev} (w : i.wellFormed = true) (sv : Serving s)
    (effect : f (latch s) = e) (due : e.errq.due = s.dev.errq.due) (wait : e.tagWait = s.dev.tagWait)
    (tags : e.tagHeld = s.dev.tagHeld) (sw : e.sw = s.dev.sw) (boot : e.boot = s.dev.boot) :
    onDev i s f = .next { s with dev := e } := by
  obtain ⟨held, none_due, none_wait, none_held, sent⟩ := sv
  have quiet : settle (latch s) e = e :=
    settle_quiet (due.trans none_due) boot (wait.trans none_wait) (tags.trans none_held) (by rw [sw]; exact sent)
  rw [onDev_next f w held, effect, quiet]

/-- Settles O13: the write and each of the three reads act on what they name, and nothing follows. -/
theorem countersAndAcknowledgement : Obligations.CountersAndAcknowledgement := by
  unfold Obligations.CountersAndAcknowledgement
  refine ⟨?ack, ?status, ?ecc, ?arb⟩
  case ack =>
    intro s v w sv
    change execErrqAck v s = _
    exact onDev_answers w sv rfl rfl rfl rfl rfl rfl
  case status =>
    intro s w sv
    change execErrqStatusRead s = _
    exact onDev_answers w sv rfl rfl rfl rfl rfl rfl
  case ecc =>
    intro s f u w sv on
    change execEccCountsRead f u s = _
    exact onDev_undisturbed w sv (if_pos on) ⟨rfl, rfl, rfl, rfl, rfl⟩
  case arb =>
    intro s f a w sv on
    change execArbCountsRead f a s = _
    exact onDev_undisturbed w sv (if_pos on) ⟨rfl, rfl, rfl, rfl, rfl⟩

/-! ### TIME_PPS (R520) -/

/-- The count of near edges reaches three with this one where it is near and two came before. -/
theorem third_near_edge (off good : Nat) :
    ((if off ≤ 20 then min 3 (good + 1) else 0) == 3) = decide (off ≤ 20 ∧ 2 ≤ good) := by
  by_cases near : off ≤ 20
  · rw [if_pos near]
    have third : min 3 (good + 1) = 3 ↔ 3 ≤ good + 1 := ⟨fun full => full ▸ Nat.min_le_right .., Nat.min_eq_left⟩
    exact decide_eq_decide.mpr (third.trans (Nat.succ_le_succ_iff.trans (and_iff_right near).symm))
  · rw [if_neg near]
    exact (decide_eq_false fun both => near both.1).symm

/-- Settles O36: an edge acts on the time base alone, and only with PPS_EN set. -/
theorem timePps : Obligations.TimePps := by
  unfold Obligations.TimePps
  refine ⟨?accepted, ?disabled, ?lost⟩
  case accepted =>
    intro s w sv en
    change execTimePpsEdge s = _
    refine onState_clock w sv ?_
    have on : rf (latch s) 0x04A00000 0 1 ≠ 0 := by
      rw [show rf (latch s) 0x04A00000 0 1 = 1 from en]
      decide
    simp only [if_neg on, decide_eq_true_eq, third_near_edge, gt_iff_lt]
  case disabled =>
    intro s w sv en
    change execTimePpsEdge s = _
    exact onState_clock w sv (if_pos en)
  case lost =>
    intro s w sv
    change execPpsLoss s = _
    exact onState_clock w sv rfl

end Sys2Proof.Machine
end

section
/-! PROOFS. The CXL mailbox and SPDM at a port whose link is up (R361, R515, R521): what an answer leaves, the bytes of the answers,
and the statement CxlMailbox. -/

namespace Sys2Proof.Machine

open Sys2Proof

/-! ### An answer -/

/-- The device once port `port`, with the registers `p`, has answered: its link is in L0. -/
noncomputable def mailAnswered (d : Dev) (port code : Nat) (b : Bytes) (p : Port) : Dev :=
  { d with ports := tput d.ports port (wake p), free := d.free + 1, out := .mailbox port code b :: d.out }

theorem mailReply_up {d : Dev} {port : Nat} (code : Nat) (b : Bytes) (up : linkUp (portOf d port) = true) :
    mailReply d port code b = mailAnswered d port code b (portOf d port) := by
  rw [mailReply, if_pos up]
  rfl

/-- An answer after a change of the port's registers that leaves its link up. -/
theorem mailReply_setPort {d : Dev} {port : Nat} {p : Port} (code : Nat) (b : Bytes) (up : linkUp p = true) :
    mailReply (setPort d port p) port code b = mailAnswered d port code b p := by
  rw [mailReply_up code b (by rwa [portOf_setPort_self]), portOf_setPort_self]
  simp [mailAnswered, setPort]

/-- Nothing follows an answer. -/
theorem settle_mailAnswered {s : State} (sv : Serving s) (port code : Nat) (b : Bytes) (p : Port) :
    settle (latch s) (mailAnswered (latch s) port code b p) = mailAnswered (latch s) port code b p := by
  obtain ⟨-, due, wait, tags, sent⟩ := sv
  exact settle_quiet due rfl wait tags sent

/-- A mailbox command of a serving device answers, and nothing follows. -/
theorem onDev_mailAnswered {i : Instr} {s : State} {f : Dev → Dev} {port code : Nat} {b : Bytes} {p : Port}
    (w : i.wellFormed = true) (sv : Serving s) (effect : f (latch s) = mailAnswered (latch s) port code b p) :
    onDev i s f = .next { s with dev := mailAnswered (latch s) port code b p } :=
  onDev_undisturbed w sv effect ⟨rfl, rfl, rfl, rfl, rfl⟩

/-- The clauses on an answer of which they say one thing. -/
theorem mailAnswered_answers {o : Host.Outcome State Fault Refusal} {s : State} {port code : Nat} {b : Bytes} {p : Port}
    {P : State → Prop} (next : o = .next { s with dev := mailAnswered (latch s) port code b p })
    (fact : P { s with dev := mailAnswered (latch s) port code b p }) : ∃ t, o = .next t ∧ P t ∧
      t = { s with dev := { latch s with ports := t.dev.ports, free := t.dev.free, out := t.dev.out } } :=
  ⟨_, next, fact, rfl⟩

theorem portOf_mailAnswered (d : Dev) (port code : Nat) (b : Bytes) (p : Port) :
    portOf (mailAnswered d port code b p) port = wake p := tget_tput_self ..

theorem wake_events (p : Port) : (wake p).events = p.events := by unfold wake; split <;> rfl

theorem wake_policy (p : Port) : (wake p).policy = p.policy := by unfold wake; split <;> rfl

/-! ### Bytes of the answers -/

/-- Any bytes are those of a number. -/
theorem exists_leBytes (b : Bytes) : ∃ x, b = leBytes b.length x := by
  induction b with
  | nil => exact ⟨0, rfl⟩
  | cons h t ih =>
    obtain ⟨x, tail⟩ := ih
    have rest : (h.toNat + 256 * x) / 256 = x :=
      (Nat.add_mul_div_left _ _ (by decide)).trans (by rw [Nat.div_eq_of_lt h.isLt, Nat.zero_add])
    have first : BitVec.ofNat 8 (h.toNat + 256 * x) = h :=
      BitVec.eq_of_toNat_eq ((Nat.add_mul_mod_self_left ..).trans (Nat.mod_eq_of_lt h.isLt))
    exact ⟨h.toNat + 256 * x, by rw [List.length_cons, leBytes, first, rest, ← tail]⟩

/-- The Command Effects Log has an entry for each command, in their order. -/
theorem effects_log (effects : Nat → Nat) :
    (mailCodes.zip (List.range mailCodes.length)).flatMap (fun c => leBytes 2 c.1 ++ leBytes 2 (effects c.2)) =
      (List.range mailCodes.length).flatMap (fun i => leBytes 2 (mailCodes.getD i 0) ++ leBytes 2 (effects i)) := rfl

/-- The records of an answer to GET_EVENT_RECORDS, each with its number. -/
noncomputable def eventRecords (d : Dev) (l : List CxlEvent) : Bytes :=
  (l.zip (List.range l.length)).flatMap (fun e => eventRecord d e.2 e.1)

/-- A conjunction bit by bit, its lowest byte apart. -/
theorem and_low_byte (a b : Nat) : a &&& b = (a % 2 ^ 8 &&& b % 2 ^ 8) + 2 ^ 8 * (a / 2 ^ 8 &&& b / 2 ^ 8) :=
  (Nat.mod_add_div (a &&& b) (2 ^ 8)).symm.trans (by rw [Nat.and_mod_two_pow, Nat.and_div_two_pow])

/-- The byte of a policy at place `i`, without its reserved bits. -/
noncomputable def policyByte (v i : Nat) : Nat := v / 2 ^ (8 * i) % 256 &&& 0xF3

/-- A conjunction with 0xF3 in its lowest byte, from place `i` on: that byte, and what stands above it. -/
theorem and_byte_at (v m acc i : Nat) : acc + 2 ^ (8 * i) * (v / 2 ^ (8 * i) &&& (0xF3 + 2 ^ 8 * m)) =
    acc + 2 ^ (8 * i) * policyByte v i + 2 ^ (8 * (i + 1)) * (v / 2 ^ (8 * (i + 1)) &&& m) := by
  have low : (0xF3 + 2 ^ 8 * m) % 2 ^ 8 = 0xF3 := Nat.add_mul_mod_self_left ..
  have high : (0xF3 + 2 ^ 8 * m) / 2 ^ 8 = m := (Nat.add_mul_div_left _ _ (by decide)).trans (Nat.zero_add m)
  rw [and_low_byte, low, high, Nat.mul_succ, Nat.pow_add, Nat.div_div_eq_div_mul, Nat.mul_add, Nat.mul_assoc, Nat.add_assoc]
  rfl

/-- The policy is kept byte by byte without the reserved bits [3:2]. -/
theorem and_policyMask (v : Nat) :
    v &&& policyMask = (List.range 5).foldl (fun n i => n + 2 ^ (8 * i) * (v / 2 ^ (8 * i) % 256 &&& 0xF3)) 0 :=
  calc
    v &&& policyMask = 0 + 2 ^ (8 * 0) * (v / 2 ^ (8 * 0) &&& policyMask) := by
      rw [Nat.zero_add, Nat.mul_zero, Nat.pow_zero, Nat.div_one, Nat.one_mul]
    _ = _ := (and_byte_at v 0xF3F3F3F3 _ 0).trans <| (and_byte_at v 0xF3F3F3 _ 1).trans <| (and_byte_at v 0xF3F3 _ 2).trans <|
      (and_byte_at v 0xF3 _ 3).trans (and_byte_at v 0 _ 4)
    _ = _ := by
      rw [Nat.and_zero, Nat.mul_zero, Nat.add_zero]
      rfl

/-! ### The statement -/

/-- Settles O28: every command answers by `mailReply`, whose effect on a port whose link is up is `mailAnswered`. -/
theorem cxlMailbox : Obligations.CxlMailbox := by
  unfold Obligations.CxlMailbox
  refine ⟨?identify, ?logs, ?log, ?events, ?clear, ?policy, ?set_policy, ?health, ?timestamp, ?set_timestamp, ?keyed, ?chain⟩
  case identify =>
    intro s port w sv up
    change ∃ t, execIdentifyMemoryDevice port s = _ ∧ _
    exact mailAnswered_answers (onDev_mailAnswered w sv (mailReply_up _ _ up)) ⟨_, _, _, _, rfl⟩
  case logs =>
    intro s port w sv up
    change execGetSupportedLogs port s = _
    exact onDev_mailAnswered w sv (mailReply_up (d := latch s) _ _ up)
  case log =>
    intro s port w sv up
    change ∃ t, execGetLog port s = _ ∧ _
    refine mailAnswered_answers (onDev_mailAnswered w sv (mailReply_up _ _ up))
      ⟨fun i => bits (freeVal (latch s)) (16 * i) 12, ?_⟩
    rw [← effects_log]
    rfl
  case events =>
    intro s port n w sv up
    change ∃ t, execGetEventRecords port n s = _ ∧ _
    refine mailAnswered_answers (onDev_mailAnswered w sv (mailReply_up _ _ up))
      ⟨zeros 10 ++ eventRecords (latch s) ((portOf s.dev port).events.take n), ?_⟩
    exact congrArg (fun b => Out.mailbox port 0x0100 b :: s.dev.out) (List.append_assoc ..)
  case clear =>
    intro s port n w sv up
    change ∃ t, execClearEventRecords port n s = _ ∧ _
    refine ⟨_, onDev_mailAnswered w sv ((if_pos up).trans (mailReply_setPort _ _ up)), ?_, rfl, rfl⟩
    rw [portOf_mailAnswered, wake_events]
    rfl
  case policy =>
    intro s port w sv up
    change execGetEventInterruptPolicy port s = _
    exact onDev_mailAnswered w sv (mailReply_up (d := latch s) _ _ up)
  case set_policy =>
    intro s port v w sv up
    change ∃ t, execSetEventInterruptPolicy port v s = _ ∧ _
    refine mailAnswered_answers (onDev_mailAnswered w sv ((if_pos up).trans (mailReply_setPort _ _ up))) ?_
    rw [portOf_mailAnswered, wake_policy, ← and_policyMask]
  case health =>
    intro s port w sv up
    change ∃ t, execGetHealthInfo port s = _ ∧ _
    obtain ⟨x, health⟩ := exists_leBytes (freeBits (latch s) 4 ++ freeBytes (useFree (latch s)) 1 ++
      freeBits (useFree (useFree (latch s))) 6 ++ freeBytes (useFree (useFree (useFree (latch s)))) 1)
    refine mailAnswered_answers (onDev_mailAnswered w sv (mailReply_up _ _ up)) ⟨x, Config.free (s.dev.free + 1 + 1 + 1 + 1), ?_⟩
    rw [mailAnswered, health]
    rfl
  case timestamp =>
    intro s port w sv up
    change execGetTimestamp port s = _
    exact onDev_mailAnswered w sv (mailReply_up (d := latch s) _ _ up)
  case set_timestamp =>
    intro s port v w sv up
    change ∃ t, execSetTimestamp port v s = _ ∧ _
    have answered : mailReply (latch s) port 0x0301 [] = mailAnswered (latch s) port 0x0301 [] (portOf s.dev port) :=
      mailReply_up _ _ up
    refine ⟨_, onState_settled w sv.1 ((if_pos up).trans (congrArg _ answered)) ?_, rfl, rfl, rfl, rfl, rfl⟩
    exact settle_mailAnswered sv ..
  case keyed =>
    intro s port op w sv up keyed no_identity
    change execSpdmRequest port op s = _
    have up' : linkUp (portOf (latch s) port) = true := up
    have refused : spdmKeyed op = true ∧ (!(latch s).boot.identity) = true := ⟨keyed, by rw [latch_boot, no_identity]; rfl⟩
    exact onDev_mailAnswered w sv ((if_neg (by rw [up']; decide)).trans ((if_pos refused).trans (mailReply_up _ _ up')))
  case chain =>
    intro s port w sv up
    change execSpdmRequest port 0x82 s = _
    have up' : linkUp (portOf (latch s) port) = true := up
    have plain : ¬(spdmKeyed 0x82 = true ∧ (!(latch s).boot.identity) = true) := fun keyed => absurd keyed.1 (by decide)
    exact onDev_mailAnswered w sv ((if_neg (by rw [up']; decide)).trans
      ((if_neg plain).trans ((if_pos rfl).trans (mailReply_up _ _ up'))))

end Sys2Proof.Machine
end

section
/-! PROOFS. What a device reset leaves (R503, R524, R534), and the statement DeviceReset. -/

namespace Sys2Proof.Machine

open Sys2Proof

/-- The straps, PWR_FAIL_N, the pages and the bytes of both devices are the same. -/
structure Kept (d e : Dev) : Prop where
  slotId : e.boot.slotId = d.boot.slotId
  bootMode : e.boot.bootMode = d.boot.bootMode
  pwrLow : e.boot.pwrLow = d.boot.pwrLow
  pages : e.pages = d.pages
  mem : e.mem = d.mem

/-- A flash write that is abandoned leaves all but what boot finds in flash. -/
theorem abandonFlash_kept (d : Dev) : Kept d (abandonFlash d) := by
  unfold abandonFlash
  split
  · exact ⟨rfl, rfl, rfl, rfl, rfl⟩
  · exact iteInduction (motive := fun b => Kept d { d with boot := b }) (fun _ => ⟨rfl, rfl, rfl, rfl, rfl⟩)
      fun _ => ⟨rfl, rfl, rfl, rfl, rfl⟩

/-- Nothing follows a command that leaves a device in reset, or at the first steps of boot. -/
theorem settle_restarted {old new : Dev} (due : new.errq.due = []) (wait : new.tagWait = []) (tags : new.tagHeld = [])
    (sent : new.sw.seen = []) (failed : new.boot.failed = false)
    (first : new.boot.phase = 0 ∨ new.boot.phase = 1 ∧ new.boot.running = false ∧ new.boot.flushing = false) :
    settle old new = new := by
  have recoveries : runDue 16 new = new := by rw [runDue, due]
  have links : failLinks old new = new := by rw [failLinks, failed]; rfl
  unfold settle
  rw [mirrorSent_none sent, recoveries, links, settleTags_idle wait tags]
  dsimp only
  rw [if_pos]
  cases first with
  | inl reset => exact .inr (.inl (by simp [devState, reset]))
  | inr boot =>
    obtain ⟨phase, running, flushing⟩ := boot
    exact .inr (.inr (.inr ⟨phase, by simp [running], by simp [flushing]⟩))

/-- The first device, reset, is the second, but for the mailboxes, ports and membership that boot sets up. -/
structure Cleared (d e : Dev) : Prop where
  slotId : e.boot.slotId = d.boot.slotId
  bootMode : e.boot.bootMode = d.boot.bootMode
  pwrLow : e.boot.pwrLow = d.boot.pwrLow
  pages : e.pages = d.pages.filter (fun p => p.2.durable)
  mem : e.mem = d.mem.filter (fun c => thas (d.pages.filter (fun p => p.2.durable)) (c.1 / 65536))
  regs : e.regs = []
  ctxs : e.ctxs = Dev.reset.ctxs
  galleys : e.galleys = []
  cmds : e.cmds = []
  cores : e.cores = []
  cache : e.cache = []
  dir : e.dir = []
  errq : e.errq = ErrQ.reset
  quiet : ∀ old, settle old e = e

/-- What is abandoned or put out first does not show after the reset. -/
theorem Cleared.of_kept {d c e : Dev} (kept : Kept d c) (h : Cleared c e) : Cleared d e where
  slotId := h.slotId.trans kept.slotId
  bootMode := h.bootMode.trans kept.bootMode
  pwrLow := h.pwrLow.trans kept.pwrLow
  pages := kept.pages ▸ h.pages
  mem := kept.pages ▸ kept.mem ▸ h.mem
  regs := h.regs
  ctxs := h.ctxs
  galleys := h.galleys
  cmds := h.cmds
  cores := h.cores
  cache := h.cache
  dir := h.dir
  errq := h.errq
  quiet := h.quiet

/-- A reset after which boot has begun. -/
structure Restarted (d e : Dev) : Prop extends Cleared d e where
  held : e.boot.held = false
  phase : e.boot.phase = 1

/-- Boot of a cleared device: neither without a record nor with one does it touch what was cleared. -/
theorem startBoot_restarted (d : Dev) : Restarted d (startBoot { clearDevice d with now := 0 }) := by
  unfold startBoot
  extract_lets
  split <;> exact ⟨⟨rfl, rfl, rfl, rfl, rfl, rfl, rfl, rfl, rfl, rfl, rfl, rfl, rfl,
    fun _ => settle_restarted rfl rfl rfl rfl rfl (.inr ⟨rfl, rfl, rfl⟩)⟩, rfl, rfl⟩

/-- A device reset without the pin. -/
theorem resetDevice_restarted (k : Clock) (d : Dev) : Restarted d (resetDevice k d).2 :=
  have again := startBoot_restarted (abandonFlash d)
  ⟨again.of_kept (abandonFlash_kept d), again.held, again.phase⟩

/-- The device that RESET_N holds in reset. -/
noncomputable def heldInReset (d : Dev) : Dev :=
  { clearDevice d with boot := { (clearDevice d).boot with held := true, tripped := false } }

theorem heldInReset_cleared (d : Dev) : Cleared d (heldInReset d) :=
  ⟨rfl, rfl, rfl, rfl, rfl, rfl, rfl, rfl, rfl, rfl, rfl, rfl, rfl, fun _ => settle_restarted rfl rfl rfl rfl rfl (.inl rfl)⟩

/-- The device with the straps latched. -/
noncomputable def strapped (d : Dev) (straps : Straps) : Dev :=
  { d with boot := { d.boot with slotId := straps.slotId, bootMode := straps.bootMode } }

/-- A command of a pin with an effect that nothing follows. -/
theorem onPin_settled {i : Instr} {s : State} {f : Clock → Dev → Clock × Dev} {c : Clock} {d : Dev} (w : i.wellFormed = true)
    (effect : f s.clk (latch s) = (c, d)) (quiet : settle (latch s) d = d) :
    onPin i s f = .next { s with clk := c, dev := d } := by
  rw [onPin_next f w, effect, quiet]

/-- The clauses on a reset after which boot has begun, with what they say besides. -/
theorem Restarted.answers {o : Host.Outcome State Fault Refusal} {s : State} {d e : Dev} {P : State → Prop} (again : Restarted d e)
    (next : o = .next { s with clk := clearClock s.clk, dev := e }) (pages : d.pages = s.dev.pages) (mem : d.mem = s.dev.mem)
    (besides : P { s with clk := clearClock s.clk, dev := e }) :
    ∃ t, o = .next t ∧ t.dev.boot.held = false ∧ t.dev.boot.phase = 1 ∧
      t.clk = { Clock.reset with cal := s.clk.cal, calNs := s.clk.calNs, calValid := s.clk.calValid } ∧
      t.dev.pages = s.dev.pages.filter (fun p => p.2.durable) ∧
      t.dev.mem = s.dev.mem.filter (fun c => thas (s.dev.pages.filter (fun p => p.2.durable)) (c.1 / 65536)) ∧
      t.dev.regs = [] ∧ t.dev.ctxs = Dev.reset.ctxs ∧ t.dev.galleys = [] ∧ t.dev.cmds = [] ∧ t.dev.cores = [] ∧
      t.dev.cache = [] ∧ t.dev.dir = [] ∧ t.dev.errq = ErrQ.reset ∧ P t :=
  ⟨_, next, again.held, again.phase, rfl, pages ▸ again.pages, pages ▸ mem ▸ again.mem, again.regs, again.ctxs, again.galleys,
    again.cmds, again.cores, again.cache, again.dir, again.errq, besides⟩

/-- Settles O7: a device reset clears the device, and boot begins; nothing follows either. -/
theorem deviceReset : Obligations.DeviceReset := by
  unfold Obligations.DeviceReset
  refine ⟨?fall, ?rise, ?command, ?power⟩
  case fall =>
    intro s w held due
    change ∃ t, execResetNFall s = _ ∧ _
    have up : ¬((latch s).boot.held = true) := by rw [show (latch s).boot.held = false from held]; decide
    have released : Kept (latch s) (if (latch s).boot.tripped then emit (latch s) (.pin 1 true) else latch s) :=
      iteInduction (fun _ => ⟨rfl, rfl, rfl, rfl, rfl⟩) fun _ => ⟨rfl, rfl, rfl, rfl, rfl⟩
    have c := ((heldInReset_cleared _).of_kept (abandonFlash_kept _)).of_kept released
    exact ⟨_, onPin_settled w (if_neg up) (c.quiet _), rfl, rfl, rfl, c.pages, c.mem, c.regs, c.ctxs, c.galleys, c.cmds, c.cores,
      c.cache, c.dir, c.errq⟩
  case rise =>
    intro s straps w held due
    change ∃ t, execResetNRise straps s = _ ∧ _
    have again := startBoot_restarted (strapped (latch s) straps)
    exact again.answers (onPin_settled w (if_pos held) (again.quiet _)) rfl rfl ⟨again.slotId, again.bootMode⟩
  case command =>
    intro s w sv
    change ∃ t, execDeviceReset s = _ ∧ _
    have again := resetDevice_restarted s.clk (latch s)
    exact again.answers (onState_settled w sv.1 rfl (again.quiet _)) rfl rfl ⟨again.slotId, again.bootMode⟩
  case power =>
    intro s w sv flushing done
    change ∃ t, execPwrFailNHigh s = _ ∧ _
    have again := resetDevice_restarted s.clk { latch s with boot := { (latch s).boot with pwrLow := false } }
    have flushed : (!(latch s).boot.held) = true ∧ (latch s).boot.flushing = true ∧ (latch s).boot.flushDone = true :=
      ⟨by rw [show (latch s).boot.held = false from sv.1]; rfl, flushing, done⟩
    exact again.answers (onPin_settled w (if_pos flushed) (again.quiet _)) rfl rfl again.pwrLow

end Sys2Proof.Machine
end
